-- ==== Sys2Proof/Word.lean ====
section
/-! DEFINITION. Word types of the T960 model: the widths the manual gives its fields, and nothing else.
Bits are numbered from 0 at the least significant bit (spec/00_scope.md, "Numbers, units and bits"). -/

namespace Sys2Proof

/-- A byte of pool, host or scratch memory. -/
abbrev Byte := BitVec 8
/-- A 32-bit register or FP32 value. -/
abbrev W32 := BitVec 32
/-- A 64-bit field: fabric global addresses, host addresses, 64-bit registers. -/
abbrev W64 := BitVec 64
/-- A 64-byte coherence line or 64-byte unit, byte 0 in bits [7:0] (R5). -/
abbrev Line := BitVec 512
/-- A 64-byte descriptor (R433), byte 0 in bits [7:0]. -/
abbrev Desc := BitVec 512
/-- An endpoint ID (R346, 14 bits). -/
abbrev Ep := BitVec 14
/-- A tenant number (R346, 10 bits). -/
abbrev Tenant := BitVec 10
/-- An extent ID (R272, 13 bits). -/
abbrev ExtId := BitVec 13
/-- A queue pair number (R430). -/
abbrev Qp := Fin 4096
/-- A cell: region in [9:7], block in [6:4], cell in [3:0] (R221). -/
abbrev CellId := Fin 1024
/-- A block: region in [5:3], block in [2:0] (R221). -/
abbrev BlockId := Fin 64
/-- A region, and the Shelf zone above it (R241). -/
abbrev RegionId := Fin 8
/-- A link port: 0 to 31 are TFL0 to TFL31, 32 is PL0, 33 is PL1 (R221 kinds 0x4 and 0x5). -/
abbrev LinkPort := Fin 34
/-- A Phosha Link port: PL0 or PL1. -/
abbrev PlPort := Fin 2
/-- A Deep stack. -/
abbrev StackId := Fin 12
/-- A memory channel: 0 to 383 are Deep pseudo-channels 32 × stack + pc, 384 to 639 are Shelf channels (R227, R228). -/
abbrev MemCh := Fin 640
/-- A home agent slice (R271). -/
abbrev Slice := Fin 6
/-- A completion or refusal status (R276, R132, R151, R451 ...). -/
abbrev Status := BitVec 8
/-- A 48-bit check sequence number (R209). -/
abbrev Csn := BitVec 48

/-- A sparse map: pairs of key and value, keys strictly rising, no entry equal to what an unlisted key reads as. It holds
memories, instanced registers, counters and tables as plain data; its operations are in Machine/Sparse.lean. -/
abbrev SMap (α : Type) := List (Nat × α)

end Sys2Proof
end

