-- ==== Sys2Proof/Syntax.lean ====
section
/-! DEFINITION. The commands of the T960 block: one constructor of Instr per row of spec/opcode_table.json, in the table's order.
The table gives its rows no operands; each constructor's operands name what the row's rule acts on (a port, a cell, a queue
pair, a line), what a register write carries, and what comes from outside the device or from a choice the manual leaves to
the device (a sensor reading, a reply, the bytes a host returns, a hidden draw). -/

namespace Sys2Proof

/-- The path of a register access (R613): a port's register window, or the management port. -/
inductive RegPath where
  | window (p : PlPort)
  | mgmt
deriving DecidableEq, Repr

/-- What made a unit fail (R52, and the causes R210 excludes from UNIT_FAULT). -/
inductive FaultCause where
  | scratchEcc    -- uncorrectable error detected in scratch
  | regParity     -- parity error in a register file (R58)
  | rbufEcc       -- uncorrectable error detected in a region buffer
  | voteMinority  -- minority of a three-way vote (R202)
  | threeWay      -- all three results differ (R202)
  | testFailed    -- known-answer, logic or in-service test
  | engine        -- DMA engine, atomic unit, TLB, arbiter, ring stop or ring
deriving DecidableEq, Repr

/-- One arbiter of R41, or one memory scheduler of R229. -/
inductive ArbId where
  | scratch (c : CellId) (bank : Fin 4)
  | blockPort (b : BlockId)
  | regionEntry (r : RegionId)
  | regionBuf (r : RegionId)
  | chipEntry
  | mem (ch : MemCh)
  | fetch
deriving DecidableEq, Repr

/-- The packet that a requester of a ring entry would put on the ring: its slot, the stop it goes to, its VC (R381 to R383). -/
structure RingWant where
  slot : Nat
  dst : Nat
  vc : Fin 4
deriving DecidableEq, Repr

/-- What an arbiter decides from (R42 to R46; for a memory scheduler R230 to R232 and the draws of R244). -/
structure ArbIn where
  /-- requester slots (memory scheduler: banks whose candidate DRAM timing permits) asserted at the start of the last beat -/
  asserted : List Nat
  /-- slots whose requester has withdrawn its request for its own reasons since the last decision (R44) -/
  withdrawn : List Nat
  /-- ring entry: the packets of the asserted slots -/
  wants : List RingWant
  /-- ring entry: stops whose receive queue of a VC has freed an entry since the last decision (R383) -/
  freed : List (Nat × Fin 4)
  /-- memory scheduler: arrival numbers of the requests older than AGE_LIMIT (R232) -/
  aged : List Nat
  /-- memory scheduler: the outcomes of the four draws of R244 for rows r−2, r−1, r+1, r+2 -/
  draws : List Bool
deriving DecidableEq, Repr

/-- An error in an on-chip table that a read found since the last boundary: a corrected directory error (R311), an uncorrectable route table
entry (R386), an uncorrectable chip TLB entry met by the engine of a block or by the queue engine (R466). -/
inductive Upset where
  | dirCorrected
  | route (copy : Bool) (ep : Ep)
  | chipTlb (user : Option BlockId) (asid : BitVec 20) (va : W64)
deriving DecidableEq, Repr

/-- What a boundary takes from the world: sensor readings at its step 8 (R240), signed °C, one per Deep stack and one per Shelf zone (a
shorter list leaves the last reading standing), and the errors found in on-chip tables during the tick that ends. -/
structure BoundaryIn where
  stackTemps : List (BitVec 8)
  zoneTemps : List (BitVec 8)
  upsets : List Upset
deriving DecidableEq, Repr

/-- A chip fault (R52): the unit its report names, or an uncorrectable error that has a report of its own: in a ring or the core, by stop and
VC (R413), or in the directory entry of a line, by the agent involved (R333). -/
inductive ChipFault where
  | unit (u : BitVec 16)
  | ring (stop : Nat) (vc : Fin 4)
  | directory (line : BitVec 34) (ep : Ep)
deriving DecidableEq, Repr

/-- Bit flips that DRAM shows in one 72-bit code word (R249): the word's index in the unit read (256 bytes in Deep, 128 in
Shelf), the flipped data bits, the flipped check bits. -/
structure EccFlip where
  word : Fin 32
  data : W64
  check : BitVec 8
deriving DecidableEq, Repr

/-- Bytes that memory outside this node returned to the device (host operands, other nodes' pool, agents' snoop data), and the
error status such an access met, if any (R449, R474); and the bit flips that DRAM shows in pool lines the command reads, by memory line,
the words of a line numbered 0 to 7 (R249, R250). -/
structure OutsideIo where
  data : List (Nat × Byte)
  err : Option Status
  flips : List (Nat × List EccFlip)
deriving DecidableEq, Repr

/-- How the read of a ring entry in host memory ended (R432 cause 3, R449). -/
inductive RingRead where
  | data (d : Desc)
  | poison
  | hostErr
deriving DecidableEq, Repr

/-- An operation of the block atomic unit (R94). -/
inductive AtomOp where
  | add | smin | smax | umin | umax | swap | cas
deriving DecidableEq, Repr

/-- The element type of an atomic operation (R94). -/
inductive AtomTy where
  | int32 | int64 | fp32 | bf16
deriving DecidableEq, Repr

/-- One element of an atomic request: byte offset in the line, operand, and the value compared with (CAS). -/
structure AtomElem where
  off : BitVec 6
  operand : W64
  compare : W64
deriving DecidableEq, Repr

/-- A request to a block atomic unit (R94): up to 16 operations of one kind on one line. -/
structure AtomReq where
  line : W64
  op : AtomOp
  ty : AtomTy
  elems : List AtomElem
deriving DecidableEq, Repr

/-- Who sent a request to the atomic unit: a cell running a tile, or a home agent slice for a queued request on a line. -/
inductive AtomSender where
  | cell (c : CellId)
  | home (ppaLine : BitVec 34)
deriving DecidableEq, Repr

/-- A packet of R346: the header fields and the payload as 16-byte units. -/
structure Packet where
  dst : Ep
  gen : Bool
  mcast : Bool
  src : Ep
  enc : Bool
  keyEpoch : Bool
  opc : BitVec 8
  status : Status
  tag : BitVec 12
  last : Bool
  far : Bool
  unk : Bool
  cls : BitVec 2
  linkEnc : Bool
  linkSlot : Bool
  tenant : Tenant
  xfer : BitVec 16
  pktCount : BitVec 16
  addr : W64
  aux : W64
  payload : List (BitVec 128)
deriving DecidableEq, Repr

/-- A unit access that reaches a memory controller (R229, R235). -/
inductive MemReq where
  | read
  | write (enables : BitVec 64) (data : Line)
deriving DecidableEq, Repr

/-- What a zero-fill covers (R286, R281): a SCRUBBING extent, or one SCRUBBING granule that belongs to none. -/
inductive FillTarget where
  | extent (e : ExtId)
  | granule (g : Nat)
deriving DecidableEq, Repr

/-- The fields of EXT_GRANT (R278). -/
structure GrantArgs where
  tenant : Tenant
  kind : BitVec 8
  place : BitVec 8
  granules : W32
  reserve : W32
  discard : Bool
  baseSlot : BitVec 16
  notifyEp : Ep
  notifyAddr : W64
deriving DecidableEq, Repr

/-- Whose descriptor is fetched or whose record is written: a queue pair, or a port's admin queue (R434, R428). -/
inductive QueueId where
  | qp (q : Qp)
  | admin (p : PlPort)
deriving DecidableEq, Repr

/-- An engine that acknowledges an invalidation (R475): the queue engine's TLB or a block DMA engine. -/
inductive InvalEngine where
  | queue
  | block (b : BlockId)
deriving DecidableEq, Repr

/-- The tables RTR_TABLE_READ can name (R414): route copy 0, route copy 1, multicast, policers, shapers. -/
inductive RtrTable where
  | route0 | route1 | mcast | policer | shaper
deriving DecidableEq, Repr

/-- How the dump ended (R589 step 4). -/
inductive DumpOutcome where
  | ready | partialDump | failed
deriving DecidableEq, Repr

/-- A reference clock or a feed: A or B. -/
inductive Side where
  | a | b
deriving DecidableEq, Repr

/-- The management lanes' modes (R605). -/
inductive MgmtMode where
  | baseR10G | baseX1000
deriving DecidableEq, Repr

/-- Which image set the ROM checked (R539, R538). -/
inductive SetSource where
  | bank0 | bank1 | recovery | downloaded
deriving DecidableEq, Repr

/-- A result of one known-answer test (R566, R567): the unit (R221) and the test number of R592 code 0x01. -/
structure TestFail where
  unit : BitVec 16
  test : Nat
deriving DecidableEq, Repr

/-- Pins as a boundary-scan sample shows them (R586), in the order of R598's low-speed field. -/
abbrev PinSample := BitVec 29

/-- A DBG_ACCESS request (R588). -/
inductive DbgReq where
  | read (offset : BitVec 24)
  | write (offset : BitVec 24) (value : W64)
deriving DecidableEq, Repr

/-- A cell whose scratch a figure reads, and the words that its ECC corrected in those reads (R89). -/
structure CellRead where
  cell : CellId
  ce : Nat
deriving DecidableEq, Repr

/-- A number of bytes or of a chunk, and the words that the region buffer's ECC corrected in its reads (R98, R172). -/
structure RbufRead where
  n : Nat
  ce : Nat
deriving DecidableEq, Repr

/-- A training block as one lane brings it in, and by how many nanoseconds the lane lags the others (R338). -/
structure LaneBlock where
  lane : Fin 8
  line : Line
  skewNs : Nat
deriving DecidableEq, Repr

/-- The commands of the block. -/
inductive Instr where
  -- Tide tick and containment (spec/02)
  | tideTickBoundary (inp : BoundaryIn)
  | tidePeriodWrite (via : RegPath) (n : BitVec 4)
  | tideModeWrite (via : RegPath) (m : BitVec 2)
  | tideCountLoRead (via : RegPath)
  | tideCountLoadWrite (via : RegPath) (v : W64)
  | tideInPulse (widthNs : Nat) (raw : BitVec 16) (sinceBoundary : Nat) (sinceEdge : Nat)
  | tideLocked
  | tideHoldover
  | arbiterDecision (a : ArbId) (inp : ArbIn)
  | arbBackoffExpire (a : ArbId) (slot : Nat)
  | cellFence (c : CellId) (cause : FaultCause)
  | blockOffline (b : BlockId) (cause : FaultCause)
  | regionOffline (r : RegionId) (cause : FaultCause)
  | nodeFatal (fault : ChipFault)
  | dumpWriteDone (outcome : DumpOutcome) (bytes : Nat)
  -- Reels and cells (spec/03, 04)
  | reelLoad (p : PlPort) (image : List Byte)
  | mgmtReelLoad (t : Tenant) (addr : W64) (bytes : W32)
  | reelUnload (p : PlPort)
  | mgmtReelUnload (handle : BitVec 16)
  | runReel (q : Qp) (h : Nat) (args : List Byte)
  | runAdmit (run : Nat) (cells : List CellId)
  | tileStart (run : Nat) (lc : Nat) (drawn : Bool) (checkCell : Option CellId)
  | figureDot (c : CellId) (ce : Nat)
  | figureEwise (c : CellId) (ce : Nat)
  | figureLreduce (c : CellRead)
  | figureConvert (c : CellId) (ce : Nat)
  | figureGather (c : CellId) (ce : Nat)
  | figureAtomic (c : CellId) (ce : Nat)
  | figureSkip (c : CellRead)
  | tileFinish (c : CellId)
  | streamCopyDone (run : Nat) (copy : Nat) (io : OutsideIo) (ce : Nat)
  | dmaWriteCommit (run : Nat) (copy : Nat) (io : OutsideIo)
  | atomicUnitRequest (b : BlockId) (sender : AtomSender) (r : AtomReq) (residueFails : Nat)
  | atomicRunCommit (b : BlockId)
  -- Built-in operations (spec/05)
  | fill (q : Qp) (h : Nat) (b : BlockId) (io : OutsideIo)
  | copy (q : Qp) (h : Nat) (b : BlockId) (io : OutsideIo)
  | compare (q : Qp) (h : Nat) (b : BlockId) (io : OutsideIo)
  | reduce (q : Qp) (h : Nat) (b : BlockId) (io : OutsideIo)
  | reduceScatter (q : Qp) (h : Nat)
  | rsArmed (op : Nat)
  | rsContribution (op : Nat) (addr : W64) (bytes : RbufRead)
  | rsChunkCommit (op : Nat) (chunk : RbufRead)
  | rsPeerTimeout (op : Nat)
  | allGather (q : Qp) (h : Nat) (b : BlockId) (io : OutsideIo)
  | bcast (q : Qp) (h : Nat) (b : BlockId) (io : OutsideIo)
  | optStep (q : Qp) (h : Nat) (b : BlockId) (io : OutsideIo)
  | attend (q : Qp) (h : Nat) (b : BlockId) (io : OutsideIo)
  | gatherBag (q : Qp) (h : Nat) (b : BlockId) (io : OutsideIo)
  -- Result checking (spec/06)
  | checkFractionWrite (via : RegPath) (v : BitVec 3)
  | checkFractionApply
  | checkBlockReplace
  | checkExecuteDone (chk : Nat) (flip : BitVec 128) (third : Option CellId)
  | thirdExecuteDone (chk : Nat) (flip : BitVec 128)
  | residueFailLane (c : CellId) (checkCell : CellId)
  | verdictConfirm (op : Nat)
  | verdictRetract (op : Nat)
  | verdictLate (op : Nat)
  | verdictFatal (op : Nat)
  | reportRead (first : W32) (count : BitVec 16)
  -- Memory controllers (spec/07)
  | memCtrlAccept (g : Nat) (off : BitVec 26) (r : MemReq)
  | memCtrlReadData (ch : MemCh) (seq : Nat) (flips : List EccFlip)
  | mergeReadDone (ch : MemCh) (seq : Nat) (flips : List EccFlip)
  | refreshIssue (ch : MemCh)
  | neighborRefresh (ch : MemCh)
  | shelfThermSample (z : RegionId) (temp : BitVec 8)
  | retrainPcDone (st : StackId) (ok : Bool)
  | scrub (q : Qp) (h : Nat)
  | scrubDone (op : Nat)
  -- Extents and snapshots (spec/08)
  | extGrant (a : GrantArgs)
  | extSetRights (e : ExtId) (entries : List W32)
  | extRevoke (e : ExtId)
  | extQuery (e : ExtId)
  | extentChangeApply (sl : Slice) (e : ExtId)
  | extentDrainDone (e : ExtId)
  | zeroFillCommit (t : FillTarget)
  | snapOpen (q : Qp) (h : Nat)
  | snapClose (q : Qp) (h : Nat)
  | snapPublish (q : Qp) (h : Nat)
  | snapPublicationPoint (e : ExtId)
  | snapCowStart (e : ExtId) (leaf : Nat)
  | snapCowDone (e : ExtId) (leaf : Nat)
  -- Coherence (spec/09)
  | cohAgentAdd (ep : Ep)
  | cohAgentRemove (ep : Ep)
  | cohDeclareDead (ep : Ep)
  | cohAgentQuery (ep : Ep)
  | deadAgentSweepDone (ep : Ep)
  | rdShared (ix : Nat)
  | rdOwn (ix : Nat)
  | claim (ix : Nat)
  | rdOnce (ix : Nat)
  | wrLine (ix : Nat)
  | atomic (ix : Nat)
  | wbDirty (ix : Nat)
  | evictClean (ix : Nat)
  | homeOrder (line : BitVec 34)
  | snpRspI (ix : Nat)
  | snpRspS (ix : Nat)
  | snpRspDataI (ix : Nat)
  | snpRspDataS (ix : Nat)
  | snpRspDataM (ix : Nat)
  | snpRspWb (ix : Nat)
  | stashAccept (ix : Nat)
  | stashDecline (ix : Nat)
  | grantAck (ix : Nat)
  | poisonRecovery (line : BitVec 34)
  | snoopTimeout (line : BitVec 34) (ep : Ep)
  -- Fabric link (spec/10)
  | fecCodewordReceive (p : LinkPort) (symErrs : List Nat)
  | uncorrBurst (p : LinkPort)
  | laneDegraded (p : LinkPort) (lane : Fin 8)
  | flitReceive (p : LinkPort) (flit : BitVec 2048) (corrupt : Bool)
  | flitTransmit (p : LinkPort) (vc : Option (Fin 4))
  | nakRetryTimeout (p : LinkPort)
  | replayTimeout (p : LinkPort)
  | replayMaxExceeded (p : LinkPort)
  | trainingBlockReceive (p : LinkPort) (block : LaneBlock) (goodLanes : BitVec 8) (rttNs : Nat)
  | equalizeTimeout (p : LinkPort)
  | lockTimeout (p : LinkPort)
  | paramTimeout (p : LinkPort)
  | widthReq (p : LinkPort) (width : BitVec 2) (lanes : BitVec 8)
  | widthAck (p : LinkPort) (width : BitVec 2) (lanes : BitVec 8)
  | retrainReq (p : LinkPort) (cause : BitVec 8)
  | widthChangeTimeout (p : LinkPort)
  | linkEnableWrite (via : RegPath) (p : LinkPort) (v : Bool)
  | linkRetrainWrite (via : RegPath) (p : LinkPort)
  | widthMaxWrite (via : RegPath) (p : LinkPort) (v : BitVec 2)
  | linkLoss (p : LinkPort)
  -- Router (spec/11)
  | packetIngress (p : LinkPort) (vc : Fin 4)
  | packetEgress (p : LinkPort)
  | memRd (ix : Nat) (io : OutsideIo)
  | memWr (ix : Nat) (io : OutsideIo)
  | rdData (ix : Nat)
  | wrDone (ix : Nat)
  | doorbell (ix : Nat)
  | transferComplete (src : Ep) (xfer : BitVec 16)
  | xferTimeout (src : Ep) (xfer : BitVec 16)
  | e2eTimeout (req : Nat)
  | rtrRouteWrite (first : BitVec 16) (entries : List W32)
  | rtrRouteSwitch
  | routeSwitchApply
  | routeDrainClose
  | rtrMcastWrite (group : BitVec 16) (entry : BitVec 48)
  | mcastWriteApply (group : BitVec 12)
  | rtrPolicerWrite (t : Tenant) (cls : BitVec 2) (entry : BitVec 128)
  | policerWriteApply (t : Tenant) (cls : BitVec 2)
  | rtrShaperWrite (sh : BitVec 16) (entry : BitVec 128)
  | shaperWriteApply (sh : BitVec 13)
  | rtrTableRead (table : RtrTable) (index : BitVec 16) (count : BitVec 16)
  -- Phosha Link and queues (spec/12)
  | plkGrant (port : BitVec 8) (t : Tenant) (ep : Ep) (mask : Ep)
  | plkTakeover
  | takeoverApply
  | adminQueueEnable (p : PlPort) (v : Bool)
  | adminDoorbell (p : PlPort) (v : W64)
  | downloadPl0Enable (set : List Byte)
  | qpCreate (p : PlPort)
  | qpDestroy (p : PlPort)
  | qpFree (q : Qp)
  | abort (p : PlPort)
  | fence (q : Qp) (h : Nat)
  | descriptorFetch (t : QueueId) (r : RingRead)
  | completionWrite (t : QueueId)
  | coalTimeout (q : Qp)
  -- Translation (spec/13)
  | asCreate (p : PlPort)
  | asSetRoot (p : PlPort)
  | asDestroy (p : PlPort)
  | inval (p : PlPort)
  | invalAck (e : InvalEngine)
  | faultRingSet (p : PlPort)
  | faultResp (p : PlPort)
  | walkReadReturn (w : Nat) (entry : W64) (err : Bool)
  | faultRecordWrite (p : PlPort)
  | faultTimeout (id : BitVec 16)
  | faultHeadWrite (p : PlPort) (v : BitVec 12)
  -- Security (spec/14)
  | mboxGo (p : PlPort) (msg : List Byte)
  | mgmtDatagram (src : W64) (msgNo : W32) (frag : BitVec 16) (count : BitVec 16) (bytes : List Byte)
  | mgmtFragmentTimeout (src : W64) (msgNo : W32)
  | getCerts (m : Nat)
  | attest (m : Nat)
  | sessionOpen (m : Nat)
  | sessionCert (m : Nat)
  | sessionFinish (m : Nat)
  | sessionClose (m : Nat)
  | sessionIdleTimeout (sess : W32)
  | operatorRootSet (m : Nat)
  | tenantBind (m : Nat)
  | tenantRemove (m : Nat)
  | teardownFence (t : Tenant)
  | teardownComplete (t : Tenant)
  | keyInstall (m : Nat)
  | keySwitch (m : Nat)
  | keySwitchApply (t : Tenant)
  | keyConfirm (m : Nat)
  | keyRetire (t : Tenant)
  | keyDestroy (m : Nat)
  | encMode (m : Nat)
  | encModeApply (t : Tenant)
  | reelKeyEnroll (m : Nat)
  | extentSeal (m : Nat)
  | extentUnseal (m : Nat)
  | linkKey (m : Nat)
  | linkKeyRetire (p : PlPort)
  | telemetryRead (m : Nat)
  | fwUpdate (m : Nat)
  | debugUnlock (m : Nat)
  | fuseProgram (m : Nat)
  | mgmt (m : Nat)
  -- Reset, boot, power (spec/15)
  | powerGood (referenceRuns : Bool)
  | resetNAssert
  | resetNRelease
  | resetComplete (boot : BitVec 2) (clk : BitVec 2)
  | logicLeaveReset
  | romCheckDone (src : SetSource)
  | downloadMgmtDatagram (offset : W32) (bytes : List Byte)
  | deepTrainDone (temps : List (BitVec 8)) (failed : List (Nat × Nat)) (reducedFails : List Nat)
  | katDone (fails : List TestFail)
  | fillDone
  | bootWatchdog
  | refclkLost (r : Side)
  | refclkBothLostTimeout
  | feedLost (f : Side)
  | feedReturn (f : Side)
  | proveHandover
  | handoverTimeout
  | leaseRenew
  | leaseLapse
  | leaseRevoke
  | powerSample (isStack : Bool) (n : Nat) (estimate : Nat)
  | blockThermSample (b : BlockId) (temp : BitVec 8)
  | ceilingWrite (via : RegPath) (isStack : Bool) (n : Nat) (v : BitVec 10)
  | shutdownRequest
  | shutdownStart
  | shutdownDrainEnd
  | lbistDone (failMask : BitVec 128)
  -- Test, debug, telemetry (spec/16)
  | isvTestDone (unit : BitVec 16) (test : Nat) (pass : Bool)
  | healthRead
  | cntReadClear (offset : W32) (count : BitVec 16)
  | traceCtrlWrite (via : RegPath) (slot : Fin 16) (v : W32)
  | traceSample (c : CellId) (clock : BitVec 16) (stall : BitVec 8)
  | traceWrite (slot : Fin 16)
  | traceHeadWrite (via : RegPath) (slot : Fin 16) (v : BitVec 20)
  | bypass
  | idcode
  | samplePreload (pins : PinSample)
  | extest
  | clamp
  | highz
  | dbgAccess (r : DbgReq)
  | dbgHalt (b : BlockId) (halt : Bool)
  | dumpRead (offset : W32) (length : W32)
  | dumpClear
  | regRead (offset : W32) (count : BitVec 16)
  | regWrite (offset : W32) (count : BitVec 16) (words : List W32)
  | regWr (via : RegPath) (offset : BitVec 24) (eight : Bool) (v : W64)
  | mgmtLinkModeTimeout
  | refclkReturn (r : Side)
  | handoverComplete
  | codewordLockLost (p : LinkPort)
  | mgmtBlockLock (m : MgmtMode)
  | mgmtSignalLoss
  | shelfCalibrationDone
  | footprintCopyDone (chk : Nat)
deriving DecidableEq, Repr

end Sys2Proof
end

