-- ==== Sys2Proof/Config.lean ====
section
/-! DEFINITION. What one implementation fixes, and the free values the manual leaves open. A fused value or a free value is an
opaque constant: nothing in Lean can evaluate it, so a theorem holds whatever it is. -/

namespace Sys2Proof.Config

/-- STEPPING_MAJOR and STEPPING_MINOR of the manual's stepping B0 (R1, R4). -/
def steppingMajor : BitVec 4 := 1#4
def steppingMinor : BitVec 4 := 0#4

/-- The fused ENVELOPE is AQ (R4). -/
opaque aq : Bool

/-- The fused device serial number (R378). -/
opaque deviceSerial : BitVec 59

/-- Dalpevar's fused JTAG manufacturer identity (R587). -/
opaque jtagManufacturer : BitVec 11

/-- The bytes that the BULK queue of an external port holds (R402), which the manual does not give. -/
opaque egressRoom : Nat

/-- TEMP of the n-th report's sensor sample, in 1/16 °C (R219): a free value. -/
opaque sampleTemp : Nat → BitVec 16

/-- VOLT of the n-th report's sensor sample, in mV (R219): a free value. -/
opaque sampleVolt : Nat → BitVec 16

/-- The row scramble that firmware loads from each stack's identification data (R244): a permutation of rows the manual does
not give, by channel and row: a free value. -/
opaque rowScramble : Nat → Nat → Nat

/-- A byte of a section of the fatal dump (R590), whose layout the manual does not give: by dump and offset: a free value. -/
opaque dumpByte : Nat → Nat → Byte

/-- The bits of exp2, log2, rcp and rsqrt (functions 0 to 3) for operands that R83 does not list (R618): a free value within the bounds of R82,
which its user holds it to. -/
opaque trans : Nat → W32 → W32

/-- What a vector register's lane holds at the start of a tile (R113), by tile start and register × 128 + lane: a free value. -/
opaque freeReg : Nat → Nat → W32

/-- What a byte of a scale register holds from the end of a tile until a load (R58, R113), by draw and register × 64 + byte: a free value. -/
opaque freeScale : Nat → Nat → Byte

/-- The base index of an output stream (R66), by reel and stream (256 for an output that is in no stream's buffer): "the reel's
plan" gives it, and the image of R104 has no field for it: a free value. -/
opaque srBase : Nat → Nat → Nat

/-- The coefficient request and the response to the peer's in a training block (R361, R362), whose coding the manual leaves to the
transceivers, by draw: a free value. -/
opaque eqCoeff : Nat → BitVec 32

/-- What a figure takes as operand B where B_MODE says it has none, by repetition and lane: a free value. -/
opaque noOperand : Nat → Nat → W32

/-- What the bytes of an operation's destination hold where it overlaps an operand that the operation reads and the manual gives no order
(R164), by draw and byte: a free value. -/
opaque overlapByte : Nat → Nat → Byte

/-- The order in which a built-in reel adds up a list (R188), which the manual does not give: by page shift, head-dimension code and formats,
the list's length and the step, which value is taken next: a free value. -/
opaque reelOrder : Nat → Nat → Nat → Nat

/-- How many lanes a built-in reel spreads a dot product over (R188), by the same key and length: a free value. -/
opaque reelLanes : Nat → Nat → Nat

/-- The generator's draw for a tile of a built-in operation (R196), by operation and tile: a free value. -/
opaque checkDraw : Nat → Nat → Bool

/-- The built-in reels that firmware loads at boot (R130): their images. -/
opaque builtinReels : List (List Byte)

/-- Dalpevar's reel-signing key (R106). -/
opaque builtinKey : List Byte

/-- The seed of the stochastic draws of GATHER_BAG, whose descriptor has no SEED field (R148, R190): a free value. -/
opaque bagSeed : W64

/-- What an output element of GATHER_BAG holds in mode MAXIMUM when every index of its bag is out of range (R191), by element: a free
value. -/
opaque bagNone : Nat → W32

/-- The operation value of a COMPARE or GATHER_BAG that ends early (R150), by draw: a free value. -/
opaque earlyValue : Nat → W64

/-- OLDEST of REPORT_READ when the report ring is empty (R218): a free value. -/
opaque emptyOldest : W32

/-! The cryptographic functions that the manual names and does not define: free values of their inputs. -/

/-- AES-256-GCM encryption (R450, R493, R504): key, IV, additional authenticated data, plaintext; the ciphertext, then the 16-byte
tag. -/
opaque gcmSeal : List Byte → BitVec 96 → List Byte → List Byte → List Byte

/-- AES-256-GCM decryption: key, IV, additional authenticated data, ciphertext and tag; the plaintext, where the tag is good. -/
opaque gcmOpen : List Byte → BitVec 96 → List Byte → List Byte → Option (List Byte)

/-- SHA3-512 (R485, R491, R492): 64 bytes. -/
opaque sha3 : List Byte → List Byte

/-- ML-DSA-87 verification (R492): public key, message, signature. -/
opaque mldsaVerify : List Byte → List Byte → List Byte → Bool

/-- ML-DSA-87 signature by the attestation key, which follows from the measurements and the security version (R485): those, and the
message; 4,627 bytes. -/
opaque attestSign : List (List Byte) → List Byte → List Byte

/-- ML-KEM-1024 encapsulation (R492) with the n-th draw: the ciphertext of 1,568 bytes and the shared secret. -/
opaque mlkemEncaps : Nat → List Byte → List Byte × List Byte

/-- 32 bytes from Headland's entropy source, by draw (R485). -/
opaque entropy : Nat → List Byte

/-- The certificates that GET_CERTS returns (R491), by index and by the measurements. -/
opaque certificate : Nat → List (List Byte) → List Byte

/-- The ML-DSA-87 public key a DER-encoded certificate carries, where it is one. -/
opaque certKey : List Byte → Option (List Byte)

/-- A certificate's signature verifies under a public key. -/
opaque certSigned : List Byte → List Byte → Bool

/-- Dalpevar's firmware key (R486, R538), and the minimum security version that the fuses hold (R486), whose word the manual does not
name: a free value of the fuse words. -/
opaque firmwareKey : List Byte
opaque minSvn : List (Nat × BitVec 32) → Nat

/-- DETAIL1 of a KAT_FAIL report (R592), the failing address or signature, by draw: a free value. -/
opaque katDetail : Nat → BitVec 64

/-- Readings of PLT_PWR_READ (R562), PACKAGE_W and FEED_A_W, by draw: free values. -/
opaque packageW : Nat → BitVec 11
opaque feedAW : Nat → BitVec 11

/-- The bytes of a loss marker that say nothing of the loss (R583, R585), by draw: a free value. -/
opaque lossBytes : Nat → BitVec 48

/-- Dalpevar's public key for debug tokens and fuse commands (R486). -/
opaque dalpevarKey : List Byte

end Sys2Proof.Config
end

