-- ==== Sys2Proof/Machine/Flags.lean ====
section
/-! DEFINITION. The arithmetic status word (R79) and the arithmetic control byte (R78). -/

namespace Sys2Proof.Machine

/-- An arithmetic status word, or the events of one operation. -/
abbrev Status16 := BitVec 16

def fNone : Status16 := 0x0000#16
def fInvalid : Status16 := 0x0001#16
def fNanIn : Status16 := 0x0002#16
def fOvfInf : Status16 := 0x0004#16
def fOvfSat : Status16 := 0x0008#16
def fUnderflow : Status16 := 0x0010#16
def fMxNan : Status16 := 0x0020#16
def fIntSat : Status16 := 0x0040#16
def fIntWrap : Status16 := 0x0080#16
def fDivZero : Status16 := 0x0100#16

/-- An event that happens under a condition. -/
def flagIf (c : Bool) (f : Status16) : Status16 := if c then f else fNone

/-- ARITH.RND: stochastic rounding on down-conversion. -/
def arithRnd (a : BitVec 8) : Bool := a.getLsbD 0
/-- ARITH.SAT: saturate finite overflow on down-conversion. -/
def arithSat (a : BitVec 8) : Bool := a.getLsbD 1
/-- ARITH.MX_SCALE: NOSAT scale choice. -/
def arithNosat (a : BitVec 8) : Bool := a.getLsbD 2
/-- ARITH.COMP: compensated accumulation. -/
def arithComp (a : BitVec 8) : Bool := a.getLsbD 3
/-- ARITH.INT_WRAP: integer results wrap. -/
def arithWrap (a : BitVec 8) : Bool := a.getLsbD 4
/-- The reserved bits of ARITH are 0. -/
def arithOk (a : BitVec 8) : Bool := a.extractLsb' 5 3 == 0#3

end Sys2Proof.Machine
end

