-- ==== Sys2Proof/Machine/Sparse.lean ====
section
/-! DEFINITION. Sparse maps and byte strings: the one place where canonical key lists are read and written, and where byte
order is decided (R5: little-endian). -/

namespace Sys2Proof.Machine

/-- The value listed at key k, if any. -/
def tget {α : Type} : SMap α → Nat → Option α
  | [], _ => none
  | (j, v) :: m, k => if j = k then some v else if k < j then none else tget m k

/-- List v at key k, in order, replacing what stood there. -/
def tput {α : Type} : SMap α → Nat → α → SMap α
  | [], k, v => [(k, v)]
  | (j, w) :: m, k, v =>
    if k < j then (k, v) :: (j, w) :: m
    else if j = k then (k, v) :: m
    else (j, w) :: tput m k v

/-- Remove the entry at key k. -/
def tdel {α : Type} (m : SMap α) (k : Nat) : SMap α := m.filter (fun e => e.1 != k)

/-- The value at key k, where an unlisted key reads as d. -/
def mget {α : Type} (d : α) (m : SMap α) (k : Nat) : α := (tget m k).getD d

/-- Write v at key k; the value an unlisted key reads as removes the entry. -/
def mset {α : Type} [DecidableEq α] (d : α) (m : SMap α) (k : Nat) (v : α) : SMap α :=
  if v = d then tdel m k else tput m k v

/-- Update the value at key k. -/
def mmod {α : Type} [DecidableEq α] (d : α) (m : SMap α) (k : Nat) (f : α → α) : SMap α :=
  mset d m k (f (mget d m k))

/-- Update the entry at key k, if it is listed. -/
def tmod {α : Type} (m : SMap α) (k : Nat) (f : α → α) : SMap α :=
  m.map (fun e => if e.1 = k then (e.1, f e.2) else e)

/-- Apply f to every listed value. -/
def tmap {α : Type} (m : SMap α) (f : Nat → α → α) : SMap α := m.map (fun e => (e.1, f e.1 e.2))

/-- The listed values. -/
def tvals {α : Type} (m : SMap α) : List α := m.map Prod.snd

/-- Keys strictly rising. -/
def keysRise {α : Type} : SMap α → Bool
  | [] => true
  | [_] => true
  | (j, _) :: (k, w) :: m => decide (j < k) && keysRise ((k, w) :: m)

/-- The canonical form: keys strictly rising and no entry equal to what an unlisted key reads as. -/
def smapWf {α : Type} [DecidableEq α] (d : α) (m : SMap α) : Bool :=
  keysRise m && m.all (fun e => decide (e.2 ≠ d))

/-- The first key from n on that is not listed, looking at most fuel keys ahead. -/
def freeKey {α : Type} (m : SMap α) : Nat → Nat → Nat
  | 0, n => n
  | fuel + 1, n => if (tget m n).isSome then freeKey m fuel (n + 1) else n

/-! Byte strings. -/

/-- Byte i of a value, byte 0 in bits [7:0] (R5). -/
def byteOf {w : Nat} (v : BitVec w) (i : Nat) : Byte := v.extractLsb' (8 * i) 8

/-- The first n bytes of a value, byte 0 first. -/
def bytesOf {w : Nat} (v : BitVec w) (n : Nat) : List Byte := (List.range n).map (byteOf v)

/-- The number that bytes spell, byte 0 least significant (R5). -/
def leNat : List Byte → Nat
  | [] => 0
  | b :: bs => b.toNat + 256 * leNat bs

/-- n bytes of a natural number, least significant first. -/
def natBytes : Nat → Nat → List Byte
  | 0, _ => []
  | n + 1, v => BitVec.ofNat 8 v :: natBytes n (v / 256)

/-- The value of n bytes at offset off of a byte string; bytes past its end count as 0. -/
def fieldAt (bs : List Byte) (off n : Nat) : Nat := leNat ((bs.drop off).take n)

/-- The field of n bytes at byte offset off of a 64-byte structure. -/
def descField (d : Desc) (off n : Nat) : Nat := (d.extractLsb' (8 * off) (8 * n)).toNat

/-- Bits [hi:lo] of a number. -/
def bitsOf (v hi lo : Nat) : Nat := v / 2 ^ lo % 2 ^ (hi + 1 - lo)

/-- Write bytes into a byte map at ascending addresses. -/
def putBytes (m : SMap Byte) (a : Nat) : List Byte → SMap Byte
  | [] => m
  | b :: bs => putBytes (mset 0 m a b) (a + 1) bs

/-- Read n bytes of a byte map at ascending addresses. -/
def getBytes (m : SMap Byte) (a n : Nat) : List Byte := (List.range n).map (fun i => mget 0 m (a + i))

/-- A little-endian value of n bytes at address a of a byte map. -/
def getLe (m : SMap Byte) (a n : Nat) : Nat := leNat (getBytes m a n)

/-- Remove every byte of the range [a, a + n). -/
def zeroBytes (m : SMap Byte) (a n : Nat) : SMap Byte := m.filter (fun e => !(decide (a ≤ e.1) && decide (e.1 < a + n)))

/-- x rounded down to a multiple of n. -/
def alignDown (x n : Nat) : Nat := x - x % n

/-- The length n of [a, a+n) rounded up to a multiple of u. -/
def roundUp (x u : Nat) : Nat := (x + u - 1) / u * u

/-! Cyclic redundancy checks. -/

/-- One bit of CRC-32C (polynomial 0x1EDC6F41, reflected 0x82F63B78). -/
def crc32cBit (c : W32) : W32 := if c.getLsbD 0 then (c >>> 1) ^^^ 0x82F63B78#32 else c >>> 1

/-- One byte of CRC-32C. -/
def crc32cByte (c : W32) (b : Byte) : W32 :=
  let c0 := c ^^^ b.setWidth 32
  crc32cBit (crc32cBit (crc32cBit (crc32cBit (crc32cBit (crc32cBit (crc32cBit (crc32cBit c0)))))))

/-- CRC-32C of a byte string. -/
def crc32c (bs : List Byte) : W32 := (bs.foldl crc32cByte 0xFFFFFFFF#32) ^^^ 0xFFFFFFFF#32

/-- One byte of a CRC-64, most significant bit first. -/
def crc64Byte (poly : W64) (c : W64) (b : Byte) : W64 :=
  let step (x : W64) : W64 := if x.getLsbD 63 then (x <<< 1) ^^^ poly else x <<< 1
  let c0 := c ^^^ (b.setWidth 64 <<< 56)
  step (step (step (step (step (step (step (step c0)))))))

/-- A CRC-64 run on over bytes. -/
def crc64 (poly : W64) (c : W64) (bs : List Byte) : W64 := bs.foldl (crc64Byte poly) c

end Sys2Proof.Machine
end

