-- ==== Sys2Proof/Machine/Num.lean ====
section
/-! DEFINITION. Numbers (R59 to R73, R75 to R81, R95): exact values, the element formats, rounding, FP32 and integer operations, MX blocks and
the stochastic draw. Every floating-point operation computes exactly and rounds once. -/

namespace Sys2Proof.Machine

/-- An exact value: (−1)^neg × m × 2^e, an infinity, or NaN. -/
inductive Val where
  | nan
  | inf (neg : Bool)
  | num (neg : Bool) (m : Nat) (e : Int)
deriving DecidableEq, Repr

def Val.isNan : Val → Bool
  | .nan => true
  | _ => false

def Val.zero : Val := .num false 0 0

/-- A floating-point element format (R60): mant is the largest finite significand with its hidden bit, nanCode the canonical NaN
(R68). -/
structure FpFmt where
  ebits : Nat
  mbits : Nat
  bias : Int
  hasInf : Bool
  hasNan : Bool
  emax : Int
  mant : Nat
  nanCode : Nat
deriving DecidableEq, Repr

def fmtF32 : FpFmt := ⟨8, 23, 127, true, true, 127, 2 ^ 24 - 1, 0x7FC00000⟩
def fmtBf16 : FpFmt := ⟨8, 7, 127, true, true, 127, 255, 0x7FC0⟩
def fmtF16 : FpFmt := ⟨5, 10, 15, true, true, 15, 2047, 0x7E00⟩
def fmtE4m3 : FpFmt := ⟨4, 3, 7, false, true, 8, 14, 0x7F⟩
def fmtE5m2 : FpFmt := ⟨5, 2, 15, true, true, 15, 7, 0x7E⟩
def fmtE3m2 : FpFmt := ⟨3, 2, 3, false, false, 4, 7, 0⟩
def fmtE2m3 : FpFmt := ⟨2, 3, 1, false, false, 2, 15, 0⟩
def fmtE2m1 : FpFmt := ⟨2, 1, 1, false, false, 2, 3, 0⟩

/-- The floating-point element format of a format code (R59); none for the integer and reserved codes. -/
def fpFmt : Nat → Option FpFmt
  | 0 => some fmtF32
  | 1 => some fmtBf16
  | 2 => some fmtF16
  | 3 => some fmtE4m3
  | 4 => some fmtE5m2
  | 5 => some fmtE4m3
  | 6 => some fmtE5m2
  | 7 => some fmtE3m2
  | 8 => some fmtE2m3
  | 9 => some fmtE2m1
  | _ => none

/-- Element bits of a format code (R59). -/
def fmtBits : Nat → Nat
  | 0 => 32
  | 1 => 16
  | 2 => 16
  | 7 => 6
  | 8 => 6
  | 9 => 4
  | 12 => 32
  | _ => 8

/-- A format code is an MX format. -/
def fmtMx (f : Nat) : Bool := decide (5 ≤ f) && decide (f ≤ 10)

/-- A format code is INT8 or INT32. -/
def fmtInt (f : Nat) : Bool := f == 11 || f == 12

/-- A format code is not reserved. -/
def fmtKnown (f : Nat) : Bool := decide (f ≤ 12)

/-- The exact value of an encoding (R60, R67). -/
def fpDecode (f : FpFmt) (c : Nat) : Val :=
  let neg := c.testBit (f.ebits + f.mbits)
  let ex := c / 2 ^ f.mbits % 2 ^ f.ebits
  let man := c % 2 ^ f.mbits
  let top := 2 ^ f.ebits - 1
  if f.hasInf && ex == top then if man = 0 then .inf neg else .nan
  else if f.hasNan && !f.hasInf && ex == top && man == 2 ^ f.mbits - 1 then .nan
  else if ex = 0 then .num neg man (1 - f.bias - f.mbits)
  else .num neg (man + 2 ^ f.mbits) ((ex : Int) - f.bias - f.mbits)

/-- The two's complement value of w bits. -/
def signedOf (w n : Nat) : Int := if n % 2 ^ w < 2 ^ (w - 1) then (n % 2 ^ w : Nat) else (n % 2 ^ w : Nat) - (2 ^ w : Nat)

/-- Shift m right by k places: round to nearest even, or up when a draw lies below the fraction's first 16 bits (R64, R65). -/
def shiftRound (m k : Nat) (draw : Option Nat) : Nat :=
  let q := m / 2 ^ k
  let rem := m % 2 ^ k
  match draw with
  | none => if 2 ^ k < 2 * rem || (2 * rem == 2 ^ k && q % 2 == 1) then q + 1 else q
  | some r => if r < rem * 65536 / 2 ^ k then q + 1 else q

/-- Whether a × 2^x exceeds b × 2^y. -/
def dyGt (a : Nat) (x : Int) (b : Nat) (y : Int) : Bool :=
  if x ≤ y then decide (b * 2 ^ (y - x).toNat < a) else decide (b < a * 2 ^ (x - y).toNat)

/-- The sign bit of a format. -/
def fpSign (f : FpFmt) (neg : Bool) : Nat := if neg then 2 ^ (f.ebits + f.mbits) else 0

/-- The largest finite encoding of a sign. -/
def fpMax (f : FpFmt) (neg : Bool) : Nat :=
  fpSign f neg + (f.emax + f.bias).toNat * 2 ^ f.mbits + (f.mant - 2 ^ f.mbits)

/-- What a finite overflow gives (R69, R70): sat is ARITH.SAT; a format with neither infinity nor NaN always saturates. -/
def fpOverflow (f : FpFmt) (sat neg : Bool) : Nat × Status16 :=
  if sat || (!f.hasInf && !f.hasNan) then (fpMax f neg, fOvfSat)
  else if f.hasInf then (fpSign f neg + (2 ^ f.ebits - 1) * 2 ^ f.mbits, fOvfInf)
  else (f.nanCode, fInvalid)

/-- Round a finite magnitude m × 2^e into a format (R64, R65, R70). -/
def fpRound (f : FpFmt) (sat : Bool) (draw : Option Nat) (neg : Bool) (m : Nat) (e : Int) : Nat × Status16 :=
  if m = 0 then (fpSign f neg, fNone)
  else
    let top : Int := (Nat.log2 m : Int) + e
    let q : Int := max top (1 - f.bias) - f.mbits
    let k := if q ≤ e then m * 2 ^ (e - q).toNat else shiftRound m (q - e).toNat draw
    if k = 0 then (fpSign f neg, fUnderflow)
    else if dyGt k q f.mant (f.emax - f.mbits) then fpOverflow f sat neg
    else if k < 2 ^ f.mbits then (fpSign f neg + k, fNone)
    else
      let (k', q') := if 2 ^ (f.mbits + 1) ≤ k then (k / 2, q + 1) else (k, q)
      (fpSign f neg + (q' + f.mbits + f.bias).toNat * 2 ^ f.mbits + (k' - 2 ^ f.mbits), fNone)

/-- Encode an exact value in a format (R68 to R70); a format without NaN is only given finite values (R73). -/
def fpEncode (f : FpFmt) (sat : Bool) (draw : Option Nat) : Val → Nat × Status16
  | .nan => (f.nanCode, fNone)
  | .inf neg =>
    if f.hasInf then (fpSign f neg + (2 ^ f.ebits - 1) * 2 ^ f.mbits, fNone)
    else if sat || !f.hasNan then (fpMax f neg, fOvfSat)
    else (f.nanCode, fInvalid)
  | .num neg m e => fpRound f sat draw neg m e

/-! Exact arithmetic. -/

/-- The exact product; 0 × ∞ is NaN (R68). -/
def Val.mul : Val → Val → Val
  | .nan, _ => .nan
  | _, .nan => .nan
  | .inf a, .inf b => .inf (a != b)
  | .inf a, .num b m _ => if m = 0 then .nan else .inf (a != b)
  | .num a m _, .inf b => if m = 0 then .nan else .inf (a != b)
  | .num a m e, .num b n d => .num (a != b) (m * n) (e + d)

def Val.neg : Val → Val
  | .nan => .nan
  | .inf s => .inf (!s)
  | .num s m e => .num (!s) m e

def Val.abs : Val → Val
  | .nan => .nan
  | .inf _ => .inf false
  | .num _ m e => .num false m e

/-- Multiply by 2^k. -/
def Val.scale (v : Val) (k : Int) : Val :=
  match v with
  | .num s m e => .num s m (e + k)
  | w => w

/-- A finite value's signed significand over the exponent lo, which is at most its own. -/
def Val.over (lo : Int) : Val → Int
  | .num s m e => (if s then -1 else 1) * ((m * 2 ^ (e - lo).toNat : Nat) : Int)
  | _ => 0

/-- The exponent of a finite value. -/
def Val.exp : Val → Int
  | .num _ _ e => e
  | _ => 0

/-- The exact sum of values: ∞ − ∞ is NaN, and an exact zero is −0 only when every term is (R62, R68, R69). -/
def sumVals (xs : List Val) : Val :=
  let pos := xs.contains (.inf false)
  let negi := xs.contains (.inf true)
  if xs.any Val.isNan || (pos && negi) then .nan
  else if pos then .inf false
  else if negi then .inf true
  else
    let lo := xs.foldl (fun a v => min a v.exp) 0
    let t := xs.foldl (fun a v => a + v.over lo) 0
    let allNeg := xs.all (fun v => match v with
      | .num s m _ => s && m == 0
      | _ => false)
    if t = 0 then .num allNeg 0 0 else .num (decide (t < 0)) t.natAbs lo

/-- Order two values that are not NaN, −0 below +0 (R68). -/
def Val.le (a b : Val) : Bool :=
  match sumVals [b, a.neg] with
  | .num neg m _ =>
    if m = 0 then match a, b with
      | .num x _ _, .num y _ _ => x || !y
      | _, _ => true
    else !neg
  | .inf neg => !neg
  | .nan => true

/-- a < b as IEEE 754 compares: the two zeros are equal, NaN is unordered. -/
def Val.lt (a b : Val) : Bool :=
  match a, b with
  | .nan, _ => false
  | _, .nan => false
  | .inf x, .inf y => x && !y
  | _, _ => match sumVals [b, a.neg] with
    | .num neg m _ => m != 0 && !neg
    | .inf neg => !neg
    | .nan => false

/-! FP32 operations. -/

/-- The value of an FP32 register. -/
def f32Val (w : W32) : Val := fpDecode fmtF32 w.toNat

/-- Round an exact result to FP32, with the events of an operation on operands xs (R68, R69, R79). -/
def f32Result (xs : List Val) (r : Val) : W32 × Status16 :=
  let (c, f) := fpEncode fmtF32 false none r
  let nanIn := xs.any Val.isNan
  (BitVec.ofNat 32 c, f ||| flagIf nanIn fNanIn ||| flagIf (r.isNan && !nanIn) fInvalid)

def f32Neg (a : W32) : W32 := if (f32Val a).isNan then 0x7FC00000#32 else a ^^^ 0x80000000#32
def f32Abs (a : W32) : W32 := if (f32Val a).isNan then 0x7FC00000#32 else a &&& 0x7FFFFFFF#32

def f32Add (a b : W32) : W32 × Status16 :=
  f32Result [f32Val a, f32Val b] (sumVals [f32Val a, f32Val b])

def f32Sub (a b : W32) : W32 × Status16 :=
  f32Result [f32Val a, f32Val b] (sumVals [f32Val a, (f32Val b).neg])

def f32Mul (a b : W32) : W32 × Status16 :=
  f32Result [f32Val a, f32Val b] ((f32Val a).mul (f32Val b))

/-- a × b + c with one rounding (R62). -/
def f32Fma (a b c : W32) : W32 × Status16 :=
  f32Result [f32Val a, f32Val b, f32Val c] (sumVals [(f32Val a).mul (f32Val b), f32Val c])

/-- Minimum, and maximum when top is true (R68). -/
def f32MinMax (top : Bool) (a b : W32) : W32 × Status16 :=
  let x := f32Val a
  let y := f32Val b
  if x.isNan || y.isNan then (0x7FC00000#32, fNanIn)
  else if x.le y == top then (b, fNone) else (a, fNone)

/-- Round an exact value that is no operand of an operation to FP32, keeping only its own events. -/
def f32Round (v : Val) : W32 × Status16 :=
  let (c, f) := fpEncode fmtF32 false none v
  (BitVec.ofNat 32 c, f)

/-- comp_add of R75 on a pair (s, c) and a term. -/
def compAdd (sc : W32 × W32) (x : W32) : (W32 × W32) × Status16 :=
  let (t, f1) := f32Add sc.1 x
  let (z, f2) := f32Sub t sc.1
  let (tz, f3) := f32Sub t z
  let (p, f4) := f32Sub sc.1 tz
  let (q, f5) := f32Sub x z
  let (e, f6) := f32Add p q
  let (c, f7) := f32Add sc.2 e
  ((t, c), f1 ||| f2 ||| f3 ||| f4 ||| f5 ||| f6 ||| f7)

/-- Combine two pairs (R75): comp_add of the sums, then the second's correction into the new one. -/
def compCombine (a b : W32 × W32) : (W32 × W32) × Status16 :=
  let (r, f1) := compAdd a b.1
  let (c, f2) := f32Add r.2 b.2
  ((r.1, c), f1 ||| f2)

/-- The final result of a pair: round_rne_fp32(s + c). -/
def compFinal (sc : W32 × W32) : W32 × Status16 := f32Add sc.1 sc.2

/-- A product as a term (R77): beyond FP32's range it is an infinity, below its smallest subnormal a zero. -/
def termOf (v : Val) : Val × Status16 :=
  match v with
  | .num neg m e =>
    if m = 0 then (v, fNone)
    else if dyGt m e (2 ^ 24 - 1) 104 then (.inf neg, fOvfInf)
    else if dyGt 1 (-149) m e then (.num neg 0 0, fUnderflow)
    else (v, fNone)
  | _ => (v, fNone)

/-! Integers (R80, R81). -/

/-- Saturate or wrap an exact integer result to INT32 (R80). -/
def intFix (wrap : Bool) (v : Int) : W32 × Status16 :=
  if -(2 ^ 31 : Int) ≤ v ∧ v < 2 ^ 31 then (BitVec.ofInt 32 v, fNone)
  else if wrap then (BitVec.ofInt 32 v, fIntWrap)
  else if v < 0 then (0x80000000#32, fIntSat)
  else (0x7FFFFFFF#32, fIntSat)

/-- Convert a floating-point value to a w-bit integer (R81). -/
def valToInt (w : Nat) (v : Val) : BitVec w × Status16 :=
  let hi : Int := 2 ^ (w - 1) - 1
  let lo : Int := -(2 ^ (w - 1))
  match v with
  | .nan => (0#w, fInvalid ||| fNanIn)
  | .inf neg => (BitVec.ofInt w (if neg then lo else hi), fOvfSat)
  | .num neg m e =>
    let k := if 0 ≤ e then m * 2 ^ e.toNat else shiftRound m (-e).toNat none
    let n : Int := if neg then -(k : Int) else k
    if n < lo then (BitVec.ofInt w lo, fOvfSat) else if hi < n then (BitVec.ofInt w hi, fOvfSat) else (BitVec.ofInt w n, fNone)

/-- Convert an INT32 to FP32 (R81). -/
def intToF32 (w : W32) : W32 × Status16 :=
  f32Round (.num (decide (w.toInt < 0)) w.toInt.natAbs 0)

/-! Elements. -/

/-- The exact value of an element of a format under its block's scale byte (R60, R71); a non-MX format has no scale. -/
def elemVal (f code : Nat) (scale : Nat) : Val × Status16 :=
  if fmtMx f && scale == 0xFF then (.nan, fMxNan ||| fNanIn)
  else
    let v : Val :=
      if f = 10 then
        let k := signedOf 8 code
        .num (decide (k < 0)) k.natAbs (-6)
      else if f = 11 then
        let k := signedOf 8 code
        .num (decide (k < 0)) k.natAbs 0
      else if f = 12 then
        let k := signedOf 32 code
        .num (decide (k < 0)) k.natAbs 0
      else match fpFmt f with
        | some g => fpDecode g code
        | none => .zero
    let v' := if fmtMx f then v.scale ((scale : Int) - 127) else v
    (v', flagIf v'.isNan fNanIn)

/-- Widen a non-MX element exactly to FP32 (R63, R81). -/
def widenElem (f code : Nat) : W32 × Status16 :=
  if f = 12 then intToF32 (BitVec.ofNat 32 code)
  else
    let (v, fl) := elemVal f code 0
    ((f32Round v).1, fl)

/-- Down-convert an FP32 value to a non-MX format (R64, R65, R70, R81). -/
def narrow (f : Nat) (arith : BitVec 8) (draw : Nat) (x : W32) : Nat × Status16 :=
  let v := f32Val x
  if f = 11 then
    let (r, fl) := valToInt 8 v
    (r.toNat, fl)
  else if f = 12 then
    let (r, fl) := valToInt 32 v
    (r.toNat, fl)
  else if f = 0 then (if v.isNan then 0x7FC00000 else x.toNat, flagIf v.isNan fNanIn)
  else match fpFmt f with
    | some g =>
      let (c, fl) := fpEncode g (arithSat arith) (if arithRnd arith then some draw else none) v
      (c, fl ||| flagIf v.isNan fNanIn)
    | none => (0, fNone)

/-! The stochastic draw. -/

/-- sr_draw of R66: tile is the 40-bit tile index, elem the 26-bit element index. -/
def srDraw (seed : W64) (tile elem : Nat) : Nat :=
  let ctr : W64 := BitVec.ofNat 64 (tile % 2 ^ 40 * 2 ^ 24 ||| elem % 2 ^ 26 / 4)
  let z0 := seed + ctr * 0x9E3779B97F4A7C15#64
  let z1 := (z0 ^^^ (z0 >>> 30)) * 0xBF58476D1CE4E5B9#64
  let z2 := (z1 ^^^ (z1 >>> 27)) * 0x94D049BB133111EB#64
  let z3 := z2 ^^^ (z2 >>> 31)
  (z3.toNat / 2 ^ (16 * (elem % 4))) % 65536

/-! MX blocks (R72, R73). -/

/-- Emax of an MX element format. -/
def mxEmax (f : Nat) : Int :=
  match fpFmt f with
  | some g => g.emax
  | none => 0

/-- The largest finite value of an MX element format, as significand and exponent. -/
def mxMax (f : Nat) : Nat × Int :=
  match fpFmt f with
  | some g => (g.mant, g.emax - g.mbits)
  | none => (127, -6)

/-- The larger of two finite magnitudes. -/
def magMax (a b : Nat × Int) : Nat × Int := if dyGt a.1 a.2 b.1 b.2 then a else b

/-- The exponent that R72 chooses for a block whose largest magnitude is X, not 0. -/
def mxScaleExp (f : Nat) (nosat : Bool) (X : Nat × Int) : Int :=
  let top : Int := (Nat.log2 X.1 : Int) + X.2
  let e :=
    if nosat then
      let (mx, ex) := mxMax f
      let e0 := top - ((Nat.log2 mx : Int) + ex)
      if dyGt X.1 X.2 mx (ex + e0) then e0 + 1 else e0
    else top - mxEmax f
  max (-127) (min 127 e)

/-- One element of an MX block: the value divided by 2^E, rounded and saturated (R72 step 5). -/
def mxElem (f : Nat) (arith : BitVec 8) (draw : Nat) (e : Int) (v : Val) : Nat × Status16 :=
  let d := if arithRnd arith then some draw else none
  if f = 10 then
    match v with
    | .num neg m x =>
      let y := x - e + 6
      let k := if 0 ≤ y then m * 2 ^ y.toNat else shiftRound m (-y).toNat d
      let under := flagIf (m != 0 && k == 0) fUnderflow
      let c := min k 127
      ((BitVec.ofInt 8 (if neg then -(c : Int) else c)).toNat, under ||| flagIf (decide (127 < k)) fOvfSat)
    | _ => (0, fNone)
  else match fpFmt f with
    | some g => fpEncode g (arithSat arith) d (v.scale (-e))
    | none => (0, fNone)

/-- Convert a block of FP32 values to an MX format (R72, R73): the scale byte, the element encodings, the events. draws gives each
element's stochastic draw. -/
def mxBlock (f : Nat) (arith : BitVec 8) (draws : List Nat) (xs : List W32) : Nat × List Nat × Status16 :=
  let vs := xs.map f32Val
  let nan := vs.any Val.isNan
  let infs := vs.any (fun v => match v with
    | .inf _ => true
    | _ => false)
  if nan || (infs && f != 6) then (0xFF, xs.map (fun _ => 0), fMxNan ||| flagIf nan fNanIn ||| flagIf (!nan) fInvalid)
  else
    let X := vs.foldl (fun a v => match v with
      | .num _ m e => if m = 0 then a else magMax a (m, e)
      | _ => a) (0, 0)
    if X.1 = 0 && !infs then (0, xs.map (fun _ => 0), fNone)
    else
      let e := if X.1 = 0 then -127 else mxScaleExp f (arithNosat arith) X
      let rs := (vs.zip draws).map (fun vd => mxElem f arith vd.2 e vd.1)
      ((e + 127).toNat, rs.map Prod.fst, rs.foldl (fun a r => a ||| r.2) fNone)

end Sys2Proof.Machine
end

