-- ==== Sys2Proof/Machine/AtomOps.lean ====
section
/-! DEFINITION. What a block atomic unit does to a line (R94, R95, R96). -/

namespace Sys2Proof.Machine

def stAtomicAlign : Status := 0x77#8

/-- Bytes of an element. -/
def atomSize : AtomTy → Nat
  | .int32 => 4
  | .int64 => 8
  | .fp32 => 4
  | .bf16 => 2

/-- The table of R94 has the operation for the type. -/
def atomKnown (op : AtomOp) (ty : AtomTy) : Bool :=
  match op, ty with
  | .add, _ => true
  | _, .bf16 => false
  | .swap, _ => true
  | .cas, _ => true
  | _, .fp32 => false
  | _, _ => true

/-- A request is malformed: an element misaligned, none or more than 16, one named twice; or no operation of R94. -/
def atomMalformed (r : AtomReq) : Bool :=
  let offs := r.elems.map (fun e => e.off)
  r.elems.isEmpty || decide (16 < r.elems.length) || r.elems.any (fun e => e.off.toNat % atomSize r.ty != 0) || offs.eraseDups != offs
  || !atomKnown r.op r.ty

/-- The sum of two BF16 values rounded once to BF16; an overflow gives infinity (R95). -/
def bf16Add (a b : Nat) : Nat := (fpEncode fmtBf16 false none (sumVals [fpDecode fmtBf16 a, fpDecode fmtBf16 b])).1

/-- The new value of an element. -/
def atomNew (op : AtomOp) (ty : AtomTy) (old : Nat) (e : AtomElem) : Nat :=
  let w := 8 * atomSize ty
  let x := e.operand.toNat % 2 ^ w
  let so := signedOf w old
  let sx := signedOf w x
  match op with
  | .add => (match ty with
    | .fp32 => (f32Add (BitVec.ofNat 32 old) (BitVec.ofNat 32 x)).1.toNat
    | .bf16 => bf16Add old x
    | _ => (old + x) % 2 ^ w)
  | .smin => if so ≤ sx then old else x
  | .smax => if so ≤ sx then x else old
  | .umin => if old ≤ x then old else x
  | .umax => if old ≤ x then x else old
  | .swap => x
  | .cas => if old = e.compare.toNat % 2 ^ w then x else old

/-- The arithmetic events of an element's operation: those of a floating-point add (R69, R79, R95). -/
def atomEvents (op : AtomOp) (ty : AtomTy) (old : Nat) (e : AtomElem) : Status16 :=
  let x := e.operand.toNat % 2 ^ (8 * atomSize ty)
  match op, ty with
  | .add, .fp32 => (f32Add (BitVec.ofNat 32 old) (BitVec.ofNat 32 x)).2
  | .add, .bf16 =>
    let a := fpDecode fmtBf16 old
    let b := fpDecode fmtBf16 x
    let v := sumVals [a, b]
    (fpEncode fmtBf16 false none v).2 ||| flagIf (a.isNan || b.isNan) fNanIn ||| flagIf (v.isNan && !a.isNan && !b.isNan) fInvalid
  | _, _ => fNone

/-- An element of a line. -/
def lineElem (d : Line) (off n : Nat) : Nat := (d.toNat / 2 ^ (8 * off)) % 2 ^ (8 * n)

/-- Put an element into a line. -/
def setLineElem (d : Line) (off n v : Nat) : Line :=
  (d &&& ~~~(BitVec.ofNat 512 ((2 ^ (8 * n) - 1) * 2 ^ (8 * off)))) ||| BitVec.ofNat 512 (v % 2 ^ (8 * n) * 2 ^ (8 * off))

/-- Apply a request: the new line, and the old values in the order of its elements. -/
def applyAtom (d : Line) (r : AtomReq) : Line × List Nat :=
  let n := atomSize r.ty
  (r.elems.foldl (fun acc e => setLineElem acc e.off.toNat n (atomNew r.op r.ty (lineElem acc e.off.toNat n) e)) d,
   r.elems.map (fun e => lineElem d e.off.toNat n))

/-- Old values as they are returned: packed in the order of the request's elements, zeros after them. -/
def oldLine (r : AtomReq) (olds : List Nat) : Line :=
  BitVec.ofNat 512 (leNat (olds.flatMap (fun v => natBytes (atomSize r.ty) v)))

/-- Apply a run in order: the line, and each request's old values. -/
def applyRun (d : Line) (rs : List AtomReq) : Line × List (List Nat) :=
  rs.foldl (fun acc r =>
    let (d1, o) := applyAtom acc.1 r
    (d1, acc.2 ++ [o])) (d, [])

/-- The arithmetic events of a run of requests on a line. -/
def runEvents (d : Line) (rs : List AtomReq) : Status16 :=
  (rs.foldl (fun (acc : Line × Status16) r =>
    let n := atomSize r.ty
    ((applyAtom acc.1 r).1, r.elems.foldl (fun f e => f ||| atomEvents r.op r.ty (lineElem acc.1 e.off.toNat n) e) acc.2)) (d, fNone)).2

/-- The block that R97 names for a line address. -/
def atomTarget (addr : Nat) : Nat :=
  bitsOf addr 11 6 ^^^ bitsOf addr 17 12 ^^^ bitsOf addr 23 18 ^^^ bitsOf addr 29 24 ^^^ bitsOf addr 35 30

end Sys2Proof.Machine
end

