-- ==== Sys2Proof/Machine/State.lean ====
section
/-! DEFINITION. The state of the T960 as plain data: every register, table, queue, counter, mode and pin the manual gives the
device, the commands that wait, and what the last command sent out. Instanced things are sparse maps (SMap) keyed by their
number; an unlisted key reads as the type's reset record, named beside it. -/

namespace Sys2Proof.Machine

/-! ### Tide tick, arbitration and containment (spec/02) -/

/-- PLT_TIDE_CTRL.MODE (R36, R39). -/
inductive TideMode where
  | free | lead | follow
deriving DecidableEq, Repr

/-- Where a follower stands in R38: acquiring (step 1), tracking (step 3), in holdover (step 5), or stopped by a period
mismatch (step 2). -/
inductive FollowPhase where
  | acquire | track | holdover | stopped
deriving DecidableEq, Repr

/-- What TIDE_OUT sent at the last boundary (R36). -/
inductive TidePulse where
  | low | ordinary | marker
deriving DecidableEq, Repr

/-- The tide tick and its registers (R25 to R40). -/
structure Tide where
  /-- the first boundary after reset has passed, so PLT_TIDE_COUNT advances from now on (R27) -/
  started : Bool
  count : W64
  /-- PLT_TIDE_COUNT_HI as latched by a read of PLT_TIDE_COUNT_LO -/
  countHi : W32
  /-- PLT_TIDE_COUNT_LOAD, when written since the last marker -/
  load : Option W64
  /-- PERIOD in force -/
  period : BitVec 4
  /-- PERIOD written and not yet in effect (R32) -/
  periodNext : Option (BitVec 4)
  mode : TideMode
  outEn : Bool
  comp : BitVec 8
  locked : Bool
  holdover : Bool
  periodMismatch : Bool
  periodReject : Bool
  pulseDiscard : Bool
  countSlip : Bool
  phaseError : BitVec 16
  phase : FollowPhase
  /-- consecutive boundaries with an error of at most 8 core clocks -/
  goodRun : Nat
  /-- consecutive boundaries without a valid edge within 64 core clocks -/
  missRun : Nat
  /-- consecutive interval measurements off by more than 64 core clocks -/
  mismatchRun : Nat
  /-- an edge has been seen for the last boundary, and for the next one, ahead of it -/
  edgeSeen : Bool
  edgeNext : Bool
  /-- a valid edge has been seen since FOLLOW was entered, so the next one gives an interval -/
  edgeKnown : Bool
  /-- a marker has come ahead of the boundary it marks -/
  markerDue : Bool
  out : TidePulse
deriving DecidableEq, Repr

/-- The four class registers (R48 to R51). -/
structure ClassRegs where
  cell : BitVec 8
  blk : BitVec 8
  reg : BitVec 4
  chip : BitVec 8
deriving DecidableEq, Repr

/-- One arbiter: who backs off and for how many clocks, how often each has lost, who last won in each class
(R42 to R45). -/
structure Arbiter where
  backoff : SMap Nat
  losses : SMap Nat
  lastWinner : SMap Nat
  /-- the slot granted at the last decision -/
  granted : Option Nat
deriving DecidableEq, Repr

def Arbiter.idle : Arbiter := ⟨[], [], [], none⟩

/-- A packet on a ring, or in the receive queue of the stop it went to (R380 to R383). -/
structure RingPkt where
  src : Nat
  dst : Nat
  vc : Fin 4
deriving DecidableEq, Repr

/-- A ring: the packet buffers of each stop by direction and VC, and the stops' receive queues by VC (R381, R383). -/
structure Ring where
  /-- by stop × 8 + direction (1 for clockwise) × 4 + VC, the packet that came first at the front -/
  bufs : SMap (List RingPkt)
  /-- by stop × 4 + VC -/
  recv : SMap (List RingPkt)
  /-- a region stop at half rate admitted packets at the last decision (R243) -/
  half : Bool
deriving DecidableEq, Repr

def Ring.empty : Ring := ⟨[], [], false⟩

/-- Arbitration: classes as written and as in force, the arbiters, and the rings: 0 the chip ring, 1 + r the ring of region r. -/
structure Arb where
  written : ClassRegs
  inForce : ClassRegs
  arbiters : SMap Arbiter
  rings : SMap Ring
  /-- the chip ring has carried class 0 traffic since the last boundary (R573) -/
  class0 : Bool
deriving DecidableEq, Repr

/-- REEL_BLK_HEALTH (R57). -/
structure BlkHealth where
  fenced : BitVec 16
  blockOffline : Bool
  regionOffline : Bool
  causeLevel : BitVec 2
deriving DecidableEq, Repr

def BlkHealth.ok : BlkHealth := ⟨0#16, false, false, 0#2⟩

/-- A unit whose work moves at step 10 of the next boundary (R53). -/
inductive Remap where
  | cell (c : CellId)
  | block (b : BlockId)
  | region (r : RegionId)
deriving DecidableEq, Repr

/-! ### Error reports, checks and verdicts (spec/06) -/

/-- An error report (R219). -/
structure Report where
  severity : BitVec 8
  source : BitVec 8
  code : BitVec 8
  unit : BitVec 16
  unit2 : BitVec 16
  tick : W64
  temp : BitVec 16
  volt : BitVec 16
  qp : BitVec 16
  tenant : BitVec 16
  opcode : BitVec 8
  desc : W32
  csn : Csn
  detail0 : W64
  detail1 : W64
  seq : W32
deriving DecidableEq, Repr

/-- A verdict's cause (R210). -/
inductive VCause where
  | disagree | unitFault | late | replayAtomic | threeWay
deriving DecidableEq, Repr

/-- A verdict's outcome (R210). -/
inductive Outcome3 where
  | confirm | retract | fatal
deriving DecidableEq, Repr

/-- What a tile is run again from, beside its footprint: the reel's image and handle, the run's arguments and seed, the tile's place, and what
the cell's registers held when it started (R66, R137, R197, R198). -/
structure TileSrc where
  image : List Byte
  reel : Nat
  args : List (Nat × Nat)
  seed : W64
  step : Nat
  lc : Nat
  regFree : Option Nat
deriving DecidableEq, Repr

/-- A check in progress (R196 to R206). -/
structure Check where
  op : Nat
  origin : CellId
  /-- the tile index (R137) -/
  tile : BitVec 40
  src : TileSrc
  checkCell : CellId
  third : Option CellId
  /-- the footprint copy is complete -/
  copied : Bool
  /-- the origin's signature, when its tile has finished -/
  sigOrigin : Option (BitVec 128)
  sigCheck : Option (BitVec 128)
  /-- the origin stopped on a residue failure (R206) or was fenced (R204): it counts as differing -/
  originOut : Bool
  /-- the residue path of R206 -/
  residue : Bool
deriving DecidableEq, Repr

/-- A tile of an operation that a cell finished, kept for the 8 ticks of UNIT_FAULT (R210). -/
structure TileMark where
  op : Nat
  cell : CellId
  age : Nat
deriving DecidableEq, Repr

/-- A completion or verdict record waiting to be written (R435, R436); SQ_HEAD, QP and PHASE are filled in when it is. -/
structure Rec where
  value : W64
  csn : Csn
  tileStatus : BitVec 16
  cmdId : BitVec 16
  status : Status
  outcome : Option Outcome3
  cause : Option VCause
  verdict : Bool
  /-- the held descriptor whose store slot the record frees -/
  held : Option Nat
  /-- the descriptor's FLAGS.INTR -/
  intr : Bool
deriving DecidableEq, Repr

/-- The verdict an operation still awaits (R209 to R215). -/
structure VerdictWait where
  qp : Qp
  csn : Csn
  opcode : BitVec 8
  tenant : Tenant
  slot : W32
  /-- boundaries passed since the tick T_f, when its completion is due -/
  tf : Option Nat
  /-- the cause of a RETRACT or FATAL, and the boundaries passed since it became known -/
  cause : Option (VCause × Nat)
  /-- a RETRACT or FATAL that was issued before the completion is due (R211, R215) -/
  issued : Bool
  cmdId : BitVec 16
  intr : Bool
  /-- the queue pair is in strict mode, and the completion record it holds back until the verdict (R215) -/
  strict : Bool
  record : Option Rec
deriving DecidableEq, Repr

/-- The checker, verdicts and report ring. -/
structure Ras where
  fraction : BitVec 3
  hold : BitVec 4
  active : BitVec 3
  /-- a written FRACTION waits (R194) -/
  pendingFraction : Bool
  /-- boundaries passed since it was written -/
  fractionAge : Nat
  short : Bool
  /-- check blocks in force, in R193 order -/
  checkBlocks : List BlockId
  /-- blocks that have left the check blocks and still hold checks -/
  leaving : List BlockId
  checks : SMap Check
  nextCheck : Nat
  marks : List TileMark
  verdicts : SMap VerdictWait
  /-- the report ring, oldest first, at most 4,096 -/
  ring : List Report
  nextSeq : W32
  /-- RAS_ISV_CTRL (R593) -/
  isvEn : Bool
  isvBlocks : BitVec 4
  isvRouter : Bool
  isvEcc : Bool
  /-- next block and cell in round robin; blocks holding a test slot; units whose first failure is being repeated; passes -/
  isvNext : BlockId
  isvCell : SMap Nat
  isvSlots : List BlockId
  isvFirst : List (BitVec 16)
  isvTested : List CellId
  isvPasses : Nat
  /-- router path and ECC loopback slots granted at the last boundary, and the rotating attach point -/
  isvRouterSlot : Bool
  isvEccSlot : List MemCh
  isvAttach : Nat
deriving DecidableEq, Repr

/-! ### Cells, region buffers, atomic units, reels and runs (spec/03, 04, 05) -/

/-- The tile a cell runs (R109, R129). -/
structure Tile where
  run : Nat
  lc : Nat
  step : Nat
  /-- the figure that starts next -/
  fig : Nat
  /-- its budget has run out (R31) -/
  overran : Bool
  /-- its check, when it was selected (R196) -/
  check : Option Nat
  /-- the two CRC-64 values of its signature so far (R200) -/
  sig : W64 × W64
  /-- atomic requests not yet handed to the unit, oldest first; how many are at the unit; some were handed over -/
  reqs : List AtomReq
  outstanding : Nat
  sent : Bool
  /-- a residue failure stopped it (R206) -/
  stopped : Bool
deriving DecidableEq, Repr

/-- A cell (R58, R79, R85 to R90). Unlisted scratch bytes hold 0. -/
structure Cell where
  scratch : SMap Byte
  /-- pending bits, one per 256 B slot (R88) -/
  pend : BitVec 1024
  /-- vector registers written since the tile started, by register × 128 + lane -/
  regs : SMap W32
  /-- what the others hold: zeros, or the free values of one tile start (R90, R113) -/
  regFree : Option Nat
  /-- bytes of the scale registers loaded since the tile started, by register × 64 + byte (R58, R87) -/
  scales : SMap Byte
  /-- what the others hold: zeros, or the free values of one draw (R90, R113) -/
  scaleFree : Option Nat
  status : BitVec 16
  /-- the tenant of its previous tile (R90) -/
  lastTenant : Option Tenant
  /-- the run and logical cell whose data its scratch holds -/
  occupant : Option (Nat × Nat)
  tile : Option Tile
deriving DecidableEq, Repr

def Cell.reset : Cell := ⟨[], 0#1024, [], none, [], none, 0#16, none, none, none⟩

/-- A region buffer (R98 to R100): its bytes, the pending bits of its 4 KiB segments, the tenant of the region's previous tile. -/
structure RBuf where
  bytes : SMap Byte
  pend : BitVec 2048
  lastTenant : Option Tenant
deriving DecidableEq, Repr

def RBuf.reset : RBuf := ⟨[], 0#2048, none⟩

/-- A request at a block atomic unit, in the order of receipt (R96). -/
structure AtomEntry where
  sender : AtomSender
  req : AtomReq
  /-- residue failures of the run it belongs to that came with it (R208) -/
  fails : Nat
deriving DecidableEq, Repr

/-- Who is told that a reel has left the store (R133): an admin command (port, CMD_ID, FLAGS.INTR) or a management command. -/
inductive UnloadWait where
  | admin (p : PlPort) (cmdId : BitVec 16) (intr : Bool)
  | mgmt
deriving DecidableEq, Repr

/-- A reel in the reel store (R130 to R133). -/
structure Reel where
  tenant : Tenant
  image : List Byte
  unloading : Bool
  waiters : List UnloadWait
deriving DecidableEq, Repr

/-- A part of a transfer that its engine has not asked for yet (R92): a read, or a write with its bytes, of host memory or of another node's
pool. off is where in the transfer a read's data goes. -/
structure OutPart where
  host : Bool
  off : Nat
  addr : Nat
  len : Nat
  data : Option (List Byte)
deriving DecidableEq, Repr

/-- A planned copy that is due and not complete (R119 to R122). -/
structure CopyRec where
  stream : Nat
  lc : Nat
  step : Nat
  /-- it has been issued: what it waits for first has come (R122, R470) -/
  issued : Bool
  /-- what its reads outside the node have returned so far, by offset in the copy (R449) -/
  got : List (Nat × List Byte)
  /-- an outbound copy that has read its last byte: the byte runs it writes to memory, by address -/
  out : Option (List (Nat × List Byte))
  /-- the one cell that a copy made again after a remap is for, where the stream serves several (R54, R125) -/
  only : Option Nat
  /-- its accesses outside the node that wait for the engine to have room (R92) -/
  todo : List OutPart
deriving DecidableEq, Repr

/-- A logical cell of a run (R124, R129). -/
structure LCell where
  cell : CellId
  /-- the step of its running or next tile -/
  step : Nat
  running : Bool
  /-- a boundary at which its next tile may start has come (R129) -/
  armed : Bool
  /-- its inbound copies were not complete at that boundary (R129), or it waited for a check cell (R199) -/
  stalled : Bool
  /-- the draw of R196, when the tile then waited for a check cell -/
  drawn : Option Bool
  /-- its next tile is selected for check whatever is drawn (R206) -/
  forced : Bool
  /-- its scratch while another logical cell has the cell that the two share (R125) -/
  saved : Option (SMap Byte)
deriving DecidableEq, Repr

/-- A run of a reel (R135 to R140); its key is its operation's number. -/
structure Run where
  reel : Nat
  args : List (Nat × Nat)
  steps : Nat
  seed : W64
  mask : BitVec 8
  bound : Bool
  lcs : SMap LCell
  copies : SMap CopyRec
  nextCopy : Nat
  committed : Nat
  overruns : Nat
  stalls : Nat
deriving DecidableEq, Repr

/-- A REDUCE_SCATTER in progress (R165 to R175); its key is its operation's number. -/
structure RsOp where
  cells : List CellId
  regions : List RegionId
  bound : Bool
  armed : Bool
  reduced : Nat
  arrived : Nat
  /-- REDUCED or ARRIVED has changed since the last boundary -/
  dirty : Bool
  /-- ticks since it was armed or since the last recognised contribution (R174) -/
  ticks : Nat
  /-- contributors of each uncommitted chunk in arrival order (R160) -/
  order : SMap (List Nat)
  /-- chunks whose accumulators stand in a region buffer (R172) -/
  acc : List Nat
  /-- chunks committed beyond REDUCED -/
  ahead : List Nat
deriving DecidableEq, Repr

/-- A transfer of a multicast send whose flits are not all acknowledged (R180). -/
structure McSend where
  ports : List LinkPort
  lost : List LinkPort
deriving DecidableEq, Repr

/-- The reel fabric. -/
structure Fab where
  cells : SMap Cell
  rbufs : SMap RBuf
  units : SMap (List AtomEntry)
  reels : SMap Reel
  runs : SMap Run
  rs : SMap RsOp
  sends : SMap McSend
  /-- blocks and whole regions' blocks that runs have given up since the last boundary (R138, R194) -/
  freed : List BlockId
  /-- operations with lower numbers were waiting when step 12 of the last boundary came (R138) -/
  admitNext : Nat
  /-- the blocks the home agent slices leave out when they choose a near atomic's target: the offline set as of the last step 10 (R97) -/
  atomOff : List BlockId
  /-- the firmware area of the reel store: the images of the built-in reels, loaded at boot (R130, R131) -/
  builtin : List (List Byte)
deriving DecidableEq, Repr

/-! ### Shelf and Deep memory (spec/07) -/

/-- What a queued memory access is (R229, R232, R251). -/
inductive MemKind where
  | read | mergeRead | scrub (op : Nat) | patrol | write | writeBack
  /-- the write of a merge-buffer entry, which was closed or still open when it left the buffer (R235, R236) -/
  | merged (closed : Bool)
deriving DecidableEq, Repr

/-- An entry of a channel's read or write queue. addr is the byte address local to the stack or tier (R225). -/
structure MemEntry where
  seq : Nat
  kind : MemKind
  addr : Nat
  bank : Nat
  row : Nat
  /-- issued to DRAM; a read then awaits its data -/
  issued : Bool
  /-- a read's unit as it stood when the read was accepted: its bytes and which of its lines were poisoned (R234) -/
  data : List Byte
  poison : List Bool
  /-- 64-bit words written since, in whole or in part, by byte key / 8 (R251) -/
  rewritten : List Nat
  /-- lines written whole since, by byte key / 64 (R250, R252) -/
  renewed : List Nat
deriving DecidableEq, Repr

/-- A merge-buffer entry (R235, R236): one 64-byte line, the new bytes and their enables. -/
structure MergeEntry where
  seq : Nat
  addr : Nat
  bank : Nat
  row : Nat
  enables : BitVec 64
  data : Line
  /-- closed to new writes (R236) -/
  closed : Bool
  /-- its line read has entered the read queue -/
  asked : Bool
  /-- its line read has returned and the line waits for the write queue (R231, R235) -/
  ready : Bool
deriving DecidableEq, Repr

/-- A bank of a channel (R230, R233). -/
structure MemBank where
  inOrder : Bool
  release : Nat
  openRow : Option Nat
  /-- requests served in a row from the open row -/
  run : Nat
deriving DecidableEq, Repr

def MemBank.idle : MemBank := ⟨false, 0, none, 0⟩

/-- A row of a channel's correction table (R253). -/
structure CeRow where
  bank : Nat
  row : Nat
  reported : Bool
deriving DecidableEq, Repr

/-- A Deep pseudo-channel or Shelf channel. -/
structure Chan where
  reads : List MemEntry
  writes : List MemEntry
  merges : List MergeEntry
  drain : Bool
  banks : SMap MemBank
  nextSeq : Nat
  /-- per-bank refreshes issued since the credit began to count; owed is the group's credit minus this (R238) -/
  refIssued : Int
  refBank : Nat
  /-- neighbour refreshes selected and not yet issued: bank, row (R244) -/
  neighbors : List (Nat × Nat)
  ceRows : List CeRow
  patrolIssued : Nat
  patrolPos : Nat
deriving DecidableEq, Repr

def Chan.idle : Chan := ⟨[], [], [], false, [], 1, 0, 0, [], [], 0, 0⟩

/-- DEEP_SCHED_CTRL and SHELF_SCHED_CTRL (R263). -/
structure SchedCtrl where
  batchMax : BitVec 5
  wqHi : BitVec 6
  wqLo : BitVec 6
  ageLimit : BitVec 8
deriving DecidableEq, Repr

/-- DEEP_REF_CTRL and SHELF_REF_CTRL (R264). -/
structure RefCtrl where
  hi : BitVec 8
  lo : BitVec 8
  p1 : BitVec 4
  p2 : BitVec 4
deriving DecidableEq, Repr

/-- DEEP_STACK_STATUS (R266) and the stack's retraining cycle (R247, R248). -/
structure Stack where
  temp : BitVec 8
  trainTemp : BitVec 8
  refDouble : Bool
  retraining : Bool
  failed : Bool
  failedPc : BitVec 5
  /-- the pseudo-channel being retrained -/
  pc : Nat
  /-- the reading that started the cycle -/
  startTemp : BitVec 8
  /-- the refresh credit when the pseudo-channel's turn came: what it refreshes before it retrains (R247 step 2) -/
  startCredit : Nat
  /-- the pseudo-channel failed its last attempt -/
  failedOnce : Bool
  /-- a drift found during the cycle starts another -/
  again : Bool
deriving DecidableEq, Repr

def Stack.reset : Stack := ⟨0#8, 0#8, false, false, false, 0#5, 0, 0#8, 0, false, false⟩

/-- SHELF_ZONE_STATUS (R266). -/
structure Zone where
  temp : BitVec 8
  duty : Nat
  refDouble : Bool
  overtemp : Bool
deriving DecidableEq, Repr

def Zone.reset : Zone := ⟨0#8, 16, false, false⟩

/-- A credit that accrues per boundary, with the remainder of its division (R238, R259). -/
structure Credit where
  total : Nat
  rem : Nat
deriving DecidableEq, Repr

/-- An admitted SCRUB (R254 to R258). -/
structure ScrubOp where
  ext : ExtId
  ep : Ep
  addr : Nat
  length : Nat
  resultAddr : W64
  resultHost : Bool
  shelf : Bool
  /-- boundaries from the first slice round to the last; 0 before the first -/
  ticks : Nat
  startTick : W64
  /-- 256 B units of the range already given to each channel, by channel -/
  given : SMap Nat
  /-- unit reads given and not yet returned -/
  outstanding : Nat
  wordsCorrected : Nat
  wordsRead : Nat
  wordsUncorrectable : Nat
  linesPoisoned : Nat
  linesAlready : Nat
  /-- corrected words per (channel, bank, row) -/
  rows : SMap Nat
  /-- the status that stopped the scrub (R257) -/
  stopped : Option Status
deriving DecidableEq, Repr

/-- The memory tiers. Bytes are keyed by granule × 2^26 + offset (R225); unlisted bytes hold 0, as the fills of R281 and
R286 leave them. -/
structure Mem where
  bytes : SMap Byte
  /-- poisoned 64-byte lines, by byte key / 64 (R250) -/
  poison : SMap Bool
  chans : SMap Chan
  deepSched : SchedCtrl
  shelfSched : SchedCtrl
  deepRef : RefCtrl
  shelfRef : RefCtrl
  thrOn : BitVec 8
  thrOff : BitVec 8
  demandUnits : BitVec 8
  patrolHours : BitVec 8
  patrolEn : Bool
  autoShelfMax : BitVec 8
  autoShelfReserve : BitVec 8
  deepStacks : SMap Stack
  zones : SMap Zone
  /-- refresh credit by stack (0 to 11) and zone (16 to 23) -/
  refCredit : SMap Credit
  /-- patrol credit of Deep (0) and Shelf (1) channels -/
  patrolCredit : SMap Credit
  scrubs : SMap ScrubOp
  /-- placement cursors (R261): the next stack and the next tier -/
  nextStack : Nat
  nextTier : Nat
deriving DecidableEq, Repr

/-! ### Extents and snapshots (spec/08) -/

/-- A local packet awaiting its attach point: the arrival port, the tenant it was authenticated as (R506, R511), and the
tenant that owns the link key it came under (R501, R511). -/
structure InPkt where
  pkt : Packet
  port : LinkPort
  auth : Option Tenant
  linkOwner : Option Tenant
  /-- the open transfer that counts it (R396) -/
  xid : Option Nat
  /-- the virtual channel it came in on -/
  vc : Nat
deriving DecidableEq, Repr

/-- A granule's state (R280). -/
inductive GranState where
  | free | granted | draining | scrubbing | sealed
deriving DecidableEq, Repr

/-- A granule: its state and its FAILED flag. -/
structure Gran where
  state : GranState
  failed : Bool
deriving DecidableEq, Repr

def Gran.reset : Gran := ⟨.scrubbing, false⟩

/-- The kind of an extent (R273). -/
inductive ExtKind where
  | plain | coherent | snapshot
deriving DecidableEq, Repr

/-- What one home agent slice believes of an extent (R279). -/
structure SliceView where
  rights : List W32
  revoked : Bool
  sealed : Bool
deriving DecidableEq, Repr

def SliceView.fresh : SliceView := ⟨[], false, false⟩

/-- A change on its way to the six slices (R279). -/
inductive ExtChange where
  | rights (entries : List W32)
  | revoke
  | seal
  | unseal
deriving DecidableEq, Repr

/-- A change and the slices that have not yet applied it. -/
structure PendingChange where
  change : ExtChange
  left : List Slice
deriving DecidableEq, Repr

/-- A version slot's state (R294). -/
inductive VSlotState where
  | empty | write | latest | held
deriving DecidableEq, Repr

/-- A version slot (R294). -/
structure VSlot where
  state : VSlotState
  version : Nat
  gen : BitVec 5
  opens : Nat
deriving DecidableEq, Repr

def VSlot.reset : VSlot := ⟨.empty, 0, 0#5, 0⟩

/-- A leaf's category (R300); IN_USE is the category of every leaf that some live version's map names. -/
inductive LeafCat where
  | free | map | inUse | returning
deriving DecidableEq, Repr

/-- A leaf copy in progress (R296). -/
structure LeafCopy where
  leaf : Nat
  src : Nat
  dst : Nat
  /-- the version slot whose map takes the copy: the write version's, or the new one of a publication under way -/
  slot : Nat
deriving DecidableEq, Repr

/-- A publication that has been queued or started (R297). -/
structure Publication where
  op : Nat
  /-- the write slot chosen when it was started, and whether it is the reserved LATEST slot -/
  chosen : Option (Nat × Bool)
  /-- slices that have switched -/
  switched : List Slice
deriving DecidableEq, Repr

/-- A request that has passed its check and waits on the snapshot engine: for a leaf copy or for the publication point
(R294, R296). -/
structure SnapWait where
  leaf : Nat
  ip : InPkt
  /-- directed to the new write version of a publication in progress -/
  newVersion : Bool
deriving DecidableEq, Repr

/-- A SNAP_OPEN that waits for the publication point (R294). -/
structure OpenWait where
  op : Nat
  byNumber : Option Nat
deriving DecidableEq, Repr

/-- The versions of a snapshot extent (R292 to R301). -/
structure Snap where
  slots : SMap VSlot
  /-- map of each live version slot, by slot × 2^20 + logical leaf; unlisted: the extent's own leaf of that number -/
  maps : SMap Nat
  /-- categories of physical leaves that are not in their grant-time category: base leaves IN_USE, the first M reserve
  leaves MAP, the others FREE -/
  cats : SMap LeafCat
  copies : List LeafCopy
  pubs : List Publication
  waits : List SnapWait
  opens : List OpenWait
  /-- the audit unit's ledger of copies taken and leaves released (R300) -/
  ledgerTaken : Nat
  ledgerReturned : Nat
  /-- the audit unit's ledger of leaf references, by version slot (R17, R300) -/
  refs : SMap Nat
deriving DecidableEq, Repr

/-- An extent (R272). -/
structure Extent where
  state : GranState
  kind : ExtKind
  shelf : Bool
  lost : Bool
  discard : Bool
  tenant : Tenant
  baseSlot : Nat
  grans : List Nat
  reserve : List Nat
  rights : List W32
  notifyEp : Ep
  notifyAddr : W64
  grantTick : W64
  stateTick : W64
  views : SMap SliceView
  changes : List PendingChange
  /-- accepted requests not yet retired, by slice (R285) -/
  accepted : SMap Nat
  snap : Option Snap
  /-- Headland message awaiting the six slices of a seal -/
  sealReply : Option Nat
  /-- the fill of a SCRUBBING extent has been admitted (R286) -/
  fill : Bool
deriving DecidableEq, Repr

/-- An open record (R298). -/
structure OpenRec where
  ext : ExtId
  slot : Nat
  gen : BitVec 5
  ep : Ep
deriving DecidableEq, Repr

/-- The extent manager and snapshot engine. -/
structure Ext where
  extents : SMap Extent
  grans : SMap Gran
  records : SMap OpenRec
deriving DecidableEq, Repr

/-! ### Coherence home agent (spec/09) -/

/-- A caching agent's entry (R306). -/
structure Agent where
  ep : Ep
  dead : Bool
deriving DecidableEq, Repr

/-- A directory line field (R310). -/
inductive DirLine where
  | i
  | sPtr (a : Nat)
  | sVec (residues : BitVec 15)
  | e (a : Nat)
  | m (a : Nat)
deriving DecidableEq, Repr

/-- A sector entry (R310): line0 to line3. -/
structure Sector where
  tag : Nat
  age : Nat
  lines : SMap DirLine
deriving DecidableEq, Repr

def Sector.empty : Sector := ⟨0, 0, []⟩

/-- A request (R312) that has passed its extent check, with the extent and slice whose accepted count it holds. -/
structure CReq where
  ep : Ep
  pkt : Packet
  /-- the port it came in on -/
  port : LinkPort
  ext : Nat
  slice : Nat
  /-- the decision of R327 for an atomic that ended a run -/
  far : Option Bool
  /-- the version slot of a snapshot extent that it was directed to when its slice accepted it (R295, R297) -/
  vslot : Option Nat
deriving DecidableEq, Repr

/-- A snoop sent and not yet answered. -/
structure Snoop where
  ep : Ep
  agent : Nat
  code : BitVec 8
  /-- answered SNP_RSP_WB: the write-back itself is awaited (R321) -/
  wbAwaited : Bool
deriving DecidableEq, Repr

/-- What a transaction on a line is. -/
inductive TxnKind where
  | request (r : CReq)
  /-- back-invalidation: the holders' data is written to memory unless discarded, and the line takes the state given -/
  | recall (discard : Bool) (after : DirLine)
  | victim
  /-- a request of message code opc whose requester died, or copies invalidated for the device's own access: the snoops are collected, and
  nothing is sent (R154, R331) -/
  | abandoned (opc : BitVec 8)
  | recovery
  | poisonInv
deriving DecidableEq, Repr

/-- Where a transaction stands: snoops awaited, a grant to be acknowledged (R314), a near-atomic run at the unit (R327), or a
stash push to be answered (R328) or, once accepted, to be given a sector entry (R323). -/
inductive TxnPhase where
  | snooping
  | granting (ep : Ep)
  | nearRun
  | stashing (ep : Ep) (agent : Nat)
  | stashed (agent : Nat)
deriving DecidableEq, Repr

/-- The active transaction of a line (R316). -/
structure Txn where
  kind : TxnKind
  phase : TxnPhase
  snoops : List Snoop
  /-- data of an M owner, and whether it carries POISON -/
  data : Option (Line × Bool)
  /-- the owner still holds the line in S after its answer -/
  kept : Option Nat
  /-- write-back data was taken as a snoop's answer (R321) -/
  late : Bool
  /-- the near atomics at the unit, the first being the transaction's request (R327) -/
  run : List CReq
deriving DecidableEq, Repr

/-- A predictor entry (R326). -/
structure Pred where
  c : BitVec 2
  u : BitVec 2
  last : Option Nat
deriving DecidableEq, Repr

def Pred.reset : Pred := ⟨0#2, 0#2, none⟩

/-- COH_CTRL.MODE (R334). -/
inductive CohMode where
  | predict | near | far
deriving DecidableEq, Repr

/-- A COH_AGENT_REMOVE or rights change whose recalls are not finished (R324). -/
structure RecallWait where
  /-- the agent whose copies are recalled, or none for every copy of a draining extent -/
  agent : Option Nat
  ext : Option Nat
  lines : List Nat
deriving DecidableEq, Repr

/-- The home agent slices. -/
structure Coh where
  agents : SMap Agent
  /-- sectors by set × 16 + way -/
  dir : SMap Sector
  /-- active transactions by line, PPA[39:6] -/
  txns : SMap Txn
  /-- conflict queues by line, oldest first -/
  queues : SMap (List CReq)
  /-- predictor entries by slice × 16,384 + index -/
  pred : SMap Pred
  mode : CohMode
  nearAt : BitVec 2
  farAt : BitVec 2
  snpTimeout : BitVec 6
  stashEn : Bool
  /-- agents whose directory sweep runs, with the lines poisoned so far -/
  sweeps : SMap Nat
  recalls : List RecallWait
  /-- lines whose directory state a controller's poisoning touches, waiting for a recovery transaction (R329) -/
  recover : List Nat
deriving DecidableEq, Repr

/-! ### Links: the 32 TFL ports and the link side of the Phosha Link ports (spec/10, spec/12) -/

/-- TFL_LINK_STATUS.STATE (R361, R375). -/
inductive LinkState where
  | disabled | detect | equalize | lock | param | active
deriving DecidableEq, Repr

/-- The content fields of a flit (R344) as the replay buffer holds them: fixed when it is first sent. -/
structure FlitContent where
  ctrl : Bool
  seq : BitVec 12
  vc : BitVec 2
  tick : BitVec 4
  crdSpent : BitVec 16
  vcSent : BitVec 12
  afterPause : BitVec 8
  firstPkt : BitVec 4
  /-- 15 units of 16 bytes -/
  payload : List (BitVec 128)
  /-- the model's own: operations whose multicast packets it carries a part of (R180), and how many packets end in it (R371) -/
  mcs : List Nat
  ends : Nat
deriving DecidableEq, Repr

/-- A packet handed to the link: the units not yet sent, and whether it is a DOORBELL (R358). -/
structure TxPkt where
  units : List (BitVec 128)
  started : Bool
  doorbell : Bool
  /-- the operation whose multicast send it belongs to (R180) -/
  mc : Option Nat
deriving DecidableEq, Repr

/-- The sending half of a link (R344 to R359). -/
structure LinkTx where
  nextSeq : BitVec 12
  /-- unacknowledged flits, oldest first (R353) -/
  replay : List FlitContent
  /-- how many of the newest entries are still to be sent again -/
  resend : Nat
  /-- last replay's first sequence number, how many replays in a row began there, and the flits sent since it began -/
  replaySeq : Option (BitVec 12)
  replayCount : Nat
  sinceReplay : Nat
  vcSent : SMap (BitVec 12)
  /-- the peer's PAUSE_MAP as last seen -/
  pauseSeen : BitVec 4
  afterPause : SMap (BitVec 8)
  crdSpent : BitVec 16
  peerRet : BitVec 16
  peerInit : BitVec 16
  /-- packets handed over by PACKET_EGRESS, by VC -/
  queues : SMap (List TxPkt)
  /-- the VC whose packet is in progress (R345) -/
  cur : Option Nat
  /-- payloads of CTRL flits waiting to be sent (R366) -/
  ctrls : List (List (BitVec 128))
deriving DecidableEq, Repr

def LinkTx.fresh : LinkTx :=
  ⟨0#12, [], 0, none, 0, 0, [], 0#4, [], 0#16, 0#16, 0#16, [], none, []⟩

/-- A flit in a receive buffer: its units not yet consumed, and the position of its first packet header among them. -/
structure RxFlit where
  units : List (BitVec 128)
  first : Nat
  /-- some unit of it has been consumed or skipped -/
  begun : Bool
deriving DecidableEq, Repr

/-- What an accepted flit told of the sender's totals, with the receiver's counts at that flit (R360). -/
structure Cut where
  tick : BitVec 4
  sent : BitVec 16
  count : BitVec 16
  after : BitVec 8
  afterCount : BitVec 8
deriving DecidableEq, Repr

/-- A VC's receive buffer and counts (R354 to R360). -/
structure VcRx where
  alloc : Nat
  flits : List RxFlit
  /-- flits first sent in this epoch have begun to arrive on the VC (R365), and how many have been accepted -/
  counting : Bool
  accepted : Nat
  paused : Bool
  /-- flits accepted with non-zero AFTER_PAUSE since PAUSE was set, and flits accepted since then -/
  afterCount : BitVec 8
  sincePause : Nat
  cuts : List Cut
deriving DecidableEq, Repr

def VcRx.empty : VcRx := ⟨0, [], false, 0, false, 0#8, 0, []⟩

/-- The receiving half of a link. -/
structure LinkRx where
  expected : BitVec 12
  waiting : Bool
  /-- a NAK to send in the next header -/
  nakDue : Bool
  acceptedAny : Bool
  vcs : SMap VcRx
  crdRet : BitVec 16
  /-- DOORBELL packets completed in this epoch, and the credit cuts -/
  doorbells : BitVec 16
  creditCuts : List Cut
  /-- queue-engine slots held for the port (R358) -/
  held : Nat
  /-- the count of DOORBELL packets of this epoch has begun (R360, R365) -/
  counting : Bool
deriving DecidableEq, Repr

def LinkRx.fresh : LinkRx := ⟨0#12, false, false, false, [], 0#16, 0#16, [], 0, true⟩

/-- A width change asked for and unanswered, or accepted and not complete (R366). -/
structure WidthChange where
  width : BitVec 2
  lanes : BitVec 8
  mine : Bool
  answered : Bool
  /-- width and lanes before the change, as LINK_UP carries them -/
  old : Nat
deriving DecidableEq, Repr

/-- A port: its registers, its training and both halves of its link. -/
structure Link where
  -- LINK_CTRL
  enable : Bool
  widthMax : BitVec 2
  channel : BitVec 2
  channelInForce : BitVec 2
  lossMs : BitVec 8
  rttNs : BitVec 12
  rttInForce : BitVec 12
  replayMax : BitVec 4
  vcAlloc : W64
  qcred : BitVec 8
  qcredInForce : BitVec 8
  degSyms : BitVec 16
  degTicks : BitVec 4
  -- LINK_STATUS
  state : LinkState
  width : BitVec 2
  lanes : BitVec 8
  leader : Bool
  retraining : Bool
  epoch : BitVec 2
  rttMeas : BitVec 12
  wentDown : Bool
  allocShort : Bool
  idConflict : Bool
  peerId : W64
  -- training
  /-- the next training makes a fresh link (R364) -/
  fresh : Bool
  /-- the loss timer runs (R370) -/
  lossTimer : Bool
  /-- the link has been lost and has not come back -/
  lost : Bool
  paramDone : Bool
  peerParamDone : Bool
  peerNextExpected : Option (BitVec 12)
  /-- lanes that passed equalisation at the last training at both ends (R367) -/
  equalized : BitVec 8
  /-- lanes whose polarity is put right, lanes in reversed order, and lanes that lag the others by more than 64 ns (R338) -/
  polarity : BitVec 8
  reversed : Bool
  skewed : BitVec 8
  degraded : BitVec 8
  corrTick : SMap Nat
  /-- corrected symbols per lane in the last tick -/
  corrLast : SMap Nat
  corrRun : SMap Nat
  uncorrRun : Nat
  change : Option WidthChange
  /-- headroom before the width change in progress (R366) -/
  oldH : Nat
  tx : LinkTx
  rx : LinkRx
deriving DecidableEq, Repr

/-- A TFL port at reset (R374 to R377). -/
def Link.resetTfl : Link :=
  { enable := true, widthMax := 2#2, channel := 0#2, channelInForce := 0#2, lossMs := 0x0A#8, rttNs := 0x1F4#12,
    rttInForce := 0x1F4#12, replayMax := 8#4, vcAlloc := 0x0400010003000200#64, qcred := 0x40#8, qcredInForce := 0x40#8, degSyms := 0x100#16,
    degTicks := 8#4, state := .detect, width := 0#2, lanes := 0#8, leader := false, retraining := false, epoch := 0#2,
    rttMeas := 0#12, wentDown := false, allocShort := false, idConflict := false, peerId := 0#64, fresh := true,
    lossTimer := false, lost := false, paramDone := false, peerParamDone := false, peerNextExpected := none,
    equalized := 0#8, polarity := 0#8, reversed := false, skewed := 0#8, degraded := 0#8, corrTick := [], corrLast := [], corrRun := [], uncorrRun := 0, change := none, oldH := 0,
    tx := LinkTx.fresh, rx := LinkRx.fresh }

/-- A Phosha Link port at reset (R455, R617). -/
def Link.resetPl : Link :=
  { Link.resetTfl with widthMax := 3#2, channel := 1#2, channelInForce := 1#2, vcAlloc := 0x0600040006000400#64 }

/-! ### Router and traffic control (spec/11) -/

/-- RTR_PORT_CTRL (R418). -/
structure PortCtrl where
  stampGen : Bool
  policeEn : Bool
  precolor : BitVec 8
deriving DecidableEq, Repr

def PortCtrl.reset : PortCtrl := ⟨true, true, 0#8⟩

/-- A packet in a transmit queue: its VC, and the device's own request it belongs to. -/
structure QPkt where
  pkt : Packet
  vc : Nat
  req : Option Nat
  /-- the operation whose multicast send it belongs to (R180) -/
  mc : Option Nat
deriving DecidableEq, Repr

/-- Who awaits the answer of a request the device issued. -/
inductive ReqOwner where
  | op (op : Nat)
  /-- a built-in operation's read of host memory, or of another node's pool, at an address -/
  | opRead (op : Nat) (host : Bool) (addr : Nat)
  /-- a completion record; an interrupt follows its acknowledgement -/
  | record (qp : Qp) (intr : Bool)
  /-- an admin record; an interrupt follows its acknowledgement -/
  | adminRecord (p : PlPort) (intr : Bool)
  | faultRecord (p : PlPort)
  | notice (e : ExtId)
  | mbox (p : PlPort)
  | walk (w : Nat)
  /-- a copy of a run; for a read, where in the copy its data goes -/
  | copy (run : Nat) (copy : Nat) (off : Nat)
  | other
deriving DecidableEq, Repr

/-- A request the device issued over TFL or Phosha Link and that has no response yet (R395). -/
structure DevReq where
  tag : BitVec 12
  dst : Ep
  /-- the Phosha Link port of a request to the host -/
  via : Option PlPort
  /-- the virtual address that was translated for it (R476) -/
  va : Option Nat
  /-- the port it was last sent on -/
  port : Option LinkPort
  opc : BitVec 8
  xfer : Option (BitVec 16)
  pkts : List Packet
  vc : Nat
  /-- it has been sent; at most 4,096 requests to one destination are outstanding (R346, R399) -/
  sent : Bool
  age : Nat
  retries : Nat
  owner : ReqOwner
  /-- a read's data as far as it has arrived, by address, and whether a unit of it was poisoned -/
  got : List (W64 × List (BitVec 128))
  poisoned : Bool
deriving DecidableEq, Repr

/-- An open-transfer table entry (R396). -/
structure OpenXfer where
  id : Nat
  /-- the port and the tag of its first packet -/
  port : LinkPort
  tag : BitVec 12
  tenant : Tenant
  isWrite : Bool
  mcast : Bool
  count : Nat
  pktCount : Option Nat
  settled : Nat
  status : Status
  addr : W64
  bytes : Nat
  age : Nat
deriving DecidableEq, Repr

/-- A policer (R405 to R408, R415). -/
structure Policer where
  entry : BitVec 128
  tc : Nat
  tp : Nat
deriving DecidableEq, Repr

def Policer.reset : Policer := ⟨0#128, 0, 0⟩

/-- A shaper (R410 to R412, R416). -/
structure Shaper where
  entry : BitVec 128
  tokens : Nat
deriving DecidableEq, Repr

def Shaper.reset : Shaper := ⟨0#128, 0⟩

/-- A staged table write and the boundaries passed since it was accepted. -/
structure Staged (w : Nat) where
  entry : BitVec w
  age : Nat
deriving DecidableEq, Repr

/-- The router. -/
structure Rtr where
  nodeId : Ep
  activeGen : Bool
  /-- boundaries until the drain window closes; none when no copy drains (R392) -/
  drain : Option Nat
  /-- a switch accepted, with the boundaries passed since -/
  switch : Option Nat
  adaptEn : Bool
  ports : SMap PortCtrl
  timeout : BitVec 8
  retryMax : BitVec 4
  xferTimeout : BitVec 8
  /-- route tables by copy × 16,384 + endpoint -/
  routes : SMap W32
  /-- entries found uncorrectable and not rewritten since (R386), numbered as in routes -/
  routeUe : List Nat
  mcast : SMap (BitVec 48)
  mcastNext : SMap (Staged 48)
  policers : SMap Policer
  policersNext : SMap (Staged 128)
  shapers : SMap Shaper
  shapersNext : SMap (Staged 128)
  /-- open transfers by SRC × 2^16 + XFER -/
  xfers : SMap OpenXfer
  nextXid : Nat
  /-- multicast and unicast writes completed by count, by address and length, that a REDUCE_SCATTER may recognise (R170) -/
  landed : List (W64 × Nat)
  /-- requests received whose port was lost before they were answered, and the device's own that ended LINK_LOST (R371, R372): the
  port, the other end, and the tag, or 4,096 plus the transfer number -/
  goneIn : List (LinkPort × Ep × Nat)
  goneOut : List (LinkPort × Ep × Nat)
  reqs : SMap DevReq
  nextReq : Nat
  /-- next tag by destination -/
  nextTag : SMap Nat
  /-- next XFER number by destination (R399) -/
  nextXfer : SMap Nat
  /-- transmit queues by port -/
  txq : SMap (List QPkt)
  /-- last shaper queue served, by port × 4 + class; last slot chosen adaptively, by endpoint -/
  rr : SMap Nat
  rrSlot : SMap Nat
  /-- report codes raised in this tick (R413) -/
  reported : List (BitVec 8)
  inbox : List InPkt
deriving DecidableEq, Repr

/-! ### Phosha Link and work queues (spec/12) -/

/-- A PLK_GRANT entry (R427). -/
structure Grant where
  tenant : Tenant
  ep : Ep
  mask : Ep
deriving DecidableEq, Repr

/-- A queue pair's state other than FREE (R432). -/
inductive QpState where
  | active | error | halted | draining
deriving DecidableEq, Repr

/-- What QP_CREATE sets (R430). -/
structure QpCfg where
  port : PlPort
  tenant : Tenant
  ep : Ep
  provisional : Bool
  ringPool : Bool
  cls : BitVec 2
  dbFabric : Bool
  sqLog : Nat
  cqLog : Nat
  coalCount : Nat
  vector : BitVec 16
  stashEp : Ep
  dbEp : Ep
  asid : BitVec 20
  maxInflight : Nat
  coalTicks : Nat
  sqAddr : W64
  cqAddr : W64
  notifyAddr : W64
deriving DecidableEq, Repr

/-- A fetched descriptor: its ring slot, and the operation it was admitted as. -/
structure Held where
  desc : Desc
  slot : Nat
  op : Option Nat
  /-- its completion record is due or waiting, so its store slot is held only until the record is written -/
  done : Bool
deriving DecidableEq, Repr

/-- A queue pair that is not FREE. -/
structure QPair where
  cfg : QpCfg
  state : QpState
  sqTail : Nat
  fetch : Nat
  cqHead : Nat
  cqNext : Nat
  phase : Bool
  csn : Csn
  held : SMap Held
  nextHeld : Nat
  recs : List Rec
  sinceIntr : Nat
  coalAge : Option Nat
  /-- record writes sent and not acknowledged, and whether an interrupt follows their acknowledgement -/
  unacked : Nat
  intrDue : Bool
  /-- HALTED before DRAINING: records are discarded (R432) -/
  dropRecords : Bool
  /-- admin commands that complete when the queue pair reaches FREE: port and CMD_ID and FLAGS.INTR -/
  destroyers : List (PlPort × BitVec 16 × Bool)
deriving DecidableEq, Repr

/-- A port's admin queue and its registers (R428, R453, R454). -/
structure Admin where
  sqAddr : W64
  cqAddr : W64
  enable : Bool
  sqLog : BitVec 4
  cqLog : BitVec 4
  vector : BitVec 11
  intrEn : Bool
  sqTail : Nat
  fetch : Nat
  cqHead : Nat
  cqNext : Nat
  phase : Bool
  held : List Desc
  /-- the command at the head waits for something to finish -/
  busy : Bool
  recs : List Rec
deriving DecidableEq, Repr

def Admin.reset : Admin :=
  { sqAddr := 0#64, cqAddr := 0#64, enable := false, sqLog := 4#4, cqLog := 4#4, vector := 0#11, intrEn := false,
    sqTail := 0, fetch := 0, cqHead := 0, cqNext := 0, phase := true, held := [], busy := false, recs := [] }

/-- An operation that the queue engine has admitted and that has not completed. -/
structure OpRec where
  qp : Qp
  held : Nat
  opcode : BitVec 8
  csn : Csn
  desc : Desc
  tenant : Tenant
  ep : Ep
  /-- it starts no new work: refused, aborted (R446) or FATAL (R212), with the status it will complete with -/
  ending : Option Status
  tileStatus : BitVec 16
  /-- its effects are done and only acknowledgements of its writes are awaited: the status and value it completes with -/
  due : Option (Status × W64)
  /-- the addresses of its address list, as the queue engine read them before admission (R145) -/
  list : List Nat
  /-- host pages it has had translated: physical address by page, twice the page number plus 1 for a write (R144) -/
  pages : SMap Nat
  /-- the block that a built-in operation is bound to (R124, R143) -/
  block : Option BlockId
  /-- the REGION_MASK of a built-in operation (R143) -/
  mask : BitVec 8
  /-- what its reads outside the node have returned: host or not, address, bytes -/
  got : List (Bool × Nat × List Byte)
  /-- its accesses outside the node that wait for the engine to have room (R92) -/
  todo : List OutPart
  /-- a tile of it has waited for a check cell (R199) -/
  waited : Bool
deriving DecidableEq, Repr

/-- Phosha Link and the queue engine. -/
structure Que where
  active : PlPort
  failover : Bool
  /-- the port that becomes active at step 10 of the next boundary, with the boundaries passed since (R424) -/
  takeover : Option (PlPort × Nat)
  grants : SMap (List Grant)
  qps : SMap QPair
  admin : SMap Admin
  ops : SMap OpRec
  nextOp : Nat
deriving DecidableEq, Repr

/-! ### Address translation (spec/13) -/

/-- The table format of an address space (R459). -/
inductive XltMode where
  | sv39 | sv48 | sv57 | radix
deriving DecidableEq, Repr

/-- A radix descriptor (R463). -/
structure Radix where
  levels : Nat
  entryBytes : Nat
  validBit : Nat
  leafBit : Nat
  leafVal : Nat
  writeBit : Nat
  writeVal : Nat
  accessBit : Nat
  addrLo : Nat
  addrHi : Nat
  addrShift : Nat
  vaExt : Nat
  idxLo : List Nat
  idxBits : List Nat
deriving DecidableEq, Repr

/-- An address space (R457). -/
structure AddrSpace where
  port : PlPort
  tenant : Tenant
  mode : XltMode
  requireU : Bool
  root : W64
  radix : Option Radix
deriving DecidableEq, Repr

/-- A cached translation (R466). -/
structure TlbEntry where
  asid : BitVec 20
  /-- virtual page number in units of the page size -/
  vpage : Nat
  /-- 12, 21 or 30 -/
  size : Nat
  ppage : Nat
  r : Bool
  w : Bool
  d : Bool
deriving DecidableEq, Repr

/-- A walk-cache entry: a non-leaf entry by ASID, level and virtual address prefix. -/
structure WalkCacheEntry where
  asid : BitVec 20
  level : Nat
  pfx : Nat
  pa : Nat
deriving DecidableEq, Repr

/-- What waits on a walk or a fault (R467, R470, R471). -/
inductive XltUnit where
  | ring (qp : Qp)
  | record (qp : Qp)
  /-- the argument block of a RUN_REEL not yet admitted: its held descriptor -/
  | args (qp : Qp) (held : Nat)
  /-- a summary an operation writes (R258) -/
  | result (op : Nat)
  | copySet (run : Nat) (lc : Nat) (inbound : Bool)
deriving DecidableEq, Repr

/-- A walk in flight (R464, R467). -/
structure Walk where
  asid : BitVec 20
  va : Nat
  write : Bool
  prefetch : Bool
  level : Nat
  pa : Nat
  units : List XltUnit
  /-- the block whose TLB missed, or none for the queue TLB -/
  block : Option BlockId
  /-- an INVAL has passed: its result is neither installed nor used (R475) -/
  stale : Bool
deriving DecidableEq, Repr

/-- An outstanding fault (R471). -/
structure FaultEntry where
  id : BitVec 16
  asid : BitVec 20
  page : Nat
  write : Bool
  units : List XltUnit
  record : List Byte
  port : PlPort
  written : Bool
deriving DecidableEq, Repr

/-- A port's fault ring (R472, R481). -/
structure FaultRing where
  addr : Option W64
  log : Nat
  vector : BitVec 16
  next : Nat
  phase : Bool
  head : BitVec 12
deriving DecidableEq, Repr

def FaultRing.reset : FaultRing := ⟨none, 4, 0xFFFF#16, 0, true, 0#12⟩

/-- An INVAL in progress (R475). -/
structure Inval where
  port : PlPort
  asid : BitVec 20
  /-- engines that have not acknowledged: 0 to 63 blocks, 64 the queue engine -/
  left : List Nat
  /-- requests in flight at the invalidation point that are not yet answered, with the engine of each (R476) -/
  drain : List (Nat × Nat)
deriving DecidableEq, Repr

/-- Translation. -/
structure Xlt where
  spaces : SMap AddrSpace
  /-- block TLBs by block, most recently used first -/
  blockTlb : SMap (List TlbEntry)
  queueTlb : List TlbEntry
  /-- the chip TLB: ways of each set, by set, most recently filled first -/
  chipTlb : SMap (List TlbEntry)
  walkCache : List WalkCacheEntry
  walks : SMap Walk
  nextWalk : Nat
  /-- misses waiting for one of the 64 walks -/
  waiting : List Walk
  faults : List FaultEntry
  nextFault : BitVec 16
  /-- units that wait for a free fault entry -/
  tableWaiters : List Walk
  tableFullReported : Bool
  rings : SMap FaultRing
  invals : List Inval
  faultTimeout : BitVec 8
  prefetchEn : Bool
  prefetchMax : BitVec 6
deriving DecidableEq, Repr

/-! ### Self-test, debug and telemetry (spec/16) -/

/-- A trace record (R583). -/
structure TraceRec where
  tick : W32
  clock : BitVec 16
  cell : BitVec 16
  loss : Bool
  figure : BitVec 8
  stall : BitVec 8
  step : W32
deriving DecidableEq, Repr

/-- A trace slot: its registers (R594), its write position, the staged samples and the samples dropped (R584, R585). -/
structure TraceSlot where
  enable : Bool
  interval : BitVec 4
  qp : Qp
  log : BitVec 5
  addr : BitVec 42
  head : Nat
  phase : Bool
  next : Nat
  /-- samples staged in each cell's system area, oldest first, at most 64 a cell (R584) -/
  staged : List (CellId × TraceRec)
  dropped : Nat
deriving DecidableEq, Repr

def TraceSlot.reset : TraceSlot := ⟨false, 4#4, 0, 8#5, 0#42, 0, true, 0, [], 0⟩

/-- DBG_FATAL_STATUS.DUMP_STATE (R595). -/
inductive DumpState where
  | none | writing | ready | partialDump | failed | readyAfterReset | damagedAfterReset
deriving DecidableEq, Repr

/-- The pins as JTAG drives them (R586, R588). -/
inductive JtagPins where
  | functional | extest | clamp | highz
deriving DecidableEq, Repr

/-- The selected data register (R586). -/
inductive JtagReg where
  | bypass | idcode | boundary | dbgAccess | dbgHalt
deriving DecidableEq, Repr

/-- Self-test status, tracing, JTAG, the fatal dump and tenant telemetry. -/
structure Dbg where
  katDone : Bool
  katFails : Nat
  reduced : Bool
  verdict : Bool
  lbistFails : Nat
  /-- the verdict record in use: FAIL_MASK and the boots since it (R576) -/
  lbistMask : BitVec 128
  lbistAge : Option Nat
  traces : SMap TraceSlot
  fatal : Bool
  fatalUnit : BitVec 16
  dumpState : DumpState
  /-- chip faults after the one that made the node fatal (R589) -/
  laterFaults : Nat
  /-- the 4 KiB header of the dump in the dump area (R590), and which dump it is -/
  dumpHeader : SMap Byte
  dumpBytes : Nat
  dumpSerial : Nat
  jtagIr : BitVec 8
  jtagReg : JtagReg
  jtagBoundary : PinSample
  jtagPins : JtagPins
  halted : List BlockId
  /-- remainders below 64 KiB of the byte counters, by counter × 1,024 + tenant (R580) -/
  tenRem : SMap Nat
  /-- published copies, by counter × 1,024 + tenant, and their tick (R581) -/
  tenPub : SMap Nat
  tenTick : W64
deriving DecidableEq, Repr

/-! ### Security (spec/14) -/

/-- A stream key slot's state (R507). -/
inductive SlotState where
  | empty | loaded | active | retiring
deriving DecidableEq, Repr

/-- A stream key slot: its state, its key, and the NONCE of the next packet under it (R504, R507). -/
structure KeySlot where
  state : SlotState
  key : List Byte
  nonce : Nat
deriving DecidableEq, Repr

def KeySlot.empty : KeySlot := ⟨.empty, [], 0⟩

/-- A tenant (R499, R500, R503, R507, R508, R513). -/
structure TenantRec where
  key : Option (List Byte)
  /-- enrolled reel-signing keys, in enrolment order -/
  reelKeys : List (List Byte)
  /-- ENC_MODE is REQUIRED -/
  required : Bool
  /-- a mode accepted and not yet in effect, with the boundaries passed since -/
  modeNext : Option (Bool × Nat)
  slot0 : KeySlot
  slot1 : KeySlot
  /-- a KEY_SWITCH accepted and not yet in effect, with the boundaries passed since -/
  switch : Option Nat
  /-- boundaries since KEY_CONFIRM was accepted -/
  confirmed : Option Nat
  /-- a TENANT_REMOVE accepted whose fence is not set, with the boundaries passed since -/
  removing : Option Nat
  fenced : Bool
  /-- ticks since the fence -/
  fenceTicks : Nat
  /-- the message that TENANT_REMOVE came in, by its number among the deferred -/
  remover : Option Nat
deriving DecidableEq, Repr

def TenantRec.reset : TenantRec :=
  ⟨none, [], false, none, KeySlot.empty, KeySlot.empty, none, none, none, false, 0, none⟩

/-- A link key of a Phosha Link port (R501, R502): the tenant whose session installed it, and the packet counters of both
directions. -/
structure LinkKeySlot where
  key : Option (List Byte)
  owner : Tenant
  txCount : Nat
  rxCount : Nat
deriving DecidableEq, Repr

def LinkKeySlot.empty : LinkKeySlot := ⟨none, 0#10, 0, 0⟩

/-- Link encryption of a Phosha Link port (R450, R501, R502). -/
structure PortCrypto where
  slot0 : LinkKeySlot
  slot1 : LinkKeySlot
  /-- the slot the device sends under, once switched on -/
  sendSlot : Option Bool
  /-- ENC_REQ -/
  required : Bool
  /-- an old slot whose retirement has been confirmed, with the boundaries passed since -/
  retire : Option (Bool × Nat)
  /-- the slot the device sends under once a LINK_KEY's response has left, and the response's request (R501) -/
  sendNext : Option (Bool × Nat)
deriving DecidableEq, Repr

def PortCrypto.reset : PortCrypto := ⟨LinkKeySlot.empty, LinkKeySlot.empty, none, false, none, none⟩

/-- A session's kind (R492). -/
inductive SessKind where
  | operator
  | tenant (t : Tenant)
deriving DecidableEq, Repr

/-- A session or handshake (R492, R493). -/
structure Session where
  kind : SessKind
  /-- SESSION_FINISH has succeeded -/
  isOpen : Bool
  /-- the handshake's message bodies so far -/
  transcript : List Byte
  shared : List Byte
  certs : List (List Byte)
  keyIn : List Byte
  keyOut : List Byte
  seqIn : Nat
  seqOut : Nat
  /-- the last response, for a repeated request -/
  last : Option (List Byte)
  /-- the port of the mailbox it was opened through, or none for the management port -/
  port : Option PlPort
  /-- a FW_UPDATE open in it: the set's size and the bytes received -/
  update : Option (Nat × List Byte)
deriving DecidableEq, Repr

/-- A request that Headland has received whole and authenticated, and the path its response takes: a port's mailbox, or the
management port with the source's address. -/
structure SecMsg where
  port : Option PlPort
  src : W64
  cmd : BitVec 8
  prot : Bool
  sess : Nat
  seq : Nat
  body : List Byte
  /-- a MGMT message whose management command has begun and not answered yet -/
  started : Bool
deriving DecidableEq, Repr

/-- A port's mailbox registers (R524). -/
structure Mbox where
  reqAddr : W64
  rspAddr : W64
  reqLen : BitVec 15
  rspMax : BitVec 15
  intrEn : Bool
  vector : BitVec 11
  busy : Bool
  done : Bool
  rspLen : BitVec 15
  /-- GO was written through the register path, and Headland has yet to read the request buffer (R524) -/
  asked : Bool
deriving DecidableEq, Repr

def Mbox.reset : Mbox := ⟨0#64, 0#64, 0#15, 0#15, false, 0#11, false, false, 0#15, false⟩

/-- A management message whose fragments have not all arrived (R495). -/
structure FragSet where
  src : W64
  msgNo : W32
  count : Nat
  frags : SMap (List Byte)
deriving DecidableEq, Repr

/-- Headland. -/
structure Sec where
  tenants : SMap TenantRec
  crypto : SMap PortCrypto
  mboxes : SMap Mbox
  sessions : SMap Session
  nextSess : Nat
  frags : List FragSet
  /-- requests received, each taken by the command's own row -/
  msgs : List SecMsg
  /-- requests whose response waits for something -/
  deferred : SMap SecMsg
  nextDeferred : Nat
  /-- the enrolled operator root (R494) -/
  root : Option (List Byte)
  debugUnlocked : Bool
  /-- the challenge of DEBUG_UNLOCK that still serves a token, and its age in µs as the ticks give it (R486) -/
  challenge : Option (List Byte × Nat)
  /-- the four measurements of R485, the security version and the release pairing of the running set -/
  measures : List (List Byte)
  svn : W32
  released : Bool
  /-- management codes that a MGMT message waits for, and the answers that have come (R491) -/
  mgmtWaits : List (BitVec 8)
  mgmtReplies : List (BitVec 8 × Nat × List Byte)
  /-- an AUTH_FAIL report of R506 has been raised in this tick -/
  authReported : Bool
deriving DecidableEq, Repr

/-! ### Reset, boot and power (spec/15, 17) -/

/-- PLT_BOOT_STATUS.PHASE (R534). -/
inductive Phase where
  | rom | downloadWait | fwStart | train | kat | fill | ready | recovery | shutdown | offReady | tripped
deriving DecidableEq, Repr

/-- A feed controller's health (R548, R561). -/
inductive Health where
  | healthy | degraded | failed
deriving DecidableEq, Repr

/-- A bank's state in the flash header (R536). -/
inductive BankState where
  | empty | valid | failed
deriving DecidableEq, Repr

/-- The flash header copy in force (R536). -/
structure FlashHeader where
  seq : Nat
  active : Option (Fin 2)
  pendingBank : Option (Fin 2)
  state0 : BankState
  state1 : BankState
deriving DecidableEq, Repr

/-- The boot flash (R535, R544): the header in force, the image sets, and the newest records of the persistent store. -/
structure Flash where
  present : Bool
  header : FlashHeader
  /-- the other copy, which stays in force until the newer one is whole -/
  older : Option FlashHeader
  bank0 : List Byte
  bank1 : List Byte
  recovery : List Byte
  root : Option (List Byte)
  /-- KIND of the newest shut-down record, and the record -/
  shutdown : Option (Nat × List Byte)
  /-- the newest verdict record (R570) -/
  verdict : Option (List Byte)
  bootCount : Nat
deriving DecidableEq, Repr

/-- The power control of a block or stack (R550 to R553, R563). -/
structure PowerUnit where
  ceil : BitVec 10
  ceilNext : BitVec 10
  duty : Nat
  thermDuty : Nat
  temp : BitVec 8
  /-- the last 8 estimates, and those of the last 1 ms summed and counted, in 1/8 W -/
  means : List Nat
  recent : List Nat
deriving DecidableEq, Repr

/-- An orderly shut-down (R555, R556). -/
inductive Shut where
  | none
  /-- requested, with the boundaries passed since -/
  | asked (age : Nat)
  /-- requested before READY, while a handover was under way, which completes first (R549, R555) -/
  | early
  /-- PHASE is SHUTDOWN and operations drain -/
  | draining
  /-- what was still held has been aborted, and records and verdicts are written -/
  | closing
  /-- ports are DISABLED and the record PENDING is written; the logic self-test runs -/
  | testing
  | done
deriving DecidableEq, Repr

/-- A handover in progress (R547, R548): the controller that takes the load, in BOX mode or not. -/
structure Handover where
  target : Side
  box : Bool
  proving : Bool
deriving DecidableEq, Repr

/-- The management lanes (R605). -/
structure MgmtPort where
  mode : MgmtMode
  locked : Bool
deriving DecidableEq, Repr

/-- Reset, clocks, boot, feeds, power and pins. -/
structure Plt where
  /-- the regulators report power-good -/
  powered : Bool
  /-- RESET_N has been released (R530); it stays so on a board that leaves it undriven -/
  resetReleased : Bool
  /-- reset is asserted, or the logic has not yet left it -/
  resetHeld : Bool
  /-- the completion point has come and the straps are latched (R531) -/
  resetDone : Bool
  /-- the boot watchdog restarts the device into the recovery image (R540) -/
  recoverNext : Bool
  tripped : Bool
  phase : Phase
  strapBoot : BitVec 2
  strapClk : BitVec 2
  bank : BitVec 2
  failCause : BitVec 3
  abruptLast : Bool
  inUse : Side
  aOk : Bool
  bOk : Bool
  /-- a reference is lost (R529) -/
  aLost : Bool
  bLost : Bool
  switched : Bool
  shelfCalibrated : Bool
  downloaded : List Byte
  /-- bytes of a set received over the management port, by offset (R543) -/
  download : SMap Byte
  flash : Flash
  fuses : SMap W32
  feedMode : Bool
  proveEn : Bool
  proveS : BitVec 8
  holder : Side
  aHealth : Health
  bHealth : Health
  aPresent : Bool
  bPresent : Bool
  feedLost : BitVec 2
  handover : Option Handover
  /-- who holds the lease in BOX mode (R547) -/
  lease : Option Side
  provingStopped : Bool
  blockPwr : SMap PowerUnit
  stackPwr : SMap PowerUnit
  thermOn : BitVec 8
  thermOff : BitVec 8
  drainMs : BitVec 10
  shut : Shut
  /-- the boot flash pins and THERM_TRIP_N, and TIDE_OUT and SHDN_DONE, have been taken from their fuse states (R600) -/
  romPins : Bool
  fwPins : Bool
  /-- SHDN_DONE is driven high; THERM_TRIP_N is driven low -/
  shdnDone : Bool
  thermTrip : Bool
  mgmt : MgmtPort
deriving DecidableEq, Repr

/-! ### The state -/

/-- What a command sends out of the device. -/
inductive Out where
  /-- an error report, over the management port (R218) -/
  | report (r : Report)
  /-- an extent's transition, over the management port (R280) -/
  | extEvent (e : ExtId) (state : BitVec 8) (tick : W64)
  /-- the answer of a management command: its code, its result (R278) and its bytes -/
  | mgmtReply (code : BitVec 8) (result : Nat) (bytes : List Byte)
  /-- data a memory controller returns: channel, local address, bytes, and the poisoned lines among them -/
  | memData (ch : MemCh) (addr : Nat) (data : List Byte) (poison : List Bool)
  /-- a flit sent on a port -/
  | flit (p : LinkPort) (f : BitVec 2048)
  /-- a training block sent on a port -/
  | training (p : LinkPort) (block : Line)
  /-- a register value returned to a reader: the path, the offset and the value -/
  | regData (via : RegPath) (offset : BitVec 24) (v : W64)
  /-- how a request that the device issued ended without an answer: its destination, tag and status, and whether its effect is unknown
  (R371, R395) -/
  | requestLost (dst : Ep) (tag : BitVec 12) (st : Status) (unknown : Bool)
  /-- bytes returned over JTAG -/
  | jtag (v : W64)
  /-- a message Headland sends: the port of its mailbox, or none for the management port, and the bytes -/
  | head (p : Option PlPort) (dst : W64) (bytes : List Byte)
deriving DecidableEq, Repr

/-- The T960. -/
structure State where
  tide : Tide
  arb : Arb
  health : SMap BlkHealth
  /-- work to be remapped at step 10 of the next boundary (R53) -/
  remap : List Remap
  fab : Fab
  ras : Ras
  /-- every counter (R577), by its register offset (R614); SAT is set when COUNT is 2^48 − 1 -/
  ctr : SMap Nat
  mem : Mem
  ext : Ext
  coh : Coh
  links : SMap Link
  rtr : Rtr
  que : Que
  xlt : Xlt
  sec : Sec
  dbg : Dbg
  plt : Plt
  /-- the audit unit's totals of the chip-scope quantities (R17), by quantity code (R220) -/
  audit : SMap Int
  /-- the model's own: how many free values have been drawn -/
  serial : Nat
  /-- the model's own: what the last command sent out -/
  out : List Out
  /-- the commands that wait, first in first out -/
  pending : List Instr
deriving DecidableEq, Repr

/-- Why the machine stops with a fault. -/
inductive Fault where
  /-- raised by a memory command whose physical granule number is 15,616 or more, which R225 says does not exist; safe -/
  | noSuchGranule
deriving DecidableEq, Repr

/-- Why a command has no meaning in this model. -/
inductive Refusal where
  /-- raised by the dispatch arm of a command that is not modelled yet; safe -/
  | notModelled (mnemonic : String)
deriving DecidableEq, Repr

/-! ### The state right after reset -/

/-- The tick at reset (R39, R40). -/
def Tide.reset : Tide :=
  { started := false, count := 0#64, countHi := 0#32, load := none, period := 1#4, periodNext := none, mode := .free,
    outEn := false, comp := 0#8, locked := false, holdover := false, periodMismatch := false, periodReject := false,
    pulseDiscard := false, countSlip := false, phaseError := 0#16, phase := .acquire, goodRun := 0, missRun := 0,
    mismatchRun := 0, edgeSeen := false, edgeNext := false, edgeKnown := false, markerDue := false, out := .low }

/-- The arbitration classes at reset (R48 to R51). -/
def ClassRegs.reset : ClassRegs := ⟨0xE5#8, 0x05#8, 0x5#4, 0x15#8⟩

/-- Check blocks at reset: block 7 of regions 7 and 6 (R193, R222, R223). -/
def Ras.reset : Ras :=
  { fraction := 1#3, hold := 2#4, active := 1#3, pendingFraction := false, fractionAge := 0, short := false, checkBlocks := [63, 55],
    leaving := [], checks := [], nextCheck := 0, marks := [], verdicts := [], ring := [], nextSeq := 1#32, isvEn := true,
    isvBlocks := 4#4, isvRouter := true, isvEcc := true, isvNext := 0, isvCell := [], isvSlots := [], isvFirst := [],
    isvTested := [], isvPasses := 0, isvRouterSlot := false, isvEccSlot := [], isvAttach := 0 }

def Fab.reset : Fab := ⟨[], [], [], [], [], [], [], [], 0, [], []⟩

/-- The memory controllers at reset (R263 to R267). -/
def Mem.reset : Mem :=
  { bytes := [], poison := [], chans := [], deepSched := ⟨0x10#5, 0x30#6, 0x10#6, 0x40#8⟩,
    shelfSched := ⟨0x10#5, 0x30#6, 0x10#6, 0x40#8⟩, deepRef := ⟨0x55#8, 0x50#8, 0xA#4, 0xD#4⟩,
    shelfRef := ⟨0x4B#8, 0x46#8, 0xA#4, 0xD#4⟩, thrOn := 0x5A#8, thrOff := 0x58#8, demandUnits := 0x80#8,
    patrolHours := 0x18#8, patrolEn := true, autoShelfMax := 0x04#8, autoShelfReserve := 0x20#8, deepStacks := [],
    zones := [], refCredit := [], patrolCredit := [], scrubs := [], nextStack := 0, nextTier := 0 }

def Ext.reset : Ext := ⟨[], [], []⟩

/-- COH_CTRL at reset (R334). -/
def Coh.reset : Coh :=
  { agents := [], dir := [], txns := [], queues := [], pred := [], mode := .predict, nearAt := 2#2, farAt := 2#2,
    snpTimeout := 0x14#6, stashEn := true, sweeps := [], recalls := [], recover := [] }

/-- The router at reset (R417 to R419). -/
def Rtr.reset : Rtr :=
  { nodeId := 0x3FFF#14, activeGen := false, drain := none, switch := none, adaptEn := true, ports := [], timeout := 0x20#8,
    retryMax := 3#4, xferTimeout := 0x10#8, routes := [], routeUe := [], mcast := [], mcastNext := [], policers := [], policersNext := [],
    shapers := [], shapersNext := [], xfers := [], nextXid := 0, landed := [], goneIn := [], goneOut := [], reqs := [], nextReq := 0, nextTag := [], nextXfer := [], txq := [],
    rr := [], rrSlot := [], reported := [], inbox := [] }

def Que.reset : Que := ⟨0, false, none, [], [], [], [], 0⟩

/-- XLT_CTRL at reset (R480). -/
def Xlt.reset : Xlt :=
  { spaces := [], blockTlb := [], queueTlb := [], chipTlb := [], walkCache := [], walks := [], nextWalk := 0, waiting := [],
    faults := [], nextFault := 0#16, tableWaiters := [], tableFullReported := false, rings := [], invals := [],
    faultTimeout := 0x64#8, prefetchEn := true, prefetchMax := 0x10#6 }

def Sec.reset : Sec :=
  { tenants := [], crypto := [], mboxes := [], sessions := [], nextSess := 1, frags := [], msgs := [], deferred := [],
    nextDeferred := 0, root := none, debugUnlocked := false, challenge := none, measures := [], svn := 0#32,
    released := false, mgmtWaits := [], mgmtReplies := [], authReported := false }

/-- Self-test, trace, JTAG and dump state at reset (R593 to R595); the JTAG port starts with IDCODE selected. -/
def Dbg.reset : Dbg :=
  { katDone := false, katFails := 0, reduced := false, verdict := false, lbistFails := 0, lbistMask := 0#128,
    lbistAge := none, traces := [], fatal := false, fatalUnit := 0#16, dumpState := .none, laterFaults := 0,
    dumpHeader := [], dumpBytes := 0, dumpSerial := 0, jtagIr := 0x01#8, jtagReg := .idcode, jtagBoundary := 0#29,
    jtagPins := .functional, halted := [], tenRem := [], tenPub := [], tenTick := 0#64 }

/-- A ceiling at reset (R550, R563), in 1/8 W. -/
def blockCeilReset : BitVec 10 := if Config.aq then 0x010#10 else 0x020#10
def stackCeilReset : BitVec 10 := if Config.aq then 0x078#10 else 0x100#10

def PowerUnit.reset (c : BitVec 10) : PowerUnit :=
  { ceil := c, ceilNext := c, duty := 16, thermDuty := 16, temp := 0#8, means := [], recent := [] }

/-- A blank boot flash. -/
def Flash.blank : Flash :=
  { present := true, header := ⟨0, none, none, .empty, .empty⟩, older := none, bank0 := [], bank1 := [], recovery := [], root := none,
    shutdown := none, verdict := none, bootCount := 0 }

/-- The platform when the logic has left reset and phase ROM begins (R531, R534, R560 to R564). -/
def Plt.reset : Plt :=
  { powered := true, resetReleased := true, resetHeld := false, resetDone := true, recoverNext := false, tripped := false, phase := .rom,
    strapBoot := 0#2, strapClk := 0#2, bank := 3#2, failCause := 0#3, abruptLast := false, inUse := .a, aOk := false,
    bOk := false, aLost := false, bLost := false, switched := false, shelfCalibrated := false, downloaded := [], download := [], flash := Flash.blank,
    fuses := [], feedMode := false, proveEn := false, proveS := 0x3C#8, holder := .a, aHealth := .healthy,
    bHealth := .healthy, aPresent := false, bPresent := false, feedLost := 0#2, handover := none, lease := none,
    provingStopped := false, blockPwr := [], stackPwr := [], thermOn := 0x69#8, thermOff := 0x66#8, drainMs := 0x032#10,
    shut := .none, romPins := true, fwPins := false, shdnDone := false, thermTrip := false, mgmt := ⟨.baseR10G, false⟩ }

/-- The machine right after reset: every register at its reset value, the pool and every queue empty, the Phosha Link ports
listed because a port that is not reads as a TFL port. -/
def State.reset : State :=
  { tide := Tide.reset, arb := ⟨ClassRegs.reset, ClassRegs.reset, [], [], false⟩, health := [], remap := [], fab := Fab.reset,
    ras := Ras.reset, ctr := [], mem := Mem.reset, ext := Ext.reset, coh := Coh.reset,
    links := [(32, Link.resetPl), (33, Link.resetPl)], rtr := Rtr.reset, que := Que.reset, xlt := Xlt.reset,
    sec := Sec.reset, dbg := Dbg.reset, plt := Plt.reset, audit := [], serial := 0, out := [], pending := [] }

end Sys2Proof.Machine
end

