-- ==== Sys2Proof/Machine/Ops.lean ====
section
/-! DEFINITION. The operations that every family shares: what a command sends out, counters (R577, R578), error reports (R218 to
R221), the audit unit's ledger (R17), the containment state (R52, R57) and the node-fatal entry (R589). -/

namespace Sys2Proof.Machine

/-- The state before a command's effects: nothing sent yet. -/
def State.quiet (s : State) : State := { s with out := [] }

/-- Send something out. -/
def State.emit (s : State) (o : Out) : State := { s with out := s.out ++ [o] }

/-- Answer a management command: its code, its result (R278) and its bytes; a MGMT message that waits for it will carry it (R491). -/
def State.reply (s : State) (code : BitVec 8) (result : Nat) (bytes : List Byte) : State :=
  let s1 := s.emit (.mgmtReply code result bytes)
  if s1.sec.mgmtWaits.contains code then
    { s1 with sec := { s1.sec with mgmtWaits := s1.sec.mgmtWaits.erase code,
                                   mgmtReplies := s1.sec.mgmtReplies ++ [(code, result, bytes)] } }
  else s1

/-- A fresh free value's number, and the state that has drawn it. -/
def State.draw (s : State) : Nat × State := (s.serial, { s with serial := s.serial + 1 })

/-- The device serves commands: it is powered, out of reset, not fatal (R589) and not tripped (R554). -/
def State.live (s : State) : Bool := s.plt.powered && !s.plt.resetHeld && !s.plt.tripped && !s.dbg.fatal

/-- Every port in DISABLED (R589 step 2). -/
def portsDown (m : SMap Link) : SMap Link :=
  (List.finRange 34).foldl (fun m (p : LinkPort) => mmod Link.resetTfl m p.val (fun l => { l with state := .disabled })) m

/-- What a command leaves behind: the queue as it was, and in a node-fatal state every port in DISABLED, whatever the command did to it after
the fault (R589). -/
def State.settle (s t : State) : State :=
  let links := if t.dbg.fatal then portsDown t.links else t.links
  { t with links := links, pending := s.pending }

/-- A meaning that a device has in every state. -/
def State.always (s : State) (f : State → State) : State := s.settle (f s)

/-- A meaning that only a live device has; otherwise nothing happens. -/
def State.whenLive (s : State) (f : State → State) : State := if s.live then s.settle (f s) else s

/-- The tide tick period in µs (R25). -/
def State.periodUs (s : State) : Nat := s.tide.period.toNat + 1

/-! Digests. -/

/-- SHA3-512's 64 bytes. -/
def sha3 (bs : List Byte) : List Byte := List.takeD 64 (Config.sha3 bs) 0#8

/-! Counters. -/

/-- COUNT at its maximum, where SAT is 1 (R577). -/
def ctrMax : Nat := 0xFFFFFFFFFFFF

/-- The offset of instance i of the k-th counter of the block at base (R614). -/
def ctrOff (base k i : Nat) : Nat := base + 0x2000 * k + 8 * i

def ctrPlt (k i : Nat) : Nat := ctrOff 0x080000 k i
def ctrReel (k i : Nat) : Nat := ctrOff 0x180000 k i
def ctrRas (k : Nat) : Nat := ctrOff 0x280000 k 0
def ctrRtr (k : Nat) : Nat := ctrOff 0x380000 k 0
def ctrTfl (k i : Nat) : Nat := ctrOff 0x480000 k i
def ctrQue (k i : Nat) : Nat := ctrOff 0x580000 k i
def ctrXlt (k i : Nat) : Nat := ctrOff 0x680000 k i
def ctrExt (k : Nat) : Nat := ctrOff 0x780000 k 0
def ctrCoh (k : Nat) : Nat := ctrOff 0x880000 k 0
def ctrMem (k i : Nat) : Nat := ctrOff 0x980000 k i
def ctrSec (k : Nat) : Nat := ctrOff 0xA80000 k 0
def ctrDbg (k i : Nat) : Nat := ctrOff 0xB80000 k i
def ctrTen (k i : Nat) : Nat := ctrOff 0xC00000 k i

/-- How many instances the counters of each block have, in the order of their listing (R103, R141, R224, R268, R305, R336, R379,
R420, R456, R482, R526, R565, R580, R596, R615). -/
def ctrBlocks : List (Nat × List Nat) :=
  [(0x080000, [1, 1, 64, 12]), (0x180000, [64, 8, 64, 64]), (0x280000, [1, 1, 1, 1, 1, 1, 1, 1]),
   (0x380000, [1, 1, 1, 1, 1, 1, 1, 1, 1, 1, 1, 1]), (0x480000, [128, 32, 32, 32, 32, 32, 32, 32, 32, 32, 32]),
   (0x580000, [1, 1, 1, 1, 1, 2, 2, 2]), (0x680000, [64, 1, 1, 1, 1, 1, 1]), (0x780000, [1, 1, 1]),
   (0x880000, [1, 1, 1, 1, 1, 1, 1, 1, 1, 1, 1, 1]), (0x980000, [12, 12, 2, 2, 1, 1, 1, 12, 2, 12]),
   (0xA80000, [1, 1, 1, 1, 1]), (0xB80000, [16, 16]), (0xC00000, [1024, 1024, 1024, 1024, 1024, 1024, 1024, 1024, 1024])]

/-- The block, counter and instance an offset names, if it names a counter. -/
def ctrName (off : Nat) : Option (Nat × Nat × Nat) :=
  match ctrBlocks.find? (fun b => decide (b.1 ≤ off) && decide (off < b.1 + 0x2000 * b.2.length)) with
  | none => none
  | some (base, ns) =>
    let k := (off - base) / 0x2000
    let i := (off - base) % 0x2000 / 8
    if off % 8 = 0 ∧ i < ns.getD k 0 then some (base, k, i) else none

/-- COUNT of a counter. -/
def State.counter (s : State) (off : Nat) : Nat := mget 0 s.ctr off

/-- A counter as its 64-bit register reads: COUNT in [47:0], SAT in [48] (R103). -/
def ctrValue (n : Nat) : W64 := BitVec.ofNat 64 (n + if n = ctrMax then 2 ^ 48 else 0)

/-! Reports. -/

/-- UNIT codes (R221). -/
def unitChip : BitVec 16 := 0#16
def unitRegion (r : RegionId) : BitVec 16 := BitVec.ofNat 16 (0x1000 + r.val)
def unitBlock (b : BlockId) : BitVec 16 := BitVec.ofNat 16 (0x2000 + b.val)
def unitCell (c : CellId) : BitVec 16 := BitVec.ofNat 16 (0x3000 + c.val)
def unitPort (p : LinkPort) : BitVec 16 :=
  BitVec.ofNat 16 (if p.val < 32 then 0x4000 + p.val else 0x5000 + (p.val - 32))
def unitStack (st : Nat) : BitVec 16 := BitVec.ofNat 16 (0x6000 + st)
def unitChan (ch : MemCh) : BitVec 16 :=
  BitVec.ofNat 16 (if ch.val < 384 then 0x7000 + ch.val else 0x8000 + (ch.val - 384))
def unitSlice (sl : Nat) : BitVec 16 := BitVec.ofNat 16 (0x9000 + sl)
def unitRouter : BitVec 16 := 0xA000#16
def unitRing : BitVec 16 := 0xA001#16
def unitQueue : BitVec 16 := 0xA002#16
def unitAudit : BitVec 16 := 0xA003#16
def unitHeadland : BitVec 16 := 0xA004#16
def unitTideIn : BitVec 16 := 0xA006#16

/-- A report of one source and code about one unit, with no operation named; TICK, TEMP, VOLT and SEQ are filled in when it is
raised. -/
def mkReport (source code severity : Nat) (unit : BitVec 16) (d0 d1 : Nat) : Report :=
  { severity := BitVec.ofNat 8 severity, source := BitVec.ofNat 8 source, code := BitVec.ofNat 8 code, unit := unit,
    unit2 := 0xFFFF#16, tick := 0#64, temp := 0#16, volt := 0#16, qp := 0xFFFF#16, tenant := 0xFFFF#16, opcode := 0#8,
    desc := 0xFFFFFFFF#32, csn := 0#48, detail0 := BitVec.ofNat 64 d0, detail1 := BitVec.ofNat 64 d1, seq := 0#32 }

/-- The 64 bytes of a report (R219). -/
def reportBytes (r : Report) : List Byte :=
  [0x01#8, r.severity, r.code, r.source] ++ bytesOf r.unit 2 ++ bytesOf r.unit2 2 ++ bytesOf r.tick 8 ++ bytesOf r.temp 2 ++
  bytesOf r.volt 2 ++ bytesOf r.qp 2 ++ bytesOf r.tenant 2 ++ [r.opcode, 0#8, 0#8, 0#8] ++ bytesOf r.desc 4 ++
  bytesOf r.csn 6 ++ [0#8, 0#8] ++ bytesOf r.detail0 8 ++ bytesOf r.detail1 8 ++ bytesOf r.seq 4 ++ [0#8, 0#8, 0#8, 0#8]

/-- The report ring holds this many reports (R218). -/
def ringSize : Nat := 4096

/-- Put a report into the ring, the oldest giving way when it is full, and send it to the fabric manager. -/
def State.pushReport (s : State) (r : Report) : State :=
  let r' := { r with tick := s.tide.count, temp := Config.sampleTemp s.serial, volt := Config.sampleVolt s.serial,
                     seq := s.ras.nextSeq }
  let old := if s.ras.ring.length < ringSize then s.ras.ring else s.ras.ring.drop 1
  { s with serial := s.serial + 1
           ras := { s.ras with ring := old ++ [r'], nextSeq := s.ras.nextSeq + 1#32 }
           out := s.out ++ [.report r'] }

/-- The COUNTER_SAT report of a counter (R578, R592). -/
def satReport (off : Nat) : Report := mkReport 0x0D 0x04 0 unitChip off (off % 0x2000 / 8)

/-- One more report was overwritten: RAS_REPORT_LOST counts it (R218). -/
def State.countLost (s : State) : State :=
  let c := s.counter (ctrRas 5)
  if c = ctrMax then s
  else
    let s' := { s with ctr := mset 0 s.ctr (ctrRas 5) (c + 1) }
    if c + 1 = ctrMax then s'.pushReport (satReport (ctrRas 5)) else s'

/-- Raise one error report (R218). -/
def State.raise (s : State) (r : Report) : State :=
  let s' := s.pushReport r
  if s.ras.ring.length < ringSize then s' else s'.countLost

/-- Add an amount to a counter: it stops at its maximum, sets SAT there and raises one COUNTER_SAT report (R577, R578). -/
def State.bump (s : State) (off amount : Nat) : State :=
  let c := s.counter off
  if c = ctrMax then s
  else
    let c' := min ctrMax (c + amount)
    let s' := { s with ctr := mset 0 s.ctr off c' }
    if c' = ctrMax then s'.raise (satReport off) else s'

/-- Count one event. -/
def State.tally (s : State) (off : Nat) : State := s.bump off 1

/-- Count bytes for a tenant in units of 64 KiB, the remainder carrying on (R580). -/
def State.tallyBytes (s : State) (k : Nat) (t : Tenant) (n : Nat) : State :=
  let key := k * 1024 + t.toNat
  let total := mget 0 s.dbg.tenRem key + n
  let s' := { s with dbg := { s.dbg with tenRem := mset 0 s.dbg.tenRem key (total % 65536) } }
  if total < 65536 then s' else s'.bump (ctrTen k t.toNat) (total / 65536)

/-- Attach an operation's identity to a report (R219). -/
def Report.forOp (r : Report) (qp : Qp) (t : Tenant) (opcode : BitVec 8) (slot : Nat) (csn : Csn) : Report :=
  { r with qp := BitVec.ofNat 16 qp.val, tenant := t.setWidth 16, opcode := opcode, desc := BitVec.ofNat 32 slot, csn := csn }

/-! The audit unit's ledger (R17). -/

/-- The audit unit sees a grant, release, refill or spend of a chip-scope quantity. -/
def State.ledger (s : State) (code : Nat) (d : Int) : State :=
  { s with audit := mset 0 s.audit code (mget 0 s.audit code + d) }

/-! Containment state (R52 to R57). -/

def blockOf (c : CellId) : BlockId := ⟨c.val / 16, by omega⟩
def regionOfBlock (b : BlockId) : RegionId := ⟨b.val / 8, by omega⟩
def regionOfCell (c : CellId) : RegionId := ⟨c.val / 128, by omega⟩
def cellIn (b : BlockId) (i : Fin 16) : CellId := ⟨b.val * 16 + i.val, by omega⟩
def blockIn (r : RegionId) (i : Fin 8) : BlockId := ⟨r.val * 8 + i.val, by omega⟩

def State.blk (s : State) (b : BlockId) : BlkHealth := mget BlkHealth.ok s.health b.val

/-- A block is online: neither it nor its region is offline. -/
def State.blockOnline (s : State) (b : BlockId) : Bool := !(s.blk b).blockOffline && !(s.blk b).regionOffline

/-- A cell may run: it is not fenced and its block is online. -/
def State.cellOnline (s : State) (c : CellId) : Bool :=
  s.blockOnline (blockOf c) && !(s.blk (blockOf c)).fenced.getLsbD (c.val % 16)

def State.regionOnline (s : State) (r : RegionId) : Bool := !(s.blk (blockIn r 0)).regionOffline

/-- How many cells of a block are fenced. -/
def State.fencedCount (s : State) (b : BlockId) : Nat :=
  ((List.range 16).filter (fun i => (s.blk b).fenced.getLsbD i)).length

/-- How many blocks of a region are offline. -/
def State.offlineBlocks (s : State) (r : RegionId) : Nat :=
  ((List.finRange 8).filter (fun i => (s.blk (blockIn r i)).blockOffline)).length

/-- How many regions are online. -/
def State.regionsOnline (s : State) : Nat := ((List.finRange 8).filter (fun r => s.regionOnline r)).length

/-! Issue duties (R241, R242, R551). -/

def blockReset : PowerUnit := PowerUnit.reset blockCeilReset
def stackReset : PowerUnit := PowerUnit.reset stackCeilReset

def State.blockPwr (s : State) (n : Nat) : PowerUnit := mget blockReset s.plt.blockPwr n
def State.stackPwr (s : State) (n : Nat) : PowerUnit := mget stackReset s.plt.stackPwr n

/-- A region's transfer engine issues: its zone's duty is not 0 (R241). -/
def State.regionIssues (s : State) (r : RegionId) : Bool := decide (0 < (mget Zone.reset s.mem.zones r.val).duty)

/-- A block's cells, DMA engine and atomic unit issue at the lowest of their duties: none at all while one is 0 (R241, R242, R551). -/
def State.blockIssues (s : State) (b : BlockId) : Bool :=
  s.regionIssues (regionOfBlock b) && decide (0 < (s.blockPwr b.val).duty) && decide (0 < (s.blockPwr b.val).thermDuty)

def State.cellIssues (s : State) (c : CellId) : Bool := s.blockIssues (blockOf c)

/-- A stack's controllers issue activates, reads and writes (R551). -/
def State.stackIssues (s : State) (n : Nat) : Bool := decide (0 < (s.stackPwr n).duty)

/-! Ports. -/

/-- A port; an unlisted one is a TFL port at reset (the Phosha Link ports are listed from reset on). -/
def State.link (s : State) (p : LinkPort) : Link := mget Link.resetTfl s.links p.val

def State.setLink (s : State) (p : LinkPort) (l : Link) : State := { s with links := mset Link.resetTfl s.links p.val l }

def State.modLink (s : State) (p : LinkPort) (f : Link → Link) : State := s.setLink p (f (s.link p))

/-! Node fatal. -/

/-- A chip fault: every unit stops, every port goes to DISABLED, and the node-fatal report is sent (R589 steps 1 to 3); a chip
fault in a node that is already fatal is only counted. A thermal trip leaves nothing to stop. -/
def State.nodeFatal (s : State) (unit : BitVec 16) : State :=
  if s.dbg.fatal then { s with dbg := { s.dbg with laterFaults := min 65535 (s.dbg.laterFaults + 1) } }
  else
    let r := mkReport 0x02 0x04 3 unit 0 0
    let s1 := { s with dbg := { s.dbg with fatal := true, fatalUnit := unit, dumpState := .writing, laterFaults := 0, dumpHeader := [] },
                       links := portsDown s.links }
    s1.raise r

end Sys2Proof.Machine
end

