-- ==== Sys2Proof/Machine/PoolMem.lean ====
section
/-! DEFINITION. Pool memory behind the home agent slices: physical granules and address decode (R225 to R228), the ECC code
(R249, R250), reading and writing lines with poison (R237, R252), and the granules' states (R280). -/

namespace Sys2Proof.Machine

/-! Physical granules. -/

/-- Bytes of a granule: 64 MiB. -/
def granBytes : Nat := 2 ^ 26

/-- How many granules there are (R225). -/
def granCountAll : Nat := 15616

/-- The fatal dump area's granules (R226). -/
def dumpGran (g : Nat) : Bool := g == 15486 || g == 15487 || g == 15614 || g == 15615

/-- The key of byte i of the dump area: its four granules taken from the two Shelf tiers in turn, so that a dump writes through all 256
channels (R226; the order is DESIGN CHOICE: log entry 136). -/
def dumpKey (i : Nat) : Nat := ([15486, 15614, 15487, 15615] : List Nat).getD (i / granBytes) 15486 * granBytes + i % granBytes

/-- A granule lies in Shelf. -/
def granShelf (g : Nat) : Bool := decide (15360 ≤ g)

/-- The stack of a Deep granule. -/
def granStack (g : Nat) : Nat := g / 1280

/-- The tier of a Shelf granule. -/
def granTier (g : Nat) : Nat := (g - 15360) / 128

/-- Where a byte of a granule lies: its channel, local byte address, bank (stack ID × 16 + bank in Deep) and row. -/
structure DramLoc where
  ch : MemCh
  addr : Nat
  bank : Nat
  row : Nat
deriving DecidableEq, Repr

/-- Address decode (R227, R228). -/
def dramLoc (g off : Nat) : DramLoc :=
  if granShelf g then
    let a := (g - 15360) % 128 * granBytes + off
    let c := (bitsOf a 13 7 ^^^ bitsOf a 26 20) % 128
    { ch := ⟨(384 + granTier g % 2 * 128 + c) % 640, Nat.mod_lt _ (by decide)⟩, addr := a,
      bank := bitsOf a 19 17 ^^^ bitsOf a 28 26, row := bitsOf a 32 20 }
  else
    let a := g % 1280 * granBytes + off
    let pc := (bitsOf a 12 8 ^^^ bitsOf a 24 20) % 32
    { ch := ⟨(granStack g * 32 + pc) % 640, Nat.mod_lt _ (by decide)⟩, addr := a,
      bank := bitsOf a 36 34 * 16 + (bitsOf a 19 16 ^^^ bitsOf a 29 26), row := bitsOf a 33 20 }

/-- A channel is a Deep pseudo-channel. -/
def chanDeep (ch : MemCh) : Bool := decide (ch.val < 384)

def chanStack (ch : MemCh) : Nat := ch.val / 32

def chanTier (ch : MemCh) : Nat := (ch.val - 384) / 128

/-- The zone of a Shelf channel: channels 16z to 16z + 15 of each tier (R240). -/
def chanZone (ch : MemCh) : Nat := (ch.val - 384) % 128 / 16

/-- The unit of a channel: 256 bytes in Deep, 128 in Shelf (R229). -/
def chanUnit (ch : MemCh) : Nat := if chanDeep ch then 256 else 128

/-- The key, granule × 2^26 + offset, of a channel's local byte address. -/
def chanKey (ch : MemCh) (a : Nat) : Nat :=
  (if chanDeep ch then chanStack ch * 1280 else 15360 + chanTier ch * 128) * granBytes + a

/-! The ECC code. -/

def weight8 (n : Nat) : Nat := ((List.range 8).filter (fun i => n.testBit i)).length

/-- The columns of the data bits: the 56 values of weight 3 in ascending order, then eight of weight 5 (R249). -/
def eccColumns : List Nat :=
  (List.range 256).filter (fun n => weight8 n == 3) ++ [0x1F, 0x2F, 0x37, 0x3B, 0x3D, 0x3E, 0x4F, 0x57]

/-- The XOR of the columns of the data bits set in a word: its check bits (R249). -/
def eccCheck (w : W64) : BitVec 8 :=
  ((List.range 64).zip eccColumns).foldl (fun acc ic => if w.getLsbD ic.1 then acc ^^^ BitVec.ofNat 8 ic.2 else acc) 0#8

/-- The syndrome of a stored word whose data and check bits DRAM shows flipped; a poisoned word starts at 0xFF (R249, R250). -/
def eccSyndrome (poisoned : Bool) (data : W64) (check : BitVec 8) : BitVec 8 :=
  (if poisoned then 0xFF#8 else 0#8) ^^^ check ^^^ eccCheck data

/-- What the controller does with a word of a syndrome (R250). -/
inductive EccAction where
  | good
  /-- corrects data bit i, or a check bit (none) -/
  | correct (bit : Option (Fin 64))
  | poison
  | uncorrectable
deriving DecidableEq, Repr

def eccAction (syn : BitVec 8) : EccAction :=
  if syn = 0#8 then .good
  else if syn = 0xFF#8 then .poison
  else if weight8 syn.toNat = 1 then .correct none
  else match (List.finRange 64).find? (fun i => eccColumns.getD i.val 0 == syn.toNat) with
    | some i => .correct (some i)
    | none => .uncorrectable

/-! Bytes, lines and poison. -/

/-- The channel that serves a granule's byte is on a stack that has FAILED. -/
def State.stackFailed (s : State) (g : Nat) : Bool := !granShelf g && (mget Stack.reset s.mem.deepStacks (granStack g)).failed

/-- A line is poisoned: it is recorded so, or it lies in a granule lost with its stack (R289). -/
def State.poisoned (s : State) (line : Nat) : Bool := mget false s.mem.poison line || s.stackFailed (line * 64 / granBytes)

/-- Read n bytes from a key. -/
def State.poolRead (s : State) (key n : Nat) : List Byte := getBytes s.mem.bytes key n

/-- Store the enabled bytes of a line. -/
def storeLine (m : SMap Byte) (line : Nat) (enables : BitVec 64) (data : Line) : SMap Byte :=
  (List.range 64).foldl (fun acc i => if enables.getLsbD i then mset 0 acc (line * 64 + i) (byteOf data i) else acc) m

/-- Every byte enabled. -/
def allEnables : BitVec 64 := BitVec.allOnes 64

/-- The enables cover every byte of each 64-bit word they touch (R235). -/
def wordsWhole (enables : BitVec 64) : Bool :=
  (List.range 8).all (fun w => enables.extractLsb' (8 * w) 8 == 0#8 || enables.extractLsb' (8 * w) 8 == 0xFF#8)

/-! Channels. -/

def State.chan (s : State) (ch : MemCh) : Chan := mget Chan.idle s.mem.chans ch.val

def State.setChan (s : State) (ch : MemCh) (c : Chan) : State :=
  { s with mem := { s.mem with chans := mset Chan.idle s.mem.chans ch.val c } }

/-- Reads that await their data remember which of their words, and which whole lines, have been written since (R250, R251). -/
def Chan.noteWrite (c : Chan) (ch : MemCh) (line : Nat) (en : BitVec 64) : Chan :=
  let words := (List.range 8).filter (fun w => en.extractLsb' (8 * w) 8 != 0#8)
  { c with reads := c.reads.map (fun e =>
      let first := chanKey ch e.addr / 64
      if decide (first ≤ line) && decide (line < first + e.data.length / 64) then
        { e with rewritten := e.rewritten ++ words.map (fun w => line * 8 + w),
                 renewed := if en = allEnables then line :: e.renewed else e.renewed } else e) }

/-- A write to a line is seen by the reads of its channel. -/
def State.noteWrite (s : State) (line : Nat) (en : BitVec 64) : State :=
  let ch := (dramLoc (line * 64 / granBytes) (line * 64 % granBytes)).ch
  if (s.chan ch).reads.isEmpty then s else s.setChan ch ((s.chan ch).noteWrite ch line en)

/-- A write of a line's enabled bytes, with the line's poison (R235, R237, R252): a whole line stores and clears poison; whole
words store and leave poison standing; part of a word on a poisoned line is discarded, counted and reported. -/
def State.writeLine (s0 : State) (line : Nat) (enables : BitVec 64) (data : Line) : State :=
  let s := s0.noteWrite line enables
  if enables = allEnables then
    { s with mem := { s.mem with bytes := storeLine s.mem.bytes line enables data,
                                 poison := mset false s.mem.poison line false } }
  else if s.poisoned line && !wordsWhole enables then
    let g := line * 64 / granBytes
    let loc := dramLoc g (line * 64 % granBytes)
    (s.tally (ctrMem 5 0)).raise
      (mkReport 0x0A 0x03 1 (unitChan loc.ch) loc.addr (0xFF + 2 ^ 8 * loc.row + 2 ^ 32 * loc.bank))
  else { s with mem := { s.mem with bytes := storeLine s.mem.bytes line enables data } }

/-- Poison a line (R250). -/
def State.setPoison (s : State) (line : Nat) : State :=
  { s with mem := { s.mem with poison := mset false s.mem.poison line true } }

/-- The enables and line data of the part of a byte run [key, key + bs.length) that falls into one line. -/
def linePart (line key : Nat) (bs : List Byte) : BitVec 64 × Line :=
  (List.range 64).foldl (fun acc i =>
    let a := line * 64 + i
    if decide (key ≤ a) && decide (a < key + bs.length) then
      (acc.1 ||| (1#64 <<< i), acc.2 ||| ((bs.getD (a - key) 0#8).setWidth 512 <<< (8 * i)))
    else acc) (0#64, 0#512)

/-- Write a byte run line by line. -/
def State.poolWrite (s : State) (key : Nat) (bs : List Byte) : State :=
  if bs.isEmpty then s
  else (List.range ((key + bs.length - 1) / 64 - key / 64 + 1)).foldl (fun st k =>
    let line := key / 64 + k
    let (en, d) := linePart line key bs
    st.writeLine line en d) s

/-- Fill a byte range with zeros, clearing its poison: whole lines only (R286). -/
def State.poolZero (s : State) (key n : Nat) : State :=
  { s with mem := { s.mem with
      bytes := zeroBytes s.mem.bytes key n,
      poison := s.mem.poison.filter (fun e => !(decide (key / 64 ≤ e.1) && decide (e.1 < (key + n) / 64))) } }

/-! Granules. -/

def State.gran (s : State) (g : Nat) : Gran := mget Gran.reset s.ext.grans g

def granCode : GranState → Nat
  | .free => 0
  | .granted => 1
  | .draining => 2
  | .scrubbing => 3
  | .sealed => 4

/-- Give a granule a state: the audit unit sees the old one released and the new one taken (R17). -/
def State.setGran (s : State) (g : Nat) (x : Gran) : State :=
  let s1 := (s.ledger (0x70 + granCode (s.gran g).state) (-1)).ledger (0x70 + granCode x.state) 1
  { s1 with ext := { s1.ext with grans := mset Gran.reset s1.ext.grans g x } }

/-- Granules in a state, the dump granules in none (R303). -/
def State.granCount (s : State) (st : GranState) : Nat :=
  let listed := (s.ext.grans.filter (fun e => e.2.state == st)).length
  if st = .scrubbing then granCountAll - 4 - (s.ext.grans.filter (fun e => e.2.state != .scrubbing)).length else listed

/-- Granules flagged FAILED (R303). -/
def State.granFailed (s : State) : Nat := (s.ext.grans.filter (fun e => e.2.failed)).length

/-- The extent a granule belongs to, and the granule's index among the extent's own. -/
def State.granOwner (s : State) (g : Nat) : Option (Nat × Extent × Nat) :=
  s.ext.extents.findSome? (fun e => match e.2.grans.findIdx? (· == g) with
    | some i => some (e.1, e.2, i)
    | none => match e.2.reserve.findIdx? (· == g) with
      | some i => some (e.1, e.2, e.2.grans.length + i)
      | none => none)

/-! The directory as it stands. -/

/-- The directory set of a line (R309). -/
def dirSet (line : Nat) : Nat :=
  let ppa := line * 64
  (bitsOf ppa 25 8 ^^^ (bitsOf ppa 39 26 * 16)) % 2 ^ 18

def dirTag (line : Nat) : Nat := bitsOf (line * 64) 39 26

/-- The sector entry that holds a line, by its way, if one does: its tag matches and one of its lines is not I, or it stands for
a busy line. -/
def State.dirWay (s : State) (line : Nat) : Option Nat :=
  (List.range 16).find? (fun w => match tget s.coh.dir (dirSet line * 16 + w) with
    | some sec => sec.tag == dirTag line && !sec.lines.isEmpty
    | none => false)

/-- A line's directory state (R310). -/
def State.dirLine (s : State) (line : Nat) : DirLine :=
  match s.dirWay line with
  | some w => mget .i (mget Sector.empty s.coh.dir (dirSet line * 16 + w)).lines (line % 4)
  | none => .i

/-- What follows when a controller has poisoned a line: a FREE granule returns to SCRUBBING (R282), and a line that the directory
records other than I or M is to be recovered by its home (R252, R329). -/
def State.linePoisoned (s : State) (line : Nat) : State :=
  let g := line * 64 / granBytes
  let s1 :=
    if (s.gran g).state = .free then
      (s.setGran g { s.gran g with state := .scrubbing }).raise (mkReport 0x08 0x03 0 unitChip 0 g)
    else s
  match s1.granOwner g with
  | some (_, x, i) =>
    if x.kind = .coherent ∧ i < x.grans.length then
      let l := ((x.baseSlot + i) * granBytes + line * 64 % granBytes) / 64
      match s1.dirLine l with
      | .sPtr _ => { s1 with coh := { s1.coh with recover := s1.coh.recover ++ [l] } }
      | .e _ => { s1 with coh := { s1.coh with recover := s1.coh.recover ++ [l] } }
      | .sVec _ => { s1 with coh := { s1.coh with recover := s1.coh.recover ++ [l] } }
      | _ => s1
    else s1
  | none => s1

/-- A controller poisons a line. -/
def State.poisonLine (s : State) (line : Nat) : State := (s.setPoison line).linePoisoned line

end Sys2Proof.Machine
end

