-- ==== Sys2Proof/Machine/Send.lean ====
section
/-! DEFINITION. Packets as bits (R346), the route table (R386 to R391), the transmit queues, and the requests the device issues
(R395, R399). -/

namespace Sys2Proof.Machine

/-! Packets. -/

/-- LEN: the payload's length in 16-byte units. -/
def pktLen (p : Packet) : Nat := p.payload.length

/-- The bytes a packet meters and is shaped as (R405). -/
def pktBytes (p : Packet) : Nat := 32 + 16 * p.payload.length

/-- A packet of one opcode with every other field 0 and no payload. -/
def pktBlank (opc : BitVec 8) : Packet :=
  { dst := 0#14, gen := false, mcast := false, src := 0#14, enc := false, keyEpoch := false, opc := opc, status := 0#8,
    tag := 0#12, last := false, far := false, unk := false, cls := 0#2, linkEnc := false, linkSlot := false, tenant := 0#10,
    xfer := 0#16, pktCount := 0#16, addr := 0#64, aux := 0#64, payload := [] }

def bitNat (b : Bool) (i : Nat) : Nat := if b then 2 ^ i else 0

/-- The 32-byte header as a number, byte 0 least significant (R346). -/
def pktHeader (p : Packet) : Nat :=
  p.dst.toNat + bitNat p.gen 14 + bitNat p.mcast 15
  + 2 ^ 16 * (p.src.toNat + bitNat p.enc 14 + bitNat p.keyEpoch 15)
  + 2 ^ 32 * p.opc.toNat + 2 ^ 40 * p.status.toNat
  + 2 ^ 48 * (p.tag.toNat + bitNat p.last 12 + bitNat p.far 13 + bitNat p.unk 14)
  + 2 ^ 64 * (p.payload.length % 512 + 2 ^ 9 * p.cls.toNat + bitNat p.linkEnc 11 + bitNat p.linkSlot 12)
  + 2 ^ 80 * p.tenant.toNat + 2 ^ 96 * p.xfer.toNat + 2 ^ 112 * p.pktCount.toNat
  + 2 ^ 128 * p.addr.toNat + 2 ^ 192 * p.aux.toNat

/-- A packet as 16-byte units: the header's two, then the payload's. -/
def pktUnits (p : Packet) : List (BitVec 128) :=
  BitVec.ofNat 128 (pktHeader p % 2 ^ 128) :: BitVec.ofNat 128 (pktHeader p / 2 ^ 128) :: p.payload

/-- LEN as a header's first unit gives it. -/
def headerLen (u0 : BitVec 128) : Nat := (u0.extractLsb' 64 9).toNat

/-- The packet that a header's two units and a payload spell. -/
def pktOfUnits (u0 u1 : BitVec 128) (payload : List (BitVec 128)) : Packet :=
  { dst := u0.extractLsb' 0 14, gen := u0.getLsbD 14, mcast := u0.getLsbD 15, src := u0.extractLsb' 16 14,
    enc := u0.getLsbD 30, keyEpoch := u0.getLsbD 31, opc := u0.extractLsb' 32 8, status := u0.extractLsb' 40 8,
    tag := u0.extractLsb' 48 12, last := u0.getLsbD 60, far := u0.getLsbD 61, unk := u0.getLsbD 62,
    cls := u0.extractLsb' 73 2, linkEnc := u0.getLsbD 75, linkSlot := u0.getLsbD 76, tenant := u0.extractLsb' 80 10,
    xfer := u0.extractLsb' 96 16, pktCount := u0.extractLsb' 112 16, addr := u1.extractLsb' 0 64, aux := u1.extractLsb' 64 64,
    payload := payload }

/-- The payload's bytes, byte 0 first. -/
def payloadBytes (us : List (BitVec 128)) : List Byte := us.flatMap (fun u => bytesOf u 16)

/-- The 16-byte units of a byte string; the last is padded with zeros. -/
def unitsOf : Nat → List Byte → List (BitVec 128)
  | 0, _ => []
  | fuel + 1, bs =>
    match bs with
    | [] => []
    | _ => BitVec.ofNat 128 (leNat (bs.take 16)) :: unitsOf fuel (bs.drop 16)

/-- The 16-byte units of a byte string. -/
def toUnits (bs : List Byte) : List (BitVec 128) := unitsOf (bs.length / 16 + 1) bs

/-- The virtual channels (R343). -/
def vcReq : Nat := 0
def vcRsp : Nat := 1
def vcSnp : Nat := 2
def vcBulk : Nat := 3

/-- The channels an opcode may travel on (R312, R347, and on Phosha Link R422). -/
def opcVcs (onPl : Bool) (opc : BitVec 8) : List Nat :=
  let n := opc.toNat
  if 0x01 ≤ n ∧ n ≤ 0x08 then [vcReq]
  else if 0x20 ≤ n ∧ n ≤ 0x24 then [vcSnp]
  else if 0x40 ≤ n ∧ n ≤ 0x49 then [vcRsp]
  else if 0x60 ≤ n ∧ n ≤ 0x68 then [vcRsp]
  else if n = 0x80 then [vcReq]
  else if n = 0x81 then [vcReq, vcBulk]
  else if n = 0x82 then [vcRsp, vcBulk]
  else if n = 0x83 then [vcRsp]
  else if n = 0x84 then [vcReq]
  else if onPl && (n = 0x85 || n = 0x86) then [vcReq]
  else if onPl && (n = 0x87 || n = 0x88) then [vcRsp]
  else []

/-- A malformed packet (R347, R422). -/
def pktMalformed (p : Packet) (onPl : Bool) (vc : Nat) : Bool :=
  !((opcVcs onPl p.opc).contains vc) || decide (257 < p.payload.length)
  || (p.opc == 0x80#8 && !(decide (1 ≤ p.aux.toNat % 128) && decide (p.aux.toNat % 128 ≤ 64)))
  || ((p.opc == 0x80#8 || p.opc == 0x81#8 || p.opc == 0x82#8) && p.addr.toNat % 64 != 0)

/-! Ports and routes. -/

/-- The link port of a Phosha Link port. -/
def plPort (p : PlPort) : LinkPort := ⟨32 + p.val, by omega⟩

/-- The active Phosha Link port's link port, the router's external port 32 (R423). -/
def State.activePl (s : State) : LinkPort := plPort s.que.active

/-- Where an endpoint's entry stands in the two copies of the route table. -/
def routeIx (copy : Bool) (ep : Ep) : Nat := (if copy then 16384 else 0) + ep.toNat

/-- An endpoint's entry in one copy of the route table (R386); an uncorrectable one reads as unreachable until it is rewritten. -/
def State.route (s : State) (copy : Bool) (ep : Ep) : W32 :=
  if s.rtr.routeUe.contains (routeIx copy ep) then 0#32 else mget 0#32 s.rtr.routes (routeIx copy ep)

/-- The TFL port of slot i of an entry, when the slot is valid. -/
def routeSlot (e : W32) (i : Nat) : Option LinkPort :=
  if e.getLsbD (20 + i) then some ⟨(e.extractLsb' (5 * i) 5).toNat, by have := (e.extractLsb' (5 * i) 5).isLt; omega⟩ else none

/-- KIND of an entry; through TFL ports with no valid slot is unreachable. -/
def routeKind (e : W32) : Nat :=
  let k := (e.extractLsb' 24 2).toNat
  if k = 1 ∧ e.extractLsb' 20 4 = 0#4 then 0 else k

/-- The deterministic port: the lowest valid slot's whose link has not been lost (R387). -/
def State.determPort (s : State) (e : W32) : Option LinkPort :=
  ((List.range 4).filterMap (routeSlot e)).find? (fun p => !(s.link p).lost)

/-- Bytes waiting on one VC of a port's transmit queues. -/
def State.queuedBytes (s : State) (p : LinkPort) (vc : Nat) : Nat :=
  (((mget [] s.rtr.txq p.val).filter (fun q => q.vc == vc)).map (fun q => pktBytes q.pkt)).sum

/-- The slot an adaptively routed packet takes (R388): an ACTIVE port with the fewest BULK bytes queued, ties in round robin
after the slot chosen last. -/
def State.adaptSlot (s : State) (e : W32) (ep : Ep) : Option (Nat × LinkPort) :=
  let cands := (List.range 4).filterMap (fun i => match routeSlot e i with
    | some p => if (s.link p).state = .active then some (i, p) else none
    | none => none)
  let least := cands.foldl (fun m c => min m (s.queuedBytes c.2 vcBulk)) (2 ^ 64)
  let best := cands.filter (fun c => s.queuedBytes c.2 vcBulk == least)
  let last := mget 0 s.rtr.rrSlot ep.toNat
  match best.find? (fun c => decide (last ≤ c.1)) with
  | some c => some c
  | none => best.head?

/-- Where a packet goes next. -/
inductive Hop where
  | here
  | port (p : LinkPort)
  | unreachable
  | badGen
deriving DecidableEq, Repr

/-- The copy a packet is routed by (R392): the active one, or the old one inside its drain window. -/
def State.genOk (s : State) (gen : Bool) : Bool := gen == s.rtr.activeGen || s.rtr.drain.isSome

/-- The next hop of a unicast packet, and the slot chosen adaptively if it was (R385 to R390). -/
def State.nextHop (s : State) (p : Packet) (vc : Nat) : Hop × Option Nat :=
  if !s.genOk p.gen then (.badGen, none)
  else if p.dst == s.rtr.nodeId && s.rtr.nodeId != 0x3FFF#14 then (.here, none)
  else
    let e := s.route p.gen p.dst
    match routeKind e with
    | 1 =>
      if vc == vcBulk && e.getLsbD 26 && s.rtr.adaptEn && !p.mcast then
        match s.adaptSlot e p.dst with
        | some (i, q) => (.port q, some i)
        | none => match s.determPort e with
          | some q => (.port q, none)
          | none => (.unreachable, none)
      else match s.determPort e with
        | some q => (.port q, none)
        | none => (.unreachable, none)
    | 2 => (if s.rtr.nodeId == 0x3FFF#14 then .unreachable else .here, none)
    | 3 => (.port s.activePl, none)
    | _ => (.unreachable, none)

/-- Put a packet at the end of a port's transmit queues. -/
def State.enqueue (s : State) (p : LinkPort) (q : QPkt) : State :=
  { s with rtr := { s.rtr with txq := mset [] s.rtr.txq p.val (mget [] s.rtr.txq p.val ++ [q]) } }

/-! Local packets. -/

/-- A router report; each code is raised at most once in a tick (R413). -/
def State.rtrReport (s : State) (code severity : Nat) (unit : BitVec 16) (d0 d1 : Nat) : State :=
  if s.rtr.reported.contains (BitVec.ofNat 8 code) then s
  else ({ s with rtr := { s.rtr with reported := s.rtr.reported ++ [BitVec.ofNat 8 code] } }).raise
    (mkReport 0x05 code severity unit d0 d1)

/-- The kinds of local packet that have an attach point (R385); the register accesses of R422 are served at the port. -/
def localKind (opc : BitVec 8) : Bool :=
  let n := opc.toNat
  (decide (1 ≤ n) && decide (n ≤ 0x08)) || (decide (0x40 ≤ n) && decide (n ≤ 0x49)) || (decide (0x60 ≤ n) && decide (n ≤ 0x68))
  || (decide (0x80 ≤ n) && decide (n ≤ 0x84))

/-- Count a packet of a BULK transfer in the open-transfer table (R396, R398). Answers the entry that counts it, and whether the packet
is delivered. -/
def State.countXfer (s : State) (port : LinkPort) (p : Packet) : State × Option Nat × Bool :=
  let key := p.src.toNat * 65536 + p.xfer.toNat
  let found := tget s.rtr.xfers key
  if found.isNone && decide (8192 ≤ s.rtr.xfers.length) then
    ((s.tally (ctrRtr 8)).rtrReport 0x04 1 unitRouter p.src.toNat p.xfer.toNat, none, false)
  else
    let e : OpenXfer := found.getD
      { id := s.rtr.nextXid, port := port, tag := p.tag, tenant := p.tenant, isWrite := p.opc == 0x81#8, mcast := p.mcast, count := 0,
        pktCount := none, settled := 0, status := 0#8, addr := p.addr, bytes := 0, age := 0 }
    let s1 := if found.isNone then { s with rtr := { s.rtr with nextXid := s.rtr.nextXid + 1 } } else s
    let total := if p.last then some p.pktCount.toNat else e.pktCount
    let tooMany : Bool := match total with
      | some n => decide (n < e.count + 1)
      | none => false
    if (p.last && e.pktCount.isSome) || tooMany || e.tenant != p.tenant then
      (((({ s1 with rtr := { s1.rtr with xfers := tdel s1.rtr.xfers key } }).tally (ctrRtr 7)).rtrReport 0x05 0 unitRouter p.src.toNat
        p.xfer.toNat), none, true)
    else
      let e' := { e with count := e.count + 1, pktCount := total, bytes := e.bytes + 16 * p.payload.length,
                         addr := if p.addr.toNat < e.addr.toNat then p.addr else e.addr }
      ({ s1 with rtr := { s1.rtr with xfers := tput s1.rtr.xfers key e' } }, some e.id, true)

/-- Deliver a local packet to its attach point (R385, R396). -/
def State.deliver (s : State) (ip : InPkt) (vc : Nat) : State :=
  if !localKind ip.pkt.opc then s.tally (ctrRtr 1)
  -- the device issues no coherence request to another home, so an answer to one is late (R395)
  else if 0x40#8 ≤ ip.pkt.opc ∧ ip.pkt.opc ≤ 0x49#8 then s.tally (ctrRtr 4)
  else if vc = vcBulk ∧ (ip.pkt.opc = 0x81#8 ∨ ip.pkt.opc = 0x82#8) then
    let (s1, xid, ok) := s.countXfer ip.port ip.pkt
    if ok then { s1 with rtr := { s1.rtr with inbox := s1.rtr.inbox ++ [{ ip with xid := xid }] } } else s1
  else { s with rtr := { s.rtr with inbox := s.rtr.inbox ++ [ip] } }

/-- Route a packet of the device's own, or one in transit: it joins a transmit queue, is delivered to this node, or is discarded and
counted (R390, R392). -/
def State.forward (s : State) (p : Packet) (vc : Nat) (req : Option Nat) (arrival : LinkPort) (auth owner : Option Tenant) :
    State :=
  match s.nextHop p vc with
  | (.here, _) => s.deliver ⟨p, arrival, auth, owner, none, vc⟩ vc
  | (.badGen, _) => s.tally (ctrRtr 0)
  | (.unreachable, _) => s.tally (ctrRtr 1)
  | (.port q, slot) =>
    let s1 := match slot with
      | some i => { s with rtr := { s.rtr with rrSlot := mset 0 s.rtr.rrSlot p.dst.toNat ((i + 1) % 4) } }
      | none => s
    s1.enqueue q ⟨p, vc, req, none⟩

/-- A packet as the device originates it: it carries this node's SRC and is stamped with ACTIVE_GEN (R391). -/
def State.mine (s : State) (p : Packet) : Packet := { p with src := s.rtr.nodeId, gen := s.rtr.activeGen }

/-- SRC of a request: an access of an operation carries its queue pair's endpoint (R144). -/
def State.srcOf (s : State) (owner : ReqOwner) : Ep :=
  let of_ (n : Nat) : Ep := (tget s.que.ops n).elim s.rtr.nodeId (fun o => o.ep)
  match owner with
  | .op n => of_ n
  | .opRead n _ _ => of_ n
  | .copy n _ _ => of_ n
  | _ => s.rtr.nodeId

/-- A packet of a request as the device originates it. -/
def State.mineFor (s : State) (owner : ReqOwner) (p : Packet) : Packet := { s.mine p with src := s.srcOf owner }

/-- Send a packet the device originates. -/
def State.send (s : State) (p : Packet) (vc : Nat) : State := s.forward (s.mine p) vc none s.activePl none none

/-- Send the answer to a request, known by its tag, or by 4,096 plus its transfer number: one whose port was lost meanwhile is
discarded and counted (R371 step 3). -/
def State.sendRsp (s : State) (p : Packet) (vc key : Nat) : State :=
  match s.rtr.goneIn.find? (fun g => g.2.1 == p.dst && g.2.2 == key) with
  | some g =>
    let s1 := { s with rtr := { s.rtr with goneIn := s.rtr.goneIn.erase g } }
    if g.1.val < 32 then s1.tally (ctrTfl 8 g.1.val) else s1
  | none => s.send p vc

/-- Send a packet to the host through one Phosha Link port. -/
def State.sendHost (s : State) (port : PlPort) (p : Packet) (vc : Nat) (req : Option Nat) : State :=
  s.enqueue (plPort port) ⟨s.mine p, vc, req, none⟩

/-! Requests the device issues. -/

/-- Requests outstanding at one destination. -/
def State.outstanding (s : State) (dst : Ep) : Nat := (s.rtr.reqs.filter (fun e => e.2.sent && e.2.dst == dst)).length

/-- The first tag from n on that no outstanding request to the destination holds. -/
def State.freeTag (s : State) (dst : Ep) : Nat → Nat → Nat
  | 0, n => n
  | f + 1, n => if s.rtr.reqs.any (fun e => e.2.sent && e.2.dst == dst && e.2.tag.toNat == n % 4096) then s.freeTag dst f (n + 1)
    else n % 4096

/-- A request is a BULK write transfer, which its XFER number and not its tag identifies (R395). -/
def DevReq.bulk (r : DevReq) : Bool := r.opc == 0x81#8 && r.vc == vcBulk

/-- Hand the packets of a request to their port. -/
def State.transmit (s : State) (n : Nat) (r : DevReq) : State :=
  let port := match r.via with
    | some p => some (plPort p)
    | none => match r.pkts.getLast? with
      | some p => (match s.nextHop (s.mine p) r.vc with
        | (.port q, _) => some q
        | _ => none)
      | none => none
  let s1 := { s with rtr := { s.rtr with reqs := tput s.rtr.reqs n { r with sent := true, port := port, age := 0 } } }
  r.pkts.foldl (fun st p => match r.via with
    | some q => st.enqueue (plPort q) ⟨st.mineFor r.owner p, r.vc, some n, none⟩
    | none => st.forward (st.mineFor r.owner p) r.vc (some n) st.activePl none none) s1

/-- The next XFER number toward a destination, in ascending order modulo 2^16 (R399). -/
def State.takeXfer (s : State) (dst : Nat) : BitVec 16 × State :=
  let n := mget 0 s.rtr.nextXfer dst
  (BitVec.ofNat 16 n, { s with rtr := { s.rtr with nextXfer := mset 0 s.rtr.nextXfer dst ((n + 1) % 65536) } })

/-- Send a request for the first time, or a BULK transfer again: it takes a tag, and a BULK transfer an XFER number (R395, R399). -/
def State.launch (s : State) (n : Nat) (r : DevReq) : State :=
  let tag := s.freeTag r.dst 4096 (mget 0 s.rtr.nextTag r.dst.toNat)
  let s1 := { s with rtr := { s.rtr with nextTag := mset 0 s.rtr.nextTag r.dst.toNat ((tag + 1) % 4096) } }
  let t : BitVec 12 := BitVec.ofNat 12 tag
  if r.bulk then
    let (x, s2) := s1.takeXfer r.dst.toNat
    s2.transmit n { r with tag := t, xfer := some x, pkts := r.pkts.map (fun p => { p with tag := t, xfer := x }) }
  else s1.transmit n { r with tag := t, pkts := r.pkts.map (fun p => { p with tag := t }) }

/-- Issue a request: it is recorded and sent, or waits while 4,096 are outstanding to its destination (R346, R399). To an unreachable
endpoint nothing is sent (R390): the second component says whether it was issued. -/
def State.issue (s : State) (dst : Ep) (via : Option PlPort) (pkts : List Packet) (vc : Nat) (owner : ReqOwner) : State × Bool :=
  let opc : BitVec 8 := (pkts.head?.map (fun p => p.opc)).getD 0#8
  let reach : Bool := via.isSome || (match s.nextHop (s.mine { pktBlank opc with dst := dst }) vc with
    | (.unreachable, _) => false
    | (.badGen, _) => false
    | _ => true)
  if !reach then (s, false)
  else
    let n := s.rtr.nextReq
    let r : DevReq := { tag := 0#12, dst := dst, via := via, va := none, port := none, opc := opc, xfer := none, pkts := pkts, vc := vc,
                        sent := false, age := 0, retries := 0, owner := owner, got := [], poisoned := false }
    let s1 := { s with rtr := { s.rtr with nextReq := n + 1, reqs := tput s.rtr.reqs n r } }
    if 4096 ≤ s.outstanding dst then (s1, true) else (s1.launch n r, true)

/-- Issue one request packet to the host over a Phosha Link port. -/
def State.issueHost (s : State) (port : PlPort) (p : Packet) (vc : Nat) (owner : ReqOwner) : State :=
  (s.issue p.dst (some port) [p] vc owner).1

/-- Issue a request to the host for a virtual address that has been translated. -/
def State.issueVa (s : State) (port : PlPort) (va : Nat) (p : Packet) (vc : Nat) (owner : ReqOwner) : State :=
  let s1 := s.issueHost port p vc owner
  { s1 with rtr := { s1.rtr with reqs := tmod s1.rtr.reqs s.rtr.nextReq (fun r => { r with va := some va }) } }

/-- The most data bytes of a packet of a tenant's transfer: 4,096, or 4,032 when it will be encrypted (R345, R504). -/
def State.chunkOf (s : State) (t : Tenant) : Nat := if (mget TenantRec.reset s.sec.tenants t.toNat).required then 4032 else 4096

/-- The packets of one BULK write transfer, the last carrying LAST and the packet count (R346, R395). -/
def bulkPackets (dst : Ep) (t : Tenant) (chunk count : Nat) (fuel : Nat) (addr : W64) (bs : List Byte) : List Packet :=
  match fuel with
  | 0 => []
  | f + 1 =>
    let isLast := decide (bs.length ≤ chunk)
    let p := { pktBlank 0x81#8 with
      dst := dst, tenant := t, addr := addr, payload := toUnits (bs.take chunk), last := isLast,
      pktCount := if isLast then BitVec.ofNat 16 count else 0#16 }
    if isLast then [p] else p :: bulkPackets dst t chunk count f (addr + BitVec.ofNat 64 chunk) (bs.drop chunk)

/-- The packets of a BULK write transfer of a tenant. -/
def State.bulkOf (s : State) (dst : Ep) (t : Tenant) (addr : W64) (bs : List Byte) : List Packet :=
  let chunk := s.chunkOf t
  let count := max 1 ((bs.length + chunk - 1) / chunk)
  bulkPackets dst t chunk count count addr bs

/-- Issue a BULK write transfer to an endpoint: it completes by WR_DONE (R397). -/
def State.issueBulk (s : State) (dst : Ep) (t : Tenant) (addr : W64) (bs : List Byte) (owner : ReqOwner) : State × Bool :=
  s.issue dst none (s.bulkOf dst t addr bs) vcBulk owner

/-- Copy a multicast packet to the destinations of its group (R400 to R402): every port of the mask but the one it came in on and those
whose link is lost, this node, and the active Phosha Link port. -/
def State.replicate (s : State) (p : Packet) (e : BitVec 48) (arrival : Option LinkPort) (auth owner : Option Tenant)
    (mc : Option Nat) : State :=
  let s1 := (List.finRange 34).foldl (fun (st : State) (q : LinkPort) =>
    if e.getLsbD q.val && decide (q.val < 32) && some q != arrival && !(st.link q).lost then st.enqueue q ⟨p, vcBulk, none, mc⟩ else st) s
  let s2 := if e.getLsbD 33 && some s.activePl != arrival && !(s.link s.activePl).lost then
      s1.enqueue s.activePl ⟨p, vcBulk, none, mc⟩
    else s1
  if e.getLsbD 32 && s.rtr.nodeId != 0x3FFF#14 then
    s2.deliver ⟨{ p with addr := (p.addr &&& ~~~(0x3FFF#64 <<< 40)) ||| (s.rtr.nodeId.setWidth 64 <<< 40) },
      arrival.getD s.activePl, auth, owner, none, vcBulk⟩ vcBulk
  else s2

/-- A port's BULK queue has room for a packet (R402). The manual gives no size: an empty queue has room for any. -/
def State.hasRoom (s : State) (q : LinkPort) (p : Packet) : Bool :=
  s.queuedBytes q vcBulk == 0 || decide (s.queuedBytes q vcBulk + pktBytes p ≤ Config.egressRoom)

/-- A group's entry, when it is VALID and assigned to the tenant (R401). -/
def State.groupOf (s : State) (g : BitVec 12) (t : Tenant) : Option (BitVec 48) :=
  let e := mget 0#48 s.rtr.mcast g.toNat
  if e.getLsbD 44 && e.extractLsb' 34 10 == t then some e else none

/-! The inbox. -/

/-- PPA of a fabric global address (R269). -/
def fgaPpa (a : W64) : Nat := (a.extractLsb' 0 40).toNat

/-- The home agent slice of a PPA (R271). -/
def ppaSlice (ppa : Nat) : Nat := ppa / 4096 % 6

/-- The attach point a local packet goes to (R385): a home agent slice, the queue engine, or the issuer of the request that it answers. -/
def attachOf (p : Packet) : Nat × Nat :=
  if p.opc = 0x84#8 then (1, 0)
  else if p.opc = 0x82#8 ∨ p.opc = 0x83#8 then (2, p.tag.toNat)
  else (0, ppaSlice (fgaPpa p.addr))

/-- Packet i of the inbox, when it has one of the opcodes given. -/
def State.takeAny (s : State) (i : Nat) (opcs : List (BitVec 8)) : Option (InPkt × State) :=
  match s.rtr.inbox[i]? with
  | some ip =>
    if opcs.contains ip.pkt.opc then some (ip, { s with rtr := { s.rtr with inbox := s.rtr.inbox.eraseIdx i } }) else none
  | none => none

/-- An earlier packet of the inbox has the same source, virtual channel and attach point: it is taken first (R404). -/
def State.behind (s : State) (i : Nat) (ip : InPkt) : Bool :=
  (s.rtr.inbox.take i).any (fun x => x.pkt.src == ip.pkt.src && x.vc == ip.vc && attachOf x.pkt == attachOf ip.pkt)

/-- Take packet i of the inbox when it has one of the opcodes given and stands behind no other in its order (R404). -/
def State.takePkt (s : State) (i : Nat) (opcs : List (BitVec 8)) : Option (InPkt × State) :=
  match s.takeAny i opcs with
  | some (ip, s1) => if s.behind i ip then none else some (ip, s1)
  | none => none

/-- The tenants a packet is authenticated for (R511). -/
def InPkt.authList (ip : InPkt) : List Tenant := ip.auth.toList ++ ip.linkOwner.toList

/-- A tenant behind its teardown fence (R513). -/
def State.tenantGone (s : State) (t : Tenant) : Bool := (mget TenantRec.reset s.sec.tenants t.toNat).fenced

end Sys2Proof.Machine
end

