-- ==== Sys2Proof/Machine/ExtOps.lean ====
section
/-! DEFINITION. Fabric global addresses and the extent check (R269 to R276), extent changes of state, notices and loss (R280, R289,
R290), and version resolution with copy-on-write (R292 to R296). -/

namespace Sys2Proof.Machine

/-! Statuses (R276 and R252, R307, R318, R522). -/

def stOk : Status := 0x00#8
def stNone : Status := 0x80#8
def stDenied : Status := 0x81#8
def stRevoked : Status := 0x82#8
def stRange : Status := 0x83#8
def stLost : Status := 0x84#8
def stKind : Status := 0x85#8
def stNotLocal : Status := 0x86#8
def stStale : Status := 0x88#8
def stReadOnly : Status := 0x89#8
def stReserveEmpty : Status := 0x8A#8
def stVersionsFull : Status := 0x8B#8
def stNoHandle : Status := 0x8C#8
def stBadHandle : Status := 0x8D#8
def stNotSnapshot : Status := 0x8E#8
def stNoVersion : Status := 0x8F#8
def stNotAgent : Status := 0x90#8
def stProtocol : Status := 0x91#8
def stPoison : Status := 0x74#8
def stTenantGone : Status := 0xC0#8

/-! Addresses. -/

/-- The fields of a fabric global address above its PPA (R269). -/
def fgaNode (a : W64) : Ep := a.extractLsb' 40 14
def fgaGen (a : W64) : BitVec 5 := a.extractLsb' 54 5
def fgaSlot (a : W64) : Nat := (a.extractLsb' 59 4).toNat
def fgaV (a : W64) : Bool := a.getLsbD 63

/-- What a request does, who makes it, and for which tenants it is tenant-authenticated (R273 to R275, R308, R511). -/
structure Access where
  ep : Ep
  needR : Bool
  needW : Bool
  needA : Bool
  /-- a coherent request of R312 other than ATOMIC -/
  coherent : Bool
  auth : List Tenant
  /-- accepted before, and waiting since: later changes of the extent do not refuse it (R284) -/
  passed : Bool
  /-- the reel loader's read for a tenant, which must own the extent, and the extent must not be SEALED (R134, in place of step 6) -/
  loader : Option Tenant
  /-- the write version's slot that it was directed to when it was accepted (R297) -/
  vslot : Option Nat
deriving DecidableEq, Repr

def accRead (ep : Ep) (auth : List Tenant) : Access := ⟨ep, true, false, false, false, auth, false, none, none⟩
def accWrite (ep : Ep) (auth : List Tenant) : Access := ⟨ep, false, true, false, false, auth, false, none, none⟩
def accAtomic (ep : Ep) (auth : List Tenant) : Access := ⟨ep, false, false, true, false, auth, false, none, none⟩

/-- Step 6 of the extent check (R274, R511), or what the reel loader puts in its place (R134). -/
def accDenied (a : Access) (x : Extent) (rights : Bool × Bool × Bool) (sealed_ : Bool) : Bool :=
  match a.loader with
  | some t => x.tenant != t || sealed_
  | none => (a.needR && !rights.1) || (a.needW && !rights.2.1) || (a.needA && !rights.2.2) || (sealed_ && !(a.auth.contains x.tenant))

/-- An endpoint's rights under a permission list: read, write, atomic (R274). -/
def rightsOf (entries : List W32) (ep : Ep) : Bool × Bool × Bool :=
  let hit := entries.filter (fun e => (ep &&& e.extractLsb' 14 14) == (e.extractLsb' 0 14 &&& e.extractLsb' 14 14))
  (hit.any (fun e => e.getLsbD 28), hit.any (fun e => e.getLsbD 29), hit.any (fun e => e.getLsbD 30))

def State.extent (s : State) (e : Nat) : Option Extent := tget s.ext.extents e

def State.setExtent (s : State) (e : Nat) (x : Extent) : State :=
  { s with ext := { s.ext with extents := tput s.ext.extents e x } }

/-- An extent's slots are mapped while it is GRANTED, SEALED or DRAINING (R280, R286). -/
def extMapped (x : Extent) : Bool := x.state != .scrubbing

/-- The extent that a slot maps to, and the index of its granule there (R270). -/
def State.slotExtent (s : State) (slot : Nat) : Option (Nat × Extent × Nat) :=
  s.ext.extents.findSome? (fun e =>
    if extMapped e.2 && decide (e.2.baseSlot ≤ slot) && decide (slot < e.2.baseSlot + e.2.grans.length)
    then some (e.1, e.2, slot - e.2.baseSlot) else none)

def extView (x : Extent) (sl : Nat) : SliceView := mget SliceView.fresh x.views sl

/-! Versions. -/

/-- The base leaf a logical leaf maps to, or what the version slot's map names (R293). -/
def snapLeaf (sn : Snap) (slot x : Nat) : Nat := mget x sn.maps (slot * 2 ^ 20 + x)

/-- Point a version slot's map at a leaf. -/
def snapSetLeaf (sn : Snap) (slot x p : Nat) : Snap :=
  { sn with maps := mset x sn.maps (slot * 2 ^ 20 + x) p }

def vslotLive (v : VSlot) : Bool := v.state != .empty

def snapSlots (sn : Snap) : List (Nat × VSlot) := (List.range 16).map (fun i => (i, mget VSlot.reset sn.slots i))

def snapFind (sn : Snap) (st : VSlotState) : Option Nat := ((snapSlots sn).find? (fun e => e.2.state == st)).map Prod.fst

/-- How many live versions' maps name physical leaf p for logical leaf x; a leaf is only ever named for one logical leaf. -/
def leafRefs (sn : Snap) (x p : Nat) : Nat :=
  ((snapSlots sn).filter (fun e => vslotLive e.2 && snapLeaf sn e.1 x == p)).length

/-- Leaves of the reserve that the maps occupy: M = ceil(n / 1,024) (R292). -/
def mapLeaves (x : Extent) : Nat := (x.grans.length + 1023) / 1024

/-- A physical leaf's category (R300). -/
def leafCat (x : Extent) (sn : Snap) (p : Nat) : LeafCat :=
  let n := x.grans.length
  match tget sn.cats p with
  | some c => c
  | none => if p < 32 * n then .inUse else if p < 32 * n + mapLeaves x then .map else .free

def leafDefault (x : Extent) (p : Nat) : LeafCat :=
  let n := x.grans.length
  if p < 32 * n then .inUse else if p < 32 * n + mapLeaves x then .map else .free

def snapSetCat (x : Extent) (sn : Snap) (p : Nat) (c : LeafCat) : Snap :=
  { sn with cats := mset (leafDefault x p) sn.cats p c }

/-- The physical leaves of an extent, its own and its reserve's (R292). -/
def allLeaves (x : Extent) : List Nat := List.range (32 * (x.grans.length + x.reserve.length))

/-- The lowest free leaf. -/
def freeLeaf (x : Extent) (sn : Snap) : Option Nat := (allLeaves x).find? (fun p => leafCat x sn p == .free)

def freeLeaves (x : Extent) (sn : Snap) : Nat := ((allLeaves x).filter (fun p => leafCat x sn p == .free)).length

/-- The key of a byte of a physical leaf: leaf p lies in the extent's granule p div 32, the reserve's granules following its own. -/
def leafKey (x : Extent) (p : Nat) : Nat :=
  ((x.grans ++ x.reserve).getD (p / 32) 0) * granBytes + p % 32 * 2 ^ 21

/-- A publication under way has switched a slice (R297). -/
def snapSwitched (sn : Snap) (sl : Nat) : Bool := match sn.pubs with
  | p :: _ => p.chosen.isSome && p.switched.any (fun x => x.val == sl)
  | [] => false

/-- The LATEST slot is reserved as the write slot of a publication under way (R294). -/
def snapReserved (sn : Snap) : Option Nat :=
  match sn.pubs with
  | p :: _ => (match p.chosen with
    | some (k, true) => some k
    | _ => none)
  | [] => none

/-- The slot, EMPTY until the publication point, of the new write version that a publication under way has chosen (R294). -/
def snapNew (sn : Snap) : Option Nat :=
  match sn.pubs with
  | p :: _ => (match p.chosen with
    | some (k, false) => some k
    | _ => none)
  | [] => none

/-- The slot a slice directs writes to: the WRITE version, or after its switch the new one (R297). -/
def writeSlot (sn : Snap) (sl : Nat) : Option Nat :=
  if snapSwitched sn sl then
    (match snapReserved sn with
    | some k => some k
    | none => snapNew sn)
  else snapFind sn .write

/-- The slot that a V = 0 read uses (R295). A holder of WRITE reads what it writes to; another reads LATEST as its slice knows it, which after
the slice's switch is the version being published (DEDUCED: log entry 137). The reserved slot of a publication holds nothing before its
point, so the version being published is read there. -/
def readSlot (x : Extent) (sn : Snap) (sl : Nat) (ep : Ep) : Option Nat :=
  if snapSwitched sn sl then
    (if (rightsOf (extView x sl).rights ep).2.1 ∧ (snapNew sn).isSome then snapNew sn else snapFind sn .write)
  else if (rightsOf (extView x sl).rights ep).2.1 then snapFind sn .write else snapFind sn .latest

/-- The new write version has its own leaf for logical leaf x already. -/
def ownsNew (sn : Snap) (k x : Nat) : Bool := (tget sn.maps (k * 2 ^ 20 + x)).isSome

/-- The leaf that a version slot shows for logical leaf x: until the publication point the new write version shows the old one's leaves
where it has none of its own. -/
def snapShown (sn : Snap) (k x : Nat) : Nat :=
  if snapNew sn = some k ∧ !ownsNew sn k x then snapLeaf sn ((snapFind sn .write).getD k) x else snapLeaf sn k x

/-! The extent check. -/

/-- Where an accepted request goes: the extent, its granule index, the slice, the key of its first byte, and for a snapshot
extent the version slot and logical leaf. -/
structure Accepted where
  ext : Nat
  slice : Nat
  key : Nat
  line : Nat
  kind : ExtKind
  vslot : Option Nat
  leaf : Nat
  lostGran : Bool
deriving DecidableEq, Repr

/-- The extent check (R275) of a part of a request that lies in one 4 KiB page, in a request that ends before byte reqEnd of the PPA
space: the first failing step's status, or where the part goes. Steps 1 to 6, then version resolution. -/
def State.extCheck (s : State) (a : Access) (addr : W64) (reqEnd : Nat) : Except Status Accepted :=
  let ppa := fgaPpa addr
  if fgaNode addr != s.rtr.nodeId || (!fgaV addr && addr.extractLsb' 54 9 != 0#9) then .error stNone
  else match s.slotExtent (ppa / granBytes) with
  | none => .error stNone
  | some (e, x, i) =>
    let sl := ppaSlice ppa
    let v := extView x sl
    if v.revoked && !a.passed then .error stRevoked
    else if x.lost && !a.passed then .error stLost
    else if (x.baseSlot + x.grans.length) * granBytes < reqEnd then .error stRange
    else if (x.kind != .coherent && a.coherent) || (x.kind != .snapshot && fgaV addr) then .error stKind
    else
      if !a.passed && accDenied a x (rightsOf v.rights a.ep) v.sealed then .error stDenied
      else
        let off := ppa % granBytes
        let base : Accepted := { ext := e, slice := sl, key := x.grans.getD i 0 * granBytes + off, line := ppa / 64,
                                 kind := x.kind, vslot := none, leaf := 0, lostGran := false }
        match x.snap with
        | none => .ok base
        | some sn =>
          let leaf := i * 32 + off / 2 ^ 21
          if fgaV addr then
            if a.needW || a.needA then .error stReadOnly
            else
              let vs := mget VSlot.reset sn.slots (fgaSlot addr)
              if (vs.state == .latest || vs.state == .held) && vs.gen == fgaGen addr then
                .ok { base with vslot := some (fgaSlot addr), leaf := leaf,
                                key := leafKey x (snapLeaf sn (fgaSlot addr) leaf) + off % 2 ^ 21 }
              else .error stStale
          else
            let slot := if a.vslot.isSome then a.vslot else if a.needW || a.needA then writeSlot sn sl else readSlot x sn sl a.ep
            match slot with
            | none => .error stStale
            | some k =>
              .ok { base with vslot := some k, leaf := leaf, key := leafKey x (snapShown sn k leaf) + off % 2 ^ 21 }

/-- A refusal at the extent check counts in EXT_REFUSED (R305), and an empty reserve in its own counter. -/
def State.countRefusal (s : State) (st : Status) : State :=
  let s1 := s.tally (ctrExt 0)
  if st = stReserveEmpty then s1.tally (ctrExt 2) else s1

/-- Count an accepted request of a slice in or out (R285). -/
def State.addAccepted (s : State) (e sl : Nat) (d : Int) : State :=
  match s.extent e with
  | none => s
  | some x => s.setExtent e { x with accepted := mmod 0 x.accepted sl (fun n => ((n : Int) + d).toNat) }

/-! Events, notices and loss. -/

def extStateCode : GranState → BitVec 8
  | .granted => 1#8
  | .draining => 2#8
  | .scrubbing => 3#8
  | .sealed => 4#8
  | .free => 0#8

/-- Tell the fabric manager of an extent's transition (R280). -/
def State.extEvent (s : State) (e : Nat) (st : GranState) : State :=
  s.emit (.extEvent (BitVec.ofNat 13 e) (extStateCode st) s.tide.count)

/-- Give every granule of an extent its state, keeping FAILED flags. -/
def State.setGrans (s : State) (gs : List Nat) (st : GranState) : State :=
  gs.foldl (fun acc g => acc.setGran g { acc.gran g with state := st }) s

/-- An extent passes to a state: its granules, STATE_TICK and the management event follow (R280). -/
def State.toExtState (s : State) (e : Nat) (x : Extent) (st : GranState) : State :=
  ((s.setGrans (x.grans ++ x.reserve) st).setExtent e { x with state := st, stateTick := s.tide.count }).extEvent e st

/-- The 64-byte notice record (R290). -/
def noticeBytes (s : State) (e : Nat) (x : Extent) (event : Byte) (lostIdx : Nat) : List Byte :=
  [0x01#8, event] ++ natBytes 2 e ++ bytesOf s.rtr.nodeId 2 ++ [0#8, 0#8] ++ bytesOf s.tide.count 8 ++
  natBytes 8 (x.baseSlot * granBytes) ++ natBytes 4 x.grans.length ++ natBytes 4 lostIdx ++ List.replicate 32 0#8

/-- Write a notice to NOTIFY_EP as one BULK write transfer; none when it is 0x3FFF (R290). A notice to an unreachable endpoint is
refused at once and reported (R302). -/
def State.notice (s : State) (e : Nat) (x : Extent) (event : Byte) (lostIdx : Nat) : State :=
  if x.notifyEp = 0x3FFF#14 then s
  else
    let (s1, sent) := s.issueBulk x.notifyEp x.tenant x.notifyAddr (noticeBytes s e x event lostIdx)
      (.notice (BitVec.ofNat 13 e))
    if sent then s1 else s1.raise (mkReport 0x08 0x04 0 unitChip e 0)

/-- Set LOST on an extent (R289): a notice with EVENT 0x01 and an EXTENT_LOST report; once set it stays. -/
def State.loseExtent (s : State) (e lostIdx gran : Nat) : State :=
  match s.extent e with
  | none => s
  | some x =>
    if x.lost || x.state == .scrubbing then s
    else
      let x' := { x with lost := true }
      ((s.setExtent e x').notice e x' 0x01#8 lostIdx).raise (mkReport 0x08 0x01 2 unitChip e gran)

/-- A poisoned map read loses the extent (R301); the report names the granule that holds the map's line (R302). -/
def State.mapPoisoned (s : State) (e gran : Nat) : State :=
  (s.raise (mkReport 0x08 0x02 2 unitChip e gran)).loseExtent e 0xFFFFFFFF gran

/-- A granule is lost with its stack (R248, R280, R289): flagged FAILED. One that awaits the fill of a power-up becomes FREE at once
(R281). -/
def State.loseGranule (s : State) (g : Nat) : State :=
  let x := s.gran g
  let state := if x.state = .scrubbing ∧ (s.granOwner g).isNone then .free else x.state
  s.setGran g { state := state, failed := true }

/-- A stack's granules are lost: every granule is flagged, then each extent with a granule there gets LOST, naming its lowest lost
index. -/
def State.loseStack (s : State) (st : Nat) : State :=
  let s1 := (List.range 1280).foldl (fun acc k => acc.loseGranule (st * 1280 + k)) s
  s1.ext.extents.foldl (fun acc e =>
    match (e.2.grans ++ e.2.reserve).findIdx? (fun g => !granShelf g && granStack g == st) with
    | some i => acc.loseExtent e.1 i ((e.2.grans ++ e.2.reserve).getD i 0)
    | none => acc) s1

/-- The map leaf's line that holds a version's entry for a logical leaf is poisoned (R292, R301). Version slot k's map is taken to
lie at 128 × n × k of the map leaves (DESIGN CHOICE: the manual gives each version 128 × n bytes and no place). -/
def mapLine (x : Extent) (k leaf : Nat) : Nat :=
  let n := x.grans.length
  let pos := 128 * n * k + 4 * leaf
  (leafKey x (32 * n + pos / 2 ^ 21) + pos % 2 ^ 21) / 64

/-- The extent check with its effects: a refusal is counted, and a poisoned map read loses the extent and refuses the request. A request that
was accepted before has read its map entry already (R301). -/
def State.takeAccess (s : State) (a : Access) (addr : W64) (reqEnd : Nat) : Except Status Accepted × State :=
  match s.extCheck a addr reqEnd with
  | .error st => (.error st, s.countRefusal st)
  | .ok acc =>
    match acc.vslot, s.extent acc.ext with
    | some k, some x =>
      let m := mapLine x k acc.leaf
      if !a.passed && s.poisoned m then (.error stLost, (s.mapPoisoned acc.ext (m * 64 / granBytes)).countRefusal stLost) else (.ok acc, s)
    | _, _ => (.ok acc, s)

/-! Copy-on-write. -/

/-- The leaf under a write to a write version is shared with another live version, so it must be copied first (R296). Until its publication
point the new write version shares every leaf that it has not copied. -/
def needsCopy (sn : Snap) (k leaf : Nat) : Bool :=
  if snapNew sn = some k then !ownsNew sn k leaf else decide (1 < leafRefs sn leaf (snapLeaf sn k leaf))

/-- Leaf copies in progress on the chip. -/
def State.copiesActive (s : State) : Nat :=
  (s.ext.extents.map (fun e => (e.2.snap.map (fun sn => sn.copies.length)).getD 0)).sum

/-- A publication's switch has reached all six slices, so that no more writes are directed to the version being published. -/
def allSwitched (sn : Snap) : Bool := match sn.pubs with
  | p :: _ => p.switched.length == 6
  | [] => true

/-- A copy of leaf x for slot k may not start yet: 16 run on the chip, one of the leaf runs, earlier requests to the leaf wait, or writes may still
be directed to the version whose leaf it is (R296, R297). -/
def State.leafHeld (s : State) (sn : Snap) (k leaf : Nat) : Bool :=
  decide (16 ≤ s.copiesActive) || sn.copies.any (fun c => c.leaf == leaf) || sn.waits.any (fun w => w.leaf == leaf) ||
    (snapNew sn == some k && !allSwitched sn)

/-- An access to leaf x of slot k waits on the snapshot engine: while the leaf is copied for the slot; a write, for the publication point when
the slot is the reserved LATEST slot, or until its copy may start. -/
def State.snapHolds (s : State) (a : Access) (x : Extent) (sn : Snap) (k leaf : Nat) : Bool :=
  sn.copies.any (fun c => c.leaf == leaf && c.slot == k) ||
    ((a.needW || a.needA) && (snapReserved sn == some k ||
      (needsCopy sn k leaf && (freeLeaf x sn).isSome && s.leafHeld sn k leaf)))

/-- Copy (or with DISCARD zero-fill) leaf p into free leaf q, point the WRITE map at q and move the reference (R296). A leaf whose
last reference is dropped becomes RETURNING (R300). -/
def State.copyLeaf (s : State) (e : Nat) (x : Extent) (sn : Snap) (k leaf p q : Nat) : State :=
  let s1 :=
    if x.discard then s.poolZero (leafKey x q) (2 ^ 21)
    else
      let src := leafKey x p
      let dst := leafKey x q
      let moved := (s.mem.bytes.filter (fun c => decide (src ≤ c.1) && decide (c.1 < src + 2 ^ 21))).map
        (fun c => (c.1 - src + dst, c.2))
      let movedP := (s.mem.poison.filter (fun c => decide (src / 64 ≤ c.1) && decide (c.1 < (src + 2 ^ 21) / 64))).map
        (fun c => (c.1 - src / 64 + dst / 64, c.2))
      let z := s.poolZero dst (2 ^ 21)
      { z with mem := { z.mem with bytes := moved.foldl (fun m c => mset 0 m c.1 c.2) z.mem.bytes,
                                   poison := movedP.foldl (fun m c => mset false m c.1 c.2) z.mem.poison } }
  let snq := snapSetCat x { sn with ledgerTaken := sn.ledgerTaken + 1 } q .inUse
  let sn1 := if snapNew sn = some k then { snq with maps := tput snq.maps (k * 2 ^ 20 + leaf) q } else snapSetLeaf snq k leaf q
  let sn2 := if leafRefs sn1 leaf p = 0 then snapSetCat x sn1 p .returning else sn1
  (s1.setExtent e { x with snap := some sn2 }).tally (ctrExt 1)

/-- Make the leaf under an accepted write private to the version it goes to; refused when the reserve is empty (R296). Used for the accesses of
the device's engines and for atomics: their commands are whole, so the copy starts and ends within one, once `State.snapHolds` lets it start
(DESIGN CHOICE: log entry 138). -/
def State.ownLeaf (s : State) (acc : Accepted) : Except Status State :=
  match s.extent acc.ext, acc.vslot with
  | some x, some k =>
    match x.snap with
    | none => .ok s
    | some sn =>
      if !needsCopy sn k acc.leaf then .ok s
      else match freeLeaf x sn with
        | none => .error stReserveEmpty
        | some q => .ok (s.copyLeaf acc.ext x sn k acc.leaf (snapShown sn k acc.leaf) q)
  | _, _ => .ok s

end Sys2Proof.Machine
end

