-- ==== Sys2Proof/Machine/XltOps.lean ====
section
/-! DEFINITION. Address translation's shared operations (spec/13): table formats, the TLBs and the walk cache, starting walks, raising
faults. -/

namespace Sys2Proof.Machine

/-! Statuses (R478). -/

def stXltFault : Status := 0xB0#8
def stXltTimeout : Status := 0xB1#8
def stAsBusy : Status := 0xB2#8
def stXltFormat : Status := 0xB3#8
def stNoFault : Status := 0xB4#8
def stAsFull : Status := 0xB5#8

/-- Causes of a fault (R473). -/
inductive XltCause where
  | notValid | noRead | noWrite | accessFlag | badEntry | vaRange | user
deriving DecidableEq, Repr

def xltCauseCode : XltCause → Nat
  | .notValid => 1
  | .noRead => 2
  | .noWrite => 3
  | .accessFlag => 4
  | .badEntry => 5
  | .vaRange => 6
  | .user => 7

/-! Table formats. -/

/-- The radix descriptor of 32 bytes, byte 0 least significant (R463). -/
def radixOf (v : BitVec 256) : Radix :=
  let b (i : Nat) : Nat := (byteOf v i).toNat
  { levels := b 0, entryBytes := b 1, validBit := b 2, leafBit := b 3, leafVal := b 4, writeBit := b 5, writeVal := b 6,
    accessBit := b 7, addrLo := b 8, addrHi := b 9, addrShift := b 10, vaExt := b 11,
    idxLo := (List.range 5).map (fun i => b (12 + i)), idxBits := (List.range 5).map (fun i => b (17 + i)) }

/-- A radix descriptor is valid (R463, R464). -/
def radixValid (v : BitVec 256) : Bool :=
  let r := radixOf v
  let w := r.entryBytes * 8
  let lv := List.range r.levels
  decide (2 ≤ r.levels) && decide (r.levels ≤ 5) && (r.entryBytes == 4 || r.entryBytes == 8)
  && decide (r.leafVal ≤ 1) && decide (r.writeVal ≤ 1) && decide (r.vaExt ≤ 1)
  && v.extractLsb' 176 80 == 0#80
  && (List.range 5).all (fun i => decide (i < r.levels) || (r.idxLo.getD i 0 == 0 && r.idxBits.getD i 0 == 0))
  && lv.all (fun i => decide (1 ≤ r.idxBits.getD i 0) && decide (r.idxBits.getD i 0 ≤ 18))
  && r.idxLo.getD (r.levels - 1) 0 == 12
  && (List.range (r.levels - 1)).all (fun i => r.idxLo.getD i 0 == r.idxLo.getD (i + 1) 0 + r.idxBits.getD (i + 1) 0)
  && decide (r.idxLo.getD 0 0 + r.idxBits.getD 0 0 ≤ 64)
  && decide (r.validBit < w) && (r.leafBit == 0xFF || decide (r.leafBit < w)) && decide (r.writeBit < w)
  && (r.accessBit == 0xFF || decide (r.accessBit < w)) && decide (r.addrLo < w) && decide (r.addrHi < w)
  && decide (r.addrLo ≤ r.addrHi) && decide (r.addrHi - r.addrLo + 1 + r.addrShift ≤ 64)

/-- Levels of an Sv mode (R462). -/
def svLevels : XltMode → Nat
  | .sv39 => 3
  | .sv48 => 4
  | _ => 5

def AddrSpace.levels (a : AddrSpace) : Nat := match a.radix with
  | some r => r.levels
  | none => svLevels a.mode

/-- The lowest index bit of a level. -/
def AddrSpace.lo (a : AddrSpace) (lvl : Nat) : Nat := match a.radix with
  | some r => r.idxLo.getD lvl 0
  | none => 12 + 9 * (svLevels a.mode - 1 - lvl)

def AddrSpace.idxBits (a : AddrSpace) (lvl : Nat) : Nat := match a.radix with
  | some r => r.idxBits.getD lvl 0
  | none => 9

def AddrSpace.entryBytes (a : AddrSpace) : Nat := match a.radix with
  | some r => r.entryBytes
  | none => 8

/-- A virtual address lies in the range the mode allows (R462, R464). -/
def AddrSpace.inRange (a : AddrSpace) (va : Nat) : Bool :=
  let top := a.lo 0 + a.idxBits 0
  let hi := va / 2 ^ top
  let ones := 2 ^ (64 - top) - 1
  match a.radix with
  | some r => if r.vaExt = 0 then hi == 0 else if va.testBit (top - 1) then hi == ones else hi == 0
  | none => if va.testBit (top - 1) then hi == ones else hi == 0

/-- The host physical address of the entry a walk reads at a level. -/
def AddrSpace.entryAddr (a : AddrSpace) (lvl pa va : Nat) : Nat :=
  (pa + va / 2 ^ a.lo lvl % 2 ^ a.idxBits lvl * a.entryBytes) % 2 ^ 64

/-- What an entry read at a level says. -/
inductive WalkStep where
  | next (pa : Nat)
  | leaf (page size : Nat) (r w d : Bool)
  | fault (c : XltCause)
deriving DecidableEq, Repr

/-- An Sv entry (R462). -/
def svEntry (a : AddrSpace) (lvl : Nat) (write : Bool) (e : W64) : WalkStep :=
  let n := svLevels a.mode
  let r := e.getLsbD 1
  let w := e.getLsbD 2
  let x := e.getLsbD 3
  let u := e.getLsbD 4
  let acc := e.getLsbD 6
  let d := e.getLsbD 7
  let ppn := (e.extractLsb' 10 44).toNat
  if !e.getLsbD 0 then .fault .notValid
  else if e.getLsbD 63 || e.extractLsb' 54 7 != 0#7 || (w && !r) then .fault .badEntry
  else if r || w || x then
    let lo := a.lo lvl
    if 30 < lo ∨ ppn % 2 ^ (lo - 12) ≠ 0 then .fault .badEntry
    else if a.requireU && !u then .fault .user
    else if !r then .fault .noRead
    else if write && !w then .fault .noWrite
    else if !acc || (write && !d) then .fault .accessFlag
    else .leaf (ppn * 4096) lo r w d
  else if acc || d || u || lvl + 1 == n then .fault .badEntry
  else .next (ppn * 4096)

/-- A radix entry (R464). -/
def radixEntry (r : Radix) (lvl : Nat) (write : Bool) (e : W64) : WalkStep :=
  let field := bitsOf e.toNat r.addrHi r.addrLo * 2 ^ r.addrShift
  if !e.getLsbD r.validBit then .fault .notValid
  else if lvl + 1 == r.levels || (r.leafBit != 0xFF && (if e.getLsbD r.leafBit then 1 else 0) == r.leafVal) then
    let lo := r.idxLo.getD lvl 0
    if lo ≠ 12 ∧ lo ≠ 21 ∧ lo ≠ 30 then .fault .badEntry
    else if field % 2 ^ lo ≠ 0 then .fault .badEntry
    else if r.accessBit != 0xFF && !e.getLsbD r.accessBit then .fault .accessFlag
    else
      let canW : Bool := (if e.getLsbD r.writeBit then 1 else 0) == r.writeVal
      if write && !canW then .fault .noWrite else .leaf field lo true canW true
  else .next field

/-- Read one entry. A 4-byte entry is the low half of the value. -/
def AddrSpace.readEntry (a : AddrSpace) (lvl : Nat) (write : Bool) (e : W64) : WalkStep :=
  match a.radix with
  | some r => radixEntry r lvl write (if r.entryBytes = 4 then (e.setWidth 32).setWidth 64 else e)
  | none => svEntry a lvl write e

/-! Caches (R466). -/

def State.space (s : State) (asid : BitVec 20) : Option AddrSpace := tget s.xlt.spaces asid.toNat

def TlbEntry.covers (e : TlbEntry) (asid : BitVec 20) (va : Nat) : Bool := e.asid == asid && e.vpage == va / 2 ^ e.size

/-- A cached entry permits an access (R468). -/
def TlbEntry.permits (e : TlbEntry) (write : Bool) : Bool := if write then e.w && e.d else e.r

def TlbEntry.phys (e : TlbEntry) (va : Nat) : Nat := e.ppage * 2 ^ e.size + va % 2 ^ e.size

/-- A first-level TLB of 256 entries: the entry used last comes first, the least recently used leaves. -/
def tlbTouch (l : List TlbEntry) (e : TlbEntry) : List TlbEntry := (e :: l.filter (· != e)).take 256

/-- The chip TLB's set of an address for a page size. -/
def chipSet (asid : BitVec 20) (va size : Nat) : Nat := (va / 2 ^ size % 1024) ^^^ (asid.toNat % 1024)

/-- The chip TLB's entry for an access. -/
def State.chipHit (s : State) (asid : BitVec 20) (va : Nat) (write : Bool) : Option TlbEntry :=
  [12, 21, 30].findSome? (fun z => (mget [] s.xlt.chipTlb (chipSet asid va z)).find? (fun e =>
    e.size == z && e.covers asid va && e.permits write))

/-- Install an entry in the chip TLB, in place of any it covers the same page as; a set holds 8. -/
def State.chipFill (s : State) (e : TlbEntry) : State :=
  let k := chipSet e.asid (e.vpage * 2 ^ e.size) e.size
  let old := (mget [] s.xlt.chipTlb k).filter (fun x => !(x.asid == e.asid && x.size == e.size && x.vpage == e.vpage))
  { s with xlt := { s.xlt with chipTlb := mset [] s.xlt.chipTlb k ((e :: old).take 8) } }

/-- The first-level TLB of a block, or of the queue engine. -/
def State.tlb (s : State) (blk : Option BlockId) : List TlbEntry := match blk with
  | some b => mget [] s.xlt.blockTlb b.val
  | none => s.xlt.queueTlb

def State.tlbFill (s : State) (blk : Option BlockId) (e : TlbEntry) : State :=
  let l := tlbTouch ((s.tlb blk).filter (fun x => !(x.asid == e.asid && x.size == e.size && x.vpage == e.vpage))) e
  match blk with
  | some b => { s with xlt := { s.xlt with blockTlb := mset [] s.xlt.blockTlb b.val l } }
  | none => { s with xlt := { s.xlt with queueTlb := l } }

/-- The physical address an access translates to now, if a TLB permits it. -/
def State.xltNow (s : State) (blk : Option BlockId) (asid : BitVec 20) (va : Nat) (write : Bool) : Option Nat :=
  match (s.tlb blk).find? (fun e => e.covers asid va && e.permits write) with
  | some e => some (e.phys va)
  | none => (s.chipHit asid va write).map (fun e => e.phys va)

/-! Faults. -/

/-- The queue pair and CMD_ID of the unit that faults (R473). -/
def State.unitName (s : State) (u : XltUnit) : Nat × Nat :=
  let ofOp (n : Nat) : Nat × Nat := match tget s.que.ops n with
    | some o => (o.qp.val, descField o.desc 2 2)
    | none => (0xFFF, 0xFFFF)
  match u with
  | .ring q => (q.val, 0xFFFF)
  | .record q => (q.val, 0xFFFF)
  | .args q h => (match (tget s.que.qps q.val).bind (fun x => tget x.held h) with
    | some d => (q.val, descField d.desc 2 2)
    | none => (q.val, 0xFFFF))
  | .result n => ofOp n
  | .copySet n _ _ => ofOp n

/-- The 32 bytes of a fault record, FLAGS.PHASE clear (R473). -/
def faultBytes (s : State) (va entryAddr : Nat) (asid : BitVec 20) (write : Bool) (level : Nat) (c : XltCause) (id : BitVec 16)
    (u : XltUnit) (blk : Option BlockId) : List Byte :=
  natBytes 8 (alignDown va 4096) ++ natBytes 8 entryAddr ++
  natBytes 4 (asid.toNat + bitNat write 20 + 2 ^ 21 * level + 2 ^ 24 * xltCauseCode c) ++ bytesOf id 2 ++
  natBytes 2 (s.unitName u).1 ++ natBytes 2 (s.unitName u).2 ++
  bytesOf (match blk with
    | some b => unitBlock b
    | none => unitQueue) 2 ++ List.replicate 4 0#8

/-- The next FAULT_ID that is not outstanding (R471). -/
def State.freshFault (s : State) : Nat → BitVec 16 → BitVec 16
  | 0, n => n
  | f + 1, n => if s.xlt.faults.any (fun e => e.id == n) then s.freshFault f (n + 1#16) else n

/-- A walk faults (R471): each unit that waits on it joins the outstanding fault of its key, takes a new one, or waits for room in the
table. -/
def State.raiseFault (s : State) (w : Walk) (level entryAddr : Nat) (c : XltCause) : State :=
  let page := w.va / 4096
  if s.xlt.faults.any (fun e => e.asid == w.asid && e.page == page && e.write == w.write) then
    { s with xlt := { s.xlt with faults := s.xlt.faults.map (fun e =>
        if e.asid == w.asid && e.page == page && e.write == w.write then
          { e with units := e.units ++ w.units.filter (fun u => !e.units.contains u) } else e) } }
  else if 256 ≤ s.xlt.faults.length then
    let s1 := { s with xlt := { s.xlt with tableWaiters := s.xlt.tableWaiters ++ [w], tableFullReported := true } }
    if s.xlt.tableFullReported then s1
    else s1.raise (mkReport 0x07 0x04 0 (match w.block with
      | some b => unitBlock b
      | none => unitQueue) w.asid.toNat w.va)
  else
    match s.space w.asid, w.units with
    | some sp, u :: _ =>
      let id := s.freshFault 65536 s.xlt.nextFault
      let f : FaultEntry := { id := id, asid := w.asid, page := page, write := w.write, units := w.units,
                              record := faultBytes s w.va entryAddr w.asid w.write level c id u w.block, port := sp.port,
                              written := false }
      ({ s with xlt := { s.xlt with faults := s.xlt.faults ++ [f], nextFault := id + 1#16 } }).tally (ctrXlt 4 0)
    | _, _ => s

/-- A unit writes. -/
def XltUnit.writes : XltUnit → Bool
  | .ring _ => false
  | .record _ => true
  | .args _ _ => false
  | .result _ => true
  | .copySet _ _ inbound => !inbound

/-- The units of a walk that wait for a read, or for a write. -/
def Walk.unitsOf (w : Walk) (write : Bool) : List XltUnit := w.units.filter (fun u => u.writes == write)

/-- The units of a walk that wait for one kind of access take its fault. -/
def State.raiseFor (s : State) (w : Walk) (write : Bool) (level entryAddr : Nat) (c : XltCause) : State :=
  if (w.unitsOf write).isEmpty then s else s.raiseFault { w with write := write, units := w.unitsOf write } level entryAddr c

/-! Walks. -/

def demandWalks (m : SMap Walk) : Nat := (m.filter (fun e => !e.2.prefetch)).length

/-- The walk cache's deepest entry for an address: level and table address. -/
def State.cachedLevel (s : State) (a : AddrSpace) (asid : BitVec 20) (va : Nat) : Nat × Nat :=
  ((List.range a.levels).reverse.findSome? (fun lvl =>
    if lvl = 0 then none
    else (s.xlt.walkCache.find? (fun e => e.asid == asid && e.level == lvl && e.pfx == va / 2 ^ a.lo (lvl - 1))).map
      (fun e => (lvl, e.pa)))).getD (0, a.root.toNat)

/-- Read the 64-byte line that holds a walk's next entry: a MEM_RD on the Phosha Link port of the address space (R465). -/
def State.walkRead (s : State) (n : Nat) (w : Walk) (a : AddrSpace) : State :=
  s.issueHost a.port { pktBlank 0x80#8 with
    dst := 0x3FFF#14, tenant := a.tenant, addr := BitVec.ofNat 64 (alignDown (a.entryAddr w.level w.pa w.va) 64), aux := 1#64 } vcReq (.walk n)

/-- Start a walk in a free slot; an address out of range faults before the first read (R462, R464). -/
def State.beginWalk (s : State) (w : Walk) : State :=
  match s.space w.asid with
  | none => s
  | some a =>
    if !a.inRange w.va then if w.prefetch then s else (s.raiseFor w w.write 0 0 .vaRange).raiseFor w (!w.write) 0 0 .vaRange
    else
      let (lvl, pa) := s.cachedLevel a w.asid w.va
      let w1 := { w with level := lvl, pa := pa }
      let s1 := { s with xlt := { s.xlt with walks := tput s.xlt.walks s.xlt.nextWalk w1, nextWalk := s.xlt.nextWalk + 1 } }
      (s1.tally (if w.prefetch then ctrXlt 3 0 else ctrXlt 2 0)).walkRead s.xlt.nextWalk w1 a

/-- A unit already waits: on a walk, in the walker's queue, on a fault or for the fault table. -/
def State.unitWaits (s : State) (u : XltUnit) : Bool :=
  s.xlt.walks.any (fun e => e.2.units.contains u) || s.xlt.waiting.any (fun w => w.units.contains u)
  || s.xlt.faults.any (fun f => f.units.contains u) || s.xlt.tableWaiters.any (fun w => w.units.contains u)

/-- A walk is of the 4 KiB page of an address. -/
def Walk.onPage (w : Walk) (asid : BitVec 20) (va : Nat) : Bool := w.asid == asid && w.va / 4096 == va / 4096

/-- A miss on the page of a walk waits for that walk: a prefetch walk becomes a demand walk of the unit that missed (R467, R469). -/
def Walk.join (w : Walk) (v : Walk) : Walk :=
  if w.prefetch then { w with prefetch := v.prefetch, write := v.write, units := v.units, block := v.block }
  else { w with units := w.units ++ v.units.filter (fun u => !w.units.contains u) }

/-- Ask for a walk (R467): the walker holds one walk per address space and page, so that a walk of the same page in flight, or waiting for a
slot, takes the unit along; when all 64 are in flight it waits. -/
def State.askWalk (s : State) (blk : Option BlockId) (asid : BitVec 20) (va : Nat) (write : Bool) (u : XltUnit) : State :=
  let w : Walk := { asid := asid, va := va, write := write, prefetch := false, level := 0, pa := 0, units := [u], block := blk,
                    stale := false }
  match s.xlt.walks.find? (fun e => e.2.onPage asid va) with
  | some (k, v) => { s with xlt := { s.xlt with walks := tput s.xlt.walks k (v.join w) } }
  | none =>
    if s.xlt.waiting.any (fun v => v.onPage asid va) then
      { s with xlt := { s.xlt with waiting := s.xlt.waiting.map (fun v => if v.onPage asid va then v.join w else v) } }
    else if 64 ≤ s.xlt.walks.length then { s with xlt := { s.xlt with waiting := s.xlt.waiting ++ [w] } }
    else s.beginWalk w

/-- Translate a list of pages for a unit as a whole (R470): all their physical addresses, or none and a walk for each page that
misses; a unit that already waits goes on waiting. -/
def State.xltSet (s : State) (blk : Option BlockId) (asid : BitVec 20) (vas : List Nat) (write : Bool) (u : XltUnit) :
    Bool × State :=
  if s.unitWaits u then (false, s)
  else
    vas.foldl (fun (acc : Bool × State) va =>
      let st := acc.2
      match (st.tlb blk).find? (fun e => e.covers asid va && e.permits write) with
      | some e => (acc.1, st.tlbFill blk e)
      | none =>
        let st1 := match blk with
          | some b => st.tally (ctrXlt 0 b.val)
          | none => st
        match st1.chipHit asid va write with
        | some e => (acc.1, st1.tlbFill blk e)
        | none => (false, (st1.tally (ctrXlt 1 0)).askWalk blk asid va write u)) (true, s)

/-- The 4 KiB pages of a byte range. -/
def pagesOf (a n : Nat) : List Nat :=
  if n = 0 then [] else (List.range ((a + n - 1) / 4096 - a / 4096 + 1)).map (fun k => (a / 4096 + k) * 4096)

/-- A unit no longer waits for anything. -/
def State.dropUnit (s : State) (u : XltUnit) : State :=
  let f (l : List XltUnit) : List XltUnit := l.filter (· != u)
  { s with xlt := { s.xlt with
      walks := tmap s.xlt.walks (fun _ w => { w with units := f w.units }),
      waiting := (s.xlt.waiting.map (fun w => { w with units := f w.units })).filter (fun w => !w.units.isEmpty),
      faults := s.xlt.faults.map (fun e => { e with units := f e.units }),
      tableWaiters := (s.xlt.tableWaiters.map (fun w => { w with units := f w.units })).filter (fun w => !w.units.isEmpty) } }

end Sys2Proof.Machine
end

