-- ==== Sys2Proof/Machine/QueueOps.lean ====
section
/-! DEFINITION. The queue engine's shared operations (spec/12, and R209 to R215): queue pairs and their descriptor store, completion and
verdict records, admission, check sequence numbers, verdicts, and the admin queues. -/

namespace Sys2Proof.Machine

/-! Statuses (R451, R132, R151, R212). -/

def stAborted : Status := 0x01#8
def stAlreadyDone : Status := 0x02#8
def stBadDesc : Status := 0x60#8
def stBadFormat : Status := 0x61#8
def stBadLength : Status := 0x62#8
def stAlign : Status := 0x63#8
def stOverlap : Status := 0x64#8
def stBadShape : Status := 0x65#8
def stWindow : Status := 0x66#8
def stStageKind : Status := 0x67#8
def stStageBusy : Status := 0x68#8
def stStageOverrun : Status := 0x69#8
def stPeerTimeout : Status := 0x6A#8
def stGroupDenied : Status := 0x6B#8
def stNonfinite : Status := 0x6C#8
def stCheckFatal : Status := 0x70#8
def stLinkLost : Status := 0x98#8
def stRteTimeout : Status := 0x99#8
def stUnreachable : Status := 0x9A#8
def stQpBusy : Status := 0xA0#8
def stBadSize : Status := 0xA1#8
def stQueDenied : Status := 0xA2#8
def stNoCmd : Status := 0xA3#8
def stBadAsid : Status := 0xA4#8
def stHostMem : Status := 0xA5#8
def stQueError : Status := 0xA6#8

/-! Descriptors. -/

/-- Every byte of a descriptor outside the common header and the ranges given is 0, and FLAGS[7:1] is 0 (R433, R458). -/
def descClean (d : Desc) (used : List (Nat × Nat)) : Bool :=
  decide (descField d 1 1 ≤ 1) && (List.range 64).all (fun i =>
    decide (i < 4) || used.any (fun u => decide (u.1 ≤ i) && decide (i < u.1 + u.2)) || byteOf d i == 0#8)

def descOpc (d : Desc) : BitVec 8 := d.extractLsb' 0 8
def descIntr (d : Desc) : Bool := d.getLsbD 8
def descCmd (d : Desc) : BitVec 16 := d.extractLsb' 16 16

/-- The opcodes a queue pair accepts (R142). -/
def queueOpcodes : List (BitVec 8) :=
  [0x01#8, 0x02#8, 0x03#8, 0x10#8, 0x11#8, 0x12#8, 0x13#8, 0x20#8, 0x21#8, 0x22#8, 0x30#8, 0x40#8, 0x41#8, 0x42#8, 0x43#8, 0x50#8]

/-- The opcodes an admin queue accepts (R429, R458). -/
def adminOpcodes : List (BitVec 8) :=
  [0x51#8, 0x60#8, 0x61#8, 0x62#8, 0x63#8, 0x70#8, 0x71#8, 0x72#8, 0x73#8, 0x74#8, 0x75#8]

/-- An operation that produces results carries a check sequence number (R209). -/
def csnGiven (opc : BitVec 8) : Bool := opc == 0x30#8 || (decide (1 ≤ opc.toNat) && decide (opc.toNat ≤ 0x22))

/-! Queue pairs. -/

def State.qp (s : State) (q : Qp) : Option QPair := tget s.que.qps q.val

def State.setQp (s : State) (q : Qp) (x : QPair) : State := { s with que := { s.que with qps := tput s.que.qps q.val x } }

def State.modQp (s : State) (q : Qp) (f : QPair → QPair) : State := { s with que := { s.que with qps := tmod s.que.qps q.val f } }

def State.op (s : State) (n : Nat) : Option OpRec := tget s.que.ops n

def State.modOp (s : State) (n : Nat) (f : OpRec → OpRec) : State := { s with que := { s.que with ops := tmod s.que.ops n f } }

def QPair.sqSize (x : QPair) : Nat := 2 ^ x.cfg.sqLog
def QPair.cqSize (x : QPair) : Nat := 2 ^ x.cfg.cqLog

/-- Slots of the descriptor store that queue pairs hold (R448). -/
def State.storeHeld (s : State) : Nat := (s.que.qps.map (fun e => e.2.held.length)).sum

/-- The descriptor store's slots. -/
def storeSlots : Nat := 16384

/-- Free the store slot of a held descriptor (R448). -/
def State.freeHeld (s : State) (q : Qp) (h : Nat) : State :=
  match s.qp q with
  | none => s
  | some x =>
    if (tget x.held h).isSome then (s.setQp q { x with held := tdel x.held h }).ledger 4 (-1) else s

/-- Records of a queue pair are discarded: it is HALTED, or went from HALTED to DRAINING (R432). -/
def QPair.drops (x : QPair) : Bool := x.state == .halted || x.dropRecords

/-- A record is due: it waits for its ring entry, or is discarded, counted, and frees its slot (R432, R438). -/
def State.queueRec (s : State) (q : Qp) (r : Rec) : State :=
  match s.qp q with
  | none => s
  | some x =>
    if x.drops then
      let s1 := s.tally (ctrQue 2 0)
      match r.held with
      | some h => s1.freeHeld q h
      | none => s1
    else s.setQp q { x with recs := x.recs ++ [r] }

/-- A queue pair moves to ERROR, with its one QUE_ERROR record and its report (R432, R452). -/
def State.qpError (s : State) (q : Qp) (cause : Nat) : State :=
  match s.qp q with
  | none => s
  | some x =>
    if x.state = .active then
      ((s.setQp q { x with state := .error }).queueRec q
        { value := BitVec.ofNat 64 cause, csn := 0#48, tileStatus := 0#16, cmdId := 0xFFFF#16, status := stQueError, outcome := none,
          cause := none, verdict := false, held := none, intr := false }).raise
        (mkReport 0x06 0x01 0 unitQueue q.val cause)
    else s

/-- The record at the head of a queue pair counts as written without having been: its entry stays to be released, and its store slot is
free (R438). -/
def State.skipRecord (s : State) (q : Qp) : State :=
  match s.qp q with
  | none => s
  | some x => match x.recs with
    | [] => s
    | r :: rest =>
      let size := 2 ^ x.cfg.cqLog
      let s1 := s.setQp q { x with recs := rest, cqNext := (x.cqNext + 1) % size, phase := x.phase != decide (x.cqNext + 1 = size) }
      match r.held with
      | some h => s1.freeHeld q h
      | none => s1

/-- A takeover halts a queue pair: the records that wait are discarded (R424, R432). -/
def State.haltQp (s : State) (q : Qp) : State :=
  match s.qp q with
  | none => s
  | some x =>
    if x.state = .active ∨ x.state = .error then
      x.recs.foldl (fun st r => st.queueRec q r) (s.setQp q { x with state := .halted, recs := [] })
    else s

/-- A queue pair is tenant-bound (R511): its port's link encryption is in force under a key that a session of its tenant installed, or
it is rung over the fabric and both its rings lie in sealed extents of its tenant. -/
def State.tenantBound (s : State) (x : QPair) : Bool :=
  let c := mget PortCrypto.reset s.sec.crypto x.cfg.port.val
  let keyed : Bool := match c.sendSlot with
    | some b => (if b then c.slot1 else c.slot0).owner == x.cfg.tenant
    | none => false
  let sealedRing (a : W64) : Bool := match s.slotExtent (fgaPpa a / granBytes) with
    | some (_, e, _) => e.state == .sealed && e.tenant == x.cfg.tenant
    | none => false
  (c.required && keyed) || (x.cfg.dbFabric && x.cfg.ringPool && sealedRing x.cfg.sqAddr && sealedRing x.cfg.cqAddr)

/-- The tenants an access made for a queue pair is tenant-authenticated for (R511). -/
def State.authOf (s : State) (x : QPair) : List Tenant := if s.tenantBound x then [x.cfg.tenant] else []

/-- The same for an operation. -/
def State.opAuth (s : State) (o : OpRec) : List Tenant := match s.qp o.qp with
  | some x => s.authOf x
  | none => []

/-! Verdicts (R209 to R215). -/

/-- The record of an operation's verdict: in strict mode its completion record carries it, which a FATAL makes one of CHECK_FATAL (R212), else a
verdict record follows (R215, R436). -/
def State.verdictRecord (s : State) (v : VerdictWait) (o : Outcome3) (c : Option VCause) : State :=
  match v.record with
  | some r => s.queueRec v.qp { r with outcome := some o, cause := c, status := if o = .fatal then stCheckFatal else r.status }
  | none =>
    if v.strict then s
    else s.queueRec v.qp
      { value := 0#64, csn := v.csn, tileStatus := 0#16, cmdId := v.cmdId, status := 0#8, outcome := some o, cause := c,
        verdict := true, held := none, intr := v.intr }

/-- Issue an operation's verdict. One whose completion is not due yet has its record written with the completion (R215). -/
def State.issueVerdict (s : State) (n : Nat) (o : Outcome3) (c : Option VCause) : State :=
  match tget s.ras.verdicts n with
  | none => s
  | some v =>
    let s1 := if o = .confirm ∨ v.issued then s else (s.tally (ctrTen 8 v.tenant.toNat)).tally (ctrRas 4)
    if v.tf.isSome then ({ s1 with ras := { s1.ras with verdicts := tdel s1.ras.verdicts n } }).verdictRecord v o c
    else { s1 with ras := { s1.ras with verdicts := tput s1.ras.verdicts n { v with issued := true } } }

/-- The outcome a cause gives (R210). -/
def causeOutcome (c : VCause) : Outcome3 := if c = .threeWay then .fatal else .retract

/-- A cause of RETRACT or FATAL becomes known for an operation without a verdict; THREE_WAY prevails over one known in the same tick. -/
def State.setCause (s : State) (n : Nat) (c : VCause) : State :=
  { s with ras := { s.ras with verdicts := tmod s.ras.verdicts n (fun v =>
      match v.cause with
      | some (d, age) => if c = .threeWay ∧ d ≠ .threeWay ∧ age = 0 ∧ !v.issued then { v with cause := some (c, 0) } else v
      | none => { v with cause := some (c, 0) }) } }

/-! Operations. -/

/-- Give an operation its check sequence number, in admission order, and await its verdict (R209). -/
def State.giveCsn (s : State) (n : Nat) : State :=
  match s.op n with
  | none => s
  | some o =>
    match s.qp o.qp with
    | none => s
    | some x =>
      let v : VerdictWait :=
        { qp := o.qp, csn := x.csn, opcode := o.opcode, tenant := o.tenant,
          slot := BitVec.ofNat 32 ((tget x.held o.held).elim 0 (fun h => h.slot)), tf := none, cause := none, issued := false,
          cmdId := descCmd o.desc, intr := descIntr o.desc, strict := !x.cfg.provisional, record := none }
      let s1 := (s.setQp o.qp { x with csn := x.csn + 1#48 }).modOp n (fun r => { r with csn := x.csn })
      { s1 with ras := { s1.ras with verdicts := tput s1.ras.verdicts n v } }

/-- The next descriptor of a queue pair in fetch order that is not admitted and not done. -/
def QPair.next (x : QPair) : Option (Nat × Held) := x.held.find? (fun e => e.2.op.isNone && !e.2.done)

/-- Descriptor h is the queue pair's next and has the opcode. -/
def State.nextIs (s : State) (q : Qp) (h : Nat) (opc : BitVec 8) : Option (QPair × Held) :=
  match s.qp q with
  | none => none
  | some x =>
    match x.next with
    | some (k, d) => if k = h ∧ descOpc d.desc = opc ∧ x.state ≠ .draining then some (x, d) else none
    | none => none

/-- A descriptor ends without being admitted: one record with CSN 0 (R147, R446). -/
def State.endDesc (s : State) (q : Qp) (h : Nat) (st : Status) (value : W64) : State :=
  match s.qp q with
  | none => s
  | some x =>
    match tget x.held h with
    | none => s
    | some d =>
      if d.done || d.op.isSome then s
      else (s.setQp q { x with held := tput x.held h { d with done := true } }).queueRec q
        { value := value, csn := 0#48, tileStatus := 0#16, cmdId := descCmd d.desc, status := st, outcome := none, cause := none,
          verdict := false, held := some h, intr := descIntr d.desc }

/-- Admit a descriptor as an operation, without a check sequence number yet: its number, and the state. -/
def State.newOp (s : State) (q : Qp) (h : Nat) (x : QPair) (d : Held) : Nat × State :=
  let n := s.que.nextOp
  let o : OpRec := { qp := q, held := h, opcode := descOpc d.desc, csn := 0#48, desc := d.desc, tenant := x.cfg.tenant,
                     ep := x.cfg.ep, ending := none, tileStatus := 0#16, due := none, list := [], pages := [],
                     block := none, mask := 0#8, got := [], todo := [], waited := false }
  let s1 := s.setQp q { x with held := tput x.held h { d with op := some n } }
  (n, { s1 with que := { s1.que with ops := tput s1.que.ops n o, nextOp := n + 1 } })

/-- Admit a descriptor as an operation; one that produces results gets its check sequence number (R209). -/
def State.admitOp (s : State) (q : Qp) (h : Nat) (x : QPair) (d : Held) : Nat × State :=
  let (n, s1) := s.newOp q h x d
  (n, if csnGiven (descOpc d.desc) then s1.giveCsn n else s1)

/-- An operation's completion becomes due: its record waits for the ring, or in strict mode for the verdict; a verdict that has been
issued follows directly (R149, R211, R215). -/
def State.completeOp (s : State) (n : Nat) (st : Status) (value : W64) (ts : BitVec 16) : State :=
  match s.op n with
  | none => s
  | some o =>
    let r : Rec := { value := value, csn := o.csn, tileStatus := ts ||| o.tileStatus, cmdId := descCmd o.desc, status := st,
                     outcome := none, cause := none, verdict := false, held := some o.held, intr := descIntr o.desc }
    let s1 := ({ s with que := { s.que with ops := tdel s.que.ops n } }).modQp o.qp (fun x =>
      { x with held := tmod x.held o.held (fun d => { d with done := true }) })
    let s1 := if st = stOk then s1.tally (ctrTen 0 o.tenant.toNat) else s1
    match tget s1.ras.verdicts n with
    | none => s1.queueRec o.qp r
    | some v =>
      let v' := { v with tf := some 0, record := if v.strict then some r else none }
      let s2 := { s1 with ras := { s1.ras with verdicts := tput s1.ras.verdicts n v' } }
      let s3 := if v.strict then s2 else s2.queueRec o.qp r
      match v.cause with
      | some (c, _) => if v.issued then s3.issueVerdict n (causeOutcome c) (some c) else s3
      | none => s3

/-- Add a report's operation: that of a held operation (R219). -/
def State.reportOp (s : State) (n : Nat) (r : Report) : Report :=
  match s.op n with
  | some o => r.forOp o.qp o.tenant o.opcode (match s.qp o.qp with
      | some x => (tget x.held o.held).elim 0 (fun h => h.slot)
      | none => 0) o.csn
  | none =>
    match tget s.ras.verdicts n with
    | some v => { r with qp := BitVec.ofNat 16 v.qp.val, tenant := v.tenant.setWidth 16, opcode := v.opcode, desc := v.slot,
                         csn := v.csn }
    | none => r

/-! Grants (R427). -/

/-- Tenant and endpoint are granted to a port. -/
def State.granted (s : State) (p : PlPort) (t : Tenant) (ep : Ep) : Bool :=
  (mget [] s.que.grants p.val).any (fun g => g.tenant == t && (ep &&& g.mask) == (g.ep &&& g.mask))

/-- Some entry of the port grants the tenant. -/
def State.tenantGranted (s : State) (p : PlPort) (t : Tenant) : Bool := (mget [] s.que.grants p.val).any (fun g => g.tenant == t)

/-! Admin queues (R428, R429). -/

def State.admin (s : State) (p : PlPort) : Admin := mget Admin.reset s.que.admin p.val

def State.setAdmin (s : State) (p : PlPort) (a : Admin) : State :=
  { s with que := { s.que with admin := mset Admin.reset s.que.admin p.val a } }

/-- The record of the admin command at the head is due, and the next command may run. -/
def State.adminEnd (s : State) (p : PlPort) (st : Status) (value : W64) : State :=
  let a := s.admin p
  match a.held with
  | [] => s
  | d :: rest =>
    s.setAdmin p { a with held := rest, busy := false, recs := a.recs ++
      [{ value := value, csn := 0#48, tileStatus := 0#16, cmdId := descCmd d, status := st, outcome := none, cause := none,
         verdict := false, held := none, intr := descIntr d }] }

/-- Commands at the head whose opcode is not of R429 complete with OP_BAD_DESC. -/
def State.adminSkip (s : State) (p : PlPort) : Nat → State
  | 0 => s
  | f + 1 =>
    match (s.admin p).held with
    | d :: _ => if !(s.admin p).busy && !adminOpcodes.contains (descOpc d) then (s.adminEnd p stBadDesc 0#64).adminSkip p f else s
    | [] => s

/-- Complete the admin command at the head. -/
def State.adminDone (s : State) (p : PlPort) (st : Status) (value : W64) : State := (s.adminEnd p st value).adminSkip p 4

/-- The admin command at the head waits for something to finish. -/
def State.adminBusy (s : State) (p : PlPort) : State := s.setAdmin p { s.admin p with busy := true }

/-- The descriptor at the head of a port's admin queue, when it has the opcode and none is being waited for. -/
def State.adminHead (s : State) (p : PlPort) (opc : BitVec 8) : Option Desc :=
  match (s.admin p).held with
  | d :: _ => if !(s.admin p).busy && descOpc d == opc then some d else none
  | [] => none

/-! Writes of less than a line to the host or to an endpoint. -/

/-- A MEM_WR of less than a line: ADDR is the bytes' own address, and the payload is padded with zeros to 16 bytes (DESIGN CHOICE: log
entry 31). -/
def smallWrite (dst : Ep) (t : Tenant) (cls : BitVec 2) (a : Nat) (bs : List Byte) : Packet :=
  { pktBlank 0x81#8 with dst := dst, tenant := t, cls := cls, addr := BitVec.ofNat 64 a, payload := toUnits bs }

/-- The host's endpoint on Phosha Link, which the manual does not number: packets to the host carry 0x3FFF (DESIGN CHOICE: log
entry 32). -/
def hostEp : Ep := 0x3FFF#14

/-- Send INTR on the active port (R443). -/
def State.interrupt (s : State) (vector : BitVec 11) : State :=
  (s.sendHost s.que.active { pktBlank 0x88#8 with dst := hostEp, aux := vector.setWidth 64 } vcRsp none).tally (ctrQue 4 0)

end Sys2Proof.Machine
end

