-- ==== Sys2Proof/Machine/Trans.lean ====
section
/-! DEFINITION. The transcendental unit (R82, R83, R618): exp2, log2, rcp, rsqrt. The bits of a result are the device's own within the bounds
of R82; exp2 and log2 are computed here to far more places than the bounds need, so that a result can be held against them. -/

namespace Sys2Proof.Machine

/-- One of exp2, log2, rcp, rsqrt. -/
inductive TransFn where
  | exp2 | log2 | rcp | rsqrt
deriving DecidableEq, Repr

/-- The number the free functions of Config know it by. -/
def transIx : TransFn → Nat
  | .exp2 => 0
  | .log2 => 1
  | .rcp => 2
  | .rsqrt => 3

/-! Reference values. A fixed-point number has 200 places after the point. -/

def fixOne : Nat := 2 ^ 200

/-- The product of the 2^(2^-i) of the set bits of a fraction, from its first place on; c is the root of that place. -/
def rootProduct : Nat → Nat → Nat → Nat → Nat
  | 0, _, _, acc => acc
  | n + 1, f, c, acc => rootProduct n f ((c * fixOne).sqrt) (if f.testBit n then acc * c / fixOne else acc)

/-- 2^f for a fraction f of 160 places. -/
def exp2Frac (f : Nat) : Nat := rootProduct 160 f ((2 * fixOne * fixOne).sqrt) fixOne

/-- The places of log2 of a fixed-point number from 1 to 2, by repeated squaring. -/
def log2Places : Nat → Nat → Nat → Nat
  | 0, _, acc => acc
  | n + 1, y, acc =>
    let z := y * y / fixOne
    if 2 * fixOne ≤ z then log2Places n (z / 2) (2 * acc + 1) else log2Places n z (2 * acc)

/-- The exact result, to within 2^-150 of the result for exp2 and 2^-150 for log2, and cut off with its last place set where it is not exact for
rcp and rsqrt. The operand is a finite number that is not 0, and positive for log2 and rsqrt. -/
def transExact (fn : TransFn) (neg : Bool) (m : Nat) (e : Int) : Val :=
  let top := Nat.log2 m
  match fn with
  | .exp2 =>
    let x : Int := (if neg then -1 else 1) * ((m * 2 ^ (e + 160).toNat : Nat) : Int)
    .num false (exp2Frac (x % 2 ^ 160).toNat) (x / 2 ^ 160 - 200)
  | .log2 =>
    let l : Int := ((top : Int) + e) * 2 ^ 160 + (log2Places 160 (m * fixOne / 2 ^ top) 0 : Nat)
    .num (decide (l < 0)) l.natAbs (-160)
  | .rcp =>
    let q := 2 ^ (top + 64) / m
    .num neg (2 * q + (if q * m = 2 ^ (top + 64) then 0 else 1)) (-(top + 64 : Nat) - e - 1)
  | .rsqrt =>
    let odd : Nat := if e % 2 = 0 then 0 else 1
    let y := 2 ^ (2 * (top + 40)) / (m * 2 ^ odd)
    let q := y.sqrt
    .num false (2 * q + (if q * q * (m * 2 ^ odd) = 2 ^ (2 * (top + 40)) then 0 else 1)) (-(top + 40 : Nat) - (e - odd) / 2 - 1)

/-- The exponent of a finite value's leading bit. -/
def Val.top : Val → Int
  | .num _ m e => (Nat.log2 m : Int) + e
  | _ => 0

/-- The bound of R82 on a result's distance from the exact one, as an exponent of 2. -/
def transBound (fn : TransFn) (m : Nat) (e : Int) (v : Val) : Int :=
  match fn with
  | .log2 => if !dyGt m e 2 0 && !dyGt 1 (-1) m e then -22 else v.top - 23
  | _ => max v.top (-126) - 23

/-- A result lies within the bound of R82, as far as the exact result's own 150 places tell. -/
def transOk (fn : TransFn) (neg : Bool) (m : Nat) (e : Int) (r : W32) : Bool :=
  let v := transExact fn neg m e
  match f32Val r, sumVals [f32Val r, v.neg] with
  | .num _ _ _, .num _ d x =>
    let b := transBound fn m e v
    !dyGt d x (2 ^ 100 + 1) (b - 100)
  | .inf s, _ => fn == .rcp && s == neg && !dyGt m e 1 (-128)
  | _, _ => false

/-- A result of the unit for an operand that R83 does not list: the device's own fixed bits (R618), which lie within the bounds of R82; bits
beyond them are no device's, and the nearest FP32 value stands in their place. Its events are read off it (R69, R79). -/
def transFree (fn : TransFn) (x : W32) : W32 × Status16 :=
  match f32Val x with
  | .num neg m e =>
    let own := Config.trans (transIx fn) x
    let r := if transOk fn neg m e own then own else (f32Round (transExact fn neg m e)).1
    match f32Val r with
    | .inf _ => (r, fOvfInf)
    | .num _ 0 _ => (r, if fn = .log2 then fNone else fUnderflow)
    | _ => (r, fNone)
  | _ => (0x7FC00000#32, fNanIn)

/-- A transcendental function (R82, R83). -/
def transOp (fn : TransFn) (x : W32) : W32 × Status16 :=
  let inf : W32 := 0x7F800000#32
  let ninf : W32 := 0xFF800000#32
  let nan : W32 := 0x7FC00000#32
  match f32Val x with
  | .nan => (nan, fNanIn)
  | .inf neg => match fn with
    | .exp2 => if neg then (0#32, fNone) else (inf, fNone)
    | .log2 => if neg then (nan, fInvalid) else (inf, fNone)
    | .rcp => if neg then (0x80000000#32, fNone) else (0#32, fNone)
    | .rsqrt => if neg then (nan, fInvalid) else (0#32, fNone)
  | .num neg m e =>
    if m = 0 then match fn with
      | .exp2 => (0x3F800000#32, fNone)
      | .log2 => (ninf, fDivZero)
      | .rcp => (if neg then ninf else inf, fDivZero)
      | .rsqrt => (if neg then ninf else inf, fDivZero)
    else match fn with
      | .exp2 =>
        if !neg && !dyGt 128 0 m e then (inf, fOvfInf)
        else if neg && dyGt m e 149 0 then (0#32, fUnderflow)
        else transFree fn x
      | .log2 =>
        if neg then (nan, fInvalid)
        else transFree fn x
      | .rcp => transFree fn x
      | .rsqrt => if neg then (nan, fInvalid) else transFree fn x

end Sys2Proof.Machine
end

