-- ==== Sys2Proof/Machine/Operands.lean ====
section
/-! DEFINITION. The operand forms of figures and streams: descriptors (R107, R118), scratch addresses (R108), elements in scratch with
their MX scales (R61, R71), vector registers (R58, R113), and the memory-side addresses of a stream's rows (R119, R123). -/

namespace Sys2Proof.Machine

/-- A figure descriptor (R107). -/
structure Fig where
  kind : Nat
  arith : BitVec 8
  fmtA : Nat
  fmtB : Nat
  fmtOut : Nat
  mode : Nat
  reps : Nat
  param : Nat
  acc : Nat
  len : Nat
  aAddr : Nat
  bAddr : Nat
  outAddr : Nat
  aStride : Nat
  bStride : Nat
  outStride : Nat
  chain : List (Nat × Nat)
  const0 : W32
  const1 : W32
  bMode : Nat
  flags : Nat
  scaleOff : Nat
deriving DecidableEq, Repr

/-- The figure that 64 bytes spell. -/
def figOf (b : List Byte) : Fig :=
  { kind := fieldAt b 0 1, arith := BitVec.ofNat 8 (fieldAt b 1 1), fmtA := fieldAt b 2 1 % 16, fmtB := fieldAt b 2 1 / 16,
    fmtOut := fieldAt b 3 1 % 16, mode := fieldAt b 3 1 / 16, reps := fieldAt b 4 2, param := fieldAt b 6 1,
    acc := fieldAt b 7 1, len := fieldAt b 8 4, aAddr := fieldAt b 12 4, bAddr := fieldAt b 16 4, outAddr := fieldAt b 20 4,
    aStride := fieldAt b 24 4, bStride := fieldAt b 28 4, outStride := fieldAt b 32 4,
    chain := (List.range 8).map (fun i => (fieldAt b (36 + 2 * i) 1, fieldAt b (37 + 2 * i) 1)),
    const0 := BitVec.ofNat 32 (fieldAt b 52 4), const1 := BitVec.ofNat 32 (fieldAt b 56 4), bMode := fieldAt b 60 1,
    flags := fieldAt b 61 1, scaleOff := fieldAt b 62 2 }

/-- FLAGS.ACC_CLEAR and FLAGS.STORE. -/
def Fig.accClear (f : Fig) : Bool := f.flags.testBit 0
def Fig.store (f : Fig) : Bool := f.flags.testBit 1

/-- The operations of a chain: up to the first opcode 0x00 (R112). -/
def Fig.ops (f : Fig) : List (Nat × Nat) := f.chain.takeWhile (fun o => o.1 != 0)

/-- A stream descriptor (R118). -/
structure StreamD where
  path : Nat
  sched : Nat
  addrMode : Nat
  arg : Nat
  flags : Nat
  scr0 : Nat
  scr1 : Nat
  dim0 : Nat
  dim1 : Nat
  dim2 : Nat
  stride1 : Int
  stride2 : Int
  cellStride : Int
  stepStride : Int
  offset : Int
  cellMask : Nat
  indexSlot : Nat
  indexCount : Nat
  byteEnable : Nat
deriving DecidableEq, Repr

/-- The stream that 64 bytes spell. -/
def streamOf (b : List Byte) : StreamD :=
  { path := fieldAt b 0 1 % 16, sched := fieldAt b 0 1 / 16 % 4, addrMode := fieldAt b 0 1 / 64, arg := fieldAt b 1 1,
    flags := fieldAt b 2 1, scr0 := fieldAt b 4 4, scr1 := fieldAt b 8 4, dim0 := fieldAt b 12 4, dim1 := fieldAt b 16 2,
    dim2 := fieldAt b 18 2, stride1 := signedOf 32 (fieldAt b 20 4), stride2 := signedOf 32 (fieldAt b 24 4),
    cellStride := signedOf 64 (fieldAt b 28 8), stepStride := signedOf 64 (fieldAt b 36 8), offset := signedOf 64 (fieldAt b 44 8),
    cellMask := fieldAt b 52 2, indexSlot := fieldAt b 54 2, indexCount := fieldAt b 56 4, byteEnable := fieldAt b 60 2 }

def StreamD.double (d : StreamD) : Bool := d.flags.testBit 0
def StreamD.byteEn (d : StreamD) : Bool := d.flags.testBit 1
def StreamD.bcast (d : StreamD) : Bool := d.flags.testBit 2
def StreamD.clamp (d : StreamD) : Bool := d.flags.testBit 3
def StreamD.afterCommit (d : StreamD) : Bool := d.flags.testBit 4
def StreamD.indexed (d : StreamD) : Bool := d.addrMode == 1

/-- Rows of a plane: DIM1_COUNT, or INDEX_COUNT in indexed mode (R119). -/
def StreamD.rows (d : StreamD) : Nat := if d.indexed then d.indexCount else d.dim1

/-- Bytes a copy of the stream moves for one cell. -/
def StreamD.bytes (d : StreamD) : Nat := d.rows * d.dim2 * d.dim0

/-- The stream's buffer in a step (R108): SCR_ADDR1 in odd steps of a DOUBLE stream, else SCR_ADDR0. -/
def StreamD.buffer (d : StreamD) (step : Nat) : Nat := if d.double && step % 2 == 1 then d.scr1 else d.scr0

/-- The stream's scratch side lies in scratch: every path but the two between the region buffer and pool memory. -/
def StreamD.inScratch (d : StreamD) : Bool := d.path != 6 && d.path != 7

/-- The memory-side address of row i1 of plane i2 for logical cell c in step s (R119). -/
def StreamD.rowAddr (d : StreamD) (base : Int) (c s : Nat) (i1 : Int) (i2 : Nat) : Int :=
  base + d.offset + c * d.cellStride + s * d.stepStride + i1 * d.stride1 + i2 * d.stride2

/-- What a figure needs to know of its tile. -/
structure FigCtx where
  streams : List StreamD
  step : Nat
  lc : Nat
  scratchEnd : Nat
  seed : W64
  /-- the tile index of R137 -/
  tile : Nat
  reel : Nat
  figIx : Nat
deriving DecidableEq, Repr

/-- Scratch bytes (R85). -/
def scratchBytes : Nat := 2 ^ 18

/-- The scratch address an address field names (R108). -/
def FigCtx.addr (cx : FigCtx) (a : Nat) : Nat :=
  if a < 2 ^ 31 then a % scratchBytes
  else match cx.streams[a / 2 ^ 20 % 256]? with
    | some d => (d.buffer cx.step + a % scratchBytes) % scratchBytes
    | none => a % scratchBytes

/-- An address field is formed as R108 requires. -/
def addrFieldOk (a : Nat) : Bool := bitsOf a 30 28 == 0 && bitsOf a 19 18 == 0

/-- A scratch byte. -/
def Cell.byte (c : Cell) (a : Nat) : Byte := mget 0 c.scratch (a % scratchBytes)

def Cell.bytesAt (c : Cell) (a n : Nat) : List Byte := (List.range n).map (fun i => c.byte (a + i))

/-- Write bytes to scratch and run the tile's signature over the write (R200). -/
def Cell.putScratch (c : Cell) (a : Nat) (bs : List Byte) : Cell :=
  let a0 := a % scratchBytes
  let sc := ((List.range bs.length).zip bs).foldl (fun m ib => mset 0 m ((a0 + ib.1) % scratchBytes) ib.2) c.scratch
  let seq := natBytes 4 a0 ++ bs
  { c with scratch := sc
           tile := c.tile.map (fun t => { t with sig := (crc64 0x42F0E1EBA9EA3693#64 t.sig.1 seq,
                                                         crc64 0xAD93D23594C93659#64 t.sig.2 seq) }) }

/-- A lane of a vector register (R58); one not written since the tile started holds zeros or a free value (R90, R113). -/
def Cell.reg (c : Cell) (r lane : Nat) : W32 :=
  let k := r % 32 * 128 + lane % 128
  match tget c.regs k with
  | some v => v
  | none => match c.regFree with
    | none => 0#32
    | some n => Config.freeReg n k

def Cell.setReg (c : Cell) (r lane : Nat) (v : W32) : Cell := { c with regs := tput c.regs (r % 32 * 128 + lane % 128) v }

/-- Add events to the tile's status word (R79). -/
def Cell.flag (c : Cell) (f : Status16) : Cell := { c with status := c.status ||| f }

/-! Elements. -/

/-- The encoding of element k of the array at a (R61): elements packed densely, little-endian. -/
def Cell.elem (c : Cell) (fmt a k : Nat) : Nat :=
  let bit := k * fmtBits fmt
  leNat (c.bytesAt (a + bit / 8) 5) / 2 ^ (bit % 8) % 2 ^ fmtBits fmt

/-- The scale byte of element k of an array whose scale array lies off × 64 bytes after it. -/
def Cell.scale (c : Cell) (a off k : Nat) : Nat := (c.byte (a + off * 64 + k / 32)).toNat

/-- How many elements a byte displacement passes over. -/
def elemsIn (fmt bytes : Nat) : Nat := bytes * 8 / fmtBits fmt

/-- The value of element k, counted from displacement disp of the operand at base a: its scale follows its place in the operand's
element array (R61). -/
def Cell.operand (c : Cell) (fmt a off disp k : Nat) : Val × Status16 :=
  elemVal fmt (c.elem fmt (a + disp) k) (if fmtMx fmt then c.scale a off (elemsIn fmt disp + k) else 0)

/-- An element as the FP32 value an elementwise operation takes (R63): MX elements beyond FP32's range follow R77. -/
def Cell.operandF32 (c : Cell) (fmt a off disp k : Nat) : W32 × Status16 :=
  if fmt = 0 then
    let w := BitVec.ofNat 32 (c.elem 0 (a + disp) k)
    (w, flagIf (f32Val w).isNan fNanIn)
  else
    let (v, f1) := c.operand fmt a off disp k
    let (t, f2) := termOf v
    ((f32Round t).1, f1 ||| f2)

/-- An integer element as INT32 (R80). -/
def Cell.operandInt (c : Cell) (fmt a disp k : Nat) : W32 :=
  if fmt = 11 then BitVec.ofInt 32 (signedOf 8 (c.elem fmt (a + disp) k)) else BitVec.ofNat 32 (c.elem 12 (a + disp) k)

/-- Pack element encodings densely into bytes (R61). -/
def packElems (fmt : Nat) (cs : List Nat) : List Byte :=
  let w := fmtBits fmt
  natBytes ((cs.length * w + 7) / 8) (cs.reverse.foldl (fun acc c => acc * 2 ^ w + c % 2 ^ w) 0)

/-- The draw of output element k of a figure (R66): its index in the output stream is the stream's base index, which the image does
not hold, plus its position there. -/
def FigCtx.draw (cx : FigCtx) (f : Fig) (pos : Nat) : Nat :=
  let off := if f.outAddr < 2 ^ 31 then 0 else elemsIn f.fmtOut (f.outAddr % scratchBytes)
  let stream := if f.outAddr < 2 ^ 31 then 256 else f.outAddr / 2 ^ 20 % 256
  srDraw cx.seed cx.tile (Config.srBase cx.reel stream + off + pos)

/-- Convert FP32 values to FMT_OUT and write them at displacement disp of the output (R64, R70, R72); an MX output is written block by
block with its scale bytes. -/
def Cell.putOut (c : Cell) (cx : FigCtx) (f : Fig) (disp : Nat) (xs : List W32) : Cell :=
  let a := cx.addr f.outAddr
  let pos := elemsIn f.fmtOut disp
  if fmtMx f.fmtOut then
    (List.range ((xs.length + 31) / 32)).foldl (fun (acc : Cell) b =>
      let blk := (xs.drop (32 * b)).take 32
      let draws := (List.range 32).map (fun j => cx.draw f (pos + 32 * b + j))
      let (sc, es, fl) := mxBlock f.fmtOut f.arith draws blk
      let es' := es ++ List.replicate (32 - es.length) 0
      let at_ := a + disp + 32 * b * fmtBits f.fmtOut / 8
      ((acc.putScratch at_ (packElems f.fmtOut es')).putScratch (a + f.scaleOff * 64 + (pos + 32 * b) / 32)
        [BitVec.ofNat 8 sc]).flag fl) c
  else
    let rs := ((List.range xs.length).zip xs).map (fun ix => narrow f.fmtOut f.arith (cx.draw f (pos + ix.1)) ix.2)
    (c.putScratch (a + disp) (packElems f.fmtOut (rs.map Prod.fst))).flag (rs.foldl (fun acc r => acc ||| r.2) fNone)

/-- Convert an INT32 to an encoding of FMT_OUT (R81): to an integer format by saturation, else by way of FP32. -/
def narrowInt (fmt : Nat) (arith : BitVec 8) (draw : Nat) (w : W32) : Nat × Status16 :=
  if fmt = 12 then (w.toNat, fNone)
  else if fmt = 11 then
    let (r, fl) := valToInt 8 (.num (decide (w.toInt < 0)) w.toInt.natAbs 0)
    (r.toNat, fl)
  else
    let (x, f1) := intToF32 w
    let (r, f2) := narrow fmt arith draw x
    (r, f1 ||| f2)

/-- Write INT32 values to the output. -/
def Cell.putOutInt (c : Cell) (cx : FigCtx) (f : Fig) (disp : Nat) (xs : List W32) : Cell :=
  if fmtMx f.fmtOut then c.putOut cx f disp (xs.map (fun w => (intToF32 w).1))
  else
    let pos := elemsIn f.fmtOut disp
    let rs := ((List.range xs.length).zip xs).map (fun ix => narrowInt f.fmtOut f.arith (cx.draw f (pos + ix.1)) ix.2)
    (c.putScratch (cx.addr f.outAddr + disp) (packElems f.fmtOut (rs.map Prod.fst))).flag
      (rs.foldl (fun acc r => acc ||| r.2) fNone)

/-! What a figure reads and writes in scratch (R88, R128, R197). -/

/-- A byte range: address and length. -/
abbrev Range := Nat × Nat

/-- Bytes that n elements of a format take. -/
def elemBytes (fmt n : Nat) : Nat := (n * fmtBits fmt + 7) / 8

/-- Products per lane step of a format (R62). -/
def fmtD (f : Nat) : Nat :=
  if f = 7 ∨ f = 8 ∨ f = 9 then 4 else if f = 0 ∨ f = 1 ∨ f = 2 ∨ f = 12 then 1 else 2

/-- D of a figure: the slower of the two operand formats (R63, R109). -/
def Fig.d (f : Fig) : Nat := min (fmtD f.fmtA) (fmtD f.fmtB)

/-- Element places of a LANE vector of K elements for each of 128 lanes, D to a step, up to the last place used (R110). -/
def laneExtent (k d : Nat) : Nat := if k = 0 then 0 else (k - 1) / d * (128 * d) + 127 * d + (k - 1) % d + 1

/-- The element places an operand spans per repetition, by figure kind: for A, for B, for the output. -/
def Fig.counts (f : Fig) : Nat × Nat × Nat :=
  if f.kind = 1 then
    if f.mode = 1 then
      (laneExtent f.len f.d, (if f.bMode = 1 then f.param * f.len else (f.param - 1) * (128 * f.len) + laneExtent f.len f.d), 128 * f.param)
    else (f.len, f.param * f.len, f.param)
  else if f.kind = 2 then (128 * f.len, (if f.bMode = 1 then f.len else 128 * f.len), 128 * f.len)
  else if f.kind = 4 then (f.len, 0, f.len)
  else (0, 0, 0)

/-- The bytes of an operand's elements over its repetitions, and its scale bytes for an MX format: the first spans n element places of each
repetition, the second k scale bytes of the last. -/
def rangesWith (cx : FigCtx) (fmt addr stride reps n k off : Nat) : List Range :=
  if n = 0 ∨ reps = 0 then []
  else
    let a := cx.addr addr
    let last := (reps - 1) * stride
    (a, last + elemBytes fmt n) :: (if fmtMx fmt then [(a + off * 64, elemsIn fmt last / 32 + k)] else [])

/-- The range of an operand whose scales follow its elements, a byte for each 32 of them. -/
def operandRanges (cx : FigCtx) (fmt addr stride reps n off : Nat) : List Range :=
  rangesWith cx fmt addr stride reps n ((elemsIn fmt ((reps - 1) * stride) % 32 + n + 31) / 32) off

/-- The range of operand A: in LANE mode the scales of an MX operand are 128 to a block of 32 elements of the rows (R110). -/
def Fig.aRanges (f : Fig) (cx : FigCtx) : List Range :=
  if f.kind = 1 ∧ f.mode = 1 then rangesWith cx f.fmtA f.aAddr f.aStride f.reps f.counts.1 (128 * ((f.len + 31) / 32)) f.scaleOff
  else operandRanges cx f.fmtA f.aAddr f.aStride f.reps f.counts.1 f.scaleOff

/-- Operand A comes from a register (EWISE and CONVERT, MODE[1]). -/
def Fig.aFromReg (f : Fig) : Bool := (f.kind == 2 || f.kind == 4) && f.mode.testBit 1

/-- Operand B is read: always by DOT, by EWISE when a selector names it. -/
def Fig.usesB (f : Fig) : Bool := f.bMode != 2 && (f.kind == 1 || (f.kind == 2 && f.ops.any (fun o => o.2 == 1)))

/-- The scratch ranges a figure can read. -/
def Fig.reads (f : Fig) (cx : FigCtx) : List Range :=
  let nb := f.counts.2.1
  if f.kind = 5 then [(0, cx.scratchEnd)]
  else if f.kind = 6 then operandRanges cx 0 f.aAddr f.aStride f.reps 16 0 ++ [(cx.addr f.bAddr, 4 * f.reps)]
  else (if f.aFromReg then [] else f.aRanges cx) ++
    (if f.usesB then operandRanges cx f.fmtB f.bAddr f.bStride f.reps nb f.scaleOff else [])

/-- The figure writes scratch. -/
def Fig.stores (f : Fig) : Bool :=
  f.kind == 4 || f.kind == 5 || (f.kind == 1 && f.store) || (f.kind == 2 && f.store && !f.mode.testBit 0)

/-- The scratch ranges a figure writes. -/
def Fig.writes (f : Fig) (cx : FigCtx) : List Range :=
  if !f.stores then []
  else if f.kind = 5 then [(cx.addr f.outAddr, (f.reps - 1) * f.outStride + f.len)]
  else if f.kind = 1 ∧ f.mode ≠ 1 then operandRanges cx f.fmtOut f.outAddr 0 1 (f.reps * f.param) f.scaleOff
  else operandRanges cx f.fmtOut f.outAddr f.outStride f.reps f.counts.2.2 f.scaleOff

/-- Two ranges share a byte. -/
def rangesMeet (a b : Range) : Bool := decide (a.1 < b.1 + b.2) && decide (b.1 < a.1 + a.2)

/-- A range touches a slot whose pending bit is set (R88). -/
def Cell.pending (c : Cell) (r : Range) : Bool :=
  (List.range 1024).any (fun k => c.pend.getLsbD k && rangesMeet r (256 * k, 256))

end Sys2Proof.Machine
end

