-- ==== Sys2Proof/Machine/ReelImage.lean ====
section
/-! DEFINITION. The fields of a reel image (R104, R107, R118). -/

namespace Sys2Proof.Machine

/-- The header's fields that the device uses. -/
def imgFlags (b : List Byte) : Nat := fieldAt b 0x0C 4
def imgMinPeriod (b : List Byte) : Nat := fieldAt b 0x1C 1
def imgFigCount (b : List Byte) : Nat := fieldAt b 0x1D 1
def imgStreamCount (b : List Byte) : Nat := fieldAt b 0x1E 2
def imgCells (b : List Byte) : Nat := fieldAt b 0x20 2
def imgBlocks (b : List Byte) : Nat := fieldAt b 0x22 1
def imgRegions (b : List Byte) : Nat := fieldAt b 0x23 1
def imgArgCount (b : List Byte) : Nat := fieldAt b 0x24 1
def imgScratchEnd (b : List Byte) : Nat := fieldAt b 0x28 4
def imgRbufEnd (b : List Byte) : Nat := fieldAt b 0x2C 4
def imgFigOff (b : List Byte) : Nat := fieldAt b 0x30 4
def imgStreamOff (b : List Byte) : Nat := fieldAt b 0x34 4
def imgArgOff (b : List Byte) : Nat := fieldAt b 0x38 4
def imgInitOff (b : List Byte) : Nat := fieldAt b 0x3C 4
def imgInitBytes (b : List Byte) : Nat := fieldAt b 0x40 4
def imgInitScratch (b : List Byte) : Nat := fieldAt b 0x44 4
def imgSigner (b : List Byte) : Nat := fieldAt b 0x48 8
def imgSigOff (b : List Byte) : Nat := fieldAt b 0x50 4

/-- Logical cells of a run of the reel. -/
def imgAllCells (b : List Byte) : Nat := imgCells b * imgBlocks b * imgRegions b

/-- The bytes of figure i and of stream i, and their decoded forms. -/
def imgFigBytes (b : List Byte) (i : Nat) : List Byte := (b.drop (imgFigOff b + 64 * i)).take 64
def imgFig (b : List Byte) (i : Nat) : Fig := figOf (imgFigBytes b i)
def imgStreamBytes (b : List Byte) (i : Nat) : List Byte := (b.drop (imgStreamOff b + 64 * i)).take 64
def imgStream (b : List Byte) (i : Nat) : StreamD := streamOf (imgStreamBytes b i)
def imgFigs (b : List Byte) : List Fig := (List.range (imgFigCount b)).map (imgFig b)
def imgStreams (b : List Byte) : List StreamD := (List.range (imgStreamCount b)).map (imgStream b)

/-- The type of argument i: 0 SCALAR, 1 POOL, 2 HOST. -/
def imgArgType (b : List Byte) (i : Nat) : Nat := fieldAt b (imgArgOff b + i) 1

end Sys2Proof.Machine
end

