-- ==== Sys2Proof/Machine/RunOps.lean ====
section
/-! DEFINITION. Cells, runs and reels: access, the end of a run (R139, R140) and a reel's leaving the store (R133). -/

namespace Sys2Proof.Machine

def State.cell (s : State) (c : CellId) : Cell := mget Cell.reset s.fab.cells c.val

def State.setCell (s : State) (c : CellId) (x : Cell) : State :=
  { s with fab := { s.fab with cells := mset Cell.reset s.fab.cells c.val x } }

/-- Scratch, vector and scale registers set to zero (R90). -/
def Cell.zeroed (x : Cell) (t : Option Tenant) : Cell :=
  { x with scratch := [], regs := [], regFree := none, scales := [], scaleFree := none, lastTenant := t }

def State.rbuf (s : State) (r : RegionId) : RBuf := mget RBuf.reset s.fab.rbufs r.val

def State.setRbuf (s : State) (r : RegionId) (x : RBuf) : State :=
  { s with fab := { s.fab with rbufs := mset RBuf.reset s.fab.rbufs r.val x } }

def State.run (s : State) (n : Nat) : Option Run := tget s.fab.runs n

def State.setRun (s : State) (n : Nat) (r : Run) : State := { s with fab := { s.fab with runs := tput s.fab.runs n r } }

def State.reel (s : State) (h : Nat) : Option Reel := tget s.fab.reels h

/-- The image a run executes. -/
def State.runImage (s : State) (r : Run) : List Byte := ((s.reel r.reel).map (fun x => x.image)).getD []

/-- A copy of a run is outbound (R118 SCHED). -/
def State.copyOut (s : State) (r : Run) (c : CopyRec) : Bool := (imgStream (s.runImage r) c.stream).sched == 2

/-- Saturate a count to n bits. -/
def satTo (n x : Nat) : Nat := min x (2 ^ n - 1)

/-- The operation value of a run (R140, R435). -/
def runValue (r : Run) : W64 := BitVec.ofNat 64 (satTo 32 r.committed + satTo 16 r.overruns * 2 ^ 32 + satTo 16 r.stalls * 2 ^ 48)

/-- A reel that is being unloaded leaves the store when no run uses it, and those who wait are told (R133). -/
def State.settleReel (s : State) (h : Nat) : State :=
  match s.reel h with
  | none => s
  | some x =>
    if x.unloading && !(s.fab.runs.any (fun e => e.2.reel == h)) then
      let s1 := { s with fab := { s.fab with reels := tdel s.fab.reels h } }
      x.waiters.foldl (fun st w => match w with
        | .admin p _ _ => st.adminDone p stOk 0#64
        | .mgmt => st.reply 0x61#8 0 []) s1
    else s

/-- A cell that held a logical cell of a run is free. -/
def freeCell (n : Nat) (x : Cell) : Cell :=
  match x.occupant with
  | some (m, _) => if m = n then { x with occupant := none, tile := none } else x
  | none => x

/-- Blocks that a run holds: whole regions when it uses the region buffer (R124). -/
def State.runBlocks (s : State) (r : Run) : List BlockId :=
  let blocks := ((tvals r.lcs).map (fun l => blockOf l.cell)).eraseDups
  if (imgFlags (s.runImage r)).testBit 2 then (blocks.map regionOfBlock).eraseDups.flatMap (fun g => (List.finRange 8).map (blockIn g)) else blocks

/-- Blocks are given up: waiting runs may have them from the next boundary on (R138). -/
def State.freeBlocks (s : State) (bs : List BlockId) : State := { s with fab := { s.fab with freed := s.fab.freed ++ bs } }

/-- A run's operation ends: its cells are free, its completion is due (R140). -/
def State.endRun (s : State) (n : Nat) (r : Run) (st : Status) : State :=
  let cells : SMap Cell := (tmap s.fab.cells (fun _ x => freeCell n x)).filter (fun e => decide (e.2 ≠ Cell.reset))
  let s0 := s.freeBlocks (s.runBlocks r)
  let s1 := { s0 with fab := { s0.fab with runs := tdel s0.fab.runs n, cells := cells } }
  (s1.completeOp n st (runValue r) 0#16).settleReel r.reel

/-- Steps that have committed: every cell's tile has finished and every outbound copy of the step has committed (R139). -/
def State.committedOf (s : State) (r : Run) : Nat :=
  let steps := (tvals r.lcs).map (fun l => l.step) ++ ((tvals r.copies).filter (fun c => s.copyOut r c)).map (fun c => c.step)
  max r.committed (steps.foldl min r.steps)

/-- A run ends when its last step has committed, or, when it is to end early, when its running tiles have finished and their outbound
copies have committed (R139). -/
def State.settleRun (s : State) (n : Nat) : State :=
  match s.run n, s.op n with
  | some r0, some o =>
    let r := if r0.bound then { r0 with committed := s.committedOf r0 } else r0
    let s := s.setRun n r
    let idle := r.lcs.all (fun e => !e.2.running) && !(r.copies.any (fun e => s.copyOut r e.2))
    match o.ending with
    | some st => if idle then s.endRun n r st else s
    | none => if r.bound && r.committed == r.steps then s.endRun n r stOk else s
  | _, _ => s

/-- A write of an operation outside the node is not acknowledged, or has still to be sent. -/
def State.opOpen (s : State) (n : Nat) : Bool :=
  s.rtr.reqs.any (fun e => e.2.owner == .op n) || (s.op n).any (fun o => !o.todo.isEmpty)

/-- An operation whose effects are done completes when the last of its writes outside the node is acknowledged (R149, R449). -/
def State.settleOp (s : State) (n : Nat) : State :=
  match s.op n with
  | none => s
  | some o => match o.due with
    | none => s
    | some (st, v) =>
      if s.opOpen n then s
      else (s.freeBlocks o.block.toList).completeOp n (if st = stOk then o.ending.getD stOk else st) v 0#16

/-- An operation's effects are done: what it completes with is settled, and its writes outside the node are awaited. -/
def State.finishOp (s : State) (n : Nat) (st : Status) (v : W64) : State :=
  (s.modOp n (fun o => { o with due := some (o.due.getD (st, v)) })).settleOp n

/-- A built-in operation ends early: a COMPARE and a GATHER_BAG then have a value that no rule gives. -/
def State.stopOp (s : State) (n : Nat) (opc : BitVec 8) (st : Status) : State :=
  if opc = 0x03#8 ∨ opc = 0x22#8 then
    let (k, s1) := s.draw
    s1.finishOp n st (Config.earlyValue k)
  else s.finishOp n st 0#64

/-- The opcodes of the built-in operations whose effects come all at once. -/
def wholeOpcodes : List (BitVec 8) := [0x01#8, 0x02#8, 0x03#8, 0x10#8, 0x12#8, 0x13#8, 0x20#8, 0x21#8, 0x22#8]

/-- A built-in operation that is to end before its effects have come ends at once. -/
def State.settlePool (s : State) (n : Nat) : State :=
  match s.op n with
  | none => s
  | some o => match o.ending with
    | some st => if wholeOpcodes.contains o.opcode && o.due.isNone && (tget s.fab.sends n).isNone then s.stopOp n o.opcode st else s
    | none => s

/-- An operation starts no new work and will end with a status, unless it already has one (R139, R446); a run settles at once. -/
def State.endOp (s : State) (n : Nat) (st : Status) : State :=
  (((s.modOp n (fun o => { o with ending := some (o.ending.getD st), todo := [] })).settleRun n).settlePool n).settleOp n

/-- A copy of a run is over without completing: the run ends (R139). One that a remap has dropped (R54) ends nothing. -/
def State.failCopy (s : State) (n k : Nat) (st : Status) : State :=
  match s.run n with
  | none => s
  | some r => if (tget r.copies k).isSome then (s.setRun n { r with copies := tdel r.copies k }).endOp n st else s

end Sys2Proof.Machine
end

