-- ==== Sys2Proof/Machine/Contain.lean ====
section
/-! DEFINITION. Containment (R52 to R57): fencing a cell, taking a block or a region offline, and what that does to tiles, checks,
verdicts and atomic runs (R96, R202 to R210). -/

namespace Sys2Proof.Machine

/-! Checks. -/

/-- A result-checking report on a tile (R220): the tile index, and the low 64 bits of the origin's signature. -/
def State.checkReport (s : State) (code severity : Nat) (k : Check) (unit unit2 : BitVec 16) : State :=
  s.raise (s.reportOp k.op { mkReport 0x01 code severity unit 0 0 with
    unit2 := unit2, detail0 := k.tile.setWidth 64, detail1 := ((k.sigOrigin.getD 0#128).extractLsb' 0 64) })

/-- Blocks that have left the check blocks and hold no check any more are free for runs; a boundary looks (R194). -/
def State.fixLeaving (s : State) : State :=
  { s with ras := { s.ras with leaving := s.ras.leaving.filter (fun b =>
      s.ras.checks.any (fun e => blockOf e.2.checkCell == b || (e.2.third.map blockOf) == some b)) } }

/-- The check blocks a setting reserves (R192). -/
def checkCount (v : BitVec 3) : Nat :=
  match v.toNat with
  | 1 => 2
  | 2 => 5
  | 3 => 16
  | 4 => 32
  | _ => 0

/-- SHORT: fewer check blocks are online than the setting needs (R195). -/
def State.fixShort (s : State) : State :=
  { s with ras := { s.ras with short := decide ((s.ras.checkBlocks.filter s.blockOnline).length < checkCount s.ras.active) } }

/-- A check is over: its tile forgets it, and its cells release the footprint (R204). -/
def State.dropCheck (s : State) (k : Nat) : State :=
  match tget s.ras.checks k with
  | none => s
  | some c =>
    let x := s.cell c.origin
    let s1 := s.setCell c.origin { x with tile := x.tile.map (fun t => if t.check = some k then { t with check := none } else t) }
    { s1 with ras := { s1.ras with checks := tdel s1.ras.checks k } }

/-- A check is lost with a cell that held its footprint: its tile counts as not selected (R204). -/
def State.loseCheck (s : State) (k : Nat) (c : Check) (gone : CellId) : State :=
  ((s.dropCheck k).tally (ctrRas 3)).checkReport 6 0 c (unitCell c.origin) (unitCell gone)

/-- What a fenced or offline cell does to the checks (R204): those whose footprint it holds are lost, and where it is the origin it counts
as the minority. -/
def State.checksOf (s : State) (c : CellId) : State :=
  s.ras.checks.foldl (fun st e =>
    if e.2.checkCell = c ∨ e.2.third = some c then st.loseCheck e.1 e.2 c
    else if e.2.origin = c then
      { st with ras := { st.ras with checks := tmod st.ras.checks e.1 (fun k => { k with originOut := true }) } }
    else st) s

/-- The cause does not put finished tiles in doubt (R210). -/
def causeExcluded (f : FaultCause) : Bool := f == .scratchEcc || f == .regParity || f == .rbufEcc

/-- Operations with a tile that a cell finished within the last 8 ticks get the cause UNIT_FAULT (R210). -/
def State.markFault (s : State) (c : CellId) (f : FaultCause) : State :=
  if causeExcluded f then s
  else s.ras.marks.foldl (fun st m => if m.cell = c ∧ m.age ≤ 8 then st.setCause m.op .unitFault else st) s

/-- A cell's tile in flight is dropped, to be replayed whole (R54). One that has sent atomic requests sends them again, and its operation
is retracted (R207; DEDUCED for the other faults: log entry 63). -/
def State.dropTile (s : State) (c : CellId) : State :=
  let x := s.cell c
  match x.tile with
  | none => s
  | some t =>
    let s1 := s.setCell c { x with tile := none }
    let s2 := match s1.run t.run with
      | some r => s1.setRun t.run { r with lcs := tmod r.lcs t.lc (fun l => { l with running := false, armed := false }) }
      | none => s1
    if t.sent then s2.setCause t.run .replayAtomic else s2

/-- Requests of a cell leave the atomic units. -/
def State.dropAtoms (s : State) (c : CellId) : State :=
  let units : SMap (List AtomEntry) := (tmap s.fab.units (fun _ l => l.filter (fun e => e.sender != .cell c))).filter (fun e => !e.2.isEmpty)
  { s with fab := { s.fab with units := units } }

/-- Everything a cell out of service gives up. -/
def State.cellGone (s : State) (c : CellId) (f : FaultCause) : State :=
  (((s.markFault c f).checksOf c).dropTile c).dropAtoms c

/-! Health. -/

def State.setHealth (s : State) (b : BlockId) (h : BlkHealth) : State :=
  { s with health := mset BlkHealth.ok s.health b.val h }

/-- A containment report (R220 source 0x02). -/
def State.contained (s : State) (code severity : Nat) (unit : BitVec 16) : State := s.raise (mkReport 0x02 code severity unit 0 0)

/-- Take a region offline: its region buffer's contents are lost; fewer than two regions online make the node fatal. -/
def State.regionDown (s : State) (r : RegionId) (f : FaultCause) : State :=
  if !s.regionOnline r then s
  else
    let blocks := (List.finRange 8).map (blockIn r)
    let s1 := blocks.foldl (fun st b => st.setHealth b { st.blk b with regionOffline := true, causeLevel := 2#2 }) s
    let s2 := s1.contained 3 1 (unitRegion r)
    let cells := blocks.flatMap (fun b => (List.finRange 16).map (cellIn b))
    let s3 := cells.foldl (fun st c => st.cellGone c f) s2
    let s4 := ({ s3 with
      fab := { s3.fab with rbufs := tdel s3.fab.rbufs r.val,
                           units := s3.fab.units.filter (fun e => !(decide (8 * r.val ≤ e.1) && decide (e.1 < 8 * r.val + 8))) },
      arb := { s3.arb with rings := tdel s3.arb.rings (1 + r.val) },
      xlt := { s3.xlt with blockTlb := s3.xlt.blockTlb.filter (fun e => !(decide (8 * r.val ≤ e.1) && decide (e.1 < 8 * r.val + 8))) },
      remap := s3.remap ++ [.region r] } : State).fixShort
    if s4.regionsOnline < 2 then s4.nodeFatal unitChip else s4

/-- Take a block offline: its atomic unit returns its run (R96); the third block of a region takes the region along. -/
def State.blockDown (s : State) (b : BlockId) (f : FaultCause) : State :=
  if !s.blockOnline b then s
  else
    let s1 := (s.setHealth b { s.blk b with blockOffline := true, causeLevel := 1#2 }).contained 2 1 (unitBlock b)
    let s2 := ((List.finRange 16).map (cellIn b)).foldl (fun st c => st.cellGone c f) s1
    let s3 := ({ s2 with
      fab := { s2.fab with units := tdel s2.fab.units b.val },
      xlt := { s2.xlt with blockTlb := tdel s2.xlt.blockTlb b.val },
      remap := s2.remap ++ [.block b] } : State).fixShort
    if 3 ≤ s3.offlineBlocks (regionOfBlock b) then s3.regionDown (regionOfBlock b) f else s3

/-- A block left service in this tick, alone or with its region: its work has not been moved yet. -/
def State.leftNow (s : State) (b : BlockId) : Bool := s.remap.contains (.block b) || s.remap.contains (.region (regionOfBlock b))

/-- Separate fences of this tick in a block that now goes offline itself are no fences: the higher level's action is taken alone (R55). -/
def State.undoFences (s : State) (b : BlockId) : State :=
  let mine (u : Remap) : Bool := match u with
    | .cell c => blockOf c == b
    | _ => false
  let bits := s.remap.foldl (fun (m : BitVec 16) u => match u with
    | .cell c => if blockOf c = b then m ||| (1#16 <<< (c.val % 16)) else m
    | _ => m) 0#16
  { s.setHealth b { s.blk b with fenced := (s.blk b).fenced &&& ~~~bits } with remap := s.remap.filter (fun u => !mine u) }

/-- The same for the blocks and cells of a region that now goes offline itself. -/
def State.undoBlocks (s : State) (r : RegionId) : State :=
  let s1 := ((List.finRange 8).map (blockIn r)).foldl (fun st b =>
    let st1 := st.undoFences b
    if st1.remap.contains (.block b) then st1.setHealth b { st1.blk b with blockOffline := false } else st1) s
  { s1 with remap := s1.remap.filter (fun u => match u with
      | .block b => regionOfBlock b != r
      | _ => true) }

/-- A fault at a block's level. One in a block that left service with its region in this tick is reported, and that is all (R55). -/
def State.blockFault (s : State) (b : BlockId) (f : FaultCause) : State :=
  if s.blockOnline b then (s.undoFences b).blockDown b f
  else if !(s.blk b).blockOffline && s.remap.contains (.region (regionOfBlock b)) then s.contained 2 1 (unitBlock b)
  else s

/-- A fault at a region's level. -/
def State.regionFault (s : State) (r : RegionId) (f : FaultCause) : State :=
  if s.regionOnline r then (s.undoBlocks r).regionDown r f else s

/-- Fence a cell: the fourth of a block takes the block offline. A cell fault in a block that left service in this tick is reported, and that
is all (R55). -/
def State.fenceCell (s : State) (c : CellId) (f : FaultCause) : State :=
  if !s.cellOnline c then
    if !(s.blk (blockOf c)).fenced.getLsbD (c.val % 16) && s.leftNow (blockOf c) then s.contained 1 1 (unitCell c) else s
  else
    let b := blockOf c
    let h := s.blk b
    let s1 := (s.setHealth b { h with fenced := h.fenced ||| (1#16 <<< (c.val % 16)), causeLevel := 0#2 }).contained 1 1 (unitCell c)
    let s2 := s1.cellGone c f
    let s3 : State := { s2 with remap := s2.remap ++ [.cell c] }
    if 4 ≤ s3.fencedCount b then s3.blockDown b f else s3

/-! Rows. -/

/-- CELL_FENCE. -/
def execCellFence (c : CellId) (cause : FaultCause) (s : State) : Host.Outcome State Fault Refusal :=
  .next (s.quiet.whenLive (fun t => t.fenceCell c cause))

/-- BLOCK_OFFLINE. -/
def execBlockOffline (b : BlockId) (cause : FaultCause) (s : State) : Host.Outcome State Fault Refusal :=
  .next (s.quiet.whenLive (fun t => t.blockFault b cause))

/-- REGION_OFFLINE. -/
def execRegionOffline (r : RegionId) (cause : FaultCause) (s : State) : Host.Outcome State Fault Refusal :=
  .next (s.quiet.whenLive (fun t => t.regionFault r cause))

end Sys2Proof.Machine
end

