-- ==== Sys2Proof/Machine/FigOps.lean ====
section
/-! DEFINITION. What each figure kind does to a cell (R109 to R116). -/

namespace Sys2Proof.Machine

/-- The figure works in INT32 (R80, R112). -/
def Fig.int (f : Fig) : Bool := fmtInt f.fmtA && (f.kind != 1 || fmtInt f.fmtB)

/-- The figure accumulates in compensated pairs (R75); it does not apply to integers. -/
def Fig.comp (f : Fig) : Bool := arithComp f.arith && !f.int

/-- Accumulator j: its register, and its correction's register in compensated mode (R113). -/
def Fig.accReg (f : Fig) (j : Nat) : Nat := if f.comp then f.acc + 2 * j else f.acc + j

def Cell.acc (c : Cell) (f : Fig) (j lane : Nat) : W32 × W32 :=
  (c.reg (f.accReg j) lane, if f.comp then c.reg (f.accReg j + 1) lane else 0#32)

def Cell.setAcc (c : Cell) (f : Fig) (j lane : Nat) (v : W32 × W32) : Cell :=
  let c1 := c.setReg (f.accReg j) lane v.1
  if f.comp then c1.setReg (f.accReg j + 1) lane v.2 else c1

/-- Zero accumulators 0 to n − 1 (FLAGS.ACC_CLEAR). -/
def Cell.clearAccs (c : Cell) (f : Fig) (n : Nat) : Cell :=
  (List.range n).foldl (fun a j => (List.range 128).foldl (fun b i => b.setAcc f j i (0#32, 0#32)) a) c

/-! DOT (R62, R63, R110, R111). -/

/-- The term that a product is: exact (R62), but that a product of narrower elements with an MX scale beyond FP32's range is an infinity or a
zero (R77). -/
def prodTerm (f : Fig) (v : Val) : Val × Status16 :=
  if f.fmtA != 0 && f.fmtB != 0 && (fmtMx f.fmtA || fmtMx f.fmtB) then termOf v else (v, fNone)

/-- One lane step (R62): the exact sum of the products and the accumulator, rounded once; in compensated mode each product is a term
of its own (R75), rounded to FP32 where it is not exact there; integers saturate or wrap (R80). -/
def laneStep (f : Fig) (acc : W32 × W32) (ps : List (Val × Val)) : (W32 × W32) × Status16 :=
  if f.int then
    let t := ps.foldl (fun a p => a + p.1.over 0 * p.2.over 0) acc.1.toInt
    let (r, fl) := intFix (arithWrap f.arith) t
    ((r, 0#32), fl)
  else
    let terms := ps.map (fun p => prodTerm f (p.1.mul p.2))
    let fl := terms.foldl (fun a t => a ||| t.2) fNone
    let invalid := flagIf (ps.any (fun p => (p.1.mul p.2).isNan && !p.1.isNan && !p.2.isNan)) fInvalid
    if f.comp then
      terms.foldl (fun (st : (W32 × W32) × Status16) t =>
        let (x, f1) := f32Round t.1
        let (sc, f2) := compAdd st.1 x
        (sc, st.2 ||| f1 ||| f2)) (acc, fl ||| invalid)
    else
      let (r, f1) := f32Result (f32Val acc.1 :: ps.flatMap (fun p => [p.1, p.2])) (sumVals (f32Val acc.1 :: terms.map Prod.fst))
      ((r, 0#32), fl ||| f1)

/-- Operand A of element k for lane i in repetition r. In LANE mode the lanes' elements are interleaved and so are their scales
(R110). -/
def Cell.dotA (c : Cell) (cx : FigCtx) (f : Fig) (r k i : Nat) : Val × Status16 :=
  let a := cx.addr f.aAddr
  let disp := r * f.aStride
  if f.mode = 1 then
    let pos := k / f.d * (128 * f.d) + i * f.d + k % f.d
    let sc := if fmtMx f.fmtA then
        (c.byte (a + f.scaleOff * 64 + elemsIn f.fmtA disp / 32 + k / 32 * 128 + i)).toNat else 0
    elemVal f.fmtA (c.elem f.fmtA (a + disp) pos) sc
  else c.operand f.fmtA a f.scaleOff disp k

/-- Operand B of element k of B vector n for lane i in repetition r. -/
def Cell.dotB (c : Cell) (cx : FigCtx) (f : Fig) (r n k i : Nat) : Val × Status16 :=
  if f.bMode = 2 then (f32Val (Config.noOperand r i), fNone)
  else
    let pos :=
      if f.mode = 1 then
        if f.bMode = 1 then n * f.len + k else n * (128 * f.len) + (k / f.d * (128 * f.d) + i * f.d + k % f.d)
      else if f.bMode = 1 then n * f.len + (k / (128 * f.d) * f.d + k % f.d)
      else n * f.len + k
    c.operand f.fmtB (cx.addr f.bAddr) f.scaleOff (r * f.bStride) pos

/-- Run a lane over lists of element numbers, one list per step. -/
def Cell.laneRun (c : Cell) (cx : FigCtx) (f : Fig) (r n i : Nat) (acc : W32 × W32) (steps : List (List Nat)) :
    (W32 × W32) × Status16 :=
  steps.foldl (fun st ks =>
    let ps := ks.map (fun k => (c.dotA cx f r k i, c.dotB cx f r n k i))
    let fl := ps.foldl (fun a p => a ||| p.1.2 ||| p.2.2) fNone
    if ks.isEmpty then st
    else
      let (v, f1) := laneStep f st.1 (ps.map (fun p => (p.1.1, p.2.1)))
      (v, st.2 ||| fl ||| f1)) (acc, fNone)

/-- The element numbers of each step of a lane (R110, R111): LANE mode takes the row's elements D at a time, ROW mode every 128·D. -/
def Fig.laneSteps (f : Fig) (i : Nat) : List (List Nat) :=
  if f.mode = 1 then
    (List.range ((f.len + f.d - 1) / f.d)).map (fun t => ((List.range f.d).map (fun j => t * f.d + j)).filter (· < f.len))
  else
    (List.range ((f.len + 128 * f.d - 1) / (128 * f.d))).map (fun q =>
      ((List.range f.d).map (fun j => q * (128 * f.d) + i * f.d + j)).filter (· < f.len))

/-- Combine adjacent pairs of a list, and again until one is left (R84). -/
def pairTree {α : Type} (op : α → α → α × Status16) : Nat → List α → Status16 → List α × Status16
  | 0, xs, fl => (xs, fl)
  | n + 1, xs, fl =>
    let rec level : List α → List α × Status16
      | a :: b :: rest =>
        let (c, f1) := op a b
        let (cs, f2) := level rest
        (c :: cs, f1 ||| f2)
      | other => (other, fNone)
    let (ys, f1) := level xs
    pairTree op n ys (fl ||| f1)

/-- The cross-lane sum of 128 lanes (R84, R114). -/
def treeSum (int comp wrap : Bool) (xs : List (W32 × W32)) : W32 × Status16 :=
  if int then
    let (r, fl) := pairTree (fun (a b : W32) => intFix wrap (a.toInt + b.toInt)) 7 (xs.map Prod.fst) fNone
    (r.headD 0#32, fl)
  else if comp then
    let (r, fl) := pairTree compCombine 7 xs fNone
    let (x, f1) := compFinal (r.headD (0#32, 0#32))
    (x, fl ||| f1)
  else
    let (r, fl) := pairTree f32Add 7 (xs.map Prod.fst) fNone
    (r.headD 0#32, fl)

/-- A DOT figure in LANE mode (R110). -/
def figDotLane (cx : FigCtx) (f : Fig) (c : Cell) : Cell :=
  let c0 := if f.accClear then c.clearAccs f (f.reps * f.param) else c
  let c1 := (List.range f.reps).foldl (fun a r => (List.range f.param).foldl (fun b n =>
    (List.range 128).foldl (fun d i =>
      let (v, fl) := c0.laneRun cx f r n i (d.acc f (r * f.param + n) i) (f.laneSteps i)
      (d.setAcc f (r * f.param + n) i v).flag fl) b) a) c0
  if !f.store then c1
  else (List.range f.reps).foldl (fun a r => (List.range f.param).foldl (fun b n =>
    let outs := (List.range 128).map (fun i =>
      let v := c1.acc f (r * f.param + n) i
      if f.comp then compFinal v else (v.1, fNone))
    let d := b.flag (outs.foldl (fun fl x => fl ||| x.2) fNone)
    let disp := r * f.outStride + n * elemBytes f.fmtOut 128
    if f.int then d.putOutInt cx f disp (outs.map Prod.fst) else d.putOut cx f disp (outs.map Prod.fst)) a) c1

/-- The register of result row r against B vector n in ROW mode: after the working registers, which are pairs in compensated mode. -/
def Fig.rowReg (f : Fig) (r n : Nat) : Nat :=
  f.acc + (if f.comp then 2 * f.param else f.param) + n * ((f.reps + 127) / 128) + r / 128

/-- A DOT figure in ROW mode (R111). -/
def figDotRow (cx : FigCtx) (f : Fig) (c : Cell) : Cell :=
  let c0 := if f.accClear then c.clearAccs f f.param else c
  let c1 := (List.range f.reps).foldl (fun a r => (List.range f.param).foldl (fun b n =>
    let b1 := (List.range 128).foldl (fun d i =>
      let start := if r = 0 then d.acc f n i else (0#32, 0#32)
      let (v, fl) := c0.laneRun cx f r n i start (f.laneSteps i)
      (d.setAcc f n i v).flag fl) b
    let (x, fl) := treeSum f.int f.comp (arithWrap f.arith) ((List.range 128).map (fun i => b1.acc f n i))
    (b1.setReg (f.rowReg r n) (r % 128) x).flag fl) a) c0
  if !f.store then c1
  else
    let outs := (List.range f.reps).flatMap (fun r => (List.range f.param).map (fun n => c1.reg (f.rowReg r n) (r % 128)))
    if f.int then c1.putOutInt cx f 0 outs else c1.putOut cx f 0 outs

def figDot (cx : FigCtx) (f : Fig) (c : Cell) : Cell := if f.mode = 1 then figDotLane cx f c else figDotRow cx f c

/-! EWISE (R112). -/

/-- The operand a selector names, for vector v, lane i, repetition r. -/
def Cell.ewOperand (c : Cell) (cx : FigCtx) (f : Fig) (sel r v i : Nat) : W32 × Status16 :=
  let k := v * 128 + i
  if sel = 0 then
    if f.aFromReg then (c.reg f.param i, fNone)
    else if f.int then (c.operandInt f.fmtA (cx.addr f.aAddr) (r * f.aStride) k, fNone)
    else c.operandF32 f.fmtA (cx.addr f.aAddr) f.scaleOff (r * f.aStride) k
  else if sel = 1 then
    if f.bMode = 2 then (Config.noOperand r i, fNone)
    else
      let kb := if f.bMode = 1 then v else k
      if f.int then (c.operandInt f.fmtB (cx.addr f.bAddr) (r * f.bStride) kb, fNone)
      else c.operandF32 f.fmtB (cx.addr f.bAddr) f.scaleOff (r * f.bStride) kb
  else if sel = 2 then (f.const0, fNone)
  else if sel = 3 then (f.const1, fNone)
  else if sel = 4 then (c.reg f.param (r % 128), fNone)
  else (0#32, fNone)

/-- One chain operation in FP32 on w, operand x and the accumulator a. -/
def ewFloat (op : Nat) (w x a : W32) : W32 × Status16 :=
  match op with
  | 1 => f32Add w x
  | 2 => f32Sub w x
  | 3 => f32Mul w x
  | 4 => f32Fma w x a
  | 5 => f32MinMax false w x
  | 6 => f32MinMax true w x
  | 7 => (f32Abs w, flagIf (f32Val w).isNan fNanIn)
  | 8 => (f32Neg w, flagIf (f32Val w).isNan fNanIn)
  | 9 => transOp .exp2 w
  | 10 => transOp .log2 w
  | 11 => transOp .rcp w
  | 12 => transOp .rsqrt w
  | 13 =>
    let nan := (f32Val w).isNan || (f32Val x).isNan
    if nan then (0x7FC00000#32, fNanIn)
    else (if (f32Val w).lt (f32Val x) then 0x3F800000#32 else 0#32, fNone)
  | _ => (w, fNone)

/-- One chain operation in INT32 (R80, R112). -/
def ewInt (wrap : Bool) (op : Nat) (w x a : W32) : W32 × Status16 :=
  match op with
  | 1 => intFix wrap (w.toInt + x.toInt)
  | 2 => intFix wrap (w.toInt - x.toInt)
  | 3 => intFix wrap (w.toInt * x.toInt)
  | 4 => intFix wrap (w.toInt * x.toInt + a.toInt)
  | 5 => (if w.toInt ≤ x.toInt then w else x, fNone)
  | 6 => (if w.toInt ≤ x.toInt then x else w, fNone)
  | 7 => intFix wrap w.toInt.natAbs
  | 8 => intFix wrap (-w.toInt)
  | 13 => (if w.toInt < x.toInt then 1#32 else 0#32, fNone)
  | _ => (w, fNone)

/-- Absolute value, negation and the transcendental functions take no operand. -/
def ewUnary (op : Nat) : Bool := op == 7 || op == 8 || op == 9 || op == 10 || op == 11 || op == 12

/-- One of operations 0x01 to 0x0D on the working value of lane i of vector v in repetition r: the new value and the cell with its events; a
multiply-add into a compensated accumulator keeps its correction in the accumulator's second register. -/
def Cell.ewStep (c0 : Cell) (cx : FigCtx) (f : Fig) (o : Nat × Nat) (r v i : Nat) (w : W32) (c : Cell) : W32 × Cell :=
  let (x, f1) := if ewUnary o.1 then (0#32, fNone) else c0.ewOperand cx f o.2 r v i
  if f.comp && o.1 == 4 && f.mode.testBit 0 then
    let (p, f2) := f32Mul w x
    let (sc, f3) := compAdd (c.acc f r i) p
    (sc.1, (c.setAcc f r i sc).flag (f1 ||| f2 ||| f3))
  else
    let a := (c.acc f r i).1
    let (y, f2) := if f.int then ewInt (arithWrap f.arith) o.1 w x a else ewFloat o.1 w x a
    (y, c.flag (f1 ||| f2))

/-- Operation 0x0E on one working value: rounded to a non-MX format under ARITH as on the way to an output (R64, R70), and widened. An INT32
working value goes by way of FP32 and comes back to INT32 (R81; DESIGN CHOICE: log entry 131). -/
def ewRound (f : Fig) (fmt draw : Nat) (w : W32) : W32 × Status16 :=
  if f.int then
    let (c, f1) := narrowInt fmt f.arith draw w
    if fmtInt fmt then (BitVec.ofInt 32 (signedOf (fmtBits fmt) c), f1)
    else
      let (y, f2) := valToInt 32 (elemVal fmt c 0).1
      (y, f1 ||| f2)
  else
    let (c, f1) := narrow fmt f.arith draw w
    ((widenElem fmt c).1, f1)

/-- Operation 0x0E to an MX format: each 32 lanes of a vector are a block with a scale of its own (DESIGN CHOICE: log entry 131). -/
def ewRoundMx (f : Fig) (fmt : Nat) (draws : List Nat) (ws : List W32) : List W32 × Status16 :=
  (List.range ((ws.length + 31) / 32)).foldl (fun (st : List W32 × Status16) b =>
    let blk := (ws.drop (32 * b)).take 32
    let (sc, es, fl) := mxBlock fmt f.arith ((draws.drop (32 * b)).take 32) (if f.int then blk.map (fun w => (intToF32 w).1) else blk)
    let back := es.map (fun e =>
      let v := (elemVal fmt e sc).1
      if f.int then (valToInt 32 v).1 else (f32Round (termOf v).1).1)
    (st.1 ++ back, st.2 ||| fl)) ([], fNone)

/-- One operation of the chain on the 128 working values of vector v in repetition r. The draws of operation 0x0E are those of the output
elements that the values are on the way to (DESIGN CHOICE: log entry 131). -/
def Cell.ewOp (c0 : Cell) (cx : FigCtx) (f : Fig) (r v : Nat) (o : Nat × Nat) (st : List W32 × Cell) : List W32 × Cell :=
  if o.1 = 14 then
    let pos := elemsIn f.fmtOut (r * f.outStride) + v * 128
    let fmt := o.2 % 16
    if fmtMx fmt then
      let (ws, fl) := ewRoundMx f fmt ((List.range 128).map (fun i => cx.draw f (pos + i))) st.1
      (ws, st.2.flag fl)
    else
      let rs := ((List.range 128).zip st.1).map (fun iw => ewRound f fmt (cx.draw f (pos + iw.1)) iw.2)
      (rs.map Prod.fst, st.2.flag (rs.foldl (fun a x => a ||| x.2) fNone))
  else
    ((List.range 128).zip st.1).foldl (fun (acc : List W32 × Cell) iw =>
      let (w, d) := c0.ewStep cx f o r v iw.1 iw.2 acc.2
      (acc.1 ++ [w], d)) ([], st.2)

/-- Run the chain on vector v in repetition r: the working values and the cell with its events. -/
def Cell.ewVector (c : Cell) (cx : FigCtx) (f : Fig) (r v : Nat) : List W32 × Cell :=
  let ins := (List.range 128).map (fun i => c.ewOperand cx f 0 r v i)
  f.ops.foldl (fun st o => c.ewOp cx f r v o st) (ins.map Prod.fst, c.flag (ins.foldl (fun a x => a ||| x.2) fNone))

/-- The figure uses accumulators: it writes them (MODE[0]) or multiplies into one (opcode 0x04). -/
def Fig.ewAccs (f : Fig) : Bool := f.mode.testBit 0 || f.ops.any (fun o => o.1 == 4)

/-- An EWISE figure. -/
def figEwise (cx : FigCtx) (f : Fig) (c : Cell) : Cell :=
  let c0 := if f.accClear && f.ewAccs then c.clearAccs f f.reps else c
  (List.range f.reps).foldl (fun a r => (List.range f.len).foldl (fun b v =>
    let (ws, b1) := b.ewVector cx f r v
    if f.mode.testBit 0 then
      ((List.range 128).zip ws).foldl (fun d iw => d.setReg (f.accReg r) iw.1 iw.2) b1
    else if f.store then
      let disp := r * f.outStride + v * elemBytes f.fmtOut 128
      if f.int then b1.putOutInt cx f disp ws else b1.putOut cx f disp ws
    else b1) a) c0

/-! LREDUCE (R114). -/

/-- Reduce one register across its lanes. -/
def Cell.reduceReg (c : Cell) (f : Fig) (j : Nat) : W32 × Status16 :=
  let xs := (List.range 128).map (fun i => c.acc f j i)
  let op := f.param % 4
  if op = 0 then treeSum f.int f.comp (arithWrap f.arith) xs
  else if f.int then
    let (r, fl) := pairTree (fun (a b : W32) =>
      (if (decide (a.toInt ≤ b.toInt)) == (op == 1) then b else a, fNone)) 7 (xs.map Prod.fst) fNone
    (r.headD 0#32, fl)
  else
    let ys := xs.map (fun x => if f.comp then compFinal x else (x.1, fNone))
    let (r, fl) := pairTree (f32MinMax (op == 1)) 7 (ys.map Prod.fst) (ys.foldl (fun a y => a ||| y.2) fNone)
    (r.headD 0#32, fl)

/-- An LREDUCE figure: every reduction reads its source before any result is written. -/
def figLreduce (_cx : FigCtx) (f : Fig) (c : Cell) : Cell :=
  let c0 := if f.accClear then c.clearAccs f f.reps else c
  let rs := (List.range f.reps).map (fun j => c0.reduceReg f j)
  ((List.range f.reps).zip rs).foldl (fun a jr => (a.setReg (f.outAddr % 32) jr.1 jr.2.1).flag jr.2.2) c0

/-! CONVERT (R109). -/

/-- Element k of a CONVERT's operand in repetition r. -/
def Cell.convIn (c : Cell) (cx : FigCtx) (f : Fig) (r k : Nat) : W32 × Status16 :=
  if f.aFromReg then (c.reg (f.param + k / 128) (k % 128), fNone)
  else if fmtInt f.fmtA then (c.operandInt f.fmtA (cx.addr f.aAddr) (r * f.aStride) k, fNone)
  else c.operandF32 f.fmtA (cx.addr f.aAddr) f.scaleOff (r * f.aStride) k

/-- A CONVERT figure. -/
def figConvert (cx : FigCtx) (f : Fig) (c : Cell) : Cell :=
  (List.range f.reps).foldl (fun a r =>
    let xs := (List.range f.len).map (fun k => a.convIn cx f r k)
    let b := a.flag (xs.foldl (fun acc x => acc ||| x.2) fNone)
    if fmtInt f.fmtA then b.putOutInt cx f (r * f.outStride) (xs.map Prod.fst)
    else b.putOut cx f (r * f.outStride) (xs.map Prod.fst)) c

/-! GATHER and ATOMIC (R116). -/

/-- Index r of the INT32 list at B_ADDR. -/
def Cell.indexAt (c : Cell) (cx : FigCtx) (f : Fig) (r : Nat) : Int := signedOf 32 (leNat (c.bytesAt (cx.addr f.bAddr + 4 * r) 4))

/-- A GATHER figure. -/
def figGather (cx : FigCtx) (f : Fig) (c : Cell) : Cell :=
  (List.range f.reps).foldl (fun a r =>
    let src : Int := cx.addr f.aAddr + a.indexAt cx f r * f.aStride
    let dst := cx.addr f.outAddr + r * f.outStride
    if src < 0 ∨ (cx.scratchEnd : Int) < src + f.len then (a.putScratch dst (List.replicate f.len 0#8)).flag fInvalid
    else a.putScratch dst (a.bytesAt src.toNat f.len)) c

/-- The atomic requests of repetition r (R116): one of 16 elements for FP32 and INT32, two for BF16; none, with INVALID, beyond the
argument's length. -/
def Cell.atomReqs (c : Cell) (cx : FigCtx) (f : Fig) (base len r : Nat) : List AtomReq × Status16 :=
  let ix := c.indexAt cx f r
  if ix < 0 ∨ (len : Int) < ix * 64 + 64 then ([], fInvalid)
  else
    let line := BitVec.ofNat 64 (base + ix.toNat * 64)
    let op : AtomOp := match f.const0.toNat % 8 with
      | 0 => .add
      | 1 => .smin
      | 2 => .smax
      | 3 => .umin
      | _ => .umax
    let a := cx.addr f.aAddr + r * f.aStride
    let ty : AtomTy := if f.fmtA = 0 then .fp32 else if f.fmtA = 1 then .bf16 else .int32
    let size := if f.fmtA = 1 then 2 else 4
    let req (h : Nat) : AtomReq := { line := line, op := op, ty := ty, elems := (List.range 16).map (fun j =>
      let o := (16 * h + j) * size
      { off := BitVec.ofNat 6 o, operand := BitVec.ofNat 64 (leNat (c.bytesAt (a + o) size)), compare := 0#64 }) }
    (if f.fmtA = 1 then [req 0, req 1] else [req 0], fNone)

/-- The bytes by which an atomic request enters the signature (R200): argument, line index, element mask and operands. -/
def reqSig (arg : Nat) (base : Nat) (q : AtomReq) : List Byte :=
  let mask := q.elems.foldl (fun m e => m ||| 2 ^ e.off.toNat) 0
  natBytes 4 arg ++ natBytes 8 ((q.line.toNat - base) / 64) ++ natBytes 8 mask ++ q.elems.flatMap (fun e => bytesOf e.operand 8)

/-- An ATOMIC figure: its requests join those the tile has yet to hand to the block atomic unit. -/
def figAtomic (cx : FigCtx) (f : Fig) (base len : Nat) (c : Cell) : Cell :=
  (List.range f.reps).foldl (fun a r =>
    let (qs, fl) := a.atomReqs cx f base len r
    let sq := qs.flatMap (reqSig f.param base)
    { a.flag fl with tile := a.tile.map (fun t =>
        { t with reqs := t.reqs ++ qs, sig := (crc64 0x42F0E1EBA9EA3693#64 t.sig.1 sq, crc64 0xAD93D23594C93659#64 t.sig.2 sq) }) }) c

/-! SKIP (R115). -/

/-- A SKIP figure's test holds. -/
def figSkips (cx : FigCtx) (f : Fig) (c : Cell) : Bool :=
  match f.mode with
  | 0 => (c.status.setWidth 32 &&& f.const0) != 0#32
  | 1 => (BitVec.ofNat 32 cx.lc &&& f.const0) != f.const1
  | 2 => (BitVec.ofNat 32 cx.step &&& f.const0) != f.const1
  | _ => false

end Sys2Proof.Machine
end

