-- ==== Sys2Proof/Machine/SnapOps.lean ====
section
/-! DEFINITION. Version slots and open records (R294, R298, R300). -/

namespace Sys2Proof.Machine

/-- Leaves whose last reference was dropped become RETURNING (R300): those of the logical leaves that a slot's map named. -/
def releaseLeaves (x : Extent) (before after : Snap) (k : Nat) : Snap :=
  (List.range (32 * x.grans.length)).foldl (fun sn leaf =>
    let p := snapLeaf before k leaf
    if leafRefs sn leaf p = 0 then snapSetCat x sn p .returning else sn) after

/-- A slot becomes EMPTY and its leaves are released; its map is forgotten. -/
def releaseSlot (x : Extent) (sn : Snap) (k : Nat) : Snap :=
  let v := mget VSlot.reset sn.slots k
  let sn1 := { sn with slots := mset VSlot.reset sn.slots k { v with state := .empty, version := 0, opens := 0 },
                       refs := mset 0 sn.refs k 0 }
  let sn2 := releaseLeaves x sn sn1 k
  { sn2 with maps := sn2.maps.filter (fun e => e.1 / 2 ^ 20 != k) }

/-- A record of a slot is closed: the last close of a HELD slot empties it (R294). -/
def closeSlot (x : Extent) (sn : Snap) (k : Nat) : Snap :=
  let v := mget VSlot.reset sn.slots k
  let sn1 := { sn with slots := mset VSlot.reset sn.slots k { v with opens := v.opens - 1 } }
  if v.state == .held && v.opens ≤ 1 then releaseSlot x sn1 k else sn1

/-- Close an open record (R298). -/
def State.closeRecord (s : State) (idx : Nat) : State :=
  match tget s.ext.records idx with
  | none => s
  | some r =>
    let s1 := { s with ext := { s.ext with records := tdel s.ext.records idx } }
    match s1.extent r.ext.toNat with
    | none => s1
    | some x => match x.snap with
      | none => s1
      | some sn => s1.setExtent r.ext.toNat { x with snap := some (closeSlot x sn r.slot) }

/-- Close every open record of an endpoint declared dead (R298). -/
def State.closeRecordsOf (s : State) (ep : Ep) : State :=
  s.ext.records.foldl (fun acc r => if r.2.ep == ep then acc.closeRecord r.1 else acc) s

/-- Free every open record of an extent (R285). -/
def State.dropRecordsOf (s : State) (e : Nat) : State :=
  { s with ext := { s.ext with records := s.ext.records.filter (fun r => r.2.ext.toNat != e) } }

end Sys2Proof.Machine
end

