-- ==== Sys2Proof/Machine/MemQueue.lean ====
section
/-! DEFINITION. The memory controllers' queues and what a read finds (spec/07): the levels and moves of a channel's queues (R229 to R236),
and each word of a read by its syndrome, with corrections, write-backs and poison (R249 to R253, R258). -/

namespace Sys2Proof.Machine

/-! Channels. -/

def State.stack (s : State) (st : Nat) : Stack := mget Stack.reset s.mem.deepStacks st
def State.setStack (s : State) (st : Nat) (x : Stack) : State :=
  { s with mem := { s.mem with deepStacks := mset Stack.reset s.mem.deepStacks st x } }

def State.zone (s : State) (z : Nat) : Zone := mget Zone.reset s.mem.zones z
def State.setZone (s : State) (z : Nat) (x : Zone) : State := { s with mem := { s.mem with zones := mset Zone.reset s.mem.zones z x } }

/-- The stack that a channel belongs to has failed (R248). -/
def State.chanFailed (s : State) (ch : MemCh) : Bool := chanDeep ch && (s.stack (chanStack ch)).failed

/-- A pseudo-channel is being retrained (R247). -/
def State.chanRetraining (s : State) (ch : MemCh) : Bool :=
  chanDeep ch && (s.stack (chanStack ch)).retraining && (s.stack (chanStack ch)).pc == ch.val % 32

/-- The controllers accept requests once training is complete (R246). -/
def State.memTrained (s : State) : Bool := s.plt.phase == .kat || s.plt.phase == .fill || s.plt.phase == .ready || s.plt.phase == .shutdown

/-- The counter of corrected or uncorrectable words of a channel (R268). -/
def ceCounter (ch : MemCh) : Nat := if chanDeep ch then ctrMem 0 (chanStack ch) else ctrMem 2 (chanTier ch)
def ueCounter (ch : MemCh) : Nat := if chanDeep ch then ctrMem 1 (chanStack ch) else ctrMem 3 (chanTier ch)
def nbrCounter (ch : MemCh) : Nat := if chanDeep ch then ctrMem 7 (chanStack ch) else ctrMem 8 (chanTier ch)

/-- DETAIL1 of a memory report: syndrome, row, bank (R262). -/
def memDetail (syn row bank : Nat) : Nat := syn + 2 ^ 8 * row + 2 ^ 32 * bank

/-! Reads as they return. -/

/-- The rows that most recently produced a correction, 16 at most, and whether this correction raises CE_ROW_REPEAT (R253). -/
def ceTouch (rows : List CeRow) (bank row : Nat) : List CeRow × Bool :=
  match rows.find? (fun r => r.bank == bank && r.row == row) with
  | some r => (⟨bank, row, true⟩ :: rows.filter (fun x => !(x.bank == bank && x.row == row)), !r.reported)
  | none => ((⟨bank, row, false⟩ :: rows).take 16, false)

/-- One word is corrected: counted, and reported when its row is in the table (R250, R253). -/
def State.countCe (s : State) (ch : MemCh) (e : MemEntry) (addr : Nat) (syn : BitVec 8) : State :=
  let c := s.chan ch
  let (rows, repeated) := ceTouch c.ceRows e.bank e.row
  let s1 := (s.setChan ch { c with ceRows := rows }).tally (ceCounter ch)
  if repeated then s1.raise (mkReport 0x0A 0x01 0 (unitChan ch) addr (memDetail syn.toNat e.row e.bank)) else s1

/-- The syndrome of word i of a read, from the bits DRAM shows flipped (R249). -/
def readSyndrome (e : MemEntry) (flips : List EccFlip) (i : Nat) : BitVec 8 :=
  let f := flips.find? (fun x => x.word.val == i)
  eccSyndrome (e.poison.getD (i / 8) false) ((f.map (fun x => x.data)).getD 0#64) ((f.map (fun x => x.check)).getD 0#8)

/-- What the words of one line of a read amount to: the corrected words, the uncorrectable ones, and whether a word is poison. -/
structure LineRead where
  line : Nat
  corrected : List (Nat × BitVec 8)
  bad : List (Nat × BitVec 8)
  poison : Bool
deriving DecidableEq, Repr

/-- Classify the words of line j of a read (R250). -/
def classifyLine (ch : MemCh) (e : MemEntry) (flips : List EccFlip) (j : Nat) : LineRead :=
  let ws := (List.range 8).map (fun k => (8 * j + k, readSyndrome e flips (8 * j + k)))
  { line := chanKey ch e.addr / 64 + j
    corrected := ws.filter (fun w => match eccAction w.2 with
      | .correct _ => true
      | _ => false)
    bad := ws.filter (fun w => eccAction w.2 == .uncorrectable)
    poison := ws.any (fun w => eccAction w.2 == .poison) }

/-- The lines of a read. -/
def classifyRead (ch : MemCh) (e : MemEntry) (flips : List EccFlip) : List LineRead :=
  (List.range (e.data.length / 64)).map (classifyLine ch e flips)

/-! The queues of a channel (R229 to R236). -/

def State.sched (s : State) (ch : MemCh) : SchedCtrl := if chanDeep ch then s.mem.deepSched else s.mem.shelfSched

/-- Reads that occupy the read queue: scrub and patrol reads wait apart, at class 3. -/
def Chan.readCount (c : Chan) : Nat := (c.reads.filter (fun e => e.kind == .read || e.kind == .mergeRead)).length

/-- Writes that occupy the write queue: correction write-backs wait apart, at class 3. -/
def Chan.writeCount (c : Chan) : Nat := (c.writes.filter (fun e => e.kind != .writeBack)).length

/-- The youngest pending write of a row: in the write queue, or a merge-buffer entry from its allocation on (R233). -/
def Chan.youngestWrite (c : Chan) (bank row : Nat) : Nat :=
  ((c.writes.filter (fun e => e.bank == bank && e.row == row)).map (fun e => e.seq) ++
    (c.merges.filter (fun e => e.bank == bank && e.row == row)).map (fun e => e.seq)).foldl max 0

/-- A read arrives at its bank: after an earlier write to its row the bank goes in order until that write has issued (R233), and the
merge-buffer entries of its row close (R236). own: the entry whose line read this is; it does not stand in its own way. -/
def Chan.onRead (c : Chan) (bank row : Nat) (own : Option Nat) : Chan :=
  let w := ({ c with merges := c.merges.filter (fun m => some m.seq != own) }).youngestWrite bank row
  let c1 := { c with merges := c.merges.map (fun m => if m.bank == bank && m.row == row && some m.seq != own then
    { m with closed := true } else m) }
  if w = 0 then c1
  else { c1 with banks := mmod MemBank.idle c.banks bank (fun b => { b with inOrder := true, release := max b.release w }) }

/-- A channel enters or leaves drain mode on its write levels (R231): its write queue and the merge-buffer entries whose data is ready. -/
def Chan.drainMode (c : Chan) (sc : SchedCtrl) : Chan :=
  let n := c.writes.length + (c.merges.filter (fun e => e.ready)).length
  let idle : Bool := !c.reads.any (fun e => !e.issued && (e.kind == .read || e.kind == .mergeRead))
  if sc.wqHi.toNat ≤ n ∨ (idle ∧ 0 < n) then { c with drain := true }
  else if n ≤ sc.wqLo.toNat then { c with drain := false } else c

/-- A read joins a channel: its unit's bytes as they stand, and which of its lines are poisoned (R234). -/
def State.readEntry (s : State) (kind : MemKind) (ch : MemCh) (addr n bank row seq : Nat) : MemEntry :=
  let key := chanKey ch addr
  { seq := seq, kind := kind, addr := addr, bank := bank, row := row, issued := false, data := s.poolRead key n,
    poison := (List.range (n / 64)).map (fun j => s.poisoned (key / 64 + j)), rewritten := [], renewed := [] }

/-- The line reads of merge-buffer entries enter the read queue while it has room, oldest entry first (R229, R235 step 3). -/
def State.askMerges (s : State) (ch : MemCh) : Nat → State
  | 0 => s
  | f + 1 =>
    let c := s.chan ch
    match c.merges.find? (fun m => !m.asked) with
    | none => s
    | some m =>
      if 64 ≤ c.readCount then s
      else
        let c1 := ({ c with merges := c.merges.map (fun x => if x.seq = m.seq then { x with asked := true } else x) } : Chan).onRead
          m.bank m.row (some m.seq)
        (s.setChan ch { c1 with reads := c1.reads ++ [s.readEntry .mergeRead ch m.addr 64 m.bank m.row c.nextSeq],
                                nextSeq := c.nextSeq + 1 }).askMerges ch f

/-- A ready line leaves the merge buffer for the write queue as one write, at its entry's place in arrival order (R235 step 4). -/
def Chan.moveReady (c : Chan) : Nat → Chan
  | 0 => c
  | f + 1 =>
    match c.merges.find? (fun m => m.ready) with
    | none => c
    | some m =>
      if 64 ≤ c.writeCount then c
      else
        ({ c with merges := c.merges.filter (fun x => x.seq != m.seq),
                  writes := c.writes ++ [{ seq := m.seq, kind := .merged m.closed, addr := m.addr, bank := m.bank, row := m.row,
                                           issued := false, data := [], poison := [], rewritten := [], renewed := [] }] } : Chan).moveReady f

/-- After a channel's queues have changed: line reads that wait enter, ready lines move, and drain mode follows the levels. -/
def State.afterQueue (s : State) (ch : MemCh) : State :=
  let s1 := s.askMerges ch 32
  s1.setChan ch (((s1.chan ch).moveReady 32).drainMode (s.sched ch))

/-- A write to the line at a waits for the write of a merge-buffer entry that has closed (R236). -/
def Chan.closedAt (c : Chan) (a : Nat) : Bool :=
  c.merges.any (fun m => m.addr == a && m.closed) || c.writes.any (fun e => e.addr == a && e.kind == .merged true)

/-- How a controller takes a write (R234 to R237). -/
inductive WritePlace where
  /-- into the write queue -/
  | queue
  /-- into the line's open merge-buffer entry -/
  | join (seq : Nat)
  /-- into a new merge-buffer entry -/
  | entry
  /-- held back: the structure is full, or a closed entry of the line has not issued -/
  | held
deriving DecidableEq, Repr

/-- Where a write to the line at a goes: a whole line never enters the merge buffer (R237); any other joins the line's open entry
(R235 step 2); whole words go to the write queue, the rest to a new entry. -/
def Chan.place (c : Chan) (a : Nat) (en : BitVec 64) : WritePlace :=
  if c.closedAt a then .held
  else match (if en = allEnables then none else c.merges.find? (fun m => m.addr == a)) with
    | some m => .join m.seq
    | none =>
      if wordsWhole en then (if 64 ≤ c.writeCount then .held else .queue)
      else if 32 ≤ c.merges.length then .held else .entry

/-- A write-back of a corrected word, unless the word has been written since (R251). Memory in this model holds the true bits, so the
write-back changes none. It waits apart from the 64 writes of the write queue, as scrub and patrol reads do (DESIGN CHOICE: log entry
33). -/
def State.writeBack (s : State) (ch : MemCh) (e : MemEntry) (w : Nat) : State :=
  let key := chanKey ch e.addr + 8 * w
  if e.rewritten.contains (key / 8) then s
  else
    let c := s.chan ch
    s.setChan ch (({ c with writes := c.writes ++ [{ e with seq := c.nextSeq, kind := .writeBack, issued := false, data := [],
                                                              poison := [], rewritten := [], renewed := [], addr := e.addr + 8 * w }],
                            nextSeq := c.nextSeq + 1 } : Chan).drainMode (s.sched ch))

/-- The controller deals with the words of one line (R250): corrections, then poison of the whole line with its one UE report. A line that
a write has covered whole since the read was accepted is not poisoned: that write stores fresh check bits (R252). -/
def State.settleLine (s : State) (ch : MemCh) (e : MemEntry) (l : LineRead) : State :=
  let s1 := l.corrected.foldl (fun st w => (st.countCe ch e (e.addr + 8 * w.1) w.2).writeBack ch e w.1) s
  match l.bad with
  | [] => s1
  | w :: _ =>
    let s2 := s1.bump (ueCounter ch) l.bad.length
    let s3 := s2.raise (mkReport 0x0A 0x02 1 (unitChan ch) (e.addr + 8 * w.1) (memDetail w.2.toNat e.row e.bank))
    if e.renewed.contains l.line then s3 else s3.poisonLine l.line

/-- A read's lines that are returned as poison. -/
def badLine (l : LineRead) : Bool := l.poison || !l.bad.isEmpty

/-- A line of memory is read for a request that its slice answers in the same command, with the bits that DRAM shows flipped: each word is
handled by its syndrome (R250); whether the line is returned as poison. -/
def State.readMem (s : State) (line : Nat) (flips : List (Nat × List EccFlip)) : Bool × State :=
  match flips.find? (fun f => f.1 == line) with
  | none => (s.poisoned line, s)
  | some f =>
    let loc := dramLoc (line * 64 / granBytes) (line * 64 % granBytes)
    let e := s.readEntry .read loc.ch loc.addr 64 loc.bank loc.row 0
    let l := classifyLine loc.ch e f.2 0
    (badLine l, s.settleLine loc.ch e l)

/-- A scrub's counts take in a read of its (R258): a line with a word of syndrome 0xFF was poisoned already, and a line with an
uncorrectable word is poisoned by the scrub unless it has been written whole since or was poisoned already. -/
def ScrubOp.take (sc : ScrubOp) (ch : MemCh) (e : MemEntry) (ls : List LineRead) : ScrubOp :=
  let n := (ls.map (fun l => l.corrected.length)).sum
  let key := ch.val * 2 ^ 24 + e.bank * 2 ^ 16 + e.row
  { sc with outstanding := sc.outstanding - 1, wordsRead := sc.wordsRead + e.data.length / 8,
            wordsCorrected := sc.wordsCorrected + n,
            wordsUncorrectable := sc.wordsUncorrectable + (ls.map (fun l => l.bad.length)).sum,
            linesPoisoned := sc.linesPoisoned + (ls.filter (fun l => !l.bad.isEmpty && !l.poison && !e.renewed.contains l.line)).length,
            linesAlready := sc.linesAlready + (ls.filter (fun l => l.poison)).length,
            rows := if n = 0 then sc.rows else mmod 0 sc.rows key (· + n) }

/-- A read leaves its channel's queue. -/
def State.dropRead (s : State) (ch : MemCh) (seq : Nat) : State :=
  let c := s.chan ch
  (s.setChan ch { c with reads := c.reads.filter (fun e => e.seq != seq) }).afterQueue ch

end Sys2Proof.Machine
end

