-- ==== Sys2Proof/Machine/CohOps.lean ====
section
/-! DEFINITION. The home agent's operations: agents, the directory, snoops and grants, and how a transaction on a line starts and
ends (R306 to R331). -/

namespace Sys2Proof.Machine

/-! Agents. -/

/-- An endpoint's agent index, when it is registered. -/
def State.agentIx (s : State) (ep : Ep) : Option Nat := (s.coh.agents.find? (fun e => e.2.ep == ep)).map Prod.fst

def State.agentDead (s : State) (a : Nat) : Bool := match tget s.coh.agents a with
  | some x => x.dead
  | none => false

/-- An endpoint registered as a LIVE caching agent. -/
def State.liveAgent (s : State) (ep : Ep) : Option Nat := match s.agentIx ep with
  | some a => if s.agentDead a then none else some a
  | none => none

/-- An endpoint whose agent is DEAD (R331). -/
def State.fromDead (s : State) (ep : Ep) : Bool := match s.agentIx ep with
  | some a => s.agentDead a
  | none => false

def State.agentEp (s : State) (a : Nat) : Ep := match tget s.coh.agents a with
  | some x => x.ep
  | none => 0x3FFF#14

/-! The directory. -/

/-- The first line of the sector that a tag and a set name (R309). -/
def sectorLine (set tag : Nat) : Nat := (tag * 2 ^ 26 + (set ^^^ (tag * 16 % 2 ^ 18)) * 256) / 64

/-- A line of a sector is busy. -/
def State.sectorBusy (s : State) (set tag : Nat) : Bool :=
  (List.range 4).any (fun i => (tget s.coh.txns (sectorLine set tag + i)).isSome)

def State.sector (s : State) (set way : Nat) : Sector := mget Sector.empty s.coh.dir (set * 16 + way)

/-- A way is free: its four lines are I and none of them is busy (R323). -/
def State.wayFree (s : State) (set way : Nat) : Bool :=
  let sec := s.sector set way
  sec.lines.isEmpty && !(sec != Sector.empty && s.sectorBusy set sec.tag)

/-- Where a grant of a line would be recorded (R323). -/
inductive DirRoom where
  | entry (way : Nat)
  | free (way : Nat)
  | victim (way : Nat)
  | none
deriving DecidableEq, Repr

def State.dirRoom (s : State) (line : Nat) : DirRoom :=
  match s.dirWay line with
  | some w => .entry w
  | none =>
    let set := dirSet line
    match (List.range 16).find? (fun w => s.wayFree set w) with
    | some w => .free w
    | none =>
      let cands := (List.range 16).filter (fun w => !s.sectorBusy set (s.sector set w).tag)
      let top := cands.foldl (fun m w => max m (s.sector set w).age) 0
      match cands.find? (fun w => (s.sector set w).age == top) with
      | some w => .victim w
      | none => .none

def State.setSector (s : State) (set way : Nat) (sec : Sector) : State :=
  { s with coh := { s.coh with dir := mset Sector.empty s.coh.dir (set * 16 + way) sec } }

/-- Record a line's directory state; the access makes its sector's AGE 0. A new sector takes the lowest free way. -/
def State.setDir (s : State) (line : Nat) (d : DirLine) : State :=
  let set := dirSet line
  match s.dirRoom line with
  | .entry w =>
    let sec := s.sector set w
    s.setSector set w { sec with age := 0, lines := mset .i sec.lines (line % 4) d }
  | .free w =>
    if d = .i then s else s.setSector set w ⟨dirTag line, 0, mset .i [] (line % 4) d⟩
  | _ => s

/-- Record a line's state without counting as an access to its sector (sweeps). -/
def State.clearDir (s : State) (line : Nat) : State :=
  match s.dirWay line with
  | some w =>
    let sec := s.sector (dirSet line) w
    s.setSector (dirSet line) w { sec with lines := mset .i sec.lines (line % 4) .i }
  | none => s

/-- Lines recorded in a state other than I (R335). -/
def State.dirOccupancy (s : State) : Nat := (s.coh.dir.map (fun e => e.2.lines.length)).sum

/-- Every line the directory records other than I, with its state. -/
def State.dirLines (s : State) : List (Nat × DirLine) :=
  s.coh.dir.flatMap (fun e => e.2.lines.map (fun l => (sectorLine (e.1 / 16) e.2.tag + l.1, l.2)))

/-- The LIVE agents that may hold a line, other than agent q. -/
def State.holders (s : State) (d : DirLine) (q : Option Nat) : List Nat :=
  let keep (a : Nat) : Bool := some a != q && !s.agentDead a
  match d with
  | .i => []
  | .sPtr a => if keep a then [a] else []
  | .e a => if keep a then [a] else []
  | .m a => if keep a then [a] else []
  | .sVec v => (s.coh.agents.map Prod.fst).filter (fun a => v.getLsbD (a % 15) && keep a)

/-- Add a sharer (R310): the second turns S_PTR into S_VEC. -/
def addSharer (d : DirLine) (q : Nat) : DirLine :=
  match d with
  | .sPtr a => if a = q then .sPtr a else .sVec ((1#15 <<< (a % 15)) ||| (1#15 <<< (q % 15)))
  | .sVec v => .sVec (v ||| (1#15 <<< (q % 15)))
  | _ => .sPtr q

/-! Memory under a line. -/

/-- The extent of a line of the PPA space, and the memory line under it. -/
def State.homeLine (s : State) (line : Nat) : Option (Nat × Extent × Nat) :=
  match s.slotExtent (line * 64 / granBytes) with
  | some (e, x, i) => some (e, x, (x.grans.getD i 0 * granBytes + line * 64 % granBytes) / 64)
  | none => none

def lineOfBytes (bs : List Byte) : Line := BitVec.ofNat 512 (leNat bs)

/-- Read a line of memory: its data, and whether it is poisoned. -/
def State.readLine (s : State) (line : Nat) : Line × Bool :=
  match s.homeLine line with
  | some (_, _, m) => (lineOfBytes (s.poolRead (m * 64) 64), s.poisoned m)
  | none => (0#512, false)

/-- Read a line of memory for a response: a line returned as poison counts (R252). -/
def State.readHome (s : State) (line : Nat) : (Line × Bool) × State :=
  let d := s.readLine line
  (d, if d.2 then s.bump (ctrMem 4 0) 1 else s)

/-- Write a line's enabled bytes to memory. -/
def State.storeHome (s : State) (line : Nat) (en : BitVec 64) (d : Line) : State :=
  match s.homeLine line with
  | some (_, _, m) => s.writeLine m en d
  | none => s

/-- Write a line to memory as poison (R250). -/
def State.poisonHome (s : State) (line : Nat) : State :=
  match s.homeLine line with
  | some (_, _, m) => s.setPoison m
  | none => s

/-- Write data received for a line: poisoned data poisons the line. -/
def State.storeData (s : State) (line : Nat) (d : Line × Bool) : State :=
  if d.2 then s.poisonHome line else s.storeHome line allEnables d.1

/-! Messages. -/

def unitsOfLine (d : Line) : List (BitVec 128) := (List.range 4).map (fun i => d.extractLsb' (128 * i) 128)

def lineOfUnits (us : List (BitVec 128)) : Line :=
  (List.range 4).foldl (fun acc i => acc ||| ((us.getD i 0#128).setWidth 512 <<< (128 * i))) 0#512

/-- The data a packet carries, and its POISON bit (R348). -/
def pktData (p : Packet) : Line × Bool := (lineOfUnits p.payload, p.aux.getLsbD 0)

/-- The fabric global address of a line of this node. -/
def State.lineAddr (s : State) (line : Nat) : W64 :=
  BitVec.ofNat 64 (line * 64) ||| (s.rtr.nodeId.setWidth 64 <<< 40)

/-- Answer a request (R312). -/
def State.answer (s : State) (req : Packet) (ep : Ep) (opc : BitVec 8) (st : Status) (far : Bool) (data : Option (Line × Bool)) :
    State :=
  s.sendRsp { pktBlank opc with
    dst := ep, tag := req.tag, status := st, far := far, cls := req.cls, tenant := req.tenant, addr := req.addr,
    aux := match data with
      | some (_, true) => 1#64
      | _ => 0#64,
    payload := match data with
      | some (d, _) => unitsOfLine d
      | none => [] } vcRsp req.tag.toNat

/-- Send a snoop (R312). -/
def State.sendSnoop (s : State) (line : Nat) (ep : Ep) (opc : BitVec 8) (data : Option Line) : State :=
  s.send { pktBlank opc with dst := ep, addr := s.lineAddr line,
                             payload := match data with
                               | some d => unitsOfLine d
                               | none => [] } vcSnp

/-- The answer that refuses each request, carrying the status (R312). -/
def refusalOpc (opc : BitVec 8) : BitVec 8 :=
  if opc = 0x01#8 then 0x40#8 else if opc = 0x02#8 then 0x42#8 else if opc = 0x03#8 then 0x44#8
  else if opc = 0x04#8 then 0x43#8 else if opc = 0x05#8 then 0x45#8 else if opc = 0x06#8 then 0x49#8 else 0x46#8

def State.refuse (s : State) (req : Packet) (ep : Ep) (st : Status) : State :=
  if req.opc = 0x08#8 then s else s.answer req ep (refusalOpc req.opc) st false none

/-! Transactions. -/

def State.txn (s : State) (line : Nat) : Option Txn := tget s.coh.txns line

def State.setTxn (s : State) (line : Nat) (t : Txn) : State :=
  { s with coh := { s.coh with txns := tput s.coh.txns line t } }

def State.delTxn (s : State) (line : Nat) : State := { s with coh := { s.coh with txns := tdel s.coh.txns line } }

/-- A request retires: its slice's count of accepted requests falls (R285). -/
def State.retire (s : State) (r : CReq) : State := s.addAccepted r.ext r.slice (-1)

/-- Requests active and waiting at a slice (R316). -/
def State.sliceActive (s : State) (sl : Nat) : Nat := (s.coh.txns.filter (fun e => ppaSlice (e.1 * 64) == sl)).length

def State.sliceWaiting (s : State) (sl : Nat) : Nat :=
  ((s.coh.queues.filter (fun e => ppaSlice (e.1 * 64) == sl)).map (fun e => e.2.length)).sum

/-- A slice that holds 1,024 active transactions or 4,096 waiting requests accepts no REQ packet (R316). -/
def State.sliceFull (s : State) (sl : Nat) : Bool := decide (1024 ≤ s.sliceActive sl) || decide (4096 ≤ s.sliceWaiting sl)

/-- Open a transaction: send its snoops. -/
def State.openTxn (s : State) (line : Nat) (kind : TxnKind) (code : BitVec 8) (agents : List Nat) : State :=
  let sn : List Snoop := agents.map (fun a => ⟨s.agentEp a, a, code, false⟩)
  let s1 := s.setTxn line { kind := kind, phase := .snooping, snoops := sn, data := none, kept := none, late := false, run := [] }
  sn.foldl (fun acc x => acc.sendSnoop line x.ep code none) s1

/-- The line is busy until the requester acknowledges its grant (R314). -/
def State.awaitAck (s : State) (line : Nat) (r : CReq) : State :=
  s.setTxn line { kind := .request r, phase := .granting r.ep, snoops := [], data := none, kept := none, late := false, run := [] }

/-- A dead agent's entry in a line's directory state is settled before the line is used (R331 steps 3 and 4): S_PTR and E become I;
M is written as poison and becomes I. -/
def State.settleDead (s : State) (line : Nat) : State :=
  match s.dirLine line with
  | .sPtr a => if s.agentDead a then s.clearDir line else s
  | .e a => if s.agentDead a then s.clearDir line else s
  | .m a =>
    if s.agentDead a then
      let s1 := ((s.poisonHome line).clearDir line).tally (ctrCoh 9)
      { s1 with coh := { s1.coh with sweeps := tmod s1.coh.sweeps a (· + 1) } }
    else s
  | _ => s

/-- Protocol error: an owner recorded M answered a snoop without data (R319). -/
def State.protocolError (s : State) (line : Nat) (ep : Ep) : State :=
  s.raise (mkReport 0x09 0x03 1 (unitSlice (ppaSlice (line * 64))) ep.toNat (line * 64))

/-! What follows the end of a recall. -/

/-- A line agent a holds or may hold. -/
def mayHold (d : DirLine) (a : Nat) : Bool :=
  match d with
  | .i => false
  | .sPtr x => x == a
  | .e x => x == a
  | .m x => x == a
  | .sVec v => v.getLsbD (a % 15)

/-- A recall of a line has ended: the line leaves the list of every recall whose agent, or all of whose agents, it has left. -/
def State.recallDone (s : State) (line : Nat) : State :=
  let d := s.dirLine line
  let held (w : RecallWait) : Bool := match w.agent with
    | some a => mayHold d a
    | none => d != .i
  { s with coh := { s.coh with recalls := s.coh.recalls.map (fun w =>
      if held w then w else { w with lines := w.lines.filter (· != line) }) } }

/-- A rights change of an extent completes to the fabric manager when the six slices have applied it and its recalls have ended
(R279, R324). -/
def State.settleRights (s : State) (e : Nat) : State :=
  match s.extent e with
  | none => s
  | some x =>
    match x.changes with
    | ⟨.rights ents, []⟩ :: rest =>
      if s.coh.recalls.any (fun w => w.ext == some e && !w.lines.isEmpty) then s
      else
        let s1 := s.setExtent e { x with changes := rest, rights := ents }
        let s2 := { s1 with coh := { s1.coh with recalls := s1.coh.recalls.filter (fun w => w.ext != some e) } }
        s2.reply 0x02#8 0 []
    | _ => s

/-- An active transaction serves a request of an agent or pushes a stash to it, or its sweep runs. -/
def State.agentBusy (s : State) (a : Nat) : Bool :=
  (tget s.coh.sweeps a).isSome || s.coh.txns.any (fun t => (match t.2.kind with
    | .request r => s.agentIx r.ep == some a
    | _ => false) || (match t.2.phase with
    | .stashing _ x => x == a
    | .stashed x => x == a
    | _ => false))

/-- COH_AGENT_REMOVE completes when its recall has ended and no request of the agent is active: the index is freed (R306). Lines granted to
the agent while the recall ran are recalled too. -/
def State.settleRemovals (s : State) : State :=
  let done := s.coh.recalls.filter (fun w => w.agent.isSome && w.ext.isNone && w.lines.isEmpty)
  done.foldl (fun acc w => match w.agent with
    | some a =>
      if acc.agentBusy a then acc
      else
        let left := (acc.dirLines.filter (fun l => mayHold l.2 a)).map (fun l => l.1)
        let others := acc.coh.recalls.filter (fun v => v.agent != some a || v.ext.isSome)
        if left.isEmpty then
          { acc with coh := { acc.coh with agents := tdel acc.coh.agents a, recalls := others } }.reply 0x11#8 0 []
        else { acc with coh := { acc.coh with recalls := others ++ [{ w with lines := left }] } }
    | none => acc) s

def State.settleRecalls (s : State) : State :=
  let exts := s.coh.recalls.filterMap (fun w => w.ext)
  exts.foldl (fun acc e => acc.settleRights e) s.settleRemovals

/-- A transaction ends and its request retires; a removal or a rights change that waited for it may complete. -/
def State.endReq (s : State) (line : Nat) (r : CReq) : State := ((s.delTxn line).retire r).settleRecalls

/-! How a transaction ends. -/

/-- After WR_ACK: the stash hint acts, or is dropped and counted (R328). The line stays busy until the target replies. -/
def State.stash (s : State) (line : Nat) (r : CReq) : State :=
  let target : Ep := r.pkt.xfer.setWidth 14
  if target = 0x3FFF#14 then s.endReq line r
  else
    let ok := match s.liveAgent target, s.homeLine line with
      | some _, some (_, x, m) =>
        s.coh.stashEn && target != r.ep && (rightsOf (extView x (ppaSlice (line * 64))).rights target).1 && !s.poisoned m
      | _, _ => false
    match s.liveAgent target with
    | some a =>
      if ok then
        let d := (s.readLine line).1
        (s.setTxn line { kind := .request r, phase := .stashing target a, snoops := [], data := none, kept := none,
                         late := false, run := [] }).sendSnoop line target 0x23#8 (some d)
      else (s.endReq line r).tally (ctrCoh 8)
    | none => (s.endReq line r).tally (ctrCoh 8)

/-- The holder of a grant: the requester's agent index. -/
def State.grantee (s : State) (r : CReq) : Nat := (s.agentIx r.ep).getD 0

/-- Grant a line: record the state, send the message with its data, and wait for GRANT_ACK (R314, R317). -/
def State.grant (s : State) (line : Nat) (r : CReq) (d : DirLine) (opc : BitVec 8) (far : Bool) (data : Option (Line × Bool)) :
    State :=
  ((s.setDir line d).answer r.pkt r.ep opc stOk far data).awaitAck line r

/-- The requester may write: it holds WRITE on the line's extent. -/
def State.mayWrite (s : State) (line : Nat) (ep : Ep) : Bool :=
  match s.homeLine line with
  | some (_, x, _) => (rightsOf (extView x (ppaSlice (line * 64))).rights ep).2.1
  | none => false

/-- Merge enabled bytes of w into d. -/
def mergeLine (d : Line) (en : BitVec 64) (w : Line) : Line :=
  (List.range 64).foldl (fun acc i =>
    if en.getLsbD i then (acc &&& ~~~(0xFF#512 <<< (8 * i))) ||| ((byteOf w i).setWidth 512 <<< (8 * i)) else acc) d

/-- A request whose snoops have all been answered is carried out (R317 to R321). d is the directory state it was ordered on. -/
def State.complete (s : State) (line : Nat) (r : CReq) (t : Txn) : State :=
  let d := s.dirLine line
  let q := s.grantee r
  let op := r.pkt.opc
  if op = 0x01#8 then
    -- RD_SHARED
    match t.data with
    | some data =>
      let s1 := s.storeData line data
      s1.grant line r (match t.kept with | some o => addSharer (.sPtr o) q | none => .sPtr q) 0x40#8 false (some data)
    | none =>
      let (data, s) := s.readHome line
      match d with
      | .e o =>
        if o = q then
          if s.mayWrite line r.ep then s.grant line r (.e q) 0x41#8 false (some data)
          else s.grant line r (.sPtr q) 0x40#8 false (some data)
        else s.grant line r (match t.kept with | some k => addSharer (.sPtr k) q | none => .sPtr q) 0x40#8 false (some data)
      | .sPtr _ => s.grant line r (addSharer d q) 0x40#8 false (some data)
      | .sVec _ => s.grant line r (addSharer d q) 0x40#8 false (some data)
      | _ =>
        if s.mayWrite line r.ep then s.grant line r (.e q) 0x41#8 false (some data)
        else s.grant line r (.sPtr q) 0x40#8 false (some data)
  else if op = 0x02#8 || op = 0x03#8 || (op = 0x06#8 && r.far == some true) then
    -- RD_OWN, CLAIM, far ATOMIC
    let far := op == 0x06#8
    let own := d == .sPtr q || d == .e q
    if own && op != 0x02#8 then s.grant line r (.m q) 0x44#8 far none
    else
      let (data, s) := match t.data with
        | some x => (x, s)
        | none => s.readHome line
      s.grant line r (.m q) 0x42#8 far (some data)
  else if op = 0x04#8 then
    -- RD_ONCE
    match t.data with
    | some data =>
      if t.late then
        (((s.storeData line data).setDir line .i).answer r.pkt r.ep 0x43#8 stOk false (some data)).endReq line r
      else (s.answer r.pkt r.ep 0x43#8 stOk false (some data)).endReq line r
    | none =>
      let (data, s) := s.readHome line
      (s.answer r.pkt r.ep 0x43#8 stOk false (some data)).endReq line r
  else if op = 0x05#8 then
    -- WR_LINE
    let w := lineOfUnits r.pkt.payload
    let s1 := match t.data with
      | some (x, false) => s.storeHome line allEnables (mergeLine x r.pkt.aux w)
      | some (_, true) => (s.poisonHome line).storeHome line r.pkt.aux w
      | none => s.storeHome line r.pkt.aux w
    ((s1.setDir line .i).answer r.pkt r.ep 0x45#8 stOk false none).stash line r
  else
    -- near ATOMIC: the line leaves every cache and the request goes to the unit (R325, R327)
    let s1 := match t.data with
      | some data => s.storeData line data
      | none => s
    (s1.setDir line .i).setTxn line
      { kind := .request r, phase := .nearRun, snoops := [], data := none, kept := none, late := false, run := [r] }

/-- A poisoned line has left the caches and stays poisoned (R329); a line in S_VEC form names no one agent. -/
def State.poisonCached (s : State) (line : Nat) : State :=
  let who : Nat := match s.dirLine line with
    | .sPtr a => (s.agentEp a).toNat
    | .e a => (s.agentEp a).toNat
    | _ => 0
  ((s.setDir line .i).delTxn line).raise (mkReport 0x09 0x05 1 (unitSlice (ppaSlice (line * 64))) who (line * 64))

/-- Finish a back-invalidation or recovery. -/
def State.finishKind (s : State) (line : Nat) (t : Txn) : State :=
  match t.kind with
  | .request r => s.complete line r t
  | .recall discard after =>
    let s1 := match t.data with
      | some data => if discard then s else s.storeData line data
      | none => s
    ((((s1.setDir line after).delTxn line).tally (ctrCoh 1)).recallDone line).settleRecalls
  | .victim =>
    let s1 := match t.data with
      | some data => s.storeData line data
      | none => s
    ((s1.clearDir line).delTxn line).tally (ctrCoh 0)
  | .abandoned opc =>
    -- an RD_ONCE changes nothing, unless a write-back answered its snoop (R317, R321)
    if opc = 0x04#8 ∧ !t.late then s.delTxn line
    else
      let s1 := match t.data with
        | some data => s.storeData line data
        | none => s
      (s1.setDir line (match t.kept with | some o => .sPtr o | none => .i)).delTxn line
  | .recovery =>
    match t.data with
    | some (x, false) =>
      let holder := match s.dirLine line with
        | .sPtr a => a
        | .e a => a
        | _ => 0
      (((s.storeHome line allEnables x).setDir line (if t.late then .i else .sPtr holder)).delTxn line).raise
        (mkReport 0x09 0x04 0 (unitSlice (ppaSlice (line * 64))) (s.agentEp holder).toNat (line * 64))
    | _ =>
      let hs := s.holders (s.dirLine line) none
      if hs.isEmpty then s.poisonCached line else s.openTxn line .poisonInv 0x20#8 hs
  | .poisonInv => s.poisonCached line

/-- Finish a transaction once no snoop is outstanding. -/
def State.advance (s : State) (line : Nat) : State :=
  match s.txn line with
  | some t => if t.phase = .snooping ∧ t.snoops.isEmpty then s.finishKind line t else s
  | none => s

/-- Open a transaction and, when it needs no snoop, finish it at once. -/
def State.startTxn (s : State) (line : Nat) (kind : TxnKind) (code : BitVec 8) (agents : List Nat) : State :=
  (s.openTxn line kind code agents).advance line

/-! Snoop answers. -/

/-- Take the answer of one agent to its snoop: now gone (none), or still holding S (some), with the data it sent. -/
def State.snoopAnswer (s : State) (line : Nat) (ep : Ep) (kept : Bool) (data : Option (Line × Bool)) (late : Bool) : State :=
  match s.txn line with
  | none => s
  | some t =>
    match t.snoops.find? (fun x => x.ep == ep) with
    | none => s
    | some sn =>
      let wasM := s.dirLine line == .m sn.agent
      let t1 := { t with snoops := t.snoops.filter (fun x => x.ep != ep),
                         kept := if kept then some sn.agent else t.kept,
                         late := t.late || late }
      match data with
      | some x => (s.setTxn line { t1 with data := some x }).advance line
      | none =>
        if wasM then
          -- R319: an owner recorded M answers without data
          (((s.poisonHome line).protocolError line ep).setTxn line { t1 with data := some (0#512, true) }).advance line
        else (s.setTxn line t1).advance line

/-- Take a write-back as the answer to the snoop outstanding to its agent (R321): answered WB_LATE. -/
def State.takeLate (s : State) (line : Nat) (p : Packet) (ep : Ep) : State :=
  let s1 := (s.answer p ep 0x47#8 stOk false none).tally (ctrCoh 2)
  s1.snoopAnswer line ep false (some (pktData p)) true

/-- A snoop is outstanding to an endpoint on a line. -/
def State.snoopOut (s : State) (line : Nat) (ep : Ep) : Bool :=
  match s.txn line with
  | some t => t.snoops.any (fun x => x.ep == ep)
  | none => false

/-- Write-backs that wait in the conflict queue when snoops for the line are sent to their agents leave it and answer them (R321). -/
def State.takeWaiting (s : State) (line : Nat) : State :=
  (mget [] s.coh.queues line).foldl (fun acc r =>
    if r.pkt.opc = 0x07#8 && acc.snoopOut line r.ep then
      let a1 := { acc with coh := { acc.coh with
        queues := mset [] acc.coh.queues line ((mget [] acc.coh.queues line).filter (fun x => x != r)) } }
      (a1.takeLate line r.pkt r.ep).retire r
    else acc) s

/-! Ordering a request. -/

/-- The predictor entry of a line: its slice and PPA[25:12] XOR PPA[39:26] (R326). -/
def predKey (line : Nat) : Nat :=
  let ppa := line * 64
  ppaSlice ppa * 16384 + ((bitsOf ppa 25 12 ^^^ bitsOf ppa 39 26) % 16384)

def satUp (c : BitVec 2) : BitVec 2 := if c = 3#2 then 3#2 else c + 1#2
def satDown (c : BitVec 2) : BitVec 2 := if c = 0#2 then 0#2 else c - 1#2

/-- Decide an atomic near or far, and update the predictor (R325, R326). others: another request to the line waits. -/
def State.decideAtomic (s : State) (line : Nat) (r : CReq) (others : Bool) : Bool × State :=
  let p := mget Pred.reset s.coh.pred (predKey line)
  let q := s.liveAgent r.ep
  let d := s.dirLine line
  let rights := match s.homeLine line with
    | some (_, x, _) => rightsOf (extView x (ppaSlice (line * 64))).rights r.ep
    | none => (false, false, false)
  let clean := match s.homeLine line with
    | some (_, _, m) => !s.poisoned m
    | none => false
  let chooses := decide (p.c.toNat < s.coh.nearAt.toNat) && decide (s.coh.farAt.toNat ≤ p.u.toNat)
  let coherent := match s.homeLine line with
    | some (_, x, _) => x.kind == .coherent
    | none => false
  let far := coherent && q.isSome && r.pkt.far && rights.1 && rights.2.1 && rights.2.2 && clean &&
    (s.coh.mode == .far || (s.coh.mode == .predict && chooses))
  let held := match d with
    | .i => false
    | .sPtr a => some a != q
    | .e a => some a != q
    | .m a => some a != q
    | .sVec _ => true
  let c' := if held || others then satUp p.c else satDown p.c
  let u' := if q.isSome && q == p.last then satUp p.u else satDown p.u
  (far, { s with coh := { s.coh with pred := mset Pred.reset s.coh.pred (predKey line) ⟨c', u', q⟩ } })

/-- Refuse an ordered request with COH_PROTOCOL and report it (R318, R333). -/
def State.refuseProtocol (s : State) (line : Nat) (r : CReq) : State :=
  (((s.refuse r.pkt r.ep stProtocol).protocolError line r.ep)).retire r

/-- Start taking the victim of a full set (R323): every line of it is invalidated; all ages of the set advance. -/
def State.takeVictim (s : State) (set way : Nat) : State :=
  let sec := s.sector set way
  let s1 := (List.range 16).foldl (fun acc w =>
    let x := acc.sector set w
    if x.lines.isEmpty then acc else acc.setSector set w { x with age := min 3 (x.age + 1) }) s
  sec.lines.foldl (fun acc l =>
    let line := sectorLine set sec.tag + l.1
    let a1 := acc.settleDead line
    if a1.dirLine line = .i then a1
    else (a1.startTxn line .victim 0x20#8 (a1.holders (a1.dirLine line) none)).takeWaiting line) s1

/-- An accepted stash push records its target once its sector has an entry (R323, R328). -/
def State.recordStash (s : State) (line : Nat) (r : CReq) (a : Nat) : State :=
  let held : Txn := { kind := .request r, phase := .stashed a, snoops := [], data := none, kept := none, late := false, run := [] }
  match s.dirRoom line with
  | .victim w => (s.setTxn line held).takeVictim (dirSet line) w
  | .none => s.setTxn line held
  | _ => ((s.setDir line (.sPtr a)).endReq line r).tally (ctrCoh 6)

/-- A request that records a holder needs a sector entry (R323). -/
def needsEntry (r : CReq) : Bool :=
  r.pkt.opc == 0x01#8 || r.pkt.opc == 0x02#8 || r.pkt.opc == 0x03#8 || (r.pkt.opc == 0x06#8 && r.far == some true)

/-- Requests that only a caching agent may make (R308): RD_SHARED, RD_OWN, CLAIM, WB_DIRTY, EVICT_CLEAN. -/
def agentOnly (opc : BitVec 8) : Bool := opc == 0x01#8 || opc == 0x02#8 || opc == 0x03#8 || opc == 0x07#8 || opc == 0x08#8

/-- Order a request to a line (R316 to R323): it acts on the directory state. others: another request to the line waits. A request
that needs room in the directory goes back to the head of its queue while a victim is taken. -/
def State.order (s0 : State) (line : Nat) (r0 : CReq) (others : Bool) : State :=
  let s := s0.settleDead line
  let requeue (st : State) (r : CReq) : State :=
    { st with coh := { st.coh with queues := mset [] st.coh.queues line (r :: mget [] st.coh.queues line) } }
  let coherent : Bool := match s.homeLine line with
    | some (_, x, _) => x.kind == .coherent
    | none => true
  let (r, s) := if r0.pkt.opc = 0x06#8 ∧ r0.far = none then
      if coherent then
        let (far, st) := s.decideAtomic line r0 others
        ({ r0 with far := some far }, st)
      else ({ r0 with far := some false }, s)
    else (r0, s)
  let q := s.agentIx r.ep
  let d := s.dirLine line
  let op := r.pkt.opc
  let mine : Bool := match d, q with
    | .m a, some b => a == b
    | _, _ => false
  if q.isNone && agentOnly op then
    -- the agent was removed while its request waited (R306, R308)
    (s.refuse r.pkt r.ep stNotAgent).retire r
  else if op = 0x07#8 then
    -- WB_DIRTY (R320, R322)
    if mine then
      (((s.storeData line (pktData r.pkt)).setDir line .i).answer r.pkt r.ep 0x46#8 stOk false none).retire r
    else ((s.answer r.pkt r.ep 0x48#8 stOk false none).tally (ctrCoh 3)).retire r
  else if mine then s.refuseProtocol line r
  else if op = 0x08#8 then
    -- EVICT_CLEAN
    (match d, q with
      | .sPtr a, some b => if a = b then s.setDir line .i else s
      | .e a, some b => if a = b then s.setDir line .i else s
      | _, _ => s).retire r
  else
    let room := s.dirRoom line
    let wait := needsEntry r && (match room with
      | .victim _ => true
      | .none => true
      | _ => false)
    if wait then
      match room with
      | .victim w => (requeue s r).takeVictim (dirSet line) w
      | _ => requeue s r
    else
      let s := if op = 0x06#8 && coherent then s.tally (if r.far = some true then ctrCoh 5 else ctrCoh 4) else s
      -- the snoop of each row of R317
      let inv := s.holders d q
      if op = 0x01#8 then
        match d with
        | .e o => if some o = q then s.startTxn line (.request r) 0x21#8 [] else s.startTxn line (.request r) 0x21#8 [o]
        | .m o => s.startTxn line (.request r) 0x21#8 [o]
        | _ => s.startTxn line (.request r) 0x21#8 []
      else if op = 0x04#8 then
        match d with
        | .m o => s.startTxn line (.request r) 0x22#8 [o]
        | _ => s.startTxn line (.request r) 0x22#8 []
      else s.startTxn line (.request r) 0x20#8 inv

/-! Recalls. -/

/-- The state a line takes when agent a's copy is recalled, or every copy (R324). -/
def recallAfter (d : DirLine) (a : Option Nat) : DirLine :=
  match d, a with
  | .sVec v, some k =>
    let v' := v &&& ~~~(1#15 <<< (k % 15))
    if v' = 0#15 then .i else .sVec v'
  | _, _ => .i

/-- Whom a recall snoops: every holder, or for one agent the LIVE agents of its residue in S_VEC form. -/
def State.recallTargets (s : State) (d : DirLine) (a : Option Nat) : List Nat :=
  match d, a with
  | .sVec _, some k => (s.holders d none).filter (fun x => x % 15 == k % 15)
  | _, _ => s.holders d none

/-- Start the recall of a line that no transaction holds; the agents' data is discarded when the extent drains (R285, R324). -/
def State.recallLine (s0 : State) (line : Nat) (a : Option Nat) : State :=
  let s := s0.settleDead line
  let d := s.dirLine line
  let draining := match s.homeLine line with
    | some (_, x, _) => x.state == .draining
    | none => true
  if d = .i then (s.recallDone line).settleRecalls
  else (s.startTxn line (.recall draining (recallAfter d a)) 0x20#8 (s.recallTargets d a)).takeWaiting line

/-- Start a recall of lines: those free at once, the others when HOME_ORDER next finds them free. -/
def State.startRecall (s : State) (w : RecallWait) : State :=
  let s1 := { s with coh := { s.coh with recalls := s.coh.recalls ++ [w] } }
  w.lines.foldl (fun acc l => if (acc.txn l).isSome then acc else acc.recallLine l w.agent) s1

/-! Agents that die. -/

/-- Declare an agent dead: steps 1 to 3 of R331 and the start of its sweep; its open records are closed (R298). -/
def State.declareDead (s : State) (ep : Ep) : State :=
  let s0 := s.closeRecordsOf ep
  match s0.liveAgent ep with
  | none => s0
  | some a =>
    let s1 := { s0 with coh := { s0.coh with agents := tmod s0.coh.agents a (fun x => { x with dead := true }),
                                             sweeps := tput s0.coh.sweeps a 0 } }
    -- step 2: its waiting requests
    let s2 := s1.coh.queues.foldl (fun acc q =>
      let gone := q.2.filter (fun r => r.ep == ep)
      let a1 := { acc with coh := { acc.coh with
        queues := mset [] acc.coh.queues q.1 (q.2.filter (fun r => r.ep != ep)) } }
      gone.foldl (fun b r => b.retire r) a1) s1
    -- steps 2 and 3: its active request, and the transactions that await it
    s2.coh.txns.foldl (fun acc e =>
      match acc.txn e.1 with
      | none => acc
      | some t =>
        let mineReq := match t.kind with
          | .request r => r.ep == ep
          | _ => false
        let acc1 := match t.kind, t.phase with
          | .request r, .granting g => if g == ep then acc.endReq e.1 r else acc
          | .request r, .stashing g _ => if g == ep then acc.endReq e.1 r else acc
          | .request r, .stashed x => if x == a then acc.endReq e.1 r else acc
          | .request r, .snooping =>
            if mineReq then (acc.setTxn e.1 { t with kind := .abandoned r.pkt.opc }).retire r else acc
          | _, _ => acc
        match acc1.txn e.1 with
        | none => acc1
        | some t1 =>
          if t1.snoops.any (fun x => x.ep == ep) then
            if acc1.dirLine e.1 == .m a then
              let b := (((acc1.poisonHome e.1).clearDir e.1).tally (ctrCoh 9))
              let b1 := { b with coh := { b.coh with sweeps := tmod b.coh.sweeps a (· + 1) } }
              (b1.setTxn e.1 { t1 with snoops := t1.snoops.filter (fun x => x.ep != ep),
                                       data := some (0#512, true) }).advance e.1
            else (acc1.setTxn e.1 { t1 with snoops := t1.snoops.filter (fun x => x.ep != ep) }).advance e.1
          else acc1) s2

end Sys2Proof.Machine
end

