-- ==== Sys2Proof/Machine/CopyOps.lean ====
section
/-! DEFINITION. Planned copies (R88, R118 to R123, R470): what a copy reads and writes, when it is issued, and the pending bits it sets. -/

namespace Sys2Proof.Machine

/-- The physical cell of a logical cell of a run. -/
def Run.cellOf (r : Run) (lc : Nat) : Option CellId := (tget r.lcs lc).map (fun l => l.cell)

/-- The tenant of a run. -/
def State.runTenant (s : State) (n : Nat) : Tenant := (s.op n).elim 0#10 (fun o => o.tenant)

/-- A row of a copy: its memory-side address, its place in the copy, and how many of its bytes lie within the argument (R123). -/
structure CopyRow where
  addr : Nat
  off : Nat
  valid : Nat
deriving DecidableEq, Repr

/-- The index list of an indexed stream in a cell's scratch (R118, R119). -/
def indexList (x : Cell) (d : StreamD) : List Int :=
  (List.range d.indexCount).map (fun j => signedOf 32 (leNat (x.bytesAt (d.indexSlot % 1024 * 256 + 4 * j) 4)))

/-- The rows of a copy (R119, R123). -/
def State.copyRows (s : State) (r : Run) (c : CopyRec) : List CopyRow :=
  let d := imgStream (s.runImage r) c.stream
  let arg : Nat × Nat := if d.path = 4 ∨ d.path = 5 ∨ d.arg = 0xFF then (0, 0) else r.args.getD d.arg (0, 0)
  let idx : List Int := if d.indexed then ((r.cellOf c.lc).map (fun q => indexList (s.cell q) d)).getD [] else []
  (List.range (d.rows * d.dim2)).map (fun k =>
    let i1 : Int := if d.indexed then idx.getD (k % d.rows) 0 else (k % d.rows : Nat)
    let a := d.rowAddr arg.1 c.lc c.step i1 (k / d.rows)
    let cut : Bool := d.clamp && d.arg != 0xFF && decide (d.path ≤ 3 ∨ d.path = 6 ∨ d.path = 7)
    ⟨(a % (2 ^ 64 : Int)).toNat, k * d.dim0, if cut then (min (d.dim0 : Int) ((arg.1 + arg.2 : Nat) - a)).toNat else d.dim0⟩)

/-- The logical cells whose scratch a copy reaches: for a broadcast, those of the logical block that CELL_MASK names (R119); for path 8 the
destination (R118). -/
def copyTargets (b : List Byte) (d : StreamD) (lc : Nat) : List Nat :=
  let k := imgCells b
  if d.path = 8 then [lc / k * k + (lc % k ^^^ (d.offset % 16).toNat)]
  else if d.bcast then ((List.range k).filter (fun i => d.cellMask.testBit i)).map (fun i => lc / k * k + i)
  else [lc]

/-- The logical cells that a copy reaches: the one it is made again for, or every target that has not gone past its step (R54). -/
def Run.targets (r : Run) (b : List Byte) (c : CopyRec) : List Nat :=
  let d := imgStream b c.stream
  match c.only with
  | some t => [t]
  | none => (copyTargets b d c.lc).filter (fun t => d.sched != 0 || (match tget r.lcs t with
    | some l => !(decide (c.step < l.step) || (l.step == c.step && l.running))
    | none => true))

/-- A copy's data goes into scratch; into a region buffer; out of scratch; to memory. -/
def pathToScratch (p : Nat) : Bool := p == 0 || p == 2 || p == 4 || p == 8
def pathToRbuf (p : Nat) : Bool := p == 5 || p == 6
def pathFromScratch (p : Nat) : Bool := p == 1 || p == 3 || p == 5 || p == 8
def pathToMemory (p : Nat) : Bool := p == 1 || p == 3 || p == 7
def pathHost (p : Nat) : Bool := p == 2 || p == 3

/-- The region-buffer ranges a copy touches: paths 4 and 5 at its rows, paths 6 and 7 at its buffer. -/
def State.copyRbuf (s : State) (r : Run) (c : CopyRec) : List Range :=
  let d := imgStream (s.runImage r) c.stream
  if d.path = 4 ∨ d.path = 5 then (s.copyRows r c).map (fun w => (w.addr % 2 ^ 23, d.dim0))
  else if d.path = 6 ∨ d.path = 7 then [(d.buffer c.step, d.bytes)]
  else []

/-- The scratch range of a copy's buffer. -/
def State.copyBuffer (s : State) (r : Run) (c : CopyRec) : Range :=
  let d := imgStream (s.runImage r) c.stream
  (d.buffer c.step, d.bytes)

/-- The slots of n units that a range touches, as a mask of w bits. -/
def slotMask (w unit : Nat) (g : Range) : BitVec w :=
  if g.2 = 0 then 0 else BitVec.ofNat w ((2 ^ ((g.1 + g.2 - 1) / unit + 1) - 1) - (2 ^ (g.1 / unit) - 1))

/-- Set the pending bits of a run's cells and region buffers as its issued copies ask (R88, R100). -/
def State.fixPend (s : State) (n : Nat) : State :=
  match s.run n with
  | none => s
  | some r =>
    let b := s.runImage r
    let live := (tvals r.copies).filter (fun c => c.issued)
    let s1 := (tvals r.lcs).foldl (fun st l => st.setCell l.cell { st.cell l.cell with pend := 0#1024 }) s
    let s2 := live.foldl (fun st c =>
      if pathToScratch (imgStream b c.stream).path then
        (r.targets b c).foldl (fun st' t => match r.cellOf t with
          | some q => st'.setCell q { st'.cell q with pend := (st'.cell q).pend ||| slotMask 1024 256 (s.copyBuffer r c) }
          | none => st') st
      else st) s1
    let regions := ((tvals r.lcs).map (fun l => regionOfCell l.cell)).eraseDups
    let usesRbuf := (imgFlags b).testBit 2
    if !usesRbuf then s2
    else
      let s3 := regions.foldl (fun st g => st.setRbuf g { st.rbuf g with pend := 0#2048 }) s2
      live.foldl (fun st c => match r.cellOf c.lc with
        | some q =>
          if pathToRbuf (imgStream b c.stream).path then
            (s.copyRbuf r c).foldl (fun st' g => st'.setRbuf (regionOfCell q)
              { st'.rbuf (regionOfCell q) with pend := (st'.rbuf (regionOfCell q)).pend ||| slotMask 2048 4096 g }) st
          else st
        | none => st) s3

/-! Issue. -/

/-- The pages of host memory that a copy touches. -/
def State.copyPages (s : State) (r : Run) (c : CopyRec) : List Nat :=
  ((s.copyRows r c).flatMap (fun w => pagesOf w.addr w.valid)).eraseDups

/-- The parts of a byte range that lie in one 4 KiB page each. -/
def pageCuts : Nat → Nat → Nat → List (Nat × Nat)
  | 0, _, _ => []
  | f + 1, a, n =>
    if n = 0 then []
    else
      let k := min n (4096 - a % 4096)
      (a, k) :: pageCuts f (a + k) (n - k)

def cutsOf (a n : Nat) : List (Nat × Nat) := pageCuts (n / 4096 + 2) a n

/-- A pool address lies on this node. -/
def State.onNode (s : State) (a : Nat) : Bool := fgaNode (BitVec.ofNat 64 a) == s.rtr.nodeId

/-! Accesses outside the node and the engine's limit (R92). -/

/-- A copy as it falls due. -/
def newCopy (i lc step : Nat) (only : Option Nat) : CopyRec :=
  { stream := i, lc := lc, step := step, issued := false, got := [], out := none, only := only, todo := [] }

/-- The block whose engine serves an operation. -/
def State.opBlock (s : State) (n : Nat) : Option BlockId :=
  ((s.op n).bind (fun o => o.block)).or ((tget s.fab.rs n).bind (fun r => r.cells.head?.map blockOf))

/-- The block whose engine makes a request. -/
def State.reqBlock (s : State) (r : DevReq) : Option BlockId :=
  match r.owner with
  | .op n => s.opBlock n
  | .opRead n _ _ => s.opBlock n
  | .copy n k _ => (s.run n).bind (fun ru => ((tget ru.copies k).bind (fun c => ru.cellOf c.lc)).map blockOf)
  | _ => none

/-- The 256-byte reads or writes that a request stands for. -/
def DevReq.accesses (r : DevReq) : Nat :=
  (r.pkts.map (fun p => if p.opc = 0x80#8 then (p.aux.toNat % 128 + 3) / 4 else (p.payload.length + 15) / 16)).sum

/-- The 256-byte reads, or writes, that a block's engine has outstanding. -/
def State.engineLoad (s : State) (b : BlockId) (reads : Bool) : Nat :=
  ((s.rtr.reqs.filter (fun e => s.reqBlock e.2 == some b && (e.2.opc == 0x80#8) == reads)).map (fun e => e.2.accesses)).sum

/-- An engine holds at most 2,048 outstanding reads and 1,024 outstanding writes of 256 bytes. -/
def State.engineRoom (s : State) (b : Option BlockId) (p : OutPart) : Bool :=
  b.all (fun x => decide (s.engineLoad x p.data.isNone + (p.len + 255) / 256 ≤ if p.data.isNone then 2048 else 1024))

/-- Ask for a part: a request to the host at a physical address, or to the node of the pool address; whether it was issued. -/
def State.sendPart (s : State) (t : Tenant) (x : QPair) (p : OutPart) (pa : Nat) (owner : ReqOwner) : State × Bool :=
  let dst := if p.host then hostEp else fgaNode (BitVec.ofNat 64 p.addr)
  let a := if p.host then pa else p.addr
  let pkt : Packet := match p.data with
    | none => { pktBlank 0x80#8 with dst := dst, tenant := t, cls := x.cfg.cls, addr := BitVec.ofNat 64 a,
                                     aux := BitVec.ofNat 64 ((p.len + 63) / 64) }
    | some bs => smallWrite dst t x.cfg.cls a bs
  if p.host then ((s.issueVa x.cfg.port p.addr pkt vcReq owner).tallyBytes 4 t p.len, true) else s.issue dst none [pkt] vcReq owner

/-- The parts of a write outside the node. -/
def partsOut (host : Bool) (a : Nat) (bs : List Byte) : List OutPart :=
  (cutsOf a bs.length).map (fun g => ⟨host, 0, g.1, g.2, some ((bs.drop (g.1 - a)).take g.2)⟩)

/-- The parts of a read outside the node whose data goes to one place of its transfer. -/
def partsIn (host : Bool) (off a n : Nat) : List OutPart := (cutsOf a n).map (fun g => ⟨host, off + (g.1 - a), g.1, g.2, none⟩)

/-- A copy's engine asks for as many of its parts as it has room for; a page that no longer translates is translated again. -/
def State.feedCopy (s : State) (n k : Nat) : Nat → State
  | 0 => s
  | f + 1 =>
    match s.run n, s.op n with
    | some r, some o =>
      match tget r.copies k, s.qp o.qp with
      | some c, some x =>
        match c.todo, (r.cellOf c.lc).map blockOf with
        | p :: rest, some b =>
          if !s.engineRoom (some b) p then s
          else
            let s0 := s.setRun n { r with copies := tput r.copies k { c with todo := rest } }
            if p.host then
              match s.xltNow (some b) x.cfg.asid p.addr p.data.isSome with
              | some pa => (s0.sendPart o.tenant x p pa (.copy n k p.off)).1.feedCopy n k f
              | none =>
                let (ok, s1) := s.xltSet (some b) x.cfg.asid [p.addr / 4096 * 4096] p.data.isSome (.copySet n c.lc p.data.isNone)
                if ok then s1.feedCopy n k f else s1
            else
              let (s1, ok) := s0.sendPart o.tenant x p 0 (.copy n k p.off)
              if ok then s1.feedCopy n k f else s1.failCopy n k stUnreachable
        | _, _ => s
      | _, _ => s
    | _, _ => s

/-- Every copy of a run goes on as far as the engines have room. -/
def State.feedRun (s : State) (n : Nat) : State :=
  match s.run n with
  | none => s
  | some r => r.copies.foldl (fun st e => if e.2.todo.isEmpty then st else st.feedCopy n e.1 (2 * e.2.todo.length + 1)) s

/-- The physical address of a host virtual address by the pages the operation has had translated. -/
def OpRec.physical (o : OpRec) (va : Nat) (write : Bool) : Option Nat :=
  (tget o.pages (va / 4096 * 2 + if write then 1 else 0)).map (fun p => p + va % 4096)

/-- The engine of a built-in operation asks for as many of its parts as it has room for; an endpoint out of reach stops it. -/
def State.feedOp (s : State) (n : Nat) : Nat → Option Status × State
  | 0 => (none, s)
  | f + 1 =>
    match s.op n with
    | none => (none, s)
    | some o =>
      match o.todo, s.qp o.qp with
      | p :: rest, some x =>
        let owner : ReqOwner := if p.data.isNone then .opRead n p.host p.addr else .op n
        let pa : Option Nat := if p.host then o.physical p.addr p.data.isSome else some 0
        match pa with
        | none => (none, s)
        | some a =>
          if !s.engineRoom (s.opBlock n) p then (none, s)
          else
            let (s1, ok) := (s.modOp n (fun y => { y with todo := rest })).sendPart o.tenant x p a owner
            if ok then s1.feedOp n f else (some stUnreachable, s1.modOp n (fun y => { y with todo := [] }))
      | _, _ => (none, s)

/-- What a built-in operation has to ask for joins what waits already, and its engine goes on. -/
def State.askParts (s : State) (n : Nat) (parts : List OutPart) : Option Status × State :=
  let s1 := s.modOp n (fun y => { y with todo := y.todo ++ parts })
  s1.feedOp n (((s1.op n).map (fun y => y.todo.length)).getD 0 + 1)

/-- A request of an operation has ended, and its engine has room again. -/
def State.feedEnded (s : State) (n : Nat) : State :=
  match s.feedOp n (((s.op n).map (fun y => y.todo.length)).getD 0 + 1) with
  | (none, s1) => s1.settleOp n
  | (some st, s1) => s1.endOp n st

/-- A copy is issued: its reads of memory outside the node are asked for. -/
def State.startCopy (s : State) (n k : Nat) : State :=
  match s.run n with
  | none => s
  | some r => match tget r.copies k with
    | none => s
    | some c =>
      let d := imgStream (s.runImage r) c.stream
      let parts := if d.path = 0 ∨ d.path = 2 ∨ d.path = 6 then
          (s.copyRows r c).flatMap (fun w => if d.path ≠ 2 ∧ s.onNode w.addr then [] else partsIn (d.path == 2) w.off w.addr w.valid)
        else []
      (s.setRun n { r with copies := tput r.copies k { c with issued := true, todo := parts } }).feedCopy n k (2 * parts.length + 1)

/-- A copy may not be issued yet: AFTER_COMMIT waits for the step before the last (R122); a run that ends starts no more inbound copies. -/
def State.copyHeld (s : State) (n : Nat) (r : Run) (c : CopyRec) : Bool :=
  let d := imgStream (s.runImage r) c.stream
  (d.sched == 0 && d.afterCommit && decide (s.committedOf r + 1 < c.step)) ||
  (d.sched != 2 && ((s.op n).bind (fun o => o.ending)).isSome) ||
  (match r.cellOf c.lc with
   | some q => !s.cellOnline q
   | none => true)

/-- Issue a copy that is due, if it may be; host copies of one logical cell and direction are translated as one set (R470). -/
def State.issueCopy (s : State) (n k : Nat) : State :=
  match s.run n, s.op n with
  | some r, some o =>
    match tget r.copies k, s.qp o.qp with
    | some c, some x =>
      let d := imgStream (s.runImage r) c.stream
      if c.issued || s.copyHeld n r c then s
      else if !pathHost d.path then s.startCopy n k
      else match r.cellOf c.lc with
      | none => s
      | some q =>
        let set := r.copies.filter (fun e => e.2.lc == c.lc && !e.2.issued && e.2.step == c.step && !s.copyHeld n r e.2 &&
          (imgStream (s.runImage r) e.2.stream).path == d.path)
        let pages := (set.flatMap (fun e => s.copyPages r e.2)).eraseDups
        let (ok, s1) := s.xltSet (some (blockOf q)) x.cfg.asid pages (d.path == 3) (.copySet n c.lc (d.path == 2))
        if ok then set.foldl (fun st e => st.startCopy n e.1) s1 else s1
    | _, _ => s
  | _, _ => s

/-- Issue every copy of a run that may be issued, in stream-table order (R120), and set the pending bits. -/
def State.pumpRun (s : State) (n : Nat) : State :=
  match s.run n with
  | none => s
  | some r => if r.bound then ((r.copies.map Prod.fst).foldl (fun st k => st.issueCopy n k) (s.feedRun n)).fixPend n else s

/-- Issue what every run may issue. -/
def State.pumpAll (s : State) : State := (s.fab.runs.map Prod.fst).foldl (fun st n => st.pumpRun n) s

/-- A copy to memory is over when all it writes is written and acknowledged (R93, R139). -/
def State.finishCopy (s : State) (n k : Nat) : State :=
  match s.run n with
  | none => s
  | some r => match tget r.copies k with
    | none => s
    | some c =>
      let open_ : Bool := s.rtr.reqs.any (fun e => match e.2.owner with
        | .copy m j _ => m == n && j == k
        | _ => false)
      if c.out = some [] && c.todo.isEmpty && !open_ then
        (((s.setRun n { r with copies := tdel r.copies k }).settleRun n).pumpRun n)
      else s

end Sys2Proof.Machine
end

