-- ==== Sys2Proof/Machine/XltWalk.lean ====
section
/-! DEFINITION. How a page-table walk goes on and ends (R462 to R468, R475), and how a unit that waits on translation fails (R465,
R474). -/

namespace Sys2Proof.Machine

/-- The block whose DMA engine serves a logical cell of a run. -/
def State.lcBlock (s : State) (n lc : Nat) : Option BlockId :=
  match s.run n with
  | none => none
  | some r => (tget r.lcs lc).map (fun c => blockOf c.cell)

/-- A unit's access fails: a ring access moves the queue pair to ERROR with cause 3, a faulted argument read does so too, and the operation
it served ends with the status (R465, R474). -/
def State.unitFail (s : State) (u : XltUnit) (st : Status) : State :=
  let s1 := s.dropUnit u
  match u with
  | .ring q => s1.qpError q 3
  | .record q => (s1.skipRecord q).qpError q 3
  | .args q h => (if st = stHostMem then s1 else s1.qpError q 3).endDesc q h st 0#64
  | .result n =>
    let s2 : State := { s1 with mem := { s1.mem with scrubs := tdel s1.mem.scrubs n } }
    s2.stopOp n ((s2.op n).elim 0#8 (fun o => o.opcode)) st
  | .copySet n lc inb => match s1.run n with
    | none => s1
    | some r =>
      let gone (c : CopyRec) : Bool := c.lc == lc && (!c.issued || !c.todo.isEmpty) && (imgStream (s1.runImage r) c.stream).path == (if inb then 2 else 3)
      (s1.setRun n { r with copies := r.copies.filter (fun e => !gone e.2) }).endOp n st

/-- Start the walks that wait for a slot (R467), in order; one for a page whose walk is in flight waits for that walk. -/
def State.startWaiting (s : State) : Nat → State
  | 0 => s
  | f + 1 =>
    match s.xlt.waiting with
    | [] => s
    | w :: rest =>
      if 64 ≤ s.xlt.walks.length then s
      else
        let s1 : State := { s with xlt := { s.xlt with waiting := rest } }
        (match s1.xlt.walks.find? (fun (e : Nat × Walk) => e.2.onPage w.asid w.va) with
          | some (k, v) => { s1 with xlt := { s1.xlt with walks := tput s1.xlt.walks k (v.join w) } }
          | none => s1.beginWalk w).startWaiting f

/-- A walk has ended: its slot is free. -/
def State.endWalk (s : State) (n : Nat) : State :=
  { s with xlt := { s.xlt with walks := tdel s.xlt.walks n } }

/-- Copy sets that waited are translated again, and issued where every page now translates (R470). -/
def State.pumpUnits (s : State) (us : List XltUnit) : State :=
  us.foldl (fun st u => match u with
    | .copySet n _ _ => st.pumpRun n
    | _ => st) s

/-- The block whose TLB a unit's accesses use; none for the queue TLB. -/
def State.unitTlb (s : State) (u : XltUnit) : Option BlockId :=
  match u with
  | .copySet n lc _ => s.lcBlock n lc
  | _ => none

/-- A walk that has faulted: the units that wait for the walk's own kind of access take the fault (R471), and the others, which only waited
for the walk of the page, walk for themselves (R468). -/
def State.faultWalk (s : State) (w : Walk) (level entryAddr : Nat) (c : XltCause) : State :=
  (w.unitsOf !w.write).foldl (fun st u => st.askWalk (s.unitTlb u) w.asid w.va (!w.write) u)
    (s.raiseFor w w.write level entryAddr c)

/-- The TLBs that missed take a walk's entry, and so does the chip TLB (R467). -/
def State.fillAll (s : State) (w : Walk) (e : TlbEntry) : State :=
  ((w.block :: w.units.map s.unitTlb).eraseDups).foldl (fun st b => st.tlbFill b e) (s.chipFill e)

/-- A walk's read failed: the accesses that need it end (R465); a prefetch walk installs nothing. -/
def State.walkFail (s : State) (n : Nat) (st : Status) : State :=
  match tget s.xlt.walks n with
  | none => s
  | some w =>
    let s1 := s.endWalk n
    if w.stale then (s1.startWaiting 64).pumpUnits w.units
    else (w.units.foldl (fun x u => x.unitFail u st) s1).startWaiting 64

/-- A walk's read has returned an entry, or poison or a host memory error. -/
def State.walkReturn (s : State) (n : Nat) (entry : W64) (err : Bool) : State :=
  match tget s.xlt.walks n with
  | none => s
  | some w =>
    match s.space w.asid with
    | none => (s.endWalk n).startWaiting 64
    | some a =>
      let ea := a.entryAddr w.level w.pa w.va
      if err then
        let s1 := if w.prefetch || w.stale then s
          else s.raise (mkReport 0x07 0x02 0 (match w.block with
            | some b => unitBlock b
            | none => unitQueue) w.asid.toNat ea)
        s1.walkFail n stHostMem
      else match a.readEntry w.level w.write entry with
      | .next pa =>
        let w1 := { w with level := w.level + 1, pa := pa }
        let e : WalkCacheEntry := ⟨w.asid, w.level + 1, w.va / 2 ^ a.lo w.level, pa⟩
        let cache := if w.stale then s.xlt.walkCache else (e :: s.xlt.walkCache.filter (· != e)).take 1024
        ({ s with xlt := { s.xlt with walks := tput s.xlt.walks n w1, walkCache := cache } }).walkRead n w1 a
      | .leaf page size r wr d =>
        let e : TlbEntry := { asid := w.asid, vpage := w.va / 2 ^ size, size := size, ppage := page / 2 ^ size, r := r, w := wr, d := d }
        let s1 := s.endWalk n
        let s2 := if w.stale then s1 else if w.prefetch then s1.chipFill e else s1.fillAll w e
        (s2.startWaiting 64).pumpUnits w.units
      | .fault c =>
        let s1 := s.endWalk n
        if w.stale then (s1.startWaiting 64).pumpUnits w.units
        else (if w.prefetch then s1 else s1.faultWalk w w.level ea c).startWaiting 64

/-- The entry that the line of a walk's read holds. -/
def State.walkEntry (s : State) (n : Nat) (bs : List Byte) : W64 :=
  match tget s.xlt.walks n with
  | none => 0#64
  | some w => match s.space w.asid with
    | none => 0#64
    | some a => BitVec.ofNat 64 (fieldAt bs (a.entryAddr w.level w.pa w.va % 64) 8)

end Sys2Proof.Machine
end

