-- ==== Sys2Proof/Machine/ReqOps.lean ====
section
/-! DEFINITION. How the requests that the device issues end (R395, R397, R371, R449), and interrupts and notifications (R443, R444). -/

namespace Sys2Proof.Machine

/-- Tell the consumer of a completion ring (R443, R444): INTR when the queue pair has a vector; for a queue pair rung over the fabric,
an 8-byte write of the ring's next write entry and PHASE to NOTIFY_ADDR at DB_EP. -/
def State.signalQp (s : State) (q : Qp) : State :=
  match s.qp q with
  | none => s
  | some x =>
    let s1 := s.setQp q { x with intrDue := false }
    let s2 := if x.cfg.vector = 0xFFFF#16 then s1 else s1.interrupt (x.cfg.vector.extractLsb' 0 11)
    if x.cfg.dbFabric && x.cfg.notifyAddr != 0#64 then
      let v := natBytes 8 (x.cqNext + bitNat x.phase 16)
      (s2.issue x.cfg.dbEp none [smallWrite x.cfg.dbEp x.cfg.tenant x.cfg.cls x.cfg.notifyAddr.toNat v] vcReq .other).1.tally (ctrQue 4 0)
    else s2

/-- A record write is acknowledged or has failed; an interrupt that waits for it is sent (R432, R438, R443). -/
def State.recordAcked (s : State) (q : Qp) (intr : Bool) (st : Status) : State :=
  match s.qp q with
  | none => s
  | some x =>
    let s1 := s.setQp q { x with unacked := x.unacked - 1 }
    let s2 := if intr || (x.intrDue && decide (x.unacked ≤ 1)) then s1.signalQp q else s1
    if st = stOk then s2 else s2.qpError q 3

/-- The owner of a request learns how it ended. -/
def State.ownerEnd (s : State) (r : DevReq) (st : Status) : State :=
  match r.owner with
  | .op n => if st = stOk then s.feedEnded n else s.endOp n st
  | .opRead n host a =>
    if st ≠ stOk then s.endOp n st
    else if r.poisoned then s.endOp n stPoison
    else
      let part := r.got.map (fun g => (host, a + (g.1 - (r.pkts.head?.map (fun p => p.addr)).getD 0#64).toNat, payloadBytes g.2))
      (s.modOp n (fun o => { o with got := o.got ++ part })).feedEnded n
  | .record q intr => s.recordAcked q intr st
  | .adminRecord p intr => if intr then s.interrupt ((s.admin p).vector) else s
  | .faultRecord p =>
    let v := (mget FaultRing.reset s.xlt.rings p.val).vector
    if v = 0xFFFF#16 then s else s.interrupt (v.extractLsb' 0 11)
  | .notice e => if st = stOk then s else s.raise (mkReport 0x08 0x04 0 unitChip e.toNat 0)
  | .mbox p =>
    let m := mget Mbox.reset s.sec.mboxes p.val
    if m.intrEn then s.interrupt m.vector else s
  | .walk n =>
    if st ≠ stOk then s.walkFail n st
    else s.walkReturn n (s.walkEntry n (r.got.flatMap (fun g => payloadBytes g.2))) r.poisoned
  | .copy n c off =>
    if st ≠ stOk then s.failCopy n c st
    else if r.poisoned then s.failCopy n c stPoison
    else match s.run n with
    | none => s
    | some ru =>
      if r.opc = 0x80#8 then
        let part := r.got.map (fun g => (off + (g.1 - (r.pkts.head?.map (fun p => p.addr)).getD 0#64).toNat, payloadBytes g.2))
        (s.setRun n { ru with copies := tmod ru.copies c (fun x => { x with got := x.got ++ part }) }).feedRun n
      else (s.feedRun n).finishCopy n c
  | .other => s

/-- A request waiting for one to its destination to end is sent (R399). -/
def State.launchNext (s : State) (dst : Ep) : State :=
  match s.rtr.reqs.find? (fun e => !e.2.sent && e.2.dst == dst) with
  | some (n, r) => if 4096 ≤ s.outstanding dst then s else s.launch n r
  | none => s

/-- A request that the device issued ends with a status: its owner learns of it, and nothing more is awaited for it. -/
def State.reqDone (s : State) (k : Nat) (st : Status) : State :=
  match tget s.rtr.reqs k with
  | none => s
  | some r => ((({ s with rtr := { s.rtr with reqs := tdel s.rtr.reqs k } }).launchNext r.dst).ownerEnd r st)

/-- A request that the device issued ends without an answer, by link loss or timeout: a write, WR_LINE or atomic may or may not have taken effect
(OUTCOME_UNKNOWN, R371, R395). -/
def State.reqLost (s : State) (k : Nat) (st : Status) : State :=
  match tget s.rtr.reqs k with
  | none => s
  | some r => (s.emit (.requestLost r.dst r.tag st (r.opc == 0x81#8 || r.opc == 0x05#8 || r.opc == 0x06#8))).reqDone k st

/-- Issue a request whose owner learns at once when the endpoint is unreachable (R390). -/
def State.issueFor (s : State) (dst : Ep) (via : Option PlPort) (pkts : List Packet) (vc : Nat) (owner : ReqOwner) : State :=
  let (s1, ok) := s.issue dst via pkts vc owner
  if ok then s1
  else s1.ownerEnd { tag := 0#12, dst := dst, via := via, va := none, port := none, opc := (pkts.head?.map (fun p => p.opc)).getD 0#8, xfer := none,
                     pkts := pkts, vc := vc, sent := false, age := 0, retries := 0, owner := owner, got := [], poisoned := false }
    stUnreachable

/-- The status that an answer gives a request: over Phosha Link a status is a host memory error (R449), which is reported (R452). -/
def State.hostStatus (s : State) (r : DevReq) (st : Status) : Status × State :=
  if st = stOk then (stOk, s)
  else if r.via.isSome then
    let qp : Nat := match r.owner with
      | .record q _ => q.val
      | .op n => (s.op n).elim 0xFFFF (fun o => o.qp.val)
      | .opRead n _ _ => (s.op n).elim 0xFFFF (fun o => o.qp.val)
      | .copy n _ _ => (s.op n).elim 0xFFFF (fun o => o.qp.val)
      | _ => 0xFFFF
    (stHostMem, s.raise (mkReport 0x06 0x04 0 unitQueue qp ((r.pkts.head?.map (fun p => p.addr.toNat)).getD 0)))
  else (st, s)

/-! Multicast sends (R180). -/

/-- A packet or flit of an operation's multicast send is not yet acknowledged on a port. -/
def State.sendPending (s : State) (n : Nat) (p : LinkPort) : Bool :=
  let t := (s.link p).tx
  (mget [] s.rtr.txq p.val).any (fun q => q.mc == some n) || t.queues.any (fun e => e.2.any (fun k => k.mc == some n))
  || t.replay.any (fun c => c.mcs.contains n)

/-- Complete the multicast sends whose flits are all acknowledged on every port not lost (R150, R180). -/
def State.settleSends (s : State) : State :=
  s.fab.sends.foldl (fun st e =>
    if e.2.ports.any (fun p => !e.2.lost.contains p && st.sendPending e.1 p) then st
    else
      let code := ((st.op e.1).bind (fun o => o.ending)).getD (if e.2.lost.isEmpty then stOk else stLinkLost)
      let v : W64 := if code = stLinkLost then BitVec.ofNat 64 ((e.2.lost.map (fun p => 2 ^ p.val)).sum) else 0#64
      let block := ((st.op e.1).bind (fun o => o.block)).toList
      (({ st with fab := { st.fab with sends := tdel st.fab.sends e.1 } }).freeBlocks block).completeOp e.1 code v 0#16) s

/-- The request that a response answers: by TAG, or by XFER for a BULK write (R397). -/
def State.findReq (s : State) (src : Ep) (tag : BitVec 12) (xfer : Option (BitVec 16)) (arrival : LinkPort) : Option (Nat × DevReq) :=
  s.rtr.reqs.find? (fun e => e.2.sent && (match e.2.via with
      | some p => plPort p == arrival
      | none => e.2.dst == src) &&
    (match e.2.xfer with
      | some x => xfer == some x
      | none => e.2.tag == tag))

end Sys2Proof.Machine
end

