-- ==== Sys2Proof/Machine/PoolAccess.lean ====
section
/-! DEFINITION. Reads and writes of pool memory as a home agent slice serves them (R153 to R155, R273 to R275, R284): for engines of the
device, and for MEM_RD and MEM_WR packets. -/

namespace Sys2Proof.Machine

/-- A byte that memory outside this node returned; an address the operand does not list returned 0. -/
def ioByte (io : OutsideIo) (a : Nat) : Byte := ((io.data.find? (fun e => e.1 == a)).map (fun e => e.2)).getD 0#8

def ioBytes (io : OutsideIo) (a n : Nat) : List Byte := (List.range n).map (fun i => ioByte io (a + i))

/-- Nothing from outside. -/
def noIo : OutsideIo := ⟨[], none, []⟩

/-- The parts of a byte range that lie in one 4 KiB page each. -/
def pageParts : Nat → W64 → Nat → List (W64 × Nat)
  | 0, _, _ => []
  | f + 1, a, n =>
    if n = 0 then []
    else
      let k := min n (4096 - a.toNat % 4096)
      (a, k) :: pageParts f (a + BitVec.ofNat 64 k) (n - k)

def partsOf (a : W64) (n : Nat) : List (W64 × Nat) := pageParts (n / 4096 + 2) a n

/-- Where a part goes has to wait: a line of a coherent extent is busy (R316), or the snapshot engine holds it (R294, R296, R297). -/
def State.partBusy (s : State) (a : Access) (acc : Accepted) (n : Nat) : Bool :=
  if acc.kind = .coherent then
    (List.range ((acc.key % 64 + n + 63) / 64)).any (fun k => (s.txn (acc.line + k)).isSome)
  else match s.extent acc.ext, acc.vslot with
    | some x, some k => (match x.snap with
      | some sn => s.snapHolds a x sn k acc.leaf
      | none => false)
    | _, _ => false

/-- An access has to wait for something. -/
def State.poolBusy (s : State) (a : Access) (addr : W64) (n : Nat) : Bool :=
  (partsOf addr n).any (fun p => match s.extCheck a p.1 (fgaPpa addr + n) with
    | .ok acc => s.partBusy a acc p.2
    | .error _ => false)

/-- The extent check of every part: where each goes, or the first refusal. -/
def State.admitAll (s : State) (a : Access) (addr : W64) (n : Nat) : Except Status (List (Accepted × W64 × Nat)) × State :=
  (partsOf addr n).foldl (fun (r : Except Status (List (Accepted × W64 × Nat)) × State) p =>
    match r.1 with
    | .error _ => r
    | .ok l =>
      match r.2.takeAccess a p.1 (fgaPpa addr + n) with
      | (.error st, s1) => (.error st, s1)
      | (.ok acc, s1) => (.ok (l ++ [(acc, p.1, p.2)]), s1)) (.ok [], s)

/-- A read of part of one line of a coherent extent by an agent that keeps no copy (R154): a modified copy is snooped, and its data is
what the agent returned. -/
def State.cohReadLine (s : State) (line key off n : Nat) (fga : Nat) (io : OutsideIo) : List Byte × Bool × State :=
  let s1 := s.settleDead line
  match s1.dirLine line with
  | .m o => (ioBytes io (fga + off) n, false, s1.sendSnoop line (s1.agentEp o) 0x22#8 none)
  | _ =>
    let (bad, s2) := s1.readMem (key / 64) io.flips
    (s2.poolRead (key + off) n, bad, s2)

/-- Whole lines are read one after another (R250): which of them are returned as poison. -/
def State.readLines (s : State) (line n : Nat) (flips : List (Nat × List EccFlip)) : List Bool × State :=
  (List.range n).foldl (fun (r : List Bool × State) k =>
    let (b, s1) := r.2.readMem (line + k) flips
    (r.1 ++ [b], s1)) ([], s)

/-- Read one part: its bytes and which of its lines were poisoned. -/
def State.readPart (s : State) (acc : Accepted) (fga : W64) (n : Nat) (io : OutsideIo) : List Byte × List Bool × State :=
  let first := acc.key % 64
  let lines := (first + n + 63) / 64
  if acc.kind = .coherent then
    (List.range lines).foldl (fun (r : List Byte × List Bool × State) k =>
      let lo := if k = 0 then first else 0
      let hi := min 64 (first + n - 64 * k)
      let (bs, bad, s1) := r.2.2.cohReadLine (acc.line + k) (acc.key - first + 64 * k) lo (hi - lo) (fga.toNat - first + 64 * k) io
      (r.1 ++ bs, r.2.1 ++ [bad], s1)) ([], [], s)
  else
    let r := s.readLines (acc.key / 64) lines io.flips
    (r.2.poolRead acc.key n, r.1, r.2)

/-- Read n bytes of the pool for an endpoint and tenant: the bytes and which of the lines were poisoned, or the refusal. -/
def State.readPool (s : State) (a : Access) (t : Tenant) (addr : W64) (n : Nat) (io : OutsideIo) :
    Except Status (List Byte × List Bool) × State :=
  match s.admitAll a addr n with
  | (.error st, s1) => (.error st, s1)
  | (.ok parts, s1) =>
    let (bs, bad, s2) := parts.foldl (fun (r : List Byte × List Bool × State) p =>
      let (b, x, s') := r.2.2.readPart p.1 p.2.1 p.2.2 io
      (r.1 ++ b, r.2.1 ++ x, s')) ([], [], s1)
    (.ok (bs, bad), (s2.bump (ctrMem 4 0) (bad.filter id).length).tallyBytes 2 t n)

/-- Make every leaf under a write private to the write version (R296), and say where the parts then go. -/
def State.ownParts (s : State) (a : Access) (addr : W64) (n : Nat) (parts : List (Accepted × W64 × Nat)) :
    Except Status (List (Accepted × W64 × Nat)) × State :=
  parts.foldl (fun (r : Except Status (List (Accepted × W64 × Nat)) × State) p =>
    match r.1 with
    | .error _ => r
    | .ok l =>
      match r.2.ownLeaf p.1 with
      | .error st => (.error st, r.2.countRefusal st)
      | .ok s1 =>
        match s1.extCheck a p.2.1 (fgaPpa addr + n) with
        | .error st => (.error st, s1)
        | .ok acc => (.ok (l ++ [(acc, p.2)]), s1)) (.ok [], s)

/-- Before a write to a line of a coherent extent commits, every cached copy is invalidated (R154); a modified copy's data is what the
agent returned, and is stored first. -/
def State.cohTakeLine (s : State) (line fga : Nat) (io : OutsideIo) : State :=
  let s1 := s.settleDead line
  let d := s1.dirLine line
  let s2 := (s1.holders d none).foldl (fun st h => st.sendSnoop line (st.agentEp h) 0x20#8 none) s1
  let s3 := match d with
    | .m _ => s2.storeHome line allEnables (lineOfBytes (ioBytes io fga 64))
    | _ => s2
  s3.clearDir line

/-- Write one part. bad says which of its lines arrive poisoned. -/
def State.writePart (s : State) (acc : Accepted) (fga : W64) (bs : List Byte) (bad : List Bool) (io : OutsideIo) : State :=
  let first := acc.key % 64
  let lines := (first + bs.length + 63) / 64
  let s1 := if acc.kind = .coherent then
      (List.range lines).foldl (fun st k => st.cohTakeLine (acc.line + k) (fga.toNat - first + 64 * k) io) s
    else s
  (List.range lines).foldl (fun st k => if bad.getD k false then st.setPoison (acc.key / 64 + k) else st) (s1.poolWrite acc.key bs)

/-- Write bytes to the pool for an endpoint and tenant, or the refusal: nothing is then written. -/
def State.writePool (s : State) (a : Access) (t : Tenant) (addr : W64) (bs : List Byte) (bad : List Bool) (io : OutsideIo) :
    Except Status Unit × State :=
  match s.admitAll a addr bs.length with
  | (.error st, s1) => (.error st, s1)
  | (.ok parts, s1) =>
    match s1.ownParts a addr bs.length parts with
    | (.error st, s2) => (.error st, s2)
    | (.ok parts2, s2) =>
      let s3 := parts2.foldl (fun (st : State) p =>
        let off := (p.2.1 - addr).toNat
        st.writePart p.1 p.2.1 ((bs.drop off).take p.2.2) (bad.drop ((off + addr.toNat % 64) / 64)) io) s2
      (.ok (), s3.tallyBytes 3 t bs.length)

/-! Accesses of operations (R144). -/

/-- The stash target of an operation's queue pair (R328, R430). -/
def State.opStash (s : State) (o : OpRec) : Ep := (s.qp o.qp).elim 0x3FFF#14 (fun x => x.cfg.stashEp)

/-- The stash hint that an operation's write of a coherent line carries (R328). -/
def State.stashLine (s : State) (o : OpRec) (line : Nat) : State :=
  let target := s.opStash o
  match s.slotExtent (line * 64 / granBytes) with
  | some (e, x, _) =>
    if x.kind = .coherent ∧ target ≠ 0x3FFF#14 ∧ (s.txn line).isNone then
      let sl := ppaSlice (line * 64)
      (s.addAccepted e sl 1).stash line
        { ep := o.ep, pkt := { pktBlank 0x05#8 with src := o.ep, xfer := target.setWidth 16 }, port := s.activePl, ext := e, slice := sl,
          far := none, vslot := none }
    else s
  | none => s

def State.opRead (s : State) (o : OpRec) (addr : W64) (n : Nat) (io : OutsideIo) : Except Status (List Byte × List Bool) × State :=
  s.readPool (accRead o.ep (s.opAuth o)) o.tenant addr n io

/-- An operation's write of pool memory on this node, and its stash hints. -/
def State.opWrite (s : State) (o : OpRec) (addr : W64) (bs : List Byte) (io : OutsideIo) : Except Status Unit × State :=
  match s.writePool (accWrite o.ep (s.opAuth o)) o.tenant addr bs [] io with
  | (.error st, s1) => (.error st, s1)
  | (.ok u, s1) =>
    let first := fgaPpa addr / 64
    (.ok u, (List.range ((fgaPpa addr + bs.length + 63) / 64 - first)).foldl (fun st k => st.stashLine o (first + k)) s1)

def State.opReadBusy (s : State) (o : OpRec) (addr : W64) (n : Nat) : Bool := s.poolBusy (accRead o.ep (s.opAuth o)) addr n
def State.opWriteBusy (s : State) (o : OpRec) (addr : W64) (n : Nat) : Bool := s.poolBusy (accWrite o.ep (s.opAuth o)) addr n

/-! Packets. -/

/-- A write of a transfer has committed or been refused (R396, R397). -/
def State.settleXfer (s : State) (xid : Nat) (st : Status) : State :=
  { s with rtr := { s.rtr with xfers := tmap s.rtr.xfers (fun _ e =>
      if e.id = xid then { e with settled := e.settled + 1, status := if e.status = stOk then st else e.status } else e) } }

/-- Answer a MEM_WR: one of a counted transfer settles there; one on REQ is answered with WR_DONE by its own TAG and XFER; one whose
transfer is no longer open has no answer (R397, R398). -/
def State.wrSettled (s : State) (ip : InPkt) (st : Status) : State :=
  match ip.xid with
  | some x => s.settleXfer x st
  | none =>
    if ip.vc = vcReq then
      s.sendRsp { pktBlank 0x83#8 with dst := ip.pkt.src, tag := ip.pkt.tag, xfer := ip.pkt.xfer, tenant := ip.pkt.tenant,
                                       cls := ip.pkt.cls, addr := ip.pkt.addr, status := st } vcRsp ip.pkt.tag.toNat
    else s

/-- A MEM_WR packet at its slice: refused, or written. -/
def State.serveWr (s : State) (ip : InPkt) (passed : Bool) (vslot : Option Nat) (io : OutsideIo) : State :=
  let p := ip.pkt
  if s.tenantGone p.tenant && !passed then s.wrSettled ip stTenantGone
  else
    let bad := (List.range 64).map (fun i => p.aux.getLsbD i)
    match s.writePool { accWrite p.src ip.authList with passed := passed, vslot := vslot } p.tenant p.addr (payloadBytes p.payload) bad io with
    | (.error st, s1) => s1.wrSettled ip st
    | (.ok _, s1) => s1.wrSettled ip stOk

/-- The packets that answer a MEM_RD: one RD_DATA on RSP, or, where a packet may carry only 4,032 bytes (R504), a BULK transfer (DESIGN
CHOICE: log entry 45). -/
def State.answerRd (s : State) (p : Packet) (st : Status) (bs : List Byte) (bad : List Bool) : State :=
  let mask (l : List Bool) : W64 := BitVec.ofNat 64 (((List.range 64).map (fun i => bitNat (l.getD i false) i)).sum)
  let r : Packet := { pktBlank 0x82#8 with dst := p.src, tag := p.tag, tenant := p.tenant, cls := p.cls, addr := p.addr, status := st }
  let chunk := s.chunkOf p.tenant
  if bs.length ≤ chunk ∨ s.rtr.goneIn.any (fun g => g.2.1 == p.src && g.2.2 == p.tag.toNat) then s.sendRsp { r with payload := toUnits bs, aux := mask bad } vcRsp p.tag.toNat
  else
    let (x, s1) := s.takeXfer p.src.toNat
    let s2 := s1.send { r with payload := toUnits (bs.take chunk), aux := mask (bad.take (chunk / 64)), xfer := x } vcBulk
    s2.send { r with payload := toUnits (bs.drop chunk), aux := mask (bad.drop (chunk / 64)), xfer := x, last := true, pktCount := 2#16,
                        addr := p.addr + BitVec.ofNat 64 chunk } vcBulk

/-- A MEM_RD packet at its slice: refused, or answered with its data. -/
def State.serveRd (s : State) (ip : InPkt) (passed : Bool) (vslot : Option Nat) (io : OutsideIo) : State :=
  let p := ip.pkt
  if s.tenantGone p.tenant && !passed then s.answerRd p stTenantGone [] []
  else
    match s.readPool { accRead p.src ip.authList with passed := passed, vslot := vslot } p.tenant p.addr (64 * (p.aux.toNat % 128)) io with
    | (.error st, s1) => s1.answerRd p st [] []
    | (.ok (bs, bad), s1) => s1.answerRd p stOk bs bad

/-- Whether a packet that passes its check waits on the snapshot engine: the extent, slice and leaf, and whether it is directed to the new
write version (R294, R296, R297). -/
def State.snapWaitFor (s : State) (a : Access) (addr : W64) (n : Nat) : Option (Nat × Nat × Nat × Bool) :=
  (partsOf addr n).findSome? (fun p => match s.extCheck a p.1 (fgaPpa addr + n) with
    | .error _ => none
    | .ok acc => match s.extent acc.ext, acc.vslot with
      | some x, some k => match x.snap with
        | none => none
        | some sn =>
          if s.snapHolds a x sn k acc.leaf || ((a.needW || a.needA) && needsCopy sn k acc.leaf && (freeLeaf x sn).isSome) then
            some (acc.ext, acc.slice, acc.leaf, snapFind sn .write != some k)
          else none
      | _, _ => none)

/-- A packet joins those that wait on the snapshot engine, counted as accepted (R285). -/
def State.snapJoin (s : State) (e sl leaf : Nat) (ip : InPkt) (newVersion : Bool) : State :=
  match s.extent e with
  | none => s
  | some x => match x.snap with
    | none => s
    | some sn =>
      (s.setExtent e { x with snap := some { sn with waits := sn.waits ++ [⟨leaf, ip, newVersion⟩] } }).addAccepted e sl 1

/-- A controller cannot take a unit of a write now: its write structures are full or the line's closed merge-buffer entry has not issued; the
slice then holds the request back and does not acknowledge it (R229, R234, R236). -/
def State.ctrlHolds (s : State) (a : Access) (addr : W64) (n : Nat) : Bool :=
  (partsOf addr n).any (fun p => match s.extCheck a p.1 (fgaPpa addr + n) with
    | .error _ => false
    | .ok acc => (List.range ((acc.key % 64 + p.2 + 63) / 64)).any (fun k =>
      let line := acc.key / 64 + k
      let loc := dramLoc (line * 64 / granBytes) (line * 64 % granBytes)
      (s.chan loc.ch).place loc.addr (linePart line acc.key (List.replicate p.2 0#8)).1 == .held))

/-- A slice that a REQ packet would reach accepts none (R316). -/
def State.reqHeld (s : State) (ip : InPkt) (n : Nat) : Bool :=
  ip.vc == vcReq && (partsOf ip.pkt.addr n).any (fun q => s.sliceFull (ppaSlice (fgaPpa q.1)))

/-- A MEM_RD or MEM_WR at its slice: it waits on the snapshot engine, or is served. A busy line of a coherent extent leaves it where it
is: the second component says whether it was taken. -/
def State.servePkt (s : State) (ip : InPkt) (io : OutsideIo) : State × Bool :=
  let p := ip.pkt
  let write : Bool := p.opc == 0x81#8
  let a := if write then accWrite p.src ip.authList else accRead p.src ip.authList
  let n := if write then 16 * p.payload.length else 64 * (p.aux.toNat % 128)
  if s.reqHeld ip n then (s, false)
  else if s.tenantGone p.tenant then (if write then s.serveWr ip false none io else s.serveRd ip false none io, true)
  else match s.snapWaitFor a p.addr n with
  | some (e, sl, leaf, nv) => (match s.admitAll a p.addr n with
    | (.error st, s1) => (if write then s1.wrSettled ip st else s1.answerRd p st [] [], true)
    | (.ok _, s1) => (s1.snapJoin e sl leaf ip nv, true))
  | none =>
    if s.poolBusy a p.addr n || (write && s.ctrlHolds a p.addr n) then (s, false)
    else (if write then s.serveWr ip false none io else s.serveRd ip false none io, true)

end Sys2Proof.Machine
end

