-- ==== Sys2Proof/Machine/ReelLoad.lean ====
section
/-! DEFINITION. The reel loader: the checks of R130 (R104 to R109, R113 to R118, R126 to R128), loading and unloading (R130 to R134). -/

namespace Sys2Proof.Machine

/-! Statuses (R132). -/

def stReelHeader : Status := 0x40#8
def stReelLarge : Status := 0x41#8
def stReelSignature : Status := 0x42#8
def stReelSigner : Status := 0x43#8
def stReelFigure : Status := 0x44#8
def stReelStream : Status := 0x45#8
def stReelLayout : Status := 0x46#8
def stReelTile : Status := 0x47#8
def stReelCopy : Status := 0x48#8
def stReelPeriod : Status := 0x49#8
def stReelFull : Status := 0x4A#8
def stReelUnknown : Status := 0x50#8
def stReelTenant : Status := 0x51#8
def stReelArgs : Status := 0x52#8
def stReelPlace : Status := 0x53#8
def stReelUnloading : Status := 0x54#8

/-! Step 1: the header (R104, R105). -/

/-- Every byte of a range is 0. -/
def zeroRange (b : List Byte) (off n : Nat) : Bool := ((b.drop off).take n).all (· == 0#8)

def sigBytes : Nat := 4672

/-- The header's fields are as R104 and R105 require. -/
def headerOk (b : List Byte) : Bool :=
  let within (off n : Nat) : Bool := decide (256 ≤ off) && decide (off + n ≤ imgSigOff b)
  b.length == fieldAt b 8 4 && fieldAt b 0 4 == 0x4C455254 && fieldAt b 4 2 == 1 && fieldAt b 6 2 == 256 && decide (256 ≤ b.length) &&
  decide (b.length % 64 = 0) && decide (imgFlags b < 16) && decide (1 ≤ imgMinPeriod b) && decide (imgMinPeriod b ≤ 16) &&
  decide (1 ≤ imgFigCount b) && decide (1 ≤ imgStreamCount b) && decide (imgStreamCount b ≤ 256) && decide (1 ≤ imgCells b) &&
  decide (imgCells b ≤ 16) && decide (1 ≤ imgBlocks b) && decide (imgBlocks b ≤ 8) && decide (1 ≤ imgRegions b) &&
  decide (imgRegions b ≤ 8) && decide (imgArgCount b ≤ 32) && zeroRange b 0x25 3 && decide (imgScratchEnd b ≤ 0x3F800) &&
  decide (imgRbufEnd b ≤ 0x800000) && decide (imgInitBytes b % 64 = 0) && decide (imgInitScratch b % 64 = 0) &&
  decide (imgSigOff b % 64 = 0) && decide (b.length = imgSigOff b + sigBytes) && zeroRange b 0x58 168 &&
  within (imgFigOff b) (64 * imgFigCount b) && within (imgStreamOff b) (64 * imgStreamCount b) && within (imgArgOff b) (imgArgCount b) &&
  (imgInitBytes b == 0 || within (imgInitOff b) (imgInitBytes b)) &&
  (List.range (imgArgCount b)).all (fun i => decide (imgArgType b i ≤ 2))

/-! Step 2: the signature (R105, R106). -/

/-- An image's signature verifies under a key, and its padding is zero. -/
def signatureOk (k : List Byte) (b : List Byte) : Bool :=
  zeroRange b (imgSigOff b + 4627) 45 && Config.mldsaVerify k (sha3 (b.take (imgSigOff b))) ((b.drop (imgSigOff b)).take 4627)

/-- A key is the one that an image names as its signer. -/
def signs (b k : List Byte) : Bool := leNat ((sha3 k).take 8) == imgSigner b

/-- The status of a bad signature, by the tenant's enrolled keys. -/
def signatureCheck (keys : List (List Byte)) (b : List Byte) : Option Status :=
  if (imgFlags b).testBit 0 then some stReelSigner
  else match keys.find? (signs b) with
  | none => some stReelSigner
  | some k => if signatureOk k b then none else some stReelSignature

/-! Step 3: figures and streams. -/

/-- The vector registers a figure names lie within the 32 (R113). -/
def figRegsOk (f : Fig) : Bool :=
  let last (n : Nat) : Nat := if n = 0 then 0 else f.accReg (n - 1) + (if f.comp then 1 else 0)
  let w := if f.comp then 2 * f.param else f.param
  let usesSel (k : Nat) : Bool := f.ops.any (fun o => o.2 == k)
  if f.kind = 1 then
    if f.mode = 1 then decide (last (f.reps * f.param) < 32)
    else decide (last f.param < 32) && decide (f.acc + w + f.param * ((f.reps + 127) / 128) ≤ 32)
  else if f.kind = 2 then
    (!(f.mode.testBit 0 || f.ops.any (fun o => o.1 == 4)) || decide (last f.reps < 32)) &&
    (!(f.mode.testBit 1 || usesSel 4) || decide (f.param < 32))
  else if f.kind = 3 then decide (last f.reps < 32)
  else if f.kind = 4 then !f.aFromReg || decide (f.param + (f.len + 127) / 128 ≤ 32)
  else true

/-- A chain operation is known, and valid for the figure's operand format (R112). -/
def chainOpOk (f : Fig) (o : Nat × Nat) : Bool :=
  decide (o.1 ≤ 0x0E) &&
  (if o.1 = 0x0E then decide (o.2 % 16 ≤ 0xC) && decide (o.2 < 16) else decide (o.2 ≤ 5)) &&
  !(fmtInt f.fmtA && decide (9 ≤ o.1) && decide (o.1 ≤ 0xC))

/-- A figure passes the checks of step 3. -/
def figOk (b : List Byte) (f : Fig) : Bool :=
  decide (1 ≤ f.kind) && decide (f.kind ≤ 7) && arithOk f.arith && decide (f.fmtA ≤ 0xC) && decide (f.fmtB ≤ 0xC) && decide (f.fmtOut ≤ 0xC) &&
  decide (1 ≤ f.reps) && decide (f.reps ≤ 4096) && decide (f.bMode ≤ 2) && decide (f.flags < 4) && addrFieldOk f.aAddr && addrFieldOk f.bAddr &&
  (f.kind == 3 || addrFieldOk f.outAddr) && figRegsOk f &&
  (if f.kind = 1 then decide (f.mode ≤ 1) && decide (1 ≤ f.param) && decide (f.param ≤ 16)
   else if f.kind = 2 then decide (f.mode ≤ 3) && f.ops.all (chainOpOk f)
   else if f.kind = 3 then decide (f.param % 4 ≤ 2) && decide (f.reps ≤ 32) && decide (f.outAddr < 32) && !f.store
   else if f.kind = 5 then decide (f.len % 64 = 0)
   else if f.kind = 6 then
     (imgFlags b).testBit 3 && decide (f.param < imgArgCount b) && imgArgType b f.param == 1 && decide (f.const0.toNat % 8 ≤ 4) &&
     (f.fmtA == 0 || f.fmtA == 1 || f.fmtA == 12) && (f.fmtA == 12 || f.const0.toNat % 8 == 0)
   else if f.kind = 7 then decide (f.mode ≤ 2)
   else true)

/-- A stream passes the checks of step 3; what else its fields must satisfy to be carried out is checked with them (DESIGN CHOICE: log
entry 64). -/
def streamOk (b : List Byte) (raw : List Byte) : Bool :=
  let d := streamOf raw
  let m64 (x : Int) : Bool := decide (x % 64 = 0)
  let argNeed : Nat := if d.path ≤ 1 ∨ d.path = 6 ∨ d.path = 7 then 1 else if d.path = 2 ∨ d.path = 3 then 2 else 3
  decide (d.path ≤ 8) && decide (d.sched ≤ 2) && decide (d.addrMode ≤ 1) && decide (d.flags < 32) && zeroRange raw 3 1 && zeroRange raw 62 2 &&
  decide (0 < d.dim0) && decide (d.dim0 % 64 = 0) && decide (1 ≤ d.rows) && decide (1 ≤ d.dim2) && m64 d.stride1 && m64 d.stride2 &&
  m64 d.cellStride && m64 d.stepStride && (d.path == 8 || m64 d.offset) && decide (d.scr0 % 64 = 0) && decide (d.scr1 % 64 = 0) &&
  (d.arg == 0xFF || (argNeed != 3 && decide (d.arg < imgArgCount b) && imgArgType b d.arg == argNeed)) &&
  (!d.bcast || ((d.path == 0 || d.path == 2 || d.path == 4) && (List.range 16).any (fun i => d.cellMask.testBit i && decide (i < imgCells b)))) &&
  (!(pathHost d.path) || (imgFlags b).testBit 1) && (!(decide (4 ≤ d.path) && decide (d.path ≤ 7)) || (imgFlags b).testBit 2) &&
  (d.path != 8 || (List.range (imgCells b)).all (fun i => decide ((i ^^^ (d.offset % 16).toNat) < imgCells b))) &&
  (!(d.path == 6 || d.path == 7) || (decide (d.scr0 + d.bytes ≤ imgRbufEnd b) && (!d.double || decide (d.scr1 + d.bytes ≤ imgRbufEnd b))))

/-! Step 4: tile time, copy time, layout. -/

/-- TIDE_BUDGET at a period in µs (R30). -/
def tideBudget (us : Nat) : Nat := 1900 * us - 64

/-- The cost of a chain operation (R112). -/
def chainCost (op : Nat) : Nat := if op = 0 then 0 else if op = 4 then 2 else if 9 ≤ op ∧ op ≤ 0xC then 4 else 1

def ceilDiv (a n : Nat) : Nat := (a + n - 1) / n

/-- Core clocks charged for a figure (R109). -/
def figCharge (f : Fig) : Nat :=
  let slow : Bool := f.fmtA == 0 || f.fmtB == 0 || f.fmtA == 12 || f.fmtB == 12 || (f.fmtA == 1 && f.fmtB == 2) || (f.fmtA == 2 && f.fmtB == 1)
  let k := (if slow then 2 else 1) * (if arithComp f.arith then 2 else 1)
  let store : Nat := if f.mode.testBit 0 || !f.store || f.fmtOut == 0 then 0 else if fmtMx f.fmtOut then 2 else 1
  match f.kind with
  | 1 =>
    if f.mode = 1 then f.reps * f.param * ceilDiv f.len f.d * k + (if f.store then f.reps * f.param else 0) + 4
    else f.reps * f.param * max (ceilDiv f.len (128 * f.d) * k) 2 + (if f.store then ceilDiv (f.reps * f.param) 128 else 0) + 8
  | 2 => f.reps * f.len * ((f.ops.map (fun o => chainCost o.1)).sum + store)
  | 3 => 2 * f.reps + 8
  | 4 => f.reps * ceilDiv f.len 128 * (if fmtMx f.fmtOut then 2 else 1)
  | 5 => f.reps * f.len / 64 + ceilDiv f.reps 64
  | 6 => f.reps * (if f.fmtA = 1 then 2 else 1) + 512
  | _ => 2

/-- The tile time (R126). -/
def tileTime (b : List Byte) : Nat := 32 + ((imgFigs b).map (fun f => 8 + figCharge f)).sum

/-- Bytes that the streams of a schedule move for one block: a broadcast counts once (R119, R127). -/
def schedBytes (b : List Byte) (sched : Nat) : Nat :=
  (((imgStreams b).filter (fun d => d.sched == sched)).map (fun d => d.bytes * (if d.bcast then 1 else imgCells b))).sum

def copyTime (n : Nat) : Nat := ceilDiv n 512 + 256

/-- A copy time exceeds the budget (R127). -/
def copiesTooLong (b : List Byte) : Bool :=
  let budget := tideBudget (imgMinPeriod b)
  let first := imgCells b * (64 * imgFigCount b + imgInitBytes b) + schedBytes b 1 + schedBytes b 0
  decide (budget < copyTime (schedBytes b 0)) || decide (budget < copyTime (schedBytes b 2)) || decide (budget < 256 + copyTime first)

/-- The scratch operands of a figure: an address field and the ranges it names, its elements first. A GATHER's rows are known only from its
indices; of its A_ADDR the row of index 0 counts. -/
def figOperands (cx : FigCtx) (f : Fig) : List (Nat × List Range) :=
  let (_, nb, no) := f.counts
  (if f.kind = 1 ∨ ((f.kind = 2 ∨ f.kind = 4) ∧ !f.aFromReg) then [(f.aAddr, f.aRanges cx)]
   else if f.kind = 6 then [(f.aAddr, operandRanges cx 0 f.aAddr f.aStride f.reps 16 0)]
   else if f.kind = 5 then [(f.aAddr, [(cx.addr f.aAddr, f.len)])] else []) ++
  (if f.kind = 5 ∨ f.kind = 6 then [(f.bAddr, [(cx.addr f.bAddr, 4 * f.reps)])]
   else if f.usesB then [(f.bAddr, operandRanges cx f.fmtB f.bAddr f.bStride f.reps nb f.scaleOff)] else []) ++
  (if !f.stores then []
   else if f.kind = 5 then [(f.outAddr, [(cx.addr f.outAddr, (f.reps - 1) * f.outStride + f.len)])]
   else if f.kind = 1 ∧ f.mode ≠ 1 then [(f.outAddr, operandRanges cx f.fmtOut f.outAddr 0 1 (f.reps * f.param) f.scaleOff)]
   else [(f.outAddr, operandRanges cx f.fmtOut f.outAddr f.outStride f.reps no f.scaleOff)])

/-- A range lies within another. -/
def rangeIn (a w : Range) : Bool := decide (w.1 ≤ a.1) && decide (a.1 + a.2 ≤ w.1 + w.2)

/-- The buffers of a reel's streams in scratch, with the stream of each. -/
def streamBuffers (b : List Byte) : List Range :=
  (imgStreams b).flatMap (fun d => if !d.inScratch then [] else (d.scr0, d.bytes) :: (if d.double then [(d.scr1, d.bytes)] else []))

/-- No two ranges of a list share a byte. -/
def rangesApart : List Range → Bool
  | [] => true
  | a :: rest => rest.all (fun c => !rangesMeet a c) && rangesApart rest

/-- A figure's operands lie where R128 requires, in even and odd steps: a stream-relative address and the elements it names within its stream's
buffer, everything within the scratch that the reel uses. -/
def figLayoutOk (b : List Byte) (f : Fig) : Bool :=
  [0, 1].all (fun step =>
    let cx : FigCtx := { streams := imgStreams b, step := step, lc := 0, scratchEnd := imgScratchEnd b, seed := 0#64, tile := 0, reel := 0,
                         figIx := 0 }
    (figOperands cx f).all (fun o =>
      o.2.all (fun g => rangeIn g (0, imgScratchEnd b)) &&
      (decide (o.1 < 2 ^ 31) || (match (imgStreams b)[o.1 / 2 ^ 20 % 256]? with
        | some d => d.inScratch && (o.2.take 1).all (fun g => rangeIn g (d.buffer step, d.bytes))
        | none => false))))

/-- The layout of R128 holds. -/
def layoutOk (b : List Byte) : Bool :=
  let all : Range := (0, imgScratchEnd b)
  rangeIn (0, 64 * imgFigCount b) all && (imgInitBytes b == 0 || rangeIn (imgInitScratch b, imgInitBytes b) all) &&
  (streamBuffers b).all (fun g => rangeIn g all) && rangesApart ((0, 64 * imgFigCount b) :: streamBuffers b) &&
  (imgStreams b).all (fun d => !d.indexed || rangeIn (d.indexSlot * 256, 4 * d.indexCount) all) && (imgFigs b).all (figLayoutOk b)

/-! Loading (R130). -/

/-- Bytes of the reel store in use (R131). -/
def State.storeUsed (s : State) : Nat := ((tvals s.fab.reels).map (fun r => r.image.length)).sum

/-- Steps 3 to 5: the status of the first that fails. -/
def State.planCheck (s : State) (b : List Byte) : Option Status :=
  if !(imgFigs b).all (figOk b) then some stReelFigure
  else if !((List.range (imgStreamCount b)).map (imgStreamBytes b)).all (streamOk b) then some stReelStream
  else if tideBudget (imgMinPeriod b) < tileTime b then some stReelTile
  else if copiesTooLong b then some stReelCopy
  else if !layoutOk b then some stReelLayout
  else if s.periodUs < imgMinPeriod b ∨ s.tide.periodNext.any (fun n => decide (n.toNat + 1 < imgMinPeriod b)) then some stReelPeriod
  else none

/-- The checks of steps 1 to 5 on an image whose length the command gives: the status of the first that fails. -/
def State.loadCheck (s : State) (t : Tenant) (b : List Byte) : Option Status :=
  if !headerOk b then some stReelHeader
  else if 262144 < b.length then some stReelLarge
  else if 2 ^ 22 < s.storeUsed + b.length ∨ 128 ≤ s.fab.reels.length then some stReelFull
  else match signatureCheck (mget TenantRec.reset s.sec.tenants t.toNat).reelKeys b with
  | some st => some st
  | none => s.planCheck b

/-- Firmware loads a built-in reel: it verifies only under Dalpevar's reel-signing key, and counts against no limit of the store (R106, R130,
R131). -/
def State.builtinOk (s : State) (b : List Byte) : Bool :=
  headerOk b && decide (b.length ≤ 262144) && (imgFlags b).testBit 0 && signs b Config.builtinKey && signatureOk Config.builtinKey b &&
  (s.planCheck b).isNone

/-- Firmware loads the built-in reels at boot into its own area of the store. -/
def State.loadBuiltins (s : State) : State := { s with fab := { s.fab with builtin := Config.builtinReels.filter s.builtinOk } }

/-- Step 6: the image is stored under the lowest free handle. -/
def State.storeReel (s : State) (t : Tenant) (b : List Byte) : Nat × State :=
  let h := freeKey s.fab.reels 65536 0
  (h, { s with fab := { s.fab with reels := tput s.fab.reels h ⟨t, b, false, []⟩ } })

/-- REEL_LOAD over the admin queue; image holds the bytes the host returned. -/
def reelLoad (p : PlPort) (image : List Byte) (s : State) : State :=
  match s.adminHead p 0x62#8 with
  | none => s
  | some d =>
    let t : Tenant := d.extractLsb' 128 10
    let n := descField d 32 4
    if !descClean d [(16, 2), (24, 8), (32, 4)] ∨ 1024 ≤ descField d 16 2 then s.adminDone p stBadDesc 0#64
    else if descField d 24 8 % 64 ≠ 0 then s.adminDone p stAlign 0#64
    else if !s.tenantGranted p t then s.adminDone p stQueDenied 0#64
    else if s.tenantGone t then s.adminDone p stTenantGone 0#64
    else match s.loadCheck t (List.takeD n image 0#8) with
    | some st => s.adminDone p st 0#64
    | none =>
      let (h, s1) := s.storeReel t (List.takeD n image 0#8)
      s1.adminDone p stOk (BitVec.ofNat 64 h)

def execReelLoad (p : PlPort) (image : List Byte) (s : State) : Host.Outcome State Fault Refusal :=
  .next (s.quiet.whenLive (reelLoad p image))

/-- MGMT_REEL_LOAD: the image is read from an extent of the tenant, through the extent check, whose step 6 asks that the tenant own the extent
and that it not be SEALED; a refusal is the load's status. -/
def mgmtReelLoad (t : Tenant) (addr : W64) (bytes : W32) (s : State) : State :=
  let done (st : State) (r : Status) (h : Nat) : State := st.reply 0x60#8 r.toNat (natBytes 2 h)
  let acc : Access := { accRead s.rtr.nodeId [] with loader := some t }
  if addr.toNat % 64 ≠ 0 then done s stAlign 0
  else if s.tenantGone t then done s stTenantGone 0
  else if 262144 < bytes.toNat then done s stReelLarge 0
  else if s.poolBusy acc addr bytes.toNat then s
  else match s.readPool acc t addr bytes.toNat noIo with
  | (.error st, s1) => done s1 st 0
  | (.ok (b, bad), s1) =>
    if bad.any id then done s1 stPoison 0
    else match s1.loadCheck t b with
    | some st => done s1 st 0
    | none =>
      let (h, s2) := s1.storeReel t b
      done s2 stOk h

def execMgmtReelLoad (t : Tenant) (addr : W64) (bytes : W32) (s : State) : Host.Outcome State Fault Refusal :=
  .next (s.quiet.whenLive (mgmtReelLoad t addr bytes))

/-! Unloading (R133, R134). -/

/-- A reel refuses new launches from now on, and its unloader waits for its last run. -/
def State.unloadReel (s : State) (h : Nat) (w : Option UnloadWait) : State :=
  match s.reel h with
  | none => s
  | some r =>
    ({ s with fab := { s.fab with reels := tput s.fab.reels h { r with unloading := true, waiters := r.waiters ++ w.toList } } }).settleReel h

/-- REEL_UNLOAD over the admin queue. -/
def reelUnload (p : PlPort) (s : State) : State :=
  match s.adminHead p 0x63#8 with
  | none => s
  | some d =>
    if !descClean d [(16, 2)] then s.adminDone p stBadDesc 0#64
    else match s.reel (descField d 16 2) with
    | none => s.adminDone p stReelUnknown 0#64
    | some r =>
      if !s.tenantGranted p r.tenant then s.adminDone p stReelTenant 0#64
      else (s.adminBusy p).unloadReel (descField d 16 2) (some (.admin p (descCmd d) (descIntr d)))

def execReelUnload (p : PlPort) (s : State) : Host.Outcome State Fault Refusal := .next (s.quiet.whenLive (reelUnload p))

/-- MGMT_REEL_UNLOAD. -/
def mgmtReelUnload (handle : BitVec 16) (s : State) : State :=
  match s.reel handle.toNat with
  | none => s.reply 0x61#8 stReelUnknown.toNat []
  | some _ => s.unloadReel handle.toNat (some .mgmt)

def execMgmtReelUnload (handle : BitVec 16) (s : State) : Host.Outcome State Fault Refusal :=
  .next (s.quiet.whenLive (mgmtReelUnload handle))

end Sys2Proof.Machine
end

