-- ==== Sys2Proof/Machine/Runs.lean ====
section
/-! DEFINITION. Launching and admitting runs (R135 to R138, R124), tiles (R90, R113, R120, R129, R196 to R201) and planned copies
(R84, R88, R93, R118 to R123, R139). -/

namespace Sys2Proof.Machine

/-! Launch (R135, R136). -/

/-- The fields of a RUN_REEL descriptor. -/
def runHandle (d : Desc) : Nat := descField d 16 2
def runArgsHost (d : Desc) : Bool := d.getLsbD 152
def runSteps (d : Desc) : Nat := descField d 20 4
def runArgAddr (d : Desc) : W64 := d.extractLsb' 192 64
def runSeed (d : Desc) : W64 := d.extractLsb' 256 64
def runMask (d : Desc) : BitVec 8 := d.extractLsb' 320 8

/-- The argument entries that a block of bytes holds: VALUE and LENGTH. -/
def argEntries (n : Nat) (bs : List Byte) : List (Nat × Nat) := (List.range n).map (fun i => (fieldAt bs (16 * i) 8, fieldAt bs (16 * i + 8) 8))

/-- The logical cells that issue a stream: how many, and the first and the distance (R119, R127). -/
def streamCells (b : List Byte) (d : StreamD) : Nat × Nat × Nat :=
  if d.bcast then (imgBlocks b * imgRegions b, ((List.range 16).find? (fun i => d.cellMask.testBit i)).getD 0, imgCells b)
  else (imgAllCells b, 0, 1)

/-- The lowest memory-side byte of a stream over all cells and steps, counted from its base, and the byte after the highest (R136). The
indices of an indexed stream are not known at launch and count as 0 (DESIGN CHOICE: log entry 67). -/
def streamSpan (b : List Byte) (d : StreamD) (steps : Nat) : Int × Int :=
  let (n, c0, cd) := streamCells b d
  let s : Nat := if d.sched = 1 then 1 else steps
  let parts : List Int := [((n : Int) - 1) * cd * d.cellStride, ((s : Int) - 1) * d.stepStride,
                           (if d.indexed then 0 else ((d.dim1 : Int) - 1) * d.stride1), ((d.dim2 : Int) - 1) * d.stride2]
  let start : Int := d.offset + c0 * d.cellStride
  (start + (parts.map (fun x => min x 0)).sum, start + (parts.map (fun x => max x 0)).sum + d.dim0)

/-- The arguments fit the reel (R136): scalars have LENGTH 0, memory arguments are aligned, and every stream without CLAMP stays within its
argument, or within the part of the region buffer that the header declares. -/
def argsOk (b : List Byte) (steps : Nat) (args : List (Nat × Nat)) : Bool :=
  ((List.range (imgArgCount b)).all (fun i =>
    let a := args.getD i (0, 0)
    if imgArgType b i = 0 then a.2 == 0 else decide (a.1 % 64 = 0))) &&
  (imgStreams b).all (fun d =>
    let (lo, hi) := streamSpan b d steps
    if d.path = 4 ∨ d.path = 5 then decide (0 ≤ lo) && decide (hi ≤ imgRbufEnd b)
    else if d.path = 8 ∨ d.arg = 0xFF ∨ d.clamp then true
    else decide (0 ≤ lo) && decide (hi ≤ (args.getD d.arg (0, 0)).2))

/-! Placement (R124, R125, R143, R193). -/

/-- A block is bound to a run other than n. -/
def State.blockTaken (s : State) (n : Nat) (b : BlockId) : Bool :=
  s.fab.runs.any (fun e => e.1 != n && e.2.bound && (s.runBlocks e.2).contains b) ||
  s.fab.rs.any (fun e => e.1 != n && e.2.bound && e.2.regions.contains (regionOfBlock b)) ||
  s.que.ops.any (fun e => e.1 != n && e.2.block == some b)

/-- A block may run tiles at all: it is online and not a check block (R192). -/
def State.blockRuns (s : State) (b : BlockId) : Bool := s.blockOnline b && !s.ras.checkBlocks.contains b && !s.ras.leaving.contains b

/-- A block may be bound to run n now (R574: not while it holds a test slot). -/
def State.blockFree (s : State) (n : Nat) (b : BlockId) : Bool := s.blockRuns b && !s.blockTaken n b && !s.ras.isvSlots.contains b

def State.onlineCells (s : State) (b : BlockId) : Nat := ((List.finRange 16).filter (fun i => s.cellOnline (cellIn b i))).length

/-- A region is allowed by a REGION_MASK: 0 means all. -/
def maskAllows (m : BitVec 8) (g : RegionId) : Bool := m == 0#8 || m.getLsbD g.val

/-- The online fabric that a mask allows can hold a shape at all (R138). -/
def State.shapeFits (s : State) (cells blocks regions : Nat) (m : BitVec 8) : Bool :=
  decide (regions ≤ ((List.finRange 8).filter (fun g => maskAllows m g && decide (blocks ≤
    ((List.finRange 8).filter (fun i => s.blockRuns (blockIn g i) && decide (cells ≤ s.onlineCells (blockIn g i)))).length))).length)

/-- A block may be bound to run n at this boundary: it was not given up since (R138). -/
def State.blockNow (s : State) (n : Nat) (b : BlockId) : Bool := s.blockFree n b && !s.fab.freed.contains b

/-- No run but n holds a block of a region, nor did when the boundary came. -/
def State.regionNow (s : State) (n : Nat) (g : RegionId) : Bool :=
  (List.finRange 8).all (fun i => !s.blockTaken n (blockIn g i) && !s.fab.freed.contains (blockIn g i))

/-- A run's shape can be bound now (R124, R138). -/
def State.bindableRun (s : State) (n : Nat) (r : Run) : Bool :=
  let b := s.runImage r
  decide (imgRegions b ≤ ((List.finRange 8).filter (fun g =>
    maskAllows r.mask g && s.regionOnline g && (!(imgFlags b).testBit 2 || s.regionNow n g) &&
    decide (imgBlocks b ≤ ((List.finRange 8).filter (fun i =>
      s.blockNow n (blockIn g i) && decide (imgCells b ≤ s.onlineCells (blockIn g i)))).length))).length)

/-! What a REDUCE_SCATTER binds (R166). -/

def rsWindow (d : Desc) : Nat := descField d 58 1
def rsMask (d : Desc) : BitVec 8 := d.extractLsb' 504 8

/-- The regions a REDUCE_SCATTER binds: the lesser of W and the online regions its mask admits. -/
def State.rsRegions (s : State) (d : Desc) : Nat :=
  min (rsWindow d) ((List.finRange 8).filter (fun g => maskAllows (rsMask d) g && s.regionOnline g)).length

/-- A REDUCE_SCATTER can be bound now: enough whole free regions, each with a free cell. -/
def State.bindableRs (s : State) (n : Nat) (d : Desc) : Bool :=
  decide (0 < s.rsRegions d) && decide (s.rsRegions d ≤ ((List.finRange 8).filter (fun g =>
    maskAllows (rsMask d) g && s.regionOnline g && s.regionNow n g &&
    (List.finRange 8).any (fun i => s.blockNow n (blockIn g i) && decide (0 < s.onlineCells (blockIn g i))))).length)

/-- A run's shape fits. -/
def State.runFits (s : State) (r : Run) : Bool :=
  let b := s.runImage r
  s.shapeFits (imgCells b) (imgBlocks b) (imgRegions b) r.mask

/-- A list of cells, by logical cell, is a binding of the shape (R124). -/
def State.bindingOk (s : State) (n : Nat) (r : Run) (cells : List CellId) : Bool :=
  let b := s.runImage r
  let k := imgCells b
  let kb := k * imgBlocks b
  let at_ (i : Nat) : CellId := cells.getD i 0
  decide (cells.length = imgAllCells b) && decide (cells.eraseDups.length = cells.length) && cells.all (fun c => s.cellOnline c) &&
  (List.range cells.length).all (fun i =>
    let g := regionOfCell (at_ i)
    s.blockNow n (blockOf (at_ i)) && maskAllows r.mask g && s.regionOnline g && (!(imgFlags b).testBit 2 || s.regionNow n g) &&
    (List.range cells.length).all (fun j =>
      (decide (i / k = j / k) == decide (blockOf (at_ i) = blockOf (at_ j))) &&
      (decide (i / kb = j / kb) == decide (g = regionOfCell (at_ j)))))

/-! RUN_REEL. -/

/-- The checks of a RUN_REEL descriptor that come before its arguments are read. -/
def State.runCheck (s : State) (x : QPair) (d : Desc) : Option Status :=
  if !descClean d [(16, 2), (18, 1), (19, 1), (20, 4), (24, 8), (32, 8), (40, 1)] ∨ 1 < descField d 19 1 then some stBadDesc
  else if runSteps d = 0 ∨ 2 ^ 30 < runSteps d then some stBadLength
  else match s.reel (runHandle d) with
  | none => some stReelUnknown
  | some r =>
    if r.tenant ≠ x.cfg.tenant then some stReelTenant
    else if r.unloading then some stReelUnloading
    else if descField d 18 1 ≠ imgArgCount r.image then some stReelArgs
    else none

/-- The argument block: nothing while its translation is awaited, a refusal, or its bytes. host holds what memory outside the node
returned. -/
def State.readArgs (s : State) (q : Qp) (h : Nat) (x : QPair) (d : Desc) (n : Nat) (host : List Byte) :
    Option (Except Status (List Byte)) × State :=
  let a := runArgAddr d
  let acc := accRead x.cfg.ep (s.authOf x)
  if n = 0 then (some (.ok []), s)
  else if runArgsHost d then
    let (ok, s1) := s.xltSet none x.cfg.asid (pagesOf a.toNat n) false (.args q h)
    (if ok then some (.ok (List.takeD n host 0#8)) else none, s1)
  else if fgaNode a != s.rtr.nodeId then (some (.ok (List.takeD n host 0#8)), s)
  else if s.poolBusy acc a n then (none, s)
  else match s.readPool acc x.cfg.tenant a n ⟨(List.range n).map (fun i => (a.toNat + i, host.getD i 0#8)), none, []⟩ with
  | (.error st, s1) => (some (.error st), s1)
  | (.ok (bs, bad), s1) => (some (if bad.any id then .error stPoison else .ok bs), s1)

/-- RUN_REEL: the next descriptor of a queue pair is checked, and its run waits for admission. -/
def runReel (q : Qp) (h : Nat) (args : List Byte) (s : State) : State :=
  match s.nextIs q h 0x30#8 with
  | none => s
  | some (x, d) =>
    match s.runCheck x d.desc with
    | some st => s.endDesc q h st 0#64
    | none => match s.reel (runHandle d.desc) with
      | none => s
      | some r =>
        let n := imgArgCount r.image
        match s.readArgs q h x d.desc (16 * n) args with
        | (none, s1) => s1
        | (some (.error st), s1) => s1.endDesc q h st 0#64
        | (some (.ok bs), s1) =>
          let entries := argEntries n bs
          let run : Run := { reel := runHandle d.desc, args := entries, steps := runSteps d.desc, seed := runSeed d.desc, mask := runMask d.desc,
                             bound := false, lcs := [], copies := [], nextCopy := 0, committed := 0, overruns := 0, stalls := 0 }
          if !argsOk r.image run.steps entries then s1.endDesc q h stReelArgs 0#64
          else if !s1.runFits run then s1.endDesc q h stReelPlace 0#64
          else
            let (k, s2) := s1.newOp q h x d
            s2.setRun k run

def execRunReel (q : Qp) (h : Nat) (args : List Byte) (s : State) : Host.Outcome State Fault Refusal :=
  .next (s.quiet.whenLive (runReel q h args))

/-! Copies fall due (R120). -/

/-- The streams of a reel that a test selects and that logical cell lc issues, in stream-table order. -/
def dueStreams (b : List Byte) (lc : Nat) (sel : StreamD → Bool) : List Nat :=
  (List.range (imgStreamCount b)).filter (fun i =>
    let d := imgStream b i
    sel d && (!d.bcast || lc % imgCells b == ((List.range 16).find? (fun j => d.cellMask.testBit j)).getD 0))

/-- Copies of a step of a logical cell are due. -/
def Run.addCopies (r : Run) (streams : List Nat) (lc step : Nat) : Run :=
  streams.foldl (fun a i =>
    { a with copies := tput a.copies a.nextCopy (newCopy i lc step none), nextCopy := a.nextCopy + 1 }) r

/-- The prologue's copies: every ONCE copy and every INBOUND copy of step 0, stream by stream. -/
def Run.prologue (r : Run) (b : List Byte) (step : Nat) : Run :=
  (List.range (imgStreamCount b)).foldl (fun a i =>
    (r.lcs.map Prod.fst).foldl (fun a' lc =>
      if (dueStreams b lc (fun d => d.sched == 1 || d.sched == 0)).contains i then a'.addCopies [i] lc step else a') a) r

/-! Zeroing (R90, R100), the figure table and the initial data (R107, R138). -/

/-- A cell that serves another tenant than before is zeroed. -/
def zeroCell (x : Cell) (t : Tenant) : Cell :=
  if x.lastTenant = some t then x else x.zeroed (some t)

def State.zeroRbuf (s : State) (g : RegionId) (t : Tenant) : State :=
  let x := s.rbuf g
  if x.lastTenant = some t then s else s.setRbuf g { x with bytes := [], lastTenant := some t }

/-- A scratch with the reel's figure table and initial data in place. -/
def loadScratch (m : SMap Byte) (b : List Byte) : SMap Byte :=
  let m1 := putBytes m 0 ((b.drop (imgFigOff b)).take (64 * imgFigCount b))
  putBytes m1 (imgInitScratch b) ((b.drop (imgInitOff b)).take (imgInitBytes b))

/-- Bind a logical cell to a cell. -/
def State.bindCell (s : State) (n lc : Nat) (c : CellId) (t : Tenant) (b : List Byte) : State :=
  let x := zeroCell (s.cell c) t
  s.setCell c { x with scratch := loadScratch x.scratch b, occupant := some (n, lc), tile := none, status := 0#16 }

/-! RUN_ADMIT. -/

/-- An earlier run or REDUCE_SCATTER of the same queue pair waits (R138). -/
def State.heldBack (s : State) (n : Nat) (q : Qp) : Bool :=
  (s.fab.runs.any (fun e => decide (e.1 < n) && !e.2.bound && ((s.op e.1).map (fun o => o.qp)) == some q)) ||
  (s.fab.rs.any (fun e => decide (e.1 < n) && !e.2.bound && ((s.op e.1).map (fun o => o.qp)) == some q))

/-- A run or REDUCE_SCATTER that was submitted before operation n waits, is held back by none of its own queue pair, and can be bound now: it
goes first (R138). -/
def State.waitsAhead (s : State) (n : Nat) : Bool :=
  let free (m : Nat) : Bool := decide (m < n) && (s.op m).any (fun o => !s.heldBack m o.qp)
  s.fab.runs.any (fun e => free e.1 && !e.2.bound && s.bindableRun e.1 e.2) ||
  s.fab.rs.any (fun e => free e.1 && !e.2.bound && (s.op e.1).any (fun o => s.bindableRs e.1 o.desc))

/-- New runs and built-in operations are admitted: in phase READY only (R534, R556). -/
def State.admitting (s : State) : Bool := s.plt.phase == .ready

/-- A run of a reel is bound to cells and its prologue is issued. -/
def State.admitRun (s : State) (n : Nat) (r : Run) (o : OpRec) (cells : List CellId) : State :=
  let b := s.runImage r
  let s1 := s.giveCsn n
  let s2 := ((List.range cells.length).zip cells).foldl (fun st lc => st.bindCell n lc.1 lc.2 o.tenant b) s1
  let s3 := if (imgFlags b).testBit 2 then ((cells.map regionOfCell).eraseDups).foldl (fun st g => st.zeroRbuf g o.tenant) s2 else s2
  let lcs : SMap LCell := ((List.range cells.length).zip cells).map (fun lc =>
    (lc.1, { cell := lc.2, step := 0, running := false, armed := false, stalled := false, drawn := none, forced := false, saved := none }))
  (s3.setRun n (({ r with bound := true, lcs := lcs } : Run).prologue b 0)).pumpRun n

/-! Tiles. -/

/-- What a figure of a tile needs to know. -/
def State.tileCx (s : State) (r : Run) (t : Tile) : FigCtx :=
  let b := s.runImage r
  { streams := imgStreams b, step := t.step, lc := t.lc, scratchEnd := imgScratchEnd b, seed := r.seed, tile := t.step * imgAllCells b + t.lc,
    reel := r.reel, figIx := t.fig }

/-- Scratch ranges that the figures of a tile can read: its read footprint, the figure table included (R197). -/
def footprint (b : List Byte) (cx : FigCtx) : List Range := (0, 64 * imgFigCount b) :: (imgFigs b).flatMap (fun f => f.reads cx)

/-- Every ONCE copy and every INBOUND copy for a step has completed for a logical cell (R120). -/
def State.copiesReady (s : State) (r : Run) (lc step : Nat) : Bool :=
  let b := s.runImage r
  let pending := r.copies.any (fun e =>
    let d := imgStream b e.2.stream
    (d.sched == 1 || (d.sched == 0 && e.2.step == step)) && (r.targets b e.2).contains lc)
  let due := (imgStreams b).all (fun d =>
    if d.sched != 0 || !d.bcast || step == 0 || !d.cellMask.testBit (lc % imgCells b) then true
    else
      let low := lc / imgCells b * imgCells b + ((List.range 16).find? (fun j => d.cellMask.testBit j)).getD 0
      match tget r.lcs low with
      | some l => decide (step ≤ l.step) || (d.double && l.step + 1 == step && l.running)
      | none => true)
  !pending && due

/-- Scratch bytes of a logical cell that an outbound copy has still to read (R121). -/
def State.unreadRanges (s : State) (r : Run) (lc : Nat) (before : Nat) : List Range :=
  let b := s.runImage r
  ((tvals r.copies).filter (fun k => s.copyOut r k && k.out.isNone && decide (k.step < before) && k.lc == lc &&
    pathFromScratch (imgStream b k.stream).path)).map (fun k => s.copyBuffer r k)

/-- A check cell can take a footprint: it stands in an online check block, and no check has it (R199). -/
def State.checkCellFree (s : State) (c : CellId) : Bool :=
  s.ras.checkBlocks.contains (blockOf c) && s.cellOnline c &&
  !(s.ras.checks.any (fun e => e.2.checkCell == c || e.2.third == some c))

/-- A logical cell's tile waits for a check cell: the block counts one stall (R199). -/
def State.waitCheck (s : State) (n lc : Nat) (r : Run) (l : LCell) : State :=
  if l.drawn = some true then s
  else
    let r1 : Run := { r with lcs := tput r.lcs lc { l with drawn := some true, stalled := false }, stalls := r.stalls + 1 }
    (s.setRun n r1).tally (ctrReel 3 (blockOf l.cell).val)

/-- The cell takes on a logical cell: one that another logical cell of the run shares keeps that one's scratch aside (R125). -/
def State.takeCell (s : State) (n lc : Nat) (c : CellId) : State :=
  let x := s.cell c
  match x.occupant, s.run n with
  | some (m, j), some r =>
    if m = n ∧ j ≠ lc then
      let own := ((tget r.lcs lc).bind (fun l => l.saved)).getD []
      let lcs := tmod (tmod r.lcs j (fun l => { l with saved := some x.scratch })) lc (fun l => { l with saved := none })
      (s.setRun n { r with lcs := lcs }).setCell c { x with scratch := own, occupant := some (n, lc) }
    else s
  | _, _ => s

/-- The check of a tile, its footprint not copied yet (R197). -/
def State.newCheck (s : State) (t : Tile) (r : Run) (origin checkCell : CellId) : Check :=
  let b := s.runImage r
  { op := t.run, origin := origin, tile := BitVec.ofNat 40 (t.step * imgAllCells b + t.lc), checkCell := checkCell, third := none,
    src := ⟨b, r.reel, r.args, r.seed, t.step, t.lc, (s.cell origin).regFree⟩, copied := false, sigOrigin := none, sigCheck := none,
    originOut := false, residue := false }

/-- A tile starts. -/
def State.startTile (s : State) (n lc : Nat) (l : LCell) (check : Option CellId) : State :=
  let c := l.cell
  let s1 := (s.takeCell n lc c).zeroRbuf (regionOfCell c) (s.runTenant n)
  match s1.run n with
  | none => s
  | some r =>
    let b := s1.runImage r
    let k := s1.ras.nextCheck
    let x := s1.cell c
    let tile : Tile := { run := n, lc := lc, step := l.step, fig := 0, overran := false, check := check.map (fun _ => k), sig := (0#64, 0#64),
                         reqs := [], outstanding := 0, sent := false, stopped := false }
    let s2 := s1.setCell c { x with tile := some tile, status := 0#16 }
    let s3 : State := match check with
      | some cc =>
        { s2 with ras := { s2.ras with nextCheck := k + 1, checks := tput s2.ras.checks k (s2.newCheck tile r c cc) } }
      | none => s2
    let lcs := tmod r.lcs lc (fun y => { y with running := true, armed := false, stalled := false, drawn := none, forced := false })
    let r1 : Run := { r with lcs := lcs, stalls := r.stalls + (if l.stalled then 1 else 0) }
    let r2 := if l.step + 1 < r.steps then r1.addCopies (dueStreams b lc (fun d => d.sched == 0 && d.double)) lc (l.step + 1) else r1
    let s4 := s3.setRun n r2
    (if l.stalled then s4.tally (ctrReel 3 (blockOf c).val) else s4).pumpRun n

/-- The tile is selected for check (R196, R206). -/
def State.selected (s : State) (l : LCell) (drawn : Bool) : Bool :=
  l.forced || (match l.drawn with
    | some d => d
    | none => if s.ras.active = 0#3 then false else if s.ras.active = 4#3 then true else drawn)

/-- TILE_START: drawn is the generator's draw (R196), checkCell the check cell that takes the footprint. -/
def tileStart (n lc : Nat) (drawn : Bool) (checkCell : Option CellId) (s : State) : State :=
  match s.run n, s.op n with
  | some r, some o => match tget r.lcs lc with
    | none => s
    | some l =>
      let c := l.cell
      let b := s.runImage r
      let cx : FigCtx := { streams := imgStreams b, step := l.step, lc := lc, scratchEnd := imgScratchEnd b, seed := r.seed, tile := 0, reel := 0,
                           figIx := 0 }
      let writes := (imgFigs b).flatMap (fun f => f.writes cx)
      if !r.bound || o.ending.isSome || s.tenantGone o.tenant || l.running || !l.armed || decide (r.steps ≤ l.step) || !s.cellOnline c || !s.cellIssues c ||
          s.dbg.halted.contains (blockOf c) || (s.cell c).tile.isSome || !s.copiesReady r lc l.step ||
          (s.unreadRanges r lc l.step).any (fun g => writes.any (rangesMeet g)) then s
      else if s.selected l drawn then
        match checkCell with
        | some cc => if s.checkCellFree cc && blockOf cc != blockOf c then s.startTile n lc l (some cc) else s.waitCheck n lc r l
        | none => s.waitCheck n lc r l
      else s.startTile n lc l none
  | _, _ => s

def execTileStart (run lc : Nat) (drawn : Bool) (checkCell : Option CellId) (s : State) : Host.Outcome State Fault Refusal :=
  .next (s.quiet.whenLive (tileStart run lc drawn checkCell))

/-- The vector and scale registers are undefined from the end of a tile to what the next one writes (R113). -/
def State.freeRegs (s : State) (c : CellId) : State :=
  let (n, s1) := s.draw
  s1.setCell c { s1.cell c with regs := [], regFree := some n, scales := [], scaleFree := some n }

/-- A tile's signature, its status word included (R200). -/
def tileSig (t : Tile) (status : BitVec 16) : BitVec 128 :=
  let w := bytesOf status 2
  (crc64 0xAD93D23594C93659#64 t.sig.2 w) ++ (crc64 0x42F0E1EBA9EA3693#64 t.sig.1 w)

/-- TILE_FINISH: the last figure is done and every atomic request has returned (R116). -/
def tileFinish (c : CellId) (s : State) : State :=
  let x := s.cell c
  match x.tile with
  | none => s
  | some t => match s.run t.run with
    | none => s
    | some r =>
      let b := s.runImage r
      if t.stopped ∨ t.fig < imgFigCount b ∨ !t.reqs.isEmpty ∨ t.outstanding ≠ 0 ∨ !s.cellOnline c then s
      else
        let s1 := (s.setCell c { x with tile := none }).freeRegs c
        let ras := { s1.ras with
          marks := s1.ras.marks ++ [⟨t.run, c, 0⟩],
          checks := match t.check with
            | some k => tmod s1.ras.checks k (fun y => { y with sigOrigin := some (tileSig t x.status) })
            | none => s1.ras.checks }
        let s2 := ({ s1 with ras := ras }.modOp t.run (fun o => { o with tileStatus := o.tileStatus ||| x.status }))
        let ending := ((s2.op t.run).bind (fun o => o.ending)).isSome
        let lcs := tmod r.lcs t.lc (fun l => { l with running := false, step := t.step + 1, armed := t.overran, stalled := false })
        let r1 : Run := { r with lcs := lcs, overruns := r.overruns + (if t.overran then 1 else 0) }
        let r2 := r1.addCopies (dueStreams b t.lc (fun d => d.sched == 2)) t.lc t.step
        let r3 := if t.step + 1 < r.steps ∧ !ending then r2.addCopies (dueStreams b t.lc (fun d => d.sched == 0 && !d.double)) t.lc (t.step + 1)
          else r2
        let s3 := (s2.setRun t.run r3).tally (ctrTen 1 (s2.runTenant t.run).toNat)
        let s4 := if t.overran then s3.tally (ctrReel 2 (blockOf c).val) else s3
        ((s4.pumpRun t.run).settleRun t.run).pumpRun t.run

def execTileFinish (c : CellId) (s : State) : Host.Outcome State Fault Refusal := .next (s.quiet.whenLive (tileFinish c))

/-! Copies complete. -/

/-- The bytes that a copy's reads outside the node have returned, from one place in the copy on. -/
def gotBytes (got : List (Nat × List Byte)) (off n : Nat) : List Byte :=
  (List.range n).map (fun i => ((got.find? (fun g => decide (g.1 ≤ off + i) && decide (off + i < g.1 + g.2.length))).map
    (fun g => g.2.getD (off + i - g.1) 0#8)).getD 0#8)

/-- The memory-side data of an inbound copy, row by row, with zeros where CLAMP cuts; or the status that ends it. -/
def State.copyInData (s : State) (o : OpRec) (d : StreamD) (c : CopyRec) (rows : List CopyRow) (io : OutsideIo) :
    Except Status (List Byte) × State :=
  rows.foldl (fun (a : Except Status (List Byte) × State) w =>
    match a.1 with
    | .error _ => a
    | .ok bs =>
      let pad (x : List Byte) : List Byte := bs ++ List.takeD d.dim0 x 0#8
      if d.path = 2 ∨ !a.2.onNode w.addr then (.ok (pad (gotBytes c.got w.off w.valid)), a.2)
      else if w.valid = 0 then (.ok (pad []), a.2)
      else match a.2.opRead o (BitVec.ofNat 64 w.addr) w.valid io with
      | (.error st, s1) => (.error st, s1)
      | (.ok (x, bad), s1) => if bad.any id then (.error stPoison, s1) else (.ok (pad x), s1)) (.ok [], s)

/-- The runs of bytes that a row's write changes, byte enables applied (R118 BYTE_ENABLE). -/
def enabledRuns (d : StreamD) (a : Nat) (bs : List Byte) : List (Nat × List Byte) :=
  if !d.byteEn then (if bs.isEmpty then [] else [(a, bs)])
  else (List.range ((bs.length + 3) / 4)).filterMap (fun k =>
    if d.byteEnable.testBit (k % 16) then some (a + 4 * k, (bs.drop (4 * k)).take 4) else none)

/-- Put bytes at consecutive addresses of a byte map whose addresses wrap at w. -/
def putWrapped (m : SMap Byte) (w a : Nat) (bs : List Byte) : SMap Byte :=
  ((List.range bs.length).zip bs).foldl (fun acc ib => mset 0 acc ((a + ib.1) % w) ib.2) m

def getWrapped (m : SMap Byte) (w a n : Nat) : List Byte := (List.range n).map (fun i => mget 0 m ((a + i) % w))

/-- The scratch of logical cell lc of run n: its cell's, or what was kept aside while another logical cell has that cell (R125). -/
def State.scratchOf (s : State) (n : Nat) (r : Run) (lc : Nat) (q : CellId) : SMap Byte :=
  let x := s.cell q
  if x.occupant = some (n, lc) then x.scratch else (((tget r.lcs lc).bind (fun l => l.saved)).getD x.scratch)

/-- A copy reads its source on the fabric side: scratch or the region buffer. -/
def State.copySource (s : State) (n : Nat) (r : Run) (c : CopyRec) (q : CellId) : List Byte :=
  let d := imgStream (s.runImage r) c.stream
  if pathFromScratch d.path then getWrapped (s.scratchOf n r c.lc q) scratchBytes (d.buffer c.step) d.bytes
  else if d.path = 4 then (s.copyRows r c).flatMap (fun w => getWrapped (s.rbuf (regionOfCell q)).bytes (2 ^ 23) w.addr d.dim0)
  else getWrapped (s.rbuf (regionOfCell q)).bytes (2 ^ 23) (d.buffer c.step) d.bytes

/-- A copy writes its destination on the fabric side. A logical cell whose cell another one holds has its scratch kept aside. -/
def State.copyDest (s : State) (n : Nat) (r : Run) (c : CopyRec) (q : CellId) (bs : List Byte) : State :=
  let b := s.runImage r
  let d := imgStream b c.stream
  if pathToScratch d.path then
    (r.targets b c).foldl (fun st t => match st.run n with
      | none => st
      | some r' => match tget r'.lcs t with
        | none => st
        | some l =>
          let x := st.cell l.cell
          if x.occupant = some (n, t) ∨ l.saved.isNone then st.setCell l.cell { x with scratch := putWrapped x.scratch scratchBytes (d.buffer c.step) bs }
          else st.setRun n { r' with lcs := tput r'.lcs t { l with saved := l.saved.map (fun m => putWrapped m scratchBytes (d.buffer c.step) bs) } }) s
  else
    let g := regionOfCell q
    let x := s.rbuf g
    if d.path = 6 then s.setRbuf g { x with bytes := putWrapped x.bytes (2 ^ 23) (d.buffer c.step) bs }
    else s.setRbuf g { x with bytes := ((s.copyRows r c)).foldl (fun m w => putWrapped m (2 ^ 23) w.addr ((bs.drop w.off).take d.dim0)) x.bytes }

/-- Two ranges touch one slot or segment of a unit's size. -/
def unitsMeet (unit : Nat) (a b : Range) : Bool :=
  decide (0 < a.2) && decide (0 < b.2) && decide (a.1 / unit ≤ (b.1 + b.2 - 1) / unit) && decide (b.1 / unit ≤ (a.1 + a.2 - 1) / unit)

/-- A copy has to wait for another: one that writes an inbound buffer for the outbound copies that still read it (R121) and, when it
serves several cells, for those that have not finished with it; a read or write of bytes that an earlier copy has still to write, for
that copy, and of any byte of a slot or segment that an issued one has pending (R88, R100). -/
def State.copyBlocked (s : State) (r : Run) (k : Nat) (c : CopyRec) (q : CellId) : Bool :=
  let b := s.runImage r
  let d := imgStream b c.stream
  let own := s.copyBuffer r c
  let early := r.copies.filter (fun e => decide (e.1 < k))
  let toScratch := pathToScratch d.path
  let targets := if toScratch then r.targets b c else [c.lc]
  let rb := s.copyRbuf r c
  (toScratch && targets.any (fun t => match tget r.lcs t with
    | some l => (s.unreadRanges r t c.step).any (rangesMeet own) ||
        (d.sched == 0 && decide (l.step + (if d.double then 1 else 0) < c.step))
    | none => false)) ||
  early.any (fun e =>
    let d' := imgStream b e.2.stream
    let meet (unit : Nat) (x y : Range) : Bool := if e.2.issued then unitsMeet unit x y else rangesMeet x y
    (pathToScratch d'.path && (toScratch || pathFromScratch d.path) && meet 256 (s.copyBuffer r e.2) own &&
      (r.targets b e.2).any (fun t => if toScratch then targets.contains t else t == c.lc)) ||
    (pathToRbuf d'.path && (r.cellOf e.2.lc).map regionOfCell == some (regionOfCell q) &&
      (s.copyRbuf r e.2).any (fun g => rb.any (meet 4096 g))))

/-- The copy touches memory of this node that is busy. -/
def State.copyBusy (s : State) (o : OpRec) (d : StreamD) (rows : List CopyRow) : Bool :=
  (d.path == 0 || d.path == 6) && rows.any (fun w => s.onNode w.addr && decide (0 < w.valid) && s.opReadBusy o (BitVec.ofNat 64 w.addr) w.valid)

/-- A request of a copy is outstanding. -/
def State.copyOpen (s : State) (n k : Nat) : Bool := s.rtr.reqs.any (fun e => match e.2.owner with
  | .copy m j _ => m == n && j == k
  | _ => false)

/-- An inbound copy, or one within the fabric, completes. -/
def State.copyIn (s : State) (n k : Nat) (r : Run) (o : OpRec) (c : CopyRec) (q : CellId) (io : OutsideIo) : State :=
  let d := imgStream (s.runImage r) c.stream
  let fromMem : Bool := d.path == 0 || d.path == 2 || d.path == 6
  match if fromMem then s.copyInData o d c (s.copyRows r c) io else (.ok (s.copySource n r c q), s) with
  | (.error st, s1) => s1.failCopy n k st
  | (.ok bs, s1) =>
    let s2 := s1.copyDest n r c q bs
    match s2.run n with
    | none => s2
    | some r2 => (((s2.setRun n { r2 with copies := tdel r2.copies k }).settleRun n).pumpRun n)

/-- A copy to memory has read its last byte: what lies outside the node is sent, the rest waits for its home agent slice. -/
def State.copyOutRead (s : State) (n k : Nat) (r : Run) (c : CopyRec) (q : CellId) : State :=
  let d := imgStream (s.runImage r) c.stream
  let bs := s.copySource n r c q
  let runs := (s.copyRows r c).flatMap (fun w => enabledRuns d w.addr ((bs.drop w.off).take w.valid))
  let mine := if d.path = 3 then [] else runs.filter (fun w => s.onNode w.1)
  let away := if d.path = 3 then runs else runs.filter (fun w => !s.onNode w.1)
  let parts := away.flatMap (fun w => partsOut (d.path == 3) w.1 w.2)
  let s1 := s.setRun n { r with copies := tput r.copies k { c with out := some mine, todo := parts } }
  ((s1.feedCopy n k (2 * parts.length + 1)).pumpRun n).finishCopy n k

/-- STREAM_COPY_DONE: a planned copy completes; ce single-bit errors were corrected on the way (R89, R98). -/
def streamCopyDone (n k : Nat) (io : OutsideIo) (ce : Nat) (s : State) : State :=
  match s.run n, s.op n with
  | some r, some o => match tget r.copies k, s.qp o.qp with
    | some c, some _ => match r.cellOf c.lc with
      | none => s
      | some q =>
        let d := imgStream (s.runImage r) c.stream
        if !c.issued || c.out.isSome || !c.todo.isEmpty || !s.cellOnline q || !s.cellIssues q || s.copyOpen n k || s.copyBlocked r k c q || s.copyBusy o d (s.copyRows r c) then s
        else
          let s1 := if pathFromScratch d.path || d.indexed then s.bump (ctrReel 0 (blockOf q).val) ce
            else if d.path = 4 ∨ d.path = 7 then s.bump (ctrReel 1 (regionOfCell q).val) ce else s
          if pathToMemory d.path then s1.copyOutRead n k r c q else s1.copyIn n k r o c q io
    | _, _ => s
  | _, _ => s

def execStreamCopyDone (run copy : Nat) (io : OutsideIo) (ce : Nat) (s : State) : Host.Outcome State Fault Refusal :=
  .next (s.quiet.whenLive (streamCopyDone run copy io ce))

/-- DMA_WRITE_COMMIT: the home agent slices accept and acknowledge a copy's writes to memory of this node, or refuse one. -/
def dmaWriteCommit (n k : Nat) (io : OutsideIo) (s : State) : State :=
  match s.run n, s.op n with
  | some r, some o => match tget r.copies k with
    | none => s
    | some c => match c.out, r.cellOf c.lc with
      | some (w :: ws), some q =>
        let runs := w :: ws
        if !s.cellOnline q || !s.cellIssues q || runs.any (fun g => s.opWriteBusy o (BitVec.ofNat 64 g.1) g.2.length) then s
        else
          let (bad, s1) := runs.foldl (fun (a : Option Status × State) g =>
            match a.1 with
            | some _ => a
            | none => match a.2.opWrite o (BitVec.ofNat 64 g.1) g.2 io with
              | (.error st, t) => (some st, t)
              | (.ok _, t) => (none, t)) (none, s)
          match bad with
          | some st => s1.failCopy n k st
          | none => (s1.setRun n { r with copies := tput r.copies k { c with out := some [] } }).finishCopy n k
      | _, _ => s
  | _, _ => s

def execDmaWriteCommit (run copy : Nat) (io : OutsideIo) (s : State) : Host.Outcome State Fault Refusal :=
  .next (s.quiet.whenLive (dmaWriteCommit run copy io))

end Sys2Proof.Machine
end

