-- ==== Sys2Proof/Machine/Atomics.lean ====
section
/-! DEFINITION. The block atomic units (R94 to R97, R116, R208, R327): requests of cells and of home agent slices, and the commit of a run
of requests to one line. -/

namespace Sys2Proof.Machine

/-- The requests a unit holds, in order of receipt. -/
def State.atomQueue (s : State) (b : BlockId) : List AtomEntry := mget [] s.fab.units b.val

def State.setUnitQueue (s : State) (b : BlockId) (l : List AtomEntry) : State :=
  { s with fab := { s.fab with units := mset [] s.fab.units b.val l } }

/-- The block whose unit serves a near atomic on a line: the one R97 names, else the next that the slices have not left out. -/
def State.nearBlock (s : State) (line : Nat) : Option Nat :=
  ((List.range 64).map (fun i => (atomTarget (line * 64) + i) % 64)).find? (fun b => !(s.fab.atomOff.any (fun o => o.val == b)))

/-- Requests of a line's run that stand at a unit. -/
def State.atUnits (s : State) (line : BitVec 34) : Nat :=
  ((s.fab.units.flatMap (fun e => e.2)).filter (fun e => e.sender == .home line)).length

/-- A request of a run of near atomics is answered, unless its agent has died, and retires (R312, R331). -/
def State.answerNear (s : State) (r : CReq) (st : Status) (data : Option (Line × Bool)) : State :=
  (if s.fromDead r.ep then s else s.answer r.pkt r.ep 0x49#8 st false data).retire r

/-- The near atomics that join the next run of a line: the leading ATOMICs of the conflict queue that are decided near; the first decided
far keeps its decision at the head of the queue (R327). -/
def State.gatherNear (s : State) (line : Nat) : Nat → List CReq × State
  | 0 => ([], s)
  | fuel + 1 =>
    match mget [] s.coh.queues line with
    | [] => ([], s)
    | r :: rest =>
      if r.pkt.opc ≠ 0x06#8 ∨ r.far = some true then ([], s)
      else
        let coherent : Bool := match s.homeLine line with
          | some (_, x, _) => x.kind == .coherent
          | none => true
        let (far, s1) := match r.far, coherent with
          | some f, _ => (f, s)
          | none, true => s.decideAtomic line r (!rest.isEmpty)
          | none, false => (false, s)
        let queued (l : List CReq) (st : State) : State := { st with coh := { st.coh with queues := mset [] st.coh.queues line l } }
        if far then ([], queued ({ r with far := some true } :: rest) s1)
        else
          let s2 := queued rest (if coherent then s1.tally (ctrCoh 4) else s1)
          let (more, s3) := s2.gatherNear line fuel
          ({ r with far := some false } :: more, s3)

/-- A line's run of near atomics has returned: the next run is gathered, or the line is free. -/
def State.nextNear (s : State) (line : Nat) : State :=
  let (rs, s1) := s.gatherNear line (mget [] s.coh.queues line).length
  match rs with
  | [] => s1.delTxn line
  | r :: _ => s1.setTxn line { kind := .request r, phase := .nearRun, snoops := [], data := none, kept := none, late := false, run := rs }

/-- The first n requests of a line's run leave it; when none is left the line goes on. -/
def State.runLeaves (s : State) (line n : Nat) : State :=
  match s.txn line with
  | none => s
  | some t =>
    match t.run.drop n with
    | [] => s.nextNear line
    | r :: rs => s.setTxn line { t with kind := .request r, run := r :: rs }

/-- A failed or served request of a cell comes back to its tile (R116). -/
def State.cellReturn (s : State) (c : CellId) : State :=
  let x := s.cell c
  s.setCell c { x with tile := x.tile.map (fun t => { t with outstanding := t.outstanding - 1 }) }

/-- The operation whose tile a cell runs ends with a status (R94, R139). -/
def State.failTile (s : State) (c : CellId) (st : Status) : State :=
  match (s.cell c).tile with
  | some t => s.endOp t.run st
  | none => s

/-! ATOMIC_UNIT_REQUEST. -/

/-- The integer adds of a unit carry a residue check (R205). -/
def residueChecked (r : AtomReq) : Bool := r.op == .add && (r.ty == .int32 || r.ty == .int64)

/-- Two requests at a unit belong to one run: the same line, both from cells or both from the slice. -/
def sameRun (a b : AtomEntry) : Bool :=
  a.req.line == b.req.line && (match a.sender, b.sender with
    | .cell _, .cell _ => true
    | .home x, .home y => x == y
    | _, _ => false)

/-- RESIDUE_ATOMIC (R208, R220), with the tile index and the signature so far of a cell's tile. -/
def State.residueReport (s : State) (b : BlockId) (e : AtomEntry) : State :=
  let r0 := mkReport 0x01 0x05 1 (unitBlock b) 0 0
  let r1 := match e.sender with
    | .home _ => r0
    | .cell c => match (s.cell c).tile with
      | none => r0
      | some t =>
        let ix := match s.run t.run with
          | some r => t.step * imgAllCells (s.runImage r) + t.lc
          | none => 0
        s.reportOp t.run { r0 with detail0 := BitVec.ofNat 64 ix, detail1 := (tileSig t (s.cell c).status).extractLsb' 0 64 }
  (s.tally (ctrRas 2)).raise r1

/-- The unit takes a request. Its residue failures count for the run of requests it belongs to: the unit computes the run again once, and the second
failure is a fault of the unit (R208). -/
def State.unitTakes (s : State) (b : BlockId) (e : AtomEntry) (fails : Nat) : State :=
  let n := if s.ras.active = 0#3 ∨ !residueChecked e.req then 0 else fails
  let prior := (((s.atomQueue b).reverse.takeWhile (fun x => sameRun x e)).map (fun x => x.fails)).sum
  let s1 := s.setUnitQueue b (s.atomQueue b ++ [{ e with fails := n }])
  let s2 := (List.range (min n (2 - prior))).foldl (fun st _ => st.residueReport b e) s1
  if n ≠ 0 ∧ 2 ≤ prior + n then s2.blockFault b .engine else s2

/-- ATOMIC_UNIT_REQUEST of a cell: the oldest request its tile has not handed over. -/
def cellAtomic (b : BlockId) (c : CellId) (r : AtomReq) (fails : Nat) (s : State) : State :=
  let x := s.cell c
  match x.tile with
  | none => s
  | some t =>
    match t.reqs with
    | [] => s
    | q :: rest =>
      if blockOf c ≠ b ∨ q ≠ r ∨ !s.cellOnline c ∨ !s.blockIssues b ∨ t.stopped then s
      else if atomMalformed r then (s.setCell c { x with tile := some { t with reqs := rest } }).failTile c stAtomicAlign
      else
        let t1 : Tile := { t with reqs := rest, outstanding := t.outstanding + 1, sent := true }
        (s.setCell c { x with tile := some t1 }).unitTakes b ⟨.cell c, r, 0⟩ fails

/-- ATOMIC_UNIT_REQUEST of a home agent slice: the oldest request of a line's run not yet passed on. -/
def homeAtomic (b : BlockId) (line : BitVec 34) (r : AtomReq) (fails : Nat) (s : State) : State :=
  match s.txn line.toNat with
  | none => s
  | some t =>
    let n := s.atUnits line
    match t.run.drop n with
    | [] => s
    | q :: _ =>
      if t.phase ≠ .nearRun ∨ s.nearBlock line.toNat ≠ some b.val ∨ !s.blockOnline b ∨ !s.blockIssues b ∨ r.line ≠ s.lineAddr line.toNat then s
      else if atomMalformed r then
        if n = 0 then (s.answerNear q stAtomicAlign none).runLeaves line.toNat 1
        else (s.answerNear q stAtomicAlign none).setTxn line.toNat { t with run := t.run.take n ++ t.run.drop (n + 1) }
      else s.unitTakes b ⟨.home line, r, 0⟩ fails

def execAtomicUnitRequest (b : BlockId) (sender : AtomSender) (r : AtomReq) (residueFails : Nat) (s : State) :
    Host.Outcome State Fault Refusal :=
  .next (s.quiet.whenLive (match sender with
    | .cell c => cellAtomic b c r residueFails
    | .home line => homeAtomic b line r residueFails))

/-! ATOMIC_RUN_COMMIT. -/

/-- What became of a run at its line: refused, poisoned, or served, with the old values of each request and the
arithmetic events of the run. -/
inductive RunResult where
  | failed (st : Status)
  | served (olds : List Line) (events : Status16)
deriving DecidableEq, Repr

/-- A run's access to its line, which is not busy: the extent check, the line read, which fails the run where it is poisoned (R94), the leaf made
private, every request applied in order, and the line written. -/
def State.runOnLine (s : State) (a : Access) (addr : W64) (rs : List AtomReq) : RunResult × State :=
  let fin := fgaPpa addr + 64
  match s.takeAccess a addr fin with
  | (.error st, s1) => (.failed st, s1)
  | (.ok acc, s1) =>
    if s1.poisoned (acc.key / 64) then (.failed stPoison, s1.bump (ctrMem 4 0) 1)
    else match s1.ownLeaf acc with
    | .error st => (.failed st, s1.countRefusal st)
    | .ok s2 => match s2.extCheck a addr fin with
      | .error st => (.failed st, s2)
      | .ok acc2 =>
        let m := acc2.key / 64
        let d0 := lineOfBytes (s2.poolRead (m * 64) 64)
        let (d, olds) := applyRun d0 rs
        (.served ((rs.zip olds).map (fun ro => oldLine ro.1 ro.2)) (runEvents d0 rs), s2.writeLine m allEnables d)

/-- The line of a cell's run has to wait: it is busy with something other than near atomics that stand behind the run at this unit, or it is
cached, and then its copies are invalidated first (R154). -/
def State.cellRunReady (s : State) (b : BlockId) (a : Access) (addr : W64) : Bool × State :=
  match s.extCheck a addr (fgaPpa addr + 64) with
  | .error _ => (true, s)
  | .ok acc =>
    if acc.kind ≠ .coherent then (!s.partBusy a acc 64, s)
    else match s.txn acc.line with
      | some t => (t.phase == .nearRun && (s.atomQueue b).any (fun e => e.sender == .home (BitVec.ofNat 34 acc.line)), s)
      | none =>
        let s1 := s.settleDead acc.line
        let d := s1.dirLine acc.line
        if d = .i then (true, s1) else (false, s1.startTxn acc.line (.abandoned 0x06#8) 0x20#8 (s1.holders d none))

/-- The cells of a run's requests. -/
def runCells (es : List AtomEntry) : List CellId :=
  es.filterMap (fun e => match e.sender with
    | .cell c => some c
    | .home _ => none)

/-- A run of cells' requests commits (R96, R116). The events of its adds join those that the operation delivers (R69, R79); they are no part of the
word that the cell tests and signs, which a check without the unit could not come to (DEDUCED: log entry 134). -/
def State.commitCells (s : State) (b : BlockId) (c : CellId) (es rest : List AtomEntry) (addr : W64) : State :=
  match ((s.cell c).tile.map (fun t => t.run)).bind s.op with
  | none => s.setUnitQueue b rest
  | some o =>
    let a := accAtomic o.ep (s.opAuth o)
    let (ready, s1) := s.cellRunReady b a addr
    if !ready then s1
    else
      let (res, s2) := s1.runOnLine a addr (es.map (fun e => e.req))
      let s3 := (runCells es).foldl (fun st q => st.cellReturn q) (s2.setUnitQueue b rest)
      match res with
      | .failed st => s3.failTile c st
      | .served _ ev => (((s3.modOp ((s.cell c).tile.elim 0 (fun t => t.run)) (fun x => { x with tileStatus := x.tileStatus ||| ev })).tallyBytes 2 o.tenant 64).tallyBytes 3 o.tenant 64)

/-- A run of near atomics has to wait on the snapshot engine (R296, R297). -/
def State.nearHeld (s : State) (a : Access) (addr : W64) : Bool :=
  match s.extCheck a addr (fgaPpa addr + 64) with
  | .ok acc => acc.kind != .coherent && s.partBusy a acc 64
  | .error _ => false

/-- A run of a slice's near atomics commits and is answered (R312, R327). -/
def State.commitNear (s : State) (b : BlockId) (line : Nat) (es rest : List AtomEntry) : State :=
  match s.txn line with
  | none => s.setUnitQueue b rest
  | some t =>
    match t.run with
    | [] => s.setUnitQueue b rest
    | r :: _ =>
      let a : Access := { accAtomic r.ep [] with passed := true, vslot := r.vslot }
      if s.nearHeld a r.pkt.addr then s
      else
        let (res, s1) := s.runOnLine a r.pkt.addr (es.map (fun e => e.req))
        let olds : List (Option (Line × Bool)) := match res with
          | .failed _ => es.map (fun _ => none)
          | .served l _ => l.map (fun d => some (d, false))
        let st : Status := match res with
          | .failed x => x
          | .served _ _ => stOk
        let s2 := ((t.run.take es.length).zip olds).foldl (fun acc q => acc.answerNear q.1 st q.2) (s1.setUnitQueue b rest)
        s2.runLeaves line es.length

/-- ATOMIC_RUN_COMMIT: the write-back of the oldest run of a unit commits, and its old values return. -/
def atomicRunCommit (b : BlockId) (s : State) : State :=
  match s.atomQueue b with
  | [] => s
  | e :: more =>
    if !s.blockOnline b || !s.blockIssues b then s
    else
      let es := e :: more.takeWhile (sameRun e)
      let rest := more.dropWhile (sameRun e)
      match e.sender with
      | .cell c => s.commitCells b c es rest e.req.line
      | .home line => s.commitNear b line.toNat es rest

def execAtomicRunCommit (b : BlockId) (s : State) : Host.Outcome State Fault Refusal := .next (s.quiet.whenLive (atomicRunCommit b))

end Sys2Proof.Machine
end

