-- ==== Sys2Proof/Machine/LinkOps.lean ====
section
/-! DEFINITION. The link layer's shared operations (spec/10, and R421 for Phosha Link): flits and training blocks as bits, headroom and
PAUSE, packets in a receive buffer, replay, retrain, and the settlement of a lost link. -/

namespace Sys2Proof.Machine

/-! Ports. -/

def isPl (p : LinkPort) : Bool := decide (32 ≤ p.val)

/-- A counter of a TFL port; the Phosha Link ports have none of the TFL_ counters (R456). -/
def State.tallyTfl (s : State) (k : Nat) (p : LinkPort) (n : Nat) : State := if isPl p || n == 0 then s else s.bump (ctrTfl k p.val) n

/-- The lanes of a width encoding: 1, 2, 4, 8. -/
def widthLanes (w : BitVec 2) : Nat := 2 ^ w.toNat

/-- RTT_USED (R354). -/
def Link.rtt (l : Link) : Nat := max l.rttInForce.toNat l.rttMeas.toNat

/-- The headroom H of a round trip at a width: the flit time is 2048 × 544 / (514 × 200 × lanes) ns (R339, R342, R354). -/
def headroom (rtt : Nat) (w : BitVec 2) : Nat := (rtt * (102800 * widthLanes w) + 1114111) / 1114112 + 21

/-- The H by which a receiver pauses: during a width change the larger of the old and new (R366). -/
def Link.h (l : Link) : Nat := max l.oldH (headroom l.rtt l.width)

/-- A VC's allocation in the port's VC_ALLOC register. -/
def allocOf (v : W64) (vc : Nat) : Nat := (v.extractLsb' (16 * vc) 12).toNat

/-- The port identity: port number and serial number (R378). A Phosha Link port is numbered as in R221's unit codes. -/
def portId (p : LinkPort) : W64 := BitVec.ofNat 64 (p.val % 32) ||| (Config.deviceSerial.setWidth 64 <<< 5)

/-- Width and lanes as reports and training blocks carry them (R373). -/
def widthByte (w : BitVec 2) (lanes : BitVec 8) : Nat := w.toNat + 16 * (lanes.toNat % 16)

/-- The lanes that a width byte names; on Phosha Link x8 is all eight, and x4 with no lane of 0 to 3 is lanes 4 to 7. -/
def lanesOfByte (w : BitVec 2) (b : BitVec 8) : BitVec 8 :=
  if w = 3#2 then 0xFF#8
  else if w = 2#2 ∧ b.extractLsb' 4 4 = 0#4 then 0xF0#8
  else (b.extractLsb' 4 4).setWidth 8

/-! Receive buffers. -/

def LinkRx.vc (r : LinkRx) (v : Nat) : VcRx := mget VcRx.empty r.vcs v

def LinkRx.setVc (r : LinkRx) (v : Nat) (x : VcRx) : LinkRx := { r with vcs := mset VcRx.empty r.vcs v x }

def VcRx.free (x : VcRx) : Nat := x.alloc - x.flits.length

/-- Set or clear a VC's PAUSE bit by its free slots (R354); the counts since PAUSE start when it is set. -/
def VcRx.repause (x : VcRx) (h : Nat) : VcRx :=
  if !x.paused && decide (x.free ≤ h) then { x with paused := true, afterCount := 0#8, sincePause := 0 }
  else if x.paused && decide (h + 32 ≤ x.free) then { x with paused := false } else x

/-- The units that wait on a VC, in order. -/
def VcRx.units (x : VcRx) : List (BitVec 128) := x.flits.flatMap (fun f => f.units)

/-- The first packet among units: what precedes it is padding of zeros; the packet, and how many units it and the padding take. -/
def firstPacket (us : List (BitVec 128)) : Option (Packet × Nat) :=
  let pad := (us.takeWhile (· == 0#128)).length
  match us.drop pad with
  | u0 :: u1 :: rest =>
    let n := headerLen u0
    if n ≤ rest.length then some (pktOfUnits u0 u1 (rest.take n), pad + 2 + n) else none
  | _ => none

/-- The packets that are whole among units. -/
def wholePackets : Nat → List (BitVec 128) → List Packet
  | 0, _ => []
  | f + 1, us =>
    match firstPacket us with
    | some (p, n) => p :: wholePackets f (us.drop n)
    | none => []

def VcRx.packets (x : VcRx) : List Packet := wholePackets (x.units.length + 1) x.units

/-- DOORBELL packets that are whole on a VC. -/
def VcRx.doorbells (x : VcRx) : Nat := (x.packets.filter (fun p => p.opc == 0x84#8)).length

/-- Take n units off the front of a VC; a flit whose units are used up frees its slot. -/
def dropUnits : Nat → List RxFlit → List RxFlit
  | _, [] => []
  | n, f :: rest =>
    if f.units.length ≤ n then dropUnits (n - f.units.length) rest
    else if n = 0 then f :: rest else { f with units := f.units.drop n, begun := true } :: rest

/-- Free the flits at the front that hold nothing but padding; a packet boundary lies there. -/
def dropPadding (fs : List RxFlit) : List RxFlit := fs.dropWhile (fun f => f.units.all (· == 0#128))

/-- Units before a packet boundary: every whole packet, or what remains of one that is not. -/
def VcRx.takePacket (x : VcRx) : Option (Packet × VcRx) :=
  match firstPacket x.units with
  | some (p, n) => some (p, { x with flits := dropPadding (dropUnits n x.flits) })
  | none => none

/-! Flits. -/

def flitField (f : BitVec 2048) (lo n : Nat) : Nat := (f.extractLsb' lo n).toNat

/-- The CRC over bytes 0 to 251 (R342). -/
def flitCrc (f : BitVec 2048) : W32 := crc32c (bytesOf f 252)

/-- seq_sub and seq_newer. -/
def seqNewer (a b : BitVec 12) : Bool := a != b && decide ((a - b).toNat < 2048)

/-- Assemble a flit: link-state fields fresh, content as given (R343, R344). -/
def buildFlit (ftype : Nat) (c : FlitContent) (ack ackKind crdRet pause epoch : Nat) : BitVec 2048 :=
  let hdr := ftype + 2 ^ 2 * c.seq.toNat + 2 ^ 14 * ack + 2 ^ 26 * ackKind + 2 ^ 28 * c.vc.toNat + 2 ^ 30 * c.tick.toNat
    + 2 ^ 34 * c.crdSpent.toNat + 2 ^ 50 * crdRet + 2 ^ 66 * c.vcSent.toNat + 2 ^ 78 * c.afterPause.toNat + 2 ^ 86 * pause
    + 2 ^ 90 * epoch + 2 ^ 92 * c.firstPkt.toNat
  let body : BitVec 2048 :=
    ((List.range 15).zip c.payload).foldl (fun (acc : BitVec 2048) (iu : Nat × BitVec 128) => acc ||| ((BitVec.setWidth 2048 iu.2) <<< ((96 + 128 * iu.1 : Nat))))
    (BitVec.ofNat 2048 hdr)
  body ||| ((flitCrc body).setWidth 2048 <<< 2016)

/-! Retrain and link loss. -/

/-- A request whose answer its TAG names (R312, R347): EVICT_CLEAN and DOORBELL have none. -/
def isRequest (p : Packet) : Bool := (decide (1 ≤ p.opc.toNat) && decide (p.opc.toNat ≤ 7)) || p.opc == 0x80#8 || p.opc == 0x81#8

/-- Start a retrain from ACTIVE (R368): the port enters LOCK, its loss timer runs, every width change is abandoned (R369). -/
def State.startLinkRetrain (s : State) (p : LinkPort) (cause : Nat) : State :=
  let l := s.link p
  if l.state ≠ .active then s
  else
    let s1 := s.setLink p { l with state := .lock, retraining := true, lossTimer := true, change := none, oldH := 0,
                                   paramDone := false, peerParamDone := false, peerNextExpected := none, uncorrRun := 0,
                                   tx := { l.tx with ctrls := [] } }
    (s1.tallyTfl 5 p 1).raise (mkReport 0x04 0x01 0 (unitPort p) cause l.epoch.toNat)

/-- How many units at the front the whole packets among units take, with the padding before them. -/
def wholeUnits : Nat → List (BitVec 128) → Nat
  | 0, _ => 0
  | f + 1, us =>
    match firstPacket us with
    | some (_, n) => n + wholeUnits f (us.drop n)
    | none => 0

/-- Keep the first n units of a receive buffer. -/
def keepUnits : Nat → List RxFlit → List RxFlit
  | _, [] => []
  | n, f :: rest =>
    if n = 0 then [] else if f.units.length ≤ n then f :: keepUnits (n - f.units.length) rest else [{ f with units := f.units.take n }]

/-- What a VC holds after its last whole packet is a part of a packet, or padding (R371). -/
def VcRx.hasPart (x : VcRx) : Bool := (x.units.drop (wholeUnits (x.units.length + 1) x.units)).any (· != 0#128)

/-- A VC's buffer without its partial packet. -/
def VcRx.dropPart (x : VcRx) : VcRx := { x with flits := keepUnits (wholeUnits (x.units.length + 1) x.units) x.flits }

/-- The VCs of a receive buffer that hold a partial packet. -/
def LinkRx.partial (r : LinkRx) : Nat := ((List.range 4).filter (fun v => (r.vc v).hasPart)).length

/-- The requests that await an answer among the whole packets of a receive buffer. -/
def LinkRx.requests (r : LinkRx) : List Packet := ((List.range 4).flatMap (fun v => (r.vc v).packets)).filter (fun p => isRequest p)

/-- Endpoints that the loss of a port makes unreachable (R371 step 4). -/
def State.cutOff (s : State) (p : LinkPort) : List Ep :=
  let base := if s.rtr.activeGen then 16384 else 0
  (s.rtr.routes.filter (fun e =>
    decide (base ≤ e.1) && decide (e.1 < base + 16384) && routeKind e.2 == 1 &&
    (List.range 4).any (fun i => routeSlot e.2 i == some p) &&
    (List.range 4).all (fun i => match routeSlot e.2 i with
      | some q => (s.link q).lost
      | none => true))).map (fun e => BitVec.ofNat 14 (e.1 - base))

/-- Settle a lost link (R370, R371): discard what the port holds, complete the device's own requests with LINK_LOST, declare dead the
endpoints cut off, and raise LINK_DOWN. At the loss of the active Phosha Link port, failover may take over (R424). -/
def State.settleLoss (s : State) (p : LinkPort) : State :=
  let l := s.link p
  let waiting := mget [] s.rtr.txq p.val
  let discarded := waiting.length + (l.tx.queues.map (fun e => e.2.length)).sum + (l.tx.replay.map (fun c => c.ends)).sum + l.rx.partial
  let s1 := s.setLink p { l with wentDown := true, lost := true, lossTimer := false, retraining := false, fresh := true,
                                 change := none, oldH := 0, tx := LinkTx.fresh, uncorrRun := 0,
                                 rx := { LinkRx.fresh with held := l.rx.held, vcs := tmap l.rx.vcs (fun _ x => x.dropPart) } }
  let s2 : State := { s1 with rtr := { s1.rtr with txq := mset [] s1.rtr.txq p.val [] } }
  let s3 := s2.tallyTfl 9 p discarded
  let mine := s3.rtr.reqs.filter (fun e => e.2.port == some p)
  -- requests received from the port, whose answers will be discarded (step 3), and the device's own that end here (R372)
  let fromPort (ip : InPkt) : Option (LinkPort × Ep × Nat) :=
    if ip.port = p ∧ ip.xid.isNone ∧ isRequest ip.pkt then some (p, ip.pkt.src, ip.pkt.tag.toNat) else none
  let gone : List (LinkPort × Ep × Nat) := s3.rtr.inbox.filterMap fromPort ++
    l.rx.requests.map (fun k => (p, k.src, k.tag.toNat)) ++
    (s3.coh.queues.flatMap (fun q => q.2)).filterMap (fun r => if r.port = p then some (p, r.ep, r.pkt.tag.toNat) else none) ++
    (s3.coh.txns.flatMap (fun t => match t.2.kind, t.2.phase with
      | .request r, .snooping => [r]
      | .request r, .nearRun => r :: t.2.run.drop 1
      | _, _ => [])).filterMap (fun r => if r.port = p then some (p, r.ep, r.pkt.tag.toNat) else none) ++
    (s3.ext.extents.flatMap (fun e => (e.2.snap.map (fun sn => sn.waits)).getD [])).filterMap (fun w =>
      fromPort w.ip) ++
    s3.rtr.xfers.filterMap (fun x => if x.2.port = p then some (p, BitVec.ofNat 14 (x.1 / 65536), 4096 + x.1 % 65536) else none)
  let ended : List (LinkPort × Ep × Nat) := mine.map (fun e => (p, e.2.dst, match e.2.xfer with
    | some x => 4096 + x.toNat
    | none => e.2.tag.toNat))
  let s3' : State := { s3 with rtr := { s3.rtr with goneIn := s3.rtr.goneIn ++ gone, goneOut := s3.rtr.goneOut ++ ended } }
  let s4 : State := mine.foldl (fun st e => st.reqLost e.1 stLinkLost) s3'
  let s5 := s4.tallyTfl 7 p mine.length
  -- multicast sends that lose an egress port stop there (R180)
  let s6 : State := { s5 with fab := { s5.fab with sends := tmap s5.fab.sends (fun _ m =>
    if m.ports.contains p && !m.lost.contains p then { m with lost := m.lost ++ [p] } else m) } }
  let dead := s6.cutOff p
  let s7 : State := dead.foldl (fun st ep => st.declareDead ep) s6
  let s8 := s7.settleSends.raise (mkReport 0x04 0x05 1 (unitPort p) mine.length dead.length)
  -- failover (R424)
  let other : PlPort := if s8.que.active.val = 0 then 1 else 0
  if p = plPort s8.que.active ∧ s8.que.failover ∧ (s8.link (plPort other)).state = .active ∧ s8.que.takeover.isNone then
    { s8 with que := { s8.que with takeover := some (other, 0) } }
  else s8

/-! Acknowledgement and replay (R350 to R353). -/

/-- Free the replay entries before a sequence number. -/
def LinkTx.ackBefore (t : LinkTx) (e : BitVec 12) : LinkTx :=
  let keep := t.replay.dropWhile (fun c => seqNewer e c.seq)
  let freed := t.replay.length - keep.length
  if freed = 0 then t
  else { t with replay := keep, resend := min t.resend keep.length,
                replaySeq := if t.replaySeq.any (fun q => seqNewer e q) then none else t.replaySeq,
                replayCount := if t.replaySeq.any (fun q => seqNewer e q) then 0 else t.replayCount }

/-- Replay from the oldest unacknowledged flit. -/
def LinkTx.replayAll (t : LinkTx) : LinkTx :=
  match t.replay with
  | [] => t
  | c :: _ => { t with resend := t.replay.length, replaySeq := some c.seq, sinceReplay := 0,
                       replayCount := if t.replaySeq = some c.seq then t.replayCount + 1 else 1 }

/-- A NAK E (R352): ignored within RTT_USED of the start of a replay from E. -/
def Link.takeNak (l : Link) (e : BitVec 12) : LinkTx :=
  let t := l.tx.ackBefore e
  let recent : Bool := t.replaySeq == some e && decide (t.sinceReplay * 1114112 < l.rtt * (102800 * widthLanes l.width))
  if recent then t else t.replayAll

/-! Width changes (R366 to R369). -/

/-- A receiver's headroom limit still holds at a width. -/
def Link.allocOk (l : Link) (w : BitVec 2) : Bool :=
  (List.range 4).all (fun v => decide (headroom l.rtt w + 32 ≤ (l.rx.vc v).alloc))

/-- A CTRL flit's payload: a code byte and two more. -/
def ctrlPayload (code : Nat) (b1 b2 : Nat) : List (BitVec 128) :=
  BitVec.ofNat 128 (code + 256 * b1 + 65536 * b2) :: List.replicate 14 0#128

/-- Ask the peer to change width; one request at a time. A width whose H the allocations do not allow is not asked for (R357). -/
def State.askWidth (s : State) (p : LinkPort) (w : BitVec 2) (lanes : BitVec 8) : State :=
  let l := s.link p
  if l.state ≠ .active ∨ l.change.isSome ∨ (w = l.width ∧ lanes = l.lanes) ∨ !l.allocOk w then s
  else s.setLink p { l with change := some ⟨w, lanes, true, false, 0⟩,
                            tx := { l.tx with ctrls := l.tx.ctrls ++ [ctrlPayload 1 (widthByte w lanes) 0] } }

/-- Switch to a width: the larger headroom counts until the change completes. -/
def Link.switchTo (l : Link) (w : BitVec 2) (lanes : BitVec 8) (mine : Bool) : Link :=
  { l with oldH := headroom l.rtt l.width, width := w, lanes := lanes, change := some ⟨w, lanes, mine, true, widthByte l.width l.lanes⟩ }

/-- The width a set of good lanes allows up to a maximum (R363, R421). -/
def chooseWidth (pl : Bool) (good : BitVec 8) (wmax : Nat) : Option (BitVec 2 × BitVec 8) :=
  let all (m : BitVec 8) : Bool := (good &&& m) == m
  if pl && decide (3 ≤ wmax) && all 0xFF#8 then some (3#2, 0xFF#8)
  else if decide (2 ≤ wmax) && all 0x0F#8 then some (2#2, 0x0F#8)
  else if pl && decide (2 ≤ wmax) && all 0xF0#8 then some (2#2, 0xF0#8)
  else if decide (1 ≤ wmax) && all 0x03#8 then some (1#2, 0x03#8)
  else if decide (1 ≤ wmax) && all 0x0C#8 then some (1#2, 0x0C#8)
  else ((List.range 4).find? (fun i => good.getLsbD i)).map (fun i => (0#2, 1#8 <<< i))

/-- WIDTH_MAX as a width encoding: on a TFL port 11b is reserved. -/
def Link.wmax (l : Link) (pl : Bool) : Nat := if pl then l.widthMax.toNat else min 2 l.widthMax.toNat

/-- The peer's WIDTH_REQ is accepted (R366, R367, R369). -/
def State.takeWidthReq (s : State) (p : LinkPort) (w : BitVec 2) (lanes : BitVec 8) : State :=
  let l := s.link p
  if l.state ≠ .active then s
  else
    let mine : Bool := match l.change with
      | some c => c.mine && !c.answered
      | none => false
    if mine && l.leader then s
    else
      let wider : Bool := (lanes &&& ~~~l.lanes) != 0#8
      let ok : Bool := (!wider || (lanes &&& ~~~l.equalized) == 0#8) && l.allocOk w && decide (w.toNat ≤ l.wmax (isPl p))
      let l1 := { l with change := none, tx := { l.tx with ctrls := l.tx.ctrls.filter (fun c => c != ctrlPayload 1
        (match l.change with
          | some c => widthByte c.width c.lanes
          | none => 0) 0) } }
      if ok then
        let l2 := l1.switchTo w lanes false
        s.setLink p { l2 with tx := { l2.tx with ctrls := l2.tx.ctrls ++ [ctrlPayload 2 (widthByte w lanes) 0] } }
      else
        s.setLink p { l1 with tx := { l1.tx with ctrls := l1.tx.ctrls ++ [ctrlPayload 2 (widthByte l.width l.lanes) 0] } }

/-- The peer's WIDTH_ACK is accepted: with the current width it ends the request (R367). -/
def State.takeWidthAck (s : State) (p : LinkPort) (w : BitVec 2) (lanes : BitVec 8) : State :=
  let l := s.link p
  match l.change with
  | some c =>
    if !c.mine || c.answered then s
    else if w = l.width ∧ lanes = l.lanes then s.setLink p { l with change := none }
    else s.setLink p (l.switchTo w lanes true)
  | none => s

/-- A width change completes when the receiver has locked to the new lanes and accepts a flit from them (R366 step 5). The requester's peer has
switched once its WIDTH_ACK is accepted; the requester itself has switched once it acknowledges the WIDTH_ACK. -/
def State.finishWidth (s : State) (p : LinkPort) : State :=
  let l := s.link p
  match l.change with
  | some c =>
    let ack := ctrlPayload 2 (widthByte c.width c.lanes) 0
    if c.answered && (c.mine || !(l.tx.ctrls.contains ack || l.tx.replay.any (fun f => f.ctrl && f.payload == ack))) then
      ((s.setLink p { l with change := none, oldH := 0 }).tallyTfl 6 p 1).raise
        (mkReport 0x04 0x03 0 (unitPort p) (widthByte l.width l.lanes) c.old)
    else s
  | none => s

end Sys2Proof.Machine
end

