-- ==== Sys2Proof/Machine/Router.lean ====
section
/-! DEFINITION. The router and traffic control (spec/11): scheduling at the ports, home requests that carry no coherence, answers, open
transfers and end-to-end retry, and the tables the fabric manager writes; with the encryption of packets that leave (R450, R504, R505). -/

namespace Sys2Proof.Machine

/-! Encryption. -/

/-- AES-256-GCM encryption of n bytes gives n + 16. -/
def sealBytes (key : List Byte) (iv : BitVec 96) (aad pt : List Byte) : List Byte :=
  List.takeD (pt.length + 16) (Config.gcmSeal key iv aad pt) 0#8

/-- AES-256-GCM decryption, where the tag is good. -/
def openBytes (key : List Byte) (iv : BitVec 96) (aad ct : List Byte) : Option (List Byte) :=
  (Config.gcmOpen key iv aad ct).map (fun pt => List.takeD (ct.length - 16) pt 0#8)

/-- The header's 32 bytes. -/
def headerBytes (p : Packet) : List Byte := natBytes 32 (pktHeader p)

/-- The IV of link encryption (R450): port, direction, slot, packet counter. -/
def linkIv (p : LinkPort) (fromDevice slot : Bool) (n : Nat) : BitVec 96 :=
  BitVec.ofNat 96 ((p.val % 2) * 2 ^ 95 + bitNat fromDevice 94 + bitNat slot 93 + n % 2 ^ 64)

def linkSlotOf (c : PortCrypto) (b : Bool) : LinkKeySlot := if b then c.slot1 else c.slot0

def setLinkSlot (c : PortCrypto) (b : Bool) (k : LinkKeySlot) : PortCrypto := if b then { c with slot1 := k } else { c with slot0 := k }

def State.crypto (s : State) (p : LinkPort) : PortCrypto := mget PortCrypto.reset s.sec.crypto (p.val - 32)

def State.setCrypto (s : State) (p : LinkPort) (c : PortCrypto) : State :=
  { s with sec := { s.sec with crypto := mset PortCrypto.reset s.sec.crypto (p.val - 32) c } }

/-- A packet as it leaves a Phosha Link port (R450): protected under the slot the device sends under. A port whose keys were erased sends
nothing (R514): none. -/
def State.linkProtect (s : State) (p : LinkPort) (pkt : Packet) : Option (Packet × State) :=
  let c := s.crypto p
  match c.sendSlot with
  | none => some (pkt, s)
  | some b =>
    let k := linkSlotOf c b
    match k.key with
    | none => none
    | some key =>
      let hdr := { pkt with linkEnc := true, linkSlot := b, payload := pkt.payload ++ [0#128] }
      let ct := sealBytes key (linkIv p true b k.txCount) (headerBytes hdr) (payloadBytes pkt.payload)
      some ({ hdr with payload := toUnits ct }, s.setCrypto p (setLinkSlot c b { k with txCount := k.txCount + 1 }))

def State.tenant (s : State) (t : Tenant) : TenantRec := mget TenantRec.reset s.sec.tenants t.toNat

def State.setTenant (s : State) (t : Tenant) (x : TenantRec) : State :=
  { s with sec := { s.sec with tenants := mset TenantRec.reset s.sec.tenants t.toNat x } }

def streamSlot (x : TenantRec) (b : Bool) : KeySlot := if b then x.slot1 else x.slot0

def setStreamSlot (x : TenantRec) (b : Bool) (k : KeySlot) : TenantRec := if b then { x with slot1 := k } else { x with slot0 := k }

/-- The IV of tenant encryption (R504): sender, slot, nonce. -/
def streamIv (sender : Ep) (slot : Bool) (nonce : Nat) : BitVec 96 :=
  BitVec.ofNat 96 (sender.toNat * 2 ^ 82 + bitNat slot 81 + nonce % 2 ^ 64)

/-- The security block (R504). -/
def securityBlock (nonce : Nat) (sender : Ep) : List Byte := natBytes 8 nonce ++ bytesOf sender 2 ++ List.replicate 6 0#8

/-- What tenant encryption authenticates: the header with GEN and CLASS taken as 0, then the security block (R504). -/
def streamAad (p : Packet) (block : List Byte) : List Byte := headerBytes { p with gen := false, cls := 0#2 } ++ block

/-- A packet as it leaves a TFL port (R505): one that the device originates for a tenant in mode REQUIRED is encrypted under the tenant's
ACTIVE slot. With no ACTIVE slot there is no key to send it under, and it is not sent. -/
def State.streamProtect (s : State) (pkt : Packet) : Option (Packet × State) :=
  let x := s.tenant pkt.tenant
  if !x.required || pkt.enc || pkt.src != s.rtr.nodeId then some (pkt, s)
  else
    let slot : Option Bool := if x.slot0.state = .active then some false else if x.slot1.state = .active then some true else none
    match slot with
    | none => none
    | some b =>
      let k := streamSlot x b
      let block := securityBlock k.nonce s.rtr.nodeId
      let hdr := { pkt with enc := true, keyEpoch := b, payload := 0#128 :: pkt.payload ++ [0#128] }
      let ct := sealBytes k.key (streamIv s.rtr.nodeId b k.nonce) (streamAad hdr block) (payloadBytes pkt.payload)
      some ({ hdr with payload := toUnits block ++ toUnits ct },
        s.setTenant pkt.tenant (setStreamSlot x b { k with nonce := k.nonce + 1 }))

/-! Shapers and egress (R409, R410). -/

/-- A port's number among the 33 external ports. -/
def rtrPort (p : LinkPort) : Nat := if isPl p then 32 else p.val

def shaperPort (x : Shaper) : Nat := (x.entry.extractLsb' 48 6).toNat
def shaperTenant (x : Shaper) : Tenant := x.entry.extractLsb' 54 10
def shaperClass (x : Shaper) : BitVec 2 := x.entry.extractLsb' 64 2
def shaperValid (x : Shaper) : Bool := x.entry.getLsbD 68
def shaperRate (x : Shaper) : Nat := (x.entry.extractLsb' 0 24).toNat
def shaperBurst (x : Shaper) : Nat := (x.entry.extractLsb' 24 24).toNat

/-- A packet's bytes as it leaves a port (R405): encryption adds a tag, and on TFL a security block (R450, R504). -/
def State.wireBytes (s : State) (p : LinkPort) (pkt : Packet) : Nat :=
  pktBytes pkt + (if isPl p then (if (s.crypto p).sendSlot.isSome then 16 else 0)
    else if (s.tenant pkt.tenant).required && !pkt.enc && pkt.src == s.rtr.nodeId then 32 else 0)

/-- The shaper that shapes a packet at a port: the one bound to exactly that port, else the one bound to every port. -/
def State.shaperOf (s : State) (p : LinkPort) (q : QPkt) : Option (Nat × Shaper) :=
  if q.vc = vcSnp then none
  else
    let hit (port : Nat) : Option (Nat × Shaper) := s.rtr.shapers.find? (fun e =>
      shaperValid e.2 && shaperPort e.2 == port && shaperTenant e.2 == q.pkt.tenant && shaperClass e.2 == q.pkt.cls)
    match hit (rtrPort p) with
    | some e => some e
    | none => hit 63

/-- The queue a packet waits in at a port: its VC, class and shaper; an unshaped packet has 8,192 for its shaper. -/
def State.queueOf (s : State) (p : LinkPort) (q : QPkt) : Nat × Nat × Nat :=
  (q.vc, q.pkt.cls.toNat, match s.shaperOf p q with
    | some e => e.1
    | none => 8192)

/-- A packet is ready: no earlier packet stands in its queue, and its shaper holds its bytes. -/
def State.ready (s : State) (p : LinkPort) (before : List QPkt) (q : QPkt) : Bool :=
  !(before.any (fun x => s.queueOf p x == s.queueOf p q)) && (match s.shaperOf p q with
    | some e => decide (s.wireBytes p q.pkt ≤ e.2.tokens)
    | none => true)

/-- The ready packets of a port with their places, in order. -/
def State.readyList (s : State) (p : LinkPort) : List (Nat × QPkt) :=
  let l := mget [] s.rtr.txq p.val
  ((List.range l.length).zip l).filter (fun e => s.ready p (l.take e.1) e.2)

/-- The packet a port sends next (R409): SNP, then RSP, then REQ and BULK by class, in round robin among the shaper queues of a class. -/
def State.schedule (s : State) (p : LinkPort) : Option (Nat × QPkt) :=
  let r := s.readyList p
  match r.find? (fun e => e.2.vc == vcSnp) with
  | some e => some e
  | none => match r.find? (fun e => e.2.vc == vcRsp) with
    | some e => some e
    | none =>
      match (List.range 4).find? (fun c => r.any (fun e => e.2.pkt.cls.toNat == c)) with
      | none => none
      | some c =>
        let here := r.filter (fun e => e.2.pkt.cls.toNat == c)
        let idOf (e : Nat × QPkt) : Nat := (s.queueOf p e.2).2.2 * 4 + e.2.vc
        let last := mget 0 s.rtr.rr (rtrPort p * 4 + c)
        let least (l : List (Nat × QPkt)) : Option (Nat × QPkt) := l.foldl (fun m e => match m with
          | some x => if idOf e < idOf x then some e else some x
          | none => some e) none
        match least (here.filter (fun e => decide (last < idOf e))) with
        | some e => some e
        | none => least here

/-- The device sends under a new link key once the LINK_KEY's own response has been handed to the link (R501). -/
def State.settleSendSlot (s : State) (p : LinkPort) : State :=
  let c := s.crypto p
  match c.sendNext with
  | none => s
  | some (b, n) =>
    let waits : Bool := (mget [] s.rtr.txq p.val).any (fun q => q.req == some n) || ((tget s.rtr.reqs n).any (fun r => !r.sent))
    if waits then s else s.setCrypto p { c with sendSlot := some b, sendNext := none }

/-- PACKET_EGRESS: the port's next ready packet is handed to its link, spending its shaper's tokens. -/
def packetEgress (p : LinkPort) (s : State) : State :=
  if (s.link p).state ≠ .active then s
  else match s.schedule p with
  | none => s
  | some (i, q) =>
    match (if isPl p then s.linkProtect p q.pkt else s.streamProtect q.pkt) with
    | none => s
    | some (pkt, s0) =>
      let s1 : State := { s0 with rtr := { s0.rtr with txq := mset [] s0.rtr.txq p.val ((mget [] s0.rtr.txq p.val).eraseIdx i) } }
      let s2 : State := match s.shaperOf p q with
        | some e => ({ s1 with rtr := { s1.rtr with
            shapers := tput s1.rtr.shapers e.1 { e.2 with tokens := e.2.tokens - s.wireBytes p q.pkt } } }).ledger 5 (-(s.wireBytes p q.pkt : Int))
        | none => s1
      let s3 : State := if q.vc = vcReq ∨ q.vc = vcBulk then
          { s2 with rtr := { s2.rtr with rr := mset 0 s2.rtr.rr (rtrPort p * 4 + q.pkt.cls.toNat) ((s.queueOf p q).2.2 * 4 + q.vc) } }
        else s2
      let s4 : State := match q.req with
        | some n => { s3 with rtr := { s3.rtr with reqs := tmod s3.rtr.reqs n (fun r => { r with port := some p }) } }
        | none => s3
      let s5 := if isPl p then (if q.pkt.opc = 0x81#8 then s4.tallyBytes 4 q.pkt.tenant (16 * q.pkt.payload.length) else s4)
        else s4.tallyBytes 5 q.pkt.tenant (pktBytes pkt)
      let t : TxPkt := { units := pktUnits pkt, started := false, doorbell := pkt.opc == 0x84#8, mc := q.mc }
      (s5.modLink p (fun l => { l with tx := { l.tx with queues := mset [] l.tx.queues q.vc (mget [] l.tx.queues q.vc ++ [t]) } })).settleSendSlot
        p

def execPacketEgress (p : LinkPort) (s : State) : Host.Outcome State Fault Refusal := .next (s.quiet.whenLive (packetEgress p))

/-! Requests at their slices (R385, R396). -/

def servedBy (i : Nat) (opc : BitVec 8) (io : OutsideIo) (s : State) : State :=
  match s.takePkt i [opc] with
  | none => s
  | some (ip, s1) =>
    let (s2, taken) := s1.servePkt ip io
    if taken then s2 else s

def execMemRd (i : Nat) (io : OutsideIo) (s : State) : Host.Outcome State Fault Refusal :=
  .next (s.quiet.whenLive (servedBy i 0x80#8 io))

def execMemWr (i : Nat) (io : OutsideIo) (s : State) : Host.Outcome State Fault Refusal :=
  .next (s.quiet.whenLive (servedBy i 0x81#8 io))

/-! Answers (R372, R395, R397, R449). -/

/-- An answer to no outstanding request: one that ended LINK_LOST counts in TFL_RSP_DROP, another in RTR_LATE_RSP. -/
def State.lateRsp (s : State) (ip : InPkt) : State :=
  let p := ip.pkt
  match s.rtr.goneOut.find? (fun g => g.2.1 == p.src && (g.2.2 == p.tag.toNat || g.2.2 == 4096 + p.xfer.toNat)) with
  | some g =>
    ({ s with rtr := { s.rtr with goneOut := s.rtr.goneOut.erase g } }).tallyTfl 8 g.1 1
  | none => s.tally (ctrRtr 4)

/-- A request ends with the status of its answer. -/
def State.answered (s : State) (k : Nat) (r : DevReq) (st : Status) : State :=
  match r.owner with
  | .walk _ =>
    ({ s with rtr := { s.rtr with reqs := tput s.rtr.reqs k { r with poisoned := r.poisoned || st != stOk } } }).reqDone k stOk
  | _ =>
    let (st', s1) := s.hostStatus r st
    s1.reqDone k st'

/-- RD_DATA: the data joins what the read has received; a packet on RSP is the whole answer, a packet of a BULK transfer waits for the
transfer's count (R397). -/
def rdData (i : Nat) (s : State) : State :=
  match s.takePkt i [0x82#8] with
  | none => s
  | some (ip, s1) =>
    let p := ip.pkt
    match s1.findReq p.src p.tag none ip.port with
    | none => s1.lateRsp ip
    | some (k, r) =>
      if r.opc ≠ 0x80#8 then s1.lateRsp ip
      else
        let r' := { r with got := r.got ++ [(p.addr, p.payload)], poisoned := r.poisoned || p.aux != 0#64 }
        let s2 : State := { s1 with rtr := { s1.rtr with reqs := tput s1.rtr.reqs k r' } }
        let s3 := if r.via.isSome then s2.tallyBytes 4 p.tenant (16 * p.payload.length) else s2
        match ip.xid with
        | none => s3.answered k r' p.status
        | some x => s3.settleXfer x p.status

def execRdData (i : Nat) (s : State) : Host.Outcome State Fault Refusal := .next (s.quiet.whenLive (rdData i))

/-- WR_DONE. -/
def wrDone (i : Nat) (s : State) : State :=
  match s.takePkt i [0x83#8] with
  | none => s
  | some (ip, s1) =>
    let p := ip.pkt
    match s1.findReq p.src p.tag (some p.xfer) ip.port with
    | none => s1.lateRsp ip
    | some (k, r) => if r.opc = 0x81#8 then s1.answered k r p.status else s1.lateRsp ip

def execWrDone (i : Nat) (s : State) : Host.Outcome State Fault Refusal := .next (s.quiet.whenLive (wrDone i))

/-! Doorbells (R358, R440 to R442). -/

/-- A slot held for a port's DOORBELL is free: its transport credit goes back. -/
def State.freeBell (s : State) (p : LinkPort) : State :=
  s.modLink p (fun l => { l with rx := { l.rx with held := l.rx.held - 1, crdRet := l.rx.crdRet + 1#16 } })

/-- The parts of a doorbell value (R439) are in order for rings of these sizes (R442). -/
def bellOk (v : W64) (sqSize cqSize cqHead cqNext : Nat) : Bool :=
  let tail := (v.extractLsb' 0 16).toNat
  let head := (v.extractLsb' 16 16).toNat
  (!v.getLsbD 32 || decide (tail < sqSize))
  && (!v.getLsbD 33 || (decide (head < cqSize) && decide ((head + cqSize - cqHead) % cqSize ≤ (cqNext + cqSize - cqHead) % cqSize)))

/-- Apply a doorbell to a queue pair. -/
def State.ringQp (s : State) (q : Qp) (x : QPair) (v : W64) : State :=
  if bellOk v x.sqSize x.cqSize x.cqHead x.cqNext then
    s.setQp q { x with sqTail := if v.getLsbD 32 then (v.extractLsb' 0 16).toNat else x.sqTail,
                       cqHead := if v.getLsbD 33 then (v.extractLsb' 16 16).toNat else x.cqHead }
  else s.qpError q 1

/-- DOORBELL: accepted from the port that created the queue pair, or over the fabric from DB_EP. -/
def doorbell (i : Nat) (s : State) : State :=
  match s.takePkt i [0x84#8] with
  | none => s
  | some (ip, s0) =>
    let s1 := s0.freeBell ip.port
    let p := ip.pkt
    let q : Qp := ⟨(if isPl ip.port then bitsOf p.addr.toNat 23 12 else p.addr.toNat % 4096) % 4096, Nat.mod_lt _ (by decide)⟩
    let v : W64 := ((p.payload.head?).getD 0#128).setWidth 64
    match s1.qp q with
    | none => s1.tally (ctrQue 3 0)
    | some x =>
      let ok : Bool := if isPl ip.port then plPort x.cfg.port == ip.port && !x.cfg.dbFabric && p.addr.toNat % 4096 == 0
        else x.cfg.dbFabric && p.src == x.cfg.dbEp
      if ok then s1.ringQp q x v else s1.tally (ctrQue 3 0)

def execDoorbell (i : Nat) (s : State) : Host.Outcome State Fault Refusal := .next (s.quiet.whenLive (doorbell i))

/-! Transfers and timers (R395 to R398). -/

/-- The staging area of a REDUCE_SCATTER descriptor (R167): bytes of a slot, and the area's address and length. -/
def rsSlotBytes (d : Desc) : Nat := descField d 48 4 * (fmtBits (descField d 59 1 % 16) / 8)
def rsArea (d : Desc) : Nat × Nat := (descField d 24 8, 4096 + descField d 58 1 * descField d 56 2 * rsSlotBytes d)

/-- An address lies in the staging area of an armed REDUCE_SCATTER. -/
def State.staged (s : State) (a : Nat) : Bool := s.fab.rs.any (fun r => r.2.armed && (match s.op r.1 with
  | some o => decide ((rsArea o.desc).1 ≤ a) && decide (a < (rsArea o.desc).1 + (rsArea o.desc).2)
  | none => false))

/-- TRANSFER_COMPLETE: all packets counted and settled. A unicast write is answered with WR_DONE; a read's transfer completes its read. -/
def transferComplete (src : Ep) (xfer : BitVec 16) (s : State) : State :=
  let key := src.toNat * 65536 + xfer.toNat
  match tget s.rtr.xfers key with
  | none => s
  | some e =>
    if e.pktCount ≠ some e.count ∨ e.settled ≠ e.count then s
    else
      let s1 := ({ s with rtr := { s.rtr with xfers := tdel s.rtr.xfers key } }).tally (ctrRtr 5)
      if e.isWrite then
        let s2 : State := if e.status = stOk ∧ s1.staged e.addr.toNat then
            { s1 with rtr := { s1.rtr with landed := s1.rtr.landed ++ [(e.addr, e.bytes)] } }
          else s1
        if e.mcast then s2
        else s2.sendRsp { pktBlank 0x83#8 with dst := src, tag := e.tag, xfer := xfer, tenant := e.tenant, status := e.status } vcRsp
          (4096 + xfer.toNat)
      else match s1.findReq src e.tag none e.port with
        | some (k, r) => s1.answered k r e.status
        | none => s1

def execTransferComplete (src : Ep) (xfer : BitVec 16) (s : State) : Host.Outcome State Fault Refusal :=
  .next (s.quiet.whenLive (transferComplete src xfer))

/-- XFER_TIMEOUT. -/
def xferTimeout (src : Ep) (xfer : BitVec 16) (s : State) : State :=
  let key := src.toNat * 65536 + xfer.toNat
  match tget s.rtr.xfers key with
  | none => s
  | some e =>
    if e.age < s.rtr.xferTimeout.toNat then s
    else ({ s with rtr := { s.rtr with xfers := tdel s.rtr.xfers key } }).tally (ctrRtr 6)

def execXferTimeout (src : Ep) (xfer : BitVec 16) (s : State) : Host.Outcome State Fault Refusal :=
  .next (s.quiet.whenLive (xferTimeout src xfer))

/-- E2E_TIMEOUT: reads are reissued with the same tag, BULK transfers under a new XFER number, up to RETRY_MAX times. -/
def e2eTimeout (n : Nat) (s : State) : State :=
  match tget s.rtr.reqs n with
  | none => s
  | some r =>
    if !r.sent || decide (r.age < s.rtr.timeout.toNat) then s
    else
      let again : Bool := (r.opc == 0x80#8 || r.opc == 0x04#8 || r.bulk) && decide (r.retries < s.rtr.retryMax.toNat)
      let r' := { r with retries := r.retries + 1, got := [], poisoned := false }
      if again then (if r.bulk then s.launch n r' else s.transmit n r').tally (ctrRtr 2)
      else ((s.tally (ctrRtr 3)).rtrReport 0x03 0 unitRouter r.dst.toNat (r.opc.toNat + 256 * r.tag.toNat)).reqLost n stRteTimeout

def execE2eTimeout (req : Nat) (s : State) : Host.Outcome State Fault Refusal := .next (s.quiet.whenLive (e2eTimeout req))

/-! The fabric manager's tables (R393, R403, R408, R412, R414). -/

/-- RTR_ROUTE_WRITE writes the inactive copy; bits [31:27] of an entry must be 0 (R386). -/
def rtrRouteWrite (first : BitVec 16) (entries : List W32) (s : State) : State :=
  if s.rtr.drain.isSome then s.reply 0x20#8 3 []
  else if entries.isEmpty ∨ 1024 < entries.length ∨ 16384 < first.toNat + entries.length ∨ entries.any (fun e => e.extractLsb' 27 5 != 0#5) then
    s.reply 0x20#8 7 []
  else
    let base := (if s.rtr.activeGen then 0 else 16384) + first.toNat
    let routes := ((List.range entries.length).zip entries).foldl (fun m e => mset 0#32 m (base + e.1) e.2) s.rtr.routes
    let ue := s.rtr.routeUe.filter (fun i => !(decide (base ≤ i) && decide (i < base + entries.length)))
    ({ s with rtr := { s.rtr with routes := routes, routeUe := ue } }).reply 0x20#8 0 []

def execRtrRouteWrite (first : BitVec 16) (entries : List W32) (s : State) : Host.Outcome State Fault Refusal :=
  .next (s.quiet.whenLive (rtrRouteWrite first entries))

/-- RTR_ROUTE_SWITCH. -/
def rtrRouteSwitch (s : State) : State :=
  if s.rtr.switch.isSome ∨ s.rtr.drain.isSome then s.reply 0x21#8 3 []
  else ({ s with rtr := { s.rtr with switch := some 0 } }).reply 0x21#8 0 []

def execRtrRouteSwitch (s : State) : Host.Outcome State Fault Refusal := .next (s.quiet.whenLive rtrRouteSwitch)

/-- The switch takes effect at step 4 of the next boundary, and the old copy drains for two ticks (R392). -/
def routeSwitchApply (s : State) : State :=
  match s.rtr.switch with
  | some (_ + 1) => { s with rtr := { s.rtr with activeGen := !s.rtr.activeGen, drain := some 2, switch := none } }
  | _ => s

def execRouteSwitchApply (s : State) : Host.Outcome State Fault Refusal := .next (s.quiet.whenLive routeSwitchApply)

/-- The drain window closes at step 4 of boundary T + 2 (R392). -/
def routeDrainClose (s : State) : State := if s.rtr.drain = some 0 then { s with rtr := { s.rtr with drain := none } } else s

def execRouteDrainClose (s : State) : Host.Outcome State Fault Refusal := .next (s.quiet.whenLive routeDrainClose)

/-- RTR_MCAST_WRITE; bits [47:45] must be 0 (R400). -/
def rtrMcastWrite (group : BitVec 16) (entry : BitVec 48) (s : State) : State :=
  if 4096 ≤ group.toNat ∨ entry.extractLsb' 45 3 ≠ 0#3 then s.reply 0x22#8 7 []
  else ({ s with rtr := { s.rtr with mcastNext := tput s.rtr.mcastNext group.toNat ⟨entry, 0⟩ } }).reply 0x22#8 0 []

def execRtrMcastWrite (group : BitVec 16) (entry : BitVec 48) (s : State) : Host.Outcome State Fault Refusal :=
  .next (s.quiet.whenLive (rtrMcastWrite group entry))

/-- A multicast entry takes effect at step 4 of the next boundary (R403). -/
def mcastWriteApply (group : Nat) (s : State) : State :=
  match tget s.rtr.mcastNext group with
  | some ⟨e, _ + 1⟩ =>
    { s with rtr := { s.rtr with mcast := mset 0#48 s.rtr.mcast group e, mcastNext := tdel s.rtr.mcastNext group } }
  | _ => s

def execMcastWriteApply (group : BitVec 12) (s : State) : Host.Outcome State Fault Refusal :=
  .next (s.quiet.whenLive (mcastWriteApply group.toNat))

/-- Fields of a policer entry (R415). -/
def polCir (e : BitVec 128) : Nat := (e.extractLsb' 0 24).toNat
def polPir (e : BitVec 128) : Nat := (e.extractLsb' 24 24).toNat
def polCbs (e : BitVec 128) : Nat := (e.extractLsb' 48 24).toNat
def polPbs (e : BitVec 128) : Nat := (e.extractLsb' 72 24).toNat
def polValid (e : BitVec 128) : Bool := e.getLsbD 101

def policerKey (t : Tenant) (cls : BitVec 2) : Nat := t.toNat * 4 + cls.toNat

/-- RTR_POLICER_WRITE (R408). -/
def rtrPolicerWrite (t : Tenant) (cls : BitVec 2) (entry : BitVec 128) (s : State) : State :=
  if polPir entry < polCir entry ∨ polPbs entry < polCbs entry ∨ polCbs entry < 4144 ∨ entry.extractLsb' 102 26 ≠ 0#26 then
    s.reply 0x23#8 7 []
  else ({ s with rtr := { s.rtr with policersNext := tput s.rtr.policersNext (policerKey t cls) ⟨entry, 0⟩ } }).reply 0x23#8 0 []

def execRtrPolicerWrite (t : Tenant) (cls : BitVec 2) (entry : BitVec 128) (s : State) : Host.Outcome State Fault Refusal :=
  .next (s.quiet.whenLive (rtrPolicerWrite t cls entry))

/-- A policer takes effect at step 6 of the next boundary with full buckets (R408). -/
def policerWriteApply (t : Tenant) (cls : BitVec 2) (s : State) : State :=
  let k := policerKey t cls
  match tget s.rtr.policersNext k with
  | some ⟨e, _ + 1⟩ =>
    let old := mget Policer.reset s.rtr.policers k
    ({ s with rtr := { s.rtr with policers := mset Policer.reset s.rtr.policers k ⟨e, polCbs e, polPbs e⟩,
                                  policersNext := tdel s.rtr.policersNext k } }).ledger 6
      ((polCbs e + polPbs e : Int) - (old.tc + old.tp : Int))
  | _ => s

def execPolicerWriteApply (t : Tenant) (cls : BitVec 2) (s : State) : Host.Outcome State Fault Refusal :=
  .next (s.quiet.whenLive (policerWriteApply t cls))

/-- Two shaper entries have the same binding. -/
def sameBinding (a b : BitVec 128) : Bool := a.extractLsb' 48 18 == b.extractLsb' 48 18

/-- RTR_SHAPER_WRITE (R412, R416). -/
def rtrShaperWrite (sh : BitVec 16) (entry : BitVec 128) (s : State) : State :=
  let x : Shaper := ⟨entry, 0⟩
  let port := shaperPort x
  if 8192 ≤ sh.toNat ∨ shaperBurst x < 4144 ∨ shaperRate x = 0 ∨ (32 < port ∧ port ≠ 63) ∨ entry.extractLsb' 66 2 = 3#2 ∨
      entry.extractLsb' 69 59 ≠ 0#59 then s.reply 0x24#8 7 []
  else if s.rtr.shapers.any (fun e => e.1 != sh.toNat && shaperValid e.2 && sameBinding e.2.entry entry) ∨
      s.rtr.shapersNext.any (fun e => e.1 != sh.toNat && e.2.entry.getLsbD 68 && sameBinding e.2.entry entry) then s.reply 0x24#8 2 []
  else ({ s with rtr := { s.rtr with shapersNext := tput s.rtr.shapersNext sh.toNat ⟨entry, 0⟩ } }).reply 0x24#8 0 []

def execRtrShaperWrite (sh : BitVec 16) (entry : BitVec 128) (s : State) : Host.Outcome State Fault Refusal :=
  .next (s.quiet.whenLive (rtrShaperWrite sh entry))

/-- A shaper's cap and refill for a period in µs (R411). -/
def shaperCap (x : Shaper) (us : Nat) : Nat := shaperRate x * us + shaperBurst x

def shaperRefill (x : Shaper) (us : Nat) : Shaper := { x with tokens := min (x.tokens + shaperRate x * us) (shaperCap x us) }

/-- A shaper takes effect at step 6 of the next boundary (R412). -/
def shaperWriteApply (k : Nat) (s : State) : State :=
  match tget s.rtr.shapersNext k with
  | some ⟨e, _ + 1⟩ =>
    let us := s.periodUs
    let old := mget Shaper.reset s.rtr.shapers k
    let x : Shaper := ⟨e, old.tokens⟩
    let mode := (e.extractLsb' 66 2).toNat
    let x' := if mode = 0 then { x with tokens := shaperCap x us }
      else if mode = 1 then shaperRefill { x with tokens := 0 } us
      else shaperRefill { x with tokens := min x.tokens (shaperCap x us) } us
    ({ s with rtr := { s.rtr with shapers := mset Shaper.reset s.rtr.shapers k x', shapersNext := tdel s.rtr.shapersNext k } }).ledger 5
      ((x'.tokens : Int) - old.tokens)
  | _ => s

def execShaperWriteApply (sh : BitVec 13) (s : State) : Host.Outcome State Fault Refusal :=
  .next (s.quiet.whenLive (shaperWriteApply sh.toNat))

/-- RTR_TABLE_READ. -/
def rtrTableRead (table : RtrTable) (index count : BitVec 16) (s : State) : State :=
  let i := index.toNat
  let n := count.toNat
  let size := match table with
    | .route0 => 16384
    | .route1 => 16384
    | .mcast => 4096
    | .policer => 4096
    | .shaper => 8192
  if n = 0 ∨ 1024 < n ∨ size < i + n then s.reply 0x25#8 7 []
  else s.reply 0x25#8 0 ((List.range n).flatMap (fun k => match table with
    | .route0 => bytesOf (mget 0#32 s.rtr.routes (i + k)) 4
    | .route1 => bytesOf (mget 0#32 s.rtr.routes (16384 + i + k)) 4
    | .mcast => bytesOf (mget 0#48 s.rtr.mcast (i + k)) 6
    | .policer => bytesOf (mget Policer.reset s.rtr.policers (i + k)).entry 16
    | .shaper => bytesOf (mget Shaper.reset s.rtr.shapers (i + k)).entry 16))

def execRtrTableRead (table : RtrTable) (index count : BitVec 16) (s : State) : Host.Outcome State Fault Refusal :=
  .next (s.quiet.whenLive (rtrTableRead table index count))

/-! What a boundary does (R392, R395, R398, R407, R411). -/

/-- Timers and staged writes see a boundary pass; a request's timer pauses while its port is retraining. -/
def State.rtrAges (s : State) : State :=
  { s with rtr := { s.rtr with
      switch := s.rtr.switch.map (· + 1), drain := s.rtr.drain.map (fun n => n - 1),
      mcastNext := tmap s.rtr.mcastNext (fun _ e => { e with age := e.age + 1 }),
      policersNext := tmap s.rtr.policersNext (fun _ e => { e with age := e.age + 1 }),
      shapersNext := tmap s.rtr.shapersNext (fun _ e => { e with age := e.age + 1 }),
      xfers := tmap s.rtr.xfers (fun _ e => { e with age := e.age + 1 }),
      reqs := tmap s.rtr.reqs (fun _ r => match r.port with
        | some p => if (s.link p).retraining then r else { r with age := r.age + 1 }
        | none => { r with age := r.age + 1 }),
      reported := [] } }

/-- Step 6: shapers refill, then policers; one that takes a new entry at this boundary refills with it. -/
def State.rtrRefill (s : State) : State :=
  let us := s.periodUs
  let sh : SMap Shaper := tmap s.rtr.shapers (fun k x =>
    if shaperValid x && (tget s.rtr.shapersNext k).isNone then shaperRefill x us else x)
  let po : SMap Policer := tmap s.rtr.policers (fun k x =>
    if polValid x.entry && (tget s.rtr.policersNext k).isNone then
      { x with tc := min (x.tc + polCir x.entry * us) (polCbs x.entry), tp := min (x.tp + polPir x.entry * us) (polPbs x.entry) }
    else x)
  let sum5 (m : SMap Shaper) : Int := (m.map (fun e => (e.2.tokens : Int))).sum
  let sum6 (m : SMap Policer) : Int := (m.map (fun e => (e.2.tc + e.2.tp : Int))).sum
  (({ s with rtr := { s.rtr with shapers := sh, policers := po } }).ledger 5 (sum5 sh - sum5 s.rtr.shapers)).ledger 6
    (sum6 po - sum6 s.rtr.policers)

end Sys2Proof.Machine
end

