-- ==== Sys2Proof/Machine/SecOps.lean ====
section
/-! DEFINITION. Headland's shared operations (spec/14): messages and sessions, responses, and what the commands ask of tenants and
extents. -/

namespace Sys2Proof.Machine

/-! Results (R490). -/

def secOk : Nat := 0
def secBadMsg : Nat := 1
def secAuthErr : Nat := 2
def secDenied : Nat := 3
def secBusy : Nat := 4
def secFull : Nat := 5
def secBadState : Nat := 6
def secRollback : Nat := 7
def secRecovery : Nat := 8

/-- The commands of R489. -/
def secCommands : List Nat :=
  [0x01, 0x02, 0x10, 0x11, 0x13, 0x12, 0x20, 0x21, 0x22, 0x30, 0x31, 0x32, 0x33, 0x34, 0x35, 0x36, 0x37, 0x38, 0x39, 0x40, 0x41, 0x42,
   0xF0]

/-! State. -/

def State.mbox (s : State) (p : PlPort) : Mbox := mget Mbox.reset s.sec.mboxes p.val

def State.setMbox (s : State) (p : PlPort) (m : Mbox) : State :=
  { s with sec := { s.sec with mboxes := mset Mbox.reset s.sec.mboxes p.val m } }

def State.session (s : State) (n : Nat) : Option Session := tget s.sec.sessions n

def State.setSession (s : State) (n : Nat) (x : Session) : State :=
  { s with sec := { s.sec with sessions := tput s.sec.sessions n x } }

/-- Close a session: its keys and an update open in it are gone. -/
def State.closeSession (s : State) (n : Nat) : State := { s with sec := { s.sec with sessions := tdel s.sec.sessions n } }

/-- The recovery image runs (R486, R538). -/
def State.recovering (s : State) : Bool := s.plt.phase == .recovery

/-- Headland works: powered, out of reset, not tripped; a node-fatal state leaves it its own commands (R589). -/
def State.awake (s : State) : Bool := s.plt.powered && !s.plt.resetHeld && !s.plt.tripped

def State.whenAwake (s : State) (f : State → State) : State := if s.awake then s.settle (f s) else s

def tenantBoundTo (x : TenantRec) : Bool := x.key.isSome

/-- A sealed extent of a tenant. -/
def State.sealedExts (s : State) (t : Tenant) : List (Nat × Extent) :=
  s.ext.extents.filter (fun e => e.2.state == .sealed && e.2.tenant == t)

/-- A tenant is confidential (R484). -/
def State.confidential (s : State) (t : Tenant) : Bool :=
  let x := s.tenant t
  x.slot0.state != .empty || x.slot1.state != .empty || x.required || !(s.sealedExts t).isEmpty

/-- Some tenant is confidential (R521). -/
def State.anyConfidential (s : State) : Bool :=
  s.sec.tenants.any (fun e => s.confidential (BitVec.ofNat 10 e.1)) || s.ext.extents.any (fun e => e.2.state == .sealed)

/-! Messages (R488, R493, R495). -/

/-- A message's header. -/
def headHeader (cmd status : Nat) (prot : Bool) (len sess seq : Nat) : List Byte :=
  [0x01#8] ++ natBytes 1 cmd ++ natBytes 1 status ++ [if prot then 0x01#8 else 0x00#8] ++ natBytes 4 len ++ natBytes 4 sess ++ natBytes 4 seq

/-- The IV of a protected message (R493). -/
def headIv (toClient : Bool) (sess seq : Nat) : BitVec 96 :=
  BitVec.ofNat 96 (bitNat toClient 95 + sess % 2 ^ 32 * 2 ^ 32 + seq % 2 ^ 32)

/-- Send a message: into the response buffer of a mailbox, or over the management port to the requester's address (R487, R495). -/
def State.headSend (s : State) (port : Option PlPort) (src : W64) (bytes : List Byte) : State :=
  match port with
  | none => s.emit (.head none src bytes)
  | some p =>
    let m := s.mbox p
    let bs := if m.rspMax.toNat < bytes.length then
        headHeader ((bytes.getD 1 0#8).toNat) secBadMsg false 16 0 0
      else bytes
    let count := max 1 ((bs.length + 4095) / 4096)
    let s1 := (s.issue hostEp (some p) (bulkPackets hostEp 0#10 4096 count count m.rspAddr bs) vcBulk (.mbox p)).1
    (s1.setMbox p { m with busy := false, done := true, rspLen := BitVec.ofNat 15 bs.length }).emit (.head (some p) src bs)

/-- Answer a request: its body is empty unless the result is SEC_OK (R491); in a session it is protected and kept for a repeated
request (R493). sid is the SESSION_ID of an unprotected answer. -/
def State.headAnswer (s : State) (m : SecMsg) (status : Nat) (body : List Byte) (sid : Nat) : State :=
  let body := if status = secOk then body else []
  match (if m.prot then s.session m.sess else none) with
  | some x =>
    let hdr := headHeader m.cmd.toNat status true (32 + body.length) m.sess x.seqOut
    let bytes := hdr ++ sealBytes x.keyOut (headIv true m.sess x.seqOut) hdr body
    let x' := { x with seqOut := x.seqOut + 1, last := some bytes }
    let s1 := if 2 ^ 32 - 1 ≤ x'.seqOut then s.closeSession m.sess else s.setSession m.sess x'
    s1.headSend m.port m.src bytes
  | none => s.headSend m.port m.src (headHeader m.cmd.toNat status false (16 + body.length) sid 0 ++ body)

def State.headReply (s : State) (m : SecMsg) (status : Nat) (body : List Byte) : State := s.headAnswer m status body 0

/-- Keep a request whose answer waits: its number. -/
def State.headDefer (s : State) (m : SecMsg) : Nat × State :=
  (s.sec.nextDeferred,
   { s with sec := { s.sec with deferred := tput s.sec.deferred s.sec.nextDeferred m, nextDeferred := s.sec.nextDeferred + 1 } })

/-- Answer a request that waited. -/
def State.headFinish (s : State) (n : Nat) (status : Nat) (body : List Byte) : State :=
  match tget s.sec.deferred n with
  | none => s
  | some m => ({ s with sec := { s.sec with deferred := tdel s.sec.deferred n } }).headReply m status body

/-- A handshake or a message failed to authenticate (R492, R493): counted and reported. -/
def State.sessionFail (s : State) (n : Nat) (k : SessKind) : State :=
  (s.tally (ctrSec 4)).raise (mkReport 0x0B 0x02 0 unitHeadland n (match k with
    | .operator => 1
    | .tenant _ => 2))

/-- A message whose header is well formed (R488). -/
def headWellFormed (bs : List Byte) : Bool :=
  decide (16 ≤ bs.length) && decide (bs.length ≤ 16384) && fieldAt bs 0 1 == 1 && fieldAt bs 2 1 == 0 && decide (fieldAt bs 3 1 ≤ 1)
  && fieldAt bs 4 4 == bs.length && secCommands.contains (fieldAt bs 1 1)

/-- Headland receives one message whole. A protected one is checked against its session: a repeated SEQ gets the last answer again, a
wrong SEQ is refused, a bad tag closes the session (R493). One that passes waits for its command's row. -/
def State.headReceive (s : State) (port : Option PlPort) (src : W64) (bs : List Byte) : State :=
  let m : SecMsg := { port := port, src := src, cmd := BitVec.ofNat 8 (fieldAt bs 1 1), prot := fieldAt bs 3 1 == 1,
                      sess := fieldAt bs 8 4, seq := fieldAt bs 12 4, body := bs.drop 16, started := false }
  let plain : SecMsg := { m with prot := false }
  let push (st : State) (x : SecMsg) : State := { st with sec := { st.sec with msgs := st.sec.msgs ++ [x] } }
  if !headWellFormed bs then s.headReply plain secBadMsg []
  else if !m.prot then push s m
  else match s.session m.sess with
  | none => s.headReply plain secDenied []
  | some x =>
    if !x.isOpen then s.headReply plain secDenied []
    else if m.seq + 1 = x.seqIn then (if x.seqOut = x.seqIn then s.headSend port src (x.last.getD []) else s)
    else if m.seq ≠ x.seqIn then s.headReply plain secBadMsg []
    else match openBytes x.keyIn (headIv false m.sess m.seq) (bs.take 16) (bs.drop 16) with
    | none => ((s.closeSession m.sess).sessionFail m.sess x.kind).headReply plain secAuthErr []
    | some pt => push (s.setSession m.sess { x with seqIn := x.seqIn + 1 }) { m with body := pt }

/-- The message a command's row takes: message i, when its CMD is the row's. -/
def State.takeMsg (s : State) (i : Nat) (cmd : Nat) : Option (SecMsg × State) :=
  match s.sec.msgs[i]? with
  | some m => if m.cmd.toNat = cmd ∧ !m.started then
      some (m, { s with sec := { s.sec with msgs := s.sec.msgs.eraseIdx i } }) else none
  | none => none

/-- The session a protected message came in. -/
def State.msgSession (s : State) (m : SecMsg) : Option Session := if m.prot then s.session m.sess else none

/-- What the recovery image refuses (R486), and what a node-fatal state refuses (R589). -/
def State.headGate (s : State) (cmd : Nat) : Option Nat :=
  if s.recovering && !([0x01, 0x02, 0x10, 0x11, 0x12, 0x13, 0x20, 0x40, 0x42].contains cmd) then some secRecovery
  else if s.dbg.fatal && !([0x01, 0x02, 0x10, 0x11, 0x12, 0x13, 0xF0].contains cmd) then some secBadState
  else none

/-- Run a command's row on message i: the gate, then the session it needs, then the command itself. -/
def headRun (i : Nat) (cmd : Nat) (f : SecMsg → State → State) (s : State) : State :=
  match s.takeMsg i cmd with
  | none => s
  | some (m, s1) => match s1.headGate cmd with
    | some st => s1.headReply m st []
    | none => f m s1

/-- A command of an operator's session. -/
def headOperator (f : SecMsg → Session → State → State) (m : SecMsg) (s : State) : State :=
  match s.msgSession m with
  | some x => if x.kind = .operator then f m x s else s.headReply m secDenied []
  | none => s.headReply m secDenied []

/-- A command of a tenant's session. -/
def headTenant (f : SecMsg → Session → Tenant → State → State) (m : SecMsg) (s : State) : State :=
  match s.msgSession m with
  | some x => (match x.kind with
    | .tenant t => f m x t s
    | .operator => s.headReply m secDenied [])
  | none => s.headReply m secDenied []

end Sys2Proof.Machine
end

