-- ==== Sys2Proof/Machine/BootOps.lean ====
section
/-! DEFINITION. Image sets, the flash header and the persistent store (R535 to R539, R544), and R485: what Headland's ROM does with a set that
passes. -/

namespace Sys2Proof.Machine

/-! Image sets (R537). -/

/-- The manifest's length; it is the item measured as M_MANIFEST. -/
def manifestBytes : Nat := 4928

def setMagic (b : List Byte) : Nat := fieldAt b 0 4
def setSvn (b : List Byte) : Nat := fieldAt b 4 4
def setSteppings (b : List Byte) : Nat := fieldAt b 16 4

/-- A component entry: KIND, OFFSET, BYTES and DIGEST. -/
structure SetEntry where
  kind : Nat
  off : Nat
  bytes : Nat
  digest : List Byte
deriving DecidableEq, Repr

def setEntry (b : List Byte) (i : Nat) : SetEntry :=
  let o := 24 + 80 * i
  ⟨fieldAt b o 1, fieldAt b (o + 8) 4, fieldAt b (o + 12) 4, (b.drop (o + 16)).take 64⟩

def setEntries (b : List Byte) : List SetEntry := [setEntry b 0, setEntry b 1, setEntry b 2]

/-- A component's bytes. -/
def setPart (b : List Byte) (e : SetEntry) : List Byte := (b.drop e.off).take e.bytes

/-- The component of a kind. -/
def setKind (b : List Byte) (k : Nat) : List Byte :=
  match (setEntries b).find? (fun e => e.kind == k) with
  | some e => setPart b e
  | none => []

/-- Bytes of a set that its components need. -/
def setLength (b : List Byte) : Nat := ((setEntries b).map (fun e => e.off + e.bytes)).foldl max manifestBytes

/-- The bit of this device's stepping in STEPPINGS. -/
def steppingBit : Nat := 4 * Config.steppingMajor.toNat + Config.steppingMinor.toNat

/-- The first check of R538 that a set fails, by its cause. -/
def State.checkSet (s : State) (b : List Byte) (region : Nat) : Option Nat :=
  if setMagic b ≠ 0x54464E4D ∨ !Config.mldsaVerify Config.firmwareKey (b.take 264) ((b.drop 264).take 4627) then some 1
  else if !(setSteppings b).testBit steppingBit then some 2
  else if setSvn b < Config.minSvn s.plt.fuses then some 3
  else if [1, 2, 3].any (fun k => ((setEntries b).filter (fun e => e.kind == k)).length ≠ 1) ∨
      (setEntries b).any (fun e => decide (region < e.off + e.bytes)) then some 4
  else if (setEntries b).any (fun e => sha3 (setPart b e) ≠ e.digest) then some 5
  else none

/-- The four measurements of R485: Headland firmware, device firmware, built-in reels, manifest. -/
def measureSet (b : List Byte) : List (List Byte) :=
  [sha3 (setKind b 1), sha3 (setKind b 2), sha3 (setKind b 3), sha3 (b.take manifestBytes)]

/-- What the attestation key follows from (R485). -/
def State.attestBase (s : State) : List (List Byte) := s.sec.measures ++ [bytesOf s.sec.svn 4]

/-! The flash (R535, R536). -/

def bankRegion : Nat := 11 * 2 ^ 20
def recoveryRegion : Nat := 4 * 2 ^ 20
def downloadRegion : Nat := 16 * 2 ^ 20

def State.setFlash (s : State) (f : Flash) : State := { s with plt := { s.plt with flash := f } }

/-- Write the flash header's other copy, with SEQ one higher. -/
def Flash.writeHeader (f : Flash) (h : FlashHeader) : Flash := { f with header := { h with seq := f.header.seq + 1 }, older := some f.header }

/-- Mark a bank FAILED in the header. -/
def Flash.failBank (f : Flash) (bank : Fin 2) : Flash :=
  f.writeHeader (if bank = 0 then { f.header with state0 := .failed } else { f.header with state1 := .failed })

def Flash.bankOf (f : Flash) (bank : Fin 2) : List Byte := if bank = 0 then f.bank0 else f.bank1

/-- The bank that the ROM selects first (R539); none for the recovery image. -/
def Flash.selected (f : Flash) : Option (Fin 2) :=
  match f.header.pendingBank with
  | some b => some b
  | none => f.header.active

/-- The bank that FW_UPDATE writes: the one that is not ACTIVE. -/
def Flash.spare (f : Flash) : Fin 2 := if f.header.active = some 0 then 1 else 0

/-- The registers' windows are served: from FW_START on (R534). -/
def State.windowsServed (s : State) : Bool := s.plt.phase != .rom && s.plt.phase != .downloadWait

/-- A set has passed (R538, R485): its measurements stand, firmware starts and takes TIDE_OUT and SHDN_DONE (R600), and a dump that was kept is
served again (R591): its header says whether every section is there. -/
def State.startSet (s : State) (b : List Byte) (bank : BitVec 2) (phase : Phase) : State :=
  let kept : DumpState :=
    if s.dbg.dumpHeader.isEmpty then .none
    else if mget 0#8 s.dbg.dumpHeader 5 == 2#8 then .readyAfterReset else .damagedAfterReset
  { s with
    plt := { s.plt with phase := phase, bank := bank, fwPins := true, download := [], downloaded := [] }
    sec := { s.sec with measures := measureSet b, svn := BitVec.ofNat 32 (setSvn b), released := true, root := s.plt.flash.root }
    dbg := { s.dbg with dumpState := kept } }

/-- ABRUPT_LAST (R557): the newest shut-down record is not a CLEAN one of the last boot; without a flash every shut-down counts as abrupt. -/
def Flash.abrupt (f : Flash) : Bool :=
  !f.present || (match f.shutdown with
    | some (2, r) => fieldAt r 20 4 != f.bootCount
    | _ => true)

/-- The ROM reads the persistent store (R534, R544): how the last shut-down ended, and one more boot. -/
def State.readStore (s : State) : State :=
  let f := s.plt.flash
  { s with plt := { s.plt with abruptLast := f.abrupt, flash := { f with bootCount := f.bootCount + 1 } } }

/-- A check failed (R538): its cause, and for a bank its FAILED mark and report. -/
def State.failSet (s : State) (bank : Option (Fin 2)) (cause : Nat) : State :=
  let s1 := { s with plt := { s.plt with failCause := BitVec.ofNat 3 cause } }
  match bank with
  | none => s1
  | some b => (s1.setFlash (s1.plt.flash.failBank b)).raise (mkReport 0x0C 0x05 1 unitChip b.val cause)

end Sys2Proof.Machine
end

