-- ==== Sys2Proof/Machine/MemOps.lean ====
section
/-! DEFINITION. The memory controllers' shared operations (spec/07): refresh and temperature, retraining and stack failure, scrub and patrol slices; and the shut-down record of a thermal trip (R554, R558). -/

namespace Sys2Proof.Machine

/-! Shut-down records and thermal trip. -/

/-- A shut-down record of 256 bytes (R558). -/
def State.shutRecord (s : State) (kind : Nat) (unit : BitVec 16) : List Byte :=
  let body := natBytes 4 0x4E444853 ++ natBytes 4 kind ++ bytesOf s.tide.count 8 ++ bytesOf s.sec.svn 4 ++
    natBytes 4 s.plt.flash.bootCount ++ bytesOf unit 2 ++ List.replicate 226 0#8
  body ++ bytesOf (crc32c body) 4

/-- A verdict record of 256 bytes (R570). -/
def State.lbistRecord (s : State) (mask : BitVec 128) : List Byte :=
  let body := natBytes 4 0x5453424C ++ natBytes 4 s.plt.flash.bootCount ++ bytesOf s.tide.count 8 ++ bytesOf s.sec.svn 4 ++
    List.replicate 4 0#8 ++ bytesOf mask 16 ++ List.replicate 212 0#8
  body ++ bytesOf (crc32c body) 4

/-- Append a shut-down record to the persistent store. -/
def State.appendShut (s : State) (kind : Nat) (unit : BitVec 16) : State :=
  { s with plt := { s.plt with flash := { s.plt.flash with shutdown := some (kind, s.shutRecord kind unit) } } }

/-- A thermal trip (R554): every unit stops, THERM_TRIP_N is driven low, and PHASE is TRIPPED until the next reset. -/
def State.thermalTrip (s : State) (unit : BitVec 16) : State :=
  let s1 := s.appendShut 4 unit
  { s1 with plt := { s1.plt with tripped := true, phase := .tripped, thermTrip := true } }

/-! Refresh (R238 to R240). -/

/-- No credit. -/
def Credit.none : Credit := ⟨0, 0⟩

/-- The refresh credit of a stack or zone so far. -/
def State.creditOf (s : State) (g : Nat) : Nat := (mget Credit.none s.mem.refCredit g).total

/-- Refreshes owed by a channel. -/
def State.refOwed (s : State) (ch : MemCh) : Int :=
  let g := if chanDeep ch then chanStack ch else 16 + chanZone ch
  ((mget Credit.none s.mem.refCredit g).total : Int) - (s.chan ch).refIssued

/-- Banks of a channel, and eight rounds of them. -/
def chanBanks (ch : MemCh) : Nat := if chanDeep ch then 80 else 8
def refLimit (ch : MemCh) : Int := 8 * chanBanks ch

/-- Add amount / interval to a credit, its remainder carrying. -/
def Credit.add (c : Credit) (num den : Nat) : Credit := ⟨c.total + (c.rem + num) / den, (c.rem + num) % den⟩

/-- One group's refresh credit for a tick of P ns. -/
def State.creditRefresh (s : State) (g banks : Nat) (double : Bool) : State :=
  let m := mmod Credit.none s.mem.refCredit g (fun c => c.add (banks * s.periodUs * 1000) (if double then 1950 else 3900))
  { s with mem := { s.mem with refCredit := m } }

/-- The refresh rate that a reading leaves (R240). -/
def refRate (c : RefCtrl) (double : Bool) (temp : BitVec 8) : Bool :=
  if c.hi.toInt ≤ temp.toInt then true else if temp.toInt ≤ c.lo.toInt then false else double

/-- Report a change of refresh rate. -/
def State.rateReport (s : State) (was now : Bool) (unit : BitVec 16) : State :=
  if was = now then s else s.raise (mkReport 0x0A (if now then 0x04 else 0x05) 0 unit 0 0)

/-! Retraining and stack failure (R247, R248). -/

/-- The first pseudo-channel of a stack, which names the stack in reports. -/
def stackChan (st pc : Nat) : MemCh := ⟨(st * 32 + pc % 32) % 640, Nat.mod_lt _ (by decide)⟩

/-- A retraining cycle starts. -/
def State.startRetrain (s : State) (st : Nat) : State :=
  let x := s.stack st
  ((s.setStack st { x with retraining := true, pc := 0, startTemp := x.temp, startCredit := s.creditOf st, failedOnce := false, again := false }).tally
    (ctrMem 9 st)).raise (mkReport 0x0A 0x06 0 (unitChan (stackChan st 0)) 0 0)

/-- A stack fails (R248): marked and reported once, its outstanding reads return poison, its granules are lost. -/
def State.failStack (s : State) (st mask cause : Nat) : State :=
  let x := s.stack st
  if x.failed then s
  else
    let pc := ((List.range 32).find? (fun i => mask.testBit i)).getD 0
    let s1 := s.setStack st { x with failed := true, failedPc := BitVec.ofNat 5 pc, retraining := false, again := false }
    let s2 := (List.range 32).foldl (fun acc i =>
      let ch := stackChan st i
      let c := acc.chan ch
      acc.setChan ch { c with reads := c.reads.map (fun e => { e with issued := true, poison := e.poison.map (fun _ => true) }) }) s1
    (s2.raise (mkReport 0x0A 0x08 1 (unitChan (stackChan st pc)) mask cause)).loseStack st

/-- A stack's reading at step 8 (R240, R247): refresh rate, drift, and a trip at 105 °C (R554). -/
def State.stackReading (s : State) (st : Nat) (temp : BitVec 8) : State :=
  let x := s.stack st
  let dbl := refRate s.mem.deepRef x.refDouble temp
  let s1 := (s.setStack st { x with temp := temp, refDouble := dbl }).rateReport x.refDouble dbl (unitChan (stackChan st 0))
  let drift : Bool := decide (15 ≤ (temp.toInt - x.trainTemp.toInt).natAbs)
  let s2 :=
    if !drift || x.failed || !s.memTrained then s1
    else if x.retraining then s1.setStack st { s1.stack st with again := true }
    else s1.startRetrain st
  if 105 ≤ temp.toInt then s2.thermalTrip (unitStack st) else s2

/-- A zone's sensor is read (R243, R554): TEMP, OVERTEMP with its report, and a thermal trip at 100 °C. -/
def State.zoneHeat (s : State) (z : Nat) (temp : BitVec 8) : State :=
  let x := s.zone z
  let ot : Bool := if 95 ≤ temp.toInt then true else if temp.toInt ≤ s.mem.thrOff.toInt then false else x.overtemp
  let s1 := s.setZone z { x with temp := temp, overtemp := ot }
  let s2 := if ot && !x.overtemp then s1.raise (mkReport 0x0A 0x0A 1 (BitVec.ofNat 16 (0x1000 + z)) 0 0) else s1
  if 100 ≤ temp.toInt then s2.thermalTrip (BitVec.ofNat 16 (0x1000 + z)) else s2

/-- A zone's reading at step 8 (R240). -/
def State.zoneReading (s : State) (z : Nat) (temp : BitVec 8) : State :=
  let x := s.zone z
  let dbl := refRate s.mem.shelfRef x.refDouble temp
  ((s.setZone z { x with refDouble := dbl }).rateReport x.refDouble dbl (BitVec.ofNat 16 (0x1000 + z))).zoneHeat z temp

/-- Step 8 of a boundary: readings, then the credit of every stack and zone at the rate they leave. -/
def State.memStep8 (s : State) (inp : BoundaryIn) : State :=
  let s1 := ((List.range 12).zip inp.stackTemps).foldl (fun st e => st.stackReading e.1 e.2) s
  let s2 := ((List.range 8).zip inp.zoneTemps).foldl (fun st e => st.zoneReading e.1 e.2) s1
  let s3 := (List.range 12).foldl (fun st k => st.creditRefresh k 80 (st.stack k).refDouble) s2
  (List.range 8).foldl (fun st z => st.creditRefresh (16 + z) 8 (st.zone z).refDouble) s3

/-! Scrub and patrol (R256, R257, R259). -/

/-- A read of a unit is accepted by its channel (R233, R234, R236). -/
def State.enterRead (s : State) (kind : MemKind) (loc : DramLoc) : State :=
  let c := s.chan loc.ch
  let c1 := c.onRead loc.bank loc.row none
  let a := alignDown loc.addr (chanUnit loc.ch)
  (s.setChan loc.ch { c1 with reads := c1.reads ++ [s.readEntry kind loc.ch a (chanUnit loc.ch) loc.bank loc.row c.nextSeq],
                              nextSeq := c.nextSeq + 1 }).afterQueue loc.ch

/-- A read of the unit at a key, given to its channel at class 3. -/
def State.giveRead (s : State) (kind : MemKind) (key : Nat) : State :=
  s.enterRead kind (dramLoc (key / granBytes) (key % granBytes))

/-- The unit reads of a scrub's range, by key, in ascending order: 256 bytes in Deep and 128 in Shelf. -/
def State.scrubUnits (s : State) (sc : ScrubOp) : List Nat :=
  match s.extent sc.ext.toNat with
  | none => []
  | some x =>
    let u := if sc.shelf then 128 else 256
    (List.range (sc.length / u)).map (fun k =>
      let ppa := sc.addr + k * u
      x.grans.getD (ppa / granBytes - x.baseSlot) 0 * granBytes + ppa % granBytes)

/-- The units of a scrub that each channel has still to be given. -/
def State.scrubLeft (s : State) (sc : ScrubOp) : SMap (List Nat) :=
  let all := (s.scrubUnits sc).foldl (fun (m : SMap (List Nat)) key =>
    let ch := (dramLoc (key / granBytes) (key % granBytes)).ch.val
    mset [] m ch (mget [] m ch ++ [key])) []
  (tmap all (fun ch l => l.drop (mget 0 sc.given ch))).filter (fun e => !e.2.isEmpty)

/-- Units taken in turn from several scrubs, at most n. -/
def takeTurns : Nat → List (Nat × List Nat) → List (Nat × Nat)
  | 0, _ => []
  | _ + 1, [] => []
  | n + 1, (_, []) :: rest => takeTurns n rest
  | n + 1, (op, [key]) :: rest => (op, key) :: takeTurns n rest
  | n + 1, (op, key :: more) :: rest => (op, key) :: takeTurns n (rest ++ [(op, more)])

/-- A scrub reads with its queue pair's endpoint and tenant. -/
def State.scrubAccess (s : State) (n : Nat) : Access := match s.op n with
  | some o => accRead o.ep (s.opAuth o)
  | none => accRead 0#14 []

/-- The extent check of a scrub's range before a slice round (R257). -/
def State.scrubCheck (s : State) (n : Nat) (sc : ScrubOp) : Option Status :=
  match s.extCheck (s.scrubAccess n) (BitVec.ofNat 64 sc.addr ||| (s.rtr.nodeId.setWidth 64 <<< 40)) (sc.addr + sc.length) with
  | .error st => some st
  | .ok _ => none

/-- A scrub's slice is still being read on a channel: it runs on, and the next slice waits for it (R31, R256). -/
def Chan.slicing (c : Chan) : Bool := c.reads.any (fun e => match e.kind with
  | .scrub _ => true
  | _ => false)

/-- The slice round of step 12. -/
def State.scrubSlices (s : State) : State :=
  let checked := tmap s.mem.scrubs (fun n sc => if sc.stopped.isSome then sc else
    match s.op n with
    | some o => { sc with stopped := if o.ending.isSome then o.ending else s.scrubCheck n sc }
    | none => sc)
  let s0 := { s with mem := { s.mem with scrubs := checked } }
  let left := (checked.filter (fun e => e.2.stopped.isNone)).map (fun e => (e.1, s0.scrubLeft e.2))
  let chans := ((left.flatMap (fun e => e.2.map Prod.fst)).eraseDups).filter (fun ch => !(mget Chan.idle s.mem.chans ch).slicing)
  let s1 := left.foldl (fun st e =>
    if e.2.isEmpty then st
    else { st with mem := { st.mem with scrubs := tmod st.mem.scrubs e.1 (fun sc =>
        { sc with ticks := sc.ticks + 1, startTick := if sc.ticks = 0 then st.tide.count else sc.startTick }) } }) s0
  chans.foldl (fun st ch =>
    let budget := s.mem.demandUnits.toNat * (if ch < 384 then 1 else 2)
    (takeTurns budget (left.filterMap (fun e => match tget e.2 ch with
      | some l => some (e.1, l)
      | none => none))).foldl (fun acc t =>
        { acc.giveRead (.scrub t.1) t.2 with mem := { (acc.giveRead (.scrub t.1) t.2).mem with
            scrubs := tmod acc.mem.scrubs t.1 (fun sc =>
              { sc with given := mmod 0 sc.given ch (· + 1), outstanding := sc.outstanding + 1 }) } }) st) s1

/-- Units of a channel's whole local address range. -/
def patrolUnits (deep : Bool) : Nat := if deep then 1280 * 2 ^ 26 / 32 / 256 else 128 * 2 ^ 26 / 128 / 128

/-- The key of the j-th unit of a channel: the inverse of the decode of R227 and R228. -/
def patrolKey (ch : MemCh) (j : Nat) : Nat :=
  if chanDeep ch then
    let a := j * 2 ^ 13
    chanKey ch (a + ((ch.val % 32) ^^^ bitsOf a 24 20) % 32 * 256)
  else
    let a := j * 2 ^ 14
    chanKey ch (a + (((ch.val - 384) % 128) ^^^ bitsOf a 26 20) % 128 * 128)

/-- The patrol reads a channel owes are issued (R259); a pass that ends is counted. -/
def State.patrolChan (s : State) (ch : MemCh) : Nat → State
  | 0 => s
  | fuel + 1 =>
    let c := s.chan ch
    let owed := (mget Credit.none s.mem.patrolCredit (if chanDeep ch then 0 else 1)).total
    if s.chanRetraining ch || s.chanFailed ch || decide (owed ≤ c.patrolIssued) then s
    else
      let s1 := s.giveRead .patrol (patrolKey ch c.patrolPos)
      let pos := (c.patrolPos + 1) % patrolUnits (chanDeep ch)
      let s2 := s1.setChan ch { s1.chan ch with patrolIssued := c.patrolIssued + 1, patrolPos := pos }
      (if pos = 0 then s2.tally (ctrMem 6 0) else s2).patrolChan ch fuel

/-- The patrol of step 12. -/
def State.patrolSlices (s : State) : State :=
  if !s.mem.patrolEn then s
  else
    let den := s.mem.patrolHours.toNat * 3600000000
    let add (m : SMap Credit) (k : Nat) : SMap Credit :=
      mmod Credit.none m k (fun c => c.add (patrolUnits (k == 0) * s.periodUs) den)
    let s1 := { s with mem := { s.mem with patrolCredit := add (add s.mem.patrolCredit 0) 1 } }
    (List.finRange 640).foldl (fun st ch => st.patrolChan ch 64) s1

end Sys2Proof.Machine
end

