-- ==== Sys2Proof/Machine/Memory.lean ====
section
/-! DEFINITION. The memory controllers' commands, and SCRUB (spec/07). -/

namespace Sys2Proof.Machine

/-! Accepting requests (R229, R233 to R236). -/

/-- Bytes of a merge-buffer entry, later ones replacing earlier ones. -/
def mergeBytes (old : Line) (en : BitVec 64) (data : Line) : Line :=
  (List.range 64).foldl (fun acc i =>
    if en.getLsbD i then (acc &&& ~~~(0xFF#512 <<< (8 * i))) ||| ((byteOf data i).setWidth 512 <<< (8 * i)) else acc) old

/-- A write that its slice has carried out enters a controller's queues; its bytes are in memory already, so that a read accepted
after it returns them (R234). -/
def State.acceptWrite (s : State) (loc : DramLoc) (en : BitVec 64) (data : Line) : State :=
  let ch := loc.ch
  let c := s.chan ch
  let a := alignDown loc.addr 64
  match c.place a en with
  | .held => s
  | .join q => (s.setChan ch { c with merges := c.merges.map (fun x =>
      if x.seq = q then { x with enables := x.enables ||| en, data := mergeBytes x.data en data } else x) }).afterQueue ch
  | .queue =>
    (s.setChan ch { c with
      writes := c.writes ++ [{ seq := c.nextSeq, kind := .write, addr := a, bank := loc.bank, row := loc.row, issued := false, data := [],
                               poison := [], rewritten := [], renewed := [] }],
      nextSeq := c.nextSeq + 1 }).afterQueue ch
  | .entry =>
    (s.setChan ch { c with
      merges := c.merges ++ [{ seq := c.nextSeq, addr := a, bank := loc.bank, row := loc.row, enables := en, data := data,
                               closed := false, asked := false, ready := false }],
      nextSeq := c.nextSeq + 1 }).afterQueue ch

/-- A unit comes from a slice: the granule belongs to an extent whose slots are mapped, so requests that pass the extent check reach it
(R13, R277), and a write's bytes are those the slice has stored for such a request. -/
def State.fromSlice (s : State) (g : Nat) (off : BitVec 26) (r : MemReq) : Bool :=
  let mapped : Bool := match s.granOwner g with
    | some (_, x, _) => extMapped x
    | none => false
  mapped && (match r with
    | .read => true
    | .write en data =>
      let line := (g * granBytes + off.toNat) / 64
      (List.range 64).all (fun i => !en.getLsbD i || mget 0 s.mem.bytes (line * 64 + i) == byteOf data i))

/-- MEM_CTRL_ACCEPT. The controllers take units from the slices alone. A request of a kind whose structure is full is held back (R229);
a failed stack accepts none (R248). No byte of memory changes: the slice stored a write's bytes when it carried the write out. -/
def memCtrlAccept (g : Nat) (off : BitVec 26) (r : MemReq) (s : State) : State :=
  let loc := dramLoc g off.toNat
  if !s.memTrained || s.chanFailed loc.ch || !s.fromSlice g off r then s
  else match r with
  | .read => if 64 ≤ (s.chan loc.ch).readCount then s else s.enterRead .read loc
  | .write en data => s.acceptWrite loc en data

/-- A granule number of 15,616 or more names no memory (R225). -/
def execMemCtrlAccept (g : Nat) (off : BitVec 26) (r : MemReq) (s : State) : Host.Outcome State Fault Refusal :=
  if granCountAll ≤ g then .fault .noSuchGranule else .next (s.quiet.whenLive (memCtrlAccept g off r))

/-! Data that returns. -/

/-- A write of a bank has issued or is gone: the write that in-order mode waits for ends it (R233). -/
def MemBank.wrote (b : MemBank) (seq : Nat) : MemBank :=
  if b.inOrder && b.release == seq then { b with inOrder := false, release := 0 } else b

/-- MEM_CTRL_READ_DATA (R250): data of an issued read returns, word by word, with the bits that DRAM shows flipped. -/
def memCtrlReadData (ch : MemCh) (seq : Nat) (flips : List EccFlip) (s : State) : State :=
  match (s.chan ch).reads.find? (fun e => e.seq == seq && e.issued && e.kind != .mergeRead) with
  | none => s
  | some e =>
    let ls := if s.chanFailed ch then [] else classifyRead ch e flips
    let s1 := ls.foldl (fun st l => st.settleLine ch e l) (s.dropRead ch seq)
    let bad := if s.chanFailed ch then e.poison else ls.map badLine
    match e.kind with
    | .scrub op => { s1 with mem := { s1.mem with scrubs := tmod s1.mem.scrubs op (fun sc => sc.take ch e ls) } }
    | .read => (s1.bump (ctrMem 4 0) (bad.filter id).length).emit (.memData ch e.addr e.data bad)
    | _ => s1

def execMemCtrlReadData (ch : MemCh) (seq : Nat) (flips : List EccFlip) (s : State) : Host.Outcome State Fault Refusal :=
  .next (s.quiet.whenLive (memCtrlReadData ch seq flips))

/-- MERGE_READ_DONE (R235 step 4, R237): the line is corrected, merged, and moves to the write queue as one write when that has room; on a
poisoned or uncorrectable line the merged bytes are discarded, whatever their enables add up to. -/
def mergeReadDone (ch : MemCh) (seq : Nat) (flips : List EccFlip) (s : State) : State :=
  match (s.chan ch).reads.find? (fun e => e.seq == seq && e.issued && e.kind == .mergeRead) with
  | none => s
  | some e =>
    match (s.chan ch).merges.find? (fun m => m.addr == e.addr && m.asked && !m.ready) with
    | none => s.dropRead ch seq
    | some m =>
      let l := classifyLine ch e flips 0
      let s1 := (s.dropRead ch seq).settleLine ch e l
      let c := s1.chan ch
      if badLine l then
        (((s1.setChan ch { c with merges := c.merges.filter (fun x => x.seq != m.seq),
                                  banks := mmod MemBank.idle c.banks m.bank (fun b => b.wrote m.seq) }).afterQueue ch).tally
            (ctrMem 5 0)).raise
          (mkReport 0x0A 0x03 1 (unitChan ch) e.addr
            (memDetail ((l.bad.head?.map (fun w => w.2.toNat)).getD 0xFF) e.row e.bank))
      else
        (s1.setChan ch { c with merges := c.merges.map (fun x => if x.seq = m.seq then { x with ready := true } else x) }).afterQueue ch

def execMergeReadDone (ch : MemCh) (seq : Nat) (flips : List EccFlip) (s : State) : Host.Outcome State Fault Refusal :=
  .next (s.quiet.whenLive (mergeReadDone ch seq flips))

/-! Refresh, temperature and training. -/

/-- No request waits at a bank (R239). -/
def Chan.bankIdle (c : Chan) (bank : Nat) : Bool :=
  !(c.reads.any (fun e => e.bank == bank && !e.issued) || c.writes.any (fun e => e.bank == bank) || c.merges.any (fun m => m.bank == bank))

/-- REFRESH_ISSUE (R238, R239): the next bank in turn is refreshed; ahead of time only when it is idle, and no further than eight rounds. -/
def refreshIssue (ch : MemCh) (s : State) : State :=
  let c := s.chan ch
  if s.chanFailed ch || decide (s.refOwed ch ≤ -refLimit ch) || (decide (s.refOwed ch ≤ 0) && !c.bankIdle c.refBank) then s
  else
    s.setChan ch { c with refIssued := c.refIssued + 1, refBank := (c.refBank + 1) % chanBanks ch,
                          banks := mmod MemBank.idle c.banks c.refBank (fun b => { b with openRow := none, run := 0 }) }

def execRefreshIssue (ch : MemCh) (s : State) : Host.Outcome State Fault Refusal :=
  .next (s.quiet.whenLive (refreshIssue ch))

/-- NEIGHBOR_REFRESH (R244): the first selected neighbour is activated and precharged. -/
def neighborRefresh (ch : MemCh) (s : State) : State :=
  let c := s.chan ch
  match c.neighbors with
  | [] => s
  | (bank, _) :: rest =>
    (s.setChan ch { c with neighbors := rest,
                           banks := mmod MemBank.idle c.banks bank (fun b => { b with openRow := none, run := 0 }) }).tally
      (nbrCounter ch)

def execNeighborRefresh (ch : MemCh) (s : State) : Host.Outcome State Fault Refusal :=
  .next (s.quiet.whenLive (neighborRefresh ch))

/-- SHELF_THERM_SAMPLE (R241, R243, R554). -/
def shelfThermSample (z : RegionId) (temp : BitVec 8) (s : State) : State :=
  let x := s.zone z.val
  let hot : Bool := decide (s.mem.thrOn.toInt ≤ temp.toInt)
  let cool : Bool := decide (temp.toInt ≤ s.mem.thrOff.toInt)
  let duty := if hot then x.duty - 1 else if cool then min 16 (x.duty + 1) else x.duty
  let s1 := s.setZone z.val { x with duty := duty }
  let s2 := if x.duty = 16 ∧ duty < 16 then s1.raise (mkReport 0x0A 0x09 0 (unitRegion z) 0 0) else s1
  s2.zoneHeat z.val temp

def execShelfThermSample (z : RegionId) (temp : BitVec 8) (s : State) : Host.Outcome State Fault Refusal :=
  .next (s.quiet.whenLive (shelfThermSample z temp))

/-- RETRAIN_PC_DONE (R247, R248): the pseudo-channel has refreshed what it owed when its turn came; credit that accrued since stays owed. -/
def retrainPcDone (st : StackId) (ok : Bool) (s : State) : State :=
  let x := s.stack st.val
  if !x.retraining then s
  else if ok then
    let ch := stackChan st.val x.pc
    let c := s.chan ch
    let owed := (x.startCredit : Int) - c.refIssued
    let s1 := if owed ≤ 0 then s else s.setChan ch { c with refIssued := c.refIssued + owed,
                                                            refBank := (c.refBank + owed.toNat) % chanBanks ch }
    if x.pc < 31 then s1.setStack st.val { x with pc := x.pc + 1, startCredit := s1.creditOf st.val, failedOnce := false }
    else
      let s2 := (s1.setStack st.val { x with retraining := false, pc := 0, trainTemp := x.startTemp, failedOnce := false }).raise
        (mkReport 0x0A 0x07 0 (unitChan (stackChan st.val 0)) 0 0)
      if x.again then s2.startRetrain st.val else s2
  else if x.failedOnce then s.failStack st.val (2 ^ x.pc) 1
  else s.setStack st.val { x with failedOnce := true }

def execRetrainPcDone (st : StackId) (ok : Bool) (s : State) : Host.Outcome State Fault Refusal :=
  .next (s.quiet.whenLive (retrainPcDone st ok))

/-! SCRUB (R254 to R258). -/

def stScrubNotLocal : Status := 0x75#8
def stScrubSpan : Status := 0x76#8

/-- The first failing check of R255, or the extent the range lies in. -/
def State.scrubChecks (s : State) (x : QPair) (d : Desc) : Except Status (Nat × Extent) :=
  let addr := d.extractLsb' 128 64
  let len := descField d 24 8
  let ppa := fgaPpa addr
  if !descClean d [(16, 8), (24, 8), (32, 8), (40, 1)] || decide (1 < descField d 40 1) then .error stBadDesc
  else if len = 0 then .error stBadLength
  else
    let hit := s.slotExtent (ppa / granBytes)
    let limit := match hit with
      | some (_, e, _) => e.grans.length * granBytes
      | none => 15616 * granBytes
    if limit < len then .error stBadLength
    else if ppa % 4096 ≠ 0 ∨ len % 4096 ≠ 0 ∨ descField d 32 8 % 64 ≠ 0 then .error stAlign
    else if fgaNode addr ≠ s.rtr.nodeId then .error stScrubNotLocal
    else match hit with
    | none => .error stScrubSpan
    | some (e, y, _) =>
      if (y.baseSlot + y.grans.length) * granBytes < ppa + len then .error stScrubSpan
      else match s.extCheck (accRead x.cfg.ep (s.authOf x)) addr (ppa + len) with
        | .error st => .error st
        | .ok _ => .ok (e, y)

/-- SCRUB: the next descriptor of a queue pair is checked and admitted; its slices begin at the next boundary. -/
def scrub (q : Qp) (h : Nat) (s : State) : State :=
  match s.nextIs q h 0x40#8 with
  | none => s
  | some (x, d) =>
    match s.scrubChecks x d.desc with
    | .error st => s.endDesc q h st 0#64
    | .ok (e, y) =>
      let (n, s1) := s.newOp q h x d
      let sc : ScrubOp :=
        { ext := BitVec.ofNat 13 e, ep := x.cfg.ep, addr := fgaPpa (d.desc.extractLsb' 128 64), length := descField d.desc 24 8,
          resultAddr := d.desc.extractLsb' 256 64, resultHost := d.desc.getLsbD 320, shelf := y.shelf, ticks := 0,
          startTick := 0#64, given := [], outstanding := 0, wordsCorrected := 0, wordsRead := 0, wordsUncorrectable := 0,
          linesPoisoned := 0, linesAlready := 0, rows := [], stopped := none }
      { s1 with mem := { s1.mem with scrubs := tput s1.mem.scrubs n sc } }

def execScrub (q : Qp) (h : Nat) (s : State) : Host.Outcome State Fault Refusal :=
  .next (s.quiet.whenLive (scrub q h))

/-- The 64 bytes of a scrub's summary (R258). -/
def scrubSummary (sc : ScrubOp) : List Byte :=
  [0x01#8, if sc.shelf then 0x02#8 else 0x01#8, 0#8, 0#8] ++ natBytes 4 sc.ticks ++ natBytes 8 sc.wordsRead ++
  natBytes 8 sc.wordsCorrected ++ natBytes 8 sc.wordsUncorrectable ++ natBytes 8 sc.linesPoisoned ++ natBytes 8 sc.linesAlready ++
  natBytes 4 ((sc.rows.filter (fun r => decide (2 ≤ r.2))).length) ++ natBytes 4 0 ++ bytesOf sc.startTick 8

/-- Write a 64-byte record where a descriptor asks: in the pool through the extent check, or in host memory once its page translates.
The status of a refusal, nothing while a translation is awaited, or done. -/
def State.writeResult (s : State) (n : Nat) (o : OpRec) (host : Bool) (addr : W64) (bs : List Byte) :
    Option (Option Status) × State :=
  if host then
    match s.qp o.qp with
    | none => (some none, s)
    | some x =>
      let (ok, s1) := s.xltSet none x.cfg.asid [addr.toNat] true (.result n)
      if !ok then (none, s1)
      else match s1.xltNow none x.cfg.asid addr.toNat true with
      | none => (none, s1)
      | some pa =>
        (some none, s1.issueVa x.cfg.port addr.toNat { pktBlank 0x81#8 with
          dst := hostEp, tenant := o.tenant, cls := x.cfg.cls, addr := BitVec.ofNat 64 pa, payload := toUnits bs } vcReq (.op n))
  else match s.takeAccess (accWrite o.ep (s.opAuth o)) addr (fgaPpa addr + 64) with
  | (.error st, s1) => (some (some st), s1)
  | (.ok acc, s1) =>
    match s1.ownLeaf acc with
    | .error st => (some (some st), s1.countRefusal st)
    | .ok s2 =>
      match s2.extCheck (accWrite o.ep (s.opAuth o)) addr (fgaPpa addr + 64) with
      | .ok a2 => (some none, s2.poolWrite a2.key bs)
      | .error st => (some (some st), s2)

/-- SCRUB_DONE: the last slice has ended, or the scrub has stopped and its reads have returned; the summary is written, then the
record. -/
def scrubDone (op : Nat) (s : State) : State :=
  match tget s.mem.scrubs op, s.op op with
  | some sc, some o =>
    if 0 < sc.outstanding ∨ (sc.stopped.isNone ∧ !(s.scrubLeft sc).isEmpty) then s
    else
      match s.writeResult op o sc.resultHost sc.resultAddr (scrubSummary sc) with
      | (none, s1) => s1
      | (some bad, s1) =>
        let s2 := { s1 with mem := { s1.mem with scrubs := tdel s1.mem.scrubs op } }
        let st := match sc.stopped, bad with
          | some st, _ => st
          | none, some st => st
          | none, none => stOk
        s2.finishOp op st (BitVec.ofNat 64 sc.linesPoisoned)
  | _, _ => s

def execScrubDone (op : Nat) (s : State) : Host.Outcome State Fault Refusal :=
  .next (s.quiet.whenLive (scrubDone op))

end Sys2Proof.Machine
end

