-- ==== Sys2Proof/Machine/Boot.lean ====
section
/-! DEFINITION. Reset and boot (spec/15): power-good and RESET_N, the straps, the ROM and its downloads, training, known-answer tests, fill, the
boot watchdog, and the management lanes (R605). -/

namespace Sys2Proof.Machine

def State.setPlt (s : State) (x : Plt) : State := { s with plt := x }

/-! Reset (R530, R531). -/

/-- Some reference clock runs. -/
def State.refRuns (s : State) : Bool := !(s.plt.aLost && s.plt.bLost)

/-- What a reset leaves: every register at its reset value, and what reset does not reach, namely the flash, the fuses, the pins' surroundings
(feeds, reference clocks, RESET_N), a dump whose memory kept its power (R591), the free values' counter and the commands that wait. -/
def State.coldBase (s : State) (keepDump : Bool) : State :=
  let d := if keepDump then { Dbg.reset with dumpHeader := s.dbg.dumpHeader, dumpBytes := s.dbg.dumpBytes, dumpSerial := s.dbg.dumpSerial }
    else Dbg.reset
  { State.reset with
    dbg := d
    mem := { Mem.reset with bytes := if keepDump then s.mem.bytes.filter (fun e => dumpGran (e.1 / granBytes)) else [] }
    plt := { Plt.reset with powered := true, resetReleased := s.plt.resetReleased, resetHeld := true, resetDone := false, flash := s.plt.flash,
                            fuses := s.plt.fuses, aPresent := s.plt.aPresent, bPresent := s.plt.bPresent, aLost := s.plt.aLost,
                            bLost := s.plt.bLost, romPins := false }
    serial := s.serial
    out := s.out
    pending := s.pending }

/-- POWER_GOOD: power has come up; nothing outlasts a loss of power but the flash and the fuses. -/
def powerGood (referenceRuns : Bool) (s : State) : State :=
  let s1 := s.coldBase false
  if referenceRuns then s1 else s1.setPlt { s1.plt with aLost := true, bLost := true }

def execPowerGood (referenceRuns : Bool) (s : State) : Host.Outcome State Fault Refusal := .next (s.quiet.always (powerGood referenceRuns))

/-- RESET_N_ASSERT: every unit stops in the same clock; without a reference RESET_N has no effect. -/
def resetNAssert (s : State) : State :=
  if !s.plt.powered || !s.refRuns then s else s.setPlt { s.plt with resetReleased := false, resetHeld := true, resetDone := false,
                                                                             recoverNext := false }

def execResetNAssert (s : State) : Host.Outcome State Fault Refusal := .next (s.quiet.always resetNAssert)

/-- RESET_N_RELEASE. -/
def resetNRelease (s : State) : State := if s.refRuns then s.setPlt { s.plt with resetReleased := true } else s

def execResetNRelease (s : State) : Host.Outcome State Fault Refusal := .next (s.quiet.always resetNRelease)

/-- RESET_COMPLETE: the completion point; the straps are latched as they stand. -/
def resetComplete (boot clk : BitVec 2) (s : State) : State :=
  if !s.plt.powered || !s.plt.resetHeld || !s.plt.resetReleased || s.plt.resetDone || !s.refRuns then s
  else s.setPlt { s.plt with resetDone := true, strapBoot := boot, strapClk := clk }

def execResetComplete (boot clk : BitVec 2) (s : State) : Host.Outcome State Fault Refusal := .next (s.quiet.always (resetComplete boot clk))

/-- A reserved strap is taken as 00b (R532). -/
def strapTaken (v : BitVec 2) : BitVec 2 := if v = 3#2 then 0#2 else v

/-- LOGIC_LEAVE_RESET: the PLLs have locked and phase ROM begins; a device strapped for download reads the persistent store and waits for its
image. A restart by the boot watchdog selects the recovery image (R540). -/
def logicLeaveReset (s : State) : State :=
  if !s.plt.powered || !s.plt.resetHeld || !s.plt.resetDone then s
  else
    let boot := s.plt.strapBoot
    let clk := s.plt.strapClk
    let s1 := s.coldBase true
    let s2 := s1.setPlt { s1.plt with
      resetHeld := false, resetDone := true, romPins := true, strapBoot := strapTaken boot, strapClk := strapTaken clk,
      inUse := if strapTaken clk = 1#2 then .b else .a, aOk := !s.plt.aLost, bOk := !s.plt.bLost,
      bank := if s.plt.recoverNext then 2#2 else 3#2, failCause := if s.plt.recoverNext then 6#3 else 0#3 }
    let s3 := if boot = 3#2 ∨ clk = 3#2 then s2.raise (mkReport 0x0C 0x01 0 unitChip (boot.toNat + 4 * clk.toNat) 0) else s2
    if strapTaken boot = 0#2 ∨ s.plt.recoverNext then s3
    else
      let s4 := s3.readStore
      s4.setPlt { s4.plt with phase := .downloadWait }

def execLogicLeaveReset (s : State) : Host.Outcome State Fault Refusal := .next (s.quiet.always logicLeaveReset)

/-! The ROM (R538, R539, R542, R543). -/

/-- The set that the ROM is to check: the bank the header selects, then the recovery image. -/
def State.romPick (s : State) : SetSource :=
  if s.plt.bank = 2#2 then .recovery
  else match s.plt.flash.selected with
  | some b => if b = 0 then .bank0 else .bank1
  | none => .recovery

/-- The ROM checks a bank: it starts, or is marked FAILED and the recovery image comes next. -/
def State.romBank (s : State) (b : Fin 2) : State :=
  let set := s.plt.flash.bankOf b
  match s.checkSet set bankRegion with
  | none => (s.startSet set (if b = 0 then 0#2 else 1#2) .fwStart).loadBuiltins
  | some c =>
    let s1 := s.failSet (some b) c
    s1.setPlt { s1.plt with bank := 2#2 }

/-- The ROM checks a downloaded set; a failure clears the bytes received. -/
def State.romDownloaded (s : State) (set : List Byte) : State :=
  match s.checkSet set downloadRegion with
  | none => (s.startSet set 3#2 .fwStart).loadBuiltins
  | some c =>
    let s1 := s.failSet none c
    s1.setPlt { s1.plt with download := [], downloaded := [] }

/-- ROM_CHECK_DONE. -/
def romCheckDone (src : SetSource) (s : State) : State :=
  match s.plt.phase with
  | .rom =>
    if src ≠ s.romPick then s
    else
      let s1 := if s.plt.bank = 3#2 ∨ s.plt.failCause = 6#3 then s.readStore else s
      match src with
      | .bank0 => s1.romBank 0
      | .bank1 => s1.romBank 1
      | _ =>
        let set := if s1.plt.flash.present then s1.plt.flash.recovery else []
        match s1.checkSet set recoveryRegion with
        | none => s1.startSet set 2#2 .recovery
        | some c =>
          let s2 := s1.failSet none c
          s2.setPlt { s2.plt with phase := .downloadWait, bank := 3#2 }
  | .downloadWait => if src = .downloaded ∧ s.plt.downloaded ≠ [] then s.romDownloaded s.plt.downloaded else s
  | _ => s

def execRomCheckDone (src : SetSource) (s : State) : Host.Outcome State Fault Refusal := .next (s.quiet.whenLive (romCheckDone src))

/-- DOWNLOAD_PL0_ENABLE: ENABLE is written to 1 while the ROM waits; set is what it then reads from host memory. ENABLE ends cleared. -/
def downloadPl0Enable (set : List Byte) (s : State) : State :=
  if s.plt.phase ≠ .downloadWait ∨ s.plt.strapBoot = 2#2 then s
  else (s.setAdmin 0 { s.admin 0 with enable := false }).romDownloaded (set.take downloadRegion)

def execDownloadPl0Enable (set : List Byte) (s : State) : Host.Outcome State Fault Refusal :=
  .next (s.quiet.whenLive (downloadPl0Enable set))

/-- Bytes held from offset n on without a gap. -/
def contiguous : SMap Byte → Nat → Nat
  | [], n => n
  | (k, _) :: m, n => if k = n then contiguous m (n + 1) else n

/-- List bytes at ascending offsets. -/
def listBytes (m : SMap Byte) (a : Nat) : List Byte → SMap Byte
  | [] => m
  | b :: bs => listBytes (tput m a b) (a + 1) bs

/-- DOWNLOAD_MGMT_DATAGRAM: bytes at most 65,536 ahead of the contiguous count are kept, and the count is answered. The set is whole when the
count covers every component its manifest names. -/
def downloadMgmtDatagram (offset : W32) (bytes : List Byte) (s : State) : State :=
  if s.plt.phase ≠ .downloadWait ∨ s.plt.strapBoot = 1#2 ∨ s.plt.downloaded ≠ [] ∨ 1400 < bytes.length then s
  else
    let had := contiguous s.plt.download 0
    let fits : Bool := decide (offset.toNat + bytes.length ≤ min (had + 65536) downloadRegion)
    let m := if fits then listBytes s.plt.download offset.toNat bytes else s.plt.download
    let n := contiguous m 0
    let set := (tvals m).take n
    let whole : Bool := decide (manifestBytes ≤ n) && decide (setLength set ≤ n)
    (s.setPlt { s.plt with download := if whole then [] else m, downloaded := if whole then set else [] }).emit (.head none 0#64 (natBytes 4 n))

def execDownloadMgmtDatagram (offset : W32) (bytes : List Byte) (s : State) : Host.Outcome State Fault Refusal :=
  .next (s.quiet.whenLive (downloadMgmtDatagram offset bytes))

/-! From FW_START to READY. -/

/-- SHELF_CALIBRATION_DONE. -/
def shelfCalibrationDone (s : State) : State :=
  if s.plt.phase = .fwStart then s.setPlt { s.plt with phase := .train, shelfCalibrated := true } else s

def execShelfCalibrationDone (s : State) : Host.Outcome State Fault Refusal := .next (s.quiet.whenLive shelfCalibrationDone)

/-- A logic self-test partition has failed (R571): its units leave service. -/
def State.partitionFailed (s : State) (bootCount n : Nat) : State :=
  let s1 := s.raise (mkReport 0x0D 0x02 1 unitChip n bootCount)
  if n < 64 then s1.blockDown ⟨n % 64, Nat.mod_lt _ (by decide)⟩ .testFailed
  else if n < 68 then
    let r := 2 * (n - 64) % 8
    (s1.regionDown ⟨r % 8, Nat.mod_lt _ (by decide)⟩ .testFailed).regionDown ⟨(r + 1) % 8, Nat.mod_lt _ (by decide)⟩ .testFailed
  else s1.nodeFatal unitChip

/-- FAIL_MASK and BOOT_COUNT of a verdict record (R570). -/
def verdictMask (r : List Byte) : BitVec 128 := BitVec.ofNat 128 (fieldAt r 24 16)
def verdictBoots (r : List Byte) : Nat := fieldAt r 4 4

/-- The newest verdict record is applied (R571): to the partitions below n. -/
def State.applyVerdict (s : State) (n : Nat) : State :=
  match s.plt.flash.verdict with
  | none => s
  | some r =>
    let fails (k : Nat) : List Nat := (List.range k).filter (fun i => (verdictMask r).getLsbD i)
    (fails n).foldl (fun st i => st.partitionFailed (verdictBoots r) i)
      { s with dbg := { s.dbg with verdict := true, lbistFails := (fails 70).length, lbistMask := verdictMask r,
                                   lbistAge := some (s.plt.flash.bootCount - verdictBoots r) } }

/-- DEEP_TRAIN_DONE: the stacks' temperatures; the pseudo-channels that failed, each stack marked once (R248); then phase KAT begins with the
stored verdict, and after an abrupt shut-down with the results of partitions 64 to 69, of which the record's are then not applied (R571, R572). -/
def deepTrainDone (temps : List (BitVec 8)) (failed : List (Nat × Nat)) (reducedFails : List Nat) (s : State) : State :=
  if s.plt.phase ≠ .train then s
  else
    let s1 := ((List.range 12).zip temps).foldl (fun st e =>
      st.setStack e.1 { st.stack e.1 with temp := e.2, trainTemp := e.2 }) s
    let mask (k : Nat) : Nat := (List.range 32).foldl (fun m i => if failed.contains (k, i) then m + 2 ^ i else m) 0
    let s2 := (List.range 12).foldl (fun st k => if mask k = 0 then st else st.failStack k (mask k) 0) s1
    let s3 := (s2.setPlt { s2.plt with phase := .kat }).applyVerdict (if s2.plt.abruptLast then 64 else 70)
    if !s3.plt.abruptLast then s3
    else (reducedFails.filter (fun n => decide (64 ≤ n) && decide (n < 70))).foldl
      (fun st n => st.partitionFailed st.plt.flash.bootCount n) { s3 with dbg := { s3.dbg with reduced := true } }

def execDeepTrainDone (temps : List (BitVec 8)) (failed : List (Nat × Nat)) (reducedFails : List Nat) (s : State) :
    Host.Outcome State Fault Refusal :=
  .next (s.quiet.whenLive (deepTrainDone temps failed reducedFails))

/-- A KAT_FAIL report (R592): the failing address or signature is a free value. -/
def State.katReport (s : State) (f : TestFail) : State :=
  let (d, s1) := s.draw
  s1.raise (mkReport 0x0D 0x01 1 f.unit f.test (Config.katDetail d).toNat)

/-- A unit that fails a known-answer test is handled at the level of R52 (R567). -/
def State.unitFailed (s : State) (u : BitVec 16) : State :=
  let i := u.toNat % 4096
  match u.toNat / 4096 with
  | 1 => s.regionDown ⟨i % 8, Nat.mod_lt _ (by decide)⟩ .testFailed
  | 2 => s.blockDown ⟨i % 64, Nat.mod_lt _ (by decide)⟩ .testFailed
  | 3 => s.fenceCell ⟨i % 1024, Nat.mod_lt _ (by decide)⟩ .testFailed
  | 6 => s
  | 7 => s
  | 4 => s
  | 5 => s
  | _ => s.nodeFatal u

/-- The pseudo-channels of a stack among failed units, as a mask. -/
def failedPcs (fails : List TestFail) (k : Nat) : Nat :=
  (List.range 32).foldl (fun m i => if fails.any (fun f => f.unit.toNat == 0x7000 + 32 * k + i) then m + 2 ^ i else m) 0

/-- KAT_DONE: each failure is reported and handled, and phase FILL begins. -/
def katDone (fails : List TestFail) (s : State) : State :=
  if s.plt.phase ≠ .kat then s
  else
    let s1 := fails.foldl (fun st f => st.katReport f) s
    let s2 := (List.range 12).foldl (fun st k => if failedPcs fails k = 0 then st else st.failStack k (failedPcs fails k) 0) s1
    let s3 := fails.foldl (fun st f => st.unitFailed f.unit) s2
    let n := min 255 (fails.map (fun f => f.unit)).eraseDups.length
    { s3 with dbg := { s3.dbg with katDone := true, katFails := n }, plt := { s3.plt with phase := .fill } }

def execKatDone (fails : List TestFail) (s : State) : Host.Outcome State Fault Refusal := .next (s.quiet.whenLive (katDone fails))

/-- Every power-up fill has committed. -/
def State.filled (s : State) : Bool :=
  (List.range granCountAll).all (fun g => dumpGran g || (s.gran g).state != .scrubbing || (s.granOwner g).isSome)

/-- FILL_DONE: phase READY begins, and a pending bank becomes the active one (R539). -/
def fillDone (s : State) : State :=
  if s.plt.phase ≠ .fill ∨ !s.filled then s
  else
    let f := s.plt.flash
    let booted : Option (Fin 2) := if s.plt.bank = 0#2 then some 0 else if s.plt.bank = 1#2 then some 1 else none
    let f1 := if booted.isSome ∧ f.header.pendingBank = booted then
        f.writeHeader { f.header with active := booted, pendingBank := none }
      else f
    s.setPlt { s.plt with phase := .ready, flash := f1 }

def execFillDone (s : State) : Host.Outcome State Fault Refusal := .next (s.quiet.whenLive fillDone)

/-- A phase's value in PLT_BOOT_STATUS (R534). -/
def Phase.code : Phase → Nat
  | .rom => 0
  | .downloadWait => 1
  | .fwStart => 2
  | .train => 3
  | .kat => 4
  | .fill => 5
  | .ready => 6
  | .recovery => 7
  | .shutdown => 8
  | .offReady => 9
  | .tripped => 10

/-- BOOT_WATCHDOG: READY was not reached in 10 s; the bank is marked FAILED and the device restarts into the recovery image through the reset
sequence, without RESET_N. -/
def bootWatchdog (s : State) : State :=
  let ph := s.plt.phase
  if ph ≠ .fwStart ∧ ph ≠ .train ∧ ph ≠ .kat ∧ ph ≠ .fill then s
  else
    let bank : Option (Fin 2) := if s.plt.bank = 0#2 then some 0 else if s.plt.bank = 1#2 then some 1 else none
    let s1 := (s.failSet bank 6).raise (mkReport 0x0C 0x08 1 unitChip s.plt.bank.toNat ph.code)
    s1.setPlt { s1.plt with resetHeld := true, resetDone := false, recoverNext := true }

def execBootWatchdog (s : State) : Host.Outcome State Fault Refusal := .next (s.quiet.whenLive bootWatchdog)

/-! The management lanes (R605). -/

def State.mgmtTries (s : State) : Bool := s.windowsServed || s.plt.phase == .downloadWait

/-- MGMT_LINK_MODE_TIMEOUT: a second without block lock, and the other mode is tried. -/
def mgmtLinkModeTimeout (s : State) : State :=
  if s.plt.mgmt.locked || !s.mgmtTries then s
  else s.setPlt { s.plt with mgmt := { s.plt.mgmt with mode := match s.plt.mgmt.mode with
    | .baseR10G => .baseX1000
    | .baseX1000 => .baseR10G } }

def execMgmtLinkModeTimeout (s : State) : Host.Outcome State Fault Refusal := .next (s.quiet.whenAwake mgmtLinkModeTimeout)

/-- MGMT_BLOCK_LOCK: block lock in the mode being tried keeps it. -/
def mgmtBlockLock (m : MgmtMode) (s : State) : State :=
  if s.plt.mgmt.locked || !s.mgmtTries || s.plt.mgmt.mode != m then s
  else s.setPlt { s.plt with mgmt := { s.plt.mgmt with locked := true } }

def execMgmtBlockLock (m : MgmtMode) (s : State) : Host.Outcome State Fault Refusal := .next (s.quiet.whenAwake (mgmtBlockLock m))

/-- MGMT_SIGNAL_LOSS: no signal for 100 ms; the port alternates again, from 10GBASE-R. -/
def mgmtSignalLoss (s : State) : State :=
  if s.plt.mgmt.locked then s.setPlt { s.plt with mgmt := ⟨.baseR10G, false⟩ } else s

def execMgmtSignalLoss (s : State) : Host.Outcome State Fault Refusal := .next (s.quiet.whenAwake mgmtSignalLoss)

end Sys2Proof.Machine
end

