-- ==== Sys2Proof/Machine/Figures.lean ====
section
/-! DEFINITION. The figures of a running tile (R109 to R116): the cell's sequencer reads the next descriptor from its figure table,
waits for pending slots (R88) and for the checker's footprint copy (R197), and runs it. -/

namespace Sys2Proof.Machine

/-- The descriptor of the figure that starts next, from the figure table in scratch (R138). -/
def Cell.nextFig (c : Cell) (t : Tile) : Fig := figOf (c.bytesAt (64 * t.fig) 64)

/-- The scratch ranges that a figure reads now: a GATHER its indices and the rows they name. -/
def Cell.figReads (c : Cell) (cx : FigCtx) (f : Fig) : List Range :=
  if f.kind = 5 then
    (cx.addr f.bAddr, 4 * f.reps) :: (List.range f.reps).filterMap (fun r =>
      let src : Int := cx.addr f.aAddr + c.indexAt cx f r * f.aStride
      if src < 0 ∨ (cx.scratchEnd : Int) < src + f.len then none else some (src.toNat, f.len))
  else f.reads cx

/-- The 256-byte slots a range touches, as a range (R85). -/
def slotsOf (g : Range) : Range := if g.2 = 0 then (g.1, 0) else (alignDown g.1 256, roundUp (g.1 % 256 + g.2) 256)

/-- A write of the tile's figure waits for the checker to copy the slot it goes to (R197). -/
def State.writeHeld (s : State) (cx : FigCtx) (b : List Byte) (t : Tile) (f : Fig) : Bool :=
  match t.check.bind (fun k => tget s.ras.checks k) with
  | none => false
  | some k => !k.copied && (f.writes cx).any (fun w => (footprint b cx).any (fun g => rangesMeet w (slotsOf g)))

/-- The next figure of a cell's tile may run: its kind is the one named, and neither the fabric, nor its block's duty (R242), nor a pending slot,
nor the checker holds it up. -/
def State.figReady (s : State) (c : CellId) (kind : Nat) : Option (Tile × FigCtx × Fig × Run) :=
  let x := s.cell c
  match x.tile with
  | none => none
  | some t => match s.run t.run with
    | none => none
    | some r =>
      let b := s.runImage r
      let f := x.nextFig t
      let cx := s.tileCx r t
      if t.stopped || decide (imgFigCount b ≤ t.fig) || !s.cellOnline c || !s.cellIssues c || f.kind != kind || x.pending (64 * t.fig, 64) ||
          (x.figReads cx f).any x.pending || (f.writes cx).any x.pending || s.writeHeld cx b t f then none
      else some (t, cx, f, r)

/-- The sequencer goes on to a later figure. -/
def figDone (n : Nat) (x : Cell) : Cell := { x with tile := x.tile.map (fun t => { t with fig := t.fig + n }) }

/-- The scale bytes of a figure's MX operands enter the scale registers by loads of 64 bytes (R58, R87), from the first register on (DESIGN
CHOICE: log entry 132). -/
def Cell.loadScales (c : Cell) (cx : FigCtx) (f : Fig) : Cell :=
  if f.kind ≠ 1 ∧ f.kind ≠ 2 ∧ f.kind ≠ 4 then c
  else
    let gs := (if f.aFromReg then [] else (f.aRanges cx).drop 1) ++
      (if f.usesB then (operandRanges cx f.fmtB f.bAddr f.bStride f.reps f.counts.2.1 f.scaleOff).drop 1 else [])
    let loads := gs.flatMap (fun g => (List.range ((g.2 + 63) / 64)).map (fun j => g.1 + 64 * j))
    ((List.range loads.length).zip loads).foldl (fun a l =>
      { a with scales := ((List.range 64).zip (a.bytesAt l.2 64)).foldl (fun m b => tput m (l.1 % 32 * 64 + b.1) b.2) a.scales }) c

/-- A byte of a scale register (R58): what was loaded since the tile started, else zeros or a free value. -/
def Cell.scaleReg (c : Cell) (r i : Nat) : Byte :=
  let k := r % 32 * 64 + i % 64
  match tget c.scales k with
  | some v => v
  | none => match c.scaleFree with
    | none => 0#8
    | some n => Config.freeScale n k

/-- Run the next figure of a cell with an effect on the cell; ce single-bit errors were corrected on the way (R89). -/
def State.runFigure (s : State) (c : CellId) (kind ce : Nat) (eff : FigCtx → Fig → Cell → Cell) : State :=
  match s.figReady c kind with
  | none => s
  | some (_, cx, f, _) => (s.setCell c (figDone 1 (eff cx f ((s.cell c).loadScales cx f)))).bump (ctrReel 0 (blockOf c).val) ce

/-- FIGURE_DOT (R110, R111). -/
def execFigureDot (c : CellId) (ce : Nat) (s : State) : Host.Outcome State Fault Refusal :=
  .next (s.quiet.whenLive (fun t => t.runFigure c 1 ce figDot))

/-- FIGURE_EWISE (R112). -/
def execFigureEwise (c : CellId) (ce : Nat) (s : State) : Host.Outcome State Fault Refusal :=
  .next (s.quiet.whenLive (fun t => t.runFigure c 2 ce figEwise))

/-- FIGURE_LREDUCE (R114). -/
def execFigureLreduce (c : CellRead) (s : State) : Host.Outcome State Fault Refusal :=
  .next (s.quiet.whenLive (fun t => t.runFigure c.cell 3 c.ce figLreduce))

/-- FIGURE_CONVERT (R109, R70, R72, R81). -/
def execFigureConvert (c : CellId) (ce : Nat) (s : State) : Host.Outcome State Fault Refusal :=
  .next (s.quiet.whenLive (fun t => t.runFigure c 4 ce figConvert))

/-- FIGURE_GATHER (R116). -/
def execFigureGather (c : CellId) (ce : Nat) (s : State) : Host.Outcome State Fault Refusal :=
  .next (s.quiet.whenLive (fun t => t.runFigure c 5 ce figGather))

/-- FIGURE_ATOMIC: its requests wait to be handed to the block atomic unit (R116). -/
def figureAtomic (c : CellId) (ce : Nat) (s : State) : State :=
  match s.figReady c 6 with
  | none => s
  | some (_, cx, f, r) =>
    let a := r.args.getD f.param (0, 0)
    (s.setCell c (figDone 1 (figAtomic cx f a.1 a.2 (s.cell c)))).bump (ctrReel 0 (blockOf c).val) ce

def execFigureAtomic (c : CellId) (ce : Nat) (s : State) : Host.Outcome State Fault Refusal :=
  .next (s.quiet.whenLive (figureAtomic c ce))

/-- FIGURE_SKIP: the next PARAM figures are skipped when the test holds (R115). -/
def figureSkip (c : CellId) (ce : Nat) (s : State) : State :=
  match s.figReady c 7 with
  | none => s
  | some (_, cx, f, _) =>
    let x := s.cell c
    (s.setCell c (figDone (if figSkips cx f x then 1 + f.param else 1) x)).bump (ctrReel 0 (blockOf c).val) ce

def execFigureSkip (c : CellRead) (s : State) : Host.Outcome State Fault Refusal := .next (s.quiet.whenLive (figureSkip c.cell c.ce))

end Sys2Proof.Machine
end

