-- ==== Sys2Proof/Machine/PoolRun.lean ====
section
/-! DEFINITION. How a built-in pool operation runs (R143 to R152): its checks, its operands on this node, on other nodes and in the host,
its host pages' translation, and its end. A whole operation is one command's effect (DESIGN CHOICE: log entry 3). -/

namespace Sys2Proof.Machine

/-- Where an operand lies: a pool address, or a host virtual address. -/
structure Place where
  host : Bool
  addr : Nat
deriving DecidableEq, Repr

def Place.plus (p : Place) (n : Nat) : Place := { p with addr := p.addr + n }

/-- Why an operation does not go on: something it needs is busy, it needs bytes from outside the node, or it ends with a status. -/
inductive PStop where
  | busy
  | need (p : Place) (n : Nat)
  | refused (st : Status)
deriving DecidableEq, Repr

/-- What an operation does once its reads are done: its writes in ascending order, its tile status word, its value and status. -/
structure PoolRes where
  writes : List (Place × List Byte)
  flags : Status16
  value : W64
  status : Status
deriving DecidableEq, Repr

/-! Operands. -/

/-- The bytes of an operand outside the node, once its reads have returned them all (R395, R449). -/
def OpRec.gotten (o : OpRec) (p : Place) (n : Nat) : Option (List Byte) :=
  (List.range n).mapM (fun i => (o.got.find? (fun g => g.1 == p.host && decide (g.2.1 ≤ p.addr + i) &&
    decide (p.addr + i < g.2.1 + g.2.2.length))).map (fun g => g.2.2.getD (p.addr + i - g.2.1) 0#8))

/-- Read an operand. -/
def State.fetch (s : State) (o : OpRec) (p : Place) (n : Nat) (io : OutsideIo) : Except PStop (List Byte) × State :=
  if n = 0 then (.ok [], s)
  else if p.host ∨ !s.onNode p.addr then
    (match o.gotten p n with
      | some bs => .ok bs
      | none => .error (.need p n), s)
  else if s.opReadBusy o (BitVec.ofNat 64 p.addr) n then (.error .busy, s)
  else match s.opRead o (BitVec.ofNat 64 p.addr) n io with
  | (.error st, s1) => (.error (.refused st), s1)
  | (.ok (bs, bad), s1) => (if bad.any id then .error (.refused stPoison) else .ok bs, s1)

/-- A read of an operation outside the node is under way. -/
def State.opReading (s : State) (n : Nat) : Bool :=
  (s.op n).any (fun o => !o.todo.isEmpty) || s.rtr.reqs.any (fun e => match e.2.owner with
    | .opRead m _ _ => m == n
    | _ => false)

/-- Ask for the lines that hold an operand outside the node (R92, R144). -/
def State.askOp (s : State) (n : Nat) (p : Place) (k : Nat) : State :=
  if s.opReading n then s
  else
    let a := p.addr / 64 * 64
    match s.askParts n (partsIn p.host 0 a (roundUp (p.addr + k - a) 64)) with
    | (none, s1) => s1
    | (some st, s1) => s1.endOp n st

/-- Read several operands in order; the first that fails ends it. -/
def State.fetchAll (s : State) (o : OpRec) (io : OutsideIo) : List (Place × Nat) → Except PStop (List (List Byte)) × State
  | [] => (.ok [], s)
  | (p, n) :: rest =>
    match s.fetch o p n io with
    | (.error e, s1) => (.error e, s1)
    | (.ok bs, s1) => match s1.fetchAll o io rest with
      | (.error e, s2) => (.error e, s2)
      | (.ok l, s2) => (.ok (bs :: l), s2)

/-- A write to this node's memory has to wait. -/
def State.storeBusy (s : State) (o : OpRec) (w : Place × List Byte) : Bool :=
  !w.1.host && s.onNode w.1.addr && decide (0 < w.2.length) && s.opWriteBusy o (BitVec.ofNat 64 w.1.addr) w.2.length

/-- Write bytes, page by page in ascending order: committed at once on this node, sent as requests elsewhere. The first refusal stops it,
and what is written stays (R152). -/
def State.store (s : State) (n : Nat) (o : OpRec) (io : OutsideIo) (w : Place × List Byte) : Option Status × State :=
  if w.1.host ∨ !s.onNode w.1.addr then s.askParts n (partsOut w.1.host w.1.addr w.2)
  else
    (partsOf (BitVec.ofNat 64 w.1.addr) w.2.length).foldl (fun (acc : Option Status × State) g =>
      match acc.1 with
      | some _ => acc
      | none => match acc.2.opWrite o g.1 ((w.2.drop (g.1.toNat - w.1.addr)).take g.2) io with
        | (.error st, s1) => (some st, s1)
        | (.ok _, s1) => (none, s1)) (none, s)

def State.storeAll (s : State) (n : Nat) (o : OpRec) (io : OutsideIo) (ws : List (Place × List Byte)) : Option Status × State :=
  ws.foldl (fun acc w => match acc.1 with
    | some _ => acc
    | none => acc.2.store n o io w) (none, s)

/-- Destination bytes that no rule gives, because what they come from may have been overwritten before it was read, or because two results go
to one place (R164): free values, by the byte's place in what is written. -/
def State.overlapBytes (s : State) (free : Nat → Bool) (bs : List Byte) : List Byte :=
  ((List.range bs.length).zip bs).map (fun ib => if free ib.1 then Config.overlapByte s.serial ib.1 else ib.2)

/-- Two operands overlap. -/
def placesMeet (a : Place) (n : Nat) (b : Place) (m : Nat) : Bool := a.host == b.host && rangesMeet (a.addr, n) (b.addr, m)

/-! Host pages. -/

/-- A host operand: its address and length, and whether it is written. -/
structure HostUse where
  addr : Nat
  len : Nat
  write : Bool
deriving DecidableEq, Repr

/-- The page keys of host operands that an operation has not had translated yet. -/
def OpRec.missing (o : OpRec) (us : List HostUse) : List Nat :=
  (us.flatMap (fun u => (pagesOf u.addr u.len).map (fun v => v / 4096 * 2 + if u.write then 1 else 0))).filter
    (fun k => (tget o.pages k).isNone)

/-- Have the host pages of an operation translated, up to 64 of one kind at a time (R467): whether all are. -/
def State.translateOp (s : State) (n : Nat) (b : BlockId) (us : List HostUse) : Bool × State :=
  match s.op n with
  | none => (false, s)
  | some o => match o.missing us, s.qp o.qp with
    | [], _ => (true, s)
    | _, none => (false, s)
    | k :: ks, some x =>
      let part := ((k :: ks).filter (fun j => j % 2 == k % 2)).take 64
      let (ok, s1) := s.xltSet (some b) x.cfg.asid (part.map (fun j => j / 2 * 4096)) (decide (k % 2 = 1)) (.result n)
      if !ok then (false, s1)
      else
        let pages := part.foldl (fun m j => match s1.xltNow (some b) x.cfg.asid (j / 2 * 4096) (decide (k % 2 = 1)) with
          | some pa => tput m j pa
          | none => m) o.pages
        let s2 := s1.modOp n (fun r => { r with pages := pages })
        ((OpRec.missing { o with pages := pages } us).isEmpty, s2)

/-! Checks and admission. -/

/-- The first status whose check fails, in the order given (R147). -/
def firstBad (checks : List (Bool × Status)) : Option Status := (checks.find? (fun c => c.1)).map (fun c => c.2)

/-- An address is not 64-byte aligned. -/
def misaligned (a : Nat) : Bool := a % 64 != 0

/-- The address list of an operation: read under its identity, its entries 64-byte aligned (R145, R147). Nothing while it waits. -/
def State.readList (s : State) (q : Qp) (h : Nat) (x : QPair) (host : Bool) (a count : Nat) (io : OutsideIo) :
    Option (Except Status (List Nat)) × State :=
  let done (bs : List Byte) : Except Status (List Nat) :=
    let l := (List.range count).map (fun i => fieldAt bs (8 * i) 8)
    if l.any misaligned then .error stAlign else .ok l
  let acc := accRead x.cfg.ep (s.authOf x)
  let outside (st : State) : Option (Except Status (List Nat)) × State := (some (match io.err with
    | some e => .error e
    | none => done (ioBytes io a (8 * count))), st)
  if host then
    let (ok, s1) := s.xltSet none x.cfg.asid (pagesOf a (8 * count)) false (.args q h)
    if ok then outside s1 else (none, s1)
  else if !s.onNode a then outside s
  else if s.poolBusy acc (BitVec.ofNat 64 a) (8 * count) then (none, s)
  else match s.readPool acc x.cfg.tenant (BitVec.ofNat 64 a) (8 * count) io with
  | (.error st, s1) => (some (.error st), s1)
  | (.ok (bs, bad), s1) => (some (if bad.any id then .error stPoison else done bs), s1)

/-- An earlier run of the queue pair waits, or one of another that can be bound goes first, so this one waits (R138). -/
def State.queueWaits (s : State) (q : Qp) : Bool := s.heldBack s.que.nextOp q || s.waitsAhead s.que.nextOp

/-- A REGION_MASK admits an online region (R143). -/
def State.maskOnline (s : State) (m : BitVec 8) : Bool := (List.finRange 8).any (fun g => maskAllows m g && s.regionOnline g)

/-- The block that firmware binds the operation to may take it now. -/
def State.mayRun (s : State) (m : BitVec 8) (b : BlockId) : Bool :=
  s.admitting && maskAllows m (regionOfBlock b) && s.blockNow s.que.nextOp b

/-- A built-in operation as its opcode gives it: the checks on its descriptor up to the addresses, its address list if it has one (in the
host, address, entries), the checks after it, its REGION_MASK, and the host operands that its list and descriptor name. -/
structure PoolSpec where
  opcode : BitVec 8
  checks : State → QPair → Desc → Option Status
  list : Desc → Option (Bool × Nat × Nat)
  after : State → QPair → Desc → Option Status
  mask : Desc → BitVec 8
  host : Desc → List Nat → List HostUse

/-- The online cells of a block. -/
def State.cellsOf (s : State) (b : BlockId) : List CellId := ((List.finRange 16).map (cellIn b)).filter (fun c => s.cellOnline c)

/-- Bind a built-in operation to a block: its cells and region buffer are zeroed where another tenant's tile was there before (R90, R100,
R124). -/
def State.bindPool (s : State) (n : Nat) (b : BlockId) : State :=
  match s.op n with
  | none => s
  | some o => ((s.cellsOf b).foldl (fun st c => st.setCell c (zeroCell (st.cell c) o.tenant)) (s.modOp n (fun x => { x with block := some b }))
      ).zeroRbuf (regionOfBlock b) o.tenant

/-- The next descriptor of a queue pair is checked and, when it passes, admitted: the operation's number, if it now is. -/
def State.admitPool (s : State) (p : PoolSpec) (q : Qp) (h : Nat) (b : BlockId) (io : OutsideIo) : Option Nat × State :=
  match s.nextIs q h p.opcode with
  | none => (none, s)
  | some (x, d) =>
    match p.checks s x d.desc with
    | some st => (none, s.endDesc q h st 0#64)
    | none =>
      let (got, s1) : Option (Except Status (List Nat)) × State := match p.list d.desc with
        | none => (some (.ok []), s)
        | some (host, a, count) => s.readList q h x host a count io
      match got with
      | none => (none, s1)
      | some (.error st) => (none, s1.endDesc q h st 0#64)
      | some (.ok l) =>
        match p.after s1 x d.desc with
        | some st => (none, s1.endDesc q h st 0#64)
        | none =>
          if !s1.maskOnline (p.mask d.desc) then (none, s1.endDesc q h stReelPlace 0#64)
          else if s1.queueWaits q ∨ !s1.mayRun (p.mask d.desc) b then (none, s)
          else match s1.qp q with
          | none => (none, s1)
          | some x1 =>
            let (n, s2) := s1.admitOp q h x1 d
            (some n, (s2.modOp n (fun o => { o with list := l, mask := p.mask d.desc })).bindPool n b)

/-- The operation that a held descriptor was admitted as, while its effects are still to come. -/
def State.poolOp (s : State) (q : Qp) (h : Nat) (opc : BitVec 8) : Option Nat :=
  match (s.qp q).bind (fun x => tget x.held h) with
  | none => none
  | some d => match d.op.bind (fun n => (s.op n).map (fun o => (n, o))) with
    | some (n, o) => if o.opcode = opc ∧ o.due.isNone then some n else none
    | none => none

/-! Running. -/

/-- A tile of a built-in operation is selected for check: all at ALL, none at OFF, else as the generator draws (R192, R196). -/
def State.poolDraw (s : State) (n i : Nat) : Bool :=
  if s.ras.active = 0#3 then false else if s.ras.active = 4#3 then true else Config.checkDraw n i

/-- The check cell that takes a tile of a cell. -/
def State.freeCheckCell (s : State) (c : CellId) : Option CellId :=
  (s.ras.checkBlocks.flatMap (fun b => (List.finRange 16).map (cellIn b))).find? (fun k => s.checkCellFree k && blockOf k != blockOf c)

/-- The checks of an operation's tiles, by cell and tile: nothing while a selected one finds no check cell (R199). The figures of a built-in
reel are firmware's, so that a tile's signature stands for its agreement alone (DESIGN CHOICE: log entry 69). -/
def State.drawChecks (s : State) (n : Nat) (tiles : List (CellId × Nat)) : Option State :=
  tiles.foldl (fun a ci => a.bind (fun st =>
    if !st.poolDraw n ci.2 then some st
    else (st.freeCheckCell ci.1).map (fun k =>
      let src : TileSrc := ⟨[], 0, [], 0#64, 0, ci.2, none⟩
      let t : Tile := { run := n, lc := ci.2, step := 0, fig := 0, overran := false, check := none, sig := (0#64, 0#64), reqs := [],
                        outstanding := 0, sent := false, stopped := false }
      let y : Check := { op := n, origin := ci.1, tile := BitVec.ofNat 40 ci.2, checkCell := k, third := none, src := src, copied := false,
                         sigOrigin := some (tileSig t 0#16), sigCheck := none, originOut := false, residue := false }
      { st with ras := { st.ras with nextCheck := st.ras.nextCheck + 1, checks := tput st.ras.checks st.ras.nextCheck y } }))) (some s)

/-- The tiles of a whole operation: one on each online cell of its block (DESIGN CHOICE: log entry 69). -/
def State.poolTiles (s : State) (b : BlockId) : List (CellId × Nat) := (s.cellsOf b).zip (List.range 16)

/-- Tiles of a built-in operation have run on their cells. -/
def State.tilesDone (s : State) (n : Nat) (t : Tenant) (tiles : List (CellId × Nat)) : State :=
  let s1 := (s.drawChecks n tiles).getD s
  ({ s1 with ras := { s1.ras with marks := s1.ras.marks ++ tiles.map (fun (c : CellId × Nat) => (⟨n, c.1, 0⟩ : TileMark)) } }).bump (ctrTen 1 t.toNat) tiles.length

/-- The cells of the block that ran the operation's tiles. -/
def State.tilesRun (s : State) (n : Nat) (b : BlockId) (t : Tenant) : State := s.tilesDone n t (s.poolTiles b)

/-- A tile of an operation waits for a check cell: its block counts one stall (R199). -/
def State.waitTiles (s : State) (n : Nat) (b : BlockId) : State :=
  if (s.op n).any (fun o => o.waited) then s else (s.modOp n (fun o => { o with waited := true })).tally (ctrReel 3 b.val)

/-- Carry out an operation whose host pages are translated. -/
def State.carryOut (s : State) (n : Nat) (o : OpRec) (b : BlockId) (io : OutsideIo) (eff : State → OpRec → OutsideIo → Except PStop PoolRes × State) :
    State :=
  if (s.drawChecks n (s.poolTiles b)).isNone then s.waitTiles n b
  else match eff s o io with
  | (.error .busy, _) => s
  | (.error (.need p k), _) => s.askOp n p k
  | (.error (.refused st), s1) => (s1.tilesRun n b o.tenant).stopOp n o.opcode st
  | (.ok r, s1) =>
    if r.writes.any (fun w => s1.storeBusy o w) then s
    else
      let (bad, s2) := s1.storeAll n o io r.writes
      let s3 := ((s2.modOp n (fun x => { x with tileStatus := x.tileStatus ||| r.flags })).draw.2).tilesRun n b o.tenant
      match bad with
      | some st => s3.stopOp n o.opcode st
      | none => s3.finishOp n r.status r.value

/-- Run a built-in operation as far as it goes: start it, have its host pages translated, carry it out; one that is to end ends. -/
def State.runPool (s : State) (p : PoolSpec) (q : Qp) (h : Nat) (b : BlockId) (io : OutsideIo)
    (eff : State → OpRec → OutsideIo → Except PStop PoolRes × State) : State :=
  let (n, s1) := match s.poolOp q h p.opcode with
    | some n => (some n, s)
    | none => s.admitPool p q h b io
  match n.bind (fun k => (s1.op k).map (fun o => (k, o))) with
  | none => s1
  | some (n, o) =>
    match o.ending with
    | some st => s1.stopOp n p.opcode st
    | none => match o.block with
      | none => s1
      | some b1 =>
        if !s1.blockOnline b1 || !s1.blockIssues b1 then s1
        else
          let (ready, s2) := s1.translateOp n b1 (p.host o.desc o.list)
          match ready, s2.op n with
          | true, some o2 => s2.carryOut n o2 b1 io eff
          | _, _ => s2

end Sys2Proof.Machine
end

