-- ==== Sys2Proof/Machine/PoolOps.lean ====
section
/-! DEFINITION. The built-in pool operations (spec/05): FILL, COPY, COMPARE, REDUCE, ALL_GATHER, BCAST, OPT_STEP, ATTEND, GATHER_BAG. -/

namespace Sys2Proof.Machine

/-- Nothing more to check, and no address list. -/
def noCheck (_ : State) (_ : QPair) (_ : Desc) : Option Status := none
def noList (_ : Desc) : Option (Bool × Nat × Nat) := none

/-- A host operand's use, when a flag places it in host memory. -/
def hostUse (host : Bool) (a n : Nat) (write : Bool) : List HostUse := if host then [⟨a, n, write⟩] else []

/-- Bytes of one element of a format that an operation takes. -/
def elemSize (f : Nat) : Nat := fmtBits f / 8

/-- Element i of an array of a format that an operation takes. -/
def arrayElem (f : Nat) (bs : List Byte) (i : Nat) : Nat := fieldAt bs (elemSize f * i) (elemSize f)

/-- Element i widened exactly (R146). -/
def arrayF32 (f : Nat) (bs : List Byte) (i : Nat) : W32 × Status16 := widenElem f (arrayElem f bs i)

/-- The stochastic draw of output element e (R148). -/
def opDraw (seed : W64) (e : Nat) : Nat := srDraw seed (e / 2 ^ 24) (e % 2 ^ 24)

/-- The flags of an operation's byte FLAGS that a descriptor may set. -/
def flagsOver (d : Desc) (off n : Nat) : Bool := decide (2 ^ n ≤ descField d off 1)

/-! FILL, COPY, COMPARE (R156 to R158). -/

def moveLen (d : Desc) : Nat := descField d 24 8
def moveA (d : Desc) : Place := ⟨d.getLsbD 320, descField d 16 8⟩
def moveB (d : Desc) : Place := ⟨d.getLsbD 321, descField d 32 8⟩

/-- LENGTH is 0 or beyond its limits. -/
def moveLenBad (d : Desc) : Bool := decide (moveLen d < 64) || decide (2 ^ 40 - 64 < moveLen d)

def fillSpec : PoolSpec where
  opcode := 0x01#8
  checks := fun _ _ d => firstBad
    [(!descClean d [(16, 8), (24, 8), (32, 8), (40, 1), (41, 1)] || flagsOver d 40 1, stBadDesc),
     (moveLenBad d, stBadLength),
     (misaligned (moveA d).addr || misaligned (moveLen d), stAlign)]
  list := noList
  after := noCheck
  mask := fun d => d.extractLsb' 328 8
  host := fun d _ => hostUse (moveA d).host (moveA d).addr (moveLen d) true

def fillEffect (s : State) (o : OpRec) (_io : OutsideIo) : Except PStop PoolRes × State :=
  let pat := natBytes 8 (descField o.desc 32 8)
  (.ok ⟨[(moveA o.desc, (List.range (moveLen o.desc)).map (fun x => pat.getD (x % 8) 0#8))], fNone, 0#64, stOk⟩, s)

def execFill (q : Qp) (h : Nat) (b : BlockId) (io : OutsideIo) (s : State) : Host.Outcome State Fault Refusal :=
  .next (s.quiet.whenLive (fun t => t.runPool fillSpec q h b io fillEffect))

def copySpec : PoolSpec where
  opcode := 0x02#8
  checks := fun _ _ d => firstBad
    [(!descClean d [(16, 8), (24, 8), (32, 8), (40, 1), (41, 1)] || flagsOver d 40 2 || descField d 40 1 == 3, stBadDesc),
     (moveLenBad d, stBadLength),
     (misaligned (moveA d).addr || misaligned (moveB d).addr || misaligned (moveLen d), stAlign),
     (!(moveA d).host && placesMeet (moveA d) (moveLen d) (moveB d) (moveLen d), stOverlap)]
  list := noList
  after := noCheck
  mask := fun d => d.extractLsb' 328 8
  host := fun d _ => hostUse (moveA d).host (moveA d).addr (moveLen d) true ++ hostUse (moveB d).host (moveB d).addr (moveLen d) false

def copyEffect (s : State) (o : OpRec) (io : OutsideIo) : Except PStop PoolRes × State :=
  match s.fetch o (moveB o.desc) (moveLen o.desc) io with
  | (.error e, s1) => (.error e, s1)
  | (.ok bs, s1) => (.ok ⟨[(moveA o.desc, bs)], fNone, 0#64, stOk⟩, s1)

def execCopy (q : Qp) (h : Nat) (b : BlockId) (io : OutsideIo) (s : State) : Host.Outcome State Fault Refusal :=
  .next (s.quiet.whenLive (fun t => t.runPool copySpec q h b io copyEffect))

def compareSpec : PoolSpec where
  opcode := 0x03#8
  checks := fun _ _ d => firstBad
    [(!descClean d [(16, 8), (24, 8), (32, 8), (40, 1), (41, 1)] || flagsOver d 40 2, stBadDesc),
     (moveLenBad d, stBadLength),
     (misaligned (moveA d).addr || misaligned (moveB d).addr || misaligned (moveLen d), stAlign)]
  list := noList
  after := noCheck
  mask := fun d => d.extractLsb' 328 8
  host := fun d _ => hostUse (moveA d).host (moveA d).addr (moveLen d) false ++ hostUse (moveB d).host (moveB d).addr (moveLen d) false

/-- The operation value of COMPARE (R150). -/
def compareValue (a b : List Byte) : W64 :=
  let first := ((a.zip b).findIdx? (fun p => p.1 != p.2)).getD 0xFFFFFFFFFF
  let units := ((List.range ((a.length + 63) / 64)).filter (fun k => (a.drop (64 * k)).take 64 != (b.drop (64 * k)).take 64)).length
  BitVec.ofNat 64 (first % 2 ^ 40 + min units (2 ^ 24 - 1) * 2 ^ 40)

def compareEffect (s : State) (o : OpRec) (io : OutsideIo) : Except PStop PoolRes × State :=
  match s.fetchAll o io [(moveA o.desc, moveLen o.desc), (moveB o.desc, moveLen o.desc)] with
  | (.error e, s1) => (.error e, s1)
  | (.ok l, s1) => (.ok ⟨[], fNone, compareValue (l.getD 0 []) (l.getD 1 []), stOk⟩, s1)

def execCompare (q : Qp) (h : Nat) (b : BlockId) (io : OutsideIo) (s : State) : Host.Outcome State Fault Refusal :=
  .next (s.quiet.whenLive (fun t => t.runPool compareSpec q h b io compareEffect))

/-! Reductions (R159 to R164). -/

/-- How a reduction combines terms and rounds its result. -/
structure RedCfg where
  fmtIn : Nat
  fmtOut : Nat
  arith : BitVec 8
  /-- 0 SUM, 1 MAXIMUM, 2 MINIMUM -/
  op : Nat
  seed : W64
deriving DecidableEq, Repr

def RedCfg.int (c : RedCfg) : Bool := c.fmtIn == 12
def RedCfg.comp (c : RedCfg) : Bool := arithComp c.arith && !c.int && c.op == 0

/-- The formats a reduction accepts (R164). -/
def redFormatsOk (fin fout : Nat) : Bool := if fin = 12 then fout == 12 else decide (fin ≤ 4) && decide (fout ≤ 4)

/-- A term: an element of a source, or the destination's prior value in the output format. -/
def redTerm (f : Nat) (bs : List Byte) (i : Nat) : W32 × Status16 :=
  if f = 12 then (BitVec.ofNat 32 (arrayElem 12 bs i), fNone) else arrayF32 f bs i

/-- Combine one more term. -/
def RedCfg.step (c : RedCfg) (acc : W32 × W32) (x : W32) : (W32 × W32) × Status16 :=
  if c.int then
    if c.op = 0 then
      let (v, f) := intFix (arithWrap c.arith) (acc.1.toInt + x.toInt)
      ((v, 0#32), f)
    else ((if (decide (acc.1.toInt ≤ x.toInt)) == (c.op == 1) then x else acc.1, 0#32), fNone)
  else if c.comp then compAdd acc x
  else
    let (v, f) := if c.op = 0 then f32Add acc.1 x else f32MinMax (c.op == 1) acc.1 x
    ((v, 0#32), f)

/-- The encoding of output element e (R163, R148). -/
def RedCfg.out (c : RedCfg) (e : Nat) (acc : W32 × W32) : Nat × Status16 :=
  if c.int then (acc.1.toNat, fNone)
  else
    let (v, f1) := if c.comp then compFinal acc else (acc.1, fNone)
    let (r, f2) := narrow c.fmtOut c.arith (opDraw c.seed e) v
    (r, f1 ||| f2)

/-- Reduce a list of terms in order. -/
def RedCfg.reduce (c : RedCfg) (e : Nat) (terms : List (W32 × Status16)) : Nat × Status16 :=
  match terms with
  | [] => (0, fNone)
  | t :: ts =>
    let (acc, fl) := ts.foldl (fun (a : (W32 × W32) × Status16) x =>
      let (v, f) := c.step a.1 x.1
      (v, a.2 ||| x.2 ||| f)) ((t.1, 0#32), t.2)
    let (r, f) := c.out e acc
    (r, fl ||| f)

def redElems (d : Desc) : Nat := descField d 32 8
def redCount (d : Desc) : Nat := descField d 48 1
def redDst (d : Desc) : Place := ⟨d.getLsbD 418, descField d 16 8⟩
def redCfg (d : Desc) : RedCfg :=
  ⟨descField d 49 1 % 16, descField d 49 1 / 16, d.extractLsb' 400 8, descField d 51 1, d.extractLsb' 320 64⟩

def reduceSpec : PoolSpec where
  opcode := 0x10#8
  checks := fun _ _ d => firstBad
    [(!descClean d [(16, 8), (24, 8), (32, 8), (40, 8), (48, 1), (49, 1), (50, 1), (51, 1), (52, 1), (53, 1)] || flagsOver d 52 4 ||
        !arithOk (redCfg d).arith || decide (2 < (redCfg d).op), stBadDesc),
     (!redFormatsOk (redCfg d).fmtIn (redCfg d).fmtOut, stBadFormat),
     (redElems d == 0 || decide (2 ^ 36 < redElems d) || decide (redCount d < 2) || decide (64 < redCount d), stBadLength),
     (misaligned (redDst d).addr || misaligned (descField d 24 8), stAlign)]
  list := fun d => some (d.getLsbD 419, descField d 24 8, redCount d)
  after := noCheck
  mask := fun d => d.extractLsb' 424 8
  host := fun d l =>
    (if d.getLsbD 417 then l.map (fun a => (⟨a, redElems d * elemSize (redCfg d).fmtIn, false⟩ : HostUse)) else []) ++
    hostUse (redDst d).host (redDst d).addr (redElems d * elemSize (redCfg d).fmtOut) true ++
    hostUse ((redDst d).host && d.getLsbD 416) (redDst d).addr (redElems d * elemSize (redCfg d).fmtOut) false

/-- Output element i has no value that a rule gives: a term of it lies where the operation writes, and its source does not coincide with the
destination, or ACCUMULATE is set (R164). -/
def redUnordered (d : Desc) (srcs : List Place) (i : Nat) : Bool :=
  let c := redCfg d
  let dst := redDst d
  let a := elemSize c.fmtIn
  let b := elemSize c.fmtOut
  srcs.any (fun p => placesMeet (p.plus (a * i)) a dst (redElems d * b) && !(p == dst && a == b && !d.getLsbD 416))

def reduceEffect (s : State) (o : OpRec) (io : OutsideIo) : Except PStop PoolRes × State :=
  let d := o.desc
  let c := redCfg d
  let e := redElems d
  let accum := d.getLsbD 416
  let srcs := o.list.map (fun a => (⟨d.getLsbD 417, a⟩ : Place))
  let prior := if accum then [(redDst d, e * elemSize c.fmtOut)] else []
  match s.fetchAll o io (srcs.map (fun p => (p, e * elemSize c.fmtIn)) ++ prior) with
  | (.error x, s1) => (.error x, s1)
  | (.ok l, s1) =>
    let arrays := l.take srcs.length
    let old := l.getD srcs.length []
    let outs := (List.range e).map (fun i =>
      let terms := (if accum then [redTerm c.fmtOut old i] else []) ++ arrays.map (fun a => redTerm c.fmtIn a i)
      c.reduce i terms)
    let size := elemSize c.fmtOut
    let bytes := ((List.range e).zip outs).flatMap (fun io' =>
      let bs := natBytes size io'.2.1
      if redUnordered d srcs io'.1 then (List.range size).map (fun k => Config.overlapByte s1.serial (size * io'.1 + k)) else bs)
    (.ok ⟨[(redDst d, bytes)], outs.foldl (fun f r => f ||| r.2) fNone, 0#64, stOk⟩, s1)

def execReduce (q : Qp) (h : Nat) (b : BlockId) (io : OutsideIo) (s : State) : Host.Outcome State Fault Refusal :=
  .next (s.quiet.whenLive (fun t => t.runPool reduceSpec q h b io reduceEffect))

/-! ALL_GATHER and BCAST (R176 to R180). -/

/-- The parts of a range of at most 1 MiB each: a transfer's place in it and its bytes. -/
def transferCuts (n : Nat) : List (Nat × Nat) :=
  (List.range ((n + 2 ^ 20 - 1) / 2 ^ 20)).map (fun k => (k * 2 ^ 20, min (2 ^ 20) (n - k * 2 ^ 20)))

/-- Send one BULK write transfer on a multicast group (R179, R400, R401). -/
def State.multicast (s : State) (n : Nat) (o : OpRec) (g : BitVec 12) (e : BitVec 48) (a : Nat) (bs : List Byte) : State :=
  let cls := (s.qp o.qp).elim 0#2 (fun x => x.cfg.cls)
  let (x, s1) := s.takeXfer (2 ^ 14 + g.toNat)
  ((s1.bulkOf (g.setWidth 14) o.tenant (BitVec.ofNat 64 a) bs).map (fun p => { p with mcast := true, xfer := x, cls := cls })).foldl
    (fun st p => st.replicate { st.mine p with src := o.ep } e none none none (some n)) s1

/-- Send ranges of data to every member of a group, and await the acknowledgement of every flit (R180). -/
def State.sendGroup (s : State) (n : Nat) (o : OpRec) (g : BitVec 12) (parts : List (Nat × List Byte)) : State :=
  match s.groupOf g o.tenant with
  | none => s.stopOp n o.opcode stGroupDenied
  | some e =>
    let ports := (List.finRange 34).filter (fun q => (decide (q.val < 32) && e.getLsbD q.val) || (e.getLsbD 33 && q == s.activePl))
    let lost := ports.filter (fun q => (s.link q).lost && decide (q.val < 32))
    let s1 : State := { s with fab := { s.fab with sends := tput s.fab.sends n ⟨ports.filter (fun q => decide (q.val < 32)), lost⟩ } }
    (parts.foldl (fun st p => (transferCuts p.2.length).foldl (fun st' c => st'.multicast n o g e (p.1 + c.1) ((p.2.drop c.1).take c.2)) st)
      s1).settleSends

/-- The group of a descriptor is denied to the queue pair's tenant. -/
def groupDenied (s : State) (x : QPair) (g : Nat) : Bool := (s.groupOf (BitVec.ofNat 12 g) x.cfg.tenant).isNone

def agShard (d : Desc) : Nat := descField d 32 8
def agCount (d : Desc) : Nat := descField d 40 2
def agToPool (d : Desc) : Bool := d.getLsbD 352

def allGatherSpec : PoolSpec where
  opcode := 0x12#8
  checks := fun _ _ d => firstBad
    [(!descClean d [(16, 8), (24, 8), (32, 8), (40, 2), (42, 2), (44, 1), (45, 1)] || flagsOver d 44 2 ||
        (!agToPool d && decide (4095 < descField d 42 2)), stBadDesc),
     (decide (agShard d < 64) || decide (2 ^ 34 < agShard d) || agCount d == 0 || decide (1024 < agCount d), stBadLength),
     (misaligned (descField d 16 8) || misaligned (descField d 24 8) || misaligned (agShard d), stAlign)]
  list := fun d => some (d.getLsbD 353, descField d 16 8, agCount d)
  after := fun s x d => if !agToPool d && groupDenied s x (descField d 42 2) then some stGroupDenied else none
  mask := fun d => d.extractLsb' 360 8
  host := fun _ _ => []

/-- The shards, and where each goes. -/
def State.shards (s : State) (o : OpRec) (io : OutsideIo) : Except PStop (List (Nat × List Byte)) × State :=
  match s.fetchAll o io (o.list.map (fun a => ((⟨false, a⟩ : Place), agShard o.desc))) with
  | (.error e, s1) => (.error e, s1)
  | (.ok l, s1) => (.ok ((List.range l.length).zip l |>.map (fun p => (descField o.desc 24 8 + p.1 * agShard o.desc, p.2))), s1)

def allGatherEffect (s : State) (o : OpRec) (io : OutsideIo) : Except PStop PoolRes × State :=
  match s.shards o io with
  | (.error e, s1) => (.error e, s1)
  | (.ok l, s1) =>
    let shard := agShard o.desc
    let dst := descField o.desc 24 8
    let free (i k : Nat) : Bool :=
      let a := o.list.getD i 0 + k
      decide (dst ≤ a) && decide (a < dst + shard * agCount o.desc) && a != dst + i * shard + k
    (.ok ⟨((List.range l.length).zip l).map (fun ip => ((⟨false, ip.2.1⟩ : Place), s1.overlapBytes (free ip.1) ip.2.2)), fNone, 0#64, stOk⟩, s1)

/-- Send what was read, as an operation's effect. -/
def State.sendPool (s : State) (p : PoolSpec) (q : Qp) (h : Nat) (b : BlockId) (io : OutsideIo) (g : Desc → Nat)
    (eff : State → OpRec → OutsideIo → Except PStop (List (Nat × List Byte)) × State) : State :=
  let (n, s1) := match s.poolOp q h p.opcode with
    | some n => (some n, s)
    | none => s.admitPool p q h b io
  match n.bind (fun k => (s1.op k).map (fun o => (k, o))) with
  | none => s1
  | some (n, o0) => match o0.block with
    | none => s1
    | some b1 =>
      if (tget s1.fab.sends n).isSome ∨ !s1.blockOnline b1 ∨ !s1.blockIssues b1 then s1
      else
        let (ready, s2) := s1.translateOp n b1 (p.host o0.desc o0.list)
        match ready, s2.op n with
        | true, some o =>
          if (s2.drawChecks n (s2.poolTiles b1)).isNone then s2.waitTiles n b1
          else match eff s2 o io with
          | (.error .busy, _) => s2
          | (.error (.need pl k), _) => s2.askOp n pl k
          | (.error (.refused st), s3) => (s3.tilesRun n b1 o.tenant).stopOp n o.opcode st
          | (.ok l, s3) => (s3.tilesRun n b1 o.tenant).sendGroup n o (BitVec.ofNat 12 (g o.desc)) l
        | _, _ => s2

/-- The descriptor asks for a pool destination. -/
def State.gatherToPool (s : State) (q : Qp) (h : Nat) : Bool := match (s.qp q).bind (fun x => tget x.held h) with
  | some d => agToPool d.desc
  | none => false

def execAllGather (q : Qp) (h : Nat) (b : BlockId) (io : OutsideIo) (s : State) : Host.Outcome State Fault Refusal :=
  .next (s.quiet.whenLive (fun t =>
    if t.gatherToPool q h then t.runPool allGatherSpec q h b io allGatherEffect
    else t.sendPool allGatherSpec q h b io (fun d => descField d 42 2) (fun u o i => u.shards o i)))

def bcSrc (d : Desc) : Place := ⟨d.getLsbD 336, descField d 16 8⟩

def bcastSpec : PoolSpec where
  opcode := 0x13#8
  checks := fun _ _ d => firstBad
    [(!descClean d [(16, 8), (24, 8), (32, 8), (40, 2), (42, 1), (43, 1)] || flagsOver d 42 1 || decide (4095 < descField d 40 2), stBadDesc),
     (decide (descField d 32 8 < 64) || decide (2 ^ 38 < descField d 32 8), stBadLength),
     (misaligned (descField d 16 8) || misaligned (descField d 24 8) || misaligned (descField d 32 8), stAlign)]
  list := noList
  after := fun s x d => if groupDenied s x (descField d 40 2) then some stGroupDenied else none
  mask := fun d => d.extractLsb' 344 8
  host := fun d _ => hostUse (bcSrc d).host (bcSrc d).addr (descField d 32 8) false

def bcastEffect (s : State) (o : OpRec) (io : OutsideIo) : Except PStop (List (Nat × List Byte)) × State :=
  match s.fetch o (bcSrc o.desc) (descField o.desc 32 8) io with
  | (.error e, s1) => (.error e, s1)
  | (.ok bs, s1) => (.ok [(descField o.desc 24 8, bs)], s1)

def execBcast (q : Qp) (h : Nat) (b : BlockId) (io : OutsideIo) (s : State) : Host.Outcome State Fault Refusal :=
  .next (s.quiet.whenLive (fun t => t.sendPool bcastSpec q h b io (fun d => descField d 40 2) bcastEffect))

end Sys2Proof.Machine
end

