-- ==== Sys2Proof/Machine/RedScatter.lean ====
section
/-! DEFINITION. REDUCE_SCATTER (R165 to R175) and RUN_ADMIT, which binds waiting runs (R124, R138, R143). -/

namespace Sys2Proof.Machine

/-! The descriptor. -/

def rsElems (d : Desc) : Nat := descField d 32 8
def rsChunk (d : Desc) : Nat := descField d 48 4
def rsPeers (d : Desc) : Nat := descField d 56 2
def rsCfg (d : Desc) : RedCfg :=
  ⟨descField d 59 1 % 16, descField d 59 1 / 16, d.extractLsb' 480 8, descField d 61 1, d.extractLsb' 320 64⟩
def rsChunks (d : Desc) : Nat := rsElems d / rsChunk d

/-- Ticks until the timeout (R165). -/
def rsTimeoutTicks (d : Desc) : Nat := if descField d 62 1 = 0 then 4096 else descField d 62 1 * 256

/-- Bytes of accumulators in one region buffer (R166). -/
def State.rsAccBytes (s : State) (d : Desc) : Nat :=
  let g := s.rsRegions d
  if g = 0 then 0 else (rsWindow d + g - 1) / g * rsChunk d * 4 * (if arithComp (rsCfg d).arith then 2 else 1)

/-- The staging area lies in a plain extent of this node. -/
def State.stagePlain (s : State) (d : Desc) : Bool :=
  let (a, n) := rsArea d
  let ppa := fgaPpa (BitVec.ofNat 64 a)
  s.onNode a && !fgaV (BitVec.ofNat 64 a) && (match s.slotExtent (ppa / granBytes) with
    | some (_, x, _) => x.kind == .plain && decide (ppa + n ≤ (x.baseSlot + x.grans.length) * granBytes)
    | none => false)

/-- The staging area overlaps that of a REDUCE_SCATTER that has not ended. -/
def State.stageTaken (s : State) (d : Desc) : Bool := s.fab.rs.any (fun e => match s.op e.1 with
  | some o => rangesMeet (rsArea o.desc) (rsArea d)
  | none => false)

/-- The checks of R147 and R166 in order of status. -/
def State.rsCheck (s : State) (d : Desc) : Option Status := firstBad
  [(!descClean d [(16, 48)] || !arithOk (rsCfg d).arith || decide (2 < (rsCfg d).op), stBadDesc),
   (!redFormatsOk (rsCfg d).fmtIn (rsCfg d).fmtOut, stBadFormat),
   (rsElems d == 0 || decide (2 ^ 36 < rsElems d) || decide (rsPeers d < 2) || decide (1024 < rsPeers d) || decide (rsWindow d < 2) ||
      decide (64 < rsWindow d) || rsChunk d == 0, stBadLength),
   (misaligned (descField d 16 8) || descField d 24 8 % 4096 != 0 || rsSlotBytes d % 4096 != 0, stAlign),
   (rsElems d % (rsPeers d * rsChunk d) != 0, stBadShape),
   (decide (2 ^ 23 < s.rsAccBytes d), stWindow),
   (!s.stagePlain d, stStageKind),
   (s.stageTaken d, stStageBusy)]

/-! State of the operation. -/

def State.rs (s : State) (n : Nat) : Option RsOp := tget s.fab.rs n
def State.setRs (s : State) (n : Nat) (r : RsOp) : State := { s with fab := { s.fab with rs := tput s.fab.rs n r } }

/-- The 64 bytes of the progress line (R168). -/
def progressBytes (d : Desc) (state : Nat) (r : RsOp) : List Byte :=
  natBytes 4 (descField d 52 4) ++ natBytes 4 state ++ natBytes 8 r.reduced ++ natBytes 8 r.arrived ++ List.replicate 40 0#8

/-- Write the progress line as an ordinary pool write: whether it was accepted. -/
def State.writeProgress (s : State) (o : OpRec) (state : Nat) (r : RsOp) : Option Status × State :=
  match s.opWrite o (BitVec.ofNat 64 (descField o.desc 24 8)) (progressBytes o.desc state r) noIo with
  | (.error st, s1) => (some st, s1)
  | (.ok _, s1) => (none, s1)

/-- The operation ends: STATE 2 or 3, then its completion (R169, R174, R175). -/
def State.endRs (s : State) (n : Nat) (r : RsOp) (o : OpRec) (st : Status) : State :=
  let s1 := (if r.bound then (s.writeProgress o (if st = stOk then 2 else 3) r).2 else s).freeBlocks
    (r.regions.flatMap (fun g => (List.finRange 8).map (blockIn g)))
  let area := rsArea o.desc
  let landed := s1.rtr.landed.filter (fun l => !(decide (area.1 ≤ l.1.toNat) && decide (l.1.toNat < area.1 + area.2)))
  ({ s1 with fab := { s1.fab with rs := tdel s1.fab.rs n }, rtr := { s1.rtr with landed := landed } }).finishOp n st
    (BitVec.ofNat 64 r.reduced)

/-- End a REDUCE_SCATTER that is to end (R139, R446). -/
def State.settleRs (s : State) (n : Nat) : State :=
  match s.rs n, s.op n with
  | some r, some o => match o.ending with
    | some st => s.endRs n r o st
    | none => s
  | _, _ => s

/-- End the operation with a status of its own. -/
def State.failRs (s : State) (n : Nat) (st : Status) : State := (s.endOp n st).settleRs n

/-! Rows. -/

/-- REDUCE_SCATTER: the next descriptor of a queue pair is checked, and its run waits for admission. -/
def reduceScatter (q : Qp) (h : Nat) (s : State) : State :=
  match s.nextIs q h 0x11#8 with
  | none => s
  | some (x, d) =>
    match s.rsCheck d.desc with
    | some st => s.endDesc q h st 0#64
    | none =>
      if !s.maskOnline (rsMask d.desc) then s.endDesc q h stReelPlace 0#64
      else
        let (n, s1) := s.newOp q h x d
        s1.setRs n { cells := [], regions := [], bound := false, armed := false, reduced := 0, arrived := 0, dirty := false, ticks := 0,
                     order := [], acc := [], ahead := [] }

def execReduceScatter (q : Qp) (h : Nat) (s : State) : Host.Outcome State Fault Refusal := .next (s.quiet.whenLive (reduceScatter q h))

/-- The cells given bind as many regions as the operation needs, each whole and free. -/
def State.rsBinding (s : State) (n : Nat) (d : Desc) (cells : List CellId) : Bool :=
  let regions := (cells.map regionOfCell).eraseDups
  decide (regions.length = s.rsRegions d) && decide (0 < regions.length) && cells.all (fun c => s.cellOnline c && s.blockNow n (blockOf c)) &&
  regions.all (fun g => maskAllows (rsMask d) g && s.regionOnline g && s.regionNow n g)

/-- Bind a REDUCE_SCATTER: its progress line is written (R169). -/
def State.admitRs (s : State) (n : Nat) (r : RsOp) (o : OpRec) (cells : List CellId) : State :=
  let regions := (cells.map regionOfCell).eraseDups
  let s0 := cells.foldl (fun st c => st.setCell c (zeroCell (st.cell c) o.tenant)) (s.giveCsn n)
  let s1 := regions.foldl (fun st g => st.zeroRbuf g o.tenant) s0
  s1.setRs n { r with cells := cells, regions := regions, bound := true }

/-- RUN_ADMIT: a run that waited at the last boundary is bound to the cells that the device chooses for it, those submitted before it first
(R138). -/
def runAdmit (n : Nat) (cells : List CellId) (s : State) : State :=
  match s.op n with
  | none => s
  | some o =>
    if o.ending.isSome || s.tenantGone o.tenant || !s.admitting || s.heldBack n o.qp || s.waitsAhead n || decide (s.fab.admitNext ≤ n) then s
    else match s.run n, s.rs n with
    | some r, _ => if !r.bound && s.bindingOk n r cells then s.admitRun n r o cells else s
    | none, some r => if !r.bound && s.rsBinding n o.desc cells then s.admitRs n r o cells else s
    | none, none => s

def execRunAdmit (run : Nat) (cells : List CellId) (s : State) : Host.Outcome State Fault Refusal :=
  .next (s.quiet.whenLive (runAdmit run cells))

/-- RS_ARMED: the progress line with STATE 1 commits, and contributions are recognised from then on. -/
def rsArmed (n : Nat) (s : State) : State :=
  match s.rs n, s.op n with
  | some r, some o =>
    if !r.bound ∨ r.armed ∨ o.ending.isSome ∨ s.opWriteBusy o (BitVec.ofNat 64 (descField o.desc 24 8)) 64 then s
    else match s.writeProgress o 1 r with
    | (some st, s1) => s1.failRs n st
    | (none, s1) => s1.setRs n { r with armed := true, ticks := 0 }
  | _, _ => s

def execRsArmed (op : Nat) (s : State) : Host.Outcome State Fault Refusal := .next (s.quiet.whenLive (rsArmed op))

/-- The lowest uncommitted chunk of a place in the window. -/
def rsChunkAt (d : Desc) (r : RsOp) (pos : Nat) : Nat :=
  let w := rsWindow d
  let from_ := r.reduced + (pos + w - r.reduced % w) % w
  ((List.range (r.ahead.length + 1)).map (fun i => from_ + i * w)).find? (fun k => !r.ahead.contains k) |>.getD from_

/-- A contribution joins its chunk: its elements are combined in arrival order (R160, R172). -/
def rsCombine (c : RedCfg) (acc : Option (List (W32 × W32))) (terms : List (W32 × Status16)) : List (W32 × W32) × Status16 :=
  let tf := terms.foldl (fun f t => f ||| t.2) fNone
  match acc with
  | none => (terms.map (fun t => (t.1, 0#32)), tf)
  | some as =>
    let rs := (as.zip terms).map (fun p => c.step p.1 p.2.1)
    (rs.map Prod.fst, rs.foldl (fun f r => f ||| r.2) tf)

/-! Accumulators (R172): chunk k's stand in the region buffer of logical region k mod G, at a place of the model's choosing (DESIGN CHOICE: log
entry 135). -/

def rsRegionAt (r : RsOp) (k : Nat) : RegionId := r.regions.getD (k % max 1 r.regions.length) 0

/-- Bytes of one accumulator, and where chunk k's stand. -/
def rsAccSize (d : Desc) : Nat := if arithComp (rsCfg d).arith then 8 else 4
def rsAccAt (d : Desc) (r : RsOp) (k : Nat) : Nat :=
  let g := max 1 r.regions.length
  k / g % max 1 ((rsWindow d + g - 1) / g) * (rsChunk d * rsAccSize d)

/-- The accumulators (s, c) of a chunk. -/
def State.rsAcc (s : State) (d : Desc) (r : RsOp) (k : Nat) : List (W32 × W32) :=
  let m := (s.rbuf (rsRegionAt r k)).bytes
  (List.range (rsChunk d)).map (fun i =>
    let a := rsAccAt d r k + i * rsAccSize d
    (BitVec.ofNat 32 (leNat (getWrapped m (2 ^ 23) a 4)), if rsAccSize d = 8 then BitVec.ofNat 32 (leNat (getWrapped m (2 ^ 23) (a + 4) 4)) else 0#32))

def State.putRsAcc (s : State) (d : Desc) (r : RsOp) (k : Nat) (acc : List (W32 × W32)) : State :=
  let g := rsRegionAt r k
  let x := s.rbuf g
  let bs := acc.flatMap (fun v => bytesOf v.1 4 ++ (if rsAccSize d = 8 then bytesOf v.2 4 else []))
  s.setRbuf g { x with bytes := putWrapped x.bytes (2 ^ 23) (rsAccAt d r k) bs }

/-- The terms of a slot. -/
def rsTerms (d : Desc) (bs : List Byte) : List (W32 × Status16) :=
  (List.range (rsChunk d)).map (fun i => redTerm (rsCfg d).fmtIn bs i)

/-- RS_CONTRIBUTION: a completed BULK write transfer that covers exactly one slot is recognised (R170, R171); ce single-bit
errors of the region buffer were corrected on the way (R98). -/
def rsContribution (n : Nat) (addr : W64) (bytes ce : Nat) (s : State) : State :=
  match s.rs n, s.op n with
  | some r, some o =>
    let d := o.desc
    let area := rsArea d
    if !r.armed ∨ o.ending.isSome ∨ !s.rtr.landed.contains (addr, bytes) ∨ addr.toNat < area.1 ∨ area.1 + area.2 ≤ addr.toNat then s
    else
      let s1 : State := { s with rtr := { s.rtr with landed := s.rtr.landed.erase (addr, bytes) } }
      let slot := rsSlotBytes d
      let off := addr.toNat - area.1
      if off < 4096 ∨ (off - 4096) % slot ≠ 0 ∨ bytes ≠ slot then s1
      else
        let ix := (off - 4096) / slot
        let k := rsChunkAt d r (ix / rsPeers d)
        let j := ix % rsPeers d
        let seen := mget [] r.order k
        if rsChunks d ≤ k ∨ seen.contains j then s1.failRs n stStageOverrun
        else if s1.opReadBusy o addr bytes || !s1.regionIssues (rsRegionAt r k) then s
        else match s1.opRead o addr bytes noIo with
        | (.error st, s2) => s2.failRs n st
        | (.ok (bs, bad), s2) =>
          if bad.any id then s2.failRs n stPoison
          else
            let old := if r.acc.contains k then some (s2.rsAcc d r k) else none
            let (acc, fl) := rsCombine (rsCfg d) old (rsTerms d bs)
            (((s2.putRsAcc d r k acc).bump (ctrReel 1 (rsRegionAt r k).val) ce).setRs n
              { r with arrived := r.arrived + 1, dirty := true, ticks := 0, order := tput r.order k (seen ++ [j]),
                       acc := r.acc.erase k ++ [k] }).modOp n (fun x => { x with tileStatus := x.tileStatus ||| fl })
  | _, _ => s

def execRsContribution (op : Nat) (addr : W64) (bytes : RbufRead) (s : State) : Host.Outcome State Fault Refusal :=
  .next (s.quiet.whenLive (rsContribution op addr bytes.n bytes.ce))

/-- The leading committed chunks, after chunk k has committed. -/
def rsAdvance (r : RsOp) (k : Nat) : RsOp :=
  let all := k :: r.ahead
  let n := ((List.range (all.length + 1)).find? (fun i => !all.contains (r.reduced + i))).getD 0
  { r with reduced := r.reduced + n, ahead := all.filter (fun c => decide (r.reduced + n ≤ c)), dirty := true,
           order := tdel r.order k, acc := r.acc.erase k }

/-- The tiles of a chunk: one on each of the operation's cells (DESIGN CHOICE: log entry 69). -/
def rsTiles (r : RsOp) (k : Nat) : List (CellId × Nat) := r.cells.zip ((List.range r.cells.length).map (fun i => k * 1024 + i))

/-- A chunk has committed; the last one completes the operation (R175). -/
def State.rsCommitted (s : State) (n : Nat) (r : RsOp) (o : OpRec) (k : Nat) : State :=
  let r1 := rsAdvance r k
  let s1 := (s.setRs n r1).tilesDone n o.tenant (rsTiles r k)
  if r1.reduced = rsChunks o.desc then s1.endRs n r1 o stOk else s1

/-- RS_CHUNK_COMMIT: a chunk to which every contributor has been combined is converted, written to the destination, and commits; one that
lies on another node commits when its writes are acknowledged; ce errors of the region buffer were corrected on the way (R98). -/
def rsChunkCommit (n k ce : Nat) (s : State) : State :=
  match s.rs n, s.op n with
  | some r, some o =>
    let d := o.desc
    if !r.armed ∨ o.ending.isSome ∨ (mget [] r.order k).length ≠ rsPeers d then s
    else if !s.cellIssues (r.cells.headD 0) then s
    else if (s.drawChecks n (rsTiles r k)).isNone then s.waitTiles n (blockOf (r.cells.headD 0))
    else if !r.acc.contains k then (if s.opOpen n then s else s.rsCommitted n r o k)
    else
      let c := rsCfg d
      let acc := s.rsAcc d r k
      let outs := ((List.range acc.length).zip acc).map (fun p => c.out (k * rsChunk d + p.1) p.2)
      let size := elemSize c.fmtOut
      let at_ : Place := ⟨false, descField d 16 8 + k * rsChunk d * size⟩
      let w : Place × List Byte := (at_, outs.flatMap (fun e => natBytes size e.1))
      if s.storeBusy o w then s
      else match s.store n o noIo w with
      | (some st, s1) => s1.failRs n st
      | (none, s1) =>
        let s2 := (s1.bump (ctrReel 1 (rsRegionAt r k).val) ce).modOp n
          (fun x => { x with tileStatus := x.tileStatus ||| outs.foldl (fun f e => f ||| e.2) fNone })
        if s2.opOpen n then s2.setRs n { r with acc := r.acc.erase k } else s2.rsCommitted n r o k
  | _, _ => s

def execRsChunkCommit (op : Nat) (chunk : RbufRead) (s : State) : Host.Outcome State Fault Refusal :=
  .next (s.quiet.whenLive (rsChunkCommit op chunk.n chunk.ce))

/-- RS_PEER_TIMEOUT: no contribution has arrived within the timeout (R174). -/
def rsPeerTimeout (n : Nat) (s : State) : State :=
  match s.rs n, s.op n with
  | some r, some o => if r.armed ∧ o.ending.isNone ∧ rsTimeoutTicks o.desc ≤ r.ticks then s.failRs n stPeerTimeout else s
  | _, _ => s

def execRsPeerTimeout (op : Nat) (s : State) : Host.Outcome State Fault Refusal := .next (s.quiet.whenLive (rsPeerTimeout op))

end Sys2Proof.Machine
end

