-- ==== Sys2Proof/Machine/Checks.lean ====
section
/-! DEFINITION. Result checking and verdicts (spec/06): the check setting and its blocks, checks and their votes, residue failures, verdicts,
and the report ring. -/

namespace Sys2Proof.Machine

/-! The setting (R192 to R195). -/

/-- Check blocks in the order of R193. -/
def checkOrder : List BlockId :=
  [(7 : Fin 8), 6, 5, 4].flatMap (fun i => (List.finRange 8).reverse.map (fun g => blockIn g i))

/-- A block is bound to some run, or was when this tick began. -/
def State.boundBlock (s : State) (b : BlockId) : Bool := s.blockTaken s.que.nextOp b || s.fab.freed.contains b

/-- A write of FRACTION (R194, R222): a reserved value has no effect. -/
def State.setFraction (s : State) (v : BitVec 3) : State :=
  if 4 < v.toNat then s else { s with ras := { s.ras with fraction := v, pendingFraction := v != s.ras.active, fractionAge := 0 } }

/-- CHECK_FRACTION_WRITE: the register is written over the management port alone (R613). -/
def execCheckFractionWrite (via : RegPath) (v : BitVec 3) (s : State) : Host.Outcome State Fault Refusal :=
  .next (s.quiet.whenLive (fun t => match via with
    | .mgmt => t.setFraction v
    | .window _ => t))

/-- CHECK_FRACTION_APPLY: at a boundary after the write the setting takes effect once every block it adds is bound to no run (R194). -/
def checkFractionApply (s : State) : State :=
  if !s.ras.pendingFraction || s.ras.fractionAge == 0 then s
  else
    let new := (checkOrder.filter s.blockOnline).take (checkCount s.ras.fraction)
    let added := new.filter (fun b => !s.ras.checkBlocks.contains b)
    if added.any s.boundBlock then s
    else
      let gone := s.ras.checkBlocks.filter (fun b => !new.contains b)
      let leaving := (s.ras.leaving ++ gone).filter (fun b => !new.contains b)
      ({ s with ras := { s.ras with active := s.ras.fraction, pendingFraction := false, checkBlocks := new,
                                    leaving := leaving } }).fixLeaving.fixShort

def execCheckFractionApply (s : State) : Host.Outcome State Fault Refusal := .next (s.quiet.whenLive checkFractionApply)

/-- CHECK_BLOCK_REPLACE: at a boundary after a check block went offline, the next block of the order that no run holds takes its place
(R195). -/
def checkBlockReplace (s : State) : State :=
  match s.ras.checkBlocks.find? (fun b => !s.blockOnline b && !s.leftNow b),
      checkOrder.find? (fun b => s.blockOnline b && !s.ras.checkBlocks.contains b) with
  | some old, some new =>
    if s.boundBlock new then s
    else
      let blocks := checkOrder.filter (fun b => b == new || (b != old && s.ras.checkBlocks.contains b))
      ({ s with ras := { s.ras with checkBlocks := blocks, leaving := s.ras.leaving.erase new } }).fixShort
  | _, _ => s

def execCheckBlockReplace (s : State) : Host.Outcome State Fault Refusal := .next (s.quiet.whenLive checkBlockReplace)

/-! Checks (R196 to R204). -/

/-- The tenant whose tile a check holds. -/
def State.checkTenant (s : State) (k : Check) : Tenant :=
  match s.op k.op with
  | some o => o.tenant
  | none => (tget s.ras.verdicts k.op).elim 0#10 (fun v => v.tenant)

/-- What the figures of a tile that is run again need to know. -/
def TileSrc.cx (x : TileSrc) : FigCtx :=
  { streams := imgStreams x.image, step := x.step, lc := x.lc, scratchEnd := imgScratchEnd x.image, seed := x.seed,
    tile := x.step * imgAllCells x.image + x.lc, reel := x.reel, figIx := 0 }

/-- The footprint of a check's tile: the bytes from which its figures are run again (R197). -/
def Check.footprint (k : Check) : List Range := Sys2Proof.Machine.footprint k.src.image k.src.cx

/-- The next figure of a tile that is run again (R198): its atomic requests are made out and not sent. -/
def TileSrc.runFig (x : TileSrc) (c : Cell) : Cell :=
  match c.tile with
  | none => c
  | some t =>
    let f := c.nextFig t
    match f.kind with
    | 1 => figDone 1 (figDot x.cx f c)
    | 2 => figDone 1 (figEwise x.cx f c)
    | 3 => figDone 1 (figLreduce x.cx f c)
    | 4 => figDone 1 (figConvert x.cx f c)
    | 5 => figDone 1 (figGather x.cx f c)
    | 6 => figDone 1 (figAtomic x.cx f (x.args.getD f.param (0, 0)).1 (x.args.getD f.param (0, 0)).2 c)
    | _ => figDone (if figSkips x.cx f c then 1 + f.param else 1) c

/-- The figures of a tile, one after another. -/
def TileSrc.play (x : TileSrc) : Nat → Cell → Cell
  | 0, c => c
  | n + 1, c => if c.tile.any (fun t => decide (t.fig < imgFigCount x.image)) then x.play n (x.runFig c) else c

/-- The signature of a tile run again on the bytes of a scratch (R198, R200). -/
def TileSrc.signature (x : TileSrc) (scratch : SMap Byte) : BitVec 128 :=
  let t : Tile := { run := 0, lc := x.lc, step := x.step, fig := 0, overran := false, check := none, sig := (0#64, 0#64), reqs := [],
                    outstanding := 0, sent := false, stopped := false }
  let c := x.play (imgFigCount x.image) { Cell.reset with scratch := scratch, regFree := x.regFree, tile := some t }
  tileSig (c.tile.getD t) c.status

/-- The signature that a cell holding a check's footprint comes to; flip holds the bits in which a fault of a cell makes it differ from what the
figures give (DESIGN CHOICE: log entry 133). -/
def State.checkSig (s : State) (k : Check) (c : CellId) (flip : BitVec 128) : BitVec 128 := k.src.signature (s.cell c).scratch ^^^ flip

/-- Copy a footprint from one cell's scratch to another's, which is zeroed first when it last served another tenant (R198). -/
def State.copyFootprint (s : State) (gs : List Range) (t : Tenant) (a b : CellId) : State :=
  let src := s.cell a
  let x := zeroCell (s.cell b) t
  s.setCell b { x with scratch := gs.foldl (fun m g => putWrapped m scratchBytes g.1 (src.bytesAt g.1 g.2)) x.scratch }

def State.modCheck (s : State) (k : Nat) (f : Check → Check) : State :=
  { s with ras := { s.ras with checks := tmod s.ras.checks k f } }

/-- FOOTPRINT_COPY_DONE: from the origin to the check cell, or, once the two have disagreed, from the check cell to the third. -/
def footprintCopyDone (k : Nat) (s : State) : State :=
  match tget s.ras.checks k with
  | none => s
  | some c =>
    if c.copied || !s.cellIssues (c.third.getD c.checkCell) then s
    else
      let gs := c.footprint
      let s1 := match c.third with
        | some t => s.copyFootprint gs (s.checkTenant c) c.checkCell t
        | none => s.copyFootprint gs (s.checkTenant c) c.origin c.checkCell
      s1.modCheck k (fun x => { x with copied := true })

def execFootprintCopyDone (chk : Nat) (s : State) : Host.Outcome State Fault Refusal := .next (s.quiet.whenLive (footprintCopyDone chk))

/-- The check block the third cell comes from (R202). -/
def State.thirdBlock (s : State) (c : Check) : BlockId :=
  let here := blockOf c.checkCell
  let on := checkOrder.filter (fun b => b == here || (s.ras.checkBlocks.contains b && s.blockOnline b && b != blockOf c.origin))
  let i := on.findIdx (· == here)
  on.getD ((i + 1) % on.length) here

/-- A cell may be the third of a check. -/
def State.thirdFree (s : State) (c : Check) (t : CellId) : Bool :=
  blockOf t == s.thirdBlock c && t != c.checkCell && s.cellOnline t && !(s.ras.checks.any (fun e => e.2.checkCell == t || e.2.third == some t))

/-- CHECK_EXECUTE_DONE: the check cell has its signature. It agrees with the origin's, or a third cell takes the footprint (R202); the check
waits while that cell is not free. The footprint stays in the check cell as it was copied. -/
def checkExecuteDone (k : Nat) (flip : BitVec 128) (third : Option CellId) (s : State) : State :=
  match tget s.ras.checks k with
  | none => s
  | some c =>
    let sig := s.checkSig c c.checkCell flip
    if !c.copied ∨ !s.cellIssues c.checkCell ∨ c.third.isSome ∨ (c.sigOrigin.isNone ∧ !c.originOut) then s
    else if c.sigOrigin = some sig ∧ !c.originOut then (s.dropCheck k).tally (ctrRas 0)
    else match third with
    | none => s
    | some t =>
      if s.thirdFree c t then
        (s.tally (ctrRas 1)).modCheck k (fun x => { x with sigCheck := some sig, third := some t, copied := false })
      else s

def execCheckExecuteDone (chk : Nat) (flip : BitVec 128) (third : Option CellId) (s : State) : Host.Outcome State Fault Refusal :=
  .next (s.quiet.whenLive (checkExecuteDone chk flip third))

/-- The operation's results are its origin's no longer: the replay of the tile is selected for check (R206). -/
def State.forceCheck (s : State) (c : Check) : State :=
  match s.run c.op with
  | none => s
  | some r => s.setRun c.op { r with lcs := tmap r.lcs (fun _ l => if l.cell = c.origin ∧ l.running then { l with forced := true } else l) }

/-- The vote with the third signature (R202, R204, R206). -/
def thirdExecuteDone (k : Nat) (flip : BitVec 128) (s : State) : State :=
  match tget s.ras.checks k with
  | none => s
  | some c => match c.third with
  | none => s
  | some y =>
    if !c.copied || !s.cellIssues y then s
    else
      let sig := s.checkSig c y flip
      let s1 := (s.dropCheck k).tally (ctrRas 0)
      if c.sigCheck = some sig then
        if c.residue then (s1.forceCheck c).fenceCell c.origin .voteMinority
        else ((s1.setCause c.op .disagree).checkReport 1 1 c (unitCell c.origin) (unitCell c.checkCell)).fenceCell c.origin .voteMinority
      else if c.sigOrigin = some sig ∧ !c.originOut then
        (s1.checkReport 2 1 c (unitCell c.origin) (unitCell c.checkCell)).fenceCell c.checkCell .voteMinority
      else ((s1.setCause c.op .threeWay).checkReport 3 2 c (unitCell c.origin) (unitCell c.checkCell)).blockFault (blockOf c.origin) .threeWay

def execThirdExecuteDone (chk : Nat) (flip : BitVec 128) (s : State) : Host.Outcome State Fault Refusal :=
  .next (s.quiet.whenLive (thirdExecuteDone chk flip))

/-- The steps of a figure carry a residue check: integer dot-accumulates, adds, subtracts, multiplies and multiply-adds in a lane (R205). -/
def Fig.residue (f : Fig) : Bool := f.int && (f.kind == 1 || (f.kind == 2 && f.ops.any (fun o => decide (1 ≤ o.1) && decide (o.1 ≤ 4))))

/-- A check cell takes the footprint of a tile that a residue failure stopped (R206). -/
def State.checkStopped (s : State) (c checkCell : CellId) : State :=
  let x := s.cell c
  match x.tile with
  | none => s
  | some t => match s.run t.run with
    | none => s
    | some r =>
      if !t.stopped || t.check.isSome || !s.checkCellFree checkCell || blockOf checkCell == blockOf c then s
      else
        let k := s.ras.nextCheck
        let y : Check := { s.newCheck t r c checkCell with originOut := true, residue := true }
        let s1 := s.setCell c { x with tile := some { t with check := some k } }
        { s1 with ras := { s1.ras with nextCheck := k + 1, checks := tput s1.ras.checks k y } }

/-- RESIDUE_FAIL_LANE: the tile stops, and its footprint goes to a check cell unless one holds it already; where the one named is not free the
tile stays stopped until one is (R206). -/
def residueFailLane (c checkCell : CellId) (s : State) : State :=
  let x := s.cell c
  match x.tile with
  | none => s
  | some t =>
    if s.ras.active = 0#3 then s
    else if t.stopped then s.checkStopped c checkCell
    else match s.run t.run with
    | none => s
    | some r =>
      if imgFigCount (s.runImage r) ≤ t.fig ∨ !(x.nextFig t).residue then s
      else
        let s1 := (s.setCell c { x with tile := some { t with stopped := true } }).tally (ctrRas 2)
        match t.check.bind (fun k => (tget s.ras.checks k).map (fun y => (k, y))) with
        | some (k, y) =>
          (s1.modCheck k (fun z => { z with originOut := true, residue := true })).checkReport 4 1 y (unitCell c) (unitCell y.checkCell)
        | none =>
          let s2 := (s1.setCell c { x with tile := some { t with stopped := true, check := none } }).checkStopped c checkCell
          let held : Bool := (s2.cell c).tile.any (fun u => u.check.isSome)
          s2.checkReport 4 1 (s.newCheck t r c checkCell) (unitCell c) (if held then unitCell checkCell else 0xFFFF#16)

/-- Tiles that a residue failure stopped and that no check cell has taken yet, or whose check was lost, get the next free one (R204, R206). -/
def State.feedStopped (s : State) : State :=
  (s.fab.cells.map Prod.fst).foldl (fun st n =>
    if h : n < 1024 then
      let c : CellId := ⟨n, h⟩
      match (st.ras.checkBlocks.flatMap (fun b => (List.finRange 16).map (cellIn b))).find? (fun k => st.checkCellFree k && blockOf k != blockOf c) with
      | some k => st.checkStopped c k
      | none => st
    else st) s

def execResidueFailLane (c checkCell : CellId) (s : State) : Host.Outcome State Fault Refusal :=
  .next (s.quiet.whenLive (residueFailLane c checkCell))

/-! Verdicts (R209 to R215). -/

/-- A check of an operation has not ended. -/
def State.checksOpen (s : State) (n : Nat) : Bool := s.ras.checks.any (fun e => e.2.op == n)

/-- VERDICT_CONFIRM: from boundary T_f + HOLD on, up to T_f + 8. -/
def verdictConfirm (n : Nat) (s : State) : State :=
  match tget s.ras.verdicts n with
  | none => s
  | some v => match v.tf, v.cause with
    | some t, none => if s.ras.hold.toNat ≤ t ∧ t ≤ 8 ∧ !s.checksOpen n then s.issueVerdict n .confirm none else s
    | _, _ => s

def execVerdictConfirm (op : Nat) (s : State) : Host.Outcome State Fault Refusal := .next (s.quiet.whenLive (verdictConfirm op))

/-- VERDICT_RETRACT: at the first boundary after its cause is known. -/
def verdictRetract (n : Nat) (s : State) : State :=
  match tget s.ras.verdicts n with
  | none => s
  | some v => match v.cause with
    | some (c, age) => if c ≠ .threeWay ∧ 1 ≤ age ∧ !v.issued then s.issueVerdict n .retract (some c) else s
    | none => s

def execVerdictRetract (op : Nat) (s : State) : Host.Outcome State Fault Refusal := .next (s.quiet.whenLive (verdictRetract op))

/-- VERDICT_LATE: no verdict 8 boundaries after the completion was due, of an operation with a check that has not ended. -/
def verdictLate (n : Nat) (s : State) : State :=
  match tget s.ras.verdicts n with
  | none => s
  | some v => match v.tf, v.cause with
    | some t, none =>
      match s.ras.checks.find? (fun e => e.2.op == n) with
      | some (_, c) => if 8 ≤ t then (s.issueVerdict n .retract (some .late)).checkReport 7 2 c (unitCell c.origin) (unitCell c.checkCell) else s
      | none => s
    | _, _ => s

def execVerdictLate (op : Nat) (s : State) : Host.Outcome State Fault Refusal := .next (s.quiet.whenLive (verdictLate op))

/-- VERDICT_FATAL: at the first boundary after the cause is known; an operation that still runs ends with CHECK_FATAL, and its verdict follows or
joins its completion (R212, R215). -/
def verdictFatal (n : Nat) (s : State) : State :=
  match tget s.ras.verdicts n with
  | none => s
  | some v => match v.cause with
    | some (.threeWay, age) =>
      if age = 0 ∨ v.issued then s
      else if v.tf.isSome then s.issueVerdict n .fatal (some .threeWay)
      else ((s.issueVerdict n .fatal (some .threeWay)).endOp n stCheckFatal).settleRs n
    | _ => s

def execVerdictFatal (op : Nat) (s : State) : Host.Outcome State Fault Refusal := .next (s.quiet.whenLive (verdictFatal op))

/-! The report ring (R218). -/

/-- REPORT_READ: OLDEST, NEWEST and the reports, also of a fatal node. -/
def reportRead (first : W32) (count : BitVec 16) (s : State) : State :=
  if count.toNat = 0 ∨ 200 < count.toNat then s.reply 0x44#8 7 []
  else
    let oldest := (s.ras.ring.head?.map (fun r => r.seq)).getD Config.emptyOldest
    let rs := ((s.ras.ring.filter (fun r => decide (first.toNat ≤ r.seq.toNat))).take count.toNat).flatMap reportBytes
    s.reply 0x44#8 0 (bytesOf oldest 4 ++ bytesOf (s.ras.nextSeq - 1#32) 4 ++ rs)

def execReportRead (first : W32) (count : BitVec 16) (s : State) : Host.Outcome State Fault Refusal :=
  .next (s.quiet.whenAwake (reportRead first count))

end Sys2Proof.Machine
end

