-- ==== Sys2Proof/Machine/Coherence.lean ====
section
/-! DEFINITION. The commands of the coherence home agent (spec/09). -/

namespace Sys2Proof.Machine

/-! Management commands (R306). -/

/-- COH_AGENT_ADD. -/
def cohAgentAdd (ep : Ep) (s : State) : State :=
  match (List.range 1024).find? (fun a => (tget s.coh.agents a).isNone) with
  | none => s.reply 0x10#8 6 []
  | some a =>
    if (s.agentIx ep).isSome then s.reply 0x10#8 3 []
    else ({ s with coh := { s.coh with agents := tput s.coh.agents a ⟨ep, false⟩ } }).reply 0x10#8 0 (natBytes 2 a)

def execCohAgentAdd (ep : Ep) (s : State) : Host.Outcome State Fault Refusal :=
  .next (s.quiet.whenLive (cohAgentAdd ep))

/-- COH_AGENT_REMOVE: recall every line the agent holds or may hold, then free its index. -/
def cohAgentRemove (ep : Ep) (s : State) : State :=
  match s.agentIx ep with
  | none => s.reply 0x11#8 7 []
  | some a =>
    (s.startRecall ⟨some a, none, (s.dirLines.filter (fun l => mayHold l.2 a)).map Prod.fst⟩).settleRecalls

def execCohAgentRemove (ep : Ep) (s : State) : Host.Outcome State Fault Refusal :=
  .next (s.quiet.whenLive (cohAgentRemove ep))

/-- COH_DECLARE_DEAD. -/
def cohDeclareDead (ep : Ep) (s : State) : State :=
  match s.agentIx ep with
  | none => s.reply 0x12#8 7 []
  | some _ => (s.declareDead ep).reply 0x12#8 0 []

def execCohDeclareDead (ep : Ep) (s : State) : Host.Outcome State Fault Refusal :=
  .next (s.quiet.whenLive (cohDeclareDead ep))

/-- COH_AGENT_QUERY: INDEX, STATE, a zero byte and the counts S, E, M and S_VEC. -/
def cohAgentQuery (ep : Ep) (s : State) : State :=
  match s.agentIx ep with
  | none => s.reply 0x13#8 7 []
  | some a =>
    let count (f : DirLine → Bool) : List Byte := natBytes 4 (s.dirLines.filter (fun l => f l.2)).length
    s.reply 0x13#8 0 (natBytes 2 a ++ [if s.agentDead a then 1#8 else 0#8, 0#8] ++ count (· == .sPtr a) ++ count (· == .e a) ++
      count (· == .m a) ++ count (fun d => match d with | .sVec v => v.getLsbD (a % 15) | _ => false))

def execCohAgentQuery (ep : Ep) (s : State) : Host.Outcome State Fault Refusal :=
  .next (s.quiet.whenLive (cohAgentQuery ep))

/-- The sweep of a dead agent ends (R331 steps 4 and 5). -/
def deadAgentSweepDone (ep : Ep) (s : State) : State :=
  match s.agentIx ep with
  | none => s
  | some a =>
    match tget s.coh.sweeps a with
    | none => s
    | some _ =>
      let s1 := s.dirLines.foldl (fun acc l =>
        match l.2 with
        | .sVec _ => acc
        | d => if mayHold d a then acc.settleDead l.1 else acc) s
      let n := (tget s1.coh.sweeps a).getD 0
      (({ s1 with coh := { s1.coh with sweeps := tdel s1.coh.sweeps a } }).raise
        (mkReport 0x09 0x01 2 (unitSlice 0) ep.toNat n)).settleRemovals

def execDeadAgentSweepDone (ep : Ep) (s : State) : Host.Outcome State Fault Refusal :=
  .next (s.quiet.whenLive (deadAgentSweepDone ep))

/-! Requests (R307, R308, R316, R321, R322). -/

/-- The rights that each request needs (R308). -/
def cohAccess (ip : InPkt) : Access :=
  let op := ip.pkt.opc
  { ep := ip.pkt.src
    needR := op == 0x01#8 || op == 0x04#8 || op == 0x02#8 || op == 0x03#8
    needW := op == 0x02#8 || op == 0x03#8 || op == 0x05#8 || op == 0x07#8
    needA := op == 0x06#8
    coherent := op != 0x06#8
    auth := ip.authList
    passed := false
    loader := none
    vslot := none }

/-- The teardown fence (R513), the extent check, and the conflict queue. -/
def State.cohChecked (s : State) (ip : InPkt) (line : Nat) (ep : Ep) : State :=
  let p := ip.pkt
  if s.tenantGone p.tenant then s.refuse p ep stTenantGone
  else
    match s.takeAccess (cohAccess ip) p.addr (fgaPpa p.addr + 64) with
    | (.error st, s1) => s1.refuse p ep st
    | (.ok acc, s1) =>
      let r : CReq := { ep := ep, pkt := p, port := ip.port, ext := acc.ext, slice := acc.slice, far := none, vslot := acc.vslot }
      let s2 := s1.addAccepted acc.ext acc.slice 1
      { s2 with coh := { s2.coh with queues := mset [] s2.coh.queues line (mget [] s2.coh.queues line ++ [r]) } }

/-- A request reaches its slice. -/
def State.cohRequest (s : State) (ip : InPkt) : State :=
  let p := ip.pkt
  let ep := p.src
  let line := fgaPpa p.addr / 64
  match s.agentIx ep with
  | some a =>
    if s.agentDead a then s.tally (ctrCoh 10)
    else if p.opc = 0x07#8 && s.snoopOut line ep then s.takeLate line p ep
    else s.cohChecked ip line ep
  | none =>
    if agentOnly p.opc then s.refuse p ep stNotAgent
    else s.cohChecked ip line ep

/-- The request at place i of the inbox; a write-back that answers a snoop waits behind nothing (R321, R404). -/
def State.takeReq (s : State) (i : Nat) (opc : BitVec 8) : Option (InPkt × State) :=
  match s.takeAny i [opc] with
  | some (ip, s1) =>
    if opc = 0x07#8 ∧ s.snoopOut (fgaPpa ip.pkt.addr / 64) ip.pkt.src then some (ip, s1) else s.takePkt i [opc]
  | none => none

/-- A request packet is taken from the inbox unless its slice holds 1,024 active transactions or 4,096 waiting requests (R316). -/
def cohTake (i : Nat) (opc : BitVec 8) (s : State) : State :=
  match s.takeReq i opc with
  | none => s
  | some (ip, s1) =>
    let sl := ppaSlice (fgaPpa ip.pkt.addr)
    if s.sliceFull sl then s else s1.cohRequest ip

def execRdShared (i : Nat) (s : State) : Host.Outcome State Fault Refusal := .next (s.quiet.whenLive (cohTake i 0x01#8))
def execRdOwn (i : Nat) (s : State) : Host.Outcome State Fault Refusal := .next (s.quiet.whenLive (cohTake i 0x02#8))
def execClaim (i : Nat) (s : State) : Host.Outcome State Fault Refusal := .next (s.quiet.whenLive (cohTake i 0x03#8))
def execRdOnce (i : Nat) (s : State) : Host.Outcome State Fault Refusal := .next (s.quiet.whenLive (cohTake i 0x04#8))
def execWrLine (i : Nat) (s : State) : Host.Outcome State Fault Refusal := .next (s.quiet.whenLive (cohTake i 0x05#8))
def execAtomic (i : Nat) (s : State) : Host.Outcome State Fault Refusal := .next (s.quiet.whenLive (cohTake i 0x06#8))
def execWbDirty (i : Nat) (s : State) : Host.Outcome State Fault Refusal := .next (s.quiet.whenLive (cohTake i 0x07#8))
def execEvictClean (i : Nat) (s : State) : Host.Outcome State Fault Refusal := .next (s.quiet.whenLive (cohTake i 0x08#8))

/-- A recall that waits for a line; a line of a DRAINING extent that the directory still holds, granted to a request accepted before the
revocation point, is recalled as well (R285). -/
def State.recallFor (s : State) (line : Nat) : Option RecallWait :=
  match s.coh.recalls.find? (fun w => w.lines.contains line) with
  | some w => some w
  | none => match s.homeLine line with
    | some (e, x, _) => if x.state = .draining ∧ s.dirLine line ≠ .i then some ⟨none, some e, [line]⟩ else none
    | none => none

/-- The home orders what comes next on a line: a stash push that waits for a sector entry, and where no transaction holds the line, a recall that waits for it, else the request at the head
of its conflict queue (R316, R317). -/
def homeOrder (line : Nat) (s : State) : State :=
  match s.txn line with
  | some t => match t.kind, t.phase with
    | .request r, .stashed a => s.recordStash line r a
    | _, _ => s
  | none => match s.recallFor line with
  | some w => s.recallLine line w.agent
  | none =>
    match mget [] s.coh.queues line with
    | [] => s
    | r :: rest =>
      if 1024 ≤ s.sliceActive (ppaSlice (line * 64)) then s
      else
        let s1 := { s with coh := { s.coh with queues := mset [] s.coh.queues line rest } }
        (s1.order line r (!rest.isEmpty)).takeWaiting line

def execHomeOrder (line : BitVec 34) (s : State) : Host.Outcome State Fault Refusal :=
  .next (s.quiet.whenLive (homeOrder line.toNat))

/-! Snoop answers (R313, R315, R319, R321). -/

/-- Take an answer packet of one opcode and hand it on; a message from an agent that is DEAD is discarded and counted (R331). -/
def snpTake (i : Nat) (opc : BitVec 8) (f : Nat → Packet → State → State) (s : State) : State :=
  match s.takePkt i [opc] with
  | none => s
  | some (ip, s1) => if s1.fromDead ip.pkt.src then s1.tally (ctrCoh 10) else f (fgaPpa ip.pkt.addr / 64) ip.pkt s1

/-- The answer is not SNP_RSP_WB's follow-up: an agent whose write-back is awaited sends no other answer that is used (R321). -/
def State.awaitsWb (s : State) (line : Nat) (ep : Ep) : Bool :=
  match s.txn line with
  | some t => t.snoops.any (fun x => x.ep == ep && x.wbAwaited)
  | none => false

def snpPlain (kept : Bool) (line : Nat) (p : Packet) (s : State) : State :=
  if s.awaitsWb line p.src then s else s.snoopAnswer line p.src kept none false

def snpData (kept : Bool) (line : Nat) (p : Packet) (s : State) : State :=
  if s.awaitsWb line p.src then s else s.snoopAnswer line p.src kept (some (pktData p)) false

def snpWb (line : Nat) (p : Packet) (s : State) : State :=
  match s.txn line with
  | none => s
  | some t => s.setTxn line { t with snoops := t.snoops.map (fun x => if x.ep == p.src then { x with wbAwaited := true } else x) }

def execSnpRspI (i : Nat) (s : State) : Host.Outcome State Fault Refusal :=
  .next (s.quiet.whenLive (snpTake i 0x60#8 (snpPlain false)))
def execSnpRspS (i : Nat) (s : State) : Host.Outcome State Fault Refusal :=
  .next (s.quiet.whenLive (snpTake i 0x61#8 (snpPlain true)))
def execSnpRspDataI (i : Nat) (s : State) : Host.Outcome State Fault Refusal :=
  .next (s.quiet.whenLive (snpTake i 0x62#8 (snpData false)))
def execSnpRspDataS (i : Nat) (s : State) : Host.Outcome State Fault Refusal :=
  .next (s.quiet.whenLive (snpTake i 0x63#8 (snpData true)))
def execSnpRspDataM (i : Nat) (s : State) : Host.Outcome State Fault Refusal :=
  .next (s.quiet.whenLive (snpTake i 0x64#8 (snpData false)))
def execSnpRspWb (i : Nat) (s : State) : Host.Outcome State Fault Refusal :=
  .next (s.quiet.whenLive (snpTake i 0x65#8 snpWb))

/-- STASH_ACCEPT records the target; STASH_DECLINE leaves the line I (R328). -/
def stashAnswer (accept : Bool) (line : Nat) (p : Packet) (s : State) : State :=
  match s.txn line with
  | some t =>
    match t.kind, t.phase with
    | .request r, .stashing ep a =>
      if ep = p.src then
        if accept then s.recordStash line r a else (s.endReq line r).tally (ctrCoh 7)
      else s
    | _, _ => s
  | none => s

def execStashAccept (i : Nat) (s : State) : Host.Outcome State Fault Refusal :=
  .next (s.quiet.whenLive (snpTake i 0x66#8 (stashAnswer true)))
def execStashDecline (i : Nat) (s : State) : Host.Outcome State Fault Refusal :=
  .next (s.quiet.whenLive (snpTake i 0x67#8 (stashAnswer false)))

/-- GRANT_ACK ends the busy period of the grant it matches, and is otherwise discarded (R308, R314). -/
def grantAck (line : Nat) (p : Packet) (s : State) : State :=
  match s.txn line with
  | some t =>
    match t.kind, t.phase with
    | .request r, .granting ep => if ep = p.src then s.endReq line r else s
    | _, _ => s
  | none => s

def execGrantAck (i : Nat) (s : State) : Host.Outcome State Fault Refusal :=
  .next (s.quiet.whenLive (snpTake i 0x68#8 grantAck))

/-- The home orders a recovery transaction on a line that a controller poisoned (R329). -/
def poisonRecovery (line : Nat) (s : State) : State :=
  if !(s.coh.recover.contains line) || (s.txn line).isSome then s
  else
    let s1 := ({ s with coh := { s.coh with recover := s.coh.recover.erase line } }).settleDead line
    match s1.dirLine line with
    | .sPtr a => (s1.startTxn line .recovery 0x24#8 [a]).takeWaiting line
    | .e a => (s1.startTxn line .recovery 0x24#8 [a]).takeWaiting line
    | .sVec v => (s1.startTxn line .poisonInv 0x20#8 (s1.holders (.sVec v) none)).takeWaiting line
    | _ => s1

def execPoisonRecovery (line : BitVec 34) (s : State) : Host.Outcome State Fault Refusal :=
  .next (s.quiet.whenLive (poisonRecovery line.toNat))

/-- A line's transaction awaits an answer from an endpoint: to a snoop, SNP_STASH among them, or to a grant. -/
def State.awaits (s : State) (line : Nat) (ep : Ep) : Bool :=
  match s.txn line with
  | some t => t.snoops.any (fun x => x.ep == ep) || t.phase == .granting ep || (match t.phase with
    | .stashing e _ => e == ep
    | _ => false)
  | none => false

/-- A snoop answer or GRANT_ACK has not come within SNP_TIMEOUT: the agent is declared dead (R330). -/
def snoopTimeout (line : Nat) (ep : Ep) (s : State) : State :=
  if s.awaits line ep then
    (s.raise (mkReport 0x09 0x02 1 (unitSlice (ppaSlice (line * 64))) ep.toNat (line * 64))).declareDead ep
  else s

def execSnoopTimeout (line : BitVec 34) (ep : Ep) (s : State) : Host.Outcome State Fault Refusal :=
  .next (s.quiet.whenLive (snoopTimeout line.toNat ep))

end Sys2Proof.Machine
end

