-- ==== Sys2Proof/Machine/Links.lean ====
section
/-! DEFINITION. The commands of the link layer (spec/10, and R421 for Phosha Link). -/

namespace Sys2Proof.Machine

/-! Codewords (R339 to R341). -/

/-- FEC_CODEWORD_RECEIVE: symErrs lists the symbol errors by lane, of which those in use carry symbols (R339); more than 15 in all cannot be
corrected. -/
def fecCodewordReceive (p : LinkPort) (symErrs : List Nat) (s : State) : State :=
  let l := s.link p
  let errs := ((List.range 8).zip symErrs).filter (fun e => l.lanes.getLsbD e.1)
  if l.state ≠ .active then s
  else if 15 < (errs.map (fun e => e.2)).sum then (s.setLink p { l with uncorrRun := l.uncorrRun + 1 }).tallyTfl 1 p 1
  else
    let add (m : SMap Nat) : SMap Nat := errs.foldl (fun acc e => mmod 0 acc e.1 (· + e.2)) m
    let s1 := s.setLink p { l with uncorrRun := 0, corrTick := add l.corrTick }
    errs.foldl (fun st e => if isPl p || e.2 == 0 then st else st.bump (ctrTfl 0 (4 * p.val + e.1)) e.2) s1

def execFecCodewordReceive (p : LinkPort) (symErrs : List Nat) (s : State) : Host.Outcome State Fault Refusal :=
  .next (s.quiet.whenLive (fecCodewordReceive p symErrs))

/-- UNCORR_BURST: eight consecutive uncorrectable codewords. -/
def uncorrBurst (p : LinkPort) (s : State) : State := if 8 ≤ (s.link p).uncorrRun then s.startLinkRetrain p 2 else s

def execUncorrBurst (p : LinkPort) (s : State) : Host.Outcome State Fault Refusal :=
  .next (s.quiet.whenLive (uncorrBurst p))

/-- LANE_DEGRADED (R341): marked, reported, and a width without the lane asked for. -/
def laneDegraded (p : LinkPort) (lane : Fin 8) (s : State) : State :=
  let l := s.link p
  if l.state ≠ .active ∨ !l.lanes.getLsbD lane.val ∨ l.degraded.getLsbD lane.val ∨
      mget 0 l.corrRun lane.val < l.degTicks.toNat then s
  else
    let deg := l.degraded ||| (1#8 <<< lane.val)
    let s1 := (s.setLink p { l with degraded := deg }).raise
      (mkReport 0x04 0x04 0 (unitPort p) lane.val (mget 0 l.corrLast lane.val))
    match chooseWidth (isPl p) (l.lanes &&& ~~~deg) (l.wmax (isPl p)) with
    | some (w, lanes) => s1.askWidth p w lanes
    | none => s1

def execLaneDegraded (p : LinkPort) (lane : Fin 8) (s : State) : Host.Outcome State Fault Refusal :=
  .next (s.quiet.whenLive (laneDegraded p lane))

/-! Receiving flits (R342 to R360). -/

/-- Ask for a replay, unless one is already awaited (R349, R351). -/
def State.needReplay (s : State) (p : LinkPort) : State :=
  let l := s.link p
  if l.rx.waiting then s
  else s.setLink p { l with rx := { l.rx with waiting := true, nakDue := true } }

/-- Use a header's link-state fields (R344, R350, R352, R355, R359). -/
def Link.useState (l : Link) (f : BitVec 2048) : Link :=
  let ack : BitVec 12 := BitVec.ofNat 12 (flitField f 14 12)
  let kind := flitField f 26 2
  let tx := if kind = 1 then l.tx.ackBefore (ack + 1#12) else if kind = 2 then l.takeNak ack else l.tx
  let pause := BitVec.ofNat 4 (flitField f 86 4)
  let after := (List.range 4).foldl (fun m v => if pause.getLsbD v && !tx.pauseSeen.getLsbD v then mset 0#8 m v 0#8 else m) tx.afterPause
  { l with tx := { tx with pauseSeen := pause, afterPause := after, peerRet := BitVec.ofNat 16 (flitField f 50 16) } }

/-- Flits a replay can hold (R353). -/
def replayEntries : Nat := 1024

/-- A DATA flit with VC_SENT = 1 begins a VC's count in the new epoch, unless flits counted already could not all be replayed ones. The
header tells no replayed flit of an earlier epoch from a new one (DESIGN CHOICE: log entry 139). -/
def VcRx.begins (x : VcRx) (sent : BitVec 12) : Bool := sent == 1#12 && (!x.counting || decide (x.accepted < replayEntries))

/-- Count a flit accepted on a VC (R360): one of an earlier epoch enters no count (R365). -/
def VcRx.count (x : VcRx) (sent : BitVec 12) (after : BitVec 8) : VcRx :=
  let y : VcRx := if x.begins sent then { x with counting := true, accepted := 0, afterCount := 0#8, sincePause := 0, cuts := [] } else x
  if !y.counting then y
  else { y with accepted := y.accepted + 1, afterCount := if after = 0#8 then y.afterCount else y.afterCount + 1#8,
                sincePause := if y.paused then y.sincePause + 1 else y.sincePause }

/-- The same for DOORBELL packets, all of which travel on the request VC: rung of them completed in a flit with CRD_SPENT spent. -/
def LinkRx.countBells (r : LinkRx) (v : Nat) (begins : Bool) (rung : Nat) (spent : BitVec 16) : LinkRx :=
  if v ≠ vcReq then r
  else
    let q : LinkRx := if begins && spent == BitVec.ofNat 16 rung then { r with counting := true, doorbells := 0#16, creditCuts := [] } else r
    { q with held := q.held + rung, doorbells := q.doorbells + BitVec.ofNat 16 (if q.counting then rung else 0) }

/-- A credit cut, taken while DOORBELL packets are counted (R360). -/
def LinkRx.cutCredit (r : LinkRx) (tick : BitVec 4) (spent : BitVec 16) : LinkRx :=
  if r.counting then { r with creditCuts := r.creditCuts ++ [⟨tick, spent, r.doorbells, 0#8, 0#8⟩] } else r

/-- Accept a DATA flit on a VC (R349, R354, R358, R360). -/
def Link.acceptData (l : Link) (f : BitVec 2048) : Link :=
  let v := flitField f 28 2
  let x := l.rx.vc v
  let after := BitVec.ofNat 8 (flitField f 78 8)
  let units := (List.range 15).map (fun i => f.extractLsb' (96 + 128 * i) 128)
  let sent := BitVec.ofNat 12 (flitField f 66 12)
  let spent := BitVec.ofNat 16 (flitField f 34 16)
  let tick := BitVec.ofNat 4 (flitField f 30 4)
  let x1 : VcRx := { x.count sent after with flits := x.flits ++ [⟨units, flitField f 92 4, false⟩] }
  let cut : Cut := ⟨tick, sent.setWidth 16, BitVec.ofNat 16 x1.accepted, after, x1.afterCount⟩
  let x2 := { x1 with cuts := if x1.counting then x1.cuts ++ [cut] else x1.cuts }.repause l.h
  let r := ((l.rx.countBells v (x.begins sent) (x1.doorbells - x.doorbells) spent).cutCredit tick spent).setVc v x2
  { l with rx := { r with expected := l.rx.expected + 1#12, waiting := false, acceptedAny := true } }

/-- Accept a CTRL flit (R366, R368). -/
def State.acceptCtrl (s : State) (p : LinkPort) (f : BitVec 2048) : State :=
  let l := s.link p
  let s1 := s.setLink p { l with rx := { l.rx.cutCredit (BitVec.ofNat 4 (flitField f 30 4)) (BitVec.ofNat 16 (flitField f 34 16)) with
    expected := l.rx.expected + 1#12, waiting := false, acceptedAny := true } }
  let code := flitField f 96 8
  let b1 := BitVec.ofNat 8 (flitField f 104 8)
  let w := b1.extractLsb' 0 2
  if code = 1 then s1.takeWidthReq p w (lanesOfByte w b1)
  else if code = 2 then s1.takeWidthAck p w (lanesOfByte w b1)
  else if code = 3 then s1.startLinkRetrain p 6
  else s1

/-- FLIT_RECEIVE: corrupt says that a codeword holding a bit of the flit was uncorrectable (R340). -/
def flitReceive (p : LinkPort) (f : BitVec 2048) (corrupt : Bool) (s : State) : State :=
  let l := s.link p
  if l.state ≠ .active then s
  else if corrupt then s.needReplay p
  else if flitCrc f ≠ BitVec.ofNat 32 (flitField f 2016 32) then (s.tallyTfl 2 p 1).needReplay p
  else
    let ftype := flitField f 0 2
    if flitField f 90 2 ≠ l.epoch.toNat then if ftype = 0 ∨ ftype = 1 then s.needReplay p else s
    else
      let l1 := l.useState f
      let s1 := s.setLink p l1
      let seq : BitVec 12 := BitVec.ofNat 12 (flitField f 2 12)
      if 2 ≤ ftype then s1
      else if seq = l1.rx.expected then
        if ftype = 1 then (s1.finishWidth p).acceptCtrl p f
        else
          let x := l1.rx.vc (flitField f 28 2)
          if x.free = 0 then
            (s1.raise (mkReport 0x04 0x08 1 (unitPort p) (flitField f 28 2) x.free)).startLinkRetrain p 5
          else (s1.setLink p (l1.acceptData f)).finishWidth p
      else if seqNewer seq l1.rx.expected then s1.needReplay p
      else s1

/-- FLIT_RECEIVE with what its acknowledgement settles: a multicast send whose flits are all acknowledged completes (R180). -/
def flitTaken (p : LinkPort) (f : BitVec 2048) (corrupt : Bool) (s : State) : State := (flitReceive p f corrupt s).settleSends

def execFlitReceive (p : LinkPort) (flit : BitVec 2048) (corrupt : Bool) (s : State) : Host.Outcome State Fault Refusal :=
  .next (s.quiet.whenLive (flitTaken p flit corrupt))

/-! Sending flits. -/

/-- PAUSE_MAP as this end's receive buffers give it. -/
def LinkRx.pauseMap (r : LinkRx) : Nat := ((List.range 4).filter (fun v => (r.vc v).paused)).foldl (fun m v => m + 2 ^ v) 0

/-- Transport credits left (R359). -/
def LinkTx.credit (t : LinkTx) : Nat := t.peerInit.toNat - (t.crdSpent - t.peerRet).toNat

/-- Send a flit with fresh link-state fields; a NAK due goes out with it. -/
def State.emitFlit (s : State) (p : LinkPort) (ftype : Nat) (c : FlitContent) : State :=
  let l := s.link p
  let (ack, kind) := if l.rx.nakDue then (l.rx.expected, 2)
    else if l.rx.acceptedAny then (l.rx.expected - 1#12, 1) else (0#12, 0)
  let f := buildFlit ftype c ack.toNat kind l.rx.crdRet.toNat l.rx.pauseMap l.epoch.toNat
  let s1 := s.setLink p { l with rx := { l.rx with nakDue := false }, tx := { l.tx with sinceReplay := l.tx.sinceReplay + 1 } }
  (if l.rx.nakDue then s1.tallyTfl 3 p 1 else s1).emit (.flit p f)

/-- An IDLE flit's content: SEQ alone (R344). -/
def LinkTx.idle (t : LinkTx) : FlitContent :=
  { ctrl := false, seq := t.nextSeq, vc := 0#2, tick := 0#4, crdSpent := 0#16, vcSent := 0#12, afterPause := 0#8, firstPkt := 0#4,
    payload := [], mcs := [], ends := 0 }

/-- Fill a DATA flit's 15 units from a VC's packets (R345): the packet in progress, then others unless the VC is paused or a DOORBELL
lacks a credit. Answers the units, the position of the first header, the packets left and the DOORBELLs whose last byte went. -/
def fillUnits (paused : Bool) : Nat → Nat → List TxPkt → Nat → List (BitVec 128) × Option Nat × List TxPkt × Nat
  | 0, _, q, _ => ([], none, q, 0)
  | _ + 1, _, [], _ => ([], none, [], 0)
  | fuel + 1, room, k :: rest, credit =>
    if room = 0 then ([], none, k :: rest, 0)
    else if !k.started && (paused || (k.doorbell && credit == 0)) then ([], none, k :: rest, 0)
    else
      let take := min room k.units.length
      let us := k.units.take take
      let whole : Bool := take == k.units.length
      let here : Option Nat := if k.started then none else some (15 - room)
      if whole then
        let (us2, first2, q2, n2) := fillUnits paused fuel (room - take) rest (if k.doorbell then credit - 1 else credit)
        (us ++ us2, (here.orElse (fun _ => first2)), q2, n2 + if k.doorbell then 1 else 0)
      else (us, here, { k with units := k.units.drop take, started := true } :: rest, 0)

/-- FLIT_TRANSMIT: replays first (R352), then CTRL flits, then a DATA flit of the VC chosen; with a full replay buffer or nothing to send,
an IDLE flit (R345, R353, R355). -/
def flitTransmit (p : LinkPort) (vc : Option (Fin 4)) (s : State) : State :=
  let l := s.link p
  if l.state ≠ .active then s
  else
    let t := l.tx
    if 0 < t.resend then
      match t.replay[t.replay.length - t.resend]? with
      | some c =>
        ((s.setLink p { l with tx := { t with resend := t.resend - 1 } }).tallyTfl 4 p 1).emitFlit p (if c.ctrl then 1 else 0) c
      | none => s.setLink p { l with tx := { t with resend := 0 } }
    else if 1024 ≤ t.replay.length then s.emitFlit p 2 t.idle
    else match t.ctrls with
    | pl :: more =>
      let c : FlitContent := { ctrl := true, seq := t.nextSeq, vc := 0#2, tick := s.tide.count.setWidth 4, crdSpent := t.crdSpent,
                               vcSent := 0#12, afterPause := 0#8, firstPkt := 0#4, payload := pl, mcs := [], ends := 0 }
      (s.setLink p { l with tx := { t with ctrls := more, nextSeq := t.nextSeq + 1#12, replay := t.replay ++ [c] } }).emitFlit p 1 c
    | [] =>
      let v := match t.cur, vc with
        | some k, _ => some k
        | none, some k => some k.val
        | none, none => none
      match v with
      | none => s.emitFlit p 2 t.idle
      | some k =>
        let paused := t.pauseSeen.getLsbD k
        let (us, first, left, rung) := fillUnits paused 16 15 (mget [] t.queues k) t.credit
        if us.isEmpty then s.emitFlit p 2 t.idle
        else
          let sent := mget 0#12 t.vcSent k + 1#12
          let after := if paused then mget 0#8 t.afterPause k + 1#8 else 0#8
          let spent := t.crdSpent + BitVec.ofNat 16 rung
          let midway : Bool := match left with
            | x :: _ => x.started
            | [] => false
          let c : FlitContent := { ctrl := false, seq := t.nextSeq, vc := BitVec.ofNat 2 k, tick := s.tide.count.setWidth 4,
                                   crdSpent := spent, vcSent := sent, afterPause := after,
                                   firstPkt := BitVec.ofNat 4 (first.getD 15),
                                   payload := us ++ List.replicate (15 - us.length) 0#128,
                                   mcs := ((mget [] t.queues k).take ((mget [] t.queues k).length - left.length +
                                     if midway then 1 else 0)).filterMap (fun x => x.mc),
                                   ends := (mget [] t.queues k).length - left.length }
          (s.setLink p { l with tx := { t with
            queues := mset [] t.queues k left, vcSent := mset 0#12 t.vcSent k sent, afterPause := mset 0#8 t.afterPause k after,
            crdSpent := spent, nextSeq := t.nextSeq + 1#12, replay := t.replay ++ [c],
            cur := if midway then some k else none } }).emitFlit p 0 c

def execFlitTransmit (p : LinkPort) (vc : Option (Fin 4)) (s : State) : Host.Outcome State Fault Refusal :=
  .next (s.quiet.whenLive (flitTransmit p vc))

/-- NAK_RETRY_TIMEOUT (R351). -/
def nakRetryTimeout (p : LinkPort) (s : State) : State :=
  let l := s.link p
  if l.state = .active ∧ l.rx.waiting then s.setLink p { l with rx := { l.rx with nakDue := true } } else s

def execNakRetryTimeout (p : LinkPort) (s : State) : Host.Outcome State Fault Refusal :=
  .next (s.quiet.whenLive (nakRetryTimeout p))

/-- REPLAY_TIMEOUT (R352). -/
def replayTimeout (p : LinkPort) (s : State) : State :=
  let l := s.link p
  if l.state = .active ∧ !l.tx.replay.isEmpty then s.setLink p { l with tx := l.tx.replayAll } else s

def execReplayTimeout (p : LinkPort) (s : State) : Host.Outcome State Fault Refusal :=
  .next (s.quiet.whenLive (replayTimeout p))

/-- REPLAY_MAX_EXCEEDED (R353). -/
def replayMaxExceeded (p : LinkPort) (s : State) : State :=
  let l := s.link p
  if l.replayMax.toNat ≤ l.tx.replayCount ∧ l.tx.replayCount ≠ 0 then s.startLinkRetrain p 3 else s

def execReplayMaxExceeded (p : LinkPort) (s : State) : Host.Outcome State Fault Refusal :=
  .next (s.quiet.whenLive (replayMaxExceeded p))

/-! Training (R361 to R365). -/

def trainMarker : Nat := 0x5A3C96E10F78C3A5

/-- The training block a port sends (R362); coefficient requests are free values. -/
def State.trainBlock (s : State) (p : LinkPort) (lane : Nat) (good : BitVec 8) (ping : Nat) : Line :=
  let l := s.link p
  let code := match l.state with
    | .disabled => 0
    | .detect => 1
    | .equalize => 2
    | .lock => 3
    | .param => 4
    | .active => 5
  let body := natBytes 8 trainMarker ++ natBytes 1 code ++ natBytes 1 (lane % 4) ++ bytesOf (Config.eqCoeff s.serial) 4 ++
    natBytes 1 (good.toNat % 16 + bitNat l.paramDone 4) ++ natBytes 1 (widthByte l.width l.lanes) ++ bytesOf (portId p) 8 ++
    natBytes 2 (l.rx.expected.toNat + bitNat (!l.fresh) 15) ++ natBytes 2 (l.qcred.toNat - l.rx.held) ++ natBytes 4 ping ++
    natBytes 1 (if l.fresh then 0 else (l.epoch + 1#2).toNat) ++ List.replicate 27 0#8
  BitVec.ofNat 512 (leNat (body ++ bytesOf (crc32c body) 4))

/-- Send a training block. -/
def State.sendTrain (s : State) (p : LinkPort) (lane : Nat) (good : BitVec 8) (ping : Nat) : State :=
  let (_, s1) := s.draw
  s1.emit (.training p (s.trainBlock p lane good ping))

/-- Training ends in ACTIVE, as a fresh link or as a retrain that replays (R364, R365). -/
def State.linkActive (s : State) (p : LinkPort) (ident : W64) (credits : BitVec 16) : State :=
  let l := s.link p
  let alloc (x : VcRx) (v : Nat) : VcRx := { VcRx.empty with alloc := allocOf l.vcAlloc v, flits := x.flits, counting := l.fresh }
  let vcs (r : LinkRx) : SMap VcRx := (List.range 4).foldl (fun m v => mset VcRx.empty m v (alloc (r.vc v) v)) []
  let common (x : Link) : Link :=
    { x with state := .active, retraining := false, lossTimer := false, lost := false, fresh := false, peerId := ident, qcredInForce := l.qcred,
             change := none, oldH := 0, uncorrRun := 0, corrTick := [], corrLast := [], corrRun := [], degraded := 0#8 }
  let l1 :=
    if l.fresh then
      common { l with epoch := 0#2, tx := { LinkTx.fresh with queues := [], peerInit := credits },
                      rx := { LinkRx.fresh with vcs := vcs l.rx, held := l.rx.held } }
    else
      let t0 := l.peerNextExpected.elim l.tx l.tx.ackBefore
      common { l with
        epoch := l.epoch + 1#2,
        tx := { t0 with resend := t0.replay.length, replaySeq := none, replayCount := 0, sinceReplay := 0, vcSent := [],
                        afterPause := [], pauseSeen := 0#4, crdSpent := 0#16, peerRet := 0#16, peerInit := credits },
        rx := { l.rx with vcs := vcs l.rx, waiting := false, nakDue := false, crdRet := 0#16, doorbells := 0#16, creditCuts := [],
                          counting := false } }
  let l2 := { l1 with rx := { l1.rx with vcs := tmap l1.rx.vcs (fun _ x => x.repause l1.h) } }
  (s.setLink p l2).raise (mkReport 0x04 0x02 0 (unitPort p) (widthByte l2.width l2.lanes) l2.rtt)

/-- A training fails and the port returns to DETECT (R357, R363). -/
def Link.toDetect (l : Link) : Link := { l with state := .detect, paramDone := false, peerParamDone := false }

/-- A training block with a good CRC arrives in PARAM. This end answers with PARAM_DONE until both ends have sent it, and then is ACTIVE. -/
def State.paramBlock (s : State) (p : LinkPort) (b : Line) (mine : BitVec 8) (rttNs : Nat) : State :=
  let l := s.link p
  let ident := b.extractLsb' 128 64
  if ident = portId p then
    (s.setLink p { l.toDetect with idConflict := true }).raise (mkReport 0x04 0x06 1 (unitPort p) ident.toNat 0)
  else
    let rtt := BitVec.ofNat 12 (min rttNs (if isPl p then 4080 else 4095))
    let l1 := { l with rttMeas := rtt, rttInForce := l.rttNs, channelInForce := l.channel, leader := decide ((portId p).toNat < ident.toNat) }
    let h := headroom l1.rtt l1.width
    match (List.range 4).find? (fun v => decide (allocOf l.vcAlloc v < h + 32)) with
    | some v =>
      (s.setLink p { l1.toDetect with allocShort := true }).raise (mkReport 0x04 0x07 1 (unitPort p) v h)
    | none =>
      let done := l.peerParamDone || b.getLsbD 116
      let next := descField b 24 2
      let s1 := s.setLink p { l1 with paramDone := true, peerParamDone := done,
                                      peerNextExpected := if next.testBit 15 then some (BitVec.ofNat 12 next) else none }
      let s2 := if l.paramDone && done then s1 else s1.sendTrain p (descField b 9 1) mine (descField b 28 4)
      if !done then s2
      else
        -- another peer: the old link is settled as lost first (R364)
        let s3 := if !l.fresh && ident != l.peerId then s2.settleLoss p else s2
        s3.linkActive p ident (BitVec.ofNat 16 (descField b 26 2))

/-- A port trains from FW_START on (R534); the ROM trains PL0 to wait for a download (R542), and the recovery image the Phosha Link ports
(R541). -/
def State.portTrains (s : State) (p : LinkPort) : Bool :=
  match s.plt.phase with
  | .rom => false
  | .downloadWait => p == 32 && s.plt.strapBoot != 2#2
  | .recovery => isPl p
  | _ => true

def trainFlip : Line := BitVec.allOnes 512

def isTraining (b : Line) : Bool := descField b 0 8 == trainMarker && crc32c (bytesOf b 60) == b.extractLsb' 480 32

/-- Lanes by their number at the sender: a port wired in reversed order numbers them backwards (R338). -/
def Link.orderLanes (l : Link) (pl : Bool) (m : BitVec 8) : BitVec 8 :=
  let top := if pl then 7 else 3
  (List.range (top + 1)).foldl (fun r k => if m.getLsbD k then r ||| (1#8 <<< (if l.reversed then top - k else k)) else r) 0#8

/-- A block as lane k received it, put right (R338): an inverted marker shows inverted polarity, the block's LANE field a reversed order, and
the lane's lag behind the others is tolerated up to 64 ns. None when it is no training block of this port's lane (log entry 140). -/
def Link.alignBlock (l : Link) (pl : Bool) (k : Nat) (raw : Line) (skewNs : Nat) : Option (Line × Link) :=
  let bit : BitVec 8 := 1#8 <<< k
  let b := if isTraining raw then raw else raw ^^^ trainFlip
  let sent := descField b 9 1 % 4
  if !isTraining b ∨ (!pl ∧ 3 < k) ∨ (sent ≠ k % 4 ∧ sent ≠ 3 - k % 4) then none
  else some (b, { l with polarity := if isTraining raw then l.polarity &&& ~~~bit else l.polarity ||| bit,
                         reversed := decide (sent ≠ k % 4),
                         skewed := if skewNs ≤ 64 then l.skewed &&& ~~~bit else l.skewed ||| bit })

/-- A training block put right advances the port (R361 to R363). mine: lanes this end receives well; rttNs: the round trip its pings show. -/
def State.trainStep (s : State) (p : LinkPort) (b : Line) (mine : BitVec 8) (rttNs : Nat) : State :=
  let l := s.link p
  let nib := BitVec.ofNat 8 (descField b 14 1 % 16)
  let peerGood := if isPl p then nib ||| (nib <<< 4) else nib
  let peerState := descField b 8 1
  let reply (st : State) : State := st.sendTrain p (descField b 9 1) mine (descField b 28 4)
  match l.state with
  | .disabled => s
  | .detect => reply (s.setLink p { l with state := .equalize })
  | .equalize => reply (if mine = 0#8 then s else s.setLink p { l with state := .lock, equalized := mine &&& peerGood })
  | .lock =>
    let ident := b.extractLsb' 128 64
    let choice : Option (BitVec 2 × BitVec 8) :=
      if (portId p).toNat < ident.toNat then chooseWidth (isPl p) (mine &&& peerGood) (l.wmax (isPl p))
      else if 4 ≤ peerState then
        let wb := BitVec.ofNat 8 (descField b 15 1)
        some (wb.extractLsb' 0 2, lanesOfByte (wb.extractLsb' 0 2) wb)
      else none
    reply (match choice with
      | some (w, lanes) => s.setLink p { l with state := .param, width := w, lanes := lanes }
      | none => s)
  | .param => s.paramBlock p b mine rttNs
  | .active => reply (s.startLinkRetrain p 6)

/-- TRAINING_BLOCK_RECEIVE: goodLanes are the lanes this end receives well, rttNs the round trip it has measured by its pings. The block's
GOOD_LANES covers lanes 0 to 3; on Phosha Link it is taken for both halves (DESIGN CHOICE: log entry 43). -/
def trainingBlockReceive (p : LinkPort) (k : Fin 8) (raw : Line) (skewNs : Nat) (goodLanes : BitVec 8) (rttNs : Nat) (s : State) :
    State :=
  if !s.portTrains p ∨ (s.link p).state = .disabled then s
  else match (s.link p).alignBlock (isPl p) k.val raw skewNs with
    | none => s
    | some (b, l) => (s.setLink p l).trainStep p b (l.orderLanes (isPl p) (goodLanes &&& ~~~l.skewed)) rttNs

def execTrainingBlockReceive (p : LinkPort) (block : LaneBlock) (goodLanes : BitVec 8) (rttNs : Nat) (s : State) :
    Host.Outcome State Fault Refusal :=
  .next (s.quiet.whenLive (trainingBlockReceive p block.lane block.line block.skewNs goodLanes rttNs))

/-- A state's timeout leads to another state (R361). -/
def State.trainTimeout (s : State) (p : LinkPort) (at_ dest : LinkState) : State :=
  let l := s.link p
  if l.state = at_ then s.setLink p { l with state := dest, paramDone := false, peerParamDone := false } else s

def execEqualizeTimeout (p : LinkPort) (s : State) : Host.Outcome State Fault Refusal :=
  .next (s.quiet.whenLive (fun st => st.trainTimeout p .equalize .detect))

def execLockTimeout (p : LinkPort) (s : State) : Host.Outcome State Fault Refusal :=
  .next (s.quiet.whenLive (fun st => st.trainTimeout p .lock .equalize))

def execParamTimeout (p : LinkPort) (s : State) : Host.Outcome State Fault Refusal :=
  .next (s.quiet.whenLive (fun st => st.trainTimeout p .param .lock))

def execCodewordLockLost (p : LinkPort) (s : State) : Host.Outcome State Fault Refusal :=
  .next (s.quiet.whenLive (fun st => st.startLinkRetrain p 1))

/-! Width changes and retrain requests. -/

def execWidthReq (p : LinkPort) (width : BitVec 2) (lanes : BitVec 8) (s : State) : Host.Outcome State Fault Refusal :=
  .next (s.quiet.whenLive (fun st => st.takeWidthReq p width lanes))

def execWidthAck (p : LinkPort) (width : BitVec 2) (lanes : BitVec 8) (s : State) : Host.Outcome State Fault Refusal :=
  .next (s.quiet.whenLive (fun st => st.takeWidthAck p width lanes))

/-- RETRAIN_REQ: the peer asks for a retrain, for whatever cause of its own (R368). -/
def execRetrainReq (p : LinkPort) (_cause : BitVec 8) (s : State) : Host.Outcome State Fault Refusal :=
  .next (s.quiet.whenLive (fun st => st.startLinkRetrain p 6))

/-- WIDTH_CHANGE_TIMEOUT (R366). -/
def widthChangeTimeout (p : LinkPort) (s : State) : State :=
  if (s.link p).change.isSome then s.startLinkRetrain p 8 else s

def execWidthChangeTimeout (p : LinkPort) (s : State) : Host.Outcome State Fault Refusal :=
  .next (s.quiet.whenLive (widthChangeTimeout p))

/-! Register writes that act (R374, R426, R455, R613, R616). -/

/-- A path that reaches a port's link control register for writing: the management port for TFL, the port's own window for PL. -/
def linkPath (via : RegPath) (p : LinkPort) : Bool :=
  match via with
  | .mgmt => !isPl p
  | .window q => plPort q == p

/-- A write of ENABLE (R364). -/
def State.setEnable (s : State) (p : LinkPort) (v : Bool) : State :=
  let l := s.link p
  if v = l.enable then s
  else if v then s.setLink p { l with enable := true, state := .detect, fresh := true }
  else
    let s1 := if l.fresh then s else s.settleLoss p
    s1.modLink p (fun x => { x with enable := false, state := .disabled, lossTimer := false, retraining := false })

def execLinkEnableWrite (via : RegPath) (p : LinkPort) (v : Bool) (s : State) : Host.Outcome State Fault Refusal :=
  .next (s.quiet.whenLive (fun st => if linkPath via p then st.setEnable p v else st))

/-- A write of 1 to RETRAIN. -/
def execLinkRetrainWrite (via : RegPath) (p : LinkPort) (s : State) : Host.Outcome State Fault Refusal :=
  .next (s.quiet.whenLive (fun st => if linkPath via p then st.startLinkRetrain p 7 else st))

/-- A write of WIDTH_MAX (R366): the reserved encoding has no effect. -/
def State.setWidthMax (s : State) (p : LinkPort) (v : BitVec 2) : State :=
  if !isPl p && v == 3#2 then s
  else
    let s1 := s.modLink p (fun l => { l with widthMax := v })
    let l := s1.link p
    match chooseWidth (isPl p) (l.equalized &&& ~~~l.degraded) (l.wmax (isPl p)) with
    | some (w, lanes) => s1.askWidth p w lanes
    | none => s1

def execWidthMaxWrite (via : RegPath) (p : LinkPort) (v : BitVec 2) (s : State) : Host.Outcome State Fault Refusal :=
  .next (s.quiet.whenLive (fun st => if linkPath via p then st.setWidthMax p v else st))

/-- LINK_LOSS: the loss timer reaches LOSS_MS (R370). -/
def linkLoss (p : LinkPort) (s : State) : State :=
  if (s.link p).lossTimer then (s.settleLoss p).modLink p Link.toDetect else s

def execLinkLoss (p : LinkPort) (s : State) : Host.Outcome State Fault Refusal :=
  .next (s.quiet.whenLive (linkLoss p))

/-! What a boundary does to a port (R341, R360). -/

/-- Corrected symbols of the tick: each lane's run of ticks over DEG_SYMS (R341). -/
def Link.tickLanes (l : Link) : Link :=
  let run := (List.range 8).foldl (fun m k =>
    mset 0 m k (if l.degSyms.toNat < mget 0 l.corrTick k then mget 0 l.corrRun k + 1 else 0)) []
  { l with corrRun := run, corrLast := l.corrTick, corrTick := [] }

/-- A cut's TICK tag lies in the eight ticks before boundary T. -/
def cutIn (T : W64) (c : Cut) : Bool :=
  let d := (T.setWidth 4 - c.tick).toNat
  decide (1 ≤ d) && decide (d ≤ 8)

/-- The audits of a port at boundary T (R360): the quantity codes that fail, each with the receiver's count and the sender's total. -/
def Link.audit (l : Link) (T : W64) : List (Nat × Nat × Nat) :=
  if l.state ≠ .active then []
  else
    ((List.range 4).flatMap (fun v =>
      let x := l.rx.vc v
      let slots := if x.free + x.flits.length = x.alloc then [] else [(2, x.free + x.flits.length, x.alloc)]
      match (x.cuts.filter (cutIn T)).getLast? with
      | none => []
      | some c =>
        slots ++ (if c.count.toNat % 4096 = c.sent.toNat % 4096 then [] else [(2, c.count.toNat, c.sent.toNat)]) ++
        (if c.after = 0#8 ∨ c.after = c.afterCount then [] else [(3, c.afterCount.toNat, c.after.toNat)]) ++
        (if x.paused && decide (l.h < x.sincePause) then [(3, x.sincePause, l.h)] else []))) ++
    (match (l.rx.creditCuts.filter (cutIn T)).getLast? with
      | none => []
      | some c =>
        (if c.count = c.sent then [] else [(1, c.count.toNat, c.sent.toNat)]) ++
        (if l.rx.held ≤ l.qcredInForce.toNat then [] else [(1, l.rx.held, l.qcredInForce.toNat)]))

/-- Cuts more than eight ticks old are forgotten; a tag ahead of this end's tick stays. -/
def Link.trimCuts (l : Link) (T : W64) : Link :=
  let fresh (c : Cut) : Bool :=
    let d := (T.setWidth 4 - c.tick).toNat
    decide (d ≤ 8) || d == 15
  { l with rx := { l.rx with creditCuts := l.rx.creditCuts.filter fresh,
                             vcs := tmap l.rx.vcs (fun _ x => { x with cuts := x.cuts.filter fresh }) } }

end Sys2Proof.Machine
end

