-- ==== Sys2Proof/Machine/Extents.lean ====
section
/-! DEFINITION. The commands of the extent manager (spec/08, R261, R277 to R286). -/

namespace Sys2Proof.Machine

/-! Placement (R261). -/

/-- Granules a grant may take from a tier: FREE and not FAILED; never a dump granule. -/
def State.grantable (s : State) (g : Nat) : Bool := (s.gran g).state == .free && !(s.gran g).failed && !dumpGran g

/-- FREE granules of a tier that are not flagged FAILED. Every FREE granule is listed, since an unlisted one is SCRUBBING. -/
def State.freeIn (s : State) (shelf : Bool) : Nat :=
  (s.ext.grans.filter (fun e => granShelf e.1 == shelf && s.grantable e.1)).length

/-- The lowest FREE granule of a stack or of a Shelf tier, not among those taken. -/
def State.lowestFree (s : State) (shelf : Bool) (k : Nat) (taken : List Nat) : Option Nat :=
  (s.ext.grans.find? (fun e => granShelf e.1 == shelf && (if shelf then granTier e.1 else granStack e.1) == k && s.grantable e.1 &&
    !taken.contains e.1)).map (fun e => e.1)

/-- Take k granules in turn from the stacks (12) or tiers (2), starting at cursor c; the granules and where the next grant starts. -/
def State.takeGrans (s : State) (shelf : Bool) : Nat → Nat → Nat → List Nat → List Nat × Nat
  | 0, _, c, acc => (acc, c)
  | _, 0, c, acc => (acc, c)
  | fuel + 1, k + 1, c, acc =>
    let n := if shelf then 2 else 12
    let failed : Bool := !shelf && (mget Stack.reset s.mem.deepStacks c).failed
    match (if failed then none else s.lowestFree shelf c acc) with
    | some g => s.takeGrans shelf fuel k ((c + 1) % n) (acc ++ [g])
    | none => s.takeGrans shelf fuel (k + 1) ((c + 1) % n) acc

/-- The lowest run of n slots that no extent has: the slots of a SCRUBBING extent are unmapped, yet may not be granted before its fill
commits (R286). -/
def State.freeRun (s : State) (n : Nat) : Option Nat :=
  let ends := 0 :: s.ext.extents.map (fun e => e.2.baseSlot + e.2.grans.length)
  let ok (b : Nat) : Bool := decide (b + n ≤ 16384) && s.ext.extents.all (fun e =>
    decide (b + n ≤ e.2.baseSlot) || decide (e.2.baseSlot + e.2.grans.length ≤ b))
  (ends.filter ok).foldl (fun m b => match m with
    | some x => if b < x then some b else some x
    | none => some b) none

/-- The slots [b, b + n) are no extent's. -/
def State.slotsFree (s : State) (b n : Nat) : Bool :=
  s.ext.extents.all (fun e => decide (b + n ≤ e.2.baseSlot) || decide (e.2.baseSlot + e.2.grans.length ≤ b))

/-- The versions of a snapshot extent of n granules at grant (R293). -/
def Snap.fresh (n : Nat) : Snap :=
  { slots := mset VSlot.reset (mset VSlot.reset [] 0 ⟨.latest, 0, 0#5, 0⟩) 1 ⟨.write, 1, 1#5, 0⟩, maps := [], cats := [], copies := [],
    pubs := [], waits := [], opens := [], ledgerTaken := 0, ledgerReturned := 0,
    refs := mset 0 (mset 0 [] 0 (32 * n)) 1 (32 * n) }

def grantKind (k : BitVec 8) : Option ExtKind :=
  if k = 0#8 then some .plain else if k = 1#8 then some .coherent else if k = 2#8 then some .snapshot else none

/-- EXT_GRANT (R278): the results in the order of its row. -/
def extGrant (a : GrantArgs) (s : State) : State :=
  let n := a.granules.toNat
  let r := a.reserve.toNat
  match grantKind a.kind with
  | none => s.reply 0x01#8 7 []
  | some kind =>
    let named : Bool := a.baseSlot != 0xFFFF#16
    if n = 0 ∨ (kind ≠ .snapshot ∧ (r ≠ 0 ∨ a.discard)) ∨ (kind = .snapshot ∧ r = 0) ∨ 2 < a.place.toNat ∨
        (named ∧ 16384 < a.baseSlot.toNat + n) then s.reply 0x01#8 7 []
    else if 8192 ≤ s.ext.extents.length then s.reply 0x01#8 6 []
    else
      let shelf : Bool := if a.place = 0#8 then false else if a.place = 1#8 then true
        else decide (n + r ≤ s.mem.autoShelfMax.toNat) && decide (n + r + s.mem.autoShelfReserve.toNat ≤ s.freeIn true)
      if s.freeIn shelf < n + r then s.reply 0x01#8 1 []
      else match (if named then (if s.slotsFree a.baseSlot.toNat n then some a.baseSlot.toNat else none) else s.freeRun n) with
      | none => s.reply 0x01#8 2 []
      | some base =>
        let (grans, c) := s.takeGrans shelf ((n + r + 1) * 13) (n + r) (if shelf then s.mem.nextTier else s.mem.nextStack) []
        let id := freeKey s.ext.extents 8192 0
        let x : Extent := { state := .granted, kind := kind, shelf := shelf, lost := false, discard := a.discard, tenant := a.tenant,
                            baseSlot := base, grans := grans.take n, reserve := grans.drop n, rights := [], notifyEp := a.notifyEp,
                            notifyAddr := a.notifyAddr, grantTick := s.tide.count, stateTick := s.tide.count, views := [], changes := [],
                            accepted := [], snap := if kind = .snapshot then some (Snap.fresh n) else none, sealReply := none,
                            fill := false }
        let s1 : State := { s with mem := if shelf then { s.mem with nextTier := c } else { s.mem with nextStack := c } }
        (s1.toExtState id x .granted).reply 0x01#8 0 (natBytes 2 id ++ natBytes 2 base)

def execExtGrant (a : GrantArgs) (s : State) : Host.Outcome State Fault Refusal := .next (s.quiet.whenLive (extGrant a))

/-! Changes on their way to the slices (R279). -/

def allSlices : List Slice := List.finRange 6

/-- Send a change to the six slices. -/
def State.pushChange (s : State) (e : Nat) (x : Extent) (c : ExtChange) : State :=
  s.setExtent e { x with changes := x.changes ++ [⟨c, allSlices⟩] }

/-- The entries of the store that an extent's permission list takes: the list in force, or the longest that is on its way (R274). -/
def listSize (x : Extent) : Nat :=
  (x.changes.map (fun c => match c.change with
    | .rights es => es.length
    | _ => 0)).foldl max x.rights.length

/-- Permission entries in use, one extent's apart (R274). -/
def State.rightsUsed (s : State) (apart : Nat) : Nat :=
  ((s.ext.extents.filter (fun e => e.1 != apart)).map (fun e => listSize e.2)).sum

/-- A permission entry is malformed (R274). -/
def badRight (e : W32) : Bool := e.getLsbD 31 || (e.getLsbD 30 && !e.getLsbD 28)

/-- EXT_SET_RIGHTS; its answer comes when the six slices have applied it and its recalls have ended. A seal that is on its way to the slices
freezes the list already (R280). -/
def extSetRights (e : ExtId) (entries : List W32) (s : State) : State :=
  match s.extent e.toNat with
  | none => s.reply 0x02#8 7 []
  | some x =>
    if x.state = .sealed ∨ x.changes.any (fun c => c.change == .seal) then s.reply 0x02#8 4 []
    else if x.state ≠ .granted then s.reply 0x02#8 3 []
    else if 64 < entries.length then s.reply 0x02#8 7 []
    else if entries.any badRight then s.reply 0x02#8 5 []
    else if 131072 < s.rightsUsed e.toNat + entries.length then s.reply 0x02#8 6 []
    else s.pushChange e.toNat x (.rights entries)

def execExtSetRights (e : ExtId) (entries : List W32) (s : State) : Host.Outcome State Fault Refusal :=
  .next (s.quiet.whenLive (extSetRights e entries))

/-- Revocation of an extent that is GRANTED or SEALED, unless one is already on its way (R283). -/
def State.revoke (s : State) (e : Nat) (x : Extent) : State :=
  if x.changes.any (fun c => c.change == .revoke) then s else s.pushChange e x .revoke

/-- EXT_REVOKE. -/
def extRevoke (e : ExtId) (s : State) : State :=
  match s.extent e.toNat with
  | none => s.reply 0x03#8 7 []
  | some x =>
    if x.state = .draining ∨ x.state = .scrubbing ∨ x.changes.any (fun c => c.change == .revoke) then s.reply 0x03#8 3 []
    else (s.revoke e.toNat x).reply 0x03#8 0 []

def execExtRevoke (e : ExtId) (s : State) : Host.Outcome State Fault Refusal := .next (s.quiet.whenLive (extRevoke e))

/-- Open records of an extent. -/
def State.openRecords (s : State) (e : Nat) : Nat := (s.ext.records.filter (fun r => r.2.ext.toNat == e)).length

def kindCode : ExtKind → Nat
  | .plain => 0
  | .coherent => 1
  | .snapshot => 2

/-- The record of R272. -/
def extRecord (s : State) (e : Nat) (x : Extent) : List Byte :=
  let ver (st : VSlotState) : Nat := match x.snap with
    | some sn => match snapFind sn st with
      | some k => (mget VSlot.reset sn.slots k).version
      | none => 0
    | none => 0
  natBytes 2 e ++ [extStateCode x.state] ++
  natBytes 1 (kindCode x.kind + bitNat x.shelf 2 + bitNat x.lost 3 + bitNat x.discard 4) ++ bytesOf (x.tenant.setWidth 16) 2 ++
  natBytes 2 x.baseSlot ++ natBytes 4 x.grans.length ++ natBytes 4 x.reserve.length ++ natBytes 2 x.rights.length ++
  bytesOf (x.notifyEp.setWidth 16) 2 ++ natBytes 4 0 ++ bytesOf x.notifyAddr 8 ++ bytesOf x.grantTick 8 ++ natBytes 4 (ver .latest) ++
  natBytes 4 (ver .write) ++ natBytes 4 (match x.snap with
    | some sn => freeLeaves x sn
    | none => 0) ++ natBytes 4 (s.openRecords e) ++ bytesOf x.stateTick 8

/-- EXT_QUERY. -/
def extQuery (e : ExtId) (s : State) : State :=
  match s.extent e.toNat with
  | none => s.reply 0x04#8 7 []
  | some x => s.reply 0x04#8 0 (extRecord s e.toNat x)

def execExtQuery (e : ExtId) (s : State) : Host.Outcome State Fault Refusal := .next (s.quiet.whenLive (extQuery e))

/-- A slice applies a change between two request checks. -/
def applyView (v : SliceView) : ExtChange → SliceView
  | .rights es => { v with rights := es }
  | .revoke => { v with revoked := true }
  | .seal => { v with sealed := true }
  | .unseal => { v with sealed := false }

/-- Lines of a coherent extent that the directory records other than I. -/
def State.extLines (s : State) (x : Extent) : List (Nat × DirLine) :=
  s.dirLines.filter (fun l => decide (x.baseSlot * granBytes ≤ l.1 * 64) && decide (l.1 * 64 < (x.baseSlot + x.grans.length) * granBytes))

/-- An endpoint holds a line in a state its rights under a list do not allow: S needs READ, E and M need READ and WRITE (R324). -/
def State.overHeld (s : State) (es : List W32) (d : DirLine) (a : Nat) : Bool :=
  let r := rightsOf es (s.agentEp a)
  match d with
  | .i => false
  | .sPtr x => x == a && !r.1
  | .sVec v => v.getLsbD (a % 15) && !r.1
  | .e x => x == a && !(r.1 && r.2.1)
  | .m x => x == a && !(r.1 && r.2.1)

/-- The recalls that narrowed rights call for: per agent whose rights have narrowed, the lines it may no longer hold (R324). -/
def State.narrowRecalls (s : State) (e : Nat) (x : Extent) (old es : List W32) : State :=
  s.coh.agents.foldl (fun st a =>
    let o := rightsOf old a.2.ep
    let n := rightsOf es a.2.ep
    let narrower : Bool := (o.1 && !n.1) || (o.2.1 && !n.2.1)
    if !narrower || a.2.dead then st
    else
      let lines := ((st.extLines x).filter (fun l => st.overHeld es l.2 a.1)).map (fun l => l.1)
      if lines.isEmpty then st else st.startRecall ⟨some a.1, some e, lines⟩) s

/-- What follows when all six slices have applied the change at the head of an extent's list. -/
def State.changeDone (s : State) (e : Nat) (x : Extent) (c : ExtChange) (rest : List PendingChange) : State :=
  match c with
  | .rights es =>
    let s1 := if x.kind = .coherent then s.narrowRecalls e x x.rights es else s
    s1.settleRights e
  | .revoke =>
    let x1 := { x with changes := rest }
    let s1 := (s.toExtState e x1 .draining).notice e { x1 with state := .draining } 0x02#8 0xFFFFFFFF
    match s1.extent e with
    | some y => if y.kind = .coherent then
        let lines := (s1.extLines y).map (fun l => l.1)
        if lines.isEmpty then s1 else s1.startRecall ⟨none, some e, lines⟩
      else s1
    | none => s1
  | .seal =>
    let x1 := { x with changes := rest, sealReply := none }
    let s1 := (s.toExtState e x1 .sealed).raise (mkReport 0x0B 0x07 0 unitHeadland e 1)
    match x.sealReply with
    | some m => s1.headFinish m secOk []
    | none => s1
  | .unseal =>
    let x1 := { x with changes := rest, sealReply := none }
    let s1 := (s.toExtState e x1 .granted).raise (mkReport 0x0B 0x07 0 unitHeadland e 0)
    match x.sealReply with
    | some m => s1.headFinish m secOk []
    | none => s1

/-- EXTENT_CHANGE_APPLY: slice sl applies the next change of extent e, or the switch of a publication that has started (R279, R297). -/
def extentChangeApply (sl : Slice) (e : ExtId) (s : State) : State :=
  match s.extent e.toNat with
  | none => s
  | some x =>
    match x.changes with
    | ⟨c, left⟩ :: rest =>
      if left.contains sl then
        let left' := left.erase sl
        let x1 := { x with changes := ⟨c, left'⟩ :: rest, views := mmod SliceView.fresh x.views sl.val (fun v => applyView v c) }
        let s1 := s.setExtent e.toNat x1
        if left'.isEmpty then s1.changeDone e.toNat x1 c rest else s1
      else s
    | [] => match x.snap with
      | some sn => match sn.pubs with
        | p :: more =>
          if p.chosen.isSome && !p.switched.contains sl then
            s.setExtent e.toNat { x with snap := some { sn with pubs := { p with switched := p.switched ++ [sl] } :: more } }
          else s
        | [] => s
      | none => s

def execExtentChangeApply (sl : Slice) (e : ExtId) (s : State) : Host.Outcome State Fault Refusal :=
  .next (s.quiet.whenLive (extentChangeApply sl e))

/-- A DRAINING extent may become SCRUBBING (R285). -/
def State.drained (s : State) (x : Extent) : Bool :=
  x.state == .draining && x.accepted.all (fun a => a.2 == 0) && (match x.snap with
    | some sn => sn.copies.isEmpty
    | none => true) && (s.extLines x).isEmpty && !(s.coh.txns.any (fun t =>
      decide (x.baseSlot * granBytes ≤ t.1 * 64) && decide (t.1 * 64 < (x.baseSlot + x.grans.length) * granBytes)))

/-- EXTENT_DRAIN_DONE: the last accepted request has retired; the slots are unmapped and the open records freed (R285, R286). A SNAP_OPEN
or SNAP_PUBLISH of the extent that still waits completes with EXTENT_REVOKED (R284), and a rights change that stood behind the revocation
completes with the extent gone from every slice (R279). -/
def extentDrainDone (e : ExtId) (s : State) : State :=
  match s.extent e.toNat with
  | none => s
  | some x =>
    if !s.drained x then s
    else
      let waiting : List Nat := match x.snap with
        | some sn => sn.pubs.map (fun p => p.op) ++ sn.opens.map (fun o => o.op)
        | none => []
      let s0 := (x.changes.filter (fun c => match c.change with
        | .rights _ => true
        | _ => false)).foldl (fun st _ => st.reply 0x02#8 0 []) s
      let s1 := s0.dropRecordsOf e.toNat
      let s2 : State := { s1 with coh := { s1.coh with recalls := s1.coh.recalls.filter (fun w => w.ext != some e.toNat) } }
      let s3 := s2.toExtState e.toNat { x with snap := x.snap.map (fun sn => { sn with pubs := [], opens := [] }), views := [], changes := [],
                                                    fill := false }
        .scrubbing
      waiting.foldl (fun st n => st.completeOp n stRevoked 0#64 0#16) s3

def execExtentDrainDone (e : ExtId) (s : State) : Host.Outcome State Fault Refusal := .next (s.quiet.whenLive (extentDrainDone e))

/-- Zero-fill a granule: whole lines, clearing poison; a FAILED one is skipped (R286). -/
def State.fillGran (s : State) (g : Nat) : State :=
  if (s.gran g).failed then s else s.poolZero (g * granBytes) granBytes

/-- ZERO_FILL_COMMIT: the fill of a SCRUBBING extent that a boundary has admitted, which ends it, or of a SCRUBBING granule that belongs to none, in phase FILL
(R281, R534) or in service, where a poisoned FREE granule has returned to SCRUBBING (R282). -/
def zeroFillCommit (t : FillTarget) (s : State) : State :=
  match t with
  | .extent e =>
    match s.extent e.toNat with
    | none => s
    | some x =>
      if x.state ≠ .scrubbing ∨ !x.fill then s
      else
        let all := x.grans ++ x.reserve
        let s1 := all.foldl (fun st g => st.fillGran g) s
        let s2 := s1.setGrans all .free
        ({ s2 with ext := { s2.ext with extents := tdel s2.ext.extents e.toNat } }).extEvent e.toNat .free
  | .granule g =>
    if (s.plt.phase ≠ .fill ∧ s.plt.phase ≠ .ready ∧ s.plt.phase ≠ .shutdown) ∨ granCountAll ≤ g ∨ dumpGran g ∨ (s.gran g).state ≠ .scrubbing ∨ (s.granOwner g).isSome then s
    else
      let s1 := s.fillGran g
      s1.setGran g { s1.gran g with state := .free }

def execZeroFillCommit (t : FillTarget) (s : State) : Host.Outcome State Fault Refusal :=
  .next (s.quiet.whenLive (zeroFillCommit t))

end Sys2Proof.Machine
end

