-- ==== Sys2Proof/Machine/Snapshots.lean ====
section
/-! DEFINITION. The commands of the snapshot engine (R292 to R301). -/

namespace Sys2Proof.Machine

/-! What a snapshot descriptor names (R299). -/

/-- An extent that has entered SCRUBBING and whose former slots hold this address. -/
def State.scrubbingAt (s : State) (slot : Nat) : Bool :=
  s.ext.extents.any (fun e => !extMapped e.2 && decide (e.2.baseSlot ≤ slot) && decide (slot < e.2.baseSlot + e.2.grans.length))

/-- The snapshot extent that EXTENT_ADDR names, for an endpoint that needs READ or WRITE on it: its number, or the status the command
completes with (R276, R284, R289, R299). -/
def State.snapTarget (s : State) (x : QPair) (addr : W64) (write : Bool) : Except Status (Nat × Extent × Snap) :=
  let slot := fgaPpa addr / granBytes
  if fgaV addr then .error stBadDesc
  else if fgaNode addr ≠ s.rtr.nodeId ∨ addr.extractLsb' 54 9 ≠ 0#9 then .error stNotLocal
  else match s.slotExtent slot with
  | none => .error (if s.scrubbingAt slot then stRevoked else stNotLocal)
  | some (e, y, _) =>
    let v := extView y (ppaSlice (fgaPpa addr))
    match y.snap with
    | none => .error stNotSnapshot
    | some sn =>
      if v.revoked ∨ y.state = .draining then .error stRevoked
      else if y.lost then .error stLost
      else
        let r := rightsOf v.rights x.cfg.ep
        let has : Bool := if write then r.2.1 else r.1
        if !has || (v.sealed && !((s.authOf x).contains y.tenant)) then .error stDenied else .ok (e, y, sn)

/-! Opening and closing (R294, R298). -/

/-- A handle (R298). -/
def snapHandle (idx slot : Nat) (gen : BitVec 5) : Nat := idx + slot * 2 ^ 16 + gen.toNat * 2 ^ 20

/-- The slot that a SNAP_OPEN opens: LATEST, or the LATEST or HELD slot of a version number. -/
def openSlot (sn : Snap) (byNumber : Option Nat) : Option Nat :=
  match byNumber with
  | none => snapFind sn .latest
  | some v => ((snapSlots sn).find? (fun e => (e.2.state == .latest || e.2.state == .held) && e.2.version == v)).map (fun e => e.1)

/-- Open a version for an operation: a record is taken and the operation completes with the handle and version, or it completes with a
refusal. -/
def State.openVersion (s : State) (n : Nat) (ep : Ep) (e : Nat) (byNumber : Option Nat) : State :=
  match s.extent e with
  | none => s.completeOp n stRevoked 0#64 0#16
  | some x => match x.snap with
    | none => s.completeOp n stNotSnapshot 0#64 0#16
    | some sn => match openSlot sn byNumber with
      | none => s.completeOp n stNoVersion 0#64 0#16
      | some k =>
        if 65536 ≤ s.ext.records.length then s.completeOp n stNoHandle 0#64 0#16
        else
          let v := mget VSlot.reset sn.slots k
          let idx := freeKey s.ext.records 65536 0
          let sn1 : Snap := { sn with slots := mset VSlot.reset sn.slots k { v with opens := v.opens + 1 } }
          let s1 : State := { s with ext := { s.ext with records := tput s.ext.records idx ⟨BitVec.ofNat 13 e, k, v.gen, ep⟩ } }
          (s1.setExtent e { x with snap := some sn1 }).completeOp n stOk
            (BitVec.ofNat 64 (snapHandle idx k v.gen + v.version * 2 ^ 32)) 0#16

/-- SNAP_OPEN: an open of a LATEST slot that a publication has reserved waits for its publication point. -/
def snapOpen (q : Qp) (h : Nat) (s : State) : State :=
  match s.nextIs q h 0x41#8 with
  | none => s
  | some (x, d) =>
    let num : Bool := d.desc.getLsbD 224
    if !descClean d.desc [(16, 8), (24, 4), (28, 1)] ∨ 1 < descField d.desc 28 1 ∨ (!num ∧ descField d.desc 24 4 ≠ 0) then
      s.endDesc q h stBadDesc 0#64
    else match s.snapTarget x (d.desc.extractLsb' 128 64) false with
    | .error st => s.endDesc q h st 0#64
    | .ok (e, y, sn) =>
      let want : Option Nat := if num then some (descField d.desc 24 4) else none
      let (n, s1) := s.newOp q h x d
      if (openSlot sn want).isSome ∧ openSlot sn want = snapReserved sn then
        s1.setExtent e { y with snap := some { sn with opens := sn.opens ++ [⟨n, want⟩] } }
      else s1.openVersion n x.cfg.ep e want

def execSnapOpen (q : Qp) (h : Nat) (s : State) : Host.Outcome State Fault Refusal := .next (s.quiet.whenLive (snapOpen q h))

/-- The open record that a handle names in every field, for the endpoint that opened it (R298). -/
def State.handleRecord (s : State) (hd : Nat) (ep : Ep) : Option (Nat × OpenRec) :=
  match tget s.ext.records (hd % 65536) with
  | some r => if snapHandle (hd % 65536) r.slot r.gen = hd ∧ r.ep = ep then some (hd % 65536, r) else none
  | none => none

/-- SNAP_CLOSE. -/
def snapClose (q : Qp) (h : Nat) (s : State) : State :=
  match s.nextIs q h 0x42#8 with
  | none => s
  | some (x, d) =>
    if !descClean d.desc [(16, 4)] then s.endDesc q h stBadDesc 0#64
    else match s.handleRecord (descField d.desc 16 4) x.cfg.ep with
    | none => s.endDesc q h stBadHandle 0#64
    | some (idx, r) =>
      let gone : Bool := match s.extent r.ext.toNat with
        | some y => y.state == .draining
        | none => true
      if gone then s.endDesc q h stRevoked 0#64
      else
        let (n, s1) := s.newOp q h x d
        (s1.closeRecord idx).completeOp n stOk 0#64 0#16

def execSnapClose (q : Qp) (h : Nat) (s : State) : Host.Outcome State Fault Refusal := .next (s.quiet.whenLive (snapClose q h))

/-! Publication (R294, R297). -/

/-- The write slot a publication takes: the lowest EMPTY slot, else the LATEST slot when none has it open, reserved. -/
def chooseSlot (sn : Snap) : Option (Nat × Bool) :=
  match snapFind sn .empty with
  | some k => some (k, false)
  | none => match snapFind sn .latest with
    | some k => if (mget VSlot.reset sn.slots k).opens = 0 then some (k, true) else none
    | none => none

/-- Start the publication at the head, completing those that find no slot. -/
def State.startPub (s : State) (e : Nat) : Nat → State
  | 0 => s
  | f + 1 =>
    match s.extent e with
    | none => s
    | some x => match x.snap with
      | none => s
      | some sn => match sn.pubs with
        | [] => s
        | p :: rest =>
          if p.chosen.isSome then s
          else match chooseSlot sn with
          | some c => s.setExtent e { x with snap := some { sn with pubs := { p with chosen := some c } :: rest } }
          | none => ((s.setExtent e { x with snap := some { sn with pubs := rest } }).completeOp p.op stVersionsFull 0#64 0#16).startPub e f

/-- SNAP_PUBLISH: it joins the publications of its extent. -/
def snapPublish (q : Qp) (h : Nat) (s : State) : State :=
  match s.nextIs q h 0x43#8 with
  | none => s
  | some (x, d) =>
    if !descClean d.desc [(16, 8)] then s.endDesc q h stBadDesc 0#64
    else match s.snapTarget x (d.desc.extractLsb' 128 64) true with
    | .error st => s.endDesc q h st 0#64
    | .ok (e, y, sn) =>
      let (n, s1) := s.newOp q h x d
      (s1.setExtent e { y with snap := some { sn with pubs := sn.pubs ++ [⟨n, none, []⟩] } }).startPub e 2

def execSnapPublish (q : Qp) (h : Nat) (s : State) : Host.Outcome State Fault Refusal := .next (s.quiet.whenLive (snapPublish q h))

/-- The version slot that a waiting request was directed to: the write version's, or while a publication runs that of the new one. -/
def State.resumeSlot (s : State) (e : Nat) (newVersion : Bool) : Option Nat := match (s.extent e).bind (fun x => x.snap) with
  | some sn => if newVersion ∧ (snapNew sn).isSome then snapNew sn else snapFind sn .write
  | none => none

/-- A waiting request goes on: into another wait, or it is served (R294, R296). -/
def State.resumeWait (s : State) (e : Nat) (w : SnapWait) : State :=
  let p := w.ip.pkt
  let write : Bool := p.opc == 0x81#8
  let a0 := { (if write then accWrite p.src w.ip.authList else accRead p.src w.ip.authList) with passed := true }
  let a := { a0 with vslot := s.resumeSlot e w.newVersion }
  let n := if write then 16 * p.payload.length else 64 * (p.aux.toNat % 128)
  let s1 := s.addAccepted e (ppaSlice (fgaPpa p.addr)) (-1)
  match s1.snapWaitFor a p.addr n with
  | some (f, sl, leaf, nv) => s1.snapJoin f sl leaf w.ip nv
  | none => if write then s1.serveWr w.ip true a.vslot noIo else s1.serveRd w.ip true a.vslot noIo

/-- The waiting requests that a test selects go on, oldest first. -/
def State.resumeWaits (s : State) (e : Nat) (sel : SnapWait → Bool) : State :=
  match s.extent e with
  | none => s
  | some x => match x.snap with
    | none => s
    | some sn =>
      (sn.waits.filter sel).foldl (fun st w => st.resumeWait e w)
        (s.setExtent e { x with snap := some { sn with waits := sn.waits.filter (fun w => !sel w) } })

/-- The slots at a publication point (R294): the old write slot w becomes LATEST, the old LATEST slot l HELD or EMPTY, and slot k WRITE
with the map of the version published, but for the leaves it has copied for itself since its slices switched. -/
def publishSlots (x : Extent) (sn : Snap) (w l k : Nat) : Snap :=
  let vw := mget VSlot.reset sn.slots w
  let vl := mget VSlot.reset sn.slots l
  -- the new write version references every leaf of the published one
  let sn0 : Snap := { sn with slots := mset VSlot.reset sn.slots w { vw with state := .latest } }
  let sn1 := if vl.opens ≠ 0 then { sn0 with slots := mset VSlot.reset sn0.slots l { vl with state := .held } } else releaseSlot x sn0 l
  let vk := mget VSlot.reset sn1.slots k
  let own : SMap Nat := if snapNew sn = some k then sn.maps.filter (fun m => m.1 / 2 ^ 20 == k) else []
  let copied : SMap Nat := (sn1.maps.filter (fun m => m.1 / 2 ^ 20 == w)).foldl (fun m c => tput m (k * 2 ^ 20 + c.1 % 2 ^ 20) c.2)
    (sn1.maps.filter (fun m => m.1 / 2 ^ 20 != k))
  { sn1 with slots := mset VSlot.reset sn1.slots k ⟨.write, vw.version + 1, vk.gen + 1#5, 0⟩,
             maps := own.foldl (fun m c => mset (c.1 % 2 ^ 20) m c.1 c.2) copied,
             refs := mset 0 sn1.refs k (32 * x.grans.length) }

/-- An atomic that its slice accepted into version slot w of extent e has not committed: it waits in a conflict queue, or is active. -/
def State.atomicsInto (s : State) (e w : Nat) : Bool :=
  let into (r : CReq) : Bool := r.ext == e && r.vslot == some w
  s.coh.queues.any (fun q => q.2.any into) || s.coh.txns.any (fun t => t.2.run.any into || (match t.2.kind with
    | .request r => into r
    | _ => false))

/-- SNAP_PUBLICATION_POINT: all six slices have switched and every write accepted into the old write version has retired, atomics
among them. -/
def snapPublicationPoint (e : ExtId) (s : State) : State :=
  match s.extent e.toNat with
  | none => s
  | some x => match x.snap with
    | none => s
    | some sn => match sn.pubs, snapFind sn .write, snapFind sn .latest with
      | p :: rest, some w, some l => match p.chosen with
        | none => s
        | some (k, _) =>
          if p.switched.length ≠ 6 ∨ !(sn.waits.all (fun y => y.newVersion)) ∨ sn.copies.any (fun c => c.slot == w) ∨
              s.atomicsInto e.toNat w then s
          else
            let sn1 := publishSlots x sn w l k
            let version := (mget VSlot.reset sn1.slots w).version
            let s1 := s.setExtent e.toNat { x with snap := some { sn1 with pubs := rest, opens := [] } }
            let s2 := s1.completeOp p.op (((s1.op p.op).bind (fun o => o.ending)).getD stOk) (BitVec.ofNat 64 version) 0#16
            let s3 := sn.opens.foldl (fun st o => match st.op o.op with
              | some r => st.openVersion o.op r.ep e.toNat o.byNumber
              | none => st) s2
            (s3.resumeWaits e.toNat (fun y => y.newVersion)).startPub e.toNat (rest.length + 1)
      | _, _, _ => s

def execSnapPublicationPoint (e : ExtId) (s : State) : Host.Outcome State Fault Refusal :=
  .next (s.quiet.whenLive (snapPublicationPoint e))

/-! Copy-on-write (R296). -/

/-- The version slot for which requests wait on leaf x, whose copy may start (R296, R297): the write version's, while such a request waits for a
leaf that another live version references, else the new one's, once no more writes can be directed to the old. -/
def copySlot (sn : Snap) (leaf : Nat) : Option Nat :=
  let asked (nv : Bool) : Bool := sn.waits.any (fun y => y.leaf == leaf && y.newVersion == nv && y.ip.pkt.opc == 0x81#8)
  let fits (k : Option Nat) : Option Nat := k.filter (fun n => needsCopy sn n leaf)
  if sn.copies.any (fun c => c.leaf == leaf) then none
  else if asked false then fits (snapFind sn .write)
  else if asked true ∧ allSwitched sn ∧ !sn.waits.any (fun y => y.leaf == leaf && !y.newVersion) then fits (snapNew sn)
  else none

/-- SNAP_COW_START: a free leaf is taken for a write that waits for a copy. Where none is free any more, the requests that wait are
refused. -/
def snapCowStart (e : ExtId) (leaf : Nat) (s : State) : State :=
  match s.extent e.toNat with
  | none => s
  | some x => match x.snap with
    | none => s
    | some sn => match copySlot sn leaf with
      | none => s
      | some k => match freeLeaf x sn with
        | none => s.resumeWaits e.toNat (fun y => y.leaf == leaf && y.newVersion == (snapNew sn == some k))
        | some q =>
          if 16 ≤ s.copiesActive then s
          else
            let sn1 := snapSetCat x sn q .inUse
            let sn2 : Snap := { sn1 with ledgerTaken := sn.ledgerTaken + 1, copies := sn.copies ++ [⟨leaf, snapShown sn k leaf, q, k⟩] }
            s.setExtent e.toNat { x with snap := some sn2 }

def execSnapCowStart (e : ExtId) (leaf : Nat) (s : State) : Host.Outcome State Fault Refusal :=
  .next (s.quiet.whenLive (snapCowStart e leaf))

/-- SNAP_COW_DONE: the copy ends and the requests that waited for it go on. -/
def snapCowDone (e : ExtId) (leaf : Nat) (s : State) : State :=
  match s.extent e.toNat with
  | none => s
  | some x => match x.snap with
    | none => s
    | some sn => match sn.copies.find? (fun c => c.leaf == leaf) with
      | some c =>
        let sn1 : Snap := { sn with copies := sn.copies.erase c, ledgerTaken := sn.ledgerTaken - 1 }
        (s.copyLeaf e.toNat x sn1 c.slot leaf c.src c.dst).resumeWaits e.toNat
          (fun y => y.leaf == leaf && (snapFind sn .write == some c.slot || y.newVersion))
      | none => s

def execSnapCowDone (e : ExtId) (leaf : Nat) (s : State) : Host.Outcome State Fault Refusal :=
  .next (s.quiet.whenLive (snapCowDone e leaf))

end Sys2Proof.Machine
end

