-- ==== Sys2Proof/Machine/MemSched.lean ====
section
/-! DEFINITION. The memory controllers' schedulers: what each bank proposes, and what a decision issues (R230 to R233, R239, R244). -/

namespace Sys2Proof.Machine

/-- What a bank proposes. -/
inductive CandAct where
  /-- a selected neighbour is refreshed -/
  | neighbor
  /-- a per-bank refresh -/
  | refresh
  /-- a read of the open row, by arrival number -/
  | read (seq : Nat)
  /-- a write of the open row, by arrival number -/
  | write (seq : Nat)
  | precharge
  | activate (row : Nat)
deriving DecidableEq, Repr

/-- A bank's candidate and its class (R232). -/
structure Cand where
  cls : Nat
  act : CandAct
deriving DecidableEq, Repr

/-- A request that waits at a bank. -/
structure Pend where
  seq : Nat
  row : Nat
  isRead : Bool
  /-- it can issue now: a merge-buffer entry waits for its line read -/
  ready : Bool
  /-- of the class of writes: a write, or a merge read (R235) -/
  writeClass : Bool
  /-- a scrub or patrol read, or a correction write-back -/
  low : Bool
deriving DecidableEq, Repr

/-- What waits at a bank: reads and writes not issued, and merge-buffer entries, each a write from its allocation on (R233). -/
def Chan.pendOf (c : Chan) (bank : Nat) : List Pend :=
  (c.reads.filter (fun e => e.bank == bank && !e.issued)).map (fun e =>
    { seq := e.seq, row := e.row, isRead := true, ready := true, writeClass := e.kind == .mergeRead,
      low := e.kind != .read && e.kind != .mergeRead }) ++
  (c.writes.filter (fun e => e.bank == bank)).map (fun e =>
    { seq := e.seq, row := e.row, isRead := false, ready := true, writeClass := true, low := e.kind == .writeBack }) ++
  (c.merges.filter (fun m => m.bank == bank)).map (fun m =>
    { seq := m.seq, row := m.row, isRead := false, ready := m.ready, writeClass := true, low := false })

/-- The oldest of some requests. -/
def oldest (ps : List Pend) : Option Pend :=
  ps.foldl (fun best p => match best with
    | none => some p
    | some q => if p.seq < q.seq then some p else some q) none

/-- A write may issue: nothing of its row arrived before it and waits still (R233). -/
def Pend.free (p : Pend) (ps : List Pend) : Bool :=
  p.ready && (p.isRead || ps.all (fun q => q.row != p.row || decide (p.seq ≤ q.seq)))

/-- The requests that a bank considers outside in-order mode (R230). -/
def considered (drain : Bool) (ps : List Pend) : List Pend :=
  let rs := ps.filter (fun p => p.isRead)
  let ws := ps.filter (fun p => !p.isRead && p.free ps)
  if drain then (if ws.isEmpty then rs else ws) else (if rs.isEmpty then ws else rs)

/-- The class of a request (R232). -/
def pendClass (drain : Bool) (aged : List Nat) (p : Pend) : Nat :=
  if aged.contains p.seq then 0 else if p.low then 3 else if p.writeClass == drain then 1 else 2

/-- The command that serves a request next: itself when its row is open, else a precharge or an activate. -/
def serve (b : MemBank) (p : Pend) : CandAct :=
  match b.openRow with
  | some r => if r = p.row then (if p.isRead then .read p.seq else .write p.seq) else .precharge
  | none => .activate p.row

/-- The request that a bank works for (R230). -/
def bankPick (c : Chan) (b : MemBank) (batchMax : Nat) (ps : List Pend) : Option Pend :=
  if b.inOrder then
    match oldest ps with
    | some p => if p.ready then some p else (oldest (ps.filter (fun q => q.isRead && q.writeClass && q.row == p.row)))
    | none => none
  else
    let cs := considered c.drain ps
    match b.openRow with
    | some r =>
      match oldest (cs.filter (fun p => p.row == r)) with
      | some p => if b.run < batchMax then some p else oldest cs
      | none => oldest cs
    | none => oldest cs

/-- A bank's candidate (R230, R232, R239, R244): a selected neighbour first, then a refresh at the postponement limit, then a request,
then a refresh that is owed. At the limit no row is activated for a request. -/
def State.bankCand (s : State) (ch : MemCh) (aged : List Nat) (bank : Nat) : Option Cand :=
  let c := s.chan ch
  let b := mget MemBank.idle c.banks bank
  let owed := s.refOwed ch
  let full : Bool := decide (refLimit ch ≤ owed)
  if c.neighbors.any (fun n => n.1 == bank) then some ⟨0, .neighbor⟩
  else if full && c.refBank == bank then some ⟨0, .refresh⟩
  else
    let req : Option Cand := match bankPick c b (s.sched ch).batchMax.toNat (c.pendOf bank) with
      | none => none
      | some p =>
        let a := serve b p
        if full && a == .activate p.row then none else some ⟨pendClass c.drain aged p, a⟩
    let due : Bool := decide (0 < owed) && c.refBank == bank
    match req with
    | some x => if due && x.cls == 3 then some ⟨2, .refresh⟩ else some x
    | none => if due then some ⟨2, .refresh⟩ else none

/-- Rows of a bank (R227, R228). -/
def bankRows (ch : MemCh) : Nat := if chanDeep ch then 16384 else 8192

/-- The neighbours that the four draws of an activate select (R244), in rows after the scramble. -/
def neighborsOf (ch : MemCh) (bank row : Nat) (draws : List Bool) : List (Nat × Nat) :=
  let r : Int := Config.rowScramble ch.val row
  (([(0, r - 2), (1, r - 1), (2, r + 1), (3, r + 2)] : List (Nat × Int)).filter (fun n =>
    draws.getD n.1 false && decide (0 ≤ n.2) && decide (n.2 < Int.ofNat (bankRows ch)))).map (fun n => (bank, Int.toNat n.2))

/-- A stack whose power duty is 0 issues no activate, read or write (R551). -/
def State.candIssues (s : State) (ch : MemCh) (a : CandAct) : Bool :=
  !chanDeep ch || s.stackIssues (chanStack ch) || (match a with
    | .read _ => false
    | .write _ => false
    | .activate _ => false
    | _ => true)

/-- A channel issues a bank's candidate. -/
def State.issueCand (s : State) (ch : MemCh) (bank : Nat) (draws : List Bool) (a : CandAct) : State :=
  let c := s.chan ch
  let upd (f : MemBank → MemBank) : SMap MemBank := mmod MemBank.idle c.banks bank f
  match a with
  | .neighbor =>
    (s.setChan ch { c with neighbors := c.neighbors.eraseP (fun n => n.1 == bank),
                           banks := upd (fun b => { b with openRow := none, run := 0 }) }).tally (nbrCounter ch)
  | .refresh => refreshIssue ch s
  | .read q =>
    let c1 : Chan := { c with reads := c.reads.map (fun e => if e.seq = q then { e with issued := true } else e),
                              banks := upd (fun b => { b with run := b.run + 1 }) }
    (s.setChan ch c1).afterQueue ch
  | .write q =>
    let c1 : Chan := { c with writes := c.writes.filter (fun e => e.seq != q), merges := c.merges.filter (fun m => m.seq != q),
                              banks := upd (fun b => { b.wrote q with run := b.run + 1 }) }
    (s.setChan ch c1).afterQueue ch
  | .precharge => s.setChan ch { c with banks := upd (fun b => { b with openRow := none, run := 0 }) }
  | .activate row => s.setChan ch { c with banks := upd (fun b => { b with openRow := some row, run := 0 }),
                                           neighbors := c.neighbors ++ neighborsOf ch bank row draws }

end Sys2Proof.Machine
end

