-- ==== Sys2Proof/Machine/Ring.lean ====
section
/-! DEFINITION. The chip ring and the eight region rings (R380 to R384): direction, buffers, the bubble rule, ejection credits. A stop's number
is the slot of its requester: attach points 0 to 15 on the chip ring; blocks 0 to 7 and the region stop 8 on a region ring. Their order around
the ring is that of the numbers, and the packets move one hop at each decision of the ring's entry (DESIGN CHOICE: log entry 130). -/

namespace Sys2Proof.Machine

/-- Stops of the chip ring (0) and of a region ring. -/
def ringStops (k : Nat) : Nat := if k = 0 then 16 else 9

/-- Hops from one stop to another going clockwise. -/
def hopsCw (n src dst : Nat) : Nat := (dst + n - src) % n

/-- A packet takes the direction with fewer hops, and clockwise when both are equal (R382). -/
def goesCw (n src dst : Nat) : Bool := decide (hopsCw n src dst ≤ n - hopsCw n src dst)

/-- The next stop in a direction. -/
def nextStop (n : Nat) (cw : Bool) (i : Nat) : Nat := if cw then (i + 1) % n else (i + n - 1) % n

def ringSlot (stop : Nat) (cw : Bool) (vc : Fin 4) : Nat := stop * 8 + (if cw then 4 else 0) + vc.val

def Ring.buf (r : Ring) (stop : Nat) (cw : Bool) (vc : Fin 4) : List RingPkt := mget [] r.bufs (ringSlot stop cw vc)

def Ring.setBuf (r : Ring) (stop : Nat) (cw : Bool) (vc : Fin 4) (l : List RingPkt) : Ring :=
  { r with bufs := mset [] r.bufs (ringSlot stop cw vc) l }

def Ring.queue (r : Ring) (stop : Nat) (vc : Fin 4) : List RingPkt := mget [] r.recv (stop * 4 + vc.val)

/-- Ejection credits of the receive queue (stop, VC) that a source stop has spent (R383). -/
def Ring.spent (r : Ring) (src dst : Nat) (vc : Fin 4) : Nat :=
  (((r.bufs.flatMap (fun e => e.2)) ++ r.queue dst vc).filter (fun p => p.src == src && p.dst == dst && p.vc == vc)).length

/-- A packet may enter at its stop: two of the stop's buffers for its direction and VC are free (R381), and the stop holds a credit for the
destination's receive queue, of which it has four (R383). -/
def Ring.mayEnter (r : Ring) (n : Nat) (w : RingWant) : Bool :=
  decide ((r.buf w.slot (goesCw n w.slot w.dst) w.vc).length ≤ 2) && decide (r.spent w.slot w.dst w.vc < 4)

/-- Put a packet on the ring. -/
def Ring.enter (r : Ring) (n : Nat) (w : RingWant) : Ring :=
  let cw := goesCw n w.slot w.dst
  r.setBuf w.slot cw w.vc (r.buf w.slot cw w.vc ++ [⟨w.slot, w.dst, w.vc⟩])

/-- The packet at the front of a buffer leaves the ring at its stop, unless the stop admits none now, or goes on to the next stop when one of
the four buffers there is free. -/
def Ring.hop (r : Ring) (n : Nat) (shut : Nat → Bool) (e : Nat × Bool × Fin 4) : Ring :=
  match r.buf e.1 e.2.1 e.2.2 with
  | [] => r
  | p :: rest =>
    let r1 := r.setBuf e.1 e.2.1 e.2.2 rest
    if p.dst = e.1 then
      if shut e.1 then r else { r1 with recv := mset [] r1.recv (e.1 * 4 + e.2.2.val) (r1.queue e.1 e.2.2 ++ [p]) }
    else
      let j := nextStop n e.2.1 e.1
      if 4 ≤ (r.buf j e.2.1 e.2.2).length then r else r1.setBuf j e.2.1 e.2.2 (r1.buf j e.2.1 e.2.2 ++ [p])

/-- Every buffer of a ring, so that a packet is moved once: clockwise from the last stop down, the other way from the first stop up. -/
def ringBufs (n : Nat) : List (Nat × Bool × Fin 4) :=
  (List.finRange 4).flatMap (fun vc => (List.range n).reverse.map (fun i => (i, true, vc)) ++ (List.range n).map (fun i => (i, false, vc)))

/-- A destination frees the oldest entry of a receive queue. -/
def Ring.free (r : Ring) (e : Nat × Fin 4) : Ring := { r with recv := mset [] r.recv (e.1 * 4 + e.2.val) ((r.queue e.1 e.2).drop 1) }

/-- The ring between two decisions: freed entries give their credits back, and each packet moves on. A region stop whose Shelf zone is in
OVERTEMP admits packets from the chip ring at every second decision (R243). -/
def Ring.turn (r : Ring) (k n : Nat) (freed : List (Nat × Fin 4)) (hot : RegionId → Bool) : Ring :=
  let shut (i : Nat) : Bool := k == 0 && (if h : i < 8 then hot ⟨i, h⟩ else false) && r.half
  let r1 := (ringBufs n).foldl (fun x e => x.hop n shut e) (freed.foldl Ring.free r)
  { r1 with half := !r.half && (List.finRange 8).any hot }

end Sys2Proof.Machine
end

