-- ==== Sys2Proof/Machine/Tide.lean ====
section
/-! DEFINITION. The tide tick's registers and TIDE_IN, arbitration, and the node-fatal entry (spec/02, R589). -/

namespace Sys2Proof.Machine

def State.setTide (s : State) (t : Tide) : State := { s with tide := t }

/-! PLT_TIDE_CTRL and PLT_TIDE_COUNT. -/

/-- A resident reel declares a minimum period longer than the one of code n (R32). -/
def State.periodTooShort (s : State) (n : BitVec 4) : Bool :=
  s.fab.reels.any (fun e => decide (n.toNat + 1 < imgMinPeriod e.2.image))

/-- A write of PERIOD (R32): it waits for the next boundary, or is refused. -/
def State.writePeriod (s : State) (n : BitVec 4) : State :=
  if s.tide.mode == .follow || s.periodTooShort n then s.setTide { s.tide with periodReject := true }
  else s.setTide { s.tide with periodNext := some n }

/-- TIDE_PERIOD_WRITE. Writes through a port's window are ignored. -/
def tidePeriodWrite (via : RegPath) (n : BitVec 4) (s : State) : State :=
  if via = .mgmt then s.writePeriod n else s

def execTidePeriodWrite (via : RegPath) (n : BitVec 4) (s : State) : Host.Outcome State Fault Refusal :=
  .next (s.quiet.whenLive (tidePeriodWrite via n))

/-- A follower begins to acquire (R38 step 1). -/
def Tide.acquire (t : Tide) : Tide :=
  { t with phase := .acquire, goodRun := 0, missRun := 0, mismatchRun := 0, edgeSeen := false, edgeNext := false, edgeKnown := false,
           markerDue := false }

/-- A write of MODE (R36, R39): 3 is reserved and changes nothing. A write while following has stopped lets it acquire again
(R38 step 2). -/
def Tide.writeMode (t : Tide) (m : BitVec 2) : Tide :=
  if m = 3#2 then t
  else if m = 2#2 then
    if t.mode == .follow then (if t.phase == .stopped then t.acquire else t)
    else { t.acquire with mode := .follow }
  else { t with mode := if m = 1#2 then .lead else .free, locked := false, holdover := false, markerDue := false }

/-- TIDE_MODE_WRITE. -/
def tideModeWrite (via : RegPath) (m : BitVec 2) (s : State) : State :=
  if via = .mgmt then s.setTide (s.tide.writeMode m) else s

def execTideModeWrite (via : RegPath) (m : BitVec 2) (s : State) : Host.Outcome State Fault Refusal :=
  .next (s.quiet.whenLive (tideModeWrite via m))

/-- Register offsets of the tide block (R616). -/
def offTideCountLo : BitVec 24 := 0x000018#24

/-- A read of PLT_TIDE_COUNT_LO latches the upper half (R27). -/
def State.latchCount (s : State) : State := s.setTide { s.tide with countHi := s.tide.count.extractLsb' 32 32 }

/-- TIDE_COUNT_LO_READ. -/
def tideCountLoRead (via : RegPath) (s : State) : State :=
  s.latchCount.emit (.regData via offTideCountLo (s.tide.count &&& 0xFFFFFFFF#64))

def execTideCountLoRead (via : RegPath) (s : State) : Host.Outcome State Fault Refusal :=
  .next (s.quiet.whenLive (tideCountLoRead via))

/-- A value written to PLT_TIDE_COUNT_LOAD: bits [11:0] are ignored (R38 step 6). -/
def markTick (v : W64) : W64 := v &&& ~~~0xFFF#64

/-- TIDE_COUNT_LOAD_WRITE. -/
def tideCountLoadWrite (via : RegPath) (v : W64) (s : State) : State :=
  if via = .mgmt then s.setTide { s.tide with load := some (markTick v) } else s

def execTideCountLoadWrite (via : RegPath) (v : W64) (s : State) : Host.Outcome State Fault Refusal :=
  .next (s.quiet.whenLive (tideCountLoadWrite via v))

/-! TIDE_IN (R37, R38). -/

/-- The tick number at a marker (R38 step 6), from the number that the boundary would have otherwise. -/
def Tide.mark (t : Tide) (base : W64) : Tide :=
  { t with count := match t.load with
             | some v => v
             | none => markTick base
           load := none
           countSlip := t.countSlip || base &&& 0xFFF#64 != 0#64
           markerDue := false }

/-- A pulse marks the boundary it precedes, or the one it follows. -/
def Tide.marker (t : Tide) (early : Bool) : Tide := if early then { t with markerDue := true } else t.mark t.count

/-- The interval since the last valid edge is measured (R38 step 2). -/
def Tide.measure (t : Tide) (clocks sinceEdge : Nat) : Tide :=
  let off : Bool := t.edgeKnown && (decide (clocks + 64 < sinceEdge) || decide (sinceEdge + 64 < clocks))
  let n := if off then t.mismatchRun + 1 else 0
  let t1 := { t with mismatchRun := n, edgeKnown := true }
  if 4 ≤ n then { t1 with periodMismatch := true, phase := .stopped, locked := false } else t1

/-- An edge in acquisition: taken as the next boundary when it comes late enough (R38 step 1). HOLDOVER stands until then, and PHASE_ERROR reads 0
there (DESIGN CHOICE: log entry 129). -/
def Tide.acquireEdge (t : Tide) (clocks sinceBoundary : Nat) (isMarker : Bool) : Tide :=
  if clocks - 16 ≤ sinceBoundary then
    let t1 := { t with phase := .track, edgeSeen := true, edgeNext := true, goodRun := 0, missRun := 0, holdover := false, phaseError := 0#16 }
    if isMarker then t1.marker true else t1
  else if isMarker then t.marker false else t

/-- An edge while tracking or in holdover (R38 steps 3 to 5). -/
def Tide.trackEdge (t : Tide) (clocks sinceBoundary : Nat) (err : BitVec 16) (isMarker : Bool) : Tide :=
  let far : Bool := decide (64 < err.toInt.natAbs)
  if far && t.phase == .holdover then { t with phase := .acquire, goodRun := 0 }.acquireEdge clocks sinceBoundary isMarker
  else
    let t1 :=
      if far then { t with locked := false, goodRun := 0, phaseError := err }
      else { t with phase := .track, holdover := false, missRun := 0, phaseError := err,
                    edgeSeen := t.edgeSeen || decide (0 ≤ err.toInt), edgeNext := t.edgeNext || decide (err.toInt < 0),
                    goodRun := if err.toInt.natAbs ≤ 8 then t.goodRun + 1 else 0 }
    if isMarker then t1.marker (decide (err.toInt < 0)) else t1

/-- The phase error of an edge, which the device takes delayed by COMP core clocks (R36). -/
def Tide.edgeError (t : Tide) (raw : BitVec 16) : BitVec 16 := raw + t.comp.setWidth 16

/-- TIDE_IN_PULSE: its width, the phase error of the edge as it comes in, and the core clocks since the last boundary and the last valid
edge. COMP delays the edge; only a follower looks at the pin (R36). -/
def tideInPulse (widthNs : Nat) (raw : BitVec 16) (sinceBoundary sinceEdge : Nat) (s : State) : State :=
  let ordinary : Bool := decide (50 ≤ widthNs) && decide (widthNs ≤ 150)
  let isMarker : Bool := decide (250 ≤ widthNs) && decide (widthNs ≤ 400)
  let clocks := 1900 * s.periodUs
  if s.tide.mode != .follow then s
  else if !ordinary && !isMarker then s.setTide { s.tide with pulseDiscard := true }
  else if s.tide.phase == .stopped then s
  else
    let t := s.tide.measure clocks sinceEdge
    match t.phase with
    | .stopped => s.setTide t
    | .acquire => s.setTide (t.acquireEdge clocks (sinceBoundary + t.comp.toNat) isMarker)
    | _ => s.setTide (t.trackEdge clocks (sinceBoundary + t.comp.toNat) (t.edgeError raw) isMarker)

def execTideInPulse (widthNs : Nat) (raw : BitVec 16) (sinceBoundary sinceEdge : Nat) (s : State) :
    Host.Outcome State Fault Refusal :=
  .next (s.quiet.whenLive (tideInPulse widthNs raw sinceBoundary sinceEdge))

/-- TIDE_LOCKED (R38 step 4): 16 boundaries in a row were within 8 core clocks. -/
def tideLocked (s : State) : State :=
  if s.tide.mode == .follow && s.tide.phase == .track && decide (16 ≤ s.tide.goodRun) then
    s.setTide { s.tide with locked := true }
  else s

def execTideLocked (s : State) : Host.Outcome State Fault Refusal := .next (s.quiet.whenLive tideLocked)

/-- TIDE_HOLDOVER (R38 step 5): four boundaries in a row without an edge near the expected time. -/
def tideHoldover (s : State) : State :=
  if s.tide.mode == .follow && s.tide.phase == .track && decide (4 ≤ s.tide.missRun) then
    (s.setTide { s.tide with holdover := true, locked := false, phase := .holdover, goodRun := 0 }).raise
      (mkReport 0x0E 0x01 0 unitTideIn 0 0)
  else s

def execTideHoldover (s : State) : Host.Outcome State Fault Refusal := .next (s.quiet.whenLive tideHoldover)

/-! Arbitration (R42 to R51). -/

/-- Requester slots of an arbiter (R41); a memory scheduler's are its banks, and the queue engine's are the queue pairs (R434). -/
def arbSlots : ArbId → Nat
  | .scratch _ _ => 4
  | .blockPort _ => 19
  | .regionEntry _ => 9
  | .regionBuf _ => 9
  | .chipEntry => 16
  | .mem ch => chanBanks ch
  | .fetch => 4096

/-- The key of an arbiter's record. -/
def arbKey : ArbId → Nat
  | .scratch c bank => c.val * 4 + bank.val
  | .blockPort b => 4096 + b.val
  | .regionEntry r => 4160 + r.val
  | .regionBuf r => 4168 + r.val
  | .chipEntry => 4176
  | .mem ch => 4177 + ch.val
  | .fetch => 4900

/-- The i-th two-bit field of a class register. -/
def classField (v i : Nat) : Nat := v / 4 ^ i % 4

/-- The class of a slot (R48 to R51); a queue pair's is its CLASS (R434). -/
def State.slotClass (s : State) (a : ArbId) (i : Nat) : Nat :=
  let c := s.arb.inForce
  match a, i with
  | .scratch _ _, i => classField c.cell.toNat i
  | .blockPort _, i => classField c.blk.toNat (i - 15)
  | .regionEntry _, i => classField c.reg.toNat (i - 7)
  | .regionBuf _, i => classField c.reg.toNat (i - 7)
  | .chipEntry, i => classField c.chip.toNat (if i < 8 then 0 else if i < 14 then 1 else i - 12)
  | .mem _, _ => 0
  | .fetch, i => (tget s.que.qps i).elim 0 (fun x => x.cfg.cls.toNat)

/-- The ring that an arbiter grants entry to (R46): 0 the chip ring, 1 + r the ring of region r. -/
def ringIx : ArbId → Option Nat
  | .chipEntry => some 0
  | .regionEntry r => some (1 + r.val)
  | _ => none

def State.ring (s : State) (k : Nat) : Ring := mget Ring.empty s.arb.rings k

def State.setRing (s : State) (k : Nat) (r : Ring) : State := { s with arb := { s.arb with rings := mset Ring.empty s.arb.rings k r } }

def State.arbiter (s : State) (a : ArbId) : Arbiter := mget Arbiter.idle s.arb.arbiters (arbKey a)

def State.setArbiter (s : State) (a : ArbId) (r : Arbiter) : State :=
  { s with arb := { s.arb with arbiters := mset Arbiter.idle s.arb.arbiters (arbKey a) r } }

/-- The winner among slots with classes (R43): the highest class, and in it the first after that class's last winner. -/
def arbWinner (lastWinner : SMap Nat) (cs : List (Nat × Nat)) : Option (Nat × Nat) :=
  let best := cs.foldl (fun m c => min m c.2) 4
  let xs := cs.filter (fun c => c.2 == best)
  match tget lastWinner best with
  | none => xs.head?
  | some w => match xs.find? (fun c => decide (w < c.1)) with
    | some c => some c
    | none => xs.head?

/-- A loss (R44): one more in a row, and a back-off of min(2^k, 256) core clocks. -/
def Arbiter.lose (r : Arbiter) (i : Nat) : Arbiter :=
  let k := mget 0 r.losses i + 1
  { r with losses := mset 0 r.losses i k, backoff := mset 0 r.backoff i (min (2 ^ min k 8) 256) }

/-- Requests that are withdrawn count no losses and no back-off any more (R44). -/
def Arbiter.withdraw (r : Arbiter) (l : List Nat) : Arbiter :=
  { r with losses := r.losses.filter (fun e => !l.contains e.1), backoff := r.backoff.filter (fun e => !l.contains e.1) }

/-- A ring-entry decision finds the ring as it stands when its packets have moved on (R381). -/
def State.turnRing (s : State) (a : ArbId) (inp : ArbIn) : State :=
  match ringIx a with
  | none => s
  | some k => s.setRing k ((s.ring k).turn k (ringStops k) inp.freed (fun r => (s.zone r).overtemp))

/-- A slot's packet may enter the ring at its stop; where no ring is entered there is nothing to wait for. -/
def State.mayEnter (s : State) (a : ArbId) (inp : ArbIn) (i : Nat) : Bool :=
  match ringIx a with
  | none => true
  | some k => (inp.wants.find? (fun w => w.slot == i)).any (fun w => (s.ring k).mayEnter (ringStops k) w)

/-- The packet of the slot granted enters the ring. -/
def State.enterRing (s : State) (a : ArbId) (inp : ArbIn) (i : Nat) : State :=
  match ringIx a, inp.wants.find? (fun w => w.slot == i) with
  | some k, some w =>
    let s1 := s.setRing k ((s.ring k).enter (ringStops k) w)
    { s1 with arb := { s1.arb with class0 := s1.arb.class0 || (k == 0 && s.slotClass a i == 0) } }
  | _, _ => s

/-- A decision of R42 to R46: among the slots that are asserted, do not back off and, at a ring entry, may enter. -/
def State.arbChoose (s : State) (a : ArbId) (inp : ArbIn) : State :=
  let r1 := { (s.arbiter a).withdraw inp.withdrawn with granted := none }
  let ask := (List.range (arbSlots a)).filter (fun i => inp.asserted.contains i && mget 0 r1.backoff i == 0 && s.mayEnter a inp i)
  let cs := ask.map (fun i => (i, if 16 ≤ mget 0 r1.losses i then 0 else s.slotClass a i))
  match arbWinner r1.lastWinner cs with
  | none => s.setArbiter a r1
  | some (w, cls) =>
    let r2 := (ask.filter (fun i => i != w)).foldl Arbiter.lose r1
    (s.setArbiter a { r2 with granted := some w, losses := tdel r2.losses w, lastWinner := tput r2.lastWinner cls w }).enterRing a inp w

def State.arbDecide (s : State) (a : ArbId) (inp : ArbIn) : State := (s.turnRing a inp).arbChoose a inp

/-- A memory scheduler's decision (R232): R44 and R45 do not apply, and a bank not chosen keeps its candidate. -/
def State.memDecide (s : State) (ch : MemCh) (inp : ArbIn) : State :=
  if !s.memTrained || s.chanFailed ch || s.chanRetraining ch then s
  else
    let r := s.arbiter (.mem ch)
    let cands := (List.range (chanBanks ch)).filterMap (fun b =>
      if inp.asserted.contains b then ((s.bankCand ch inp.aged b).filter (fun c => s.candIssues ch c.act)).map (fun c => (b, c)) else none)
    match arbWinner r.lastWinner (cands.map (fun x => (x.1, x.2.cls))) with
    | none => s.setArbiter (.mem ch) { r with granted := none }
    | some (w, cls) =>
      let s1 := s.setArbiter (.mem ch) { r with granted := some w, lastWinner := tput r.lastWinner cls w }
      match cands.find? (fun x => x.1 == w) with
      | some x => s1.issueCand ch w inp.draws x.2.act
      | none => s1

/-- ARBITER_DECISION. -/
def arbiterDecision (a : ArbId) (inp : ArbIn) (s : State) : State :=
  match a with
  | .mem ch => s.memDecide ch inp
  | _ => s.arbDecide a inp

def execArbiterDecision (a : ArbId) (inp : ArbIn) (s : State) : Host.Outcome State Fault Refusal :=
  .next (s.quiet.whenLive (arbiterDecision a inp))

/-- ARB_BACKOFF_EXPIRE (R44): the slot may assert its request again; the losses stand. -/
def arbBackoffExpire (a : ArbId) (slot : Nat) (s : State) : State :=
  let r := s.arbiter a
  s.setArbiter a { r with backoff := tdel r.backoff slot }

def execArbBackoffExpire (a : ArbId) (slot : Nat) (s : State) : Host.Outcome State Fault Refusal :=
  .next (s.quiet.whenLive (arbBackoffExpire a slot))

/-! Node fatal and the dump (R589, R590). -/

/-- DUMP_STATE's code (R595). -/
def DumpState.code : DumpState → Nat
  | .none => 0
  | .writing => 1
  | .ready => 2
  | .partialDump => 3
  | .failed => 4
  | .readyAfterReset => 5
  | .damagedAfterReset => 6

/-- The sections of the dump: KIND and BYTES (R590). -/
def dumpSections : List (Nat × Nat) :=
  [(1, 0x40000), (2, 0x400000), (3, 0x100000), (4, 0x3000000), (5, 0x800000), (6, 0x100000), (7, 0x200000), (8, 0x1400000),
   (9, 0x100000)]

/-- The section table, each section following the one before it; the CRC of a section is a free value, as its bytes are. -/
def dumpTable (serial : Nat) : Nat → List (Nat × Nat) → List Byte
  | _, [] => []
  | off, (k, n) :: rest =>
    natBytes 4 k ++ natBytes 4 off ++ natBytes 4 n ++ (List.range 4).map (fun j => Config.dumpByte serial (112 + 16 * k + 12 + j)) ++
      dumpTable serial (off + n) rest

/-- The node-fatal report as the ring holds it. -/
def State.fatalReport (s : State) : List Byte :=
  match s.ras.ring.reverse.find? (fun r => r.source == 0x02#8 && r.code == 0x04#8) with
  | some r => reportBytes r
  | none => List.replicate 64 0#8

/-- The dump's header (R590). The tick stands still once the node is fatal. -/
def State.makeDumpHeader (s : State) (state : DumpState) (serial : Nat) : List Byte :=
  natBytes 4 0x504D5544 ++ [0x01#8, BitVec.ofNat 8 state.code] ++ natBytes 2 s.dbg.laterFaults ++ bytesOf s.tide.count 8 ++
    List.replicate 48 0#8 ++ s.fatalReport ++ dumpTable serial 4096 dumpSections

/-- The unit that a chip fault's report names. -/
def chipUnit : ChipFault → BitVec 16
  | .unit u => u
  | .ring _ _ => unitRouter
  | .directory line _ => unitSlice (ppaSlice (line.toNat * 64))

/-- The report of an uncorrectable error in a ring or the core (RING_UE, R413), or in a directory entry (DIR_UE, R333). -/
def State.chipReport (s : State) : ChipFault → State
  | .unit _ => s
  | .ring stop vc => s.raise (mkReport 0x05 0x06 3 unitRouter stop vc.val)
  | .directory line ep => s.raise (mkReport 0x09 0x06 3 (unitSlice (ppaSlice (line.toNat * 64))) ep.toNat (line.toNat * 64))

/-- NODE_FATAL: a chip fault. One in a node already fatal is only counted. -/
def execNodeFatal (fault : ChipFault) (s : State) : Host.Outcome State Fault Refusal :=
  .next (s.quiet.always (fun q => if q.plt.powered && !q.plt.resetHeld && !q.plt.tripped then
    (if q.dbg.fatal then q else q.chipReport fault).nodeFatal (chipUnit fault) else q))

/-- How DUMP_STATE ends. -/
def dumpEnd : DumpOutcome → DumpState
  | .ready => .ready
  | .partialDump => .partialDump
  | .failed => .failed

/-- The dump's header goes into the dump granules, whose poison its whole lines clear (R14, R226, R589). -/
def State.storeDump (s : State) (hdr : List Byte) : State :=
  { s with mem := { s.mem with bytes := putBytes (zeroBytes s.mem.bytes (dumpKey 0) 4096) (dumpKey 0) hdr,
                               poison := s.mem.poison.filter (fun e => !dumpGran (e.1 * 64 / granBytes)) } }

/-- DUMP_WRITE_DONE. A dump area that cannot be written holds nothing new. -/
def dumpWriteDone (outcome : DumpOutcome) (bytes : Nat) (s : State) : State :=
  if !s.dbg.fatal || s.dbg.dumpState != .writing || s.plt.tripped then s
  else
    let st := dumpEnd outcome
    let d := { s.dbg with dumpState := st }
    let d1 := if outcome = .failed then d
      else { d with dumpSerial := s.serial, dumpBytes := bytes, dumpHeader := putBytes [] 0 (s.makeDumpHeader st s.serial) }
    let s1 := if outcome = .failed then s else s.storeDump (s.makeDumpHeader st s.serial)
    ({ s1 with dbg := d1, serial := s.serial + 1 }).raise (mkReport 0x0D 0x06 3 unitChip bytes st.code)

def execDumpWriteDone (outcome : DumpOutcome) (bytes : Nat) (s : State) : Host.Outcome State Fault Refusal :=
  .next (s.quiet.always (dumpWriteDone outcome bytes))

end Sys2Proof.Machine
end

