-- ==== Sys2Proof/Machine/Translate.lean ====
section
/-! DEFINITION. The commands of address translation (spec/13): address spaces, invalidation, faults and their rings, walks. -/

namespace Sys2Proof.Machine

/-! Address spaces (R457 to R461). -/

def xltModeOf (m : Nat) : Option XltMode :=
  if m = 0 then some .sv39 else if m = 1 then some .sv48 else if m = 2 then some .sv57 else if m = 3 then some .radix else none

/-- ROOT has the alignment its format asks for (R459). -/
def rootAligned (radix : Option Radix) (root : W64) : Bool :=
  match radix with
  | none => root.toNat % 4096 == 0
  | some r => root.toNat % max 64 (2 ^ r.idxBits.getD 0 0 * r.entryBytes) == 0

/-- ASID of an admin descriptor, at offset 16. -/
def descAsid (d : Desc) : BitVec 20 := d.extractLsb' 128 20

/-- The reserved bytes and bits of AS_CREATE: RADIX must be 0 unless MODE is 3. -/
def asCreateClean (d : Desc) : Bool :=
  descClean d [(16, 4), (20, 2), (22, 1), (23, 1), (24, 8), (32, 32)] && decide (descField d 16 4 < 2 ^ 20) &&
  decide (descField d 20 2 < 2 ^ 10) && decide (descField d 23 1 ≤ 1) && (descField d 22 1 == 3 || descField d 32 32 == 0)

/-- The checks of AS_CREATE in their order: the address space it makes, or the status of the first that fails. -/
def State.asCreateCheck (s : State) (p : PlPort) (d : Desc) : Except Status AddrSpace :=
  let t : Tenant := d.extractLsb' 160 10
  let root : W64 := d.extractLsb' 192 64
  let rd : BitVec 256 := d.extractLsb' 256 256
  if !asCreateClean d then .error stBadDesc
  else if !s.tenantGranted p t then .error stQueDenied
  else if (s.space (descAsid d)).isSome then .error stAsBusy
  else if 4096 ≤ s.xlt.spaces.length then .error stAsFull
  else match xltModeOf (descField d 22 1) with
  | none => .error stXltFormat
  | some m =>
    if m = .radix ∧ !radixValid rd then .error stXltFormat
    else
      let radix : Option Radix := if m = .radix then some (radixOf rd) else none
      if !rootAligned radix root then .error stAlign
      else .ok { port := p, tenant := t, mode := m, requireU := d.getLsbD 184, root := root, radix := radix }

/-- AS_CREATE. -/
def asCreate (p : PlPort) (s : State) : State :=
  match s.adminHead p 0x70#8 with
  | none => s
  | some d => match s.asCreateCheck p d with
    | .error st => s.adminDone p st 0#64
    | .ok a => ({ s with xlt := { s.xlt with spaces := tput s.xlt.spaces (descAsid d).toNat a } }).adminDone p stOk 0#64

def execAsCreate (p : PlPort) (s : State) : Host.Outcome State Fault Refusal := .next (s.quiet.whenLive (asCreate p))

/-! Invalidation (R475, R476). -/

/-- A cached translation overlaps a range, or the whole address space. -/
def TlbEntry.inRange (e : TlbEntry) (asid : BitVec 20) (range : Option (Nat × Nat)) : Bool :=
  e.asid == asid && (match range with
    | none => true
    | some (b, n) => decide (e.vpage * 2 ^ e.size < b + n) && decide (b < (e.vpage + 1) * 2 ^ e.size))

/-- The engine a host request belongs to, by its number in an invalidation, and the address space it was translated in: 0 to 63 for a
block DMA engine, 64 for the queue engine. -/
def State.reqEngine (s : State) (r : DevReq) : Option (Nat × BitVec 20) :=
  let asidOf (q : Qp) : BitVec 20 := (s.qp q).elim 0#20 (fun x => x.cfg.asid)
  if r.via.isNone then none
  else match r.owner with
  | .record q _ => some (64, asidOf q)
  | .op n => (s.op n).map (fun o => (o.block.elim 64 (fun b => b.val), asidOf o.qp))
  | .opRead n _ _ => (s.op n).map (fun o => (o.block.elim 64 (fun b => b.val), asidOf o.qp))
  | .copy n c _ => match s.run n, s.op n with
    | some ru, some o => match tget ru.copies c with
      | some x => (s.lcBlock n x.lc).map (fun b => (b.val, asidOf o.qp))
      | none => none
    | _, _ => none
  | _ => none

/-- The engines that acknowledge an invalidation: the 64 block DMA engines and the queue engine. -/
def invalEngines : List Nat := List.range 65

/-- The invalidation point: every cache drops what is in range, walks of the address space are cut off, and the engines are asked to
acknowledge once the transfers they have under way are over. -/
def State.invalidate (s : State) (p : PlPort) (asid : BitVec 20) (range : Option (Nat × Nat)) : State :=
  let keep (l : List TlbEntry) : List TlbEntry := l.filter (fun e => !e.inRange asid range)
  let within (va : Nat) : Bool := range.all (fun r => decide (r.1 ≤ va) && decide (va < r.1 + r.2))
  let busy : List (Nat × Nat) := s.rtr.reqs.filterMap (fun (e : Nat × DevReq) => match s.reqEngine e.2 with
    | some (g, a) => if a = asid ∧ e.2.va.all within then some (e.1, g) else none
    | none => none)
  let blocks : SMap (List TlbEntry) := (tmap s.xlt.blockTlb (fun _ l => keep l)).filter (fun e => !e.2.isEmpty)
  let chip : SMap (List TlbEntry) := (tmap s.xlt.chipTlb (fun _ l => keep l)).filter (fun e => !e.2.isEmpty)
  let walks : SMap Walk := tmap (s.xlt.walks.filter (fun e => !(e.2.asid == asid && e.2.prefetch)))
    (fun _ w => if w.asid = asid then { w with stale := true } else w)
  let x : Xlt := { s.xlt with
    blockTlb := blocks, queueTlb := keep s.xlt.queueTlb, chipTlb := chip,
    walkCache := s.xlt.walkCache.filter (fun e => e.asid != asid), walks := walks,
    invals := s.xlt.invals ++ [{ port := p, asid := asid, left := invalEngines, drain := busy }] }
  ({ s with xlt := x }).startWaiting 64

/-- Operations translate their host pages in range again after an invalidation of their address space. -/
def State.dropPages (s : State) (asid : BitVec 20) (range : Option (Nat × Nat)) : State :=
  let within (k : Nat) : Bool := range.all (fun r => decide (r.1 ≤ k / 2 * 4096) && decide (k / 2 * 4096 < r.1 + r.2))
  let mine (o : OpRec) : Bool := (s.qp o.qp).any (fun x => x.cfg.asid == asid)
  { s with que := { s.que with ops := tmap s.que.ops (fun _ o => if mine o then { o with pages := o.pages.filter (fun e => !within e.1) } else o) } }

/-- The admin command at a port's head begins an invalidation, and waits for it. -/
def State.beginInval (s : State) (p : PlPort) (asid : BitVec 20) (range : Option (Nat × Nat)) : State :=
  ((s.dropPages asid range).invalidate p asid range).adminBusy p

/-- The address space a command names, when it is the port's own (R460). -/
def State.ownSpace (s : State) (p : PlPort) (asid : BitVec 20) : Option AddrSpace :=
  match s.space asid with
  | some a => if a.port = p then some a else none
  | none => none

/-- AS_SET_ROOT: the new root, then an invalidation of the whole address space. -/
def asSetRoot (p : PlPort) (s : State) : State :=
  match s.adminHead p 0x71#8 with
  | none => s
  | some d =>
    let root : W64 := d.extractLsb' 192 64
    if !descClean d [(16, 4), (24, 8)] ∨ 2 ^ 20 ≤ descField d 16 4 then s.adminDone p stBadDesc 0#64
    else match s.ownSpace p (descAsid d) with
    | none => s.adminDone p stBadAsid 0#64
    | some a =>
      if !rootAligned a.radix root then s.adminDone p stAlign 0#64
      else ({ s with xlt := { s.xlt with spaces := tput s.xlt.spaces (descAsid d).toNat { a with root := root } } }).beginInval p
        (descAsid d) none

def execAsSetRoot (p : PlPort) (s : State) : Host.Outcome State Fault Refusal := .next (s.quiet.whenLive (asSetRoot p))

/-- AS_DESTROY: every cached translation of the address space is discarded and its ASID freed. -/
def asDestroy (p : PlPort) (s : State) : State :=
  match s.adminHead p 0x72#8 with
  | none => s
  | some d =>
    let asid := descAsid d
    if !descClean d [(16, 4)] ∨ 2 ^ 20 ≤ descField d 16 4 then s.adminDone p stBadDesc 0#64
    else match s.ownSpace p asid with
    | none => s.adminDone p stBadAsid 0#64
    | some _ =>
      if s.que.qps.any (fun q => q.2.cfg.asid == asid) then s.adminDone p stAsBusy 0#64
      else
        let old := s.xlt.invals
        let s1 := s.invalidate p asid none
        ({ s1 with xlt := { s1.xlt with spaces := tdel s1.xlt.spaces asid.toNat, invals := old } }).adminDone p stOk 0#64

def execAsDestroy (p : PlPort) (s : State) : Host.Outcome State Fault Refusal := .next (s.quiet.whenLive (asDestroy p))

/-- INVAL. -/
def inval (p : PlPort) (s : State) : State :=
  match s.adminHead p 0x73#8 with
  | none => s
  | some d =>
    let all : Bool := d.getLsbD 160
    let base := descField d 24 8
    let len := descField d 32 8
    if !descClean d [(16, 4), (20, 1), (24, 8), (32, 8)] ∨ 2 ^ 20 ≤ descField d 16 4 ∨ 1 < descField d 20 1 ∨
        (all ∧ (base ≠ 0 ∨ len ≠ 0)) then s.adminDone p stBadDesc 0#64
    else match s.ownSpace p (descAsid d) with
    | none => s.adminDone p stBadAsid 0#64
    | some _ =>
      if all then s.beginInval p (descAsid d) none
      else if len = 0 then s.adminDone p stBadLength 0#64
      else if base % 4096 ≠ 0 ∨ len % 4096 ≠ 0 then s.adminDone p stAlign 0#64
      else s.beginInval p (descAsid d) (some (base, len))

def execInval (p : PlPort) (s : State) : Host.Outcome State Fault Refusal := .next (s.quiet.whenLive (inval p))

def invalEngineIx : InvalEngine → Nat
  | .queue => 64
  | .block b => b.val

/-- An engine acknowledges the oldest invalidation it has not: every transfer it had under way has drained (R476). The last
acknowledgement completes the admin command that asked for it. -/
def invalAck (e : InvalEngine) (s : State) : State :=
  let g := invalEngineIx e
  match s.xlt.invals.find? (fun v => v.left.contains g) with
  | none => s
  | some v =>
    if v.drain.any (fun k => k.2 == g && (tget s.rtr.reqs k.1).isSome) then s
    else
      let v' := { v with left := v.left.erase g }
      if v'.left.isEmpty then
        (({ s with xlt := { s.xlt with invals := s.xlt.invals.erase v } }).tally (ctrXlt 5 0)).adminDone v.port stOk 0#64
      else { s with xlt := { s.xlt with invals := s.xlt.invals.map (fun w => if w = v then v' else w) } }

def execInvalAck (e : InvalEngine) (s : State) : Host.Outcome State Fault Refusal := .next (s.quiet.whenLive (invalAck e))

/-! Fault rings (R471 to R473). -/

/-- FAULT_RING_SET. -/
def faultRingSet (p : PlPort) (s : State) : State :=
  match s.adminHead p 0x74#8 with
  | none => s
  | some d =>
    let addr : W64 := d.extractLsb' 128 64
    let log := descField d 24 1
    let vec := descField d 26 2
    if !descClean d [(16, 8), (24, 1), (26, 2)] ∨ (vec ≠ 0xFFFF ∧ 2 ^ 11 ≤ vec) then s.adminDone p stBadDesc 0#64
    else if log < 4 ∨ 12 < log then s.adminDone p stBadSize 0#64
    else if addr.toNat % 4096 ≠ 0 then s.adminDone p stAlign 0#64
    else if s.xlt.faults.any (fun f => f.port == p) then s.adminDone p stAsBusy 0#64
    else
      let r : FaultRing := { addr := some addr, log := log, vector := BitVec.ofNat 16 vec, next := 0, phase := true, head := 0#12 }
      ({ s with xlt := { s.xlt with rings := mset FaultRing.reset s.xlt.rings p.val r } }).adminDone p stOk 0#64

def execFaultRingSet (p : PlPort) (s : State) : Host.Outcome State Fault Refusal := .next (s.quiet.whenLive (faultRingSet p))

/-- FAULT_RECORD_WRITE: the oldest record that waits goes to the port's ring, which has a free entry. -/
def faultRecordWrite (p : PlPort) (s : State) : State :=
  let r := mget FaultRing.reset s.xlt.rings p.val
  match s.xlt.faults.find? (fun f => f.port == p && !f.written), r.addr with
  | some f, some a =>
    let size := 2 ^ r.log
    if (r.next + 1) % size = r.head.toNat ∨ p ≠ s.que.active then s
    else
      let bytes := f.record.take 31 ++ [if r.phase then 1#8 else 0#8]
      let r' := { r with next := (r.next + 1) % size, phase := r.phase != decide (r.next + 1 = size) }
      let s1 : State := { s with xlt := { s.xlt with
        rings := mset FaultRing.reset s.xlt.rings p.val r',
        faults := s.xlt.faults.map (fun g => if g.id = f.id then { g with written := true } else g) } }
      s1.issueHost p (smallWrite hostEp 0#10 0#2 (a.toNat + 32 * r.next) bytes) vcReq (.faultRecord p)
  | _, _ => s

def execFaultRecordWrite (p : PlPort) (s : State) : Host.Outcome State Fault Refusal := .next (s.quiet.whenLive (faultRecordWrite p))

/-- XLT_FAULT_HEAD is written (R481). -/
def State.setFaultHead (s : State) (p : PlPort) (v : BitVec 12) : State :=
  { s with xlt := { s.xlt with rings := mmod FaultRing.reset s.xlt.rings p.val (fun r => { r with head := v }) } }

/-- FAULT_HEAD_WRITE. -/
def faultHeadWrite (p : PlPort) (v : BitVec 12) (s : State) : State := s.setFaultHead p v

def execFaultHeadWrite (p : PlPort) (v : BitVec 12) (s : State) : Host.Outcome State Fault Refusal :=
  .next (s.quiet.whenLive (faultHeadWrite p v))

/-! The end of a fault (R471, R474). -/

/-- A fault is freed: the first unit that waits for room in the table walks again. -/
def State.freeFault (s : State) (id : BitVec 16) : State :=
  let s1 : State := { s with xlt := { s.xlt with faults := s.xlt.faults.filter (fun f => f.id != id) } }
  match s1.xlt.tableWaiters with
  | [] => s1
  | w :: rest => ({ s1 with xlt := { s1.xlt with tableWaiters := rest, waiting := s1.xlt.waiting ++ [w] } }).startWaiting 256

/-- A fault ends the units that wait on it. -/
def State.failFault (s : State) (f : FaultEntry) (st : Status) : State :=
  f.units.foldl (fun acc u => acc.unitFail u st) (s.freeFault f.id)

/-- FAULT_RESP. -/
def faultResp (p : PlPort) (s : State) : State :=
  match s.adminHead p 0x75#8 with
  | none => s
  | some d =>
    if !descClean d [(16, 2), (18, 1)] ∨ 1 < descField d 18 1 then s.adminDone p stBadDesc 0#64
    else match s.xlt.faults.find? (fun f => f.id.toNat == descField d 16 2) with
    | none => s.adminDone p stNoFault 0#64
    | some f => (if descField d 18 1 = 0 then (s.freeFault f.id).pumpUnits f.units else s.failFault f stXltFault).adminDone p stOk 0#64

def execFaultResp (p : PlPort) (s : State) : Host.Outcome State Fault Refusal := .next (s.quiet.whenLive (faultResp p))

/-- FAULT_TIMEOUT: a fault has been outstanding for XLT_CTRL.FAULT_TIMEOUT ms. -/
def faultTimeout (id : BitVec 16) (s : State) : State :=
  match s.xlt.faults.find? (fun f => f.id == id) with
  | none => s
  | some f =>
    (s.raise (mkReport 0x07 0x01 0 (BitVec.ofNat 16 (fieldAt f.record 26 2)) f.asid.toNat (f.page * 4096))).failFault f stXltTimeout

def execFaultTimeout (id : BitVec 16) (s : State) : Host.Outcome State Fault Refusal := .next (s.quiet.whenLive (faultTimeout id))

/-! Walks (R462 to R467). -/

/-- WALK_READ_RETURN: the entry a walk waits for has come, or poison or a host memory error. -/
def walkReadReturn (w : Nat) (entry : W64) (err : Bool) (s : State) : State :=
  match s.rtr.reqs.find? (fun e => e.2.sent && e.2.owner == .walk w) with
  | none => s
  | some (k, r) =>
    (({ s with rtr := { s.rtr with reqs := tdel s.rtr.reqs k } }).launchNext r.dst).walkReturn w entry err

def execWalkReadReturn (w : Nat) (entry : W64) (err : Bool) (s : State) : Host.Outcome State Fault Refusal :=
  .next (s.quiet.whenLive (walkReadReturn w entry err))

end Sys2Proof.Machine
end

