-- ==== Sys2Proof/Machine/Queues.lean ====
section
/-! DEFINITION. The commands of Phosha Link and the queue engine (spec/12). -/

namespace Sys2Proof.Machine

/-! Grants and takeover (R423, R424, R427). -/

/-- PLK_GRANT. -/
def plkGrant (port : BitVec 8) (t : Tenant) (ep mask : Ep) (s : State) : State :=
  if 2 ≤ port.toNat then s.reply 0x30#8 7 []
  else
    let l := mget [] s.que.grants port.toNat
    if 64 ≤ l.length then s.reply 0x30#8 6 []
    else ({ s with que := { s.que with grants := tput s.que.grants port.toNat (l ++ [({ tenant := t, ep := ep, mask := mask } : Grant)]) } }).reply 0x30#8 0 []

def execPlkGrant (port : BitVec 8) (t : Tenant) (ep mask : Ep) (s : State) : Host.Outcome State Fault Refusal :=
  .next (s.quiet.whenLive (plkGrant port t ep mask))

def otherPort (p : PlPort) : PlPort := if p.val = 0 then 1 else 0

/-- PLK_TAKEOVER: the standby port is to become active at step 10 of the next boundary. -/
def plkTakeover (s : State) : State :=
  ({ s with que := { s.que with takeover := some (s.que.takeover.getD (otherPort s.que.active, 0)) } }).reply 0x31#8 0 []

def execPlkTakeover (s : State) : Host.Outcome State Fault Refusal := .next (s.quiet.whenLive plkTakeover)

/-- TAKEOVER_APPLY: the queue pairs of the old port are halted, and ACTIVE names the new one. -/
def takeoverApply (s : State) : State :=
  match s.que.takeover with
  | none => s
  | some (p, age) =>
    if age = 0 then s
    else
      let old := otherPort p
      let mine := s.que.qps.filter (fun q => q.2.cfg.port == old && (q.2.state == .active || q.2.state == .error))
      let s1 : State := { s with que := { s.que with active := p, takeover := none } }
      let s2 := mine.foldl (fun st q => st.haltQp ⟨q.1 % 4096, Nat.mod_lt _ (by decide)⟩) s1
      s2.raise (mkReport 0x06 0x02 1 unitQueue p.val mine.length)

def execTakeoverApply (s : State) : Host.Outcome State Fault Refusal := .next (s.quiet.whenLive takeoverApply)

/-! Admin queues (R428). -/

/-- PLK_ADMIN_CTRL.ENABLE takes a value: a queue that starts has head and tail at 0 and phase 1. -/
def State.setAdminEnable (s : State) (p : PlPort) (v : Bool) : State :=
  let a := s.admin p
  if v && !a.enable then
    s.setAdmin p { a with enable := true, sqTail := 0, fetch := 0, cqHead := 0, cqNext := 0, phase := true }
  else s.setAdmin p { a with enable := v }

/-- ADMIN_QUEUE_ENABLE. -/
def adminQueueEnable (p : PlPort) (v : Bool) (s : State) : State := s.setAdminEnable p v

def execAdminQueueEnable (p : PlPort) (v : Bool) (s : State) : Host.Outcome State Fault Refusal :=
  .next (s.quiet.whenLive (adminQueueEnable p v))

/-- ADMIN_DOORBELL: a value that fails the rules of R442 is ignored whole and counted. -/
def adminDoorbell (p : PlPort) (v : W64) (s : State) : State :=
  let a := s.admin p
  if bellOk v (2 ^ a.sqLog.toNat) (2 ^ a.cqLog.toNat) a.cqHead a.cqNext then
    s.setAdmin p { a with sqTail := if v.getLsbD 32 then (v.extractLsb' 0 16).toNat else a.sqTail,
                          cqHead := if v.getLsbD 33 then (v.extractLsb' 16 16).toNat else a.cqHead }
  else s.tally (ctrQue 3 0)

def execAdminDoorbell (p : PlPort) (v : W64) (s : State) : Host.Outcome State Fault Refusal :=
  .next (s.quiet.whenLive (adminDoorbell p v))

/-! Abort (R446, R447). -/

/-- An admitted operation is aborted: one that waits ends at once; a publication that has started goes on to its point (R294); another
starts no new work. -/
def State.abortOp (s : State) (n : Nat) (o : OpRec) : State :=
  if o.opcode = 0x40#8 then
    { s with mem := { s.mem with scrubs := tmod s.mem.scrubs n (fun c => { c with stopped := some (c.stopped.getD stAborted) }) } }
  else if o.opcode = 0x41#8 ∨ o.opcode = 0x43#8 then
    let started : Bool := s.ext.extents.any (fun e => match e.2.snap with
      | some sn => sn.pubs.any (fun p => p.op == n && p.chosen.isSome)
      | none => false)
    if started then s.endOp n stAborted
    else
      let drop (x : Extent) : Extent := { x with snap := x.snap.map (fun sn =>
        { sn with pubs := sn.pubs.filter (fun p => p.op != n), opens := sn.opens.filter (fun w => w.op != n) }) }
      ({ s with ext := { s.ext with extents := tmap s.ext.extents (fun _ x => drop x) } }).completeOp n stAborted 0#64 0#16
  else s.endOp n stAborted

/-- Abort one held descriptor that has not committed; the number aborted goes up (R446). -/
def State.abortHeld (s : State) (q : Qp) (h : Nat) (d : Held) : State :=
  match d.op with
  | none => s.endDesc q h stAborted 0#64
  | some n => match s.op n with
    | some o => s.abortOp n o
    | none => s

/-- The abort point against the held descriptors that a test selects: how many it aborted, and the state. -/
def State.abortQp (s : State) (q : Qp) (sel : Desc → Bool) : Nat × State :=
  match s.qp q with
  | none => (0, s)
  | some x =>
    let hit := x.held.filter (fun e => sel e.2.desc && !e.2.done)
    (hit.length, hit.foldl (fun st e => st.abortHeld q e.1 e.2) s)

/-- Every descriptor of a queue pair up to its SQ_TAIL has been fetched, as far as R434 lets it fetch. -/
def State.fetchedAll (s : State) (x : QPair) : Bool :=
  x.state != .active || s.plt.phase != .ready || s.tenantGone x.cfg.tenant || x.fetch == x.sqTail || decide (x.cfg.maxInflight ≤ x.held.length) || decide (storeSlots ≤ s.storeHeld)

/-- The queue pair that an admin descriptor names at offset 16. -/
def descQp (d : Desc) : Qp := ⟨descField d 16 2 % 4096, Nat.mod_lt _ (by decide)⟩

/-- ABORT. -/
def abort (p : PlPort) (s : State) : State :=
  match s.adminHead p 0x51#8 with
  | none => s
  | some d =>
    let all : Bool := d.getLsbD 160
    if !descClean d [(16, 2), (18, 2), (20, 1)] ∨ 4096 ≤ descField d 16 2 ∨ 1 < descField d 20 1 then s.adminDone p stBadDesc 0#64
    else match s.qp (descQp d) with
    | none => s.adminDone p stNoCmd 0#64
    | some x =>
      if !s.fetchedAll x then s
      else
        let sel (t : Desc) : Bool := all || descField t 2 2 == descField d 18 2
        let matched := x.held.any (fun e => sel e.2.desc)
        let (k, s1) := s.abortQp (descQp d) sel
        s1.adminDone p (if 0 < k then stOk else if matched then stAlreadyDone else stNoCmd) (BitVec.ofNat 64 k)

def execAbort (p : PlPort) (s : State) : Host.Outcome State Fault Refusal := .next (s.quiet.whenLive (abort p))

/-! Queue pairs (R430 to R432). -/

/-- What QP_CREATE's descriptor sets (R430). -/
def qpCfgOf (p : PlPort) (d : Desc) : QpCfg :=
  { port := p, tenant := d.extractLsb' 144 10, ep := d.extractLsb' 160 14, provisional := d.getLsbD 176, ringPool := d.getLsbD 177,
    cls := d.extractLsb' 178 2, dbFabric := d.getLsbD 180, sqLog := descField d 23 1, cqLog := descField d 24 1,
    coalCount := max 1 (descField d 25 1), vector := d.extractLsb' 208 16, stashEp := d.extractLsb' 224 14,
    dbEp := d.extractLsb' 240 14, asid := d.extractLsb' 256 20, maxInflight := descField d 36 2, coalTicks := descField d 38 1,
    sqAddr := d.extractLsb' 320 64, cqAddr := d.extractLsb' 384 64, notifyAddr := d.extractLsb' 448 64 }

/-- The reserved bytes and bits of QP_CREATE are 0. -/
def qpCreateClean (d : Desc) : Bool :=
  descClean d [(16, 23), (40, 24)] && decide (descField d 16 2 < 2 ^ 12) && decide (descField d 18 2 < 2 ^ 10) &&
  decide (descField d 20 2 < 2 ^ 14) && decide (descField d 22 1 < 2 ^ 5) &&
  (descField d 26 2 == 0xFFFF || decide (descField d 26 2 < 2 ^ 11)) && decide (descField d 28 2 < 2 ^ 14) &&
  decide (descField d 30 2 < 2 ^ 14) && decide (descField d 32 4 < 2 ^ 20)

/-- A byte range of the pool lies in one extent of this node. -/
def State.inExtent (s : State) (a : W64) (n : Nat) : Bool :=
  fgaNode a == s.rtr.nodeId && a.extractLsb' 54 10 == 0#10 && (match s.slotExtent (fgaPpa a / granBytes) with
    | some (_, x, _) => decide (fgaPpa a + n ≤ (x.baseSlot + x.grans.length) * granBytes)
    | none => false)

/-- The checks of R431, in order: the status of the first that fails. -/
def State.qpCreateCheck (s : State) (p : PlPort) (d : Desc) : Option Status :=
  let c := qpCfgOf p d
  if !qpCreateClean d then some stBadDesc
  else if (s.qp (descQp d)).isSome then some stQpBusy
  else if !s.granted p c.tenant c.ep then some stQueDenied
  else if c.sqLog < 4 ∨ 16 < c.sqLog ∨ c.cqLog < 4 ∨ 16 < c.cqLog ∨ c.cqLog < c.sqLog + bitNat c.provisional 0 ∨
      c.maxInflight = 0 ∨ 1024 < c.maxInflight then some stBadSize
  else if c.sqAddr.toNat % 4096 ≠ 0 ∨ c.cqAddr.toNat % 4096 ≠ 0 then some stAlign
  else if !(match s.space c.asid with
    | some a => a.port == p && a.tenant == c.tenant
    | none => false) then some stBadAsid
  else if c.ringPool ∧ !(s.inExtent c.sqAddr (64 * 2 ^ c.sqLog) && s.inExtent c.cqAddr (32 * 2 ^ c.cqLog)) then some stNone
  else none

/-- A queue pair just created. -/
def QPair.fresh (c : QpCfg) : QPair :=
  { cfg := c, state := .active, sqTail := 0, fetch := 0, cqHead := 0, cqNext := 0, phase := true, csn := 1#48, held := [], nextHeld := 0,
    recs := [], sinceIntr := 0, coalAge := none, unacked := 0, intrDue := false, dropRecords := false, destroyers := [] }

/-- QP_CREATE. -/
def qpCreate (p : PlPort) (s : State) : State :=
  match s.adminHead p 0x60#8 with
  | none => s
  | some d => match s.qpCreateCheck p d with
    | some st => s.adminDone p st 0#64
    | none => (s.setQp (descQp d) (QPair.fresh (qpCfgOf p d))).adminDone p stOk 0#64

def execQpCreate (p : PlPort) (s : State) : Host.Outcome State Fault Refusal := .next (s.quiet.whenLive (qpCreate p))

/-- A queue pair begins to drain: its held descriptors are aborted, and nothing more is fetched. -/
def State.drainQp (s : State) (q : Qp) : State :=
  match s.qp q with
  | none => s
  | some x =>
    if x.state = .draining then s
    else
      let s1 := (s.abortQp q (fun _ => true)).2
      s1.modQp q (fun y => { y with state := .draining, dropRecords := x.state == .halted })

/-- QP_DESTROY: it completes when the queue pair reaches FREE. -/
def qpDestroy (p : PlPort) (s : State) : State :=
  match s.adminHead p 0x61#8 with
  | none => s
  | some d =>
    if !descClean d [(16, 2)] ∨ 4096 ≤ descField d 16 2 then s.adminDone p stBadDesc 0#64
    else match s.qp (descQp d) with
    | none => s.adminDone p stNoCmd 0#64
    | some _ =>
      ((s.drainQp (descQp d)).modQp (descQp d) (fun y =>
        { y with destroyers := y.destroyers ++ [(p, descCmd d, descIntr d)] })).adminBusy p

def execQpDestroy (p : PlPort) (s : State) : Host.Outcome State Fault Refusal := .next (s.quiet.whenLive (qpDestroy p))

/-- QP_FREE: a DRAINING queue pair has written its last record and verdict. -/
def qpFree (q : Qp) (s : State) : State :=
  match s.qp q with
  | none => s
  | some x =>
    if x.state ≠ .draining ∨ !x.held.isEmpty ∨ !x.recs.isEmpty ∨ x.unacked ≠ 0 ∨ s.ras.verdicts.any (fun v => v.2.qp == q) then s
    else
      let s1 : State := { s with que := { s.que with qps := tdel s.que.qps q.val } }
      x.destroyers.foldl (fun st d => st.adminDone d.1 stOk 0#64) s1

def execQpFree (q : Qp) (s : State) : Host.Outcome State Fault Refusal := .next (s.quiet.whenLive (qpFree q))

/-! FENCE (R445). -/

/-- FENCE: every earlier descriptor has written its record, and with WAIT_VERDICT has had its verdict issued. -/
def fence (q : Qp) (h : Nat) (s : State) : State :=
  match s.nextIs q h 0x50#8 with
  | none => s
  | some (x, d) =>
    if !descClean d.desc [(16, 1)] ∨ 1 < descField d.desc 16 1 then s.endDesc q h stBadDesc 0#64
    else if x.held.any (fun e => decide (e.1 < h)) ∨ (d.desc.getLsbD 128 ∧ s.ras.verdicts.any (fun v => v.2.qp == q)) then s
    else
      let (n, s1) := s.newOp q h x d
      s1.completeOp n stOk 0#64 0#16

def execFence (q : Qp) (h : Nat) (s : State) : Host.Outcome State Fault Refusal := .next (s.quiet.whenLive (fence q h))

/-! Fetching descriptors (R428, R434, R448). -/

/-- A queue pair takes the descriptor it has read; one whose opcode is not of R142 completes with OP_BAD_DESC. -/
def State.takeDesc (s : State) (q : Qp) (x : QPair) (d : Desc) : State :=
  let h := x.nextHeld
  let s1 := ((s.setQp q { x with held := tput x.held h ⟨d, x.fetch, none, false⟩, nextHeld := h + 1,
                                 fetch := (x.fetch + 1) % x.sqSize }).ledger 4 1).tally (ctrQue 0 0)
  if queueOpcodes.contains (descOpc d) then s1 else s1.endDesc q h stBadDesc 0#64

/-- What a read of a pool ring got from outside, as bytes at its address. -/
def ringIo (a : Nat) (r : RingRead) : OutsideIo :=
  match r with
  | .data d => ⟨(List.range 64).map (fun i => (a + i, byteOf d i)), none, []⟩
  | _ => noIo

/-- A queue pair fetches its next descriptor; the queue engine fetches in phase READY only (R534, R556). -/
def State.fetchGranted (s : State) (q : Qp) (r : RingRead) : State :=
  match s.qp q with
  | none => s
  | some x =>
    if s.plt.phase ≠ .ready ∨ x.state ≠ .active ∨ x.fetch = x.sqTail ∨ x.cfg.maxInflight ≤ x.held.length ∨ storeSlots ≤ s.storeHeld ∨
        s.tenantGone x.cfg.tenant then s
    else
      let a := x.cfg.sqAddr.toNat + 64 * x.fetch
      if x.cfg.ringPool then
        let acc := accRead x.cfg.ep (s.authOf x)
        if s.poolBusy acc (BitVec.ofNat 64 a) 64 then s
        else match s.readPool acc x.cfg.tenant (BitVec.ofNat 64 a) 64 (ringIo a r) with
        | (.error _, s1) => s1.qpError q 2
        | (.ok (bs, bad), s1) => if bad.any id then s1.qpError q 3 else s1.takeDesc q x (BitVec.ofNat 512 (leNat bs))
      else
        let (ok, s1) := s.xltSet none x.cfg.asid [a] false (.ring q)
        if !ok then s1
        else match r with
        | .data d => s1.takeDesc q x d
        | .poison => s1.qpError q 3
        | .hostErr => (s1.raise (mkReport 0x06 0x04 0 unitQueue q.val a)).qpError q 3

/-- A queue pair fetches when the fetch arbiter's last decision granted it: queue pairs compete by CLASS under R42 to R45 (R434). The grant is
for one fetch. -/
def State.fetchQp (s : State) (q : Qp) (r : RingRead) : State :=
  if (s.arbiter .fetch).granted ≠ some q.val then s
  else (s.setArbiter .fetch { s.arbiter .fetch with granted := none }).fetchGranted q r

/-- The active port's admin queue fetches its next command. -/
def State.fetchAdmin (s : State) (p : PlPort) (r : RingRead) : State :=
  let a := s.admin p
  if s.plt.phase ≠ .ready ∨ !a.enable ∨ p ≠ s.que.active ∨ a.fetch = a.sqTail ∨ 4 ≤ a.held.length then s
  else match r with
  | .data d =>
    ((s.setAdmin p { a with held := a.held ++ [d], fetch := (a.fetch + 1) % 2 ^ a.sqLog.toNat }).tally (ctrQue 0 0)).adminSkip p 4
  | .poison => s
  | .hostErr => s.raise (mkReport 0x06 0x04 0 unitQueue 0xFFFF (a.sqAddr.toNat + 64 * a.fetch))

/-- DESCRIPTOR_FETCH. -/
def descriptorFetch (t : QueueId) (r : RingRead) (s : State) : State :=
  match t with
  | .qp q => s.fetchQp q r
  | .admin p => s.fetchAdmin p r

def execDescriptorFetch (t : QueueId) (r : RingRead) (s : State) : Host.Outcome State Fault Refusal :=
  .next (s.quiet.whenLive (descriptorFetch t r))

/-! Writing records (R435 to R438, R443). -/

def outcomeCode : Option Outcome3 → Nat
  | none => 0
  | some .confirm => 1
  | some .retract => 2
  | some .fatal => 3

def causeCode : Option VCause → Nat
  | none => 0
  | some .disagree => 1
  | some .unitFault => 2
  | some .late => 3
  | some .replayAtomic => 4
  | some .threeWay => 5

/-- The 32 bytes of a completion record (R435): qp carries ADMIN in bit 12. -/
def recordBytes (r : Rec) (sqHead qp : Nat) (phase : Bool) : List Byte :=
  bytesOf r.value 8 ++ bytesOf r.csn 6 ++ bytesOf r.tileStatus 2 ++ bytesOf r.cmdId 2 ++ natBytes 2 sqHead ++ natBytes 2 qp ++
  [r.status, BitVec.ofNat 8 (outcomeCode r.outcome), BitVec.ofNat 8 (causeCode r.cause)] ++ List.replicate 6 0#8 ++
  [BitVec.ofNat 8 (bitNat phase 0 + bitNat r.verdict 1)]

/-- A record has been written to its entry: the position moves on and the descriptor's slot is free (R437, R448). -/
def State.recWritten (s : State) (q : Qp) : State := (s.skipRecord q).tally (ctrQue 1 0)

/-- An interrupt is due after a record: it asks for one, or enough have gathered (R443). -/
def QPair.intrNow (x : QPair) (r : Rec) : Bool := r.intr || decide (x.cfg.coalCount ≤ x.sinceIntr + 1)

/-- One more record is written: it starts an interrupt, or is not yet signalled. -/
def State.countRec (s : State) (q : Qp) (now : Bool) : State :=
  s.modQp q (fun x => { x with sinceIntr := if now then 0 else x.sinceIntr + 1,
                               coalAge := if now ∨ x.cfg.coalTicks = 0 then none else some (x.coalAge.getD 0) })

/-- A queue pair writes the record at the head of those that wait, unless its ring is full. -/
def State.writeRec (s : State) (q : Qp) : State :=
  match s.qp q with
  | none => s
  | some x => match x.recs with
    | [] => s
    | r :: _ =>
      if (x.cqNext + 1) % x.cqSize = x.cqHead then s
      else
        let bytes := recordBytes r x.fetch q.val x.phase
        let a := x.cfg.cqAddr.toNat + 32 * x.cqNext
        if x.cfg.ringPool then
          let acc := accWrite x.cfg.ep (s.authOf x)
          if s.poolBusy acc (BitVec.ofNat 64 a) 32 then s
          else match s.writePool acc x.cfg.tenant (BitVec.ofNat 64 a) bytes [] noIo with
          | (.error _, s1) => (s1.skipRecord q).qpError q 2
          | (.ok _, s1) =>
            let s2 := (s1.recWritten q).countRec q (x.intrNow r)
            if x.intrNow r then s2.signalQp q else s2
        else
          let (ok, s1) := s.xltSet none x.cfg.asid [a] true (.record q)
          if !ok then s1
          else match s1.xltNow none x.cfg.asid a true with
          | none => s1
          | some pa =>
            let s2 := ((s1.recWritten q).countRec q (x.intrNow r)).modQp q (fun y => { y with unacked := y.unacked + 1 })
            s2.issueVa x.cfg.port a (smallWrite hostEp x.cfg.tenant x.cfg.cls pa bytes) vcReq (.record q (x.intrNow r))

/-- An admin queue writes its oldest record. -/
def State.writeAdminRec (s : State) (p : PlPort) : State :=
  let a := s.admin p
  match a.recs with
  | [] => s
  | r :: rest =>
    let size := 2 ^ a.cqLog.toNat
    if (a.cqNext + 1) % size = a.cqHead ∨ p ≠ s.que.active then s
    else
      let bytes := recordBytes r a.fetch 0x1000 a.phase
      let s1 := s.setAdmin p { a with recs := rest, cqNext := (a.cqNext + 1) % size, phase := a.phase != decide (a.cqNext + 1 = size) }
      (s1.tally (ctrQue 1 0)).issueHost p (smallWrite hostEp 0#10 0#2 (a.cqAddr.toNat + 32 * a.cqNext) bytes) vcReq
        (.adminRecord p (a.intrEn || r.intr))

/-- COMPLETION_WRITE. -/
def completionWrite (t : QueueId) (s : State) : State :=
  match t with
  | .qp q => s.writeRec q
  | .admin p => s.writeAdminRec p

def execCompletionWrite (t : QueueId) (s : State) : Host.Outcome State Fault Refusal := .next (s.quiet.whenLive (completionWrite t))

/-- COAL_TIMEOUT: COAL_TICKS boundaries have passed since the first record not yet signalled; the interrupt waits for the record writes
under way. -/
def coalTimeout (q : Qp) (s : State) : State :=
  match s.qp q with
  | none => s
  | some x => match x.coalAge with
    | none => s
    | some age =>
      if x.cfg.coalTicks = 0 ∨ age < x.cfg.coalTicks then s
      else
        let y : QPair := { x with sinceIntr := 0, coalAge := none }
        if x.unacked = 0 then (s.setQp q y).signalQp q else s.setQp q { y with intrDue := true }

def execCoalTimeout (q : Qp) (s : State) : Host.Outcome State Fault Refusal := .next (s.quiet.whenLive (coalTimeout q))

end Sys2Proof.Machine
end

