-- ==== Sys2Proof/Machine/Power.lean ====
section
/-! DEFINITION. Reference clocks, power feeds, ceilings, thermal limits and the orderly shut-down (spec/15). -/

namespace Sys2Proof.Machine

/-! Reference clocks (R529, R560). -/

def State.whenPowered (s : State) (f : State → State) : State := if s.plt.powered then s.settle (f s) else s

def otherSide : Side → Side
  | .a => .b
  | .b => .a

def sideNat : Side → Nat
  | .a => 0
  | .b => 1

def Plt.lostRef (x : Plt) : Side → Bool
  | .a => x.aLost
  | .b => x.bLost

/-- A reference is lost, or runs again; its A_OK or B_OK follows once the logic has left reset (R560). -/
def Plt.setRef (x : Plt) (r : Side) (lost : Bool) : Plt :=
  match r with
  | .a => { x with aLost := lost, aOk := if x.resetHeld then x.aOk else !lost }
  | .b => { x with bLost := lost, bOk := if x.resetHeld then x.bOk else !lost }

/-- Every port that is not DISABLED starts a retrain (R529 step 2). -/
def State.retrainAll (s : State) (cause : Nat) : State :=
  (List.finRange 34).foldl (fun st p => if (st.link p).state = .disabled then st else st.startLinkRetrain p cause) s

/-- Tick distribution as a chip-level unit (R221). -/
def unitTick : BitVec 16 := 0xA005#16

/-- REFCLK_LOST: when the reference in use is lost the PLLs move to the other one, if that runs, and the ports retrain. -/
def refclkLost (r : Side) (s : State) : State :=
  if s.plt.lostRef r then s
  else
    let s1 := s.setPlt (s.plt.setRef r true)
    if s.plt.inUse ≠ r ∨ !s.live then s1
    else
      let moved := !s1.plt.lostRef (otherSide r)
      let s2 := if moved then s1.setPlt { s1.plt with inUse := otherSide r, switched := true } else s1
      (s2.retrainAll 1).raise (mkReport 0x0C 0x02 1 unitTick (sideNat r) (sideNat s2.plt.inUse))

def execRefclkLost (r : Side) (s : State) : Host.Outcome State Fault Refusal := .next (s.quiet.whenPowered (refclkLost r))

/-- REFCLK_RETURN: with the reference in use lost, the PLLs relock to the one that runs again (R529 step 1). -/
def refclkReturn (r : Side) (s : State) : State :=
  let x := s.plt.setRef r false
  s.setPlt (if x.lostRef x.inUse ∧ !x.resetHeld then { x with inUse := r, switched := true } else x)

def execRefclkReturn (r : Side) (s : State) : Host.Outcome State Fault Refusal := .next (s.quiet.whenPowered (refclkReturn r))

/-- REFCLK_BOTH_LOST_TIMEOUT: a chip fault on tick distribution. -/
def refclkBothLostTimeout (s : State) : State := if s.refRuns then s else s.nodeFatal unitTick

def execRefclkBothLostTimeout (s : State) : Host.Outcome State Fault Refusal := .next (s.quiet.whenLive refclkBothLostTimeout)

/-! Feeds (R546 to R549). The feed controllers stand on the package and work whatever the die does. -/

def Plt.present (x : Plt) : Side → Bool
  | .a => x.aPresent
  | .b => x.bPresent

def Plt.health (x : Plt) : Side → Health
  | .a => x.aHealth
  | .b => x.bHealth

def Plt.setPresent (x : Plt) (f : Side) (v : Bool) : Plt :=
  match f with
  | .a => { x with aPresent := v }
  | .b => { x with bPresent := v }

def Plt.setHealth (x : Plt) (f : Side) (h : Health) : Plt :=
  match f with
  | .a => { x with aHealth := h }
  | .b => { x with bHealth := h }

/-- A handover begins (R547): in BOX mode the lease passes to the controller that takes the load. -/
def Plt.begin (x : Plt) (target : Side) (proving : Bool) : Plt :=
  { x with handover := some ⟨target, x.feedMode, proving⟩, lease := if x.feedMode then some target else x.lease }

/-- The holder role passes. -/
def Plt.take (x : Plt) (target : Side) (box : Bool) : Plt :=
  { x with holder := target, handover := none, lease := if box then some target else none }

/-- FEED_LOST: the loss of the holder's feed moves the load without waiting for an interval; a loss during a handover ends it with the
controller whose feed is present. -/
def feedLost (f : Side) (s : State) : State :=
  let x := { (s.plt.setPresent f false) with feedLost := s.plt.feedLost ||| BitVec.ofNat 2 (2 ^ sideNat f) }
  let o := otherSide f
  let (y, done) : Plt × Bool := match x.handover with
    | some h => if x.present o then (x.take o h.box, h.target == o) else (x, false)
    | none => if x.holder = f ∧ x.present o then (x.begin o false, false) else (x, false)
  let after : Side := match y.handover with
    | some h => h.target
    | none => y.holder
  let s1 := s.setPlt y
  let s2 := if done then s1.tally (ctrPlt 0 0) else s1
  s2.raise (mkReport 0x0C 0x03 1 unitChip (sideNat f) (sideNat after))

def execFeedLost (f : Side) (s : State) : Host.Outcome State Fault Refusal := .next (s.quiet.whenPowered (feedLost f))

/-- FEED_RETURN. -/
def execFeedReturn (f : Side) (s : State) : Host.Outcome State Fault Refusal :=
  .next (s.quiet.whenPowered (fun st => st.setPlt (st.plt.setPresent f true)))

/-- PROVE_HANDOVER: the proving interval ends with both feeds present and no controller FAILED; a DEGRADED one is proven again. -/
def proveHandover (s : State) : State :=
  let x := s.plt
  if !x.proveEn || !x.aPresent || !x.bPresent || x.aHealth == .failed || x.bHealth == .failed || x.provingStopped || x.handover.isSome then s
  else s.setPlt (x.begin (otherSide x.holder) true)

def execProveHandover (s : State) : Host.Outcome State Fault Refusal := .next (s.quiet.whenPowered proveHandover)

/-- HANDOVER_COMPLETE: the roles swap, and a controller that was DEGRADED has proven itself. -/
def handoverComplete (s : State) : State :=
  match s.plt.handover with
  | none => s
  | some h =>
    let x := s.plt.take h.target h.box
    (s.setPlt (if x.health h.target = .degraded then x.setHealth h.target .healthy else x)).tally (ctrPlt 0 0)

def execHandoverComplete (s : State) : Host.Outcome State Fault Refusal := .next (s.quiet.whenPowered handoverComplete)

/-- HANDOVER_TIMEOUT (R548): the old holder keeps the load; the new controller is DEGRADED, and FAILED at its second failure in a row. -/
def handoverTimeout (s : State) : State :=
  match s.plt.handover with
  | none => s
  | some h =>
    let failed : Bool := s.plt.health h.target != .healthy
    let x := s.plt.setHealth h.target (if failed then .failed else .degraded)
    let y := { x with handover := none, lease := if h.box then some x.holder else x.lease, provingStopped := x.provingStopped || failed }
    ((s.setPlt y).tally (ctrPlt 1 0)).raise (mkReport 0x0C 0x04 1 unitChip (sideNat h.target) (if failed then 2 else 1))

def execHandoverTimeout (s : State) : Host.Outcome State Fault Refusal := .next (s.quiet.whenPowered handoverTimeout)

/-- LEASE_RENEW: the holder's lease runs on from now. The lease's age is the supervisor's; its lapse is a command of its own. -/
def execLeaseRenew (s : State) : Host.Outcome State Fault Refusal := .next (s.quiet.whenPowered id)

/-- The holder has lost its lease (R547): it stops regulating at once and the other controller claims it. -/
def leaseEnds (s : State) : State :=
  match s.plt.lease with
  | none => s
  | some h => s.setPlt { s.plt with lease := some (otherSide h), holder := otherSide h, handover := none }

/-- LEASE_LAPSE. -/
def execLeaseLapse (s : State) : Host.Outcome State Fault Refusal := .next (s.quiet.whenPowered leaseEnds)

/-- LEASE_REVOKE. -/
def execLeaseRevoke (s : State) : Host.Outcome State Fault Refusal := .next (s.quiet.whenPowered leaseEnds)

/-! Ceilings and duties (R550 to R554). -/

def State.setBlockPwr (s : State) (n : Nat) (x : PowerUnit) : State :=
  s.setPlt { s.plt with blockPwr := mset blockReset s.plt.blockPwr n x }

def State.setStackPwr (s : State) (n : Nat) (x : PowerUnit) : State :=
  s.setPlt { s.plt with stackPwr := mset stackReset s.plt.stackPwr n x }

/-- One control sample (R551): the written ceiling takes effect, the estimate joins the last 8 and those of the last 1 ms, and the duty moves
by one. -/
def PowerUnit.sample (x : PowerUnit) (estimate : Nat) : PowerUnit :=
  let means := (x.means ++ [estimate]).drop (x.means.length - 7)
  let total := means.sum
  let ceil := x.ceilNext.toNat * means.length
  let duty := if ceil < total then x.duty - 1 else if 16 * total < 15 * ceil then min 16 (x.duty + 1) else x.duty
  { x with ceil := x.ceilNext, means := means, recent := (x.recent ++ [estimate]).drop (x.recent.length - 999), duty := duty }

/-- The mean of a unit's estimates over the last 1 ms, in whole W (R519). -/
def PowerUnit.meanW (x : PowerUnit) : Nat := x.recent.sum / (8 * max 1 x.recent.length)

/-- The duty's first fall below 16. -/
def State.throttleReport (s : State) (was now : PowerUnit) (unit : BitVec 16) : State :=
  if was.duty = 16 ∧ now.duty < 16 then s.raise (mkReport 0x0C 0x06 0 unit now.ceil.toNat now.meanW) else s

/-- POWER_SAMPLE: a block's or stack's estimate of this microsecond, in 1/8 W. -/
def powerSample (isStack : Bool) (n estimate : Nat) (s : State) : State :=
  if isStack then
    if 12 ≤ n then s
    else
      let x := s.stackPwr n
      let y := x.sample estimate
      let s1 := (s.setStackPwr n y).throttleReport x y (unitStack n)
      if y.duty < 16 then s1.tally (ctrPlt 3 n) else s1
  else if 64 ≤ n then s
  else
    let x := s.blockPwr n
    let y := x.sample estimate
    let s1 := (s.setBlockPwr n y).throttleReport x y (unitBlock ⟨n % 64, Nat.mod_lt _ (by decide)⟩)
    if y.duty < 16 ∨ y.thermDuty < 16 ∨ (s.zone (n / 8)).duty < 16 then s1.tally (ctrPlt 2 n) else s1

def execPowerSample (isStack : Bool) (n estimate : Nat) (s : State) : Host.Outcome State Fault Refusal :=
  .next (s.quiet.whenLive (powerSample isStack n estimate))

/-- BLOCK_THERM_SAMPLE (R553), and the trip of R554. -/
def blockThermSample (b : BlockId) (temp : BitVec 8) (s : State) : State :=
  let x := s.blockPwr b.val
  let d := if s.plt.thermOn.toInt ≤ temp.toInt then x.thermDuty - 1
    else if temp.toInt ≤ s.plt.thermOff.toInt then min 16 (x.thermDuty + 1) else x.thermDuty
  let s1 := s.setBlockPwr b.val { x with thermDuty := d, temp := temp }
  if 120 ≤ temp.toInt then s1.thermalTrip (unitBlock b) else s1

def execBlockThermSample (b : BlockId) (temp : BitVec 8) (s : State) : Host.Outcome State Fault Refusal :=
  .next (s.quiet.whenLive (blockThermSample b temp))

/-- ENVELOPE_W and FIXED_W (R550, R562). -/
def envelopeW : Nat := if Config.aq then 720 else 1150
def fixedW : Nat := 410

/-- The sum of the 76 ceilings, in 1/8 W, as they stand once what is written has taken effect. -/
def State.ceilSum (s : State) : Nat :=
  ((List.range 64).map (fun n => (s.blockPwr n).ceilNext.toNat)).sum + ((List.range 12).map (fun n => (s.stackPwr n).ceilNext.toNat)).sum

/-- A ceiling is written: one that would take the sum over the envelope has no effect (R550). -/
def State.writeCeiling (s : State) (isStack : Bool) (n : Nat) (v : BitVec 10) : State :=
  if (if isStack then 12 else 64) ≤ n then s
  else
    let old := if isStack then (s.stackPwr n).ceilNext.toNat else (s.blockPwr n).ceilNext.toNat
    if envelopeW * 8 < s.ceilSum - old + v.toNat + fixedW * 8 then s
    else if isStack then s.setStackPwr n { s.stackPwr n with ceilNext := v }
    else s.setBlockPwr n { s.blockPwr n with ceilNext := v }

/-- CEILING_WRITE: over the management port only. -/
def ceilingWrite (via : RegPath) (isStack : Bool) (n : Nat) (v : BitVec 10) (s : State) : State :=
  if via = .mgmt then s.writeCeiling isStack n v else s

def execCeilingWrite (via : RegPath) (isStack : Bool) (n : Nat) (v : BitVec 10) (s : State) : Host.Outcome State Fault Refusal :=
  .next (s.quiet.whenLive (ceilingWrite via isStack n v))

/-! Orderly shut-down (R555 to R558). -/

/-- The last step: PHASE becomes OFF_READY and SHDN_DONE is driven high. -/
def State.offReady (s : State) : State := s.setPlt { s.plt with phase := .offReady, shdnDone := true, shut := .done }

/-- A shut-down asked for before READY (R555). -/
def State.earlyOff (s : State) : State := (s.appendShut 3 0xFFFF#16).offReady

/-- SHUTDOWN_REQUEST: before READY the record is of KIND EARLY, and no drain or self-test follows; a handover under way completes first (R549). -/
def shutdownRequest (s : State) : State :=
  match s.plt.phase with
  | .ready => if s.plt.shut = .none then s.setPlt { s.plt with shut := .asked 0 } else s
  | .shutdown => s
  | .offReady => s
  | .tripped => s
  | _ => if s.plt.handover.isSome then s.setPlt { s.plt with shut := .early } else s.earlyOff

def execShutdownRequest (s : State) : Host.Outcome State Fault Refusal := .next (s.quiet.whenLive shutdownRequest)

/-- SHUTDOWN_START: at step 10 of the next boundary fetching and admission stop; a handover under way completes first (R549). One asked for
before READY, which waited for its handover, ends at once. -/
def shutdownStart (s : State) : State :=
  match s.plt.shut with
  | .asked n =>
    if n < 1 ∨ s.plt.handover.isSome then s
    else (s.setPlt { s.plt with phase := .shutdown, shut := .draining }).raise (mkReport 0x0C 0x07 0 unitChip s.plt.drainMs.toNat 0)
  | .early => if s.plt.handover.isSome then s else s.earlyOff
  | _ => s

def execShutdownStart (s : State) : Host.Outcome State Fault Refusal := .next (s.quiet.whenLive shutdownStart)

/-- A port goes to DISABLED with the shut-down, and its requests are settled. -/
def State.disablePort (s : State) (p : LinkPort) : State :=
  let l := s.link p
  if l.state = .disabled then s
  else (if l.fresh then s else s.settleLoss p).modLink p (fun x => { x with state := .disabled, lossTimer := false, retraining := false })

/-- Work is still held, or a record or verdict of it is still to be written (R556 step 2). -/
def State.owing (s : State) : Bool :=
  s.que.qps.any (fun q => !q.2.held.isEmpty || !q.2.recs.isEmpty || q.2.unacked != 0) || !s.ras.verdicts.isEmpty

/-- Steps 3 and 4 of the shut-down: the ports go to DISABLED, and the PENDING record is written. -/
def State.closePorts (s : State) : State :=
  let s1 := ((List.finRange 34).foldl (fun st p => st.disablePort p) s).appendShut 1 0xFFFF#16
  s1.setPlt { s1.plt with shut := .testing }

/-- SHUTDOWN_DRAIN_END: every descriptor still held is aborted. The ports go to DISABLED once nothing is left to be written, or at the
command's second coming (DESIGN CHOICE: log entry 144). -/
def shutdownDrainEnd (s : State) : State :=
  match s.plt.shut with
  | .draining =>
    if s.owing then
      let s1 := s.que.qps.foldl (fun st q => (st.abortQp ⟨q.1 % 4096, Nat.mod_lt _ (by decide)⟩ (fun _ => true)).2) s
      s1.setPlt { s1.plt with shut := .closing }
    else s.closePorts
  | .closing => s.closePorts
  | _ => s

def execShutdownDrainEnd (s : State) : Host.Outcome State Fault Refusal := .next (s.quiet.whenLive shutdownDrainEnd)

/-- LBIST_DONE: the last slice ends; the verdict and the CLEAN record are stored (R569, R570). -/
def lbistDone (failMask : BitVec 128) (s : State) : State :=
  if s.plt.shut ≠ .testing then s
  else
    let s1 := s.setFlash { s.plt.flash with verdict := some (s.lbistRecord (failMask &&& (BitVec.ofNat 128 (2 ^ 70 - 1)))) }
    (s1.appendShut 2 0xFFFF#16).offReady

def execLbistDone (failMask : BitVec 128) (s : State) : Host.Outcome State Fault Refusal := .next (s.quiet.whenLive (lbistDone failMask))

end Sys2Proof.Machine
end

