-- ==== Sys2Proof/Machine/Debug.lean ====
section
/-! DEFINITION. In-service tests, the health record, counters over the management port, the trace slots, and reading the fatal dump
(spec/16). -/

namespace Sys2Proof.Machine

/-! In-service tests (R573 to R575). -/

/-- A unit holds a test slot of the last boundary: a cell, the router (its paths), or a memory channel (its encoder and decoder). -/
def State.isvHolds (s : State) (u : BitVec 16) : Bool :=
  let i := u.toNat % 4096
  match u.toNat / 4096 with
  | 3 => decide (i < 1024) && (s.ras.isvSlots.any (fun b => b.val == i / 16)) && mget 0 s.ras.isvCell (i / 16) == i % 16
  | 7 => s.ras.isvEccSlot.any (fun c => c.val == i && decide (c.val < 384))
  | 8 => s.ras.isvEccSlot.any (fun c => c.val == 384 + i)
  | 10 => s.ras.isvRouterSlot && u == unitRouter
  | _ => false

/-- A unit's test slot ends. -/
def State.isvEnd (s : State) (u : BitVec 16) : State :=
  let i := u.toNat % 4096
  let r := s.ras
  let r1 := match u.toNat / 4096 with
    | 3 => { r with isvSlots := r.isvSlots.filter (fun b => b.val != i / 16) }
    | 7 => { r with isvEccSlot := r.isvEccSlot.filter (fun c => c.val != i) }
    | 8 => { r with isvEccSlot := r.isvEccSlot.filter (fun c => c.val != 384 + i) }
    | _ => { r with isvRouterSlot := false }
  { s with ras := { r1 with isvFirst := r.isvFirst.filter (· != u) } }

/-- A cell has been tested; when every cell in service has been, a pass is complete (R576). -/
def State.isvTested (s : State) (u : BitVec 16) : State :=
  if u.toNat / 4096 ≠ 3 then s
  else
    let c : CellId := ⟨u.toNat % 1024, Nat.mod_lt _ (by decide)⟩
    let done := if s.ras.isvTested.contains c then s.ras.isvTested else s.ras.isvTested ++ [c]
    if (List.finRange 1024).all (fun x => !s.cellOnline x || done.contains x) then
      { s with ras := { s.ras with isvTested := [], isvPasses := s.ras.isvPasses + 1 } }
    else { s with ras := { s.ras with isvTested := done } }

/-- A unit that failed an in-service test twice is handled at the level of R52 (R575). -/
def State.isvFault (s : State) (u : BitVec 16) : State :=
  if u.toNat / 4096 = 7 then s.failStack (u.toNat % 4096 / 32) (2 ^ (u.toNat % 32)) 0
  else s.unitFailed u

/-- ISV_TEST_DONE: a first failure is repeated at once on the same unit, a second is a fault of it. -/
def isvTestDone (u : BitVec 16) (test : Nat) (pass : Bool) (s : State) : State :=
  if !s.isvHolds u then s
  else
    let s1 := s.tally (ctrRas 6)
    if pass then (s1.isvEnd u).isvTested u
    else
      let s2 := s1.tally (ctrRas 7)
      if s2.ras.isvFirst.contains u then ((s2.isvEnd u).raise (mkReport 0x0D 0x03 1 u test 0)).isvFault u
      else { s2 with ras := { s2.ras with isvFirst := s2.ras.isvFirst ++ [u] } }

def execIsvTestDone (unit : BitVec 16) (test : Nat) (pass : Bool) (s : State) : Host.Outcome State Fault Refusal :=
  .next (s.quiet.whenLive (isvTestDone unit test pass))

/-! The health record (R576). -/

/-- Check blocks in force that are online (R223). -/
def State.checkOnline (s : State) : Nat := (s.ras.checkBlocks.filter s.blockOnline).length

def Health.code : Health → Nat
  | .healthy => 0
  | .degraded => 1
  | .failed => 2

/-- A mask of the indices below n that a test picks. -/
def maskOf (n : Nat) (f : Nat → Bool) : Nat := (List.range n).foldl (fun m i => if f i then m + 2 ^ i else m) 0

def State.tflHas (s : State) (f : Link → Bool) : Nat := maskOf 32 (fun i => f (s.link ⟨i % 34, Nat.mod_lt _ (by decide)⟩))

/-- The 128-byte health record. -/
def State.healthRecord (s : State) : List Byte :=
  let x := s.plt
  let flags := bitNat s.dbg.fatal 0 + bitNat x.abruptLast 1 + bitNat s.sec.debugUnlocked 2 + bitNat s.recovering 3 + bitNat s.dbg.reduced 4
  let fenced := ((List.finRange 64).map s.fencedCount).sum
  let regions := maskOf 8 (fun i => !s.regionOnline ⟨i % 8, Nat.mod_lt _ (by decide)⟩)
  let zones := maskOf 8 (fun i => decide ((mget Zone.reset s.mem.zones i).duty < 16))
  let blocks := maskOf 64 (fun i => !s.blockOnline ⟨i % 64, Nat.mod_lt _ (by decide)⟩)
  let failedStacks := maskOf 12 (fun i => (s.stack i).failed)
  let feeds := x.aHealth.code + 4 * x.bHealth.code + bitNat x.aPresent 4 + bitNat x.bPresent 5
  [0x01#8, BitVec.ofNat 8 x.phase.code] ++ natBytes 2 flags ++ natBytes 2 fenced ++ natBytes 1 regions ++ natBytes 1 zones ++
    natBytes 8 blocks ++ natBytes 2 failedStacks ++ natBytes 1 feeds ++ natBytes 1 s.checkOnline ++
    natBytes 4 (s.tflHas (fun l => l.state == .active)) ++ natBytes 4 (s.tflHas (fun l => l.degraded != 0#8)) ++
    natBytes 4 (s.dbg.lbistAge.getD 0xFFFFFFFF) ++ bytesOf s.dbg.lbistMask 16 ++ natBytes 8 s.ras.isvPasses ++
    bytesOf s.tide.count 8 ++ List.replicate 64 0#8

/-- HEALTH_READ, also of a fatal node (R589). -/
def healthRead (s : State) : State := s.reply 0x41#8 0 s.healthRecord

def execHealthRead (s : State) : Host.Outcome State Fault Refusal := .next (s.quiet.whenAwake healthRead)

/-! Counters (R579). -/

/-- CNT_READ_CLEAR: every offset must name a counter, else nothing is read or cleared. -/
def cntReadClear (offset : W32) (count : BitVec 16) (s : State) : State :=
  let offs := (List.range count.toNat).map (fun i => offset.toNat + 8 * i)
  if count.toNat = 0 ∨ 64 < count.toNat then s.reply 0x40#8 7 []
  else if offs.any (fun o => (ctrName o).isNone) then s.reply 0x40#8 7 []
  else
    let vs := offs.flatMap (fun o => bytesOf (ctrValue (s.counter o)) 8)
    ({ s with ctr := s.ctr.filter (fun e => !offs.contains e.1) }).reply 0x40#8 0 vs

def execCntReadClear (offset : W32) (count : BitVec 16) (s : State) : Host.Outcome State Fault Refusal :=
  .next (s.quiet.whenLive (cntReadClear offset count))

/-! Trace slots (R582 to R585, R594). -/

def State.trace (s : State) (k : Nat) : TraceSlot := mget TraceSlot.reset s.dbg.traces k

def State.setTrace (s : State) (k : Nat) (x : TraceSlot) : State :=
  { s with dbg := { s.dbg with traces := mset TraceSlot.reset s.dbg.traces k x } }

/-- A path may write a slot that names a queue pair: the management port any, a port's window those that the port created. -/
def State.tracePath (s : State) (via : RegPath) (q : Qp) : Bool :=
  match via with
  | .mgmt => true
  | .window p => (s.qp q).elim false (fun x => x.cfg.port == p)

/-- A write of DBG_TRACE_CTRL: an INTERVAL above 8 is reserved and keeps the old one (R6). Samples staged for another queue pair are
not kept. -/
def State.writeTraceCtrl (s : State) (via : RegPath) (k : Nat) (v : W32) : State :=
  let x := s.trace k
  let q : Qp := ⟨(v.extractLsb' 16 12).toNat, (v.extractLsb' 16 12).isLt⟩
  if !s.tracePath via q || (x.enable && !(s.qp x.qp).isNone && !s.tracePath via x.qp) then s
  else
    let i := v.extractLsb' 1 4
    let y := { x with enable := v.getLsbD 0, interval := if 8 < i.toNat then x.interval else i, qp := q }
    s.setTrace k (if q = x.qp then y else { y with staged := [], dropped := 0 })

/-- A write of DBG_TRACE_RING: a LOG outside 8 to 20 is reserved. -/
def State.writeTraceRing (s : State) (via : RegPath) (k : Nat) (v : W64) : State :=
  let x := s.trace k
  if !s.tracePath via x.qp then s
  else
    let n := v.extractLsb' 0 5
    s.setTrace k { x with log := if n.toNat < 8 ∨ 20 < n.toNat then x.log else n, addr := v.extractLsb' 12 42 }

/-- A write of DBG_TRACE_HEAD releases records. -/
def State.writeTraceHead (s : State) (via : RegPath) (k : Nat) (v : BitVec 20) : State :=
  let x := s.trace k
  if s.tracePath via x.qp then s.setTrace k { x with head := v.toNat } else s

/-- TRACE_CTRL_WRITE. -/
def traceCtrlWrite (via : RegPath) (slot : Fin 16) (v : W32) (s : State) : State := s.writeTraceCtrl via slot.val v

def execTraceCtrlWrite (via : RegPath) (slot : Fin 16) (v : W32) (s : State) : Host.Outcome State Fault Refusal :=
  .next (s.quiet.whenLive (traceCtrlWrite via slot v))

/-- TRACE_HEAD_WRITE. -/
def traceHeadWrite (via : RegPath) (slot : Fin 16) (v : BitVec 20) (s : State) : State := s.writeTraceHead via slot.val v

def execTraceHeadWrite (via : RegPath) (slot : Fin 16) (v : BitVec 20) (s : State) : Host.Outcome State Fault Refusal :=
  .next (s.quiet.whenLive (traceHeadWrite via slot v))

def TraceSlot.size (x : TraceSlot) : Nat := 2 ^ x.log.toNat

/-- The ring has no entry that the consumer has released (R437, R585). -/
def TraceSlot.full (x : TraceSlot) : Bool := (x.next + 1) % x.size == x.head % x.size

/-- A sample joins those staged in its cell, at most 64 of them, or is dropped and counted (R584, R585). -/
def State.stageSample (s : State) (k : Nat) (c : CellId) (r : TraceRec) : State :=
  let x := s.trace k
  if 64 ≤ (x.staged.filter (fun e => e.1 == c)).length ∨ x.full then (s.setTrace k { x with dropped := x.dropped + 1 }).tally (ctrDbg 1 k)
  else s.setTrace k { x with staged := x.staged ++ [(c, r)] }

/-- TRACE_SAMPLE: the sample falls due in a cell of a traced run; the sequencer's state in the sampled clock is its stall code. -/
def traceSample (c : CellId) (clock : BitVec 16) (stall : BitVec 8) (s : State) : State :=
  let x := s.cell c
  match x.occupant with
  | none => s
  | some (n, lc) =>
    match s.op n, s.run n with
    | some o, some r =>
      let step := match x.tile with
        | some t => t.step
        | none => (tget r.lcs lc).elim 0 (fun l => l.step)
      let figure := match x.tile with
        | some t => BitVec.ofNat 8 t.fig
        | none => 0xFF#8
      let rec_ : TraceRec := { tick := s.tide.count.extractLsb' 0 32, clock := clock, cell := BitVec.ofNat 16 (lc % 1024), loss := false,
                               figure := figure, stall := stall, step := BitVec.ofNat 32 step }
      (List.range 16).foldl (fun st k =>
        if (st.trace k).enable && (st.trace k).qp == o.qp then st.stageSample k c rec_ else st) s
    | _, _ => s

def execTraceSample (c : CellId) (clock : BitVec 16) (stall : BitVec 8) (s : State) : Host.Outcome State Fault Refusal :=
  .next (s.quiet.whenLive (traceSample c clock stall))

/-- The 16 bytes of a trace record (R583). -/
def traceBytes (r : TraceRec) (phase : Bool) : List Byte :=
  bytesOf r.tick 4 ++ bytesOf r.clock 2 ++ bytesOf r.cell 2 ++ natBytes 1 (bitNat r.loss 0 + bitNat phase 7) ++ [r.figure, r.stall, 0#8] ++
    bytesOf r.step 4

/-- The record a slot writes next: a loss marker after a drop, else the oldest sample; and the slot without it. -/
def State.traceNext (s : State) (k : Nat) : Option (TraceRec × TraceSlot × State) :=
  let x := s.trace k
  if x.dropped = 0 then
    match x.staged with
    | [] => none
    | (_, r) :: rest => some (r, { x with staged := rest }, s)
  else
    let (n, s1) := s.draw
    let f := Config.lossBytes n
    some ({ tick := s.tide.count.extractLsb' 0 32, clock := f.extractLsb' 0 16, cell := (f.extractLsb' 16 10).setWidth 16, loss := true,
            figure := f.extractLsb' 32 8, stall := f.extractLsb' 40 8, step := BitVec.ofNat 32 (min x.dropped 0xFFFFFFFF) },
          { x with dropped := 0 }, s1)

/-- TRACE_WRITE: the slot's next record goes to its ring, under the rights of the queue pair's endpoint; a refusal stops the slot. -/
def traceWrite (slot : Fin 16) (s : State) : State :=
  let k := slot.val
  let x := s.trace k
  match s.qp x.qp with
  | none => s
  | some q =>
    if !x.enable || x.full then s
    else match s.traceNext k with
    | none => s
    | some (r, y, s1) =>
      let acc := accWrite q.cfg.ep (s.authOf q)
      let i := x.next % x.size
      let a : W64 := (x.addr.setWidth 64 <<< 12) + BitVec.ofNat 64 (16 * i)
      if s.poolBusy acc a 16 then s
      else match s1.writePool acc q.cfg.tenant a (traceBytes r x.phase) [] noIo with
      | (.error st, s2) =>
        (s2.setTrace k { x with enable := false }).raise (mkReport 0x0D 0x05 0 unitChip k st.toNat)
      | (.ok _, s2) =>
        (s2.setTrace k { y with next := (i + 1) % x.size, phase := x.phase != decide (i + 1 = x.size) }).tally (ctrDbg 0 k)

def execTraceWrite (slot : Fin 16) (s : State) : Host.Outcome State Fault Refusal := .next (s.quiet.whenLive (traceWrite slot))

/-! The dump (R591). -/

/-- A byte of the dump as the dump area holds it: its header, and sections whose contents the manual does not lay out. -/
def State.dumpByteAt (s : State) (i : Nat) : Byte := if i < 4096 then mget 0 s.mem.bytes (dumpKey i) else Config.dumpByte s.dbg.dumpSerial i

/-- DUMP_READ: a range of the dump that stands in the dump area. -/
def dumpRead (offset length : W32) (s : State) : State :=
  let n := length.toNat
  if s.dbg.dumpState = .none ∨ s.dbg.dumpState = .writing ∨ s.dbg.dumpState = .failed then s.reply 0x42#8 3 []
  else if n = 0 ∨ n % 64 ≠ 0 ∨ 2 ^ 20 < n ∨ s.dbg.dumpBytes < offset.toNat + n then s.reply 0x42#8 7 []
  else s.reply 0x42#8 0 ((List.range n).map (fun i => s.dumpByteAt (offset.toNat + i)))

def execDumpRead (offset length : W32) (s : State) : Host.Outcome State Fault Refusal := .next (s.quiet.whenAwake (dumpRead offset length))

/-- DUMP_CLEAR. -/
def dumpClear (s : State) : State :=
  ({ s with dbg := { s.dbg with dumpState := .none, dumpHeader := [], dumpBytes := 0 } }).reply 0x43#8 0 []

def execDumpClear (s : State) : Host.Outcome State Fault Refusal := .next (s.quiet.whenAwake dumpClear)

end Sys2Proof.Machine
end

