-- ==== Sys2Proof/Machine/Security.lean ====
section
/-! DEFINITION. Headland's commands (spec/14): the mailbox and the management port, sessions, attestation, tenants and their keys, sealed
extents, link keys, teardown, firmware, debug unlock and fuses. -/

namespace Sys2Proof.Machine

/-! Messages arrive (R487, R495). -/

/-- A write of GO through the register path (R7, R524): the mailbox is busy until Headland, in MBOX_GO, has read the request buffer. -/
def State.writeGo (s : State) (p : PlPort) (v : W32) : State :=
  let m := s.mbox p
  if !v.getLsbD 0 || m.busy || !s.windowsServed then s else s.setMbox p { m with busy := true, asked := true }

/-- MBOX_GO: a write of GO, or the read of the request buffer that one has asked for; msg is what Headland reads from the buffer. -/
def mboxGo (p : PlPort) (msg : List Byte) (s : State) : State :=
  let m := s.mbox p
  if (m.busy && !m.asked) || !s.windowsServed then s
  else (s.setMbox p { m with busy := true, asked := false }).headReceive (some p) 0#64 (List.takeD m.reqLen.toNat msg 0#8)

def execMboxGo (p : PlPort) (msg : List Byte) (s : State) : Host.Outcome State Fault Refusal :=
  .next (s.quiet.whenAwake (mboxGo p msg))

/-- MGMT_DATAGRAM: one fragment; the last to come makes the message whole. -/
def mgmtDatagram (src : W64) (msgNo : W32) (frag count : BitVec 16) (bytes : List Byte) (s : State) : State :=
  if !s.windowsServed ∨ count.toNat ≤ frag.toNat ∨ 1400 < bytes.length then s
  else
    let isIt (f : FragSet) : Bool := f.src == src && f.msgNo == msgNo
    let old : FragSet := (s.sec.frags.find? isIt).getD ⟨src, msgNo, count.toNat, []⟩
    let now : FragSet := { old with frags := tput old.frags frag.toNat bytes }
    let rest := s.sec.frags.filter (fun f => !isIt f)
    if old.count ≠ count.toNat then s
    else if now.frags.length < now.count then { s with sec := { s.sec with frags := rest ++ [now] } }
    else ({ s with sec := { s.sec with frags := rest } }).headReceive none src (tvals now.frags).flatten

def execMgmtDatagram (src : W64) (msgNo : W32) (frag count : BitVec 16) (bytes : List Byte) (s : State) :
    Host.Outcome State Fault Refusal :=
  .next (s.quiet.whenAwake (mgmtDatagram src msgNo frag count bytes))

/-- MGMT_FRAGMENT_TIMEOUT: an incomplete message is discarded, and nothing is answered. -/
def mgmtFragmentTimeout (src : W64) (msgNo : W32) (s : State) : State :=
  { s with sec := { s.sec with frags := s.sec.frags.filter (fun f => !(f.src == src && f.msgNo == msgNo)) } }

def execMgmtFragmentTimeout (src : W64) (msgNo : W32) (s : State) : Host.Outcome State Fault Refusal :=
  .next (s.quiet.whenAwake (mgmtFragmentTimeout src msgNo))

/-! Attestation (R491, R497, R498). -/

/-- Bytes of a body that must be zero. -/
def bodyZero (b : List Byte) (off n : Nat) : Bool := ((b.drop off).take n).all (· == 0#8)

/-- GET_CERTS. -/
def getCerts (i : Nat) (s : State) : State :=
  headRun i 0x01 (fun m s1 =>
    if m.body.length ≠ 4 ∨ 2 < fieldAt m.body 0 1 ∨ !bodyZero m.body 1 3 then s1.headReply m secBadMsg []
    else
      let c := Config.certificate (fieldAt m.body 0 1) s1.attestBase
      s1.headReply m secOk (natBytes 4 c.length ++ c)) s

def execGetCerts (m : Nat) (s : State) : Host.Outcome State Fault Refusal := .next (s.quiet.whenAwake (getCerts m))

/-- PLT_DEVICE_ID (R4). -/
def deviceId : W32 :=
  BitVec.ofNat 32 (0x0960 + 2 ^ 16 * Config.steppingMinor.toNat + 2 ^ 20 * Config.steppingMajor.toNat + bitNat Config.aq 24)

/-- A slot's state as R507 encodes it. -/
def slotCode : SlotState → Nat
  | .empty => 0
  | .loaded => 1
  | .active => 2
  | .retiring => 3

/-- SEALED_DIGEST's input (R497). -/
def State.sealedBytes (s : State) (t : Tenant) : List Byte :=
  (s.sealedExts t).flatMap (fun e =>
    natBytes 2 e.1 ++ natBytes 2 e.2.baseSlot ++ natBytes 4 e.2.grans.length ++ e.2.rights.flatMap (fun r => bytesOf r 4))

/-- The report's tenant section, bytes 416 to 615 (R497, R498). -/
def State.tenantSection (s : State) : Option Tenant → List Byte
  | none => [0xFF#8, 0xFF#8] ++ List.replicate 198 0#8
  | some t =>
    let x := s.tenant t
    bytesOf (t.setWidth 16) 2 ++ [if x.required then 1#8 else 0#8, BitVec.ofNat 8 (slotCode x.slot0.state + 4 * slotCode x.slot1.state)] ++
      natBytes 4 (s.sealedExts t).length ++ sha3 (x.key.getD []) ++ sha3 (s.sealedBytes t) ++ sha3 x.reelKeys.flatten

/-- The report of R497. -/
def State.attestReport (s : State) (nonce : List Byte) (t : Option Tenant) : List Byte :=
  let flags := bitNat s.sec.debugUnlocked 0 + bitNat s.recovering 1 + bitNat s.sec.released 2 + bitNat t.isSome 3
  let root : List Byte := match s.sec.root with
    | some k => sha3 k
    | none => List.replicate 64 0#8
  let head := natBytes 4 1 ++ natBytes 4 flags ++ bytesOf (Config.deviceSerial.setWidth 64) 8 ++ bytesOf deviceId 4 ++ bytesOf s.sec.svn 4 ++
    bytesOf s.tide.count 8 ++ nonce ++ List.takeD 256 s.sec.measures.flatten 0#8 ++ root ++ s.tenantSection t ++ List.replicate 64 0#8
  List.takeD 5312 (head ++ List.takeD 4627 (Config.attestSign s.attestBase head) 0#8) 0#8

/-- The tenant whose session a message came in. -/
def State.msgTenant (s : State) (m : SecMsg) : Option Tenant :=
  match s.msgSession m with
  | some x => (match x.kind with
    | .tenant t => some t
    | .operator => none)
  | none => none

/-- ATTEST. -/
def attest (i : Nat) (s : State) : State :=
  headRun i 0x02 (fun m s1 =>
    if m.body.length ≠ 64 then s1.headReply m secBadMsg []
    else s1.headReply m secOk (s1.attestReport m.body (s1.msgTenant m))) s

def execAttest (m : Nat) (s : State) : Host.Outcome State Fault Refusal := .next (s.quiet.whenAwake (attest m))

/-! Sessions (R492, R493). -/

/-- SESSION_OPEN: Headland encapsulates to the client's key and signs the handshake so far. -/
def sessionOpen (i : Nat) (s : State) : State :=
  headRun i 0x10 (fun m s1 =>
    let b := m.body
    let tn := fieldAt b 2 2
    if m.prot then s1.headReply m secDenied []
    else if b.length ≠ 1608 ∨ !bodyZero b 1 1 ∨ !bodyZero b 4 4 ∨
        !((fieldAt b 0 1 == 1 && tn == 0xFFFF) || (fieldAt b 0 1 == 2 && decide (tn < 1024))) then s1.headReply m secBadMsg []
    else if 256 ≤ s1.sec.sessions.length then s1.headReply m secFull []
    else
      let (d, s2) := s1.draw
      let nonce := List.takeD 32 (Config.entropy d) 0#8
      let (ct, shared) := Config.mlkemEncaps d (b.drop 40)
      let part := nonce ++ List.takeD 1568 ct 0#8
      let sig := List.takeD 4627 (Config.attestSign s2.attestBase (sha3 (b ++ part))) 0#8
      let n := s2.sec.nextSess
      let x : Session := { kind := if fieldAt b 0 1 = 1 then .operator else .tenant (BitVec.ofNat 10 tn), isOpen := false,
                           transcript := b ++ part ++ sig, shared := shared, certs := [], keyIn := [], keyOut := [], seqIn := 0,
                           seqOut := 0, last := none, port := m.port, update := none }
      (({ s2 with sec := { s2.sec with nextSess := n + 1 } }).setSession n x).headAnswer m secOk (part ++ sig) n) s

def execSessionOpen (m : Nat) (s : State) : Host.Outcome State Fault Refusal := .next (s.quiet.whenAwake (sessionOpen m))

/-- The handshake that a message names. -/
def State.handshake (s : State) (m : SecMsg) : Option Session :=
  match (if m.prot then none else s.session m.sess) with
  | some x => if x.isOpen then none else some x
  | none => none

/-- SESSION_CERT: one certificate of an operator's chain, at most three. -/
def sessionCert (i : Nat) (s : State) : State :=
  headRun i 0x13 (fun m s1 =>
    let n := fieldAt m.body 0 4
    if m.prot then s1.headReply m secDenied []
    else match s1.handshake m with
    | none => s1.headReply m secBadState []
    | some x =>
      if m.body.length ≠ 4 + n ∨ m.body.length < 4 ∨ 16000 < n then s1.headAnswer m secBadMsg [] m.sess
      else if x.kind ≠ .operator ∨ 3 ≤ x.certs.length then s1.headAnswer m secBadState [] m.sess
      else (s1.setSession m.sess { x with certs := x.certs ++ [m.body.drop 4], transcript := x.transcript ++ m.body }).headAnswer m secOk []
        m.sess) s

def execSessionCert (m : Nat) (s : State) : Host.Outcome State Fault Refusal := .next (s.quiet.whenAwake (sessionCert m))

/-- The key that ends a certificate chain beginning under a root: each certificate is signed by the key before it. -/
def chainKey : List Byte → List (List Byte) → Option (List Byte)
  | k, [] => some k
  | k, c :: cs => if Config.certSigned k c then (match Config.certKey c with
    | some k' => chainKey k' cs
    | none => none) else none

/-- The key under which the client's signature must verify (R492 step 3). -/
def State.clientKey (s : State) (x : Session) : Option (List Byte) :=
  match x.kind with
  | .tenant t => (s.tenant t).key
  | .operator => match s.sec.root with
    | some r => if x.certs.isEmpty then none else chainKey r x.certs
    | none => none

/-- SESSION_FINISH. -/
def sessionFinish (i : Nat) (s : State) : State :=
  headRun i 0x11 (fun m s1 =>
    if m.prot then s1.headReply m secDenied []
    else match s1.handshake m with
    | none => s1.headReply m secBadState []
    | some x =>
      if m.body.length ≠ 4627 then s1.headAnswer m secBadMsg [] m.sess
      else
        let good : Bool := match s1.clientKey x with
          | some k => Config.mldsaVerify k (sha3 x.transcript) m.body
          | none => false
        if !good then ((s1.closeSession m.sess).sessionFail m.sess x.kind).headAnswer m secAuthErr [] m.sess
        else
          let k := sha3 (x.shared ++ sha3 (x.transcript ++ m.body))
          (s1.setSession m.sess { x with isOpen := true, keyIn := k.take 32, keyOut := k.drop 32, transcript := [], shared := [] }).headAnswer
            m secOk [] m.sess) s

def execSessionFinish (m : Nat) (s : State) : Host.Outcome State Fault Refusal := .next (s.quiet.whenAwake (sessionFinish m))

/-- SESSION_CLOSE: answered in the session, which then ends. -/
def sessionClose (i : Nat) (s : State) : State :=
  headRun i 0x12 (fun m s1 =>
    match s1.msgSession m with
    | none => s1.headReply m secDenied []
    | some _ => if m.body ≠ [] then s1.headReply m secBadMsg [] else (s1.headReply m secOk []).closeSession m.sess) s

def execSessionClose (m : Nat) (s : State) : Host.Outcome State Fault Refusal := .next (s.quiet.whenAwake (sessionClose m))

/-- SESSION_IDLE_TIMEOUT: 600 s without a message. -/
def execSessionIdleTimeout (sess : W32) (s : State) : Host.Outcome State Fault Refusal :=
  .next (s.quiet.whenAwake (fun st => st.closeSession sess.toNat))

/-- Close every session of a kind. -/
def State.closeSessions (s : State) (f : Session → Bool) : State :=
  { s with sec := { s.sec with sessions := s.sec.sessions.filter (fun e => !f e.2) } }

/-- OPERATOR_ROOT_SET (R494): the first without a session, a new one signed by the current root in an operator's session. -/
def operatorRootSet (i : Nat) (s : State) : State :=
  headRun i 0x20 (fun m s1 =>
    let key := m.body.take 2592
    let sig := m.body.drop 2592
    let isOp : Bool := (s1.msgSession m).any (fun x => x.kind == .operator)
    let store (st : State) : State :=
      { st with sec := { st.sec with root := some key },
                plt := { st.plt with flash := if st.plt.flash.present then { st.plt.flash with root := some key } else st.plt.flash } }
    if m.prot && !isOp then s1.headReply m secDenied []
    else match s1.sec.root with
    | none =>
      if m.body.length ≠ 7219 ∨ !bodyZero sig 0 4627 then s1.headReply m secBadMsg []
      else (store s1).headReply m secOk []
    | some r =>
      if !isOp then s1.headReply m secDenied []
      else if m.body.length ≠ 7219 then s1.headReply m secBadMsg []
      else if !Config.mldsaVerify r key sig then s1.headReply m secAuthErr []
      else ((store s1).headReply m secOk []).closeSessions (fun x => x.isOpen && x.kind == .operator)) s

def execOperatorRootSet (m : Nat) (s : State) : Host.Outcome State Fault Refusal := .next (s.quiet.whenAwake (operatorRootSet m))

/-! Tenants (R499, R513 to R516). -/

/-- A tenant's counters go back to 0 (R580). -/
def State.clearTenant (s : State) (t : Tenant) : State :=
  (List.range 9).foldl (fun (st : State) k =>
    { st with ctr := mset 0 st.ctr (ctrTen k t.toNat) 0,
              dbg := { st.dbg with tenRem := mset 0 st.dbg.tenRem (k * 1024 + t.toNat) 0 } }) s

/-- A tenant is in teardown: from TENANT_REMOVE's acceptance to its answer. -/
def TenantRec.leaving (x : TenantRec) : Bool := x.removing.isSome || x.fenced

/-- TENANT_BIND. -/
def tenantBind (i : Nat) (s : State) : State :=
  headRun i 0x21 (headOperator (fun m _ s1 =>
    let t := BitVec.ofNat 10 (fieldAt m.body 0 2)
    let x := s1.tenant t
    if m.body.length ≠ 2596 ∨ 1024 ≤ fieldAt m.body 0 2 ∨ !bodyZero m.body 2 2 then s1.headReply m secBadMsg []
    else if x.key.isSome || x.leaving then s1.headReply m secBadState []
    else ((s1.setTenant t { x with key := some (m.body.drop 4) }).clearTenant t).headReply m secOk [])) s

def execTenantBind (m : Nat) (s : State) : Host.Outcome State Fault Refusal := .next (s.quiet.whenAwake (tenantBind m))

/-- TENANT_REMOVE: its fence is set at the next boundary, and its answer comes when the teardown is over. -/
def tenantRemove (i : Nat) (s : State) : State :=
  headRun i 0x22 (fun m s1 =>
    let t := BitVec.ofNat 10 (fieldAt m.body 0 2)
    let x := s1.tenant t
    let may : Bool := match s1.msgSession m with
      | some y => y.kind == .operator || y.kind == .tenant t
      | none => false
    if (s1.msgSession m).isNone then s1.headReply m secDenied []
    else if m.body.length ≠ 4 ∨ 1024 ≤ fieldAt m.body 0 2 ∨ !bodyZero m.body 2 2 then s1.headReply m secBadMsg []
    else if !may then s1.headReply m secDenied []
    else if x.leaving then s1.headReply m secBusy []
    else if x.key.isNone then s1.headReply m secBadState []
    else
      let (n, s2) := s1.headDefer m
      s2.setTenant t { x with removing := some 0, remover := some n }) s

def execTenantRemove (m : Nat) (s : State) : Host.Outcome State Fault Refusal := .next (s.quiet.whenAwake (tenantRemove m))

/-- TEARDOWN_FENCE (R513): the tenant's held descriptors are aborted and its extents revoked; what else is refused from now on asks for the
fence. -/
def teardownFence (t : Tenant) (s : State) : State :=
  let x := s.tenant t
  match x.removing with
  | none => s
  | some n =>
    if n < 1 then s
    else
      let s1 := s.setTenant t { x with removing := none, fenced := true, fenceTicks := 0 }
      let s2 := (s.que.qps.filter (fun q => q.2.cfg.tenant == t)).foldl (fun st q =>
        (st.abortQp ⟨q.1 % 4096, Nat.mod_lt _ (by decide)⟩ (fun _ => true)).2) s1
      (s2.ext.extents.filter (fun e => e.2.tenant == t && (e.2.state == .granted || e.2.state == .sealed))).foldl
        (fun st e => st.revoke e.1 e.2) s2

def execTeardownFence (t : Tenant) (s : State) : Host.Outcome State Fault Refusal := .next (s.quiet.whenLive (teardownFence t))

/-- The fence completes (R514). -/
def State.fenceComplete (s : State) (t : Tenant) : Bool :=
  s.que.qps.all (fun q => q.2.cfg.tenant != t) && s.rtr.reqs.all (fun r => r.2.pkts.all (fun p => p.tenant != t)) &&
  s.rtr.txq.all (fun q => q.2.all (fun x => x.pkt.tenant != t)) &&
  s.ext.extents.all (fun e => e.2.tenant != t || e.2.state == .scrubbing)

/-- Erase the link keys of a port that a tenant's sessions installed; its encryption stays in force (R515). -/
def PortCrypto.eraseOwner (c : PortCrypto) (t : Tenant) : PortCrypto :=
  let wipe (k : LinkKeySlot) : LinkKeySlot := if k.owner = t ∧ k.key.isSome then { k with key := none } else k
  { c with slot0 := wipe c.slot0, slot1 := wipe c.slot1 }

/-- Destroy a tenant's address spaces (R515). -/
def State.dropSpaces (s : State) (t : Tenant) : State :=
  (s.xlt.spaces.filter (fun e => e.2.tenant == t)).foldl (fun st e =>
    let old := st.xlt.invals
    let s1 := st.invalidate e.2.port (BitVec.ofNat 20 e.1) none
    { s1 with xlt := { s1.xlt with spaces := tdel s1.xlt.spaces e.1, invals := old } }) s

/-- A session of a tenant. -/
def Session.isTenants (x : Session) (t : Tenant) : Bool := x.kind == .tenant t

/-- TEARDOWN_COMPLETE (R515): keys, reels, address spaces, sessions and the binding go, then the report and the answer. The answer to a
tenant's own TENANT_REMOVE is made under its session before the session's keys go. -/
def teardownComplete (t : Tenant) (s : State) : State :=
  let x := s.tenant t
  if !x.fenced || !s.fenceComplete t then s
  else
    let s1 := ([32, 33] : List LinkPort).foldl (fun st p => st.setCrypto p ((st.crypto p).eraseOwner t)) s
    let s2 := (s1.fab.reels.filter (fun r => r.2.tenant == t)).foldl (fun st r => st.unloadReel r.1 none) s1
    let s3 := ((s2.dropSpaces t).setTenant t TenantRec.reset).raise (mkReport 0x0B 0x04 0 unitHeadland t.toNat x.fenceTicks)
    let s4 := match x.remover with
      | some n => s3.headFinish n secOk []
      | none => s3
    s4.closeSessions (fun y => y.isTenants t)

def execTeardownComplete (t : Tenant) (s : State) : Host.Outcome State Fault Refusal := .next (s.quiet.whenLive (teardownComplete t))

/-! Stream keys (R503, R507, R508). -/

/-- The slot a body names, when it may be one. -/
def bodySlot (b : List Byte) : Option Bool := if fieldAt b 0 1 = 0 then some false else if fieldAt b 0 1 = 1 then some true else none

/-- KEY_INSTALL: the slot must be EMPTY; its nonce starts at 0 (R504). -/
def keyInstall (i : Nat) (s : State) : State :=
  headRun i 0x30 (headTenant (fun m _ t s1 =>
    let x := s1.tenant t
    match (if m.body.length = 36 && bodyZero m.body 1 3 then bodySlot m.body else none) with
    | none => s1.headReply m secBadMsg []
    | some b =>
      if x.fenced || s1.sec.debugUnlocked || (streamSlot x b).state != .empty then s1.headReply m secBadState []
      else (s1.setTenant t (setStreamSlot x b ⟨.loaded, m.body.drop 4, 0⟩)).headReply m secOk [])) s

def execKeyInstall (m : Nat) (s : State) : Host.Outcome State Fault Refusal := .next (s.quiet.whenAwake (keyInstall m))

/-- One slot is LOADED and the other ACTIVE or EMPTY: the loaded one (R508). -/
def TenantRec.switchable (x : TenantRec) : Option Bool :=
  let rest (k : KeySlot) : Bool := k.state == .active || k.state == .empty
  if x.slot0.state = .loaded ∧ rest x.slot1 then some false
  else if x.slot1.state = .loaded ∧ rest x.slot0 then some true else none

/-- KEY_SWITCH. -/
def keySwitch (i : Nat) (s : State) : State :=
  headRun i 0x31 (headTenant (fun m _ t s1 =>
    let x := s1.tenant t
    if m.body ≠ [] then s1.headReply m secBadMsg []
    else if x.fenced || x.switchable.isNone then s1.headReply m secBadState []
    else (s1.setTenant t { x with switch := some (x.switch.getD 0) }).headReply m secOk [])) s

def execKeySwitch (m : Nat) (s : State) : Host.Outcome State Fault Refusal := .next (s.quiet.whenAwake (keySwitch m))

/-- KEY_SWITCH_APPLY: the LOADED slot becomes ACTIVE and the ACTIVE one RETIRING (R507). -/
def keySwitchApply (t : Tenant) (s : State) : State :=
  let x := s.tenant t
  match x.switch with
  | none => s
  | some n =>
    if n < 1 then s
    else match x.switchable with
    | none => s.setTenant t { x with switch := none }
    | some b =>
      let o := streamSlot x (!b)
      let x1 := setStreamSlot x b { streamSlot x b with state := .active }
      let x2 := setStreamSlot x1 (!b) (if o.state = .active then { o with state := .retiring } else o)
      s.setTenant t { x2 with switch := none }

def execKeySwitchApply (t : Tenant) (s : State) : Host.Outcome State Fault Refusal := .next (s.quiet.whenLive (keySwitchApply t))

def TenantRec.retiringSlot (x : TenantRec) : Option Bool :=
  if x.slot0.state = .retiring then some false else if x.slot1.state = .retiring then some true else none

/-- KEY_CONFIRM: accepted only while a slot is RETIRING. -/
def keyConfirm (i : Nat) (s : State) : State :=
  headRun i 0x32 (headTenant (fun m _ t s1 =>
    let x := s1.tenant t
    if m.body ≠ [] then s1.headReply m secBadMsg []
    else if x.retiringSlot.isNone then s1.headReply m secBadState []
    else (s1.setTenant t { x with confirmed := some (x.confirmed.getD 0) }).headReply m secOk [])) s

def execKeyConfirm (m : Nat) (s : State) : Host.Outcome State Fault Refusal := .next (s.quiet.whenAwake (keyConfirm m))

/-- KEY_RETIRE: the third boundary after the confirmation. -/
def keyRetire (t : Tenant) (s : State) : State :=
  let x := s.tenant t
  match x.confirmed, x.retiringSlot with
  | some n, some b =>
    if n < 3 then s
    else (s.setTenant t { setStreamSlot x b KeySlot.empty with confirmed := none }).raise
      (mkReport 0x0B 0x03 0 unitHeadland t.toNat (bitNat b 0))
  | _, _ => s

def execKeyRetire (t : Tenant) (s : State) : Host.Outcome State Fault Refusal := .next (s.quiet.whenLive (keyRetire t))

/-- KEY_DESTROY (R507): an ACTIVE slot only in mode OFF. -/
def keyDestroy (i : Nat) (s : State) : State :=
  headRun i 0x33 (headTenant (fun m _ t s1 =>
    let x := s1.tenant t
    match (if m.body.length = 4 && bodyZero m.body 1 3 then bodySlot m.body else none) with
    | none => s1.headReply m secBadMsg []
    | some b =>
      let k := streamSlot x b
      if k.state = .empty ∨ (k.state = .active ∧ x.required) then s1.headReply m secBadState []
      else
        let y := setStreamSlot x b KeySlot.empty
        (s1.setTenant t { y with confirmed := if k.state = .retiring then none else y.confirmed }).headReply m secOk [])) s

def execKeyDestroy (m : Nat) (s : State) : Host.Outcome State Fault Refusal := .next (s.quiet.whenAwake (keyDestroy m))

/-- ENC_MODE (R503). -/
def encMode (i : Nat) (s : State) : State :=
  headRun i 0x34 (headTenant (fun m _ t s1 =>
    let x := s1.tenant t
    match (if m.body.length = 4 && bodyZero m.body 1 3 then bodySlot m.body else none) with
    | none => s1.headReply m secBadMsg []
    | some req =>
      let bad : Bool := if req then x.slot0.state != .active && x.slot1.state != .active else !(s1.sealedExts t).isEmpty
      if x.fenced || bad then s1.headReply m secBadState []
      else (s1.setTenant t { x with modeNext := some (req, 0) }).headReply m secOk [])) s

def execEncMode (m : Nat) (s : State) : Host.Outcome State Fault Refusal := .next (s.quiet.whenAwake (encMode m))

/-- ENC_MODE_APPLY. -/
def encModeApply (t : Tenant) (s : State) : State :=
  let x := s.tenant t
  match x.modeNext with
  | none => s
  | some (req, n) => if n < 1 then s else s.setTenant t { x with required := req, modeNext := none }

def execEncModeApply (t : Tenant) (s : State) : Host.Outcome State Fault Refusal := .next (s.quiet.whenLive (encModeApply t))

/-- REEL_KEY_ENROLL (R500): at most 4 keys. -/
def reelKeyEnroll (i : Nat) (s : State) : State :=
  headRun i 0x35 (headTenant (fun m _ t s1 =>
    let x := s1.tenant t
    if m.body.length ≠ 2592 then s1.headReply m secBadMsg []
    else if 4 ≤ x.reelKeys.length then s1.headReply m secFull []
    else (s1.setTenant t { x with reelKeys := x.reelKeys ++ [m.body] }).headReply m secOk ((sha3 m.body).take 8))) s

def execReelKeyEnroll (m : Nat) (s : State) : Host.Outcome State Fault Refusal := .next (s.quiet.whenAwake (reelKeyEnroll m))

/-! Sealed extents (R510, R512). -/

/-- Permission entries of a body. -/
def bodyEntries : Nat → List Byte → List W32
  | 0, _ => []
  | n + 1, b => BitVec.ofNat 32 (fieldAt b 0 4) :: bodyEntries n (b.drop 4)

/-- A seal or unseal begins: the answer waits for the six slices. -/
def State.changeSeal (s : State) (m : SecMsg) (e : Nat) (x : Extent) (c : ExtChange) : State :=
  let (n, s1) := s.headDefer m
  s1.pushChange e { x with sealReply := some n } c

/-- EXTENT_SEAL. -/
def extentSeal (i : Nat) (s : State) : State :=
  headRun i 0x36 (headTenant (fun m _ t s1 =>
    let e := fieldAt m.body 0 2
    let count := fieldAt m.body 2 2
    if m.body.length < 4 ∨ m.body.length ≠ 4 + 4 * count ∨ 64 < count ∨ 8192 ≤ e then s1.headReply m secBadMsg []
    else match s1.extent e with
    | none => s1.headReply m secDenied []
    | some x =>
      if x.tenant ≠ t then s1.headReply m secDenied []
      else if (s1.tenant t).fenced || s1.sec.debugUnlocked || x.state != .granted || x.lost || !x.changes.isEmpty ||
          !(s1.tenant t).required || x.rights != bodyEntries count (m.body.drop 4) then s1.headReply m secBadState []
      else s1.changeSeal m e x .seal)) s

def execExtentSeal (m : Nat) (s : State) : Host.Outcome State Fault Refusal := .next (s.quiet.whenAwake (extentSeal m))

/-- EXTENT_UNSEAL. -/
def extentUnseal (i : Nat) (s : State) : State :=
  headRun i 0x37 (headTenant (fun m _ t s1 =>
    let e := fieldAt m.body 0 2
    if m.body.length ≠ 4 ∨ !bodyZero m.body 2 2 ∨ 8192 ≤ e then s1.headReply m secBadMsg []
    else match s1.extent e with
    | none => s1.headReply m secDenied []
    | some x =>
      if x.tenant ≠ t then s1.headReply m secDenied []
      else if (s1.tenant t).fenced || x.state != .sealed || !x.changes.isEmpty then s1.headReply m secBadState []
      else s1.changeSeal m e x .unseal)) s

def execExtentUnseal (m : Nat) (s : State) : Host.Outcome State Fault Refusal := .next (s.quiet.whenAwake (extentUnseal m))

/-! Link keys (R501, R502). -/

/-- A LINK_KEY on a port's crypto: the state it leaves, or none where it may not be. The first key is switched on at once; a key for the slot
in use, or for one that is retiring, is refused. -/
def PortCrypto.install (c : PortCrypto) (b on : Bool) (key : List Byte) (t : Tenant) : Option PortCrypto :=
  let k := linkSlotOf c b
  let same : Bool := k.key == some key && k.owner == t
  if c.sendSlot.isNone && c.sendNext.isNone && !on then none
  else if c.sendSlot == some b || c.sendNext.any (fun x => x.1 == b) then (if on && same then some c else none)
  else if c.retire.any (fun r => r.1 == b) then none
  else some (if same then c else setLinkSlot c b ⟨some key, t, 0, 0⟩)

/-- LINK_KEY: in a tenant's session opened through the mailbox of that port. Its own response leaves before the device sends under the slot. -/
def linkKey (i : Nat) (s : State) : State :=
  headRun i 0x38 (headTenant (fun m x t s1 =>
    match (if m.body.length = 36 && bodyZero m.body 2 2 && decide (fieldAt m.body 1 1 ≤ 1) then bodySlot m.body else none) with
    | none => s1.headReply m secBadMsg []
    | some b => match m.port with
      | none => s1.headReply m secDenied []
      | some p =>
        let on : Bool := fieldAt m.body 1 1 == 1
        if x.port ≠ some p then s1.headReply m secDenied []
        else if (s1.tenant t).fenced || s1.sec.debugUnlocked then s1.headReply m secBadState []
        else match (s1.crypto (plPort p)).install b on (m.body.drop 4) t with
        | none => s1.headReply m secBadState []
        | some c =>
          let req := s1.rtr.nextReq
          let s2 := (s1.setCrypto (plPort p) c).headReply m secOk []
          if on && c.sendSlot != some b then s2.setCrypto (plPort p) { s2.crypto (plPort p) with sendNext := some (b, req) } else s2)) s

def execLinkKey (m : Nat) (s : State) : Host.Outcome State Fault Refusal := .next (s.quiet.whenAwake (linkKey m))

/-- LINK_KEY_RETIRE: the third boundary after the host's first packet under the new slot. -/
def linkKeyRetire (p : PlPort) (s : State) : State :=
  let c := s.crypto (plPort p)
  match c.retire with
  | none => s
  | some (b, n) => if n < 3 then s else s.setCrypto (plPort p) { setLinkSlot c b LinkKeySlot.empty with retire := none }

def execLinkKeyRetire (p : PlPort) (s : State) : Host.Outcome State Fault Refusal := .next (s.quiet.whenLive (linkKeyRetire p))

/-! Telemetry, firmware, debug and fuses. -/

/-- A counter as a tenant sees it (R518, R581). -/
def coarse (n : Nat) : Nat := n / 65536 * 65536 + if n = ctrMax then 2 ^ 48 else 0

/-- TELEMETRY_READ: the published copy. -/
def telemetryRead (i : Nat) (s : State) : State :=
  headRun i 0x39 (headTenant (fun m _ t s1 =>
    if m.body ≠ [] then s1.headReply m secBadMsg []
    else s1.headReply m secOk (bytesOf s1.dbg.tenTick 8 ++
      (List.range 9).flatMap (fun k => natBytes 8 (coarse (mget 0 s1.dbg.tenPub (k * 1024 + t.toNat))))))) s

def execTelemetryRead (m : Nat) (s : State) : Host.Outcome State Fault Refusal := .next (s.quiet.whenAwake (telemetryRead m))

/-- END of a firmware update (R491, R536): the set goes into the spare bank, is checked under R538, and only then named in the header. -/
def State.updateEnd (s : State) (m : SecMsg) (x : Session) (set : List Byte) : State :=
  let f := s.plt.flash
  let b := f.spare
  let f1 := if b = 0 then { f with bank0 := set } else { f with bank1 := set }
  let s1 := (s.setFlash f1).setSession m.sess { x with update := none }
  match s.checkSet set bankRegion with
  | some 1 => s1.headReply m secAuthErr []
  | some 3 => s1.headReply m secRollback []
  | some _ => s1.headReply m secBadMsg []
  | none =>
    let h := f1.header
    let h1 := if b = 0 then { h with pendingBank := some b, state0 := .valid } else { h with pendingBank := some b, state1 := .valid }
    ((s1.setFlash (f1.writeHeader h1)).raise (mkReport 0x0B 0x06 0 unitHeadland (setSvn set) 0)).headReply m secOk []

/-- FW_UPDATE. -/
def fwUpdate (i : Nat) (s : State) : State :=
  headRun i 0x40 (headOperator (fun m x s1 =>
    let b := m.body
    let off := fieldAt b 4 4
    let len := fieldAt b 8 4
    let stage := fieldAt b 0 1
    if b.length < 12 ∨ 2 < stage ∨ !bodyZero b 1 3 ∨ b.length ≠ 12 + (if stage = 1 then len else 0) ∨ (stage = 1 ∧ 16000 < len) then
      s1.headReply m secBadMsg []
    else if !s1.plt.flash.present then s1.headReply m secBadState []
    else if stage = 0 then
      if s1.sec.sessions.any (fun e => e.2.update.isSome) then s1.headReply m secBusy []
      else if off ≠ 0 ∨ bankRegion < len then s1.headReply m secBadMsg []
      else (s1.setSession m.sess { x with update := some (len, []) }).headReply m secOk []
    else match x.update with
    | none => s1.headReply m secBadState []
    | some (size, got) =>
      if stage = 1 then
        if off ≠ got.length ∨ size < off + len then s1.headReply m secBadMsg []
        else (s1.setSession m.sess { x with update := some (size, got ++ b.drop 12) }).headReply m secOk []
      else if got.length < size then s1.headReply m secBadMsg []
      else s1.updateEnd m x got)) s

def execFwUpdate (m : Nat) (s : State) : Host.Outcome State Fault Refusal := .next (s.quiet.whenAwake (fwUpdate m))

/-- DEBUG_UNLOCK (R486, R521): a challenge, or the one token it serves. -/
def debugUnlock (i : Nat) (s : State) : State :=
  headRun i 0x41 (headOperator (fun m _ s1 =>
    let b := m.body
    let mode := fieldAt b 0 1
    if b.length < 4 ∨ !bodyZero b 1 3 ∨ 1 < mode ∨ b.length ≠ (if mode = 0 then 4 else 4671) then s1.headReply m secBadMsg []
    else if s1.anyConfidential then s1.headReply m secBusy []
    else if mode = 0 then
      let (d, s2) := s1.draw
      let c := List.takeD 32 (Config.entropy d) 0#8
      ({ s2 with sec := { s2.sec with challenge := some (c, 0) } }).headReply m secOk c
    else
      let s2 := { s1 with sec := { s1.sec with challenge := none } }
      if fieldAt b 4 8 ≠ Config.deviceSerial.toNat ∨ s1.sec.challenge.map (fun c => c.1) ≠ some ((b.drop 12).take 32) then
        s2.headReply m secDenied []
      else if !Config.mldsaVerify Config.dalpevarKey ((b.drop 4).take 40) (b.drop 44) then s2.headReply m secAuthErr []
      else (({ s2 with sec := { s2.sec with debugUnlocked := true } }).raise (mkReport 0x0B 0x05 1 unitHeadland 0 0)).headReply m secOk [])) s

def execDebugUnlock (m : Nat) (s : State) : Host.Outcome State Fault Refusal := .next (s.quiet.whenAwake (debugUnlock m))

/-- FUSE_PROGRAM: the fuses of VALUE are blown, and stay so. -/
def fuseProgram (i : Nat) (s : State) : State :=
  headRun i 0x42 (headOperator (fun m _ s1 =>
    let b := m.body
    let w := fieldAt b 8 4
    if b.length ≠ 4643 then s1.headReply m secBadMsg []
    else if fieldAt b 0 8 ≠ Config.deviceSerial.toNat then s1.headReply m secDenied []
    else if !Config.mldsaVerify Config.dalpevarKey (b.take 16) (b.drop 16) then s1.headReply m secAuthErr []
    else
      let f := mmod 0#32 s1.plt.fuses w (fun v => v ||| BitVec.ofNat 32 (fieldAt b 12 4))
      (({ s1 with plt := { s1.plt with fuses := f } }).raise (mkReport 0x0B 0x08 1 unitHeadland w 0)).headReply m secOk [])) s

def execFuseProgram (m : Nat) (s : State) : Host.Outcome State Fault Refusal := .next (s.quiet.whenAwake (fuseProgram m))

end Sys2Proof.Machine
end

