-- ==== Sys2Proof/Machine/RegMap.lean ====
section
/-! DEFINITION. The register map (R611 to R617): what every register reads as, and what a write to it does, over the management port, through
a port's register window, and over JTAG (R586 to R588). -/

namespace Sys2Proof.Machine

/-! Reading. -/

/-- A register value of 32 bits from fields given as (value, lowest bit). -/
def fieldsWord (fs : List (Nat × Nat)) : W32 := BitVec.ofNat 32 ((fs.map (fun f => f.1 * 2 ^ f.2)).sum)

/-- PLT_TIDE_CTRL and PLT_TIDE_STATUS (R39, R40). -/
def Tide.ctrlWord (t : Tide) : W32 :=
  fieldsWord [(t.period.toNat, 0), (match t.mode with
    | .free => 0
    | .lead => 1
    | .follow => 2, 4), (bitNat t.outEn 6, 0), (t.comp.toNat, 8)]

def Tide.statusWord (t : Tide) : W32 :=
  fieldsWord [(bitNat t.locked 0, 0), (bitNat t.holdover 1, 0), (bitNat t.periodMismatch 2, 0), (bitNat t.periodReject 3, 0),
    (bitNat t.pulseDiscard 4, 0), (bitNat t.countSlip 5, 0), (t.phaseError.toNat, 8)]

/-- PERIOD reads as the value last written that was not refused (R7, R32). -/
def Tide.readCtrl (t : Tide) : W32 := { t with period := t.periodNext.getD t.period }.ctrlWord

/-- PLT_BOOT_STATUS, PLT_CLK_STATUS, PLT_FEED_CTRL, PLT_FEED_STATUS (R560, R561). -/
def Plt.bootWord (x : Plt) : W32 :=
  fieldsWord [(x.phase.code, 0), (x.strapBoot.toNat, 4), (x.bank.toNat, 6), (x.failCause.toNat, 8), (bitNat x.abruptLast 11, 0)]

def Plt.clkWord (x : Plt) : W32 :=
  fieldsWord [(x.strapClk.toNat, 0), (if x.inUse = .b then 1 else 0, 2), (bitNat x.aOk 3, 0), (bitNat x.bOk 4, 0), (bitNat x.switched 5, 0)]

def Plt.feedCtrlWord (x : Plt) : W32 := fieldsWord [(bitNat x.feedMode 0, 0), (bitNat x.proveEn 1, 0), (x.proveS.toNat, 8)]

def Plt.feedWord (x : Plt) : W32 :=
  fieldsWord [(if x.holder = .b then 1 else 0, 0), (x.aHealth.code, 1), (x.bHealth.code, 3), (bitNat x.aPresent 5, 0),
    (bitNat x.bPresent 6, 0), (x.feedLost.toNat, 7)]

/-- PLT_SELFTEST_STATUS (R593). -/
def Dbg.selftestWord (d : Dbg) : W32 :=
  fieldsWord [(bitNat d.katDone 0, 0), (min 255 d.katFails, 1), (bitNat d.reduced 9, 0), (bitNat d.verdict 10, 0), (d.lbistFails, 11)]

/-- PLT_BLK_PWR and PLT_STACK_PWR (R563). -/
def pwrWord (duty therm : Nat) (temp : BitVec 8) : W32 := fieldsWord [(duty, 0), (therm, 5), (temp.toNat, 10)]

/-- REEL_STORE_STATUS (R141). -/
def State.storeWord (s : State) : W32 :=
  fieldsWord [(s.fab.reels.length, 0), (4096 - (s.storeUsed + 1023) / 1024, 8)]

/-- REEL_BLK_HEALTH (R57). -/
def BlkHealth.word (h : BlkHealth) : W32 :=
  fieldsWord [(h.fenced.toNat, 0), (bitNat h.blockOffline 16, 0), (bitNat h.regionOffline 17, 0), (h.causeLevel.toNat, 18)]

/-- RAS_CHECK_CTRL, RAS_CHECK_STATUS, RAS_ISV_CTRL (R222, R223, R593). -/
def Ras.ctrlWord (r : Ras) : W32 := fieldsWord [(r.fraction.toNat, 0), (r.hold.toNat, 4)]

def State.checkWord (s : State) : W32 :=
  fieldsWord [(s.ras.active.toNat, 0), (bitNat s.ras.pendingFraction 3, 0), (s.checkOnline, 4), (bitNat s.ras.short 10, 0)]

def Ras.isvWord (r : Ras) : W32 :=
  fieldsWord [(bitNat r.isvEn 0, 0), (r.isvBlocks.toNat, 1), (bitNat r.isvRouter 5, 0), (bitNat r.isvEcc 6, 0)]

/-- RTR_ROUTE_CTRL, RTR_E2E_CTRL, RTR_PORT_CTRL (R417 to R419). -/
def Rtr.routeWord (r : Rtr) : W32 := fieldsWord [(bitNat r.activeGen 0, 0), (bitNat r.drain.isSome 1, 0), (bitNat r.adaptEn 2, 0)]

def Rtr.e2eWord (r : Rtr) : W32 := fieldsWord [(r.timeout.toNat, 0), (r.retryMax.toNat, 8), (r.xferTimeout.toNat, 16)]

def PortCtrl.word (c : PortCtrl) : W32 := fieldsWord [(bitNat c.stampGen 0, 0), (bitNat c.policeEn 1, 0), (c.precolor.toNat, 2)]

def LinkState.code : LinkState → Nat
  | .disabled => 0
  | .detect => 1
  | .equalize => 2
  | .lock => 3
  | .param => 4
  | .active => 5

/-- TFL_LINK_CTRL and PLK_LINK_CTRL; RETRAIN reads 0 (R374, R455). -/
def Link.ctrlWord (l : Link) : W32 :=
  fieldsWord [(bitNat l.enable 0, 0), (l.widthMax.toNat, 2), (l.channel.toNat, 4), (l.lossMs.toNat, 8), (l.rttNs.toNat, 16),
    (l.replayMax.toNat, 28)]

/-- TFL_LINK_STATUS (R375). -/
def Link.statusWord (l : Link) : W32 :=
  fieldsWord [(l.state.code, 0), (l.width.toNat, 4), (l.lanes.toNat % 16, 6), (bitNat l.leader 10, 0), (bitNat l.retraining 11, 0),
    (l.epoch.toNat, 12), (l.rttMeas.toNat, 16), (bitNat l.wentDown 28, 0), (bitNat l.allocShort 29, 0), (bitNat l.idConflict 30, 0)]

/-- PLK_LINK_STATUS (R455). -/
def Link.plStatusWord (l : Link) : W32 :=
  fieldsWord [(l.state.code, 0), (l.width.toNat, 4), (l.lanes.toNat, 6), (bitNat l.leader 14, 0), (bitNat l.retraining 15, 0),
    (l.epoch.toNat, 16), (l.rttMeas.toNat / 16, 20), (bitNat l.wentDown 28, 0), (bitNat l.allocShort 29, 0), (bitNat l.idConflict 30, 0)]

/-- PLK_CTRL (R455). -/
def State.plkWord (s : State) : W32 :=
  fieldsWord [(s.que.active.val, 0), (bitNat s.que.failover 1, 0), (bitNat (s.crypto 32).required 2, 0), (bitNat (s.crypto 33).required 3, 0)]

/-- PLK_ADMIN_CTRL (R454). -/
def Admin.word (a : Admin) : W32 :=
  fieldsWord [(bitNat a.enable 0, 0), (a.sqLog.toNat, 4), (a.cqLog.toNat, 8), (a.vector.toNat, 12), (bitNat a.intrEn 23, 0)]

/-- XLT_CTRL and XLT_STATUS (R480, R481). -/
def Xlt.ctrlWord (x : Xlt) : W32 := fieldsWord [(x.faultTimeout.toNat, 0), (bitNat x.prefetchEn 8, 0), (x.prefetchMax.toNat, 12)]

def Xlt.statusWord (x : Xlt) : W32 := fieldsWord [(x.faults.length, 0), (x.walks.length, 9), (bitNat (!x.invals.isEmpty) 16, 0)]

/-- SNAP_STATUS (R304). -/
def State.snapWord (s : State) : W32 :=
  fieldsWord [(s.ext.records.length, 0), ((s.ext.extents.map (fun e => e.2.snap.elim 0 (fun sn => sn.copies.length))).sum, 17)]

/-- COH_CTRL, COH_STATUS and COH_DIR_OCC (R334, R335). -/
def Coh.ctrlWord (c : Coh) : W32 :=
  fieldsWord [(match c.mode with
    | .predict => 0
    | .near => 1
    | .far => 2, 0), (c.nearAt.toNat, 2), (c.farAt.toNat, 4), (c.snpTimeout.toNat, 8), (bitNat c.stashEn 16, 0)]

def Coh.statusWord (c : Coh) : W32 :=
  fieldsWord [(c.agents.length, 0), ((c.agents.filter (fun e => e.2.dead)).length, 11), (bitNat (!c.sweeps.isEmpty) 22, 0)]

def Coh.occWord (c : Coh) : W32 := fieldsWord [((c.dir.map (fun e => e.2.lines.length)).sum, 0)]

/-- The memory controllers' registers (R263 to R267). -/
def SchedCtrl.word (c : SchedCtrl) : W32 :=
  fieldsWord [(c.batchMax.toNat, 0), (c.wqHi.toNat, 8), (c.wqLo.toNat, 16), (c.ageLimit.toNat, 24)]

def RefCtrl.word (c : RefCtrl) : W32 := fieldsWord [(c.hi.toNat, 0), (c.lo.toNat, 8), (c.p1.toNat, 16), (c.p2.toNat, 20)]

def Mem.scrubWord (m : Mem) : W32 := fieldsWord [(m.demandUnits.toNat, 0), (m.patrolHours.toNat, 8), (bitNat m.patrolEn 16, 0)]

def Stack.word (x : Stack) : W32 :=
  fieldsWord [(x.temp.toNat, 0), (x.trainTemp.toNat, 8), (bitNat x.refDouble 16, 0), (bitNat x.retraining 17, 0), (bitNat x.failed 18, 0),
    (x.failedPc.toNat, 19)]

def Zone.word (z : Zone) : W32 := fieldsWord [(z.temp.toNat, 0), (z.duty, 8), (bitNat z.refDouble 13, 0), (bitNat z.overtemp 14, 0)]

/-- SEC_STATUS (R525). -/
def State.secWord (s : State) : W32 :=
  fieldsWord [(bitNat s.sec.debugUnlocked 0, 0), (bitNat s.recovering 1, 0), (bitNat s.sec.root.isSome 2, 0),
    ((s.sec.sessions.filter (fun e => e.2.isOpen)).length, 8), ((s.sec.tenants.filter (fun e => tenantBoundTo e.2)).length, 17)]

/-- DBG_FATAL_STATUS (R595). -/
def Dbg.fatalWord (d : Dbg) : W32 := fieldsWord [(bitNat d.fatal 0, 0), (d.dumpState.code, 1), (d.fatalUnit.toNat, 16)]

/-- The trace slots' registers (R594). -/
def TraceSlot.ctrlWord (x : TraceSlot) : W32 := fieldsWord [(bitNat x.enable 0, 0), (x.interval.toNat, 1), (x.qp.val, 16)]

def TraceSlot.headWord (x : TraceSlot) : W32 := fieldsWord [(x.head, 0), (bitNat x.phase 24, 0)]

def TraceSlot.ringWord (x : TraceSlot) : W64 := BitVec.ofNat 64 (x.log.toNat + x.addr.toNat * 2 ^ 12)

/-- Offset off is a register of an array of n at base with a stride: its index. -/
def regIndex (base stride n off : Nat) : Option Nat :=
  if base ≤ off ∧ off < base + stride * n ∧ (off - base) % stride = 0 then some ((off - base) / stride) else none

/-- Offset off lies in an array of n blocks of registers: the block, and the offset in it. -/
def regGroup (base stride n off : Nat) : Option (Nat × Nat) :=
  if base ≤ off ∧ off < base + stride * n then some ((off - base) / stride, (off - base) % stride) else none

def linkNo (i : Nat) : LinkPort := ⟨i % 34, Nat.mod_lt _ (by decide)⟩
def plNo (i : Nat) : PlPort := ⟨i % 2, Nat.mod_lt _ (by decide)⟩
def blockNo (i : Nat) : BlockId := ⟨i % 64, Nat.mod_lt _ (by decide)⟩

/-- SEC_MBOX_CTRL (R524). -/
def Mbox.ctrlWord (m : Mbox) : W64 :=
  BitVec.ofNat 64 (m.reqLen.toNat + m.rspMax.toNat * 2 ^ 16 + bitNat m.intrEn 31 + m.vector.toNat * 2 ^ 32)

/-- A 64-bit register of a per-port page (R616). -/
def State.page64 (s : State) (p : PlPort) (off : Nat) : Option W64 :=
  match off with
  | 0x00 => some (s.admin p).sqAddr
  | 0x08 => some (s.admin p).cqAddr
  | 0x10 => some 0#64
  | 0x28 => some (s.link (plPort p)).vcAlloc
  | 0x80 => some (s.mbox p).reqAddr
  | 0x88 => some (s.mbox p).rspAddr
  | 0x90 => some (s.mbox p).ctrlWord
  | _ => none

/-- A 32-bit register of a per-port page; a reserved offset reads as 0. -/
def State.page32 (s : State) (p : PlPort) (off : Nat) : W32 :=
  match off with
  | 0x18 => (s.admin p).word
  | 0x1C => (s.link (plPort p)).ctrlWord
  | 0x20 => (s.link (plPort p)).plStatusWord
  | 0x40 => ((mget FaultRing.reset s.xlt.rings p.val).head).setWidth 32
  | 0x9C => fieldsWord [(bitNat (s.mbox p).busy 0, 0), (bitNat (s.mbox p).done 1, 0), ((s.mbox p).rspLen.toNat, 16)]
  | _ => 0#32

/-- The 64-bit register at an offset, if there is one: counters, and those of the ports and trace slots (R611, R614, R615). -/
def State.reg64 (s : State) (off : Nat) : Option W64 :=
  match ctrName off with
  | some _ => some (ctrValue (s.counter off))
  | none =>
    match regGroup 0x410000 0x100 32 off, regGroup 0x510000 0x1000 2 off, regGroup 0xB10000 0x10 16 off with
    | some (i, 0x10), _, _ => some (s.link (linkNo i)).vcAlloc
    | some (i, 0x18), _, _ => some (portId (linkNo i))
    | some (i, 0x20), _, _ => some (s.link (linkNo i)).peerId
    | _, some (p, o), _ => s.page64 (plNo p) o
    | _, _, some (k, 8) => some (s.trace k).ringWord
    | _, _, _ => none

/-- A 32-bit register of a TFL port. -/
def State.tfl32 (s : State) (p : LinkPort) (off : Nat) : W32 :=
  match off with
  | 0x00 => (s.link p).ctrlWord
  | 0x04 => (s.link p).statusWord
  | 0x08 => (s.link p).qcred.setWidth 32
  | 0x0C => fieldsWord [((s.link p).degSyms.toNat, 0), ((s.link p).degTicks.toNat, 16)]
  | _ => 0#32

/-- 32-bit registers that stand alone (R615). -/
def State.single32 (s : State) (off : Nat) : W32 :=
  match off with
  | 0x000000 => deviceId
  | 0x000010 => s.tide.readCtrl
  | 0x000014 => s.tide.statusWord
  | 0x000018 => s.tide.count.extractLsb' 0 32
  | 0x00001C => s.tide.countHi
  | 0x000040 => s.plt.bootWord
  | 0x000044 => s.plt.clkWord
  | 0x000048 => s.dbg.selftestWord
  | 0x000080 => s.plt.feedCtrlWord
  | 0x000084 => s.plt.feedWord
  | 0x000088 => fieldsWord [(envelopeW, 0), (fixedW, 11)]
  | 0x00008C => fieldsWord [((Config.packageW s.serial).toNat, 0), ((Config.feedAW s.serial).toNat, 11)]
  | 0x000090 => fieldsWord [(s.plt.thermOn.toNat, 0), (s.plt.thermOff.toNat, 8)]
  | 0x000094 => s.plt.drainMs.setWidth 32
  | 0x100000 => s.arb.written.cell.setWidth 32
  | 0x100004 => s.arb.written.blk.setWidth 32
  | 0x100008 => s.arb.written.reg.setWidth 32
  | 0x100010 => s.storeWord
  | 0x200000 => s.ras.ctrlWord
  | 0x200004 => s.checkWord
  | 0x200010 => s.ras.isvWord
  | 0x300000 => s.arb.written.chip.setWidth 32
  | 0x300004 => s.rtr.nodeId.setWidth 32
  | 0x300008 => s.rtr.routeWord
  | 0x30000C => s.rtr.e2eWord
  | 0x500000 => s.plkWord
  | 0x600000 => s.xlt.ctrlWord
  | 0x600004 => s.xlt.statusWord
  | 0x700000 => fieldsWord [(s.granCount .free, 0), (s.granCount .granted, 16)]
  | 0x700004 => fieldsWord [(s.granCount .draining, 0), (s.granCount .scrubbing, 16)]
  | 0x700008 => fieldsWord [(s.granCount .sealed, 0), (s.granFailed, 16)]
  | 0x700010 => fieldsWord [(s.mem.autoShelfMax.toNat, 0), (s.mem.autoShelfReserve.toNat, 8)]
  | 0x700040 => s.snapWord
  | 0x800000 => s.coh.ctrlWord
  | 0x800004 => s.coh.statusWord
  | 0x800008 => s.coh.occWord
  | 0x900000 => s.mem.deepSched.word
  | 0x900004 => s.mem.shelfSched.word
  | 0x900008 => s.mem.deepRef.word
  | 0x90000C => s.mem.shelfRef.word
  | 0x900010 => fieldsWord [(s.mem.thrOn.toNat, 0), (s.mem.thrOff.toNat, 8)]
  | 0x900014 => s.mem.scrubWord
  | 0xA00000 => s.secWord
  | 0xB00000 => s.dbg.fatalWord
  | _ => 0#32

/-- A 32-bit register of an array, or one that stands alone; a reserved offset reads as 0. -/
def State.reg32 (s : State) (off : Nat) : W32 :=
  match regIndex 0x010000 4 64 off, regIndex 0x010100 4 12 off, regIndex 0x010200 4 64 off, regIndex 0x010300 4 12 off with
  | some n, _, _, _ => (s.blockPwr n).ceilNext.setWidth 32
  | _, some n, _, _ => (s.stackPwr n).ceilNext.setWidth 32
  | _, _, some n, _ => pwrWord (s.blockPwr n).duty (s.blockPwr n).thermDuty (s.blockPwr n).temp
  | _, _, _, some n => pwrWord (s.stackPwr n).duty 16 (s.stack n).temp
  | _, _, _, _ =>
    match regIndex 0x110000 4 64 off, regIndex 0x310000 4 33 off, regIndex 0x910000 4 12 off, regIndex 0x910100 4 8 off with
    | some n, _, _, _ => (s.blk (blockNo n)).word
    | _, some n, _, _ => (mget PortCtrl.reset s.rtr.ports n).word
    | _, _, some n, _ => (s.stack n).word
    | _, _, _, some n => (mget Zone.reset s.mem.zones n).word
    | _, _, _, _ =>
      match regGroup 0x410000 0x100 32 off, regGroup 0x510000 0x1000 2 off, regGroup 0xB10000 0x10 16 off with
      | some (i, o), _, _ => s.tfl32 (linkNo i) o
      | _, some (p, o), _ => s.page32 (plNo p) o
      | _, _, some (k, 0) => (s.trace k).ctrlWord
      | _, _, some (k, 4) => (s.trace k).headWord
      | _, _, _ => s.single32 off

/-- The word of 32 bits at an offset as the management port reads it: a 32-bit register, or half of a 64-bit one. -/
def State.regWord (s : State) (off : Nat) : W32 :=
  match s.reg64 (off - off % 8) with
  | some v => v.extractLsb' (8 * (off % 8)) 32
  | none => s.reg32 off

/-- What a register window gives at an offset (R613, R615, R616). -/
inductive WinAccess where
  | rw | r | none_
deriving DecidableEq, Repr

/-- Ranges that a window reads. -/
def windowRanges : List (Nat × Nat) :=
  [(0x000000, 0x4), (0x000010, 0x10), (0x000040, 0xC), (0x100000, 0xC), (0x100010, 0x4), (0x110000, 0x100), (0x180000, 0x8000),
   (0x200000, 0x8), (0x280000, 0x10000), (0x500000, 0x4), (0x580000, 0x10000), (0x600000, 0x8), (0x680000, 0xE000), (0xA00000, 0x4),
   (0xB80000, 0x4000)]

/-- Where an offset of port p's window leads: its own page stands at its own place and at the alias. -/
def windowTarget (p : PlPort) (off : Nat) : Nat × WinAccess :=
  match regGroup 0x501000 0x1000 1 off, regGroup 0x510000 0x1000 2 off, regGroup 0xB10000 0x10 16 off with
  | some (_, o), _, _ => (0x510000 + 0x1000 * p.val + o, .rw)
  | _, some (q, _), _ => (off, if q = p.val then .rw else .none_)
  | _, _, some _ => (off, .rw)
  | _, _, _ => (off, if windowRanges.any (fun g => decide (g.1 ≤ off) && decide (off < g.1 + g.2)) then .r else .none_)

/-- Before firmware runs, a window serves PLK_ADMIN_SQ and PLK_ADMIN_CTRL of PL0 alone (R534, R542). -/
def State.windowOpen (s : State) (p : PlPort) (target : Nat) : Bool :=
  s.windowsServed || (s.plt.phase == .downloadWait && p.val == 0 && (decide (target - target % 8 = 0x510000) || target == 0x510018))

/-- A word as a path reads it. -/
def State.readWord (s : State) (via : RegPath) (off : Nat) : W32 :=
  match via with
  | .mgmt => s.regWord off
  | .window p =>
    let (t, a) := windowTarget p off
    if a = .none_ ∨ !s.windowOpen p t then 0#32 else s.regWord t

/-- Read a word, with what reading does: PLT_TIDE_COUNT_LO latches the upper half (R27). -/
def State.takeWord (s : State) (via : RegPath) (off : Nat) : W32 × State :=
  (s.readWord via off, if off = offTideCountLo.toNat then s.latchCount else s)

/-- Read n words in ascending order. -/
def State.takeWords (s : State) (via : RegPath) (off : Nat) : Nat → List W32 × State
  | 0 => ([], s)
  | n + 1 =>
    let (w, s1) := s.takeWord via off
    let (ws, s2) := s1.takeWords via (off + 4) n
    (w :: ws, s2)

/-! Writing. -/

/-- A field that keeps its value when what is written is not one of its encodings (R6). -/
def keepIf {w : Nat} (old new : BitVec w) (ok : Bool) : BitVec w := if ok then new else old

/-- PLT_TIDE_CTRL: PERIOD counts as written when its value differs from the one it reads as. -/
def State.writeTideCtrl (s : State) (v : W32) : State :=
  let n := v.extractLsb' 0 4
  let s1 := if n = s.tide.periodNext.getD s.tide.period then s else s.writePeriod n
  let t := s1.tide.writeMode (v.extractLsb' 4 2)
  s1.setTide { t with outEn := v.getLsbD 6, comp := v.extractLsb' 8 8 }

/-- PLT_TIDE_STATUS: four bits are cleared by 1. -/
def Tide.clearStatus (t : Tide) (v : W32) : Tide :=
  { t with periodMismatch := t.periodMismatch && !v.getLsbD 2, periodReject := t.periodReject && !v.getLsbD 3,
           pulseDiscard := t.pulseDiscard && !v.getLsbD 4, countSlip := t.countSlip && !v.getLsbD 5 }

/-- A half of PLT_TIDE_COUNT_LOAD; the other half keeps what was written to it since the last marker. -/
def Tide.writeLoad (t : Tide) (v : W32) (high : Bool) : Tide :=
  let old := t.load.getD 0#64
  let new : W64 := if high then (v ++ old.extractLsb' 0 32 : BitVec 64) else (old.extractLsb' 32 32 ++ v : BitVec 64)
  { t with load := some (markTick new) }

/-- TFL_LINK_CTRL and PLK_LINK_CTRL: the settings, then what their writing starts (R374, R426, R455). -/
def State.writeLinkCtrl (s : State) (p : LinkPort) (v : W32) : State :=
  let ch := v.extractLsb' 4 2
  let s1 := s.modLink p (fun l => { l with
    channel := keepIf l.channel ch (!isPl p || ch == 1#2 || ch == 3#2), lossMs := keepIf l.lossMs (v.extractLsb' 8 8) (v.extractLsb' 8 8 != 0#8),
    rttNs := keepIf l.rttNs (v.extractLsb' 16 12) (decide (100 ≤ (v.extractLsb' 16 12).toNat)),
    replayMax := keepIf l.replayMax (v.extractLsb' 28 4) (v.extractLsb' 28 4 != 0#4) })
  let s2 := s1.setEnable p (v.getLsbD 0)
  let s3 := if v.extractLsb' 2 2 = (s2.link p).widthMax then s2 else s2.setWidthMax p (v.extractLsb' 2 2)
  if v.getLsbD 1 then s3.startLinkRetrain p 7 else s3

/-- The bits of a link's status that are cleared by 1. -/
def Link.clearStatus (l : Link) (v : W32) : Link :=
  { l with wentDown := l.wentDown && !v.getLsbD 28, allocShort := l.allocShort && !v.getLsbD 29, idConflict := l.idConflict && !v.getLsbD 30 }

/-- VC_ALLOC: a sum over the slots of the port has no effect (R376, R617); reserved bits are ignored. -/
def State.writeVcAlloc (s : State) (p : LinkPort) (v : W64) : State :=
  let sum := allocOf v 0 + allocOf v 1 + allocOf v 2 + allocOf v 3
  if (if isPl p then 5120 else 2560) < sum then s else s.modLink p (fun l => { l with vcAlloc := v &&& 0x0FFF0FFF0FFF0FFF#64 })

/-- DEEP_SCHED_CTRL and SHELF_SCHED_CTRL: a WQ_LO that is not below WQ_HI keeps its value (R6). -/
def SchedCtrl.write (c : SchedCtrl) (v : W32) : SchedCtrl :=
  let hi := v.extractLsb' 8 6
  let lo := v.extractLsb' 16 6
  { batchMax := keepIf c.batchMax (v.extractLsb' 0 5) (v.extractLsb' 0 5 != 0#5), wqHi := hi,
    wqLo := keepIf c.wqLo lo (decide (lo.toNat < hi.toNat)),
    ageLimit := keepIf c.ageLimit (v.extractLsb' 24 8) (v.extractLsb' 24 8 != 0#8) }

/-- A probability's shift, 6 to 15. -/
def shiftOk (v : BitVec 4) : Bool := decide (6 ≤ v.toNat)

/-- DEEP_REF_CTRL and SHELF_REF_CTRL: thresholds are °C, as the readings are signed °C. -/
def RefCtrl.write (c : RefCtrl) (v : W32) : RefCtrl :=
  let hi := v.extractLsb' 0 8
  let lo := v.extractLsb' 8 8
  { hi := hi, lo := keepIf c.lo lo (decide (lo.toInt < hi.toInt)), p1 := keepIf c.p1 (v.extractLsb' 16 4) (shiftOk (v.extractLsb' 16 4)),
    p2 := keepIf c.p2 (v.extractLsb' 20 4) (shiftOk (v.extractLsb' 20 4)) }

/-- SHELF_THERM_CTRL, and PLT_THERM_CTRL with its limits: each threshold that is out of its range keeps its value (R6), the release
threshold judged against the throttle threshold that then stands. -/
def thresholds (on off : BitVec 8) (lo hi : Nat) (v : W32) : BitVec 8 × BitVec 8 :=
  let a := v.extractLsb' 0 8
  let b := v.extractLsb' 8 8
  let on' := keepIf on a (decide (lo ≤ a.toNat) && decide (a.toNat ≤ hi))
  (on', keepIf off b (decide (b.toInt < on'.toInt)))

/-- COH_CTRL. -/
def Coh.write (c : Coh) (v : W32) : Coh :=
  { c with mode := (match (v.extractLsb' 0 2).toNat with
             | 0 => .predict
             | 1 => .near
             | 2 => .far
             | _ => c.mode),
           nearAt := v.extractLsb' 2 2, farAt := v.extractLsb' 4 2,
           snpTimeout := keepIf c.snpTimeout (v.extractLsb' 8 6) (v.extractLsb' 8 6 != 0#6), stashEn := v.getLsbD 16 }

/-- RTR_PORT_CTRL: a class's PRECOLOR of 3 is reserved. -/
def PortCtrl.write (c : PortCtrl) (v : W32) : PortCtrl :=
  let pre (i : Nat) : BitVec 2 := keepIf (c.precolor.extractLsb' (2 * i) 2) (v.extractLsb' (2 + 2 * i) 2) (v.extractLsb' (2 + 2 * i) 2 != 3#2)
  { stampGen := v.getLsbD 0, policeEn := v.getLsbD 1,
    precolor := BitVec.ofNat 8 ((pre 0).toNat + 4 * (pre 1).toNat + 16 * (pre 2).toNat + 64 * (pre 3).toNat) }

/-- A 32-bit register that stands alone. -/
def State.writeSingle (s : State) (off : Nat) (v : W32) : State :=
  match off with
  | 0x000010 => s.writeTideCtrl v
  | 0x000014 => s.setTide (s.tide.clearStatus v)
  | 0x000020 => s.setTide (s.tide.writeLoad v false)
  | 0x000024 => s.setTide (s.tide.writeLoad v true)
  | 0x000044 => s.setPlt { s.plt with switched := s.plt.switched && !v.getLsbD 5 }
  | 0x000080 => s.setPlt { s.plt with feedMode := v.getLsbD 0, proveEn := v.getLsbD 1,
                                      proveS := keepIf s.plt.proveS (v.extractLsb' 8 8) (decide (10 ≤ (v.extractLsb' 8 8).toNat)) }
  | 0x000084 => s.setPlt { s.plt with feedLost := s.plt.feedLost &&& ~~~v.extractLsb' 7 2 }
  | 0x000090 => s.setPlt { s.plt with thermOn := (thresholds s.plt.thermOn s.plt.thermOff 85 115 v).1,
                                      thermOff := (thresholds s.plt.thermOn s.plt.thermOff 85 115 v).2 }
  | 0x000094 =>
    let n := v.extractLsb' 0 10
    s.setPlt { s.plt with drainMs := keepIf s.plt.drainMs n (decide (1 ≤ n.toNat) && decide (n.toNat ≤ 1000)) }
  | 0x100000 => { s with arb := { s.arb with written := { s.arb.written with cell := v.extractLsb' 0 8 } } }
  | 0x100004 => { s with arb := { s.arb with written := { s.arb.written with blk := v.extractLsb' 0 8 } } }
  | 0x100008 => { s with arb := { s.arb with written := { s.arb.written with reg := v.extractLsb' 0 4 } } }
  | 0x200000 =>
    let h := v.extractLsb' 4 4
    let s1 := s.setFraction (v.extractLsb' 0 3)
    { s1 with ras := { s1.ras with hold := keepIf s1.ras.hold h (decide (2 ≤ h.toNat) && decide (h.toNat ≤ 8)) } }
  | 0x200010 => { s with ras := { s.ras with isvEn := v.getLsbD 0, isvBlocks := keepIf s.ras.isvBlocks (v.extractLsb' 1 4) (v.extractLsb' 1 4 != 0#4),
                                             isvRouter := v.getLsbD 5, isvEcc := v.getLsbD 6 } }
  | 0x300000 => { s with arb := { s.arb with written := { s.arb.written with chip := v.extractLsb' 0 8 } } }
  | 0x300004 => { s with rtr := { s.rtr with nodeId := v.extractLsb' 0 14 } }
  | 0x300008 => { s with rtr := { s.rtr with adaptEn := v.getLsbD 2 } }
  | 0x30000C => { s with rtr := { s.rtr with timeout := keepIf s.rtr.timeout (v.extractLsb' 0 8) (decide (4 ≤ (v.extractLsb' 0 8).toNat)),
                                             retryMax := v.extractLsb' 8 4,
                                             xferTimeout := keepIf s.rtr.xferTimeout (v.extractLsb' 16 8) (decide (2 ≤ (v.extractLsb' 16 8).toNat)) } }
  | 0x500000 => { s with que := { s.que with failover := v.getLsbD 1 } }
  | 0x600000 => { s with xlt := { s.xlt with faultTimeout := keepIf s.xlt.faultTimeout (v.extractLsb' 0 8) (v.extractLsb' 0 8 != 0#8),
                                             prefetchEn := v.getLsbD 8, prefetchMax := v.extractLsb' 12 6 } }
  | 0x700010 => { s with mem := { s.mem with autoShelfMax := v.extractLsb' 0 8, autoShelfReserve := v.extractLsb' 8 8 } }
  | 0x800000 => { s with coh := s.coh.write v }
  | 0x900000 => { s with mem := { s.mem with deepSched := s.mem.deepSched.write v } }
  | 0x900004 => { s with mem := { s.mem with shelfSched := s.mem.shelfSched.write v } }
  | 0x900008 => { s with mem := { s.mem with deepRef := s.mem.deepRef.write v } }
  | 0x90000C => { s with mem := { s.mem with shelfRef := s.mem.shelfRef.write v } }
  | 0x900010 => { s with mem := { s.mem with thrOn := (thresholds s.mem.thrOn s.mem.thrOff 80 94 v).1,
                                             thrOff := (thresholds s.mem.thrOn s.mem.thrOff 80 94 v).2 } }
  | 0x900014 => { s with mem := { s.mem with demandUnits := keepIf s.mem.demandUnits (v.extractLsb' 0 8) (v.extractLsb' 0 8 != 0#8),
                                             patrolHours := keepIf s.mem.patrolHours (v.extractLsb' 8 8) (v.extractLsb' 8 8 != 0#8),
                                             patrolEn := v.getLsbD 16 } }
  | _ => s

/-- A 32-bit register of a TFL port. -/
def State.writeTfl (s : State) (p : LinkPort) (off : Nat) (v : W32) : State :=
  match off with
  | 0x00 => s.writeLinkCtrl p v
  | 0x04 => s.modLink p (fun l => l.clearStatus v)
  | 0x08 => s.modLink p (fun l => { l with qcred := keepIf l.qcred (v.extractLsb' 0 8) (v.extractLsb' 0 8 != 0#8) })
  | 0x0C => s.modLink p (fun l => { l with degSyms := v.extractLsb' 0 16,
                                           degTicks := keepIf l.degTicks (v.extractLsb' 16 4) (v.extractLsb' 16 4 != 0#4) })
  | _ => s

/-- PLK_ADMIN_CTRL; in download boot ENABLE of PL0 stands until the ROM has read the set, in DOWNLOAD_PL0_ENABLE (R542). -/
def State.writeAdminCtrl (s : State) (p : PlPort) (v : W32) : State :=
  let ok (n : BitVec 4) : Bool := decide (4 ≤ n.toNat) && decide (n.toNat ≤ 12)
  let a := s.admin p
  let s1 := s.setAdmin p { a with sqLog := keepIf a.sqLog (v.extractLsb' 4 4) (ok (v.extractLsb' 4 4)),
                                  cqLog := keepIf a.cqLog (v.extractLsb' 8 4) (ok (v.extractLsb' 8 4)),
                                  vector := v.extractLsb' 12 11, intrEn := v.getLsbD 23 }
  if s1.windowsServed then s1.setAdminEnable p (v.getLsbD 0)
  else if s1.plt.phase = .downloadWait ∧ p = 0 then s1.setAdmin p { s1.admin p with enable := v.getLsbD 0 }
  else s1

/-- A 32-bit register of a per-port page. -/
def State.writePage32 (s : State) (p : PlPort) (off : Nat) (v : W32) : State :=
  match off with
  | 0x18 => s.writeAdminCtrl p v
  | 0x1C => s.writeLinkCtrl (plPort p) v
  | 0x20 => s.modLink (plPort p) (fun l => l.clearStatus v)
  | 0x40 => s.setFaultHead p (v.extractLsb' 0 12)
  | 0x98 => s.writeGo p v
  | 0x9C => s.setMbox p { s.mbox p with done := (s.mbox p).done && !v.getLsbD 1 }
  | _ => s

/-- A 64-bit register of a per-port page. An admin ring's address stands while ENABLE is 1. -/
def State.writePage64 (s : State) (p : PlPort) (off : Nat) (v : W64) : State :=
  let a := s.admin p
  let m := s.mbox p
  match off with
  | 0x00 => if a.enable then s else s.setAdmin p { a with sqAddr := v &&& ~~~0xFFF#64 }
  | 0x08 => if a.enable then s else s.setAdmin p { a with cqAddr := v &&& ~~~0xFFF#64 }
  | 0x10 => adminDoorbell p v s
  | 0x28 => s.writeVcAlloc (plPort p) v
  | 0x80 => s.setMbox p { m with reqAddr := v &&& ~~~0x3F#64 }
  | 0x88 => s.setMbox p { m with rspAddr := v &&& ~~~0x3F#64 }
  | 0x90 =>
    let n := v.extractLsb' 0 15
    s.setMbox p { m with reqLen := keepIf m.reqLen n (decide (16 ≤ n.toNat) && decide (n.toNat ≤ 16384)), rspMax := v.extractLsb' 16 15,
                         intrEn := v.getLsbD 31, vector := v.extractLsb' 32 11 }
  | _ => s

/-- A write of a 32-bit register at an offset; via says who writes, for the trace slots (R582). -/
def State.write32 (s : State) (via : RegPath) (off : Nat) (v : W32) : State :=
  match regIndex 0x010000 4 64 off, regIndex 0x010100 4 12 off, regIndex 0x310000 4 33 off with
  | some n, _, _ => s.writeCeiling false n (v.extractLsb' 0 10)
  | _, some n, _ => s.writeCeiling true n (v.extractLsb' 0 10)
  | _, _, some n => { s with rtr := { s.rtr with ports := mmod PortCtrl.reset s.rtr.ports n (fun c => c.write v) } }
  | _, _, _ =>
    match regGroup 0x410000 0x100 32 off, regGroup 0x510000 0x1000 2 off, regGroup 0xB10000 0x10 16 off with
    | some (i, o), _, _ => s.writeTfl (linkNo i) o v
    | _, some (p, o), _ => s.writePage32 (plNo p) o v
    | _, _, some (k, 0) => s.writeTraceCtrl via k v
    | _, _, some (k, 4) => s.writeTraceHead via k (v.extractLsb' 0 20)
    | _, _, _ => s.writeSingle off v

/-- A write of a 64-bit register. -/
def State.write64 (s : State) (via : RegPath) (off : Nat) (v : W64) : State :=
  match regGroup 0x410000 0x100 32 off, regGroup 0x510000 0x1000 2 off, regGroup 0xB10000 0x10 16 off with
  | some (i, 0x10), _, _ => s.writeVcAlloc (linkNo i) v
  | _, some (p, o), _ => s.writePage64 (plNo p) o v
  | _, _, some (k, 8) => s.writeTraceRing via k v
  | _, _, _ => s

/-- An access of 4 bytes: half of a 64-bit register is not written (R611). -/
def State.put4 (s : State) (via : RegPath) (off : Nat) (v : W32) : State :=
  if (s.reg64 (off - off % 8)).isSome then s else s.write32 via off v

/-- An access of 8 bytes: one 64-bit register, or two of 32 bits. -/
def State.put8 (s : State) (via : RegPath) (off : Nat) (v : W64) : State :=
  if (s.reg64 off).isSome then s.write64 via off v
  else (s.write32 via off (v.extractLsb' 0 32)).write32 via (off + 4) (v.extractLsb' 32 32)

/-- A write through a port's window: of 4 or of 8 bytes (R613, R616). A misaligned one has no effect. -/
def State.windowWrite (s : State) (p : PlPort) (off : Nat) (eight : Bool) (v : W64) : State :=
  let (t, a) := windowTarget p off
  if off % (if eight then 8 else 4) ≠ 0 ∨ a ≠ .rw ∨ !s.windowOpen p t then s
  else if eight then s.put8 (.window p) t v
  else s.put4 (.window p) t (v.extractLsb' 0 32)

/-- Offsets that the management port does not write: the per-port pages (R616). -/
def pageOffset (off : Nat) : Bool := decide (0x501000 ≤ off) && decide (off < 0x512000)

/-- Words written over the management port in ascending order, each aligned pair that forms a 64-bit register at once. -/
def State.mgmtWrite (s : State) (off : Nat) : List W32 → State
  | [] => s
  | [v] => if pageOffset off then s else s.put4 .mgmt off v
  | v :: w :: rest =>
    if pageOffset off then s.mgmtWrite (off + 4) (w :: rest)
    else if off % 8 = 0 ∧ (s.reg64 off).isSome then (s.put8 .mgmt off (w ++ v : BitVec 64)).mgmtWrite (off + 8) rest
    else (s.put4 .mgmt off v).mgmtWrite (off + 4) (w :: rest)

/-- A range of R612. -/
def regRangeOk (offset : W32) (count : BitVec 16) : Bool :=
  offset.toNat % 4 == 0 && decide (1 ≤ count.toNat) && decide (count.toNat ≤ 256) && decide (offset.toNat + 4 * count.toNat ≤ 0x1000000)

/-- REG_READ. -/
def regRead (offset : W32) (count : BitVec 16) (s : State) : State :=
  if !regRangeOk offset count then s.reply 0x50#8 7 []
  else
    let (ws, s1) := s.takeWords .mgmt offset.toNat count.toNat
    { s1 with serial := s1.serial + 1 }.reply 0x50#8 0 (ws.flatMap (fun w => bytesOf w 4))

def execRegRead (offset : W32) (count : BitVec 16) (s : State) : Host.Outcome State Fault Refusal :=
  .next (s.quiet.whenLive (regRead offset count))

/-- REG_WRITE: as many words as COUNT says. -/
def regWrite (offset : W32) (count : BitVec 16) (words : List W32) (s : State) : State :=
  if !regRangeOk offset count ∨ words.length ≠ count.toNat then s.reply 0x51#8 7 []
  else (s.mgmtWrite offset.toNat words).reply 0x51#8 0 []

def execRegWrite (offset : W32) (count : BitVec 16) (words : List W32) (s : State) : Host.Outcome State Fault Refusal :=
  .next (s.quiet.whenLive (regWrite offset count words))

/-- REG_WR: one write of 4 or 8 bytes by a path. -/
def regWr (via : RegPath) (offset : BitVec 24) (eight : Bool) (v : W64) (s : State) : State :=
  match via with
  | .window p => s.windowWrite p offset.toNat eight v
  | .mgmt =>
    if offset.toNat % (if eight then 8 else 4) ≠ 0 then s
    else s.mgmtWrite offset.toNat (if eight then [v.extractLsb' 0 32, v.extractLsb' 32 32] else [v.extractLsb' 0 32])

def execRegWr (via : RegPath) (offset : BitVec 24) (eight : Bool) (v : W64) (s : State) : Host.Outcome State Fault Refusal :=
  .next (s.quiet.whenLive (regWr via offset eight v))

/-! JTAG (R586 to R588). -/

/-- An instruction shifted in: its code, and the register it selects. -/
def State.jtag (s : State) (ir : BitVec 8) (r : JtagReg) (pins : JtagPins) : State :=
  { s with dbg := { s.dbg with jtagIr := ir, jtagReg := r, jtagPins := pins } }

/-- A locked instruction selects the bypass register until Headland has unlocked debug access. -/
def State.locked (s : State) (ir : BitVec 8) (f : State → State) : State :=
  if s.sec.debugUnlocked then f s else s.jtag ir .bypass .functional

/-- BYPASS. -/
def execBypass (s : State) : Host.Outcome State Fault Refusal := .next (s.quiet.whenPowered (fun t => t.jtag 0xFF#8 .bypass .functional))

/-- The identification register (R587). -/
def idcodeValue : W32 :=
  BitVec.ofNat 32 (1 + 2 * Config.jtagManufacturer.toNat + 2 ^ 12 * 0x0960 +
    2 ^ 28 * ((4 * Config.steppingMajor.toNat + Config.steppingMinor.toNat) % 16))

/-- IDCODE: the identification register is selected and read out. -/
def idcode (s : State) : State := (s.jtag 0x01#8 .idcode .functional).emit (.jtag (idcodeValue.setWidth 64))

def execIdcode (s : State) : Host.Outcome State Fault Refusal := .next (s.quiet.whenPowered idcode)

/-- SAMPLE/PRELOAD: the boundary register takes the pins, and is shifted out. -/
def samplePreload (pins : PinSample) (s : State) : State :=
  let t := s.jtag 0x02#8 .boundary .functional
  { t with dbg := { t.dbg with jtagBoundary := pins } }.emit (.jtag (pins.setWidth 64))

def execSamplePreload (pins : PinSample) (s : State) : Host.Outcome State Fault Refusal := .next (s.quiet.whenPowered (samplePreload pins))

/-- EXTEST: the boundary register drives the pins. -/
def execExtest (s : State) : Host.Outcome State Fault Refusal :=
  .next (s.quiet.whenPowered (fun t => t.locked 0x00#8 (fun u => u.jtag 0x00#8 .boundary .extest)))

/-- CLAMP: the pins are held, and the bypass register is selected. -/
def execClamp (s : State) : Host.Outcome State Fault Refusal :=
  .next (s.quiet.whenPowered (fun t => t.locked 0x03#8 (fun u => u.jtag 0x03#8 .bypass .clamp)))

/-- HIGHZ: the outputs float, and the bypass register is selected. -/
def execHighz (s : State) : Host.Outcome State Fault Refusal :=
  .next (s.quiet.whenPowered (fun t => t.locked 0x04#8 (fun u => u.jtag 0x04#8 .bypass .highz)))

/-- DBG_ACCESS: any set-up register is read or written as over the management port; a 64-bit register whole. -/
def dbgAccess (r : DbgReq) (s : State) : State :=
  s.locked 0x10#8 (fun u =>
    let t := u.jtag 0x10#8 .dbgAccess .functional
    match r with
    | .read off =>
      let o := off.toNat - off.toNat % 4
      let (w, t1) := t.takeWord .mgmt o
      let v : W64 := match t.reg64 o with
        | some x => x
        | none => w.setWidth 64
      { t1 with serial := t1.serial + 1 }.emit (.jtag v)
    | .write off v =>
      let o := off.toNat - off.toNat % 4
      if (t.reg64 o).isSome then t.write64 .mgmt o v else t.put4 .mgmt o (v.extractLsb' 0 32))

def execDbgAccess (r : DbgReq) (s : State) : Host.Outcome State Fault Refusal := .next (s.quiet.whenAwake (dbgAccess r))

/-- DBG_HALT: the sequencers of a block stop at a tile boundary, or go on. -/
def dbgHalt (b : BlockId) (halt : Bool) (s : State) : State :=
  s.locked 0x11#8 (fun u =>
    let t := u.jtag 0x11#8 .dbgHalt .functional
    let rest := t.dbg.halted.filter (· != b)
    { t with dbg := { t.dbg with halted := if halt then rest ++ [b] else rest } })

def execDbgHalt (b : BlockId) (halt : Bool) (s : State) : Host.Outcome State Fault Refusal := .next (s.quiet.whenPowered (dbgHalt b halt))

end Sys2Proof.Machine
end

