-- ==== Sys2Proof/Machine/Ingress.lean ====
section
/-! DEFINITION. A whole packet enters the router (R385): malformed packets (R347), link decryption (R450, R502), tenant decryption (R505,
R506), policing (R405, R406), register accesses of Phosha Link (R422, R425), multicast (R400 to R402), and routing (R387 to R392). -/

namespace Sys2Proof.Machine

/-- A packet that is not delivered to the queue engine: a DOORBELL gives its transport credit back (R358, R506). -/
def State.lostPkt (s : State) (p : LinkPort) (pkt : Packet) (vc : Nat) : State :=
  if vc = vcReq ∧ pkt.opc = 0x84#8 then s.freeBell p else s

/-- A malformed packet (R347): counted by its port. -/
def State.badPkt (s : State) (p : LinkPort) : State := if isPl p then s.tally (ctrQue 7 (p.val - 32)) else s.tally (ctrTfl 10 p.val)

/-! Link decryption (R450, R501, R502). -/

/-- A packet arrives under a slot: the slot's packet counter advances. -/
def PortCrypto.arrive (c : PortCrypto) (pkt : Packet) : PortCrypto :=
  let k := linkSlotOf c pkt.linkSlot
  if pkt.linkEnc && k.key.isSome then setLinkSlot c pkt.linkSlot { k with rxCount := k.rxCount + 1 } else c

/-- The plaintext of a packet that arrived under a slot, when its tag is good. -/
def PortCrypto.open (c : PortCrypto) (p : LinkPort) (pkt : Packet) : Option Packet :=
  let k := linkSlotOf c pkt.linkSlot
  match k.key with
  | none => none
  | some key =>
    if pkt.payload.isEmpty then none
    else (openBytes key (linkIv p false pkt.linkSlot k.rxCount) (headerBytes pkt) (payloadBytes pkt.payload)).map
      (fun pt => { pkt with linkEnc := false, linkSlot := false, payload := toUnits pt })

/-- The device accepted a packet under a slot: unprotected packets are refused from now on, and the first packet under the slot that the
device now sends under confirms it, so that the old slot retires. -/
def PortCrypto.accepted (c : PortCrypto) (b : Bool) : PortCrypto :=
  let sends := (c.sendNext.map (fun x => x.1)).or c.sendSlot
  let old := (linkSlotOf c (!b)).key.isSome
  { c with required := true, retire := if sends = some b ∧ old ∧ c.retire.isNone then some (!b, 0) else c.retire }

/-- Link decryption at a Phosha Link port: the packet to go on with and the tenant whose session installed the key, or none when the packet is
discarded. -/
def State.linkOpen (s : State) (p : LinkPort) (pkt : Packet) : State × Option (Packet × Option Tenant) :=
  let c := s.crypto p
  let s1 := s.setCrypto p (c.arrive pkt)
  let fail : State := (s1.tally (ctrQue 6 (p.val - 32))).raise
    (mkReport 0x06 0x03 1 (unitPort p) pkt.opc.toNat (bitNat pkt.linkSlot 0))
  if pkt.linkEnc then
    match c.open p pkt with
    | none => (fail, none)
    | some q => (s1.setCrypto p ((s1.crypto p).accepted pkt.linkSlot), some (q, some (linkSlotOf c pkt.linkSlot).owner))
  else if c.required then (fail, none)
  else (s1, some (pkt, none))

/-! Tenant decryption (R504 to R506). -/

/-- Open a packet with ENC set under its slot. -/
def streamOpen (k : KeySlot) (pkt : Packet) : Option Packet :=
  match pkt.payload with
  | blk :: rest =>
    let block := bytesOf blk 16
    if rest.isEmpty then none
    else (openBytes k.key (streamIv (blk.extractLsb' 64 14) pkt.keyEpoch (blk.extractLsb' 0 64).toNat) (streamAad pkt block)
      (payloadBytes rest)).map (fun pt => { pkt with enc := false, keyEpoch := false, payload := toUnits pt })
  | [] => none

/-- A local packet that arrived on TFL (R506): the plaintext and the tenant it is authenticated for, or none when it is dropped. -/
def State.streamTake (s : State) (pkt : Packet) : State × Option (Packet × Option Tenant) :=
  let x := s.tenant pkt.tenant
  if pkt.enc then
    let k := streamSlot x pkt.keyEpoch
    if !tenantBoundTo x then (s.tally (ctrSec 2), none)
    else if k.state = .empty then (s.tally (ctrSec 1), none)
    else match streamOpen k pkt with
    | some q => (s, some (q, some pkt.tenant))
    | none =>
      let s1 := s.tally (ctrSec 0)
      let sender := ((pkt.payload.head?).getD 0#128).extractLsb' 64 14
      (if s1.sec.authReported then s1
       else ({ s1 with sec := { s1.sec with authReported := true } }).raise
         (mkReport 0x0B 0x01 1 unitHeadland sender.toNat pkt.tenant.toNat), none)
  else if x.required then (s.tally (ctrSec 3), none)
  else (s, some (pkt, none))

/-! Policing (R405, R406). -/

/-- A policer's colours. -/
inductive Colour where
  | green | yellow | red
deriving DecidableEq, Repr

/-- The colour of a packet of b bytes from its pre-colour (0 green, 1 yellow, else red), and the policer after it. -/
def Policer.meter (x : Policer) (pre b : Nat) : Colour × Policer :=
  if 1 < pre ∨ x.tp < b then (.red, x)
  else if pre = 1 ∨ x.tc < b then (.yellow, { x with tp := x.tp - b })
  else (.green, { x with tc := x.tc - b, tp := x.tp - b })

/-- Police an arriving packet of b bytes, as it entered the device: the packet to go on with, or none when it is discarded. -/
def State.police (s : State) (p : LinkPort) (pkt : Packet) (b : Nat) (vc : Nat) : State × Option Packet :=
  let c := mget PortCtrl.reset s.rtr.ports (rtrPort p)
  let key := policerKey pkt.tenant pkt.cls
  let x := mget Policer.reset s.rtr.policers key
  if !c.policeEn || !(vc == vcReq || vc == vcBulk) || !polValid x.entry then (s, some pkt)
  else
    let pre := if x.entry.getLsbD 96 then (c.precolor.extractLsb' (2 * pkt.cls.toNat) 2).toNat else 0
    let (colour, x') := x.meter pre b
    let s1 := ({ s with rtr := { s.rtr with policers := mset Policer.reset s.rtr.policers key x' } }).ledger 6
      ((x'.tc + x'.tp : Int) - (x.tc + x.tp : Int))
    let drop (st : State) : State := st.tally (ctrTen 7 pkt.tenant.toNat)
    match colour with
    | .green => (s1, some pkt)
    | .red => (drop (s1.tally (ctrRtr 10)), none)
    | .yellow =>
      let s2 := s1.tally (ctrRtr 11)
      if x.entry.getLsbD 97 then (drop s2, none)
      else (s2, some (if x.entry.getLsbD 98 then { pkt with cls := x.entry.extractLsb' 99 2 } else pkt))

/-! Register accesses (R422, R425). -/

/-- REG_RD: the answer leaves on the port of arrival; a misaligned one reads zeros with OP_ALIGN. -/
def State.windowRead (s : State) (p : LinkPort) (pl : PlPort) (pkt : Packet) : State :=
  let off := (pkt.addr.extractLsb' 0 24).toNat
  let eight := pkt.aux.getLsbD 0
  let bad : Bool := off % (if eight then 8 else 4) != 0
  let (ws, s1) := if bad then (([] : List W32), s) else s.takeWords (.window pl) off (if eight then 2 else 1)
  let v : BitVec 128 := BitVec.ofNat 128 ((ws.getD 0 0#32).toNat + 2 ^ 32 * (ws.getD 1 0#32).toNat)
  let ans : Packet := { pktBlank 0x87#8 with
    dst := pkt.src, tag := pkt.tag, cls := pkt.cls, tenant := pkt.tenant, addr := pkt.addr, aux := pkt.aux,
    status := if bad then stAlign else 0#8, payload := [v] }
  s1.enqueue p ⟨s1.mine ans, vcRsp, none, none⟩

/-- REG_RD and REG_WR at a Phosha Link port. -/
def State.serveReg (s : State) (p : LinkPort) (pkt : Packet) : State :=
  let pl : PlPort := ⟨(p.val - 32) % 2, Nat.mod_lt _ (by decide)⟩
  if pkt.opc = 0x85#8 then s.windowRead p pl pkt
  else s.windowWrite pl (pkt.addr.extractLsb' 0 24).toNat (pkt.aux.getLsbD 0) (((pkt.payload.head?).getD 0#128).setWidth 64)

/-! Routing. -/


/-- A multicast packet (R400 to R402): refused, or copied to its group's ports and destinations. The local copy of a TFL packet passes R506. -/
def State.spread (s : State) (p : LinkPort) (pkt : Packet) (vc : Nat) (owner : Option Tenant) : State :=
  match (if pkt.opc = 0x81#8 ∧ vc = vcBulk then s.groupOf (pkt.dst.extractLsb' 0 12) pkt.tenant else none) with
  | none => (s.tally (ctrRtr 9)).rtrReport 0x02 1 unitRouter (pkt.dst.toNat % 4096) pkt.tenant.toNat
  | some e =>
    let s1 := s.replicate pkt (e &&& ~~~(1#48 <<< 32)) (some p) none none none
    if e.getLsbD 32 && s.rtr.nodeId != 0x3FFF#14 then
      let own (q : Packet) : Packet := { q with addr := (q.addr &&& ~~~(0x3FFF#64 <<< 40)) ||| (s.rtr.nodeId.setWidth 64 <<< 40) }
      if isPl p then s1.deliver ⟨own pkt, p, none, owner, none, vc⟩ vc
      else match s1.streamTake pkt with
        | (s2, some (q, auth)) => s2.deliver ⟨own q, p, auth, none, none, vc⟩ vc
        | (s2, none) => s2
    else s1

/-- A packet whose ports' checks are done: a local one that arrived on TFL passes R506, then it is policed, then routed. b: its bytes as it arrived. -/
def State.routeIn (s : State) (p : LinkPort) (pkt : Packet) (b : Nat) (vc : Nat) (owner : Option Tenant) : State :=
  let isLocal : Bool := !pkt.mcast && ((s.nextHop pkt vc).1 == .here)
  let (s1, taken) := if isLocal && !isPl p then s.streamTake pkt else (s, some (pkt, none))
  match taken with
  | none => s1.lostPkt p pkt vc
  | some (q, auth) =>
    match s1.police p q b vc with
    | (s2, none) => s2.lostPkt p q vc
    | (s2, some r) =>
      if isPl p && (r.opc == 0x85#8 || r.opc == 0x86#8) then s2.serveReg p r
      else if !s2.genOk r.gen then (s2.tally (ctrRtr 0)).lostPkt p r vc
      else if r.mcast then (s2.spread p r vc owner).lostPkt p r vc
      else
        let s3 := s2.forward r vc none p auth owner
        if isLocal then s3 else s3.lostPkt p r vc

/-- The generation an arriving packet is routed under (R391). -/
def State.stampGen (s : State) (p : LinkPort) (pkt : Packet) : Packet :=
  if isPl p || (mget PortCtrl.reset s.rtr.ports (rtrPort p)).stampGen then { pkt with gen := s.rtr.activeGen } else pkt

/-- A packet that may come in on a standby port (R423). -/
def standbyOk (opc : BitVec 8) : Bool := opc == 0x85#8 || opc == 0x86#8 || opc == 0x87#8

/-- A packet that has left its receive buffer. -/
def State.takeIn (s : State) (p : LinkPort) (pkt : Packet) (vc : Nat) : State :=
  if pktMalformed pkt (isPl p) vc then
    ((if isPl p then s.setCrypto p ((s.crypto p).arrive pkt) else s).badPkt p).lostPkt p pkt vc
  else if isPl p then
    match s.linkOpen p pkt with
    | (s1, none) => s1.lostPkt p pkt vc
    | (s1, some (q, owner)) =>
      if p ≠ s.activePl ∧ !standbyOk q.opc then (s1.tally (ctrQue 5 (p.val - 32))).lostPkt p q vc
      else s1.routeIn p (s1.stampGen p q) (pktBytes pkt) vc owner
  else (s.tallyBytes 6 pkt.tenant (pktBytes pkt)).routeIn p (s.stampGen p pkt) (pktBytes pkt) vc none

/-- A multicast packet waits in its receive buffer while an egress queue it will be copied to has no room for it (R402). -/
def State.mcastWaits (s : State) (p : LinkPort) (pkt : Packet) (vc : Nat) : Bool :=
  pkt.mcast && pkt.opc == 0x81#8 && vc == vcBulk && (match s.groupOf (pkt.dst.extractLsb' 0 12) pkt.tenant with
    | none => false
    | some e => (List.finRange 34).any (fun q => q != p && !(s.link q).lost && !s.hasRoom q pkt &&
        ((decide (q.val < 32) && e.getLsbD q.val) || (e.getLsbD 33 && q == s.activePl))))

/-- PACKET_INGRESS: the oldest whole packet of a VC. -/
def packetIngress (p : LinkPort) (vc : Nat) (s : State) : State :=
  let l := s.link p
  match (l.rx.vc vc).takePacket with
  | none => s
  | some (pkt, x) =>
    if s.mcastWaits p pkt vc then s
    else (s.setLink p { l with rx := l.rx.setVc vc (x.repause l.h) }).takeIn p pkt vc

def execPacketIngress (p : LinkPort) (vc : Fin 4) (s : State) : Host.Outcome State Fault Refusal :=
  .next (s.quiet.whenLive (packetIngress p vc.val))

end Sys2Proof.Machine
end

