-- ==== Sys2Proof/Machine/Mgmt.lean ====
section
/-! DEFINITION. MGMT (R489, R491, R496): management commands carried in an operator's session, their fields and their answers. -/

namespace Sys2Proof.Machine

/-- A field of n bytes at an offset, as a value of w bits; a value that has more bits is none of the field's range. -/
def mgmtField (w : Nat) (f : List Byte) (off n : Nat) : Option (BitVec w) :=
  if fieldAt f off n < 2 ^ w then some (BitVec.ofNat w (fieldAt f off n)) else none

/-- What a management command's fields say: a body of the wrong length, fields outside their ranges, or the command to run. -/
inductive MgmtCall where
  | badLength
  | badArgs
  | call (f : State → State)

/-- A command with one endpoint or one other number of two bytes. -/
def mgmtOne (w : Nat) (f : List Byte) (g : BitVec w → State → State) : MgmtCall :=
  if f.length ≠ 2 then .badLength
  else match mgmtField w f 0 2 with
    | some x => .call (g x)
    | none => .badArgs

/-- A command without fields. -/
def mgmtNone (f : List Byte) (g : State → State) : MgmtCall := if f.length ≠ 0 then .badLength else .call g

/-- EXT_GRANT's fields. -/
def mgmtGrant (f : List Byte) : MgmtCall :=
  if f.length ≠ 21 then .badLength
  else match mgmtField 10 f 0 2, mgmtField 14 f 11 2 with
    | some t, some ep =>
      if 1 < fieldAt f 8 1 then .badArgs
      else .call (extGrant
        { tenant := t, kind := BitVec.ofNat 8 (fieldAt f 2 1), place := BitVec.ofNat 8 (fieldAt f 3 1),
          granules := BitVec.ofNat 32 (fieldAt f 4 2), reserve := BitVec.ofNat 32 (fieldAt f 6 2), discard := fieldAt f 8 1 == 1,
          baseSlot := BitVec.ofNat 16 (fieldAt f 9 2), notifyEp := ep, notifyAddr := BitVec.ofNat 64 (fieldAt f 13 8) })
    | _, _ => .badArgs

/-- A command with one number of two bytes and a list of words of four bytes after its count. -/
def mgmtList (w : Nat) (f : List Byte) (g : BitVec w → List W32 → State → State) : MgmtCall :=
  let n := fieldAt f 2 2
  if f.length ≠ 4 + 4 * n ∨ f.length < 4 then .badLength
  else match mgmtField w f 0 2 with
    | some x => .call (g x (bodyEntries n (f.drop 4)))
    | none => .badArgs

/-- The table of RTR_TABLE_READ: 0 and 1 the copies of the route table, then multicast, policers and shapers. -/
def mgmtTable (f : List Byte) : MgmtCall :=
  if f.length ≠ 5 then .badLength
  else
    let i := BitVec.ofNat 16 (fieldAt f 1 2)
    let n := BitVec.ofNat 16 (fieldAt f 3 2)
    match fieldAt f 0 1 with
    | 0 => .call (rtrTableRead .route0 i n)
    | 1 => .call (rtrTableRead .route1 i n)
    | 2 => .call (rtrTableRead .mcast i n)
    | 3 => .call (rtrTableRead .policer i n)
    | 4 => .call (rtrTableRead .shaper i n)
    | _ => .badArgs

/-- The router's commands that write one entry. -/
def mgmtPolicer (f : List Byte) : MgmtCall :=
  if f.length ≠ 19 then .badLength
  else match mgmtField 10 f 0 2, mgmtField 2 f 2 1 with
    | some t, some c => .call (rtrPolicerWrite t c (BitVec.ofNat 128 (fieldAt f 3 16)))
    | _, _ => .badArgs

def mgmtPlkGrant (f : List Byte) : MgmtCall :=
  if f.length ≠ 7 then .badLength
  else match mgmtField 10 f 1 2, mgmtField 14 f 3 2, mgmtField 14 f 5 2 with
    | some t, some e, some m => .call (plkGrant (BitVec.ofNat 8 (fieldAt f 0 1)) t e m)
    | _, _, _ => .badArgs

def mgmtReel (f : List Byte) : MgmtCall :=
  if f.length ≠ 14 then .badLength
  else match mgmtField 10 f 0 2 with
    | some t => .call (mgmtReelLoad t (BitVec.ofNat 64 (fieldAt f 2 8)) (BitVec.ofNat 32 (fieldAt f 10 4)))
    | none => .badArgs

/-- REG_WRITE: the count of the list is COUNT. -/
def mgmtRegWrite (f : List Byte) : MgmtCall :=
  let n := fieldAt f 4 2
  if f.length ≠ 6 + 4 * n ∨ f.length < 6 then .badLength
  else .call (regWrite (BitVec.ofNat 32 (fieldAt f 0 4)) (BitVec.ofNat 16 n) (bodyEntries n (f.drop 6)))

/-- A command whose fields all fill their bytes. -/
def mgmtPlain (f : List Byte) (n : Nat) (g : State → State) : MgmtCall := if f.length ≠ n then .badLength else .call g

/-- The command of a code with its fields (R496). -/
def mgmtCall (code : Nat) (f : List Byte) : MgmtCall :=
  match code with
  | 0x01 => mgmtGrant f
  | 0x02 => mgmtList 13 f extSetRights
  | 0x03 => mgmtOne 13 f extRevoke
  | 0x04 => mgmtOne 13 f extQuery
  | 0x10 => mgmtOne 14 f cohAgentAdd
  | 0x11 => mgmtOne 14 f cohAgentRemove
  | 0x12 => mgmtOne 14 f cohDeclareDead
  | 0x13 => mgmtOne 14 f cohAgentQuery
  | 0x20 => mgmtList 16 f rtrRouteWrite
  | 0x21 => mgmtNone f rtrRouteSwitch
  | 0x22 => mgmtPlain f 8 (rtrMcastWrite (BitVec.ofNat 16 (fieldAt f 0 2)) (BitVec.ofNat 48 (fieldAt f 2 6)))
  | 0x23 => mgmtPolicer f
  | 0x24 => mgmtPlain f 18 (rtrShaperWrite (BitVec.ofNat 16 (fieldAt f 0 2)) (BitVec.ofNat 128 (fieldAt f 2 16)))
  | 0x25 => mgmtTable f
  | 0x30 => mgmtPlkGrant f
  | 0x31 => mgmtNone f plkTakeover
  | 0x40 => mgmtPlain f 5 (cntReadClear (BitVec.ofNat 32 (fieldAt f 0 4)) (BitVec.ofNat 16 (fieldAt f 4 1)))
  | 0x41 => mgmtNone f healthRead
  | 0x42 => mgmtPlain f 8 (dumpRead (BitVec.ofNat 32 (fieldAt f 0 4)) (BitVec.ofNat 32 (fieldAt f 4 4)))
  | 0x43 => mgmtNone f dumpClear
  | 0x44 => mgmtPlain f 6 (reportRead (BitVec.ofNat 32 (fieldAt f 0 4)) (BitVec.ofNat 16 (fieldAt f 4 2)))
  | 0x50 => mgmtPlain f 6 (regRead (BitVec.ofNat 32 (fieldAt f 0 4)) (BitVec.ofNat 16 (fieldAt f 4 2)))
  | 0x51 => mgmtRegWrite f
  | 0x60 => mgmtReel f
  | 0x61 => mgmtOne 16 f mgmtReelUnload
  | _ => .badArgs

/-- The codes that a node-fatal state serves (R496, R589). -/
def mgmtFatalCodes : List Nat := [0x41, 0x42, 0x43, 0x44]

/-- The answer to a MGMT message. -/
def State.mgmtAnswer (s : State) (m : SecMsg) (code : BitVec 8) (result : Nat) (bytes : List Byte) : State :=
  s.headReply m secOk ([code, BitVec.ofNat 8 result, 0#8, 0#8] ++ bytes)

/-- The answer of a code's command, when it has come; the message that waited for it takes it. -/
def State.takeReply (s : State) (code : BitVec 8) : Option (Nat × List Byte × State) :=
  match s.sec.mgmtReplies.find? (fun r => r.1 == code) with
  | none => none
  | some r =>
    some (r.2.1, r.2.2, { s with sec := { s.sec with mgmtReplies := s.sec.mgmtReplies.erase r },
                                 out := s.out.filter (fun o => match o with
                                   | .mgmtReply c _ _ => c != code
                                   | _ => true) })

/-- A command whose answer may come later than its effects begin: EXT_SET_RIGHTS, COH_AGENT_REMOVE and REEL_UNLOAD. -/
def mgmtWaitCode (code : Nat) : Bool := code == 0x02 || code == 0x11 || code == 0x61

/-- Run a MGMT message's command: its answer goes out, or is awaited. -/
def State.mgmtRun (s : State) (m : SecMsg) (before : State) : State :=
  let code := (m.body.getD 0 0#8)
  let n := code.toNat
  if m.body.length < 4 ∨ !bodyZero m.body 1 3 then s.headReply m secBadMsg []
  else if s.dbg.fatal && !mgmtFatalCodes.contains n then s.mgmtAnswer m code 7 []
  else match mgmtCall n (m.body.drop 4) with
  | .badLength => s.headReply m secBadMsg []
  | .badArgs => s.mgmtAnswer m code 7 []
  | .call f =>
    let s1 := f { s with sec := { s.sec with mgmtWaits := s.sec.mgmtWaits ++ [code] } }
    match s1.takeReply code with
    | some (r, bytes, s2) => s2.mgmtAnswer m code r bytes
    | none =>
      if mgmtWaitCode n then { s1 with sec := { s1.sec with msgs := s1.sec.msgs ++ [{ m with started := true }] } }
      else before

/-- A message whose command has begun: its answer goes out once it has come. -/
def State.mgmtResume (s : State) (i : Nat) (m : SecMsg) : State :=
  let code := (m.body.getD 0 0#8)
  match s.takeReply code with
  | none => s
  | some (r, bytes, s1) =>
    let s2 := { s1 with sec := { s1.sec with msgs := s1.sec.msgs.eraseIdx i } }
    if (s2.msgSession m).isSome then s2.mgmtAnswer m code r bytes else s2

/-- MGMT. -/
def mgmt (i : Nat) (s : State) : State :=
  match s.sec.msgs[i]? with
  | none => s
  | some m =>
    if m.started then s.mgmtResume i m
    else headRun i 0xF0 (headOperator (fun x _ t => t.mgmtRun x s)) s

def execMgmt (m : Nat) (s : State) : Host.Outcome State Fault Refusal := .next (s.quiet.whenAwake (mgmt m))

end Sys2Proof.Machine
end

