-- ==== Sys2Proof/Machine/PoolMath.lean ====
section
/-! DEFINITION. The built-in operations that compute (R181 to R191): OPT_STEP, ATTEND and GATHER_BAG. Each FP32 operation adds its events
to the tile status word (R79). -/

namespace Sys2Proof.Machine

/-- A value with the events of computing it. -/
abbrev Ev := W32 × Status16

def evAdd (a b : Ev) : Ev := let (r, f) := f32Add a.1 b.1; (r, a.2 ||| b.2 ||| f)
def evSub (a b : Ev) : Ev := let (r, f) := f32Sub a.1 b.1; (r, a.2 ||| b.2 ||| f)
def evMul (a b : Ev) : Ev := let (r, f) := f32Mul a.1 b.1; (r, a.2 ||| b.2 ||| f)
def evFma (a b c : Ev) : Ev := let (r, f) := f32Fma a.1 b.1 c.1; (r, a.2 ||| b.2 ||| c.2 ||| f)
def evNeg (a : Ev) : Ev := (f32Neg a.1, a.2)
def evMax (a b : Ev) : Ev := let (r, f) := f32MinMax true a.1 b.1; (r, a.2 ||| b.2 ||| f)
def evFn (fn : TransFn) (a : Ev) : Ev := let (r, f) := transOp fn a.1; (r, a.2 ||| f)

/-- A constant. -/
def evK (w : W32) : Ev := (w, fNone)

/-- a > 0 as IEEE 754 compares. -/
def evPos (a : Ev) : Bool := Val.zero.lt (f32Val a.1)
def evNegv (a : Ev) : Bool := (f32Val a.1).lt Val.zero

def evFlags (l : List Ev) : Status16 := l.foldl (fun f e => f ||| e.2) fNone

/-! OPT_STEP (R181 to R185). -/

/-- The parameter block (R183). -/
structure OptParam where
  lr : W32
  b1 : W32
  b2 : W32
  eps : W32
  wd : W32
  gradScale : W32
  bc1 : W32
  bc2 : W32
  pubScale : W32
  seed : W64
deriving DecidableEq, Repr

def optParam (b : List Byte) : OptParam :=
  let w (o : Nat) : W32 := BitVec.ofNat 32 (fieldAt b o 4)
  ⟨w 0, w 4, w 8, w 12, w 16, w 20, w 24, w 28, w 32, BitVec.ofNat 64 (fieldAt b 40 8)⟩

/-- The bytes of the block that must be 0 are. -/
def optParamClean (b : List Byte) : Bool := fieldAt b 36 4 == 0 && fieldAt b 48 16 == 0

def optAlgo (d : Desc) : Nat := descField d 56 1
def optFmtGrad (d : Desc) : Nat := descField d 57 1 % 16
def optFmtPub (d : Desc) : Nat := descField d 57 1 / 16
def optArith (d : Desc) : BitVec 8 := d.extractLsb' 464 8
def optPublish (d : Desc) : Bool := d.getLsbD 472
def optFinite (d : Desc) : Bool := d.getLsbD 473
def optNesterov (d : Desc) : Bool := d.getLsbD 474
def optElems (d : Desc) : Nat := descField d 48 8
def optParamAt (d : Desc) : Place := ⟨d.getLsbD 475, descField d 40 8⟩

/-- Arrays of FP32 state: w, m, and v for AdamW and Adam (R182). -/
def optArrays (d : Desc) : Nat := if optAlgo d ≤ 1 then 3 else 2

def optSpec : PoolSpec where
  opcode := 0x20#8
  checks := fun _ _ d => firstBad
    [(!descClean d [(16, 8), (24, 8), (32, 8), (40, 8), (48, 8), (56, 1), (57, 1), (58, 1), (59, 1), (60, 1)] || flagsOver d 59 4 ||
        decide (3 < optAlgo d) || (optNesterov d && optAlgo d != 2) || !arithOk (optArith d) || arithComp (optArith d) ||
        arithWrap (optArith d) || (!optPublish d && descField d 32 8 != 0), stBadDesc),
     (decide (2 < optFmtGrad d) || decide (4 < optFmtPub d), stBadFormat),
     (decide (optElems d < 32) || decide (2 ^ 34 < optElems d), stBadLength),
     (misaligned (descField d 16 8) || misaligned (descField d 24 8) || misaligned (descField d 32 8) || misaligned (descField d 40 8) ||
        optElems d % 32 != 0, stAlign)]
  list := noList
  after := noCheck
  mask := fun d => d.extractLsb' 480 8
  host := fun d _ => hostUse (optParamAt d).host (optParamAt d).addr 64 false

/-- The new weight and moments of one element (R184). -/
def optUpdate (d : Desc) (p : OptParam) (c1 c2 : Ev) (g0 w m v : Ev) : Ev × Ev × Ev :=
  let wd := evK p.wd
  let b1 := evK p.b1
  let b2 := evK p.b2
  let nlr := evNeg (evK p.lr)
  match optAlgo d with
  | 2 =>
    let g := evFma wd w g0
    let m1 := evFma b1 m g
    let u := if optNesterov d then evFma b1 m1 g else m1
    (evFma nlr u w, m1, v)
  | 3 =>
    let c := evFma b1 m (evMul c1 g0)
    let u : Ev := (if evPos c then 0x3F800000#32 else if evNegv c then 0xBF800000#32 else 0#32, c.2)
    (evFma nlr (evFma wd w u) w, evFma b2 m (evMul c2 g0), v)
  | a =>
    let g := if a = 1 then evFma wd w g0 else g0
    let m1 := evFma b1 m (evMul c1 g)
    let v1 := evFma b2 v (evMul c2 (evMul g g))
    let mh := evMul m1 (evK p.bc1)
    let vh := evMul v1 (evK p.bc2)
    let sq : Ev := if evPos vh then evMul vh (evFn .rsqrt vh) else (0#32, vh.2)
    let dd := evMul mh (evFn .rcp (evAdd sq (evK p.eps)))
    (if a = 0 then evFma nlr (evFma wd w dd) w else evFma nlr dd w, m1, v1)

/-- The publication of a new weight: its encoding in FMT_PUB (R184, R148). -/
def optPub (d : Desc) (p : OptParam) (i : Nat) (w : Ev) : Nat × Status16 :=
  let x := evMul w (evK p.pubScale)
  let (c, f) := narrow (optFmtPub d) (optArith d) (opDraw p.seed i) x.1
  (c, x.2 ||| f)

/-- g of every element: the gradient scaled (R184). -/
def optGrads (d : Desc) (p : OptParam) (gr : List Byte) : List Ev :=
  (List.range (optElems d)).map (fun i => evMul (arrayF32 (optFmtGrad d) gr i) (evK p.gradScale))

/-- The lowest element whose g is NaN or infinite (R185). -/
def optBad (gs : List Ev) : Option Nat := gs.findIdx? (fun g => match f32Val g.1 with
  | .num _ _ _ => false
  | _ => true)

/-- A range of bytes meets an element of an array other than element i. -/
def meetsOther (base size count i : Nat) (r : Range) : Bool :=
  rangesMeet r (base, size * count) &&
  (decide ((max r.1 base - base) / size ≠ i) || decide ((min (r.1 + r.2) (base + size * count) - 1 - base) / size ≠ i))

/-- What element i is computed from may have been overwritten by another element's results before it was read (R184). -/
def optFree (d : Desc) (i : Nat) : Bool :=
  let e := optElems d
  let st := descField d 16 8
  let gs := elemSize (optFmtGrad d)
  let inputs : List Range := (descField d 24 8 + gs * i, gs) :: (List.range (optArrays d)).map (fun k => (st + 4 * (k * e + i), 4))
  inputs.any (fun r =>
    (List.range (optArrays d)).any (fun k => meetsOther (st + 4 * (k * e)) 4 e i r) ||
    (optPublish d && meetsOther (descField d 32 8) (elemSize (optFmtPub d)) e i r))

/-- What the operation writes, from its state and its scaled gradient. -/
def optRun (s : State) (d : Desc) (p : OptParam) (st : List Byte) (gs : List Ev) : PoolRes :=
  let e := optElems d
  let one := evK 0x3F800000#32
  let c1 := evSub one (evK p.b1)
  let c2 := evSub one (evK p.b2)
  let at_ (k i : Nat) : Ev := evK (BitVec.ofNat 32 (fieldAt st (4 * (k * e + i)) 4))
  let news := (List.range e).map (fun i => optUpdate d p c1 c2 (gs.getD i (evK 0#32)) (at_ 0 i) (at_ 1 i) (at_ 2 i))
  let words (f : Ev × Ev × Ev → Ev) : List Byte := news.flatMap (fun r => bytesOf (f r).1 4)
  let state := words (fun r => r.1) ++ words (fun r => r.2.1) ++ (if optArrays d = 3 then words (fun r => r.2.2) else [])
  let pubs := ((List.range e).zip news).map (fun ir => optPub d p ir.1 ir.2.1)
  let size := elemSize (optFmtPub d)
  let stateAt : Place := ⟨false, descField d 16 8⟩
  let pubAt : Place := ⟨false, descField d 32 8⟩
  let flags := evFlags (news.flatMap (fun r => [r.1, r.2.1] ++ (if optArrays d = 3 then [r.2.2] else [])))
  let freeS (k : Nat) : Bool := optFree d (k / 4 % e)
  let freeP (k : Nat) : Bool := optFree d (k / size) || rangesMeet (pubAt.addr + k, 1) (stateAt.addr, 4 * e * optArrays d)
  ⟨(stateAt, s.overlapBytes freeS state) ::
     (if optPublish d then [(pubAt, s.overlapBytes freeP (pubs.flatMap (fun r => natBytes size r.1)))] else []),
   flags ||| (if optPublish d then pubs.foldl (fun f r => f ||| r.2) fNone else fNone), 0#64, stOk⟩

/-- OPT_STEP: the parameters and the gradient are read first (R185); a parameter block whose zero bytes are not 0 ends it with OP_BAD_DESC
(DEDUCED: log entry 70). -/
def optEffect (s : State) (o : OpRec) (io : OutsideIo) : Except PStop PoolRes × State :=
  let d := o.desc
  match s.fetchAll o io [(optParamAt d, 64), (⟨false, descField d 24 8⟩, optElems d * elemSize (optFmtGrad d))] with
  | (.error x, s1) => (.error x, s1)
  | (.ok l, s1) =>
    let blk := l.getD 0 []
    if !optParamClean blk then (.error (.refused stBadDesc), s1)
    else
      let p := optParam blk
      let gs := optGrads d p (l.getD 1 [])
      match if optFinite d then optBad gs else none with
      | some i => (.ok ⟨[], evFlags gs, BitVec.ofNat 64 i, stNonfinite⟩, s1)
      | none => match s1.fetch o ⟨false, descField d 16 8⟩ (4 * optElems d * optArrays d) io with
        | (.error x, s2) => (.error x, s2)
        | (.ok st, s2) => (.ok (optRun s2 d p st gs), s2)

def execOptStep (q : Qp) (h : Nat) (b : BlockId) (io : OutsideIo) (s : State) : Host.Outcome State Fault Refusal :=
  .next (s.quiet.whenLive (fun t => t.runPool optSpec q h b io optEffect))

/-! ATTEND (R186 to R189). -/

def atMerge (d : Desc) : Bool := d.getLsbD 496
def atTokens (d : Desc) : Nat := descField d 48 4
def atShift (d : Desc) : Nat := descField d 56 1
def atHq (d : Desc) : Nat := descField d 57 1
def atHkv (d : Desc) : Nat := descField d 58 1
def atDim (d : Desc) : Nat := 64 * 2 ^ descField d 59 1
def atFmtKv (d : Desc) : Nat := descField d 60 1 % 16
def atFmtQ (d : Desc) : Nat := descField d 60 1 / 16
def atArith (d : Desc) : BitVec 8 := d.extractLsb' 488 8

/-- SCALE, or 1/√HEAD_DIM rounded to FP32. -/
def atScale (d : Desc) : W32 :=
  let w : W32 := d.extractLsb' 416 32
  if w ≠ 0#32 then w else match descField d 59 1 with
    | 0 => 0x3E000000#32
    | 1 => 0x3DB504F3#32
    | _ => 0x3D800000#32

def log2e : W32 := 0x3FB8AA3B#32
def ln2 : W32 := 0x3F317218#32
def ninfW : W32 := 0xFF800000#32

/-- Bytes of the output up to its LSE values (R187). -/
def atOutBytes (d : Desc) : Nat := roundUp (atHq d * atDim d * elemSize (atFmtQ d)) 64

def attendSpec : PoolSpec where
  opcode := 0x21#8
  checks := fun _ _ d => firstBad
    [(!descClean d [(16, 48)] || flagsOver d 62 1 || decide (2 < descField d 59 1) || !arithOk (atArith d) || arithRnd (atArith d) ||
        arithComp (atArith d) || arithWrap (atArith d) ||
        (atMerge d && (descField d 24 8 != 0 || descField d 32 8 != 0 || atShift d != 0 || atHkv d != 0)), stBadDesc),
     (atFmtKv d == 0 || decide (4 < atFmtKv d) || decide (2 < atFmtQ d), stBadFormat),
     ((if atMerge d then decide (atTokens d < 2) || decide (64 < atTokens d)
       else atTokens d == 0 || decide (4194304 < atTokens d) || decide (atShift d < 4) || decide (10 < atShift d) || atHkv d == 0 ||
         decide (64 < atHkv d)) || atHq d == 0 || decide (64 < atHq d), stBadLength),
     (misaligned (descField d 16 8) || misaligned (descField d 24 8) || misaligned (descField d 32 8) || misaligned (descField d 40 8), stAlign)]
  list := fun d => if atMerge d then some (false, descField d 16 8, atTokens d) else none
  after := fun _ _ d => if !atMerge d && atHq d % atHkv d != 0 then some stBadShape else none
  mask := fun d => d.extractLsb' 504 8
  host := fun _ _ => []

/-- The key of the orders that a built-in reel fixes (R188). -/
def atKey (d : Desc) (what : Nat) : Nat := ((what * 16 + atShift d) * 4 + descField d 59 1) * 256 + descField d 60 1

/-- Take the value that the reel's order names: it, and the rest. -/
def takeBy (key n step : Nat) (xs : List Ev) : Ev × List Ev :=
  let i := Config.reelOrder key n step % max 1 xs.length
  (xs.getD i (evK 0#32), xs.eraseIdx i)

/-- A sum of FP32 values, two at a time, in the order that the built-in reel fixes (R188): the order is free, each addition is not. -/
def reelSumFrom (key n : Nat) : Nat → List Ev → Ev
  | 0, xs => xs.headD (evK 0#32)
  | f + 1, xs =>
    if xs.length ≤ 1 then xs.headD (evK 0#32)
    else
      let (a, ys) := takeBy key n (2 * f) xs
      let (b, zs) := takeBy key n (2 * f + 1) ys
      reelSumFrom key n f (evAdd a b :: zs)

def reelSum (key : Nat) (xs : List Ev) : Ev := reelSumFrom key xs.length xs.length xs

/-- Put pairs in the order in which the built-in reel takes them. -/
def reelSorted (key n : Nat) : Nat → List (Ev × Ev) → List (Ev × Ev)
  | 0, _ => []
  | f + 1, xs =>
    let i := Config.reelOrder key n f % max 1 xs.length
    match xs[i]? with
    | none => []
    | some x => x :: reelSorted key n f (xs.eraseIdx i)

/-- A dot product accumulated in FP32 under R62, one product to a step, over as many lanes and in the order that the built-in reel fixes, the
lanes then summed (R188). -/
def reelDot (key : Nat) (ps : List (Ev × Ev)) : Ev :=
  let n := ps.length
  let xs := reelSorted key n n ps
  let k := max 1 (min (Config.reelLanes key n) n)
  reelSum (key * 2 + 1) ((List.range k).map (fun i =>
    (((List.range n).zip xs).filter (fun e => e.1 % k == i)).foldl (fun a e => evFma e.2.1 e.2.2 a) (evK 0#32)))

/-- exp2(x × LOG2E). -/
def evExp (x : Ev) : Ev := evFn .exp2 (evMul x (evK log2e))

/-- One segment of one query head: m_seg, l_seg and o_seg (R188). -/
def atSegment (d : Desc) (q : Nat → Ev) (ks vs : Nat → Nat → Ev) (tokens : Nat) : Ev × Ev × List Ev :=
  let dim := atDim d
  let dims := List.range dim
  let ss : List Ev := (List.range tokens).map (fun t =>
    evMul (evK (atScale d)) (reelDot (atKey d 0) (dims.map (fun j => (q j, ks t j)))))
  let m := (ss.drop 1).foldl evMax (ss.headD (evK ninfW))
  let ps := ss.map (fun x => evExp (evSub x m))
  let l : Ev := reelSum (atKey d 1) ps
  let pq : List Ev := ps.map (fun p => let (c, f) := narrow (atFmtQ d) 0#8 0 p.1; ((widenElem (atFmtQ d) c).1, p.2 ||| f))
  let os : List Ev := dims.map (fun j => reelDot (atKey d 2) (((List.range tokens).zip pq).map (fun tp => (tp.2, vs tp.1 j))))
  (m, l, os)

/-- The running combination of segments: M, L and O. -/
def atCombine (acc : Ev × Ev × List Ev) (sg : Ev × Ev × List Ev) : Ev × Ev × List Ev :=
  let mn := evMax acc.1 sg.1
  let a : Ev := if acc.1.1 = ninfW then evK 0#32 else evExp (evSub acc.1 mn)
  let b := evExp (evSub sg.1 mn)
  (mn, evAdd (evMul acc.2.1 a) (evMul sg.2.1 b), (acc.2.2.zip sg.2.2).map (fun o => evAdd (evMul o.1 a) (evMul o.2 b)))

/-- A head's output elements and its LSE. -/
def atFinish (d : Desc) (m l : Ev) (os : List Ev) : List (Nat × Status16) × Ev :=
  (os.map (fun o =>
    let x := evMul o (evFn .rcp l)
    let (c, f) := narrow (atFmtQ d) (atArith d) 0 x.1
    (c, x.2 ||| f)),
   evAdd m (evMul (evFn .log2 l) (evK ln2)))

/-- The operation's result from the heads' outputs. -/
def atResult (s : State) (d : Desc) (free : Bool) (heads : List (List (Nat × Status16) × Ev)) : PoolRes :=
  let size := elemSize (atFmtQ d)
  let o := heads.flatMap (fun h => h.1.flatMap (fun c => natBytes size c.1))
  let lse := heads.flatMap (fun h => bytesOf h.2.1 4)
  let at_ : Place := ⟨false, descField d 40 8⟩
  ⟨[(at_, s.overlapBytes (fun _ => free) o), (at_.plus (atOutBytes d), s.overlapBytes (fun _ => free) lse)],
   heads.foldl (fun f h => h.1.foldl (fun g c => g ||| c.2) (f ||| h.2.2)) fNone, 0#64, stOk⟩

/-- Bytes that the operation writes, padding included. -/
def atSpan (d : Desc) : Nat := atOutBytes d + 4 * atHq d

/-- An attention call over its pages. -/
def attendPages (s : State) (o : OpRec) (io : OutsideIo) : Except PStop PoolRes × State :=
  let d := o.desc
  let t := 2 ^ atShift d
  let dim := atDim d
  let kb := elemSize (atFmtKv d)
  let pageBytes := 2 * atHkv d * t * dim * kb
  let pages := (atTokens d + t - 1) / t
  let qBytes := atHq d * dim * elemSize (atFmtQ d)
  match s.fetchAll o io [(⟨false, descField d 16 8⟩, qBytes), (⟨false, descField d 32 8⟩, 4 * pages)] with
  | (.error x, s1) => (.error x, s1)
  | (.ok l, s1) =>
    let qb := l.getD 0 []
    let table := (List.range pages).map (fun j => fieldAt (l.getD 1 []) (4 * j) 4)
    let toks (j : Nat) : Nat := min t (atTokens d - j * t)
    -- the rows of K and V of each page's tokens, head by head
    let rows := (List.range pages).flatMap (fun j => (List.range (2 * atHkv d)).map (fun r =>
      ((⟨false, descField d 24 8 + table.getD j 0 * pageBytes + r * t * dim * kb⟩ : Place), toks j * dim * kb)))
    match s1.fetchAll o io rows with
    | (.error x, s2) => (.error x, s2)
    | (.ok data, s2) =>
      let heads := (List.range (atHq d)).map (fun hq =>
        let g := hq / (atHq d / atHkv d)
        let q (i : Nat) : Ev := arrayF32 (atFmtQ d) qb (hq * dim + i)
        let acc := (List.range pages).foldl (fun (a : Ev × Ev × List Ev) j =>
          let row (r tk i : Nat) : Ev := arrayF32 (atFmtKv d) (data.getD (j * 2 * atHkv d + r) []) (tk * dim + i)
          atCombine a (atSegment d q (row g) (row (atHkv d + g)) (toks j)))
          (evK ninfW, evK 0#32, List.replicate dim (evK 0#32))
        atFinish d acc.1 acc.2.1 acc.2.2)
      let span : Range := (descField d 40 8, atSpan d)
      let free := rangesMeet span (descField d 16 8, qBytes) || rangesMeet span (descField d 32 8, 4 * pages) ||
        rows.any (fun r => rangesMeet span (r.1.addr, r.2))
      (.ok (atResult s2 d free heads), s2)

/-- A merge of partial results in list order (R189). -/
def attendMerge (s : State) (o : OpRec) (io : OutsideIo) : Except PStop PoolRes × State :=
  let d := o.desc
  let dim := atDim d
  let parts := o.list.map (fun a => ((⟨false, a⟩ : Place), atSpan d))
  match s.fetchAll o io parts with
  | (.error x, s1) => (.error x, s1)
  | (.ok data, s1) =>
    let heads := (List.range (atHq d)).map (fun hq =>
      let lses : List W32 := data.map (fun b => BitVec.ofNat 32 (fieldAt b (atOutBytes d + 4 * hq) 4))
      if lses.all (· == ninfW) then (List.replicate dim (0, fNone), evK ninfW)
      else
        let m := (lses.drop 1).foldl (fun a x => evMax a (evK x)) (evK (lses.headD ninfW))
        let ws : List Ev := lses.map (fun x => if x = ninfW then evK 0#32 else evExp (evSub (evK x) m))
        let l := (ws.drop 1).foldl evAdd (ws.headD (evK 0#32))
        let os : List Ev := (List.range dim).map (fun i =>
          (ws.zip data).foldl (fun a wb => evFma wb.1 (arrayF32 (atFmtQ d) wb.2 (hq * dim + i)) a) (evK 0#32))
        atFinish d m l os)
    let free := parts.any (fun p => rangesMeet (descField d 40 8, atSpan d) (p.1.addr, p.2))
    (.ok (atResult s1 d free heads), s1)

def attendEffect (s : State) (o : OpRec) (io : OutsideIo) : Except PStop PoolRes × State :=
  if atMerge o.desc then attendMerge s o io else attendPages s o io

def execAttend (q : Qp) (h : Nat) (b : BlockId) (io : OutsideIo) (s : State) : Host.Outcome State Fault Refusal :=
  .next (s.quiet.whenLive (fun t => t.runPool attendSpec q h b io attendEffect))

/-! GATHER_BAG (R190, R191). -/

def gbBags (d : Desc) : Nat := descField d 48 4
def gbRows (d : Desc) : Nat := descField d 52 4
def gbDim (d : Desc) : Nat := descField d 56 2
def gbFmtIn (d : Desc) : Nat := descField d 58 1 % 16
def gbFmtOut (d : Desc) : Nat := descField d 58 1 / 16
def gbMode (d : Desc) : Nat := descField d 59 1 % 4
def gbWeighted (d : Desc) : Bool := d.getLsbD 476
def gbArith (d : Desc) : BitVec 8 := d.extractLsb' 480 8
def gbRowBytes (d : Desc) : Nat := gbDim d * elemSize (gbFmtIn d)

def bagSpec : PoolSpec where
  opcode := 0x22#8
  checks := fun _ _ d => firstBad
    [(!descClean d [(16, 8), (24, 8), (32, 8), (40, 8), (48, 4), (52, 4), (56, 2), (58, 1), (59, 1), (60, 1), (61, 1)] ||
        !arithOk (gbArith d) || descField d 59 1 / 4 % 4 != 0 || decide (32 ≤ descField d 59 1) || gbMode d == 3 ||
        (gbWeighted d && gbMode d == 2), stBadDesc),
     (decide (4 < gbFmtIn d) || decide (1 < gbFmtOut d), stBadFormat),
     (gbBags d == 0 || decide (2 ^ 28 < gbBags d) || gbRows d == 0 || gbDim d == 0 || decide (32768 < gbRowBytes d), stBadLength),
     (misaligned (descField d 16 8) || misaligned (descField d 24 8) || misaligned (descField d 32 8) || misaligned (descField d 40 8) ||
        misaligned (gbRowBytes d), stAlign)]
  list := noList
  after := noCheck
  mask := fun d => d.extractLsb' 488 8
  host := fun _ _ => []

/-- One output element: its terms are the elements of the rows that its bag's indices name, with their weights, in list order. -/
def bagElem (d : Desc) (e : Nat) (terms : List (Ev × Ev)) (count : Nat) : Nat × Status16 :=
  let comp := arithComp (gbArith d) && gbMode d != 2
  let wt := gbWeighted d
  let final : Ev :=
    if count = 0 then evK 0#32
    else match terms with
    | [] => if gbMode d = 2 then evK (Config.bagNone e) else evK 0#32
    | t :: ts =>
      if comp then
        let term (x : Ev × Ev) : Ev := if wt then evMul x.2 x.1 else x.1
        let first := term t
        let (sc, fl) := ts.foldl (fun (a : (W32 × W32) × Status16) x =>
          let y := term x
          let (v, f) := compAdd a.1 y.1
          (v, a.2 ||| y.2 ||| f)) ((first.1, 0#32), first.2)
        let (v, f) := compFinal sc
        (v, fl ||| f)
      else
        let first : Ev := if wt then evMul t.2 t.1 else t.1
        ts.foldl (fun a x => if gbMode d = 2 then evMax a x.1 else if wt then evFma x.2 x.1 a else evAdd a x.1) first
  let out := if gbMode d = 1 ∧ count ≠ 0 then evMul final (evFn .rcp (f32Round (.num false count 0))) else final
  let (c, f) := narrow (gbFmtOut d) (gbArith d) (opDraw Config.bagSeed e) out.1
  (c, out.2 ||| f)

def bagEffect (s : State) (o : OpRec) (io : OutsideIo) : Except PStop PoolRes × State :=
  let d := o.desc
  let nb := gbBags d
  match s.fetch o ⟨false, descField d 32 8⟩ (4 * (nb + 1)) io with
  | (.error x, s1) => (.error x, s1)
  | (.ok ob, s1) =>
    let offs := (List.range (nb + 1)).map (fun i => fieldAt ob (4 * i) 4)
    let off (i : Nat) : Nat := offs.getD i 0
    let spans := (List.range nb).map (fun b => (off b, off (b + 1) - off b))
    let used := (spans.flatMap (fun p => (List.range p.2).map (fun k => p.1 + k)))
    let top := used.foldl (fun m k => max m (k + 1)) 0
    let weightsAt : Place := ⟨false, descField d 24 8 + roundUp (4 * off nb) 64⟩
    match s1.fetchAll o io ((⟨false, descField d 24 8⟩, 4 * top) :: (if gbWeighted d then [(weightsAt, 4 * top)] else [])) with
    | (.error x, s2) => (.error x, s2)
    | (.ok l, s2) =>
      let index (k : Nat) : Nat := fieldAt (l.getD 0 []) (4 * k) 4
      let weight (k : Nat) : Ev := evK (BitVec.ofNat 32 (fieldAt (l.getD 1 []) (4 * k) 4))
      let rows := ((used.map index).filter (fun r => decide (r < gbRows d))).eraseDups
      let rowAt (r : Nat) : Place := ⟨false, descField d 16 8 + r * gbRowBytes d⟩
      match s2.fetchAll o io (rows.map (fun r => (rowAt r, gbRowBytes d))) with
      | (.error x, s3) => (.error x, s3)
      | (.ok data, s3) =>
        let row (r : Nat) : List Byte := data.getD (rows.findIdx (· == r)) []
        let outs := ((List.range nb).zip spans).flatMap (fun bp =>
          let ks := (List.range bp.2.2).map (fun k => bp.2.1 + k)
          let good := ks.filter (fun k => decide (index k < gbRows d))
          (List.range (gbDim d)).map (fun j =>
            bagElem d (bp.1 * gbDim d + j) (good.map (fun k => (arrayF32 (gbFmtIn d) (row (index k)) j, weight k))) ks.length))
        let skipped := (used.filter (fun k => !decide (index k < gbRows d))).length
        let size := elemSize (gbFmtOut d)
        let span : Range := (descField d 40 8, outs.length * size)
        let inSize := elemSize (gbFmtIn d)
        -- an output element has no stated value where the operation writes over what it is computed from
        let free (k : Nat) : Bool :=
          let bag := k / size / gbDim d
          let j := k / size % gbDim d
          let (at_, count) := spans.getD bag (0, 0)
          let ks := (List.range count).map (fun i => at_ + i)
          rangesMeet span (descField d 32 8 + 4 * bag, 8) || (gbWeighted d && rangesMeet span (descField d 32 8 + 4 * nb, 4)) ||
          ks.any (fun i => rangesMeet span (descField d 24 8 + 4 * i, 4) || (gbWeighted d && rangesMeet span (weightsAt.addr + 4 * i, 4)) ||
            (decide (index i < gbRows d) && rangesMeet span ((rowAt (index i)).addr + j * inSize, inSize)))
        (.ok ⟨[(⟨false, descField d 40 8⟩, s3.overlapBytes free (outs.flatMap (fun c => natBytes size c.1)))],
              outs.foldl (fun f c => f ||| c.2) (flagIf (0 < skipped) fInvalid), BitVec.ofNat 64 (min skipped (2 ^ 64 - 1)), stOk⟩, s3)

def execGatherBag (q : Qp) (h : Nat) (b : BlockId) (io : OutsideIo) (s : State) : Host.Outcome State Fault Refusal :=
  .next (s.quiet.whenLive (fun t => t.runPool bagSpec q h b io bagEffect))

end Sys2Proof.Machine
end

