-- ==== Sys2Proof/Machine/Remap.lean ====
section
/-! DEFINITION. Work of units out of service moves at step 10 of a boundary (R53, R54, R125): which cell, block or region takes it, and the
tiles that are replayed from their inputs in memory. -/

namespace Sys2Proof.Machine

/-! Replay (R54). -/

/-- The step a logical cell is replayed from: its running or next one, or an earlier one whose results have not all committed. -/
def State.replayStep (s : State) (r : Run) (lc : Nat) (l : LCell) : Nat :=
  ((tvals r.copies).filter (fun c => s.copyOut r c && c.lc == lc)).foldl (fun m c => min m c.step) l.step

/-- The logical cell that issues a broadcast stream for the logical block of lc (R119). -/
def bcastIssuer (b : List Byte) (d : StreamD) (lc : Nat) : Nat :=
  lc / imgCells b * imgCells b + ((List.range 16).find? (fun j => d.cellMask.testBit j)).getD 0

/-- The last step that a broadcast stream's issuer has asked for. -/
def Run.issuedTo (r : Run) (d : StreamD) (issuer : Nat) : Nat :=
  match tget r.lcs issuer with
  | some l => if d.double && l.running then l.step + 1 else l.step
  | none => 0

/-- Copies of a logical cell that stand when it is replayed: those of other cells, and those that its block's engine goes on with: a
broadcast for its block, unless the block is gone, and what it brings into a region buffer that is still there. -/
def replayKeeps (b : List Byte) (lc : Nat) (engineGone bufferGone : Bool) (c : CopyRec) : Bool :=
  let d := imgStream b c.stream
  if c.only = some lc then false
  else if c.lc ≠ lc then true
  else if d.sched = 2 then false
  else if d.bcast then !engineGone && c.only.isNone
  else d.path == 6 && d.sched == 1 && !bufferGone

/-- The copies that a logical cell replayed from a step needs again: every ONCE copy, and the INBOUND copies of the step. -/
def Run.replayCopies (r : Run) (b : List Byte) (lc step : Nat) (bufferGone : Bool) : Run :=
  (List.range (imgStreamCount b)).foldl (fun (a : Run) i =>
    let d := imgStream b i
    let add (a : Run) (owner st : Nat) (only : Option Nat) : Run :=
      { a with copies := tput a.copies a.nextCopy (newCopy i owner st only), nextCopy := a.nextCopy + 1 }
    if d.sched = 2 ∨ (d.path = 6 ∧ d.sched = 1 ∧ !bufferGone) then a
    else if d.bcast then
      let issuer := bcastIssuer b d lc
      if !d.cellMask.testBit (lc % imgCells b) then a
      else if d.sched = 1 ∨ issuer = lc then add a issuer step (some lc)
      else (List.range (min (r.issuedTo d issuer + 1) r.steps - step)).foldl (fun a' k => add a' issuer (step + k) (some lc)) a
    else add a lc step none) r

/-- Replay a logical cell from a step; a reel with ATOMIC figures whose finished tiles run again has its results retracted (R207; DEDUCED:
log entry 63). -/
def State.replayCell (s : State) (n lc step : Nat) (engineGone bufferGone : Bool) : State :=
  match s.run n with
  | none => s
  | some r =>
    let b := s.runImage r
    match tget r.lcs lc with
    | none => s
    | some l =>
      let kept := (r.copies.filter (fun e => replayKeeps b lc engineGone bufferGone e.2)).map (fun e =>
        (e.1, if e.2.lc = lc then { e.2 with issued := false, got := [], todo := [] } else e.2))
      let r1 : Run := { r with
        copies := kept,
        lcs := tput r.lcs lc { l with step := step, running := false, armed := false, stalled := false, drawn := none } }
      let s1 := s.setRun n (if step < r.steps then r1.replayCopies b lc step bufferGone else r1)
      if (imgFlags b).testBit 3 ∧ step < l.step then s1.setCause n .replayAtomic else s1

/-! Placing. -/

/-- A logical cell leaves its cell. -/
def State.leaveCell (s : State) (n lc : Nat) (c : CellId) : State :=
  let x := s.cell c
  if x.occupant = some (n, lc) then s.setCell c { x with occupant := none, tile := none } else s

/-- Put a logical cell on a cell: one that another logical cell of the run holds is shared, its own data kept aside (R125). -/
def State.putCell (s : State) (n lc : Nat) (c : CellId) : State :=
  match s.run n with
  | none => s
  | some r => match tget r.lcs lc with
    | none => s
    | some l =>
      let b := s.runImage r
      let s1 := s.leaveCell n lc l.cell
      let shared : Bool := (s1.cell c).occupant.any (fun o => o.1 == n)
      let saved : Option (SMap Byte) := if shared then some (loadScratch [] b) else none
      let s2 := s1.setRun n { r with lcs := tput r.lcs lc { l with cell := c, saved := saved } }
      if shared then s2 else s2.bindCell n lc c (s2.runTenant n) b

/-- Move a logical cell and replay it from a step. -/
def State.moveCell (s : State) (n lc : Nat) (c : CellId) (step : Nat) (engineGone bufferGone : Bool) : State :=
  (s.putCell n lc c).replayCell n lc step engineGone bufferGone

/-- The logical cells of a run that a cell serves. -/
def Run.loadOf (r : Run) (c : CellId) : Nat := (r.lcs.filter (fun e => e.2.cell == c)).length

/-- The cell of a fenced cell's block that takes its logical cell: the online one of the run that serves the fewest, or another online cell
where the run has none there. -/
def State.shareCell (s : State) (r : Run) (b : BlockId) : Option CellId :=
  let online := ((List.finRange 16).map (cellIn b)).filter (fun c => s.cellOnline c)
  let held := online.filter (fun c => decide (0 < r.loadOf c))
  let least := held.foldl (fun m c => min m (r.loadOf c)) 1024
  (held.find? (fun c => r.loadOf c == least)).or online.head?

/-- Logical cells of a run on cells that are fenced in blocks still online share cells of their block. -/
def State.moveFenced (s : State) (n : Nat) : State :=
  match s.run n with
  | none => s
  | some r0 => (r0.lcs.filter (fun e => !s.cellOnline e.2.cell && s.blockOnline (blockOf e.2.cell))).foldl (fun st e =>
      match st.run n with
      | none => st
      | some r => match st.shareCell r (blockOf e.2.cell) with
        | some c => st.moveCell n e.1 c (st.replayStep r e.1 e.2) false false
        | none => st) s

/-- The physical block of a logical block. -/
def Run.blockOfLb (r : Run) (b : List Byte) (lb : Nat) : Option BlockId := (r.cellOf (lb * imgCells b)).map blockOf

/-- The blocks that the logical blocks of a run stand on. -/
def Run.ownBlocks (r : Run) : List BlockId := ((tvals r.lcs).map (fun l => blockOf l.cell)).eraseDups

/-- Online blocks of a region that no other run holds, nor this one itself. -/
def State.spareBlocks (s : State) (n : Nat) (r : Run) (g : RegionId) : List BlockId :=
  ((List.finRange 8).map (blockIn g)).filter (fun b => s.blockFree n b && !r.ownBlocks.contains b)

/-- The region with the most spare blocks; the lowest number wins among equals. -/
def State.bestRegion (s : State) (n : Nat) (r : Run) : Option RegionId :=
  let gs := (List.finRange 8).filter (fun g => s.regionOnline g && maskAllows r.mask g && !(s.spareBlocks n r g).isEmpty)
  let most := gs.foldl (fun m g => max m (s.spareBlocks n r g).length) 0
  gs.find? (fun g => (s.spareBlocks n r g).length == most)

/-- The online block of the same run with the fewest logical blocks. -/
def State.shareBlock (s : State) (r : Run) (b : List Byte) (inRegion : Option RegionId) : Option BlockId :=
  let lbs := (List.range (imgBlocks b * imgRegions b)).filterMap (fun i => r.blockOfLb b i)
  let load (x : BlockId) : Nat := (lbs.filter (· == x)).length
  let cand := (List.finRange 64).filter (fun x => s.blockRuns x && lbs.contains x && (match inRegion with
    | some g => regionOfBlock x == g
    | none => true))
  let least := cand.foldl (fun m x => min m (load x)) 64
  cand.find? (fun x => load x == least)

/-- The order of R125 for a logical block whose block is offline. -/
def State.newBlock (s : State) (n : Nat) (r : Run) (b : List Byte) (old : BlockId) : Option BlockId :=
  let g := regionOfBlock old
  let here := if s.regionOnline g then (s.spareBlocks n r g).head? else none
  if (imgFlags b).testBit 2 then here.or (s.shareBlock r b (some g))
  else here.or (((s.bestRegion n r).bind (fun g' => (s.spareBlocks n r g').head?)).or (s.shareBlock r b none))

/-- Put the logical cells of a logical block on the online cells of a block. -/
def State.moveBlock (s : State) (n lb : Nat) (to_ : BlockId) (bufferGone : Bool) (from_ : Option Nat) : State :=
  match s.run n with
  | none => s
  | some r0 =>
    let k := imgCells (s.runImage r0)
    let cells := ((List.finRange 16).map (cellIn to_)).filter (fun c => s.cellOnline c)
    (List.range k).foldl (fun st i =>
      let lc := lb * k + i
      match st.run n with
      | none => st
      | some r => match tget r.lcs lc with
        | none => st
        | some l => st.moveCell n lc (cells.getD (i % max 1 cells.length) (cellIn to_ 0)) (from_.getD (st.replayStep r lc l)) true bufferGone) s

/-- A region that can take a whole logical region: online, allowed, held by no other run, not used by this one. -/
def State.newRegion (s : State) (n : Nat) (r : Run) (b : List Byte) : Option RegionId :=
  (List.finRange 8).find? (fun g => s.regionOnline g && maskAllows r.mask g && !(r.ownBlocks.map regionOfBlock).contains g &&
    (List.finRange 8).all (fun i => !s.blockTaken n (blockIn g i)) &&
    decide (imgBlocks b ≤ ((List.finRange 8).filter (fun i => s.blockFree n (blockIn g i))).length))

/-- A cell whose logical cell moves away gives up its tile. -/
def State.abandon (s : State) (c : CellId) : State :=
  let s1 := (s.ras.checks.filter (fun e => e.2.origin == c)).foldl (fun st e => st.dropCheck e.1) s
  (s1.dropTile c).dropAtoms c

/-- A whole logical region moves and restarts from the first step not fully committed (R125, R54). -/
def State.moveRegion (s : State) (n lr : Nat) : State :=
  match s.run n with
  | none => s
  | some r =>
    let b := s.runImage r
    match s.newRegion n r b with
    | none => s.endOp n stReelPlace
    | some g =>
      let blocks := ((List.finRange 8).map (blockIn g)).filter (fun x => s.blockFree n x)
      let kb := imgCells b * imgBlocks b
      let s1 := (r.lcs.filter (fun e => e.1 / kb == lr)).foldl (fun st e => st.abandon e.2.cell) (s.zeroRbuf g (s.runTenant n))
      (List.range (imgBlocks b)).foldl (fun st i =>
        st.moveBlock n (lr * imgBlocks b + i) (blocks.getD i (blockIn g 0)) true (some r.committed)) s1

/-- Logical blocks of a run whose blocks are offline move. -/
def State.moveOffline (s : State) (n : Nat) : State :=
  match s.run n with
  | none => s
  | some r0 =>
    let b := s.runImage r0
    let usesBuf := (imgFlags b).testBit 2
    (List.range (imgBlocks b * imgRegions b)).foldl (fun st lb =>
      match st.run n, (st.op n).bind (fun o => o.ending) with
      | some r, none => match r.blockOfLb b lb with
        | none => st
        | some old =>
          if st.blockOnline old then st
          else if usesBuf && !st.regionOnline (regionOfBlock old) then st.moveRegion n (lb / imgBlocks b)
          else match st.newBlock n r b old with
          | some new => st.moveBlock n lb new false none
          | none => if usesBuf then st.moveRegion n (lb / imgBlocks b) else st.endOp n stReelPlace
      | _, _ => st) s

/-- A run that is to end drops the results that units out of service held (R53). -/
def State.dropLost (s : State) (n : Nat) : State :=
  match s.run n with
  | none => s
  | some r => (s.setRun n { r with copies := r.copies.filter (fun e => !(s.copyOut r e.2 && (match r.cellOf e.2.lc with
      | some c => !s.cellOnline c
      | none => true))) }).settleRun n

/-- Remap one run. -/
def State.remapRun (s : State) (n : Nat) : State :=
  match s.run n, s.op n with
  | some r, some o =>
    if !r.bound then s
    else if o.ending.isSome then s.dropLost n
    else
      let s1 := (s.moveFenced n).moveOffline n
      if ((s1.op n).bind (fun x => x.ending)).isSome then s1.dropLost n else (s1.pumpRun n).settleRun n
  | _, _ => s

/-- Rebuild the accumulators of a chunk from its slots, in the arrival order recorded for it (R173); a slot that is refused or poisoned ends
the operation. -/
def State.rebuildChunk (s : State) (n k : Nat) : State :=
  match s.rs n, s.op n with
  | some r, some o =>
    if o.ending.isSome then s
    else
      let d := o.desc
      let slot := rsSlotBytes d
      let (acc, s1) := (mget [] r.order k).foldl (fun (a : Except Status (Option (List (W32 × W32))) × State) j =>
        match a.1 with
        | .error _ => a
        | .ok old =>
          let at_ : W64 := BitVec.ofNat 64 ((rsArea d).1 + 4096 + (k % rsWindow d * rsPeers d + j) * slot)
          match a.2.opRead o at_ slot noIo with
          | (.error st, s2) => (.error st, s2)
          | (.ok (bs, bad), s2) => (if bad.any id then .error stPoison else .ok (some (rsCombine (rsCfg d) old (rsTerms d bs)).1), s2)) (.ok none, s)
      match acc with
      | .error st => s1.failRs n st
      | .ok none => s1
      | .ok (some v) => s1.putRsAcc d r k v
  | _, _ => s

/-- Remap a REDUCE_SCATTER (R166, R173): a lost region's work moves to another free region and its accumulators are rebuilt; its cells
follow. -/
def State.remapRs (s : State) (n : Nat) : State :=
  match s.rs n, s.op n with
  | some r, some o =>
    if !r.bound ∨ o.ending.isSome then s
    else
      let free (have_ : List RegionId) : Option RegionId := (List.finRange 8).find? (fun g => s.regionOnline g && maskAllows (rsMask o.desc) g &&
        !have_.contains g && (List.finRange 8).all (fun i => !s.blockTaken n (blockIn g i)))
      let place (acc : Option (List RegionId)) (g : RegionId) : Option (List RegionId) := acc.bind (fun l =>
        if s.regionOnline g then some l else (free l).map (fun g' => l.map (fun x => if x = g then g' else x)))
      match r.regions.foldl place (some r.regions) with
      | none => s.failRs n stReelPlace
      | some gs =>
        let kept := r.cells.filter (fun c => s.cellOnline c)
        let fill := (gs.filter (fun g => !(kept.any (fun c => regionOfCell c == g)))).flatMap (fun g =>
          (((List.finRange 8).filter (fun i => s.blockRuns (blockIn g i))).flatMap (fun i =>
            ((List.finRange 16).map (cellIn (blockIn g i))).filter (fun c => s.cellOnline c))).take
              (r.cells.length / max 1 r.regions.length))
        let fresh := gs.filter (fun g => !r.regions.contains g)
        let s1 := fresh.foldl (fun st g => st.zeroRbuf g o.tenant) s
        let r1 : RsOp := { r with regions := gs, cells := kept ++ fill }
        (r.acc.filter (fun k => fresh.contains (rsRegionAt r1 k))).foldl (fun st k => st.rebuildChunk n k) (s1.setRs n r1)
  | _, _ => s

/-- Remap a built-in operation whose block is offline (R125, R143): it moves to another block as a logical block of a run that does not use the
region buffer, and reads its operands again. -/
def State.remapPool (s : State) (n : Nat) : State :=
  match s.op n with
  | none => s
  | some o => match o.block with
    | none => s
    | some b =>
      if s.blockOnline b || o.ending.isSome || o.due.isSome then s
      else
        let free (g : RegionId) : List BlockId := ((List.finRange 8).map (blockIn g)).filter (fun x => s.blockFree n x)
        let ok (g : RegionId) : Bool := s.regionOnline g && maskAllows o.mask g && !(free g).isEmpty
        let gs := (List.finRange 8).filter ok
        let most := gs.foldl (fun m g => max m (free g).length) 0
        let here := if ok (regionOfBlock b) then (free (regionOfBlock b)).head? else none
        match here.or ((gs.find? (fun g => (free g).length == most)).bind (fun g => (free g).head?)) with
        | none => s.endOp n stReelPlace
        | some x => (s.modOp n (fun y => { y with got := [], todo := [] })).bindPool n x

/-- WORK_REMAP: everything placed on units that went out of service since the last boundary moves. -/
def State.remapAll (s : State) : State :=
  if s.remap.isEmpty then s
  else
    let s1 : State := { s with remap := [] }
    let s2 := (s1.fab.runs.map Prod.fst).foldl (fun st n => st.remapRun n) s1
    let s3 := (s2.fab.rs.map Prod.fst).foldl (fun st n => st.remapRs n) s2
    (s3.que.ops.map Prod.fst).foldl (fun st n => st.remapPool n) s3

end Sys2Proof.Machine
end

