-- ==== Sys2Proof/Machine/Tick.lean ====
section
/-! DEFINITION. TIDE_TICK_BOUNDARY: the twelve steps of R34. What the manual gives a row of its own and fixes at a step (a verdict, a table
write taking effect, a key slot retired) the boundary does there itself, by that row's meaning; a timeout is its row's. -/

namespace Sys2Proof.Machine

/-! Step 1: the tick number (R27, R32, R36, R38). -/

/-- A follower that tracks looks at whether an edge came near the boundary before, whose late edge has had its time; an early edge of this
boundary has been noted already (R38 steps 4 and 5). -/
def Tide.checkEdge (t : Tide) : Tide :=
  if t.mode == .follow && t.phase == .track then
    { t with missRun := if t.edgeSeen then 0 else t.missRun + 1,
             goodRun := if t.edgeSeen then t.goodRun else if t.edgeNext then min t.goodRun 1 else 0,
             edgeSeen := t.edgeNext, edgeNext := false }
  else t

/-- The number of the boundary: 0 at the first, one more at each, corrected where a marker is due; a written period is in force from here;
TIDE_OUT sends its pulse. -/
def Tide.boundary (t : Tide) : Tide :=
  let base : W64 := if t.started then t.count + 1#64 else 0#64
  let t1 := { t with started := true, period := t.periodNext.getD t.period, periodNext := none }
  let t2 := if t1.markerDue then t1.mark base else { t1 with count := base }
  let t3 := t2.checkEdge
  { t3 with out := if !t3.outEn then .low else if t3.count &&& 0xFFF#64 = 0#64 then .marker else .ordinary }

/-! Step 2: the audits (R17 to R20, R300, R360). -/

/-- Leaves IN_USE or RETURNING as the snapshot engine counts them, and as the audit unit's ledger of copies and releases has them. -/
def leafTotals (x : Extent) (sn : Snap) : Int × Int :=
  let held (p : Nat) : Int := if leafCat x sn p = .inUse ∨ leafCat x sn p = .returning then 1 else 0
  let base (p : Nat) : Int := if leafDefault x p = .inUse then 1 else 0
  (32 * x.grans.length + (sn.cats.map (fun e => held e.1 - base e.1)).sum,
   32 * x.grans.length + sn.ledgerTaken - sn.ledgerReturned)

/-- Every category's leaves together, as the snapshot engine counts them, and as the extent has them: each physical leaf is in exactly one
(R300). -/
def leafSum (x : Extent) (sn : Snap) : Int × Int :=
  let all := 32 * (x.grans.length + x.reserve.length)
  ((all + (sn.cats.filter (fun e => decide (all ≤ e.1))).length : Nat), (all : Nat))

/-- The references to IN_USE leaves of a version slot's map, as the snapshot engine counts them, and as the audit unit's ledger has them (R17,
R300). -/
def refTotals (x : Extent) (sn : Snap) (k : Nat) : Int × Int :=
  let n := 32 * x.grans.length
  let touched : List Nat := ((sn.maps.filter (fun m : Nat × Nat => m.1 / 2 ^ 20 == k)).map (fun m : Nat × Nat => m.1 % 2 ^ 20) ++
    (sn.cats.filter (fun c : Nat × LeafCat => decide (c.1 < n))).map (fun c : Nat × LeafCat => c.1)).eraseDups
  let live : Bool := vslotLive (mget VSlot.reset sn.slots k)
  (if live then ((n - (touched.filter (fun l => decide (leafCat x sn (snapLeaf sn k l) ≠ LeafCat.inUse))).length : Nat) : Int) else 0,
    (mget 0 sn.refs k : Nat))

/-- A snapshot extent's quantities: leaves held, leaves in every category, and each version's references. -/
def leafAudits (x : Extent) (sn : Snap) : List (Int × Int) :=
  leafTotals x sn :: leafSum x sn :: (List.range 16).map (refTotals x sn)

/-- The chip-scope quantities: code, the owner's unit, the owner's count, the audit unit's total. -/
def State.chipTotals (s : State) : List (Nat × BitVec 16 × Int × Int) :=
  let led (k : Nat) : Int := mget 0 s.audit k
  let states : List GranState := [.free, .granted, .draining, .scrubbing, .sealed]
  [(4, unitQueue, (s.storeHeld : Int), led 4),
   (5, unitRouter, (s.rtr.shapers.map (fun e => (e.2.tokens : Int))).sum, led 5),
   (6, unitRouter, (s.rtr.policers.map (fun e => (e.2.tc + e.2.tp : Int))).sum, led 6)] ++
  states.map (fun g => (7, 0xFFFF#16, (s.granCount g : Int),
    (if g = .scrubbing then (granCountAll : Int) - 4 else 0) + led (0x70 + granCode g))) ++
  s.ext.extents.flatMap (fun e => (e.2.snap.map (fun sn => (leafAudits e.2 sn).map (fun q => (8, 0xFFFF#16, q.1, q.2)))).getD [])

/-- DETAIL1 of an audit report: the low halves of both counts (R220). -/
def auditDetail (owner partner : Int) : Nat := (owner % 2 ^ 32).toNat * 2 ^ 32 + (partner % 2 ^ 32).toNat

/-- Report a mismatch (R20). -/
def State.auditReport (s : State) (severity : Nat) (unit unit2 : BitVec 16) (quantity : Nat) (owner partner : Int) : State :=
  s.raise { mkReport 0x03 0x01 severity unit quantity (auditDetail owner partner) with unit2 := unit2 }

/-- A port's cuts and symbol counts after the audit. -/
def State.portTick (s : State) (p : LinkPort) : State := s.modLink p (fun l => (l.trimCuts s.tide.count).tickLanes)

/-- The audits of one port: a mismatch is reported and starts a retrain, unless a chip-scope mismatch has been taken. -/
def State.auditLink (s : State) (chipBad : Bool) (p : LinkPort) : State :=
  let bad := (s.link p).audit s.tide.count
  let s1 := bad.foldl (fun st q => st.auditReport 1 (unitPort p) 0xFFFF#16 q.1 (q.2.1 : Nat) (q.2.2 : Nat)) s
  if bad.isEmpty || chipBad then s1 else s1.startLinkRetrain p 4

/-- The ports that have left their reset state are the ones an audit can concern. -/
def State.usedPorts (s : State) : List LinkPort := (List.finRange 34).filter (fun p => (tget s.links p.val).isSome)

/-- Step 2. -/
def State.audits (s : State) : State :=
  let bad := s.chipTotals.filter (fun q => q.2.2.1 != q.2.2.2)
  let s1 := bad.foldl (fun st q => st.auditReport 3 unitChip q.2.1 q.1 q.2.2.1 q.2.2.2) s
  let s2 := s.usedPorts.foldl (fun st p => (st.auditLink (!bad.isEmpty) p).portTick p) s1
  if bad.isEmpty then s2 else s2.nodeFatal unitChip

/-! Steps 3 to 7. -/

/-- Step 3: the ages that the verdict bound counts (R210, R211). -/
def State.rasAges (s : State) : State :=
  { s with ras := { s.ras with
      marks := (s.ras.marks.map (fun m => { m with age := m.age + 1 })).filter (fun m => decide (m.age ≤ 8)),
      verdicts := tmap s.ras.verdicts (fun _ v => { v with tf := v.tf.map (· + 1), cause := v.cause.map (fun c => (c.1, c.2 + 1)) }) } }

/-- Step 3: the verdicts that are due (R211). -/
def State.dueVerdicts (s : State) : State :=
  (s.ras.verdicts.map Prod.fst).foldl (fun st n => verdictLate n (verdictConfirm n (verdictRetract n (verdictFatal n st)))) s

/-- Step 4: a drain window closes, a route switch and multicast entries take effect (R392, R403). -/
def State.step4 (s : State) : State :=
  (s.rtr.mcastNext.map Prod.fst).foldl (fun st g => mcastWriteApply g st) (routeSwitchApply (routeDrainClose s))

/-- A challenge serves for 60 s (R486). -/
def agedChallenge (us : Nat) (c : Option (List Byte × Nat)) : Option (List Byte × Nat) :=
  c.bind (fun x => if x.2 + us < 60000000 then some (x.1, x.2 + us) else none)

/-- A tenant's counts of boundaries (R503, R508, R513). -/
def TenantRec.tick (x : TenantRec) : TenantRec :=
  { x with modeNext := x.modeNext.map (fun m => (m.1, m.2 + 1)), switch := x.switch.map (· + 1), confirmed := x.confirmed.map (· + 1),
           removing := x.removing.map (· + 1), fenceTicks := if x.fenced then x.fenceTicks + 1 else x.fenceTicks }

/-- Step 5: the counts that key slots, link keys and fences wait for. -/
def State.secAges (s : State) : State :=
  { s with sec := { s.sec with
      tenants := tmap s.sec.tenants (fun _ x => x.tick),
      crypto := tmap s.sec.crypto (fun _ c => { c with retire := c.retire.map (fun r => (r.1, r.2 + 1)) }),
      challenge := agedChallenge s.periodUs s.sec.challenge, authReported := false } }

/-- Step 5: encryption modes and key switches take effect, and slots whose retire point it is are emptied (R501, R503, R508). -/
def State.step5 (s : State) : State :=
  let s1 := (s.sec.tenants.map (fun e => BitVec.ofNat 10 e.1)).foldl (fun st t => keyRetire t (keySwitchApply t (encModeApply t st))) s.secAges
  ([0, 1] : List PlPort).foldl (fun st p => linkKeyRetire p st) s1

/-- Step 6: shapers, then policers, are refilled, and written entries take effect (R407, R408, R411, R412). -/
def State.step6 (s : State) : State :=
  let s1 := (s.rtr.shapersNext.map Prod.fst).foldl (fun st k => shaperWriteApply k st) s.rtrRefill
  (s1.rtr.policersNext.map Prod.fst).foldl (fun st k => policerWriteApply (BitVec.ofNat 10 (k / 4)) (BitVec.ofNat 2 (k % 4)) st) s1

/-- Leaves released in the last tick become FREE (R300). -/
def returnLeaves (x : Extent) (sn : Snap) : Snap :=
  (sn.cats.filter (fun e => e.2 == .returning)).foldl (fun a e =>
    { snapSetCat x a e.1 .free with ledgerReturned := a.ledgerReturned + 1 }) sn

/-- Step 7. -/
def State.returnAll (s : State) : State :=
  { s with ext := { s.ext with extents := tmap s.ext.extents (fun _ x => { x with snap := x.snap.map (returnLeaves x) }) } }

/-! Steps 9 and 10. -/

/-- Step 9: at multiples of 64, a copy of the tenants' counters (R581). -/
def State.publish (s : State) : State :=
  if s.tide.count &&& 0x3F#64 ≠ 0#64 then s
  else
    let used : List (Nat × Nat) := (s.ctr.filter (fun e => decide (0xC00000 ≤ e.1) && decide (e.1 < 0xC00000 + 9 * 0x2000))).map (fun e =>
      ((e.1 - 0xC00000) / 0x2000 * 1024 + (e.1 - 0xC00000) % 0x2000 / 8, e.2))
    { s with dbg := { s.dbg with tenTick := s.tide.count, tenPub := used.foldl (fun m e => mset 0 m e.1 e.2) [] } }

/-- Counts of boundaries of the queue engine, the shut-down and REDUCE_SCATTER (R424, R444, R556, R174). -/
def State.otherAges (s : State) : State :=
  { s with
      que := { s.que with takeover := s.que.takeover.map (fun t => (t.1, t.2 + 1)),
                          qps := tmap s.que.qps (fun _ x => { x with coalAge := x.coalAge.map (· + 1) }) },
      plt := { s.plt with shut := match s.plt.shut with
        | .asked n => .asked (n + 1)
        | x => x },
      ras := { s.ras with fractionAge := s.ras.fractionAge + 1 },
      fab := { s.fab with freed := [], rs := tmap s.fab.rs (fun _ r => if r.armed then { r with ticks := r.ticks + 1 } else r) } }

/-- The check blocks: a written setting, replacements for blocks offline, and blocks whose last check has ended (R194, R195). -/
def State.checkBlocksNow (s : State) : State :=
  ((List.range 32).foldl (fun st _ => checkBlockReplace st) (checkFractionApply s)).fixLeaving

/-- Step 10: a takeover and written arbitration classes take effect, work of units out of service moves, the home agent slices choose
near-atomic targets among the blocks online now (R47, R53, R97, R424). -/
def State.step10 (s : State) : State :=
  let s1 := (takeoverApply s.otherAges).remapAll
  let s2 := { s1 with arb := { s1.arb with inForce := s1.arb.written },
                      fab := { s1.fab with atomOff := (List.finRange 64).filter (fun b => !s1.blockOnline b) } }
  s2.checkBlocksNow

/-! Step 11: in-service tests (R573, R574). -/

/-- The cell of a block that is tested next: the first unfenced one after the last, in round robin. -/
def State.isvPick (s : State) (b : BlockId) : Option CellId :=
  let last := mget 0 s.ras.isvCell b.val
  let order := (List.range 16).map (fun i => (last + 1 + i) % 16)
  (order.find? (fun i => !(s.blk b).fenced.getLsbD i)).map (fun i => cellIn b ⟨i % 16, Nat.mod_lt _ (by decide)⟩)

/-- A block that may be given a test slot. -/
def State.isvEligible (s : State) (b : BlockId) : Bool :=
  s.blockOnline b && !s.boundBlock b && !s.ras.isvSlots.contains b && !s.ras.leaving.contains b &&
  !(s.ras.checks.any (fun e => blockOf e.2.checkCell == b || (e.2.third.map blockOf) == some b))

/-- Give a block a test slot: the test counts as a tenant of its own, so cell and region buffer are zeroed (R90, R100). -/
def State.isvGrant (s : State) (b : BlockId) : State :=
  match s.isvPick b with
  | none => s
  | some c =>
    let x := s.cell c
    let s1 := s.setCell c (x.zeroed none)
    let g := regionOfBlock b
    let s2 := s1.setRbuf g { s1.rbuf g with bytes := [], lastTenant := none }
    { s2 with ras := { s2.ras with isvSlots := s2.ras.isvSlots ++ [b], isvCell := mset 0 s2.ras.isvCell b.val (c.val % 16),
                                   isvNext := ⟨(b.val + 1) % 64, Nat.mod_lt _ (by decide)⟩ } }

/-- The chip ring carried class 0 traffic in the tick that ends, or has it to carry. -/
def State.class0Waits (s : State) : Bool :=
  s.arb.class0 || s.rtr.inbox.any (fun i => i.pkt.cls == 0#2) || s.rtr.txq.any (fun e => e.2.any (fun q => q.pkt.cls == 0#2))

/-- A memory controller whose queues are empty. -/
def State.chanIdle (s : State) (ch : MemCh) : Bool :=
  let c := s.chan ch
  c.reads.isEmpty && c.writes.isEmpty && c.merges.isEmpty && !s.chanFailed ch && !s.chanRetraining ch

/-- Step 11. A slot whose test has not ended stands (R31); slots are granted once the device is ready. -/
def State.isvSlots (s : State) : State :=
  if !s.ras.isvEn || !s.admitting then s
  else
    let order := (List.range 64).map (fun i => (⟨(s.ras.isvNext.val + i) % 64, Nat.mod_lt _ (by decide)⟩ : BlockId))
    let s1 := ((order.filter s.isvEligible).take s.ras.isvBlocks.toNat).foldl (fun st b => st.isvGrant b) s
    let router : Bool := s1.ras.isvRouter && !s1.class0Waits
    let r := s1.ras
    let ecc : List MemCh := if r.isvEcc then (List.finRange 640).filter (fun ch => r.isvEccSlot.contains ch || s1.chanIdle ch) else r.isvEccSlot
    { s1 with ras := { r with isvRouterSlot := r.isvRouterSlot || router, isvEccSlot := ecc,
                              isvAttach := if router && !r.isvRouterSlot then (r.isvAttach + 1) % 16 else r.isvAttach } }

/-! Step 12. -/

/-- A run's cells see a boundary (R129): the first tile may start when the prologue is complete, a later one from the first boundary after the
tile before; copies not complete then are a stall. A tile that runs overruns its tick (R31). -/
def State.armRun (s : State) (n : Nat) : State :=
  match s.run n with
  | none => s
  | some r =>
    if !r.bound then s
    else
      let prologue := !(r.lcs.all (fun e => e.2.step == 0 && !e.2.running)) || r.lcs.all (fun e => s.copiesReady r e.1 0)
      let arm (lc : Nat) (l : LCell) : LCell :=
        if l.running || l.armed || decide (r.steps ≤ l.step) then l
        else
          let ok := s.copiesReady r lc l.step
          if l.step = 0 then (if prologue && ok then { l with armed := true } else l)
          else { l with armed := true, stalled := !ok }
      s.setRun n { r with lcs := tmap r.lcs arm }

/-- Tiles that run across a boundary have overrun their tick (R31). -/
def State.overrunTiles (s : State) : State :=
  { s with fab := { s.fab with cells := tmap s.fab.cells (fun _ c => { c with tile := c.tile.map (fun t => { t with overran := true }) }) } }

/-- Waiting runs whose shape the online fabric can no longer hold end at once (R138). -/
def State.refuseRuns (s : State) : State :=
  let s1 := s.fab.runs.foldl (fun st e => if !e.2.bound && !st.runFits e.2 then st.endOp e.1 stReelPlace else st) s
  s1.fab.rs.foldl (fun st e => match st.op e.1 with
    | some o => if !e.2.bound && !st.maskOnline (rsMask o.desc) then st.failRs e.1 stReelPlace else st
    | none => st) s1

/-- Host pages that a block's engine will touch in the next two steps of a run's cells, inbound or outbound (R469). -/
def State.prefetchPages (s : State) (r : Run) (b : BlockId) : List (Nat × Bool) :=
  let img := s.runImage r
  ((r.lcs.filter (fun e => blockOf e.2.cell == b)).flatMap (fun e =>
    (List.range (imgStreamCount img)).flatMap (fun i =>
      let d := imgStream img i
      if !pathHost d.path || !(dueStreams img e.1 (fun _ => true)).contains i then []
      else (List.range 2).flatMap (fun k =>
        let st := e.2.step + 1 + k
        if d.sched = 1 ∨ r.steps ≤ st then []
        else (s.copyPages r (newCopy i e.1 st none)).map (fun a => (a, d.path == 3)))))).eraseDups

/-- A prefetch walk starts: at most 48 of the 64 slots hold prefetches (R469). -/
def State.prefetchWalk (s : State) (b : BlockId) (asid : BitVec 20) (va : Nat) (write : Bool) : State :=
  let n := (s.xlt.walks.filter (fun e => e.2.prefetch)).length
  if 48 ≤ n ∨ 64 ≤ s.xlt.walks.length then s
  else s.beginWalk { asid := asid, va := va, write := write, prefetch := true, level := 0, pa := 0, units := [], block := some b, stale := false }

/-- The burst of one block: pages that miss in the chip TLB and that no walk is under way for, at most PREFETCH_MAX. A burst whose walks
still run puts the next one off (R31). -/
def State.prefetchBlock (s : State) (b : BlockId) : State :=
  if s.xlt.walks.any (fun e => e.2.prefetch && e.2.block == some b) then s
  else
    let want : List (BitVec 20 × Nat × Bool) := s.fab.runs.flatMap (fun e =>
      match (s.op e.1).bind (fun o => if o.ending.isSome then none else s.qp o.qp) with
      | some x => if e.2.bound then (s.prefetchPages e.2 b).map (fun p => (x.cfg.asid, p.1, p.2)) else []
      | none => [])
    let miss := want.filter (fun w => (s.chipHit w.1 w.2.1 w.2.2).isNone &&
      !(s.xlt.walks.any (fun e => e.2.asid == w.1 && e.2.va / 4096 == w.2.1 / 4096)))
    (miss.take s.xlt.prefetchMax.toNat).foldl (fun st w => st.prefetchWalk b w.1 w.2.1 w.2.2) s

/-- The prefetch bursts of step 12. -/
def State.prefetchAll (s : State) : State :=
  if !s.xlt.prefetchEn then s
  else ((s.fab.runs.flatMap (fun e => if e.2.bound then e.2.ownBlocks else [])).eraseDups).foldl (fun st b => st.prefetchBlock b) s

/-- The progress line of a REDUCE_SCATTER whose counts changed is rewritten (R169). -/
def State.rsProgress (s : State) (n : Nat) : State :=
  match s.rs n, s.op n with
  | some r, some o =>
    if !r.armed || !r.dirty || s.opWriteBusy o (BitVec.ofNat 64 (descField o.desc 24 8)) 64 then s.settleRs n
    else
      let s1 := s.setRs n { r with dirty := false }
      (match s1.writeProgress o 1 r with
        | (some st, s2) => s2.failRs n st
        | (none, s2) => s2).settleRs n
  | _, _ => s

/-- A full fault table that units still wait for is reported once a tick (R471, R482). -/
def State.tableFull (s : State) : State :=
  match s.xlt.tableWaiters with
  | [] => { s with xlt := { s.xlt with tableFullReported := false } }
  | w :: _ => s.raise (mkReport 0x07 0x04 0 (match w.block with
      | some b => unitBlock b
      | none => unitQueue) w.asid.toNat w.va)

/-- The memory controllers scrub and patrol: once trained, and not from step 3 of a shut-down on (R556). -/
def State.scrubbing (s : State) : Bool := s.memTrained && (match s.plt.shut with
  | .testing => false
  | .done => false
  | _ => true)

/-- The fills of SCRUBBING extents are admitted, as runs of the built-in FILL reel that need a block (R138, R286). -/
def State.admitFills (s : State) : State :=
  if !((List.finRange 64).any (fun b => s.blockOnline b)) then s
  else { s with ext := { s.ext with extents := tmap s.ext.extents (fun _ x => if x.state = .scrubbing then { x with fill := true } else x) } }

/-- Step 12. -/
def State.step12 (s : State) : State :=
  let s1 := s.overrunTiles.refuseRuns.admitFills
  let s2 := (s1.fab.runs.map Prod.fst).foldl (fun st n => st.armRun n) s1
  let s3 := if s2.scrubbing then s2.scrubSlices.patrolSlices else s2
  let s4 := (s3.fab.rs.map Prod.fst).foldl (fun st n => st.rsProgress n) s3
  let s5 := s4.prefetchAll.pumpAll.tableFull.feedStopped
  { s5 with fab := { s5.fab with freed := [], admitNext := s5.que.nextOp }, arb := { s5.arb with class0 := false } }

/-- An error found in an on-chip table: a corrected directory error is counted; a route entry is unreachable from now on (R386); a chip TLB
entry is gone, so that its page misses (R466). -/
def State.foundUpset (s : State) : Upset → State
  | .dirCorrected => s.tally (ctrCoh 11)
  | .route copy ep =>
    if s.rtr.routeUe.contains (routeIx copy ep) then s
    else ({ s with rtr := { s.rtr with routeUe := s.rtr.routeUe ++ [routeIx copy ep] } }).rtrReport 0x01 1 unitRouter ep.toNat
      (if copy then 1 else 0)
  | .chipTlb user asid va =>
    if !(s.xlt.chipTlb.any (fun k => k.2.any (fun e => e.covers asid va.toNat))) then s
    else
      let chip : SMap (List TlbEntry) := (tmap s.xlt.chipTlb (fun _ l => l.filter (fun e => !e.covers asid va.toNat))).filter
        (fun k => !k.2.isEmpty)
      (({ s with xlt := { s.xlt with chipTlb := chip } }).tally (ctrXlt 6 0)).raise (mkReport 0x07 0x03 0 (match user with
        | some b => unitBlock b
        | none => unitQueue) asid.toNat va.toNat)

/-- TIDE_TICK_BOUNDARY: the twelve steps in their order. A chip-scope mismatch or a thermal trip ends the boundary where it is found. The
tick's own registers are what step 1 makes of them, whatever the other steps do. -/
def tideTickBoundary (inp : BoundaryIn) (s : State) : State :=
  let s0 := inp.upsets.foldl (fun st u => st.foundUpset u) s
  let s1 := (s0.setTide s.tide.boundary).audits
  let s2 := s1.whenLive (fun t => (t.rasAges.dueVerdicts.rtrAges.step4.step5.step6.returnAll).memStep8 inp)
  let s3 := s2.whenLive (fun t => t.publish.step10.isvSlots.step12)
  s3.setTide s.tide.boundary

def execTideTickBoundary (inp : BoundaryIn) (s : State) : Host.Outcome State Fault Refusal :=
  .next (s.quiet.whenLive (tideTickBoundary inp))

end Sys2Proof.Machine
end

