-- ==== Sys2Proof/Machine/Dispatch.lean ====
section
/-! DEFINITION. The dispatch of a command to its meaning: one arm per constructor of Instr. -/

namespace Sys2Proof.Machine

def exec (i : Instr) (s : State) : Host.Outcome State Fault Refusal :=
  match i with
  | .tideTickBoundary inp => Sys2Proof.Machine.execTideTickBoundary inp s
  | .tidePeriodWrite via n => Sys2Proof.Machine.execTidePeriodWrite via n s
  | .tideModeWrite via m => Sys2Proof.Machine.execTideModeWrite via m s
  | .tideCountLoRead via => Sys2Proof.Machine.execTideCountLoRead via s
  | .tideCountLoadWrite via v => Sys2Proof.Machine.execTideCountLoadWrite via v s
  | .tideInPulse widthNs raw sinceBoundary sinceEdge => Sys2Proof.Machine.execTideInPulse widthNs raw sinceBoundary sinceEdge s
  | .tideLocked => Sys2Proof.Machine.execTideLocked s
  | .tideHoldover => Sys2Proof.Machine.execTideHoldover s
  | .arbiterDecision a inp => Sys2Proof.Machine.execArbiterDecision a inp s
  | .arbBackoffExpire a slot => Sys2Proof.Machine.execArbBackoffExpire a slot s
  | .cellFence c cause => Sys2Proof.Machine.execCellFence c cause s
  | .blockOffline b cause => Sys2Proof.Machine.execBlockOffline b cause s
  | .regionOffline r cause => Sys2Proof.Machine.execRegionOffline r cause s
  | .nodeFatal fault => Sys2Proof.Machine.execNodeFatal fault s
  | .dumpWriteDone outcome bytes => Sys2Proof.Machine.execDumpWriteDone outcome bytes s
  | .reelLoad p image => Sys2Proof.Machine.execReelLoad p image s
  | .mgmtReelLoad t addr bytes => Sys2Proof.Machine.execMgmtReelLoad t addr bytes s
  | .reelUnload p => Sys2Proof.Machine.execReelUnload p s
  | .mgmtReelUnload handle => Sys2Proof.Machine.execMgmtReelUnload handle s
  | .runReel q h args => Sys2Proof.Machine.execRunReel q h args s
  | .runAdmit run cells => Sys2Proof.Machine.execRunAdmit run cells s
  | .tileStart run lc drawn checkCell => Sys2Proof.Machine.execTileStart run lc drawn checkCell s
  | .figureDot c ce => Sys2Proof.Machine.execFigureDot c ce s
  | .figureEwise c ce => Sys2Proof.Machine.execFigureEwise c ce s
  | .figureLreduce c => Sys2Proof.Machine.execFigureLreduce c s
  | .figureConvert c ce => Sys2Proof.Machine.execFigureConvert c ce s
  | .figureGather c ce => Sys2Proof.Machine.execFigureGather c ce s
  | .figureAtomic c ce => Sys2Proof.Machine.execFigureAtomic c ce s
  | .figureSkip c => Sys2Proof.Machine.execFigureSkip c s
  | .tileFinish c => Sys2Proof.Machine.execTileFinish c s
  | .streamCopyDone run copy io ce => Sys2Proof.Machine.execStreamCopyDone run copy io ce s
  | .dmaWriteCommit run copy io => Sys2Proof.Machine.execDmaWriteCommit run copy io s
  | .atomicUnitRequest b sender r residueFails => Sys2Proof.Machine.execAtomicUnitRequest b sender r residueFails s
  | .atomicRunCommit b => Sys2Proof.Machine.execAtomicRunCommit b s
  | .fill q h b io => Sys2Proof.Machine.execFill q h b io s
  | .copy q h b io => Sys2Proof.Machine.execCopy q h b io s
  | .compare q h b io => Sys2Proof.Machine.execCompare q h b io s
  | .reduce q h b io => Sys2Proof.Machine.execReduce q h b io s
  | .reduceScatter q h => Sys2Proof.Machine.execReduceScatter q h s
  | .rsArmed op => Sys2Proof.Machine.execRsArmed op s
  | .rsContribution op addr bytes => Sys2Proof.Machine.execRsContribution op addr bytes s
  | .rsChunkCommit op chunk => Sys2Proof.Machine.execRsChunkCommit op chunk s
  | .rsPeerTimeout op => Sys2Proof.Machine.execRsPeerTimeout op s
  | .allGather q h b io => Sys2Proof.Machine.execAllGather q h b io s
  | .bcast q h b io => Sys2Proof.Machine.execBcast q h b io s
  | .optStep q h b io => Sys2Proof.Machine.execOptStep q h b io s
  | .attend q h b io => Sys2Proof.Machine.execAttend q h b io s
  | .gatherBag q h b io => Sys2Proof.Machine.execGatherBag q h b io s
  | .checkFractionWrite via v => Sys2Proof.Machine.execCheckFractionWrite via v s
  | .checkFractionApply => Sys2Proof.Machine.execCheckFractionApply s
  | .checkBlockReplace => Sys2Proof.Machine.execCheckBlockReplace s
  | .checkExecuteDone chk flip third => Sys2Proof.Machine.execCheckExecuteDone chk flip third s
  | .thirdExecuteDone chk flip => Sys2Proof.Machine.execThirdExecuteDone chk flip s
  | .residueFailLane c checkCell => Sys2Proof.Machine.execResidueFailLane c checkCell s
  | .verdictConfirm op => Sys2Proof.Machine.execVerdictConfirm op s
  | .verdictRetract op => Sys2Proof.Machine.execVerdictRetract op s
  | .verdictLate op => Sys2Proof.Machine.execVerdictLate op s
  | .verdictFatal op => Sys2Proof.Machine.execVerdictFatal op s
  | .reportRead first count => Sys2Proof.Machine.execReportRead first count s
  | .memCtrlAccept g off r => Sys2Proof.Machine.execMemCtrlAccept g off r s
  | .memCtrlReadData ch seq flips => Sys2Proof.Machine.execMemCtrlReadData ch seq flips s
  | .mergeReadDone ch seq flips => Sys2Proof.Machine.execMergeReadDone ch seq flips s
  | .refreshIssue ch => Sys2Proof.Machine.execRefreshIssue ch s
  | .neighborRefresh ch => Sys2Proof.Machine.execNeighborRefresh ch s
  | .shelfThermSample z temp => Sys2Proof.Machine.execShelfThermSample z temp s
  | .retrainPcDone st ok => Sys2Proof.Machine.execRetrainPcDone st ok s
  | .scrub q h => Sys2Proof.Machine.execScrub q h s
  | .scrubDone op => Sys2Proof.Machine.execScrubDone op s
  | .extGrant a => Sys2Proof.Machine.execExtGrant a s
  | .extSetRights e entries => Sys2Proof.Machine.execExtSetRights e entries s
  | .extRevoke e => Sys2Proof.Machine.execExtRevoke e s
  | .extQuery e => Sys2Proof.Machine.execExtQuery e s
  | .extentChangeApply sl e => Sys2Proof.Machine.execExtentChangeApply sl e s
  | .extentDrainDone e => Sys2Proof.Machine.execExtentDrainDone e s
  | .zeroFillCommit t => Sys2Proof.Machine.execZeroFillCommit t s
  | .snapOpen q h => Sys2Proof.Machine.execSnapOpen q h s
  | .snapClose q h => Sys2Proof.Machine.execSnapClose q h s
  | .snapPublish q h => Sys2Proof.Machine.execSnapPublish q h s
  | .snapPublicationPoint e => Sys2Proof.Machine.execSnapPublicationPoint e s
  | .snapCowStart e leaf => Sys2Proof.Machine.execSnapCowStart e leaf s
  | .snapCowDone e leaf => Sys2Proof.Machine.execSnapCowDone e leaf s
  | .cohAgentAdd ep => Sys2Proof.Machine.execCohAgentAdd ep s
  | .cohAgentRemove ep => Sys2Proof.Machine.execCohAgentRemove ep s
  | .cohDeclareDead ep => Sys2Proof.Machine.execCohDeclareDead ep s
  | .cohAgentQuery ep => Sys2Proof.Machine.execCohAgentQuery ep s
  | .deadAgentSweepDone ep => Sys2Proof.Machine.execDeadAgentSweepDone ep s
  | .rdShared ix => Sys2Proof.Machine.execRdShared ix s
  | .rdOwn ix => Sys2Proof.Machine.execRdOwn ix s
  | .claim ix => Sys2Proof.Machine.execClaim ix s
  | .rdOnce ix => Sys2Proof.Machine.execRdOnce ix s
  | .wrLine ix => Sys2Proof.Machine.execWrLine ix s
  | .atomic ix => Sys2Proof.Machine.execAtomic ix s
  | .wbDirty ix => Sys2Proof.Machine.execWbDirty ix s
  | .evictClean ix => Sys2Proof.Machine.execEvictClean ix s
  | .homeOrder line => Sys2Proof.Machine.execHomeOrder line s
  | .snpRspI ix => Sys2Proof.Machine.execSnpRspI ix s
  | .snpRspS ix => Sys2Proof.Machine.execSnpRspS ix s
  | .snpRspDataI ix => Sys2Proof.Machine.execSnpRspDataI ix s
  | .snpRspDataS ix => Sys2Proof.Machine.execSnpRspDataS ix s
  | .snpRspDataM ix => Sys2Proof.Machine.execSnpRspDataM ix s
  | .snpRspWb ix => Sys2Proof.Machine.execSnpRspWb ix s
  | .stashAccept ix => Sys2Proof.Machine.execStashAccept ix s
  | .stashDecline ix => Sys2Proof.Machine.execStashDecline ix s
  | .grantAck ix => Sys2Proof.Machine.execGrantAck ix s
  | .poisonRecovery line => Sys2Proof.Machine.execPoisonRecovery line s
  | .snoopTimeout line ep => Sys2Proof.Machine.execSnoopTimeout line ep s
  | .fecCodewordReceive p symErrs => Sys2Proof.Machine.execFecCodewordReceive p symErrs s
  | .uncorrBurst p => Sys2Proof.Machine.execUncorrBurst p s
  | .laneDegraded p lane => Sys2Proof.Machine.execLaneDegraded p lane s
  | .flitReceive p flit corrupt => Sys2Proof.Machine.execFlitReceive p flit corrupt s
  | .flitTransmit p vc => Sys2Proof.Machine.execFlitTransmit p vc s
  | .nakRetryTimeout p => Sys2Proof.Machine.execNakRetryTimeout p s
  | .replayTimeout p => Sys2Proof.Machine.execReplayTimeout p s
  | .replayMaxExceeded p => Sys2Proof.Machine.execReplayMaxExceeded p s
  | .trainingBlockReceive p block goodLanes rttNs => Sys2Proof.Machine.execTrainingBlockReceive p block goodLanes rttNs s
  | .equalizeTimeout p => Sys2Proof.Machine.execEqualizeTimeout p s
  | .lockTimeout p => Sys2Proof.Machine.execLockTimeout p s
  | .paramTimeout p => Sys2Proof.Machine.execParamTimeout p s
  | .widthReq p width lanes => Sys2Proof.Machine.execWidthReq p width lanes s
  | .widthAck p width lanes => Sys2Proof.Machine.execWidthAck p width lanes s
  | .retrainReq p cause => Sys2Proof.Machine.execRetrainReq p cause s
  | .widthChangeTimeout p => Sys2Proof.Machine.execWidthChangeTimeout p s
  | .linkEnableWrite via p v => Sys2Proof.Machine.execLinkEnableWrite via p v s
  | .linkRetrainWrite via p => Sys2Proof.Machine.execLinkRetrainWrite via p s
  | .widthMaxWrite via p v => Sys2Proof.Machine.execWidthMaxWrite via p v s
  | .linkLoss p => Sys2Proof.Machine.execLinkLoss p s
  | .packetIngress p vc => Sys2Proof.Machine.execPacketIngress p vc s
  | .packetEgress p => Sys2Proof.Machine.execPacketEgress p s
  | .memRd ix io => Sys2Proof.Machine.execMemRd ix io s
  | .memWr ix io => Sys2Proof.Machine.execMemWr ix io s
  | .rdData ix => Sys2Proof.Machine.execRdData ix s
  | .wrDone ix => Sys2Proof.Machine.execWrDone ix s
  | .doorbell ix => Sys2Proof.Machine.execDoorbell ix s
  | .transferComplete src xfer => Sys2Proof.Machine.execTransferComplete src xfer s
  | .xferTimeout src xfer => Sys2Proof.Machine.execXferTimeout src xfer s
  | .e2eTimeout req => Sys2Proof.Machine.execE2eTimeout req s
  | .rtrRouteWrite first entries => Sys2Proof.Machine.execRtrRouteWrite first entries s
  | .rtrRouteSwitch => Sys2Proof.Machine.execRtrRouteSwitch s
  | .routeSwitchApply => Sys2Proof.Machine.execRouteSwitchApply s
  | .routeDrainClose => Sys2Proof.Machine.execRouteDrainClose s
  | .rtrMcastWrite group entry => Sys2Proof.Machine.execRtrMcastWrite group entry s
  | .mcastWriteApply group => Sys2Proof.Machine.execMcastWriteApply group s
  | .rtrPolicerWrite t cls entry => Sys2Proof.Machine.execRtrPolicerWrite t cls entry s
  | .policerWriteApply t cls => Sys2Proof.Machine.execPolicerWriteApply t cls s
  | .rtrShaperWrite sh entry => Sys2Proof.Machine.execRtrShaperWrite sh entry s
  | .shaperWriteApply sh => Sys2Proof.Machine.execShaperWriteApply sh s
  | .rtrTableRead table index count => Sys2Proof.Machine.execRtrTableRead table index count s
  | .plkGrant port t ep mask => Sys2Proof.Machine.execPlkGrant port t ep mask s
  | .plkTakeover => Sys2Proof.Machine.execPlkTakeover s
  | .takeoverApply => Sys2Proof.Machine.execTakeoverApply s
  | .adminQueueEnable p v => Sys2Proof.Machine.execAdminQueueEnable p v s
  | .adminDoorbell p v => Sys2Proof.Machine.execAdminDoorbell p v s
  | .downloadPl0Enable set => Sys2Proof.Machine.execDownloadPl0Enable set s
  | .qpCreate p => Sys2Proof.Machine.execQpCreate p s
  | .qpDestroy p => Sys2Proof.Machine.execQpDestroy p s
  | .qpFree q => Sys2Proof.Machine.execQpFree q s
  | .abort p => Sys2Proof.Machine.execAbort p s
  | .fence q h => Sys2Proof.Machine.execFence q h s
  | .descriptorFetch t r => Sys2Proof.Machine.execDescriptorFetch t r s
  | .completionWrite t => Sys2Proof.Machine.execCompletionWrite t s
  | .coalTimeout q => Sys2Proof.Machine.execCoalTimeout q s
  | .asCreate p => Sys2Proof.Machine.execAsCreate p s
  | .asSetRoot p => Sys2Proof.Machine.execAsSetRoot p s
  | .asDestroy p => Sys2Proof.Machine.execAsDestroy p s
  | .inval p => Sys2Proof.Machine.execInval p s
  | .invalAck e => Sys2Proof.Machine.execInvalAck e s
  | .faultRingSet p => Sys2Proof.Machine.execFaultRingSet p s
  | .faultResp p => Sys2Proof.Machine.execFaultResp p s
  | .walkReadReturn w entry err => Sys2Proof.Machine.execWalkReadReturn w entry err s
  | .faultRecordWrite p => Sys2Proof.Machine.execFaultRecordWrite p s
  | .faultTimeout id => Sys2Proof.Machine.execFaultTimeout id s
  | .faultHeadWrite p v => Sys2Proof.Machine.execFaultHeadWrite p v s
  | .mboxGo p msg => Sys2Proof.Machine.execMboxGo p msg s
  | .mgmtDatagram src msgNo frag count bytes => Sys2Proof.Machine.execMgmtDatagram src msgNo frag count bytes s
  | .mgmtFragmentTimeout src msgNo => Sys2Proof.Machine.execMgmtFragmentTimeout src msgNo s
  | .getCerts m => Sys2Proof.Machine.execGetCerts m s
  | .attest m => Sys2Proof.Machine.execAttest m s
  | .sessionOpen m => Sys2Proof.Machine.execSessionOpen m s
  | .sessionCert m => Sys2Proof.Machine.execSessionCert m s
  | .sessionFinish m => Sys2Proof.Machine.execSessionFinish m s
  | .sessionClose m => Sys2Proof.Machine.execSessionClose m s
  | .sessionIdleTimeout sess => Sys2Proof.Machine.execSessionIdleTimeout sess s
  | .operatorRootSet m => Sys2Proof.Machine.execOperatorRootSet m s
  | .tenantBind m => Sys2Proof.Machine.execTenantBind m s
  | .tenantRemove m => Sys2Proof.Machine.execTenantRemove m s
  | .teardownFence t => Sys2Proof.Machine.execTeardownFence t s
  | .teardownComplete t => Sys2Proof.Machine.execTeardownComplete t s
  | .keyInstall m => Sys2Proof.Machine.execKeyInstall m s
  | .keySwitch m => Sys2Proof.Machine.execKeySwitch m s
  | .keySwitchApply t => Sys2Proof.Machine.execKeySwitchApply t s
  | .keyConfirm m => Sys2Proof.Machine.execKeyConfirm m s
  | .keyRetire t => Sys2Proof.Machine.execKeyRetire t s
  | .keyDestroy m => Sys2Proof.Machine.execKeyDestroy m s
  | .encMode m => Sys2Proof.Machine.execEncMode m s
  | .encModeApply t => Sys2Proof.Machine.execEncModeApply t s
  | .reelKeyEnroll m => Sys2Proof.Machine.execReelKeyEnroll m s
  | .extentSeal m => Sys2Proof.Machine.execExtentSeal m s
  | .extentUnseal m => Sys2Proof.Machine.execExtentUnseal m s
  | .linkKey m => Sys2Proof.Machine.execLinkKey m s
  | .linkKeyRetire p => Sys2Proof.Machine.execLinkKeyRetire p s
  | .telemetryRead m => Sys2Proof.Machine.execTelemetryRead m s
  | .fwUpdate m => Sys2Proof.Machine.execFwUpdate m s
  | .debugUnlock m => Sys2Proof.Machine.execDebugUnlock m s
  | .fuseProgram m => Sys2Proof.Machine.execFuseProgram m s
  | .mgmt m => Sys2Proof.Machine.execMgmt m s
  | .powerGood referenceRuns => Sys2Proof.Machine.execPowerGood referenceRuns s
  | .resetNAssert => Sys2Proof.Machine.execResetNAssert s
  | .resetNRelease => Sys2Proof.Machine.execResetNRelease s
  | .resetComplete boot clk => Sys2Proof.Machine.execResetComplete boot clk s
  | .logicLeaveReset => Sys2Proof.Machine.execLogicLeaveReset s
  | .romCheckDone src => Sys2Proof.Machine.execRomCheckDone src s
  | .downloadMgmtDatagram offset bytes => Sys2Proof.Machine.execDownloadMgmtDatagram offset bytes s
  | .deepTrainDone temps failed reducedFails => Sys2Proof.Machine.execDeepTrainDone temps failed reducedFails s
  | .katDone fails => Sys2Proof.Machine.execKatDone fails s
  | .fillDone => Sys2Proof.Machine.execFillDone s
  | .bootWatchdog => Sys2Proof.Machine.execBootWatchdog s
  | .refclkLost r => Sys2Proof.Machine.execRefclkLost r s
  | .refclkBothLostTimeout => Sys2Proof.Machine.execRefclkBothLostTimeout s
  | .feedLost f => Sys2Proof.Machine.execFeedLost f s
  | .feedReturn f => Sys2Proof.Machine.execFeedReturn f s
  | .proveHandover => Sys2Proof.Machine.execProveHandover s
  | .handoverTimeout => Sys2Proof.Machine.execHandoverTimeout s
  | .leaseRenew => Sys2Proof.Machine.execLeaseRenew s
  | .leaseLapse => Sys2Proof.Machine.execLeaseLapse s
  | .leaseRevoke => Sys2Proof.Machine.execLeaseRevoke s
  | .powerSample isStack n estimate => Sys2Proof.Machine.execPowerSample isStack n estimate s
  | .blockThermSample b temp => Sys2Proof.Machine.execBlockThermSample b temp s
  | .ceilingWrite via isStack n v => Sys2Proof.Machine.execCeilingWrite via isStack n v s
  | .shutdownRequest => Sys2Proof.Machine.execShutdownRequest s
  | .shutdownStart => Sys2Proof.Machine.execShutdownStart s
  | .shutdownDrainEnd => Sys2Proof.Machine.execShutdownDrainEnd s
  | .lbistDone failMask => Sys2Proof.Machine.execLbistDone failMask s
  | .isvTestDone unit test pass => Sys2Proof.Machine.execIsvTestDone unit test pass s
  | .healthRead => Sys2Proof.Machine.execHealthRead s
  | .cntReadClear offset count => Sys2Proof.Machine.execCntReadClear offset count s
  | .traceCtrlWrite via slot v => Sys2Proof.Machine.execTraceCtrlWrite via slot v s
  | .traceSample c clock stall => Sys2Proof.Machine.execTraceSample c clock stall s
  | .traceWrite slot => Sys2Proof.Machine.execTraceWrite slot s
  | .traceHeadWrite via slot v => Sys2Proof.Machine.execTraceHeadWrite via slot v s
  | .bypass => Sys2Proof.Machine.execBypass s
  | .idcode => Sys2Proof.Machine.execIdcode s
  | .samplePreload pins => Sys2Proof.Machine.execSamplePreload pins s
  | .extest => Sys2Proof.Machine.execExtest s
  | .clamp => Sys2Proof.Machine.execClamp s
  | .highz => Sys2Proof.Machine.execHighz s
  | .dbgAccess r => Sys2Proof.Machine.execDbgAccess r s
  | .dbgHalt b halt => Sys2Proof.Machine.execDbgHalt b halt s
  | .dumpRead offset length => Sys2Proof.Machine.execDumpRead offset length s
  | .dumpClear => Sys2Proof.Machine.execDumpClear s
  | .regRead offset count => Sys2Proof.Machine.execRegRead offset count s
  | .regWrite offset count words => Sys2Proof.Machine.execRegWrite offset count words s
  | .regWr via offset eight v => Sys2Proof.Machine.execRegWr via offset eight v s
  | .mgmtLinkModeTimeout => Sys2Proof.Machine.execMgmtLinkModeTimeout s
  | .refclkReturn r => Sys2Proof.Machine.execRefclkReturn r s
  | .handoverComplete => Sys2Proof.Machine.execHandoverComplete s
  | .codewordLockLost p => Sys2Proof.Machine.execCodewordLockLost p s
  | .mgmtBlockLock m => Sys2Proof.Machine.execMgmtBlockLock m s
  | .mgmtSignalLoss => Sys2Proof.Machine.execMgmtSignalLoss s
  | .shelfCalibrationDone => Sys2Proof.Machine.execShelfCalibrationDone s
  | .footprintCopyDone chk => Sys2Proof.Machine.execFootprintCopyDone chk s

end Sys2Proof.Machine
end

