-- ==== Sys2Proof/WellFormed.lean ====
section
/-! DEFINITION. What a command's operands must be for the command to be one that the T960 can receive: facts about the operands alone that
the types do not already say. A command that fails a check here describes no event of the device; the meanings are total all the same. -/

namespace Sys2Proof

/-- No element stands twice. -/
def distinct {α : Type} [DecidableEq α] : List α → Bool
  | [] => true
  | x :: xs => !xs.contains x && distinct xs

/-- Requester slots of an arbiter (R41), banks of a memory scheduler (R229). -/
def ArbId.slots : ArbId → Nat
  | .scratch _ _ => 4
  | .blockPort _ => 19
  | .regionEntry _ => 9
  | .regionBuf _ => 9
  | .chipEntry => 16
  | .mem ch => if ch.val < 384 then 80 else 8
  | .fetch => 4096

/-- The stops of the ring that an arbiter grants entry to; none where it grants none (R380). -/
def ArbId.stops : ArbId → Nat
  | .chipEntry => 16
  | .regionEntry _ => 9
  | _ => 0

/-- The slots asserted are the arbiter's own, each once, and so are the packets that wait to enter a ring; a scheduler has four draws at most
(R244). -/
def ArbIn.wf (a : ArbId) (x : ArbIn) : Bool :=
  distinct x.asserted && x.asserted.all (fun i => decide (i < a.slots)) && distinct (x.wants.map (fun w => w.slot)) &&
  x.wants.all (fun w => decide (w.slot < a.stops) && decide (w.dst < a.stops)) && x.freed.all (fun e => decide (e.1 < a.stops)) &&
  decide (x.draws.length ≤ 4)

/-- One reading a stack and one a zone at most (R240). -/
def BoundaryIn.wf (x : BoundaryIn) : Bool := decide (x.stackTemps.length ≤ 12) && decide (x.zoneTemps.length ≤ 8)

/-- Each code word of a read shows its flips once (R249). -/
def flipsWf (fs : List EccFlip) : Bool := distinct (fs.map (fun f => f.word))

/-- The flips of each memory line stand once, in words 0 to 7 of it. -/
def OutsideIo.wf (io : OutsideIo) : Bool :=
  distinct (io.flips.map (fun f => f.1)) && io.flips.all (fun f => flipsWf f.2 && f.2.all (fun x => decide (x.word.val < 8)))

/-- A request to the atomic unit names 1 to 16 elements (R94). -/
def AtomReq.wf (r : AtomReq) : Bool := decide (1 ≤ r.elems.length) && decide (r.elems.length ≤ 16)

/-- A power unit's number: 64 blocks, 12 stacks (R550). -/
def powerWf (isStack : Bool) (n : Nat) : Bool := decide (n < if isStack then 12 else 64)

/-- The check of a command's operands; a command that no clause names has none. -/
def Instr.wf : Instr → Bool
  | .tideTickBoundary inp => inp.wf
  | .arbiterDecision a inp => inp.wf a
  | .arbBackoffExpire a slot => decide (slot < a.slots)
  | .runAdmit _ cells => distinct cells && !cells.isEmpty
  | .atomicUnitRequest _ _ r _ => r.wf
  | .streamCopyDone _ _ io _ => io.wf
  | .dmaWriteCommit _ _ io => io.wf
  | .fill _ _ _ io => io.wf
  | .copy _ _ _ io => io.wf
  | .compare _ _ _ io => io.wf
  | .reduce _ _ _ io => io.wf
  | .allGather _ _ _ io => io.wf
  | .bcast _ _ _ io => io.wf
  | .optStep _ _ _ io => io.wf
  | .attend _ _ _ io => io.wf
  | .gatherBag _ _ _ io => io.wf
  | .memRd _ io => io.wf
  | .memWr _ io => io.wf
  | .memCtrlReadData _ _ flips => flipsWf flips
  | .mergeReadDone _ _ flips => flipsWf flips
  | .fecCodewordReceive _ errs => decide (errs.length ≤ 8)
  | .mgmtDatagram _ _ frag count bytes => decide (frag.toNat < count.toNat) && decide (bytes.length ≤ 1400)
  | .downloadMgmtDatagram _ bytes => !bytes.isEmpty && decide (bytes.length ≤ 1400)
  | .deepTrainDone temps failed _ =>
    decide (temps.length = 12) && failed.all (fun f => decide (f.1 < 12) && decide (f.2 < 32)) && distinct failed
  | .katDone fails => distinct fails
  | .powerSample isStack n _ => powerWf isStack n
  | .ceilingWrite _ isStack n _ => powerWf isStack n
  | .regWrite _ count words => decide (words.length = count.toNat)
  | _ => true

end Sys2Proof
end

