-- ==== Sys2Proof/Safety.lean ====
section
/-! DEFINITION. The terms that statements about the machine use: what a command leaves unchanged, and what holds of the device in a
node-fatal state. -/

namespace Sys2Proof.Machine

/-- The parts of a state that a command may change: everything but the queue of commands and the record of what was sent out. -/
inductive Part where
  | tide | arb | health | remap | fab | ras | ctr | mem | ext | coh | links | rtr | que | xlt | sec | dbg | plt | audit | serial
deriving DecidableEq, Repr

/-- A part is the same in two states. -/
def Part.same (p : Part) (s t : State) : Prop :=
  match p with
  | .tide => t.tide = s.tide
  | .arb => t.arb = s.arb
  | .health => t.health = s.health
  | .remap => t.remap = s.remap
  | .fab => t.fab = s.fab
  | .ras => t.ras = s.ras
  | .ctr => t.ctr = s.ctr
  | .mem => t.mem = s.mem
  | .ext => t.ext = s.ext
  | .coh => t.coh = s.coh
  | .links => t.links = s.links
  | .rtr => t.rtr = s.rtr
  | .que => t.que = s.que
  | .xlt => t.xlt = s.xlt
  | .sec => t.sec = s.sec
  | .dbg => t.dbg = s.dbg
  | .plt => t.plt = s.plt
  | .audit => t.audit = s.audit
  | .serial => t.serial = s.serial

/-- From s to t nothing changed outside the parts listed. -/
def SameBut (changed : List Part) (s t : State) : Prop := ∀ p, p ∉ changed → p.same s t

/-- From s to t nothing changed outside the parts listed, nor did the queue of commands. -/
def Frame (changed : List Part) (s t : State) : Prop := t.pending = s.pending ∧ SameBut changed s t

/-- The command raised a report of a source, code and severity about a unit. -/
def reported (t : State) (source code severity : Nat) (unit : BitVec 16) : Prop :=
  ∃ r, .report r ∈ t.out ∧ r.source = BitVec.ofNat 8 source ∧ r.code = BitVec.ofNat 8 code ∧ r.severity = BitVec.ofNat 8 severity ∧
    r.unit = unit

/-- The back-off of a slot when a decision is made: a request just withdrawn backs off no more (R44). -/
def State.backoffAt (s : State) (a : ArbId) (inp : ArbIn) (i : Nat) : Nat := mget 0 ((s.arbiter a).withdraw inp.withdrawn).backoff i

/-- A requester slot takes part in a decision: it is asserted and not backing off (R42, R44), and at a ring entry its packet may enter the
ring as it stands once the packets on it have moved on (R46, R381, R383). -/
def State.asks (s : State) (a : ArbId) (inp : ArbIn) (i : Nat) : Prop :=
  i < arbSlots a ∧ i ∈ inp.asserted ∧ s.backoffAt a inp i = 0 ∧ (s.turnRing a inp).mayEnter a inp i = true

/-- The losses in a row of a slot when a decision is made. -/
def State.lossesAt (s : State) (a : ArbId) (inp : ArbIn) (i : Nat) : Nat := mget 0 ((s.arbiter a).withdraw inp.withdrawn).losses i

/-- The class a slot's request counts as: its own, and 0 after 16 losses in a row (R45). -/
def State.effClass (s : State) (a : ArbId) (inp : ArbIn) (i : Nat) : Nat :=
  if 16 ≤ s.lossesAt a inp i then 0 else s.slotClass a i

/-- The admin command d of a port is answered: nothing is awaited and its record waits to be written (R428, R458). -/
def adminAnswered (t : State) (p : PlPort) (d : Desc) (st : Status) (v : W64) : Prop :=
  (t.admin p).busy = false ∧ ∃ r, r ∈ (t.admin p).recs ∧ r.cmdId = descCmd d ∧ r.status = st ∧ r.value = v ∧ r.intr = descIntr d

/-- Descriptor h of a queue pair has ended without being admitted: its record, with CSN 0, waits to be written (R147, R446). -/
def descEnded (t : State) (q : Qp) (h : Nat) (d : Desc) (st : Status) : Prop :=
  ∃ x r, t.qp q = some x ∧ r ∈ x.recs ∧ r.held = some h ∧ r.cmdId = descCmd d ∧ r.status = st ∧ r.csn = 0#48 ∧ r.outcome = none

/-- A management answer was sent. -/
def answered (t : State) (code : BitVec 8) (result : Nat) (bytes : List Byte) : Prop := .mgmtReply code result bytes ∈ t.out

/-- The home agent slices take byte runs of an operation one after another, until one is refused: its status, if one was (R93). -/
def State.commitRuns (s : State) (o : OpRec) (io : OutsideIo) : List (Nat × List Byte) → Option Status × State
  | [] => (none, s)
  | w :: ws => match s.opWrite o (BitVec.ofNat 64 w.1) w.2 io with
    | (.error st, s1) => (some st, s1)
    | (.ok _, s1) => s1.commitRuns o io ws

/-- A queue pair holds a descriptor as the next one to be checked, and its records are written. -/
def State.nextHeld (s : State) (q : Qp) (h : Nat) (opc : BitVec 8) (x : QPair) (d : Held) : Prop :=
  s.nextIs q h opc = some (x, d) ∧ tget x.held h = some d ∧ x.drops = false

/-- The command starts a retrain of a port: it is in LOCK with its loss timer running and no width change, and LINK_RETRAIN is raised (R368,
R369). -/
def retrains (p : LinkPort) (c : Instr) (s : State) : Prop :=
  ∃ t, exec c s = .next t ∧ (t.link p).state = .lock ∧ (t.link p).retraining = true ∧ (t.link p).lossTimer = true ∧
    (t.link p).change = none ∧ (t.link p).epoch = (s.link p).epoch ∧ (t.link p).tx.replay = (s.link p).tx.replay ∧
    reported t 0x04 0x01 0 (unitPort p) ∧ Frame [.links, .ctr, .ras, .serial] s t

/-- A codeword's symbol errors on the lanes in use, each with its lane (R339). -/
def laneErrors (s : State) (p : LinkPort) (errs : List Nat) : List (Nat × Nat) :=
  ((List.range 8).zip errs).filter (fun e => (s.link p).lanes.getLsbD e.1)

/-- The command leaves everything as it was. -/
def idles (c : Instr) (s : State) : Prop := ∃ t, exec c s = .next t ∧ Frame [] s t

/-! Headland's messages. -/

/-- The bytes of an answer (R487, R488, R491, R493): an answer in a session is protected under it, one longer than RSP_MAX is a header alone,
and the body of an answer that is not SEC_OK is empty. -/
def State.answerBytes (v : State) (m : SecMsg) (st : Nat) (body : List Byte) (sid : Nat) : List Byte :=
  let b := if st = secOk then body else []
  let full : List Byte := match v.msgSession m with
    | some x =>
      let hdr := headHeader m.cmd.toNat st true (32 + b.length) m.sess x.seqOut
      hdr ++ sealBytes x.keyOut (headIv true m.sess x.seqOut) hdr b
    | none => headHeader m.cmd.toNat st false (16 + b.length) sid 0 ++ b
  match m.port with
  | some p => if (v.mbox p).rspMax.toNat < full.length then headHeader m.cmd.toNat secBadMsg false 16 0 0 else full
  | none => full

/-- Headland takes message m, the i-th that waits, for a command; u is the state without it. -/
def State.takes (s : State) (i cmd : Nat) (m : SecMsg) (u : State) : Prop :=
  s.awake = true ∧ s.sec.msgs[i]? = some m ∧ m.cmd.toNat = cmd ∧ m.started = false ∧
    u = { s.quiet with sec := { s.sec with msgs := s.sec.msgs.eraseIdx i } }

/-- The same, where neither the recovery image nor a node-fatal state refuses it. -/
def State.serves (s : State) (i cmd : Nat) (m : SecMsg) (u : State) : Prop := s.takes i cmd m u ∧ s.headGate cmd = none

/-- The command has v as its effect and answers its message with a result, a body and a session's number. -/
def headAnswersIn (c : Instr) (s v : State) (m : SecMsg) (st : Nat) (body : List Byte) (sid : Nat) : Prop :=
  ∃ t, exec c s = .next t ∧ .head m.port m.src (v.answerBytes m st body sid) ∈ t.out ∧
    { t.sec with mboxes := [], sessions := [] } = { v.sec with mboxes := [], sessions := [] } ∧
    (v.msgSession m = none → t.sec.sessions = v.sec.sessions) ∧ Frame [.sec, .rtr, .links] v t

/-- The same with no session's number in the answer. -/
def headAnswers (c : Instr) (s v : State) (m : SecMsg) (st : Nat) (body : List Byte) : Prop := headAnswersIn c s v m st body 0

/-- A message came in an operator's session. -/
def State.fromOperator (u : State) (m : SecMsg) (x : Session) : Prop := u.msgSession m = some x ∧ x.kind = .operator

/-- A message came in a session of a tenant. -/
def State.fromTenant (u : State) (m : SecMsg) (t : Tenant) : Prop := ∃ x, u.msgSession m = some x ∧ x.kind = .tenant t

/-- The rows of Headland's commands and their codes (R489): those that need no session of a kind, an operator's, and a tenant's. -/
def openRows : List ((Nat → Instr) × Nat) :=
  [(.getCerts, 0x01), (.attest, 0x02), (.sessionOpen, 0x10), (.sessionFinish, 0x11), (.sessionCert, 0x13), (.sessionClose, 0x12),
   (.operatorRootSet, 0x20), (.tenantRemove, 0x22)]

def operatorRows : List ((Nat → Instr) × Nat) :=
  [(.tenantBind, 0x21), (.fwUpdate, 0x40), (.debugUnlock, 0x41), (.fuseProgram, 0x42), (.mgmt, 0xF0)]

def tenantRows : List ((Nat → Instr) × Nat) :=
  [(.keyInstall, 0x30), (.keySwitch, 0x31), (.keyConfirm, 0x32), (.keyDestroy, 0x33), (.encMode, 0x34), (.reelKeyEnroll, 0x35),
   (.extentSeal, 0x36), (.extentUnseal, 0x37), (.linkKey, 0x38), (.telemetryRead, 0x39)]

/-- Every port is in DISABLED. -/
def portsDisabled (s : State) : Prop := ∀ p : LinkPort, (s.link p).state = .disabled

/-- In a node-fatal state every port is in DISABLED (R589). -/
def fatalInv (s : State) : Prop := s.dbg.fatal = true → portsDisabled s

/-- The pool's bytes are in canonical form: addresses rising, no entry that reads as an unlisted one does. -/
def Memory.wf (s : State) : Bool := smapWf (0#8 : Byte) s.mem.bytes

/-- What a command of a built-in operation does (R143 to R152): a descriptor that fails a check of its fields ends with that check's status;
an admitted operation that is to end ends; and one whose block is online and may issue, whose host pages are translated, whose selected tiles find
check cells, whose operands could be read and whose destination is not busy has its writes stored in order and then finishes with its effect's
status and value, its tile status gathered. -/
def poolMeaning (c : Instr) (p : PoolSpec) (q : Qp) (h : Nat) (b : BlockId) (io : OutsideIo)
    (eff : State → OpRec → OutsideIo → Except PStop PoolRes × State) : Prop :=
  (∀ (s : State) (x : QPair) (d : Held) (st : Status), s.live = true → s.nextHeld q h p.opcode x d → p.checks s.quiet x d.desc = some st →
    ∃ t, exec c s = .next t ∧ descEnded t q h d.desc st ∧ Frame [.que] s t) ∧
  (∀ (s : State) (n : Nat) (o : OpRec) (st : Status), s.live = true → s.poolOp q h p.opcode = some n → s.op n = some o →
    o.ending = some st → ∃ t, exec c s = .next t ∧ t = s.quiet.settle (s.quiet.stopOp n p.opcode st)) ∧
  (∀ (s s1 s2 s3 : State) (n : Nat) (k : BlockId) (o o1 : OpRec) (r : PoolRes), s.live = true → s.poolOp q h p.opcode = some n →
    s.op n = some o → o.ending = none → o.block = some k → s.blockOnline k = true → s.blockIssues k = true →
    s.quiet.translateOp n k (p.host o.desc o.list) = (true, s1) → s1.op n = some o1 → (s1.drawChecks n (s1.poolTiles k)).isSome = true →
    eff s1 o1 io = (.ok r, s2) → (∀ w, w ∈ r.writes → s2.storeBusy o1 w = false) → s2.storeAll n o1 io r.writes = (none, s3) →
    ∃ t u, exec c s = .next t ∧ t = s.quiet.settle (u.finishOp n r.status r.value) ∧ SameBut [.que, .ras, .ctr, .serial] s3 u ∧
      (∀ y, s3.op n = some y → u.op n = some { y with tileStatus := y.tileStatus ||| r.flags })) ∧
  (∀ (s s1 s2 : State) (n : Nat) (k : BlockId) (o o1 : OpRec) (st : Status), s.live = true → s.poolOp q h p.opcode = some n →
    s.op n = some o → o.ending = none → o.block = some k → s.blockOnline k = true → s.blockIssues k = true →
    s.quiet.translateOp n k (p.host o.desc o.list) = (true, s1) → s1.op n = some o1 → (s1.drawChecks n (s1.poolTiles k)).isSome = true →
    eff s1 o1 io = (.error (.refused st), s2) →
    ∃ t u, exec c s = .next t ∧ t = s.quiet.settle (u.stopOp n o1.opcode st) ∧ SameBut [.ras, .ctr, .serial] s2 u)

/-- What a command of an operation that sends to a multicast group does (R176 to R180): the same checks, and then its data is sent. -/
def sendMeaning (c : Instr) (p : PoolSpec) (q : Qp) (h : Nat) (b : BlockId) (io : OutsideIo) (g : Desc → Nat)
    (eff : State → OpRec → OutsideIo → Except PStop (List (Nat × List Byte)) × State) (when_ : Desc → Bool) : Prop :=
  (∀ (s : State) (x : QPair) (d : Held) (st : Status), s.live = true → s.nextHeld q h p.opcode x d → s.qp q = some x → when_ d.desc = true →
    p.checks s.quiet x d.desc = some st → ∃ t, exec c s = .next t ∧ descEnded t q h d.desc st ∧ Frame [.que] s t) ∧
  (∀ (s s1 s2 : State) (n : Nat) (k : BlockId) (x : QPair) (d : Held) (o o1 : OpRec) (l : List (Nat × List Byte)), s.live = true →
    s.qp q = some x → tget x.held h = some d → when_ d.desc = true → s.poolOp q h p.opcode = some n → s.op n = some o →
    tget s.fab.sends n = none → o.block = some k → s.blockOnline k = true → s.blockIssues k = true →
    s.quiet.translateOp n k (p.host o.desc o.list) = (true, s1) → s1.op n = some o1 → (s1.drawChecks n (s1.poolTiles k)).isSome = true →
    eff s1 o1 io = (.ok l, s2) →
    ∃ t u, exec c s = .next t ∧ t = s.quiet.settle (u.sendGroup n o1 (BitVec.ofNat 12 (g o1.desc)) l) ∧ SameBut [.ras, .ctr, .serial] s2 u)

/-- Commands that a device serves whatever state it is in: power and reset, and the two that the fatal entry itself consists of. -/
def servedAlways : Instr → Bool
  | .powerGood _ | .resetNAssert | .resetNRelease | .resetComplete _ _ | .logicLeaveReset | .nodeFatal _ | .dumpWriteDone _ _ => true
  | _ => false

/-- Commands of the package's own parts, which stand outside the die's reset: the feed controllers and the JTAG port. -/
def servedPowered : Instr → Bool
  | .feedLost _ | .feedReturn _ | .proveHandover | .handoverComplete | .handoverTimeout | .leaseRenew | .leaseLapse | .leaseRevoke
  | .refclkLost _ | .refclkReturn _ | .bypass | .idcode | .samplePreload _ | .extest | .clamp | .highz | .dbgHalt _ _ => true
  | _ => false

/-- Commands that Headland and the management port serve in a node-fatal state too (R589). -/
def servedAwake : Instr → Bool
  | .reportRead _ _ | .healthRead | .dumpRead _ _ | .dumpClear | .dbgAccess _ | .mgmtLinkModeTimeout | .mgmtBlockLock _
  | .mgmtSignalLoss | .mboxGo _ _ | .mgmtDatagram _ _ _ _ _ | .mgmtFragmentTimeout _ _ | .getCerts _ | .attest _ | .sessionOpen _
  | .sessionCert _ | .sessionFinish _ | .sessionClose _ | .sessionIdleTimeout _ | .operatorRootSet _ | .tenantBind _ | .tenantRemove _
  | .keyInstall _ | .keySwitch _ | .keyConfirm _ | .keyDestroy _ | .encMode _ | .reelKeyEnroll _ | .extentSeal _ | .extentUnseal _
  | .linkKey _ | .telemetryRead _ | .fwUpdate _ | .debugUnlock _ | .fuseProgram _ | .mgmt _ => true
  | _ => false

end Sys2Proof.Machine
end

