-- ==== Sys2Proof/Certificates/Slice0/Obligations.lean ====
section
/-! DEFINITION. The statements about the model that are to be proved. -/

open Sys2Proof Sys2Proof.Machine

/-! ### The machine as a whole -/

/-- A step takes the command at the front of the queue and runs it on the state that holds the queue's rest (the model's interface: log entry
1). -/
def Obligations.StepRunsTheFrontCommand : Prop :=
  ∀ (c : Instr) (s : State), step { s with pending := c :: s.pending } = exec c s

/-- With no command waiting the block idles (DESIGN CHOICE: log entry 2). -/
def Obligations.StepIdlesOnEmptyQueue : Prop :=
  ∀ s : State, s.pending = [] → step s = .next s

/-- Commands are taken first in, first out: no command's effect reaches the queue, and a step removes the front command only (log entry 1). -/
def Obligations.EveryCommandKeepsTheQueue : Prop :=
  (∀ (c : Instr) (s t : State), exec c s = .next t → t.pending = s.pending) ∧
  (∀ s t : State, step s = .next t → t.pending = s.pending.tail)

/-- Every command runs on every state, but for an access to a granule that does not exist (R225). -/
def Obligations.OnlyMissingMemoryStops : Prop :=
  (∀ (c : Instr) (s : State), (∃ t, exec c s = .next t) ∨ (∃ g off r, c = .memCtrlAccept g off r ∧ 15616 ≤ g)) ∧
  (∀ (g : Nat) (off : BitVec 26) (r : MemReq) (s : State), 15616 ≤ g → exec (.memCtrlAccept g off r) s = .fault .noSuchGranule)

/-- A device that is off, held in reset, tripped or node-fatal performs none of its own commands; Headland's stay with an awake device, the
feed controllers' and JTAG's with a powered one (R589, R554, R530). -/
def Obligations.NothingHappensOnADeadDevice : Prop :=
  (∀ (c : Instr) (s t : State), s.live = false → servedAlways c = false → servedPowered c = false → servedAwake c = false →
    exec c s = .next t → t = { s with out := [] }) ∧
  (∀ (c : Instr) (s t : State), s.awake = false → servedAwake c = true → exec c s = .next t → t = { s with out := [] }) ∧
  (∀ (c : Instr) (s t : State), s.plt.powered = false → servedPowered c = true → exec c s = .next t → t = { s with out := [] })

/-- From every state where a fatal node has every port in DISABLED, every step leaves a state where that holds: whichever command makes the
node fatal disables the ports, and nothing brings one up again while the node stays fatal (R589). -/
def Obligations.FatalKeepsPortsDisabled : Prop :=
  ∀ s t : State, fatalInv s → step s = .next t → fatalInv t

/-- The state after reset meets the invariants of this file. -/
def Obligations.ResetMeetsTheInvariants : Prop :=
  fatalInv State.reset ∧ State.reset.dbg.fatal = false ∧ Memory.wf State.reset = true ∧ State.reset.pending = [] ∧ State.reset.live = true

/-- Reset values that the register tables state (R39, R40, R48 to R51, R417, R418, R480, R593). -/
def Obligations.ResetValuesOfRegisters : Prop :=
  State.reset.tide.period = 1#4 ∧ State.reset.tide.mode = .free ∧ State.reset.tide.outEn = false ∧ State.reset.tide.comp = 0#8 ∧
  State.reset.tide.count = 0#64 ∧
  State.reset.arb.written.cell = 0b11100101#8 ∧ State.reset.arb.written.blk = 0b00000101#8 ∧ State.reset.arb.written.reg = 0b0101#4 ∧
  State.reset.arb.written.chip = 0b00010101#8 ∧ State.reset.arb.inForce = State.reset.arb.written ∧
  State.reset.rtr.nodeId = 0x3FFF#14 ∧ State.reset.rtr.activeGen = false ∧ State.reset.rtr.adaptEn = true ∧
  (∀ n : Nat, mget PortCtrl.reset State.reset.rtr.ports n = ⟨true, true, 0#8⟩) ∧
  State.reset.xlt.prefetchEn = true ∧ State.reset.ras.isvEn = true ∧ State.reset.ras.isvBlocks = 4#4 ∧ State.reset.ras.isvRouter = true ∧
  State.reset.ras.isvEcc = true ∧ State.reset.plt.phase = .rom

/-! ### Tide tick, arbitration, containment (spec/02) -/

/-- The tide registers (R27, R32, R36, R38 step 6, R39): what each write or read leaves, and that nothing else changes. -/
def Obligations.TideRegisters : Prop :=
  (∀ (n : BitVec 4) (s : State), s.live = true → s.tide.mode ≠ .follow → s.periodTooShort n = false →
    ∃ t, exec (.tidePeriodWrite .mgmt n) s = .next t ∧ t.tide = { s.tide with periodNext := some n } ∧ Frame [.tide] s t) ∧
  (∀ (n : BitVec 4) (s : State), s.live = true → s.tide.mode = .follow ∨ s.periodTooShort n = true →
    ∃ t, exec (.tidePeriodWrite .mgmt n) s = .next t ∧ t.tide = { s.tide with periodReject := true } ∧ Frame [.tide] s t) ∧
  (∀ (m : BitVec 2) (s : State), s.live = true →
    ∃ t, exec (.tideModeWrite .mgmt m) s = .next t ∧ Frame [.tide] s t ∧
      (m = 0#2 → t.tide.mode = .free) ∧ (m = 1#2 → t.tide.mode = .lead) ∧ (m = 2#2 → t.tide.mode = .follow) ∧
      (m = 3#2 → t.tide = s.tide) ∧ (m ≠ 3#2 → t.tide.count = s.tide.count ∧ t.tide.period = s.tide.period)) ∧
  (∀ (via : RegPath) (s : State), s.live = true →
    ∃ t, exec (.tideCountLoRead via) s = .next t ∧ t.tide = { s.tide with countHi := s.tide.count.extractLsb' 32 32 } ∧
      t.out = [.regData via 0x000018#24 (s.tide.count &&& 0xFFFFFFFF#64)] ∧ Frame [.tide] s t) ∧
  (∀ (v : W64) (s : State), s.live = true →
    ∃ t, exec (.tideCountLoadWrite .mgmt v) s = .next t ∧ t.tide = { s.tide with load := some (v &&& ~~~0xFFF#64) } ∧ Frame [.tide] s t) ∧
  (∀ (p : PlPort) (n : BitVec 4) (m : BitVec 2) (v : W64) (s : State), s.live = true →
    (∃ t, exec (.tidePeriodWrite (.window p) n) s = .next t ∧ Frame [] s t) ∧
    (∃ t, exec (.tideModeWrite (.window p) m) s = .next t ∧ Frame [] s t) ∧
    (∃ t, exec (.tideCountLoadWrite (.window p) v) s = .next t ∧ Frame [] s t))

/-- Step 1 of a boundary (R27, R32, R36, R38 step 6), whatever else the boundary does. -/
def Obligations.BoundaryNumbersTheTick : Prop :=
  ∀ (inp : BoundaryIn) (s : State), s.live = true →
    ∃ t, exec (.tideTickBoundary inp) s = .next t ∧ t.tide.started = true ∧
      (s.tide.markerDue = false → s.tide.started = false → t.tide.count = 0#64) ∧
      (s.tide.markerDue = false → s.tide.started = true → t.tide.count = s.tide.count + 1#64) ∧
      (s.tide.markerDue = true → ∀ v, s.tide.load = some v → t.tide.count = v ∧ t.tide.load = none) ∧
      (s.tide.markerDue = true → s.tide.load = none → t.tide.count &&& 0xFFF#64 = 0#64) ∧
      t.tide.period = s.tide.periodNext.getD s.tide.period ∧ t.tide.periodNext = none ∧
      (s.tide.outEn = false → t.tide.out = .low) ∧
      (s.tide.outEn = true → (t.tide.out = .marker ↔ t.tide.count &&& 0xFFF#64 = 0#64) ∧ t.tide.out ≠ .low)

/-- The follower (R36 to R38): discarded pulses, the error and lock of a tracking follower, a marker's number, LOCKED and holdover. -/
def Obligations.TideInPulses : Prop :=
  (∀ (w : Nat) (raw : BitVec 16) (b e : Nat) (s : State), s.live = true → s.tide.mode ≠ .follow →
    ∃ t, exec (.tideInPulse w raw b e) s = .next t ∧ Frame [] s t) ∧
  (∀ (w : Nat) (raw : BitVec 16) (b e : Nat) (s : State), s.live = true → s.tide.mode = .follow →
    (w < 50 ∨ (150 < w ∧ w < 250) ∨ 400 < w) →
    ∃ t, exec (.tideInPulse w raw b e) s = .next t ∧ t.tide = { s.tide with pulseDiscard := true } ∧ Frame [.tide] s t) ∧
  (∀ (w : Nat) (raw : BitVec 16) (b e : Nat) (s : State), s.live = true → s.tide.mode = .follow → s.tide.phase = .track →
    50 ≤ w → w ≤ 150 → e ≤ 1900 * s.periodUs + 64 → 1900 * s.periodUs ≤ e + 64 →
    ∃ t, exec (.tideInPulse w raw b e) s = .next t ∧ Frame [.tide] s t ∧ t.tide.count = s.tide.count ∧ t.tide.phaseError = s.tide.edgeError raw ∧
      t.tide.phase = .track ∧ t.tide.mismatchRun = 0 ∧
      ((s.tide.edgeError raw).toInt.natAbs ≤ 8 → t.tide.goodRun = s.tide.goodRun + 1 ∧ t.tide.locked = s.tide.locked) ∧
      (8 < (s.tide.edgeError raw).toInt.natAbs → t.tide.goodRun = 0) ∧ (64 < (s.tide.edgeError raw).toInt.natAbs → t.tide.locked = false)) ∧
  (∀ (w : Nat) (raw : BitVec 16) (b e : Nat) (s : State), s.live = true → s.tide.mode = .follow → s.tide.phase = .track →
    250 ≤ w → w ≤ 400 → e ≤ 1900 * s.periodUs + 64 → 1900 * s.periodUs ≤ e + 64 → 0 ≤ (s.tide.edgeError raw).toInt →
    ∃ t, exec (.tideInPulse w raw b e) s = .next t ∧ Frame [.tide] s t ∧ t.tide.load = none ∧
      (∀ v, s.tide.load = some v → t.tide.count = v) ∧ (s.tide.load = none → t.tide.count = s.tide.count &&& ~~~0xFFF#64) ∧
      (t.tide.countSlip = true ↔ s.tide.countSlip = true ∨ s.tide.count &&& 0xFFF#64 ≠ 0#64)) ∧
  (∀ s : State, s.live = true → s.tide.mode = .follow → s.tide.phase = .track → 16 ≤ s.tide.goodRun →
    ∃ t, exec .tideLocked s = .next t ∧ t.tide = { s.tide with locked := true } ∧ Frame [.tide] s t) ∧
  (∀ s : State, s.live = true → s.tide.mode = .follow → s.tide.phase = .track → 4 ≤ s.tide.missRun →
    ∃ t, exec .tideHoldover s = .next t ∧ t.tide = { s.tide with holdover := true, locked := false, phase := .holdover, goodRun := 0 } ∧
      reported t 0x0E 0x01 0 unitTideIn ∧ Frame [.tide, .ras, .ctr, .serial] s t)

/-- A decision grants one asking slot: of the highest class, and in that class the first after its previous winner (R43); a class is the
one in force, or 0 after 16 losses in a row (R45). -/
def Obligations.ArbiterGrantsByClassThenRoundRobin : Prop :=
  ∀ (a : ArbId) (inp : ArbIn) (s : State), s.live = true → (∀ ch, a ≠ .mem ch) → keysRise (s.arbiter a).losses = true →
    (∃ i, s.asks a inp i) →
    ∃ t w, exec (.arbiterDecision a inp) s = .next t ∧ (t.arbiter a).granted = some w ∧ s.asks a inp w ∧
      (∀ i, s.asks a inp i → s.effClass a inp w ≤ s.effClass a inp i) ∧
      (∀ v, tget (s.arbiter a).lastWinner (s.effClass a inp w) = some v →
        (v < w → ∀ i, s.asks a inp i → s.effClass a inp i = s.effClass a inp w → v < i → w ≤ i) ∧
        (w ≤ v → ∀ i, s.asks a inp i → s.effClass a inp i = s.effClass a inp w → i ≤ v ∧ w ≤ i)) ∧
      (tget (s.arbiter a).lastWinner (s.effClass a inp w) = none →
        ∀ i, s.asks a inp i → s.effClass a inp i = s.effClass a inp w → w ≤ i) ∧
      tget (t.arbiter a).lastWinner (s.effClass a inp w) = some w ∧
      (∀ k, ringIx a = some k → ∃ d, d ∈ inp.wants ∧ d.slot = w ∧ t.ring k = ((s.turnRing a inp).ring k).enter (ringStops k) d) ∧
      (ringIx a = none → t.arb.rings = s.arb.rings) ∧
      t.arb.inForce = s.arb.inForce ∧ t.arb.written = s.arb.written ∧ Frame [.arb] s t

/-- R44 to R46: what a decision does to winner and losers, that a ring entry without room grants nothing and counts no loss, and what the end
of a back-off leaves. -/
def Obligations.ArbiterLossesBackOff : Prop :=
  (∀ (a : ArbId) (inp : ArbIn) (s : State), s.live = true → (∀ ch, a ≠ .mem ch) → keysRise (s.arbiter a).losses = true →
    (∃ i, s.asks a inp i) →
    ∃ t w, exec (.arbiterDecision a inp) s = .next t ∧ (t.arbiter a).granted = some w ∧ mget 0 (t.arbiter a).losses w = 0 ∧
      (∀ i, s.asks a inp i → i ≠ w → mget 0 (t.arbiter a).losses i = s.lossesAt a inp i + 1 ∧
        mget 0 (t.arbiter a).backoff i = min (2 ^ (s.lossesAt a inp i + 1)) 256)) ∧
  (∀ (a : ArbId) (inp : ArbIn) (s : State), s.live = true → (∀ ch, a ≠ .mem ch) → keysRise (s.arbiter a).losses = true →
    ∃ t, exec (.arbiterDecision a inp) s = .next t ∧ Frame [.arb] s t ∧
      ((∀ i, ¬ s.asks a inp i) → (t.arbiter a).granted = none) ∧
      (∀ i, i ∉ inp.withdrawn → ¬ s.asks a inp i → mget 0 (t.arbiter a).losses i = mget 0 (s.arbiter a).losses i ∧
        mget 0 (t.arbiter a).backoff i = mget 0 (s.arbiter a).backoff i) ∧
      (∀ i, i ∈ inp.withdrawn → i ∉ inp.asserted → mget 0 (t.arbiter a).losses i = 0 ∧ mget 0 (t.arbiter a).backoff i = 0)) ∧
  (∀ (a : ArbId) (i : Nat) (s : State), s.live = true →
    ∃ t, exec (.arbBackoffExpire a i) s = .next t ∧ mget 0 (t.arbiter a).backoff i = 0 ∧ (t.arbiter a).losses = (s.arbiter a).losses ∧
      (t.arbiter a).lastWinner = (s.arbiter a).lastWinner ∧ Frame [.arb] s t)

/-- Containment (R52 to R57, R96): each level's action, its report and its escalation. -/
def Obligations.ContainmentTakesUnitsOut : Prop :=
  (∀ (c : CellId) (f : FaultCause) (s : State), s.live = true → s.cellOnline c = true →
    ∃ t, exec (.cellFence c f) s = .next t ∧ t.cellOnline c = false ∧ (t.blk (blockOf c)).fenced.getLsbD (c.val % 16) = true ∧
      .cell c ∈ t.remap ∧ reported t 0x02 1 1 (unitCell c) ∧
      (3 ≤ s.fencedCount (blockOf c) → (t.blk (blockOf c)).blockOffline = true) ∧
      (s.fencedCount (blockOf c) < 3 → ∀ b, b ≠ blockOf c → t.blk b = s.blk b) ∧
      Frame [.arb, .health, .remap, .fab, .ras, .ctr, .que, .xlt, .dbg, .links, .serial] s t) ∧
  (∀ (b : BlockId) (f : FaultCause) (s : State), s.live = true → s.blockOnline b = true →
    ∃ t, exec (.blockOffline b f) s = .next t ∧ (t.blk b).blockOffline = true ∧ t.blockOnline b = false ∧ .block b ∈ t.remap ∧
      reported t 0x02 2 1 (unitBlock b) ∧ mget [] t.fab.units b.val = [] ∧ mget [] t.xlt.blockTlb b.val = [] ∧
      (∀ c, blockOf c = b → .cell c ∉ t.remap) ∧
      (2 ≤ s.offlineBlocks (regionOfBlock b) → t.regionOnline (regionOfBlock b) = false) ∧
      Frame [.arb, .health, .remap, .fab, .ras, .ctr, .que, .xlt, .dbg, .links, .serial] s t) ∧
  (∀ (r : RegionId) (f : FaultCause) (s : State), s.live = true → s.regionOnline r = true →
    ∃ t, exec (.regionOffline r f) s = .next t ∧ t.regionOnline r = false ∧ (∀ i, t.blockOnline (blockIn r i) = false) ∧
      .region r ∈ t.remap ∧ reported t 0x02 3 1 (unitRegion r) ∧ t.rbuf r = RBuf.reset ∧ t.ring (1 + r.val) = Ring.empty ∧
      (s.regionsOnline ≤ 2 → t.dbg.fatal = true ∧ portsDisabled t) ∧
      Frame [.arb, .health, .remap, .fab, .ras, .ctr, .que, .xlt, .dbg, .links, .serial] s t) ∧
  (∀ (c : CellId) (b : BlockId) (r : RegionId) (f : FaultCause) (s : State), s.live = true →
    (s.cellOnline c = false → ((s.blk (blockOf c)).fenced.getLsbD (c.val % 16) = true ∨ s.leftNow (blockOf c) = false) →
      ∃ t, exec (.cellFence c f) s = .next t ∧ Frame [] s t) ∧
    (s.blockOnline (blockOf c) = false → (s.blk (blockOf c)).fenced.getLsbD (c.val % 16) = false → s.leftNow (blockOf c) = true →
      ∃ t, exec (.cellFence c f) s = .next t ∧ reported t 0x02 1 1 (unitCell c) ∧ Frame [.ras, .ctr, .serial] s t) ∧
    (s.blockOnline b = false → (s.blk b).blockOffline = true ∨ .region (regionOfBlock b) ∉ s.remap →
      ∃ t, exec (.blockOffline b f) s = .next t ∧ Frame [] s t) ∧
    (s.blockOnline b = false → (s.blk b).blockOffline = false → .region (regionOfBlock b) ∈ s.remap →
      ∃ t, exec (.blockOffline b f) s = .next t ∧ reported t 0x02 2 1 (unitBlock b) ∧ Frame [.ras, .ctr, .serial] s t) ∧
    (s.regionOnline r = false → ∃ t, exec (.regionOffline r f) s = .next t ∧ Frame [] s t))

/-- The fatal entry and the end of its dump (R589, R590). -/
def Obligations.NodeFatalAndItsDump : Prop :=
  (∀ (c : ChipFault) (s : State), s.live = true →
    ∃ t, exec (.nodeFatal c) s = .next t ∧ t.dbg.fatal = true ∧ t.dbg.fatalUnit = chipUnit c ∧ t.dbg.dumpState = .writing ∧
      t.dbg.laterFaults = 0 ∧ portsDisabled t ∧ t.live = false ∧ reported t 0x02 0x04 3 (chipUnit c) ∧
      (∀ stop vc, c = .ring stop vc → reported t 0x05 0x06 3 unitRouter) ∧
      (∀ line ep, c = .directory line ep → reported t 0x09 0x06 3 (chipUnit c)) ∧
      Frame [.dbg, .links, .ras, .ctr, .serial] s t) ∧
  (∀ (c : ChipFault) (s : State), s.awake = true → s.dbg.fatal = true →
    ∃ t, exec (.nodeFatal c) s = .next t ∧ t.dbg = { s.dbg with laterFaults := min 65535 (s.dbg.laterFaults + 1) } ∧
      Frame [.dbg, .links] s t) ∧
  (∀ (o : DumpOutcome) (n : Nat) (s : State), s.dbg.fatal = true → s.dbg.dumpState = .writing → s.plt.tripped = false →
    ∃ t, exec (.dumpWriteDone o n) s = .next t ∧ t.dbg.dumpState = dumpEnd o ∧ t.dbg.fatal = true ∧
      reported t 0x0D 0x06 3 unitChip ∧ Frame [.dbg, .links, .ras, .ctr, .serial, .mem] s t ∧ (o = .failed → t.mem = s.mem) ∧
      (o ≠ .failed → t.dbg.dumpBytes = n ∧ getLe t.dbg.dumpHeader 0 4 = 0x504D5544 ∧ getLe t.dbg.dumpHeader 4 1 = 1 ∧
        getLe t.dbg.dumpHeader 5 1 = (dumpEnd o).code ∧ getLe t.dbg.dumpHeader 6 2 = s.dbg.laterFaults % 65536 ∧
        getLe t.dbg.dumpHeader 8 8 = s.tide.count.toNat))

/-- Pulse widths (R37): an accepted pulse never sets PULSE_DISCARD; an ordinary one never renumbers the tick; a discarded one changes nothing
but that bit. -/
def Obligations.PulseWidths : Prop :=
  ∀ (w : Nat) (raw : BitVec 16) (b e : Nat) (s : State), s.live = true → s.tide.mode = .follow →
    ∃ t, exec (.tideInPulse w raw b e) s = .next t ∧ Frame [.tide] s t ∧
      ((50 ≤ w ∧ w ≤ 150) ∨ (250 ≤ w ∧ w ≤ 400) → t.tide.pulseDiscard = s.tide.pulseDiscard) ∧
      (50 ≤ w ∧ w ≤ 150 → t.tide.count = s.tide.count ∧ t.tide.load = s.tide.load ∧ t.tide.countSlip = s.tide.countSlip) ∧
      (250 ≤ w ∧ w ≤ 400 → s.tide.phase = .track → 0 ≤ (s.tide.edgeError raw).toInt → s.tide.edgeKnown = false → t.tide.load = none) ∧
      (¬ (50 ≤ w ∧ w ≤ 150) ∧ ¬ (250 ≤ w ∧ w ≤ 400) → t.tide = { s.tide with pulseDiscard := true })
/-! ### Reels, runs, tiles, figures, copies, atomics (spec/03, spec/04) -/

/-- R130 to R134: what the four loader commands store, remove and answer, and that they change nothing else. -/
def Obligations.ReelsLoadAndUnload : Prop :=
  (∀ (p : PlPort) (image : List Byte) (d : Desc) (s : State), s.live = true → s.adminHead p 0x62#8 = some d →
    descClean d [(16, 2), (24, 8), (32, 4)] = true → descField d 16 2 < 1024 → descField d 24 8 % 64 = 0 →
    s.tenantGranted p (d.extractLsb' 128 10) = true → s.tenantGone (d.extractLsb' 128 10) = false →
    (∀ st, s.loadCheck (d.extractLsb' 128 10) (List.takeD (descField d 32 4) image 0#8) = some st →
      ∃ t, exec (.reelLoad p image) s = .next t ∧ adminAnswered t p d st 0#64 ∧ Frame [.que] s t) ∧
    (s.loadCheck (d.extractLsb' 128 10) (List.takeD (descField d 32 4) image 0#8) = none →
      ∃ t h, exec (.reelLoad p image) s = .next t ∧ h = freeKey s.fab.reels 65536 0 ∧
        t.reel h = some ⟨d.extractLsb' 128 10, List.takeD (descField d 32 4) image 0#8, false, []⟩ ∧
        (∀ j, j ≠ h → t.reel j = s.reel j) ∧ adminAnswered t p d stOk (BitVec.ofNat 64 h) ∧ Frame [.fab, .que] s t)) ∧
  (∀ (tn : Tenant) (a : W64) (n : W32) (s : State), s.live = true →
    (a.toNat % 64 ≠ 0 → ∃ t, exec (.mgmtReelLoad tn a n) s = .next t ∧ answered t 0x60#8 stAlign.toNat (natBytes 2 0) ∧ Frame [.sec] s t) ∧
    (∀ b bad s1, a.toNat % 64 = 0 → s.tenantGone tn = false → n.toNat ≤ 262144 →
      s.quiet.poolBusy { accRead s.rtr.nodeId [] with loader := some tn } a n.toNat = false →
      s.quiet.readPool { accRead s.rtr.nodeId [] with loader := some tn } tn a n.toNat noIo = (.ok (b, bad), s1) → bad.any id = false →
      s1.loadCheck tn b = none → s1.dbg.fatal = false →
      ∃ t h, exec (.mgmtReelLoad tn a n) s = .next t ∧ h = freeKey s1.fab.reels 65536 0 ∧ t.reel h = some ⟨tn, b, false, []⟩ ∧
        (∀ j, j ≠ h → t.reel j = s1.reel j) ∧ answered t 0x60#8 0 (natBytes 2 h) ∧
        SameBut [.fab, .sec] s1 t) ∧
    (∀ st s1, a.toNat % 64 = 0 → s.tenantGone tn = false → n.toNat ≤ 262144 →
      s.quiet.poolBusy { accRead s.rtr.nodeId [] with loader := some tn } a n.toNat = false →
      s.quiet.readPool { accRead s.rtr.nodeId [] with loader := some tn } tn a n.toNat noIo = (.error st, s1) → s1.dbg.fatal = false →
      ∃ t, exec (.mgmtReelLoad tn a n) s = .next t ∧ answered t 0x60#8 st.toNat (natBytes 2 0) ∧ SameBut [.sec] s1 t)) ∧
  (∀ (p : PlPort) (d : Desc) (r : Reel) (s : State), s.live = true → s.adminHead p 0x63#8 = some d → descClean d [(16, 2)] = true →
    s.reel (descField d 16 2) = some r → s.tenantGranted p r.tenant = true → r.waiters = [] →
    (s.fab.runs.any (fun e => e.2.reel == descField d 16 2) = false → keysRise s.fab.reels = true →
      ∃ t, exec (.reelUnload p) s = .next t ∧ t.reel (descField d 16 2) = none ∧ (∀ j, j ≠ descField d 16 2 → t.reel j = s.reel j) ∧
        adminAnswered t p d stOk 0#64 ∧ Frame [.fab, .que] s t) ∧
    (s.fab.runs.any (fun e => e.2.reel == descField d 16 2) = true →
      ∃ t, exec (.reelUnload p) s = .next t ∧
        t.reel (descField d 16 2) = some { r with unloading := true, waiters := [.admin p (descCmd d) (descIntr d)] } ∧
        (t.admin p).busy = true ∧ Frame [.fab, .que] s t)) ∧
  (∀ (p : PlPort) (d : Desc) (s : State), s.live = true → s.adminHead p 0x63#8 = some d → descClean d [(16, 2)] = true →
    s.reel (descField d 16 2) = none → ∃ t, exec (.reelUnload p) s = .next t ∧ adminAnswered t p d stReelUnknown 0#64 ∧ Frame [.que] s t) ∧
  (∀ (h : BitVec 16) (s : State), s.live = true →
    (s.reel h.toNat = none →
      ∃ t, exec (.mgmtReelUnload h) s = .next t ∧ answered t 0x61#8 stReelUnknown.toNat [] ∧ Frame [.sec] s t) ∧
    (∀ r, s.reel h.toNat = some r → r.waiters = [] → s.fab.runs.any (fun e => e.2.reel == h.toNat) = false →
      ∃ t, exec (.mgmtReelUnload h) s = .next t ∧ t.reel h.toNat = none ∧ answered t 0x61#8 0 [] ∧ Frame [.fab, .sec] s t) ∧
    (∀ r, s.reel h.toNat = some r → s.fab.runs.any (fun e => e.2.reel == h.toNat) = true →
      ∃ t, exec (.mgmtReelUnload h) s = .next t ∧ t.reel h.toNat = some { r with unloading := true, waiters := r.waiters ++ [.mgmt] } ∧
        Frame [.fab] s t))

/-- R135 to R138: the launch of a run, its refusal, and the binding of a waiting run or REDUCE_SCATTER. -/
def Obligations.RunsAreLaunchedAndAdmitted : Prop :=
  (∀ (q : Qp) (h : Nat) (args : List Byte) (x : QPair) (d : Held) (s : State), s.live = true → s.nextIs q h 0x30#8 = some (x, d) →
    (∀ st, s.runCheck x d.desc = some st → tget x.held h = some d → x.drops = false →
      ∃ t, exec (.runReel q h args) s = .next t ∧ descEnded t q h d.desc st ∧ Frame [.que] s t) ∧
    (∀ r bs s1, s.runCheck x d.desc = none → s.reel (runHandle d.desc) = some r →
      s.quiet.readArgs q h x d.desc (16 * imgArgCount r.image) args = (some (.ok bs), s1) → s1.dbg.fatal = false →
      argsOk r.image (runSteps d.desc) (argEntries (imgArgCount r.image) bs) = true →
      (∀ n : Run, n.reel = runHandle d.desc → n.mask = runMask d.desc → s1.runFits n = true) →
      ∃ t n, exec (.runReel q h args) s = .next t ∧ t.run s1.que.nextOp = some n ∧ n.reel = runHandle d.desc ∧
        n.args = argEntries (imgArgCount r.image) bs ∧ n.steps = runSteps d.desc ∧ n.seed = runSeed d.desc ∧ n.mask = runMask d.desc ∧
        n.bound = false ∧ n.committed = 0 ∧
        (∃ o, t.op s1.que.nextOp = some o ∧ o.qp = q ∧ o.held = h ∧ o.tenant = x.cfg.tenant ∧ o.ending = none) ∧
        SameBut [.fab, .que] s1 t)) ∧
  (∀ (n : Nat) (cells : List CellId) (r : Run) (o : OpRec) (s : State), s.live = true → s.op n = some o → o.ending = none →
    s.tenantGone o.tenant = false → s.admitting = true → s.heldBack n o.qp = false → s.waitsAhead n = false → n < s.fab.admitNext → s.run n = some r → r.bound = false →
    s.bindingOk n r cells = true →
    ∃ t u r', exec (.runAdmit n cells) s = .next t ∧ t = s.quiet.settle (u.pumpRun n) ∧ Frame [.fab, .que, .ras] s u ∧
      u.run n = some r' ∧ r'.bound = true ∧ r'.reel = r.reel ∧ r'.steps = r.steps ∧
      (∀ i c, cells[i]? = some c → (∃ l, tget r'.lcs i = some l ∧ l.cell = c ∧ l.step = 0 ∧ l.running = false) ∧
        (u.cell c).occupant = some (n, i) ∧ (u.cell c).tile = none ∧ (u.cell c).status = 0#16 ∧ (u.cell c).lastTenant = some o.tenant ∧
        ((s.cell c).lastTenant ≠ some o.tenant → (u.cell c).regs = [] ∧ (u.cell c).scratch = loadScratch [] (s.runImage r)))) ∧
  (∀ (n : Nat) (cells : List CellId) (r : RsOp) (o : OpRec) (s : State), s.live = true → s.op n = some o → o.ending = none →
    s.tenantGone o.tenant = false → s.admitting = true → s.heldBack n o.qp = false → s.waitsAhead n = false → n < s.fab.admitNext → s.run n = none → s.rs n = some r → r.bound = false →
    s.rsBinding n o.desc cells = true →
    ∃ t, exec (.runAdmit n cells) s = .next t ∧ Frame [.fab, .que, .ras] s t ∧
      t.rs n = some { r with cells := cells, regions := (cells.map regionOfCell).eraseDups, bound := true })

/-- R113, R116, R129, R196 to R200: how a tile starts, with and without a check, how it waits for a check cell, and how it ends. -/
def Obligations.TilesStartAndFinish : Prop :=
  (∀ (n lc : Nat) (drawn : Bool) (cc : Option CellId) (r : Run) (o : OpRec) (l : LCell) (s : State), s.live = true →
    s.run n = some r → s.op n = some o → tget r.lcs lc = some l → r.bound = true → o.ending = none → s.tenantGone o.tenant = false →
    l.running = false → l.armed = true → l.step < r.steps → s.cellOnline l.cell = true → blockOf l.cell ∉ s.dbg.halted → s.cellIssues l.cell = true →
    (s.cell l.cell).tile = none → s.copiesReady r lc l.step = true → s.unreadRanges r lc l.step = [] →
    (s.selected l drawn = false →
      ∃ t u r' l', exec (.tileStart n lc drawn cc) s = .next t ∧ t = s.quiet.settle (u.pumpRun n) ∧ Frame [.fab, .ras, .ctr, .serial] s u ∧
        (u.cell l.cell).status = 0#16 ∧
        (u.cell l.cell).tile = some { run := n, lc := lc, step := l.step, fig := 0, overran := false, check := none, sig := (0#64, 0#64),
                                      reqs := [], outstanding := 0, sent := false, stopped := false } ∧
        u.run n = some r' ∧ tget r'.lcs lc = some l' ∧ l'.running = true ∧ l'.armed = false ∧ l'.step = l.step) ∧
    (∀ k, s.selected l drawn = true → cc = some k → s.checkCellFree k = true → blockOf k ≠ blockOf l.cell →
      ∃ t u c, exec (.tileStart n lc drawn cc) s = .next t ∧ t = s.quiet.settle (u.pumpRun n) ∧ Frame [.fab, .ras, .ctr, .serial] s u ∧
        ((u.cell l.cell).tile.bind (fun x => x.check)) = some s.ras.nextCheck ∧ tget u.ras.checks s.ras.nextCheck = some c ∧
        c.origin = l.cell ∧ c.checkCell = k ∧ c.op = n ∧ c.copied = false) ∧
    (s.selected l drawn = true → (∀ k, cc = some k → s.checkCellFree k = false ∨ blockOf k = blockOf l.cell) → l.drawn ≠ some true →
      ∃ t, exec (.tileStart n lc drawn cc) s = .next t ∧ Frame [.fab, .ras, .ctr, .serial] s t ∧
        t.run n = some { r with lcs := tput r.lcs lc { l with drawn := some true, stalled := false }, stalls := r.stalls + 1 })) ∧
  (∀ (c : CellId) (tl : Tile) (r : Run) (o : OpRec) (l : LCell) (s : State), s.live = true → (s.cell c).tile = some tl →
    s.run tl.run = some r → s.op tl.run = some o → tget r.lcs tl.lc = some l → tl.stopped = false →
    imgFigCount (s.runImage r) ≤ tl.fig → tl.reqs = [] → tl.outstanding = 0 → s.cellOnline c = true →
    ∃ t u r' l', exec (.tileFinish c) s = .next t ∧ t = s.quiet.settle (((u.pumpRun tl.run).settleRun tl.run).pumpRun tl.run) ∧
      Frame [.fab, .ras, .que, .ctr, .serial] s u ∧ (u.cell c).tile = none ∧ (u.cell c).regs = [] ∧ (u.cell c).regFree = some s.serial ∧
      (u.cell c).scratch = (s.cell c).scratch ∧ u.op tl.run = some { o with tileStatus := o.tileStatus ||| (s.cell c).status } ∧
      u.run tl.run = some r' ∧ r'.overruns = r.overruns + (if tl.overran then 1 else 0) ∧
      tget r'.lcs tl.lc = some l' ∧ l'.running = false ∧ l'.step = tl.step + 1 ∧ l'.cell = l.cell)

/-- Each figure kind (R109 to R116): its effect on the cell, computed by the kind's own function, and the frame around it. -/
def Obligations.FiguresRun : Prop :=
  ∀ (c : CellId) (ce : Nat) (tl : Tile) (cx : FigCtx) (f : Fig) (r : Run) (s : State), s.live = true → keysRise s.fab.cells = true →
    (s.figReady c 1 = some (tl, cx, f, r) → ∃ t, exec (.figureDot c ce) s = .next t ∧ t.cell c = figDone 1 (figDot cx f ((s.cell c).loadScales cx f)) ∧
      (∀ d, d ≠ c → t.cell d = s.cell d) ∧ Frame [.fab, .ras, .ctr, .serial] s t) ∧
    (s.figReady c 2 = some (tl, cx, f, r) → ∃ t, exec (.figureEwise c ce) s = .next t ∧ t.cell c = figDone 1 (figEwise cx f ((s.cell c).loadScales cx f)) ∧
      (∀ d, d ≠ c → t.cell d = s.cell d) ∧ Frame [.fab, .ras, .ctr, .serial] s t) ∧
    (s.figReady c 3 = some (tl, cx, f, r) → ∃ t, exec (.figureLreduce ⟨c, ce⟩) s = .next t ∧ t.cell c = figDone 1 (figLreduce cx f ((s.cell c).loadScales cx f)) ∧
      (∀ d, d ≠ c → t.cell d = s.cell d) ∧ Frame [.fab, .ras, .ctr, .serial] s t) ∧
    (s.figReady c 4 = some (tl, cx, f, r) → ∃ t, exec (.figureConvert c ce) s = .next t ∧ t.cell c = figDone 1 (figConvert cx f ((s.cell c).loadScales cx f)) ∧
      (∀ d, d ≠ c → t.cell d = s.cell d) ∧ Frame [.fab, .ras, .ctr, .serial] s t) ∧
    (s.figReady c 5 = some (tl, cx, f, r) → ∃ t, exec (.figureGather c ce) s = .next t ∧ t.cell c = figDone 1 (figGather cx f ((s.cell c).loadScales cx f)) ∧
      (∀ d, d ≠ c → t.cell d = s.cell d) ∧ Frame [.fab, .ras, .ctr, .serial] s t) ∧
    (s.figReady c 6 = some (tl, cx, f, r) → ∃ t, exec (.figureAtomic c ce) s = .next t ∧
      t.cell c = figDone 1 (figAtomic cx f (r.args.getD f.param (0, 0)).1 (r.args.getD f.param (0, 0)).2 (s.cell c)) ∧
      (∀ d, d ≠ c → t.cell d = s.cell d) ∧ Frame [.fab, .ras, .ctr, .serial] s t) ∧
    (s.figReady c 7 = some (tl, cx, f, r) → ∃ t, exec (.figureSkip ⟨c, ce⟩) s = .next t ∧
      t.cell c = { s.cell c with tile := some { tl with fig := tl.fig + (if figSkips cx f (s.cell c) then 1 + f.param else 1) } } ∧
      (∀ d, d ≠ c → t.cell d = s.cell d) ∧ Frame [.fab, .ras, .ctr, .serial] s t)

/-- STREAM_COPY_DONE and DMA_WRITE_COMMIT (R84, R93, R118 to R123): where the bytes go and when the copy is over. -/
def Obligations.PlannedCopiesMoveBytes : Prop :=
  (∀ (n k ce : Nat) (io : OutsideIo) (r : Run) (o : OpRec) (c : CopyRec) (x : QPair) (q : CellId) (s s1 : State), s.live = true →
    s.run n = some r → s.op n = some o → tget r.copies k = some c → s.qp o.qp = some x → r.cellOf c.lc = some q →
    c.issued = true → c.out = none → c.todo = [] → s.cellOnline q = true → s.cellIssues q = true → s.copyOpen n k = false → s.copyBlocked r k c q = false →
    s.copyBusy o (imgStream (s.runImage r) c.stream) (s.copyRows r c) = false →
    s1 = (if (pathFromScratch (imgStream (s.runImage r) c.stream).path || (imgStream (s.runImage r) c.stream).indexed) = true then s.quiet.bump (ctrReel 0 (blockOf q).val) ce
      else if (imgStream (s.runImage r) c.stream).path = 4 ∨ (imgStream (s.runImage r) c.stream).path = 7 then
        s.quiet.bump (ctrReel 1 (regionOfCell q).val) ce else s.quiet) →
    (∀ p, (imgStream (s.runImage r) c.stream).path = p → (p = 4 ∨ p = 5 ∨ p = 8) →
      ∃ t u r', exec (.streamCopyDone n k io ce) s = .next t ∧ t = s.quiet.settle ((u.settleRun n).pumpRun n) ∧
        (s1.copyDest n r c q (s1.copySource n r c q)).run n = some r' ∧
        u = (s1.copyDest n r c q (s1.copySource n r c q)).setRun n { r' with copies := tdel r'.copies k } ∧
        Frame [.fab, .ras, .ctr, .serial] s u) ∧
    (∀ p bs s2, (imgStream (s.runImage r) c.stream).path = p → (p = 0 ∨ p = 2 ∨ p = 6) →
      s1.copyInData o (imgStream (s.runImage r) c.stream) c (s1.copyRows r c) io = (.ok bs, s2) → s2.run n = some r →
      ∃ t u r', exec (.streamCopyDone n k io ce) s = .next t ∧ t = s.quiet.settle ((u.settleRun n).pumpRun n) ∧
        (s2.copyDest n r c q bs).run n = some r' ∧ u = (s2.copyDest n r c q bs).setRun n { r' with copies := tdel r'.copies k } ∧
        SameBut [.fab] s2 u) ∧
    (pathToMemory (imgStream (s.runImage r) c.stream).path = true →
      ∃ t, exec (.streamCopyDone n k io ce) s = .next t ∧ t = s.quiet.settle (s1.copyOutRead n k r c q))) ∧
  (∀ (n k : Nat) (io : OutsideIo) (r : Run) (o : OpRec) (c : CopyRec) (q : CellId) (w : Nat × List Byte)
      (ws : List (Nat × List Byte)) (s s1 : State), s.live = true →
    s.run n = some r → s.op n = some o → tget r.copies k = some c → r.cellOf c.lc = some q → c.out = some (w :: ws) →
    s.cellOnline q = true → s.cellIssues q = true → (∀ g, g ∈ w :: ws → s.opWriteBusy o (BitVec.ofNat 64 g.1) g.2.length = false) →
    (s.quiet.commitRuns o io (w :: ws) = (none, s1) →
      ∃ t, exec (.dmaWriteCommit n k io) s = .next t ∧
        t = s.quiet.settle ((s1.setRun n { r with copies := tput r.copies k { c with out := some [] } }).finishCopy n k)) ∧
    (∀ st, s.quiet.commitRuns o io (w :: ws) = (some st, s1) →
      ∃ t, exec (.dmaWriteCommit n k io) s = .next t ∧ t = s.quiet.settle (s1.failCopy n k st)))

/-- R94, R96, R116: a request's way into the unit, and the commit of the oldest run. -/
def Obligations.AtomicUnitsServeRequests : Prop :=
  (∀ (b : BlockId) (c : CellId) (r : AtomReq) (rest : List AtomReq) (tl : Tile) (s : State), s.live = true →
    (s.cell c).tile = some tl → tl.reqs = r :: rest → blockOf c = b → s.cellOnline c = true → s.blockIssues b = true → tl.stopped = false →
    atomMalformed r = false →
    ∃ t, exec (.atomicUnitRequest b (.cell c) r 0) s = .next t ∧ t.atomQueue b = s.atomQueue b ++ [⟨.cell c, r, 0⟩] ∧
      t.cell c = { s.cell c with tile := some { tl with reqs := rest, outstanding := tl.outstanding + 1, sent := true } } ∧
      Frame [.fab] s t) ∧
  (∀ (b : BlockId) (line : BitVec 34) (r : AtomReq) (q : CReq) (x : Txn) (s : State), s.live = true → s.txn line.toNat = some x →
    (x.run.drop (s.atUnits line)).head? = some q → x.phase = .nearRun → s.nearBlock line.toNat = some b.val → s.blockOnline b = true → s.blockIssues b = true →
    r.line = s.lineAddr line.toNat → atomMalformed r = false →
    ∃ t, exec (.atomicUnitRequest b (.home line) r 0) s = .next t ∧ t.atomQueue b = s.atomQueue b ++ [⟨.home line, r, 0⟩] ∧ Frame [.fab] s t) ∧
  (∀ (b : BlockId) (c : CellId) (e : AtomEntry) (more : List AtomEntry) (tl : Tile) (o : OpRec) (s s1 s2 : State) (olds : List Line) (ev : Status16),
    s.live = true → s.atomQueue b = e :: more → e.sender = .cell c → s.blockOnline b = true → s.blockIssues b = true → (s.cell c).tile = some tl →
    s.op tl.run = some o → s.quiet.cellRunReady b (accAtomic o.ep (s.opAuth o)) e.req.line = (true, s1) →
    s1.runOnLine (accAtomic o.ep (s.opAuth o)) e.req.line ((e :: more.takeWhile (sameRun e)).map (fun x => x.req)) = (.served olds ev, s2) →
    s2.dbg.fatal = false →
    ∃ t, exec (.atomicRunCommit b) s = .next t ∧ t.atomQueue b = more.dropWhile (sameRun e) ∧
      (more.takeWhile (sameRun e) = [] →
        t.cell c = { s2.cell c with tile := (s2.cell c).tile.map (fun x => { x with outstanding := x.outstanding - 1 }) }) ∧
      (∀ y, s2.op tl.run = some y → t.op tl.run = some { y with tileStatus := y.tileStatus ||| ev }) ∧
      SameBut [.fab, .que, .ctr, .dbg, .ras, .serial] s2 t) ∧
  (∀ (b : BlockId) (line : BitVec 34) (e : AtomEntry) (more : List AtomEntry) (x : Txn) (r : CReq) (s s1 : State) (olds : List Line) (ev : Status16),
    s.live = true → s.atomQueue b = e :: more → e.sender = .home line → s.blockOnline b = true → s.blockIssues b = true → s.txn line.toNat = some x →
    x.run.head? = some r → s.nearHeld { accAtomic r.ep [] with passed := true, vslot := r.vslot } r.pkt.addr = false →
    s.quiet.runOnLine { accAtomic r.ep [] with passed := true, vslot := r.vslot } r.pkt.addr ((e :: more.takeWhile (sameRun e)).map (fun y => y.req))
      = (.served olds ev, s1) →
    ∃ t, exec (.atomicRunCommit b) s = .next t ∧
      t = s.quiet.settle ((((x.run.take (1 + (more.takeWhile (sameRun e)).length)).zip olds).foldl
        (fun a q => a.answerNear q.1 stOk (some (q.2, false))) (s1.setUnitQueue b (more.dropWhile (sameRun e)))).runLeaves line.toNat
          (1 + (more.takeWhile (sameRun e)).length)))

/-- R94, R95: what one request does to a line, and that a run is its requests in order. -/
def Obligations.AtomicsReturnOldValues : Prop :=
  (∀ (d : Line) (a : W64) (op : AtomOp) (ty : AtomTy) (e : AtomElem), e.off.toNat % atomSize ty = 0 →
    (applyAtom d ⟨a, op, ty, [e]⟩).2 = [lineElem d e.off.toNat (atomSize ty)] ∧
    (∀ i, i < 8 * e.off.toNat ∨ 8 * (e.off.toNat + atomSize ty) ≤ i → (applyAtom d ⟨a, op, ty, [e]⟩).1.getLsbD i = d.getLsbD i) ∧
    (op = .add → ty = .int32 ∨ ty = .int64 → lineElem (applyAtom d ⟨a, op, ty, [e]⟩).1 e.off.toNat (atomSize ty) =
      (lineElem d e.off.toNat (atomSize ty) + e.operand.toNat) % 2 ^ (8 * atomSize ty)) ∧
    (op = .umin → lineElem (applyAtom d ⟨a, op, ty, [e]⟩).1 e.off.toNat (atomSize ty) =
      min (lineElem d e.off.toNat (atomSize ty)) (e.operand.toNat % 2 ^ (8 * atomSize ty))) ∧
    (op = .umax → lineElem (applyAtom d ⟨a, op, ty, [e]⟩).1 e.off.toNat (atomSize ty) =
      max (lineElem d e.off.toNat (atomSize ty)) (e.operand.toNat % 2 ^ (8 * atomSize ty))) ∧
    (op = .smin → signedOf (8 * atomSize ty) (lineElem (applyAtom d ⟨a, op, ty, [e]⟩).1 e.off.toNat (atomSize ty)) =
      min (signedOf (8 * atomSize ty) (lineElem d e.off.toNat (atomSize ty)))
        (signedOf (8 * atomSize ty) (e.operand.toNat % 2 ^ (8 * atomSize ty)))) ∧
    (op = .smax → signedOf (8 * atomSize ty) (lineElem (applyAtom d ⟨a, op, ty, [e]⟩).1 e.off.toNat (atomSize ty)) =
      max (signedOf (8 * atomSize ty) (lineElem d e.off.toNat (atomSize ty)))
        (signedOf (8 * atomSize ty) (e.operand.toNat % 2 ^ (8 * atomSize ty)))) ∧
    (op = .swap → lineElem (applyAtom d ⟨a, op, ty, [e]⟩).1 e.off.toNat (atomSize ty) = e.operand.toNat % 2 ^ (8 * atomSize ty)) ∧
    (op = .cas → lineElem (applyAtom d ⟨a, op, ty, [e]⟩).1 e.off.toNat (atomSize ty) =
      if lineElem d e.off.toNat (atomSize ty) = e.compare.toNat % 2 ^ (8 * atomSize ty)
        then e.operand.toNat % 2 ^ (8 * atomSize ty) else lineElem d e.off.toNat (atomSize ty))) ∧
  (∀ (d : Line) (rs : List AtomReq) (r : AtomReq),
    (applyRun d (rs ++ [r])).1 = (applyAtom (applyRun d rs).1 r).1 ∧
    (applyRun d (rs ++ [r])).2 = (applyRun d rs).2 ++ [(applyAtom (applyRun d rs).1 r).2])
/-! ### Built-in operations (spec/05) -/

/-- The operations whose effects come all at once (R142 to R152), each with its own specification and effect. -/
def Obligations.BuiltInOperationsRun : Prop :=
  ∀ (q : Qp) (h : Nat) (b : BlockId) (io : OutsideIo),
    poolMeaning (.fill q h b io) fillSpec q h b io fillEffect ∧
    poolMeaning (.copy q h b io) copySpec q h b io copyEffect ∧
    poolMeaning (.compare q h b io) compareSpec q h b io compareEffect ∧
    poolMeaning (.reduce q h b io) reduceSpec q h b io reduceEffect ∧
    poolMeaning (.optStep q h b io) optSpec q h b io optEffect ∧
    poolMeaning (.attend q h b io) attendSpec q h b io attendEffect ∧
    poolMeaning (.gatherBag q h b io) bagSpec q h b io bagEffect ∧
    (∀ (s : State) (x : QPair) (d : Held) (st : Status), s.live = true → s.nextHeld q h 0x12#8 x d → agToPool d.desc = true →
      allGatherSpec.checks s x d.desc = some st →
      ∃ t, exec (.allGather q h b io) s = .next t ∧ descEnded t q h d.desc st ∧ Frame [.que] s t) ∧
    (∀ (s s1 s2 s3 : State) (n : Nat) (k : BlockId) (x : QPair) (d : Held) (o o1 : OpRec) (r : PoolRes), s.live = true →
      s.qp q = some x → tget x.held h = some d → agToPool d.desc = true → s.poolOp q h 0x12#8 = some n → s.op n = some o → o.ending = none →
      o.block = some k → s.blockOnline k = true → s.blockIssues k = true → s.quiet.translateOp n k [] = (true, s1) → s1.op n = some o1 →
      (s1.drawChecks n (s1.poolTiles k)).isSome = true → allGatherEffect s1 o1 io = (.ok r, s2) →
      (∀ w, w ∈ r.writes → s2.storeBusy o1 w = false) → s2.storeAll n o1 io r.writes = (none, s3) →
      ∃ t u, exec (.allGather q h b io) s = .next t ∧ t = s.quiet.settle (u.finishOp n stOk 0#64) ∧
        SameBut [.que, .ras, .ctr, .serial] s3 u)

/-- The operations that send to a multicast group (R176 to R180). -/
def Obligations.MulticastOperationsSend : Prop :=
  ∀ (q : Qp) (h : Nat) (b : BlockId) (io : OutsideIo),
    sendMeaning (.bcast q h b io) bcastSpec q h b io (fun d => descField d 40 2) bcastEffect (fun _ => true) ∧
    sendMeaning (.allGather q h b io) allGatherSpec q h b io (fun d => descField d 42 2) (fun u o i => u.shards o i) (fun d => !agToPool d)

/-- R150, R156 to R158: the bytes FILL and COPY write, and COMPARE's operation value. -/
def Obligations.EffectsOfMovingOperations : Prop :=
  (∀ (s : State) (o : OpRec) (io : OutsideIo), ∃ bs, fillEffect s o io = (.ok ⟨[(moveA o.desc, bs)], fNone, 0#64, stOk⟩, s) ∧
    bs.length = moveLen o.desc ∧ ∀ x, x < moveLen o.desc → bs[x]? = some (BitVec.ofNat 8 (descField o.desc 32 8 / 256 ^ (x % 8)))) ∧
  (∀ (s s1 : State) (o : OpRec) (io : OutsideIo) (bs : List Byte), s.fetch o (moveB o.desc) (moveLen o.desc) io = (.ok bs, s1) →
    copyEffect s o io = (.ok ⟨[(moveA o.desc, bs)], fNone, 0#64, stOk⟩, s1)) ∧
  (∀ (s s1 : State) (o : OpRec) (io : OutsideIo) (a b : List Byte),
    s.fetchAll o io [(moveA o.desc, moveLen o.desc), (moveB o.desc, moveLen o.desc)] = (.ok [a, b], s1) →
    compareEffect s o io = (.ok ⟨[], fNone, compareValue a b, stOk⟩, s1)) ∧
  (∀ a : List Byte, compareValue a a = 0xFFFFFFFFFF#64) ∧
  (∀ (a b : List Byte) (i : Nat), a.length = b.length → a.length ≤ 2 ^ 40 → a[i]? ≠ b[i]? → (∀ j, j < i → a[j]? = b[j]?) →
    (compareValue a b).toNat % 2 ^ 40 = i)

/-- R165 to R175. -/
def Obligations.ReduceScatterRuns : Prop :=
  (∀ (q : Qp) (h : Nat) (x : QPair) (d : Held) (s : State), s.live = true → s.nextHeld q h 0x11#8 x d →
    (∀ st, s.rsCheck d.desc = some st → ∃ t, exec (.reduceScatter q h) s = .next t ∧ descEnded t q h d.desc st ∧ Frame [.que] s t) ∧
    (s.rsCheck d.desc = none → s.maskOnline (rsMask d.desc) = true →
      ∃ t r o, exec (.reduceScatter q h) s = .next t ∧ t.rs s.que.nextOp = some r ∧ r.bound = false ∧ r.armed = false ∧ r.reduced = 0 ∧
        r.arrived = 0 ∧ t.op s.que.nextOp = some o ∧ o.qp = q ∧ o.held = h ∧ o.desc = d.desc ∧ Frame [.fab, .que] s t)) ∧
  (∀ (n : Nat) (r : RsOp) (o : OpRec) (s s1 : State), s.live = true → s.rs n = some r → s.op n = some o → r.bound = true →
    r.armed = false → o.ending = none → s.opWriteBusy o (BitVec.ofNat 64 (descField o.desc 24 8)) 64 = false →
    s.quiet.writeProgress o 1 r = (none, s1) → s1.dbg.fatal = false →
    ∃ t, exec (.rsArmed n) s = .next t ∧ t.rs n = some { r with armed := true, ticks := 0 } ∧ SameBut [.fab] s1 t) ∧
  (∀ (n bytes ce : Nat) (addr : W64) (r : RsOp) (o : OpRec) (s : State), s.live = true → s.rs n = some r → s.op n = some o →
    r.armed = true → o.ending = none → (addr, bytes) ∈ s.rtr.landed → (rsArea o.desc).1 ≤ addr.toNat →
    addr.toNat < (rsArea o.desc).1 + (rsArea o.desc).2 →
    (addr.toNat - (rsArea o.desc).1 < 4096 ∨ (addr.toNat - (rsArea o.desc).1 - 4096) % rsSlotBytes o.desc ≠ 0 ∨ bytes ≠ rsSlotBytes o.desc →
      ∃ t, exec (.rsContribution n addr ⟨bytes, ce⟩) s = .next t ∧ t.rtr = { s.rtr with landed := s.rtr.landed.erase (addr, bytes) } ∧
        Frame [.rtr] s t) ∧
    (∀ ix k, 4096 ≤ addr.toNat - (rsArea o.desc).1 → addr.toNat - (rsArea o.desc).1 - 4096 = ix * rsSlotBytes o.desc →
      0 < rsSlotBytes o.desc → bytes = rsSlotBytes o.desc → k = rsChunkAt o.desc r (ix / rsPeers o.desc) →
      (rsChunks o.desc ≤ k ∨ ix % rsPeers o.desc ∈ mget [] r.order k →
        ∃ t, exec (.rsContribution n addr ⟨bytes, ce⟩) s = .next t ∧ t = s.quiet.settle
          (({ s.quiet with rtr := { s.rtr with landed := s.rtr.landed.erase (addr, bytes) } } : State).failRs n stStageOverrun)) ∧
      (∀ s1 bs bad, k < rsChunks o.desc → ix % rsPeers o.desc ∉ mget [] r.order k →
        ({ s.quiet with rtr := { s.rtr with landed := s.rtr.landed.erase (addr, bytes) } } : State).opReadBusy o addr bytes = false →
        s.regionIssues (rsRegionAt r k) = true →
        ({ s.quiet with rtr := { s.rtr with landed := s.rtr.landed.erase (addr, bytes) } } : State).opRead o addr bytes noIo
          = (.ok (bs, bad), s1) → bad.any id = false → s1.dbg.fatal = false →
        ∃ t r', exec (.rsContribution n addr ⟨bytes, ce⟩) s = .next t ∧ t.rs n = some r' ∧ r'.arrived = r.arrived + 1 ∧ r'.dirty = true ∧
          r'.ticks = 0 ∧ r'.reduced = r.reduced ∧ mget [] r'.order k = mget [] r.order k ++ [ix % rsPeers o.desc] ∧ k ∈ r'.acc ∧
          (keysRise s1.fab.rbufs = true → ∀ g, g ≠ rsRegionAt r k → t.rbuf g = s1.rbuf g) ∧ SameBut [.fab, .que, .ctr, .ras, .serial] s1 t))) ∧
  (∀ (n k ce : Nat) (r : RsOp) (o : OpRec) (s s1 : State), s.live = true → s.rs n = some r → s.op n = some o →
    r.armed = true → o.ending = none → (mget [] r.order k).length = rsPeers o.desc → k ∈ r.acc → s.cellIssues (r.cells.headD 0) = true →
    (s.drawChecks n (rsTiles r k)).isSome = true →
    (let c := rsCfg o.desc
     let size := elemSize c.fmtOut
     let acc := s.rsAcc o.desc r k
     let outs := ((List.range acc.length).zip acc).map (fun p => c.out (k * rsChunk o.desc + p.1) p.2)
     let w : Place × List Byte := (⟨false, descField o.desc 16 8 + k * rsChunk o.desc * size⟩, outs.flatMap (fun e => natBytes size e.1))
     s.storeBusy o w = false ∧ s.quiet.store n o noIo w = (none, s1)) →
    s1.opOpen n = false → s1.dbg.fatal = false → (rsAdvance r k).reduced ≠ rsChunks o.desc →
    ∃ t, exec (.rsChunkCommit n ⟨k, ce⟩) s = .next t ∧ t.rs n = some (rsAdvance r k) ∧ r.reduced ≤ (rsAdvance r k).reduced ∧
      SameBut [.fab, .que, .ras, .ctr, .serial] s1 t) ∧
  (∀ (n : Nat) (r : RsOp) (o : OpRec) (s : State), s.live = true → s.rs n = some r → s.op n = some o → s.run n = none → r.armed = true →
    o.ending = none → o.due = none → o.opcode = 0x11#8 → rsTimeoutTicks o.desc ≤ r.ticks →
    ∃ t, exec (.rsPeerTimeout n) s = .next t ∧ t = s.quiet.settle (s.quiet.failRs n stPeerTimeout) ∧ t.rs n = none)
/-! ### Result checking and verdicts (spec/06) -/

/-- R192 to R195: FRACTION and the check blocks. -/
def Obligations.CheckSettingAndBlocks : Prop :=
  (∀ (v : BitVec 3) (s : State), s.live = true → v.toNat ≤ 4 →
    ∃ t, exec (.checkFractionWrite .mgmt v) s = .next t ∧ t.ras = { s.ras with fraction := v, pendingFraction := v != s.ras.active, fractionAge := 0 } ∧
      Frame [.ras] s t) ∧
  (∀ (v : BitVec 3) (p : PlPort) (s : State), s.live = true →
    (4 < v.toNat → ∃ t, exec (.checkFractionWrite .mgmt v) s = .next t ∧ Frame [] s t) ∧
    (∃ t, exec (.checkFractionWrite (.window p) v) s = .next t ∧ Frame [] s t)) ∧
  (∀ s : State, s.live = true → s.ras.pendingFraction = true →
    (s.ras.fractionAge = 0 → ∃ t, exec .checkFractionApply s = .next t ∧ Frame [] s t) ∧
    (0 < s.ras.fractionAge → (∀ b, b ∈ (checkOrder.filter s.blockOnline).take (checkCount s.ras.fraction) → b ∉ s.ras.checkBlocks → s.boundBlock b = false) →
      ∃ t, exec .checkFractionApply s = .next t ∧ Frame [.ras] s t ∧ t.ras.active = s.ras.fraction ∧ t.ras.pendingFraction = false ∧
        t.ras.checkBlocks = (checkOrder.filter s.blockOnline).take (checkCount s.ras.fraction) ∧ t.ras.checks = s.ras.checks ∧
        (t.ras.short = true ↔ t.ras.checkBlocks.length < checkCount t.ras.active) ∧
        (∀ b, b ∈ s.ras.checkBlocks → b ∉ t.ras.checkBlocks →
          (∃ e, e ∈ s.ras.checks ∧ blockOf e.2.checkCell = b) → b ∈ t.ras.leaving)) ∧
    (∀ b, b ∈ (checkOrder.filter s.blockOnline).take (checkCount s.ras.fraction) → b ∉ s.ras.checkBlocks → s.boundBlock b = true →
      ∃ t, exec .checkFractionApply s = .next t ∧ Frame [] s t)) ∧
  (∀ (old new : BlockId) (s : State), s.live = true → s.ras.checkBlocks.find? (fun b => !s.blockOnline b && !s.leftNow b) = some old →
    checkOrder.find? (fun b => s.blockOnline b && !s.ras.checkBlocks.contains b) = some new → s.boundBlock new = false →
    ∃ t, exec .checkBlockReplace s = .next t ∧ Frame [.ras] s t ∧ new ∈ t.ras.checkBlocks ∧ old ∉ t.ras.checkBlocks ∧
      (∀ b, b ≠ new → b ≠ old → b ∈ checkOrder → (b ∈ t.ras.checkBlocks ↔ b ∈ s.ras.checkBlocks)))

/-- R197 to R206: from the footprint's copy to the vote's consequence. -/
def Obligations.ChecksVote : Prop :=
  (∀ (k : Nat) (c : Check) (s : State), s.live = true → tget s.ras.checks k = some c → c.copied = false →
    s.cellIssues (c.third.getD c.checkCell) = true →
    ∃ t x, exec (.footprintCopyDone k) s = .next t ∧ Frame [.fab, .ras] s t ∧ tget t.ras.checks k = some { c with copied := true } ∧
      (match c.third with
        | none => x = t.cell c.checkCell ∧ x.scratch = c.footprint.foldl
            (fun m g => putWrapped m scratchBytes g.1 ((s.cell c.origin).bytesAt g.1 g.2)) (zeroCell (s.cell c.checkCell) (s.checkTenant c)).scratch
        | some y => x = t.cell y ∧ x.scratch = c.footprint.foldl
            (fun m g => putWrapped m scratchBytes g.1 ((s.cell c.checkCell).bytesAt g.1 g.2)) (zeroCell (s.cell y) (s.checkTenant c)).scratch)) ∧
  (∀ (k : Nat) (c : Check) (sig flip : BitVec 128) (s : State), s.live = true → tget s.ras.checks k = some c → c.copied = true →
    c.third = none → s.cellIssues c.checkCell = true → sig = s.checkSig c c.checkCell flip →
    (∀ third, c.sigOrigin = some sig → c.originOut = false → s.counter (ctrRas 0) < ctrMax - 1 →
      ∃ t, exec (.checkExecuteDone k flip third) s = .next t ∧ tget t.ras.checks k = none ∧
        t.counter (ctrRas 0) = s.counter (ctrRas 0) + 1 ∧ Frame [.fab, .ras, .ctr] s t) ∧
    (∀ y, (c.sigOrigin ≠ none ∧ c.sigOrigin ≠ some sig) ∨ c.originOut = true → s.thirdFree c y = true →
      ∃ t, exec (.checkExecuteDone k flip (some y)) s = .next t ∧
        tget t.ras.checks k = some { c with sigCheck := some sig, third := some y, copied := false } ∧ Frame [.ras, .ctr, .serial] s t)) ∧
  (∀ (k : Nat) (c : Check) (y : CellId) (sig flip : BitVec 128) (s : State), s.live = true → tget s.ras.checks k = some c →
    c.copied = true → c.third = some y → s.cellIssues y = true → sig = s.checkSig c y flip →
    (c.sigCheck = some sig → ∃ t, exec (.thirdExecuteDone k flip) s = .next t ∧ t.cellOnline c.origin = false ∧
      (c.residue = false → reported t 0x01 1 1 (unitCell c.origin))) ∧
    (c.sigCheck ≠ some sig → c.sigOrigin = some sig → c.originOut = false →
      ∃ t, exec (.thirdExecuteDone k flip) s = .next t ∧ t.cellOnline c.checkCell = false ∧ reported t 0x01 2 1 (unitCell c.origin)) ∧
    (c.sigCheck ≠ some sig → (c.sigOrigin ≠ some sig ∨ c.originOut = true) →
      ∃ t, exec (.thirdExecuteDone k flip) s = .next t ∧ t.blockOnline (blockOf c.origin) = false ∧
        reported t 0x01 3 2 (unitCell c.origin))) ∧
  (∀ (c k : CellId) (tl : Tile) (r : Run) (s : State), s.live = true → (s.cell c).tile = some tl → s.ras.active ≠ 0#3 →
    tl.stopped = false → s.run tl.run = some r → tl.fig < imgFigCount (s.runImage r) → ((s.cell c).nextFig tl).residue = true → tl.check = none → s.checkCellFree k = true → blockOf k ≠ blockOf c →
    ∃ t y, exec (.residueFailLane c k) s = .next t ∧
      (t.cell c).tile = some { tl with stopped := true, check := some s.ras.nextCheck } ∧ tget t.ras.checks s.ras.nextCheck = some y ∧
      y.origin = c ∧ y.checkCell = k ∧ y.originOut = true ∧ y.residue = true ∧ y.copied = false ∧
      reported t 0x01 4 1 (unitCell c) ∧ Frame [.fab, .ras, .ctr, .serial] s t)

/-- R209 to R215: the four verdict commands. -/
def Obligations.VerdictsAreIssuedOnce : Prop :=
  (∀ (n : Nat) (v : VerdictWait) (x : QPair) (s : State), s.live = true → tget s.ras.verdicts n = some v → s.qp v.qp = some x →
    x.drops = false → (v.record = none → v.strict = false) →
    (∀ a, v.tf = some a → v.cause = none → s.ras.hold.toNat ≤ a → a ≤ 8 → s.checksOpen n = false →
      ∃ t y r, exec (.verdictConfirm n) s = .next t ∧ tget t.ras.verdicts n = none ∧ t.qp v.qp = some y ∧ r ∈ y.recs ∧
        r.outcome = some .confirm ∧ r.cause = none ∧ (v.record = none → r.csn = v.csn ∧ r.verdict = true) ∧ Frame [.ras, .que] s t) ∧
    (∀ a c age, v.tf = some a → v.cause = some (c, age) → c ≠ .threeWay → 1 ≤ age → v.issued = false →
      ∃ t y r, exec (.verdictRetract n) s = .next t ∧ tget t.ras.verdicts n = none ∧ t.qp v.qp = some y ∧ r ∈ y.recs ∧
        r.outcome = some .retract ∧ r.cause = some c ∧ (v.record = none → r.csn = v.csn ∧ r.verdict = true) ∧
        Frame [.ras, .que, .ctr, .serial] s t) ∧
    (∀ a, v.tf = some a → v.cause = none → 8 ≤ a → s.checksOpen n = true →
      ∃ t y r u, exec (.verdictLate n) s = .next t ∧ tget t.ras.verdicts n = none ∧ t.qp v.qp = some y ∧ r ∈ y.recs ∧
        r.outcome = some .retract ∧ r.cause = some .late ∧ reported t 0x01 7 2 u ∧ Frame [.ras, .que, .ctr, .serial] s t) ∧
    (∀ a age, v.tf = some a → v.cause = some (.threeWay, age) → 1 ≤ age → v.issued = false →
      ∃ t y r, exec (.verdictFatal n) s = .next t ∧ tget t.ras.verdicts n = none ∧ t.qp v.qp = some y ∧ r ∈ y.recs ∧
        r.outcome = some .fatal ∧ r.cause = some .threeWay ∧ (v.record ≠ none → r.status = stCheckFatal) ∧ Frame [.ras, .que, .ctr, .serial] s t)) ∧
  (∀ (n age : Nat) (v : VerdictWait) (s : State), s.live = true → tget s.ras.verdicts n = some v → v.tf = none →
    v.issued = false → 1 ≤ age →
    (∀ c, v.cause = some (c, age) → c ≠ .threeWay → ∃ t, exec (.verdictRetract n) s = .next t ∧
      tget t.ras.verdicts n = some { v with issued := true } ∧ Frame [.ras, .ctr, .serial] s t) ∧
    (v.cause = some (.threeWay, age) → ∃ t u, exec (.verdictFatal n) s = .next t ∧
      t = s.quiet.settle ((u.endOp n stCheckFatal).settleRs n) ∧ tget u.ras.verdicts n = some { v with issued := true } ∧
      Frame [.ras, .ctr, .serial] s u)) ∧
  (∀ (n : Nat) (s : State), s.live = true → tget s.ras.verdicts n = none →
    (∃ t, exec (.verdictConfirm n) s = .next t ∧ Frame [] s t) ∧ (∃ t, exec (.verdictRetract n) s = .next t ∧ Frame [] s t) ∧
    (∃ t, exec (.verdictLate n) s = .next t ∧ Frame [] s t) ∧ (∃ t, exec (.verdictFatal n) s = .next t ∧ Frame [] s t))

/-- R218, R577, R578: the report ring and the counters. -/
def Obligations.ReportsAndCounters : Prop :=
  (∀ (s : State) (r : Report), s.ras.ring.length < 4096 →
    ∃ r', (s.raise r).ras.ring = s.ras.ring ++ [r'] ∧ r'.seq = s.ras.nextSeq ∧ r'.tick = s.tide.count ∧ r'.source = r.source ∧
      r'.code = r.code ∧ r'.unit = r.unit ∧ r'.severity = r.severity ∧ (s.raise r).ras.nextSeq = s.ras.nextSeq + 1#32 ∧
      (s.raise r).out = s.out ++ [.report r'] ∧ Frame [.ras, .serial] s (s.raise r)) ∧
  (∀ (s : State) (r : Report), 4096 ≤ s.ras.ring.length → s.counter (ctrRas 5) + 1 < ctrMax →
    ∃ r', (s.raise r).ras.ring = s.ras.ring.drop 1 ++ [r'] ∧ r'.seq = s.ras.nextSeq ∧
      (s.raise r).counter (ctrRas 5) = s.counter (ctrRas 5) + 1 ∧ Frame [.ras, .ctr, .serial] s (s.raise r)) ∧
  (∀ (first : W32) (n : BitVec 16) (s : State), s.awake = true →
    (1 ≤ n.toNat → n.toNat ≤ 200 → ∃ t bs, exec (.reportRead first n) s = .next t ∧ answered t 0x44#8 0 bs ∧
      bs = bytesOf ((s.ras.ring.head?.map (fun r => r.seq)).getD Config.emptyOldest) 4 ++ bytesOf (s.ras.nextSeq - 1#32) 4 ++
        ((s.ras.ring.filter (fun r => decide (first.toNat ≤ r.seq.toNat))).take n.toNat).flatMap reportBytes ∧
      SameBut [.sec, .links] s t) ∧
    (n.toNat = 0 ∨ 200 < n.toNat → ∃ t, exec (.reportRead first n) s = .next t ∧ answered t 0x44#8 7 [] ∧ SameBut [.sec, .links] s t)) ∧
  (∀ (s : State) (off n : Nat), s.counter off < ctrMax →
    (s.bump off n).counter off = min ctrMax (s.counter off + n)) ∧
  (∀ (s : State) (off n : Nat), s.counter off = ctrMax → s.bump off n = s) ∧
  (∀ (s : State) (off n : Nat), s.counter off < ctrMax → ctrMax ≤ s.counter off + n → reported (s.bump off n) 0x0D 0x04 0 unitChip) ∧
  (∀ n : Nat, n ≤ ctrMax → ((ctrValue n).getLsbD 48 = true ↔ n = ctrMax) ∧ (ctrValue n).toNat % 2 ^ 48 = n)
/-! ### Memory controllers (spec/07) -/

/-- Address decode (R225, R227, R228) loses nothing and stays within the channels' banks and rows. -/
def Obligations.AddressDecodeIsExact : Prop :=
  ∀ (g : Nat) (off : BitVec 26), g < granCountAll →
    chanKey (dramLoc g off.toNat).ch (dramLoc g off.toNat).addr = g * granBytes + off.toNat ∧
    (dramLoc g off.toNat).bank < chanBanks (dramLoc g off.toNat).ch ∧ (dramLoc g off.toNat).row < bankRows (dramLoc g off.toNat).ch ∧
    (granShelf g = false → chanDeep (dramLoc g off.toNat).ch = true ∧ chanStack (dramLoc g off.toNat).ch = granStack g) ∧
    (granShelf g = true → chanDeep (dramLoc g off.toNat).ch = false ∧ chanTier (dramLoc g off.toNat).ch = granTier g)

/-- MEM_CTRL_ACCEPT (R229, R233 to R237). -/
def Obligations.ControllersAcceptRequests : Prop :=
  ∀ (g : Nat) (off : BitVec 26) (s : State), g < granCountAll → s.live = true →
    let loc := dramLoc g off.toNat
    let c := s.chan loc.ch
    let a := alignDown loc.addr 64
    (s.memTrained = true → s.chanFailed loc.ch = false →
      (s.fromSlice g off .read = true → c.readCount < 64 →
        ∃ t e, exec (.memCtrlAccept g off .read) s = .next t ∧ e ∈ (t.chan loc.ch).reads ∧ e.kind = .read ∧ e.seq = c.nextSeq ∧
          e.issued = false ∧ e.data = s.poolRead (chanKey loc.ch (alignDown loc.addr (chanUnit loc.ch))) (chanUnit loc.ch) ∧
          e.poison = (List.range (chanUnit loc.ch / 64)).map (fun j =>
            s.poisoned (chanKey loc.ch (alignDown loc.addr (chanUnit loc.ch)) / 64 + j)) ∧
          (∀ x, x ∈ c.reads → x ∈ (t.chan loc.ch).reads) ∧
          (∀ m, m ∈ (t.chan loc.ch).merges → m.bank = loc.bank → m.row = loc.row → m.closed = true) ∧
          t.mem.bytes = s.mem.bytes ∧ t.mem.poison = s.mem.poison ∧ Frame [.mem] s t) ∧
      (64 ≤ c.readCount → ∃ t, exec (.memCtrlAccept g off .read) s = .next t ∧ Frame [] s t) ∧
      (∀ (en : BitVec 64) (d : Line), s.fromSlice g off (.write en d) = true →
        (c.place a en = .held → ∃ t, exec (.memCtrlAccept g off (.write en d)) s = .next t ∧ Frame [] s t) ∧
        (c.place a en ≠ .held →
          ∃ t, exec (.memCtrlAccept g off (.write en d)) s = .next t ∧ t.mem.bytes = s.mem.bytes ∧ t.mem.poison = s.mem.poison ∧
            Frame [.mem] s t ∧
            (c.place a en = .queue → ∃ e, e ∈ (t.chan loc.ch).writes ∧ e.kind = .write ∧ e.addr = a ∧ e.seq = c.nextSeq ∧
              e.bank = loc.bank ∧ e.row = loc.row) ∧
            (∀ q, c.place a en = .join q → ∃ m, m ∈ c.merges ∧ m.seq = q ∧ m.addr = a ∧
              ((∃ x, x ∈ (t.chan loc.ch).merges ∧ x.seq = q ∧ x.addr = a ∧ x.enables = m.enables ||| en ∧
                x.data = mergeBytes m.data en d) ∨ (∃ e, e ∈ (t.chan loc.ch).writes ∧ e.seq = q))) ∧
            (c.place a en = .entry →
              (∃ x, x ∈ (t.chan loc.ch).merges ∧ x.seq = c.nextSeq ∧ x.addr = a ∧ x.enables = en ∧ x.data = d) ∨
              (∃ e, e ∈ (t.chan loc.ch).writes ∧ e.seq = c.nextSeq))))) ∧
    (∀ r : MemReq, s.fromSlice g off r = false → ∃ t, exec (.memCtrlAccept g off r) s = .next t ∧ Frame [] s t)

/-- MEM_CTRL_READ_DATA and MERGE_READ_DONE (R235, R237, R249, R250). -/
def Obligations.ReadsReturn : Prop :=
  (∀ (ch : MemCh) (q : Nat) (flips : List EccFlip) (e : MemEntry) (s : State), s.live = true →
    (s.chan ch).reads.find? (fun e => e.seq == q && e.issued && e.kind != .mergeRead) = some e → e.kind = .read → s.chanFailed ch = false →
    ∃ t, exec (.memCtrlReadData ch q flips) s = .next t ∧
      .memData ch e.addr e.data ((classifyRead ch e flips).map badLine) ∈ t.out ∧ (∀ x, x ∈ (t.chan ch).reads → x.seq = q → x.issued = false) ∧
      Frame [.mem, .ext, .coh, .audit, .ras, .ctr, .serial] s t) ∧
  (∀ (ch : MemCh) (e : MemEntry), e.data.length ≤ 256 → (∀ b, b ∈ e.poison → b = false) →
    ((classifyRead ch e []).map badLine).all (fun b => !b) = true) ∧
  (∀ (ch : MemCh) (e : MemEntry) (w : Fin 32) (i : Nat), i < 64 → w.val / 8 < e.data.length / 64 → (∀ b, b ∈ e.poison → b = false) →
    classifyLine ch e [⟨w, 1#64 <<< i, 0#8⟩] (w.val / 8) =
      ⟨chanKey ch e.addr / 64 + w.val / 8, [(w.val, BitVec.ofNat 8 (eccColumns.getD i 0))], [], false⟩) ∧
  (∀ (ch : MemCh) (q : Nat) (flips : List EccFlip) (e : MemEntry) (m : MergeEntry) (s : State), s.live = true →
    (s.chan ch).reads.find? (fun e => e.seq == q && e.issued && e.kind == .mergeRead) = some e →
    (s.chan ch).merges.find? (fun m => m.addr == e.addr && m.asked && !m.ready) = some m →
    (badLine (classifyLine ch e flips 0) = false →
      ∃ t, exec (.mergeReadDone ch q flips) s = .next t ∧
        ((∃ x, x ∈ (t.chan ch).merges ∧ x.seq = m.seq ∧ x.ready = true) ∨ (∃ w, w ∈ (t.chan ch).writes ∧ w.seq = m.seq)) ∧
        (∀ y, y ∈ (t.chan ch).reads → y.seq = q → y.issued = false) ∧ Frame [.mem, .ext, .coh, .audit, .ras, .ctr, .serial] s t) ∧
    (badLine (classifyLine ch e flips 0) = true →
      ∃ t, exec (.mergeReadDone ch q flips) s = .next t ∧ (∀ x, x ∈ (t.chan ch).merges → x.seq ≠ m.seq) ∧
        reported t 0x0A 0x03 1 (unitChan ch) ∧ Frame [.mem, .ext, .coh, .audit, .ras, .ctr, .serial] s t))

/-- R232, R238 to R248, R554. -/
def Obligations.RefreshTemperatureTraining : Prop :=
  (∀ (ch : MemCh) (inp : ArbIn) (s : State), s.live = true → s.memTrained = true → s.chanFailed ch = false → s.chanRetraining ch = false →
    (∃ b c, b < chanBanks ch ∧ b ∈ inp.asserted ∧ s.bankCand ch inp.aged b = some c ∧ s.candIssues ch c.act = true) →
    ∃ t u w c, exec (.arbiterDecision (.mem ch) inp) s = .next t ∧ w < chanBanks ch ∧ w ∈ inp.asserted ∧
      s.bankCand ch inp.aged w = some c ∧ s.candIssues ch c.act = true ∧
      (∀ b k, b < chanBanks ch → b ∈ inp.asserted → s.bankCand ch inp.aged b = some k →
        s.candIssues ch k.act = true → c.cls ≤ k.cls) ∧
      t = s.quiet.settle (u.issueCand ch w inp.draws c.act) ∧ (u.arbiter (.mem ch)).granted = some w ∧ Frame [.arb] s u) ∧
  (∀ (ch : MemCh) (s : State), s.live = true → s.chanFailed ch = false → -refLimit ch < s.refOwed ch →
    (0 < s.refOwed ch ∨ (s.chan ch).bankIdle (s.chan ch).refBank = true) →
    ∃ t, exec (.refreshIssue ch) s = .next t ∧ (t.chan ch).refIssued = (s.chan ch).refIssued + 1 ∧
      (t.chan ch).refBank = ((s.chan ch).refBank + 1) % chanBanks ch ∧
      (mget MemBank.idle (t.chan ch).banks (s.chan ch).refBank).openRow = none ∧ (t.chan ch).reads = (s.chan ch).reads ∧ Frame [.mem] s t) ∧
  (∀ (ch : MemCh) (b r : Nat) (rest : List (Nat × Nat)) (s : State), s.live = true → (s.chan ch).neighbors = (b, r) :: rest →
    ∃ t, exec (.neighborRefresh ch) s = .next t ∧ (t.chan ch).neighbors = rest ∧
      (mget MemBank.idle (t.chan ch).banks b).openRow = none ∧ Frame [.mem, .ctr, .ras, .serial] s t) ∧
  (∀ (z : RegionId) (temp : BitVec 8) (s : State), s.live = true →
    (temp.toInt < 100 → ∃ t, exec (.shelfThermSample z temp) s = .next t ∧ (t.zone z.val).temp = temp ∧
      (s.mem.thrOn.toInt ≤ temp.toInt → (t.zone z.val).duty = (s.zone z.val).duty - 1) ∧
      (temp.toInt < s.mem.thrOn.toInt → temp.toInt ≤ s.mem.thrOff.toInt → (t.zone z.val).duty = min 16 ((s.zone z.val).duty + 1)) ∧
      (temp.toInt < s.mem.thrOn.toInt → s.mem.thrOff.toInt < temp.toInt → (t.zone z.val).duty = (s.zone z.val).duty) ∧
      (95 ≤ temp.toInt → (t.zone z.val).overtemp = true) ∧ Frame [.mem, .ras, .ctr, .serial] s t) ∧
    (100 ≤ temp.toInt → ∃ t, exec (.shelfThermSample z temp) s = .next t ∧ t.plt.tripped = true ∧ t.plt.phase = .tripped ∧ t.live = false ∧
      Frame [.mem, .ras, .ctr, .serial, .plt] s t)) ∧
  (∀ (st : StackId) (s : State), s.live = true → (s.stack st.val).retraining = true →
    ((s.stack st.val).pc < 31 → ∃ t, exec (.retrainPcDone st true) s = .next t ∧
      t.stack st.val = { s.stack st.val with pc := (s.stack st.val).pc + 1, startCredit := s.creditOf st.val, failedOnce := false } ∧ Frame [.mem] s t) ∧
    (31 ≤ (s.stack st.val).pc → (s.stack st.val).again = false → ∃ t, exec (.retrainPcDone st true) s = .next t ∧
      (t.stack st.val).retraining = false ∧ (t.stack st.val).trainTemp = (s.stack st.val).startTemp ∧
      reported t 0x0A 0x07 0 (unitChan (stackChan st.val 0)) ∧ Frame [.mem, .ras, .ctr, .serial] s t) ∧
    ((s.stack st.val).failedOnce = false → ∃ t, exec (.retrainPcDone st false) s = .next t ∧
      t.stack st.val = { s.stack st.val with failedOnce := true } ∧ Frame [.mem] s t) ∧
    ((s.stack st.val).failedOnce = true → (s.stack st.val).failed = false → ∃ t u, exec (.retrainPcDone st false) s = .next t ∧
      t = s.quiet.settle (u.loseStack st.val) ∧ (u.stack st.val).failed = true ∧ (u.stack st.val).retraining = false ∧
      Frame [.mem, .ras, .ctr, .serial] s u))

/-- SCRUB and SCRUB_DONE (R254 to R258). -/
def Obligations.ScrubsStartAndEnd : Prop :=
  (∀ (q : Qp) (h : Nat) (x : QPair) (d : Held) (s : State), s.live = true → s.nextHeld q h 0x40#8 x d →
    (∀ st, s.scrubChecks x d.desc = .error st → ∃ t, exec (.scrub q h) s = .next t ∧ descEnded t q h d.desc st ∧ Frame [.que] s t) ∧
    (∀ e y, s.scrubChecks x d.desc = .ok (e, y) → ∃ t sc o, exec (.scrub q h) s = .next t ∧
      tget t.mem.scrubs s.que.nextOp = some sc ∧ sc.ext = BitVec.ofNat 13 e ∧ sc.addr = fgaPpa (d.desc.extractLsb' 128 64) ∧
      sc.length = descField d.desc 24 8 ∧ sc.outstanding = 0 ∧ sc.wordsRead = 0 ∧ sc.stopped = none ∧
      t.op s.que.nextOp = some o ∧ o.qp = q ∧ o.held = h ∧ Frame [.que, .mem] s t)) ∧
  (∀ (n : Nat) (sc : ScrubOp) (o : OpRec) (bad : Option Status) (s s1 : State), s.live = true → tget s.mem.scrubs n = some sc →
    s.op n = some o → sc.outstanding = 0 → (sc.stopped ≠ none ∨ s.scrubLeft sc = []) →
    s.quiet.writeResult n o sc.resultHost sc.resultAddr (scrubSummary sc) = (some bad, s1) →
    ∃ t u, exec (.scrubDone n) s = .next t ∧ tget u.mem.scrubs n = none ∧ SameBut [.mem] s1 u ∧
      (∀ st, sc.stopped = some st → t = s.quiet.settle (u.finishOp n st (BitVec.ofNat 64 sc.linesPoisoned))) ∧
      (∀ st, sc.stopped = none → bad = some st → t = s.quiet.settle (u.finishOp n st (BitVec.ofNat 64 sc.linesPoisoned))) ∧
      (sc.stopped = none → bad = none → t = s.quiet.settle (u.finishOp n stOk (BitVec.ofNat 64 sc.linesPoisoned))))
/-! ### Extents and snapshots (spec/08) -/

/-- R278: the four commands of the extent manager. -/
def Obligations.ExtentCommandsAnswer : Prop :=
  (∀ (a : GrantArgs) (s : State), s.live = true →
    let n := a.granules.toNat
    let r := a.reserve.toNat
    let named : Bool := a.baseSlot != 0xFFFF#16
    let shelf : Bool := if a.place = 0#8 then false else if a.place = 1#8 then true
      else decide (n + r ≤ s.mem.autoShelfMax.toNat) && decide (n + r + s.mem.autoShelfReserve.toNat ≤ s.freeIn true)
    let base := if named then (if s.slotsFree a.baseSlot.toNat n then some a.baseSlot.toNat else none) else s.freeRun n
    ((grantKind a.kind = none ∨ n = 0 ∨ (grantKind a.kind ≠ some .snapshot ∧ (r ≠ 0 ∨ a.discard = true)) ∨
        (grantKind a.kind = some .snapshot ∧ r = 0) ∨ 2 < a.place.toNat ∨ (named = true ∧ 16384 < a.baseSlot.toNat + n)) →
      ∃ t, exec (.extGrant a) s = .next t ∧ answered t 0x01#8 7 [] ∧ Frame [.sec] s t) ∧
    (∀ kind, grantKind a.kind = some kind → n ≠ 0 → (kind ≠ .snapshot → r = 0 ∧ a.discard = false) → (kind = .snapshot → r ≠ 0) →
      a.place.toNat ≤ 2 → (named = true → a.baseSlot.toNat + n ≤ 16384) →
      (8192 ≤ s.ext.extents.length → ∃ t, exec (.extGrant a) s = .next t ∧ answered t 0x01#8 6 [] ∧ Frame [.sec] s t) ∧
      (s.ext.extents.length < 8192 → s.freeIn shelf < n + r →
        ∃ t, exec (.extGrant a) s = .next t ∧ answered t 0x01#8 1 [] ∧ Frame [.sec] s t) ∧
      (s.ext.extents.length < 8192 → n + r ≤ s.freeIn shelf → base = none →
        ∃ t, exec (.extGrant a) s = .next t ∧ answered t 0x01#8 2 [] ∧ Frame [.sec] s t) ∧
      (∀ b, s.ext.extents.length < 8192 → n + r ≤ s.freeIn shelf → base = some b →
        ∃ t id x, exec (.extGrant a) s = .next t ∧ answered t 0x01#8 0 (natBytes 2 id ++ natBytes 2 b) ∧ s.extent id = none ∧
          t.extent id = some x ∧ x.state = .granted ∧ x.kind = kind ∧ x.tenant = a.tenant ∧ x.baseSlot = b ∧ x.rights = [] ∧
          x.lost = false ∧ x.shelf = shelf ∧ x.discard = a.discard ∧ x.grantTick = s.tide.count ∧ (x.grans ++ x.reserve).Nodup ∧
          (∀ g, g ∈ x.grans ++ x.reserve → s.grantable g = true ∧ granShelf g = shelf ∧ t.gran g = ⟨.granted, false⟩) ∧
          Frame [.mem, .ext, .sec, .audit] s t))) ∧
  (∀ (e : ExtId) (es : List W32) (s : State), s.live = true →
    (s.extent e.toNat = none → ∃ t, exec (.extSetRights e es) s = .next t ∧ answered t 0x02#8 7 [] ∧ Frame [.sec] s t) ∧
    (∀ x, s.extent e.toNat = some x →
      (x.state = .sealed ∨ x.changes.any (fun c => c.change == .seal) = true →
        ∃ t, exec (.extSetRights e es) s = .next t ∧ answered t 0x02#8 4 [] ∧ Frame [.sec] s t) ∧
      (x.state ≠ .sealed → x.changes.any (fun c => c.change == .seal) = false → x.state ≠ .granted → ∃ t, exec (.extSetRights e es) s = .next t ∧ answered t 0x02#8 3 [] ∧ Frame [.sec] s t) ∧
      (x.state = .granted → x.changes.any (fun c => c.change == .seal) = false → 64 < es.length → ∃ t, exec (.extSetRights e es) s = .next t ∧ answered t 0x02#8 7 [] ∧ Frame [.sec] s t) ∧
      (x.state = .granted → x.changes.any (fun c => c.change == .seal) = false → es.length ≤ 64 → es.any badRight = true →
        ∃ t, exec (.extSetRights e es) s = .next t ∧ answered t 0x02#8 5 [] ∧ Frame [.sec] s t) ∧
      (x.state = .granted → x.changes.any (fun c => c.change == .seal) = false → es.length ≤ 64 → es.any badRight = false → 131072 < s.rightsUsed e.toNat + es.length →
        ∃ t, exec (.extSetRights e es) s = .next t ∧ answered t 0x02#8 6 [] ∧ Frame [.sec] s t) ∧
      (x.state = .granted → x.changes.any (fun c => c.change == .seal) = false → es.length ≤ 64 → es.any badRight = false → s.rightsUsed e.toNat + es.length ≤ 131072 →
        ∃ t, exec (.extSetRights e es) s = .next t ∧ t.out = [] ∧
          t.extent e.toNat = some { x with changes := x.changes ++ [⟨.rights es, allSlices⟩] } ∧ Frame [.ext] s t))) ∧
  (∀ (e : ExtId) (s : State), s.live = true →
    (s.extent e.toNat = none → ∃ t, exec (.extRevoke e) s = .next t ∧ answered t 0x03#8 7 [] ∧ Frame [.sec] s t) ∧
    (∀ x, s.extent e.toNat = some x →
      (x.state = .draining ∨ x.state = .scrubbing ∨ x.changes.any (fun c => c.change == .revoke) = true →
        ∃ t, exec (.extRevoke e) s = .next t ∧ answered t 0x03#8 3 [] ∧ Frame [.sec] s t) ∧
      (x.state ≠ .draining → x.state ≠ .scrubbing → x.changes.any (fun c => c.change == .revoke) = false →
        ∃ t, exec (.extRevoke e) s = .next t ∧ answered t 0x03#8 0 [] ∧
          t.extent e.toNat = some { x with changes := x.changes ++ [⟨.revoke, allSlices⟩] } ∧ Frame [.ext, .sec] s t))) ∧
  (∀ (e : ExtId) (s : State), s.live = true →
    (s.extent e.toNat = none → ∃ t, exec (.extQuery e) s = .next t ∧ answered t 0x04#8 7 [] ∧ Frame [.sec] s t) ∧
    (∀ x, s.extent e.toNat = some x → ∃ t, exec (.extQuery e) s = .next t ∧ answered t 0x04#8 0 (extRecord s e.toNat x) ∧
      (extRecord s e.toNat x).length = 64 ∧ Frame [.sec] s t))

/-- R275, R279 to R286. -/
def Obligations.ExtentsChangeDrainAndFill : Prop :=
  (∀ (s : State) (a : Access) (addr : W64) (reqEnd : Nat),
    let slot := fgaPpa addr / granBytes
    let sl := ppaSlice (fgaPpa addr)
    (fgaNode addr ≠ s.rtr.nodeId ∨ (fgaV addr = false ∧ addr.extractLsb' 54 9 ≠ 0#9) ∨ s.slotExtent slot = none →
      s.extCheck a addr reqEnd = .error stNone) ∧
    (∀ e x i, fgaNode addr = s.rtr.nodeId → (fgaV addr = false → addr.extractLsb' 54 9 = 0#9) → s.slotExtent slot = some (e, x, i) →
      a.passed = false → a.loader = none →
      ((extView x sl).revoked = true → s.extCheck a addr reqEnd = .error stRevoked) ∧
      ((extView x sl).revoked = false → x.lost = true → s.extCheck a addr reqEnd = .error stLost) ∧
      ((extView x sl).revoked = false → x.lost = false →
        ((x.baseSlot + x.grans.length) * granBytes < reqEnd → s.extCheck a addr reqEnd = .error stRange) ∧
        (reqEnd ≤ (x.baseSlot + x.grans.length) * granBytes →
          ((x.kind ≠ .coherent ∧ a.coherent = true) ∨ (x.kind ≠ .snapshot ∧ fgaV addr = true) → s.extCheck a addr reqEnd = .error stKind) ∧
          ((x.kind ≠ .coherent → a.coherent = false) → (x.kind ≠ .snapshot → fgaV addr = false) →
            ((a.needR = true ∧ (rightsOf (extView x sl).rights a.ep).1 = false) ∨
             (a.needW = true ∧ (rightsOf (extView x sl).rights a.ep).2.1 = false) ∨
             (a.needA = true ∧ (rightsOf (extView x sl).rights a.ep).2.2 = false) ∨
             ((extView x sl).sealed = true ∧ x.tenant ∉ a.auth) →
              s.extCheck a addr reqEnd = .error stDenied) ∧
            ((a.needR = true → (rightsOf (extView x sl).rights a.ep).1 = true) →
             (a.needW = true → (rightsOf (extView x sl).rights a.ep).2.1 = true) →
             (a.needA = true → (rightsOf (extView x sl).rights a.ep).2.2 = true) →
             ((extView x sl).sealed = true → x.tenant ∈ a.auth) → x.snap = none →
              ∃ k, s.extCheck a addr reqEnd = .ok k ∧ k.ext = e ∧ k.slice = sl ∧
                k.key = x.grans.getD i 0 * granBytes + fgaPpa addr % granBytes))))) ∧
    (∀ e x i tn, fgaNode addr = s.rtr.nodeId → (fgaV addr = false → addr.extractLsb' 54 9 = 0#9) → s.slotExtent slot = some (e, x, i) →
      a.passed = false → a.loader = some tn → (extView x sl).revoked = false → x.lost = false →
      reqEnd ≤ (x.baseSlot + x.grans.length) * granBytes → (x.kind ≠ .coherent → a.coherent = false) →
      (x.kind ≠ .snapshot → fgaV addr = false) → x.tenant ≠ tn ∨ (extView x sl).sealed = true →
      s.extCheck a addr reqEnd = .error stDenied)) ∧
  (∀ (sl : Slice) (e : ExtId) (x : Extent) (c : ExtChange) (left : List Slice) (rest : List PendingChange) (s : State), s.live = true →
    s.extent e.toNat = some x → x.changes = ⟨c, left⟩ :: rest →
    let x1 := { x with changes := ⟨c, left.erase sl⟩ :: rest, views := mmod SliceView.fresh x.views sl.val (fun v => applyView v c) }
    (sl ∉ left → ∃ t, exec (.extentChangeApply sl e) s = .next t ∧ Frame [] s t) ∧
    (sl ∈ left → left.erase sl ≠ [] → ∃ t, exec (.extentChangeApply sl e) s = .next t ∧ t.extent e.toNat = some x1 ∧
      extView x1 sl.val = applyView (extView x sl.val) c ∧ Frame [.ext] s t) ∧
    (left = [sl] → ∃ t u, exec (.extentChangeApply sl e) s = .next t ∧ u.extent e.toNat = some x1 ∧ Frame [.ext] s u ∧
      t = s.quiet.settle (u.changeDone e.toNat x1 c rest) ∧
      (c = .revoke → x.kind ≠ .coherent → x.notifyEp = 0x3FFF#14 → ∃ y, t.extent e.toNat = some y ∧ y.state = .draining ∧
        y.stateTick = s.tide.count ∧ y.changes = rest ∧ .extEvent e 2#8 s.tide.count ∈ t.out ∧ Frame [.ext, .audit] s t))) ∧
  (∀ (sl : Slice) (e : ExtId) (x : Extent) (sn : Snap) (p : Publication) (more : List Publication) (s : State), s.live = true →
    s.extent e.toNat = some x → x.changes = [] → x.snap = some sn → sn.pubs = p :: more → p.chosen.isSome = true → sl ∉ p.switched →
    ∃ t, exec (.extentChangeApply sl e) s = .next t ∧
      t.extent e.toNat = some { x with snap := some { sn with pubs := { p with switched := p.switched ++ [sl] } :: more } } ∧
      Frame [.ext] s t) ∧
  (∀ (e : ExtId) (x : Extent) (s : State), s.live = true → s.extent e.toNat = some x →
    (s.drained x = false → ∃ t, exec (.extentDrainDone e) s = .next t ∧ Frame [] s t) ∧
    (s.drained x = true → ∃ t u y, exec (.extentDrainDone e) s = .next t ∧ u.extent e.toNat = some y ∧ y.state = .scrubbing ∧
      (∀ r, r ∈ u.ext.records → r.2.ext ≠ e) ∧ .extEvent e 3#8 s.tide.count ∈ u.out ∧ Frame [.ext, .coh, .sec, .audit] s u ∧
      (∀ c, c ∈ x.changes → (∃ es, c.change = .rights es) → answered u 0x02#8 0 []) ∧
      t = s.quiet.settle ((match x.snap with
        | some sn => sn.pubs.map (fun (p : Publication) => p.op) ++ sn.opens.map (fun (o : OpenWait) => o.op)
        | none => []).foldl (fun st n => st.completeOp n stRevoked 0#64 0#16) u))) ∧
  (∀ (e : ExtId) (x : Extent) (s : State), s.live = true → s.extent e.toNat = some x → x.state = .scrubbing →
    (x.fill = false → ∃ t, exec (.zeroFillCommit (.extent e)) s = .next t ∧ Frame [] s t) ∧
    (x.fill = true → Memory.wf s = true → ∃ t, exec (.zeroFillCommit (.extent e)) s = .next t ∧ t.extent e.toNat = none ∧ .extEvent e 0#8 s.tide.count ∈ t.out ∧
      (∀ g, g ∈ x.grans ++ x.reserve → (t.gran g).state = .free ∧ (t.gran g).failed = (s.gran g).failed) ∧
      (∀ g a, g ∈ x.grans ++ x.reserve → (s.gran g).failed = false → g * granBytes ≤ a → a < g * granBytes + granBytes →
        mget 0 t.mem.bytes a = 0#8) ∧
      (∀ a, (∀ g, g ∈ x.grans ++ x.reserve → (s.gran g).failed = true ∨ a < g * granBytes ∨ g * granBytes + granBytes ≤ a) →
        mget 0 t.mem.bytes a = mget 0 s.mem.bytes a) ∧ Memory.wf t = true ∧ Frame [.ext, .mem, .audit] s t)) ∧
  (∀ (g : Nat) (s : State), s.live = true → s.plt.phase = .fill ∨ s.plt.phase = .ready ∨ s.plt.phase = .shutdown → g < granCountAll → dumpGran g = false → s.granOwner g = none →
    (s.gran g).state = .scrubbing → (s.gran g).failed = false →
    ∃ t, exec (.zeroFillCommit (.granule g)) s = .next t ∧ t.gran g = ⟨.free, false⟩ ∧
      (∀ a, g * granBytes ≤ a → a < g * granBytes + granBytes → mget 0 t.mem.bytes a = 0#8) ∧ Frame [.ext, .mem, .audit] s t)

/-- R294 to R300: the commands of the snapshot engine. -/
def Obligations.SnapshotsOpenPublishCopy : Prop :=
  (∀ (q : Qp) (h : Nat) (x : QPair) (d : Held) (s : State), s.live = true → s.nextHeld q h 0x41#8 x d →
    let num : Bool := d.desc.getLsbD 224
    let clean : Bool := descClean d.desc [(16, 8), (24, 4), (28, 1)] && decide (descField d.desc 28 1 ≤ 1) &&
      (num || decide (descField d.desc 24 4 = 0))
    let want : Option Nat := if num then some (descField d.desc 24 4) else none
    (clean = false → ∃ t, exec (.snapOpen q h) s = .next t ∧ descEnded t q h d.desc stBadDesc ∧ Frame [.que] s t) ∧
    (∀ st, clean = true → s.snapTarget x (d.desc.extractLsb' 128 64) false = .error st →
      ∃ t, exec (.snapOpen q h) s = .next t ∧ descEnded t q h d.desc st ∧ Frame [.que] s t) ∧
    (∀ e y sn k, clean = true → s.snapTarget x (d.desc.extractLsb' 128 64) false = .ok (e, y, sn) → openSlot sn want = some k →
      (snapReserved sn = some k → ∃ t o, exec (.snapOpen q h) s = .next t ∧ t.op s.que.nextOp = some o ∧ o.desc = d.desc ∧
        t.extent e = some { y with snap := some { sn with opens := sn.opens ++ [⟨s.que.nextOp, want⟩] } } ∧ Frame [.que, .ext] s t) ∧
      (snapReserved sn ≠ some k → s.extent e = some y → y.snap = some sn → s.ext.records.length < 65536 →
        ∃ t u o z idx, exec (.snapOpen q h) s = .next t ∧ tget s.ext.records idx = none ∧
          tget u.ext.records idx = some ⟨BitVec.ofNat 13 e, k, (mget VSlot.reset sn.slots k).gen, x.cfg.ep⟩ ∧
          u.extent e = some { y with snap := some z } ∧
          (mget VSlot.reset z.slots k).opens = (mget VSlot.reset sn.slots k).opens + 1 ∧ u.op s.que.nextOp = some o ∧ o.qp = q ∧
          o.held = h ∧ o.desc = d.desc ∧ Frame [.que, .ext] s u ∧
          t = s.quiet.settle (u.completeOp s.que.nextOp stOk (BitVec.ofNat 64 (snapHandle idx k (mget VSlot.reset sn.slots k).gen +
            (mget VSlot.reset sn.slots k).version * 2 ^ 32)) 0#16)))) ∧
  (∀ (q : Qp) (h : Nat) (x : QPair) (d : Held) (s : State), s.live = true → s.nextHeld q h 0x42#8 x d →
    (descClean d.desc [(16, 4)] = false → ∃ t, exec (.snapClose q h) s = .next t ∧ descEnded t q h d.desc stBadDesc ∧ Frame [.que] s t) ∧
    (descClean d.desc [(16, 4)] = true → s.handleRecord (descField d.desc 16 4) x.cfg.ep = none →
      ∃ t, exec (.snapClose q h) s = .next t ∧ descEnded t q h d.desc stBadHandle ∧ Frame [.que] s t) ∧
    (∀ idx r y, descClean d.desc [(16, 4)] = true → s.handleRecord (descField d.desc 16 4) x.cfg.ep = some (idx, r) →
      s.extent r.ext.toNat = some y →
      (y.state = .draining → ∃ t, exec (.snapClose q h) s = .next t ∧ descEnded t q h d.desc stRevoked ∧ Frame [.que] s t) ∧
      (y.state ≠ .draining → ∃ t u o, exec (.snapClose q h) s = .next t ∧ tget u.ext.records idx = none ∧ u.op s.que.nextOp = some o ∧
        o.desc = d.desc ∧ (∀ sn, y.snap = some sn → u.extent r.ext.toNat = some { y with snap := some (closeSlot y sn r.slot) }) ∧
        Frame [.que, .ext] s u ∧ t = s.quiet.settle (u.completeOp s.que.nextOp stOk 0#64 0#16)))) ∧
  (∀ (q : Qp) (h : Nat) (x : QPair) (d : Held) (s : State), s.live = true → s.nextHeld q h 0x43#8 x d →
    (descClean d.desc [(16, 8)] = false → ∃ t, exec (.snapPublish q h) s = .next t ∧ descEnded t q h d.desc stBadDesc ∧ Frame [.que] s t) ∧
    (∀ st, descClean d.desc [(16, 8)] = true → s.snapTarget x (d.desc.extractLsb' 128 64) true = .error st →
      ∃ t, exec (.snapPublish q h) s = .next t ∧ descEnded t q h d.desc st ∧ Frame [.que] s t) ∧
    (∀ e y sn, descClean d.desc [(16, 8)] = true → s.snapTarget x (d.desc.extractLsb' 128 64) true = .ok (e, y, sn) →
      (∀ c, sn.pubs = [] → chooseSlot sn = some c → ∃ t o, exec (.snapPublish q h) s = .next t ∧ t.op s.que.nextOp = some o ∧
        o.desc = d.desc ∧ t.extent e = some { y with snap := some { sn with pubs := [⟨s.que.nextOp, some c, []⟩] } } ∧
        Frame [.que, .ext] s t) ∧
      (∀ p rest, sn.pubs = p :: rest → p.chosen.isSome = true → ∃ t o, exec (.snapPublish q h) s = .next t ∧
        t.op s.que.nextOp = some o ∧ o.desc = d.desc ∧
        t.extent e = some { y with snap := some { sn with pubs := p :: rest ++ [⟨s.que.nextOp, none, []⟩] } } ∧ Frame [.que, .ext] s t))) ∧
  (∀ sn : Snap, (∀ k, snapFind sn .empty = some k → chooseSlot sn = some (k, false)) ∧
    (∀ k, snapFind sn .empty = none → snapFind sn .latest = some k → (mget VSlot.reset sn.slots k).opens = 0 →
      chooseSlot sn = some (k, true)) ∧
    (∀ k, snapFind sn .empty = none → snapFind sn .latest = some k → (mget VSlot.reset sn.slots k).opens ≠ 0 → chooseSlot sn = none)) ∧
  (∀ (s : State) (e f : Nat) (y : Extent) (sn : Snap) (p : Publication), s.extent e = some y → y.snap = some sn → sn.pubs = [p] →
    p.chosen = none → chooseSlot sn = none →
    ∃ u, u.extent e = some { y with snap := some { sn with pubs := [] } } ∧ Frame [.ext] s u ∧
      s.startPub e (f + 1) = (u.completeOp p.op stVersionsFull 0#64 0#16).startPub e f) ∧
  (∀ (e : ExtId) (x : Extent) (sn : Snap) (p : Publication) (rest : List Publication) (w l k : Nat) (b : Bool) (s : State), s.live = true →
    s.extent e.toNat = some x → x.snap = some sn → sn.pubs = p :: rest → snapFind sn .write = some w → snapFind sn .latest = some l →
    p.chosen = some (k, b) →
    (p.switched.length ≠ 6 ∨ sn.waits.all (fun y => y.newVersion) = false ∨ sn.copies.any (fun c => c.slot == w) = true ∨
        s.atomicsInto e.toNat w = true →
      ∃ t, exec (.snapPublicationPoint e) s = .next t ∧ Frame [] s t) ∧
    (p.switched.length = 6 → sn.waits.all (fun y => y.newVersion) = true → sn.copies.any (fun c => c.slot == w) = false →
      s.atomicsInto e.toNat w = false → rest = [] → sn.opens = [] →
      ∃ t u, exec (.snapPublicationPoint e) s = .next t ∧
        u.extent e.toNat = some { x with snap := some { publishSlots x sn w l k with pubs := [], opens := [] } } ∧ Frame [.ext] s u ∧
        t = s.quiet.settle (((u.completeOp p.op (((s.op p.op).bind (fun o => o.ending)).getD stOk)
          (BitVec.ofNat 64 (mget VSlot.reset (publishSlots x sn w l k).slots w).version) 0#16).resumeWaits e.toNat
          (fun y => y.newVersion)).startPub e.toNat 1))) ∧
  (∀ (x : Extent) (sn : Snap) (w l k : Nat), k ≠ w → l ≠ w →
    (mget VSlot.reset (publishSlots x sn w l k).slots k).state = .write ∧
    (mget VSlot.reset (publishSlots x sn w l k).slots k).version = (mget VSlot.reset sn.slots w).version + 1 ∧
    (keysRise sn.slots = true → (mget VSlot.reset (publishSlots x sn w l k).slots w).state = .latest)) ∧
  (∀ (e : ExtId) (leaf : Nat) (x : Extent) (sn : Snap) (s : State), s.live = true → s.extent e.toNat = some x → x.snap = some sn →
    (copySlot sn leaf = none → ∃ t, exec (.snapCowStart e leaf) s = .next t ∧ Frame [] s t) ∧
    (∀ k q, copySlot sn leaf = some k → freeLeaf x sn = some q →
      (16 ≤ s.copiesActive → ∃ t, exec (.snapCowStart e leaf) s = .next t ∧ Frame [] s t) ∧
      (s.copiesActive < 16 →
        ∃ t z, exec (.snapCowStart e leaf) s = .next t ∧ t.extent e.toNat = some { x with snap := some z } ∧
          z.copies = sn.copies ++ [⟨leaf, snapShown sn k leaf, q, k⟩] ∧ z.ledgerTaken = sn.ledgerTaken + 1 ∧ z.slots = sn.slots ∧
          z.maps = sn.maps ∧ z.waits = sn.waits ∧ Frame [.ext] s t)) ∧
    (∀ c, sn.copies.find? (fun c => c.leaf == leaf) = some c →
      ∃ t u z, exec (.snapCowDone e leaf) s = .next t ∧ u.extent e.toNat = some { x with snap := some z } ∧
        snapLeaf z c.slot leaf = c.dst ∧ z.copies = sn.copies.erase c ∧ z.waits = sn.waits ∧ Frame [.ext, .mem, .ctr, .ras, .serial] s u ∧
        t = s.quiet.settle (u.resumeWaits e.toNat (fun y => y.leaf == leaf && (snapFind sn .write == some c.slot || y.newVersion))))) ∧
  (∀ (sn : Snap) (leaf w : Nat), snapFind sn .write = some w → sn.copies.any (fun c => c.leaf == leaf) = false →
    sn.waits.any (fun y => y.leaf == leaf && !y.newVersion && y.ip.pkt.opc == 0x81#8) = true → needsCopy sn w leaf = true →
    copySlot sn leaf = some w)
/-! ### Coherence (spec/09) -/

/-- R306 and R331: the agent table. -/
def Obligations.AgentsAreRegistered : Prop :=
  (∀ (ep : Ep) (s : State), s.live = true →
    ((List.range 1024).find? (fun a => (tget s.coh.agents a).isNone) = none →
      ∃ t, exec (.cohAgentAdd ep) s = .next t ∧ answered t 0x10#8 6 [] ∧ Frame [.sec] s t) ∧
    (∀ a, (List.range 1024).find? (fun a => (tget s.coh.agents a).isNone) = some a →
      ((s.agentIx ep).isSome = true → ∃ t, exec (.cohAgentAdd ep) s = .next t ∧ answered t 0x10#8 3 [] ∧ Frame [.sec] s t) ∧
      (s.agentIx ep = none → ∃ t, exec (.cohAgentAdd ep) s = .next t ∧ answered t 0x10#8 0 (natBytes 2 a) ∧
        tget t.coh.agents a = some ⟨ep, false⟩ ∧ tget s.coh.agents a = none ∧ (∀ b, b < a → tget s.coh.agents b ≠ none) ∧
        Frame [.coh, .sec] s t))) ∧
  (∀ (ep : Ep) (s : State), s.live = true → s.agentIx ep = none →
    (∃ t, exec (.cohAgentRemove ep) s = .next t ∧ answered t 0x11#8 7 [] ∧ Frame [.sec] s t) ∧
    (∃ t, exec (.cohDeclareDead ep) s = .next t ∧ answered t 0x12#8 7 [] ∧ Frame [.sec] s t) ∧
    (∃ t, exec (.cohAgentQuery ep) s = .next t ∧ answered t 0x13#8 7 [] ∧ Frame [.sec] s t) ∧
    (∃ t, exec (.deadAgentSweepDone ep) s = .next t ∧ Frame [] s t)) ∧
  (∀ (ep : Ep) (a : Nat) (s : State), s.live = true → s.agentIx ep = some a →
    (∃ t, exec (.cohAgentRemove ep) s = .next t ∧ t = s.quiet.settle ((s.quiet.startRecall
      ⟨some a, none, (s.dirLines.filter (fun l => mayHold l.2 a)).map Prod.fst⟩).settleRecalls)) ∧
    (s.coh.recalls = [] → s.agentBusy a = false → (∀ l, l ∈ s.dirLines → mayHold l.2 a = false) →
      ∃ t, exec (.cohAgentRemove ep) s = .next t ∧ answered t 0x11#8 0 [] ∧ tget t.coh.agents a = none ∧ Frame [.coh, .sec] s t) ∧
    (s.agentDead a = false → s.ext.records = [] → s.coh.queues = [] → s.coh.txns = [] → (∃ x, tget s.coh.agents a = some x ∧ x.ep = ep) →
      ∃ t x, exec (.cohDeclareDead ep) s = .next t ∧ answered t 0x12#8 0 [] ∧ tget t.coh.agents a = some x ∧ x.ep = ep ∧
        x.dead = true ∧ tget t.coh.sweeps a = some 0 ∧ Frame [.coh, .sec] s t) ∧
    (∃ t bs, exec (.cohAgentQuery ep) s = .next t ∧ answered t 0x13#8 0 bs ∧ bs.length = 20 ∧
      bs.take 4 = natBytes 2 a ++ [if s.agentDead a then 1#8 else 0#8, 0#8] ∧
      (bs.drop 4).take 4 = natBytes 4 (s.dirLines.filter (fun l => l.2 == .sPtr a)).length ∧ Frame [.sec] s t) ∧
    (∀ n, tget s.coh.sweeps a = some n → ∃ t, exec (.deadAgentSweepDone ep) s = .next t ∧ tget t.coh.sweeps a = none ∧
      reported t 0x09 0x01 2 (unitSlice 0) ∧ Frame [.coh, .mem, .ctr, .ras, .serial, .sec] s t))

/-- R307 to R323: how the home serves RD_SHARED, RD_OWN, CLAIM, RD_ONCE, WR_LINE, ATOMIC, WB_DIRTY and EVICT_CLEAN. -/
def Obligations.HomeServesRequests : Prop :=
  (∀ (i : Nat) (ip : InPkt) (c : Instr) (s : State), s.live = true → s.rtr.inbox[i]? = some ip →
    (c, ip.pkt.opc) ∈ ([(.rdShared i, 0x01#8), (.rdOwn i, 0x02#8), (.claim i, 0x03#8), (.rdOnce i, 0x04#8), (.wrLine i, 0x05#8),
      (.atomic i, 0x06#8), (.wbDirty i, 0x07#8), (.evictClean i, 0x08#8)] : List (Instr × BitVec 8)) →
    let p := ip.pkt
    let line := fgaPpa p.addr / 64
    let full : Prop := 1024 ≤ s.sliceActive (ppaSlice (fgaPpa p.addr)) ∨ 4096 ≤ s.sliceWaiting (ppaSlice (fgaPpa p.addr))
    let taken : State := { s.quiet with rtr := { s.rtr with inbox := s.rtr.inbox.eraseIdx i } }
    let late : Prop := p.opc = 0x07#8 ∧ s.snoopOut line p.src = true
    (full ∨ (s.behind i ip = true ∧ ¬ late) → ∃ t, exec c s = .next t ∧ Frame [] s t) ∧
    (¬ full → s.behind i ip = false ∨ late →
      (∀ a, s.agentIx p.src = some a → s.agentDead a = true → ∃ t, exec c s = .next t ∧ t.rtr = taken.rtr ∧
        (s.counter (ctrCoh 10) < ctrMax → t.counter (ctrCoh 10) = s.counter (ctrCoh 10) + 1) ∧
        Frame [.rtr, .ctr, .ras, .serial] s t) ∧
      (s.agentIx p.src = none → (p.opc = 0x01#8 ∨ p.opc = 0x02#8 ∨ p.opc = 0x03#8 ∨ p.opc = 0x07#8 ∨ p.opc = 0x08#8) →
        ∃ t, exec c s = .next t ∧ t = s.quiet.settle (taken.refuse p p.src stNotAgent)) ∧
      ((∃ a, s.agentIx p.src = some a ∧ s.agentDead a = false ∧ (p.opc = 0x07#8 → s.snoopOut line p.src = false)) ∨
        (s.agentIx p.src = none ∧ (p.opc = 0x04#8 ∨ p.opc = 0x05#8 ∨ p.opc = 0x06#8)) →
        (s.tenantGone p.tenant = true → ∃ t, exec c s = .next t ∧ t = s.quiet.settle (taken.refuse p p.src stTenantGone)) ∧
        (∀ st s1, s.tenantGone p.tenant = false → taken.takeAccess (cohAccess ip) p.addr (fgaPpa p.addr + 64) = (.error st, s1) →
          ∃ t, exec c s = .next t ∧ t = s.quiet.settle (s1.refuse p p.src st)) ∧
        (∀ k s1, s.tenantGone p.tenant = false → taken.takeAccess (cohAccess ip) p.addr (fgaPpa p.addr + 64) = (.ok k, s1) →
          ∃ t, exec c s = .next t ∧ mget [] t.coh.queues line = mget [] s.coh.queues line ++
            [{ ep := p.src, pkt := p, port := ip.port, ext := k.ext, slice := k.slice, far := none, vslot := k.vslot }] ∧ t.rtr = taken.rtr ∧
            Frame [.rtr, .coh, .ext] s t)) ∧
      (∀ a, s.agentIx p.src = some a → s.agentDead a = false → p.opc = 0x07#8 → s.snoopOut line p.src = true →
        ∃ t, exec c s = .next t ∧ t = s.quiet.settle (taken.takeLate line p p.src)))) ∧
  (∀ (l : BitVec 34) (s : State), s.live = true →
    (∀ x, s.txn l.toNat = some x → (∀ r a, ¬ (x.kind = .request r ∧ x.phase = .stashed a)) →
      ∃ t, exec (.homeOrder l) s = .next t ∧ Frame [] s t) ∧
    (∀ x r a, s.txn l.toNat = some x → x.kind = .request r → x.phase = .stashed a →
      ∃ t, exec (.homeOrder l) s = .next t ∧ t = s.quiet.settle (s.quiet.recordStash l.toNat r a)) ∧
    (∀ w, s.txn l.toNat = none → s.recallFor l.toNat = some w →
      ∃ t, exec (.homeOrder l) s = .next t ∧ t = s.quiet.settle (s.quiet.recallLine l.toNat w.agent)) ∧
    (∀ r rest, s.txn l.toNat = none → s.recallFor l.toNat = none → mget [] s.coh.queues l.toNat = r :: rest →
      s.sliceActive (ppaSlice (l.toNat * 64)) < 1024 →
      ∃ t u, exec (.homeOrder l) s = .next t ∧ mget [] u.coh.queues l.toNat = rest ∧ u.coh.txns = s.coh.txns ∧ Frame [.coh] s u ∧
        t = s.quiet.settle ((u.order l.toNat r (!rest.isEmpty)).takeWaiting l.toNat))) ∧
  (∀ (u : State) (line : Nat) (r : CReq) (others : Bool),
    (∀ a, u.dirLine line = .sPtr a ∨ u.dirLine line = .e a ∨ u.dirLine line = .m a → u.agentDead a = false) →
    (agentOnly r.pkt.opc = true → u.agentIx r.ep = none → u.order line r others = (u.refuse r.pkt r.ep stNotAgent).retire r) ∧
    ((agentOnly r.pkt.opc = true → (u.agentIx r.ep).isSome = true) →
    (r.pkt.opc = 0x07#8 → ∀ a, u.dirLine line = .m a → u.agentIx r.ep = some a → u.order line r others =
      (((u.storeData line (pktData r.pkt)).setDir line .i).answer r.pkt r.ep 0x46#8 stOk false none).retire r) ∧
    (r.pkt.opc = 0x07#8 → (∀ a, u.agentIx r.ep = some a → u.dirLine line ≠ .m a) → u.order line r others =
      ((u.answer r.pkt r.ep 0x48#8 stOk false none).tally (ctrCoh 3)).retire r) ∧
    (r.pkt.opc = 0x08#8 → ∀ a, u.agentIx r.ep = some a →
      (u.dirLine line = .sPtr a ∨ u.dirLine line = .e a → u.order line r others = (u.setDir line .i).retire r) ∧
      ((∀ b, u.dirLine line = .sPtr b ∨ u.dirLine line = .e b → b ≠ a) → u.order line r others = u.retire r)) ∧
    ((r.pkt.opc = 0x01#8 ∨ r.pkt.opc = 0x02#8 ∨ r.pkt.opc = 0x03#8 ∨ r.pkt.opc = 0x04#8 ∨ r.pkt.opc = 0x05#8) →
      (∀ a, u.dirLine line = .m a → u.agentIx r.ep = some a → u.order line r others = u.refuseProtocol line r) ∧
      ((∀ a, u.agentIx r.ep = some a → u.dirLine line ≠ .m a) →
        (needsEntry r = true → ∀ w, u.dirRoom line = .victim w → ∃ v, u.order line r others = v.takeVictim (dirSet line) w ∧
          mget [] v.coh.queues line = r :: mget [] u.coh.queues line ∧ Frame [.coh] u v) ∧
        (needsEntry r = false ∨ (∃ w, u.dirRoom line = .entry w ∨ u.dirRoom line = .free w) →
          (r.pkt.opc = 0x02#8 ∨ r.pkt.opc = 0x03#8 ∨ r.pkt.opc = 0x05#8 → u.order line r others =
            u.startTxn line (.request r) 0x20#8 (u.holders (u.dirLine line) (u.agentIx r.ep))) ∧
          (r.pkt.opc = 0x01#8 → ∀ o, u.dirLine line = .m o ∨ u.dirLine line = .e o → u.agentIx r.ep ≠ some o → u.order line r others =
            u.startTxn line (.request r) 0x21#8 [o]) ∧
          (r.pkt.opc = 0x01#8 → (∀ o, u.dirLine line ≠ .m o ∧ u.dirLine line ≠ .e o) → u.order line r others =
            u.startTxn line (.request r) 0x21#8 []) ∧
          (r.pkt.opc = 0x04#8 → ∀ o, u.dirLine line = .m o → u.order line r others = u.startTxn line (.request r) 0x22#8 [o]) ∧
          (r.pkt.opc = 0x04#8 → (∀ o, u.dirLine line ≠ .m o) → u.order line r others = u.startTxn line (.request r) 0x22#8 [])))))) ∧
  (∀ (u v : State) (line q : Nat) (r : CReq) (x : Txn) (y : Line × Bool), u.agentIx r.ep = some q → u.readHome line = (y, v) →
    (r.pkt.opc = 0x01#8 →
      (x.data = none → u.dirLine line = .i → u.mayWrite line r.ep = true →
        u.complete line r x = v.grant line r (.e q) 0x41#8 false (some y)) ∧
      (x.data = none → u.dirLine line = .i → u.mayWrite line r.ep = false →
        u.complete line r x = v.grant line r (.sPtr q) 0x40#8 false (some y)) ∧
      (∀ d, x.data = none → u.dirLine line = d → (∃ a, d = .sPtr a) ∨ (∃ v, d = .sVec v) →
        u.complete line r x = v.grant line r (addSharer d q) 0x40#8 false (some y)) ∧
      (∀ o, x.data = none → u.dirLine line = .e o → o ≠ q →
        (x.kept = some o → u.complete line r x = v.grant line r (addSharer (.sPtr o) q) 0x40#8 false (some y)) ∧
        (x.kept = none → u.complete line r x = v.grant line r (.sPtr q) 0x40#8 false (some y))) ∧
      (∀ o d, x.data = some d → x.kept = some o → u.complete line r x =
        (u.storeData line d).grant line r (addSharer (.sPtr o) q) 0x40#8 false (some d))) ∧
    (r.pkt.opc = 0x02#8 →
      (x.data = none → u.complete line r x = v.grant line r (.m q) 0x42#8 false (some y)) ∧
      (∀ d, x.data = some d → u.complete line r x = u.grant line r (.m q) 0x42#8 false (some d))) ∧
    (r.pkt.opc = 0x03#8 → u.dirLine line = .sPtr q → u.complete line r x = u.grant line r (.m q) 0x44#8 false none) ∧
    (r.pkt.opc = 0x03#8 → u.dirLine line = .i → x.data = none →
      u.complete line r x = v.grant line r (.m q) 0x42#8 false (some y)) ∧
    (r.pkt.opc = 0x04#8 → x.data = none → u.complete line r x =
      (v.answer r.pkt r.ep 0x43#8 stOk false (some y)).endReq line r) ∧
    (r.pkt.opc = 0x05#8 → x.data = none → u.complete line r x = ((((u.storeHome line r.pkt.aux (lineOfUnits r.pkt.payload)).setDir line
      .i).answer r.pkt r.ep 0x45#8 stOk false none).stash line r)) ∧
    (r.pkt.opc = 0x05#8 → ∀ d, x.data = some (d, false) → u.complete line r x = ((((u.storeHome line allEnables
      (mergeLine d r.pkt.aux (lineOfUnits r.pkt.payload))).setDir line .i).answer r.pkt r.ep 0x45#8 stOk false none).stash line r)))

/-- R313 to R331. -/
def Obligations.HomeTakesAnswers : Prop :=
  (∀ (i : Nat) (ip : InPkt) (c : Instr) (kept has : Bool) (x : Txn) (sn : Snoop) (s : State), s.live = true →
    s.rtr.inbox[i]? = some ip →
    (c, ip.pkt.opc, kept, has) ∈ ([(.snpRspI i, 0x60#8, false, false), (.snpRspS i, 0x61#8, true, false),
      (.snpRspDataI i, 0x62#8, false, true), (.snpRspDataS i, 0x63#8, true, true), (.snpRspDataM i, 0x64#8, false, true)] :
      List (Instr × BitVec 8 × Bool × Bool)) →
    s.behind i ip = false → s.fromDead ip.pkt.src = false → s.awaitsWb (fgaPpa ip.pkt.addr / 64) ip.pkt.src = false →
    s.txn (fgaPpa ip.pkt.addr / 64) = some x → x.snoops.find? (fun y => y.ep == ip.pkt.src) = some sn →
    (has = true ∨ s.dirLine (fgaPpa ip.pkt.addr / 64) ≠ .m sn.agent →
      ∃ t u, exec c s = .next t ∧ t = s.quiet.settle (u.advance (fgaPpa ip.pkt.addr / 64)) ∧
        u.txn (fgaPpa ip.pkt.addr / 64) = some { x with
          snoops := x.snoops.filter (fun y => y.ep != ip.pkt.src), kept := if kept then some sn.agent else x.kept,
          data := if has then some (pktData ip.pkt) else x.data } ∧
        u.rtr = { s.rtr with inbox := s.rtr.inbox.eraseIdx i } ∧ Frame [.rtr, .coh] s u) ∧
    (has = false → s.dirLine (fgaPpa ip.pkt.addr / 64) = .m sn.agent →
      ∃ t u, exec c s = .next t ∧ t = s.quiet.settle (u.advance (fgaPpa ip.pkt.addr / 64)) ∧
        reported u 0x09 0x03 1 (unitSlice (ppaSlice (fgaPpa ip.pkt.addr / 64 * 64))) ∧
        (∃ y, u.txn (fgaPpa ip.pkt.addr / 64) = some y ∧ y.snoops = x.snoops.filter (fun y => y.ep != ip.pkt.src) ∧
          y.data = some (0#512, true)) ∧
        Frame [.rtr, .coh, .mem, .ras, .ctr, .serial] s u)) ∧
  (∀ (i : Nat) (ip : InPkt) (c : Instr) (s : State), s.live = true → s.rtr.inbox[i]? = some ip → s.behind i ip = false →
    s.fromDead ip.pkt.src = true →
    (c, ip.pkt.opc) ∈ ([(.snpRspI i, 0x60#8), (.snpRspS i, 0x61#8), (.snpRspDataI i, 0x62#8), (.snpRspDataS i, 0x63#8),
      (.snpRspDataM i, 0x64#8), (.snpRspWb i, 0x65#8), (.stashAccept i, 0x66#8), (.stashDecline i, 0x67#8), (.grantAck i, 0x68#8)] :
      List (Instr × BitVec 8)) →
    ∃ t, exec c s = .next t ∧ t.rtr = { s.rtr with inbox := s.rtr.inbox.eraseIdx i } ∧
      (s.counter (ctrCoh 10) < ctrMax → t.counter (ctrCoh 10) = s.counter (ctrCoh 10) + 1) ∧ Frame [.rtr, .ctr, .ras, .serial] s t) ∧
  (∀ (i : Nat) (ip : InPkt) (x : Txn) (s : State), s.live = true → s.rtr.inbox[i]? = some ip → s.behind i ip = false →
    s.fromDead ip.pkt.src = false →
    s.txn (fgaPpa ip.pkt.addr / 64) = some x →
    (ip.pkt.opc = 0x65#8 → ∃ t, exec (.snpRspWb i) s = .next t ∧ t.txn (fgaPpa ip.pkt.addr / 64) = some { x with
      snoops := x.snoops.map (fun y => if y.ep == ip.pkt.src then { y with wbAwaited := true } else y) } ∧ Frame [.rtr, .coh] s t) ∧
    (∀ r a, x.kind = .request r → x.phase = .stashing ip.pkt.src a →
      (ip.pkt.opc = 0x66#8 → ∃ t u, exec (.stashAccept i) s = .next t ∧ Frame [.rtr] s u ∧
        t = s.quiet.settle (u.recordStash (fgaPpa ip.pkt.addr / 64) r a) ∧
        (∀ w, s.dirRoom (fgaPpa ip.pkt.addr / 64) = .entry w ∨ s.dirRoom (fgaPpa ip.pkt.addr / 64) = .free w →
          t = s.quiet.settle (((u.setDir (fgaPpa ip.pkt.addr / 64) (.sPtr a)).endReq (fgaPpa ip.pkt.addr / 64) r).tally (ctrCoh 6)) ∧
          t.txn (fgaPpa ip.pkt.addr / 64) = none)) ∧
      (ip.pkt.opc = 0x67#8 → ∃ t, exec (.stashDecline i) s = .next t ∧ t.txn (fgaPpa ip.pkt.addr / 64) = none ∧
        t.coh.dir = s.coh.dir ∧ Frame [.rtr, .coh, .ext, .ctr, .ras, .serial, .sec] s t)) ∧
    (∀ r, x.kind = .request r → x.phase = .granting ip.pkt.src → ip.pkt.opc = 0x68#8 →
      ∃ t, exec (.grantAck i) s = .next t ∧ t.txn (fgaPpa ip.pkt.addr / 64) = none ∧ t.coh.dir = s.coh.dir ∧
        Frame [.rtr, .coh, .ext, .sec] s t)) ∧
  (∀ (l : BitVec 34) (s : State), s.live = true →
    (s.coh.recover.contains l.toNat = false ∨ (s.txn l.toNat).isSome = true → ∃ t, exec (.poisonRecovery l) s = .next t ∧ Frame [] s t) ∧
    (s.coh.recover.contains l.toNat = true → s.txn l.toNat = none →
      (∀ a, s.dirLine l.toNat = .sPtr a ∨ s.dirLine l.toNat = .e a → s.agentDead a = false → ∃ t u, exec (.poisonRecovery l) s = .next t ∧
        u.coh.recover = s.coh.recover.erase l.toNat ∧ u.coh.dir = s.coh.dir ∧ Frame [.coh] s u ∧
        t = s.quiet.settle ((u.startTxn l.toNat .recovery 0x24#8 [a]).takeWaiting l.toNat)) ∧
      (∀ v, s.dirLine l.toNat = .sVec v → ∃ t u, exec (.poisonRecovery l) s = .next t ∧
        u.coh.recover = s.coh.recover.erase l.toNat ∧ u.coh.dir = s.coh.dir ∧ Frame [.coh] s u ∧
        t = s.quiet.settle ((u.startTxn l.toNat .poisonInv 0x20#8 (s.holders (.sVec v) none)).takeWaiting l.toNat)))) ∧
  (∀ (l : BitVec 34) (ep : Ep) (s : State), s.live = true →
    (s.awaits l.toNat ep = false → ∃ t, exec (.snoopTimeout l ep) s = .next t ∧ Frame [] s t) ∧
    (s.awaits l.toNat ep = true → ∃ t u, exec (.snoopTimeout l ep) s = .next t ∧
      reported u 0x09 0x02 1 (unitSlice (ppaSlice (l.toNat * 64))) ∧ Frame [.ras, .ctr, .serial] s u ∧
      t = s.quiet.settle (u.declareDead ep)))
/-! ### Links (spec/10) -/

/-- R340 to R355: the link layer's two halves. -/
def Obligations.LinksReceiveAndSend : Prop :=
  (∀ (p : LinkPort) (errs : List Nat) (s : State), s.live = true →
    ((s.link p).state ≠ .active → idles (.fecCodewordReceive p errs) s) ∧
    ((s.link p).state = .active → 15 < ((laneErrors s p errs).map (fun e => e.2)).sum → ∃ t, exec (.fecCodewordReceive p errs) s = .next t ∧
      t.link p = { s.link p with uncorrRun := (s.link p).uncorrRun + 1 } ∧ Frame [.links, .ctr, .ras, .serial] s t) ∧
    ((s.link p).state = .active → ((laneErrors s p errs).map (fun e => e.2)).sum ≤ 15 → keysRise (s.link p).corrTick = true →
      ∃ t, exec (.fecCodewordReceive p errs) s = .next t ∧ (t.link p).uncorrRun = 0 ∧ (t.link p).state = .active ∧
        (∀ i, i < 8 → mget 0 (t.link p).corrTick i =
          mget 0 (s.link p).corrTick i + if (s.link p).lanes.getLsbD i then errs.getD i 0 else 0) ∧
        Frame [.links, .ctr, .ras, .serial] s t)) ∧
  (∀ (p : LinkPort) (s : State), s.live = true →
    ((s.link p).state = .active → 8 ≤ (s.link p).uncorrRun → retrains p (.uncorrBurst p) s) ∧
    ((s.link p).uncorrRun < 8 → idles (.uncorrBurst p) s)) ∧
  (∀ (p : LinkPort) (k : Fin 8) (s : State), s.live = true → (s.link p).state = .active → (s.link p).lanes.getLsbD k.val = true →
    (s.link p).degraded.getLsbD k.val = false → (s.link p).degTicks.toNat ≤ mget 0 (s.link p).corrRun k.val →
    ∃ t, exec (.laneDegraded p k) s = .next t ∧ (t.link p).degraded = (s.link p).degraded ||| (1#8 <<< k.val) ∧
      reported t 0x04 0x04 0 (unitPort p) ∧ Frame [.links, .ctr, .ras, .serial] s t) ∧
  (∀ (p : LinkPort) (f : BitVec 2048) (corrupt : Bool) (s : State), s.live = true →
    let l := s.link p
    let seq : BitVec 12 := BitVec.ofNat 12 (flitField f 2 12)
    let v := flitField f 28 2
    (l.state ≠ .active → ∃ t, exec (.flitReceive p f corrupt) s = .next t ∧ t = s.quiet.settle s.quiet.settleSends) ∧
    (l.state = .active → corrupt = true ∨ flitCrc f ≠ BitVec.ofNat 32 (flitField f 2016 32) →
      ∃ t u, exec (.flitReceive p f corrupt) s = .next t ∧ t = s.quiet.settle u.settleSends ∧ (u.link p).rx.waiting = true ∧
        (l.rx.waiting = false → (u.link p).rx.nakDue = true) ∧ (u.link p).rx.expected = l.rx.expected ∧
        (u.link p).tx = l.tx ∧ Frame [.links, .ctr, .ras, .serial] s u) ∧
    (l.state = .active → corrupt = false → flitCrc f = BitVec.ofNat 32 (flitField f 2016 32) → flitField f 90 2 ≠ l.epoch.toNat →
      ∃ t u, exec (.flitReceive p f corrupt) s = .next t ∧ t = s.quiet.settle u.settleSends ∧ (u.link p).rx.expected = l.rx.expected ∧
        (u.link p).tx = l.tx ∧ (flitField f 0 2 ≤ 1 → (u.link p).rx.waiting = true) ∧ Frame [.links] s u) ∧
    (l.state = .active → corrupt = false → flitCrc f = BitVec.ofNat 32 (flitField f 2016 32) → flitField f 90 2 = l.epoch.toNat →
      (2 ≤ flitField f 0 2 → ∃ t u, exec (.flitReceive p f corrupt) s = .next t ∧ t = s.quiet.settle u.settleSends ∧
        u.link p = l.useState f ∧ Frame [.links] s u) ∧
      (flitField f 0 2 = 0 → seq = l.rx.expected → 0 < (l.rx.vc v).free →
        ∃ t u x, exec (.flitReceive p f corrupt) s = .next t ∧ t = s.quiet.settle u.settleSends ∧
          (u.link p).rx.expected = l.rx.expected + 1#12 ∧ (u.link p).rx.waiting = false ∧
          ((u.link p).rx.vc v).flits = (l.rx.vc v).flits ++ [x] ∧
          x.units = (List.range 15).map (fun i => f.extractLsb' (96 + 128 * i) 128) ∧ Frame [.links, .ctr, .ras, .serial] s u) ∧
      (flitField f 0 2 = 0 → seq = l.rx.expected → (l.rx.vc v).free = 0 →
        ∃ t u, exec (.flitReceive p f corrupt) s = .next t ∧ t = s.quiet.settle u.settleSends ∧ (u.link p).state = .lock ∧
          reported u 0x04 0x08 1 (unitPort p) ∧ reported u 0x04 0x01 0 (unitPort p) ∧ Frame [.links, .ctr, .ras, .serial] s u) ∧
      (flitField f 0 2 ≤ 1 → seq ≠ l.rx.expected → seqNewer seq l.rx.expected = true →
        ∃ t u, exec (.flitReceive p f corrupt) s = .next t ∧ t = s.quiet.settle u.settleSends ∧ (u.link p).rx.waiting = true ∧
          (u.link p).rx.expected = l.rx.expected ∧ Frame [.links, .ctr, .ras, .serial] s u) ∧
      (flitField f 0 2 ≤ 1 → seq ≠ l.rx.expected → seqNewer seq l.rx.expected = false →
        ∃ t u, exec (.flitReceive p f corrupt) s = .next t ∧ t = s.quiet.settle u.settleSends ∧ u.link p = l.useState f ∧
          Frame [.links] s u))) ∧
  (∀ (p : LinkPort) (vc : Option (Fin 4)) (s : State), s.live = true →
    let l := s.link p
    (l.state ≠ .active → idles (.flitTransmit p vc) s) ∧
    (l.state = .active → 0 < l.tx.resend → l.tx.resend ≤ l.tx.replay.length → ∃ t f, exec (.flitTransmit p vc) s = .next t ∧
      .flit p f ∈ t.out ∧ (t.link p).tx.resend = l.tx.resend - 1 ∧ (t.link p).tx.replay = l.tx.replay ∧
      (t.link p).tx.nextSeq = l.tx.nextSeq ∧ (t.link p).rx.nakDue = false ∧ Frame [.links, .ctr, .ras, .serial] s t) ∧
    (l.state = .active → l.tx.resend = 0 → 1024 ≤ l.tx.replay.length → ∃ t f, exec (.flitTransmit p vc) s = .next t ∧
      .flit p f ∈ t.out ∧ (t.link p).tx = { l.tx with sinceReplay := l.tx.sinceReplay + 1 } ∧
      Frame [.links, .ctr, .ras, .serial] s t) ∧
    (∀ pl more, l.state = .active → l.tx.resend = 0 → l.tx.replay.length < 1024 → l.tx.ctrls = pl :: more →
      ∃ t f k, exec (.flitTransmit p vc) s = .next t ∧ .flit p f ∈ t.out ∧ (t.link p).tx.replay = l.tx.replay ++ [k] ∧
        k.ctrl = true ∧ k.seq = l.tx.nextSeq ∧ k.payload = pl ∧ (t.link p).tx.nextSeq = l.tx.nextSeq + 1#12 ∧
        (t.link p).tx.ctrls = more ∧ Frame [.links, .ctr, .ras, .serial] s t) ∧
    (l.state = .active → l.tx.resend = 0 → l.tx.replay.length < 1024 → l.tx.ctrls = [] →
      (l.tx.cur = none → vc = none → ∃ t f, exec (.flitTransmit p vc) s = .next t ∧ .flit p f ∈ t.out ∧
        (t.link p).tx.replay = l.tx.replay ∧ (t.link p).tx.nextSeq = l.tx.nextSeq ∧ Frame [.links, .ctr, .ras, .serial] s t) ∧
      (∀ v, l.tx.cur = some v ∨ (l.tx.cur = none ∧ vc.map (fun x => x.val) = some v) →
        (fillUnits (l.tx.pauseSeen.getLsbD v) 16 15 (mget [] l.tx.queues v) l.tx.credit).1 ≠ [] →
        ∃ t f k, exec (.flitTransmit p vc) s = .next t ∧ .flit p f ∈ t.out ∧ (t.link p).tx.replay = l.tx.replay ++ [k] ∧
          k.ctrl = false ∧ k.seq = l.tx.nextSeq ∧ k.vc = BitVec.ofNat 2 v ∧ k.tick = s.tide.count.setWidth 4 ∧
          k.vcSent = mget 0#12 l.tx.vcSent v + 1#12 ∧ (t.link p).tx.nextSeq = l.tx.nextSeq + 1#12 ∧
          mget [] (t.link p).tx.queues v = (fillUnits (l.tx.pauseSeen.getLsbD v) 16 15 (mget [] l.tx.queues v) l.tx.credit).2.2.1 ∧
          Frame [.links, .ctr, .ras, .serial] s t))) ∧
  (∀ (p : LinkPort) (s : State), s.live = true →
    ((s.link p).state = .active → (s.link p).rx.waiting = true → ∃ t, exec (.nakRetryTimeout p) s = .next t ∧
      (t.link p).rx.nakDue = true ∧ Frame [.links, .ctr, .ras, .serial] s t) ∧
    ((s.link p).state ≠ .active ∨ (s.link p).rx.waiting = false → idles (.nakRetryTimeout p) s) ∧
    ((s.link p).state = .active → (s.link p).tx.replay ≠ [] → ∃ t, exec (.replayTimeout p) s = .next t ∧
      (t.link p).tx.resend = (s.link p).tx.replay.length ∧ (t.link p).tx.replay = (s.link p).tx.replay ∧ Frame [.links] s t) ∧
    ((s.link p).state ≠ .active ∨ (s.link p).tx.replay = [] → idles (.replayTimeout p) s) ∧
    ((s.link p).state = .active → (s.link p).tx.replayCount ≠ 0 → (s.link p).replayMax.toNat ≤ (s.link p).tx.replayCount →
      retrains p (.replayMaxExceeded p) s) ∧
    ((s.link p).tx.replayCount = 0 ∨ (s.link p).tx.replayCount < (s.link p).replayMax.toNat → idles (.replayMaxExceeded p) s))

/-- R361 to R371: from DETECT to ACTIVE and back. -/
def Obligations.LinksTrainAndChange : Prop :=
  (∀ (l : Link) (pl : Bool) (k : Fin 8) (b : Line) (skew : Nat),
    let put (polarity : BitVec 8) : Link :=
      { l with polarity := polarity, reversed := decide (descField b 9 1 % 4 ≠ k.val % 4),
               skewed := if skew ≤ 64 then l.skewed &&& ~~~(1#8 <<< k.val) else l.skewed ||| (1#8 <<< k.val) }
    (isTraining b = true → (pl = true ∨ k.val < 4) → (descField b 9 1 % 4 = k.val % 4 ∨ descField b 9 1 % 4 = 3 - k.val % 4) →
      l.alignBlock pl k.val b skew = some (b, put (l.polarity &&& ~~~(1#8 <<< k.val))) ∧
      l.alignBlock pl k.val (b ^^^ BitVec.allOnes 512) skew = some (b, put (l.polarity ||| (1#8 <<< k.val)))) ∧
    (isTraining b = false → isTraining (b ^^^ BitVec.allOnes 512) = false → l.alignBlock pl k.val b skew = none)) ∧
  (∀ (p : LinkPort) (k : Fin 8) (raw : Line) (skew : Nat) (good : BitVec 8) (rtt : Nat) (s : State), s.live = true →
    let c : Instr := .trainingBlockReceive p ⟨k, raw, skew⟩ good rtt
    (s.portTrains p = false ∨ (s.link p).state = .disabled ∨ (s.link p).alignBlock (isPl p) k.val raw skew = none → idles c s) ∧
    (∀ b l, s.portTrains p = true → (s.link p).state ≠ .disabled → (s.link p).alignBlock (isPl p) k.val raw skew = some (b, l) →
      let mine := l.orderLanes (isPl p) (good &&& ~~~l.skewed)
      let nib := BitVec.ofNat 8 (descField b 14 1 % 16)
      let both := mine &&& (if isPl p then nib ||| (nib <<< 4) else nib)
      let ident : W64 := b.extractLsb' 128 64
      let rttM := BitVec.ofNat 12 (min rtt (if isPl p then 4080 else 4095))
      let h := headroom (max l.rttNs.toNat rttM.toNat) l.width
      (l.state = .detect → ∃ t x, exec c s = .next t ∧ t.link p = { l with state := .equalize } ∧
        .training p x ∈ t.out ∧ Frame [.links, .serial] s t) ∧
      (l.state = .equalize → mine ≠ 0#8 → ∃ t, exec c s = .next t ∧
        t.link p = { l with state := .lock, equalized := both } ∧ Frame [.links, .serial] s t) ∧
      (l.state = .lock → (portId p).toNat < ident.toNat → ∀ w lanes, chooseWidth (isPl p) both (l.wmax (isPl p)) = some (w, lanes) →
        ∃ t, exec c s = .next t ∧ t.link p = { l with state := .param, width := w, lanes := lanes } ∧
          Frame [.links, .serial] s t) ∧
      (l.state = .lock → ident.toNat ≤ (portId p).toNat → 4 ≤ descField b 8 1 →
        let wb := BitVec.ofNat 8 (descField b 15 1)
        let w := wb.extractLsb' 0 2
        ∃ t, exec c s = .next t ∧ t.link p = { l with state := .param, width := w, lanes := lanesOfByte w wb } ∧
          Frame [.links, .serial] s t) ∧
      (l.state = .param → ident = portId p → ∃ t, exec c s = .next t ∧ (t.link p).state = .detect ∧
        (t.link p).idConflict = true ∧ reported t 0x04 0x06 1 (unitPort p) ∧ Frame [.links, .ctr, .ras, .serial] s t) ∧
      (l.state = .param → ident ≠ portId p → (∃ v, v < 4 ∧ allocOf l.vcAlloc v < h + 32) →
        ∃ t, exec c s = .next t ∧ (t.link p).state = .detect ∧ (t.link p).allocShort = true ∧
          reported t 0x04 0x07 1 (unitPort p) ∧ Frame [.links, .ctr, .ras, .serial] s t) ∧
      (l.state = .param → ident ≠ portId p → (∀ v, v < 4 → h + 32 ≤ allocOf l.vcAlloc v) →
        (b.getLsbD 116 = false → l.peerParamDone = false → ∃ t, exec c s = .next t ∧ (t.link p).state = .param ∧
          (t.link p).paramDone = true ∧ Frame [.links, .serial] s t) ∧
        (b.getLsbD 116 = true → l.fresh = true → ∃ t, exec c s = .next t ∧
          (t.link p).state = .active ∧ (t.link p).epoch = 0#2 ∧ (t.link p).peerId = ident ∧ (t.link p).tx.replay = [] ∧
          (t.link p).tx.nextSeq = 0#12 ∧ (t.link p).rx.expected = 0#12 ∧ (t.link p).fresh = false ∧
          (t.link p).tx.peerInit = BitVec.ofNat 16 (descField b 26 2) ∧ reported t 0x04 0x02 0 (unitPort p) ∧
          Frame [.links, .ctr, .ras, .serial] s t) ∧
        (b.getLsbD 116 = true → l.fresh = false → ident = l.peerId → ∃ t, exec c s = .next t ∧
          (t.link p).state = .active ∧ (t.link p).epoch = l.epoch + 1#2 ∧ (t.link p).tx.resend = (t.link p).tx.replay.length ∧
          (t.link p).rx.expected = l.rx.expected ∧ (t.link p).tx.nextSeq = l.tx.nextSeq ∧ (t.link p).lossTimer = false ∧
          Frame [.links, .ctr, .ras, .serial] s t) ∧
        (b.getLsbD 116 = true → l.fresh = false → ident ≠ l.peerId → s.rtr.reqs = [] → s.rtr.routes = [] → s.fab.sends = [] →
          ∃ t, exec c s = .next t ∧ (t.link p).state = .active ∧ (t.link p).epoch = 0#2 ∧ (t.link p).peerId = ident ∧
            (t.link p).tx.replay = [] ∧ (t.link p).wentDown = true ∧ reported t 0x04 0x05 1 (unitPort p) ∧
            reported t 0x04 0x02 0 (unitPort p) ∧ Frame [.links, .rtr, .ctr, .ras, .serial, .que] s t)) ∧
      (l.state = .active → ∃ t, exec c s = .next t ∧ (t.link p).state = .lock ∧
        (t.link p).retraining = true ∧ reported t 0x04 0x01 0 (unitPort p) ∧ Frame [.links, .ctr, .ras, .serial] s t))) ∧
  (∀ (p : LinkPort) (s : State), s.live = true →
    let back (d : LinkState) : Link := { s.link p with state := d, paramDone := false, peerParamDone := false }
    ((s.link p).state = .equalize → ∃ t, exec (.equalizeTimeout p) s = .next t ∧ t.link p = back .detect ∧ Frame [.links] s t) ∧
    ((s.link p).state ≠ .equalize → idles (.equalizeTimeout p) s) ∧
    ((s.link p).state = .lock → ∃ t, exec (.lockTimeout p) s = .next t ∧ t.link p = back .equalize ∧ Frame [.links] s t) ∧
    ((s.link p).state ≠ .lock → idles (.lockTimeout p) s) ∧
    ((s.link p).state = .param → ∃ t, exec (.paramTimeout p) s = .next t ∧ t.link p = back .lock ∧ Frame [.links] s t) ∧
    ((s.link p).state ≠ .param → idles (.paramTimeout p) s)) ∧
  (∀ (p : LinkPort) (w : BitVec 2) (lanes : BitVec 8) (s : State), s.live = true →
    let l := s.link p
    let ok : Bool := (!((lanes &&& ~~~l.lanes) != 0#8) || (lanes &&& ~~~l.equalized) == 0#8) && l.allocOk w &&
      decide (w.toNat ≤ l.wmax (isPl p))
    (l.state ≠ .active ∨ ((∃ k, l.change = some k ∧ k.mine = true ∧ k.answered = false) ∧ l.leader = true) →
      idles (.widthReq p w lanes) s) ∧
    (l.state = .active → ((∀ k, l.change = some k → k.mine = false ∨ k.answered = true) ∨ l.leader = false) →
      (ok = true → ∃ t k, exec (.widthReq p w lanes) s = .next t ∧ (t.link p).width = w ∧ (t.link p).lanes = lanes ∧
        (t.link p).change = some k ∧ k.mine = false ∧ k.answered = true ∧
        ctrlPayload 2 (widthByte w lanes) 0 ∈ (t.link p).tx.ctrls ∧ Frame [.links] s t) ∧
      (ok = false → ∃ t, exec (.widthReq p w lanes) s = .next t ∧ (t.link p).width = l.width ∧ (t.link p).lanes = l.lanes ∧
        (t.link p).change = none ∧ ctrlPayload 2 (widthByte l.width l.lanes) 0 ∈ (t.link p).tx.ctrls ∧ Frame [.links] s t)) ∧
    (∀ k, l.change = some k → k.mine = true → k.answered = false →
      (w = l.width → lanes = l.lanes → ∃ t, exec (.widthAck p w lanes) s = .next t ∧ t.link p = { l with change := none } ∧
        Frame [.links] s t) ∧
      (w ≠ l.width ∨ lanes ≠ l.lanes → ∃ t, exec (.widthAck p w lanes) s = .next t ∧ t.link p = l.switchTo w lanes true ∧
        Frame [.links] s t)) ∧
    ((∀ k, l.change = some k → k.mine = false ∨ k.answered = true) → idles (.widthAck p w lanes) s)) ∧
  (∀ (p : LinkPort) (s : State), s.live = true → (s.link p).state = .active →
    (∀ cause, retrains p (.retrainReq p cause) s) ∧ retrains p (.codewordLockLost p) s ∧
    ((s.link p).change.isSome = true → retrains p (.widthChangeTimeout p) s) ∧
    ((s.link p).change = none → idles (.widthChangeTimeout p) s) ∧
    (∀ via, linkPath via p = true → retrains p (.linkRetrainWrite via p) s)) ∧
  (∀ (via : RegPath) (p : LinkPort) (s : State), s.live = true →
    (linkPath via p = false → idles (.linkRetrainWrite via p) s ∧ (∀ v, idles (.linkEnableWrite via p v) s) ∧
      (∀ v, idles (.widthMaxWrite via p v) s)) ∧
    (linkPath via p = true →
      ((s.link p).enable = false → ∃ t, exec (.linkEnableWrite via p true) s = .next t ∧
        t.link p = { s.link p with enable := true, state := .detect, fresh := true } ∧ Frame [.links] s t) ∧
      ((s.link p).enable = true → (s.link p).fresh = true → ∃ t, exec (.linkEnableWrite via p false) s = .next t ∧
        (t.link p).enable = false ∧ (t.link p).state = .disabled ∧ Frame [.links] s t) ∧
      ((s.link p).enable = true → (s.link p).fresh = false → ∃ t, exec (.linkEnableWrite via p false) s = .next t ∧
        t = s.quiet.settle ((s.quiet.settleLoss p).modLink p
          (fun x => { x with enable := false, state := .disabled, lossTimer := false, retraining := false }))) ∧
      (∀ v, idles (.linkEnableWrite via p v) s ∨ v ≠ (s.link p).enable) ∧
      (∀ v, (isPl p = true ∨ v ≠ 3#2) → ∃ t, exec (.widthMaxWrite via p v) s = .next t ∧ (t.link p).widthMax = v ∧ Frame [.links] s t) ∧
      (isPl p = false → idles (.widthMaxWrite via p 3#2) s))) ∧
  (∀ (p : LinkPort) (s : State), s.live = true →
    ((s.link p).lossTimer = false → idles (.linkLoss p) s) ∧
    ((s.link p).lossTimer = true → ∃ t, exec (.linkLoss p) s = .next t ∧
      t = s.quiet.settle ((s.quiet.settleLoss p).modLink p Link.toDetect)) ∧
    ((s.link p).lossTimer = true → s.rtr.reqs = [] → s.rtr.routes = [] → s.fab.sends = [] →
      ∃ t, exec (.linkLoss p) s = .next t ∧ (t.link p).state = .detect ∧ (t.link p).lost = true ∧ (t.link p).wentDown = true ∧
        (t.link p).fresh = true ∧ (t.link p).lossTimer = false ∧ (t.link p).tx = LinkTx.fresh ∧ mget [] t.rtr.txq p.val = [] ∧
        reported t 0x04 0x05 1 (unitPort p) ∧ Frame [.links, .rtr, .ctr, .ras, .serial, .que] s t))
/-! ### Router and traffic control (spec/11) -/

/-- R385 to R409: a packet's way through the router. -/
def Obligations.PacketsEnterAndLeave : Prop :=
  (∀ (p : LinkPort) (vc : Fin 4) (s : State), s.live = true →
    (((s.link p).rx.vc vc.val).takePacket = none → idles (.packetIngress p vc) s) ∧
    (∀ pkt x, ((s.link p).rx.vc vc.val).takePacket = some (pkt, x) → s.mcastWaits p pkt vc.val = true → idles (.packetIngress p vc) s) ∧
    (∀ pkt x, ((s.link p).rx.vc vc.val).takePacket = some (pkt, x) → s.mcastWaits p pkt vc.val = false →
      let rx := (s.link p).rx.setVc vc.val (x.repause (s.link p).h)
      ∃ t u, exec (.packetIngress p vc) s = .next t ∧ u = s.quiet.setLink p { s.link p with rx := rx } ∧ Frame [.links] s u ∧ t = s.quiet.settle (u.takeIn p pkt vc.val))) ∧
  (∀ (u : State) (p : LinkPort) (pkt : Packet) (vc : Nat), isPl p = false →
    (pktMalformed pkt false vc = true → pkt.opc ≠ 0x84#8 → u.takeIn p pkt vc = u.tally (ctrTfl 10 p.val)) ∧
    (pktMalformed pkt false vc = false →
      u.takeIn p pkt vc = (u.tallyBytes 6 pkt.tenant (pktBytes pkt)).routeIn p (u.stampGen p pkt) (pktBytes pkt) vc none)) ∧
  (∀ (u : State) (p : LinkPort) (pkt : Packet) (vc : Nat) (own : Option Tenant), isPl p = true → pktMalformed pkt true vc = false →
    (∀ v, u.linkOpen p pkt = (v, none) → pkt.opc ≠ 0x84#8 → u.takeIn p pkt vc = v) ∧
    (∀ v q, u.linkOpen p pkt = (v, some (q, own)) → p ≠ v.activePl → standbyOk q.opc = false → q.opc ≠ 0x84#8 →
      u.takeIn p pkt vc = v.tally (ctrQue 5 (p.val - 32))) ∧
    (∀ v q, u.linkOpen p pkt = (v, some (q, own)) → p = v.activePl → u.takeIn p pkt vc = v.routeIn p (v.stampGen p q) (pktBytes pkt) vc own)) ∧
  (∀ (u v : State) (p : LinkPort) (pkt q : Packet) (b vc : Nat), isPl p = false → pkt.mcast = false → pkt.opc ≠ 0x84#8 →
    (u.nextHop pkt vc).1 ≠ .here →
    (u.police p pkt b vc = (v, none) → u.routeIn p pkt b vc none = v) ∧
    (u.police p pkt b vc = (v, some q) → q.opc ≠ 0x84#8 → q.mcast = false →
      (v.genOk q.gen = false → u.routeIn p pkt b vc none = v.tally (ctrRtr 0)) ∧
      (v.genOk q.gen = true → (v.nextHop q vc).1 = .unreachable → u.routeIn p pkt b vc none = v.tally (ctrRtr 1)) ∧
      (∀ e, v.genOk q.gen = true → v.nextHop q vc = (.port e, none) →
        mget [] (u.routeIn p pkt b vc none).rtr.txq e.val = mget [] v.rtr.txq e.val ++ [⟨q, vc, none, none⟩] ∧
        Frame [.rtr] v (u.routeIn p pkt b vc none)))) ∧
  (∀ (u v : State) (p : LinkPort) (pkt q r : Packet) (a : Option Tenant) (b vc : Nat), isPl p = false → pkt.mcast = false →
    (u.nextHop pkt vc).1 = .here → u.streamTake pkt = (v, some (q, a)) → ∀ w, v.police p q b vc = (w, some r) → r.mcast = false →
    w.genOk r.gen = true → (w.nextHop r vc).1 = .here →
      u.routeIn p pkt b vc none = w.deliver ⟨r, p, a, none, none, vc⟩ vc) ∧
  (∀ (u : State) (ip : InPkt), localKind ip.pkt.opc = true → (ip.pkt.opc < 0x40#8 ∨ 0x49#8 < ip.pkt.opc) → u.deliver ip vcReq = { u with rtr := { u.rtr with inbox := u.rtr.inbox ++ [ip] } }) ∧
  (∀ (u : State) (q : Packet) (vc : Nat),
    let e := u.route q.gen q.dst
    (u.genOk q.gen = false → u.nextHop q vc = (.badGen, none)) ∧
    (u.genOk q.gen = true →
      (q.dst = u.rtr.nodeId → u.rtr.nodeId ≠ 0x3FFF#14 → u.nextHop q vc = (.here, none)) ∧
      (q.dst ≠ u.rtr.nodeId ∨ u.rtr.nodeId = 0x3FFF#14 →
        (routeKind e = 0 → u.nextHop q vc = (.unreachable, none)) ∧
        (routeKind e = 2 → u.rtr.nodeId ≠ 0x3FFF#14 → u.nextHop q vc = (.here, none)) ∧
        (routeKind e = 3 → u.nextHop q vc = (.port u.activePl, none)) ∧
        (routeKind e = 1 → (vc ≠ vcBulk ∨ e.getLsbD 26 = false ∨ u.rtr.adaptEn = false ∨ q.mcast = true) →
          (∀ x, u.determPort e = some x → u.nextHop q vc = (.port x, none)) ∧
          (u.determPort e = none → u.nextHop q vc = (.unreachable, none))) ∧
        (∀ i x, routeKind e = 1 → vc = vcBulk → e.getLsbD 26 = true → u.rtr.adaptEn = true → q.mcast = false →
          u.adaptSlot e q.dst = some (i, x) → u.nextHop q vc = (.port x, some i) ∧ (u.link x).state = .active ∧
            routeSlot e i = some x)))) ∧
  (∀ (u : State) (e : W32) (x : LinkPort), u.determPort e = some x → ∃ i, i < 4 ∧ routeSlot e i = some x ∧ (u.link x).lost = false ∧
    ∀ j y, j < i → routeSlot e j = some y → (u.link y).lost = true) ∧
  (∀ (x : Policer) (pre b : Nat),
    (1 < pre ∨ x.tp < b → x.meter pre b = (.red, x)) ∧
    (pre ≤ 1 → b ≤ x.tp → pre = 1 ∨ x.tc < b → x.meter pre b = (.yellow, { x with tp := x.tp - b })) ∧
    (pre = 0 → b ≤ x.tp → b ≤ x.tc → x.meter pre b = (.green, { x with tc := x.tc - b, tp := x.tp - b }))) ∧
  (∀ (p : LinkPort) (s : State), s.live = true →
    ((s.link p).state ≠ .active ∨ s.schedule p = none → idles (.packetEgress p) s) ∧
    (∀ i q pkt v, (s.link p).state = .active → s.schedule p = some (i, q) →
      (if isPl p then s.quiet.linkProtect p q.pkt else s.quiet.streamProtect q.pkt) = some (pkt, v) →
      ∃ t, exec (.packetEgress p) s = .next t ∧ mget [] t.rtr.txq p.val = (mget [] s.rtr.txq p.val).eraseIdx i ∧
        mget [] (t.link p).tx.queues q.vc = mget [] (s.link p).tx.queues q.vc ++
          [{ units := pktUnits pkt, started := false, doorbell := pkt.opc == 0x84#8, mc := q.mc }] ∧
        Frame [.links, .rtr, .sec, .audit, .dbg, .ctr, .ras, .serial] s t)) ∧
  (∀ (u : State) (p : LinkPort) (i : Nat) (q : QPkt), u.schedule p = some (i, q) → (i, q) ∈ u.readyList p ∧
    ((∃ e, e ∈ u.readyList p ∧ e.2.vc = vcSnp) → q.vc = vcSnp) ∧
    ((∀ e, e ∈ u.readyList p → e.2.vc ≠ vcSnp) →
      ((∃ e, e ∈ u.readyList p ∧ e.2.vc = vcRsp) → q.vc = vcRsp) ∧
      ((∀ e, e ∈ u.readyList p → e.2.vc ≠ vcRsp) → ∀ e, e ∈ u.readyList p → q.pkt.cls.toNat ≤ e.2.pkt.cls.toNat)))

/-- R395 to R399 and R440 to R442. -/
def Obligations.RequestsAnswersAndTimers : Prop :=
  (∀ (i : Nat) (ip : InPkt) (io : OutsideIo) (c : Instr) (s : State), s.live = true → s.rtr.inbox[i]? = some ip →
    (c, ip.pkt.opc) ∈ ([(.memRd i io, 0x80#8), (.memWr i io, 0x81#8)] : List (Instr × BitVec 8)) →
    let write : Bool := ip.pkt.opc == 0x81#8
    let n := if write then 16 * ip.pkt.payload.length else 64 * (ip.pkt.aux.toNat % 128)
    let acc := if write then accWrite ip.pkt.src ip.authList else accRead ip.pkt.src ip.authList
    let taken : State := { s.quiet with rtr := { s.rtr with inbox := s.rtr.inbox.eraseIdx i } }
    let ends (v : State) (st : Status) : Prop := ∃ t, exec c s = .next t ∧ t = s.quiet.settle
      (if write then v.wrSettled ip st else v.answerRd ip.pkt st [] [])
    (s.behind i ip = true ∨ taken.reqHeld ip n = true → idles c s) ∧
    (s.behind i ip = false → taken.reqHeld ip n = false →
      (s.tenantGone ip.pkt.tenant = true → ends taken stTenantGone) ∧
      (s.tenantGone ip.pkt.tenant = false →
        (∀ e sl leaf nv, taken.snapWaitFor acc ip.pkt.addr n = some (e, sl, leaf, nv) →
          (∀ l v, taken.admitAll acc ip.pkt.addr n = (.ok l, v) → ∃ t, exec c s = .next t ∧ t = s.quiet.settle (v.snapJoin e sl leaf ip nv)) ∧
          (∀ st v, taken.admitAll acc ip.pkt.addr n = (.error st, v) → ends v st)) ∧
        (taken.snapWaitFor acc ip.pkt.addr n = none →
          (taken.poolBusy acc ip.pkt.addr n = true ∨ (write = true ∧ taken.ctrlHolds acc ip.pkt.addr n = true) → idles c s) ∧
          (taken.poolBusy acc ip.pkt.addr n = false → (write = true → taken.ctrlHolds acc ip.pkt.addr n = false) →
            (write = false → ∀ bs bad v, taken.readPool acc ip.pkt.tenant ip.pkt.addr n io = (.ok (bs, bad), v) →
              ∃ t, exec c s = .next t ∧ t = s.quiet.settle (v.answerRd ip.pkt stOk bs bad)) ∧
            (write = false → ∀ st v, taken.readPool acc ip.pkt.tenant ip.pkt.addr n io = (.error st, v) → ends v st) ∧
            (write = true → ∀ v, taken.writePool acc ip.pkt.tenant ip.pkt.addr (payloadBytes ip.pkt.payload)
              ((List.range 64).map (fun j => ip.pkt.aux.getLsbD j)) io = (.ok (), v) →
              ∃ t, exec c s = .next t ∧ t = s.quiet.settle (v.wrSettled ip stOk)) ∧
            (write = true → ∀ st v, taken.writePool acc ip.pkt.tenant ip.pkt.addr (payloadBytes ip.pkt.payload)
              ((List.range 64).map (fun j => ip.pkt.aux.getLsbD j)) io = (.error st, v) → ends v st)))))) ∧
  (∀ (i : Nat) (ip : InPkt) (s : State), s.live = true → s.rtr.inbox[i]? = some ip → s.behind i ip = false →
    let p := ip.pkt
    let taken : State := { s.quiet with rtr := { s.rtr with inbox := s.rtr.inbox.eraseIdx i } }
    (p.opc = 0x82#8 →
      (s.findReq p.src p.tag none ip.port = none → s.rtr.goneOut = [] → ∃ t, exec (.rdData i) s = .next t ∧
        (s.counter (ctrRtr 4) < ctrMax → t.counter (ctrRtr 4) = s.counter (ctrRtr 4) + 1) ∧ t.rtr = taken.rtr ∧
        Frame [.rtr, .ctr, .ras, .serial] s t) ∧
      (∀ k r, s.findReq p.src p.tag none ip.port = some (k, r) → r.opc = 0x80#8 → r.via = none →
        (ip.xid = none → ∃ t u x, exec (.rdData i) s = .next t ∧ tget u.rtr.reqs k = some x ∧ x.got = r.got ++ [(p.addr, p.payload)] ∧
          x.poisoned = (r.poisoned || p.aux != 0#64) ∧ Frame [.rtr] s u ∧ t = s.quiet.settle (u.answered k x p.status)) ∧
        (∀ y, ip.xid = some y → ∃ t x, exec (.rdData i) s = .next t ∧ tget t.rtr.reqs k = some x ∧
          x.got = r.got ++ [(p.addr, p.payload)] ∧ Frame [.rtr] s t))) ∧
    (p.opc = 0x83#8 →
      (s.findReq p.src p.tag (some p.xfer) ip.port = none → s.rtr.goneOut = [] → ∃ t, exec (.wrDone i) s = .next t ∧
        (s.counter (ctrRtr 4) < ctrMax → t.counter (ctrRtr 4) = s.counter (ctrRtr 4) + 1) ∧ t.rtr = taken.rtr ∧
        Frame [.rtr, .ctr, .ras, .serial] s t) ∧
      (∀ k r, s.findReq p.src p.tag (some p.xfer) ip.port = some (k, r) → r.opc = 0x81#8 →
        ∃ t, exec (.wrDone i) s = .next t ∧ t = s.quiet.settle (taken.answered k r p.status))) ∧
    (p.opc = 0x84#8 →
      let q : Qp := ⟨(if isPl ip.port then bitsOf p.addr.toNat 23 12 else p.addr.toNat % 4096) % 4096, Nat.mod_lt _ (by decide)⟩
      let v : W64 := ((p.payload.head?).getD 0#128).setWidth 64
      (s.qp q = none → ∃ t, exec (.doorbell i) s = .next t ∧
        (s.counter (ctrQue 3 0) < ctrMax → t.counter (ctrQue 3 0) = s.counter (ctrQue 3 0) + 1) ∧
        (t.link ip.port).rx.held = (s.link ip.port).rx.held - 1 ∧ (t.link ip.port).rx.crdRet = (s.link ip.port).rx.crdRet + 1#16 ∧
        Frame [.rtr, .links, .ctr, .ras, .serial] s t) ∧
      (∀ x, s.qp q = some x →
        let ok : Prop := (isPl ip.port = true ∧ plPort x.cfg.port = ip.port ∧ x.cfg.dbFabric = false ∧ p.addr.toNat % 4096 = 0) ∨
          (isPl ip.port = false ∧ x.cfg.dbFabric = true ∧ p.src = x.cfg.dbEp)
        (ok → bellOk v x.sqSize x.cqSize x.cqHead x.cqNext = true → ∃ t, exec (.doorbell i) s = .next t ∧
          t.qp q = some { x with sqTail := if v.getLsbD 32 then (v.extractLsb' 0 16).toNat else x.sqTail,
                                 cqHead := if v.getLsbD 33 then (v.extractLsb' 16 16).toNat else x.cqHead } ∧
          (t.link ip.port).rx.held = (s.link ip.port).rx.held - 1 ∧ Frame [.rtr, .links, .que] s t) ∧
        (ok → bellOk v x.sqSize x.cqSize x.cqHead x.cqNext = false → ∃ t u, exec (.doorbell i) s = .next t ∧
          (u.link ip.port).rx.held = (s.link ip.port).rx.held - 1 ∧ Frame [.rtr, .links] s u ∧ t = s.quiet.settle (u.qpError q 1)) ∧
        (¬ ok → ∃ t, exec (.doorbell i) s = .next t ∧ t.que = s.que ∧
          (s.counter (ctrQue 3 0) < ctrMax → t.counter (ctrQue 3 0) = s.counter (ctrQue 3 0) + 1) ∧
          Frame [.rtr, .links, .ctr, .ras, .serial] s t)))) ∧
  (∀ (src : Ep) (x : BitVec 16) (s : State), s.live = true →
    let key := src.toNat * 65536 + x.toNat
    (tget s.rtr.xfers key = none → idles (.transferComplete src x) s ∧ idles (.xferTimeout src x) s) ∧
    (∀ e, tget s.rtr.xfers key = some e →
      (e.pktCount ≠ some e.count ∨ e.settled ≠ e.count → idles (.transferComplete src x) s) ∧
      (e.pktCount = some e.count → e.settled = e.count → e.isWrite = true →
        ∃ t u, exec (.transferComplete src x) s = .next t ∧ tget u.rtr.xfers key = none ∧
          (e.status = stOk → s.staged e.addr.toNat = true → (e.addr, e.bytes) ∈ u.rtr.landed) ∧ Frame [.rtr, .ctr, .ras, .serial] s u ∧
          (e.mcast = true → t = s.quiet.settle u) ∧
          (e.mcast = false → t = s.quiet.settle (u.sendRsp { pktBlank 0x83#8 with dst := src, tag := e.tag, xfer := x, tenant := e.tenant, status := e.status } vcRsp (4096 + x.toNat)))) ∧
      (e.pktCount = some e.count → e.settled = e.count → e.isWrite = false → ∀ k r, s.findReq src e.tag none e.port = some (k, r) →
        ∃ t u, exec (.transferComplete src x) s = .next t ∧ tget u.rtr.xfers key = none ∧ Frame [.rtr, .ctr, .ras, .serial] s u ∧
          t = s.quiet.settle (u.answered k r e.status)) ∧
      (e.age < s.rtr.xferTimeout.toNat → idles (.xferTimeout src x) s) ∧
      (s.rtr.xferTimeout.toNat ≤ e.age → ∃ t, exec (.xferTimeout src x) s = .next t ∧ tget t.rtr.xfers key = none ∧
        (s.counter (ctrRtr 6) < ctrMax → t.counter (ctrRtr 6) = s.counter (ctrRtr 6) + 1) ∧ Frame [.rtr, .ctr, .ras, .serial] s t))) ∧
  (∀ (n : Nat) (r : DevReq) (s : State), s.live = true → tget s.rtr.reqs n = some r →
    (r.sent = false ∨ r.age < s.rtr.timeout.toNat → idles (.e2eTimeout n) s) ∧
    (r.sent = true → s.rtr.timeout.toNat ≤ r.age →
      (r.bulk = false → (r.opc = 0x80#8 ∨ r.opc = 0x04#8) → r.retries < s.rtr.retryMax.toNat → ∃ t, exec (.e2eTimeout n) s = .next t ∧
        t = s.quiet.settle ((s.quiet.transmit n { r with retries := r.retries + 1, got := [] }).tally (ctrRtr 2))) ∧
      (r.bulk = true → r.retries < s.rtr.retryMax.toNat → ∃ t, exec (.e2eTimeout n) s = .next t ∧
        t = s.quiet.settle ((s.quiet.launch n { r with retries := r.retries + 1, got := [] }).tally (ctrRtr 2))) ∧
      ((r.bulk = false ∧ r.opc ≠ 0x80#8 ∧ r.opc ≠ 0x04#8) ∨ s.rtr.retryMax.toNat ≤ r.retries →
        ∃ t u, exec (.e2eTimeout n) s = .next t ∧ Frame [.rtr, .ctr, .ras, .serial] s u ∧ u.rtr.reqs = s.rtr.reqs ∧
          .requestLost r.dst r.tag stRteTimeout (r.opc == 0x81#8 || r.opc == 0x05#8 || r.opc == 0x06#8) ∈ u.out ∧
          t = s.quiet.settle (u.reqDone n stRteTimeout))))

/-- R391 to R416: the router's tables. -/
def Obligations.RouterTablesAreWritten : Prop :=
  (∀ (first : BitVec 16) (es : List W32) (s : State), s.live = true →
    let bad : Prop := es = [] ∨ 1024 < es.length ∨ 16384 < first.toNat + es.length ∨ ∃ e, e ∈ es ∧ e.extractLsb' 27 5 ≠ 0#5
    (s.rtr.drain.isSome = true → ∃ t, exec (.rtrRouteWrite first es) s = .next t ∧ answered t 0x20#8 3 [] ∧ Frame [.sec] s t) ∧
    (s.rtr.drain = none → bad → ∃ t, exec (.rtrRouteWrite first es) s = .next t ∧ answered t 0x20#8 7 [] ∧ Frame [.sec] s t) ∧
    (s.rtr.drain = none → ¬ bad → keysRise s.rtr.routes = true → ∃ t, exec (.rtrRouteWrite first es) s = .next t ∧
        answered t 0x20#8 0 [] ∧
        (∀ ep : Ep, t.route s.rtr.activeGen ep = s.route s.rtr.activeGen ep) ∧
        (∀ ep : Ep, t.route (!s.rtr.activeGen) ep = if first.toNat ≤ ep.toNat ∧ ep.toNat < first.toNat + es.length
          then es.getD (ep.toNat - first.toNat) 0#32 else s.route (!s.rtr.activeGen) ep) ∧ Frame [.rtr, .sec] s t)) ∧
  (∀ s : State, s.live = true →
    (s.rtr.switch.isSome = true ∨ s.rtr.drain.isSome = true → ∃ t, exec .rtrRouteSwitch s = .next t ∧ answered t 0x21#8 3 [] ∧
      Frame [.sec] s t) ∧
    (s.rtr.switch = none → s.rtr.drain = none → ∃ t, exec .rtrRouteSwitch s = .next t ∧ answered t 0x21#8 0 [] ∧
      t.rtr = { s.rtr with switch := some 0 } ∧ Frame [.rtr, .sec] s t) ∧
    (s.rtr.switch = none ∨ s.rtr.switch = some 0 → idles .routeSwitchApply s) ∧
    (∀ n, s.rtr.switch = some (n + 1) → ∃ t, exec .routeSwitchApply s = .next t ∧
      t.rtr = { s.rtr with activeGen := !s.rtr.activeGen, drain := some 2, switch := none } ∧ Frame [.rtr] s t) ∧
    (s.rtr.drain = some 0 → ∃ t, exec .routeDrainClose s = .next t ∧ t.rtr = { s.rtr with drain := none } ∧ Frame [.rtr] s t) ∧
    (s.rtr.drain ≠ some 0 → idles .routeDrainClose s)) ∧
  (∀ (g : BitVec 16) (e : BitVec 48) (s : State), s.live = true →
    (4096 ≤ g.toNat ∨ e.extractLsb' 45 3 ≠ 0#3 → ∃ t, exec (.rtrMcastWrite g e) s = .next t ∧ answered t 0x22#8 7 [] ∧
      Frame [.sec] s t) ∧
    (g.toNat < 4096 → e.extractLsb' 45 3 = 0#3 → ∃ t, exec (.rtrMcastWrite g e) s = .next t ∧ answered t 0x22#8 0 [] ∧
      tget t.rtr.mcastNext g.toNat = some ⟨e, 0⟩ ∧ t.rtr.mcast = s.rtr.mcast ∧ Frame [.rtr, .sec] s t)) ∧
  (∀ (g : BitVec 12) (s : State), s.live = true →
    (∀ e n, tget s.rtr.mcastNext g.toNat = some ⟨e, n + 1⟩ → ∃ t, exec (.mcastWriteApply g) s = .next t ∧
      mget 0#48 t.rtr.mcast g.toNat = e ∧ tget t.rtr.mcastNext g.toNat = none ∧ Frame [.rtr] s t) ∧
    (tget s.rtr.mcastNext g.toNat = none → idles (.mcastWriteApply g) s) ∧
    (∀ e, tget s.rtr.mcastNext g.toNat = some ⟨e, 0⟩ → idles (.mcastWriteApply g) s)) ∧
  (∀ (a : Tenant) (c : BitVec 2) (e : BitVec 128) (s : State), s.live = true →
    (polPir e < polCir e ∨ polPbs e < polCbs e ∨ polCbs e < 4144 ∨ e.extractLsb' 102 26 ≠ 0#26 →
      ∃ t, exec (.rtrPolicerWrite a c e) s = .next t ∧ answered t 0x23#8 7 [] ∧ Frame [.sec] s t) ∧
    (polCir e ≤ polPir e → polCbs e ≤ polPbs e → 4144 ≤ polCbs e → e.extractLsb' 102 26 = 0#26 →
      ∃ t, exec (.rtrPolicerWrite a c e) s = .next t ∧ answered t 0x23#8 0 [] ∧
        tget t.rtr.policersNext (policerKey a c) = some ⟨e, 0⟩ ∧ t.rtr.policers = s.rtr.policers ∧ Frame [.rtr, .sec] s t) ∧
    (∀ n, tget s.rtr.policersNext (policerKey a c) = some ⟨e, n + 1⟩ → ∃ t, exec (.policerWriteApply a c) s = .next t ∧
      mget Policer.reset t.rtr.policers (policerKey a c) = ⟨e, polCbs e, polPbs e⟩ ∧
      tget t.rtr.policersNext (policerKey a c) = none ∧ Frame [.rtr, .audit] s t) ∧
    (tget s.rtr.policersNext (policerKey a c) = none ∨ tget s.rtr.policersNext (policerKey a c) = some ⟨e, 0⟩ →
      idles (.policerWriteApply a c) s)) ∧
  (∀ (k : BitVec 16) (e : BitVec 128) (s : State), s.live = true →
    let x : Shaper := ⟨e, 0⟩
    let bad : Prop := 8192 ≤ k.toNat ∨ shaperBurst x < 4144 ∨ shaperRate x = 0 ∨ (32 < shaperPort x ∧ shaperPort x ≠ 63) ∨
      e.extractLsb' 66 2 = 3#2 ∨ e.extractLsb' 69 59 ≠ 0#59
    let taken : Prop := s.rtr.shapers.any (fun y => y.1 != k.toNat && shaperValid y.2 && sameBinding y.2.entry e) = true ∨
      s.rtr.shapersNext.any (fun y => y.1 != k.toNat && y.2.entry.getLsbD 68 && sameBinding y.2.entry e) = true
    (bad → ∃ t, exec (.rtrShaperWrite k e) s = .next t ∧ answered t 0x24#8 7 [] ∧ Frame [.sec] s t) ∧
    (¬ bad → taken → ∃ t, exec (.rtrShaperWrite k e) s = .next t ∧ answered t 0x24#8 2 [] ∧ Frame [.sec] s t) ∧
    (¬ bad → ¬ taken → ∃ t, exec (.rtrShaperWrite k e) s = .next t ∧ answered t 0x24#8 0 [] ∧
      tget t.rtr.shapersNext k.toNat = some ⟨e, 0⟩ ∧ t.rtr.shapers = s.rtr.shapers ∧ Frame [.rtr, .sec] s t)) ∧
  (∀ (k : BitVec 13) (s : State), s.live = true →
    (∀ e n, tget s.rtr.shapersNext k.toNat = some ⟨e, n + 1⟩ →
      let old := (mget Shaper.reset s.rtr.shapers k.toNat).tokens
      let cap := shaperCap ⟨e, 0⟩ s.periodUs
      let one := shaperRate ⟨e, 0⟩ * s.periodUs
      ∃ t y, exec (.shaperWriteApply k) s = .next t ∧ mget Shaper.reset t.rtr.shapers k.toNat = ⟨e, y⟩ ∧
        (e.extractLsb' 66 2 = 0#2 → y = cap) ∧ (e.extractLsb' 66 2 = 1#2 → y = min one cap) ∧
        (e.extractLsb' 66 2 = 2#2 → y = min (min old cap + one) cap) ∧ tget t.rtr.shapersNext k.toNat = none ∧ Frame [.rtr, .audit] s t) ∧
    (tget s.rtr.shapersNext k.toNat = none → idles (.shaperWriteApply k) s) ∧
    (∀ e, tget s.rtr.shapersNext k.toNat = some ⟨e, 0⟩ → idles (.shaperWriteApply k) s)) ∧
  (∀ (i n : BitVec 16) (s : State), s.live = true →
    let size (tb : RtrTable) : Nat := match tb with
      | .route0 => 16384
      | .route1 => 16384
      | .mcast => 4096
      | .policer => 4096
      | .shaper => 8192
    (∀ tb, n = 0#16 ∨ 1024 < n.toNat ∨ size tb < i.toNat + n.toNat →
      ∃ t, exec (.rtrTableRead tb i n) s = .next t ∧ answered t 0x25#8 7 [] ∧ Frame [.sec] s t) ∧
    (n ≠ 0#16 → n.toNat ≤ 1024 →
      (i.toNat + n.toNat ≤ 16384 → ∃ t, exec (.rtrTableRead .route0 i n) s = .next t ∧ answered t 0x25#8 0
        ((List.range n.toNat).flatMap (fun k => bytesOf (mget 0#32 s.rtr.routes (i.toNat + k)) 4)) ∧ Frame [.sec] s t) ∧
      (i.toNat + n.toNat ≤ 16384 → ∃ t, exec (.rtrTableRead .route1 i n) s = .next t ∧ answered t 0x25#8 0
        ((List.range n.toNat).flatMap (fun k => bytesOf (mget 0#32 s.rtr.routes (16384 + i.toNat + k)) 4)) ∧ Frame [.sec] s t) ∧
      (i.toNat + n.toNat ≤ 4096 → ∃ t, exec (.rtrTableRead .mcast i n) s = .next t ∧ answered t 0x25#8 0
        ((List.range n.toNat).flatMap (fun k => bytesOf (mget 0#48 s.rtr.mcast (i.toNat + k)) 6)) ∧ Frame [.sec] s t) ∧
      (i.toNat + n.toNat ≤ 4096 → ∃ t, exec (.rtrTableRead .policer i n) s = .next t ∧ answered t 0x25#8 0
        ((List.range n.toNat).flatMap (fun k => bytesOf (mget Policer.reset s.rtr.policers (i.toNat + k)).entry 16)) ∧ Frame [.sec] s t) ∧
      (i.toNat + n.toNat ≤ 8192 → ∃ t, exec (.rtrTableRead .shaper i n) s = .next t ∧ answered t 0x25#8 0
        ((List.range n.toNat).flatMap (fun k => bytesOf (mget Shaper.reset s.rtr.shapers (i.toNat + k)).entry 16)) ∧ Frame [.sec] s t)))
/-! ### Phosha Link and work queues (spec/12) -/

/-- R423 to R432, R446: the commands of an admin queue. -/
def Obligations.AdminCommandsRun : Prop :=
  (∀ (port : BitVec 8) (a : Tenant) (ep mask : Ep) (s : State), s.live = true →
    (2 ≤ port.toNat → ∃ t, exec (.plkGrant port a ep mask) s = .next t ∧ answered t 0x30#8 7 [] ∧ Frame [.sec] s t) ∧
    (port.toNat < 2 → 64 ≤ (mget [] s.que.grants port.toNat).length →
      ∃ t, exec (.plkGrant port a ep mask) s = .next t ∧ answered t 0x30#8 6 [] ∧ Frame [.sec] s t) ∧
    (port.toNat < 2 → (mget [] s.que.grants port.toNat).length < 64 →
      ∃ t, exec (.plkGrant port a ep mask) s = .next t ∧ answered t 0x30#8 0 [] ∧
        mget [] t.que.grants port.toNat = mget [] s.que.grants port.toNat ++ [⟨a, ep, mask⟩] ∧ Frame [.que, .sec] s t)) ∧
  (∀ s : State, s.live = true →
    (s.que.takeover = none → ∃ t, exec .plkTakeover s = .next t ∧ answered t 0x31#8 0 [] ∧
      t.que = { s.que with takeover := some (otherPort s.que.active, 0) } ∧ Frame [.que, .sec] s t) ∧
    (s.que.takeover ≠ none → ∃ t, exec .plkTakeover s = .next t ∧ answered t 0x31#8 0 [] ∧ Frame [.sec] s t) ∧
    (s.que.takeover = none → idles .takeoverApply s) ∧
    (∀ p, s.que.takeover = some (p, 0) → idles .takeoverApply s) ∧
    (∀ p n, s.que.takeover = some (p, n + 1) → ∃ t, exec .takeoverApply s = .next t ∧ t.que.active = p ∧ t.que.takeover = none ∧
      (∀ q x, s.qp q = some x → x.cfg.port = otherPort p → x.state = .active ∨ x.state = .error →
        ∃ y, t.qp q = some y ∧ y.state = .halted ∧ y.recs = []) ∧
      reported t 0x06 0x02 1 unitQueue ∧ Frame [.que, .ctr, .ras, .serial, .audit] s t)) ∧
  (∀ (p : PlPort) (s : State), s.live = true →
    (∀ v, v = false ∨ (s.admin p).enable = true → ∃ t, exec (.adminQueueEnable p v) s = .next t ∧
      t.admin p = { s.admin p with enable := v } ∧ Frame [.que] s t) ∧
    ((s.admin p).enable = false → ∃ t, exec (.adminQueueEnable p true) s = .next t ∧
      t.admin p = { s.admin p with enable := true, sqTail := 0, fetch := 0, cqHead := 0, cqNext := 0, phase := true } ∧
      Frame [.que] s t) ∧
    (∀ v, bellOk v (2 ^ (s.admin p).sqLog.toNat) (2 ^ (s.admin p).cqLog.toNat) (s.admin p).cqHead (s.admin p).cqNext = true →
      ∃ t, exec (.adminDoorbell p v) s = .next t ∧
        t.admin p = { s.admin p with sqTail := if v.getLsbD 32 then (v.extractLsb' 0 16).toNat else (s.admin p).sqTail,
                                     cqHead := if v.getLsbD 33 then (v.extractLsb' 16 16).toNat else (s.admin p).cqHead } ∧
        Frame [.que] s t) ∧
    (∀ v, bellOk v (2 ^ (s.admin p).sqLog.toNat) (2 ^ (s.admin p).cqLog.toNat) (s.admin p).cqHead (s.admin p).cqNext = false →
      ∃ t, exec (.adminDoorbell p v) s = .next t ∧
        (s.counter (ctrQue 3 0) < ctrMax → t.counter (ctrQue 3 0) = s.counter (ctrQue 3 0) + 1) ∧ Frame [.ctr, .ras, .serial] s t)) ∧
  (∀ (p : PlPort) (s : State), s.live = true →
    (s.adminHead p 0x60#8 = none → idles (.qpCreate p) s) ∧ (s.adminHead p 0x61#8 = none → idles (.qpDestroy p) s) ∧
    (s.adminHead p 0x51#8 = none → idles (.abort p) s)) ∧
  (∀ (p : PlPort) (d : Desc) (s : State), s.live = true → s.adminHead p 0x60#8 = some d →
    (∀ st, s.qpCreateCheck p d = some st → ∃ t, exec (.qpCreate p) s = .next t ∧ adminAnswered t p d st 0#64 ∧ t.que.qps = s.que.qps ∧
      Frame [.que] s t) ∧
    (s.qpCreateCheck p d = none → ∃ t, exec (.qpCreate p) s = .next t ∧ adminAnswered t p d stOk 0#64 ∧
      t.qp (descQp d) = some (QPair.fresh (qpCfgOf p d)) ∧ Frame [.que] s t)) ∧
  (∀ (p : PlPort) (d : Desc) (s : State), s.live = true → s.adminHead p 0x61#8 = some d →
    let clean : Bool := descClean d [(16, 2)] && decide (descField d 16 2 < 4096)
    (clean = false → ∃ t, exec (.qpDestroy p) s = .next t ∧ adminAnswered t p d stBadDesc 0#64 ∧ Frame [.que] s t) ∧
    (clean = true → s.qp (descQp d) = none → ∃ t, exec (.qpDestroy p) s = .next t ∧ adminAnswered t p d stNoCmd 0#64 ∧
      Frame [.que] s t) ∧
    (∀ x, clean = true → s.qp (descQp d) = some x →
      (∃ t, exec (.qpDestroy p) s = .next t ∧ t = s.quiet.settle (((s.quiet.drainQp (descQp d)).modQp (descQp d)
        (fun y => { y with destroyers := y.destroyers ++ [(p, descCmd d, descIntr d)] })).adminBusy p)) ∧
      (x.held = [] → x.state ≠ .draining → ∃ t, exec (.qpDestroy p) s = .next t ∧ (t.admin p).busy = true ∧
        t.qp (descQp d) = some { x with state := .draining, dropRecords := x.state == .halted,
                                        destroyers := x.destroyers ++ [(p, descCmd d, descIntr d)] } ∧ Frame [.que] s t))) ∧
  (∀ (q : Qp) (x : QPair) (s : State), s.live = true → s.qp q = some x →
    (x.state ≠ .draining ∨ x.held ≠ [] ∨ x.recs ≠ [] ∨ x.unacked ≠ 0 ∨ s.ras.verdicts.any (fun v => v.2.qp == q) = true →
      idles (.qpFree q) s) ∧
    (x.state = .draining → x.held = [] → x.recs = [] → x.unacked = 0 → s.ras.verdicts.any (fun v => v.2.qp == q) = false →
      ∃ t, exec (.qpFree q) s = .next t ∧ t.qp q = none ∧ Frame [.que] s t ∧
        (∀ p c i d rest, x.destroyers = [(p, c, i)] → (s.admin p).held = d :: rest → adminAnswered t p d stOk 0#64))) ∧
  (∀ (p : PlPort) (d : Desc) (s : State), s.live = true → s.adminHead p 0x51#8 = some d →
    let clean : Bool := descClean d [(16, 2), (18, 2), (20, 1)] && decide (descField d 16 2 < 4096) && decide (descField d 20 1 ≤ 1)
    let sel (y : Desc) : Bool := d.getLsbD 160 || descField y 2 2 == descField d 18 2
    (clean = false → ∃ t, exec (.abort p) s = .next t ∧ adminAnswered t p d stBadDesc 0#64 ∧ Frame [.que] s t) ∧
    (clean = true → s.qp (descQp d) = none → ∃ t, exec (.abort p) s = .next t ∧ adminAnswered t p d stNoCmd 0#64 ∧ Frame [.que] s t) ∧
    (∀ x, clean = true → s.qp (descQp d) = some x →
      (s.fetchedAll x = false → idles (.abort p) s) ∧
      (s.fetchedAll x = true →
        (∀ k u, s.quiet.abortQp (descQp d) sel = (k, u) → ∃ t, exec (.abort p) s = .next t ∧
          k = (x.held.filter (fun e => sel e.2.desc && !e.2.done)).length ∧ t = s.quiet.settle (u.adminDone p
            (if 0 < k then stOk else if x.held.any (fun e => sel e.2.desc) then stAlreadyDone else stNoCmd) (BitVec.ofNat 64 k))) ∧
        ((∀ e, e ∈ x.held → sel e.2.desc = false) → ∃ t, exec (.abort p) s = .next t ∧ adminAnswered t p d stNoCmd 0#64 ∧
          Frame [.que] s t) ∧
        ((∃ e, e ∈ x.held ∧ sel e.2.desc = true) → (∀ e, e ∈ x.held → sel e.2.desc = true → e.2.done = true) →
          ∃ t, exec (.abort p) s = .next t ∧ adminAnswered t p d stAlreadyDone 0#64 ∧ Frame [.que] s t))))

/-- R433 to R448: fetches and records. -/
def Obligations.QueuesFetchAndWrite : Prop :=
  (∀ (q : Qp) (h : Nat) (x : QPair) (d : Held) (s : State), s.live = true → s.nextHeld q h 0x50#8 x d →
    let clean : Bool := descClean d.desc [(16, 1)] && decide (descField d.desc 16 1 ≤ 1)
    let waits : Prop := x.held.any (fun e => decide (e.1 < h)) = true ∨
      (d.desc.getLsbD 128 = true ∧ s.ras.verdicts.any (fun v => v.2.qp == q) = true)
    (clean = false → ∃ t, exec (.fence q h) s = .next t ∧ descEnded t q h d.desc stBadDesc ∧ Frame [.que] s t) ∧
    (clean = true → waits → idles (.fence q h) s) ∧
    (clean = true → ¬ waits → ∃ t u o, exec (.fence q h) s = .next t ∧ u.op s.que.nextOp = some o ∧ o.qp = q ∧ o.held = h ∧
      o.desc = d.desc ∧ Frame [.que] s u ∧ t = s.quiet.settle (u.completeOp s.que.nextOp stOk 0#64 0#16))) ∧
  (∀ (q : Qp) (x : QPair) (r : RingRead) (s : State), s.live = true → s.qp q = some x →
    let may : Prop := s.plt.phase = .ready ∧ x.state = .active ∧ x.fetch ≠ x.sqTail ∧ x.held.length < x.cfg.maxInflight ∧
      s.storeHeld < storeSlots ∧ s.tenantGone x.cfg.tenant = false
    let a := x.cfg.sqAddr.toNat + 64 * x.fetch
    let acc := accRead x.cfg.ep (s.authOf x)
    let g : State := s.quiet.setArbiter .fetch { s.arbiter .fetch with granted := none }
    ((s.arbiter .fetch).granted ≠ some q.val → idles (.descriptorFetch (.qp q) r) s) ∧
    ((s.arbiter .fetch).granted = some q.val → ¬ may → ∃ t, exec (.descriptorFetch (.qp q) r) s = .next t ∧
      (t.arbiter .fetch).granted = none ∧ Frame [.arb] s t) ∧
    ((s.arbiter .fetch).granted = some q.val → may → x.cfg.ringPool = false → ∀ s1,
      (g.xltSet none x.cfg.asid [a] false (.ring q) = (false, s1) →
        ∃ t, exec (.descriptorFetch (.qp q) r) s = .next t ∧ t = s.quiet.settle s1) ∧
      (g.xltSet none x.cfg.asid [a] false (.ring q) = (true, s1) →
        (∀ d, r = .data d → ∃ t, exec (.descriptorFetch (.qp q) r) s = .next t ∧ t = s.quiet.settle (s1.takeDesc q x d)) ∧
        (r = .poison → ∃ t, exec (.descriptorFetch (.qp q) r) s = .next t ∧ t = s.quiet.settle (s1.qpError q 3)) ∧
        (r = .hostErr → ∃ t u, exec (.descriptorFetch (.qp q) r) s = .next t ∧ reported u 0x06 0x04 0 unitQueue ∧
          SameBut [.ras, .ctr, .serial] s1 u ∧ t = s.quiet.settle (u.qpError q 3)))) ∧
    ((s.arbiter .fetch).granted = some q.val → may → x.cfg.ringPool = true →
      (g.poolBusy acc (BitVec.ofNat 64 a) 64 = true → ∃ t, exec (.descriptorFetch (.qp q) r) s = .next t ∧ Frame [.arb] s t) ∧
      (g.poolBusy acc (BitVec.ofNat 64 a) 64 = false → ∀ s1,
        (∀ st, g.readPool acc x.cfg.tenant (BitVec.ofNat 64 a) 64 (ringIo a r) = (.error st, s1) →
          ∃ t, exec (.descriptorFetch (.qp q) r) s = .next t ∧ t = s.quiet.settle (s1.qpError q 2)) ∧
        (∀ bs bad, g.readPool acc x.cfg.tenant (BitVec.ofNat 64 a) 64 (ringIo a r) = (.ok (bs, bad), s1) →
          ∃ t, exec (.descriptorFetch (.qp q) r) s = .next t ∧
            t = s.quiet.settle (if bad.any id then s1.qpError q 3 else s1.takeDesc q x (BitVec.ofNat 512 (leNat bs))))))) ∧
  (∀ (u : State) (q : Qp) (x : QPair) (d : Desc), queueOpcodes.contains (descOpc d) = true →
    ∃ y, (u.takeDesc q x d).qp q = some y ∧ tget y.held x.nextHeld = some ⟨d, x.fetch, none, false⟩ ∧ y.nextHeld = x.nextHeld + 1 ∧
      y.fetch = (x.fetch + 1) % x.sqSize ∧ y.cfg = x.cfg ∧ y.recs = x.recs ∧
      SameBut [.que, .audit, .ctr, .ras, .serial] u (u.takeDesc q x d)) ∧
  (∀ (p : PlPort) (r : RingRead) (s : State), s.live = true →
    let a := s.admin p
    let may : Prop := s.plt.phase = .ready ∧ a.enable = true ∧ p = s.que.active ∧ a.fetch ≠ a.sqTail ∧ a.held.length < 4
    (¬ may → idles (.descriptorFetch (.admin p) r) s) ∧
    (may → (∀ d, r = .data d → (∀ x, x ∈ a.held ++ [d] → adminOpcodes.contains (descOpc x) = true) →
        ∃ t, exec (.descriptorFetch (.admin p) r) s = .next t ∧ (t.admin p).held = a.held ++ [d] ∧
          (t.admin p).fetch = (a.fetch + 1) % 2 ^ a.sqLog.toNat ∧ Frame [.que, .ctr, .ras, .serial] s t) ∧
      (r = .poison → idles (.descriptorFetch (.admin p) r) s) ∧
      (r = .hostErr → ∃ t, exec (.descriptorFetch (.admin p) r) s = .next t ∧ reported t 0x06 0x04 0 unitQueue ∧
        Frame [.ctr, .ras, .serial] s t))) ∧
  (∀ (q : Qp) (x : QPair) (s : State), s.live = true → s.qp q = some x →
    (x.recs = [] ∨ (x.cqNext + 1) % x.cqSize = x.cqHead → idles (.completionWrite (.qp q)) s) ∧
    (∀ r rest, x.recs = r :: rest → (x.cqNext + 1) % x.cqSize ≠ x.cqHead →
      let a := x.cfg.cqAddr.toNat + 32 * x.cqNext
      let bytes := recordBytes r x.fetch q.val x.phase
      let acc := accWrite x.cfg.ep (s.authOf x)
      (x.cfg.ringPool = false → ∀ s1,
        (s.quiet.xltSet none x.cfg.asid [a] true (.record q) = (false, s1) →
          ∃ t, exec (.completionWrite (.qp q)) s = .next t ∧ t = s.quiet.settle s1) ∧
        (∀ pa, s.quiet.xltSet none x.cfg.asid [a] true (.record q) = (true, s1) → s1.xltNow none x.cfg.asid a true = some pa →
          s1.qp q = some x → ∃ t u y, exec (.completionWrite (.qp q)) s = .next t ∧ u.qp q = some y ∧ y.recs = rest ∧
            y.cqNext = (x.cqNext + 1) % x.cqSize ∧ y.phase = (x.phase != decide (x.cqNext + 1 = x.cqSize)) ∧
            y.unacked = x.unacked + 1 ∧ (∀ h, r.held = some h → tget y.held h = none) ∧
            SameBut [.que, .audit, .ctr, .ras, .serial] s1 u ∧ t = s.quiet.settle (u.issueVa x.cfg.port a
              (smallWrite hostEp x.cfg.tenant x.cfg.cls pa bytes) vcReq (.record q (x.intrNow r))))) ∧
      (x.cfg.ringPool = true →
        (s.poolBusy acc (BitVec.ofNat 64 a) 32 = true → idles (.completionWrite (.qp q)) s) ∧
        (s.poolBusy acc (BitVec.ofNat 64 a) 32 = false → ∀ s1,
          (s.quiet.writePool acc x.cfg.tenant (BitVec.ofNat 64 a) bytes [] noIo = (.ok (), s1) → s1.qp q = some x →
            ∃ t u y, exec (.completionWrite (.qp q)) s = .next t ∧ u.qp q = some y ∧ y.recs = rest ∧
              y.cqNext = (x.cqNext + 1) % x.cqSize ∧ SameBut [.que, .audit, .ctr, .ras, .serial] s1 u ∧
              t = s.quiet.settle (if x.intrNow r then u.signalQp q else u)) ∧
          (∀ st, s.quiet.writePool acc x.cfg.tenant (BitVec.ofNat 64 a) bytes [] noIo = (.error st, s1) →
            ∃ t, exec (.completionWrite (.qp q)) s = .next t ∧ t = s.quiet.settle ((s1.skipRecord q).qpError q 2)))))) ∧
  (∀ (p : PlPort) (s : State), s.live = true →
    let a := s.admin p
    let full : Prop := (a.cqNext + 1) % 2 ^ a.cqLog.toNat = a.cqHead ∨ p ≠ s.que.active
    (a.recs = [] ∨ full → idles (.completionWrite (.admin p)) s) ∧
    (∀ r rest, a.recs = r :: rest → ¬ full → ∃ t u, exec (.completionWrite (.admin p)) s = .next t ∧ (u.admin p).recs = rest ∧
      (u.admin p).cqNext = (a.cqNext + 1) % 2 ^ a.cqLog.toNat ∧ Frame [.que, .ctr, .ras, .serial] s u ∧
      t = s.quiet.settle (u.issueHost p (smallWrite hostEp 0#10 0#2 (a.cqAddr.toNat + 32 * a.cqNext)
        (recordBytes r a.fetch 0x1000 a.phase)) vcReq (.adminRecord p (a.intrEn || r.intr))))) ∧
  (∀ (q : Qp) (x : QPair) (age : Nat) (s : State), s.live = true → s.qp q = some x → x.coalAge = some age →
    (x.cfg.coalTicks = 0 ∨ age < x.cfg.coalTicks → idles (.coalTimeout q) s) ∧
    (x.cfg.coalTicks ≠ 0 → x.cfg.coalTicks ≤ age →
      (x.unacked = 0 → ∃ t u, exec (.coalTimeout q) s = .next t ∧ u.qp q = some { x with sinceIntr := 0, coalAge := none } ∧
        Frame [.que] s u ∧ t = s.quiet.settle (u.signalQp q)) ∧
      (x.unacked ≠ 0 → ∃ t, exec (.coalTimeout q) s = .next t ∧
        t.qp q = some { x with sinceIntr := 0, coalAge := none, intrDue := true } ∧ Frame [.que] s t)))
/-! ### Address translation (spec/13) -/

/-- R457 to R461, R475, R476. -/
def Obligations.SpacesAndInvalidation : Prop :=
  (∀ (p : PlPort) (s : State), s.live = true →
    (s.adminHead p 0x70#8 = none → idles (.asCreate p) s) ∧ (s.adminHead p 0x71#8 = none → idles (.asSetRoot p) s) ∧
    (s.adminHead p 0x72#8 = none → idles (.asDestroy p) s) ∧ (s.adminHead p 0x73#8 = none → idles (.inval p) s)) ∧
  (∀ (p : PlPort) (d : Desc) (s : State), s.live = true → s.adminHead p 0x70#8 = some d →
    (∀ st, s.asCreateCheck p d = .error st → ∃ t, exec (.asCreate p) s = .next t ∧ adminAnswered t p d st 0#64 ∧ Frame [.que] s t) ∧
    (∀ a, s.asCreateCheck p d = .ok a → ∃ t, exec (.asCreate p) s = .next t ∧ adminAnswered t p d stOk 0#64 ∧
      t.space (descAsid d) = some a ∧ a.port = p ∧ Frame [.que, .xlt] s t)) ∧
  (∀ (p : PlPort) (d : Desc) (s : State), s.live = true → s.adminHead p 0x71#8 = some d →
    let clean : Bool := descClean d [(16, 4), (24, 8)] && decide (descField d 16 4 < 2 ^ 20)
    let root : W64 := d.extractLsb' 192 64
    (clean = false → ∃ t, exec (.asSetRoot p) s = .next t ∧ adminAnswered t p d stBadDesc 0#64 ∧ Frame [.que] s t) ∧
    (clean = true → s.ownSpace p (descAsid d) = none →
      ∃ t, exec (.asSetRoot p) s = .next t ∧ adminAnswered t p d stBadAsid 0#64 ∧ Frame [.que] s t) ∧
    (∀ a, clean = true → s.ownSpace p (descAsid d) = some a →
      (rootAligned a.radix root = false → ∃ t, exec (.asSetRoot p) s = .next t ∧ adminAnswered t p d stAlign 0#64 ∧ Frame [.que] s t) ∧
      (rootAligned a.radix root = true → ∃ t u, exec (.asSetRoot p) s = .next t ∧ u.space (descAsid d) = some { a with root := root } ∧
        Frame [.xlt] s u ∧ t = s.quiet.settle (u.beginInval p (descAsid d) none)))) ∧
  (∀ (p : PlPort) (d : Desc) (s : State), s.live = true → s.adminHead p 0x72#8 = some d →
    let clean : Bool := descClean d [(16, 4)] && decide (descField d 16 4 < 2 ^ 20)
    (clean = false → ∃ t, exec (.asDestroy p) s = .next t ∧ adminAnswered t p d stBadDesc 0#64 ∧ Frame [.que] s t) ∧
    (clean = true → s.ownSpace p (descAsid d) = none →
      ∃ t, exec (.asDestroy p) s = .next t ∧ adminAnswered t p d stBadAsid 0#64 ∧ Frame [.que] s t) ∧
    (∀ a, clean = true → s.ownSpace p (descAsid d) = some a →
      (s.que.qps.any (fun q => q.2.cfg.asid == descAsid d) = true →
        ∃ t, exec (.asDestroy p) s = .next t ∧ adminAnswered t p d stAsBusy 0#64 ∧ Frame [.que] s t) ∧
      (s.que.qps.any (fun q => q.2.cfg.asid == descAsid d) = false → s.xlt.waiting = [] →
        ∃ t, exec (.asDestroy p) s = .next t ∧ adminAnswered t p d stOk 0#64 ∧ t.space (descAsid d) = none ∧
          (∀ e, e ∈ t.xlt.queueTlb → e.asid ≠ descAsid d) ∧ (∀ e, e ∈ t.xlt.walkCache → e.asid ≠ descAsid d) ∧
          Frame [.que, .xlt] s t))) ∧
  (∀ (p : PlPort) (d : Desc) (s : State), s.live = true → s.adminHead p 0x73#8 = some d →
    let all : Bool := d.getLsbD 160
    let base := descField d 24 8
    let len := descField d 32 8
    let clean : Bool := descClean d [(16, 4), (20, 1), (24, 8), (32, 8)] && decide (descField d 16 4 < 2 ^ 20) &&
      decide (descField d 20 1 ≤ 1) && (!all || (base == 0 && len == 0))
    (clean = false → ∃ t, exec (.inval p) s = .next t ∧ adminAnswered t p d stBadDesc 0#64 ∧ Frame [.que] s t) ∧
    (clean = true → s.ownSpace p (descAsid d) = none → ∃ t, exec (.inval p) s = .next t ∧ adminAnswered t p d stBadAsid 0#64 ∧
      Frame [.que] s t) ∧
    (∀ a, clean = true → s.ownSpace p (descAsid d) = some a →
      (all = true → ∃ t, exec (.inval p) s = .next t ∧ t = s.quiet.settle (s.quiet.beginInval p (descAsid d) none)) ∧
      (all = false → len = 0 → ∃ t, exec (.inval p) s = .next t ∧ adminAnswered t p d stBadLength 0#64 ∧ Frame [.que] s t) ∧
      (all = false → len ≠ 0 → base % 4096 ≠ 0 ∨ len % 4096 ≠ 0 →
        ∃ t, exec (.inval p) s = .next t ∧ adminAnswered t p d stAlign 0#64 ∧ Frame [.que] s t) ∧
      (all = false → len ≠ 0 → base % 4096 = 0 → len % 4096 = 0 →
        ∃ t, exec (.inval p) s = .next t ∧ t = s.quiet.settle (s.quiet.beginInval p (descAsid d) (some (base, len)))))) ∧
  (∀ (u : State) (p : PlPort) (asid : BitVec 20) (range : Option (Nat × Nat)), u.xlt.waiting = [] →
    let v := u.beginInval p asid range
    (v.admin p).busy = true ∧ (∀ e, e ∈ v.xlt.queueTlb → e.inRange asid range = false) ∧
      (∀ b e, e ∈ mget [] v.xlt.blockTlb b → e.inRange asid range = false) ∧
      (∀ k e, e ∈ mget [] v.xlt.chipTlb k → e.inRange asid range = false) ∧ (∀ e, e ∈ v.xlt.walkCache → e.asid ≠ asid) ∧
      (∀ e, e ∈ v.xlt.walks → e.2.asid = asid → e.2.stale = true) ∧
      (∃ i, i ∈ v.xlt.invals ∧ i.port = p ∧ i.asid = asid ∧ i.left = List.range 65) ∧ Frame [.xlt, .que] u v) ∧
  (∀ (e : InvalEngine) (s : State), s.live = true →
    (s.xlt.invals.find? (fun v => v.left.contains (invalEngineIx e)) = none → idles (.invalAck e) s) ∧
    (∀ v, s.xlt.invals.find? (fun v => v.left.contains (invalEngineIx e)) = some v →
      (v.drain.any (fun k => k.2 == invalEngineIx e && (tget s.rtr.reqs k.1).isSome) = true → idles (.invalAck e) s) ∧
      (v.drain.any (fun k => k.2 == invalEngineIx e && (tget s.rtr.reqs k.1).isSome) = false →
        (v.left.erase (invalEngineIx e) ≠ [] → ∃ t, exec (.invalAck e) s = .next t ∧
          { v with left := v.left.erase (invalEngineIx e) } ∈ t.xlt.invals ∧ t.que = s.que ∧ Frame [.xlt] s t) ∧
        (∀ d rest, v.left = [invalEngineIx e] → (s.admin v.port).held = d :: rest → ∃ t, exec (.invalAck e) s = .next t ∧
          t.xlt.invals = s.xlt.invals.erase v ∧ adminAnswered t v.port d stOk 0#64 ∧ Frame [.xlt, .que, .ctr, .ras, .serial] s t))))

/-- R462 to R474, R481. -/
def Obligations.WalksAndFaults : Prop :=
  (∀ (w : Nat) (entry : W64) (err : Bool) (s : State), s.live = true →
    (s.rtr.reqs.find? (fun e => e.2.sent && e.2.owner == .walk w) = none → idles (.walkReadReturn w entry err) s) ∧
    (∀ k r, s.rtr.reqs.find? (fun e => e.2.sent && e.2.owner == .walk w) = some (k, r) →
      ∃ t u, exec (.walkReadReturn w entry err) s = .next t ∧ tget u.rtr.reqs k = none ∧ Frame [.rtr] s u ∧
        t = s.quiet.settle ((u.launchNext r.dst).walkReturn w entry err))) ∧
  (∀ (u : State) (n : Nat) (w : Walk) (a : AddrSpace) (entry : W64), tget u.xlt.walks n = some w → u.space w.asid = some a →
    (∀ pa, a.readEntry w.level w.write entry = .next pa → ∃ v, u.walkReturn n entry false = v.walkRead n
        { w with level := w.level + 1, pa := pa } a ∧ tget v.xlt.walks n = some { w with level := w.level + 1, pa := pa } ∧
        Frame [.xlt] u v) ∧
    (∀ page size r wr d, a.readEntry w.level w.write entry = .leaf page size r wr d → w.stale = false → w.prefetch = false →
      u.xlt.waiting = [] → (∀ x n lc b, x ∈ w.units → x ≠ .copySet n lc b) →
      (u.walkReturn n entry false).xltNow w.block w.asid w.va w.write = some (page + w.va % 2 ^ size) ∧
        tget (u.walkReturn n entry false).xlt.walks n = none ∧ Frame [.xlt] u (u.walkReturn n entry false)) ∧
    (∀ c, a.readEntry w.level w.write entry = .fault c → w.stale = false → w.prefetch = false →
      u.walkReturn n entry false = ((u.endWalk n).faultWalk w w.level (a.entryAddr w.level w.pa w.va) c).startWaiting 64) ∧
    (∀ c, w.units ≠ [] → (∀ x, x ∈ w.units → x.writes = w.write) → u.faultWalk w w.level (a.entryAddr w.level w.pa w.va) c =
      u.raiseFault w w.level (a.entryAddr w.level w.pa w.va) c) ∧
    (w.stale = true ∨ w.prefetch = true → u.xlt.waiting = [] → (∀ pa, a.readEntry w.level w.write entry ≠ .next pa) →
      (∀ x n lc b, x ∈ w.units → x ≠ .copySet n lc b) →
      (u.walkReturn n entry false).tlb w.block = u.tlb w.block ∧ Frame [.xlt] u (u.walkReturn n entry false)) ∧
    (w.stale = false → w.prefetch = false → ∃ v, u.walkReturn n entry true = v.walkFail n stHostMem ∧
      reported v 0x07 0x02 0 (match w.block with | some b => unitBlock b | none => unitQueue) ∧ Frame [.ras, .ctr, .serial] u v)) ∧
  (∀ (a : AddrSpace) (lvl : Nat) (wr : Bool) (e : W64), a.radix = none →
    let leaf : Prop := e.getLsbD 1 = true ∨ e.getLsbD 2 = true ∨ e.getLsbD 3 = true
    let sound : Prop := e.getLsbD 63 = false ∧ e.extractLsb' 54 7 = 0#7 ∧ (e.getLsbD 2 = true → e.getLsbD 1 = true)
    let ppn := (e.extractLsb' 10 44).toNat
    (e.getLsbD 0 = false → a.readEntry lvl wr e = .fault .notValid) ∧
    (e.getLsbD 0 = true → ¬ sound → a.readEntry lvl wr e = .fault .badEntry) ∧
    (e.getLsbD 0 = true → sound → ¬ leaf →
      (e.getLsbD 4 = true ∨ e.getLsbD 6 = true ∨ e.getLsbD 7 = true ∨ lvl + 1 = svLevels a.mode → a.readEntry lvl wr e = .fault .badEntry) ∧
      (e.getLsbD 4 = false → e.getLsbD 6 = false → e.getLsbD 7 = false → lvl + 1 ≠ svLevels a.mode →
        a.readEntry lvl wr e = .next (ppn * 4096))) ∧
    (e.getLsbD 0 = true → sound → leaf →
      (30 < a.lo lvl ∨ ppn % 2 ^ (a.lo lvl - 12) ≠ 0 → a.readEntry lvl wr e = .fault .badEntry) ∧
      (a.lo lvl ≤ 30 → ppn % 2 ^ (a.lo lvl - 12) = 0 →
        (a.requireU = true → e.getLsbD 4 = false → a.readEntry lvl wr e = .fault .user) ∧
        ((a.requireU = true → e.getLsbD 4 = true) →
          (e.getLsbD 1 = false → a.readEntry lvl wr e = .fault .noRead) ∧
          (e.getLsbD 1 = true → wr = true → e.getLsbD 2 = false → a.readEntry lvl wr e = .fault .noWrite) ∧
          (e.getLsbD 1 = true → (wr = true → e.getLsbD 2 = true) →
            (e.getLsbD 6 = false ∨ (wr = true ∧ e.getLsbD 7 = false) → a.readEntry lvl wr e = .fault .accessFlag) ∧
            (e.getLsbD 6 = true → (wr = true → e.getLsbD 7 = true) → a.readEntry lvl wr e =
              .leaf (ppn * 4096) (a.lo lvl) (e.getLsbD 1) (e.getLsbD 2) (e.getLsbD 7))))))) ∧
  (∀ (p : PlPort) (s : State), s.live = true →
    (s.adminHead p 0x74#8 = none → idles (.faultRingSet p) s) ∧ (s.adminHead p 0x75#8 = none → idles (.faultResp p) s) ∧
    (∀ v, ∃ t, exec (.faultHeadWrite p v) s = .next t ∧
      mget FaultRing.reset t.xlt.rings p.val = { mget FaultRing.reset s.xlt.rings p.val with head := v } ∧ Frame [.xlt] s t)) ∧
  (∀ (p : PlPort) (d : Desc) (s : State), s.live = true → s.adminHead p 0x74#8 = some d →
    let log := descField d 24 1
    let vec := descField d 26 2
    let addr : W64 := d.extractLsb' 128 64
    let clean : Bool := descClean d [(16, 8), (24, 1), (26, 2)] && (vec == 0xFFFF || decide (vec < 2 ^ 11))
    (clean = false → ∃ t, exec (.faultRingSet p) s = .next t ∧ adminAnswered t p d stBadDesc 0#64 ∧ Frame [.que] s t) ∧
    (clean = true → log < 4 ∨ 12 < log → ∃ t, exec (.faultRingSet p) s = .next t ∧ adminAnswered t p d stBadSize 0#64 ∧
      Frame [.que] s t) ∧
    (clean = true → 4 ≤ log → log ≤ 12 →
      (addr.toNat % 4096 ≠ 0 → ∃ t, exec (.faultRingSet p) s = .next t ∧ adminAnswered t p d stAlign 0#64 ∧ Frame [.que] s t) ∧
      (addr.toNat % 4096 = 0 → s.xlt.faults.any (fun f => f.port == p) = true →
        ∃ t, exec (.faultRingSet p) s = .next t ∧ adminAnswered t p d stAsBusy 0#64 ∧ Frame [.que] s t) ∧
      (addr.toNat % 4096 = 0 → s.xlt.faults.any (fun f => f.port == p) = false →
        ∃ t, exec (.faultRingSet p) s = .next t ∧ adminAnswered t p d stOk 0#64 ∧ mget FaultRing.reset t.xlt.rings p.val =
          { addr := some addr, log := log, vector := BitVec.ofNat 16 vec, next := 0, phase := true, head := 0#12 } ∧
          Frame [.que, .xlt] s t))) ∧
  (∀ (p : PlPort) (s : State), s.live = true →
    let r := mget FaultRing.reset s.xlt.rings p.val
    let full : Prop := (r.next + 1) % 2 ^ r.log = r.head.toNat ∨ p ≠ s.que.active
    (s.xlt.faults.find? (fun f => f.port == p && !f.written) = none ∨ r.addr = none ∨ full → idles (.faultRecordWrite p) s) ∧
    (∀ f a, s.xlt.faults.find? (fun f => f.port == p && !f.written) = some f → r.addr = some a → ¬ full →
      ∃ t u, exec (.faultRecordWrite p) s = .next t ∧ (mget FaultRing.reset u.xlt.rings p.val).next = (r.next + 1) % 2 ^ r.log ∧
        (mget FaultRing.reset u.xlt.rings p.val).phase = (r.phase != decide (r.next + 1 = 2 ^ r.log)) ∧
        { f with written := true } ∈ u.xlt.faults ∧ Frame [.xlt] s u ∧ t = s.quiet.settle (u.issueHost p
          (smallWrite hostEp 0#10 0#2 (a.toNat + 32 * r.next) (f.record.take 31 ++ [if r.phase then 1#8 else 0#8])) vcReq
          (.faultRecord p)))) ∧
  (∀ (p : PlPort) (d : Desc) (s : State), s.live = true → s.adminHead p 0x75#8 = some d →
    let clean : Bool := descClean d [(16, 2), (18, 1)] && decide (descField d 18 1 ≤ 1)
    let hit := s.xlt.faults.find? (fun f => f.id.toNat == descField d 16 2)
    (clean = false → ∃ t, exec (.faultResp p) s = .next t ∧ adminAnswered t p d stBadDesc 0#64 ∧ Frame [.que] s t) ∧
    (clean = true → hit = none → ∃ t, exec (.faultResp p) s = .next t ∧ adminAnswered t p d stNoFault 0#64 ∧ Frame [.que] s t) ∧
    (∀ f, clean = true → hit = some f →
      (descField d 18 1 = 0 → ∃ t, exec (.faultResp p) s = .next t ∧
        t = s.quiet.settle (((s.quiet.freeFault f.id).pumpUnits f.units).adminDone p stOk 0#64)) ∧
      (descField d 18 1 = 1 → ∃ t, exec (.faultResp p) s = .next t ∧
        t = s.quiet.settle ((s.quiet.failFault f stXltFault).adminDone p stOk 0#64)))) ∧
  (∀ (u : State) (f : FaultEntry) (st : Status), u.xlt.tableWaiters = [] →
    (∀ g, g ∈ (u.freeFault f.id).xlt.faults → g.id ≠ f.id) ∧ Frame [.xlt] u (u.freeFault f.id) ∧
    (∀ q x, f.units = [.ring q] → u.qp q = some x → x.state = .active →
      ∃ y, (u.failFault f st).qp q = some y ∧ y.state = .error ∧ reported (u.failFault f st) 0x06 0x01 0 unitQueue)) ∧
  (∀ (id : BitVec 16) (s : State), s.live = true →
    (s.xlt.faults.find? (fun f => f.id == id) = none → idles (.faultTimeout id) s) ∧
    (∀ f, s.xlt.faults.find? (fun f => f.id == id) = some f → ∃ t u, exec (.faultTimeout id) s = .next t ∧
      reported u 0x07 0x01 0 (BitVec.ofNat 16 (fieldAt f.record 26 2)) ∧ Frame [.ras, .ctr, .serial] s u ∧
      t = s.quiet.settle (u.failFault f stXltTimeout)))
/-! ### Security (spec/14) -/

/-- R486 to R490, R493, R495. -/
def Obligations.HeadlandTakesMessages : Prop :=
  (∀ (p : PlPort) (msg : List Byte) (s : State), s.awake = true →
    (((s.mbox p).busy = true ∧ (s.mbox p).asked = false) ∨ s.windowsServed = false → ∃ t, exec (.mboxGo p msg) s = .next t ∧ Frame [.links] s t) ∧
    ((s.mbox p).busy = false ∨ (s.mbox p).asked = true → s.windowsServed = true → ∃ t u, exec (.mboxGo p msg) s = .next t ∧
      u.mbox p = { s.mbox p with busy := true, asked := false } ∧
      Frame [.sec] s u ∧ t = s.quiet.settle (u.headReceive (some p) 0#64 (List.takeD (s.mbox p).reqLen.toNat msg 0#8)))) ∧
  (∀ (src : W64) (msgNo : W32) (frag count : BitVec 16) (bytes : List Byte) (s : State), s.awake = true →
    let isIt (f : FragSet) : Bool := f.src == src && f.msgNo == msgNo
    let old : FragSet := (s.sec.frags.find? isIt).getD ⟨src, msgNo, count.toNat, []⟩
    let all : SMap (List Byte) := tput old.frags frag.toNat bytes
    let rest := s.sec.frags.filter (fun f => !isIt f)
    (s.windowsServed = false ∨ count.toNat ≤ frag.toNat ∨ 1400 < bytes.length ∨ old.count ≠ count.toNat →
      ∃ t, exec (.mgmtDatagram src msgNo frag count bytes) s = .next t ∧ Frame [.links] s t) ∧
    (s.windowsServed = true → frag.toNat < count.toNat → bytes.length ≤ 1400 → old.count = count.toNat →
      (all.length < count.toNat → ∃ t, exec (.mgmtDatagram src msgNo frag count bytes) s = .next t ∧
        t.sec = { s.sec with frags := rest ++ [{ old with frags := all }] } ∧ Frame [.sec, .links] s t) ∧
      (count.toNat ≤ all.length → ∃ t, exec (.mgmtDatagram src msgNo frag count bytes) s = .next t ∧
        t = s.quiet.settle (({ s.quiet with sec := { s.sec with frags := rest } }).headReceive none src (tvals all).flatten)))) ∧
  (∀ (src : W64) (msgNo : W32) (s : State), s.awake = true →
    ∃ t, exec (.mgmtFragmentTimeout src msgNo) s = .next t ∧ (∀ f, f ∈ t.sec.frags → ¬ (f.src = src ∧ f.msgNo = msgNo)) ∧
      Frame [.sec, .links] s t) ∧
  (∀ (v : State) (port : Option PlPort) (src : W64) (bs : List Byte),
    let m : SecMsg := { port := port, src := src, cmd := BitVec.ofNat 8 (fieldAt bs 1 1), prot := fieldAt bs 3 1 == 1,
                        sess := fieldAt bs 8 4, seq := fieldAt bs 12 4, body := bs.drop 16, started := false }
    let plain : SecMsg := { m with prot := false }
    let r := v.headReceive port src bs
    (headWellFormed bs = false → .head port src (v.answerBytes plain secBadMsg [] 0) ∈ r.out ∧ r.sec.msgs = v.sec.msgs ∧
      r.sec.sessions = v.sec.sessions ∧ Frame [.sec, .rtr] v r) ∧
    (headWellFormed bs = true → m.prot = false → r.sec = { v.sec with msgs := v.sec.msgs ++ [m] } ∧ Frame [.sec] v r) ∧
    (headWellFormed bs = true → m.prot = true → (∀ x, v.session m.sess = some x → x.isOpen = false) →
      .head port src (v.answerBytes plain secDenied [] 0) ∈ r.out ∧ r.sec.msgs = v.sec.msgs ∧ Frame [.sec, .rtr] v r) ∧
    (∀ x, headWellFormed bs = true → m.prot = true → v.session m.sess = some x → x.isOpen = true →
      (m.seq + 1 = x.seqIn → x.seqOut = x.seqIn → r.sec.msgs = v.sec.msgs ∧ r.sec.sessions = v.sec.sessions ∧ Frame [.sec, .rtr] v r ∧
        (port = none → .head none src (x.last.getD []) ∈ r.out)) ∧
      (m.seq + 1 ≠ x.seqIn → m.seq ≠ x.seqIn → .head port src (v.answerBytes plain secBadMsg [] 0) ∈ r.out ∧ r.sec.msgs = v.sec.msgs ∧
        Frame [.sec, .rtr] v r) ∧
      (m.seq = x.seqIn → openBytes x.keyIn (headIv false m.sess m.seq) (bs.take 16) (bs.drop 16) = none →
        r.session m.sess = none ∧ r.sec.msgs = v.sec.msgs ∧ reported r 0x0B 0x02 0 unitHeadland ∧
        Frame [.sec, .rtr, .ctr, .ras, .serial] v r) ∧
      (∀ pt, m.seq = x.seqIn → openBytes x.keyIn (headIv false m.sess m.seq) (bs.take 16) (bs.drop 16) = some pt →
        r.sec.msgs = v.sec.msgs ++ [{ m with body := pt }] ∧ r.session m.sess = some { x with seqIn := x.seqIn + 1 } ∧
        Frame [.sec] v r))) ∧
  (∀ (e : (Nat → Instr) × Nat) (i : Nat) (s : State), e ∈ openRows ++ operatorRows ++ tenantRows → s.awake = true →
    ((∀ m, s.sec.msgs[i]? = some m → m.started = false ∧ m.cmd.toNat ≠ e.2) → ∃ t, exec (e.1 i) s = .next t ∧ Frame [.links] s t) ∧
    (∀ m u st, s.takes i e.2 m u → s.headGate e.2 = some st → headAnswers (e.1 i) s u m st [])) ∧
  (∀ (e : (Nat → Instr) × Nat) (i : Nat) (s u : State) (m : SecMsg), e ∈ operatorRows → s.serves i e.2 m u →
    (∀ x, ¬ u.fromOperator m x) → headAnswers (e.1 i) s u m secDenied []) ∧
  (∀ (e : (Nat → Instr) × Nat) (i : Nat) (s u : State) (m : SecMsg), e ∈ tenantRows → s.serves i e.2 m u →
    (∀ t, ¬ u.fromTenant m t) → headAnswers (e.1 i) s u m secDenied []) ∧
  (∀ (v : State) (m : SecMsg) (st sid : Nat) (body : List Byte),
    let r := v.headAnswer m st body sid
    (∀ p, m.port = some p → (r.mbox p).busy = false ∧ (r.mbox p).done = true ∧
      (r.mbox p).rspLen = BitVec.ofNat 15 (v.answerBytes m st body sid).length) ∧
    (∀ x, v.msgSession m = some x → x.seqOut + 2 < 2 ^ 32 → ∃ bs, r.session m.sess = some { x with seqOut := x.seqOut + 1, last := some bs }) ∧
    (∀ x, v.msgSession m = some x → x.seqOut + 2 = 2 ^ 32 → r.session m.sess = none))

/-- R491, R492, R494, R497. -/
def Obligations.SessionsOpenAndAttest : Prop :=
  (∀ (i : Nat) (s u : State) (m : SecMsg), s.serves i 0x01 m u →
    let n := fieldAt m.body 0 1
    let c := Config.certificate n u.attestBase
    (m.body.length ≠ 4 ∨ 2 < n ∨ bodyZero m.body 1 3 = false → headAnswers (.getCerts i) s u m secBadMsg []) ∧
    (m.body.length = 4 → n ≤ 2 → bodyZero m.body 1 3 = true → headAnswers (.getCerts i) s u m secOk (natBytes 4 c.length ++ c))) ∧
  (∀ (i : Nat) (s u : State) (m : SecMsg), s.serves i 0x02 m u →
    (m.body.length ≠ 64 → headAnswers (.attest i) s u m secBadMsg []) ∧
    (m.body.length = 64 → (∀ x, ¬ u.fromOperator m x) → (∀ t, ¬ u.fromTenant m t) →
      headAnswers (.attest i) s u m secOk (u.attestReport m.body none)) ∧
    (∀ x, m.body.length = 64 → u.fromOperator m x → headAnswers (.attest i) s u m secOk (u.attestReport m.body none)) ∧
    (∀ t, m.body.length = 64 → u.fromTenant m t → headAnswers (.attest i) s u m secOk (u.attestReport m.body (some t)))) ∧
  (∀ (i : Nat) (s u : State) (m : SecMsg), s.serves i 0x10 m u →
    let k := fieldAt m.body 0 1
    let tn := fieldAt m.body 2 2
    let clean : Prop := m.body.length = 1608 ∧ bodyZero m.body 1 1 = true ∧ bodyZero m.body 4 4 = true ∧
      ((k = 1 ∧ tn = 0xFFFF) ∨ (k = 2 ∧ tn < 1024))
    let enc := Config.mlkemEncaps u.serial (m.body.drop 40)
    let part := List.takeD 32 (Config.entropy u.serial) 0#8 ++ List.takeD 1568 enc.1 0#8
    let sig := List.takeD 4627 (Config.attestSign u.attestBase (sha3 (m.body ++ part))) 0#8
    (m.prot = true → headAnswers (.sessionOpen i) s u m secDenied []) ∧
    (m.prot = false → ¬ clean → headAnswers (.sessionOpen i) s u m secBadMsg []) ∧
    (m.prot = false → clean → 256 ≤ u.sec.sessions.length → headAnswers (.sessionOpen i) s u m secFull []) ∧
    (m.prot = false → clean → u.sec.sessions.length < 256 → ∃ v x,
      headAnswersIn (.sessionOpen i) s v m secOk (part ++ sig) u.sec.nextSess ∧ v.session u.sec.nextSess = some x ∧
      x.kind = (if k = 1 then .operator else .tenant (BitVec.ofNat 10 tn)) ∧ x.isOpen = false ∧ x.transcript = m.body ++ part ++ sig ∧
      x.shared = enc.2 ∧ x.certs = [] ∧ x.seqIn = 0 ∧ x.seqOut = 0 ∧ x.port = m.port ∧ v.sec.nextSess = u.sec.nextSess + 1 ∧
      Frame [.sec, .serial] u v)) ∧
  (∀ (i : Nat) (s u : State) (m : SecMsg), s.serves i 0x13 m u →
    let n := fieldAt m.body 0 4
    let clean : Prop := m.body.length = 4 + n ∧ 4 ≤ m.body.length ∧ n ≤ 16000
    (m.prot = true → headAnswers (.sessionCert i) s u m secDenied []) ∧
    (m.prot = false → u.handshake m = none → headAnswers (.sessionCert i) s u m secBadState []) ∧
    (∀ x, u.handshake m = some x →
      (¬ clean → headAnswersIn (.sessionCert i) s u m secBadMsg [] m.sess) ∧
      (clean → x.kind ≠ .operator ∨ 3 ≤ x.certs.length → headAnswersIn (.sessionCert i) s u m secBadState [] m.sess) ∧
      (clean → x.kind = .operator → x.certs.length < 3 → headAnswersIn (.sessionCert i) s
        (u.setSession m.sess { x with certs := x.certs ++ [m.body.drop 4], transcript := x.transcript ++ m.body }) m secOk [] m.sess))) ∧
  (∀ (i : Nat) (s u : State) (m : SecMsg), s.serves i 0x11 m u →
    (m.prot = true → headAnswers (.sessionFinish i) s u m secDenied []) ∧
    (m.prot = false → u.handshake m = none → headAnswers (.sessionFinish i) s u m secBadState []) ∧
    (∀ x, u.handshake m = some x →
      let k := sha3 (x.shared ++ sha3 (x.transcript ++ m.body))
      (m.body.length ≠ 4627 → headAnswersIn (.sessionFinish i) s u m secBadMsg [] m.sess) ∧
      (m.body.length = 4627 → (∀ c, u.clientKey x = some c → Config.mldsaVerify c (sha3 x.transcript) m.body = false) →
        ∃ v, headAnswersIn (.sessionFinish i) s v m secAuthErr [] m.sess ∧ v.session m.sess = none ∧
          reported v 0x0B 0x02 0 unitHeadland ∧ Frame [.sec, .ctr, .ras, .serial] u v) ∧
      (∀ c, m.body.length = 4627 → u.clientKey x = some c → Config.mldsaVerify c (sha3 x.transcript) m.body = true →
        headAnswersIn (.sessionFinish i) s (u.setSession m.sess
          { x with isOpen := true, keyIn := k.take 32, keyOut := k.drop 32, transcript := [], shared := [] }) m secOk [] m.sess))) ∧
  (∀ (i : Nat) (s u : State) (m : SecMsg), s.serves i 0x12 m u →
    (u.msgSession m = none → headAnswers (.sessionClose i) s u m secDenied []) ∧
    (∀ x, u.msgSession m = some x →
      (m.body ≠ [] → headAnswers (.sessionClose i) s u m secBadMsg []) ∧
      (m.body = [] → ∃ t, exec (.sessionClose i) s = .next t ∧ .head m.port m.src (u.answerBytes m secOk [] 0) ∈ t.out ∧
        t.session m.sess = none ∧ Frame [.sec, .rtr, .links] s t))) ∧
  (∀ (n : W32) (s : State), s.awake = true → ∃ t, exec (.sessionIdleTimeout n) s = .next t ∧ t.session n.toNat = none ∧
    { t.sec with sessions := [] } = { s.sec with sessions := [] } ∧ Frame [.sec, .links] s t) ∧
  (∀ (i : Nat) (s u : State) (m : SecMsg), s.serves i 0x20 m u →
    let key := m.body.take 2592
    let sig := m.body.drop 2592
    (m.prot = true → (∀ x, ¬ u.fromOperator m x) → headAnswers (.operatorRootSet i) s u m secDenied []) ∧
    (u.sec.root = none → m.prot = false ∨ (∃ x, u.fromOperator m x) →
      (m.body.length ≠ 7219 ∨ bodyZero sig 0 4627 = false → headAnswers (.operatorRootSet i) s u m secBadMsg []) ∧
      (m.body.length = 7219 → bodyZero sig 0 4627 = true → ∃ v, headAnswers (.operatorRootSet i) s v m secOk [] ∧ v.sec.root = some key ∧
        (u.plt.flash.present = true → v.plt.flash = { u.plt.flash with root := some key }) ∧ Frame [.sec, .plt] u v)) ∧
    (∀ r, u.sec.root = some r → m.prot = false → headAnswers (.operatorRootSet i) s u m secDenied []) ∧
    (∀ r x, u.sec.root = some r → u.fromOperator m x →
      (m.body.length ≠ 7219 → headAnswers (.operatorRootSet i) s u m secBadMsg []) ∧
      (m.body.length = 7219 → Config.mldsaVerify r key sig = false → headAnswers (.operatorRootSet i) s u m secAuthErr []) ∧
      (m.body.length = 7219 → Config.mldsaVerify r key sig = true → ∃ t, exec (.operatorRootSet i) s = .next t ∧
        .head m.port m.src (u.answerBytes m secOk [] 0) ∈ t.out ∧ t.sec.root = some key ∧
        (∀ e, e ∈ t.sec.sessions → ¬ (e.2.isOpen = true ∧ e.2.kind = .operator)) ∧ Frame [.sec, .plt, .rtr, .links] s t)))

/-- R499, R500, R503, R507, R508, R513 to R515. -/
def Obligations.TenantsAndStreamKeys : Prop :=
  (∀ (i : Nat) (s u : State) (m : SecMsg) (x : Session), s.serves i 0x21 m u → u.fromOperator m x →
    let n := fieldAt m.body 0 2
    let t : Tenant := BitVec.ofNat 10 n
    let clean : Prop := m.body.length = 2596 ∧ n < 1024 ∧ bodyZero m.body 2 2 = true
    (¬ clean → headAnswers (.tenantBind i) s u m secBadMsg []) ∧
    (clean → (u.tenant t).key.isSome = true ∨ (u.tenant t).leaving = true → headAnswers (.tenantBind i) s u m secBadState []) ∧
    (clean → (u.tenant t).key = none → (u.tenant t).leaving = false → ∃ v, headAnswers (.tenantBind i) s v m secOk [] ∧
      v.tenant t = { u.tenant t with key := some (m.body.drop 4) } ∧
      (keysRise s.ctr = true → ∀ k, k < 9 → v.counter (ctrTen k t.toNat) = 0) ∧ Frame [.sec, .ctr, .dbg] u v)) ∧
  (∀ (i : Nat) (s u : State) (m : SecMsg), s.serves i 0x22 m u →
    let n := fieldAt m.body 0 2
    let t : Tenant := BitVec.ofNat 10 n
    let clean : Prop := m.body.length = 4 ∧ n < 1024 ∧ bodyZero m.body 2 2 = true
    (u.msgSession m = none → headAnswers (.tenantRemove i) s u m secDenied []) ∧
    (∀ x, u.msgSession m = some x →
      (¬ clean → headAnswers (.tenantRemove i) s u m secBadMsg []) ∧
      (clean → x.kind ≠ .operator → x.kind ≠ .tenant t → headAnswers (.tenantRemove i) s u m secDenied []) ∧
      (clean → x.kind = .operator ∨ x.kind = .tenant t →
        ((u.tenant t).leaving = true → headAnswers (.tenantRemove i) s u m secBusy []) ∧
        ((u.tenant t).leaving = false → (u.tenant t).key = none → headAnswers (.tenantRemove i) s u m secBadState []) ∧
        ((u.tenant t).leaving = false → (u.tenant t).key ≠ none → ∃ w, exec (.tenantRemove i) s = .next w ∧
          w.tenant t = { u.tenant t with removing := some 0, remover := some s.sec.nextDeferred } ∧
          tget w.sec.deferred s.sec.nextDeferred = some m ∧ Frame [.sec, .links] s w)))) ∧
  (∀ (t : Tenant) (s : State), s.live = true →
    ((s.tenant t).removing = none → idles (.teardownFence t) s) ∧ ((s.tenant t).removing = some 0 → idles (.teardownFence t) s) ∧
    (∀ n, (s.tenant t).removing = some (n + 1) →
      let hit (e : Nat × Extent) : Bool := e.2.tenant == t && (e.2.state == .granted || e.2.state == .sealed)
      ∃ w a b, exec (.teardownFence t) s = .next w ∧ a.tenant t = { s.tenant t with removing := none, fenced := true, fenceTicks := 0 } ∧
        Frame [.sec] s a ∧
        b = (a.que.qps.filter (fun q => q.2.cfg.tenant == t)).foldl (fun st q =>
          (st.abortQp ⟨q.1 % 4096, Nat.mod_lt _ (by decide)⟩ (fun _ => true)).2) a ∧
        w = s.quiet.settle ((b.ext.extents.filter hit).foldl (fun st e => st.revoke e.1 e.2) b) ∧
        ((∀ q, q ∈ s.que.qps → q.2.cfg.tenant ≠ t) → keysRise s.ext.extents = true → Frame [.sec, .ext] s w ∧
          ∀ e x, s.extent e = some x → hit (e, x) = true → x.changes.any (fun c => c.change == .revoke) = false →
            w.extent e = some { x with changes := x.changes ++ [⟨.revoke, allSlices⟩] }))) ∧
  (∀ (t : Tenant) (s : State), s.live = true →
    ((s.tenant t).fenced = false ∨ s.fenceComplete t = false → idles (.teardownComplete t) s) ∧
    ((s.tenant t).fenced = true → s.fenceComplete t = true → ∃ w a, exec (.teardownComplete t) s = .next w ∧
      a.tenant t = TenantRec.reset ∧ reported a 0x0B 0x04 0 unitHeadland ∧
      (s.xlt.waiting = [] → keysRise s.sec.crypto = true → ∀ (p : PlPort) (b : Bool), (linkSlotOf (s.crypto (plPort p)) b).owner = t →
        (linkSlotOf (a.crypto (plPort p)) b).key = none) ∧
      (s.xlt.waiting = [] → Frame [.fab, .xlt, .que, .sec, .ctr, .ras, .serial] s a) ∧
      w = s.quiet.settle ((match (s.tenant t).remover with
        | some n => a.headFinish n secOk []
        | none => a).closeSessions (fun y => y.isTenants t)) ∧
      (∀ e, e ∈ w.sec.sessions → e.2.kind ≠ .tenant t))) ∧
  (∀ (i : Nat) (s u : State) (m : SecMsg) (t : Tenant), s.serves i 0x30 m u → u.fromTenant m t →
    let x := u.tenant t
    let clean : Bool := m.body.length = 36 && bodyZero m.body 1 3
    (clean = false ∨ bodySlot m.body = none → headAnswers (.keyInstall i) s u m secBadMsg []) ∧
    (∀ b, clean = true → bodySlot m.body = some b →
      (x.fenced = true ∨ u.sec.debugUnlocked = true ∨ (streamSlot x b).state ≠ .empty →
        headAnswers (.keyInstall i) s u m secBadState []) ∧
      (x.fenced = false → u.sec.debugUnlocked = false → (streamSlot x b).state = .empty →
        headAnswers (.keyInstall i) s (u.setTenant t (setStreamSlot x b ⟨.loaded, m.body.drop 4, 0⟩)) m secOk []))) ∧
  (∀ (i : Nat) (s u : State) (m : SecMsg) (t : Tenant), s.serves i 0x31 m u → u.fromTenant m t →
    let x := u.tenant t
    (m.body ≠ [] → headAnswers (.keySwitch i) s u m secBadMsg []) ∧
    (m.body = [] → x.fenced = true ∨ x.switchable = none → headAnswers (.keySwitch i) s u m secBadState []) ∧
    (m.body = [] → x.fenced = false → x.switchable ≠ none → x.switch = none →
      headAnswers (.keySwitch i) s (u.setTenant t { x with switch := some 0 }) m secOk []) ∧
    (∀ n, m.body = [] → x.fenced = false → x.switchable ≠ none → x.switch = some n → headAnswers (.keySwitch i) s (u.setTenant t x) m secOk []))
    ∧
  (∀ (t : Tenant) (s : State), s.live = true →
    let x := s.tenant t
    (x.switch = none → idles (.keySwitchApply t) s) ∧ (x.switch = some 0 → idles (.keySwitchApply t) s) ∧
    (∀ n, x.switch = some (n + 1) → x.switchable = none → ∃ w, exec (.keySwitchApply t) s = .next w ∧
      w.tenant t = { x with switch := none } ∧ Frame [.sec] s w) ∧
    (∀ n b, x.switch = some (n + 1) → x.switchable = some b → ∃ w, exec (.keySwitchApply t) s = .next w ∧
      streamSlot (w.tenant t) b = { streamSlot x b with state := .active } ∧
      streamSlot (w.tenant t) (!b) = (if (streamSlot x (!b)).state = .active then { streamSlot x (!b) with state := .retiring }
        else streamSlot x (!b)) ∧
      (w.tenant t).switch = none ∧ (w.tenant t).required = x.required ∧ Frame [.sec] s w)) ∧
  (∀ (i : Nat) (s u : State) (m : SecMsg) (t : Tenant), s.serves i 0x32 m u → u.fromTenant m t →
    let x := u.tenant t
    (m.body ≠ [] → headAnswers (.keyConfirm i) s u m secBadMsg []) ∧
    (m.body = [] → x.retiringSlot = none → headAnswers (.keyConfirm i) s u m secBadState []) ∧
    (m.body = [] → x.retiringSlot ≠ none →
      headAnswers (.keyConfirm i) s (u.setTenant t { x with confirmed := some (x.confirmed.getD 0) }) m secOk [])) ∧
  (∀ (t : Tenant) (s : State), s.live = true →
    let x := s.tenant t
    (x.confirmed = none ∨ x.retiringSlot = none → idles (.keyRetire t) s) ∧
    (∀ n, x.confirmed = some n → n < 3 → idles (.keyRetire t) s) ∧
    (∀ n b, x.confirmed = some n → 3 ≤ n → x.retiringSlot = some b → ∃ w, exec (.keyRetire t) s = .next w ∧
      w.tenant t = { setStreamSlot x b KeySlot.empty with confirmed := none } ∧ reported w 0x0B 0x03 0 unitHeadland ∧
      Frame [.sec, .ctr, .ras, .serial] s w)) ∧
  (∀ (i : Nat) (s u : State) (m : SecMsg) (t : Tenant), s.serves i 0x33 m u → u.fromTenant m t →
    let x := u.tenant t
    let clean : Bool := m.body.length = 4 && bodyZero m.body 1 3
    (clean = false ∨ bodySlot m.body = none → headAnswers (.keyDestroy i) s u m secBadMsg []) ∧
    (∀ b, clean = true → bodySlot m.body = some b →
      ((streamSlot x b).state = .empty ∨ ((streamSlot x b).state = .active ∧ x.required = true) →
        headAnswers (.keyDestroy i) s u m secBadState []) ∧
      ((streamSlot x b).state = .retiring →
        headAnswers (.keyDestroy i) s (u.setTenant t { setStreamSlot x b KeySlot.empty with confirmed := none }) m secOk []) ∧
      ((streamSlot x b).state = .loaded ∨ ((streamSlot x b).state = .active ∧ x.required = false) →
        headAnswers (.keyDestroy i) s (u.setTenant t (setStreamSlot x b KeySlot.empty)) m secOk []))) ∧
  (∀ (i : Nat) (s u : State) (m : SecMsg) (t : Tenant), s.serves i 0x34 m u → u.fromTenant m t →
    let x := u.tenant t
    let clean : Bool := m.body.length = 4 && bodyZero m.body 1 3
    let keyed : Prop := x.slot0.state = .active ∨ x.slot1.state = .active
    (clean = false ∨ bodySlot m.body = none → headAnswers (.encMode i) s u m secBadMsg []) ∧
    (∀ b, clean = true → bodySlot m.body = some b →
      (x.fenced = true ∨ (b = true ∧ ¬ keyed) ∨ (b = false ∧ u.sealedExts t ≠ []) → headAnswers (.encMode i) s u m secBadState []) ∧
      (x.fenced = false → (b = true → keyed) → (b = false → u.sealedExts t = []) →
        headAnswers (.encMode i) s (u.setTenant t { x with modeNext := some (b, 0) }) m secOk []))) ∧
  (∀ (t : Tenant) (s : State), s.live = true →
    ((s.tenant t).modeNext = none → idles (.encModeApply t) s) ∧ (∀ b, (s.tenant t).modeNext = some (b, 0) → idles (.encModeApply t) s) ∧
    (∀ b n, (s.tenant t).modeNext = some (b, n + 1) → ∃ w, exec (.encModeApply t) s = .next w ∧
      w.tenant t = { s.tenant t with required := b, modeNext := none } ∧ Frame [.sec] s w)) ∧
  (∀ (i : Nat) (s u : State) (m : SecMsg) (t : Tenant), s.serves i 0x35 m u → u.fromTenant m t →
    let x := u.tenant t
    (m.body.length ≠ 2592 → headAnswers (.reelKeyEnroll i) s u m secBadMsg []) ∧
    (m.body.length = 2592 → 4 ≤ x.reelKeys.length → headAnswers (.reelKeyEnroll i) s u m secFull []) ∧
    (m.body.length = 2592 → x.reelKeys.length < 4 → headAnswers (.reelKeyEnroll i) s
      (u.setTenant t { x with reelKeys := x.reelKeys ++ [m.body] }) m secOk ((sha3 m.body).take 8)))

/-- R486, R491, R496, R501, R502, R510, R512, R518, R521. -/
def Obligations.SealsLinkKeysAndAuthority : Prop :=
  (∀ (i : Nat) (s u : State) (m : SecMsg) (t : Tenant), s.serves i 0x36 m u → u.fromTenant m t →
    let e := fieldAt m.body 0 2
    let n := fieldAt m.body 2 2
    let clean : Prop := m.body.length = 4 + 4 * n ∧ n ≤ 64 ∧ e < 8192
    (¬ clean → headAnswers (.extentSeal i) s u m secBadMsg []) ∧
    (clean → (∀ x, u.extent e = some x → x.tenant ≠ t) → headAnswers (.extentSeal i) s u m secDenied []) ∧
    (∀ x, clean → u.extent e = some x → x.tenant = t →
      let good : Prop := (u.tenant t).fenced = false ∧ u.sec.debugUnlocked = false ∧ x.state = .granted ∧ x.lost = false ∧ x.changes = [] ∧
        (u.tenant t).required = true ∧ x.rights = bodyEntries n (m.body.drop 4)
      (¬ good → headAnswers (.extentSeal i) s u m secBadState []) ∧
      (good → ∃ w, exec (.extentSeal i) s = .next w ∧
        w.extent e = some { x with sealReply := some s.sec.nextDeferred, changes := [⟨.seal, allSlices⟩] } ∧
        tget w.sec.deferred s.sec.nextDeferred = some m ∧ Frame [.sec, .ext, .links] s w))) ∧
  (∀ (i : Nat) (s u : State) (m : SecMsg) (t : Tenant), s.serves i 0x37 m u → u.fromTenant m t →
    let e := fieldAt m.body 0 2
    let clean : Prop := m.body.length = 4 ∧ bodyZero m.body 2 2 = true ∧ e < 8192
    (¬ clean → headAnswers (.extentUnseal i) s u m secBadMsg []) ∧
    (clean → (∀ x, u.extent e = some x → x.tenant ≠ t) → headAnswers (.extentUnseal i) s u m secDenied []) ∧
    (∀ x, clean → u.extent e = some x → x.tenant = t →
      ((u.tenant t).fenced = true ∨ x.state ≠ .sealed ∨ x.changes ≠ [] → headAnswers (.extentUnseal i) s u m secBadState []) ∧
      ((u.tenant t).fenced = false → x.state = .sealed → x.changes = [] → ∃ w, exec (.extentUnseal i) s = .next w ∧
        w.extent e = some { x with sealReply := some s.sec.nextDeferred, changes := [⟨.unseal, allSlices⟩] } ∧
        tget w.sec.deferred s.sec.nextDeferred = some m ∧ Frame [.sec, .ext, .links] s w))) ∧
  (∀ (i : Nat) (s u : State) (m : SecMsg) (t : Tenant) (x : Session), s.serves i 0x38 m u → u.msgSession m = some x → x.kind = .tenant t →
    let clean : Bool := m.body.length = 36 && bodyZero m.body 2 2 && decide (fieldAt m.body 1 1 ≤ 1)
    let on : Bool := fieldAt m.body 1 1 == 1
    (clean = false ∨ bodySlot m.body = none → headAnswers (.linkKey i) s u m secBadMsg []) ∧
    (∀ b, clean = true → bodySlot m.body = some b →
      (m.port = none → headAnswers (.linkKey i) s u m secDenied []) ∧
      (∀ p, m.port = some p →
        (x.port ≠ some p → headAnswers (.linkKey i) s u m secDenied []) ∧
        (x.port = some p → (u.tenant t).fenced = true ∨ u.sec.debugUnlocked = true → headAnswers (.linkKey i) s u m secBadState []) ∧
        (x.port = some p → (u.tenant t).fenced = false → u.sec.debugUnlocked = false →
          (u.crypto (plPort p)).install b on (m.body.drop 4) t = none → headAnswers (.linkKey i) s u m secBadState []) ∧
        (∀ c, x.port = some p → (u.tenant t).fenced = false → u.sec.debugUnlocked = false →
          (u.crypto (plPort p)).install b on (m.body.drop 4) t = some c → ∃ w, exec (.linkKey i) s = .next w ∧
            .head m.port m.src (u.answerBytes m secOk [] 0) ∈ w.out ∧
            w.crypto (plPort p) = (if on = true ∧ c.sendSlot ≠ some b then { c with sendNext := some (b, s.rtr.nextReq) } else c) ∧
            Frame [.sec, .rtr, .links] s w)))) ∧
  (∀ (p : PlPort) (s : State), s.live = true →
    let c := s.crypto (plPort p)
    (c.retire = none → idles (.linkKeyRetire p) s) ∧ (∀ b n, c.retire = some (b, n) → n < 3 → idles (.linkKeyRetire p) s) ∧
    (∀ b n, c.retire = some (b, n) → 3 ≤ n → ∃ w, exec (.linkKeyRetire p) s = .next w ∧
      w.crypto (plPort p) = { setLinkSlot c b LinkKeySlot.empty with retire := none } ∧ Frame [.sec] s w)) ∧
  (∀ (i : Nat) (s u : State) (m : SecMsg) (t : Tenant), s.serves i 0x39 m u → u.fromTenant m t →
    (m.body ≠ [] → headAnswers (.telemetryRead i) s u m secBadMsg []) ∧
    (m.body = [] → headAnswers (.telemetryRead i) s u m secOk (bytesOf s.dbg.tenTick 8 ++
      (List.range 9).flatMap (fun k => natBytes 8 (coarse (mget 0 s.dbg.tenPub (k * 1024 + t.toNat))))))) ∧
  (∀ (i : Nat) (s u : State) (m : SecMsg) (x : Session), s.serves i 0x40 m u → u.fromOperator m x →
    let b := m.body
    let off := fieldAt b 4 4
    let len := fieldAt b 8 4
    let stage := fieldAt b 0 1
    let clean : Prop := 12 ≤ b.length ∧ stage ≤ 2 ∧ bodyZero b 1 3 = true ∧ b.length = 12 + (if stage = 1 then len else 0) ∧
      (stage = 1 → len ≤ 16000)
    (¬ clean → headAnswers (.fwUpdate i) s u m secBadMsg []) ∧
    (clean → u.plt.flash.present = false → headAnswers (.fwUpdate i) s u m secBadState []) ∧
    (clean → u.plt.flash.present = true → stage = 0 →
      (u.sec.sessions.any (fun e => e.2.update.isSome) = true → headAnswers (.fwUpdate i) s u m secBusy []) ∧
      (u.sec.sessions.any (fun e => e.2.update.isSome) = false → off ≠ 0 ∨ bankRegion < len →
        headAnswers (.fwUpdate i) s u m secBadMsg []) ∧
      (u.sec.sessions.any (fun e => e.2.update.isSome) = false → off = 0 → len ≤ bankRegion →
        headAnswers (.fwUpdate i) s (u.setSession m.sess { x with update := some (len, []) }) m secOk [])) ∧
    (clean → u.plt.flash.present = true → stage ≠ 0 → x.update = none → headAnswers (.fwUpdate i) s u m secBadState []) ∧
    (∀ size got, clean → u.plt.flash.present = true → x.update = some (size, got) →
      (stage = 1 → off ≠ got.length ∨ size < off + len → headAnswers (.fwUpdate i) s u m secBadMsg []) ∧
      (stage = 1 → off = got.length → off + len ≤ size →
        headAnswers (.fwUpdate i) s (u.setSession m.sess { x with update := some (size, got ++ b.drop 12) }) m secOk []) ∧
      (stage = 2 → got.length < size → headAnswers (.fwUpdate i) s u m secBadMsg []) ∧
      (stage = 2 → size ≤ got.length → ∀ c, u.checkSet got bankRegion = some c → ∃ v, headAnswers (.fwUpdate i) s v m
        (if c = 1 then secAuthErr else if c = 3 then secRollback else secBadMsg) [] ∧ v.plt.flash.header = s.plt.flash.header ∧
        Frame [.sec, .plt] u v) ∧
      (stage = 2 → size ≤ got.length → u.checkSet got bankRegion = none → ∃ v, headAnswers (.fwUpdate i) s v m secOk [] ∧
        v.plt.flash.bankOf s.plt.flash.spare = got ∧ v.plt.flash.header.pendingBank = some s.plt.flash.spare ∧
        v.plt.flash.header.active = s.plt.flash.header.active ∧ v.plt.flash.header.seq = s.plt.flash.header.seq + 1 ∧
        (if s.plt.flash.spare = 0 then v.plt.flash.header.state0 else v.plt.flash.header.state1) = .valid ∧
        reported v 0x0B 0x06 0 unitHeadland ∧ Frame [.sec, .plt, .ctr, .ras, .serial] u v))) ∧
  (∀ (i : Nat) (s u : State) (m : SecMsg) (x : Session), s.serves i 0x41 m u → u.fromOperator m x →
    let b := m.body
    let mode := fieldAt b 0 1
    let clean : Prop := 4 ≤ b.length ∧ bodyZero b 1 3 = true ∧ mode ≤ 1 ∧ b.length = (if mode = 0 then 4 else 4671)
    let named : Prop := fieldAt b 4 8 = Config.deviceSerial.toNat ∧ u.sec.challenge.map (fun c => c.1) = some ((b.drop 12).take 32)
    let signed := Config.mldsaVerify Config.dalpevarKey ((b.drop 4).take 40) (b.drop 44)
    let used : State := { u with sec := { u.sec with challenge := none } }
    (¬ clean → headAnswers (.debugUnlock i) s u m secBadMsg []) ∧
    (clean → u.anyConfidential = true → headAnswers (.debugUnlock i) s u m secBusy []) ∧
    (clean → u.anyConfidential = false → mode = 0 → ∃ v, headAnswers (.debugUnlock i) s v m secOk
      (List.takeD 32 (Config.entropy s.serial) 0#8) ∧ v.sec = { u.sec with
        challenge := some (List.takeD 32 (Config.entropy s.serial) 0#8, 0) } ∧ Frame [.sec, .serial] u v) ∧
    (clean → u.anyConfidential = false → mode = 1 → ¬ named → headAnswers (.debugUnlock i) s used m secDenied []) ∧
    (clean → u.anyConfidential = false → mode = 1 → named → signed = false → headAnswers (.debugUnlock i) s used m secAuthErr []) ∧
    (clean → u.anyConfidential = false → mode = 1 → named → signed = true → ∃ v, headAnswers (.debugUnlock i) s v m secOk [] ∧
      v.sec = { used.sec with debugUnlocked := true } ∧ reported v 0x0B 0x05 1 unitHeadland ∧ Frame [.sec, .ctr, .ras, .serial] u v)) ∧
  (∀ (i : Nat) (s u : State) (m : SecMsg) (x : Session), s.serves i 0x42 m u → u.fromOperator m x →
    let b := m.body
    let w := fieldAt b 8 4
    let signed := Config.mldsaVerify Config.dalpevarKey (b.take 16) (b.drop 16)
    (b.length ≠ 4643 → headAnswers (.fuseProgram i) s u m secBadMsg []) ∧
    (b.length = 4643 → fieldAt b 0 8 ≠ Config.deviceSerial.toNat → headAnswers (.fuseProgram i) s u m secDenied []) ∧
    (b.length = 4643 → fieldAt b 0 8 = Config.deviceSerial.toNat → signed = false → headAnswers (.fuseProgram i) s u m secAuthErr []) ∧
    (b.length = 4643 → fieldAt b 0 8 = Config.deviceSerial.toNat → signed = true → ∃ v, headAnswers (.fuseProgram i) s v m secOk [] ∧
      mget 0#32 v.plt.fuses w = mget 0#32 s.plt.fuses w ||| BitVec.ofNat 32 (fieldAt b 12 4) ∧ reported v 0x0B 0x08 1 unitHeadland ∧
      Frame [.plt, .ctr, .ras, .serial] u v)) ∧
  (∀ (i : Nat) (s u : State) (m : SecMsg) (x : Session), s.serves i 0xF0 m u → u.fromOperator m x →
    let code := m.body.getD 0 0#8
    let clean : Prop := 4 ≤ m.body.length ∧ bodyZero m.body 1 3 = true
    let open_ : Prop := s.dbg.fatal = false ∨ code.toNat ∈ mgmtFatalCodes
    (¬ clean → headAnswers (.mgmt i) s u m secBadMsg []) ∧
    (clean → ¬ open_ → headAnswers (.mgmt i) s u m secOk [code, 7#8, 0#8, 0#8]) ∧
    (clean → open_ → mgmtCall code.toNat (m.body.drop 4) = .badLength → headAnswers (.mgmt i) s u m secBadMsg []) ∧
    (clean → open_ → mgmtCall code.toNat (m.body.drop 4) = .badArgs → headAnswers (.mgmt i) s u m secOk [code, 7#8, 0#8, 0#8]) ∧
    (∀ f, clean → open_ → mgmtCall code.toNat (m.body.drop 4) = .call f →
      let a := f { u with sec := { u.sec with mgmtWaits := u.sec.mgmtWaits ++ [code] } }
      (∀ r bytes v, a.takeReply code = some (r, bytes, v) → ∃ w, exec (.mgmt i) s = .next w ∧
        w = s.quiet.settle (v.mgmtAnswer m code r bytes)) ∧
      (a.takeReply code = none → mgmtWaitCode code.toNat = true → ∃ w, exec (.mgmt i) s = .next w ∧
        w.sec.msgs = a.sec.msgs ++ [{ m with started := true }] ∧ SameBut [.sec, .links] a w))) ∧
  (∀ (i : Nat) (s : State) (m : SecMsg), s.awake = true → s.sec.msgs[i]? = some m → m.started = true →
    let code := m.body.getD 0 0#8
    (s.quiet.takeReply code = none → ∃ w, exec (.mgmt i) s = .next w ∧ Frame [.links] s w) ∧
    (∀ r bytes v, s.quiet.takeReply code = some (r, bytes, v) →
      let a : State := { v with sec := { v.sec with msgs := v.sec.msgs.eraseIdx i } }
      (a.msgSession m = none → ∃ w, exec (.mgmt i) s = .next w ∧ w.sec = a.sec ∧ Frame [.sec, .links] s w) ∧
      (∀ x, a.msgSession m = some x → headAnswers (.mgmt i) s a m secOk ([code, BitVec.ofNat 8 r, 0#8, 0#8] ++ bytes))))
/-! ### Reset, boot and power (spec/15) -/

/-- R530 to R533. -/
def Obligations.ResetTakesAndLeaves : Prop :=
  (∀ (ref : Bool) (s : State), ∃ t, exec (.powerGood ref) s = .next t ∧ SameBut [.plt, .serial] State.reset t ∧ t.serial = s.serial ∧
    t.pending = s.pending ∧ t.plt.powered = true ∧ t.plt.resetHeld = true ∧ t.plt.resetDone = false ∧ t.awake = false ∧
    t.plt.resetReleased = s.plt.resetReleased ∧ t.plt.flash = s.plt.flash ∧ t.plt.fuses = s.plt.fuses ∧ t.plt.aPresent = s.plt.aPresent ∧
    t.plt.bPresent = s.plt.bPresent ∧ (ref = false → t.refRuns = false) ∧ (ref = true → t.refRuns = s.refRuns)) ∧
  (∀ s : State,
    (s.plt.powered = false ∨ s.refRuns = false → ∃ t, exec .resetNAssert s = .next t ∧ Frame [.links] s t) ∧
    (s.plt.powered = true → s.refRuns = true → ∃ t, exec .resetNAssert s = .next t ∧
      t.plt = { s.plt with resetReleased := false, resetHeld := true, resetDone := false, recoverNext := false } ∧ t.awake = false ∧ Frame [.plt, .links] s t) ∧
    (s.refRuns = false → ∃ t, exec .resetNRelease s = .next t ∧ Frame [.links] s t) ∧
    (s.refRuns = true → ∃ t, exec .resetNRelease s = .next t ∧ t.plt = { s.plt with resetReleased := true } ∧ Frame [.plt, .links] s t)) ∧
  (∀ (boot clk : BitVec 2) (s : State),
    let due : Prop := s.plt.powered = true ∧ s.plt.resetHeld = true ∧ s.plt.resetReleased = true ∧ s.plt.resetDone = false ∧ s.refRuns = true
    (¬ due → ∃ t, exec (.resetComplete boot clk) s = .next t ∧ Frame [.links] s t) ∧
    (due → ∃ t, exec (.resetComplete boot clk) s = .next t ∧
      t.plt = { s.plt with resetDone := true, strapBoot := boot, strapClk := clk } ∧ Frame [.plt, .links] s t)) ∧
  (∀ s : State,
    let due : Prop := s.plt.powered = true ∧ s.plt.resetHeld = true ∧ s.plt.resetDone = true
    (¬ due → ∃ t, exec .logicLeaveReset s = .next t ∧ Frame [.links] s t) ∧
    (due → ∃ t, exec .logicLeaveReset s = .next t ∧ SameBut [.plt, .serial, .dbg, .ras, .ctr, .mem] State.reset t ∧ t.awake = true ∧
      t.mem = { State.reset.mem with bytes := s.mem.bytes.filter (fun e => dumpGran (e.1 / granBytes)) } ∧
      t.plt.strapBoot = strapTaken s.plt.strapBoot ∧ t.plt.strapClk = strapTaken s.plt.strapClk ∧ t.plt.romPins = true ∧
      t.plt.fwPins = false ∧ t.plt.inUse = (if s.plt.strapClk = 1#2 then .b else .a) ∧ t.plt.aOk = !s.plt.aLost ∧ t.plt.bOk = !s.plt.bLost ∧
      t.plt.fuses = s.plt.fuses ∧ t.dbg.fatal = false ∧ t.dbg.dumpHeader = s.dbg.dumpHeader ∧
      (strapTaken s.plt.strapBoot = 0#2 ∨ s.plt.recoverNext = true → t.plt.phase = .rom ∧ t.plt.flash = s.plt.flash) ∧
      (strapTaken s.plt.strapBoot ≠ 0#2 → s.plt.recoverNext = false → t.plt.phase = .downloadWait ∧ t.plt.abruptLast = s.plt.flash.abrupt ∧
        t.plt.flash = { s.plt.flash with bootCount := s.plt.flash.bootCount + 1 }) ∧
      (s.plt.strapBoot = 3#2 ∨ s.plt.strapClk = 3#2 → reported t 0x0C 0x01 0 unitChip)))

/-- R534, R538 to R543, R567, R571, R605. -/
def Obligations.BootRunsToReady : Prop :=
  (∀ (v : State) (b : List Byte) (bank : BitVec 2) (ph : Phase),
    let r := v.startSet b bank ph
    r.plt.phase = ph ∧ r.plt.bank = bank ∧ r.plt.fwPins = true ∧ r.sec.measures = measureSet b ∧ r.sec.svn = BitVec.ofNat 32 (setSvn b) ∧
      r.sec.released = true ∧ r.sec.root = v.plt.flash.root ∧ (v.dbg.dumpHeader = [] → r.dbg.dumpState = .none) ∧
      Frame [.plt, .sec, .dbg] v r) ∧
  (∀ (v : State) (b : Fin 2) (c : Nat),
    let r := v.failSet (some b) c
    r.plt.failCause = BitVec.ofNat 3 c ∧ (if b = 0 then r.plt.flash.header.state0 else r.plt.flash.header.state1) = .failed ∧
      r.plt.phase = v.plt.phase ∧ reported r 0x0C 0x05 1 unitChip ∧ Frame [.plt, .ctr, .ras, .serial] v r) ∧
  (∀ (src : SetSource) (s : State), s.live = true →
    let v := if s.plt.bank = 3#2 ∨ s.plt.failCause = 6#3 then s.quiet.readStore else s.quiet
    (s.plt.phase ≠ .rom → s.plt.phase ≠ .downloadWait → idles (.romCheckDone src) s) ∧
    (s.plt.phase = .rom → src ≠ s.romPick → idles (.romCheckDone src) s) ∧
    (∀ b : Fin 2, s.plt.phase = .rom → src = s.romPick → src = (if b = 0 then .bank0 else .bank1) →
      (s.checkSet (s.plt.flash.bankOf b) bankRegion = none → ∃ t, exec (.romCheckDone src) s = .next t ∧
        t = s.quiet.settle (v.startSet (s.plt.flash.bankOf b) (if b = 0 then 0#2 else 1#2) .fwStart).loadBuiltins) ∧
      (∀ c, s.checkSet (s.plt.flash.bankOf b) bankRegion = some c → ∃ t u, exec (.romCheckDone src) s = .next t ∧
        u = v.failSet (some b) c ∧ t.plt = { u.plt with bank := 2#2 } ∧ t.out = u.out ∧ SameBut [.plt] u t)) ∧
    (s.plt.phase = .rom → src = s.romPick → src = .recovery →
      let set := if s.plt.flash.present then s.plt.flash.recovery else []
      (s.checkSet set recoveryRegion = none → ∃ t, exec (.romCheckDone src) s = .next t ∧
        t = s.quiet.settle (v.startSet set 2#2 .recovery)) ∧
      (∀ c, s.checkSet set recoveryRegion = some c → ∃ t, exec (.romCheckDone src) s = .next t ∧ t.plt.phase = .downloadWait ∧
        t.plt.bank = 3#2 ∧ t.plt.failCause = BitVec.ofNat 3 c ∧ Frame [.plt] s t)) ∧
    (s.plt.phase = .downloadWait → src ≠ .downloaded ∨ s.plt.downloaded = [] → idles (.romCheckDone src) s) ∧
    (s.plt.phase = .downloadWait → src = .downloaded → s.plt.downloaded ≠ [] →
      (s.checkSet s.plt.downloaded downloadRegion = none → ∃ t, exec (.romCheckDone src) s = .next t ∧
        t = s.quiet.settle (s.quiet.startSet s.plt.downloaded 3#2 .fwStart).loadBuiltins) ∧
      (∀ c, s.checkSet s.plt.downloaded downloadRegion = some c → ∃ t, exec (.romCheckDone src) s = .next t ∧
        t.plt = { s.plt with failCause := BitVec.ofNat 3 c, download := [], downloaded := [] } ∧ Frame [.plt] s t))) ∧
  (∀ (set : List Byte) (s : State), s.live = true →
    (s.plt.phase ≠ .downloadWait ∨ s.plt.strapBoot = 2#2 → idles (.downloadPl0Enable set) s) ∧
    (s.plt.phase = .downloadWait → s.plt.strapBoot ≠ 2#2 →
      (s.checkSet (set.take downloadRegion) downloadRegion = none → ∃ t, exec (.downloadPl0Enable set) s = .next t ∧
        t = s.quiet.settle ((s.quiet.setAdmin 0 { s.admin 0 with enable := false }).startSet (set.take downloadRegion) 3#2
          .fwStart).loadBuiltins) ∧
      (∀ c, s.checkSet (set.take downloadRegion) downloadRegion = some c → ∃ t, exec (.downloadPl0Enable set) s = .next t ∧
        t.plt = { s.plt with failCause := BitVec.ofNat 3 c, download := [], downloaded := [] } ∧
        (t.admin 0).enable = false ∧ Frame [.plt, .que] s t))) ∧
  (∀ (off : W32) (bytes : List Byte) (s : State), s.live = true →
    let closed : Prop := s.plt.phase ≠ .downloadWait ∨ s.plt.strapBoot = 1#2 ∨ s.plt.downloaded ≠ [] ∨ 1400 < bytes.length
    let fits : Prop := off.toNat + bytes.length ≤ contiguous s.plt.download 0 + 65536 ∧ off.toNat + bytes.length ≤ downloadRegion
    let m := listBytes s.plt.download off.toNat bytes
    let n := contiguous m 0
    let whole : Prop := manifestBytes ≤ n ∧ setLength ((tvals m).take n) ≤ n
    (closed → idles (.downloadMgmtDatagram off bytes) s) ∧
    (¬ closed → fits → ∃ t, exec (.downloadMgmtDatagram off bytes) s = .next t ∧ .head none 0#64 (natBytes 4 n) ∈ t.out ∧
      (¬ whole → t.plt = { s.plt with download := m, downloaded := [] }) ∧
      (whole → t.plt = { s.plt with download := [], downloaded := (tvals m).take n }) ∧ Frame [.plt] s t) ∧
    (¬ closed → ¬ fits → ∃ t, exec (.downloadMgmtDatagram off bytes) s = .next t ∧
      .head none 0#64 (natBytes 4 (contiguous s.plt.download 0)) ∈ t.out ∧ Frame [.plt] s t)) ∧
  (∀ s : State, s.live = true →
    (s.plt.phase ≠ .fwStart → idles .shelfCalibrationDone s) ∧
    (s.plt.phase = .fwStart → ∃ t, exec .shelfCalibrationDone s = .next t ∧ t.plt = { s.plt with phase := .train, shelfCalibrated := true } ∧
      Frame [.plt] s t)) ∧
  (∀ (temps : List (BitVec 8)) (failed : List (Nat × Nat)) (reduced : List Nat) (s : State), s.live = true →
    (s.plt.phase ≠ .train → idles (.deepTrainDone temps failed reduced) s) ∧
    (s.plt.phase = .train → ∃ t u, exec (.deepTrainDone temps failed reduced) s = .next t ∧ u.plt = { s.plt with phase := .kat } ∧
      (failed = [] → Frame [.mem, .plt] s u) ∧
      (failed = [] → keysRise s.mem.deepStacks = true → ∀ k v, k < 12 → temps[k]? = some v →
        u.stack k = { s.stack k with temp := v, trainTemp := v }) ∧
      (s.plt.abruptLast = false → t = s.quiet.settle (u.applyVerdict 70)) ∧
      (s.plt.abruptLast = true → reduced = [] → t = s.quiet.settle
        { u.applyVerdict 64 with dbg := { (u.applyVerdict 64).dbg with reduced := true } }) ∧
      (s.plt.flash.verdict = none → s.plt.abruptLast = false → t = s.quiet.settle u))) ∧
  (∀ (v : State) (bc n : Nat),
    let r := v.partitionFailed bc n
    (∀ h : n < 64, r.blockOnline ⟨n, h⟩ = false) ∧
    (∀ h : 64 ≤ n ∧ n < 68, r.regionOnline ⟨2 * (n - 64), by omega⟩ = false ∧ r.regionOnline ⟨2 * (n - 64) + 1, by omega⟩ = false) ∧
    (68 ≤ n → r.dbg.fatal = true)) ∧
  (∀ (fails : List TestFail) (s : State), s.live = true →
    (s.plt.phase ≠ .kat → idles (.katDone fails) s) ∧
    (s.plt.phase = .kat → ∃ t, exec (.katDone fails) s = .next t ∧ t.plt.phase = .fill ∧ t.dbg.katDone = true ∧
      t.dbg.katFails = min 255 (fails.map (fun f => f.unit)).eraseDups.length) ∧
    (s.plt.phase = .kat → fails = [] → ∃ t, exec (.katDone fails) s = .next t ∧ t.plt = { s.plt with phase := .fill } ∧
      t.dbg = { s.dbg with katDone := true, katFails := 0 } ∧ Frame [.plt, .dbg] s t) ∧
    (∀ f, s.plt.phase = .kat → fails = [f] → ∃ t u, exec (.katDone fails) s = .next t ∧ reported u 0x0D 0x01 1 f.unit ∧
      Frame [.ctr, .ras, .serial] s u ∧ (f.unit.toNat / 4096 ≠ 7 → SameBut [.plt, .dbg, .links] (u.unitFailed f.unit) t))) ∧
  (∀ (v : State) (u : BitVec 16),
    let i := u.toNat % 4096
    (u.toNat / 4096 = 3 → v.unitFailed u = v.fenceCell ⟨i % 1024, Nat.mod_lt _ (by decide)⟩ .testFailed) ∧
    (u.toNat / 4096 = 2 → (v.unitFailed u).blockOnline ⟨i % 64, Nat.mod_lt _ (by decide)⟩ = false) ∧
    (u.toNat / 4096 = 1 → (v.unitFailed u).regionOnline ⟨i % 8, Nat.mod_lt _ (by decide)⟩ = false) ∧
    (8 ≤ u.toNat / 4096 → (v.unitFailed u).dbg.fatal = true)) ∧
  (∀ s : State, s.live = true →
    (s.plt.phase ≠ .fill ∨ s.filled = false → idles .fillDone s) ∧
    (s.plt.phase = .fill → s.filled = true → ∃ t, exec .fillDone s = .next t ∧ t.plt.phase = .ready ∧
      (∀ b : Fin 2, s.plt.bank = (if b = 0 then 0#2 else 1#2) → s.plt.flash.header.pendingBank = some b →
        t.plt.flash.header.active = some b ∧ t.plt.flash.header.pendingBank = none ∧
        t.plt.flash.header.seq = s.plt.flash.header.seq + 1) ∧
      (s.plt.flash.header.pendingBank = none → t.plt.flash = s.plt.flash) ∧ Frame [.plt] s t)) ∧
  (∀ s : State, s.live = true →
    let starting : Prop := s.plt.phase = .fwStart ∨ s.plt.phase = .train ∨ s.plt.phase = .kat ∨ s.plt.phase = .fill
    (¬ starting → idles .bootWatchdog s) ∧
    (starting → ∃ t, exec .bootWatchdog s = .next t ∧ t.plt.resetHeld = true ∧ t.plt.resetDone = false ∧ t.plt.recoverNext = true ∧
      t.plt.failCause = 6#3 ∧ (s.plt.bank = 0#2 → t.plt.flash.header.state0 = .failed) ∧
      (s.plt.bank = 1#2 → t.plt.flash.header.state1 = .failed) ∧ reported t 0x0C 0x08 1 unitChip ∧
      Frame [.plt, .ctr, .ras, .serial] s t)) ∧
  (∀ (m : MgmtMode) (s : State), s.awake = true →
    (s.plt.mgmt.locked = true ∨ s.mgmtTries = false → (∃ t, exec .mgmtLinkModeTimeout s = .next t ∧ Frame [.links] s t) ∧
      ∃ t, exec (.mgmtBlockLock m) s = .next t ∧ Frame [.links] s t) ∧
    (s.plt.mgmt.mode ≠ m → ∃ t, exec (.mgmtBlockLock m) s = .next t ∧ Frame [.links] s t) ∧
    (s.plt.mgmt.locked = false → s.mgmtTries = true → ∃ t, exec .mgmtLinkModeTimeout s = .next t ∧ t.plt.mgmt.mode ≠ s.plt.mgmt.mode ∧
      t.plt.mgmt.locked = false ∧ Frame [.plt, .links] s t) ∧
    (s.plt.mgmt.locked = false → s.mgmtTries = true → s.plt.mgmt.mode = m → ∃ t, exec (.mgmtBlockLock m) s = .next t ∧
      t.plt = { s.plt with mgmt := ⟨m, true⟩ } ∧ Frame [.plt, .links] s t) ∧
    (s.plt.mgmt.locked = true → ∃ t, exec .mgmtSignalLoss s = .next t ∧ t.plt = { s.plt with mgmt := ⟨.baseR10G, false⟩ } ∧
      Frame [.plt, .links] s t) ∧
    (s.plt.mgmt.locked = false → ∃ t, exec .mgmtSignalLoss s = .next t ∧ Frame [.links] s t))

/-- R529, R546 to R556. -/
def Obligations.ClocksFeedsAndPower : Prop :=
  (∀ (r : Side) (s : State), s.live = true →
    (s.plt.lostRef r = true → idles (.refclkLost r) s) ∧
    (s.plt.lostRef r = false → s.plt.inUse ≠ r → ∃ t, exec (.refclkLost r) s = .next t ∧ t.plt = s.plt.setRef r true ∧ Frame [.plt] s t) ∧
    (s.plt.lostRef r = false → s.plt.inUse = r → ∃ t, exec (.refclkLost r) s = .next t ∧
      (s.plt.lostRef (otherSide r) = false → t.plt = { s.plt.setRef r true with inUse := otherSide r, switched := true }) ∧
      (s.plt.lostRef (otherSide r) = true → t.plt = s.plt.setRef r true) ∧ reported t 0x0C 0x02 1 unitTick ∧
      (∀ p, (s.link p).state = .active → (t.link p).state = .lock ∧ (t.link p).retraining = true ∧ (t.link p).lossTimer = true) ∧
      (∀ p, (s.link p).state ≠ .active → t.link p = s.link p) ∧ Frame [.plt, .links, .ctr, .ras, .serial] s t) ∧
    (s.refRuns = true → idles .refclkBothLostTimeout s) ∧
    (s.refRuns = false → ∃ t, exec .refclkBothLostTimeout s = .next t ∧ t.dbg.fatal = true ∧ t.dbg.fatalUnit = unitTick ∧ portsDisabled t ∧
      reported t 0x02 0x04 3 unitTick ∧ Frame [.dbg, .links, .ctr, .ras, .serial] s t)) ∧
  (∀ (r : Side) (s : State), s.plt.powered = true →
    (s.live = false → s.plt.lostRef r = false → ∃ t, exec (.refclkLost r) s = .next t ∧ t.plt = s.plt.setRef r true ∧
      Frame [.plt, .links] s t) ∧
    (s.plt.lostRef s.plt.inUse = false ∨ s.plt.inUse = r ∨ s.plt.resetHeld = true →
      ∃ t, exec (.refclkReturn r) s = .next t ∧ t.plt = s.plt.setRef r false ∧ Frame [.plt, .links] s t) ∧
    (s.plt.lostRef s.plt.inUse = true → s.plt.inUse ≠ r → s.plt.resetHeld = false →
      ∃ t, exec (.refclkReturn r) s = .next t ∧ t.plt = { s.plt.setRef r false with inUse := r, switched := true } ∧
        Frame [.plt, .links] s t)) ∧
  (∀ (f : Side) (s : State), s.plt.powered = true →
    (∃ t, exec (.feedReturn f) s = .next t ∧ t.plt = s.plt.setPresent f true ∧ Frame [.plt, .links] s t) ∧
    (∃ t, exec (.feedLost f) s = .next t ∧ t.plt.present f = false ∧ t.plt.present (otherSide f) = s.plt.present (otherSide f) ∧
      t.plt.feedLost = s.plt.feedLost ||| BitVec.ofNat 2 (2 ^ sideNat f) ∧
      (s.plt.handover = none → s.plt.holder = f → s.plt.present (otherSide f) = true →
        t.plt.handover = some ⟨otherSide f, s.plt.feedMode, false⟩ ∧ t.plt.holder = f) ∧
      (s.plt.handover = none → s.plt.holder ≠ f ∨ s.plt.present (otherSide f) = false →
        t.plt.handover = none ∧ t.plt.holder = s.plt.holder ∧ t.plt.lease = s.plt.lease) ∧
      (∀ h, s.plt.handover = some h → s.plt.present (otherSide f) = true → t.plt.handover = none ∧ t.plt.holder = otherSide f ∧
        t.plt.lease = (if h.box then some (otherSide f) else none)) ∧
      (∀ h, s.plt.handover = some h → s.plt.present (otherSide f) = false → t.plt.handover = some h ∧ t.plt.holder = s.plt.holder) ∧
      reported t 0x0C 0x03 1 unitChip ∧ Frame [.plt, .links, .ctr, .ras, .serial] s t)) ∧
  (∀ s : State, s.plt.powered = true →
    let may : Prop := s.plt.proveEn = true ∧ s.plt.aPresent = true ∧ s.plt.bPresent = true ∧ s.plt.aHealth ≠ .failed ∧
      s.plt.bHealth ≠ .failed ∧ s.plt.provingStopped = false ∧ s.plt.handover = none
    (¬ may → ∃ t, exec .proveHandover s = .next t ∧ Frame [.links] s t) ∧
    (may → ∃ t, exec .proveHandover s = .next t ∧ t.plt = { s.plt with
      handover := some ⟨otherSide s.plt.holder, s.plt.feedMode, true⟩,
      lease := if s.plt.feedMode then some (otherSide s.plt.holder) else s.plt.lease } ∧ Frame [.plt, .links] s t) ∧
    (s.plt.handover = none → (∃ t, exec .handoverComplete s = .next t ∧ Frame [.links] s t) ∧
      ∃ t, exec .handoverTimeout s = .next t ∧ Frame [.links] s t) ∧
    (∀ h, s.plt.handover = some h →
      (∃ t, exec .handoverComplete s = .next t ∧ t.plt.holder = h.target ∧ t.plt.handover = none ∧
        t.plt.lease = (if h.box then some h.target else none) ∧
        t.plt.health h.target = (if s.plt.health h.target = .degraded then .healthy else s.plt.health h.target) ∧
        (s.counter (ctrPlt 0 0) < ctrMax → t.counter (ctrPlt 0 0) = s.counter (ctrPlt 0 0) + 1) ∧
        Frame [.plt, .links, .ctr, .ras, .serial] s t) ∧
      (∃ t, exec .handoverTimeout s = .next t ∧ t.plt.holder = s.plt.holder ∧ t.plt.handover = none ∧
        t.plt.health h.target = (if s.plt.health h.target = .healthy then .degraded else .failed) ∧
        (h.box = true → t.plt.lease = some s.plt.holder) ∧ (s.plt.health h.target ≠ .healthy → t.plt.provingStopped = true) ∧
        reported t 0x0C 0x04 1 unitChip ∧ Frame [.plt, .links, .ctr, .ras, .serial] s t)) ∧
    (∃ t, exec .leaseRenew s = .next t ∧ Frame [.links] s t) ∧
    (∀ c, c = Instr.leaseLapse ∨ c = Instr.leaseRevoke →
      (s.plt.lease = none → ∃ t, exec c s = .next t ∧ Frame [.links] s t) ∧
      (∀ h, s.plt.lease = some h → ∃ t, exec c s = .next t ∧
        t.plt = { s.plt with lease := some (otherSide h), holder := otherSide h, handover := none } ∧ Frame [.plt, .links] s t))) ∧
  (∀ (x : PowerUnit) (e : Nat),
    let y := x.sample e
    y.ceil = x.ceilNext ∧ y.means.length ≤ 8 ∧
      (x.ceilNext.toNat * y.means.length < y.means.sum → y.duty = x.duty - 1) ∧
      (16 * y.means.sum < 15 * (x.ceilNext.toNat * y.means.length) → y.duty = min 16 (x.duty + 1)) ∧
      (y.means.sum ≤ x.ceilNext.toNat * y.means.length → 15 * (x.ceilNext.toNat * y.means.length) ≤ 16 * y.means.sum → y.duty = x.duty)) ∧
  (∀ (n e : Nat) (s : State), s.live = true →
    (12 ≤ n → idles (.powerSample true n e) s) ∧ (64 ≤ n → idles (.powerSample false n e) s) ∧
    (n < 12 → ∃ t, exec (.powerSample true n e) s = .next t ∧ t.stackPwr n = (s.stackPwr n).sample e ∧
      ((s.stackPwr n).duty = 16 → (t.stackPwr n).duty < 16 → reported t 0x0C 0x06 0 (unitStack n)) ∧
      Frame [.plt, .ctr, .ras, .serial] s t) ∧
    (∀ h : n < 64, ∃ t, exec (.powerSample false n e) s = .next t ∧ t.blockPwr n = (s.blockPwr n).sample e ∧
      ((s.blockPwr n).duty = 16 → (t.blockPwr n).duty < 16 → reported t 0x0C 0x06 0 (unitBlock ⟨n, h⟩)) ∧
      Frame [.plt, .ctr, .ras, .serial] s t)) ∧
  (∀ (b : BlockId) (temp : BitVec 8) (s : State), s.live = true → ∃ t, exec (.blockThermSample b temp) s = .next t ∧
    (t.blockPwr b.val).temp = temp ∧ Frame [.plt] s t ∧
    (s.plt.thermOn.toInt ≤ temp.toInt → (t.blockPwr b.val).thermDuty = (s.blockPwr b.val).thermDuty - 1) ∧
    (temp.toInt < s.plt.thermOn.toInt → temp.toInt ≤ s.plt.thermOff.toInt →
      (t.blockPwr b.val).thermDuty = min 16 ((s.blockPwr b.val).thermDuty + 1)) ∧
    (temp.toInt < s.plt.thermOn.toInt → s.plt.thermOff.toInt < temp.toInt →
      (t.blockPwr b.val).thermDuty = (s.blockPwr b.val).thermDuty) ∧
    (120 ≤ temp.toInt → t.plt.tripped = true ∧ t.plt.phase = .tripped ∧ t.plt.thermTrip = true ∧ t.live = false ∧
      ∃ r, t.plt.flash.shutdown = some (4, r)) ∧
    (temp.toInt < 120 → t.plt.tripped = s.plt.tripped ∧ t.plt.phase = s.plt.phase)) ∧
  (∀ (via : RegPath) (st : Bool) (n : Nat) (v : BitVec 10) (s : State), s.live = true →
    let old := if st then (s.stackPwr n).ceilNext.toNat else (s.blockPwr n).ceilNext.toNat
    let fits : Prop := via = .mgmt ∧ n < (if st then 12 else 64) ∧ s.ceilSum - old + v.toNat + fixedW * 8 ≤ envelopeW * 8
    (¬ fits → idles (.ceilingWrite via st n v) s) ∧
    (fits → st = true → ∃ t, exec (.ceilingWrite via st n v) s = .next t ∧ t.stackPwr n = { s.stackPwr n with ceilNext := v } ∧
      Frame [.plt] s t) ∧
    (fits → st = false → ∃ t, exec (.ceilingWrite via st n v) s = .next t ∧ t.blockPwr n = { s.blockPwr n with ceilNext := v } ∧
      Frame [.plt] s t)) ∧
  (∀ s : State, s.live = true →
    (s.plt.phase = .ready → s.plt.shut = .none → ∃ t, exec .shutdownRequest s = .next t ∧ t.plt = { s.plt with shut := .asked 0 } ∧
      Frame [.plt] s t) ∧
    (s.plt.phase = .ready → s.plt.shut ≠ .none → idles .shutdownRequest s) ∧
    (s.plt.phase = .shutdown ∨ s.plt.phase = .offReady → idles .shutdownRequest s) ∧
    (s.plt.phase ∉ [Phase.ready, .shutdown, .offReady, .tripped] → s.plt.handover.isSome = true → ∃ t, exec .shutdownRequest s = .next t ∧
      t.plt = { s.plt with shut := .early } ∧ Frame [.plt] s t) ∧
    (s.plt.phase ∉ [Phase.ready, .shutdown, .offReady, .tripped] → s.plt.handover = none → ∃ t r, exec .shutdownRequest s = .next t ∧
      t.plt.phase = .offReady ∧ t.plt.shdnDone = true ∧ t.plt.flash.shutdown = some (3, r) ∧ Frame [.plt] s t) ∧
    ((s.plt.shut ≠ .early ∧ ∀ n, s.plt.shut ≠ .asked (n + 1)) ∨ s.plt.handover.isSome = true → idles .shutdownStart s) ∧
    (s.plt.shut = .early → s.plt.handover = none → ∃ t r, exec .shutdownStart s = .next t ∧ t.plt.phase = .offReady ∧
      t.plt.shdnDone = true ∧ t.plt.flash.shutdown = some (3, r) ∧ Frame [.plt] s t) ∧
    (∀ n, s.plt.shut = .asked (n + 1) → s.plt.handover = none → ∃ t, exec .shutdownStart s = .next t ∧ t.plt = { s.plt with phase := .shutdown, shut := .draining } ∧
      reported t 0x0C 0x07 0 unitChip ∧ Frame [.plt, .ctr, .ras, .serial] s t) ∧
    (s.plt.shut ≠ .draining → s.plt.shut ≠ .closing → idles .shutdownDrainEnd s) ∧
    (s.plt.shut = .draining → s.owing = true →
      let u := s.que.qps.foldl (fun st q => (st.abortQp ⟨q.1 % 4096, Nat.mod_lt _ (by decide)⟩ (fun _ => true)).2) s.quiet
      ∃ t, exec .shutdownDrainEnd s = .next t ∧ t.plt.shut = .closing ∧ t = s.quiet.settle (u.setPlt { u.plt with shut := .closing })) ∧
    ((s.plt.shut = .draining ∧ s.owing = false) ∨ s.plt.shut = .closing → ∃ t r, exec .shutdownDrainEnd s = .next t ∧
      t.plt.shut = .testing ∧ t.plt.flash.shutdown = some (1, r) ∧ portsDisabled t ∧ t.tide = s.tide ∧ t.arb = s.arb) ∧
    (∀ mask, s.plt.shut ≠ .testing → idles (.lbistDone mask) s) ∧
    (∀ mask, s.plt.shut = .testing → ∃ t r, exec (.lbistDone mask) s = .next t ∧ t.plt.phase = .offReady ∧ t.plt.shdnDone = true ∧
      t.plt.flash.verdict = some (s.lbistRecord (mask &&& BitVec.ofNat 128 (2 ^ 70 - 1))) ∧
      t.plt.flash.shutdown = some (2, r) ∧ Frame [.plt] s t))
/-! ### Tests, telemetry and debug (spec/16), and the register map (spec/17) -/

/-- R573, R575, R576, R579, R582 to R585. -/
def Obligations.TestsCountersAndTraces : Prop :=
  (∀ (u : BitVec 16) (test : Nat) (pass : Bool) (s : State), s.live = true →
    (s.isvHolds u = false → idles (.isvTestDone u test pass) s) ∧
    (s.isvHolds u = true → pass = true → ∃ t, exec (.isvTestDone u test pass) s = .next t ∧ t.isvHolds u = false ∧
      (s.counter (ctrRas 6) < ctrMax → t.counter (ctrRas 6) = s.counter (ctrRas 6) + 1) ∧ Frame [.ras, .ctr, .serial] s t) ∧
    (s.isvHolds u = true → pass = false → u ∉ s.ras.isvFirst → ∃ t, exec (.isvTestDone u test pass) s = .next t ∧ t.isvHolds u = true ∧
      u ∈ t.ras.isvFirst ∧ (s.counter (ctrRas 7) < ctrMax → t.counter (ctrRas 7) = s.counter (ctrRas 7) + 1) ∧
      Frame [.ras, .ctr, .serial] s t) ∧
    (s.isvHolds u = true → pass = false → u ∈ s.ras.isvFirst → ∃ t v, exec (.isvTestDone u test pass) s = .next t ∧ v.isvHolds u = false ∧
      reported v 0x0D 0x03 1 u ∧ Frame [.ras, .ctr, .serial] s v ∧ t = s.quiet.settle (v.isvFault u))) ∧
  (∀ s : State, s.awake = true → ∃ t r, exec .healthRead s = .next t ∧ answered t 0x41#8 0 r ∧ r = s.healthRecord ∧ r.length = 128 ∧
    fieldAt r 0 1 = 1 ∧ fieldAt r 1 1 = s.plt.phase.code ∧ fieldAt r 56 8 = s.tide.count.toNat ∧ Frame [.sec, .links] s t) ∧
  (∀ (off : W32) (n : BitVec 16) (s : State), s.live = true →
    let offs := (List.range n.toNat).map (fun i => off.toNat + 8 * i)
    let good : Prop := 1 ≤ n.toNat ∧ n.toNat ≤ 64 ∧ ∀ o, o ∈ offs → ctrName o ≠ none
    (¬ good → ∃ t, exec (.cntReadClear off n) s = .next t ∧ answered t 0x40#8 7 [] ∧ Frame [.sec] s t) ∧
    (good → ∃ t, exec (.cntReadClear off n) s = .next t ∧
      answered t 0x40#8 0 (offs.flatMap (fun o => bytesOf (ctrValue (s.counter o)) 8)) ∧ (∀ o, o ∈ offs → t.counter o = 0) ∧
      (keysRise s.ctr = true → ∀ o, o ∉ offs → t.counter o = s.counter o) ∧ Frame [.sec, .ctr] s t)) ∧
  (∀ (via : RegPath) (k : Fin 16) (v : W32) (s : State), s.live = true →
    let x := s.trace k.val
    let q : Qp := ⟨(v.extractLsb' 16 12).toNat, (v.extractLsb' 16 12).isLt⟩
    let may : Prop := s.tracePath via q = true ∧ (x.enable = true → s.qp x.qp ≠ none → s.tracePath via x.qp = true)
    (¬ may → idles (.traceCtrlWrite via k v) s) ∧
    (may → ∃ t, exec (.traceCtrlWrite via k v) s = .next t ∧ (t.trace k.val).enable = v.getLsbD 0 ∧ (t.trace k.val).qp = q ∧
      ((v.extractLsb' 1 4).toNat ≤ 8 → (t.trace k.val).interval = v.extractLsb' 1 4) ∧
      (8 < (v.extractLsb' 1 4).toNat → (t.trace k.val).interval = x.interval) ∧
      (q = x.qp → (t.trace k.val).staged = x.staged) ∧ (q ≠ x.qp → (t.trace k.val).staged = []) ∧ Frame [.dbg] s t) ∧
    (via = .mgmt → may)) ∧
  (∀ (via : RegPath) (k : Fin 16) (v : BitVec 20) (s : State), s.live = true →
    (s.tracePath via (s.trace k.val).qp = false → idles (.traceHeadWrite via k v) s) ∧
    (s.tracePath via (s.trace k.val).qp = true → ∃ t, exec (.traceHeadWrite via k v) s = .next t ∧
      t.trace k.val = { s.trace k.val with head := v.toNat } ∧ Frame [.dbg] s t)) ∧
  (∀ (c : CellId) (clock : BitVec 16) (stall : BitVec 8) (s : State), s.live = true →
    ((s.cell c).occupant = none → idles (.traceSample c clock stall) s) ∧
    (∀ n lc o r, (s.cell c).occupant = some (n, lc) → s.op n = some o → s.run n = some r → keysRise s.dbg.traces = true →
      ∃ t e, exec (.traceSample c clock stall) s = .next t ∧ e.tick = s.tide.count.extractLsb' 0 32 ∧ e.clock = clock ∧ e.stall = stall ∧
        e.loss = false ∧ e.cell = BitVec.ofNat 16 (lc % 1024) ∧
        (∀ k, k < 16 → let x := s.trace k
          (x.enable = false ∨ x.qp ≠ o.qp → t.trace k = x) ∧
          (x.enable = true → x.qp = o.qp → (x.staged.filter (fun y => y.1 == c)).length < 64 → x.full = false →
            t.trace k = { x with staged := x.staged ++ [(c, e)] }) ∧
          (x.enable = true → x.qp = o.qp → 64 ≤ (x.staged.filter (fun y => y.1 == c)).length ∨ x.full = true →
            t.trace k = { x with dropped := x.dropped + 1 })) ∧
        Frame [.dbg, .ctr, .ras, .serial] s t)) ∧
  (∀ (k : Fin 16) (s : State), s.live = true →
    let x := s.trace k.val
    (s.qp x.qp = none ∨ x.enable = false ∨ x.full = true ∨ (x.dropped = 0 ∧ x.staged = []) → idles (.traceWrite k) s) ∧
    (∀ q r y s1 s2, s.qp x.qp = some q → x.enable = true → x.full = false → s.quiet.traceNext k.val = some (r, y, s1) →
      let a : W64 := (x.addr.setWidth 64 <<< 12) + BitVec.ofNat 64 (16 * (x.next % x.size))
      let acc := accWrite q.cfg.ep (s.authOf q)
      (s.poolBusy acc a 16 = true → idles (.traceWrite k) s) ∧
      (∀ st, s.poolBusy acc a 16 = false → s1.writePool acc q.cfg.tenant a (traceBytes r x.phase) [] noIo = (.error st, s2) →
        ∃ t, exec (.traceWrite k) s = .next t ∧ (t.trace k.val).enable = false ∧ reported t 0x0D 0x05 0 unitChip ∧
          SameBut [.dbg, .ctr, .ras, .serial, .links] s2 t) ∧
      (∀ w, s.poolBusy acc a 16 = false → s1.writePool acc q.cfg.tenant a (traceBytes r x.phase) [] noIo = (.ok w, s2) →
        ∃ t, exec (.traceWrite k) s = .next t ∧ (t.trace k.val).staged = y.staged ∧ (t.trace k.val).dropped = 0 ∧
          (t.trace k.val).next = (x.next % x.size + 1) % x.size ∧
          (t.trace k.val).phase = (x.phase != decide (x.next % x.size + 1 = x.size)) ∧
          SameBut [.dbg, .ctr, .ras, .serial, .links] s2 t)))

/-- R586 to R591, R611 to R616. -/
def Obligations.RegistersDumpAndJtag : Prop :=
  (∀ (off len : W32) (s : State), s.awake = true →
    let n := len.toNat
    let good : Prop := n ≠ 0 ∧ n % 64 = 0 ∧ n ≤ 2 ^ 20 ∧ off.toNat + n ≤ s.dbg.dumpBytes
    let stands : Prop := s.dbg.dumpState ∉ [DumpState.none, .writing, .failed]
    (¬ stands → ∃ t, exec (.dumpRead off len) s = .next t ∧ answered t 0x42#8 3 [] ∧ Frame [.sec, .links] s t) ∧
    (stands → ¬ good → ∃ t, exec (.dumpRead off len) s = .next t ∧ answered t 0x42#8 7 [] ∧ Frame [.sec, .links] s t) ∧
    (stands → good → ∃ t, exec (.dumpRead off len) s = .next t ∧
      answered t 0x42#8 0 ((List.range n).map (fun i => s.dumpByteAt (off.toNat + i))) ∧ Frame [.sec, .links] s t)) ∧
  (∀ s : State, s.awake = true → ∃ t, exec .dumpClear s = .next t ∧ answered t 0x43#8 0 [] ∧
    t.dbg = { s.dbg with dumpState := .none, dumpHeader := [], dumpBytes := 0 } ∧ Frame [.dbg, .sec, .links] s t) ∧
  (∀ (off : W32) (n : BitVec 16) (s : State), s.live = true →
    (regRangeOk off n = false → ∃ t, exec (.regRead off n) s = .next t ∧ answered t 0x50#8 7 [] ∧ Frame [.sec] s t) ∧
    (regRangeOk off n = true → ∃ t, exec (.regRead off n) s = .next t ∧
      answered t 0x50#8 0 ((s.quiet.takeWords .mgmt off.toNat n.toNat).1.flatMap (fun w => bytesOf w 4)) ∧
      (n = 1#16 → answered t 0x50#8 0 (bytesOf (s.regWord off.toNat) 4)) ∧
      t.tide.count = s.tide.count ∧ Frame [.sec, .tide, .serial] s t)) ∧
  (∀ (off : W32) (n : BitVec 16) (ws : List W32) (s : State), s.live = true →
    (regRangeOk off n = false ∨ ws.length ≠ n.toNat → ∃ t, exec (.regWrite off n ws) s = .next t ∧ answered t 0x51#8 7 [] ∧
      Frame [.sec] s t) ∧
    (regRangeOk off n = true → ws.length = n.toNat → ∃ t, exec (.regWrite off n ws) s = .next t ∧ answered t 0x51#8 0 [] ∧
      t = s.quiet.settle ((s.quiet.mgmtWrite off.toNat ws).reply 0x51#8 0 []))) ∧
  (∀ (via : RegPath) (off : BitVec 24) (eight : Bool) (v : W64) (s : State), s.live = true →
    (off.toNat % (if eight then 8 else 4) ≠ 0 → idles (.regWr via off eight v) s) ∧
    (∀ p, via = .window p → (windowTarget p off.toNat).2 ≠ .rw ∨ s.windowOpen p (windowTarget p off.toNat).1 = false →
      idles (.regWr via off eight v) s) ∧
    (∀ p, via = .window p → off.toNat % (if eight then 8 else 4) = 0 → (windowTarget p off.toNat).2 = .rw →
      s.windowOpen p (windowTarget p off.toNat).1 = true → ∃ t, exec (.regWr via off eight v) s = .next t ∧
        (eight = true → t = s.quiet.settle (s.quiet.put8 via (windowTarget p off.toNat).1 v)) ∧
        (eight = false → t = s.quiet.settle (s.quiet.put4 via (windowTarget p off.toNat).1 (v.extractLsb' 0 32)))) ∧
    (via = .mgmt → off.toNat % (if eight then 8 else 4) = 0 → ∃ t, exec (.regWr via off eight v) s = .next t ∧
      (eight = false → t = s.quiet.settle (s.quiet.mgmtWrite off.toNat [v.extractLsb' 0 32])) ∧
      (eight = true → t = s.quiet.settle (s.quiet.mgmtWrite off.toNat [v.extractLsb' 0 32, v.extractLsb' 32 32])))) ∧
  (∀ (v : State) (via : RegPath) (off : Nat) (w : W32),
    ((v.reg64 (off - off % 8)).isSome = true → v.put4 via off w = v) ∧ (pageOffset off = true → v.mgmtWrite off [w] = v) ∧
    (v.write32 via 0x300004 w).reg32 0x300004 = (w.extractLsb' 0 14).setWidth 32 ∧
    (v.write32 via 0x100000 w).reg32 0x100000 = (w.extractLsb' 0 8).setWidth 32 ∧
    (v.write32 via 0x300000 w).reg32 0x300000 = (w.extractLsb' 0 8).setWidth 32 ∧
    (v.write32 via 0x000094 w).reg32 0x000094 = (if 1 ≤ (w.extractLsb' 0 10).toNat ∧ (w.extractLsb' 0 10).toNat ≤ 1000 then
      (w.extractLsb' 0 10).setWidth 32 else v.reg32 0x000094) ∧
    v.write32 via 0x000000 w = v ∧ v.write32 via 0x000040 w = v ∧ v.write32 via 0xB00000 w = v) ∧
  (∀ (pins : PinSample) (s : State), s.plt.powered = true →
    (∃ t, exec .bypass s = .next t ∧ t.dbg = { s.dbg with jtagIr := 0xFF#8, jtagReg := .bypass, jtagPins := .functional } ∧
      Frame [.dbg, .links] s t) ∧
    (∃ t, exec .idcode s = .next t ∧ t.dbg = { s.dbg with jtagIr := 0x01#8, jtagReg := .idcode, jtagPins := .functional } ∧
      .jtag (idcodeValue.setWidth 64) ∈ t.out ∧ Frame [.dbg, .links] s t) ∧
    (∃ t, exec (.samplePreload pins) s = .next t ∧
      t.dbg = { s.dbg with jtagIr := 0x02#8, jtagReg := .boundary, jtagPins := .functional, jtagBoundary := pins } ∧
      .jtag (pins.setWidth 64) ∈ t.out ∧ Frame [.dbg, .links] s t)) ∧
  (∀ (e : Instr × BitVec 8 × JtagReg × JtagPins) (s : State), s.plt.powered = true →
    e ∈ [(Instr.extest, 0x00#8, JtagReg.boundary, JtagPins.extest), (.clamp, 0x03#8, .bypass, .clamp), (.highz, 0x04#8, .bypass, .highz)] →
    (s.sec.debugUnlocked = false → ∃ t, exec e.1 s = .next t ∧
      t.dbg = { s.dbg with jtagIr := e.2.1, jtagReg := .bypass, jtagPins := .functional } ∧ Frame [.dbg, .links] s t) ∧
    (s.sec.debugUnlocked = true → ∃ t, exec e.1 s = .next t ∧
      t.dbg = { s.dbg with jtagIr := e.2.1, jtagReg := e.2.2.1, jtagPins := e.2.2.2 } ∧ Frame [.dbg, .links] s t)) ∧
  (∀ (b : BlockId) (halt : Bool) (s : State), s.plt.powered = true →
    (s.sec.debugUnlocked = false → ∃ t, exec (.dbgHalt b halt) s = .next t ∧ t.dbg.halted = s.dbg.halted ∧ t.dbg.jtagReg = .bypass ∧
      Frame [.dbg, .links] s t) ∧
    (s.sec.debugUnlocked = true → ∃ t, exec (.dbgHalt b halt) s = .next t ∧ (b ∈ t.dbg.halted ↔ halt = true) ∧
      (∀ c, c ≠ b → (c ∈ t.dbg.halted ↔ c ∈ s.dbg.halted)) ∧ Frame [.dbg, .links] s t)) ∧
  (∀ (r : DbgReq) (s : State), s.awake = true →
    (s.sec.debugUnlocked = false → ∃ t, exec (.dbgAccess r) s = .next t ∧
      t.dbg = { s.dbg with jtagIr := 0x10#8, jtagReg := .bypass, jtagPins := .functional } ∧ Frame [.dbg, .links] s t) ∧
    (s.sec.debugUnlocked = true →
      (∀ off, r = .read off → ∃ t v, exec (.dbgAccess r) s = .next t ∧ .jtag v ∈ t.out ∧ t.dbg.jtagReg = .dbgAccess ∧
        t.tide.count = s.tide.count ∧ Frame [.dbg, .tide, .serial, .links] s t) ∧
      (∀ off v, r = .write off v → ∃ t u, exec (.dbgAccess r) s = .next t ∧ u.dbg.jtagReg = .dbgAccess ∧ Frame [.dbg] s u ∧
        let o := off.toNat - off.toNat % 4
        ((u.reg64 o).isSome = true → t = s.quiet.settle (u.write64 .mgmt o v)) ∧
        ((u.reg64 o).isSome = false → t = s.quiet.settle (u.put4 .mgmt o (v.extractLsb' 0 32))))))
end

