-- ==== Sys2Proof/Laws/Sparse.lean ====
section
/-! SUPPORT. Laws of the sparse maps: what a read gives after a write, and that every write keeps the canonical form. -/

namespace Sys2Proof.Machine

variable {α : Type}

@[simp] theorem tget_nil (k : Nat) : tget ([] : SMap α) k = none := rfl

@[simp] theorem tget_tput_same (m : SMap α) (k : Nat) (v : α) : tget (tput m k v) k = some v := by
  induction m with
  | nil => simp [tput, tget]
  | cons e m ih =>
    obtain ⟨j, w⟩ := e
    by_cases h1 : k < j
    · simp [tput, h1, tget]
    · by_cases h2 : j = k
      · simp [tput, h2, tget]
      · simp [tput, h1, h2, tget, ih]

theorem tget_tput_other (m : SMap α) {k i : Nat} (v : α) (h : i ≠ k) : tget (tput m k v) i = tget m i := by
  induction m with
  | nil => simp [tput, tget, h.symm]
  | cons e m ih =>
    obtain ⟨j, w⟩ := e
    by_cases h1 : k < j
    · simp only [tput, h1, if_true, tget, h.symm, if_false]
      by_cases h3 : i < k
      · have h4 : ¬ j = i := by omega
        have h5 : i < j := by omega
        simp [h3, h4, h5]
      · simp [h3]
    · by_cases h2 : j = k
      · subst h2; simp [tput, tget, h.symm]
      · simp only [tput, h1, h2, if_false, tget, ih]

theorem keysRise_iff (m : SMap α) : keysRise m = true ↔ m.Pairwise (fun a b => a.1 < b.1) := by
  induction m with
  | nil => simp [keysRise]
  | cons e m ih =>
    obtain ⟨j, w⟩ := e
    cases m with
    | nil => simp [keysRise]
    | cons e' m' =>
      obtain ⟨k, w'⟩ := e'
      simp only [keysRise, Bool.and_eq_true, decide_eq_true_eq, ih]
      constructor
      · rintro ⟨h1, h2⟩
        refine List.pairwise_cons.2 ⟨?_, h2⟩
        intro b hb
        rcases List.mem_cons.1 hb with rfl | hb
        · exact h1
        · exact lt_trans h1 ((List.pairwise_cons.1 h2).1 b hb)
      · intro h
        exact ⟨(List.pairwise_cons.1 h).1 _ (List.mem_cons_self ..), (List.pairwise_cons.1 h).2⟩

theorem tget_eq_none_of_lt (m : SMap α) {k : Nat} (h : ∀ e ∈ m, k < e.1) : tget m k = none := by
  cases m with
  | nil => rfl
  | cons e m =>
    obtain ⟨j, w⟩ := e
    have h1 : k < j := h (j, w) (List.mem_cons_self ..)
    have h2 : ¬ j = k := by omega
    simp [tget, h1, h2]

theorem mem_tput {m : SMap α} {k : Nat} {v : α} {e : Nat × α} (h : e ∈ tput m k v) : e = (k, v) ∨ e ∈ m := by
  induction m with
  | nil => simpa [tput] using h
  | cons x m ih =>
    obtain ⟨j, w⟩ := x
    unfold tput at h
    split at h
    · simpa using h
    · split at h
      · rcases List.mem_cons.1 h with h | h
        · exact .inl h
        · exact .inr (List.mem_cons_of_mem _ h)
      · rcases List.mem_cons.1 h with h | h
        · exact .inr (h ▸ List.mem_cons_self ..)
        · rcases ih h with h | h
          · exact .inl h
          · exact .inr (List.mem_cons_of_mem _ h)

theorem keysRise_tput {m : SMap α} (hm : keysRise m = true) (k : Nat) (v : α) : keysRise (tput m k v) = true := by
  rw [keysRise_iff] at *
  induction m with
  | nil => simp [tput]
  | cons x m ih =>
    obtain ⟨j, w⟩ := x
    obtain ⟨h1, h2⟩ := List.pairwise_cons.1 hm
    unfold tput
    split
    · rename_i hk
      refine List.pairwise_cons.2 ⟨?_, hm⟩
      intro b hb
      rcases List.mem_cons.1 hb with rfl | hb
      · exact hk
      · exact lt_trans hk (h1 b hb)
    · split
      · rename_i hj
        subst hj
        exact List.pairwise_cons.2 ⟨h1, h2⟩
      · refine List.pairwise_cons.2 ⟨?_, ih h2⟩
        intro b hb
        rcases mem_tput hb with rfl | hb
        · show j < k; omega
        · exact h1 b hb

theorem keysRise_filter {m : SMap α} (hm : keysRise m = true) (p : Nat × α → Bool) : keysRise (m.filter p) = true := by
  rw [keysRise_iff] at *
  exact hm.filter p

theorem keysRise_tdel {m : SMap α} (hm : keysRise m = true) (k : Nat) : keysRise (tdel m k) = true := keysRise_filter hm _

@[simp] theorem tget_tdel_same (m : SMap α) (k : Nat) : tget (tdel m k) k = none := by
  induction m with
  | nil => rfl
  | cons e m ih =>
    obtain ⟨j, w⟩ := e
    by_cases h : j = k
    · subst h; simpa [tdel] using ih
    · have : tdel ((j, w) :: m) k = (j, w) :: tdel m k := by simp [tdel, h]
      rw [this]; simp only [tget, h, if_false, ih, ite_self]

theorem tget_filter_true {m : SMap α} (hm : keysRise m = true) (p : Nat → Bool) {i : Nat} (h : p i = true) :
    tget (m.filter (fun e => p e.1)) i = tget m i := by
  rw [keysRise_iff] at hm
  induction m with
  | nil => rfl
  | cons e m ih =>
    obtain ⟨j, w⟩ := e
    obtain ⟨h1, h2⟩ := List.pairwise_cons.1 hm
    by_cases hp : p j = true
    · simp only [List.filter_cons, hp, if_true, tget, ih h2]
    · have hji : ¬ j = i := fun e => hp (e ▸ h)
      simp only [List.filter_cons, hp, if_false, tget, hji, Bool.false_eq_true]
      rw [ih h2]
      split
      · rename_i hlt
        exact tget_eq_none_of_lt m (fun e he => lt_trans hlt (h1 e he))
      · rfl

theorem tget_filter_false (m : SMap α) (p : Nat → Bool) {i : Nat} (h : p i = false) :
    tget (m.filter (fun e => p e.1)) i = none := by
  induction m with
  | nil => rfl
  | cons e m ih =>
    obtain ⟨j, w⟩ := e
    by_cases hp : p j = true
    · have hji : ¬ j = i := fun e => by rw [e, h] at hp; exact Bool.noConfusion hp
      simp only [List.filter_cons, hp, if_true, tget, hji, if_false, ih, ite_self]
    · simp only [List.filter_cons, hp, if_false, ih, Bool.false_eq_true]

theorem tget_tdel_other {m : SMap α} (hm : keysRise m = true) {k i : Nat} (h : i ≠ k) : tget (tdel m k) i = tget m i :=
  tget_filter_true hm (fun j => j != k) (by simp [h])

variable [DecidableEq α]

/-- What was written reads back. -/
@[simp] theorem mget_mset_same (d : α) (m : SMap α) (k : Nat) (v : α) : mget d (mset d m k v) k = v := by
  unfold mset mget
  split
  · rename_i h; simp [h]
  · simp

/-- A write leaves every other key alone. -/
theorem mget_mset_other (d : α) {m : SMap α} (hm : keysRise m = true) {k i : Nat} (v : α) (h : i ≠ k) :
    mget d (mset d m k v) i = mget d m i := by
  unfold mset mget
  split
  · rw [tget_tdel_other hm h]
  · rw [tget_tput_other m v h]

theorem smapWf_keysRise {d : α} {m : SMap α} (h : smapWf d m = true) : keysRise m = true := by
  simp only [smapWf, Bool.and_eq_true] at h; exact h.1

theorem keysRise_mset (d : α) {m : SMap α} (h : keysRise m = true) (k : Nat) (v : α) : keysRise (mset d m k v) = true := by
  unfold mset
  split
  · exact keysRise_tdel h k
  · exact keysRise_tput h k v

/-- A write keeps the canonical form. -/
theorem smapWf_mset {d : α} {m : SMap α} (h : smapWf d m = true) (k : Nat) (v : α) : smapWf d (mset d m k v) = true := by
  have hk := keysRise_mset d (smapWf_keysRise h) k v
  simp only [smapWf, Bool.and_eq_true, List.all_eq_true, decide_eq_true_eq] at *
  refine ⟨hk, fun e he => ?_⟩
  unfold mset at he
  split at he
  · exact h.2 e (List.mem_of_mem_filter he)
  · rename_i hv
    rcases mem_tput he with rfl | he
    · exact hv
    · exact h.2 e he

theorem smapWf_filter {d : α} {m : SMap α} (h : smapWf d m = true) (p : Nat × α → Bool) : smapWf d (m.filter p) = true := by
  have hk := keysRise_filter (smapWf_keysRise h) p
  simp only [smapWf, Bool.and_eq_true, List.all_eq_true, decide_eq_true_eq] at *
  exact ⟨hk, fun e he => h.2 e (List.mem_of_mem_filter he)⟩

/-- Writing bytes keeps the canonical form. -/
theorem smapWf_putBytes {m : SMap Byte} (h : smapWf (0 : Byte) m = true) (a : Nat) (bs : List Byte) :
    smapWf (0 : Byte) (putBytes m a bs) = true := by
  induction bs generalizing m a with
  | nil => exact h
  | cons b bs ih => exact ih (smapWf_mset h a b) (a + 1)

/-- Zeroing a range keeps the canonical form. -/
theorem smapWf_zeroBytes {m : SMap Byte} (h : smapWf (0 : Byte) m = true) (a n : Nat) :
    smapWf (0 : Byte) (zeroBytes m a n) = true := smapWf_filter h _

/-- A byte outside the bytes written reads as before. -/
theorem mget_putBytes_out {m : SMap Byte} (h : keysRise m = true) (a : Nat) (bs : List Byte) {i : Nat}
    (hi : i < a ∨ a + bs.length ≤ i) : mget 0 (putBytes m a bs) i = mget 0 m i := by
  induction bs generalizing m a with
  | nil => rfl
  | cons b bs ih =>
    simp only [List.length_cons] at hi
    show mget 0 (putBytes (mset 0 m a b) (a + 1) bs) i = _
    rw [ih (keysRise_mset 0 h a b) (a + 1) (by omega), mget_mset_other 0 h b (by omega)]

/-- A byte inside the bytes written reads as written. -/
theorem mget_putBytes_in {m : SMap Byte} (h : keysRise m = true) (a : Nat) (bs : List Byte) {i : Nat} (hi : i < bs.length) :
    mget 0 (putBytes m a bs) (a + i) = bs[i] := by
  induction bs generalizing m a i with
  | nil => exact absurd hi (Nat.not_lt_zero i)
  | cons b bs ih =>
    show mget 0 (putBytes (mset 0 m a b) (a + 1) bs) (a + i) = _
    cases i with
    | zero =>
      rw [Nat.add_zero, mget_putBytes_out (keysRise_mset 0 h a b) (a + 1) bs (by omega)]
      simp
    | succ i =>
      have := ih (keysRise_mset 0 h a b) (a + 1) (i := i) (by simpa using hi)
      rw [show a + (i + 1) = a + 1 + i by omega, this]; rfl

/-- A zeroed range reads as zero, and every byte outside it as before. -/
theorem mget_zeroBytes {m : SMap Byte} (h : keysRise m = true) (a n i : Nat) :
    mget 0 (zeroBytes m a n) i = if a ≤ i ∧ i < a + n then 0 else mget 0 m i := by
  unfold zeroBytes mget
  by_cases hi : a ≤ i ∧ i < a + n
  · rw [tget_filter_false m (fun j => !(decide (a ≤ j) && decide (j < a + n))) (by simp [hi.1, hi.2]), if_pos hi]; rfl
  · rw [tget_filter_true h (fun j => !(decide (a ≤ j) && decide (j < a + n))) (by
      simp only [Bool.not_eq_true', Bool.and_eq_false_iff, decide_eq_false_iff_not]; omega), if_neg hi]

end Sys2Proof.Machine
end

