-- ==== Sys2Proof/Laws/State.lean ====
section
/-! SUPPORT. What each update of State leaves in each of its fields: true by unfolding, stated once so that no proof unfolds a record update. -/

namespace Sys2Proof.Machine

@[simp] theorem State.quiet_tide (s : State) : (s.quiet).tide = s.tide := rfl
@[simp] theorem State.quiet_arb (s : State) : (s.quiet).arb = s.arb := rfl
@[simp] theorem State.quiet_health (s : State) : (s.quiet).health = s.health := rfl
@[simp] theorem State.quiet_remap (s : State) : (s.quiet).remap = s.remap := rfl
@[simp] theorem State.quiet_fab (s : State) : (s.quiet).fab = s.fab := rfl
@[simp] theorem State.quiet_ras (s : State) : (s.quiet).ras = s.ras := rfl
@[simp] theorem State.quiet_ctr (s : State) : (s.quiet).ctr = s.ctr := rfl
@[simp] theorem State.quiet_mem (s : State) : (s.quiet).mem = s.mem := rfl
@[simp] theorem State.quiet_ext (s : State) : (s.quiet).ext = s.ext := rfl
@[simp] theorem State.quiet_coh (s : State) : (s.quiet).coh = s.coh := rfl
@[simp] theorem State.quiet_links (s : State) : (s.quiet).links = s.links := rfl
@[simp] theorem State.quiet_rtr (s : State) : (s.quiet).rtr = s.rtr := rfl
@[simp] theorem State.quiet_que (s : State) : (s.quiet).que = s.que := rfl
@[simp] theorem State.quiet_xlt (s : State) : (s.quiet).xlt = s.xlt := rfl
@[simp] theorem State.quiet_sec (s : State) : (s.quiet).sec = s.sec := rfl
@[simp] theorem State.quiet_dbg (s : State) : (s.quiet).dbg = s.dbg := rfl
@[simp] theorem State.quiet_plt (s : State) : (s.quiet).plt = s.plt := rfl
@[simp] theorem State.quiet_audit (s : State) : (s.quiet).audit = s.audit := rfl
@[simp] theorem State.quiet_serial (s : State) : (s.quiet).serial = s.serial := rfl
@[simp] theorem State.quiet_out (s : State) : (s.quiet).out = [] := rfl
@[simp] theorem State.quiet_pending (s : State) : (s.quiet).pending = s.pending := rfl

@[simp] theorem State.emit_tide (s : State) (o : Out) : (s.emit o).tide = s.tide := rfl
@[simp] theorem State.emit_arb (s : State) (o : Out) : (s.emit o).arb = s.arb := rfl
@[simp] theorem State.emit_health (s : State) (o : Out) : (s.emit o).health = s.health := rfl
@[simp] theorem State.emit_remap (s : State) (o : Out) : (s.emit o).remap = s.remap := rfl
@[simp] theorem State.emit_fab (s : State) (o : Out) : (s.emit o).fab = s.fab := rfl
@[simp] theorem State.emit_ras (s : State) (o : Out) : (s.emit o).ras = s.ras := rfl
@[simp] theorem State.emit_ctr (s : State) (o : Out) : (s.emit o).ctr = s.ctr := rfl
@[simp] theorem State.emit_mem (s : State) (o : Out) : (s.emit o).mem = s.mem := rfl
@[simp] theorem State.emit_ext (s : State) (o : Out) : (s.emit o).ext = s.ext := rfl
@[simp] theorem State.emit_coh (s : State) (o : Out) : (s.emit o).coh = s.coh := rfl
@[simp] theorem State.emit_links (s : State) (o : Out) : (s.emit o).links = s.links := rfl
@[simp] theorem State.emit_rtr (s : State) (o : Out) : (s.emit o).rtr = s.rtr := rfl
@[simp] theorem State.emit_que (s : State) (o : Out) : (s.emit o).que = s.que := rfl
@[simp] theorem State.emit_xlt (s : State) (o : Out) : (s.emit o).xlt = s.xlt := rfl
@[simp] theorem State.emit_sec (s : State) (o : Out) : (s.emit o).sec = s.sec := rfl
@[simp] theorem State.emit_dbg (s : State) (o : Out) : (s.emit o).dbg = s.dbg := rfl
@[simp] theorem State.emit_plt (s : State) (o : Out) : (s.emit o).plt = s.plt := rfl
@[simp] theorem State.emit_audit (s : State) (o : Out) : (s.emit o).audit = s.audit := rfl
@[simp] theorem State.emit_serial (s : State) (o : Out) : (s.emit o).serial = s.serial := rfl
@[simp] theorem State.emit_out (s : State) (o : Out) : (s.emit o).out = s.out ++ [o] := rfl
@[simp] theorem State.emit_pending (s : State) (o : Out) : (s.emit o).pending = s.pending := rfl

@[simp] theorem State.setTide_tide (s : State) (x : Tide) : (s.setTide x).tide = x := rfl
@[simp] theorem State.setTide_arb (s : State) (x : Tide) : (s.setTide x).arb = s.arb := rfl
@[simp] theorem State.setTide_health (s : State) (x : Tide) : (s.setTide x).health = s.health := rfl
@[simp] theorem State.setTide_remap (s : State) (x : Tide) : (s.setTide x).remap = s.remap := rfl
@[simp] theorem State.setTide_fab (s : State) (x : Tide) : (s.setTide x).fab = s.fab := rfl
@[simp] theorem State.setTide_ras (s : State) (x : Tide) : (s.setTide x).ras = s.ras := rfl
@[simp] theorem State.setTide_ctr (s : State) (x : Tide) : (s.setTide x).ctr = s.ctr := rfl
@[simp] theorem State.setTide_mem (s : State) (x : Tide) : (s.setTide x).mem = s.mem := rfl
@[simp] theorem State.setTide_ext (s : State) (x : Tide) : (s.setTide x).ext = s.ext := rfl
@[simp] theorem State.setTide_coh (s : State) (x : Tide) : (s.setTide x).coh = s.coh := rfl
@[simp] theorem State.setTide_links (s : State) (x : Tide) : (s.setTide x).links = s.links := rfl
@[simp] theorem State.setTide_rtr (s : State) (x : Tide) : (s.setTide x).rtr = s.rtr := rfl
@[simp] theorem State.setTide_que (s : State) (x : Tide) : (s.setTide x).que = s.que := rfl
@[simp] theorem State.setTide_xlt (s : State) (x : Tide) : (s.setTide x).xlt = s.xlt := rfl
@[simp] theorem State.setTide_sec (s : State) (x : Tide) : (s.setTide x).sec = s.sec := rfl
@[simp] theorem State.setTide_dbg (s : State) (x : Tide) : (s.setTide x).dbg = s.dbg := rfl
@[simp] theorem State.setTide_plt (s : State) (x : Tide) : (s.setTide x).plt = s.plt := rfl
@[simp] theorem State.setTide_audit (s : State) (x : Tide) : (s.setTide x).audit = s.audit := rfl
@[simp] theorem State.setTide_serial (s : State) (x : Tide) : (s.setTide x).serial = s.serial := rfl
@[simp] theorem State.setTide_out (s : State) (x : Tide) : (s.setTide x).out = s.out := rfl
@[simp] theorem State.setTide_pending (s : State) (x : Tide) : (s.setTide x).pending = s.pending := rfl

@[simp] theorem State.setArbiter_tide (s : State) (a : ArbId) (x : Arbiter) : (s.setArbiter a x).tide = s.tide := rfl
@[simp] theorem State.setArbiter_arb (s : State) (a : ArbId) (x : Arbiter) : (s.setArbiter a x).arb = { s.arb with arbiters := mset Arbiter.idle s.arb.arbiters (arbKey a) x } := rfl
@[simp] theorem State.setArbiter_health (s : State) (a : ArbId) (x : Arbiter) : (s.setArbiter a x).health = s.health := rfl
@[simp] theorem State.setArbiter_remap (s : State) (a : ArbId) (x : Arbiter) : (s.setArbiter a x).remap = s.remap := rfl
@[simp] theorem State.setArbiter_fab (s : State) (a : ArbId) (x : Arbiter) : (s.setArbiter a x).fab = s.fab := rfl
@[simp] theorem State.setArbiter_ras (s : State) (a : ArbId) (x : Arbiter) : (s.setArbiter a x).ras = s.ras := rfl
@[simp] theorem State.setArbiter_ctr (s : State) (a : ArbId) (x : Arbiter) : (s.setArbiter a x).ctr = s.ctr := rfl
@[simp] theorem State.setArbiter_mem (s : State) (a : ArbId) (x : Arbiter) : (s.setArbiter a x).mem = s.mem := rfl
@[simp] theorem State.setArbiter_ext (s : State) (a : ArbId) (x : Arbiter) : (s.setArbiter a x).ext = s.ext := rfl
@[simp] theorem State.setArbiter_coh (s : State) (a : ArbId) (x : Arbiter) : (s.setArbiter a x).coh = s.coh := rfl
@[simp] theorem State.setArbiter_links (s : State) (a : ArbId) (x : Arbiter) : (s.setArbiter a x).links = s.links := rfl
@[simp] theorem State.setArbiter_rtr (s : State) (a : ArbId) (x : Arbiter) : (s.setArbiter a x).rtr = s.rtr := rfl
@[simp] theorem State.setArbiter_que (s : State) (a : ArbId) (x : Arbiter) : (s.setArbiter a x).que = s.que := rfl
@[simp] theorem State.setArbiter_xlt (s : State) (a : ArbId) (x : Arbiter) : (s.setArbiter a x).xlt = s.xlt := rfl
@[simp] theorem State.setArbiter_sec (s : State) (a : ArbId) (x : Arbiter) : (s.setArbiter a x).sec = s.sec := rfl
@[simp] theorem State.setArbiter_dbg (s : State) (a : ArbId) (x : Arbiter) : (s.setArbiter a x).dbg = s.dbg := rfl
@[simp] theorem State.setArbiter_plt (s : State) (a : ArbId) (x : Arbiter) : (s.setArbiter a x).plt = s.plt := rfl
@[simp] theorem State.setArbiter_audit (s : State) (a : ArbId) (x : Arbiter) : (s.setArbiter a x).audit = s.audit := rfl
@[simp] theorem State.setArbiter_serial (s : State) (a : ArbId) (x : Arbiter) : (s.setArbiter a x).serial = s.serial := rfl
@[simp] theorem State.setArbiter_out (s : State) (a : ArbId) (x : Arbiter) : (s.setArbiter a x).out = s.out := rfl
@[simp] theorem State.setArbiter_pending (s : State) (a : ArbId) (x : Arbiter) : (s.setArbiter a x).pending = s.pending := rfl

@[simp] theorem State.setHealth_tide (s : State) (b : BlockId) (x : BlkHealth) : (s.setHealth b x).tide = s.tide := rfl
@[simp] theorem State.setHealth_arb (s : State) (b : BlockId) (x : BlkHealth) : (s.setHealth b x).arb = s.arb := rfl
@[simp] theorem State.setHealth_health (s : State) (b : BlockId) (x : BlkHealth) : (s.setHealth b x).health = mset BlkHealth.ok s.health b.val x := rfl
@[simp] theorem State.setHealth_remap (s : State) (b : BlockId) (x : BlkHealth) : (s.setHealth b x).remap = s.remap := rfl
@[simp] theorem State.setHealth_fab (s : State) (b : BlockId) (x : BlkHealth) : (s.setHealth b x).fab = s.fab := rfl
@[simp] theorem State.setHealth_ras (s : State) (b : BlockId) (x : BlkHealth) : (s.setHealth b x).ras = s.ras := rfl
@[simp] theorem State.setHealth_ctr (s : State) (b : BlockId) (x : BlkHealth) : (s.setHealth b x).ctr = s.ctr := rfl
@[simp] theorem State.setHealth_mem (s : State) (b : BlockId) (x : BlkHealth) : (s.setHealth b x).mem = s.mem := rfl
@[simp] theorem State.setHealth_ext (s : State) (b : BlockId) (x : BlkHealth) : (s.setHealth b x).ext = s.ext := rfl
@[simp] theorem State.setHealth_coh (s : State) (b : BlockId) (x : BlkHealth) : (s.setHealth b x).coh = s.coh := rfl
@[simp] theorem State.setHealth_links (s : State) (b : BlockId) (x : BlkHealth) : (s.setHealth b x).links = s.links := rfl
@[simp] theorem State.setHealth_rtr (s : State) (b : BlockId) (x : BlkHealth) : (s.setHealth b x).rtr = s.rtr := rfl
@[simp] theorem State.setHealth_que (s : State) (b : BlockId) (x : BlkHealth) : (s.setHealth b x).que = s.que := rfl
@[simp] theorem State.setHealth_xlt (s : State) (b : BlockId) (x : BlkHealth) : (s.setHealth b x).xlt = s.xlt := rfl
@[simp] theorem State.setHealth_sec (s : State) (b : BlockId) (x : BlkHealth) : (s.setHealth b x).sec = s.sec := rfl
@[simp] theorem State.setHealth_dbg (s : State) (b : BlockId) (x : BlkHealth) : (s.setHealth b x).dbg = s.dbg := rfl
@[simp] theorem State.setHealth_plt (s : State) (b : BlockId) (x : BlkHealth) : (s.setHealth b x).plt = s.plt := rfl
@[simp] theorem State.setHealth_audit (s : State) (b : BlockId) (x : BlkHealth) : (s.setHealth b x).audit = s.audit := rfl
@[simp] theorem State.setHealth_serial (s : State) (b : BlockId) (x : BlkHealth) : (s.setHealth b x).serial = s.serial := rfl
@[simp] theorem State.setHealth_out (s : State) (b : BlockId) (x : BlkHealth) : (s.setHealth b x).out = s.out := rfl
@[simp] theorem State.setHealth_pending (s : State) (b : BlockId) (x : BlkHealth) : (s.setHealth b x).pending = s.pending := rfl

@[simp] theorem State.setCell_tide (s : State) (c : CellId) (x : Cell) : (s.setCell c x).tide = s.tide := rfl
@[simp] theorem State.setCell_arb (s : State) (c : CellId) (x : Cell) : (s.setCell c x).arb = s.arb := rfl
@[simp] theorem State.setCell_health (s : State) (c : CellId) (x : Cell) : (s.setCell c x).health = s.health := rfl
@[simp] theorem State.setCell_remap (s : State) (c : CellId) (x : Cell) : (s.setCell c x).remap = s.remap := rfl
@[simp] theorem State.setCell_fab (s : State) (c : CellId) (x : Cell) : (s.setCell c x).fab = { s.fab with cells := mset Cell.reset s.fab.cells c.val x } := rfl
@[simp] theorem State.setCell_ras (s : State) (c : CellId) (x : Cell) : (s.setCell c x).ras = s.ras := rfl
@[simp] theorem State.setCell_ctr (s : State) (c : CellId) (x : Cell) : (s.setCell c x).ctr = s.ctr := rfl
@[simp] theorem State.setCell_mem (s : State) (c : CellId) (x : Cell) : (s.setCell c x).mem = s.mem := rfl
@[simp] theorem State.setCell_ext (s : State) (c : CellId) (x : Cell) : (s.setCell c x).ext = s.ext := rfl
@[simp] theorem State.setCell_coh (s : State) (c : CellId) (x : Cell) : (s.setCell c x).coh = s.coh := rfl
@[simp] theorem State.setCell_links (s : State) (c : CellId) (x : Cell) : (s.setCell c x).links = s.links := rfl
@[simp] theorem State.setCell_rtr (s : State) (c : CellId) (x : Cell) : (s.setCell c x).rtr = s.rtr := rfl
@[simp] theorem State.setCell_que (s : State) (c : CellId) (x : Cell) : (s.setCell c x).que = s.que := rfl
@[simp] theorem State.setCell_xlt (s : State) (c : CellId) (x : Cell) : (s.setCell c x).xlt = s.xlt := rfl
@[simp] theorem State.setCell_sec (s : State) (c : CellId) (x : Cell) : (s.setCell c x).sec = s.sec := rfl
@[simp] theorem State.setCell_dbg (s : State) (c : CellId) (x : Cell) : (s.setCell c x).dbg = s.dbg := rfl
@[simp] theorem State.setCell_plt (s : State) (c : CellId) (x : Cell) : (s.setCell c x).plt = s.plt := rfl
@[simp] theorem State.setCell_audit (s : State) (c : CellId) (x : Cell) : (s.setCell c x).audit = s.audit := rfl
@[simp] theorem State.setCell_serial (s : State) (c : CellId) (x : Cell) : (s.setCell c x).serial = s.serial := rfl
@[simp] theorem State.setCell_out (s : State) (c : CellId) (x : Cell) : (s.setCell c x).out = s.out := rfl
@[simp] theorem State.setCell_pending (s : State) (c : CellId) (x : Cell) : (s.setCell c x).pending = s.pending := rfl

@[simp] theorem State.setRbuf_tide (s : State) (r : RegionId) (x : RBuf) : (s.setRbuf r x).tide = s.tide := rfl
@[simp] theorem State.setRbuf_arb (s : State) (r : RegionId) (x : RBuf) : (s.setRbuf r x).arb = s.arb := rfl
@[simp] theorem State.setRbuf_health (s : State) (r : RegionId) (x : RBuf) : (s.setRbuf r x).health = s.health := rfl
@[simp] theorem State.setRbuf_remap (s : State) (r : RegionId) (x : RBuf) : (s.setRbuf r x).remap = s.remap := rfl
@[simp] theorem State.setRbuf_fab (s : State) (r : RegionId) (x : RBuf) : (s.setRbuf r x).fab = { s.fab with rbufs := mset RBuf.reset s.fab.rbufs r.val x } := rfl
@[simp] theorem State.setRbuf_ras (s : State) (r : RegionId) (x : RBuf) : (s.setRbuf r x).ras = s.ras := rfl
@[simp] theorem State.setRbuf_ctr (s : State) (r : RegionId) (x : RBuf) : (s.setRbuf r x).ctr = s.ctr := rfl
@[simp] theorem State.setRbuf_mem (s : State) (r : RegionId) (x : RBuf) : (s.setRbuf r x).mem = s.mem := rfl
@[simp] theorem State.setRbuf_ext (s : State) (r : RegionId) (x : RBuf) : (s.setRbuf r x).ext = s.ext := rfl
@[simp] theorem State.setRbuf_coh (s : State) (r : RegionId) (x : RBuf) : (s.setRbuf r x).coh = s.coh := rfl
@[simp] theorem State.setRbuf_links (s : State) (r : RegionId) (x : RBuf) : (s.setRbuf r x).links = s.links := rfl
@[simp] theorem State.setRbuf_rtr (s : State) (r : RegionId) (x : RBuf) : (s.setRbuf r x).rtr = s.rtr := rfl
@[simp] theorem State.setRbuf_que (s : State) (r : RegionId) (x : RBuf) : (s.setRbuf r x).que = s.que := rfl
@[simp] theorem State.setRbuf_xlt (s : State) (r : RegionId) (x : RBuf) : (s.setRbuf r x).xlt = s.xlt := rfl
@[simp] theorem State.setRbuf_sec (s : State) (r : RegionId) (x : RBuf) : (s.setRbuf r x).sec = s.sec := rfl
@[simp] theorem State.setRbuf_dbg (s : State) (r : RegionId) (x : RBuf) : (s.setRbuf r x).dbg = s.dbg := rfl
@[simp] theorem State.setRbuf_plt (s : State) (r : RegionId) (x : RBuf) : (s.setRbuf r x).plt = s.plt := rfl
@[simp] theorem State.setRbuf_audit (s : State) (r : RegionId) (x : RBuf) : (s.setRbuf r x).audit = s.audit := rfl
@[simp] theorem State.setRbuf_serial (s : State) (r : RegionId) (x : RBuf) : (s.setRbuf r x).serial = s.serial := rfl
@[simp] theorem State.setRbuf_out (s : State) (r : RegionId) (x : RBuf) : (s.setRbuf r x).out = s.out := rfl
@[simp] theorem State.setRbuf_pending (s : State) (r : RegionId) (x : RBuf) : (s.setRbuf r x).pending = s.pending := rfl

@[simp] theorem State.setRun_tide (s : State) (n : Nat) (x : Run) : (s.setRun n x).tide = s.tide := rfl
@[simp] theorem State.setRun_arb (s : State) (n : Nat) (x : Run) : (s.setRun n x).arb = s.arb := rfl
@[simp] theorem State.setRun_health (s : State) (n : Nat) (x : Run) : (s.setRun n x).health = s.health := rfl
@[simp] theorem State.setRun_remap (s : State) (n : Nat) (x : Run) : (s.setRun n x).remap = s.remap := rfl
@[simp] theorem State.setRun_fab (s : State) (n : Nat) (x : Run) : (s.setRun n x).fab = { s.fab with runs := tput s.fab.runs n x } := rfl
@[simp] theorem State.setRun_ras (s : State) (n : Nat) (x : Run) : (s.setRun n x).ras = s.ras := rfl
@[simp] theorem State.setRun_ctr (s : State) (n : Nat) (x : Run) : (s.setRun n x).ctr = s.ctr := rfl
@[simp] theorem State.setRun_mem (s : State) (n : Nat) (x : Run) : (s.setRun n x).mem = s.mem := rfl
@[simp] theorem State.setRun_ext (s : State) (n : Nat) (x : Run) : (s.setRun n x).ext = s.ext := rfl
@[simp] theorem State.setRun_coh (s : State) (n : Nat) (x : Run) : (s.setRun n x).coh = s.coh := rfl
@[simp] theorem State.setRun_links (s : State) (n : Nat) (x : Run) : (s.setRun n x).links = s.links := rfl
@[simp] theorem State.setRun_rtr (s : State) (n : Nat) (x : Run) : (s.setRun n x).rtr = s.rtr := rfl
@[simp] theorem State.setRun_que (s : State) (n : Nat) (x : Run) : (s.setRun n x).que = s.que := rfl
@[simp] theorem State.setRun_xlt (s : State) (n : Nat) (x : Run) : (s.setRun n x).xlt = s.xlt := rfl
@[simp] theorem State.setRun_sec (s : State) (n : Nat) (x : Run) : (s.setRun n x).sec = s.sec := rfl
@[simp] theorem State.setRun_dbg (s : State) (n : Nat) (x : Run) : (s.setRun n x).dbg = s.dbg := rfl
@[simp] theorem State.setRun_plt (s : State) (n : Nat) (x : Run) : (s.setRun n x).plt = s.plt := rfl
@[simp] theorem State.setRun_audit (s : State) (n : Nat) (x : Run) : (s.setRun n x).audit = s.audit := rfl
@[simp] theorem State.setRun_serial (s : State) (n : Nat) (x : Run) : (s.setRun n x).serial = s.serial := rfl
@[simp] theorem State.setRun_out (s : State) (n : Nat) (x : Run) : (s.setRun n x).out = s.out := rfl
@[simp] theorem State.setRun_pending (s : State) (n : Nat) (x : Run) : (s.setRun n x).pending = s.pending := rfl

@[simp] theorem State.setRs_tide (s : State) (n : Nat) (x : RsOp) : (s.setRs n x).tide = s.tide := rfl
@[simp] theorem State.setRs_arb (s : State) (n : Nat) (x : RsOp) : (s.setRs n x).arb = s.arb := rfl
@[simp] theorem State.setRs_health (s : State) (n : Nat) (x : RsOp) : (s.setRs n x).health = s.health := rfl
@[simp] theorem State.setRs_remap (s : State) (n : Nat) (x : RsOp) : (s.setRs n x).remap = s.remap := rfl
@[simp] theorem State.setRs_fab (s : State) (n : Nat) (x : RsOp) : (s.setRs n x).fab = { s.fab with rs := tput s.fab.rs n x } := rfl
@[simp] theorem State.setRs_ras (s : State) (n : Nat) (x : RsOp) : (s.setRs n x).ras = s.ras := rfl
@[simp] theorem State.setRs_ctr (s : State) (n : Nat) (x : RsOp) : (s.setRs n x).ctr = s.ctr := rfl
@[simp] theorem State.setRs_mem (s : State) (n : Nat) (x : RsOp) : (s.setRs n x).mem = s.mem := rfl
@[simp] theorem State.setRs_ext (s : State) (n : Nat) (x : RsOp) : (s.setRs n x).ext = s.ext := rfl
@[simp] theorem State.setRs_coh (s : State) (n : Nat) (x : RsOp) : (s.setRs n x).coh = s.coh := rfl
@[simp] theorem State.setRs_links (s : State) (n : Nat) (x : RsOp) : (s.setRs n x).links = s.links := rfl
@[simp] theorem State.setRs_rtr (s : State) (n : Nat) (x : RsOp) : (s.setRs n x).rtr = s.rtr := rfl
@[simp] theorem State.setRs_que (s : State) (n : Nat) (x : RsOp) : (s.setRs n x).que = s.que := rfl
@[simp] theorem State.setRs_xlt (s : State) (n : Nat) (x : RsOp) : (s.setRs n x).xlt = s.xlt := rfl
@[simp] theorem State.setRs_sec (s : State) (n : Nat) (x : RsOp) : (s.setRs n x).sec = s.sec := rfl
@[simp] theorem State.setRs_dbg (s : State) (n : Nat) (x : RsOp) : (s.setRs n x).dbg = s.dbg := rfl
@[simp] theorem State.setRs_plt (s : State) (n : Nat) (x : RsOp) : (s.setRs n x).plt = s.plt := rfl
@[simp] theorem State.setRs_audit (s : State) (n : Nat) (x : RsOp) : (s.setRs n x).audit = s.audit := rfl
@[simp] theorem State.setRs_serial (s : State) (n : Nat) (x : RsOp) : (s.setRs n x).serial = s.serial := rfl
@[simp] theorem State.setRs_out (s : State) (n : Nat) (x : RsOp) : (s.setRs n x).out = s.out := rfl
@[simp] theorem State.setRs_pending (s : State) (n : Nat) (x : RsOp) : (s.setRs n x).pending = s.pending := rfl

@[simp] theorem State.setUnitQueue_tide (s : State) (b : BlockId) (x : List AtomEntry) : (s.setUnitQueue b x).tide = s.tide := rfl
@[simp] theorem State.setUnitQueue_arb (s : State) (b : BlockId) (x : List AtomEntry) : (s.setUnitQueue b x).arb = s.arb := rfl
@[simp] theorem State.setUnitQueue_health (s : State) (b : BlockId) (x : List AtomEntry) : (s.setUnitQueue b x).health = s.health := rfl
@[simp] theorem State.setUnitQueue_remap (s : State) (b : BlockId) (x : List AtomEntry) : (s.setUnitQueue b x).remap = s.remap := rfl
@[simp] theorem State.setUnitQueue_fab (s : State) (b : BlockId) (x : List AtomEntry) : (s.setUnitQueue b x).fab = { s.fab with units := mset [] s.fab.units b.val x } := rfl
@[simp] theorem State.setUnitQueue_ras (s : State) (b : BlockId) (x : List AtomEntry) : (s.setUnitQueue b x).ras = s.ras := rfl
@[simp] theorem State.setUnitQueue_ctr (s : State) (b : BlockId) (x : List AtomEntry) : (s.setUnitQueue b x).ctr = s.ctr := rfl
@[simp] theorem State.setUnitQueue_mem (s : State) (b : BlockId) (x : List AtomEntry) : (s.setUnitQueue b x).mem = s.mem := rfl
@[simp] theorem State.setUnitQueue_ext (s : State) (b : BlockId) (x : List AtomEntry) : (s.setUnitQueue b x).ext = s.ext := rfl
@[simp] theorem State.setUnitQueue_coh (s : State) (b : BlockId) (x : List AtomEntry) : (s.setUnitQueue b x).coh = s.coh := rfl
@[simp] theorem State.setUnitQueue_links (s : State) (b : BlockId) (x : List AtomEntry) : (s.setUnitQueue b x).links = s.links := rfl
@[simp] theorem State.setUnitQueue_rtr (s : State) (b : BlockId) (x : List AtomEntry) : (s.setUnitQueue b x).rtr = s.rtr := rfl
@[simp] theorem State.setUnitQueue_que (s : State) (b : BlockId) (x : List AtomEntry) : (s.setUnitQueue b x).que = s.que := rfl
@[simp] theorem State.setUnitQueue_xlt (s : State) (b : BlockId) (x : List AtomEntry) : (s.setUnitQueue b x).xlt = s.xlt := rfl
@[simp] theorem State.setUnitQueue_sec (s : State) (b : BlockId) (x : List AtomEntry) : (s.setUnitQueue b x).sec = s.sec := rfl
@[simp] theorem State.setUnitQueue_dbg (s : State) (b : BlockId) (x : List AtomEntry) : (s.setUnitQueue b x).dbg = s.dbg := rfl
@[simp] theorem State.setUnitQueue_plt (s : State) (b : BlockId) (x : List AtomEntry) : (s.setUnitQueue b x).plt = s.plt := rfl
@[simp] theorem State.setUnitQueue_audit (s : State) (b : BlockId) (x : List AtomEntry) : (s.setUnitQueue b x).audit = s.audit := rfl
@[simp] theorem State.setUnitQueue_serial (s : State) (b : BlockId) (x : List AtomEntry) : (s.setUnitQueue b x).serial = s.serial := rfl
@[simp] theorem State.setUnitQueue_out (s : State) (b : BlockId) (x : List AtomEntry) : (s.setUnitQueue b x).out = s.out := rfl
@[simp] theorem State.setUnitQueue_pending (s : State) (b : BlockId) (x : List AtomEntry) : (s.setUnitQueue b x).pending = s.pending := rfl

@[simp] theorem State.modCheck_tide (s : State) (k : Nat) (f : Check → Check) : (s.modCheck k f).tide = s.tide := rfl
@[simp] theorem State.modCheck_arb (s : State) (k : Nat) (f : Check → Check) : (s.modCheck k f).arb = s.arb := rfl
@[simp] theorem State.modCheck_health (s : State) (k : Nat) (f : Check → Check) : (s.modCheck k f).health = s.health := rfl
@[simp] theorem State.modCheck_remap (s : State) (k : Nat) (f : Check → Check) : (s.modCheck k f).remap = s.remap := rfl
@[simp] theorem State.modCheck_fab (s : State) (k : Nat) (f : Check → Check) : (s.modCheck k f).fab = s.fab := rfl
@[simp] theorem State.modCheck_ras (s : State) (k : Nat) (f : Check → Check) : (s.modCheck k f).ras = { s.ras with checks := tmod s.ras.checks k f } := rfl
@[simp] theorem State.modCheck_ctr (s : State) (k : Nat) (f : Check → Check) : (s.modCheck k f).ctr = s.ctr := rfl
@[simp] theorem State.modCheck_mem (s : State) (k : Nat) (f : Check → Check) : (s.modCheck k f).mem = s.mem := rfl
@[simp] theorem State.modCheck_ext (s : State) (k : Nat) (f : Check → Check) : (s.modCheck k f).ext = s.ext := rfl
@[simp] theorem State.modCheck_coh (s : State) (k : Nat) (f : Check → Check) : (s.modCheck k f).coh = s.coh := rfl
@[simp] theorem State.modCheck_links (s : State) (k : Nat) (f : Check → Check) : (s.modCheck k f).links = s.links := rfl
@[simp] theorem State.modCheck_rtr (s : State) (k : Nat) (f : Check → Check) : (s.modCheck k f).rtr = s.rtr := rfl
@[simp] theorem State.modCheck_que (s : State) (k : Nat) (f : Check → Check) : (s.modCheck k f).que = s.que := rfl
@[simp] theorem State.modCheck_xlt (s : State) (k : Nat) (f : Check → Check) : (s.modCheck k f).xlt = s.xlt := rfl
@[simp] theorem State.modCheck_sec (s : State) (k : Nat) (f : Check → Check) : (s.modCheck k f).sec = s.sec := rfl
@[simp] theorem State.modCheck_dbg (s : State) (k : Nat) (f : Check → Check) : (s.modCheck k f).dbg = s.dbg := rfl
@[simp] theorem State.modCheck_plt (s : State) (k : Nat) (f : Check → Check) : (s.modCheck k f).plt = s.plt := rfl
@[simp] theorem State.modCheck_audit (s : State) (k : Nat) (f : Check → Check) : (s.modCheck k f).audit = s.audit := rfl
@[simp] theorem State.modCheck_serial (s : State) (k : Nat) (f : Check → Check) : (s.modCheck k f).serial = s.serial := rfl
@[simp] theorem State.modCheck_out (s : State) (k : Nat) (f : Check → Check) : (s.modCheck k f).out = s.out := rfl
@[simp] theorem State.modCheck_pending (s : State) (k : Nat) (f : Check → Check) : (s.modCheck k f).pending = s.pending := rfl

@[simp] theorem State.setChan_tide (s : State) (c : MemCh) (x : Chan) : (s.setChan c x).tide = s.tide := rfl
@[simp] theorem State.setChan_arb (s : State) (c : MemCh) (x : Chan) : (s.setChan c x).arb = s.arb := rfl
@[simp] theorem State.setChan_health (s : State) (c : MemCh) (x : Chan) : (s.setChan c x).health = s.health := rfl
@[simp] theorem State.setChan_remap (s : State) (c : MemCh) (x : Chan) : (s.setChan c x).remap = s.remap := rfl
@[simp] theorem State.setChan_fab (s : State) (c : MemCh) (x : Chan) : (s.setChan c x).fab = s.fab := rfl
@[simp] theorem State.setChan_ras (s : State) (c : MemCh) (x : Chan) : (s.setChan c x).ras = s.ras := rfl
@[simp] theorem State.setChan_ctr (s : State) (c : MemCh) (x : Chan) : (s.setChan c x).ctr = s.ctr := rfl
@[simp] theorem State.setChan_mem (s : State) (c : MemCh) (x : Chan) : (s.setChan c x).mem = { s.mem with chans := mset Chan.idle s.mem.chans c.val x } := rfl
@[simp] theorem State.setChan_ext (s : State) (c : MemCh) (x : Chan) : (s.setChan c x).ext = s.ext := rfl
@[simp] theorem State.setChan_coh (s : State) (c : MemCh) (x : Chan) : (s.setChan c x).coh = s.coh := rfl
@[simp] theorem State.setChan_links (s : State) (c : MemCh) (x : Chan) : (s.setChan c x).links = s.links := rfl
@[simp] theorem State.setChan_rtr (s : State) (c : MemCh) (x : Chan) : (s.setChan c x).rtr = s.rtr := rfl
@[simp] theorem State.setChan_que (s : State) (c : MemCh) (x : Chan) : (s.setChan c x).que = s.que := rfl
@[simp] theorem State.setChan_xlt (s : State) (c : MemCh) (x : Chan) : (s.setChan c x).xlt = s.xlt := rfl
@[simp] theorem State.setChan_sec (s : State) (c : MemCh) (x : Chan) : (s.setChan c x).sec = s.sec := rfl
@[simp] theorem State.setChan_dbg (s : State) (c : MemCh) (x : Chan) : (s.setChan c x).dbg = s.dbg := rfl
@[simp] theorem State.setChan_plt (s : State) (c : MemCh) (x : Chan) : (s.setChan c x).plt = s.plt := rfl
@[simp] theorem State.setChan_audit (s : State) (c : MemCh) (x : Chan) : (s.setChan c x).audit = s.audit := rfl
@[simp] theorem State.setChan_serial (s : State) (c : MemCh) (x : Chan) : (s.setChan c x).serial = s.serial := rfl
@[simp] theorem State.setChan_out (s : State) (c : MemCh) (x : Chan) : (s.setChan c x).out = s.out := rfl
@[simp] theorem State.setChan_pending (s : State) (c : MemCh) (x : Chan) : (s.setChan c x).pending = s.pending := rfl

@[simp] theorem State.setStack_tide (s : State) (n : Nat) (x : Stack) : (s.setStack n x).tide = s.tide := rfl
@[simp] theorem State.setStack_arb (s : State) (n : Nat) (x : Stack) : (s.setStack n x).arb = s.arb := rfl
@[simp] theorem State.setStack_health (s : State) (n : Nat) (x : Stack) : (s.setStack n x).health = s.health := rfl
@[simp] theorem State.setStack_remap (s : State) (n : Nat) (x : Stack) : (s.setStack n x).remap = s.remap := rfl
@[simp] theorem State.setStack_fab (s : State) (n : Nat) (x : Stack) : (s.setStack n x).fab = s.fab := rfl
@[simp] theorem State.setStack_ras (s : State) (n : Nat) (x : Stack) : (s.setStack n x).ras = s.ras := rfl
@[simp] theorem State.setStack_ctr (s : State) (n : Nat) (x : Stack) : (s.setStack n x).ctr = s.ctr := rfl
@[simp] theorem State.setStack_mem (s : State) (n : Nat) (x : Stack) : (s.setStack n x).mem = { s.mem with deepStacks := mset Stack.reset s.mem.deepStacks n x } := rfl
@[simp] theorem State.setStack_ext (s : State) (n : Nat) (x : Stack) : (s.setStack n x).ext = s.ext := rfl
@[simp] theorem State.setStack_coh (s : State) (n : Nat) (x : Stack) : (s.setStack n x).coh = s.coh := rfl
@[simp] theorem State.setStack_links (s : State) (n : Nat) (x : Stack) : (s.setStack n x).links = s.links := rfl
@[simp] theorem State.setStack_rtr (s : State) (n : Nat) (x : Stack) : (s.setStack n x).rtr = s.rtr := rfl
@[simp] theorem State.setStack_que (s : State) (n : Nat) (x : Stack) : (s.setStack n x).que = s.que := rfl
@[simp] theorem State.setStack_xlt (s : State) (n : Nat) (x : Stack) : (s.setStack n x).xlt = s.xlt := rfl
@[simp] theorem State.setStack_sec (s : State) (n : Nat) (x : Stack) : (s.setStack n x).sec = s.sec := rfl
@[simp] theorem State.setStack_dbg (s : State) (n : Nat) (x : Stack) : (s.setStack n x).dbg = s.dbg := rfl
@[simp] theorem State.setStack_plt (s : State) (n : Nat) (x : Stack) : (s.setStack n x).plt = s.plt := rfl
@[simp] theorem State.setStack_audit (s : State) (n : Nat) (x : Stack) : (s.setStack n x).audit = s.audit := rfl
@[simp] theorem State.setStack_serial (s : State) (n : Nat) (x : Stack) : (s.setStack n x).serial = s.serial := rfl
@[simp] theorem State.setStack_out (s : State) (n : Nat) (x : Stack) : (s.setStack n x).out = s.out := rfl
@[simp] theorem State.setStack_pending (s : State) (n : Nat) (x : Stack) : (s.setStack n x).pending = s.pending := rfl

@[simp] theorem State.setZone_tide (s : State) (n : Nat) (x : Zone) : (s.setZone n x).tide = s.tide := rfl
@[simp] theorem State.setZone_arb (s : State) (n : Nat) (x : Zone) : (s.setZone n x).arb = s.arb := rfl
@[simp] theorem State.setZone_health (s : State) (n : Nat) (x : Zone) : (s.setZone n x).health = s.health := rfl
@[simp] theorem State.setZone_remap (s : State) (n : Nat) (x : Zone) : (s.setZone n x).remap = s.remap := rfl
@[simp] theorem State.setZone_fab (s : State) (n : Nat) (x : Zone) : (s.setZone n x).fab = s.fab := rfl
@[simp] theorem State.setZone_ras (s : State) (n : Nat) (x : Zone) : (s.setZone n x).ras = s.ras := rfl
@[simp] theorem State.setZone_ctr (s : State) (n : Nat) (x : Zone) : (s.setZone n x).ctr = s.ctr := rfl
@[simp] theorem State.setZone_mem (s : State) (n : Nat) (x : Zone) : (s.setZone n x).mem = { s.mem with zones := mset Zone.reset s.mem.zones n x } := rfl
@[simp] theorem State.setZone_ext (s : State) (n : Nat) (x : Zone) : (s.setZone n x).ext = s.ext := rfl
@[simp] theorem State.setZone_coh (s : State) (n : Nat) (x : Zone) : (s.setZone n x).coh = s.coh := rfl
@[simp] theorem State.setZone_links (s : State) (n : Nat) (x : Zone) : (s.setZone n x).links = s.links := rfl
@[simp] theorem State.setZone_rtr (s : State) (n : Nat) (x : Zone) : (s.setZone n x).rtr = s.rtr := rfl
@[simp] theorem State.setZone_que (s : State) (n : Nat) (x : Zone) : (s.setZone n x).que = s.que := rfl
@[simp] theorem State.setZone_xlt (s : State) (n : Nat) (x : Zone) : (s.setZone n x).xlt = s.xlt := rfl
@[simp] theorem State.setZone_sec (s : State) (n : Nat) (x : Zone) : (s.setZone n x).sec = s.sec := rfl
@[simp] theorem State.setZone_dbg (s : State) (n : Nat) (x : Zone) : (s.setZone n x).dbg = s.dbg := rfl
@[simp] theorem State.setZone_plt (s : State) (n : Nat) (x : Zone) : (s.setZone n x).plt = s.plt := rfl
@[simp] theorem State.setZone_audit (s : State) (n : Nat) (x : Zone) : (s.setZone n x).audit = s.audit := rfl
@[simp] theorem State.setZone_serial (s : State) (n : Nat) (x : Zone) : (s.setZone n x).serial = s.serial := rfl
@[simp] theorem State.setZone_out (s : State) (n : Nat) (x : Zone) : (s.setZone n x).out = s.out := rfl
@[simp] theorem State.setZone_pending (s : State) (n : Nat) (x : Zone) : (s.setZone n x).pending = s.pending := rfl

@[simp] theorem State.setPoison_tide (s : State) (n : Nat) : (s.setPoison n).tide = s.tide := rfl
@[simp] theorem State.setPoison_arb (s : State) (n : Nat) : (s.setPoison n).arb = s.arb := rfl
@[simp] theorem State.setPoison_health (s : State) (n : Nat) : (s.setPoison n).health = s.health := rfl
@[simp] theorem State.setPoison_remap (s : State) (n : Nat) : (s.setPoison n).remap = s.remap := rfl
@[simp] theorem State.setPoison_fab (s : State) (n : Nat) : (s.setPoison n).fab = s.fab := rfl
@[simp] theorem State.setPoison_ras (s : State) (n : Nat) : (s.setPoison n).ras = s.ras := rfl
@[simp] theorem State.setPoison_ctr (s : State) (n : Nat) : (s.setPoison n).ctr = s.ctr := rfl
@[simp] theorem State.setPoison_mem (s : State) (n : Nat) : (s.setPoison n).mem = { s.mem with poison := mset false s.mem.poison n true } := rfl
@[simp] theorem State.setPoison_ext (s : State) (n : Nat) : (s.setPoison n).ext = s.ext := rfl
@[simp] theorem State.setPoison_coh (s : State) (n : Nat) : (s.setPoison n).coh = s.coh := rfl
@[simp] theorem State.setPoison_links (s : State) (n : Nat) : (s.setPoison n).links = s.links := rfl
@[simp] theorem State.setPoison_rtr (s : State) (n : Nat) : (s.setPoison n).rtr = s.rtr := rfl
@[simp] theorem State.setPoison_que (s : State) (n : Nat) : (s.setPoison n).que = s.que := rfl
@[simp] theorem State.setPoison_xlt (s : State) (n : Nat) : (s.setPoison n).xlt = s.xlt := rfl
@[simp] theorem State.setPoison_sec (s : State) (n : Nat) : (s.setPoison n).sec = s.sec := rfl
@[simp] theorem State.setPoison_dbg (s : State) (n : Nat) : (s.setPoison n).dbg = s.dbg := rfl
@[simp] theorem State.setPoison_plt (s : State) (n : Nat) : (s.setPoison n).plt = s.plt := rfl
@[simp] theorem State.setPoison_audit (s : State) (n : Nat) : (s.setPoison n).audit = s.audit := rfl
@[simp] theorem State.setPoison_serial (s : State) (n : Nat) : (s.setPoison n).serial = s.serial := rfl
@[simp] theorem State.setPoison_out (s : State) (n : Nat) : (s.setPoison n).out = s.out := rfl
@[simp] theorem State.setPoison_pending (s : State) (n : Nat) : (s.setPoison n).pending = s.pending := rfl

@[simp] theorem State.setExtent_tide (s : State) (e : Nat) (x : Extent) : (s.setExtent e x).tide = s.tide := rfl
@[simp] theorem State.setExtent_arb (s : State) (e : Nat) (x : Extent) : (s.setExtent e x).arb = s.arb := rfl
@[simp] theorem State.setExtent_health (s : State) (e : Nat) (x : Extent) : (s.setExtent e x).health = s.health := rfl
@[simp] theorem State.setExtent_remap (s : State) (e : Nat) (x : Extent) : (s.setExtent e x).remap = s.remap := rfl
@[simp] theorem State.setExtent_fab (s : State) (e : Nat) (x : Extent) : (s.setExtent e x).fab = s.fab := rfl
@[simp] theorem State.setExtent_ras (s : State) (e : Nat) (x : Extent) : (s.setExtent e x).ras = s.ras := rfl
@[simp] theorem State.setExtent_ctr (s : State) (e : Nat) (x : Extent) : (s.setExtent e x).ctr = s.ctr := rfl
@[simp] theorem State.setExtent_mem (s : State) (e : Nat) (x : Extent) : (s.setExtent e x).mem = s.mem := rfl
@[simp] theorem State.setExtent_ext (s : State) (e : Nat) (x : Extent) : (s.setExtent e x).ext = { s.ext with extents := tput s.ext.extents e x } := rfl
@[simp] theorem State.setExtent_coh (s : State) (e : Nat) (x : Extent) : (s.setExtent e x).coh = s.coh := rfl
@[simp] theorem State.setExtent_links (s : State) (e : Nat) (x : Extent) : (s.setExtent e x).links = s.links := rfl
@[simp] theorem State.setExtent_rtr (s : State) (e : Nat) (x : Extent) : (s.setExtent e x).rtr = s.rtr := rfl
@[simp] theorem State.setExtent_que (s : State) (e : Nat) (x : Extent) : (s.setExtent e x).que = s.que := rfl
@[simp] theorem State.setExtent_xlt (s : State) (e : Nat) (x : Extent) : (s.setExtent e x).xlt = s.xlt := rfl
@[simp] theorem State.setExtent_sec (s : State) (e : Nat) (x : Extent) : (s.setExtent e x).sec = s.sec := rfl
@[simp] theorem State.setExtent_dbg (s : State) (e : Nat) (x : Extent) : (s.setExtent e x).dbg = s.dbg := rfl
@[simp] theorem State.setExtent_plt (s : State) (e : Nat) (x : Extent) : (s.setExtent e x).plt = s.plt := rfl
@[simp] theorem State.setExtent_audit (s : State) (e : Nat) (x : Extent) : (s.setExtent e x).audit = s.audit := rfl
@[simp] theorem State.setExtent_serial (s : State) (e : Nat) (x : Extent) : (s.setExtent e x).serial = s.serial := rfl
@[simp] theorem State.setExtent_out (s : State) (e : Nat) (x : Extent) : (s.setExtent e x).out = s.out := rfl
@[simp] theorem State.setExtent_pending (s : State) (e : Nat) (x : Extent) : (s.setExtent e x).pending = s.pending := rfl

@[simp] theorem State.setSector_tide (s : State) (n w : Nat) (x : Sector) : (s.setSector n w x).tide = s.tide := rfl
@[simp] theorem State.setSector_arb (s : State) (n w : Nat) (x : Sector) : (s.setSector n w x).arb = s.arb := rfl
@[simp] theorem State.setSector_health (s : State) (n w : Nat) (x : Sector) : (s.setSector n w x).health = s.health := rfl
@[simp] theorem State.setSector_remap (s : State) (n w : Nat) (x : Sector) : (s.setSector n w x).remap = s.remap := rfl
@[simp] theorem State.setSector_fab (s : State) (n w : Nat) (x : Sector) : (s.setSector n w x).fab = s.fab := rfl
@[simp] theorem State.setSector_ras (s : State) (n w : Nat) (x : Sector) : (s.setSector n w x).ras = s.ras := rfl
@[simp] theorem State.setSector_ctr (s : State) (n w : Nat) (x : Sector) : (s.setSector n w x).ctr = s.ctr := rfl
@[simp] theorem State.setSector_mem (s : State) (n w : Nat) (x : Sector) : (s.setSector n w x).mem = s.mem := rfl
@[simp] theorem State.setSector_ext (s : State) (n w : Nat) (x : Sector) : (s.setSector n w x).ext = s.ext := rfl
@[simp] theorem State.setSector_coh (s : State) (n w : Nat) (x : Sector) : (s.setSector n w x).coh = { s.coh with dir := mset Sector.empty s.coh.dir (n * 16 + w) x } := rfl
@[simp] theorem State.setSector_links (s : State) (n w : Nat) (x : Sector) : (s.setSector n w x).links = s.links := rfl
@[simp] theorem State.setSector_rtr (s : State) (n w : Nat) (x : Sector) : (s.setSector n w x).rtr = s.rtr := rfl
@[simp] theorem State.setSector_que (s : State) (n w : Nat) (x : Sector) : (s.setSector n w x).que = s.que := rfl
@[simp] theorem State.setSector_xlt (s : State) (n w : Nat) (x : Sector) : (s.setSector n w x).xlt = s.xlt := rfl
@[simp] theorem State.setSector_sec (s : State) (n w : Nat) (x : Sector) : (s.setSector n w x).sec = s.sec := rfl
@[simp] theorem State.setSector_dbg (s : State) (n w : Nat) (x : Sector) : (s.setSector n w x).dbg = s.dbg := rfl
@[simp] theorem State.setSector_plt (s : State) (n w : Nat) (x : Sector) : (s.setSector n w x).plt = s.plt := rfl
@[simp] theorem State.setSector_audit (s : State) (n w : Nat) (x : Sector) : (s.setSector n w x).audit = s.audit := rfl
@[simp] theorem State.setSector_serial (s : State) (n w : Nat) (x : Sector) : (s.setSector n w x).serial = s.serial := rfl
@[simp] theorem State.setSector_out (s : State) (n w : Nat) (x : Sector) : (s.setSector n w x).out = s.out := rfl
@[simp] theorem State.setSector_pending (s : State) (n w : Nat) (x : Sector) : (s.setSector n w x).pending = s.pending := rfl

@[simp] theorem State.setLink_tide (s : State) (p : LinkPort) (x : Link) : (s.setLink p x).tide = s.tide := rfl
@[simp] theorem State.setLink_arb (s : State) (p : LinkPort) (x : Link) : (s.setLink p x).arb = s.arb := rfl
@[simp] theorem State.setLink_health (s : State) (p : LinkPort) (x : Link) : (s.setLink p x).health = s.health := rfl
@[simp] theorem State.setLink_remap (s : State) (p : LinkPort) (x : Link) : (s.setLink p x).remap = s.remap := rfl
@[simp] theorem State.setLink_fab (s : State) (p : LinkPort) (x : Link) : (s.setLink p x).fab = s.fab := rfl
@[simp] theorem State.setLink_ras (s : State) (p : LinkPort) (x : Link) : (s.setLink p x).ras = s.ras := rfl
@[simp] theorem State.setLink_ctr (s : State) (p : LinkPort) (x : Link) : (s.setLink p x).ctr = s.ctr := rfl
@[simp] theorem State.setLink_mem (s : State) (p : LinkPort) (x : Link) : (s.setLink p x).mem = s.mem := rfl
@[simp] theorem State.setLink_ext (s : State) (p : LinkPort) (x : Link) : (s.setLink p x).ext = s.ext := rfl
@[simp] theorem State.setLink_coh (s : State) (p : LinkPort) (x : Link) : (s.setLink p x).coh = s.coh := rfl
@[simp] theorem State.setLink_links (s : State) (p : LinkPort) (x : Link) : (s.setLink p x).links = mset Link.resetTfl s.links p.val x := rfl
@[simp] theorem State.setLink_rtr (s : State) (p : LinkPort) (x : Link) : (s.setLink p x).rtr = s.rtr := rfl
@[simp] theorem State.setLink_que (s : State) (p : LinkPort) (x : Link) : (s.setLink p x).que = s.que := rfl
@[simp] theorem State.setLink_xlt (s : State) (p : LinkPort) (x : Link) : (s.setLink p x).xlt = s.xlt := rfl
@[simp] theorem State.setLink_sec (s : State) (p : LinkPort) (x : Link) : (s.setLink p x).sec = s.sec := rfl
@[simp] theorem State.setLink_dbg (s : State) (p : LinkPort) (x : Link) : (s.setLink p x).dbg = s.dbg := rfl
@[simp] theorem State.setLink_plt (s : State) (p : LinkPort) (x : Link) : (s.setLink p x).plt = s.plt := rfl
@[simp] theorem State.setLink_audit (s : State) (p : LinkPort) (x : Link) : (s.setLink p x).audit = s.audit := rfl
@[simp] theorem State.setLink_serial (s : State) (p : LinkPort) (x : Link) : (s.setLink p x).serial = s.serial := rfl
@[simp] theorem State.setLink_out (s : State) (p : LinkPort) (x : Link) : (s.setLink p x).out = s.out := rfl
@[simp] theorem State.setLink_pending (s : State) (p : LinkPort) (x : Link) : (s.setLink p x).pending = s.pending := rfl

@[simp] theorem State.setQp_tide (s : State) (q : Qp) (x : QPair) : (s.setQp q x).tide = s.tide := rfl
@[simp] theorem State.setQp_arb (s : State) (q : Qp) (x : QPair) : (s.setQp q x).arb = s.arb := rfl
@[simp] theorem State.setQp_health (s : State) (q : Qp) (x : QPair) : (s.setQp q x).health = s.health := rfl
@[simp] theorem State.setQp_remap (s : State) (q : Qp) (x : QPair) : (s.setQp q x).remap = s.remap := rfl
@[simp] theorem State.setQp_fab (s : State) (q : Qp) (x : QPair) : (s.setQp q x).fab = s.fab := rfl
@[simp] theorem State.setQp_ras (s : State) (q : Qp) (x : QPair) : (s.setQp q x).ras = s.ras := rfl
@[simp] theorem State.setQp_ctr (s : State) (q : Qp) (x : QPair) : (s.setQp q x).ctr = s.ctr := rfl
@[simp] theorem State.setQp_mem (s : State) (q : Qp) (x : QPair) : (s.setQp q x).mem = s.mem := rfl
@[simp] theorem State.setQp_ext (s : State) (q : Qp) (x : QPair) : (s.setQp q x).ext = s.ext := rfl
@[simp] theorem State.setQp_coh (s : State) (q : Qp) (x : QPair) : (s.setQp q x).coh = s.coh := rfl
@[simp] theorem State.setQp_links (s : State) (q : Qp) (x : QPair) : (s.setQp q x).links = s.links := rfl
@[simp] theorem State.setQp_rtr (s : State) (q : Qp) (x : QPair) : (s.setQp q x).rtr = s.rtr := rfl
@[simp] theorem State.setQp_que (s : State) (q : Qp) (x : QPair) : (s.setQp q x).que = { s.que with qps := tput s.que.qps q.val x } := rfl
@[simp] theorem State.setQp_xlt (s : State) (q : Qp) (x : QPair) : (s.setQp q x).xlt = s.xlt := rfl
@[simp] theorem State.setQp_sec (s : State) (q : Qp) (x : QPair) : (s.setQp q x).sec = s.sec := rfl
@[simp] theorem State.setQp_dbg (s : State) (q : Qp) (x : QPair) : (s.setQp q x).dbg = s.dbg := rfl
@[simp] theorem State.setQp_plt (s : State) (q : Qp) (x : QPair) : (s.setQp q x).plt = s.plt := rfl
@[simp] theorem State.setQp_audit (s : State) (q : Qp) (x : QPair) : (s.setQp q x).audit = s.audit := rfl
@[simp] theorem State.setQp_serial (s : State) (q : Qp) (x : QPair) : (s.setQp q x).serial = s.serial := rfl
@[simp] theorem State.setQp_out (s : State) (q : Qp) (x : QPair) : (s.setQp q x).out = s.out := rfl
@[simp] theorem State.setQp_pending (s : State) (q : Qp) (x : QPair) : (s.setQp q x).pending = s.pending := rfl

@[simp] theorem State.modQp_tide (s : State) (q : Qp) (f : QPair → QPair) : (s.modQp q f).tide = s.tide := rfl
@[simp] theorem State.modQp_arb (s : State) (q : Qp) (f : QPair → QPair) : (s.modQp q f).arb = s.arb := rfl
@[simp] theorem State.modQp_health (s : State) (q : Qp) (f : QPair → QPair) : (s.modQp q f).health = s.health := rfl
@[simp] theorem State.modQp_remap (s : State) (q : Qp) (f : QPair → QPair) : (s.modQp q f).remap = s.remap := rfl
@[simp] theorem State.modQp_fab (s : State) (q : Qp) (f : QPair → QPair) : (s.modQp q f).fab = s.fab := rfl
@[simp] theorem State.modQp_ras (s : State) (q : Qp) (f : QPair → QPair) : (s.modQp q f).ras = s.ras := rfl
@[simp] theorem State.modQp_ctr (s : State) (q : Qp) (f : QPair → QPair) : (s.modQp q f).ctr = s.ctr := rfl
@[simp] theorem State.modQp_mem (s : State) (q : Qp) (f : QPair → QPair) : (s.modQp q f).mem = s.mem := rfl
@[simp] theorem State.modQp_ext (s : State) (q : Qp) (f : QPair → QPair) : (s.modQp q f).ext = s.ext := rfl
@[simp] theorem State.modQp_coh (s : State) (q : Qp) (f : QPair → QPair) : (s.modQp q f).coh = s.coh := rfl
@[simp] theorem State.modQp_links (s : State) (q : Qp) (f : QPair → QPair) : (s.modQp q f).links = s.links := rfl
@[simp] theorem State.modQp_rtr (s : State) (q : Qp) (f : QPair → QPair) : (s.modQp q f).rtr = s.rtr := rfl
@[simp] theorem State.modQp_que (s : State) (q : Qp) (f : QPair → QPair) : (s.modQp q f).que = { s.que with qps := tmod s.que.qps q.val f } := rfl
@[simp] theorem State.modQp_xlt (s : State) (q : Qp) (f : QPair → QPair) : (s.modQp q f).xlt = s.xlt := rfl
@[simp] theorem State.modQp_sec (s : State) (q : Qp) (f : QPair → QPair) : (s.modQp q f).sec = s.sec := rfl
@[simp] theorem State.modQp_dbg (s : State) (q : Qp) (f : QPair → QPair) : (s.modQp q f).dbg = s.dbg := rfl
@[simp] theorem State.modQp_plt (s : State) (q : Qp) (f : QPair → QPair) : (s.modQp q f).plt = s.plt := rfl
@[simp] theorem State.modQp_audit (s : State) (q : Qp) (f : QPair → QPair) : (s.modQp q f).audit = s.audit := rfl
@[simp] theorem State.modQp_serial (s : State) (q : Qp) (f : QPair → QPair) : (s.modQp q f).serial = s.serial := rfl
@[simp] theorem State.modQp_out (s : State) (q : Qp) (f : QPair → QPair) : (s.modQp q f).out = s.out := rfl
@[simp] theorem State.modQp_pending (s : State) (q : Qp) (f : QPair → QPair) : (s.modQp q f).pending = s.pending := rfl

@[simp] theorem State.modOp_tide (s : State) (n : Nat) (f : OpRec → OpRec) : (s.modOp n f).tide = s.tide := rfl
@[simp] theorem State.modOp_arb (s : State) (n : Nat) (f : OpRec → OpRec) : (s.modOp n f).arb = s.arb := rfl
@[simp] theorem State.modOp_health (s : State) (n : Nat) (f : OpRec → OpRec) : (s.modOp n f).health = s.health := rfl
@[simp] theorem State.modOp_remap (s : State) (n : Nat) (f : OpRec → OpRec) : (s.modOp n f).remap = s.remap := rfl
@[simp] theorem State.modOp_fab (s : State) (n : Nat) (f : OpRec → OpRec) : (s.modOp n f).fab = s.fab := rfl
@[simp] theorem State.modOp_ras (s : State) (n : Nat) (f : OpRec → OpRec) : (s.modOp n f).ras = s.ras := rfl
@[simp] theorem State.modOp_ctr (s : State) (n : Nat) (f : OpRec → OpRec) : (s.modOp n f).ctr = s.ctr := rfl
@[simp] theorem State.modOp_mem (s : State) (n : Nat) (f : OpRec → OpRec) : (s.modOp n f).mem = s.mem := rfl
@[simp] theorem State.modOp_ext (s : State) (n : Nat) (f : OpRec → OpRec) : (s.modOp n f).ext = s.ext := rfl
@[simp] theorem State.modOp_coh (s : State) (n : Nat) (f : OpRec → OpRec) : (s.modOp n f).coh = s.coh := rfl
@[simp] theorem State.modOp_links (s : State) (n : Nat) (f : OpRec → OpRec) : (s.modOp n f).links = s.links := rfl
@[simp] theorem State.modOp_rtr (s : State) (n : Nat) (f : OpRec → OpRec) : (s.modOp n f).rtr = s.rtr := rfl
@[simp] theorem State.modOp_que (s : State) (n : Nat) (f : OpRec → OpRec) : (s.modOp n f).que = { s.que with ops := tmod s.que.ops n f } := rfl
@[simp] theorem State.modOp_xlt (s : State) (n : Nat) (f : OpRec → OpRec) : (s.modOp n f).xlt = s.xlt := rfl
@[simp] theorem State.modOp_sec (s : State) (n : Nat) (f : OpRec → OpRec) : (s.modOp n f).sec = s.sec := rfl
@[simp] theorem State.modOp_dbg (s : State) (n : Nat) (f : OpRec → OpRec) : (s.modOp n f).dbg = s.dbg := rfl
@[simp] theorem State.modOp_plt (s : State) (n : Nat) (f : OpRec → OpRec) : (s.modOp n f).plt = s.plt := rfl
@[simp] theorem State.modOp_audit (s : State) (n : Nat) (f : OpRec → OpRec) : (s.modOp n f).audit = s.audit := rfl
@[simp] theorem State.modOp_serial (s : State) (n : Nat) (f : OpRec → OpRec) : (s.modOp n f).serial = s.serial := rfl
@[simp] theorem State.modOp_out (s : State) (n : Nat) (f : OpRec → OpRec) : (s.modOp n f).out = s.out := rfl
@[simp] theorem State.modOp_pending (s : State) (n : Nat) (f : OpRec → OpRec) : (s.modOp n f).pending = s.pending := rfl

@[simp] theorem State.setAdmin_tide (s : State) (p : PlPort) (x : Admin) : (s.setAdmin p x).tide = s.tide := rfl
@[simp] theorem State.setAdmin_arb (s : State) (p : PlPort) (x : Admin) : (s.setAdmin p x).arb = s.arb := rfl
@[simp] theorem State.setAdmin_health (s : State) (p : PlPort) (x : Admin) : (s.setAdmin p x).health = s.health := rfl
@[simp] theorem State.setAdmin_remap (s : State) (p : PlPort) (x : Admin) : (s.setAdmin p x).remap = s.remap := rfl
@[simp] theorem State.setAdmin_fab (s : State) (p : PlPort) (x : Admin) : (s.setAdmin p x).fab = s.fab := rfl
@[simp] theorem State.setAdmin_ras (s : State) (p : PlPort) (x : Admin) : (s.setAdmin p x).ras = s.ras := rfl
@[simp] theorem State.setAdmin_ctr (s : State) (p : PlPort) (x : Admin) : (s.setAdmin p x).ctr = s.ctr := rfl
@[simp] theorem State.setAdmin_mem (s : State) (p : PlPort) (x : Admin) : (s.setAdmin p x).mem = s.mem := rfl
@[simp] theorem State.setAdmin_ext (s : State) (p : PlPort) (x : Admin) : (s.setAdmin p x).ext = s.ext := rfl
@[simp] theorem State.setAdmin_coh (s : State) (p : PlPort) (x : Admin) : (s.setAdmin p x).coh = s.coh := rfl
@[simp] theorem State.setAdmin_links (s : State) (p : PlPort) (x : Admin) : (s.setAdmin p x).links = s.links := rfl
@[simp] theorem State.setAdmin_rtr (s : State) (p : PlPort) (x : Admin) : (s.setAdmin p x).rtr = s.rtr := rfl
@[simp] theorem State.setAdmin_que (s : State) (p : PlPort) (x : Admin) : (s.setAdmin p x).que = { s.que with admin := mset Admin.reset s.que.admin p.val x } := rfl
@[simp] theorem State.setAdmin_xlt (s : State) (p : PlPort) (x : Admin) : (s.setAdmin p x).xlt = s.xlt := rfl
@[simp] theorem State.setAdmin_sec (s : State) (p : PlPort) (x : Admin) : (s.setAdmin p x).sec = s.sec := rfl
@[simp] theorem State.setAdmin_dbg (s : State) (p : PlPort) (x : Admin) : (s.setAdmin p x).dbg = s.dbg := rfl
@[simp] theorem State.setAdmin_plt (s : State) (p : PlPort) (x : Admin) : (s.setAdmin p x).plt = s.plt := rfl
@[simp] theorem State.setAdmin_audit (s : State) (p : PlPort) (x : Admin) : (s.setAdmin p x).audit = s.audit := rfl
@[simp] theorem State.setAdmin_serial (s : State) (p : PlPort) (x : Admin) : (s.setAdmin p x).serial = s.serial := rfl
@[simp] theorem State.setAdmin_out (s : State) (p : PlPort) (x : Admin) : (s.setAdmin p x).out = s.out := rfl
@[simp] theorem State.setAdmin_pending (s : State) (p : PlPort) (x : Admin) : (s.setAdmin p x).pending = s.pending := rfl

@[simp] theorem State.setTenant_tide (s : State) (n : Tenant) (x : TenantRec) : (s.setTenant n x).tide = s.tide := rfl
@[simp] theorem State.setTenant_arb (s : State) (n : Tenant) (x : TenantRec) : (s.setTenant n x).arb = s.arb := rfl
@[simp] theorem State.setTenant_health (s : State) (n : Tenant) (x : TenantRec) : (s.setTenant n x).health = s.health := rfl
@[simp] theorem State.setTenant_remap (s : State) (n : Tenant) (x : TenantRec) : (s.setTenant n x).remap = s.remap := rfl
@[simp] theorem State.setTenant_fab (s : State) (n : Tenant) (x : TenantRec) : (s.setTenant n x).fab = s.fab := rfl
@[simp] theorem State.setTenant_ras (s : State) (n : Tenant) (x : TenantRec) : (s.setTenant n x).ras = s.ras := rfl
@[simp] theorem State.setTenant_ctr (s : State) (n : Tenant) (x : TenantRec) : (s.setTenant n x).ctr = s.ctr := rfl
@[simp] theorem State.setTenant_mem (s : State) (n : Tenant) (x : TenantRec) : (s.setTenant n x).mem = s.mem := rfl
@[simp] theorem State.setTenant_ext (s : State) (n : Tenant) (x : TenantRec) : (s.setTenant n x).ext = s.ext := rfl
@[simp] theorem State.setTenant_coh (s : State) (n : Tenant) (x : TenantRec) : (s.setTenant n x).coh = s.coh := rfl
@[simp] theorem State.setTenant_links (s : State) (n : Tenant) (x : TenantRec) : (s.setTenant n x).links = s.links := rfl
@[simp] theorem State.setTenant_rtr (s : State) (n : Tenant) (x : TenantRec) : (s.setTenant n x).rtr = s.rtr := rfl
@[simp] theorem State.setTenant_que (s : State) (n : Tenant) (x : TenantRec) : (s.setTenant n x).que = s.que := rfl
@[simp] theorem State.setTenant_xlt (s : State) (n : Tenant) (x : TenantRec) : (s.setTenant n x).xlt = s.xlt := rfl
@[simp] theorem State.setTenant_sec (s : State) (n : Tenant) (x : TenantRec) : (s.setTenant n x).sec = { s.sec with tenants := mset TenantRec.reset s.sec.tenants n.toNat x } := rfl
@[simp] theorem State.setTenant_dbg (s : State) (n : Tenant) (x : TenantRec) : (s.setTenant n x).dbg = s.dbg := rfl
@[simp] theorem State.setTenant_plt (s : State) (n : Tenant) (x : TenantRec) : (s.setTenant n x).plt = s.plt := rfl
@[simp] theorem State.setTenant_audit (s : State) (n : Tenant) (x : TenantRec) : (s.setTenant n x).audit = s.audit := rfl
@[simp] theorem State.setTenant_serial (s : State) (n : Tenant) (x : TenantRec) : (s.setTenant n x).serial = s.serial := rfl
@[simp] theorem State.setTenant_out (s : State) (n : Tenant) (x : TenantRec) : (s.setTenant n x).out = s.out := rfl
@[simp] theorem State.setTenant_pending (s : State) (n : Tenant) (x : TenantRec) : (s.setTenant n x).pending = s.pending := rfl

@[simp] theorem State.setMbox_tide (s : State) (p : PlPort) (x : Mbox) : (s.setMbox p x).tide = s.tide := rfl
@[simp] theorem State.setMbox_arb (s : State) (p : PlPort) (x : Mbox) : (s.setMbox p x).arb = s.arb := rfl
@[simp] theorem State.setMbox_health (s : State) (p : PlPort) (x : Mbox) : (s.setMbox p x).health = s.health := rfl
@[simp] theorem State.setMbox_remap (s : State) (p : PlPort) (x : Mbox) : (s.setMbox p x).remap = s.remap := rfl
@[simp] theorem State.setMbox_fab (s : State) (p : PlPort) (x : Mbox) : (s.setMbox p x).fab = s.fab := rfl
@[simp] theorem State.setMbox_ras (s : State) (p : PlPort) (x : Mbox) : (s.setMbox p x).ras = s.ras := rfl
@[simp] theorem State.setMbox_ctr (s : State) (p : PlPort) (x : Mbox) : (s.setMbox p x).ctr = s.ctr := rfl
@[simp] theorem State.setMbox_mem (s : State) (p : PlPort) (x : Mbox) : (s.setMbox p x).mem = s.mem := rfl
@[simp] theorem State.setMbox_ext (s : State) (p : PlPort) (x : Mbox) : (s.setMbox p x).ext = s.ext := rfl
@[simp] theorem State.setMbox_coh (s : State) (p : PlPort) (x : Mbox) : (s.setMbox p x).coh = s.coh := rfl
@[simp] theorem State.setMbox_links (s : State) (p : PlPort) (x : Mbox) : (s.setMbox p x).links = s.links := rfl
@[simp] theorem State.setMbox_rtr (s : State) (p : PlPort) (x : Mbox) : (s.setMbox p x).rtr = s.rtr := rfl
@[simp] theorem State.setMbox_que (s : State) (p : PlPort) (x : Mbox) : (s.setMbox p x).que = s.que := rfl
@[simp] theorem State.setMbox_xlt (s : State) (p : PlPort) (x : Mbox) : (s.setMbox p x).xlt = s.xlt := rfl
@[simp] theorem State.setMbox_sec (s : State) (p : PlPort) (x : Mbox) : (s.setMbox p x).sec = { s.sec with mboxes := mset Mbox.reset s.sec.mboxes p.val x } := rfl
@[simp] theorem State.setMbox_dbg (s : State) (p : PlPort) (x : Mbox) : (s.setMbox p x).dbg = s.dbg := rfl
@[simp] theorem State.setMbox_plt (s : State) (p : PlPort) (x : Mbox) : (s.setMbox p x).plt = s.plt := rfl
@[simp] theorem State.setMbox_audit (s : State) (p : PlPort) (x : Mbox) : (s.setMbox p x).audit = s.audit := rfl
@[simp] theorem State.setMbox_serial (s : State) (p : PlPort) (x : Mbox) : (s.setMbox p x).serial = s.serial := rfl
@[simp] theorem State.setMbox_out (s : State) (p : PlPort) (x : Mbox) : (s.setMbox p x).out = s.out := rfl
@[simp] theorem State.setMbox_pending (s : State) (p : PlPort) (x : Mbox) : (s.setMbox p x).pending = s.pending := rfl

@[simp] theorem State.setSession_tide (s : State) (n : Nat) (x : Session) : (s.setSession n x).tide = s.tide := rfl
@[simp] theorem State.setSession_arb (s : State) (n : Nat) (x : Session) : (s.setSession n x).arb = s.arb := rfl
@[simp] theorem State.setSession_health (s : State) (n : Nat) (x : Session) : (s.setSession n x).health = s.health := rfl
@[simp] theorem State.setSession_remap (s : State) (n : Nat) (x : Session) : (s.setSession n x).remap = s.remap := rfl
@[simp] theorem State.setSession_fab (s : State) (n : Nat) (x : Session) : (s.setSession n x).fab = s.fab := rfl
@[simp] theorem State.setSession_ras (s : State) (n : Nat) (x : Session) : (s.setSession n x).ras = s.ras := rfl
@[simp] theorem State.setSession_ctr (s : State) (n : Nat) (x : Session) : (s.setSession n x).ctr = s.ctr := rfl
@[simp] theorem State.setSession_mem (s : State) (n : Nat) (x : Session) : (s.setSession n x).mem = s.mem := rfl
@[simp] theorem State.setSession_ext (s : State) (n : Nat) (x : Session) : (s.setSession n x).ext = s.ext := rfl
@[simp] theorem State.setSession_coh (s : State) (n : Nat) (x : Session) : (s.setSession n x).coh = s.coh := rfl
@[simp] theorem State.setSession_links (s : State) (n : Nat) (x : Session) : (s.setSession n x).links = s.links := rfl
@[simp] theorem State.setSession_rtr (s : State) (n : Nat) (x : Session) : (s.setSession n x).rtr = s.rtr := rfl
@[simp] theorem State.setSession_que (s : State) (n : Nat) (x : Session) : (s.setSession n x).que = s.que := rfl
@[simp] theorem State.setSession_xlt (s : State) (n : Nat) (x : Session) : (s.setSession n x).xlt = s.xlt := rfl
@[simp] theorem State.setSession_sec (s : State) (n : Nat) (x : Session) : (s.setSession n x).sec = { s.sec with sessions := tput s.sec.sessions n x } := rfl
@[simp] theorem State.setSession_dbg (s : State) (n : Nat) (x : Session) : (s.setSession n x).dbg = s.dbg := rfl
@[simp] theorem State.setSession_plt (s : State) (n : Nat) (x : Session) : (s.setSession n x).plt = s.plt := rfl
@[simp] theorem State.setSession_audit (s : State) (n : Nat) (x : Session) : (s.setSession n x).audit = s.audit := rfl
@[simp] theorem State.setSession_serial (s : State) (n : Nat) (x : Session) : (s.setSession n x).serial = s.serial := rfl
@[simp] theorem State.setSession_out (s : State) (n : Nat) (x : Session) : (s.setSession n x).out = s.out := rfl
@[simp] theorem State.setSession_pending (s : State) (n : Nat) (x : Session) : (s.setSession n x).pending = s.pending := rfl

@[simp] theorem State.setCrypto_tide (s : State) (p : LinkPort) (x : PortCrypto) : (s.setCrypto p x).tide = s.tide := rfl
@[simp] theorem State.setCrypto_arb (s : State) (p : LinkPort) (x : PortCrypto) : (s.setCrypto p x).arb = s.arb := rfl
@[simp] theorem State.setCrypto_health (s : State) (p : LinkPort) (x : PortCrypto) : (s.setCrypto p x).health = s.health := rfl
@[simp] theorem State.setCrypto_remap (s : State) (p : LinkPort) (x : PortCrypto) : (s.setCrypto p x).remap = s.remap := rfl
@[simp] theorem State.setCrypto_fab (s : State) (p : LinkPort) (x : PortCrypto) : (s.setCrypto p x).fab = s.fab := rfl
@[simp] theorem State.setCrypto_ras (s : State) (p : LinkPort) (x : PortCrypto) : (s.setCrypto p x).ras = s.ras := rfl
@[simp] theorem State.setCrypto_ctr (s : State) (p : LinkPort) (x : PortCrypto) : (s.setCrypto p x).ctr = s.ctr := rfl
@[simp] theorem State.setCrypto_mem (s : State) (p : LinkPort) (x : PortCrypto) : (s.setCrypto p x).mem = s.mem := rfl
@[simp] theorem State.setCrypto_ext (s : State) (p : LinkPort) (x : PortCrypto) : (s.setCrypto p x).ext = s.ext := rfl
@[simp] theorem State.setCrypto_coh (s : State) (p : LinkPort) (x : PortCrypto) : (s.setCrypto p x).coh = s.coh := rfl
@[simp] theorem State.setCrypto_links (s : State) (p : LinkPort) (x : PortCrypto) : (s.setCrypto p x).links = s.links := rfl
@[simp] theorem State.setCrypto_rtr (s : State) (p : LinkPort) (x : PortCrypto) : (s.setCrypto p x).rtr = s.rtr := rfl
@[simp] theorem State.setCrypto_que (s : State) (p : LinkPort) (x : PortCrypto) : (s.setCrypto p x).que = s.que := rfl
@[simp] theorem State.setCrypto_xlt (s : State) (p : LinkPort) (x : PortCrypto) : (s.setCrypto p x).xlt = s.xlt := rfl
@[simp] theorem State.setCrypto_sec (s : State) (p : LinkPort) (x : PortCrypto) : (s.setCrypto p x).sec = { s.sec with crypto := mset PortCrypto.reset s.sec.crypto (p.val - 32) x } := rfl
@[simp] theorem State.setCrypto_dbg (s : State) (p : LinkPort) (x : PortCrypto) : (s.setCrypto p x).dbg = s.dbg := rfl
@[simp] theorem State.setCrypto_plt (s : State) (p : LinkPort) (x : PortCrypto) : (s.setCrypto p x).plt = s.plt := rfl
@[simp] theorem State.setCrypto_audit (s : State) (p : LinkPort) (x : PortCrypto) : (s.setCrypto p x).audit = s.audit := rfl
@[simp] theorem State.setCrypto_serial (s : State) (p : LinkPort) (x : PortCrypto) : (s.setCrypto p x).serial = s.serial := rfl
@[simp] theorem State.setCrypto_out (s : State) (p : LinkPort) (x : PortCrypto) : (s.setCrypto p x).out = s.out := rfl
@[simp] theorem State.setCrypto_pending (s : State) (p : LinkPort) (x : PortCrypto) : (s.setCrypto p x).pending = s.pending := rfl

@[simp] theorem State.setTrace_tide (s : State) (n : Nat) (x : TraceSlot) : (s.setTrace n x).tide = s.tide := rfl
@[simp] theorem State.setTrace_arb (s : State) (n : Nat) (x : TraceSlot) : (s.setTrace n x).arb = s.arb := rfl
@[simp] theorem State.setTrace_health (s : State) (n : Nat) (x : TraceSlot) : (s.setTrace n x).health = s.health := rfl
@[simp] theorem State.setTrace_remap (s : State) (n : Nat) (x : TraceSlot) : (s.setTrace n x).remap = s.remap := rfl
@[simp] theorem State.setTrace_fab (s : State) (n : Nat) (x : TraceSlot) : (s.setTrace n x).fab = s.fab := rfl
@[simp] theorem State.setTrace_ras (s : State) (n : Nat) (x : TraceSlot) : (s.setTrace n x).ras = s.ras := rfl
@[simp] theorem State.setTrace_ctr (s : State) (n : Nat) (x : TraceSlot) : (s.setTrace n x).ctr = s.ctr := rfl
@[simp] theorem State.setTrace_mem (s : State) (n : Nat) (x : TraceSlot) : (s.setTrace n x).mem = s.mem := rfl
@[simp] theorem State.setTrace_ext (s : State) (n : Nat) (x : TraceSlot) : (s.setTrace n x).ext = s.ext := rfl
@[simp] theorem State.setTrace_coh (s : State) (n : Nat) (x : TraceSlot) : (s.setTrace n x).coh = s.coh := rfl
@[simp] theorem State.setTrace_links (s : State) (n : Nat) (x : TraceSlot) : (s.setTrace n x).links = s.links := rfl
@[simp] theorem State.setTrace_rtr (s : State) (n : Nat) (x : TraceSlot) : (s.setTrace n x).rtr = s.rtr := rfl
@[simp] theorem State.setTrace_que (s : State) (n : Nat) (x : TraceSlot) : (s.setTrace n x).que = s.que := rfl
@[simp] theorem State.setTrace_xlt (s : State) (n : Nat) (x : TraceSlot) : (s.setTrace n x).xlt = s.xlt := rfl
@[simp] theorem State.setTrace_sec (s : State) (n : Nat) (x : TraceSlot) : (s.setTrace n x).sec = s.sec := rfl
@[simp] theorem State.setTrace_dbg (s : State) (n : Nat) (x : TraceSlot) : (s.setTrace n x).dbg = { s.dbg with traces := mset TraceSlot.reset s.dbg.traces n x } := rfl
@[simp] theorem State.setTrace_plt (s : State) (n : Nat) (x : TraceSlot) : (s.setTrace n x).plt = s.plt := rfl
@[simp] theorem State.setTrace_audit (s : State) (n : Nat) (x : TraceSlot) : (s.setTrace n x).audit = s.audit := rfl
@[simp] theorem State.setTrace_serial (s : State) (n : Nat) (x : TraceSlot) : (s.setTrace n x).serial = s.serial := rfl
@[simp] theorem State.setTrace_out (s : State) (n : Nat) (x : TraceSlot) : (s.setTrace n x).out = s.out := rfl
@[simp] theorem State.setTrace_pending (s : State) (n : Nat) (x : TraceSlot) : (s.setTrace n x).pending = s.pending := rfl

@[simp] theorem State.setPlt_tide (s : State) (x : Plt) : (s.setPlt x).tide = s.tide := rfl
@[simp] theorem State.setPlt_arb (s : State) (x : Plt) : (s.setPlt x).arb = s.arb := rfl
@[simp] theorem State.setPlt_health (s : State) (x : Plt) : (s.setPlt x).health = s.health := rfl
@[simp] theorem State.setPlt_remap (s : State) (x : Plt) : (s.setPlt x).remap = s.remap := rfl
@[simp] theorem State.setPlt_fab (s : State) (x : Plt) : (s.setPlt x).fab = s.fab := rfl
@[simp] theorem State.setPlt_ras (s : State) (x : Plt) : (s.setPlt x).ras = s.ras := rfl
@[simp] theorem State.setPlt_ctr (s : State) (x : Plt) : (s.setPlt x).ctr = s.ctr := rfl
@[simp] theorem State.setPlt_mem (s : State) (x : Plt) : (s.setPlt x).mem = s.mem := rfl
@[simp] theorem State.setPlt_ext (s : State) (x : Plt) : (s.setPlt x).ext = s.ext := rfl
@[simp] theorem State.setPlt_coh (s : State) (x : Plt) : (s.setPlt x).coh = s.coh := rfl
@[simp] theorem State.setPlt_links (s : State) (x : Plt) : (s.setPlt x).links = s.links := rfl
@[simp] theorem State.setPlt_rtr (s : State) (x : Plt) : (s.setPlt x).rtr = s.rtr := rfl
@[simp] theorem State.setPlt_que (s : State) (x : Plt) : (s.setPlt x).que = s.que := rfl
@[simp] theorem State.setPlt_xlt (s : State) (x : Plt) : (s.setPlt x).xlt = s.xlt := rfl
@[simp] theorem State.setPlt_sec (s : State) (x : Plt) : (s.setPlt x).sec = s.sec := rfl
@[simp] theorem State.setPlt_dbg (s : State) (x : Plt) : (s.setPlt x).dbg = s.dbg := rfl
@[simp] theorem State.setPlt_plt (s : State) (x : Plt) : (s.setPlt x).plt = x := rfl
@[simp] theorem State.setPlt_audit (s : State) (x : Plt) : (s.setPlt x).audit = s.audit := rfl
@[simp] theorem State.setPlt_serial (s : State) (x : Plt) : (s.setPlt x).serial = s.serial := rfl
@[simp] theorem State.setPlt_out (s : State) (x : Plt) : (s.setPlt x).out = s.out := rfl
@[simp] theorem State.setPlt_pending (s : State) (x : Plt) : (s.setPlt x).pending = s.pending := rfl

@[simp] theorem State.setFlash_tide (s : State) (x : Flash) : (s.setFlash x).tide = s.tide := rfl
@[simp] theorem State.setFlash_arb (s : State) (x : Flash) : (s.setFlash x).arb = s.arb := rfl
@[simp] theorem State.setFlash_health (s : State) (x : Flash) : (s.setFlash x).health = s.health := rfl
@[simp] theorem State.setFlash_remap (s : State) (x : Flash) : (s.setFlash x).remap = s.remap := rfl
@[simp] theorem State.setFlash_fab (s : State) (x : Flash) : (s.setFlash x).fab = s.fab := rfl
@[simp] theorem State.setFlash_ras (s : State) (x : Flash) : (s.setFlash x).ras = s.ras := rfl
@[simp] theorem State.setFlash_ctr (s : State) (x : Flash) : (s.setFlash x).ctr = s.ctr := rfl
@[simp] theorem State.setFlash_mem (s : State) (x : Flash) : (s.setFlash x).mem = s.mem := rfl
@[simp] theorem State.setFlash_ext (s : State) (x : Flash) : (s.setFlash x).ext = s.ext := rfl
@[simp] theorem State.setFlash_coh (s : State) (x : Flash) : (s.setFlash x).coh = s.coh := rfl
@[simp] theorem State.setFlash_links (s : State) (x : Flash) : (s.setFlash x).links = s.links := rfl
@[simp] theorem State.setFlash_rtr (s : State) (x : Flash) : (s.setFlash x).rtr = s.rtr := rfl
@[simp] theorem State.setFlash_que (s : State) (x : Flash) : (s.setFlash x).que = s.que := rfl
@[simp] theorem State.setFlash_xlt (s : State) (x : Flash) : (s.setFlash x).xlt = s.xlt := rfl
@[simp] theorem State.setFlash_sec (s : State) (x : Flash) : (s.setFlash x).sec = s.sec := rfl
@[simp] theorem State.setFlash_dbg (s : State) (x : Flash) : (s.setFlash x).dbg = s.dbg := rfl
@[simp] theorem State.setFlash_plt (s : State) (x : Flash) : (s.setFlash x).plt = { s.plt with flash := x } := rfl
@[simp] theorem State.setFlash_audit (s : State) (x : Flash) : (s.setFlash x).audit = s.audit := rfl
@[simp] theorem State.setFlash_serial (s : State) (x : Flash) : (s.setFlash x).serial = s.serial := rfl
@[simp] theorem State.setFlash_out (s : State) (x : Flash) : (s.setFlash x).out = s.out := rfl
@[simp] theorem State.setFlash_pending (s : State) (x : Flash) : (s.setFlash x).pending = s.pending := rfl

@[simp] theorem State.ledger_tide (s : State) (n : Nat) (d : Int) : (s.ledger n d).tide = s.tide := rfl
@[simp] theorem State.ledger_arb (s : State) (n : Nat) (d : Int) : (s.ledger n d).arb = s.arb := rfl
@[simp] theorem State.ledger_health (s : State) (n : Nat) (d : Int) : (s.ledger n d).health = s.health := rfl
@[simp] theorem State.ledger_remap (s : State) (n : Nat) (d : Int) : (s.ledger n d).remap = s.remap := rfl
@[simp] theorem State.ledger_fab (s : State) (n : Nat) (d : Int) : (s.ledger n d).fab = s.fab := rfl
@[simp] theorem State.ledger_ras (s : State) (n : Nat) (d : Int) : (s.ledger n d).ras = s.ras := rfl
@[simp] theorem State.ledger_ctr (s : State) (n : Nat) (d : Int) : (s.ledger n d).ctr = s.ctr := rfl
@[simp] theorem State.ledger_mem (s : State) (n : Nat) (d : Int) : (s.ledger n d).mem = s.mem := rfl
@[simp] theorem State.ledger_ext (s : State) (n : Nat) (d : Int) : (s.ledger n d).ext = s.ext := rfl
@[simp] theorem State.ledger_coh (s : State) (n : Nat) (d : Int) : (s.ledger n d).coh = s.coh := rfl
@[simp] theorem State.ledger_links (s : State) (n : Nat) (d : Int) : (s.ledger n d).links = s.links := rfl
@[simp] theorem State.ledger_rtr (s : State) (n : Nat) (d : Int) : (s.ledger n d).rtr = s.rtr := rfl
@[simp] theorem State.ledger_que (s : State) (n : Nat) (d : Int) : (s.ledger n d).que = s.que := rfl
@[simp] theorem State.ledger_xlt (s : State) (n : Nat) (d : Int) : (s.ledger n d).xlt = s.xlt := rfl
@[simp] theorem State.ledger_sec (s : State) (n : Nat) (d : Int) : (s.ledger n d).sec = s.sec := rfl
@[simp] theorem State.ledger_dbg (s : State) (n : Nat) (d : Int) : (s.ledger n d).dbg = s.dbg := rfl
@[simp] theorem State.ledger_plt (s : State) (n : Nat) (d : Int) : (s.ledger n d).plt = s.plt := rfl
@[simp] theorem State.ledger_audit (s : State) (n : Nat) (d : Int) : (s.ledger n d).audit = mset 0 s.audit n (mget 0 s.audit n + d) := rfl
@[simp] theorem State.ledger_serial (s : State) (n : Nat) (d : Int) : (s.ledger n d).serial = s.serial := rfl
@[simp] theorem State.ledger_out (s : State) (n : Nat) (d : Int) : (s.ledger n d).out = s.out := rfl
@[simp] theorem State.ledger_pending (s : State) (n : Nat) (d : Int) : (s.ledger n d).pending = s.pending := rfl

end Sys2Proof.Machine
end

