-- ==== Sys2Proof/Laws/Ops.lean ====
section
/-! SUPPORT. What the shared operations can do, stated once: gating and settling, frames, reports, counters, replies, ports, memory writes. -/

namespace Sys2Proof.Machine

/-! Gating. -/

@[simp] theorem live_quiet (s : State) : s.quiet.live = s.live := rfl
@[simp] theorem awake_quiet (s : State) : s.quiet.awake = s.awake := rfl

theorem live_not_fatal {s : State} (h : s.live = true) : s.dbg.fatal = false := by
  simp only [State.live, Bool.and_eq_true, Bool.not_eq_true'] at h
  exact h.2

theorem live_awake {s : State} (h : s.live = true) : s.awake = true := by
  simp only [State.live, Bool.and_eq_true] at h
  simp only [State.awake, Bool.and_eq_true]
  exact h.1

theorem live_powered {s : State} (h : s.live = true) : s.plt.powered = true := by
  simp only [State.live, Bool.and_eq_true] at h
  exact h.1.1.1

theorem whenLive_of_live {s : State} (f : State → State) (h : s.live = true) : s.whenLive f = s.settle (f s) := by
  simp [State.whenLive, h]

theorem whenLive_of_not_live {s : State} (f : State → State) (h : s.live = false) : s.whenLive f = s := by
  simp [State.whenLive, h]

theorem whenAwake_of_awake {s : State} (f : State → State) (h : s.awake = true) : s.whenAwake f = s.settle (f s) := by
  simp [State.whenAwake, h]

theorem whenAwake_of_not_awake {s : State} (f : State → State) (h : s.awake = false) : s.whenAwake f = s := by
  simp [State.whenAwake, h]

theorem whenPowered_of_powered {s : State} (f : State → State) (h : s.plt.powered = true) : s.whenPowered f = s.settle (f s) := by
  simp [State.whenPowered, h]

theorem whenPowered_of_not_powered {s : State} (f : State → State) (h : s.plt.powered = false) : s.whenPowered f = s := by
  simp [State.whenPowered, h]

/-! Settling. -/

@[simp] theorem settle_pending (s t : State) : (s.settle t).pending = s.pending := rfl

theorem settle_of_not_fatal (s : State) {t : State} (h : t.dbg.fatal = false) : s.settle t = { t with pending := s.pending } := by
  simp [State.settle, h]

@[simp] theorem settle_tide (s t : State) : (s.settle t).tide = t.tide := rfl
@[simp] theorem settle_arb (s t : State) : (s.settle t).arb = t.arb := rfl
@[simp] theorem settle_health (s t : State) : (s.settle t).health = t.health := rfl
@[simp] theorem settle_remap (s t : State) : (s.settle t).remap = t.remap := rfl
@[simp] theorem settle_fab (s t : State) : (s.settle t).fab = t.fab := rfl
@[simp] theorem settle_ras (s t : State) : (s.settle t).ras = t.ras := rfl
@[simp] theorem settle_ctr (s t : State) : (s.settle t).ctr = t.ctr := rfl
@[simp] theorem settle_mem (s t : State) : (s.settle t).mem = t.mem := rfl
@[simp] theorem settle_ext (s t : State) : (s.settle t).ext = t.ext := rfl
@[simp] theorem settle_coh (s t : State) : (s.settle t).coh = t.coh := rfl
@[simp] theorem settle_rtr (s t : State) : (s.settle t).rtr = t.rtr := rfl
@[simp] theorem settle_que (s t : State) : (s.settle t).que = t.que := rfl
@[simp] theorem settle_xlt (s t : State) : (s.settle t).xlt = t.xlt := rfl
@[simp] theorem settle_sec (s t : State) : (s.settle t).sec = t.sec := rfl
@[simp] theorem settle_dbg (s t : State) : (s.settle t).dbg = t.dbg := rfl
@[simp] theorem settle_plt (s t : State) : (s.settle t).plt = t.plt := rfl
@[simp] theorem settle_audit (s t : State) : (s.settle t).audit = t.audit := rfl
@[simp] theorem settle_serial (s t : State) : (s.settle t).serial = t.serial := rfl
@[simp] theorem settle_out (s t : State) : (s.settle t).out = t.out := rfl

/-! Ports. -/

theorem mget_mset_ne {α : Type} [DecidableEq α] (d : α) (m : SMap α) {k i : Nat} {v : α} (hv : v ≠ d) (h : i ≠ k) :
    mget d (mset d m k v) i = mget d m i := by
  simp only [mget, mset, if_neg hv, tget_tput_other m v h]

/-- Every port that portsDown visits is in DISABLED. -/
theorem portsDown_disabled (m : SMap Link) (p : LinkPort) : (mget Link.resetTfl (portsDown m) p.val).state = .disabled := by
  have key : ∀ (ps : List LinkPort) (m : SMap Link), (p ∈ ps ∨ (mget Link.resetTfl m p.val).state = .disabled) →
      (mget Link.resetTfl (ps.foldl (fun m (q : LinkPort) =>
        mmod Link.resetTfl m q.val (fun l => { l with state := .disabled })) m) p.val).state = .disabled := by
    intro ps
    induction ps with
    | nil => intro m h; exact h.resolve_left (List.not_mem_nil)
    | cons q ps ih =>
      intro m h
      refine ih _ ?_
      by_cases hq : p = q
      · subst hq; exact .inr (by simp [mmod])
      · have hn : p.val ≠ q.val := fun e => hq (Fin.ext e)
        refine h.imp (fun h => (List.mem_cons.1 h).resolve_left hq) (fun h => ?_)
        have hv : ({ mget Link.resetTfl m q.val with state := .disabled } : Link) ≠ Link.resetTfl :=
          fun e => LinkState.noConfusion (congrArg Link.state e)
        exact (congrArg Link.state (mget_mset_ne Link.resetTfl m hv hn)).trans h
  exact key _ m (.inl (List.mem_finRange p))

/-- What a command leaves behind meets the invariant of a node-fatal state. -/
theorem settle_fatalInv (s t : State) : fatalInv (s.settle t) := by
  intro h p
  have hf : t.dbg.fatal = true := h
  show (mget Link.resetTfl (if t.dbg.fatal then portsDown t.links else t.links) p.val).state = .disabled
  rw [if_pos hf]
  exact portsDown_disabled t.links p

/-! Frames. -/

theorem Frame.rfl {ps : List Part} (s : State) : Frame ps s s := ⟨Eq.refl _, fun p _ => by cases p <;> exact Eq.refl _⟩

theorem Frame.trans {ps : List Part} {s t u : State} (h : Frame ps s t) (k : Frame ps t u) : Frame ps s u := by
  refine ⟨k.1.trans h.1, fun p hp => ?_⟩
  have h1 := h.2 p hp
  have h2 := k.2 p hp
  cases p <;> exact Eq.trans h2 h1

theorem Frame.mono {ps qs : List Part} {s t : State} (h : Frame ps s t) (hs : ∀ p ∈ ps, p ∈ qs) : Frame qs s t :=
  ⟨h.1, fun p hp => h.2 p (fun hm => hp (hs p hm))⟩

/-- Only what was sent changed. -/
theorem Frame.ofOut {ps : List Part} (s : State) (o : List Out) : Frame ps s { s with out := o } :=
  ⟨Eq.refl _, fun p _ => by cases p <;> exact Eq.refl _⟩

theorem Frame.quiet {ps : List Part} (s : State) : Frame ps s s.quiet := Frame.ofOut s []

theorem Frame.emit {ps : List Part} (s : State) (o : Out) : Frame ps s (s.emit o) := Frame.ofOut s _

/-- A command of a live device that leaves the fatal flag alone changes what its function changes. -/
theorem Frame.whenLive {ps : List Part} {s : State} {f : State → State} (hl : s.live = true) (hf : Frame ps s.quiet (f s.quiet))
    (hd : (f s.quiet).dbg.fatal = false) : Frame ps s (s.quiet.whenLive f) := by
  rw [whenLive_of_live (s := s.quiet) f hl, settle_of_not_fatal _ hd]
  refine (Frame.quiet s).trans (hf.trans ⟨hf.1.symm, fun p _ => by cases p <;> exact Eq.refl _⟩)

theorem frame_dbg {ps : List Part} {s t : State} (h : Frame ps s t) (hp : Part.dbg ∉ ps) : t.dbg = s.dbg := h.2 .dbg hp

/-- Decides a frame from the parts that an update touches. -/
theorem Frame.of_eqs {ps : List Part} {s t : State} (h0 : t.pending = s.pending) (h : ∀ p ∈ [Part.tide, .arb, .health, .remap, .fab, .ras,
    .ctr, .mem, .ext, .coh, .links, .rtr, .que, .xlt, .sec, .dbg, .plt, .audit, .serial], p ∈ ps ∨ p.same s t) : Frame ps s t :=
  ⟨h0, fun p hp => (h p (by cases p <;> simp)).resolve_left hp⟩

/-! Reports, counters, replies. -/

/-- A report takes the ring's next place, keeps the ring within its size and is sent. -/
theorem pushReport_frame (s : State) (r : Report) : Frame [.ras, .serial] s (s.pushReport r) :=
  ⟨rfl, fun p hp => by cases p <;> first | (exfalso; apply hp; decide) | exact Eq.refl _⟩

theorem countLost_frame (s : State) : Frame [.ras, .ctr, .serial] s s.countLost := by
  unfold State.countLost
  have h1 : Frame [.ras, .ctr, .serial] s { s with ctr := mset 0 s.ctr (ctrRas 5) (s.counter (ctrRas 5) + 1) } :=
    ⟨rfl, fun p hp => by cases p <;> first | (exfalso; apply hp; decide) | exact Eq.refl _⟩
  dsimp only
  split
  · exact Frame.rfl s
  · split
    · exact h1.trans ((pushReport_frame _ _).mono (by simp))
    · exact h1

/-- Raising a report touches the report ring, the lost-report counter and the free-value number only. -/
theorem raise_frame (s : State) (r : Report) : Frame [.ras, .ctr, .serial] s (s.raise r) := by
  have h := (pushReport_frame s r).mono (qs := [.ras, .ctr, .serial]) (by simp)
  unfold State.raise
  dsimp only
  split
  · exact h
  · exact h.trans (countLost_frame _)

/-- Counting touches the counter, and the report ring where the counter saturates. -/
theorem bump_frame (s : State) (off n : Nat) : Frame [.ras, .ctr, .serial] s (s.bump off n) := by
  have h1 : ∀ c : Nat, Frame [.ras, .ctr, .serial] s { s with ctr := mset 0 s.ctr off c } := fun c =>
    ⟨rfl, fun p hp => by cases p <;> first | (exfalso; apply hp; decide) | exact Eq.refl _⟩
  unfold State.bump
  dsimp only
  split
  · exact Frame.rfl s
  · split
    · exact (h1 _).trans (raise_frame _ _)
    · exact h1 _

theorem tally_frame (s : State) (off : Nat) : Frame [.ras, .ctr, .serial] s (s.tally off) := bump_frame s off 1

/-- A management answer touches the list of commands that a MGMT message waits for, and nothing else. -/
theorem reply_frame (s : State) (code : BitVec 8) (result : Nat) (bytes : List Byte) : Frame [.sec] s (s.reply code result bytes) := by
  unfold State.reply
  dsimp only
  split
  · exact ⟨rfl, fun p hp => by cases p <;> first | (exfalso; apply hp; decide) | exact Eq.refl _⟩
  · exact Frame.emit s _

theorem ledger_frame (s : State) (code : Nat) (d : Int) : Frame [.audit] s (s.ledger code d) :=
  ⟨rfl, fun p hp => by cases p <;> first | (exfalso; apply hp; decide) | exact Eq.refl _⟩

/-- The node-fatal entry. -/
theorem nodeFatal_frame (s : State) (unit : BitVec 16) : Frame [.dbg, .links, .ras, .ctr, .serial] s (s.nodeFatal unit) := by
  unfold State.nodeFatal
  dsimp only
  split
  · exact ⟨rfl, fun p hp => by cases p <;> first | (exfalso; apply hp; decide) | exact Eq.refl _⟩
  · refine Frame.trans (t := { s with dbg := _, links := portsDown s.links }) ?_ ((raise_frame _ _).mono (by simp))
    exact ⟨rfl, fun p hp => by cases p <;> first | (exfalso; apply hp; decide) | exact Eq.refl _⟩

/-! The pool's bytes. -/

theorem smapWf_storeLine {m : SMap Byte} (h : smapWf (0 : Byte) m = true) (line : Nat) (en : BitVec 64) (d : Line) :
    smapWf (0 : Byte) (storeLine m line en d) = true := by
  unfold storeLine
  generalize List.range 64 = l
  induction l generalizing m with
  | nil => exact h
  | cons i l ih =>
    refine ih ?_
    dsimp only
    split
    · exact smapWf_mset h _ _
    · exact h

theorem Memory.wf_frame {ps : List Part} {s t : State} (h : Memory.wf s = true) (f : Frame ps s t) (hp : Part.mem ∉ ps) :
    Memory.wf t = true := by
  have e : t.mem = s.mem := f.2 .mem hp
  unfold Memory.wf; rw [e]; exact h

/-- Noting a write at the reads that wait for its line changes no byte. -/
theorem noteWrite_bytes (s : State) (line : Nat) (en : BitVec 64) : (s.noteWrite line en).mem.bytes = s.mem.bytes := by
  unfold State.noteWrite
  dsimp only
  split <;> rfl

/-- A write of a line keeps the canonical form. -/
theorem Memory.wf_writeLine {s : State} (h : Memory.wf s = true) (line : Nat) (en : BitVec 64) (d : Line) :
    Memory.wf (s.writeLine line en d) = true := by
  replace h : Memory.wf (s.noteWrite line en) = true := by unfold Memory.wf; rw [noteWrite_bytes]; exact h
  unfold State.writeLine
  dsimp only
  split
  · exact smapWf_storeLine h line en d
  · split
    · exact Memory.wf_frame h ((tally_frame _ _).trans (raise_frame _ _)) (by simp)
    · exact smapWf_storeLine h line en d

/-- A write of a byte run keeps the canonical form. -/
theorem Memory.wf_poolWrite {s : State} (h : Memory.wf s = true) (key : Nat) (bs : List Byte) :
    Memory.wf (s.poolWrite key bs) = true := by
  unfold State.poolWrite
  split
  · exact h
  · generalize List.range _ = l
    induction l generalizing s with
    | nil => exact h
    | cons k l ih => exact ih (Memory.wf_writeLine h _ _ _)

/-- Zeroing keeps the canonical form. -/
theorem Memory.wf_poolZero {s : State} (h : Memory.wf s = true) (key n : Nat) : Memory.wf (s.poolZero key n) = true :=
  smapWf_zeroBytes h key n

/-- A change of poison alone keeps it. -/
theorem Memory.wf_setPoison {s : State} (h : Memory.wf s = true) (line : Nat) : Memory.wf (s.setPoison line) = true := h

/-- Moving a granule's bytes keeps it. -/
theorem smapWf_foldl_mset {m : SMap Byte} (h : smapWf (0 : Byte) m = true) (xs : List (Nat × Byte)) :
    smapWf (0 : Byte) (xs.foldl (fun m c => mset 0 m c.1 c.2) m) = true := by
  induction xs generalizing m with
  | nil => exact h
  | cons x xs ih => exact ih (smapWf_mset h _ _)

theorem Memory.wf_reset : Memory.wf State.reset = true := by decide

/-- A byte that a line's write does not name reads as before. -/
theorem mget_storeLine_out {m : SMap Byte} (h : keysRise m = true) (line : Nat) (en : BitVec 64) (d : Line) {a : Nat}
    (ha : a < line * 64 ∨ line * 64 + 64 ≤ a) : mget 0 (storeLine m line en d) a = mget 0 m a := by
  have key : ∀ (l : List Nat) (m : SMap Byte), keysRise m = true → (∀ i ∈ l, i < 64) →
      mget 0 (l.foldl (fun acc i => if en.getLsbD i then mset 0 acc (line * 64 + i) (byteOf d i) else acc) m) a = mget 0 m a := by
    intro l
    induction l with
    | nil => intro m _ _; rfl
    | cons i l ih =>
      intro m hm hl
      have hi : i < 64 := hl i (List.mem_cons_self ..)
      have hl' : ∀ j ∈ l, j < 64 := fun j hj => hl j (List.mem_cons_of_mem _ hj)
      rw [List.foldl_cons]
      split
      · rw [ih _ (keysRise_mset 0 hm _ _) hl', mget_mset_other 0 hm _ (by omega)]
      · exact ih _ hm hl'
  exact key _ m h (fun i hi => List.mem_range.1 hi)

end Sys2Proof.Machine
end

