-- ==== Sys2Proof/Machine/Pins.lean ====
section
/-! DEFINITION. The low-speed pins (R533, R599, R600): fuse states, and what stands on a pin once its logic has taken it. -/

namespace Sys2Proof.Machine

/-- The 29 low-speed signals, in the order of their field (R598). -/
inductive Pin where
  | resetN | shdnReqN | shdnDone | thermTripN | strapBoot0 | strapBoot1 | strapClk0 | strapClk1 | tideIn | tideOut | tck | tms | tdi | tdo
  | trstN | thermda | thermdc | flashClk | flashCsN | flashDqs | flashRstN | flashDq (i : Fin 8)
deriving DecidableEq, Repr

/-- How a pin is driven: by nothing, by a pull of 50 kΩ, to a level, or by logic whose level at this moment the model does not hold. -/
inductive Drive where
  | highZ | pullUp | pullDown | low | high | logic
deriving DecidableEq, Repr

/-- A two-bit fuse state (R533). -/
def fuseDrive (v : BitVec 2) : Drive :=
  match v.toNat with
  | 0 => .highZ
  | 1 => .pullUp
  | 2 => .pullDown
  | _ => .low

/-- The fuse state that Dalpevar programs (R533, R599); the thermal diode's lands carry none. -/
def Pin.fuse : Pin → BitVec 2
  | .resetN => 1#2
  | .shdnReqN => 1#2
  | .shdnDone => 3#2
  | .thermTripN => 0#2
  | .strapBoot0 => 2#2
  | .strapBoot1 => 2#2
  | .strapClk0 => 2#2
  | .strapClk1 => 2#2
  | .tideIn => 2#2
  | .tideOut => 3#2
  | .tck => 2#2
  | .tms => 1#2
  | .tdi => 1#2
  | .tdo => 0#2
  | .trstN => 1#2
  | .thermda => 0#2
  | .thermdc => 0#2
  | .flashClk => 3#2
  | .flashCsN => 1#2
  | .flashDqs => 2#2
  | .flashRstN => 3#2
  | .flashDq _ => 2#2

/-- A pin that the ROM takes at the start of phase ROM, or firmware at FW_START (R600); the others keep their fuse states. -/
def Plt.taken (x : Plt) : Pin → Bool
  | .flashClk => x.romPins
  | .flashCsN => x.romPins
  | .flashRstN => x.romPins
  | .flashDq _ => x.romPins
  | .thermTripN => x.romPins
  | .tideOut => x.fwPins
  | .shdnDone => x.fwPins
  | _ => false

/-- What drives a pin in its function: its fuse state until it is taken. SHDN_DONE is high after an orderly shut-down (R556), THERM_TRIP_N, an
open drain, low from a trip on (R554); TIDE_OUT is low while OUT_EN is 0 (R36). -/
def State.pin (s : State) (p : Pin) : Drive :=
  if !s.plt.taken p then fuseDrive p.fuse
  else match p with
  | .shdnDone => if s.plt.shdnDone then .high else .low
  | .thermTripN => if s.plt.thermTrip then .low else .highZ
  | .tideOut => if s.tide.outEn then .logic else .low
  | _ => .logic

end Sys2Proof.Machine
end

