-- ==== Sys2Proof/Tests/Slice0.lean ====
section
/-! SUPPORT. Tests: what the manual's own numbers and examples say, ill-formed commands refused, and for every statement with hypotheses a
concrete state and operands that meet them, clause by clause. -/

namespace Sys2Proof.Tests
open Sys2Proof.Machine

set_option Elab.async false

/-! ### Small states that the tests share -/

/-- A 64-byte structure with an opcode in byte 0 and values at byte offsets. -/
def mkDesc (opc : Nat) (fs : List (Nat × Nat)) : Desc := BitVec.ofNat 512 (opc + (fs.map (fun f => f.2 * 2 ^ (8 * f.1))).sum)

/-- n bytes with values of some bytes at byte offsets. -/
def mkImage (n : Nat) (fs : List (Nat × Nat)) : List Byte :=
  (List.range n).map (fun i => BitVec.ofNat 8 (((fs.find? (fun f => f.1 == i)).map (fun f => f.2)).getD 0))

/-- Endpoint 3 may read, write and make atomic requests. -/
def ep3All : W32 := 0x7FFFC003#32

/-- An extent of one granule at granule slot 0 that tenant 5 owns, with one granule of reserve, or none. -/
def ext5 (k : ExtKind) (st : GranState) (sn : Option Snap) : Extent :=
  { state := st, kind := k, shelf := false, lost := false, discard := false, tenant := 5#10, baseSlot := 0, grans := [0],
    reserve := if sn.isSome then [1] else [], rights := [ep3All], notifyEp := 0x3FFF#14, notifyAddr := 0#64, grantTick := 0#64,
    stateTick := 0#64, views := (List.range 6).map (fun i => (i, ⟨[ep3All], false, false⟩)), changes := [], accepted := [], snap := sn,
    sealReply := none, fill := false }

/-- A ready device, node 1, with tenant 5's extent 0, and port 0 granted tenant 5 at endpoint 3. -/
def dev (k : ExtKind) : State :=
  { State.reset with rtr := { Rtr.reset with nodeId := 1#14 }, plt := { Plt.reset with phase := .ready },
                     que := { Que.reset with grants := [(0, [⟨5#10, 3#14, 0x3FFF#14⟩])] },
                     ext := ⟨[(0, ext5 k .granted none)], [(0, ⟨.granted, false⟩)], []⟩ }

/-- Address 0 of node 1's pool. -/
def fga0 : Nat := 2 ^ 40

/-- The device with a command at the head of port 0's admin queue. -/
def adm (s : State) (d : Desc) : State :=
  { s with que := { s.que with admin := [(0, { Admin.reset with enable := true, held := [d] })] } }

def cfg5 : QpCfg :=
  { port := 0, tenant := 5#10, ep := 3#14, provisional := true, ringPool := false, cls := 0#2, dbFabric := false, sqLog := 4, cqLog := 4,
    coalCount := 1, vector := 0xFFFF#16, stashEp := 0x3FFF#14, dbEp := 0#14, asid := 0#20, maxInflight := 16, coalTicks := 0,
    sqAddr := 0#64, cqAddr := 0#64, notifyAddr := 0#64 }

/-- An active queue pair of tenant 5 that holds some descriptors. -/
def qpair (held : SMap Held) : QPair :=
  { cfg := cfg5, state := .active, sqTail := 0, fetch := 0, cqHead := 0, cqNext := 0, phase := true, csn := 1#48, held := held,
    nextHeld := held.length, recs := [], sinceIntr := 0, coalAge := none, unacked := 0, intrDue := false, dropRecords := false,
    destroyers := [] }

/-- The device with descriptor d next in queue pair 0. -/
def held0 (d : Desc) : Held := ⟨d, 0, none, false⟩
def next (s : State) (d : Desc) : State := { s with que := { s.que with qps := [(0, qpair [(0, held0 d)])] } }

def opOf (d : Desc) : OpRec :=
  { qp := 0, held := 0, opcode := descOpc d, csn := 1#48, desc := d, tenant := 5#10, ep := 3#14, ending := none, tileStatus := 0#16,
    due := none, list := [], pages := [], block := none, mask := 0#8, got := [], todo := [], waited := false }

/-- The device with descriptor d of queue pair 0 admitted as operation 0. -/
def admitted (s : State) (d : Desc) : State :=
  { s with que := { s.que with qps := [(0, qpair [(0, ⟨d, 0, some 0, false⟩)])], ops := [(0, opOf d)], nextOp := 1 } }

/-- The fields of a small reel: one cell, one figure of the kind given, one stream, one pool argument. -/
def reelFields (kind path sched : Nat) : List (Nat × Nat) :=
  [(0, 0x54), (1, 0x52), (2, 0x45), (3, 0x4C), (4, 1), (7, 1), (9, 0x14), (0x1C, 1), (0x1D, 1), (0x1E, 1), (0x20, 1), (0x22, 1), (0x23, 1),
   (0x24, 1), (0x29, 0x10), (0x31, 1), (0x34, 0x40), (0x35, 1), (0x38, 0x80), (0x39, 1), (0x50, 0xC0), (0x51, 1),
   -- the figure: 1 repetition of 1 element, from 0x400 to 0x800
   (256, kind), (260, 1), (262, if kind = 1 then 1 else 0), (264, 1), (269, 4), (273, 4), (277, 8), (316, 2), (317, 2),
   -- the stream: one row of 64 bytes at scratch 0x100
   (320, path + 16 * sched), (325, 1), (332, 64), (336, 1), (338, 1), (384, 1)]

/-- The reel without its signature, as a run needs it. -/
def reelOf (kind path sched : Nat) : Reel := ⟨5#10, mkImage 448 (reelFields kind path sched), false, []⟩

def lcell (c : CellId) : LCell :=
  { cell := c, step := 0, running := false, armed := true, stalled := false, drawn := none, forced := false, saved := none }

/-- A run of reel 0 as operation 0, its one logical cell on a cell. -/
def run0 (bound : Bool) (lcs : SMap LCell) (copies : SMap CopyRec) : Run :=
  { reel := 0, args := [(fga0, 4096)], steps := 2, seed := 0#64, mask := 0#8, bound := bound, lcs := lcs, copies := copies,
    nextCopy := copies.length, committed := 0, overruns := 0, stalls := 0 }

def runDesc : Desc := mkDesc 0x30 [(18, 1), (20, 2), (24, fga0)]

/-- The device with that run. -/
def withRun (kind path sched : Nat) (r : Run) (cells : SMap Cell) : State :=
  let s := admitted (dev .plain) runDesc
  { s with fab := { s.fab with reels := [(0, reelOf kind path sched)], runs := [(0, r)], cells := cells } }

def tile0 (fig : Nat) (reqs : List AtomReq) (out : Nat) : Tile :=
  { run := 0, lc := 0, step := 0, fig := fig, overran := false, check := none, sig := (0#64, 0#64), reqs := reqs, outstanding := out,
    sent := false, stopped := false }

/-- A cell that runs a tile of that run, its figure table in scratch. -/
def busyCell (kind : Nat) (t : Tile) : Cell :=
  { Cell.reset with scratch := loadScratch [] (reelOf kind 0 0).image, occupant := some (0, 0), tile := some t, lastTenant := some 5#10 }

/-! ### The machine as a whole; tide tick, arbitration, containment -/

theorem witness_EveryCommandKeepsTheQueue :
    (∃ t, exec .bypass State.reset = .next t) ∧ (∃ t, step { State.reset with pending := [.bypass] } = .next t) :=
  ⟨⟨_, rfl⟩, ⟨_, rfl⟩⟩

theorem witness_OnlyMissingMemoryStops : (15616 : Nat) ≤ 15616 := by decide

/-- A device that has tripped, and one without power. -/
def tripped : State := { State.reset with plt := { Plt.reset with tripped := true } }
def unpowered : State := { State.reset with plt := { Plt.reset with powered := false } }

theorem witness_NothingHappensOnADeadDevice :
    (tripped.live = false ∧ servedAlways .checkFractionApply = false ∧ servedPowered .checkFractionApply = false ∧
      servedAwake .checkFractionApply = false ∧ ∃ t, exec .checkFractionApply tripped = .next t) ∧
    (tripped.awake = false ∧ servedAwake .healthRead = true ∧ ∃ t, exec .healthRead tripped = .next t) ∧
    (unpowered.plt.powered = false ∧ servedPowered .bypass = true ∧ ∃ t, exec .bypass unpowered = .next t) :=
  ⟨⟨by decide, by decide, by decide, by decide, _, rfl⟩, ⟨by decide, by decide, _, rfl⟩, by decide, by decide, _, rfl⟩

/-- A node-fatal device whose dump is being written and whose ports are down. -/
def fatalNode : State :=
  { State.reset with dbg := { Dbg.reset with fatal := true, dumpState := .writing }, links := portsDown State.reset.links,
                     pending := [.healthRead] }

theorem witness_FatalKeepsPortsDisabled : fatalNode.dbg.fatal = true ∧ fatalInv fatalNode ∧ ∃ t, step fatalNode = .next t :=
  ⟨by decide, fun _ => by unfold portsDisabled; decide +kernel, _, rfl⟩

/-- A device whose tick follows. -/
def following (p : FollowPhase) (good miss : Nat) (load : Option W64) : State :=
  { State.reset with tide := { Tide.reset with mode := .follow, phase := p, goodRun := good, missRun := miss, load := load } }

theorem witness_TideRegisters :
    State.reset.live = true ∧ State.reset.tide.mode ≠ .follow ∧ State.reset.periodTooShort 15#4 = false ∧
    (following .track 0 0 none).live = true ∧ (following .track 0 0 none).tide.mode = .follow := by decide

/-- The state after a first boundary, with a marker due. -/
def markDue (load : Option W64) : State := { State.reset with tide := { Tide.reset with started := true, markerDue := true, load := load } }

theorem witness_BoundaryNumbersTheTick :
    State.reset.live = true ∧ State.reset.tide.markerDue = false ∧ State.reset.tide.started = false ∧
    (markDue (some 4096#64)).live = true ∧ (markDue (some 4096#64)).tide.markerDue = true ∧
    (markDue (some 4096#64)).tide.load = some 4096#64 ∧ (markDue none).tide.load = none := by decide

theorem witness_TideInPulses :
    (State.reset.live = true ∧ State.reset.tide.mode ≠ .follow) ∧
    ((following .acquire 0 0 none).live = true ∧ (following .acquire 0 0 none).tide.mode = .follow ∧
      ((49 : Nat) < 50 ∨ (150 < 49 ∧ 49 < 250) ∨ 400 < 49)) ∧
    ((following .track 0 0 none).live = true ∧ (following .track 0 0 none).tide.phase = .track ∧
      (3864 : Nat) ≤ 1900 * (following .track 0 0 none).periodUs + 64 ∧ 1900 * (following .track 0 0 none).periodUs ≤ 3736 + 64 ∧
      ((following .track 0 0 none).tide.edgeError 8#16).toInt.natAbs ≤ 8 ∧ 8 < ((following .track 0 0 none).tide.edgeError 0xFFF7#16).toInt.natAbs ∧
      64 < ((following .track 0 0 none).tide.edgeError 65#16).toInt.natAbs ∧ 0 ≤ ((following .track 0 0 none).tide.edgeError 0#16).toInt) ∧
    (following .track 16 4 none).tide.phase = .track ∧ 16 ≤ (following .track 16 4 none).tide.goodRun ∧
    4 ≤ (following .track 16 4 none).tide.missRun := by decide

theorem witness_ArbiterGrantsByClassThenRoundRobin :
    State.reset.live = true ∧ (∀ ch, ArbId.chipEntry ≠ .mem ch) ∧ keysRise (State.reset.arbiter .chipEntry).losses = true ∧
    ∃ i, State.reset.asks .chipEntry ⟨[15, 0], [], [⟨15, 0, 3⟩], [], [], []⟩ i :=
  ⟨by decide, nofun, by decide, 15, by decide, by decide, by decide, by decide +kernel⟩

/-- A region ring with two full buffers, clockwise, at stops 0 and 1. -/
def fullRing : State := State.reset.setRing 8 { Ring.empty with bufs := [(0 * 8 + 4, List.replicate 4 ⟨0, 2, 0⟩), (1 * 8 + 4, List.replicate 4 ⟨0, 3, 0⟩), (2 * 8 + 4, List.replicate 4 ⟨0, 3, 0⟩), (3 * 8 + 4, List.replicate 4 ⟨0, 4, 0⟩)] }

theorem witness_ArbiterLossesBackOff :
    State.reset.live = true ∧ (∀ ch, ArbId.regionEntry 7 ≠ .mem ch) ∧ keysRise (State.reset.arbiter (.regionEntry 7)).losses = true ∧
    (∃ i, State.reset.asks (.regionEntry 7) ⟨[8, 0], [], [⟨8, 0, 1⟩, ⟨0, 1, 0⟩], [], [], []⟩ i) ∧
    ¬ fullRing.asks (.regionEntry 7) ⟨[0], [], [⟨0, 1, 0⟩], [], [], []⟩ 0 ∧ (1 : Nat) ∈ [1] ∧ (1 : Nat) ∉ [0] :=
  ⟨by decide, nofun, by decide, ⟨8, by decide, by decide, by decide, by decide +kernel⟩, fun h => absurd h.2.2.2 (by decide +kernel),
   by decide, by decide⟩

/-- Three cells of block 0 fenced, and two blocks of region 1 offline. -/
def worn : State :=
  { State.reset with health := [(0, { BlkHealth.ok with fenced := 0x7#16 }), (9, { BlkHealth.ok with blockOffline := true }),
      (10, { BlkHealth.ok with blockOffline := true })] }

/-- Only regions 0 and 1 are online. -/
def twoRegions : State :=
  { State.reset with health := (List.range 48).map (fun b => (16 + b, { BlkHealth.ok with regionOffline := true })) }

theorem witness_ContainmentTakesUnitsOut :
    (worn.live = true ∧ worn.cellOnline 3 = true ∧ 3 ≤ worn.fencedCount (blockOf 3) ∧ worn.cellOnline 1023 = true ∧
      worn.fencedCount (blockOf 1023) < 3) ∧
    (worn.blockOnline 8 = true ∧ 2 ≤ worn.offlineBlocks (regionOfBlock 8)) ∧
    (twoRegions.live = true ∧ twoRegions.regionOnline 0 = true ∧ twoRegions.regionsOnline ≤ 2) ∧
    ({ worn with remap := [.block 9] } : State).leftNow (blockOf 144) = true ∧ (worn.blk (blockOf 144)).fenced.getLsbD (144 % 16) = false ∧
    blockOf 144 = 9 ∧ worn.leftNow (blockOf 144) = false ∧ worn.cellOnline 144 = false ∧
    worn.cellOnline 2 = false ∧ worn.blockOnline 9 = false ∧ (worn.blk 9).blockOffline = true ∧
    ({ twoRegions with remap := [.region 7] } : State).blockOnline 56 = false ∧ (twoRegions.blk 56).blockOffline = false ∧
    regionOfBlock 56 = 7 ∧ twoRegions.regionOnline 7 = false := by decide

theorem witness_NodeFatalAndItsDump :
    State.reset.live = true ∧ fatalNode.awake = true ∧ fatalNode.dbg.fatal = true ∧ fatalNode.dbg.dumpState = .writing ∧
    fatalNode.plt.tripped = false := by decide

theorem witness_PulseWidths :
    (following .track 0 0 none).live = true ∧ (following .track 0 0 none).tide.mode = .follow ∧
    ((50 : Nat) ≤ 50 ∧ (50 : Nat) ≤ 150) ∧ ((250 : Nat) ≤ 400 ∧ (400 : Nat) ≤ 400) ∧ (following .track 0 0 none).tide.edgeKnown = false ∧
    (¬ ((50 : Nat) ≤ 401 ∧ (401 : Nat) ≤ 150) ∧ ¬ ((250 : Nat) ≤ 401 ∧ (401 : Nat) ≤ 400)) := by decide

/-! ### Reels, runs, tiles, figures, copies, atomics -/

def loadDesc (n : Nat) : Desc := mkDesc 0x62 [(16, 5), (24, 64), (32, n)]

/-- The small reel with its signature's bytes, and the device with it in its pool. -/
def fullReel : List Byte := mkImage 5120 (reelFields 4 0 0)
def reelInPool : State :=
  { dev .plain with mem := { Mem.reset with bytes := (reelFields 4 0 0).filterMap (fun f => if f.2 = 0 then none else some (f.1, BitVec.ofNat 8 f.2)) } }

/-- A device whose store holds the small reel; and one in which a run uses it. -/
def stored : State := { dev .plain with fab := { Fab.reset with reels := [(0, reelOf 4 0 0)] } }
def inUse : State := { stored with fab := { stored.fab with runs := [(0, run0 false [] [])] } }

theorem witness_ReelsLoadAndUnload_1 :
    (∃ d, (adm (dev .plain) (loadDesc 64)).adminHead 0 0x62#8 = some d ∧ descClean d [(16, 2), (24, 8), (32, 4)] = true ∧
      descField d 16 2 < 1024 ∧ descField d 24 8 % 64 = 0 ∧ (adm (dev .plain) (loadDesc 64)).tenantGranted 0 (d.extractLsb' 128 10) = true ∧
      (adm (dev .plain) (loadDesc 64)).tenantGone (d.extractLsb' 128 10) = false ∧
      (adm (dev .plain) (loadDesc 64)).loadCheck (d.extractLsb' 128 10) (List.takeD (descField d 32 4) [] 0#8) = some stReelHeader) ∧
    (dev .plain).live = true ∧ (1#64).toNat % 64 ≠ 0 :=
  ⟨⟨loadDesc 64, by decide +kernel⟩, by decide +kernel⟩

/-- What the loader is let read for a tenant. -/
def loadAcc (s : State) (t : Tenant) : Access := { accRead s.rtr.nodeId [] with loader := some t }

/-- A reel passes the loader where its signature is good, as the small one does at a free choice of signer. -/
theorem witness_ReelsLoadAndUnload_2 (h : ∀ s : State, signatureCheck (mget TenantRec.reset s.sec.tenants 5).reelKeys fullReel = none) :
    (adm (dev .plain) (loadDesc 5120)).loadCheck 5#10 (List.takeD (descField (loadDesc 5120) 32 4) fullReel 0#8) = none := by
  have e : List.takeD (descField (loadDesc 5120) 32 4) fullReel 0#8 = fullReel := by
    have n : descField (loadDesc 5120) 32 4 = 5120 := by decide +kernel
    have l : fullReel.length = 5120 := by simp [fullReel, mkImage]
    rw [n, List.takeD_eq_take _ (Nat.le_of_eq l.symm), List.take_of_length_le (Nat.le_of_eq l)]
  have k : (5#10).toNat = 5 := rfl
  have a : headerOk fullReel = true ∧ ¬ 262144 < fullReel.length ∧
      ¬ (2 ^ 22 < (adm (dev .plain) (loadDesc 5120)).storeUsed + fullReel.length ∨ 128 ≤ (adm (dev .plain) (loadDesc 5120)).fab.reels.length) ∧
      (adm (dev .plain) (loadDesc 5120)).planCheck fullReel = none := by
    decide +kernel
  obtain ⟨a1, a2, a3, a4⟩ := a
  rw [e]; unfold State.loadCheck; rw [k, h, a1, if_neg a2, if_neg a3]; dsimp only; rw [a4]; rfl

theorem witness_ReelsLoadAndUnload_3 :
    (reelInPool.live = true ∧ (BitVec.ofNat 64 fga0).toNat % 64 = 0 ∧ reelInPool.tenantGone 5#10 = false ∧ (5120#32).toNat ≤ 262144 ∧
      reelInPool.quiet.poolBusy (loadAcc reelInPool 5#10) (BitVec.ofNat 64 fga0) 5120 = false ∧
      (match reelInPool.quiet.readPool (loadAcc reelInPool 5#10) 5#10 (BitVec.ofNat 64 fga0) 5120 noIo with
       | (.ok (_, bad), s1) => !bad.any id && !s1.dbg.fatal
       | _ => false) = true) ∧
    (reelInPool.tenantGone 6#10 = false ∧
      reelInPool.quiet.poolBusy (loadAcc reelInPool 6#10) (BitVec.ofNat 64 fga0) 5120 = false ∧
      (match reelInPool.quiet.readPool (loadAcc reelInPool 6#10) 6#10 (BitVec.ofNat 64 fga0) 5120 noIo with
       | (.error st, s1) => st != stOk && !s1.dbg.fatal
       | _ => false) = true) := by decide +kernel

theorem witness_ReelsLoadAndUnload_4 :
    (∀ s ∈ [stored, inUse], (adm s (mkDesc 0x63 [])).adminHead 0 0x63#8 = some (mkDesc 0x63 []) ∧
      descClean (mkDesc 0x63 []) [(16, 2)] = true ∧ (s.reel 0).isSome = true ∧ (reelOf 4 0 0).waiters = [] ∧
      (adm s (mkDesc 0x63 [])).tenantGranted 0 (reelOf 4 0 0).tenant = true ∧ keysRise s.fab.reels = true) ∧
    stored.fab.runs.any (fun e => e.2.reel == 0) = false ∧ inUse.fab.runs.any (fun e => e.2.reel == 0) = true ∧
    (adm (dev .plain) (mkDesc 0x63 [])).adminHead 0 0x63#8 = some (mkDesc 0x63 []) ∧ (dev .plain).reel 0 = none := by decide +kernel

/-- A stored reel whose launch waits, its argument block in the pool at 64. -/
def launch (d : Desc) : State :=
  { next stored d with mem := { Mem.reset with bytes := [(69, 1#8), (73, 16#8)] } }

def launchDesc : Desc := mkDesc 0x30 [(18, 1), (20, 2), (24, fga0 + 64)]

theorem witness_RunsAreLaunchedAndAdmitted_1 :
    (∃ x d, (launch (mkDesc 0x30 [])).nextIs 0 0 0x30#8 = some (x, d) ∧ (launch (mkDesc 0x30 [])).runCheck x d.desc = some stBadLength ∧
      tget x.held 0 = some d ∧ x.drops = false) ∧
    (∃ x d r, (launch launchDesc).nextIs 0 0 0x30#8 = some (x, d) ∧ (launch launchDesc).runCheck x d.desc = none ∧
      (launch launchDesc).reel (runHandle d.desc) = some r ∧
      (match ((launch launchDesc).quiet.readArgs 0 0 x d.desc (16 * imgArgCount r.image) []).1 with
       | some (.ok bs) => argsOk r.image (runSteps d.desc) (argEntries (imgArgCount r.image) bs)
       | _ => false) = true ∧
      ((launch launchDesc).quiet.readArgs 0 0 x d.desc (16 * imgArgCount r.image) []).2.dbg.fatal = false) :=
  ⟨⟨qpair [(0, held0 (mkDesc 0x30 []))], held0 (mkDesc 0x30 []), by decide +kernel⟩,
    qpair [(0, held0 launchDesc)], held0 launchDesc, reelOf 4 0 0, by decide +kernel⟩

/-- The shape of a run asks only the reel and the mask, so every run of the small reel fits a whole device. -/
theorem witness_RunsAreLaunchedAndAdmitted_2 (n : Run) (h1 : n.reel = 0) (h2 : n.mask = 0#8) :
    ((launch launchDesc).quiet.readArgs 0 0 (qpair [(0, ⟨launchDesc, 0, none, false⟩)]) launchDesc 16 []).2.runFits n = true := by
  unfold State.runFits State.runImage
  rw [h1, h2]
  decide +kernel

def waitingRun : State :=
  let s := withRun 4 0 0 (run0 false [] []) []; { s with fab := { s.fab with admitNext := 1 } }

def rsDesc : Desc := mkDesc 0x11 []

/-- A REDUCE_SCATTER that waits to be bound. -/
def rsOp0 : RsOp :=
  { cells := [], regions := [], bound := false, armed := false, reduced := 0, arrived := 0, dirty := false, ticks := 0, order := [], acc := [],
    ahead := [] }

def waitingRs (d : Desc) : State := let s := admitted (dev .plain) d; { s with fab := { s.fab with rs := [(0, rsOp0)], admitNext := 1 } }

theorem witness_RunsAreLaunchedAndAdmitted_3 :
    waitingRun.live = true ∧ (∃ o, waitingRun.op 0 = some o ∧ o.ending = none ∧ waitingRun.tenantGone o.tenant = false ∧
      waitingRun.heldBack 0 o.qp = false) ∧ waitingRun.waitsAhead 0 = false ∧ 0 < waitingRun.fab.admitNext ∧ waitingRun.admitting = true ∧ (∃ r, waitingRun.run 0 = some r ∧ r.bound = false ∧
      waitingRun.bindingOk 0 r [0] = true) :=
  ⟨by decide, ⟨_, rfl, by decide⟩, by decide, by decide, by decide, _, rfl, by decide +kernel⟩

/-- A cell's tile may start: its run is bound to cell 0 and no copy is due. -/
def starting (forced : Bool) : State := withRun 4 1 2 (run0 true [(0, { lcell 0 with forced := forced })] []) []

theorem witness_TilesStartAndFinish_1 :
    (∀ s ∈ [starting false, starting true], s.live = true ∧ (∃ r ∈ s.run 0, ∃ o ∈ s.op 0, ∃ l ∈ tget r.lcs 0, r.bound = true ∧
      o.ending = none ∧ s.tenantGone o.tenant = false ∧ l.running = false ∧ l.armed = true ∧ l.step < r.steps ∧
      s.cellOnline l.cell = true ∧ blockOf l.cell ∉ s.dbg.halted ∧ s.cellIssues l.cell = true ∧
      (s.cell l.cell).tile = none ∧ s.copiesReady r 0 l.step = true ∧
      s.unreadRanges r 0 l.step = [])) := by
  intro s h
  simp only [List.mem_cons, List.not_mem_nil, or_false] at h
  obtain rfl | rfl := h <;> exact ⟨by decide, _, rfl, _, rfl, _, rfl, by decide +kernel⟩

theorem witness_TilesStartAndFinish_2 :
    (starting false).selected (lcell 0) false = false ∧ (starting true).selected { lcell 0 with forced := true } false = true ∧
    (starting true).checkCellFree 1008 = true ∧ blockOf 1008 ≠ blockOf 0 ∧ (starting true).checkCellFree 16 = false ∧
    { lcell 0 with forced := true }.drawn ≠ some true := by decide

/-- A cell whose tile has run its last figure. -/
def finishing : State := withRun 4 1 2 (run0 true [(0, { lcell 0 with running := true })] []) [(0, busyCell 4 (tile0 1 [] 0))]

theorem witness_TilesStartAndFinish_3 :
    finishing.live = true ∧ (∃ tl, (finishing.cell 0).tile = some tl ∧ tl.stopped = false ∧ tl.reqs = [] ∧ tl.outstanding = 0 ∧
      (∃ o, finishing.op tl.run = some o) ∧ ∃ r, finishing.run tl.run = some r ∧ (∃ l, tget r.lcs tl.lc = some l) ∧
      imgFigCount (finishing.runImage r) ≤ tl.fig) ∧ finishing.cellOnline 0 = true :=
  ⟨by decide, ⟨_, rfl, rfl, rfl, rfl, ⟨_, rfl⟩, _, rfl, ⟨_, rfl⟩, by decide +kernel⟩, by decide⟩

/-- A cell about to run a figure of a kind. -/
def figuring (kind : Nat) : State :=
  withRun kind 1 2 (run0 true [(0, { lcell 0 with running := true })] []) [(0, busyCell kind (tile0 0 [] 0))]

theorem witness_FiguresRun :
    ∀ kind ∈ [1, 2, 3, 4, 5, 6, 7], (figuring kind).live = true ∧ keysRise (figuring kind).fab.cells = true ∧
      ((figuring kind).figReady 0 kind).isSome = true := by decide +kernel

/-- A run whose one copy, on the path given, is issued; out holds what an outbound copy has still to write. -/
def copying (path sched : Nat) (out : Option (List (Nat × List Byte))) : State :=
  withRun 4 path sched (run0 true [(0, lcell 0)] [(0, ⟨0, 0, 0, true, [], out, none, []⟩)]) []

theorem witness_PlannedCopiesMoveBytes_1 :
    ∀ path ∈ [0, 1, 2, 3, 4, 5, 6, 7, 8], let s := copying path 0 none
      s.live = true ∧ (∃ r ∈ s.run 0, ∃ o ∈ s.op 0, ∃ c ∈ tget r.copies 0, (s.qp o.qp).isSome = true ∧ r.cellOf c.lc = some 0 ∧
        c.issued = true ∧ c.out = none ∧ c.todo = [] ∧ s.cellOnline 0 = true ∧ s.cellIssues 0 = true ∧ s.copyOpen 0 0 = false ∧ s.copyBlocked r 0 c 0 = false ∧
        s.copyBusy o (imgStream (s.runImage r) c.stream) (s.copyRows r c) = false ∧ (imgStream (s.runImage r) c.stream).path = path) := by
  intro path h
  refine ⟨?_, run0 true [(0, lcell 0)] [(0, ⟨0, 0, 0, true, [], none, none, []⟩)], rfl, opOf runDesc, rfl, ⟨0, 0, 0, true, [], none, none, []⟩, rfl, ?_⟩
  · rfl
  · revert path; decide +kernel

theorem witness_PlannedCopiesMoveBytes_2 :
    ∀ path ∈ [0, 2, 6], let s := copying path 0 none
      (s.copyInData (opOf runDesc) (imgStream (reelOf 4 path 0).image 0) ⟨0, 0, 0, true, [], none, none, []⟩
        (s.copyRows (run0 true [(0, lcell 0)] []) ⟨0, 0, 0, true, [], none, none, []⟩) noIo).1.toOption = some (List.replicate 64 0#8) := by
  decide +kernel

/-- One line at the pool's first address, and one outside every extent. -/
def lineOut (a : Nat) : Nat × List Byte := (fga0 + a, List.replicate 64 7#8)

theorem witness_PlannedCopiesMoveBytes_3 :
    (∀ a ∈ [0, 2 ^ 26], let s := copying 1 2 (some [lineOut a])
      s.live = true ∧ (s.run 0).isSome = true ∧ s.op 0 = some (opOf runDesc) ∧ s.cellOnline 0 = true ∧ s.cellIssues 0 = true ∧
      s.opWriteBusy (opOf runDesc) (BitVec.ofNat 64 (lineOut a).1) 64 = false) ∧
    ((copying 1 2 (some [lineOut 0])).quiet.commitRuns (opOf runDesc) noIo [lineOut 0]).1 = none ∧
    ((copying 1 2 (some [lineOut (2 ^ 26)])).quiet.commitRuns (opOf runDesc) noIo [lineOut (2 ^ 26)]).1 = some stNone := by decide +kernel

/-- An atomic add of 1 to the 32-bit element at offset 60 of the pool's first line. -/
def addReq : AtomReq := ⟨BitVec.ofNat 64 fga0, .add, .int32, [⟨60#6, 1#64, 0#64⟩]⟩

def atomCell (reqs : List AtomReq) (out : Nat) (units : SMap (List AtomEntry)) : State :=
  let s := withRun 6 0 0 (run0 true [(0, { lcell 0 with running := true })] []) [(0, busyCell 6 (tile0 1 reqs out))]
  { s with fab := { s.fab with units := units } }

/-- An ATOMIC packet from endpoint 3, accepted by slice 0, and a line whose near atomics stand at the unit. -/
def atomPkt : Packet := { pktBlank 0x06#8 with dst := 1#14, src := 3#14, addr := BitVec.ofNat 64 fga0 }
def atomCReq : CReq := ⟨3#14, atomPkt, 0, 0, 0, some false, none⟩
def nearTxn : Txn :=
  { kind := .request atomCReq, phase := .nearRun, snoops := [], data := none, kept := none, late := false, run := [atomCReq] }
def nearLine (units : SMap (List AtomEntry)) : State :=
  { dev .coherent with coh := { Coh.reset with txns := [(0, nearTxn)] }, fab := { Fab.reset with units := units } }

theorem witness_AtomicUnitsServeRequests_1 :
    ((atomCell [addReq] 0 []).live = true ∧ ((atomCell [addReq] 0 []).cell 0).tile = some (tile0 1 [addReq] 0) ∧ blockOf 0 = 0 ∧
      (atomCell [addReq] 0 []).cellOnline 0 = true ∧ (atomCell [addReq] 0 []).blockIssues 0 = true ∧ atomMalformed addReq = false) ∧
    ((nearLine []).live = true ∧ (nearLine []).txn (0#34).toNat = some nearTxn ∧
      (nearTxn.run.drop ((nearLine []).atUnits 0#34)).head? = some atomCReq ∧ (nearLine []).nearBlock (0#34).toNat = some (0 : BlockId).val ∧
      (nearLine []).blockOnline 0 = true ∧ (nearLine []).blockIssues 0 = true ∧ addReq.line = (nearLine []).lineAddr (0#34).toNat) := by decide +kernel

/-- A run of requests is served. -/
def isServed : RunResult → Bool
  | .served _ _ => true
  | _ => false

theorem witness_AtomicUnitsServeRequests_2 :
    (let s := atomCell [] 1 [(0, [⟨.cell 0, addReq, 0⟩])]
     let r := s.quiet.cellRunReady 0 (accAtomic 3#14 (s.opAuth (opOf runDesc))) addReq.line
     s.live = true ∧ s.atomQueue 0 = [⟨.cell 0, addReq, 0⟩] ∧ s.blockOnline 0 = true ∧ s.blockIssues 0 = true ∧
      (s.cell 0).tile = some (tile0 1 [] 1) ∧ s.op 0 = some (opOf runDesc) ∧ r.1 = true ∧
      isServed (r.2.runOnLine (accAtomic 3#14 (s.opAuth (opOf runDesc))) addReq.line [addReq]).1 = true ∧
      (r.2.runOnLine (accAtomic 3#14 (s.opAuth (opOf runDesc))) addReq.line [addReq]).2.dbg.fatal = false) ∧
    (let s := nearLine [(0, [⟨.home 0#34, addReq, 0⟩])]
     s.live = true ∧ s.atomQueue 0 = [⟨.home 0#34, addReq, 0⟩] ∧ s.blockOnline 0 = true ∧ s.blockIssues 0 = true ∧ s.txn 0 = some nearTxn ∧
      s.nearHeld { accAtomic 3#14 [] with passed := true, vslot := none } atomPkt.addr = false ∧
      isServed (s.quiet.runOnLine { accAtomic 3#14 [] with passed := true, vslot := none } atomPkt.addr [addReq]).1 = true) := by decide +kernel

theorem witness_AtomicsReturnOldValues : (60#6).toNat % atomSize .int32 = 0 ∧ (62#6).toNat % atomSize .bf16 = 0 := by decide

/-! ### Built-in operations -/

/-- The device with an operation of descriptor d and an address list, bound to block 0; no tile is checked. -/
def pooled (d : Desc) (l : List Nat) : State :=
  let s := admitted (dev .plain) d
  { s with que := { s.que with ops := [(0, { opOf d with list := l, block := some 0 })] }, ras := { s.ras with active := 0#3 } }

/-- The hypotheses of a refused descriptor: it is next, and fails a check. -/
def refusedMet (p : PoolSpec) (d : Desc) (st : Status) : Bool :=
  let s := next (dev .plain) d
  let x := qpair [(0, held0 d)]
  s.live && s.nextIs 0 0 p.opcode == some (x, held0 d) && tget x.held 0 == some (held0 d) && !x.drops && p.checks s.quiet x d == some st

/-- The hypotheses of an operation that may go on: it is admitted, its block is online, its host pages are translated. -/
def goingMet (p : PoolSpec) (d : Desc) (l : List Nat) : Bool :=
  let s := pooled d l
  s.live && s.poolOp 0 0 p.opcode == some 0 && (s.op 0).any (fun o => o.ending.isNone) && s.blockOnline 0 &&
    s.blockIssues 0 && (s.quiet.translateOp 0 0 (p.host d l)).1 && ((s.quiet.translateOp 0 0 (p.host d l)).2.op 0).isSome &&
    ((s.quiet.translateOp 0 0 (p.host d l)).2.drawChecks 0 ((s.quiet.translateOp 0 0 (p.host d l)).2.poolTiles 0)).isSome

/-- The same of one that is to end. -/
def endingMet (p : PoolSpec) (d : Desc) : Bool :=
  let s0 := pooled d []
  let s : State := { s0 with que := { s0.que with ops := [(0, { opOf d with ending := some stAborted })] } }
  s.live && s.poolOp 0 0 p.opcode == some 0 && (s.op 0).any (fun o => o.ending == some stAborted)

/-- Its effect succeeds, its destination is not busy, and its writes are stored. -/
def servedMet (d : Desc) (l : List Nat) (eff : State → OpRec → OutsideIo → Except PStop PoolRes × State) : Bool :=
  let s := pooled d l
  let o := { opOf d with list := l }
  match eff s.quiet o noIo with
  | (.ok r, s2) => r.writes.all (fun w => !s2.storeBusy o w) && (s2.storeAll 0 o noIo r.writes).1.isNone
  | _ => false

/-- Its effect is refused. -/
def turnedAway (d : Desc) (l : List Nat) (eff : State → OpRec → OutsideIo → Except PStop PoolRes × State) (st : Status) : Bool :=
  match (eff (pooled d l).quiet { opOf d with list := l } noIo).1 with
  | .error (.refused x) => x == st
  | _ => false

def fillDesc (n : Nat) : Desc := mkDesc 0x01 [(16, fga0), (24, n), (32, 0x1122334455667788)]
def copyDesc (opc b n : Nat) : Desc := mkDesc opc [(16, fga0), (24, n), (32, fga0 + b)]
def redDesc (fmt : Nat) : Desc := mkDesc 0x10 [(16, fga0), (24, fga0 + 1024), (32, 2), (48, 2), (49, fmt)]
def optDesc (par n : Nat) : Desc := mkDesc 0x20 [(16, fga0), (24, fga0 + 512), (40, fga0 + par), (48, n)]
def atDesc (o hkv : Nat) : Desc :=
  mkDesc 0x21 [(16, fga0), (24, fga0 + o), (32, fga0 + 2048), (40, fga0 + 4096), (48, 1), (56, 4), (57, 1), (58, hkv),
    (60, 0x01)]
def bagDesc (o dim : Nat) : Desc :=
  mkDesc 0x22 [(16, fga0), (24, fga0 + 64), (32, fga0 + o), (40, fga0 + 4096), (48, 1), (52, 1), (56, dim)]
def agDesc (n flags : Nat) : Desc := mkDesc 0x12 [(16, fga0 + 1024), (24, fga0 + 4096), (32, n), (40, 1), (44, flags)]
def bcDesc (n : Nat) : Desc := mkDesc 0x13 [(16, fga0), (24, fga0 + 4096), (32, n)]

theorem witness_BuiltInOperationsRun_1 :
    refusedMet fillSpec (fillDesc 63) stBadLength ∧ refusedMet copySpec (copyDesc 0x02 63 128) stAlign ∧
    refusedMet compareSpec (copyDesc 0x03 64 0) stBadLength ∧ refusedMet reduceSpec (redDesc 0x5C) stBadFormat ∧
    refusedMet optSpec (optDesc 1024 33) stAlign ∧ refusedMet attendSpec (atDesc 1 1) stAlign ∧ refusedMet bagSpec (bagDesc 0 0) stBadLength ∧
    refusedMet allGatherSpec (agDesc 63 1) stBadLength ∧ agToPool (agDesc 63 1) := by decide +kernel

theorem witness_BuiltInOperationsRun_2 :
    endingMet fillSpec (fillDesc 64) ∧ endingMet copySpec (copyDesc 0x02 64 64) ∧ endingMet compareSpec (copyDesc 0x03 64 64) ∧
    endingMet reduceSpec (redDesc 0) ∧ endingMet optSpec (optDesc 1024 32) ∧ endingMet attendSpec (atDesc 0 1) ∧
    endingMet bagSpec (bagDesc 128 16) := by decide +kernel

theorem witness_BuiltInOperationsRun_3 :
    goingMet fillSpec (fillDesc 64) [] ∧ servedMet (fillDesc 64) [] fillEffect ∧
    goingMet copySpec (copyDesc 0x02 64 64) [] ∧ servedMet (copyDesc 0x02 64 64) [] copyEffect ∧
    goingMet compareSpec (copyDesc 0x03 64 64) [] ∧ servedMet (copyDesc 0x03 64 64) [] compareEffect ∧
    goingMet reduceSpec (redDesc 0) [fga0 + 64, fga0 + 128] ∧ servedMet (redDesc 0) [fga0 + 64, fga0 + 128] reduceEffect ∧
    goingMet optSpec (optDesc 1024 32) [] ∧ servedMet (optDesc 1024 32) [] optEffect ∧
    goingMet attendSpec (atDesc 0 1) [] ∧ servedMet (atDesc 0 1) [] attendEffect ∧
    goingMet bagSpec (bagDesc 128 16) [] ∧ servedMet (bagDesc 128 16) [] bagEffect ∧
    goingMet allGatherSpec (agDesc 64 1) [fga0] ∧ servedMet (agDesc 64 1) [fga0] allGatherEffect := by decide +kernel

/-- A source outside every extent is refused (a FILL has none). -/
theorem witness_BuiltInOperationsRun_4 :
    turnedAway (copyDesc 0x02 (2 ^ 26) 64) [] copyEffect stNone ∧ turnedAway (copyDesc 0x03 (2 ^ 26) 64) [] compareEffect stNone ∧
    turnedAway (redDesc 0) [fga0 + 2 ^ 26, fga0] reduceEffect stNone ∧ turnedAway (optDesc (2 ^ 26) 32) [] optEffect stNone ∧
    turnedAway (atDesc (2 ^ 26) 1) [] attendEffect stNone ∧ turnedAway (bagDesc (2 ^ 26) 16) [] bagEffect stNone := by decide +kernel

theorem witness_MulticastOperationsSend :
    refusedMet bcastSpec (bcDesc 63) stBadLength ∧ refusedMet allGatherSpec (agDesc 63 0) stBadLength ∧ agToPool (agDesc 63 0) = false ∧
    goingMet bcastSpec (bcDesc 64) [] ∧ (bcastEffect (pooled (bcDesc 64) []).quiet (opOf (bcDesc 64)) noIo).1.toOption.isSome ∧
    goingMet allGatherSpec (agDesc 64 0) [fga0] ∧
    ((pooled (agDesc 64 0) [fga0]).quiet.shards { opOf (agDesc 64 0) with list := [fga0] } noIo).1.toOption.isSome ∧
    tget (pooled (bcDesc 64) []).fab.sends 0 = none := by decide +kernel

theorem witness_EffectsOfMovingOperations :
    ((pooled (copyDesc 0x02 64 64) []).fetch (opOf (copyDesc 0x02 64 64)) (moveB (copyDesc 0x02 64 64)) 64 noIo).1.toOption =
      some (List.replicate 64 0#8) ∧
    ((pooled (copyDesc 0x03 64 64) []).fetchAll (opOf (copyDesc 0x03 64 64)) noIo [(moveA (copyDesc 0x03 64 64), 64),
      (moveB (copyDesc 0x03 64 64), 64)]).1.toOption = some [List.replicate 64 0#8, List.replicate 64 0#8] ∧
    ([0#8, 1#8] : List Byte)[1]? ≠ [0#8, 2#8][1]? ∧ (∀ j, j < 1 → ([0#8, 1#8] : List Byte)[j]? = [0#8, 2#8][j]?) := by decide +kernel

/-- Two peers, chunks of 1,024 FP32 elements, a window of two; staging at 4 KiB. -/
def rsD (align : Nat) : Desc :=
  mkDesc 0x11 [(16, fga0 + align), (24, fga0 + 65536), (32, 2048 * 4), (48, 1024), (56, 2), (58, 2)]

def rsRun (r : RsOp) (landed : List (W64 × Nat)) : State :=
  let s := admitted (dev .plain) (rsD 0)
  { s with fab := { s.fab with rs := [(0, r)] }, rtr := { s.rtr with landed := landed } }

theorem witness_ReduceScatterRuns_1 :
    (∀ a ∈ [0, 1], let s := next (dev .plain) (rsD a)
      s.live = true ∧ s.nextIs 0 0 0x11#8 = some (qpair [(0, held0 (rsD a))], held0 (rsD a)) ∧ (qpair []).drops = false) ∧
    (next (dev .plain) (rsD 1)).rsCheck (rsD 1) = some stAlign ∧ (next (dev .plain) (rsD 0)).rsCheck (rsD 0) = none ∧
    (next (dev .plain) (rsD 0)).maskOnline (rsMask (rsD 0)) = true ∧
    (waitingRs (rsD 0)).live = true ∧ (waitingRs (rsD 0)).run 0 = none ∧ (waitingRs (rsD 0)).rs 0 = some rsOp0 ∧
    (waitingRs (rsD 0)).admitting = true ∧ (waitingRs (rsD 0)).heldBack 0 0 = false ∧ (waitingRs (rsD 0)).tenantGone 5#10 = false ∧
    (waitingRs (rsD 0)).rsBinding 0 (rsD 0) [0, 128] = true := by decide +kernel

def rsBound : RsOp := { rsOp0 with cells := [0, 128], regions := [0, 1], bound := true }
def rsArm : RsOp := { rsBound with armed := true }
def slotAt (k : Nat) : W64 := BitVec.ofNat 64 (fga0 + 65536 + 4096 + 4096 * k)

theorem witness_ReduceScatterRuns_2 :
    (let s := rsRun rsBound []
     s.live = true ∧ s.rs 0 = some rsBound ∧ s.op 0 = some (opOf (rsD 0)) ∧ (opOf (rsD 0)).ending = none ∧
      s.opWriteBusy (opOf (rsD 0)) (BitVec.ofNat 64 (descField (rsD 0) 24 8)) 64 = false ∧
      (s.quiet.writeProgress (opOf (rsD 0)) 1 rsBound).1 = none ∧ (s.quiet.writeProgress (opOf (rsD 0)) 1 rsBound).2.dbg.fatal = false) ∧
    (∀ k ∈ [0, 3], (rsArea (rsD 0)).1 ≤ (slotAt k).toNat ∧ (slotAt k).toNat < (rsArea (rsD 0)).1 + (rsArea (rsD 0)).2 ∧
      4096 ≤ (slotAt k).toNat - (rsArea (rsD 0)).1 ∧ (slotAt k).toNat - (rsArea (rsD 0)).1 - 4096 = k * rsSlotBytes (rsD 0)) ∧
    0 < rsSlotBytes (rsD 0) ∧ (4096 : Nat) = rsSlotBytes (rsD 0) ∧ (64 : Nat) ≠ rsSlotBytes (rsD 0) ∧
    rsChunkAt (rsD 0) rsArm (1 / rsPeers (rsD 0)) < rsChunks (rsD 0) ∧ 1 % rsPeers (rsD 0) ∉ mget [] rsArm.order 0 ∧
    (1 % rsPeers (rsD 0) ∈ mget [] ({ rsArm with order := [(0, [1])] } : RsOp).order 0) := by decide +kernel

theorem witness_ReduceScatterRuns_3 :
    (let s := rsRun rsArm [(slotAt 1, 4096)]
     s.live = true ∧ s.rs 0 = some rsArm ∧ (slotAt 1, 4096) ∈ s.rtr.landed ∧ s.regionIssues (rsRegionAt rsArm 0) = true ∧ s.quiet.opReadBusy (opOf (rsD 0)) (slotAt 1) 4096 = false ∧
      (match s.quiet.opRead (opOf (rsD 0)) (slotAt 1) 4096 noIo with
       | (.ok (_, bad), s1) => !bad.any id && !s1.dbg.fatal
       | _ => false) = true) := by decide +kernel

/-- One element a chunk, all of chunk 0's contributions there. -/
def rsFull : RsOp := { rsArm with order := [(0, [1, 0])], acc := [0] }

theorem witness_ReduceScatterRuns_4 :
    (let s0 := rsRun rsFull []
     let s : State := { s0 with ras := { s0.ras with active := 0#3 } }
     let c := rsCfg (rsD 0)
     let acc := s.rsAcc (rsD 0) rsFull 0
     let outs := ((List.range acc.length).zip acc).map (fun p => c.out p.1 p.2)
     let w : Place × List Byte := (⟨false, descField (rsD 0) 16 8⟩, outs.flatMap (fun e => natBytes (elemSize c.fmtOut) e.1))
     s.live = true ∧ s.rs 0 = some rsFull ∧ (mget [] rsFull.order 0).length = rsPeers (rsD 0) ∧ 0 ∈ rsFull.acc ∧
      s.cellIssues (rsFull.cells.headD 0) = true ∧ (s.drawChecks 0 (rsTiles rsFull 0)).isSome = true ∧
      s.storeBusy (opOf (rsD 0)) w = false ∧ (s.quiet.store 0 (opOf (rsD 0)) noIo w).1 = none ∧
      (s.quiet.store 0 (opOf (rsD 0)) noIo w).2.opOpen 0 = false ∧ (s.quiet.store 0 (opOf (rsD 0)) noIo w).2.dbg.fatal = false ∧
      (rsAdvance rsFull 0).reduced ≠ rsChunks (rsD 0)) ∧
    (let s := rsRun { rsArm with ticks := 4096 } []
     s.live = true ∧ s.run 0 = none ∧ s.rs 0 = some { rsArm with ticks := 4096 } ∧ (opOf (rsD 0)).due = none ∧
      (opOf (rsD 0)).opcode = 0x11#8 ∧ rsTimeoutTicks (rsD 0) ≤ 4096) := by decide +kernel

/-! ### Result checking, verdicts, reports, counters -/

/-- FRACTION 2 written and not in force, block 47 bound to a run or not. -/
def pendingCheck (bound : Bool) : State :=
  let s := if bound then withRun 4 1 2 (run0 true [(0, lcell 752)] []) [] else dev .plain
  { s with ras := { Ras.reset with fraction := 2#3, pendingFraction := true, fractionAge := 1 } }

/-- A device whose first check block is offline. -/
def lostBlock : State := { dev .plain with health := [(63, { BlkHealth.ok with blockOffline := true })] }

theorem witness_CheckSettingAndBlocks :
    ((4#3).toNat ≤ 4 ∧ 4 < (5#3).toNat ∧ (dev .plain).live = true) ∧
    ((pendingCheck false).live = true ∧ (pendingCheck false).ras.pendingFraction = true ∧ Ras.reset.fractionAge = 0 ∧ 0 < (pendingCheck false).ras.fractionAge ∧
      ∀ b ∈ (checkOrder.filter (pendingCheck false).blockOnline).take (checkCount 2#3), (pendingCheck false).boundBlock b = false) ∧
    ((pendingCheck true).ras.pendingFraction = true ∧
      47 ∈ (checkOrder.filter (pendingCheck true).blockOnline).take (checkCount (pendingCheck true).ras.fraction) ∧
      47 ∉ (pendingCheck true).ras.checkBlocks ∧ (pendingCheck true).boundBlock 47 = true) ∧
    (lostBlock.live = true ∧ lostBlock.ras.checkBlocks.find? (fun b => !lostBlock.blockOnline b && !lostBlock.leftNow b) = some 63 ∧
      checkOrder.find? (fun b => lostBlock.blockOnline b && !lostBlock.ras.checkBlocks.contains b) = some 47 ∧
      lostBlock.boundBlock 47 = false) := by decide +kernel

/-- Whatever signature is wanted, some fault of the cell that runs the tile again gives it. -/
theorem any_signature (s : State) (c : Check) (k : CellId) (v : BitVec 128) : ∃ flip, v = s.checkSig c k flip :=
  ⟨c.src.signature (s.cell k).scratch ^^^ v, by unfold State.checkSig; rw [← BitVec.xor_assoc, BitVec.xor_self, BitVec.zero_xor]⟩

/-- A check of cell 0's tile at cell 1008. -/
def check0 (copied : Bool) (sigO sigC : Option (BitVec 128)) (third : Option CellId) (residue : Bool) : Check :=
  { op := 0, origin := 0, tile := 0#40, src := ⟨(reelOf 4 0 0).image, 0, [(fga0, 4096)], 0#64, 0, 0, none⟩, checkCell := 1008, third := third, copied := copied, sigOrigin := sigO, sigCheck := sigC,
    originOut := residue, residue := residue }

def checking (c : Check) : State :=
  { figuring 4 with ras := { Ras.reset with checks := [(0, c)], nextCheck := 1 } }

/-- The figure that runs next is a DOT of INT8 elements. -/
def intDot : State :=
  let s := figuring 1
  s.setCell 0 { s.cell 0 with scratch := putBytes (s.cell 0).scratch 2 [0xBB#8] }

theorem witness_ChecksVote :
    (∀ third ∈ [none, some 880], let c := check0 false none none third false
      (checking c).live = true ∧ tget (checking c).ras.checks 0 = some c ∧ c.copied = false ∧ (checking c).cellIssues (c.third.getD c.checkCell) = true) ∧
    (let c := check0 true (some 5#128) none none false
     (checking c).live = true ∧ tget (checking c).ras.checks 0 = some c ∧ c.copied = true ∧ c.third = none ∧
      (checking c).cellIssues c.checkCell = true ∧ c.sigOrigin = some 5#128 ∧
      c.originOut = false ∧ (checking c).counter (ctrRas 0) < ctrMax - 1 ∧ c.sigOrigin ≠ some 6#128 ∧ (checking c).thirdFree c 880 = true) ∧
    (let c := check0 true (some 5#128) (some 6#128) (some 880) false
     (checking c).live = true ∧ c.third = some 880 ∧ (checking c).cellIssues 880 = true ∧ c.sigCheck = some 6#128 ∧ c.sigCheck ≠ some 5#128 ∧ c.sigOrigin = some 5#128 ∧
      c.originOut = false ∧ c.sigCheck ≠ some 7#128 ∧ c.sigOrigin ≠ some 7#128 ∧ c.residue = false) ∧
    ((figuring 4).live = true ∧ ((figuring 4).cell 0).tile = some (tile0 0 [] 0) ∧ (figuring 4).ras.active ≠ 0#3 ∧
      (figuring 4).run 0 = some (run0 true [(0, { lcell 0 with running := true })] []) ∧ (tile0 0 [] 0).check = none ∧
      (tile0 0 [] 0).stopped = false ∧ (tile0 0 [] 0).fig < imgFigCount ((figuring 4).runImage (run0 true [(0, { lcell 0 with running := true })] [])) ∧
      (figuring 4).checkCellFree 1008 = true ∧ blockOf 1008 ≠ blockOf 0) ∧
    ((intDot.cell 0).tile = some (tile0 0 [] 0) ∧ ((intDot.cell 0).nextFig (tile0 0 [] 0)).residue = true) := by decide +kernel

/-- A verdict that operation 0 awaits. -/
def verdict0 (tf : Option Nat) (cause : Option (VCause × Nat)) : VerdictWait :=
  { qp := 0, csn := 1#48, opcode := 0x30#8, tenant := 5#10, slot := 0#32, tf := tf, cause := cause, issued := false, cmdId := 0#16, intr := false, strict := false,
    record := none }

def judging (tf : Option Nat) (cause : Option (VCause × Nat)) (checks : SMap Check) : State :=
  let s := admitted (dev .plain) runDesc
  { s with ras := { Ras.reset with verdicts := [(0, verdict0 tf cause)], checks := checks } }

theorem witness_VerdictsAreIssuedOnce :
    (∀ tf ∈ [none, some 2, some 8], ∀ cause ∈ [none, some (.disagree, 1), some (.threeWay, 1)],
      (judging tf cause []).live = true ∧ tget (judging tf cause []).ras.verdicts 0 = some (verdict0 tf cause) ∧
      (judging tf cause []).qp 0 = some (qpair [(0, ⟨runDesc, 0, some 0, false⟩)]) ∧ (qpair [(0, ⟨runDesc, 0, some 0, false⟩)]).drops = false ∧
      (verdict0 tf cause).strict = false) ∧
    (judging (some 2) none []).ras.hold.toNat ≤ 2 ∧ (judging (some 2) none []).checksOpen 0 = false ∧
    (judging (some 8) none [(0, check0 true none none none false)]).checksOpen 0 = true ∧
    VCause.disagree ≠ .threeWay ∧ (verdict0 none none).record = none ∧ tget (dev .plain).ras.verdicts 0 = none := by decide +kernel

/-- A full report ring, and a full counter. -/
def ringFull : State :=
  { State.reset with ras := { Ras.reset with ring := List.replicate 4096 (mkReport 1 1 0 0#16 0 0) }, ctr := [(ctrTfl 0 0, ctrMax)] }

theorem witness_ReportsAndCounters :
    State.reset.ras.ring.length < 4096 ∧ 4096 ≤ ringFull.ras.ring.length ∧ ringFull.counter (ctrRas 5) + 1 < ctrMax ∧
    State.reset.awake = true ∧ 1 ≤ (1#16).toNat ∧ (200#16).toNat ≤ 200 ∧ 200 < (201#16).toNat ∧
    ringFull.counter (ctrTfl 0 1) < ctrMax ∧ ringFull.counter (ctrTfl 0 0) = ctrMax ∧ ctrMax ≤ ringFull.counter (ctrTfl 0 1) + ctrMax :=
  ⟨by decide, Nat.le_of_eq List.length_replicate.symm, by decide, by decide, by decide, by decide, by decide, by decide, by decide, by decide⟩

/-! ### Memory controllers -/

/-- The device with pseudo-channel 0 as given, where granule 0's first units lie. -/
def chan0 (c : Chan) : State := { dev .plain with mem := { Mem.reset with chans := [(0, c)] } }

def memRead (k : MemKind) (issued : Bool) (poison : Bool) : MemEntry :=
  { seq := 1, kind := k, addr := 0, bank := 0, row := 0, issued := issued, data := List.replicate 64 0#8, poison := [poison], rewritten := [], renewed := [] }

def merge0 (closed : Bool) : MergeEntry :=
  { seq := 0, addr := 0, bank := 0, row := 0, enables := 1#64, data := 0#512, closed := closed, asked := true, ready := false }

def fullChan : Chan :=
  { Chan.idle with reads := List.replicate 64 (memRead .read false false), writes := List.replicate 64 (memRead .write false false) }

theorem witness_AddressDecodeIsExact : (15615 : Nat) < granCountAll := by decide

theorem witness_ControllersAcceptRequests :
    (let s := dev .plain
     let c := s.chan (dramLoc 0 0).ch
     (0 : Nat) < granCountAll ∧ s.live = true ∧ s.memTrained = true ∧ s.chanFailed (dramLoc 0 0).ch = false ∧ c.readCount < 64 ∧
      (dramLoc 0 0).ch = 0 ∧ alignDown (dramLoc 0 0).addr 64 = 0 ∧ s.fromSlice 0 0#26 .read = true ∧
      s.fromSlice 0 0#26 (.write allEnables 0#512) = true ∧ c.place 0 allEnables = .queue ∧ c.place 0 1#64 = .entry ∧
      s.fromSlice 5 0#26 .read = false ∧ s.fromSlice 0 0#26 (.write 1#64 1#512) = false) ∧
    (64 ≤ ((chan0 fullChan).chan 0).readCount ∧ ((chan0 fullChan).chan 0).place 0 allEnables = .held) ∧
    (let s := chan0 { Chan.idle with merges := [merge0 false] }
     s.fromSlice 0 0#26 (.write 1#64 0#512) = true ∧ (s.chan 0).place 0 1#64 = .join 0) ∧
    ((chan0 { Chan.idle with merges := [merge0 true] }).chan 0).place 0 1#64 = .held := by
  decide +kernel

theorem witness_ReadsReturn :
    (let s := chan0 { Chan.idle with reads := [memRead .read true false] }
     s.live = true ∧ (s.chan 0).reads.find? (fun e => e.seq == 1 && e.issued && e.kind != .mergeRead) = some (memRead .read true false) ∧
      s.chanFailed 0 = false) ∧
    (memRead .read true false).data.length ≤ 256 ∧ (∀ b ∈ (memRead .read true false).poison, b = false) ∧
    (0 : Fin 32).val / 8 < (memRead .read true false).data.length / 64 ∧
    (∀ bad, let s := chan0 { Chan.idle with reads := [memRead .mergeRead true bad], merges := [merge0 false] }
      s.live = true ∧ (s.chan 0).reads.find? (fun e => e.seq == 1 && e.issued && e.kind == .mergeRead) = some (memRead .mergeRead true bad) ∧
      (s.chan 0).merges.find? (fun m => m.addr == (memRead .mergeRead true bad).addr && m.asked && !m.ready) = some (merge0 false) ∧
      badLine (classifyLine 0 (memRead .mergeRead true bad) [] 0) = bad) := by decide +kernel

def stack0 (pc : Nat) (once : Bool) : State :=
  { dev .plain with mem := { Mem.reset with deepStacks := [(0, { Stack.reset with retraining := true, pc := pc, failedOnce := once })] } }

theorem witness_RefreshTemperatureTraining :
    (let s := chan0 { Chan.idle with reads := [memRead .read false false] }
     s.live = true ∧ s.memTrained = true ∧ s.chanFailed 0 = false ∧ s.chanRetraining 0 = false ∧ 0 < chanBanks 0 ∧
      0 ∈ (ArbIn.mk [0] [] [] [] [] []).asserted ∧ (s.bankCand 0 [] 0).any (fun c => s.candIssues 0 c.act) = true) ∧
    (let s := chan0 Chan.idle
     s.live = true ∧ -refLimit 0 < s.refOwed 0 ∧ (s.chan 0).bankIdle (s.chan 0).refBank = true) ∧
    ((chan0 { Chan.idle with neighbors := [(0, 5)] }).chan 0).neighbors = [(0, 5)] ∧
    ((dev .plain).mem.thrOn.toInt ≤ (90#8).toInt ∧ (90#8).toInt < 100 ∧ (88#8).toInt ≤ (dev .plain).mem.thrOff.toInt ∧
      (88#8).toInt < (dev .plain).mem.thrOn.toInt ∧ (dev .plain).mem.thrOff.toInt < (89#8).toInt ∧ (89#8).toInt < (dev .plain).mem.thrOn.toInt ∧
      95 ≤ (95#8).toInt ∧ 100 ≤ (100#8).toInt) ∧
    ((stack0 30 false).live = true ∧ ((stack0 30 false).stack (0 : StackId).val).retraining = true ∧ ((stack0 30 false).stack 0).pc < 31 ∧
      31 ≤ ((stack0 31 false).stack 0).pc ∧ ((stack0 31 false).stack 0).again = false ∧ ((stack0 0 false).stack 0).failedOnce = false ∧
      ((stack0 0 true).stack 0).failedOnce = true ∧ ((stack0 0 true).stack 0).failed = false) := by decide +kernel

def scrubDesc (len : Nat) : Desc := mkDesc 0x40 [(16, fga0), (24, len), (32, fga0 + 8192)]

def scrub0 (stopped : Option Status) : ScrubOp :=
  { ext := 0#13, ep := 3#14, addr := 0, length := 4096, resultAddr := BitVec.ofNat 64 (fga0 + 8192), resultHost := false, shelf := false,
    ticks := 1, startTick := 0#64, given := (List.range 16).map (fun i => (i, 1)), outstanding := 0, wordsCorrected := 0, wordsRead := 512, wordsUncorrectable := 0,
    linesPoisoned := 0, linesAlready := 0, rows := [], stopped := stopped }

def scrubbing (sc : ScrubOp) : State :=
  let s := admitted (dev .plain) (scrubDesc 4096)
  { s with mem := { Mem.reset with scrubs := [(0, sc)] } }

theorem witness_ScrubsStartAndEnd :
    (∀ len ∈ [0, 4096], (next (dev .plain) (scrubDesc len)).live = true ∧
      (next (dev .plain) (scrubDesc len)).nextIs 0 0 0x40#8 = some (qpair [(0, held0 (scrubDesc len))], held0 (scrubDesc len))) ∧
    (next (dev .plain) (scrubDesc 0)).scrubChecks (qpair [(0, held0 (scrubDesc 0))]) (scrubDesc 0) = .error stBadLength ∧
    (next (dev .plain) (scrubDesc 4096)).scrubChecks (qpair [(0, held0 (scrubDesc 4096))]) (scrubDesc 4096) =
      .ok (0, ext5 .plain .granted none) ∧
    (∀ st ∈ [none, some stLost], let sc := scrub0 st
      (scrubbing sc).live = true ∧ tget (scrubbing sc).mem.scrubs 0 = some sc ∧ (scrubbing sc).op 0 = some (opOf (scrubDesc 4096)) ∧
      sc.outstanding = 0 ∧ ((scrubbing sc).quiet.writeResult 0 (opOf (scrubDesc 4096)) sc.resultHost sc.resultAddr (scrubSummary sc)).1 =
        some none) ∧
    (scrubbing (scrub0 none)).scrubLeft (scrub0 none) = [] := by decide +kernel

/-! ### Extents and snapshots -/

def grantOf (kind place : BitVec 8) (n : Nat) (base : BitVec 16) : GrantArgs :=
  { tenant := 5#10, kind := kind, place := place, granules := BitVec.ofNat 32 n, reserve := if kind = 2#8 then 1#32 else 0#32, discard := false,
    baseSlot := base, notifyEp := 0x3FFF#14, notifyAddr := 0#64 }

/-- Three free Deep granules; and extents as given. -/
def freeThree : State :=
  { dev .plain with ext := ⟨[(0, ext5 .plain .granted none)], [(0, ⟨.granted, false⟩), (2, ⟨.free, false⟩), (3, ⟨.free, false⟩), (4, ⟨.free, false⟩)], []⟩ }
def withExtents (l : SMap Extent) : State := { dev .plain with ext := ⟨l, [], []⟩ }

theorem witness_ExtentCommandsAnswer_1 :
    (grantKind (grantOf 3#8 0#8 1 0#16).kind = none ∧ (grantOf 0#8 0#8 0 0#16).granules.toNat = 0 ∧ 2 < (3#8).toNat ∧
      16384 < (grantOf 0#8 0#8 2 0x3FFF#16).baseSlot.toNat + 2) ∧
    (∀ k ∈ [0#8, 1#8, 2#8], let a := grantOf k 2#8 1 1#16
      ∃ kind, grantKind a.kind = some kind ∧ a.granules.toNat ≠ 0 ∧ (kind ≠ .snapshot → a.reserve.toNat = 0 ∧ a.discard = false) ∧
        (kind = .snapshot → a.reserve.toNat ≠ 0) ∧ a.place.toNat ≤ 2 ∧ (a.baseSlot != 0xFFFF#16) = true ∧ a.baseSlot.toNat + 1 ≤ 16384) ∧
    (freeThree.live = true ∧ freeThree.ext.extents.length < 8192 ∧ freeThree.freeIn false = 3 ∧ freeThree.freeIn true < 1 ∧
      freeThree.slotsFree 0 1 = false ∧ freeThree.slotsFree 1 2 = true ∧ freeThree.freeRun 2 = some 1) := by
  refine ⟨by decide, ?_, by decide⟩
  intro k h
  simp only [List.mem_cons, List.not_mem_nil, or_false] at h
  obtain rfl | rfl | rfl := h
  · exact ⟨.plain, by decide⟩
  · exact ⟨.coherent, by decide⟩
  · exact ⟨.snapshot, by decide⟩

theorem witness_ExtentCommandsAnswer_2 (x : Nat × Extent) : 8192 ≤ (withExtents (List.replicate 8192 x)).ext.extents.length :=
  Nat.le_of_eq (List.length_replicate (n := 8192) (a := x)).symm

/-- Extent 0 in a state of its own, and extent 1 with permission entries of its own. -/
def extIn (st : GranState) (changes : List PendingChange) : State :=
  { dev .plain with ext := ⟨[(0, { ext5 .plain st none with changes := changes })], [], []⟩ }
def withRights (l : List W32) : State := withExtents [(0, ext5 .plain .granted none), (1, { ext5 .plain .granted none with rights := l })]

theorem witness_ExtentCommandsAnswer_3 :
    ((dev .plain).live = true ∧ (dev .plain).extent (1#13).toNat = none ∧
      ∀ st ∈ [GranState.granted, .draining, .scrubbing, .sealed], (extIn st []).extent (0#13).toNat = some (ext5 .plain st none)) ∧
    (64 < (List.replicate 65 ep3All).length ∧ [ep3All].any badRight = false ∧ [0x80000000#32].any badRight = true ∧
      (dev .plain).rightsUsed 0 + 1 ≤ 131072) ∧
    ((extIn .granted [⟨.revoke, [5]⟩]).extent 0).any (fun x => x.changes.any (fun c => c.change == .revoke)) = true ∧
    ((extIn .granted [⟨.seal, [5]⟩]).extent 0).any (fun x => x.state == .granted && x.changes.any (fun c => c.change == .seal)) = true ∧
    ((extIn .granted []).extent 0).any (fun x => x.changes.any (fun c => c.change == .seal)) = false ∧
    ((extIn .sealed []).extent 0).any (fun x => x.changes.any (fun c => c.change == .revoke)) = false := by decide +kernel

theorem witness_ExtentCommandsAnswer_4 (l : List W32) (h : l.length = 131072) : 131072 < (withRights l).rightsUsed 0 + [ep3All].length := by
  have e : (withRights l).rightsUsed 0 = l.length + 0 := rfl
  rw [e, h]; decide

/-- The extent check's steps, one after another, at the last byte of the extent. -/
def seen (v : SliceView) (lost : Bool) : State :=
  { dev .plain with ext := ⟨[(0, { ext5 .plain .granted none with lost := lost, views := (List.range 6).map (fun i => (i, v)) })], [], []⟩ }

theorem witness_ExtentsChangeDrainAndFill_1 :
    (let a : W64 := BitVec.ofNat 64 (fga0 + 2 ^ 26 - 1)
     fgaNode a = (dev .plain).rtr.nodeId ∧ fgaV a = false ∧ a.extractLsb' 54 9 = 0#9 ∧
      (dev .plain).slotExtent (fgaPpa a / granBytes) = some (0, ext5 .plain .granted none, 0) ∧ (accRead 3#14 []).passed = false ∧ (accRead 3#14 []).loader = none ∧
      (dev .plain).slotExtent 1 = none ∧ fgaNode 0#64 ≠ (dev .plain).rtr.nodeId ∧ (BitVec.ofNat 64 (fga0 + 2 ^ 54)).extractLsb' 54 9 ≠ 0#9) ∧
    (∀ e ∈ (seen ⟨[ep3All], true, false⟩ false).extent 0, (extView e 3).revoked = true) ∧
    (∀ e ∈ (seen ⟨[ep3All], false, false⟩ true).extent 0, (extView e 3).revoked = false ∧ e.lost = true) ∧
    (∀ e ∈ (seen ⟨[ep3All], false, false⟩ false).extent 0, (extView e 3).revoked = false ∧ e.lost = false ∧
      (e.baseSlot + e.grans.length) * granBytes < 2 ^ 26 + 1 ∧ 2 ^ 26 ≤ (e.baseSlot + e.grans.length) * granBytes ∧ e.kind ≠ .coherent ∧
      e.kind ≠ .snapshot ∧ rightsOf (extView e 3).rights 3#14 = (true, true, true) ∧ rightsOf (extView e 3).rights 4#14 = (false, false, false) ∧
      e.snap = none) ∧
    (∀ e ∈ (seen ⟨[ep3All], false, true⟩ false).extent 0, (extView e 3).sealed = true ∧ e.tenant ∉ (accRead 3#14 []).auth ∧
      e.tenant ∈ (accRead 3#14 [5#10]).auth ∧ e.lost = false ∧ (extView e 3).revoked = false) ∧
    ({ accRead 1#14 [] with loader := some 6#10 } : Access).loader = some 6#10 ∧ (ext5 .plain .granted none).tenant ≠ 6#10 := by decide +kernel

/-- The versions of a snapshot extent of one granule as granted. -/
def snap1 : Snap := Snap.fresh 1

/-- A snapshot extent as granted, with publications, waits, opens, copies. -/
def snapDev (f : Snap → Snap) : State :=
  { dev .plain with ext := ⟨[(0, ext5 .snapshot .granted (some (f snap1)))], [], [(7, ⟨0#13, 0, 0#5, 3#14⟩)]⟩ }

theorem witness_ExtentsChangeDrainAndFill_2 :
    (∀ left ∈ [[(4 : Slice)], [5], [4, 5]], ∀ c ∈ [ExtChange.revoke, .seal],
      (extIn .granted [⟨c, left⟩]).live = true ∧
      (extIn .granted [⟨c, left⟩]).extent (0#13).toNat = some { ext5 .plain .granted none with changes := [⟨c, left⟩] }) ∧
    ((5 : Slice) ∉ [(4 : Slice)] ∧ (5 : Slice) ∈ [(4 : Slice), 5] ∧ [(4 : Slice), 5].erase 5 ≠ []) ∧
    ((ext5 .plain .granted none).kind ≠ .coherent ∧ (ext5 .plain .granted none).notifyEp = 0x3FFF#14) ∧
    (let s := snapDev (fun sn => { sn with pubs := [⟨0, some (2, false), [0]⟩] })
     s.live = true ∧ ∃ x ∈ s.extent 0, x.changes = [] ∧ ∃ sn ∈ x.snap, sn.pubs = [⟨0, some (2, false), [0]⟩]) ∧
    (5 : Slice) ∉ [(0 : Slice)] :=
  ⟨by decide, by decide, by decide, ⟨by decide, _, rfl, rfl, _, rfl, rfl⟩, by decide⟩

/-- An extent whose fill has been admitted. -/
def filling : State := withExtents [(0, { ext5 .plain .scrubbing none with fill := true })]

theorem witness_ExtentsChangeDrainAndFill_3 :
    ((extIn .draining []).drained (ext5 .plain .draining none) = true ∧ (extIn .granted []).drained (ext5 .plain .granted none) = false) ∧
    ((extIn .scrubbing []).extent (0#13).toNat = some (ext5 .plain .scrubbing none) ∧ (ext5 .plain .scrubbing none).fill = false ∧
      ((filling.extent 0).any (fun x => x.state == .scrubbing && x.fill)) = true ∧ Memory.wf filling = true) ∧
    (let s : State := { State.reset with plt := { Plt.reset with phase := .fill } }
     s.live = true ∧ s.plt.phase = .fill ∧ 15613 < granCountAll ∧ dumpGran 15613 = false ∧ s.granOwner 15613 = none ∧
      (s.gran 15613).state = .scrubbing ∧ (s.gran 15613).failed = false) := by decide +kernel

def snapDesc (opc : Nat) (fs : List (Nat × Nat)) : Desc := mkDesc opc ((16, fga0) :: fs)
def snapQp (d : Desc) : QPair := qpair [(0, held0 d)]

/-- The descriptor is next in the queue. -/
def isNext (d : Desc) : Bool :=
  (next (snapDev id) d).live && (next (snapDev id) d).nextIs 0 0 (descOpc d) == some (snapQp d, held0 d)

theorem witness_SnapshotsOpenPublishCopy_0 : isNext (snapDesc 0x41 []) ∧ isNext (snapDesc 0x41 [(29, 1)]) ∧
    isNext (snapDesc 0x41 [(24, 0), (28, 1)]) ∧ isNext (mkDesc 0x42 [(16, 7)]) ∧ isNext (snapDesc 0x43 []) := by decide +kernel

theorem witness_SnapshotsOpenPublishCopy_1 :
    descClean (snapDesc 0x41 [(29, 1)]) [(16, 8), (24, 4), (28, 1)] = false ∧
    (descClean (snapDesc 0x41 []) [(16, 8), (24, 4), (28, 1)] = true ∧ (snapDesc 0x41 []).getLsbD 224 = false ∧
      descField (snapDesc 0x41 []) 24 4 = 0) ∧
    (descClean (snapDesc 0x41 [(24, 0), (28, 1)]) [(16, 8), (24, 4), (28, 1)] = true ∧ (snapDesc 0x41 [(24, 0), (28, 1)]).getLsbD 224 = true) ∧
    (match (next (dev .plain) (snapDesc 0x41 [])).snapTarget (snapQp (snapDesc 0x41 [])) (BitVec.ofNat 64 fga0) false with
     | .error st => st == stNotSnapshot
     | .ok _ => false) = true ∧
    (match (next (snapDev id) (snapDesc 0x41 [])).snapTarget (snapQp (snapDesc 0x41 [])) (BitVec.ofNat 64 fga0) false with
     | .ok (e, y, sn) => e == 0 && y == ext5 .snapshot .granted (some snap1) && sn == snap1
     | .error _ => false) = true ∧
    openSlot snap1 none = some 0 ∧ openSlot snap1 (some 0) = some 0 ∧ snapReserved snap1 ≠ some 0 ∧
    snapReserved { snap1 with pubs := [⟨0, some (0, true), []⟩] } = some 0 ∧ (snapDev id).ext.records.length < 65536 := by
  decide +kernel

theorem witness_SnapshotsOpenPublishCopy_2 :
    (let d := mkDesc 0x42 [(16, 7)]
     (next (snapDev id) d).nextIs 0 0 0x42#8 = some (snapQp d, held0 d) ∧ descClean d [(16, 4)] = true ∧
      (next (snapDev id) d).handleRecord (descField d 16 4) 3#14 = some (7, ⟨0#13, 0, 0#5, 3#14⟩)) ∧
    descClean (mkDesc 0x42 [(20, 1)]) [(16, 4)] = false ∧ (next (snapDev id) (mkDesc 0x42 [(16, 8)])).handleRecord 8 3#14 = none ∧
    (ext5 .snapshot .draining (some snap1)).state = .draining ∧
    (let d := snapDesc 0x43 []
     (next (snapDev id) d).nextIs 0 0 0x43#8 = some (snapQp d, held0 d) ∧ descClean d [(16, 8)] = true ∧
      (match (next (snapDev id) d).snapTarget (snapQp d) (d.extractLsb' 128 64) true with
       | .ok (_, _, sn) => sn == snap1
       | .error _ => false) = true) ∧
    descClean (snapDesc 0x43 [(24, 1)]) [(16, 8)] = false ∧ snap1.pubs = [] ∧ chooseSlot snap1 = some (2, false) := by decide +kernel

/-- Every version slot taken, the latest one open or not. -/
def fullSlots (opens : Nat) : Snap :=
  { snap1 with slots := (List.range 16).map (fun i => (i, if i = 0 then ⟨.latest, 0, 0#5, opens⟩ else if i = 1 then ⟨.write, 1, 1#5, 0⟩
      else ⟨.held, 0, 0#5, 1⟩)) }

/-- A write that waits for its leaf to be copied. -/
def waiting : SnapWait := ⟨0, ⟨{ pktBlank 0x81#8 with addr := BitVec.ofNat 64 fga0, src := 3#14 }, 0, none, none, none, 0⟩, false⟩

theorem witness_SnapshotsOpenPublishCopy_3 :
    (snapFind (fullSlots 0) .empty = none ∧ snapFind (fullSlots 0) .latest = some 0 ∧ (mget VSlot.reset (fullSlots 0).slots 0).opens = 0 ∧
      (mget VSlot.reset (fullSlots 1).slots 0).opens ≠ 0 ∧ snapFind snap1 .empty = some 2) ∧
    chooseSlot { fullSlots 1 with pubs := [⟨0, none, []⟩] } = none ∧
    (let s := snapDev (fun sn => { sn with pubs := [⟨0, some (2, false), [0, 1, 2, 3, 4, 5]⟩] })
     s.live = true ∧ ∃ x ∈ s.extent 0, ∃ sn ∈ x.snap, sn.pubs = [⟨0, some (2, false), [0, 1, 2, 3, 4, 5]⟩] ∧ snapFind sn .write = some 1 ∧
       snapFind sn .latest = some 0 ∧ sn.waits.all (fun y => y.newVersion) = true ∧ sn.copies.any (fun c => c.slot == 1) = false ∧
       s.atomicsInto 0 1 = false ∧ sn.opens = []) ∧
    ([0, 1, 2, 3, 4, 5] : List Slice).length = 6 ∧ ([0] : List Slice).length ≠ 6 ∧ keysRise snap1.slots = true :=
  ⟨by decide +kernel, by decide +kernel, ⟨by decide, _, rfl, _, rfl, by decide +kernel⟩, by decide, by decide, by decide⟩

theorem witness_SnapshotsOpenPublishCopy_4 :
    (let s := snapDev (fun sn => { sn with waits := [waiting] })
     s.live = true ∧ (∃ x ∈ s.extent 0, ∃ sn ∈ x.snap, snapFind sn .write = some 1 ∧
       sn.waits.any (fun y => y.leaf == 0 && !y.newVersion && y.ip.pkt.opc == 0x81#8) = true ∧ needsCopy sn 1 0 = true ∧
       copySlot sn 0 = some 1 ∧ copySlot sn 1 = none ∧ sn.copies.any (fun c => c.leaf == 0) = false ∧ freeLeaf x sn = some 33) ∧ s.copiesActive < 16) ∧
    (let s := snapDev (fun sn => { sn with copies := [⟨0, 0, 33, 1⟩] })
     ∃ x ∈ s.extent 0, ∃ sn ∈ x.snap, snapFind sn .write = some 1 ∧ sn.copies.find? (fun c => c.leaf == 0) = some ⟨0, 0, 33, 1⟩) :=
  ⟨⟨by decide, ⟨_, rfl, _, rfl, by decide +kernel⟩, by decide⟩, _, rfl, _, rfl, by decide +kernel⟩

/-! ### Coherence -/

/-- The coherent device with agent 2 at endpoint 3, live or dead, and agent 4 at endpoint 9. -/
def agents (dead : Bool) : State :=
  { dev .coherent with coh := { Coh.reset with agents := [(2, ⟨3#14, dead⟩), (4, ⟨9#14, false⟩)], sweeps := if dead then [(2, 0)] else [] } }

/-- Line 0 in a directory state. -/
def held (d : DirLine) : State := (agents false).setDir 0 d

def withAgents (n : Nat) : State :=
  { dev .coherent with coh := { Coh.reset with agents := (List.range n).map (fun a => (a, ⟨BitVec.ofNat 14 a, false⟩)) } }

theorem tget_mapped {α : Type} (f : Nat → α) : ∀ l : List Nat, l.Pairwise (· < ·) → ∀ a ∈ l, tget (l.map (fun x => (x, f x))) a = some (f a)
  | [], _, _, h => nomatch h
  | b :: l, hp, a, h => by
    rw [List.pairwise_cons] at hp
    rcases List.mem_cons.1 h with rfl | h
    · simp [tget]
    · have h1 := hp.1 a h
      simp only [List.map_cons, tget]
      rw [if_neg (by omega), if_neg (by omega)]
      exact tget_mapped f l hp.2 a h

theorem withAgents_full (n : Nat) : (List.range n).find? (fun a => (tget (withAgents n).coh.agents a).isNone) = none := by
  rw [List.find?_eq_none]
  intro a h
  show ¬ (tget ((List.range n).map (fun a => (a, _))) a).isNone = true
  rw [tget_mapped _ _ List.pairwise_lt_range a h]
  simp

theorem witness_AgentsAreRegistered :
    ((withAgents 1024).live = true ∧ (List.range 1024).find? (fun a => (tget (withAgents 1024).coh.agents a).isNone) = none) ∧
    ((agents false).live = true ∧ (List.range 1024).find? (fun a => (tget (agents false).coh.agents a).isNone) = some 0 ∧
      ((agents false).agentIx 3#14).isSome = true ∧ (agents false).agentIx 5#14 = none ∧ (agents false).agentIx 3#14 = some 2 ∧
      (agents false).coh.recalls = [] ∧ (agents false).agentBusy 2 = false ∧ (∀ l ∈ (agents false).dirLines, mayHold l.2 2 = false) ∧ (agents false).agentDead 2 = false ∧
      (agents false).ext.records = [] ∧ (agents false).coh.queues = [] ∧ (agents false).coh.txns = [] ∧
      tget (agents false).coh.agents 2 = some ⟨3#14, false⟩ ∧ tget (agents true).coh.sweeps 2 = some 0) :=
  ⟨⟨rfl, withAgents_full 1024⟩, by decide +kernel⟩

/-- A coherence packet of endpoint ep about the pool's first line, as the inbox holds it. -/
def cohIn (opc : BitVec 8) (ep : Ep) (t : Tenant) : InPkt :=
  ⟨{ pktBlank opc with src := ep, tenant := t, addr := BitVec.ofNat 64 fga0 }, 0, none, none, none, 0⟩

def inbox (s : State) (ip : InPkt) : State := { s with rtr := { s.rtr with inbox := [ip] } }

/-- Two packets of one source in the inbox, the second behind the first. -/
def inboxTwo (s : State) (ip : InPkt) : State := { s with rtr := { s.rtr with inbox := [ip, ip] } }

/-- What the slice holds of a line: its transaction. -/
def txnOf (r : CReq) (ph : TxnPhase) (snoops : List Snoop) : Txn :=
  { kind := .request r, phase := ph, snoops := snoops, data := none, kept := none, late := false, run := [] }

def busyLine (s : State) (ph : TxnPhase) (snoops : List Snoop) : State :=
  { s with coh := { s.coh with txns := [(0, txnOf atomCReq ph snoops)] } }

/-- A slice with 1,024 active transactions. -/
def fullSlice : State :=
  { agents false with coh := { Coh.reset with txns := (List.range 1024).map (fun i => (384 * i, txnOf atomCReq .snooping [])) } }

/-- The device with tenant 6 fenced. -/
def fenced : State := { agents false with sec := { Sec.reset with tenants := [(6, { TenantRec.reset with fenced := true })] } }

theorem witness_HomeServesRequests_1 :
    1024 ≤ fullSlice.sliceActive (ppaSlice 0) ∧
    (∀ opc ∈ [0x01#8, 0x02#8, 0x03#8, 0x04#8, 0x05#8, 0x06#8, 0x07#8, 0x08#8],
      let s := inbox (agents false) (cohIn opc 3#14 5#10)
      s.live = true ∧ s.rtr.inbox[0]? = some (cohIn opc 3#14 5#10) ∧ fgaPpa (cohIn opc 3#14 5#10).pkt.addr = 0 ∧ s.sliceActive 0 < 1024 ∧
      s.sliceWaiting 0 < 4096 ∧ s.behind 0 (cohIn opc 3#14 5#10) = false ∧
      (inboxTwo (agents false) (cohIn opc 3#14 5#10)).behind 1 (cohIn opc 3#14 5#10) = true ∧ s.agentIx 3#14 = some 2 ∧ s.agentDead 2 = false ∧ s.snoopOut 0 3#14 = false ∧ s.tenantGone 5#10 = false ∧
      (match ({ s.quiet with rtr := { s.rtr with inbox := [] } } : State).takeAccess (cohAccess (cohIn opc 3#14 5#10)) (BitVec.ofNat 64 fga0) 64 with
       | (.ok k, _) => k.ext == 0
       | _ => false) = true) := by decide +kernel

theorem witness_HomeServesRequests_2 :
    ((agents true).agentIx 3#14 = some 2 ∧ (agents true).agentDead 2 = true ∧ (agents false).agentIx 11#14 = none) ∧
    (fenced.agentIx 3#14 = some 2 ∧ fenced.tenantGone 6#10 = true) ∧
    (∀ opc ∈ [0x01#8, 0x02#8, 0x03#8, 0x04#8, 0x05#8, 0x06#8, 0x07#8, 0x08#8],
      (match (agents false).takeAccess (cohAccess (cohIn opc 9#14 5#10)) (BitVec.ofNat 64 fga0) 64 with
       | (.error st, _) => st == stDenied
       | _ => opc == 0x08#8) = true) ∧
    (busyLine (agents false) .snooping [⟨3#14, 2, 0x20#8, false⟩]).snoopOut 0 3#14 = true := by decide +kernel

theorem witness_HomeServesRequests_3 :
    (busyLine (agents false) .snooping []).txn (0#34).toNat = some (txnOf atomCReq .snooping []) ∧
    (txnOf atomCReq .snooping []).phase ≠ .stashed 4 ∧
    (busyLine (agents false) (.stashed 4) []).txn (0#34).toNat = some (txnOf atomCReq (.stashed 4) []) ∧
    (let s : State := { agents false with coh := { (agents false).coh with recalls := [⟨some 2, none, [0]⟩] } }
     s.live = true ∧ s.txn (0#34).toNat = none ∧ s.recallFor (0#34).toNat = some ⟨some 2, none, [0]⟩) ∧
    (let s : State := { agents false with coh := { (agents false).coh with queues := [(0, [atomCReq])] } }
     s.txn (0#34).toNat = none ∧ s.recallFor (0#34).toNat = none ∧ mget [] s.coh.queues (0#34).toNat = [atomCReq] ∧
      s.sliceActive (ppaSlice ((0#34).toNat * 64)) < 1024) := by decide +kernel

def cohReq (opc : BitVec 8) : CReq := { atomCReq with pkt := (cohIn opc 3#14 5#10).pkt }

/-- A set whose sixteen ways hold other sectors. -/
def fullSet : State :=
  { agents false with coh := { (agents false).coh with dir := (List.range 16).map (fun w => (dirSet 0 * 16 + w, ⟨dirTag 0 + 1 + w, w, [(0, .sPtr 4)]⟩)) } }

theorem witness_HomeServesRequests_4 :
    (∀ d ∈ [DirLine.i, .sPtr 2, .e 2, .m 2, .sPtr 4, .e 4, .m 4, .sVec 20#15], (held d).dirLine 0 = d ∧ (held d).agentDead 2 = false ∧
      (held d).agentDead 4 = false ∧ (held d).agentIx (cohReq 0x07#8).ep = some 2 ∧ (held d).dirRoom 0 = (if d = .i then .free 0 else .entry 0)) ∧
    (∀ opc ∈ [0x01#8, 0x02#8, 0x03#8], needsEntry (cohReq opc) = true) ∧ (∀ opc ∈ [0x04#8, 0x05#8], needsEntry (cohReq opc) = false) ∧
    fullSet.dirRoom 0 = .victim 15 ∧ fullSet.dirLine 0 = .i ∧
    agentOnly (cohReq 0x01#8).pkt.opc = true ∧ (dev .coherent).agentIx (cohReq 0x01#8).ep = none ∧ agentOnly (cohReq 0x05#8).pkt.opc = false := by decide +kernel

theorem witness_HomeServesRequests_5 :
    (held .i).mayWrite 0 (cohReq 0x01#8).ep = true ∧ (held .i).mayWrite 0 7#14 = false ∧ (txnOf (cohReq 0x01#8) .snooping []).data = none ∧
    ({ txnOf (cohReq 0x01#8) .snooping [] with data := some (1#512, false), kept := some 4 } : Txn).kept = some 4 ∧
    (let s : State := { held .i with coh := { (held .i).coh with agents := [(2, ⟨3#14, false⟩), (3, ⟨7#14, false⟩)] } }
     s.agentIx 7#14 = some 3) := by decide +kernel

theorem witness_HomeTakesAnswers_1 :
    (∀ opc ∈ [0x60#8, 0x61#8, 0x62#8, 0x63#8, 0x64#8], ∀ d ∈ [DirLine.m 2, .sPtr 2],
      let s := inbox (busyLine (held d) .snooping [⟨3#14, 2, 0x20#8, false⟩]) (cohIn opc 3#14 0#10)
      s.live = true ∧ s.rtr.inbox[0]? = some (cohIn opc 3#14 0#10) ∧ s.behind 0 (cohIn opc 3#14 0#10) = false ∧ s.fromDead 3#14 = false ∧ s.awaitsWb 0 3#14 = false ∧
      s.txn 0 = some (txnOf atomCReq .snooping [⟨3#14, 2, 0x20#8, false⟩]) ∧ s.dirLine 0 = d) ∧
    (agents true).fromDead 3#14 = true := by decide +kernel

theorem witness_HomeTakesAnswers_2 :
    (agents false).dirRoom 0 = .free 0 ∧
    (∀ ph ∈ [TxnPhase.stashing 3#14 2, .granting 3#14], let s := inbox (busyLine (agents false) ph []) (cohIn 0x66#8 3#14 0#10)
      s.live = true ∧ s.rtr.inbox[0]? = some (cohIn 0x66#8 3#14 0#10) ∧ s.behind 0 (cohIn 0x66#8 3#14 0#10) = false ∧ s.fromDead 3#14 = false ∧ s.txn 0 = some (txnOf atomCReq ph [])) ∧
    (∀ d ∈ [DirLine.sPtr 2, .e 2, .sVec 20#15], let s : State := { held d with coh := { (held d).coh with recover := [0] } }
      s.live = true ∧ s.coh.recover.contains (0#34).toNat = true ∧ s.txn (0#34).toNat = none ∧ s.dirLine (0#34).toNat = d ∧
      s.agentDead 2 = false) ∧
    (agents false).coh.recover.contains (0#34).toNat = false ∧ (agents false).awaits (0#34).toNat 3#14 = false ∧
    (busyLine (agents false) (.granting 3#14) []).awaits (0#34).toNat 3#14 = true := by decide +kernel

/-! ### Links -/

/-- A value with a checksum above its first m bits. -/
def sealBits {w : Nat} (m : Nat) (c : W32) (body : BitVec w) : BitVec w := body ||| ((c.setWidth w) <<< m)

theorem sealBits_low {w m lo k : Nat} (c : W32) (body : BitVec w) (h : lo + k ≤ m) :
    (sealBits m c body).extractLsb' lo k = body.extractLsb' lo k := by
  apply BitVec.eq_of_getLsbD_eq
  intro i hi
  simp only [sealBits, BitVec.getLsbD_extractLsb', BitVec.getLsbD_or, BitVec.getLsbD_shiftLeft]
  rw [show decide (lo + i < m) = true by simpa using (by omega)]
  simp

theorem sealBits_bytes {w : Nat} (n : Nat) (c : W32) (body : BitVec w) : bytesOf (sealBits (8 * n) c body) n = bytesOf body n := by
  unfold bytesOf
  apply List.map_congr_left
  intro i hi
  have := List.mem_range.1 hi
  exact sealBits_low c body (by omega)

theorem sealBits_sum {w m : Nat} (c : W32) (body : BitVec w) (hw : m + 32 ≤ w) (hb : body.extractLsb' m 32 = 0#32) :
    (sealBits m c body).extractLsb' m 32 = c := by
  apply BitVec.eq_of_getLsbD_eq
  intro i hi
  have := congrArg (fun x => x.getLsbD i) hb
  simp only [BitVec.getLsbD_extractLsb', hi, decide_true, Bool.true_and, BitVec.getLsbD_zero] at this
  have hm : m + i < w := by omega
  simp only [sealBits, BitVec.getLsbD_extractLsb', BitVec.getLsbD_or, BitVec.getLsbD_shiftLeft, BitVec.getLsbD_setWidth, this, hi, hm,
    decide_true, Bool.true_and, Bool.false_or, Nat.add_sub_cancel_left]
  simp; omega

/-- A flit whose CRC is right. -/
def sealFlit (body : BitVec 2048) : BitVec 2048 := sealBits (8 * 252) (flitCrc body) body

theorem sealFlit_crc (body : BitVec 2048) (hb : body.extractLsb' (8 * 252) 32 = 0#32) :
    flitCrc (sealFlit body) = BitVec.ofNat 32 (flitField (sealFlit body) 2016 32) := by
  have h1 : flitCrc (sealFlit body) = flitCrc body := congrArg crc32c (sealBits_bytes 252 _ _)
  have h2 : (sealFlit body).extractLsb' 2016 32 = flitCrc body := sealBits_sum _ _ (by decide) hb
  unfold flitField
  rw [h1, h2, BitVec.ofNat_toNat, BitVec.setWidth_eq]

theorem sealFlit_field (body : BitVec 2048) {lo n : Nat} (h : lo + n ≤ 2016) : flitField (sealFlit body) lo n = flitField body lo n :=
  congrArg BitVec.toNat (sealBits_low _ _ h)

/-- The device with TFL0 as given, and an active link of lanes 0 and 1 of four equalised. -/
def lk (l : Link) : State := { dev .plain with links := [(0, l), (32, Link.resetPl), (33, Link.resetPl)] }

def up : Link :=
  { Link.resetTfl with state := .active, width := 1#2, lanes := 3#8, equalized := 0x0F#8, fresh := false,
                       rx := { LinkRx.fresh with vcs := [(0, { VcRx.empty with alloc := 512 })] } }

def chg (mine answered : Bool) : WidthChange := ⟨2#2, 0x0F#8, mine, answered, 0⟩

/-- A flit with a sequence number and of a type, in epoch 0. -/
def flitBody (ftype seq : Nat) : BitVec 2048 := BitVec.ofNat 2048 (ftype + 4 * seq)

theorem witness_LinksReceiveAndSend_1 :
    (dev .plain).live = true ∧ ((dev .plain).link 0).state ≠ .active ∧ (lk up).live = true ∧ ((lk up).link 0).state = .active ∧
    15 < ((laneErrors (lk up) 0 [8, 8, 9]).map (fun e => e.2)).sum ∧ ((laneErrors (lk up) 0 [8, 7, 9]).map (fun e => e.2)).sum ≤ 15 ∧ keysRise ((lk up).link 0).corrTick = true ∧
    8 ≤ ((lk { up with uncorrRun := 8 }).link 0).uncorrRun ∧ ((lk { up with uncorrRun := 7 }).link 0).uncorrRun < 8 ∧
    (let s := lk { up with corrRun := [(1, 8)] }
     (s.link 0).lanes.getLsbD (1 : Fin 8).val = true ∧ (s.link 0).degraded.getLsbD 1 = false ∧ (s.link 0).degTicks.toNat ≤ mget 0 (s.link 0).corrRun 1) := by
  decide +kernel

theorem witness_LinksReceiveAndSend_2 :
    ((lk up).link 0).state = .active ∧ ((lk up).link 0).rx.waiting = false ∧
    (∀ x ∈ [(0, 0), (0, 1), (0, 2049), (2, 0)], let f := sealFlit (flitBody x.1 x.2)
      flitCrc f = BitVec.ofNat 32 (flitField f 2016 32) ∧ flitField f 90 2 = ((lk up).link 0).epoch.toNat ∧ flitField f 0 2 = x.1 ∧
        flitField f 2 12 = x.2) ∧
    ((lk up).link 0).rx.expected = 0#12 ∧ 0 < (((lk up).link 0).rx.vc 0).free ∧ seqNewer 1#12 0#12 = true ∧ seqNewer 2049#12 0#12 = false ∧
    (((lk { up with rx := LinkRx.fresh }).link 0).rx.vc 0).free = 0 := by
  refine ⟨by decide, by decide, ?_, by decide⟩
  intro x hx
  refine ⟨sealFlit_crc _ ?_, ?_⟩
  · revert x; decide +kernel
  · rw [sealFlit_field _ (by decide), sealFlit_field _ (by decide), sealFlit_field _ (by decide)]
    revert x; decide +kernel

def content0 : FlitContent := (LinkTx.fresh).idle

theorem witness_LinksReceiveAndSend_3 (c : FlitContent) :
    (let s := lk { up with tx := { LinkTx.fresh with replay := [content0], resend := 1 } }
     0 < (s.link 0).tx.resend ∧ (s.link 0).tx.resend ≤ (s.link 0).tx.replay.length) ∧
    (∀ l : List FlitContent, l.length = 1024 → 1024 ≤ ((lk { up with tx := { LinkTx.fresh with replay := l } }).link 0).tx.replay.length) ∧
    (List.replicate 1024 c).length = 1024 ∧
    (let s := lk { up with tx := { LinkTx.fresh with ctrls := [[1#128]] } }
     (s.link 0).tx.resend = 0 ∧ (s.link 0).tx.replay.length < 1024 ∧ (s.link 0).tx.ctrls = [1#128] :: []) ∧
    (((lk up).link 0).tx.ctrls = [] ∧ ((lk up).link 0).tx.cur = none) ∧
    (let s := lk { up with tx := { LinkTx.fresh with queues := [(0, [⟨[1#128], false, false, none⟩])] } }
     (s.link 0).tx.cur = none ∧ (some (0 : Fin 4)).map (fun x => x.val) = some 0 ∧
       (fillUnits ((s.link 0).tx.pauseSeen.getLsbD 0) 16 15 (mget [] (s.link 0).tx.queues 0) (s.link 0).tx.credit).1 ≠ []) := by
  refine ⟨by decide, ?_, List.length_replicate, by decide, by decide, by decide⟩
  intro l h
  exact Nat.le_of_eq h.symm

theorem witness_LinksReceiveAndSend_4 :
    ((lk { up with rx := { up.rx with waiting := true } }).link 0).rx.waiting = true ∧ ((lk up).link 0).rx.waiting = false ∧
    ((lk { up with tx := { LinkTx.fresh with replay := [content0] } }).link 0).tx.replay ≠ [] ∧ ((lk up).link 0).tx.replay = [] ∧
    (let s := lk { up with tx := { LinkTx.fresh with replayCount := 8 } }
     (s.link 0).tx.replayCount ≠ 0 ∧ (s.link 0).replayMax.toNat ≤ (s.link 0).tx.replayCount) ∧
    ((lk { up with tx := { LinkTx.fresh with replayCount := 7 } }).link 0).tx.replayCount < ((lk up).link 0).replayMax.toNat ∧
    ((lk up).link 0).tx.replayCount = 0 := by decide

/-- A training block from a port of an identity, on a lane by its number at the sender, with PARAM_DONE or without it. -/
def blockBody (ident lane : Nat) (done : Bool) : Line :=
  BitVec.ofNat 512 (trainMarker + 2 ^ 64 * 4 + 2 ^ 72 * lane + 2 ^ 112 * (if done then 0x1F else 0x0F) + 2 ^ 120 + 2 ^ 128 * ident)
def blockOf (ident lane : Nat) (done : Bool) : Line :=
  sealBits (8 * 60) (crc32c (bytesOf (blockBody ident lane done) 60)) (blockBody ident lane done)

theorem blockOf_crc (ident lane : Nat) (done : Bool) (h : (blockBody ident lane done).extractLsb' (8 * 60) 32 = 0#32) :
    crc32c (bytesOf (blockOf ident lane done) 60) = (blockOf ident lane done).extractLsb' 480 32 := by
  unfold blockOf
  rw [sealBits_bytes]
  exact (sealBits_sum _ _ (by decide) h).symm

theorem blockOf_isTraining (ident lane : Nat) (done : Bool) (h : (blockBody ident lane done).extractLsb' (8 * 60) 32 = 0#32)
    (hm : descField (blockBody ident lane done) 0 8 = trainMarker) : isTraining (blockOf ident lane done) = true := by
  have h1 : descField (blockOf ident lane done) 0 8 = trainMarker := (congrArg BitVec.toNat (sealBits_low _ _ (by decide))).trans hm
  simp only [isTraining, h1, blockOf_crc ident lane done h, beq_self_eq_true, Bool.and_self]

theorem block_aligned (l : Link) (b : Line) (ht : isTraining b = true) (h : descField b 9 1 % 4 = 0 ∨ descField b 9 1 % 4 = 3) :
    ∃ x, l.alignBlock false 0 b 64 = some (b, x) ∧ x.state = l.state ∧ x.fresh = l.fresh := by
  unfold Link.alignBlock
  obtain h | h := h <;> simp [ht, h]

theorem portId_zero (h : Config.deviceSerial = 0#59) : portId 0 = 0#64 := by unfold portId; rw [h]; decide

theorem witness_LinksTrainAndChange_1 (h : Config.deviceSerial = 0#59) :
    ((dev .plain).live = true ∧ (dev .plain).portTrains 0 = true ∧ ({ dev .plain with plt := Plt.reset } : State).portTrains 0 = false ∧
      isTraining 0#512 = false ∧ isTraining (0#512 ^^^ BitVec.allOnes 512) = false ∧
      up.alignBlock false 0 0#512 0 = none) ∧
    (∀ x ∈ [(0, 0, false), (1, 0, false), (1, 3, true)], let b := blockOf x.1 x.2.1 x.2.2
      isTraining b = true ∧ descField b 9 1 % 4 = x.2.1 ∧ (∀ l : Link, ∃ y, l.alignBlock false 0 b 64 = some (b, y) ∧ y.state = l.state ∧ y.fresh = l.fresh) ∧
      b.extractLsb' 128 64 = BitVec.ofNat 64 x.1 ∧ b.extractLsb' 116 1 = (if x.2.2 then 1#1 else 0#1) ∧
      descField b 14 1 % 16 = 0x0F ∧ descField b 8 1 = 4) ∧
    (∀ st ∈ [LinkState.disabled, .detect, .equalize, .lock, .param, .active], ((lk { up with state := st }).link 0).state = st) ∧
    (0x0F#8 &&& 0x0F#8 ≠ 0#8 ∧ chooseWidth (isPl 0) (0x0F#8 &&& 0x0F#8) (up.wmax (isPl 0)) = some (2#2, 0x0F#8)) ∧
    (portId 0).toNat < (1#64).toNat ∧ 0#64 = portId 0 ∧ 1#64 ≠ portId 0 := by
  rw [portId_zero h]
  refine ⟨by decide +kernel, ?_, by decide, by decide, by decide, rfl, by decide⟩
  intro x hx
  have h3 : x.2.1 = 0 ∨ x.2.1 = 3 := by revert x; decide
  have ht : isTraining (blockOf x.1 x.2.1 x.2.2) = true := blockOf_isTraining _ _ _ (by revert x; decide +kernel) (by revert x; decide +kernel)
  have hl : descField (blockOf x.1 x.2.1 x.2.2) 9 1 % 4 = x.2.1 :=
    (congrArg (fun y => BitVec.toNat y % 4) (sealBits_low _ _ (by decide))).trans (by revert x; decide +kernel)
  refine ⟨ht, hl, fun l => block_aligned l _ ht (by rw [hl]; exact h3), (sealBits_low _ _ (by decide)).trans ?_,
    (sealBits_low _ _ (by decide)).trans ?_, (congrArg (fun y => BitVec.toNat y % 16) (sealBits_low _ _ (by decide))).trans ?_,
    (congrArg BitVec.toNat (sealBits_low _ _ (by decide))).trans ?_⟩ <;>
    (revert x; decide +kernel)

theorem witness_LinksTrainAndChange_2 :
    (∀ v, v < 4 → headroom (max up.rttNs.toNat (500#12).toNat) up.width + 32 ≤ allocOf up.vcAlloc v) ∧
    allocOf ({ up with vcAlloc := 0#64 }).vcAlloc 3 < headroom (max up.rttNs.toNat (500#12).toNat) up.width + 32 ∧
    Link.resetTfl.fresh = true ∧ up.fresh = false ∧ ({ up with peerId := 1#64 } : Link).peerId = 1#64 ∧ (2#64 : W64) ≠ ({ up with peerId := 1#64 } : Link).peerId ∧
    (lk up).rtr.reqs = [] ∧ (lk up).rtr.routes = [] ∧ (lk up).fab.sends = [] := by
  decide +kernel

theorem witness_LinksTrainAndChange_3 :
    (∃ k, ({ up with change := some (chg true false), leader := true } : Link).change = some k ∧ k.mine = true ∧ k.answered = false) ∧
    (∀ c ∈ [none, some (chg false false), some (chg true true)], ∀ k, ({ up with change := c } : Link).change = some k → k.mine = false ∨ k.answered = true) ∧
    up.leader = false ∧
    (let ok (lanes : BitVec 8) (w : BitVec 2) : Bool := (!((lanes &&& ~~~up.lanes) != 0#8) || (lanes &&& ~~~up.equalized) == 0#8) &&
        ({ up with rx := { up.rx with vcs := (List.range 4).map (fun v => (v, { VcRx.empty with alloc := 512 })) } } : Link).allocOk w && decide (w.toNat ≤ up.wmax (isPl 0))
     ok 0x0F#8 2#2 = true ∧ ok 0x0F#8 3#2 = false) ∧
    (∃ k, ((lk { up with change := some (chg true false) }).link 0).change = some k ∧ k.mine = true ∧ k.answered = false) ∧
    ((1#2, 3#8) = (up.width, up.lanes) ∧ 2#2 ≠ up.width ∧ 1#8 ≠ up.lanes) := by
  refine ⟨⟨chg true false, by decide⟩, ?_, by decide, by decide +kernel, ⟨chg true false, by decide⟩, by decide⟩
  intro c hc k hk
  simp only [List.mem_cons, List.not_mem_nil, or_false] at hc
  obtain rfl | rfl | rfl := hc
  · cases hk
  · cases hk; exact .inl rfl
  · cases hk; exact .inr rfl

theorem witness_LinksTrainAndChange_4 :
    ((lk { up with change := some (chg true true) }).link 0).change.isSome = true ∧ ((lk up).link 0).change = none ∧
    linkPath .mgmt 0 = true ∧ linkPath (.window 1) 33 = true ∧ linkPath .mgmt 32 = false ∧ linkPath (.window 0) 0 = false ∧
    ((lk { up with enable := false }).link 0).enable = false ∧ ((dev .plain).link 0).enable = true ∧ ((dev .plain).link 0).fresh = true ∧
    ((lk up).link 0).enable = true ∧ ((lk up).link 0).fresh = false ∧ isPl 33 = true ∧ isPl 31 = false ∧ (2#2 : BitVec 2) ≠ 3#2 ∧
    ((lk up).link 0).lossTimer = false ∧ ((lk { up with lossTimer := true }).link 0).lossTimer = true ∧
    (lk up).rtr.reqs = [] ∧ (lk up).rtr.routes = [] ∧ (lk up).fab.sends = [] := by decide

/-! ### Router and traffic control -/

/-- TFL0 holds one whole packet on REQ. -/
def arrived (p : Packet) : State :=
  lk { up with rx := { LinkRx.fresh with vcs := [(0, { VcRx.empty with alloc := 512, flits := [⟨pktUnits p, 0, false⟩] })] } }

def rd0 : Packet := { pktBlank 0x80#8 with dst := 1#14, src := 3#14, tenant := 5#10, aux := 1#64, addr := BitVec.ofNat 64 fga0 }

/-- The device with a route to endpoint 3, one policer of tenant 5's class 0, and a crypto state of port PL0. -/
def rt (route : W32) (pol : BitVec 128) (cr : PortCrypto) : State :=
  { lk up with rtr := { Rtr.reset with nodeId := 1#14, adaptEn := true, routes := [(3, route)], policers := [(20, ⟨pol, 0, 0⟩)] },
               sec := { Sec.reset with crypto := [(0, cr)] } }

def pktTo (d : Ep) (gen : Bool) : Packet := { rd0 with dst := d, gen := gen }

theorem witness_PacketsEnterAndLeave_1 :
    ((((lk up).link 0).rx.vc 0).takePacket = none ∧ ((((arrived rd0).link 0).rx.vc 0).takePacket).map (fun x => x.1) = some rd0) ∧
    (isPl 31 = false ∧ pktMalformed { rd0 with aux := 0#64 } false 0 = true ∧ rd0.opc ≠ 0x84#8 ∧ pktMalformed rd0 false 0 = false) ∧
    (isPl 32 = true ∧ pktMalformed rd0 true 0 = false ∧
      ((rt 0#32 0#128 { PortCrypto.reset with required := true }).linkOpen 32 rd0).2 = none ∧
      ((rt 0#32 0#128 PortCrypto.reset).linkOpen 33 rd0).2 = some (rd0, none) ∧ (33 : LinkPort) ≠ (rt 0#32 0#128 PortCrypto.reset).activePl ∧
      standbyOk rd0.opc = false ∧ (32 : LinkPort) = (rt 0#32 0#128 PortCrypto.reset).activePl) := by decide +kernel

/-- A multicast packet of group 0 has come to TFL1; TFL0, the group's one branch, holds more than its queue has room for. -/
def mcPkt : Packet := { pktBlank 0x81#8 with mcast := true, tenant := 5#10, payload := [0#128, 0#128, 0#128, 0#128] }
def mcFull : State :=
  { State.reset with rtr := { Rtr.reset with
      mcast := [(0, 1#48 ||| (5#48 <<< 34) ||| (1#48 <<< 44))],
      txq := [(0, List.replicate (Config.egressRoom + 1) ⟨pktBlank 0x81#8, vcBulk, none, none⟩)] } }

theorem mcFull_bytes : mcFull.queuedBytes 0 vcBulk = (Config.egressRoom + 1) * 32 := by
  simp [State.queuedBytes, mcFull, mget, tget, pktBytes, pktBlank]

theorem mcFull_noRoom : mcFull.hasRoom 0 mcPkt = false := by
  simp [State.hasRoom, mcFull_bytes]; omega

theorem witness_PacketsEnterAndLeave_0 :
    mcFull.live = true ∧ mcFull.mcastWaits 1 mcPkt 3 = true ∧ State.reset.mcastWaits 1 mcPkt 3 = false ∧
    State.reset.mcastWaits 0 rd0 0 = false := by
  refine ⟨by decide +kernel, ?_, by decide +kernel, by decide +kernel⟩
  have hg : mcFull.groupOf (mcPkt.dst.extractLsb' 0 12) mcPkt.tenant = some (1#48 ||| (5#48 <<< 34) ||| (1#48 <<< 44)) := by decide +kernel
  unfold State.mcastWaits
  rw [hg]
  simp only [Bool.and_eq_true]
  refine ⟨by decide, ?_⟩
  rw [List.any_eq_true]
  exact ⟨0, List.mem_finRange _, by rw [mcFull_noRoom]; decide +kernel⟩

theorem witness_PacketsEnterAndLeave_2 :
    (let u := rt 0x01100000#32 (1#128 <<< 101) PortCrypto.reset
     (u.nextHop (pktTo 3 false) 0).1 ≠ .here ∧ (u.police 0 (pktTo 3 false) (pktBytes (pktTo 3 false)) 0).2 = none ∧ (pktTo 3 false).mcast = false) ∧
    (let u := rt 0x01100000#32 0#128 PortCrypto.reset
     (u.police 0 (pktTo 3 true) (pktBytes (pktTo 3 true)) 0).2 = some (pktTo 3 true) ∧ u.genOk true = false ∧ u.genOk false = true ∧
       (u.nextHop (pktTo 4 false) 0).1 = .unreachable ∧ u.nextHop (pktTo 3 false) 0 = (.port 0, none) ∧
       (u.nextHop (pktTo 1 false) 0).1 = .here ∧ (u.streamTake (pktTo 1 false)).2 = some (pktTo 1 false, none)) ∧
    (rt 0x01100000#32 0#128 PortCrypto.reset).police 0 (pktTo 1 false) 0 0 = (rt 0x01100000#32 0#128 PortCrypto.reset, some (pktTo 1 false)) ∧
    localKind 0x80#8 = true ∧ localKind 0x68#8 = true ∧ localKind 0x01#8 = true ∧ 0x49#8 < 0x80#8 ∧ 0x01#8 < 0x40#8 := by decide +kernel

theorem witness_PacketsEnterAndLeave_3 :
    (∀ x ∈ [(0#32, 0), (0x03000000#32, 3), (0x01100000#32, 1), (0x01000000#32, 0)], let u := rt x.1 0#128 PortCrypto.reset
      u.genOk false = true ∧ (3#14 : Ep) ≠ u.rtr.nodeId ∧ routeKind (u.route false 3#14) = x.2) ∧
    ((rt 0#32 0#128 PortCrypto.reset).rtr.nodeId = 1#14 ∧ (1#14 : Ep) ≠ 0x3FFF#14) ∧
    (let u := rt 0x01100000#32 0#128 PortCrypto.reset
     u.determPort (u.route false 3#14) = some 0 ∧ (u.route false 3#14).getLsbD 26 = false ∧
       ({ u with links := [(0, { up with lost := true })] } : State).determPort (u.route false 3#14) = none) ∧
    (let u := rt 0x05100000#32 0#128 PortCrypto.reset
     (u.route false 3#14).getLsbD 26 = true ∧ u.rtr.adaptEn = true ∧ u.adaptSlot (u.route false 3#14) 3#14 = some (0, 0)) ∧
    (let x : Policer := ⟨0#128, 64, 128⟩
     x.tp < 129 ∧ 64 ≤ x.tp ∧ 128 ≤ x.tp ∧ x.tc < 65 ∧ 64 ≤ x.tc) := by decide +kernel

/-- TFL0's transmit queue holds these packets. -/
def queued (l : List (BitVec 8 × Nat)) : State :=
  { lk up with rtr := { Rtr.reset with nodeId := 1#14, txq := [(0, l.map (fun x => ⟨{ pktBlank x.1 with src := 1#14 }, x.2, none, none⟩))] } }

theorem witness_PacketsEnterAndLeave_4 :
    ((lk up).live = true ∧ (lk up).schedule 0 = none ∧ ((dev .plain).link 0).state ≠ .active ∧ ((queued [(0x80#8, 0)]).link 0).state = .active) ∧
    ((queued [(0x80#8, 0)]).schedule 0 = some (0, ⟨{ pktBlank 0x80#8 with src := 1#14 }, 0, none, none⟩) ∧
      ((queued [(0x80#8, 0)]).quiet.streamProtect { pktBlank 0x80#8 with src := 1#14 }).isSome = true) ∧
    (((queued [(0x80#8, 0), (0x83#8, 1), (0x20#8, 2)]).schedule 0).map (fun x => x.2.vc) = some vcSnp ∧
      ∃ e, e ∈ (queued [(0x80#8, 0), (0x83#8, 1), (0x20#8, 2)]).readyList 0 ∧ e.2.vc = vcSnp) ∧
    ((∀ e, e ∈ (queued [(0x80#8, 0), (0x83#8, 1)]).readyList 0 → e.2.vc ≠ vcSnp) ∧
      ∃ e, e ∈ (queued [(0x80#8, 0), (0x83#8, 1)]).readyList 0 ∧ e.2.vc = vcRsp) ∧
    ((∀ e, e ∈ (queued [(0x80#8, 0)]).readyList 0 → e.2.vc ≠ vcSnp) ∧ ∀ e, e ∈ (queued [(0x80#8, 0)]).readyList 0 → e.2.vc ≠ vcRsp) :=
  ⟨by decide +kernel, by decide +kernel, ⟨by decide +kernel, (2, ⟨{ pktBlank 0x20#8 with src := 1#14 }, 2, none, none⟩), by decide +kernel⟩,
   ⟨by decide +kernel, (1, ⟨{ pktBlank 0x83#8 with src := 1#14 }, 1, none, none⟩), by decide +kernel⟩, by decide +kernel⟩

/-- A packet of endpoint ep in the inbox of a state. -/
def with1 (s : State) (p : Packet) : State := { s with rtr := { s.rtr with inbox := [⟨p, 0, none, none, none, 0⟩] } }

def wr0 : Packet := { rd0 with opc := 0x81#8, aux := 0xF#64, payload := [1#128, 0#128, 0#128, 0#128] }

theorem witness_RequestsAnswersAndTimers_1 :
    ((with1 fenced { rd0 with tenant := 6#10 }).live = true ∧ (with1 fenced rd0).tenantGone 6#10 = true ∧ (with1 fenced rd0).tenantGone 5#10 = false ∧
      (with1 fenced rd0).behind 0 ⟨rd0, 0, none, none, none, 0⟩ = false ∧ (dev .plain).reqHeld ⟨rd0, 0, none, none, none, 0⟩ 64 = false ∧
      (inboxTwo (dev .plain) ⟨rd0, 0, none, none, none, 0⟩).behind 1 ⟨rd0, 0, none, none, none, 0⟩ = true) ∧
    ((snapDev id).snapWaitFor (accWrite 3#14 []) rd0.addr 64).isSome = true ∧
    ((snapDev id).admitAll (accWrite 3#14 []) rd0.addr 64).1.toOption.isSome = true ∧
    (dev .plain).ctrlHolds (accWrite 3#14 []) rd0.addr 64 = false ∧ (chan0 fullChan).ctrlHolds (accWrite 3#14 []) rd0.addr 64 = true ∧
    (busyLine (agents false) .snooping []).snapWaitFor (accRead 3#14 []) rd0.addr 64 = none ∧
    (busyLine (agents false) .snooping []).poolBusy (accRead 3#14 []) rd0.addr 64 = true ∧
    (∀ a ∈ [accRead 3#14 [], accWrite 3#14 []], (dev .plain).snapWaitFor a rd0.addr 64 = none ∧ (dev .plain).poolBusy a rd0.addr 64 = false) ∧
    (match (dev .plain).readPool (accRead 3#14 []) 5#10 rd0.addr 64 noIo with
     | (.ok x, _) => x == (List.replicate 64 0#8, [false])
     | _ => false) = true ∧
    (match (dev .plain).readPool (accRead 4#14 []) 5#10 rd0.addr 64 noIo with
     | (.error st, _) => st == stDenied
     | _ => false) = true ∧
    (match (dev .plain).writePool (accWrite 3#14 []) 5#10 rd0.addr (payloadBytes wr0.payload) ((List.range 64).map (fun j => wr0.aux.getLsbD j)) noIo with
     | (.ok (), _) => true
     | _ => false) = true ∧
    (match (dev .plain).writePool (accWrite 4#14 []) 5#10 rd0.addr (payloadBytes wr0.payload) ((List.range 64).map (fun j => wr0.aux.getLsbD j)) noIo with
     | (.error st, _) => st == stDenied
     | _ => false) = true := by decide +kernel

/-- A request of the device's own, outstanding. -/
def req0 (opc : BitVec 8) (bulk : Bool) (age retries : Nat) : DevReq :=
  { tag := 0#12, dst := 3#14, via := none, va := none, port := none, opc := opc, xfer := if bulk then some 0#16 else none, pkts := [], vc := if bulk then 3 else 0,
    sent := true, age := age, retries := retries, owner := .other, got := [], poisoned := false }

def asking (opc : BitVec 8) (bulk : Bool) (age retries : Nat) : State :=
  { dev .plain with rtr := { Rtr.reset with nodeId := 1#14, reqs := [(0, req0 opc bulk age retries)] } }

theorem witness_RequestsAnswersAndTimers_2 :
    ((with1 (dev .plain) { rd0 with opc := 0x82#8 }).findReq 3#14 0#12 none 0 = none ∧ (dev .plain).rtr.goneOut = [] ∧
      (dev .plain).findReq 3#14 0#12 (some 0#16) 0 = none ∧ (dev .plain).counter (ctrRtr 4) < ctrMax) ∧
    ((asking 0x80#8 false 0 0).findReq 3#14 0#12 none 0 = some (0, req0 0x80#8 false 0 0) ∧ (req0 0x80#8 false 0 0).via = none) ∧
    (asking 0x81#8 true 0 0).findReq 3#14 0#12 (some 0#16) 0 = some (0, req0 0x81#8 true 0 0) := by decide +kernel

/-- Queue pair 0 takes doorbells over the fabric from endpoint 3, or from PL0. -/
def bells (fabric : Bool) : State :=
  { dev .plain with que := { Que.reset with qps := [(0, { qpair [] with cfg := { cfg5 with dbFabric := fabric, dbEp := 3#14 } })] } }

theorem witness_RequestsAnswersAndTimers_3 :
    ((dev .plain).qp 0 = none ∧ (dev .plain).counter (ctrQue 3 0) < ctrMax) ∧
    (∃ x ∈ (bells true).qp 0, isPl 0 = false ∧ x.cfg.dbFabric = true ∧ (3#14 : Ep) = x.cfg.dbEp ∧ (4#14 : Ep) ≠ x.cfg.dbEp ∧
      bellOk 0x10000000F#64 x.sqSize x.cqSize x.cqHead x.cqNext = true ∧ bellOk 0x100000010#64 x.sqSize x.cqSize x.cqHead x.cqNext = false) ∧
    (∃ x ∈ (bells false).qp 0, isPl 32 = true ∧ plPort x.cfg.port = 32 ∧ x.cfg.dbFabric = false ∧ 0x1000 % 4096 = 0) :=
  ⟨by decide, ⟨{ qpair [] with cfg := { cfg5 with dbFabric := true, dbEp := 3#14 } }, by decide +kernel⟩,
   ⟨{ qpair [] with cfg := { cfg5 with dbFabric := false, dbEp := 3#14 } }, by decide +kernel⟩⟩

def xfer0 (write mcast : Bool) (count settled age : Nat) : OpenXfer :=
  { id := 0, port := 0, tag := 0#12, tenant := 5#10, isWrite := write, mcast := mcast, count := count, pktCount := some 2, settled := settled,
    status := 0#8, addr := BitVec.ofNat 64 fga0, bytes := 4096, age := age }

def moving (write mcast : Bool) (count settled age : Nat) : State :=
  { asking 0x80#8 false 0 0 with rtr := { (asking 0x80#8 false 0 0).rtr with xfers := [(3 * 65536, xfer0 write mcast count settled age)] } }

theorem witness_RequestsAnswersAndTimers_4 :
    (tget (dev .plain).rtr.xfers ((3#14).toNat * 65536 + (0#16).toNat) = none) ∧
    (∀ w m, tget (moving w m 2 2 0).rtr.xfers ((3#14).toNat * 65536 + (0#16).toNat) = some (xfer0 w m 2 2 0) ∧
      (xfer0 w m 2 2 0).pktCount = some (xfer0 w m 2 2 0).count ∧ (xfer0 w m 2 2 0).settled = (xfer0 w m 2 2 0).count ∧
      (xfer0 w m 1 1 0).pktCount ≠ some (xfer0 w m 1 1 0).count ∧ (xfer0 w m 2 1 0).settled ≠ (xfer0 w m 2 1 0).count) ∧
    (moving false false 2 2 0).findReq 3#14 0#12 none 0 = some (0, req0 0x80#8 false 0 0) ∧
    (xfer0 true false 1 1 7).age < Rtr.reset.xferTimeout.toNat ∧ Rtr.reset.xferTimeout.toNat ≤ (xfer0 true false 1 1 255).age := by decide +kernel

theorem witness_RequestsAnswersAndTimers_5 :
    (∀ o ∈ [0x80#8, 0x04#8], tget (asking o false 255 0).rtr.reqs 0 = some (req0 o false 255 0) ∧ (req0 o false 255 0).bulk = false ∧
      Rtr.reset.timeout.toNat ≤ (req0 o false 255 0).age ∧ (req0 o false 255 0).retries < Rtr.reset.retryMax.toNat) ∧
    (req0 0x80#8 false 0 0).age < Rtr.reset.timeout.toNat ∧ (req0 0x81#8 true 255 0).bulk = true ∧
    (req0 0x81#8 false 255 0).bulk = false ∧ Rtr.reset.retryMax.toNat ≤ (req0 0x80#8 false 255 15).retries := by decide +kernel

def emptyRtr (f : Rtr → Rtr) : State := { dev .plain with rtr := f { Rtr.reset with nodeId := 1#14 } }

theorem witness_RouterTablesAreWritten_1 (e : W32) :
    1024 < (List.replicate 1025 e).length ∧ (0xF8000000#32 : W32).extractLsb' 27 5 ≠ 0#5 ∧ (¬ ∃ x, x ∈ [0x01100000#32] ∧ x.extractLsb' 27 5 ≠ 0#5) ∧ 16384 < (0x3FFF#16).toNat + [e, e].length ∧ [e] ≠ [] ∧ [e].length ≤ 1024 ∧
    (0x3FFF#16).toNat + [e].length ≤ 16384 ∧ (emptyRtr id).live = true ∧ (emptyRtr id).rtr.drain = none ∧ (emptyRtr id).rtr.switch = none ∧
    keysRise (emptyRtr id).rtr.routes = true ∧ (emptyRtr (fun r => { r with drain := some 0 })).rtr.drain = some 0 ∧
    (emptyRtr (fun r => { r with switch := some 1 })).rtr.switch = some (0 + 1) ∧ (emptyRtr (fun r => { r with switch := some 0 })).rtr.switch = some 0 := by
  rw [List.length_replicate]
  exact ⟨by decide, by decide, by simp, by simp, nofun, by simp, by simp, by decide⟩

theorem witness_RouterTablesAreWritten_2 :
    (4096 ≤ (4096#16).toNat ∧ (1#48 <<< 45).extractLsb' 45 3 ≠ 0#3 ∧ (4095#16).toNat < 4096 ∧ (1#48 <<< 44).extractLsb' 45 3 = 0#3) ∧
    (∀ n ∈ [0, 1], tget (emptyRtr (fun r => { r with mcastNext := [(5, ⟨1#48, n⟩)] })).rtr.mcastNext (5#12).toNat = some ⟨1#48, n⟩) ∧
    tget (emptyRtr id).rtr.mcastNext (5#12).toNat = none := by decide

/-- A policer entry: rates 0, bursts as given. -/
def polEntry (cbs pbs : Nat) : BitVec 128 := BitVec.ofNat 128 (2 ^ 48 * cbs + 2 ^ 72 * pbs + 2 ^ 101)

theorem witness_RouterTablesAreWritten_3 :
    (polPir 1#128 < polCir 1#128 ∧ polPbs (polEntry 4144 4143) < polCbs (polEntry 4144 4143) ∧ polCbs (polEntry 4143 4143) < 4144 ∧
      (1#128 <<< 102).extractLsb' 102 26 ≠ 0#26) ∧
    (let e := polEntry 4144 4144
     polCir e ≤ polPir e ∧ polCbs e ≤ polPbs e ∧ 4144 ≤ polCbs e ∧ e.extractLsb' 102 26 = 0#26) ∧
    (∀ n ∈ [0, 1], tget (emptyRtr (fun r => { r with policersNext := [(20, ⟨polEntry 4144 4144, n⟩)] })).rtr.policersNext (policerKey 5#10 0#2) =
      some ⟨polEntry 4144 4144, n⟩) ∧ tget (emptyRtr id).rtr.policersNext (policerKey 5#10 0#2) = none := by decide

/-- A shaper entry of rate 1: burst, port, mode. -/
def shEntry (burst port mode : Nat) : BitVec 128 := BitVec.ofNat 128 (1 + 2 ^ 24 * burst + 2 ^ 48 * port + 2 ^ 66 * mode + 2 ^ 68)

theorem witness_RouterTablesAreWritten_4 :
    (shaperBurst ⟨shEntry 4143 0 0, 0⟩ < 4144 ∧ shaperRate ⟨0#128, 0⟩ = 0 ∧ (32 < shaperPort ⟨shEntry 4144 33 0, 0⟩ ∧ shaperPort ⟨shEntry 4144 33 0, 0⟩ ≠ 63) ∧
      (shEntry 4144 0 3).extractLsb' 66 2 = 3#2 ∧ (1#128 <<< 69).extractLsb' 69 59 ≠ 0#59) ∧
    (∀ port ∈ [32, 63], ∀ mode ∈ [0, 1, 2], let x : Shaper := ⟨shEntry 4144 port mode, 0⟩
      ¬ (8192 ≤ (8191#16).toNat ∨ shaperBurst x < 4144 ∨ shaperRate x = 0 ∨ (32 < shaperPort x ∧ shaperPort x ≠ 63) ∨
        x.entry.extractLsb' 66 2 = 3#2 ∨ x.entry.extractLsb' 69 59 ≠ 0#59) ∧ x.entry.extractLsb' 66 2 = BitVec.ofNat 2 mode ∧
      (emptyRtr (fun r => { r with shapers := [(1, x)] })).rtr.shapers.any
        (fun y => y.1 != (8191#16).toNat && shaperValid y.2 && sameBinding y.2.entry x.entry) = true ∧
      (∀ n ∈ [0, 1], tget (emptyRtr (fun r => { r with shapersNext := [(1, ⟨x.entry, n⟩)] })).rtr.shapersNext (1#13).toNat = some ⟨x.entry, n⟩)) ∧
    (emptyRtr id).rtr.shapers = [] ∧ (emptyRtr id).rtr.shapersNext = [] := by decide

theorem witness_RouterTablesAreWritten_5 :
    1024 < (1025#16).toNat ∧ (1#16).toNat ≤ 1024 ∧ 16384 < (16384#16).toNat + (1#16).toNat ∧ 4096 < (4096#16).toNat + (1#16).toNat ∧
    8192 < (8192#16).toNat + (1#16).toNat ∧ (16383#16).toNat + (1#16).toNat ≤ 16384 ∧
    (4095#16).toNat + (1#16).toNat ≤ 4096 ∧ (8191#16).toNat + (1#16).toNat ≤ 8192 := by decide

/-! ### Work queues -/

def grants (n : Nat) (g : Grant) : State := { dev .plain with que := { Que.reset with grants := [(0, List.replicate n g)] } }

theorem witness_AdminCommandsRun_1 (g : Grant) :
    (2 ≤ (2#8).toNat ∧ (1#8).toNat < 2 ∧ (mget [] (dev .plain).que.grants (0#8).toNat).length < 64 ∧
      64 ≤ (mget [] (grants 64 g).que.grants (0#8).toNat).length) ∧
    ((dev .plain).live = true ∧ (dev .plain).que.takeover = none) ∧
    (∀ n, ({ dev .plain with que := { Que.reset with takeover := some (1, n) } } : State).que.takeover = some (1, n)) := by
  refine ⟨⟨by decide, by decide, by decide, ?_⟩, by decide, fun n => rfl⟩
  exact Nat.le_of_eq (List.length_replicate (n := 64) (a := g)).symm

theorem witness_AdminCommandsRun_2 :
    (∀ st ∈ [QpState.active, .error], let s : State := { dev .plain with que := { Que.reset with qps := [(0, { qpair [] with state := st })] } }
      ∃ x, s.qp 0 = some x ∧ x.cfg.port = otherPort 1 ∧ x.state = st) ∧
    (((dev .plain).admin 1).enable = false ∧ ((adm (dev .plain) 0#512).admin 0).enable = true) ∧
    bellOk 0x10000000F#64 (2 ^ (Admin.reset.sqLog.toNat)) (2 ^ (Admin.reset.cqLog.toNat)) 0 0 = true ∧
    bellOk 0x100000010#64 (2 ^ (Admin.reset.sqLog.toNat)) (2 ^ (Admin.reset.cqLog.toNat)) 0 0 = false ∧
    (dev .plain).adminHead 0 0x60#8 = none ∧ (dev .plain).adminHead 0 0x61#8 = none ∧ (dev .plain).adminHead 0 0x51#8 = none := by
  refine ⟨fun st _ => ⟨{ qpair [] with state := st }, rfl, rfl, rfl⟩, by decide⟩

/-- QP_CREATE of queue pair n for tenant 5 with a log of ring sizes. -/
def createDesc (n log asid : Nat) : Desc :=
  mkDesc 0x60 [(16, n), (18, 5), (20, 3), (23, log), (24, 4), (26, 0xFFFF), (32, asid), (36, 16)]

def space5 : State :=
  { dev .plain with xlt := { Xlt.reset with spaces := [(0, { port := 0, tenant := 5#10, mode := .sv39, requireU := false, root := 0#64, radix := none })] } }

theorem witness_AdminCommandsRun_3 :
    (adm space5 (createDesc 1 4 0)).adminHead 0 0x60#8 = some (createDesc 1 4 0) ∧
    (adm space5 (createDesc 1 4 0)).qpCreateCheck 0 (createDesc 1 4 0) = none ∧
    (adm space5 (createDesc 1 3 0)).qpCreateCheck 0 (createDesc 1 3 0) = some stBadSize ∧
    (adm space5 (createDesc 1 4 1)).qpCreateCheck 0 (createDesc 1 4 1) = some stBadAsid := by decide +kernel

def destroyDesc (n pad : Nat) : Desc := mkDesc 0x61 [(16, n), (18, pad)]
def abortDesc (all : Nat) : Desc := mkDesc 0x51 [(16, 0), (18, 7), (20, all)]

/-- Queue pair 0 of the device as given, with a command at the head of port 0's admin queue. -/
def admQp (x : QPair) (d : Desc) : State :=
  let s := adm (dev .plain) d
  { s with que := { s.que with qps := [(0, x)] } }

/-- The command stands at the head of port 0's admin queue. -/
def isHead (opc : BitVec 8) (d : Desc) : Bool := (admQp (qpair []) d).live && (admQp (qpair []) d).adminHead 0 opc == some d

theorem witness_AdminCommandsRun_4 :
    (isHead 0x61#8 (destroyDesc 0 0) ∧ isHead 0x61#8 (destroyDesc 0 1) ∧ isHead 0x61#8 (destroyDesc 4095 0) ∧ isHead 0x61#8 (destroyDesc 4096 0)) ∧
    (descClean (destroyDesc 0 1) [(16, 2)] = false ∧ descField (destroyDesc 4096 0) 16 2 = 4096 ∧ descClean (destroyDesc 0 0) [(16, 2)] = true ∧
      descClean (destroyDesc 4095 0) [(16, 2)] = true ∧ descField (destroyDesc 4095 0) 16 2 < 4096) ∧
    ((admQp (qpair []) (destroyDesc 4095 0)).qp (descQp (destroyDesc 4095 0)) = none ∧
      (admQp (qpair []) (destroyDesc 0 0)).qp (descQp (destroyDesc 0 0)) = some (qpair []) ∧ (qpair []).state ≠ .draining) := by decide +kernel

/-- Queue pair 0 drains, and nothing of it is left. -/
def drained0 (l : List (PlPort × BitVec 16 × Bool)) : QPair := { qpair [] with state := .draining, destroyers := l }

theorem witness_AdminCommandsRun_5 :
    (let s := admQp (drained0 [(0, 0#16, false)]) (destroyDesc 0 0)
     s.live = true ∧ s.qp 0 = some (drained0 [(0, 0#16, false)]) ∧ s.ras.verdicts.any (fun v => v.2.qp == 0) = false ∧
       (drained0 [(0, 0#16, false)]).recs = [] ∧ (drained0 [(0, 0#16, false)]).unacked = 0 ∧ (s.admin 0).held = destroyDesc 0 0 :: []) ∧
    (qpair []).state ≠ .draining := by decide +kernel

def wait0 : VerdictWait :=
  { qp := 0, csn := 1#48, opcode := 0x30#8, tenant := 5#10, slot := 0#32, tf := none, cause := none, issued := false, cmdId := 7#16, intr := false, strict := false,
    record := none }

theorem witness_AdminCommandsRun_6 :
    (isHead 0x51#8 (abortDesc 0) ∧ isHead 0x51#8 (abortDesc 1) ∧ isHead 0x51#8 (abortDesc 2)) ∧
    ((descClean (abortDesc 0) [(16, 2), (18, 2), (20, 1)] && decide (descField (abortDesc 0) 16 2 < 4096) && decide (descField (abortDesc 0) 20 1 ≤ 1)) = true ∧
      (descClean (abortDesc 2) [(16, 2), (18, 2), (20, 1)] && decide (descField (abortDesc 2) 16 2 < 4096) && decide (descField (abortDesc 2) 20 1 ≤ 1)) = false) ∧
    ((admQp (qpair []) (abortDesc 0)).fetchedAll { qpair [] with sqTail := 1 } = false ∧ (admQp (qpair []) (abortDesc 0)).fetchedAll (qpair []) = true) ∧
    (dev .plain).qp (descQp (abortDesc 0)) = none ∧
    (let x := qpair [(0, held0 (mkDesc 0x50 [(2, 8)]))]
     ∀ e, e ∈ x.held → ((abortDesc 0).getLsbD 160 || descField e.2.desc 2 2 == descField (abortDesc 0) 18 2) = false) ∧
    (let x := qpair [(0, { held0 (mkDesc 0x50 [(2, 7)]) with done := true })]
     (∃ e, e ∈ x.held ∧ ((abortDesc 0).getLsbD 160 || descField e.2.desc 2 2 == descField (abortDesc 0) 18 2) = true) ∧
     ∀ e, e ∈ x.held → e.2.done = true) := by
  refine ⟨by decide +kernel, by decide +kernel, by decide +kernel, by decide +kernel, by decide +kernel,
    ⟨(0, { held0 (mkDesc 0x50 [(2, 7)]) with done := true }), by decide +kernel⟩, by decide +kernel⟩

/-- The FENCE stands alone in queue pair 0. -/
def fenceNext (d : Desc) : Bool :=
  (next (dev .plain) d).live && (next (dev .plain) d).nextIs 0 0 0x50#8 == some (qpair [(0, held0 d)], held0 d) &&
    tget (qpair [(0, held0 d)]).held 0 == some (held0 d) && !(qpair [(0, held0 d)]).drops &&
    !(qpair [(0, held0 d)]).held.any (fun e => decide (e.1 < 0))

theorem witness_QueuesFetchAndWrite_1 :
    (fenceNext (mkDesc 0x50 []) ∧ fenceNext (mkDesc 0x50 [(16, 1)]) ∧ fenceNext (mkDesc 0x50 [(16, 2)])) ∧
    (descField (mkDesc 0x50 [(16, 2)]) 16 1 = 2 ∧ descClean (mkDesc 0x50 [(16, 1)]) [(16, 1)] = true ∧ (mkDesc 0x50 [(16, 1)]).getLsbD 128 = true ∧
      (mkDesc 0x50 []).getLsbD 128 = false ∧ descClean (mkDesc 0x50 []) [(16, 1)] = true) ∧
    ({ next (dev .plain) (mkDesc 0x50 [(16, 1)]) with ras := { Ras.reset with verdicts := [(0, wait0)] } } : State).ras.verdicts.any
      (fun v => v.2.qp == 0) = true := by decide +kernel

/-- Queue pair 0 of address space 0, with one descriptor to fetch, its rings in host memory or in the pool. -/
def ringCfg (pool : Bool) : QpCfg :=
  { cfg5 with ringPool := pool, sqAddr := if pool then BitVec.ofNat 64 fga0 else 0#64, cqAddr := if pool then BitVec.ofNat 64 (fga0 + 4096) else 0#64 }
def oneWaits (pool : Bool) : QPair := { qpair [] with cfg := ringCfg pool, sqTail := 1 }

/-- The device with such a queue pair, granted by the fetch arbiter; its host page is translated. -/
def fetching (x : QPair) (hit : Bool) : State :=
  let s := (dev .plain).setArbiter .fetch { Arbiter.idle with granted := some 0 }
  { s with que := { Que.reset with qps := [(0, x)] },
                    xlt := { Xlt.reset with queueTlb := if hit then [⟨0#20, 0, 12, 5, true, true, true⟩] else [] } }

/-- The same when the fetch has spent the grant. -/
def ungranted (x : QPair) (hit : Bool) : State :=
  let s := fetching x hit; s.quiet.setArbiter .fetch { s.arbiter .fetch with granted := none }

theorem witness_QueuesFetchAndWrite_2 :
    (∀ pool, let x := oneWaits pool
      (fetching x true).live = true ∧ (fetching x true).qp 0 = some x ∧ ((fetching x true).arbiter .fetch).granted = some (0 : Qp).val ∧ (fetching x true).plt.phase = .ready ∧ x.state = .active ∧ x.fetch ≠ x.sqTail ∧
        x.held.length < x.cfg.maxInflight ∧ (fetching x true).storeHeld < storeSlots ∧ (fetching x true).tenantGone x.cfg.tenant = false) ∧
    ((qpair []).fetch = (qpair []).sqTail) ∧ ((dev .plain).arbiter .fetch).granted = none ∧
    ((ungranted (oneWaits false) true).xltSet none 0#20 [0] false (.ring 0)).1 = true ∧
    ((ungranted (oneWaits false) false).xltSet none 0#20 [0] false (.ring 0)).1 = false ∧
    (ungranted (oneWaits true) true).poolBusy (accRead 3#14 []) (BitVec.ofNat 64 fga0) 64 = false ∧
    (busyLine (agents false) .snooping []).poolBusy (accRead 3#14 []) (BitVec.ofNat 64 fga0) 64 = true ∧
    (match (ungranted (oneWaits true) true).readPool (accRead 3#14 []) 5#10 (BitVec.ofNat 64 fga0) 64 noIo with
     | (.ok x, _) => x == (List.replicate 64 0#8, [false])
     | _ => false) = true ∧
    (match (ungranted (oneWaits true) true).readPool (accRead 4#14 []) 5#10 (BitVec.ofNat 64 fga0) 64 noIo with
     | (.error st, _) => st == stDenied
     | _ => false) = true := by decide +kernel

theorem witness_QueuesFetchAndWrite_3 :
    queueOpcodes.contains (descOpc (mkDesc 0x50 [])) = true ∧ adminOpcodes.contains (descOpc (createDesc 1 4 0)) = true ∧
    (let s : State := { dev .plain with que := { Que.reset with admin := [(0, { Admin.reset with enable := true, sqTail := 1 })] } }
     s.plt.phase = .ready ∧ (s.admin 0).enable = true ∧ 0 = s.que.active ∧ (s.admin 0).fetch ≠ (s.admin 0).sqTail ∧ (s.admin 0).held.length < 4) ∧
    ((dev .plain).admin 1).enable = false := by decide +kernel

def rec0 : Rec :=
  { value := 0#64, csn := 1#48, tileStatus := 0#16, cmdId := 7#16, status := 0#8, outcome := none, cause := none, verdict := false, held := some 0,
    intr := true }

theorem witness_QueuesFetchAndWrite_4 :
    (∀ pool, let x : QPair := { oneWaits pool with recs := [rec0] }
      (fetching x true).qp 0 = some x ∧ x.recs = rec0 :: [] ∧ (x.cqNext + 1) % x.cqSize ≠ x.cqHead) ∧
    ((({ qpair [] with recs := [rec0], cqHead := 1 } : QPair).cqNext + 1) % (qpair []).cqSize = 1 ∧ (qpair []).recs = []) ∧
    (let s := fetching { oneWaits false with recs := [rec0] } true
     (s.quiet.xltSet none 0#20 [0] true (.record 0)).1 = true ∧
     (s.quiet.xltSet none 0#20 [0] true (.record 0)).2.xltNow none 0#20 0 true = some 20480 ∧
     (s.quiet.xltSet none 0#20 [0] true (.record 0)).2.qp 0 = some { oneWaits false with recs := [rec0] }) ∧
    ((fetching { oneWaits false with recs := [rec0] } false).quiet.xltSet none 0#20 [0] true (.record 0)).1 = false ∧
    (let s := fetching { oneWaits true with recs := [rec0] } true
     s.poolBusy (accWrite 3#14 []) (BitVec.ofNat 64 (fga0 + 4096)) 32 = false ∧
     (match s.quiet.writePool (accWrite 3#14 []) 5#10 (BitVec.ofNat 64 (fga0 + 4096)) (recordBytes rec0 0 0 true) [] noIo with
      | (.ok (), s1) => s1.qp 0 == some { oneWaits true with recs := [rec0] }
      | _ => false) = true ∧
     (match s.quiet.writePool (accWrite 4#14 []) 5#10 (BitVec.ofNat 64 (fga0 + 4096)) (recordBytes rec0 0 0 true) [] noIo with
      | (.error st, _) => st == stDenied
      | _ => false) = true) := by decide +kernel

theorem witness_QueuesFetchAndWrite_5 :
    (let s : State := { dev .plain with que := { Que.reset with admin := [(0, { Admin.reset with enable := true, recs := [rec0] })] } }
     (s.admin 0).recs = rec0 :: [] ∧ ¬ (((s.admin 0).cqNext + 1) % 2 ^ (s.admin 0).cqLog.toNat = (s.admin 0).cqHead ∨ 0 ≠ s.que.active)) ∧
    ((dev .plain).admin 0).recs = [] ∧ (1 : PlPort) ≠ (dev .plain).que.active ∧
    (∀ age ∈ [7, 8], ∀ unacked ∈ [0, 1], let x : QPair := { qpair [] with cfg := { cfg5 with coalTicks := 8 }, coalAge := some age, unacked := unacked }
      (fetching x true).qp 0 = some x ∧ x.coalAge = some age ∧ x.cfg.coalTicks ≠ 0 ∧ (age = 7 → age < x.cfg.coalTicks) ∧ (age = 8 → x.cfg.coalTicks ≤ age)) ∧
    cfg5.coalTicks = 0 := by decide +kernel

/-! ### Address translation -/

/-- A command on port 0's admin queue of the device with address space 0. -/
def admSpace (d : Desc) : State := adm space5 d
def spaceHead (opc : BitVec 8) (d : Desc) : Bool := (admSpace d).live && (admSpace d).adminHead 0 opc == some d

def asDesc (opc asid : Nat) (fs : List (Nat × Nat)) : Desc := mkDesc opc ((16, asid) :: fs)

theorem witness_SpacesAndInvalidation_1 :
    ((dev .plain).adminHead 0 0x70#8 = none ∧ (dev .plain).adminHead 1 0x71#8 = none ∧ (dev .plain).adminHead 0 0x72#8 = none ∧
      (dev .plain).adminHead 0 0x73#8 = none) ∧
    (spaceHead 0x70#8 (asDesc 0x70 1 [(20, 5)]) ∧ spaceHead 0x71#8 (asDesc 0x71 0 [(24, 4096)]) ∧ spaceHead 0x72#8 (asDesc 0x72 0 []) ∧
      spaceHead 0x73#8 (asDesc 0x73 0 [(20, 1)])) ∧
    (match (admSpace (asDesc 0x70 1 [(20, 5)])).asCreateCheck 0 (asDesc 0x70 1 [(20, 5)]) with
     | .ok a => a.tenant == 5#10 && a.mode == .sv39
     | .error _ => false) = true ∧
    (match (admSpace (asDesc 0x70 0 [(20, 5)])).asCreateCheck 0 (asDesc 0x70 0 [(20, 5)]) with
     | .ok _ => false
     | .error st => st == stAsBusy) = true := by decide +kernel

theorem witness_SpacesAndInvalidation_2 :
    ((descClean (asDesc 0x71 0 [(24, 4096)]) [(16, 4), (24, 8)] && decide (descField (asDesc 0x71 0 [(24, 4096)]) 16 4 < 2 ^ 20)) = true ∧
      (descClean (asDesc 0x71 (2 ^ 20) []) [(16, 4), (24, 8)] && decide (descField (asDesc 0x71 (2 ^ 20) []) 16 4 < 2 ^ 20)) = false ∧
      (descClean (asDesc 0x72 (2 ^ 20 - 1) []) [(16, 4)] && decide (descField (asDesc 0x72 (2 ^ 20 - 1) []) 16 4 < 2 ^ 20)) = true ∧
      (descClean (asDesc 0x72 0 [(20, 1)]) [(16, 4)]) = false) ∧
    ((space5.ownSpace 0 (descAsid (asDesc 0x71 0 []))).isSome = true ∧ space5.ownSpace 1 (descAsid (asDesc 0x71 0 [])) = none ∧
      space5.ownSpace 0 (descAsid (asDesc 0x72 1 [])) = none) ∧
    (rootAligned none 4096#64 = true ∧ rootAligned none 4095#64 = false) ∧
    (space5.que.qps.any (fun q => q.2.cfg.asid == 0#20) = false ∧ space5.xlt.waiting = [] ∧
      (fetching (oneWaits false) true).que.qps.any (fun q => q.2.cfg.asid == 0#20) = true) := by decide +kernel

/-- What INVAL asks of its descriptor. -/
def invalClean (d : Desc) : Bool :=
  descClean d [(16, 4), (20, 1), (24, 8), (32, 8)] && decide (descField d 16 4 < 2 ^ 20) && decide (descField d 20 1 ≤ 1) &&
    (!d.getLsbD 160 || (descField d 24 8 == 0 && descField d 32 8 == 0))

theorem witness_SpacesAndInvalidation_3 :
    (invalClean (asDesc 0x73 0 [(20, 1)]) = true ∧ (asDesc 0x73 0 [(20, 1)]).getLsbD 160 = true ∧ invalClean (asDesc 0x73 0 [(20, 1), (32, 1)]) = false) ∧
    (invalClean (asDesc 0x73 0 []) = true ∧ descField (asDesc 0x73 0 []) 32 8 = 0 ∧ (asDesc 0x73 0 []).getLsbD 160 = false) ∧
    (invalClean (asDesc 0x73 0 [(32, 4095)]) = true ∧ descField (asDesc 0x73 0 [(32, 4095)]) 32 8 % 4096 ≠ 0) ∧
    (invalClean (asDesc 0x73 0 [(24, 4096), (32, 4096)]) = true ∧ descField (asDesc 0x73 0 [(24, 4096), (32, 4096)]) 32 8 ≠ 0 ∧
      descField (asDesc 0x73 0 [(24, 4096), (32, 4096)]) 24 8 % 4096 = 0 ∧ descField (asDesc 0x73 0 [(24, 4096), (32, 4096)]) 32 8 % 4096 = 0) := by
  decide +kernel

/-- An invalidation that engines still have to acknowledge, and a request of the queue engine's that is in flight. -/
def inv0 (left : List Nat) (drain : List (Nat × Nat)) : Inval := ⟨0, 0#20, left, drain⟩
def invalDev (left : List Nat) (drain : List (Nat × Nat)) : State :=
  let s := adm (asking 0x80#8 false 0 0) (mkDesc 0x73 [])
  { s with xlt := { Xlt.reset with invals := [inv0 left drain] } }

theorem witness_SpacesAndInvalidation_4 :
    ((invalDev [0, 64] []).live = true ∧ (invalDev [0, 64] []).xlt.invals.find? (fun v => v.left.contains (invalEngineIx .queue)) = some (inv0 [0, 64] []) ∧
      (invalDev [0, 64] []).xlt.invals.find? (fun v => v.left.contains (invalEngineIx (.block 63))) = none ∧
      ([0, 64] : List Nat).erase (invalEngineIx .queue) ≠ [] ∧ ([64] : List Nat) = [invalEngineIx .queue]) ∧
    ((inv0 [64] [(0, 64)]).drain.any (fun k => k.2 == invalEngineIx .queue && (tget (invalDev [64] [(0, 64)]).rtr.reqs k.1).isSome) = true ∧
      (inv0 [64] [(1, 64)]).drain.any (fun k => k.2 == invalEngineIx .queue && (tget (invalDev [64] [(1, 64)]).rtr.reqs k.1).isSome) = false ∧
      ((invalDev [64] []).admin (inv0 [64] []).port).held ≠ []) := by decide +kernel

/-- A walk of address space 0 at a level, for the queue engine. -/
def walk0 (lvl : Nat) (stale pre : Bool) : Walk :=
  { asid := 0#20, va := 0, write := false, prefetch := pre, level := lvl, pa := 0, units := [.ring 0], block := none, stale := stale }
def walking (lvl : Nat) (stale pre : Bool) : State :=
  { space5 with xlt := { space5.xlt with walks := [(0, walk0 lvl stale pre)] },
                rtr := { space5.rtr with reqs := [(0, { req0 0x80#8 false 0 0 with owner := .walk 0 })] } }

def sv39 : AddrSpace := { port := 0, tenant := 5#10, mode := .sv39, requireU := false, root := 0#64, radix := none }
def sv57u : AddrSpace := { sv39 with mode := .sv57, requireU := true }

theorem witness_WalksAndFaults_1 :
    ((walking 0 false false).live = true ∧ ((walking 0 false false).rtr.reqs.find? (fun e => e.2.sent && e.2.owner == .walk 0)).isSome = true ∧
      (walking 0 false false).rtr.reqs.find? (fun e => e.2.sent && e.2.owner == .walk 1) = none) ∧
    (∀ stale pre, tget (walking 0 stale pre).xlt.walks 0 = some (walk0 0 stale pre) ∧ (walking 0 stale pre).space (walk0 0 stale pre).asid = some sv39) ∧
    (walking 0 false false).xlt.waiting = [] ∧ (∀ x n lc b, x ∈ (walk0 0 false false).units → x ≠ .copySet n lc b) := by
  refine ⟨by decide +kernel, by decide +kernel, by decide, ?_⟩
  intro x n lc b h
  simp only [walk0, List.mem_singleton] at h
  subst h; nofun

theorem witness_WalksAndFaults_2 :
    sv39.readEntry 0 false 0x401#64 = .next 4096 ∧ sv39.readEntry 2 false 0x443#64 = .leaf 4096 12 true false false ∧
    sv39.readEntry 2 false 0x0#64 = .fault .notValid ∧ sv39.radix = none ∧
    (walk0 0 false false).units ≠ [] ∧ (walk0 0 false false).units.all (fun x => x.writes == (walk0 0 false false).write) = true := by decide +kernel

theorem witness_WalksAndFaults_3 :
    -- not valid; unsound three ways; no leaf: refused four ways, and a pointer
    ((0x0#64).getLsbD 0 = false ∧ (0x8000000000000001#64).getLsbD 63 = true ∧ (0x0040000000000001#64).extractLsb' 54 7 ≠ 0#7 ∧
      (0x5#64).getLsbD 2 = true ∧ (0x5#64).getLsbD 1 = false) ∧
    ([0x11#64, 0x41#64, 0x81#64, 0x1#64].all (fun e => e.getLsbD 0 && !e.getLsbD 63 && e.extractLsb' 54 7 == 0#7 && !e.getLsbD 1 && !e.getLsbD 2 &&
      !e.getLsbD 3)) = true ∧
    (2 + 1 = svLevels .sv39 ∧ 1 + 1 ≠ svLevels .sv39) := by decide +kernel

theorem witness_WalksAndFaults_3b :
    -- a leaf too high, a leaf of a misaligned page, leaves in their places
    (30 < sv57u.lo 0 ∧ sv39.lo 1 = 21 ∧ 1 % 2 ^ 9 ≠ 0 ∧ sv39.lo 0 ≤ 30 ∧ 0 % 2 ^ 18 = 0) ∧
    (sv57u.requireU = true ∧ (0x43#64).getLsbD 4 = false ∧ (0x53#64).getLsbD 4 = true ∧ sv57u.lo 4 ≤ 30 ∧ sv39.requireU = false) ∧
    ((0x49#64).getLsbD 1 = false ∧ (0x49#64).getLsbD 3 = true ∧ (0x43#64).getLsbD 1 = true ∧ (0x43#64).getLsbD 2 = false ∧ (0x3#64).getLsbD 6 = false ∧
      (0x47#64).getLsbD 7 = false ∧ (0xC7#64).getLsbD 6 = true ∧ (0xC7#64).getLsbD 7 = true ∧ (0xC7#64).getLsbD 2 = true) := by decide

def ringDesc (addr log vec : Nat) : Desc := mkDesc 0x74 [(16, addr), (24, log), (26, vec)]
def respDesc (id v : Nat) : Desc := mkDesc 0x75 [(16, id), (18, v)]

def fault0 (written : Bool) : FaultEntry :=
  { id := 9#16, asid := 0#20, page := 0, write := false, units := [.ring 0], record := List.replicate 32 0#8, port := 0, written := written }

/-- The device with a fault of queue pair 0's ring, and port 0's fault ring as given. -/
def faulted (r : FaultRing) (written : Bool) : State :=
  { fetching (oneWaits false) false with xlt := { space5.xlt with faults := [fault0 written], rings := [(0, r)] } }
def ring16 : FaultRing := { FaultRing.reset with addr := some 0#64 }

theorem witness_WalksAndFaults_4 :
    ((dev .plain).adminHead 0 0x74#8 = none ∧ (dev .plain).adminHead 0 0x75#8 = none ∧ spaceHead 0x74#8 (ringDesc 0 4 0xFFFF) ∧ spaceHead 0x75#8 (respDesc 9 0)) ∧
    (descClean (ringDesc 0 4 2047) [(16, 8), (24, 1), (26, 2)] = true ∧ descField (ringDesc 0 4 2047) 26 2 < 2 ^ 11 ∧
      descField (ringDesc 0 4 2048) 26 2 = 2 ^ 11 ∧ descField (ringDesc 0 4 0xFFFF) 26 2 = 0xFFFF ∧ descField (ringDesc 0 3 0) 24 1 < 4 ∧
      12 < descField (ringDesc 0 13 0) 24 1 ∧ descField (ringDesc 0 12 0) 24 1 ≤ 12 ∧ 4 ≤ descField (ringDesc 0 4 0) 24 1) ∧
    (((ringDesc 4095 4 0).extractLsb' 128 64).toNat % 4096 ≠ 0 ∧ ((ringDesc 4096 4 0).extractLsb' 128 64).toNat % 4096 = 0) ∧
    ((faulted ring16 false).xlt.faults.any (fun f => f.port == 0) = true ∧ (dev .plain).xlt.faults.any (fun f => f.port == 0) = false) := by decide +kernel

theorem witness_WalksAndFaults_5 :
    (let s := faulted ring16 false
     s.live = true ∧ s.xlt.faults.find? (fun f => f.port == 0 && !f.written) = some (fault0 false) ∧ (mget FaultRing.reset s.xlt.rings 0).addr = some 0#64 ∧
      ¬ ((ring16.next + 1) % 2 ^ ring16.log = ring16.head.toNat ∨ 0 ≠ s.que.active)) ∧
    ((faulted ring16 true).xlt.faults.find? (fun f => f.port == 0 && !f.written) = none ∧ (faulted FaultRing.reset false).xlt.rings.length = 1 ∧
      FaultRing.reset.addr = none ∧ (let r := { ring16 with head := 1#12 }; (r.next + 1) % 2 ^ r.log = r.head.toNat)) ∧
    (descClean (respDesc 9 1) [(16, 2), (18, 1)] = true ∧ descField (respDesc 9 1) 18 1 = 1 ∧ descField (respDesc 9 0) 18 1 = 0 ∧
      descField (respDesc 9 2) 18 1 = 2 ∧ (faulted ring16 true).xlt.faults.find? (fun f => f.id.toNat == descField (respDesc 9 1) 16 2) = some (fault0 true) ∧
      (faulted ring16 true).xlt.faults.find? (fun f => f.id.toNat == descField (respDesc 8 1) 16 2) = none) ∧
    ((faulted ring16 true).xlt.tableWaiters = [] ∧ (fault0 true).units = [.ring 0] ∧ (faulted ring16 true).qp 0 = some (oneWaits false) ∧
      (oneWaits false).state = .active ∧ (faulted ring16 true).xlt.faults.find? (fun f => f.id == 8#16) = none) := by decide +kernel

/-! ### Security -/

/-- An open session. -/
def sess0 (k : SessKind) : Session :=
  { kind := k, isOpen := true, transcript := [], shared := [], certs := [], keyIn := [], keyOut := [], seqIn := 1, seqOut := 1, last := none,
    port := some 0, update := none }

/-- A message of a command, unprotected or in session 1. -/
def msg0 (cmd : Nat) (prot : Bool) (body : List Byte) : SecMsg :=
  { port := some 0, src := 0#64, cmd := BitVec.ofNat 8 cmd, prot := prot, sess := 1, seq := 0, body := body, started := false }

/-- Headland with a message, its sessions as given. -/
def headDev (x : Sec) (m : SecMsg) : State := { dev .plain with sec := { x with msgs := [m] } }
def taken (s : State) : State := { s.quiet with sec := { s.sec with msgs := s.sec.msgs.eraseIdx 0 } }
def inSess (k : SessKind) : Sec := { Sec.reset with sessions := [(1, sess0 k)] }

/-- A waiting message is served whatever Headland holds, in a ready device. -/
theorem headDev_serves (x : Sec) (m : SecMsg) (h : m.started = false) : (headDev x m).serves 0 m.cmd.toNat m (taken (headDev x m)) :=
  ⟨⟨rfl, rfl, rfl, h, rfl⟩, rfl⟩

theorem fromOperator_dev (cmd : Nat) (b : List Byte) : (taken (headDev (inSess .operator) (msg0 cmd true b))).fromOperator (msg0 cmd true b) (sess0 .operator) :=
  ⟨rfl, rfl⟩

theorem fromTenant_dev (t : Tenant) (cmd : Nat) (b : List Byte) :
    (taken (headDev (inSess (.tenant t)) (msg0 cmd true b))).fromTenant (msg0 cmd true b) t := ⟨sess0 (.tenant t), rfl, rfl⟩

/-- Unprotected messages come in no session. -/
theorem unprotected_dev (x : Sec) (cmd : Nat) (b : List Byte) :
    (∀ y, ¬ (taken (headDev x (msg0 cmd false b))).fromOperator (msg0 cmd false b) y) ∧
    (∀ t, ¬ (taken (headDev x (msg0 cmd false b))).fromTenant (msg0 cmd false b) t) :=
  ⟨fun _ h => (nomatch h.1), fun _ h => h.elim (fun _ h => (nomatch h.1))⟩

/-- Each kind of session is not the other. -/
theorem otherKind_dev (t : Tenant) (cmd : Nat) (b : List Byte) :
    (∀ y, ¬ (taken (headDev (inSess (.tenant t)) (msg0 cmd true b))).fromOperator (msg0 cmd true b) y) ∧
    (∀ v, ¬ (taken (headDev (inSess .operator) (msg0 cmd true b))).fromTenant (msg0 cmd true b) v) := by
  refine ⟨fun y h => ?_, fun v h => ?_⟩
  · obtain ⟨h1, h2⟩ := h
    have e : sess0 (.tenant t) = y := Option.some.inj h1
    subst e; cases h2
  · obtain ⟨y, h1, h2⟩ := h
    have e : sess0 .operator = y := Option.some.inj h1
    subst e; cases h2

def mboxDev (busy asked : Bool) : State :=
  { dev .plain with sec := { Sec.reset with mboxes := [(0, { Mbox.reset with busy := busy, asked := asked, reqLen := 16#15 })] } }
def inRom : State := { dev .plain with plt := { Plt.reset with phase := .downloadWait } }

theorem witness_HeadlandTakesMessages_1 (b : Byte) :
    ((mboxDev true false).awake = true ∧ ((mboxDev true false).mbox 0).busy = true ∧ ((mboxDev true false).mbox 0).asked = false ∧
      ((mboxDev true true).mbox 0).asked = true ∧ ((mboxDev false false).mbox 0).busy = false ∧ (mboxDev false false).windowsServed = true ∧
      inRom.windowsServed = false) ∧
    ((dev .plain).sec.frags.find? (fun f => f.src == 0#64 && f.msgNo == 0#32) = none ∧ (0#16).toNat < (1#16).toNat ∧ (1#16).toNat ≤ (1#16).toNat ∧
      1400 < (List.replicate 1401 b).length ∧ (List.replicate 1400 b).length ≤ 1400 ∧
      (tput ([] : SMap (List Byte)) 0 [b]).length < (2#16).toNat ∧ (1#16).toNat ≤ (tput ([] : SMap (List Byte)) 0 [b]).length) ∧
    (({ dev .plain with sec := { Sec.reset with frags := [⟨0#64, 0#32, 3, []⟩] } } : State).sec.frags.find? (fun f => f.src == 0#64 && f.msgNo == 0#32) =
      some ⟨0#64, 0#32, 3, []⟩ ∧ 3 ≠ (1#16).toNat) := by
  refine ⟨by decide, ⟨rfl, by decide, by decide, ?_, ?_, ?_, ?_⟩, by decide⟩
  · rw [List.length_replicate]; decide
  · rw [List.length_replicate]
  · exact Nat.lt_of_le_of_lt (Nat.le_of_eq (by rfl : _ = 1)) (by decide)
  · exact Nat.le_of_eq (by rfl)

/-- A message's bytes: GET_CERTS unprotected, or in session 1 under a sequence number. -/
def bytesPlain : List Byte := headHeader 0x01 0 false 20 0 0 ++ [0, 0, 0, 0]
def bytesProt (seq : Nat) : List Byte := headHeader 0x01 0 true 36 1 seq ++ List.replicate 20 0#8

theorem witness_HeadlandTakesMessages_2 :
    (headWellFormed [] = false ∧ headWellFormed bytesPlain = true ∧ (fieldAt bytesPlain 3 1 == 1) = false) ∧
    (∀ n ∈ [0, 1, 2], headWellFormed (bytesProt n) = true ∧ (fieldAt (bytesProt n) 3 1 == 1) = true ∧ fieldAt (bytesProt n) 8 4 = 1 ∧
      fieldAt (bytesProt n) 12 4 = n) ∧
    ((dev .plain).session 1 = none ∧ ({ sess0 .operator with isOpen := false } : Session).isOpen = false) ∧
    ((sess0 .operator).isOpen = true ∧ 0 + 1 = (sess0 .operator).seqIn ∧ (sess0 .operator).seqOut = (sess0 .operator).seqIn ∧
      2 + 1 ≠ (sess0 .operator).seqIn ∧ 2 ≠ (sess0 .operator).seqIn ∧ 1 = (sess0 .operator).seqIn) := by decide +kernel

theorem witness_HeadlandTakesMessages_3 :
    ((.getCerts, 0x01) ∈ openRows ++ operatorRows ++ tenantRows ∧ (.tenantBind, 0x21) ∈ operatorRows ∧ (.keyInstall, 0x30) ∈ tenantRows) ∧
    ((dev .plain).sec.msgs[0]? = none) ∧ ((msg0 0x02 false []).started = false ∧ (msg0 0x02 false []).cmd.toNat ≠ 0x01) ∧
    (let s : State := { headDev Sec.reset (msg0 0x21 false []) with plt := { Plt.reset with phase := .recovery } }
     s.takes 0 0x21 (msg0 0x21 false []) { s.quiet with sec := { s.sec with msgs := s.sec.msgs.eraseIdx 0 } } ∧ s.headGate 0x21 = some secRecovery) ∧
    ((sess0 .operator).seqOut + 2 < 2 ^ 32 ∧ ({ sess0 .operator with seqOut := 2 ^ 32 - 2 } : Session).seqOut + 2 = 2 ^ 32) :=
  ⟨⟨by simp [openRows], by simp [operatorRows], by simp [tenantRows]⟩, by decide, by decide, ⟨⟨rfl, rfl, rfl, rfl, rfl⟩, by decide⟩, by decide⟩

/-- SESSION_OPEN's body for an operator or a tenant, its client key as given. -/
def openBody (op : Bool) (key : List Byte) : List Byte := (if op then [1, 0, 0xFF, 0xFF, 0, 0, 0, 0] else [2, 0, 5, 0, 0, 0, 0, 0]) ++ key

theorem witness_SessionsOpenAndAttest_1 (key : List Byte) (h : key.length = 1600) (l : SMap Session) (hl : l.length = 256) :
    (fieldAt [0#8, 0, 0, 0] 0 1 = 0 ∧ bodyZero [0#8, 0, 0, 0] 1 3 = true ∧ 2 < fieldAt [3#8, 0, 0, 0] 0 1 ∧ bodyZero [0#8, 0, 1, 0] 1 3 = false) ∧
    (∀ op, (openBody op key).length = 1608 ∧ bodyZero (openBody op key) 1 1 = true ∧ bodyZero (openBody op key) 4 4 = true) ∧
    (fieldAt (openBody true key) 0 1 = 1 ∧ fieldAt (openBody true key) 2 2 = 0xFFFF ∧ fieldAt (openBody false key) 0 1 = 2 ∧
      fieldAt (openBody false key) 2 2 < 1024) ∧
    (256 ≤ ({ Sec.reset with sessions := l } : Sec).sessions.length ∧ (taken (headDev Sec.reset (msg0 0x10 false []))).sec.sessions.length < 256) := by
  refine ⟨by decide, ?_, ?_, ?_, by decide⟩
  · intro op
    refine ⟨?_, by cases op <;> rfl, by cases op <;> rfl⟩
    rw [show (openBody op key).length = 8 + key.length by cases op <;> exact List.length_append, h]
  · simp [openBody, fieldAt, leNat]
  · exact Nat.le_of_eq hl.symm

/-- A handshake in session 1. -/
def shaking (k : SessKind) (certs : List (List Byte)) : Session := { sess0 k with isOpen := false, certs := certs }
def shakeDev (k : SessKind) (certs : List (List Byte)) (cmd : Nat) (b : List Byte) : State :=
  headDev { Sec.reset with sessions := [(1, shaking k certs)] } (msg0 cmd false b)

theorem witness_SessionsOpenAndAttest_2 (b : List Byte) :
    ((taken (headDev Sec.reset (msg0 0x13 false b))).handshake (msg0 0x13 false b) = none) ∧
    (∀ k certs, (taken (shakeDev k certs 0x13 b)).handshake (msg0 0x13 false b) = some (shaking k certs)) ∧
    ([0#8, 0, 0, 0].length = 4 + fieldAt [0#8, 0, 0, 0] 0 4 ∧ [1#8, 0, 0, 0].length ≠ 4 + fieldAt [1#8, 0, 0, 0] 0 4) ∧
    (SessKind.tenant 5#10 ≠ .operator ∧ 3 ≤ (shaking .operator [[], [], []]).certs.length ∧ (shaking .operator [[], []]).certs.length < 3) ∧
    ((taken (headDev Sec.reset (msg0 0x12 false b))).msgSession (msg0 0x12 false b) = none ∧
      (taken (headDev (inSess .operator) (msg0 0x12 true b))).msgSession (msg0 0x12 true b) = some (sess0 .operator)) :=
  ⟨rfl, fun _ _ => rfl, by decide, by decide, rfl, rfl⟩

/-- A tenant's key is the client key of its handshake; an operator's is the one its chain of certificates ends in. -/
theorem witness_SessionsOpenAndAttest_3 (key c sig : List Byte) (hc : Config.certSigned key c = true) (hk : Config.certKey c = some key)
    (h : sig.length = 4627) (good : Config.mldsaVerify key (sha3 []) sig = true) :
    (let u : State := { dev .plain with sec := { Sec.reset with tenants := [(5, { TenantRec.reset with key := some key })], root := some key } }
     u.clientKey (shaking (.tenant 5#10) []) = some key ∧ u.clientKey (shaking .operator [c]) = some key ∧ u.clientKey (shaking .operator []) = none ∧
       sig.length = 4627 ∧ Config.mldsaVerify key (sha3 (shaking .operator [c]).transcript) sig = true) := by
  refine ⟨rfl, ?_, rfl, h, good⟩
  show chainKey key [c] = some key
  simp [chainKey, hc, hk]

theorem witness_SessionsOpenAndAttest_4 (key z : List Byte) (h : key.length = 2592) (hz : z.length = 4627) (h0 : ∀ b ∈ z, b = 0#8) :
    (Sec.reset.root = none ∧ (msg0 0x20 false []).prot = false) ∧
    ((key ++ z).length = 7219 ∧ bodyZero ((key ++ z).drop 2592) 0 4627 = true) ∧ ({ inSess .operator with root := some key } : Sec).root = some key := by
  refine ⟨by decide, ⟨?_, ?_⟩, rfl⟩
  · rw [List.length_append, h, hz]
  · rw [show (key ++ z).drop 2592 = z by rw [← h, List.drop_left]]
    unfold bodyZero
    rw [List.drop_zero, List.take_of_length_le (Nat.le_of_eq hz), List.all_eq_true]
    exact fun b hb => beq_iff_eq.2 (h0 b hb)

def tenantsDev (x : TenantRec) : State := { dev .plain with sec := { Sec.reset with tenants := [(5, x)] } }

theorem witness_TenantsAndStreamKeys_1 (key : List Byte) (h : key.length = 2592) :
    (([5#8, 0, 0, 0] ++ key).length = 2596 ∧ fieldAt ([5#8, 0, 0, 0] ++ key) 0 2 < 1024 ∧ bodyZero ([5#8, 0, 0, 0] ++ key) 2 2 = true ∧
      fieldAt ([0#8, 4, 0, 0] ++ key) 0 2 = 1024 ∧ fieldAt ([0xFF#8, 3, 0, 0] ++ key) 0 2 = 1023) ∧
    (TenantRec.reset.key = none ∧ TenantRec.reset.leaving = false ∧ ({ TenantRec.reset with key := some key } : TenantRec).key.isSome = true ∧
      ({ TenantRec.reset with fenced := true } : TenantRec).leaving = true) ∧
    (dev .plain).ctr = [] ∧ ((sess0 (.tenant 6#10)).kind ≠ .operator ∧ (sess0 (.tenant 6#10)).kind ≠ .tenant 5#10) := by
  refine ⟨⟨?_, ?_, rfl, rfl, rfl⟩, ⟨rfl, rfl, rfl, rfl⟩, rfl, by decide⟩
  · simp [h]
  · show (5 : Nat) < 1024; decide

theorem witness_TenantsAndStreamKeys_2 :
    (∀ n ∈ [0, 1], ((tenantsDev { TenantRec.reset with removing := some n }).live = true ∧
      ((tenantsDev { TenantRec.reset with removing := some n }).tenant 5#10).removing = some n)) ∧
    ((tenantsDev TenantRec.reset).tenant 5#10).removing = none ∧
    ((∀ q, q ∈ (dev .plain).que.qps → q.2.cfg.tenant ≠ 5#10) ∧ keysRise (dev .plain).ext.extents = true ∧
      (dev .plain).extent 0 = some (ext5 .plain .granted none) ∧ (ext5 .plain .granted none).tenant = 5#10 ∧
      (ext5 .plain .granted none).changes.any (fun c => c.change == .revoke) = false) ∧
    (let s : State := { tenantsDev { TenantRec.reset with fenced := true } with ext := Ext.reset }
     (s.tenant 5#10).fenced = true ∧ s.fenceComplete 5#10 = true ∧ s.xlt.waiting = [] ∧ keysRise s.sec.crypto = true) ∧
    (tenantsDev { TenantRec.reset with fenced := true }).fenceComplete 5#10 = false := by
  refine ⟨by decide, by decide, ⟨nofun, by decide⟩, by decide, by decide⟩

def slotOf (st : SlotState) : KeySlot := ⟨st, [], 0⟩

theorem witness_TenantsAndStreamKeys_3 (key : List Byte) (h : key.length = 32) :
    (decide (([0#8, 0, 0, 0] ++ key).length = 36) && bodyZero ([0#8, 0, 0, 0] ++ key) 1 3) = true ∧ bodySlot ([0#8, 0, 0, 0] ++ key) = some false ∧
    bodySlot ([1#8, 0, 0, 0] ++ key) = some true ∧ bodySlot ([2#8, 0, 0, 0] ++ key) = none ∧ bodyZero ([0#8, 0, 1, 0] ++ key) 1 3 = false := by
  have e : ([0#8, 0, 0, 0] ++ key).length = 36 := by simp [h]
  rw [e]
  exact ⟨rfl, rfl, rfl, rfl, rfl⟩

theorem witness_TenantsAndStreamKeys_4 :
    (∀ st ∈ [SlotState.empty, .loaded, .active, .retiring], ∀ b, (streamSlot { TenantRec.reset with slot0 := slotOf st, slot1 := slotOf st } b).state = st) ∧
    (({ TenantRec.reset with slot0 := slotOf .loaded } : TenantRec).switchable = some false ∧
      ({ TenantRec.reset with slot1 := slotOf .loaded, slot0 := slotOf .active } : TenantRec).switchable = some true ∧ TenantRec.reset.switchable = none) ∧
    (TenantRec.reset.switch = none ∧ TenantRec.reset.fenced = false ∧ TenantRec.reset.confirmed = none ∧ TenantRec.reset.retiringSlot = none ∧
      ({ TenantRec.reset with slot1 := slotOf .retiring } : TenantRec).retiringSlot = some true) ∧
    (∀ n ∈ [0, 1], ((tenantsDev { TenantRec.reset with switch := some n }).tenant 5#10).switch = some n) ∧
    (∀ n ∈ [2, 3], ((tenantsDev { TenantRec.reset with confirmed := some n, slot0 := slotOf .retiring }).tenant 5#10).confirmed = some n) ∧
    (∀ b n, ((tenantsDev { TenantRec.reset with modeNext := some (b, n) }).tenant 5#10).modeNext = some (b, n)) ∧
    ((tenantsDev TenantRec.reset).tenant 5#10).modeNext = none ∧ (dev .plain).sealedExts 5#10 = [] ∧
    (extIn .sealed []).sealedExts 5#10 ≠ [] ∧ (decide ([0#8, 0, 0, 0].length = 4) && bodyZero [0#8, 0, 0, 0] 1 3) = true := by
  refine ⟨by decide, by decide, by decide, by decide, by decide, fun b n => rfl, by decide, by decide, by decide, by decide⟩

theorem witness_TenantsAndStreamKeys_5 (k : List Byte) :
    4 ≤ ({ TenantRec.reset with reelKeys := [k, k, k, k] } : TenantRec).reelKeys.length ∧
    ({ TenantRec.reset with reelKeys := [k, k, k] } : TenantRec).reelKeys.length < 4 :=
  ⟨Nat.le_refl 4, (by decide : 3 < 4)⟩

/-- Tenant 5 asks for extent 0 to be sealed or unsealed. -/
def sealDev (st : GranState) (req : Bool) (m : SecMsg) : State :=
  { extIn st [] with sec := { inSess (.tenant 5#10) with msgs := [m], tenants := [(5, { TenantRec.reset with required := req })] } }

def sealBody : List Byte := [0, 0, 1, 0] ++ bytesOf ep3All 4

theorem witness_SealsLinkKeysAndAuthority_1 :
    (sealBody.length = 4 + 4 * fieldAt sealBody 2 2 ∧ fieldAt sealBody 2 2 ≤ 64 ∧ fieldAt sealBody 0 2 < 8192) ∧
    (bodyZero [0xFF#8, 0x1F, 0, 0] 2 2 = true ∧ fieldAt [0xFF#8, 0x1F, 0, 0] 0 2 < 8192 ∧ fieldAt [0#8, 0x20, 0, 0] 0 2 = 8192) ∧
    (let u := taken (sealDev .granted true (msg0 0x36 true sealBody))
     ∃ x, u.extent 0 = some x ∧ x.tenant = 5#10 ∧ (u.tenant 5#10).fenced = false ∧ u.sec.debugUnlocked = false ∧ x.state = .granted ∧ x.lost = false ∧
       x.changes = [] ∧ (u.tenant 5#10).required = true ∧ x.rights = bodyEntries 1 (sealBody.drop 4)) ∧
    ((taken (sealDev .granted false (msg0 0x36 true sealBody))).tenant 5#10).required = false ∧
    (let u := taken (sealDev .sealed true (msg0 0x37 true [0, 0, 0, 0]))
     ∃ x, u.extent 0 = some x ∧ x.tenant = 5#10 ∧ x.state = .sealed ∧ x.changes = []) ∧
    (taken (sealDev .sealed true (msg0 0x37 true [1, 0, 0, 0]))).extent 1 = none ∧ (5#10 : Tenant) ≠ 6#10 :=
  ⟨by decide, by decide, ⟨ext5 .plain .granted none, by decide⟩, by decide, ⟨ext5 .plain .sealed none, by decide⟩, by decide, by decide⟩

def keyed (key : List Byte) : PortCrypto := { PortCrypto.reset with slot0 := ⟨some key, 5#10, 0, 0⟩, sendSlot := some false }

theorem witness_SealsLinkKeysAndAuthority_2 (key k2 : List Byte) (h : k2.length = 32) :
    ((decide (([0#8, 1, 0, 0] ++ k2).length = 36) && bodyZero ([0#8, 1, 0, 0] ++ k2) 2 2 && decide (fieldAt ([0#8, 1, 0, 0] ++ k2) 1 1 ≤ 1)) = true ∧
      bodySlot ([0#8, 1, 0, 0] ++ k2) = some false) ∧
    ((msg0 0x38 true []).port = some 0 ∧ (sess0 (.tenant 5#10)).port = some 0 ∧ ({ msg0 0x38 true [] with port := some 1 } : SecMsg).port ≠ (sess0 (.tenant 5#10)).port) ∧
    (PortCrypto.reset.install false true key 5#10 = some { PortCrypto.reset with slot0 := ⟨some key, 5#10, 0, 0⟩ } ∧
      PortCrypto.reset.install false false key 5#10 = none) ∧
    (∀ n ∈ [2, 3], ({ PortCrypto.reset with retire := some (true, n) } : PortCrypto).retire = some (true, n)) ∧ PortCrypto.reset.retire = none := by
  have e : ([0#8, 1, 0, 0] ++ k2).length = 36 := by simp [h]
  rw [e]
  exact ⟨⟨rfl, rfl⟩, by decide, ⟨rfl, rfl⟩, by decide, rfl⟩

/-- FW_UPDATE's body: stage, offset, length, bytes. -/
def fwBody (stage off len : Nat) (bs : List Byte) : List Byte := natBytes 4 stage ++ natBytes 4 off ++ natBytes 4 len ++ bs
def flashDev (up : Option (Nat × List Byte)) : State :=
  { dev .plain with sec := { inSess .operator with sessions := [(1, { sess0 .operator with update := up })] },
                    plt := { Plt.reset with phase := .ready, flash := { Plt.reset.flash with present := true } } }

theorem witness_SealsLinkKeysAndAuthority_3 :
    (∀ b ∈ [fwBody 0 0 8 [], fwBody 1 0 2 [1, 2], fwBody 1 3 2 [1, 2], fwBody 2 0 0 []], 12 ≤ b.length ∧ fieldAt b 0 1 ≤ 2 ∧ bodyZero b 1 3 = true ∧
      b.length = 12 + (if fieldAt b 0 1 = 1 then fieldAt b 8 4 else 0) ∧ (fieldAt b 0 1 = 1 → fieldAt b 8 4 ≤ 16000)) ∧
    (fieldAt (fwBody 3 0 0 []) 0 1 = 3 ∧ fieldAt (fwBody 0 1 8 []) 4 4 ≠ 0 ∧ bankRegion < fieldAt (fwBody 0 0 (2 ^ 31) []) 8 4 ∧
      fieldAt (fwBody 0 0 8 []) 8 4 ≤ bankRegion) ∧
    ((flashDev none).plt.flash.present = true ∧ ({ dev .plain with plt := { Plt.reset with flash := { Plt.reset.flash with present := false } } } : State).plt.flash.present = false ∧
      (flashDev (some (2, []))).sec.sessions.any (fun e => e.2.update.isSome) = true ∧ (flashDev none).sec.sessions.any (fun e => e.2.update.isSome) = false) ∧
    (([] : List Byte).length < 2 ∧ fieldAt (fwBody 1 0 2 [1, 2]) 4 4 = ([] : List Byte).length ∧ fieldAt (fwBody 1 3 2 [1, 2]) 4 4 ≠ ([] : List Byte).length ∧
      (flashDev none).checkSet [] bankRegion = some 1) := by
  refine ⟨by decide +kernel, by decide +kernel, by decide +kernel, by decide, by decide +kernel, by decide +kernel, ?_⟩
  unfold State.checkSet
  rw [if_pos (.inl (by decide))]

/-- A set that passes, by what its fields say and a free choice of signer. -/
theorem witness_SealsLinkKeysAndAuthority_4 (s : State) (set : List Byte) (h1 : setMagic set = 0x54464E4D)
    (h2 : Config.mldsaVerify Config.firmwareKey (set.take 264) ((set.drop 264).take 4627) = true) (h3 : (setSteppings set).testBit steppingBit = true)
    (h4 : Config.minSvn s.plt.fuses ≤ setSvn set)
    (h5 : ¬ ([1, 2, 3].any (fun k => ((setEntries set).filter (fun e => e.kind == k)).length ≠ 1) ∨
      (setEntries set).any (fun e => decide (bankRegion < e.off + e.bytes))))
    (h6 : ¬ (setEntries set).any (fun e => sha3 (setPart set e) ≠ e.digest)) : s.checkSet set bankRegion = none := by
  unfold State.checkSet
  rw [if_neg (by simp [h1, h2]), if_neg (by simp [h3]), if_neg (by omega), if_neg h5, if_neg h6]

theorem witness_SealsLinkKeysAndAuthority_5 (c sig : List Byte) (hs : Config.deviceSerial = 0#59) :
    (4 ≤ [0#8, 0, 0, 0].length ∧ bodyZero [0#8, 0, 0, 0] 1 3 = true ∧ fieldAt [0#8, 0, 0, 0] 0 1 = 0 ∧ fieldAt [2#8, 0, 0, 0] 0 1 = 2) ∧
    ((dev .plain).anyConfidential = false ∧ (extIn .sealed []).anyConfidential = true) ∧
    fieldAt (1#8 :: 0 :: 0 :: 0 :: 0 :: 0 :: 0 :: 0 :: 0 :: 0 :: 0 :: 0 :: c) 4 8 = Config.deviceSerial.toNat ∧
    ({ Sec.reset with challenge := some (c, 0) } : Sec).challenge.map (fun x => x.1) = some c ∧
    fieldAt (0#8 :: 0 :: 0 :: 0 :: 0 :: 0 :: 0 :: 0 :: sig) 0 8 = Config.deviceSerial.toNat := by
  rw [hs]
  exact ⟨by decide, by decide, by simp [fieldAt, leNat], rfl, by simp [fieldAt, leNat]⟩

/-- A MGMT message waits for RTR_ROUTE_SWITCH. -/
def waitDev : State := { flashDev none with sec := { inSess .operator with mgmtWaits := [0x21#8] } }

theorem witness_SealsLinkKeysAndAuthority_6 :
    (4 ≤ [0x41#8, 0, 0, 0].length ∧ bodyZero [0x41#8, 0, 0, 0] 1 3 = true ∧ (0x41#8).toNat ∈ mgmtFatalCodes ∧ (dev .plain).dbg.fatal = false ∧
      (0x21#8).toNat ∉ mgmtFatalCodes) ∧
    ((match mgmtCall 0x21 [0] with | .badLength => true | _ => false) = true ∧ (match mgmtCall 0x70 [] with | .badArgs => true | _ => false) = true) ∧
    (match mgmtCall 0x21 [] with
     | .call f => ((f waitDev).takeReply 0x21#8).isSome
     | _ => false) = true ∧
    (mgmtWaitCode 0x11 = true ∧ ((dev .plain).takeReply 0x11#8).isNone = true) ∧
    (let s := headDev (inSess .operator) { msg0 0xF0 true [0x11, 0, 0, 0] with started := true }
     s.awake = true ∧ (∃ m, s.sec.msgs[0]? = some m ∧ m.started = true ∧ m.body.getD 0 0#8 = 0x11#8) ∧ (s.quiet.takeReply 0x11#8).isNone = true) ∧
    ((headDev { inSess .operator with mgmtReplies := [(0x11#8, 0, [])] } (msg0 0xF0 true [0x11, 0, 0, 0])).quiet.takeReply 0x11#8).isSome = true := by
  refine ⟨by decide, ⟨by decide, by decide⟩, by decide, ⟨by decide, by decide⟩, ⟨by decide, ⟨_, rfl, rfl, rfl⟩, by decide⟩, by decide⟩

/-! ### Reset, boot and power -/

/-- The device with its platform as given. -/
def pltDev (f : Plt → Plt) : State := { dev .plain with plt := f Plt.reset }

theorem witness_ResetTakesAndLeaves :
    ((pltDev (fun p => { p with powered := false })).plt.powered = false ∧ (pltDev (fun p => { p with aLost := true, bLost := true })).refRuns = false ∧
      (pltDev id).plt.powered = true ∧ (pltDev id).refRuns = true ∧ (pltDev (fun p => { p with aLost := true })).refRuns = true) ∧
    (let s := pltDev (fun p => { p with resetHeld := true, resetDone := false })
     s.plt.powered = true ∧ s.plt.resetHeld = true ∧ s.plt.resetReleased = true ∧ s.plt.resetDone = false ∧ s.refRuns = true) ∧
    (pltDev id).plt.resetHeld = false ∧
    (∀ b ∈ [0#2, 1#2, 2#2, 3#2], let s := pltDev (fun p => { p with resetHeld := true, strapBoot := b, strapClk := b })
      s.plt.powered = true ∧ s.plt.resetHeld = true ∧ s.plt.resetDone = true ∧ s.plt.recoverNext = false ∧
        (strapTaken s.plt.strapBoot = 0#2 ↔ b = 0#2 ∨ b = 3#2)) ∧
    (pltDev (fun p => { p with resetHeld := true, strapBoot := 1#2, recoverNext := true })).plt.recoverNext = true := by decide

/-- A device in a phase, its flash present. -/
def phaseDev (ph : Phase) (f : Plt → Plt) : State := pltDev (fun p => f { p with phase := ph, flash := { Flash.blank with present := true } })

theorem witness_BootRunsToReady_1 :
    ((dev .plain).dbg.dumpHeader = [] ∧ (phaseDev .kat id).live = true ∧ (phaseDev .kat id).plt.phase ≠ .rom ∧ (phaseDev .kat id).plt.phase ≠ .downloadWait) ∧
    (∀ b : Fin 2, let s := phaseDev .rom (fun p => { p with flash := { p.flash with header := { p.flash.header with active := some b } } })
      s.plt.phase = .rom ∧ s.romPick = (if b = 0 then .bank0 else .bank1)) ∧
    ((phaseDev .rom id).romPick = .recovery ∧ (phaseDev .rom id).romPick ≠ .bank0 ∧ (phaseDev .rom id).plt.flash.present = true) ∧
    ((phaseDev .downloadWait id).plt.downloaded = [] ∧ (phaseDev .downloadWait (fun p => { p with downloaded := [1] })).plt.downloaded ≠ [] ∧
      (phaseDev .downloadWait (fun p => { p with strapBoot := 2#2 })).plt.strapBoot = 2#2 ∧ (phaseDev .downloadWait id).plt.strapBoot ≠ 2#2) := by decide

/-- A set of no bytes fails the first check; one that passes stands above. -/
theorem witness_BootRunsToReady_2 (s : State) : s.checkSet [] recoveryRegion = some 1 ∧ s.checkSet (([] : List Byte).take downloadRegion) downloadRegion = some 1 := by
  constructor <;> (unfold State.checkSet; rw [if_pos (.inl (by decide))])

theorem witness_BootRunsToReady_3 (bs : List Byte) (h : bs.length = 1401) :
    (let s := phaseDev .downloadWait id
     ¬ (s.plt.phase ≠ .downloadWait ∨ s.plt.strapBoot = 1#2 ∨ s.plt.downloaded ≠ [] ∨ 1400 < [7#8].length) ∧
     ((0#32).toNat + [7#8].length ≤ contiguous s.plt.download 0 + 65536 ∧ (0#32).toNat + [7#8].length ≤ downloadRegion) ∧
     ¬ ((65536#32).toNat + [7#8].length ≤ contiguous s.plt.download 0 + 65536) ∧
     ¬ (manifestBytes ≤ contiguous (listBytes s.plt.download 0 [7]) 0)) ∧
    1400 < bs.length ∧ (phaseDev .downloadWait (fun p => { p with strapBoot := 1#2 })).plt.strapBoot = 1#2 := by
  rw [h]; decide

/-- The first n bytes of a set, all 0, received: a manifest of no components. -/
def gotZeros (n : Nat) : SMap Byte := (List.range' 0 n).map (fun i => (i, 0#8))

theorem contiguous_range (n : Nat) : ∀ k, contiguous ((List.range' k n).map (fun i => (i, 0#8))) k = k + n := by
  induction n with
  | zero => intro k; rfl
  | succ n ih => intro k; simp only [List.range'_succ, List.map_cons, contiguous, if_true]; rw [ih]; omega

theorem leNat_zeros (l : List Byte) (h : ∀ b ∈ l, b = 0#8) : leNat l = 0 := by
  induction l with
  | nil => rfl
  | cons b l ih => simp [leNat, h b (by simp), ih (fun x hx => h x (by simp [hx]))]

theorem fieldAt_zeros (l : List Byte) (h : ∀ b ∈ l, b = 0#8) (o n : Nat) : fieldAt l o n = 0 :=
  leNat_zeros _ (fun b hb => h b (List.mem_of_mem_drop (List.mem_of_mem_take hb)))

theorem setLength_zeros (l : List Byte) (h : ∀ b ∈ l, b = 0#8) : setLength l = manifestBytes := by
  simp [setLength, setEntries, setEntry, fieldAt_zeros l h]

theorem witness_BootRunsToReady_4 :
    let s := phaseDev .downloadWait (fun p => { p with download := gotZeros manifestBytes })
    let m := listBytes s.plt.download (0#32).toNat [0#8]
    manifestBytes ≤ contiguous m 0 ∧ setLength ((tvals m).take (contiguous m 0)) ≤ contiguous m 0 := by
  intro s m
  have e : m = gotZeros manifestBytes := by
    show tput (gotZeros manifestBytes) 0 0#8 = gotZeros manifestBytes
    rw [show manifestBytes = 4927 + 1 from rfl]
    unfold gotZeros
    rw [List.range'_succ, List.map_cons]
    simp [tput]
  have c : contiguous m 0 = manifestBytes := by rw [e, gotZeros, contiguous_range, Nat.zero_add]
  rw [c]
  refine ⟨Nat.le_refl _, Nat.le_of_eq (setLength_zeros _ ?_)⟩
  intro b hb
  have h := List.mem_of_mem_take hb
  rw [e] at h
  simp only [tvals, gotZeros, List.map_map, List.mem_map] at h
  obtain ⟨_, _, h⟩ := h
  exact h.symm

theorem witness_BootRunsToReady_5 :
    (∀ ph ∈ [Phase.fwStart, .train, .kat, .fill], (phaseDev ph id).live = true ∧ (phaseDev ph id).plt.phase = ph ∧ (phaseDev ph id).plt.flash.verdict = none ∧
      (phaseDev ph id).plt.abruptLast = false) ∧
    (let s := phaseDev .train (fun p => { p with abruptLast := true }); s.live = true ∧ s.plt.phase = .train ∧ s.plt.abruptLast = true) ∧
    keysRise (phaseDev .train id).mem.deepStacks = true ∧ (List.replicate 12 45#8)[11]? = some 45#8 ∧
    ((0x3123#16).toNat / 4096 = 3 ∧ (0x203F#16).toNat / 4096 = 2 ∧ (0x1007#16).toNat / 4096 = 1 ∧ 8 ≤ (0x8000#16).toNat / 4096 ∧
      (0x3123#16).toNat / 4096 ≠ 7) ∧
    (∀ b : Fin 2, let s := phaseDev .fill (fun p => { p with bank := if b = 0 then 0#2 else 1#2, flash := { p.flash with header := { p.flash.header with pendingBank := some b } } })
      s.plt.phase = .fill ∧ s.plt.bank = (if b = 0 then 0#2 else 1#2) ∧ s.plt.flash.header.pendingBank = some b) ∧
    ((phaseDev .fill id).plt.flash.header.pendingBank = none ∧ (phaseDev .ready id).plt.phase ≠ .fill) := by decide

/-- Every granule free, or one that has never been filled. -/
def granDev (n : Nat) : State :=
  { phaseDev .fill id with ext := ⟨[], (List.range n).map (fun g => (g, ⟨.free, false⟩)), []⟩ }

theorem granDev_gran (n g : Nat) (h : g < n) : (granDev n).gran g = ⟨.free, false⟩ := by
  show mget Gran.reset ((List.range n).map (fun g => (g, _))) g = _
  rw [mget, tget_mapped _ _ List.pairwise_lt_range g (List.mem_range.2 h)]; rfl

theorem witness_BootRunsToReady_6 : (granDev granCountAll).filled = true ∧ (granDev 0).filled = false := by
  unfold State.filled
  rw [List.all_eq_true, List.all_eq_false]
  refine ⟨fun g h => ?_, 0, List.mem_range.2 (by decide), by decide⟩
  rw [granDev_gran _ g (List.mem_range.1 h)]
  cases dumpGran g <;> rfl

theorem witness_BootRunsToReady_7 :
    (∀ m, let s := phaseDev .ready (fun p => { p with mgmt := ⟨m, false⟩ })
      s.awake = true ∧ s.plt.mgmt.locked = false ∧ s.mgmtTries = true ∧ s.plt.mgmt.mode = m) ∧
    ((phaseDev .ready (fun p => { p with mgmt := ⟨.baseX1000, true⟩ })).plt.mgmt.locked = true ∧ (phaseDev .rom id).mgmtTries = false ∧
      (phaseDev .ready id).plt.mgmt.mode ≠ .baseX1000) := by
  refine ⟨fun m => by cases m <;> decide, by decide⟩

theorem witness_ClocksFeedsAndPower_1 :
    ((phaseDev .ready (fun p => { p with aLost := true })).plt.lostRef .a = true ∧ (phaseDev .ready id).plt.lostRef .b = false ∧
      (phaseDev .ready id).plt.inUse ≠ .b ∧ (phaseDev .ready id).plt.inUse = .a ∧ (phaseDev .ready id).plt.lostRef (otherSide .a) = false ∧
      (phaseDev .ready (fun p => { p with bLost := true })).plt.lostRef (otherSide .a) = true) ∧
    ((lk up).link 0).state = .active ∧
    ((phaseDev .ready id).plt.handover = none ∧ (phaseDev .ready id).plt.holder = .a ∧ (phaseDev .ready id).plt.holder ≠ .b ∧
      (phaseDev .ready (fun p => { p with bPresent := true })).plt.present (otherSide .a) = true ∧ (phaseDev .ready id).plt.present (otherSide .a) = false) ∧
    (∀ box proving, let s := phaseDev .ready (fun p => { p with handover := some ⟨.b, box, proving⟩, bPresent := true })
      s.plt.handover = some ⟨.b, box, proving⟩ ∧ s.plt.present (otherSide .a) = true) := by
  refine ⟨by decide, by decide, by decide, fun box proving => ⟨rfl, rfl⟩⟩

/-- A reference clock comes back: beside one that runs, in place of the lost one in use, and in reset. -/
theorem witness_ClocksFeedsAndPower_1b :
    ((pltDev (fun p => { p with resetHeld := true })).live = false ∧ (pltDev (fun p => { p with resetHeld := true })).plt.lostRef .b = false ∧
      (pltDev (fun p => { p with resetHeld := true })).plt.powered = true) ∧
    ((phaseDev .ready (fun p => { p with bLost := true })).plt.lostRef (phaseDev .ready (fun p => { p with bLost := true })).plt.inUse = false) ∧
    (let s := phaseDev .ready (fun p => { p with aLost := true, bLost := true })
     s.plt.powered = true ∧ s.plt.lostRef s.plt.inUse = true ∧ s.plt.inUse ≠ .b ∧ s.plt.inUse = .a ∧ s.plt.resetHeld = false) := by decide

theorem witness_ClocksFeedsAndPower_2 :
    (let s := phaseDev .ready (fun p => { p with proveEn := true, aPresent := true, bPresent := true })
     s.plt.powered = true ∧ s.plt.proveEn = true ∧ s.plt.aPresent = true ∧ s.plt.bPresent = true ∧ s.plt.aHealth ≠ .failed ∧ s.plt.bHealth ≠ .failed ∧
       s.plt.provingStopped = false ∧ s.plt.handover = none) ∧
    (phaseDev .ready id).plt.proveEn = false ∧ (dev .plain).counter (ctrPlt 0 0) < ctrMax ∧
    (∀ x ∈ [Health.healthy, .degraded, .failed], (phaseDev .ready (fun p => { p with bHealth := x })).plt.health .b = x) ∧
    ((phaseDev .ready id).plt.lease = none ∧ (phaseDev .ready (fun p => { p with lease := some .b })).plt.lease = some .b) := by decide

theorem witness_ClocksFeedsAndPower_3 :
    (let x := PowerUnit.reset 8#10
     let y := x.sample 9
     let z := x.sample 7
     x.ceilNext.toNat * y.means.length < y.means.sum ∧ 16 * z.means.sum < 15 * (x.ceilNext.toNat * z.means.length) ∧
       (x.sample 8).means.sum ≤ x.ceilNext.toNat * (x.sample 8).means.length ∧
       15 * (x.ceilNext.toNat * (x.sample 8).means.length) ≤ 16 * (x.sample 8).means.sum) ∧
    ((phaseDev .ready id).plt.thermOn.toInt ≤ (105#8).toInt ∧ (104#8).toInt < (phaseDev .ready id).plt.thermOn.toInt ∧
      (102#8).toInt ≤ (phaseDev .ready id).plt.thermOff.toInt ∧ (phaseDev .ready id).plt.thermOff.toInt < (103#8).toInt ∧
      120 ≤ (120#8).toInt ∧ (119#8).toInt < 120 ∧ (0xFF#8).toInt < 120) := by decide +kernel

/-- Every block and stack at a ceiling of 0: room for the highest ceiling that can be written. -/
def dark : State :=
  pltDev (fun p => { p with phase := .ready, blockPwr := (List.range 64).map (fun n => (n, PowerUnit.reset 0#10)),
                            stackPwr := (List.range 12).map (fun n => (n, PowerUnit.reset 0#10)) })

theorem witness_ClocksFeedsAndPower_4 :
    (dark.live = true ∧ dark.ceilSum - (dark.blockPwr 63).ceilNext.toNat + (1023#10).toNat + fixedW * 8 ≤ 720 * 8 ∧ 720 ≤ envelopeW) ∧
    (11 < 12 ∧ 63 < 64 ∧ RegPath.window 0 ≠ .mgmt) := by
  refine ⟨⟨by decide, ?_, ?_⟩, by decide⟩
  · decide +kernel
  · unfold envelopeW; split <;> decide

/-- A shut-down that drains, queue pair 0 still owing a record. -/
def owingDev : State :=
  { fetching { oneWaits false with unacked := 1 } true with plt := { Plt.reset with phase := .shutdown, shut := .draining } }

theorem witness_ClocksFeedsAndPower_5 :
    ((phaseDev .ready id).live = true ∧ (phaseDev .ready id).plt.shut = .none ∧ (phaseDev .shutdown id).live = true ∧ (phaseDev .offReady id).live = true) ∧
    Phase.train ∉ [Phase.ready, .shutdown, .offReady, .tripped] ∧
    (∀ x ∈ [Shut.asked 0, .asked 1, .early, .draining, .closing, .testing, .done], (phaseDev .ready (fun p => { p with shut := x })).plt.shut = x ∧ x ≠ .none) ∧
    (∀ n, (phaseDev .ready (fun p => { p with shut := .asked 0 })).plt.shut ≠ .asked (n + 1)) ∧
    ((phaseDev .train (fun p => { p with shut := .early })).live = true ∧ (phaseDev .train (fun p => { p with shut := .early })).plt.handover = none ∧
      (phaseDev .train (fun p => { p with shut := .early, handover := some ⟨.b, false, false⟩ })).plt.handover.isSome = true) ∧
    ((phaseDev .ready (fun p => { p with shut := .asked 1 })).plt.handover = none ∧
      (phaseDev .ready (fun p => { p with shut := .asked 1, handover := some ⟨.b, false, false⟩ })).plt.handover.isSome = true) ∧
    ((phaseDev .shutdown (fun p => { p with shut := .draining })).owing = false ∧ (owingDev).plt.shut = .draining ∧ owingDev.live = true ∧ owingDev.owing = true) := by
  refine ⟨by decide, by decide, by decide, fun n => by simp [phaseDev, pltDev], by decide, by decide, by decide +kernel⟩

/-! ### spec/16 and spec/17 -/

/-- Block 0's cell 3 and one memory channel hold test slots, and the router. -/
def isvDev (first : List (BitVec 16)) : State :=
  { dev .plain with ras := { Ras.reset with isvSlots := [0], isvCell := [(0, 3)], isvRouterSlot := true, isvFirst := first } }

theorem witness_TestsCountersAndTraces_1 :
    ((isvDev []).live = true ∧ (isvDev []).isvHolds 0x3003#16 = true ∧ (isvDev []).isvHolds unitRouter = true ∧
      (isvDev []).isvHolds 0x3004#16 = false ∧ 0x3003#16 ∉ (isvDev []).ras.isvFirst ∧ 0x3003#16 ∈ (isvDev [0x3003#16]).ras.isvFirst ∧
      (isvDev [0x3003#16]).isvHolds 0x3003#16 = true ∧
      (isvDev []).counter (ctrRas 6) < ctrMax ∧ (isvDev []).counter (ctrRas 7) < ctrMax) ∧
    (dev .plain).awake = true ∧
    ((∀ i, i < 64 → ctrName (0x480000 + 8 * i) ≠ none) ∧ ctrName 0x480004 = none ∧ ctrName 0 = none ∧ (1#16).toNat = 1 ∧ (64#16).toNat = 64 ∧
      ¬ 1 ≤ (0#16).toNat ∧ ¬ (65#16).toNat ≤ 64 ∧ keysRise (dev .plain).ctr = true) := by decide +kernel

/-- Trace slot 0, tracing queue pair 0 of port 0. -/
def slot0 (f : TraceSlot → TraceSlot) : SMap TraceSlot := [(0, f { TraceSlot.reset with enable := true, addr := 0x10000000#42 })]
def traceDev (f : TraceSlot → TraceSlot) : State :=
  { next (dev .plain) runDesc with dbg := { (dev .plain).dbg with traces := slot0 f } }

def sample0 : CellId × TraceRec := (0, ⟨0#32, 0#16, 0#16, false, 0xFF#8, 0#8, 0#32⟩)

theorem witness_TestsCountersAndTraces_2 :
    ((traceDev id).live = true ∧ (traceDev id).tracePath .mgmt 5 = true ∧ (traceDev id).tracePath (.window 0) 0 = true ∧
      (traceDev id).tracePath (.window 1) 0 = false ∧ ((traceDev id).trace 0).enable = true ∧ (traceDev id).qp ((traceDev id).trace 0).qp ≠ none ∧
      ((traceDev id).trace 1).enable = false) ∧
    (((0x00000011#32).extractLsb' 1 4).toNat ≤ 8 ∧ 8 < ((0x00000013#32).extractLsb' 1 4).toNat ∧
      ((0x00010001#32).extractLsb' 16 12).toNat ≠ 0 ∧ ((0x00000001#32).extractLsb' 16 12).toNat = 0 ∧ ((traceDev id).trace 0).qp = 0) ∧
    (traceDev id).tracePath (.window 0) ((traceDev id).trace 0).qp = true ∧ (traceDev id).tracePath (.window 1) ((traceDev id).trace 0).qp = false := by
  decide

/-- A running cell of queue pair 0, and trace slots 0 and 1. -/
def sampleDev (f : TraceSlot → TraceSlot) : State :=
  let s := withRun 1 0 0 (run0 true [(0, lcell 0)] []) [(0, busyCell 1 (tile0 0 [] 0))]
  { s with dbg := { s.dbg with traces := slot0 f } }

theorem witness_TestsCountersAndTraces_3 :
    ((sampleDev id).live = true ∧ ((dev .plain).cell 0).occupant = none ∧ ((sampleDev id).cell 0).occupant = some (0, 0) ∧
      ((sampleDev id).op 0).isSome = true ∧ ((sampleDev id).run 0).isSome = true ∧ keysRise (sampleDev id).dbg.traces = true) ∧
    (((sampleDev id).trace 1).enable = false ∧ ((sampleDev id).trace 0).enable = true ∧ ((sampleDev id).op 0).map (·.qp) = some ((sampleDev id).trace 0).qp ∧
      (((sampleDev (fun x => { x with staged := List.replicate 63 sample0 })).trace 0).staged.filter (fun y => y.1 == 0)).length = 63 ∧
      64 ≤ (((sampleDev (fun x => { x with staged := List.replicate 64 sample0 })).trace 0).staged.filter (fun y => y.1 == 0)).length ∧
      ((sampleDev id).trace 0).full = false ∧ ((sampleDev (fun x => { x with head := 1 })).trace 0).full = true ∧
      ((sampleDev (fun x => { x with qp := 5 })).trace 0).qp ≠ 0) := by decide +kernel

/-- A slot with a staged sample, at a pool address of the device or of no node. -/
def writeDev (there : Bool) : State :=
  traceDev (fun x => { x with staged := [sample0], addr := if there then 0x10000000#42 else 0#42 })

theorem witness_TestsCountersAndTraces_4 :
    ((dev .plain).qp ((dev .plain).trace 0).qp = none ∧ ((traceDev (fun x => { x with enable := false })).trace 0).enable = false ∧
      ((traceDev (fun x => { x with head := 1 })).trace 0).full = true ∧ ((traceDev id).trace 0).dropped = 0 ∧ ((traceDev id).trace 0).staged = []) ∧
    (let s := writeDev true
     ((s.qp (s.trace 0).qp).isSome = true ∧ (s.trace 0).enable = true ∧ (s.trace 0).full = false ∧ (s.quiet.traceNext 0).isSome = true) ∧
     s.poolBusy (accWrite 3#14 []) (((s.trace 0).addr.setWidth 64 <<< 12) + BitVec.ofNat 64 0) 16 = false ∧
     (s.writePool (accWrite 3#14 []) 5#10 (((s.trace 0).addr.setWidth 64 <<< 12) + BitVec.ofNat 64 0) (traceBytes sample0.2 true) [] noIo).1.isOk = true) ∧
    ((writeDev false).writePool (accWrite 3#14 []) 5#10 0#64 (traceBytes sample0.2 true) [] noIo).1.isOk = false ∧
    (writeDev false).poolBusy (accWrite 3#14 []) 0#64 16 = false ∧
    (let s := busyLine (agents false) .snooping []
     s.poolBusy (accWrite 3#14 []) ((0x10000000#42).setWidth 64 <<< 12) 16 = true) := by decide +kernel

/-- A dump of 4,096 bytes in a state. -/
def dumpIn (d : DumpState) : State := { dev .plain with dbg := { (dev .plain).dbg with dumpState := d, dumpBytes := 4096 } }

theorem witness_RegistersDumpAndJtag_1 :
    (∀ d ∈ [DumpState.none, .writing, .failed, .ready, .partialDump, .readyAfterReset, .damagedAfterReset],
      (dumpIn d).awake = true ∧ (64#32).toNat ≠ 0 ∧ (64#32).toNat % 64 = 0 ∧ (64#32).toNat ≤ 2 ^ 20 ∧ (4032#32).toNat + 64 ≤ (dumpIn d).dbg.dumpBytes ∧
        ¬ (4033#32).toNat + 64 ≤ (dumpIn d).dbg.dumpBytes) ∧
    ((dumpIn .ready).dbg.dumpState ∉ [DumpState.none, .writing, .failed] ∧ (dumpIn .writing).dbg.dumpState ∈ [DumpState.none, .writing, .failed]) ∧
    (regRangeOk 0#32 1#16 = true ∧ regRangeOk 0xFFFC00#32 256#16 = true ∧ regRangeOk 0xFFFC04#32 256#16 = false ∧ regRangeOk 0#32 0#16 = false ∧
      regRangeOk 0#32 257#16 = false ∧ regRangeOk 2#32 1#16 = false) ∧
    ([1#32].length = (1#16).toNat ∧ [1#32].length ≠ (2#16).toNat) := by decide +kernel

theorem witness_RegistersDumpAndJtag_2 :
    ((2#24).toNat % 4 ≠ 0 ∧ (0x510004#24).toNat % 8 ≠ 0 ∧ (0x510018#24).toNat % 8 = 0) ∧
    ((dev .plain).live = true ∧ (windowTarget 0 0x510018).2 = .rw ∧ (windowTarget 0 0x501018).2 = .rw ∧ (windowTarget 0 0x511018).2 ≠ .rw ∧
      (dev .plain).windowOpen 0 (windowTarget 0 0x510018).1 = true ∧ State.reset.windowOpen 0 (windowTarget 0 0x510018).1 = false) ∧
    ((State.reset.reg64 0x510000).isSome = true ∧ (State.reset.reg64 0x300000).isSome = false ∧ pageOffset 0x501000 = true ∧ pageOffset 0x511FFF = true ∧
      pageOffset 0x500FFF = false ∧ pageOffset 0x512000 = false) ∧
    (((1000#32).extractLsb' 0 10).toNat ≤ 1000 ∧ ¬ ((1001#32).extractLsb' 0 10).toNat ≤ 1000 ∧ ¬ 1 ≤ ((0#32).extractLsb' 0 10).toNat) := by decide +kernel

/-- The device with debug access unlocked, or not. -/
def debugDev (b : Bool) : State := { dev .plain with sec := { (dev .plain).sec with debugUnlocked := b } }

theorem witness_RegistersDumpAndJtag_3 :
    (∀ b, (debugDev b).plt.powered = true ∧ (debugDev b).awake = true ∧ (debugDev b).sec.debugUnlocked = b) ∧
    ((((debugDev true).jtag 0x10#8 .dbgAccess .functional).reg64 0x510000).isSome = true ∧
    (((debugDev true).jtag 0x10#8 .dbgAccess .functional).reg64 0x300000).isSome = false) := by
  refine ⟨fun b => ⟨rfl, ?_, rfl⟩, by decide +kernel, by decide +kernel⟩
  cases b <;> decide +kernel

/-! ### The manual's worked examples -/

/-- spec/03, stochastic rounding to BF16: 1 + 2^-8 with the draws 12,345 and 40,000, and round to nearest even. -/
theorem test_stochastic_rounding :
    (fpEncode fmtBf16 false (some 12345) (f32Val 0x3F808000#32)).1 = 0x3F81 ∧
    (fpEncode fmtBf16 false (some 40000) (f32Val 0x3F808000#32)).1 = 0x3F80 ∧ (fpEncode fmtBf16 false none (f32Val 0x3F808000#32)).1 = 0x3F80 := by
  decide +kernel

/-- spec/03, one MXFP4 block with 7.0, 0.3 and −2.6: FLOOR gives 6, 0.5, −3 at scale 127 with OVF_SAT. -/
theorem test_mx_floor : mxBlock 9 0#8 [0, 0, 0] [0x40E00000#32, 0x3E99999A#32, 0xC0266666#32] = (127, [7, 1, 13], fOvfSat) := by decide +kernel

/-- The same block in NOSAT: 4, 0, −1.5 at scale 128. -/
theorem test_mx_nosat : (mxBlock 9 4#8 [0, 0, 0] [0x40E00000#32, 0x3E99999A#32, 0xC0266666#32]).1 = 128 ∧
    (mxBlock 9 4#8 [0, 0, 0] [0x40E00000#32, 0x3E99999A#32, 0xC0266666#32]).2.1 = [6, 0, 11] := by decide +kernel

/-- spec/05, order against compensation: 16,777,216 + 1 + 1 is 16,777,216 in plain FP32, and 16,777,218 compensated. -/
theorem test_compensated_sum :
    (f32Add (f32Add 0x4B800000#32 0x3F800000#32).1 0x3F800000#32).1 = 0x4B800000#32 ∧
    (compFinal (compAdd (compAdd (0x4B800000#32, 0#32) 0x3F800000#32).1 0x3F800000#32).1).1 = 0x4B800001#32 := by decide +kernel

/-- spec/07, decoding a Deep address: granule 5,000, offset 0x12_3400. -/
theorem test_deep_address :
    (dramLoc 5000 0x123400).ch.val = 3 * 32 + 21 ∧ (dramLoc 5000 0x123400).bank = 4 * 16 + 10 ∧ (dramLoc 5000 0x123400).row = 8705 := by decide

/-- spec/08, routing one address. -/
theorem test_fga_route :
    fgaV 0x00002A0123456780#64 = false ∧ fgaNode 0x00002A0123456780#64 = 0x2A#14 ∧ fgaPpa 0x00002A0123456780#64 = 0x123456780 ∧
    fgaPpa 0x00002A0123456780#64 / 2 ^ 26 = 72 ∧ ppaSlice 0x123456780 = 0 := by decide

/-- spec/10, headroom at each width. -/
theorem test_headroom : headroom 500 2#2 = 206 ∧ headroom 500 0#2 = 68 ∧ headroom 1500 2#2 = 575 := by decide

/-- spec/11, metering a burst: three green, two yellow, one red. -/
theorem test_metering :
    let p0 : Policer := ⟨0#128, 16384, 24576⟩
    let p1 := p0.meter 0 4128
    let p2 := p1.2.meter 0 4128
    let p3 := p2.2.meter 0 4128
    let p4 := p3.2.meter 0 4128
    let p5 := p4.2.meter 0 4128
    let p6 := p5.2.meter 0 4128
    p1.1 = .green ∧ p2.1 = .green ∧ p3.1 = .green ∧ p4.1 = .yellow ∧ p5.1 = .yellow ∧ p6.1 = .red ∧ p6.2.tc = 4000 ∧ p6.2.tp = 3936 := by decide

/-- spec/11, a shaper after idle time: RATE 10,000 and BURST 8,192 at 2 µs. -/
theorem test_shaper_refill :
    let x : Shaper := ⟨10000#128 ||| (8192#128 <<< 24), 3424⟩
    shaperCap x 2 = 28192 ∧ (shaperRefill x 2).tokens = 23424 := by decide

/-- spec/13, a three-level host format. -/
def hostFormat : AddrSpace :=
  { port := 0, tenant := 5#10, mode := .radix, requireU := false, root := 0x40000000#64,
    radix := some { levels := 3, entryBytes := 8, validBit := 63, leafBit := 62, leafVal := 1, writeBit := 1, writeVal := 0, accessBit := 2,
                    addrLo := 12, addrHi := 51, addrShift := 12, vaExt := 0, idxLo := [30, 21, 12, 0, 0], idxBits := [18, 9, 9, 0, 0] } }

theorem test_radix_indices :
    hostFormat.entryAddr 0 0 0x123456789000 = 0x48D1 * 8 ∧ hostFormat.entryAddr 1 0 0x123456789000 = 0x0B3 * 8 ∧
    hostFormat.entryAddr 2 0 0x123456789000 = 0x189 * 8 ∧ hostFormat.entryAddr 0 0x40000000 0x123456789000 = 0x40000000 + 0x24688 := by decide

/-- spec/17, addressing three counters. -/
theorem test_counter_offsets : ctrTfl 0 (4 * 19 + 2) = 0x480270 ∧ ctrTfl 2 19 = 0x484098 ∧ ctrTen 2 37 = 0xC04128 := by decide

/-- spec/16, a tenant counter: its published copy, and its maximum. -/
theorem test_coarse_count : coarse 1000000 = 983040 ∧ coarse 0xFFFFFFFFFFFF = 0xFFFFFFFF0000 + 2 ^ 48 := by decide

/-- spec/15: the reset ceilings of an AQ part sum to 718 W with the fixed 410 W. -/
theorem test_reset_ceilings (h : Config.aq = true) : State.reset.ceilSum + fixedW * 8 = 718 * 8 := by
  simp only [State.ceilSum, State.blockPwr, State.stackPwr, blockReset, stackReset, blockCeilReset, stackCeilReset, h, if_true]
  decide +kernel

/-- spec/15: on it, one stack at 20 W would make 723 W, and has no effect. -/
theorem test_ceiling_refused (h : Config.aq = true) : State.reset.writeCeiling true 0 160#10 = State.reset := by
  have hs := test_reset_ceilings h
  have ho : (State.reset.stackPwr 0).ceilNext.toNat = 120 := by
    simp only [State.stackPwr, stackReset, stackCeilReset, h, if_true]; decide
  unfold State.writeCeiling
  rw [if_neg (by decide)]
  simp only [if_true, ho]
  rw [if_pos]
  have : envelopeW = 720 := by simp [envelopeW, h]
  have : (160#10).toNat = 160 := rfl
  omega

/-! ### Ill-formed commands -/

theorem test_wf_boundary : (Instr.tideTickBoundary ⟨List.replicate 13 0#8, [], []⟩).wf = false ∧ (Instr.tideTickBoundary ⟨[], List.replicate 9 0#8, []⟩).wf = false ∧
    (Instr.tideTickBoundary ⟨[], [], []⟩).wf = true := by decide

theorem test_wf_arbiter :
    (Instr.arbiterDecision .chipEntry ⟨[1, 1], [], [], [], [], []⟩).wf = false ∧ (Instr.arbiterDecision .chipEntry ⟨[16], [], [], [], [], []⟩).wf = false ∧
    (Instr.arbiterDecision (.mem 0) ⟨[1], [], [], [], [], List.replicate 5 true⟩).wf = false ∧ (Instr.arbBackoffExpire .chipEntry 16).wf = false ∧
    (Instr.arbiterDecision .chipEntry ⟨[], [], [⟨15, 16, 0⟩], [], [], []⟩).wf = false ∧
    (Instr.arbiterDecision .chipEntry ⟨[15, 0], [1], [⟨15, 0, 0⟩], [(1, 0)], [], []⟩).wf = true ∧ (Instr.arbBackoffExpire .chipEntry 15).wf = true := by decide

theorem test_wf_runs :
    (Instr.runAdmit 0 []).wf = false ∧ (Instr.runAdmit 0 [3, 3]).wf = false ∧ (Instr.runAdmit 0 [3, 4]).wf = true ∧
    (Instr.atomicUnitRequest 0 (.cell 0) ⟨0#64, .add, .int32, []⟩ 0).wf = false ∧
    (Instr.atomicUnitRequest 0 (.cell 0) ⟨0#64, .add, .int32, List.replicate 17 ⟨0#6, 0#64, 0#64⟩⟩ 0).wf = false := by decide

theorem test_wf_memory :
    (Instr.memCtrlReadData 0 0 [⟨0, 1#64, 0#8⟩, ⟨0, 2#64, 0#8⟩]).wf = false ∧ (Instr.mergeReadDone 0 0 [⟨0, 1#64, 0#8⟩, ⟨0, 2#64, 0#8⟩]).wf = false ∧
    (Instr.memRd 0 { noIo with flips := [(0, [⟨8, 1#64, 0#8⟩])] }).wf = false ∧ (Instr.memRd 0 { noIo with flips := [(0, []), (0, [])] }).wf = false ∧
    (Instr.memWr 0 { noIo with flips := [(0, [⟨7, 1#64, 0#8⟩]), (64, [])] }).wf = true ∧
    (Instr.memCtrlReadData 0 0 [⟨0, 1#64, 0#8⟩]).wf = true ∧ (Instr.fecCodewordReceive 0 (List.replicate 9 0)).wf = false := by decide

theorem test_wf_datagrams (bs : List Byte) (h : bs.length = 1401) :
    (Instr.mgmtDatagram 0#64 0#32 1#16 1#16 []).wf = false ∧ (Instr.mgmtDatagram 0#64 0#32 0#16 1#16 bs).wf = false ∧
    (Instr.mgmtDatagram 0#64 0#32 0#16 1#16 []).wf = true ∧ (Instr.downloadMgmtDatagram 0#32 []).wf = false ∧
    (Instr.downloadMgmtDatagram 0#32 bs).wf = false := by
  refine ⟨by decide, ?_, by decide, by decide, ?_⟩ <;> simp [Instr.wf, h]

theorem test_wf_boot_and_power :
    (Instr.deepTrainDone [] [] []).wf = false ∧ (Instr.deepTrainDone (List.replicate 12 0#8) [(12, 0)] []).wf = false ∧
    (Instr.deepTrainDone (List.replicate 12 0#8) [(0, 0), (0, 0)] []).wf = false ∧ (Instr.katDone [⟨0#16, 0⟩, ⟨0#16, 0⟩]).wf = false ∧
    (Instr.powerSample true 12 0).wf = false ∧ (Instr.powerSample false 63 0).wf = true ∧ (Instr.ceilingWrite .mgmt false 64 0#10).wf = false ∧
    (Instr.regWrite 0#32 2#16 [0#32]).wf = false := by decide

end Sys2Proof.Tests
end

/-! PROOFS. Effects that add: what a shared operation may touch, with nothing sent taken back. -/

namespace Sys2Proof.Machine

/-- From s to t nothing changed outside the parts listed, and what had been sent stays sent. -/
def Adds (ps : List Part) (s t : State) : Prop := Frame ps s t ∧ s.out <+: t.out

theorem Adds.rfl {ps : List Part} (s : State) : Adds ps s s := ⟨Frame.rfl s, List.prefix_rfl⟩

theorem Adds.trans {ps : List Part} {s t u : State} (h : Adds ps s t) (k : Adds ps t u) : Adds ps s u :=
  ⟨h.1.trans k.1, h.2.trans k.2⟩

theorem Adds.mono {ps qs : List Part} {s t : State} (h : Adds ps s t) (hs : ∀ p ∈ ps, p ∈ qs) : Adds qs s t := ⟨h.1.mono hs, h.2⟩

theorem Adds.foldl {α : Type} {ps : List Part} {f : State → α → State} (h : ∀ st x, Adds ps st (f st x)) (l : List α) (s : State) :
    Adds ps s (l.foldl f s) := by
  induction l generalizing s with
  | nil => exact Adds.rfl s
  | cons x l ih => exact (h s x).trans (ih (f s x))

/-- A part outside those listed is the same. -/
theorem Adds.same {ps : List Part} {s t : State} (h : Adds ps s t) (p : Part) (hp : p ∉ ps) : p.same s t := h.1.2 p hp

theorem Adds.reported {ps : List Part} {s t : State} (h : Adds ps s t) {source code severity : Nat} {unit : BitVec 16}
    (hr : reported s source code severity unit) : reported t source code severity unit := by
  obtain ⟨r, hr, hrest⟩ := hr
  exact ⟨r, h.2.subset hr, hrest⟩

/-! Updates of one part, and of those that a region's end loses at once. -/

theorem adds_of_same {ps : List Part} {s t : State} (hq : t.pending = s.pending) (ho : t.out = s.out) (h : ∀ p, p ∈ ps ∨ p.same s t) :
    Adds ps s t :=
  ⟨⟨hq, fun p hp => (h p).resolve_left hp⟩, ho ▸ List.prefix_rfl⟩

theorem adds_tide (s : State) (x : Tide) : Adds [.tide] s { s with tide := x } :=
  adds_of_same rfl rfl (fun p => by cases p <;> simp [Part.same])

theorem adds_arb (s : State) (x : Arb) : Adds [.arb] s { s with arb := x } :=
  adds_of_same rfl rfl (fun p => by cases p <;> simp [Part.same])

theorem adds_fab (s : State) (x : Fab) : Adds [.fab] s { s with fab := x } :=
  adds_of_same rfl rfl (fun p => by cases p <;> simp [Part.same])

theorem adds_ras (s : State) (x : Ras) : Adds [.ras] s { s with ras := x } :=
  adds_of_same rfl rfl (fun p => by cases p <;> simp [Part.same])

theorem adds_health (s : State) (x : SMap BlkHealth) : Adds [.health] s { s with health := x } :=
  adds_of_same rfl rfl (fun p => by cases p <;> simp [Part.same])

theorem adds_remap (s : State) (x : List Remap) : Adds [.remap] s { s with remap := x } :=
  adds_of_same rfl rfl (fun p => by cases p <;> simp [Part.same])

theorem adds_lost (s : State) (x : Fab) (a : Arb) (y : Xlt) (l : List Remap) :
    Adds [.fab, .arb, .xlt, .remap] s { s with fab := x, arb := a, xlt := y, remap := l } :=
  adds_of_same rfl rfl (fun p => by cases p <;> simp [Part.same])

/-! Reports and counters. -/

theorem pushReport_adds (s : State) (r : Report) : Adds [.ras, .ctr, .serial] s (s.pushReport r) :=
  ⟨(pushReport_frame s r).mono (by simp), List.prefix_append _ _⟩

theorem countLost_adds (s : State) : Adds [.ras, .ctr, .serial] s s.countLost := by
  refine ⟨countLost_frame s, ?_⟩
  unfold State.countLost
  dsimp only
  split
  · exact List.prefix_rfl
  · split
    · exact List.prefix_append _ _
    · exact List.prefix_rfl

/-- A report raised is in the ring and sent; if another gave way to it, that is counted. -/
theorem pushReport_raise_adds (s : State) (r : Report) : Adds [.ras, .ctr, .serial] (s.pushReport r) (s.raise r) := by
  unfold State.raise
  dsimp only
  split
  · exact Adds.rfl _
  · exact countLost_adds _

theorem raise_adds (s : State) (r : Report) : Adds [.ras, .ctr, .serial] s (s.raise r) :=
  (pushReport_adds s r).trans (pushReport_raise_adds s r)

/-- A report raised after changes that send nothing keeps what had been sent before them. -/
theorem out_prefix_raise {s u : State} (h : u.out = s.out) (r : Report) : s.out <+: (u.raise r).out := h ▸ (raise_adds u r).2

theorem tally_adds (s : State) (off : Nat) : Adds [.ras, .ctr, .serial] s (s.tally off) := by
  refine ⟨tally_frame s off, ?_⟩
  unfold State.tally State.bump
  dsimp only
  split
  · exact List.prefix_rfl
  · split
    · exact out_prefix_raise (by rfl) _
    · exact List.prefix_rfl

theorem reported_raise (s : State) (source code severity : Nat) (unit : BitVec 16) (d0 d1 : Nat) :
    reported (s.raise (mkReport source code severity unit d0 d1)) source code severity unit :=
  (pushReport_raise_adds s _).reported
    ⟨_, List.mem_append_right _ (List.mem_singleton.2 rfl), rfl, rfl, rfl, rfl⟩

theorem nodeFatal_adds (s : State) (unit : BitVec 16) : Adds [.dbg, .links, .ras, .ctr, .serial] s (s.nodeFatal unit) := by
  refine ⟨nodeFatal_frame s unit, ?_⟩
  unfold State.nodeFatal
  dsimp only
  split
  · exact List.prefix_rfl
  · exact out_prefix_raise (by rfl) _

theorem nodeFatal_fatal (s : State) (unit : BitVec 16) : (s.nodeFatal unit).dbg.fatal = true := by
  unfold State.nodeFatal
  dsimp only
  split
  · assumption
  · refine (congrArg Dbg.fatal (frame_dbg (raise_frame _ _) (by decide))).trans ?_
    rfl

end Sys2Proof.Machine

/-! PROOFS. How a live device answers a command, in the shape the statements ask for. -/

namespace Sys2Proof.Machine

/-- A command whose meaning leaves a live device as it is changes nothing. -/
theorem live_idles {c : Instr} {s : State} {f : State → State} (hc : exec c s = .next (s.quiet.whenLive f)) (hl : s.live = true)
    (hf : f s.quiet = s.quiet) : ∃ t, exec c s = .next t ∧ Frame [] s t :=
  ⟨_, hc, Frame.whenLive hl (by rw [hf]; exact Frame.rfl _) (by rw [hf]; exact live_not_fatal hl)⟩

theorem setTide_frame (s : State) (x : Tide) : Frame [.tide] s (s.setTide x) := (adds_tide s x).1

/-- A command whose meaning on a live device is to set the tide record to x does that, and nothing else. -/
theorem live_setTide {c : Instr} {s : State} {f : State → State} {x : Tide} (hc : exec c s = .next (s.quiet.whenLive f))
    (hl : s.live = true) (hf : f s.quiet = s.quiet.setTide x) : ∃ t, exec c s = .next t ∧ t.tide = x ∧ Frame [.tide] s t := by
  refine ⟨_, hc, ?_, Frame.whenLive hl (hf ▸ setTide_frame _ _) (by rw [hf]; exact live_not_fatal hl)⟩
  rw [whenLive_of_live (s := s.quiet) f hl, settle_tide, hf, State.setTide_tide]

end Sys2Proof.Machine

/-! PROOFS. Reset values (R39, R40, R48 to R51, R417, R418, R480, R593). -/

namespace Sys2Proof.Machine

/-- Settles O8: each value stands in the reset record of its unit; an unlisted port reads as `PortCtrl.reset`. -/
theorem resetValuesOfRegisters : Obligations.ResetValuesOfRegisters := by
  unfold Obligations.ResetValuesOfRegisters
  exact ⟨rfl, rfl, rfl, rfl, rfl, rfl, rfl, rfl, rfl, rfl, rfl, rfl, rfl, fun _ => rfl, rfl, rfl, rfl, rfl, rfl, rfl⟩

end Sys2Proof.Machine

/-! PROOFS. The tide tick (spec/02): registers, the boundary's number, TIDE_IN. -/

namespace Sys2Proof.Machine

/-! The registers. -/

theorem writePeriod_accepts {s : State} {n : BitVec 4} (hm : s.tide.mode ≠ .follow) (hn : s.periodTooShort n = false) :
    s.writePeriod n = s.setTide { s.tide with periodNext := some n } := by
  simp [State.writePeriod, hm, hn]

theorem writePeriod_rejects {s : State} {n : BitVec 4} (h : s.tide.mode = .follow ∨ s.periodTooShort n = true) :
    s.writePeriod n = s.setTide { s.tide with periodReject := true } := by
  rcases h with h | h <;> simp [State.writePeriod, h]

theorem latchCount_emit_frame (s : State) (o : Out) : Frame [.tide] s (s.latchCount.emit o) :=
  (setTide_frame s _).trans (Frame.emit _ o)

/-- A written mode is in force at once; the reserved value changes nothing (R36, R39). -/
theorem writeMode_cases (t : Tide) (m : BitVec 2) :
    (m = 0#2 → (t.writeMode m).mode = .free) ∧ (m = 1#2 → (t.writeMode m).mode = .lead) ∧
    (m = 2#2 → (t.writeMode m).mode = .follow) ∧ (m = 3#2 → t.writeMode m = t) := by
  refine ⟨?_, ?_, ?_, ?_⟩ <;> rintro rfl
  · rfl
  · rfl
  · by_cases hf : t.mode = .follow
    · by_cases hp : t.phase = .stopped <;> simp [Tide.writeMode, Tide.acquire, hf, hp]
    · simp [Tide.writeMode, hf]
  · rfl

/-- A mode write keeps the tick number and the period. -/
theorem writeMode_count_period (t : Tide) (m : BitVec 2) :
    (t.writeMode m).count = t.count ∧ (t.writeMode m).period = t.period := by
  unfold Tide.writeMode
  split
  · exact ⟨rfl, rfl⟩
  · split
    · split
      · split <;> exact ⟨rfl, rfl⟩
      · exact ⟨rfl, rfl⟩
    · exact ⟨rfl, rfl⟩

/-- Settles O9: each register's rule is one equation of its write or read; through a window the meaning is the identity. -/
theorem tideRegisters : Obligations.TideRegisters := by
  unfold Obligations.TideRegisters
  refine ⟨fun n s hl hm hn => ?_, fun n s hl h => ?_, fun m s hl => ?_, fun via s hl => ?_, fun v s hl => ?_, fun p n m v s hl => ?_⟩
  · exact live_setTide rfl hl (writePeriod_accepts (s := s.quiet) hm hn)
  · exact live_setTide rfl hl (writePeriod_rejects (s := s.quiet) h)
  · obtain ⟨t, ht, hx, hF⟩ := live_setTide (c := .tideModeWrite .mgmt m) (x := s.tide.writeMode m) rfl hl rfl
    obtain ⟨h0, h1, h2, h3⟩ := writeMode_cases s.tide m
    exact ⟨t, ht, hF, hx ▸ h0, hx ▸ h1, hx ▸ h2, hx ▸ h3, fun _ => hx ▸ writeMode_count_period s.tide m⟩
  · refine ⟨_, rfl, ?_, ?_, Frame.whenLive hl (latchCount_emit_frame _ _) (live_not_fatal hl)⟩ <;>
      rw [whenLive_of_live (s := s.quiet) _ hl] <;> rfl
  · exact live_setTide rfl hl rfl
  · exact ⟨live_idles rfl hl rfl, live_idles rfl hl rfl, live_idles rfl hl rfl⟩

/-! The boundary. -/

/-- The number that a boundary has where no marker corrects it (R27). -/
def Tide.nextCount (t : Tide) : W64 := if t.started then t.count + 1#64 else 0#64

/-- Looking for the edge of the boundary before touches what the follower knows of edges, and not the tick's own registers. -/
theorem checkEdge_keeps (t : Tide) :
    t.checkEdge.started = t.started ∧ t.checkEdge.count = t.count ∧ t.checkEdge.load = t.load ∧ t.checkEdge.period = t.period ∧
    t.checkEdge.periodNext = t.periodNext ∧ t.checkEdge.outEn = t.outEn := by
  unfold Tide.checkEdge
  split <;> exact ⟨rfl, rfl, rfl, rfl, rfl, rfl⟩

/-- The record of the boundary as its number is settled: counted on, or marked. -/
def Tide.numbered (t : Tide) : Tide :=
  let t1 := { t with started := true, period := t.periodNext.getD t.period, periodNext := none }
  if t1.markerDue then t1.mark t.nextCount else { t1 with count := t.nextCount }

theorem numbered_keeps (t : Tide) :
    t.numbered.started = true ∧ t.numbered.period = t.periodNext.getD t.period ∧ t.numbered.periodNext = none ∧
    t.numbered.outEn = t.outEn := by
  unfold Tide.numbered
  dsimp only
  split <;> exact ⟨rfl, rfl, rfl, rfl⟩

theorem numbered_of_markerDue {t : Tide} (h : t.markerDue = true) :
    t.numbered.count = t.load.getD (markTick t.nextCount) ∧ t.numbered.load = none := by
  unfold Tide.numbered
  simp only [h, if_true, Tide.mark, and_true]
  cases t.load <;> rfl

theorem numbered_of_no_marker {t : Tide} (h : t.markerDue = false) : t.numbered.count = t.nextCount := by
  simp [Tide.numbered, h]

/-- TIDE_OUT at a boundary of number c (R36). -/
def tideOut (en : Bool) (c : W64) : TidePulse := if !en then .low else if c &&& 0xFFF#64 = 0#64 then .marker else .ordinary

theorem boundary_eq (t : Tide) :
    t.boundary = { t.numbered.checkEdge with out := tideOut t.numbered.checkEdge.outEn t.numbered.checkEdge.count } := rfl

theorem tideOut_disabled (c : W64) : tideOut false c = .low := rfl

theorem tideOut_enabled (c : W64) : (tideOut true c = .marker ↔ c &&& 0xFFF#64 = 0#64) ∧ tideOut true c ≠ .low := by
  by_cases h : c &&& 0xFFF#64 = 0#64 <;> simp [tideOut, h]

/-- A marker's number is a multiple of 4,096 (R38 step 6). -/
theorem markTick_low (v : W64) : markTick v &&& 0xFFF#64 = 0#64 := by
  unfold markTick
  rw [BitVec.and_assoc]
  simp

/-- What a boundary leaves in the tick's own registers, whatever the twelve steps do. -/
theorem tideTickBoundary_tide (inp : BoundaryIn) (s : State) : (tideTickBoundary inp s).tide = s.tide.boundary := rfl

/-- Settles O10: the boundary's last act is to set the tide record to what step 1 makes of it, so the claims are about Tide.boundary. -/
theorem boundaryNumbersTheTick : Obligations.BoundaryNumbersTheTick := by
  unfold Obligations.BoundaryNumbersTheTick
  intro inp s hl
  obtain ⟨hst, hcount, hload, hper, hnext, hen⟩ := checkEdge_keeps s.tide.numbered
  obtain ⟨nst, nper, nnext, nen⟩ := numbered_keeps s.tide
  have htide : (s.quiet.whenLive (tideTickBoundary inp)).tide = s.tide.boundary := by
    rw [whenLive_of_live (s := s.quiet) _ hl, settle_tide, tideTickBoundary_tide, State.quiet_tide]
  refine ⟨_, rfl, ?_⟩
  rw [htide, boundary_eq]
  dsimp only
  rw [hst, hcount, hload, hper, hnext, hen, nst, nper, nnext, nen]
  refine ⟨rfl, fun hm h0 => ?_, fun hm h1 => ?_, fun hm v hv => ?_, fun hm hv => ?_, rfl, rfl, ?_, ?_⟩
  · rw [numbered_of_no_marker hm]; simp [Tide.nextCount, h0]
  · rw [numbered_of_no_marker hm]; simp [Tide.nextCount, h1]
  · obtain ⟨hc, hn⟩ := numbered_of_markerDue hm
    exact ⟨by rw [hc, hv]; rfl, hn⟩
  · obtain ⟨hc, -⟩ := numbered_of_markerDue hm
    rw [hc, hv]; exact markTick_low _
  · intro h; rw [h]; exact tideOut_disabled _
  · intro h; rw [h]; exact tideOut_enabled _

end Sys2Proof.Machine

/-! PROOFS. TIDE_IN (R36 to R38): what each step of a pulse keeps, and what a pulse comes to. -/

namespace Sys2Proof.Machine

/-! What the steps of an edge keep. The tick's number, the loaded value and COUNT_SLIP change by a marker alone. -/

/-- The parts of the record that only a marker changes. -/
def Tide.sameNumber (t u : Tide) : Prop := u.count = t.count ∧ u.load = t.load ∧ u.countSlip = t.countSlip

theorem measure_keeps (t : Tide) (clocks e : Nat) :
    (t.measure clocks e).pulseDiscard = t.pulseDiscard ∧ t.sameNumber (t.measure clocks e) := by
  unfold Tide.measure
  dsimp only
  split
  · split <;> exact ⟨rfl, rfl, rfl, rfl⟩
  · split <;> exact ⟨rfl, rfl, rfl, rfl⟩

theorem marker_pulseDiscard (t : Tide) (early : Bool) : (t.marker early).pulseDiscard = t.pulseDiscard := by
  unfold Tide.marker
  split <;> rfl

theorem acquireEdge_pulseDiscard (t : Tide) (clocks b : Nat) (mk : Bool) :
    (t.acquireEdge clocks b mk).pulseDiscard = t.pulseDiscard := by
  unfold Tide.acquireEdge
  dsimp only
  split
  · split
    · exact marker_pulseDiscard _ _
    · rfl
  · split
    · exact marker_pulseDiscard _ _
    · rfl

theorem acquireEdge_ordinary (t : Tide) (clocks b : Nat) : t.sameNumber (t.acquireEdge clocks b false) := by
  unfold Tide.acquireEdge
  dsimp only
  split <;> exact ⟨rfl, rfl, rfl⟩

/-- A tracking follower's record once an edge's error is noted (R38 steps 3 to 5), before the edge counts as a marker. -/
def Tide.noteEdge (t : Tide) (err : BitVec 16) : Tide :=
  if 64 < err.toInt.natAbs then { t with locked := false, goodRun := 0, phaseError := err }
  else { t with phase := .track, holdover := false, missRun := 0, phaseError := err,
                edgeSeen := t.edgeSeen || decide (0 ≤ err.toInt), edgeNext := t.edgeNext || decide (err.toInt < 0),
                goodRun := if err.toInt.natAbs ≤ 8 then t.goodRun + 1 else 0 }

/-- An edge far off in holdover starts acquisition; any other is noted, and marks its boundary if it is a marker. -/
theorem trackEdge_eq (t : Tide) (clocks b : Nat) (err : BitVec 16) (mk : Bool) :
    t.trackEdge clocks b err mk =
      if 64 < err.toInt.natAbs ∧ t.phase = .holdover then { t with phase := .acquire, goodRun := 0 }.acquireEdge clocks b mk
      else if mk then (t.noteEdge err).marker (decide (err.toInt < 0)) else t.noteEdge err := by
  simp only [Tide.trackEdge, Tide.noteEdge, Bool.and_eq_true, decide_eq_true_eq, beq_iff_eq]

theorem noteEdge_keeps (t : Tide) (err : BitVec 16) :
    (t.noteEdge err).pulseDiscard = t.pulseDiscard ∧ t.sameNumber (t.noteEdge err) := by
  unfold Tide.noteEdge
  split <;> exact ⟨rfl, rfl, rfl, rfl⟩

theorem trackEdge_pulseDiscard (t : Tide) (clocks b : Nat) (err : BitVec 16) (mk : Bool) :
    (t.trackEdge clocks b err mk).pulseDiscard = t.pulseDiscard := by
  rw [trackEdge_eq]
  split
  · exact acquireEdge_pulseDiscard _ _ _ _
  · split
    · rw [marker_pulseDiscard, (noteEdge_keeps t err).1]
    · exact (noteEdge_keeps t err).1

theorem trackEdge_ordinary (t : Tide) (clocks b : Nat) (err : BitVec 16) : t.sameNumber (t.trackEdge clocks b err false) := by
  rw [trackEdge_eq]
  split
  · exact acquireEdge_ordinary _ _ _
  · exact (noteEdge_keeps t err).2

/-- Where the follower tracks, the edge is noted whatever its error. -/
theorem trackEdge_of_track {t : Tide} (h : t.phase = .track) (clocks b : Nat) (err : BitVec 16) (mk : Bool) :
    t.trackEdge clocks b err mk = if mk then (t.noteEdge err).marker (decide (err.toInt < 0)) else t.noteEdge err := by
  rw [trackEdge_eq, if_neg (by simp [h])]

/-! What a pulse comes to. -/

def ordinaryWidth (w : Nat) : Bool := decide (50 ≤ w) && decide (w ≤ 150)
def markerWidth (w : Nat) : Bool := decide (250 ≤ w) && decide (w ≤ 400)

theorem tideInPulse_ignored {s : State} (h : s.tide.mode ≠ .follow) (w : Nat) (raw : BitVec 16) (b e : Nat) :
    tideInPulse w raw b e s = s := by
  simp [tideInPulse, h]

theorem tideInPulse_discarded {s : State} (hm : s.tide.mode = .follow) {w : Nat} (ho : ordinaryWidth w = false)
    (hk : markerWidth w = false) (raw : BitVec 16) (b e : Nat) :
    tideInPulse w raw b e s = s.setTide { s.tide with pulseDiscard := true } := by
  unfold ordinaryWidth at ho
  unfold markerWidth at hk
  simp [tideInPulse, hm, ho, hk]

/-- What an accepted pulse makes of the follower's record: its interval is measured, and its edge taken where the phase says. -/
def Tide.pulse (t : Tide) (clocks b e : Nat) (raw : BitVec 16) (mk : Bool) : Tide :=
  if t.phase == .stopped then t
  else
    let u := t.measure clocks e
    match u.phase with
    | .stopped => u
    | .acquire => u.acquireEdge clocks (b + u.comp.toNat) mk
    | _ => u.trackEdge clocks (b + u.comp.toNat) (u.edgeError raw) mk

theorem tideInPulse_accepted {s : State} (hm : s.tide.mode = .follow) {w : Nat} (hw : ordinaryWidth w = true ∨ markerWidth w = true)
    (raw : BitVec 16) (b e : Nat) :
    tideInPulse w raw b e s = s.setTide (s.tide.pulse (1900 * s.periodUs) b e raw (markerWidth w)) := by
  have hacc : (!ordinaryWidth w && !markerWidth w) = false := by rcases hw with h | h <;> simp [h]
  unfold ordinaryWidth markerWidth at hacc
  unfold tideInPulse Tide.pulse markerWidth
  simp only [hm, bne_self_eq_false, Bool.false_eq_true, if_false, hacc]
  split
  · rfl
  · cases (s.tide.measure (1900 * s.periodUs) e).phase <;> rfl

theorem pulse_pulseDiscard (t : Tide) (clocks b e : Nat) (raw : BitVec 16) (mk : Bool) :
    (t.pulse clocks b e raw mk).pulseDiscard = t.pulseDiscard := by
  obtain ⟨hd, -⟩ := measure_keeps t clocks e
  unfold Tide.pulse
  split
  · rfl
  · dsimp only
    split
    · exact hd
    · rw [acquireEdge_pulseDiscard, hd]
    · rw [trackEdge_pulseDiscard, hd]

theorem pulse_ordinary (t : Tide) (clocks b e : Nat) (raw : BitVec 16) : t.sameNumber (t.pulse clocks b e raw false) := by
  have trans : ∀ {u v : Tide}, t.sameNumber u → u.sameNumber v → t.sameNumber v := fun h k =>
    ⟨k.1.trans h.1, k.2.1.trans h.2.1, k.2.2.trans h.2.2⟩
  obtain ⟨-, hn⟩ := measure_keeps t clocks e
  unfold Tide.pulse
  split
  · exact ⟨rfl, rfl, rfl⟩
  · dsimp only
    split
    · exact hn
    · exact trans hn (acquireEdge_ordinary _ _ _)
    · exact trans hn (trackEdge_ordinary _ _ _ _)

/-- A follower's record after an interval measurement that found no mismatch. -/
def Tide.measured (t : Tide) : Tide := { t with mismatchRun := 0, edgeKnown := true }

/-- An interval within 64 clocks of the own period, or a first edge, is no mismatch (R38 step 2). -/
theorem measure_good {t : Tide} {clocks e : Nat} (h : t.edgeKnown = false ∨ (e ≤ clocks + 64 ∧ clocks ≤ e + 64)) :
    t.measure clocks e = t.measured := by
  have hoff : (t.edgeKnown && (decide (clocks + 64 < e) || decide (e + 64 < clocks))) = false := by
    rcases h with h | ⟨h1, h2⟩
    · simp [h]
    · simp only [Bool.and_eq_false_iff, Bool.or_eq_false_iff, decide_eq_false_iff_not]
      exact .inr ⟨by omega, by omega⟩
  simp [Tide.measure, Tide.measured, hoff]

/-- A tracking follower with no mismatch notes the edge, and marks a boundary if it is a marker. -/
theorem pulse_tracking {t : Tide} (hp : t.phase = .track) {clocks e : Nat}
    (h : t.edgeKnown = false ∨ (e ≤ clocks + 64 ∧ clocks ≤ e + 64)) (b : Nat) (raw : BitVec 16) (mk : Bool) :
    t.pulse clocks b e raw mk =
      let u := t.measured.noteEdge (t.edgeError raw)
      if mk then u.marker (decide ((t.edgeError raw).toInt < 0)) else u := by
  have hm : t.measured.phase = .track := hp
  have hs : (t.phase == .stopped) = false := by rw [hp]; rfl
  unfold Tide.pulse
  simp only [hs, Bool.false_eq_true, if_false, measure_good h, hm]
  exact trackEdge_of_track hm _ _ _ _

/-- What noting an edge leaves in a tracking follower's registers (R38 steps 3 and 4). -/
theorem noteEdge_tracking {t : Tide} (hp : t.phase = .track) (err : BitVec 16) :
    (t.noteEdge err).phaseError = err ∧ (t.noteEdge err).phase = .track ∧ (t.noteEdge err).mismatchRun = t.mismatchRun ∧
    (err.toInt.natAbs ≤ 8 → (t.noteEdge err).goodRun = t.goodRun + 1 ∧ (t.noteEdge err).locked = t.locked) ∧
    (8 < err.toInt.natAbs → (t.noteEdge err).goodRun = 0) ∧ (64 < err.toInt.natAbs → (t.noteEdge err).locked = false) := by
  unfold Tide.noteEdge
  by_cases hfar : 64 < err.toInt.natAbs
  · simp only [hfar, if_true]
    exact ⟨trivial, hp, trivial, fun h => absurd h (by omega), fun _ => trivial, fun _ => trivial⟩
  · simp only [hfar, if_false]
    exact ⟨trivial, trivial, trivial, fun h => ⟨if_pos h, trivial⟩, fun h => if_neg (by omega), fun h => h.elim⟩

/-- A late marker numbers the tick at once (R38 step 6). -/
theorem marker_late (t : Tide) :
    (t.marker false).load = none ∧ (t.marker false).count = t.load.getD (markTick t.count) ∧
    ((t.marker false).countSlip = true ↔ t.countSlip = true ∨ t.count &&& 0xFFF#64 ≠ 0#64) := by
  refine ⟨rfl, ?_, ?_⟩
  · show (match t.load with | some v => v | none => markTick t.count) = _
    cases t.load <;> rfl
  · show (t.countSlip || t.count &&& 0xFFF#64 != 0#64) = true ↔ _
    simp

/-- A pulse that a live device's meaning answers by a record x leaves that record, and nothing else changed. -/
theorem live_tideInPulse {w : Nat} {raw : BitVec 16} {b e : Nat} {s : State} {x : Tide} (hl : s.live = true)
    (h : tideInPulse w raw b e s.quiet = s.quiet.setTide x) :
    ∃ t, exec (.tideInPulse w raw b e) s = .next t ∧ t.tide = x ∧ Frame [.tide] s t := live_setTide rfl hl h

theorem markerWidth_of_ordinary {w : Nat} (h : ordinaryWidth w = true) : markerWidth w = false := by
  simp only [ordinaryWidth, markerWidth, Bool.and_eq_true, decide_eq_true_eq, Bool.and_eq_false_iff, decide_eq_false_iff_not] at *
  omega

theorem ordinaryWidth_iff {w : Nat} : ordinaryWidth w = true ↔ 50 ≤ w ∧ w ≤ 150 := by simp [ordinaryWidth]

theorem markerWidth_iff {w : Nat} : markerWidth w = true ↔ 250 ≤ w ∧ w ≤ 400 := by simp [markerWidth]

/-- Settles O16: an accepted pulse is `Tide.pulse`, whose steps keep PULSE_DISCARD, and the number too unless it is a marker. -/
theorem pulseWidths : Obligations.PulseWidths := by
  unfold Obligations.PulseWidths
  intro w raw b e s hl hm
  rw [← ordinaryWidth_iff, ← markerWidth_iff]
  by_cases hw : ordinaryWidth w = true ∨ markerWidth w = true
  · obtain ⟨t, ht, hx, hF⟩ := live_tideInPulse hl (tideInPulse_accepted (s := s.quiet) hm hw raw b e)
    rw [State.quiet_tide] at hx
    refine ⟨t, ht, hF, fun _ => hx ▸ pulse_pulseDiscard _ _ _ _ _ _, fun ho => ?_, fun hk hp herr hek => ?_, fun hn => absurd hw ?_⟩
    · rw [hx, markerWidth_of_ordinary ho]
      exact pulse_ordinary _ _ _ _ _
    · rw [hx, hk, pulse_tracking hp (.inl hek)]
      simp only [if_true, show decide ((s.tide.edgeError raw).toInt < 0) = false from decide_eq_false (by omega)]
      exact (marker_late _).1
    · exact not_or.2 hn
  · obtain ⟨ho, hk⟩ := not_or.1 hw
    obtain ⟨t, ht, hx, hF⟩ :=
      live_tideInPulse hl (tideInPulse_discarded (s := s.quiet) hm (Bool.eq_false_iff.2 ho) (Bool.eq_false_iff.2 hk) raw b e)
    exact ⟨t, ht, hF, fun h => absurd h hw, fun h => absurd h ho, fun h => absurd h hk, fun _ => hx⟩

/-- Settles O11: outside FOLLOW a pulse is ignored, a bad width discarded, and a tracking follower with no mismatch notes the edge
(`pulse_tracking`), a late marker renumbering the tick as well (`marker_late`). -/
theorem tideInPulses : Obligations.TideInPulses := by
  unfold Obligations.TideInPulses
  refine ⟨fun w raw b e s hl hm => live_idles rfl hl (tideInPulse_ignored (s := s.quiet) hm w raw b e),
    fun w raw b e s hl hm hw => ?_, fun w raw b e s hl hm hp h1 h2 h3 h4 => ?_, fun w raw b e s hl hm hp h1 h2 h3 h4 herr => ?_,
    fun s hl hm hp hr => ?_, fun s hl hm hp hr => ?_⟩
  · have ho : ordinaryWidth w = false := Bool.eq_false_iff.2 (fun h => by have := ordinaryWidth_iff.1 h; omega)
    have hk : markerWidth w = false := Bool.eq_false_iff.2 (fun h => by have := markerWidth_iff.1 h; omega)
    exact live_tideInPulse hl (tideInPulse_discarded (s := s.quiet) hm ho hk raw b e)
  · have ho := ordinaryWidth_iff.2 ⟨h1, h2⟩
    obtain ⟨t, ht, hx, hF⟩ := live_tideInPulse hl (tideInPulse_accepted (s := s.quiet) hm (.inl ho) raw b e)
    obtain ⟨hcount, -, -⟩ := pulse_ordinary s.tide (1900 * s.periodUs) b e raw
    rw [State.quiet_tide, markerWidth_of_ordinary ho] at hx
    refine ⟨t, ht, hF, hx ▸ hcount, ?_⟩
    rw [hx, show s.quiet.periodUs = s.periodUs from rfl, pulse_tracking hp (.inr ⟨h3, h4⟩)]
    exact noteEdge_tracking (t := s.tide.measured) hp (s.tide.edgeError raw)
  · have hk := markerWidth_iff.2 ⟨h1, h2⟩
    obtain ⟨t, ht, hx, hF⟩ := live_tideInPulse hl (tideInPulse_accepted (s := s.quiet) hm (.inr hk) raw b e)
    rw [State.quiet_tide, hk, show s.quiet.periodUs = s.periodUs from rfl, pulse_tracking hp (.inr ⟨h3, h4⟩)] at hx
    simp only [if_true, show decide ((s.tide.edgeError raw).toInt < 0) = false from decide_eq_false (by omega)] at hx
    obtain ⟨-, ncount, nload, nslip⟩ := noteEdge_keeps s.tide.measured (s.tide.edgeError raw)
    obtain ⟨hload, hcount, hslip⟩ := marker_late (s.tide.measured.noteEdge (s.tide.edgeError raw))
    rw [nload, ncount] at hcount
    rw [nslip, ncount] at hslip
    rw [← hx] at hload hcount hslip
    replace hcount : t.tide.count = s.tide.load.getD (markTick s.tide.count) := hcount
    exact ⟨t, ht, hF, hload, fun v hv => by rw [hcount, hv]; rfl, fun hv => by rw [hcount, hv]; rfl, hslip⟩
  · exact live_setTide rfl hl (by simp [tideLocked, hm, hp, hr])
  · have hf : tideHoldover s.quiet =
        (s.quiet.setTide { s.tide with holdover := true, locked := false, phase := .holdover, goodRun := 0 }).raise
          (mkReport 0x0E 0x01 0 unitTideIn 0 0) := by simp [tideHoldover, hm, hp, hr]
    have hfr : Frame [.tide, .ras, .ctr, .serial] s.quiet (tideHoldover s.quiet) := by
      rw [hf]
      exact ((setTide_frame _ _).mono (by simp)).trans ((raise_frame _ _).mono (by simp))
    refine ⟨_, rfl, ?_, ?_, Frame.whenLive hl hfr ((frame_dbg hfr (by simp)).symm ▸ live_not_fatal hl)⟩ <;>
      rw [whenLive_of_live (s := s.quiet) _ hl, hf]
    · exact (raise_frame _ _).2 .tide (by simp)
    · exact reported_raise _ _ _ _ _ _ _

end Sys2Proof.Machine

/-! PROOFS. Arbitration (R42 to R46): who asks, who wins, and what the decision leaves. -/

namespace Sys2Proof.Machine

/-! The winner among slots with classes (R43). -/

/-- The best class of a list of claims: none is better, and one has it unless none is better than the bound. -/
theorem foldl_min_class (cs : List (Nat × Nat)) (b : Nat) :
    (∀ c ∈ cs, cs.foldl (fun m c => min m c.2) b ≤ c.2) ∧ cs.foldl (fun m c => min m c.2) b ≤ b ∧
    (cs.foldl (fun m c => min m c.2) b = b ∨ ∃ c ∈ cs, c.2 = cs.foldl (fun m c => min m c.2) b) := by
  induction cs generalizing b with
  | nil => exact ⟨fun c hc => absurd hc List.not_mem_nil, le_rfl, .inl rfl⟩
  | cons x cs ih =>
    obtain ⟨hle, hb, hat⟩ := ih (min b x.2)
    rw [List.foldl_cons]
    refine ⟨fun c hc => ?_, hb.trans (min_le_left _ _), ?_⟩
    · rcases List.mem_cons.1 hc with rfl | hc
      · exact hb.trans (min_le_right _ _)
      · exact hle c hc
    · rcases hat with hat | ⟨c, hc, he⟩
      · rcases min_choice b x.2 with hm | hm
        · exact .inl (hat.trans hm)
        · exact .inr ⟨x, List.mem_cons_self .., (hat.trans hm).symm⟩
      · exact .inr ⟨c, List.mem_cons_of_mem _ hc, he⟩

/-- The head of a list in slot order is its lowest slot. -/
theorem head_le_of_sorted {xs : List (Nat × Nat)} (hs : xs.Pairwise (fun a b => a.1 < b.1)) {c : Nat × Nat} (h : xs.head? = some c) :
    ∀ d ∈ xs, c.1 ≤ d.1 := by
  obtain ⟨ys, rfl⟩ := List.head?_eq_some_iff.1 h
  intro d hd
  rcases List.mem_cons.1 hd with rfl | hd
  · exact le_rfl
  · exact ((List.pairwise_cons.1 hs).1 d hd).le

/-- Slot w is the first after the previous winner among the slots of a set, or the lowest where none follows or none has won (R43). -/
def firstAfter (last : Option Nat) (p : Nat → Prop) (w : Nat) : Prop :=
  (∀ v, last = some v → (v < w → ∀ i, p i → v < i → w ≤ i) ∧ (w ≤ v → ∀ i, p i → i ≤ v ∧ w ≤ i)) ∧
  (last = none → ∀ i, p i → w ≤ i)

/-- The slot that R43 takes among claims of one class: the first after the previous winner, else the first. -/
def pickAfter (last : Option Nat) (xs : List (Nat × Nat)) : Option (Nat × Nat) :=
  match last with
  | none => xs.head?
  | some v => match xs.find? (fun c => decide (v < c.1)) with
    | some c => some c
    | none => xs.head?

theorem arbWinner_eq (lw : SMap Nat) (cs : List (Nat × Nat)) :
    arbWinner lw cs = pickAfter (tget lw (cs.foldl (fun m c => min m c.2) 4))
      (cs.filter (fun c => c.2 == cs.foldl (fun m c => min m c.2) 4)) := rfl

/-- Among claims in slot order one is picked, and it is the first after the previous winner. -/
theorem pickAfter_spec (last : Option Nat) {xs : List (Nat × Nat)} (hs : xs.Pairwise (fun a b => a.1 < b.1)) (hne : xs ≠ []) :
    ∃ c ∈ xs, pickAfter last xs = some c ∧ firstAfter last (fun i => ∃ d ∈ xs, d.1 = i) c.1 := by
  obtain ⟨d, hd⟩ : ∃ d, xs.head? = some d := ⟨_, List.head?_eq_some_head hne⟩
  have hdx : d ∈ xs := List.mem_of_head? hd
  have hlow := head_le_of_sorted hs hd
  cases last with
  | none => exact ⟨d, hdx, hd, ⟨fun v h => (nomatch h), fun _ i ⟨x, hx, hi⟩ => hi ▸ hlow x hx⟩⟩
  | some v =>
    cases hf : xs.find? (fun c => decide (v < c.1)) with
    | some c =>
      have hvc : v < c.1 := by simpa using List.find?_some hf
      have hfirst := head_le_of_sorted (hs.filter (fun c => decide (v < c.1))) (c := c) (by rw [List.head?_filter, hf])
      refine ⟨c, List.mem_of_find?_eq_some hf, by simp only [pickAfter, hf], ⟨fun u hu => ?_, fun h => (nomatch h)⟩⟩
      obtain rfl := Option.some.inj hu
      exact ⟨fun _ i ⟨x, hx, hi⟩ hlt => hi ▸ hfirst x (List.mem_filter.2 ⟨hx, decide_eq_true (hi ▸ hlt)⟩),
        fun h => absurd h (by omega)⟩
    | none =>
      have hle : ∀ x ∈ xs, x.1 ≤ v := fun x hx => by simpa using List.find?_eq_none.1 hf x hx
      refine ⟨d, hdx, by simp only [pickAfter, hf, hd], ⟨fun u hu => ?_, fun h => (nomatch h)⟩⟩
      obtain rfl := Option.some.inj hu
      exact ⟨fun h => absurd (hle d hdx) (by omega), fun _ i ⟨x, hx, hi⟩ => hi ▸ ⟨hle x hx, hlow x hx⟩⟩

/-- Of the claims in slot order some one wins: of the best class, and in it the first after its previous winner. -/
theorem arbWinner_spec {lw : SMap Nat} {cs : List (Nat × Nat)} (hs : cs.Pairwise (fun a b => a.1 < b.1))
    (h4 : ∀ c ∈ cs, c.2 < 4) (hne : cs ≠ []) :
    ∃ c ∈ cs, arbWinner lw cs = some c ∧ (∀ d ∈ cs, c.2 ≤ d.2) ∧
      firstAfter (tget lw c.2) (fun i => ∃ d ∈ cs, d.2 = c.2 ∧ d.1 = i) c.1 := by
  obtain ⟨hle, -, hat⟩ := foldl_min_class cs 4
  rw [arbWinner_eq]
  generalize cs.foldl (fun m c => min m c.2) 4 = best at hle hat ⊢
  have hxs : ∀ {c}, c ∈ cs.filter (fun c => c.2 == best) ↔ c ∈ cs ∧ c.2 = best := by simp [List.mem_filter]
  obtain ⟨c0, hc0, hcls⟩ : ∃ c ∈ cs, c.2 = best := by
    refine hat.resolve_left (fun he => ?_)
    obtain ⟨c, hc⟩ := List.exists_mem_of_ne_nil cs hne
    exact absurd (hle c hc) (by have := h4 c hc; omega)
  obtain ⟨c, hc, hpick, hfirst⟩ :=
    pickAfter_spec (tget lw best) (hs.filter (fun c => c.2 == best)) (List.ne_nil_of_mem (hxs.2 ⟨hc0, hcls⟩))
  obtain ⟨hmem, rfl⟩ := hxs.1 hc
  simp only [hxs, and_assoc] at hfirst
  exact ⟨c, hmem, hpick, hle, hfirst⟩

/-! Who asks. -/

@[simp] theorem turnRing_arbiter (s : State) (a b : ArbId) (inp : ArbIn) : (s.turnRing a inp).arbiter b = s.arbiter b := by
  unfold State.turnRing
  split <;> rfl

@[simp] theorem turnRing_slotClass (s : State) (a b : ArbId) (inp : ArbIn) (i : Nat) :
    (s.turnRing a inp).slotClass b i = s.slotClass b i := by
  unfold State.turnRing
  split <;> rfl

/-- A decision's ring is the same whatever was sent before. -/
theorem turnRing_quiet (s : State) (a : ArbId) (inp : ArbIn) : s.quiet.turnRing a inp = (s.turnRing a inp).quiet := by
  unfold State.turnRing
  split <;> rfl

theorem mayEnter_quiet (s : State) (a : ArbId) (inp : ArbIn) (i : Nat) : s.quiet.mayEnter a inp i = s.mayEnter a inp i := by
  unfold State.mayEnter
  split <;> rfl

theorem asks_quiet (s : State) (a : ArbId) (inp : ArbIn) (i : Nat) : s.quiet.asks a inp i ↔ s.asks a inp i := by
  unfold State.asks
  rw [turnRing_quiet, mayEnter_quiet]
  exact Iff.rfl

/-- The slots that ask, in slot order. -/
def State.askers (s : State) (a : ArbId) (inp : ArbIn) : List Nat :=
  (List.range (arbSlots a)).filter (fun i => inp.asserted.contains i && s.backoffAt a inp i == 0 && (s.turnRing a inp).mayEnter a inp i)

theorem mem_askers {s : State} {a : ArbId} {inp : ArbIn} {i : Nat} : i ∈ s.askers a inp ↔ s.asks a inp i := by
  simp [State.askers, State.asks, and_assoc]

/-- The slots that ask with the classes their requests count as. -/
def State.claims (s : State) (a : ArbId) (inp : ArbIn) : List (Nat × Nat) := (s.askers a inp).map (fun i => (i, s.effClass a inp i))

theorem mem_claims {s : State} {a : ArbId} {inp : ArbIn} {c : Nat × Nat} :
    c ∈ s.claims a inp ↔ s.asks a inp c.1 ∧ s.effClass a inp c.1 = c.2 := by
  obtain ⟨i, cls⟩ := c
  simp only [State.claims, List.mem_map, mem_askers, Prod.mk.injEq]
  exact ⟨fun ⟨j, hj, hji, hc⟩ => hji ▸ ⟨hj, hc⟩, fun ⟨hi, hc⟩ => ⟨i, hi, rfl, hc⟩⟩

theorem mem_claims_self {s : State} {a : ArbId} {inp : ArbIn} {i : Nat} (h : s.asks a inp i) :
    (i, s.effClass a inp i) ∈ s.claims a inp := mem_claims.2 ⟨h, rfl⟩

theorem claims_sorted (s : State) (a : ArbId) (inp : ArbIn) : (s.claims a inp).Pairwise (fun x y => x.1 < y.1) :=
  List.pairwise_map.2 (List.pairwise_lt_range.filter _)

/-- A class has two bits (R48 to R51, R434). -/
theorem slotClass_lt (s : State) (a : ArbId) (i : Nat) : s.slotClass a i < 4 := by
  have hfield : ∀ v j, classField v j < 4 := fun v j => Nat.mod_lt _ (by omega)
  cases a with
  | mem ch => exact Nat.zero_lt_succ _
  | fetch =>
    show (tget s.que.qps i).elim 0 (fun x => x.cfg.cls.toNat) < 4
    cases tget s.que.qps i with
    | none => exact Nat.zero_lt_succ _
    | some x => exact x.cfg.cls.isLt
  | _ => exact hfield _ _

theorem effClass_lt (s : State) (a : ArbId) (inp : ArbIn) (i : Nat) : s.effClass a inp i < 4 := by
  unfold State.effClass
  split
  · omega
  · exact slotClass_lt s a i

/-! What a decision leaves. -/

/-- An arbiter's record when a decision begins: withdrawn requests forgotten, nothing granted yet. -/
def Arbiter.opened (r : Arbiter) (l : List Nat) : Arbiter := { r.withdraw l with granted := none }

/-- An arbiter's record when w of the slots that ask is granted in a class (R43, R44). -/
def Arbiter.grant (r : Arbiter) (ask : List Nat) (w cls : Nat) : Arbiter :=
  let r2 := (ask.filter (fun i => i != w)).foldl Arbiter.lose r
  { r2 with granted := some w, losses := tdel r2.losses w, lastWinner := tput r2.lastWinner cls w }

/-- A decision with a winner grants it, and the packet of the winner enters the ring. -/
theorem arbDecide_winner {s : State} {a : ArbId} {inp : ArbIn} {w cls : Nat}
    (h : arbWinner (s.arbiter a).lastWinner (s.claims a inp) = some (w, cls)) :
    s.arbDecide a inp =
      ((s.turnRing a inp).setArbiter a (((s.arbiter a).opened inp.withdrawn).grant (s.askers a inp) w cls)).enterRing a inp w := by
  unfold State.arbDecide State.arbChoose
  simp only [turnRing_arbiter, turnRing_slotClass]
  show (match arbWinner (s.arbiter a).lastWinner (s.claims a inp) with
    | none => (s.turnRing a inp).setArbiter a ((s.arbiter a).opened inp.withdrawn)
    | some (w, cls) =>
      ((s.turnRing a inp).setArbiter a (((s.arbiter a).opened inp.withdrawn).grant (s.askers a inp) w cls)).enterRing a inp w) = _
  rw [h]

@[simp] theorem setArbiter_arbiter (s : State) (a : ArbId) (r : Arbiter) : (s.setArbiter a r).arbiter a = r :=
  mget_mset_same Arbiter.idle s.arb.arbiters (arbKey a) r

@[simp] theorem setRing_ring (s : State) (k : Nat) (r : Ring) : (s.setRing k r).ring k = r :=
  mget_mset_same Ring.empty s.arb.rings k r

/-- Putting a packet on the ring changes neither an arbiter's record nor a class. -/
theorem enterRing_keeps (s : State) (a b : ArbId) (inp : ArbIn) (i : Nat) :
    (s.enterRing a inp i).arbiter b = s.arbiter b ∧ (s.enterRing a inp i).arb.inForce = s.arb.inForce ∧
    (s.enterRing a inp i).arb.written = s.arb.written := by
  unfold State.enterRing
  split <;> exact ⟨rfl, rfl, rfl⟩

theorem enterRing_no_ring {s : State} {a : ArbId} (h : ringIx a = none) (inp : ArbIn) (i : Nat) : s.enterRing a inp i = s := by
  simp [State.enterRing, h]

theorem enterRing_ring {s : State} {a : ArbId} {k : Nat} (h : ringIx a = some k) {inp : ArbIn} {i : Nat} {d : RingWant}
    (hd : inp.wants.find? (fun w => w.slot == i) = some d) :
    (s.enterRing a inp i).ring k = (s.ring k).enter (ringStops k) d := by
  unfold State.enterRing
  rw [h, hd]
  exact setRing_ring _ _ _

/-- A slot that asks at a ring entry has a packet. -/
theorem asks_want {s : State} {a : ArbId} {inp : ArbIn} {i k : Nat} (h : s.asks a inp i) (hk : ringIx a = some k) :
    ∃ d, inp.wants.find? (fun w => w.slot == i) = some d ∧ d ∈ inp.wants ∧ d.slot = i := by
  obtain ⟨-, -, -, hm⟩ := h
  unfold State.mayEnter at hm
  rw [hk] at hm
  obtain ⟨d, hd, -⟩ := (Option.any_eq_true _ _).1 hm
  exact ⟨d, hd, List.mem_of_find?_eq_some hd, by simpa using List.find?_some hd⟩

theorem turnRing_keeps (s : State) (a : ArbId) (inp : ArbIn) :
    (s.turnRing a inp).arb.inForce = s.arb.inForce ∧ (s.turnRing a inp).arb.written = s.arb.written := by
  unfold State.turnRing
  split <;> exact ⟨rfl, rfl⟩

theorem turnRing_no_ring {s : State} {a : ArbId} (h : ringIx a = none) (inp : ArbIn) : s.turnRing a inp = s := by
  simp [State.turnRing, h]

theorem turnRing_frame (s : State) (a : ArbId) (inp : ArbIn) : Frame [.arb] s (s.turnRing a inp) := by
  unfold State.turnRing
  split
  · exact Frame.rfl s
  · exact (adds_arb _ _).1

theorem enterRing_frame (s : State) (a : ArbId) (inp : ArbIn) (i : Nat) : Frame [.arb] s (s.enterRing a inp i) := by
  unfold State.enterRing
  split
  · exact (adds_arb _ _).1
  · exact Frame.rfl s

theorem foldl_lose_lastWinner (r : Arbiter) (l : List Nat) : (l.foldl Arbiter.lose r).lastWinner = r.lastWinner := by
  induction l generalizing r with
  | nil => rfl
  | cons i l ih => exact ih (r.lose i)

theorem grant_lastWinner (r : Arbiter) (ask : List Nat) (w cls : Nat) :
    (r.grant ask w cls).lastWinner = tput r.lastWinner cls w := by
  show tput ((ask.filter (fun i => i != w)).foldl Arbiter.lose r).lastWinner cls w = _
  rw [foldl_lose_lastWinner]

/-- A decision in which some slot asks grants one: of the best class among those that ask, and in it the first after its previous winner. -/
theorem arbDecide_grants {s : State} {a : ArbId} {inp : ArbIn} (h : ∃ i, s.asks a inp i) :
    ∃ w, s.asks a inp w ∧ (∀ i, s.asks a inp i → s.effClass a inp w ≤ s.effClass a inp i) ∧
      firstAfter (tget (s.arbiter a).lastWinner (s.effClass a inp w))
        (fun i => s.asks a inp i ∧ s.effClass a inp i = s.effClass a inp w) w ∧
      s.arbDecide a inp = ((s.turnRing a inp).setArbiter a
        (((s.arbiter a).opened inp.withdrawn).grant (s.askers a inp) w (s.effClass a inp w))).enterRing a inp w := by
  have h4 : ∀ c ∈ s.claims a inp, c.2 < 4 := fun c hc => (mem_claims.1 hc).2 ▸ effClass_lt s a inp c.1
  have hne : s.claims a inp ≠ [] := by
    obtain ⟨i, hi⟩ := h
    exact List.ne_nil_of_mem (mem_claims_self hi)
  obtain ⟨⟨w, cls⟩, hw, hwin, hbest, hfirst⟩ := arbWinner_spec (lw := (s.arbiter a).lastWinner) (claims_sorted s a inp) h4 hne
  obtain ⟨hask, hcls⟩ := mem_claims.1 hw
  dsimp only at hask hcls
  subst hcls
  have hset : ∀ i, (∃ d ∈ s.claims a inp, d.2 = s.effClass a inp w ∧ d.1 = i) ↔
      s.asks a inp i ∧ s.effClass a inp i = s.effClass a inp w := by
    refine fun i => ⟨?_, fun ⟨hi, hc⟩ => ⟨_, mem_claims_self hi, hc, rfl⟩⟩
    rintro ⟨d, hd, hd2, rfl⟩
    obtain ⟨hi, hc⟩ := mem_claims.1 hd
    exact ⟨hi, hc.trans hd2⟩
  simp only [hset] at hfirst
  exact ⟨w, hask, fun i hi => hbest _ (mem_claims_self hi), hfirst, arbDecide_winner hwin⟩

theorem arbiterDecision_eq {a : ArbId} (ha : ∀ ch, a ≠ .mem ch) (inp : ArbIn) (s : State) :
    arbiterDecision a inp s = s.arbDecide a inp := by
  cases a with
  | mem ch => exact absurd rfl (ha ch)
  | _ => rfl

/-- Settles O12: the slots that ask are the model's candidates, in slot order (`mem_claims`), and its winner among them is the first of the
best class after that class's previous winner (`arbWinner_spec`). -/
theorem arbiterGrantsByClassThenRoundRobin : Obligations.ArbiterGrantsByClassThenRoundRobin := by
  unfold Obligations.ArbiterGrantsByClassThenRoundRobin
  intro a inp s hl ha _ hasks
  obtain ⟨w, hw, hbest, ⟨hsome, hnone⟩, heq⟩ := arbDecide_grants (s := s.quiet) (hasks.imp fun i => (asks_quiet s a inp i).2)
  simp only [asks_quiet, and_imp] at hw hbest hsome hnone
  rw [← arbiterDecision_eq ha inp, turnRing_quiet] at heq
  set u := (s.turnRing a inp).quiet.setArbiter a
    (((s.quiet.arbiter a).opened inp.withdrawn).grant (s.quiet.askers a inp) w (s.quiet.effClass a inp w)) with hu
  obtain ⟨harb, hforce, hwrit⟩ := enterRing_keeps u a a inp w
  obtain ⟨tforce, twrit⟩ := turnRing_keeps s a inp
  have hua : u.arbiter a = ((s.arbiter a).opened inp.withdrawn).grant (s.quiet.askers a inp) w (s.effClass a inp w) :=
    setArbiter_arbiter _ _ _
  have hfr : Frame [.arb] s.quiet (arbiterDecision a inp s.quiet) := by
    rw [heq]
    refine Frame.trans ?_ (enterRing_frame u a inp w)
    rw [hu, ← turnRing_quiet]
    exact (turnRing_frame _ _ _).trans (adds_arb _ _).1
  have hF := Frame.whenLive hl hfr ((frame_dbg hfr (by simp)).symm ▸ live_not_fatal hl)
  have hset := whenLive_of_live (s := s.quiet) (arbiterDecision a inp) hl
  rw [heq] at hset
  rw [hset] at hF
  refine ⟨_, w, congrArg Host.Outcome.next hset, ?_, hw, hbest, hsome, hnone, ?_, fun k hk => ?_, fun hk => ?_,
    hforce.trans tforce, hwrit.trans twrit, hF⟩
  · show ((u.enterRing a inp w).arbiter a).granted = _
    rw [harb, hua]
    rfl
  · show tget ((u.enterRing a inp w).arbiter a).lastWinner _ = _
    rw [harb, hua, grant_lastWinner, tget_tput_same]
  · obtain ⟨d, hd, hdw, hds⟩ := asks_want hw hk
    exact ⟨d, hdw, hds, enterRing_ring hk hd⟩
  · show (u.enterRing a inp w).arb.rings = _
    rw [enterRing_no_ring hk, hu, turnRing_no_ring hk]
    rfl

/-! Where O13 fails: a record whose back-off list is out of order. -/

/-- The device after reset, but for an arbiter whose back-off list has slot 2 ahead of slot 1, so that slot 1 reads as not backing off. -/
def unorderedBackoff : State :=
  { State.reset with arb := { State.reset.arb with arbiters := [(arbKey (.scratch 0 0), ⟨[(2, 1), (1, 1)], [], [], none⟩)] } }

/-- A decision in which slot 2's request has been withdrawn and none is asserted. -/
def withdrawSlot2 : ArbIn := ⟨[], [2], [], [], [], []⟩

theorem unorderedBackoff_before : mget 0 (unorderedBackoff.arbiter (.scratch 0 0)).backoff 1 = 0 := rfl

/-- Once slot 2's entry is gone, slot 1's comes to light. -/
theorem unorderedBackoff_after :
    ∃ t, exec (.arbiterDecision (.scratch 0 0) withdrawSlot2) unorderedBackoff = .next t ∧
      mget 0 (t.arbiter (.scratch 0 0)).backoff 1 = 1 := ⟨_, rfl, rfl⟩

/-- Refutes O13: its second clause asks for rising keys of the losses and not of the back-off list. In `unorderedBackoff` slot 1, which neither
asks nor is withdrawn, does not back off before the decision and does after it. -/
theorem not_arbiterLossesBackOff : ¬ Obligations.ArbiterLossesBackOff := by
  unfold Obligations.ArbiterLossesBackOff
  rintro ⟨-, hkeeps, -⟩
  obtain ⟨t, ht, -, -, hsame, -⟩ := hkeeps (.scratch 0 0) withdrawSlot2 unorderedBackoff rfl (fun ch h => nomatch h) rfl
  obtain ⟨t', ht', hback⟩ := unorderedBackoff_after
  obtain rfl : t = t' := Host.Outcome.next.inj (ht.symm.trans ht')
  obtain ⟨-, hb⟩ := hsame 1 (by decide) (fun ⟨_, hasked, _⟩ => nomatch hasked)
  rw [hback, unorderedBackoff_before] at hb
  exact absurd hb (by decide)

end Sys2Proof.Machine

/-! PROOFS. Containment (R52 to R57, R96): what a unit out of service gives up. -/

namespace Sys2Proof.Machine

/-! What a cell gives up touches the fabric and the checks, the report counters with them, and no unit's health. -/

theorem setCell_adds (s : State) (c : CellId) (x : Cell) : Adds [.fab] s (s.setCell c x) := adds_fab s _

theorem setCause_adds (s : State) (n : Nat) (c : VCause) : Adds [.ras] s (s.setCause n c) := adds_ras s _

theorem dropCheck_adds (s : State) (k : Nat) : Adds [.fab, .ras] s (s.dropCheck k) := by
  unfold State.dropCheck
  split
  · exact Adds.rfl s
  · exact ((setCell_adds s _ _).mono (by simp)).trans ((adds_ras _ _).mono (by simp))

theorem loseCheck_adds (s : State) (k : Nat) (c : Check) (gone : CellId) :
    Adds [.fab, .ras, .ctr, .serial] s (s.loseCheck k c gone) :=
  ((dropCheck_adds s k).mono (by simp)).trans (((tally_adds _ _).trans (raise_adds _ _)).mono (by simp))

theorem checksOf_adds (s : State) (c : CellId) : Adds [.fab, .ras, .ctr, .serial] s (s.checksOf c) := by
  refine Adds.foldl (fun st e => ?_) _ _
  split
  · exact loseCheck_adds _ _ _ _
  · split
    · exact (adds_ras _ _).mono (by simp)
    · exact Adds.rfl st

theorem markFault_adds (s : State) (c : CellId) (f : FaultCause) : Adds [.ras] s (s.markFault c f) := by
  unfold State.markFault
  split
  · exact Adds.rfl s
  · refine Adds.foldl (fun st m => ?_) _ _
    split
    · exact setCause_adds _ _ _
    · exact Adds.rfl st

theorem dropTile_adds (s : State) (c : CellId) : Adds [.fab, .ras] s (s.dropTile c) := by
  unfold State.dropTile
  dsimp only
  split
  · exact Adds.rfl s
  · rename_i t _
    refine Adds.trans (t := s.setCell c { s.cell c with tile := none }) ((setCell_adds s c _).mono (by simp)) ?_
    generalize s.setCell c { s.cell c with tile := none } = s1
    have hsent : ∀ s2, Adds [.fab] s1 s2 → Adds [.fab, .ras] s1 (if t.sent then s2.setCause t.run .replayAtomic else s2) := by
      intro s2 h
      split
      · exact (h.mono (by simp)).trans ((setCause_adds _ _ _).mono (by simp))
      · exact h.mono (by simp)
    refine hsent _ ?_
    split
    · exact adds_fab _ _
    · exact Adds.rfl s1

theorem dropAtoms_adds (s : State) (c : CellId) : Adds [.fab] s (s.dropAtoms c) := adds_fab s _

theorem cellGone_adds (s : State) (c : CellId) (f : FaultCause) : Adds [.fab, .ras, .ctr, .serial] s (s.cellGone c f) :=
  ((markFault_adds s c f).mono (by simp)).trans ((checksOf_adds _ c).trans
    (((dropTile_adds _ c).mono (by simp)).trans ((dropAtoms_adds _ c).mono (by simp))))

theorem fixShort_adds (s : State) : Adds [.ras] s s.fixShort := adds_ras s _

theorem setHealth_adds (s : State) (b : BlockId) (h : BlkHealth) : Adds [.health] s (s.setHealth b h) := adds_health s _

theorem contained_adds (s : State) (code severity : Nat) (unit : BitVec 16) :
    Adds [.ras, .ctr, .serial] s (s.contained code severity unit) := raise_adds s _

theorem contained_reported (s : State) (code severity : Nat) (unit : BitVec 16) :
    reported (s.contained code severity unit) 0x02 code severity unit := reported_raise s _ _ _ _ _ _

/-! Health. A write of a record that is not the reset one touches its own block only; so does any write for a block that is not as at reset. -/

theorem blk_of_health {s t : State} (h : t.health = s.health) (b : BlockId) : t.blk b = s.blk b :=
  congrArg (fun m => mget BlkHealth.ok m b.val) h

theorem blk_eq_of_adds {ps : List Part} {s t : State} (h : Adds ps s t) (hp : Part.health ∉ ps) (b : BlockId) : t.blk b = s.blk b :=
  blk_of_health (h.same .health hp) b

@[simp] theorem setHealth_blk_same (s : State) (b : BlockId) (h : BlkHealth) : (s.setHealth b h).blk b = h :=
  mget_mset_same BlkHealth.ok s.health b.val h

theorem setHealth_blk_other (s : State) {b i : BlockId} {h : BlkHealth} (hv : h ≠ BlkHealth.ok) (hi : i ≠ b) :
    (s.setHealth b h).blk i = s.blk i :=
  mget_mset_ne BlkHealth.ok s.health hv (fun e => hi (Fin.ext e))

/-- An entry that a map lists stays where another key is removed. -/
theorem tget_tdel_of_some {α : Type} {m : SMap α} {k i : Nat} {v : α} (hik : i ≠ k) (h : tget m i = some v) :
    tget (tdel m k) i = some v := by
  induction m with
  | nil => exact absurd h (by simp)
  | cons e m ih =>
    obtain ⟨j, w⟩ := e
    unfold tget at h
    split at h
    · rename_i hj
      subst hj
      rw [show tdel ((j, w) :: m) k = (j, w) :: tdel m k by simp [tdel, hik]]
      simpa [tget] using h
    · rename_i hj
      split at h
      · exact Option.noConfusion rfl (heq_of_eq h)
      · rename_i hlt
        by_cases hjk : j = k
        · rw [show tdel ((j, w) :: m) k = tdel m k by simp [tdel, hjk]]
          exact ih h
        · rw [show tdel ((j, w) :: m) k = (j, w) :: tdel m k by simp [tdel, hjk]]
          simp only [tget, hj, hlt, if_false]
          exact ih h

/-- A key that reads otherwise than an unlisted one keeps its value under any write elsewhere. -/
theorem mget_mset_of_listed {α : Type} [DecidableEq α] {d : α} {m : SMap α} {k i : Nat} (v : α) (hik : i ≠ k) (h : mget d m i ≠ d) :
    mget d (mset d m k v) i = mget d m i := by
  cases hg : tget m i with
  | none => exact absurd (by simp [mget, hg]) h
  | some w =>
    unfold mget mset
    split
    · rw [tget_tdel_of_some hik hg, hg]
    · rw [tget_tput_other m v hik]

theorem setHealth_blk_of_listed (s : State) {b i : BlockId} (h : BlkHealth) (hi : i ≠ b) (hl : s.blk i ≠ BlkHealth.ok) :
    (s.setHealth b h).blk i = s.blk i :=
  mget_mset_of_listed h (fun e => hi (Fin.ext e)) hl

/-! Counting units. -/

/-- A filter that lets strictly fewer elements through is shorter. -/
theorem length_filter_lt {α : Type} {l : List α} {p q : α → Bool} (hpq : ∀ x ∈ l, p x = true → q x = true) {x : α} (hx : x ∈ l)
    (hq : q x = true) (hp : p x = false) : (l.filter p).length < (l.filter q).length := by
  have he : l.filter p = (l.filter q).filter p := by
    rw [List.filter_filter]
    refine List.filter_congr (fun y hy => ?_)
    cases hpy : p y with
    | false => rfl
    | true => simp [hpq y hy hpy]
  rw [he, List.length_filter_lt_length_iff_exists]
  exact ⟨x, List.mem_filter.2 ⟨hx, hq⟩, by simp [hp]⟩

/-- A filter that lets one more element through is longer by one. -/
theorem length_filter_insert {α : Type} {l : List α} (hl : l.Nodup) {p q : α → Bool} {x : α} (hx : x ∈ l) (hp : p x = false)
    (hq : q x = true) (h : ∀ y, y ≠ x → q y = p y) : (l.filter q).length = (l.filter p).length + 1 := by
  induction l with
  | nil => exact absurd hx List.not_mem_nil
  | cons y l ih =>
    obtain ⟨hy, hl⟩ := List.nodup_cons.1 hl
    by_cases hyx : y = x
    · subst hyx
      have hrest : l.filter q = l.filter p := List.filter_congr (fun z hz => h z (fun e => hy (e ▸ hz)))
      simp [hp, hq, hrest]
    · have := ih hl ((List.mem_cons.1 hx).resolve_left (fun e => hyx e.symm))
      simp only [List.filter_cons, h y hyx]
      split <;> simp [this]

end Sys2Proof.Machine

/-! PROOFS. Containment level by level (R52 to R55): what a fence, a block's fault and a region's fault make of the device. -/

namespace Sys2Proof.Machine

/-! A region's blocks. -/

def regionBlocks (r : RegionId) : List BlockId := (List.finRange 8).map (blockIn r)

theorem regionOfBlock_blockIn (r : RegionId) (i : Fin 8) : regionOfBlock (blockIn r i) = r :=
  Fin.ext (show (r.val * 8 + i.val) / 8 = r.val by omega)

/-- Every block is one of its region's eight. -/
theorem exists_blockIn (b : BlockId) : ∃ i, blockIn (regionOfBlock b) i = b :=
  ⟨⟨b.val % 8, by omega⟩, Fin.ext (show b.val / 8 * 8 + b.val % 8 = b.val by omega)⟩

theorem mem_regionBlocks {r : RegionId} {b : BlockId} : b ∈ regionBlocks r ↔ regionOfBlock b = r := by
  simp only [regionBlocks, List.mem_map, List.mem_finRange, true_and]
  constructor
  · rintro ⟨i, rfl⟩
    exact regionOfBlock_blockIn r i
  · rintro rfl
    exact exists_blockIn b

theorem regionBlocks_nodup (r : RegionId) : (regionBlocks r).Nodup :=
  (List.nodup_finRange 8).map (fun i j h => by
    have hv : r.val * 8 + i.val = r.val * 8 + j.val := congrArg Fin.val h
    exact Fin.ext (by omega))

/-- Writing the health of several blocks, each from what it was. -/
theorem foldl_setHealth_blk {g : BlkHealth → BlkHealth} (hg : ∀ h, g h ≠ BlkHealth.ok) {l : List BlockId} (hl : l.Nodup) (s : State)
    (b : BlockId) : (l.foldl (fun st x => st.setHealth x (g (st.blk x))) s).blk b = if b ∈ l then g (s.blk b) else s.blk b := by
  induction l generalizing s with
  | nil => simp
  | cons x l ih =>
    obtain ⟨hx, hl⟩ := List.nodup_cons.1 hl
    rw [List.foldl_cons, ih hl]
    by_cases hbx : b = x
    · subst hbx
      simp [hx]
    · simp [hbx, setHealth_blk_other s (hg _) hbx]

/-! A region goes offline. -/

/-- A block's health once its region is offline. -/
def BlkHealth.regionOut (h : BlkHealth) : BlkHealth := { h with regionOffline := true, causeLevel := 2#2 }

theorem regionOut_ne_ok (h : BlkHealth) : h.regionOut ≠ BlkHealth.ok := fun e => Bool.noConfusion (congrArg BlkHealth.regionOffline e)

/-- All blocks of a region leave service. -/
def State.blocksOut (s : State) (r : RegionId) : State := (regionBlocks r).foldl (fun st b => st.setHealth b (st.blk b).regionOut) s

/-- A region has gone: its blocks are out, that is reported, and its cells have given up what they had. -/
def State.regionGone (s : State) (r : RegionId) (f : FaultCause) : State :=
  ((regionBlocks r).flatMap (fun b => (List.finRange 16).map (cellIn b))).foldl (fun st c => st.cellGone c f)
    ((s.blocksOut r).contained 3 1 (unitRegion r))

/-- A key lies among the blocks of region r. -/
def inRegion (r : RegionId) (k : Nat) : Bool := decide (8 * r.val ≤ k) && decide (k < 8 * r.val + 8)

theorem inRegion_block (b : BlockId) : inRegion (regionOfBlock b) b.val = true := by
  show (decide (8 * (b.val / 8) ≤ b.val) && decide (b.val < 8 * (b.val / 8) + 8)) = true
  simp only [Bool.and_eq_true, decide_eq_true_eq]
  omega

/-- The region's buffer, ring, atomic units and TLBs are lost, and its work is listed for the next remap: the device before it looks at how
many regions are left. -/
def State.regionCut (s : State) (r : RegionId) (f : FaultCause) : State :=
  let s3 := s.regionGone r f
  ({ s3 with
    fab := { s3.fab with rbufs := tdel s3.fab.rbufs r.val, units := s3.fab.units.filter (fun e => !inRegion r e.1) },
    arb := { s3.arb with rings := tdel s3.arb.rings (1 + r.val) },
    xlt := { s3.xlt with blockTlb := s3.xlt.blockTlb.filter (fun e => !inRegion r e.1) },
    remap := s3.remap ++ [.region r] } : State).fixShort

theorem regionDown_of_offline {s : State} {r : RegionId} (h : s.regionOnline r = false) (f : FaultCause) : s.regionDown r f = s := by
  simp [State.regionDown, h]

theorem regionDown_of_online {s : State} {r : RegionId} (h : s.regionOnline r = true) (f : FaultCause) :
    s.regionDown r f =
      if (s.regionCut r f).regionsOnline < 2 then (s.regionCut r f).nodeFatal unitChip else s.regionCut r f := by
  unfold State.regionDown State.regionCut State.regionGone State.blocksOut regionBlocks
  generalize (List.finRange 8).map (blockIn r) = l
  rw [h]
  rfl

theorem blocksOut_adds (s : State) (r : RegionId) : Adds [.health] s (s.blocksOut r) :=
  Adds.foldl (fun _ _ => setHealth_adds _ _ _) _ _

theorem blocksOut_blk (s : State) (r : RegionId) (b : BlockId) :
    (s.blocksOut r).blk b = if regionOfBlock b = r then (s.blk b).regionOut else s.blk b := by
  simp only [State.blocksOut, foldl_setHealth_blk regionOut_ne_ok (regionBlocks_nodup r), mem_regionBlocks]

theorem cellsGone_adds (l : List CellId) (s : State) (f : FaultCause) :
    Adds [.fab, .ras, .ctr, .serial] s (l.foldl (fun st c => st.cellGone c f) s) :=
  Adds.foldl (fun _ c => cellGone_adds _ c f) _ _

theorem contained_regionGone_adds (s : State) (r : RegionId) (f : FaultCause) :
    Adds [.fab, .ras, .ctr, .serial] ((s.blocksOut r).contained 3 1 (unitRegion r)) (s.regionGone r f) := cellsGone_adds _ _ _

theorem blocksOut_regionGone_adds (s : State) (r : RegionId) (f : FaultCause) :
    Adds [.fab, .ras, .ctr, .serial] (s.blocksOut r) (s.regionGone r f) :=
  ((contained_adds _ _ _ _).mono (by simp)).trans (contained_regionGone_adds s r f)

theorem regionGone_regionCut_adds (s : State) (r : RegionId) (f : FaultCause) :
    Adds [.fab, .arb, .xlt, .remap, .ras] (s.regionGone r f) (s.regionCut r f) :=
  ((adds_lost _ _ _ _ _).mono (by simp)).trans ((fixShort_adds _).mono (by simp))

theorem regionCut_adds (s : State) (r : RegionId) (f : FaultCause) :
    Adds [.health, .fab, .ras, .ctr, .serial, .arb, .xlt, .remap] s (s.regionCut r f) :=
  ((blocksOut_adds s r).mono (by simp)).trans
    (((blocksOut_regionGone_adds s r f).mono (by simp)).trans ((regionGone_regionCut_adds s r f).mono (by simp)))

theorem regionCut_reported (s : State) (r : RegionId) (f : FaultCause) : reported (s.regionCut r f) 0x02 3 1 (unitRegion r) :=
  (regionGone_regionCut_adds s r f).reported ((contained_regionGone_adds s r f).reported (contained_reported _ _ _ _))

theorem regionCut_blk (s : State) (r : RegionId) (f : FaultCause) (b : BlockId) :
    (s.regionCut r f).blk b = if regionOfBlock b = r then (s.blk b).regionOut else s.blk b := by
  rw [blk_eq_of_adds (regionGone_regionCut_adds s r f) (by simp), blk_eq_of_adds (blocksOut_regionGone_adds s r f) (by simp),
    blocksOut_blk]

theorem regionCut_remap (s : State) (r : RegionId) (f : FaultCause) : (s.regionCut r f).remap = s.remap ++ [.region r] := by
  have h1 : (s.regionGone r f).remap = (s.blocksOut r).remap := (blocksOut_regionGone_adds s r f).same .remap (by simp)
  have h2 : (s.blocksOut r).remap = s.remap := (blocksOut_adds s r).same .remap (by simp)
  show (s.regionGone r f).remap ++ [.region r] = _
  rw [h1, h2]

theorem regionCut_rbuf (s : State) (r : RegionId) (f : FaultCause) : (s.regionCut r f).rbuf r = RBuf.reset := by
  show mget RBuf.reset (tdel _ r.val) r.val = _
  simp [mget]

theorem regionCut_ring (s : State) (r : RegionId) (f : FaultCause) : (s.regionCut r f).ring (1 + r.val) = Ring.empty := by
  show mget Ring.empty (tdel _ (1 + r.val)) (1 + r.val) = _
  simp [mget]

theorem mget_filter_region {α : Type} (m : SMap (List α)) (b : BlockId) :
    mget [] (m.filter (fun e => !inRegion (regionOfBlock b) e.1)) b.val = [] := by
  rw [mget, tget_filter_false m (fun k => !inRegion (regionOfBlock b) k) (by simp [inRegion_block])]
  rfl

theorem regionCut_units (s : State) (b : BlockId) (f : FaultCause) :
    mget [] (s.regionCut (regionOfBlock b) f).fab.units b.val = [] := mget_filter_region _ b

theorem regionCut_blockTlb (s : State) (b : BlockId) (f : FaultCause) :
    mget [] (s.regionCut (regionOfBlock b) f).xlt.blockTlb b.val = [] := mget_filter_region _ b

/-- The last look, at how many regions are left, touches the node's own state only. -/
theorem regionCut_regionDown_adds {s : State} {r : RegionId} (h : s.regionOnline r = true) (f : FaultCause) :
    Adds [.dbg, .links, .ras, .ctr, .serial] (s.regionCut r f) (s.regionDown r f) := by
  rw [regionDown_of_online h]
  split
  · exact nodeFatal_adds _ _
  · exact Adds.rfl _

theorem regionDown_adds (s : State) (r : RegionId) (f : FaultCause) :
    Adds [.arb, .health, .remap, .fab, .ras, .ctr, .xlt, .dbg, .links, .serial] s (s.regionDown r f) := by
  cases h : s.regionOnline r with
  | false => rw [regionDown_of_offline h]; exact Adds.rfl s
  | true => exact ((regionCut_adds s r f).mono (by simp)).trans ((regionCut_regionDown_adds h f).mono (by simp))

theorem regionDown_blk {s : State} {r : RegionId} (h : s.regionOnline r = true) (f : FaultCause) (b : BlockId) :
    (s.regionDown r f).blk b = if regionOfBlock b = r then (s.blk b).regionOut else s.blk b := by
  rw [blk_eq_of_adds (regionCut_regionDown_adds h f) (by simp), regionCut_blk]

theorem regionDown_remap {s : State} {r : RegionId} (h : s.regionOnline r = true) (f : FaultCause) :
    (s.regionDown r f).remap = s.remap ++ [.region r] :=
  ((regionCut_regionDown_adds h f).same .remap (by simp)).trans (regionCut_remap s r f)

/-- A region that goes offline, or was offline before, takes no block back into service and unfences no cell. -/
theorem regionDown_blk_keeps (s : State) (r : RegionId) (f : FaultCause) (b : BlockId) :
    ((s.regionDown r f).blk b).fenced = (s.blk b).fenced ∧ ((s.regionDown r f).blk b).blockOffline = (s.blk b).blockOffline := by
  cases h : s.regionOnline r with
  | false => rw [regionDown_of_offline h]; exact ⟨rfl, rfl⟩
  | true =>
    rw [regionDown_blk h]
    split <;> exact ⟨rfl, rfl⟩

theorem regionDown_regionOnline (s : State) (r : RegionId) (f : FaultCause) : (s.regionDown r f).regionOnline r = false := by
  cases h : s.regionOnline r with
  | false => rw [regionDown_of_offline h, h]
  | true =>
    unfold State.regionOnline
    rw [regionDown_blk h, if_pos (regionOfBlock_blockIn r 0)]
    rfl

/-- What a region's end adds to the list of work to be moved names no cell. -/
theorem regionDown_remap_grows (s : State) (r : RegionId) (f : FaultCause) :
    ∃ l, (s.regionDown r f).remap = s.remap ++ l ∧ ∀ c, Remap.cell c ∉ l := by
  cases h : s.regionOnline r with
  | false => exact ⟨[], by rw [regionDown_of_offline h, List.append_nil], fun c => List.not_mem_nil⟩
  | true => exact ⟨[.region r], regionDown_remap h f, fun c hc => nomatch List.mem_singleton.1 hc⟩

/-- An emptied atomic unit and an emptied TLB stay so when the block's region goes. -/
theorem regionDown_emptied {s : State} {b : BlockId} (f : FaultCause) (hu : mget [] s.fab.units b.val = [])
    (ht : mget [] s.xlt.blockTlb b.val = []) :
    mget [] (s.regionDown (regionOfBlock b) f).fab.units b.val = [] ∧
    mget [] (s.regionDown (regionOfBlock b) f).xlt.blockTlb b.val = [] := by
  cases h : s.regionOnline (regionOfBlock b) with
  | false => rw [regionDown_of_offline h]; exact ⟨hu, ht⟩
  | true =>
    have hfab : (s.regionDown (regionOfBlock b) f).fab = (s.regionCut (regionOfBlock b) f).fab :=
      (regionCut_regionDown_adds h f).same .fab (by simp)
    have hxlt : (s.regionDown (regionOfBlock b) f).xlt = (s.regionCut (regionOfBlock b) f).xlt :=
      (regionCut_regionDown_adds h f).same .xlt (by simp)
    rw [hfab, hxlt]
    exact ⟨regionCut_units s b f, regionCut_blockTlb s b f⟩

/-- The region's buffer and the packets on its ring are lost. -/
theorem regionDown_lost {s : State} {r : RegionId} (h : s.regionOnline r = true) (f : FaultCause) :
    (s.regionDown r f).rbuf r = RBuf.reset ∧ (s.regionDown r f).ring (1 + r.val) = Ring.empty := by
  have hfab : (s.regionDown r f).fab = (s.regionCut r f).fab := (regionCut_regionDown_adds h f).same .fab (by simp)
  have harb : (s.regionDown r f).arb = (s.regionCut r f).arb := (regionCut_regionDown_adds h f).same .arb (by simp)
  exact ⟨(congrArg (fun x : Fab => mget RBuf.reset x.rbufs r.val) hfab).trans (regionCut_rbuf s r f),
    (congrArg (fun x : Arb => mget Ring.empty x.rings (1 + r.val)) harb).trans (regionCut_ring s r f)⟩

/-- With one region left at most, the node is fatal (R55). -/
theorem regionDown_fatal {s : State} {r : RegionId} (h : s.regionOnline r = true) (f : FaultCause) (hn : s.regionsOnline ≤ 2) :
    (s.regionDown r f).dbg.fatal = true := by
  have hon : ∀ q, (s.regionCut r f).regionOnline q = true → q ≠ r ∧ s.regionOnline q = true := fun q hq => by
    unfold State.regionOnline at hq ⊢
    rw [regionCut_blk, regionOfBlock_blockIn] at hq
    split at hq
    · exact Bool.noConfusion hq
    · exact ⟨‹_›, hq⟩
  have hlt : (s.regionCut r f).regionsOnline < s.regionsOnline :=
    length_filter_lt (fun q _ hq => (hon q hq).2) (List.mem_finRange r) h (Bool.eq_false_iff.2 (fun hq => (hon r hq).1 rfl))
  rw [regionDown_of_online h, if_pos (by omega)]
  exact nodeFatal_fatal _ _

/-! A block goes offline. -/

/-- A block's health once it is offline by itself. -/
def BlkHealth.blockOut (h : BlkHealth) : BlkHealth := { h with blockOffline := true, causeLevel := 1#2 }

theorem blockOut_ne_ok (h : BlkHealth) : h.blockOut ≠ BlkHealth.ok := fun e => Bool.noConfusion (congrArg BlkHealth.blockOffline e)

/-- A block has gone: it is out, that is reported, and its cells have given up what they had. -/
def State.blockGone (s : State) (b : BlockId) (f : FaultCause) : State :=
  ((List.finRange 16).map (cellIn b)).foldl (fun st c => st.cellGone c f)
    ((s.setHealth b (s.blk b).blockOut).contained 2 1 (unitBlock b))

/-- The block's atomic unit and TLB are emptied, and its work is listed for the next remap: the device before it looks at the region. -/
def State.blockCut (s : State) (b : BlockId) (f : FaultCause) : State :=
  let s2 := s.blockGone b f
  ({ s2 with
    fab := { s2.fab with units := tdel s2.fab.units b.val },
    xlt := { s2.xlt with blockTlb := tdel s2.xlt.blockTlb b.val },
    remap := s2.remap ++ [.block b] } : State).fixShort

theorem blockDown_of_online {s : State} {b : BlockId} (h : s.blockOnline b = true) (f : FaultCause) :
    s.blockDown b f =
      if 3 ≤ (s.blockCut b f).offlineBlocks (regionOfBlock b) then (s.blockCut b f).regionDown (regionOfBlock b) f
      else s.blockCut b f := by
  unfold State.blockDown
  rw [h]
  rfl

theorem contained_blockGone_adds (s : State) (b : BlockId) (f : FaultCause) :
    Adds [.fab, .ras, .ctr, .serial] ((s.setHealth b (s.blk b).blockOut).contained 2 1 (unitBlock b)) (s.blockGone b f) :=
  cellsGone_adds _ _ _

theorem setHealth_blockGone_adds (s : State) (b : BlockId) (f : FaultCause) :
    Adds [.fab, .ras, .ctr, .serial] (s.setHealth b (s.blk b).blockOut) (s.blockGone b f) :=
  ((contained_adds _ _ _ _).mono (by simp)).trans (contained_blockGone_adds s b f)

theorem blockGone_blockCut_adds (s : State) (b : BlockId) (f : FaultCause) :
    Adds [.fab, .arb, .xlt, .remap, .ras] (s.blockGone b f) (s.blockCut b f) :=
  ((adds_lost _ _ _ _ _).mono (by simp)).trans ((fixShort_adds _).mono (by simp))

theorem blockCut_adds (s : State) (b : BlockId) (f : FaultCause) :
    Adds [.health, .fab, .ras, .ctr, .serial, .arb, .xlt, .remap] s (s.blockCut b f) :=
  ((setHealth_adds s b _).mono (by simp)).trans
    (((setHealth_blockGone_adds s b f).mono (by simp)).trans ((blockGone_blockCut_adds s b f).mono (by simp)))

theorem blockCut_reported (s : State) (b : BlockId) (f : FaultCause) : reported (s.blockCut b f) 0x02 2 1 (unitBlock b) :=
  (blockGone_blockCut_adds s b f).reported ((contained_blockGone_adds s b f).reported (contained_reported _ _ _ _))

theorem blockCut_blk (s : State) (b : BlockId) (f : FaultCause) (i : BlockId) :
    (s.blockCut b f).blk i = if i = b then (s.blk b).blockOut else s.blk i := by
  rw [blk_eq_of_adds (blockGone_blockCut_adds s b f) (by simp), blk_eq_of_adds (setHealth_blockGone_adds s b f) (by simp)]
  split
  · subst i
    exact setHealth_blk_same _ _ _
  · exact setHealth_blk_other s (blockOut_ne_ok _) ‹_›

theorem blockCut_remap (s : State) (b : BlockId) (f : FaultCause) : (s.blockCut b f).remap = s.remap ++ [.block b] := by
  have h : (s.blockGone b f).remap = s.remap := (setHealth_blockGone_adds s b f).same .remap (by simp)
  show (s.blockGone b f).remap ++ [.block b] = _
  rw [h]

theorem blockCut_emptied (s : State) (b : BlockId) (f : FaultCause) :
    mget [] (s.blockCut b f).fab.units b.val = [] ∧ mget [] (s.blockCut b f).xlt.blockTlb b.val = [] := by
  constructor
  · show mget [] (tdel _ b.val) b.val = _
    simp [mget]
  · show mget [] (tdel _ b.val) b.val = _
    simp [mget]

/-- An online block that goes adds one to its region's offline blocks. -/
theorem blockCut_offlineBlocks {s : State} {b : BlockId} (h : s.blockOnline b = true) (f : FaultCause) :
    s.offlineBlocks (regionOfBlock b) < (s.blockCut b f).offlineBlocks (regionOfBlock b) := by
  obtain ⟨i, hi⟩ := exists_blockIn b
  refine length_filter_lt (fun j _ hj => ?_) (List.mem_finRange i) ?_ ?_
  · rw [blockCut_blk]
    split
    · rfl
    · exact hj
  · rw [blockCut_blk, if_pos hi]
    rfl
  · unfold State.blockOnline at h
    rw [hi]
    simpa using (Bool.and_eq_true_iff.1 h).1

theorem blockCut_blockDown_adds {s : State} {b : BlockId} (h : s.blockOnline b = true) (f : FaultCause) :
    Adds [.arb, .health, .remap, .fab, .ras, .ctr, .xlt, .dbg, .links, .serial] (s.blockCut b f) (s.blockDown b f) := by
  rw [blockDown_of_online h]
  split
  · exact regionDown_adds _ _ _
  · exact Adds.rfl _

theorem blockDown_adds {s : State} {b : BlockId} (h : s.blockOnline b = true) (f : FaultCause) :
    Adds [.arb, .health, .remap, .fab, .ras, .ctr, .xlt, .dbg, .links, .serial] s (s.blockDown b f) :=
  ((blockCut_adds s b f).mono (by simp)).trans (blockCut_blockDown_adds h f)

/-- What holds once an online block has gone, its region with it or not. -/
theorem blockDown_spec {s : State} {b : BlockId} (h : s.blockOnline b = true) (f : FaultCause) :
    ((s.blockDown b f).blk b).blockOffline = true ∧ ((s.blockDown b f).blk b).fenced = (s.blk b).fenced ∧
    mget [] (s.blockDown b f).fab.units b.val = [] ∧ mget [] (s.blockDown b f).xlt.blockTlb b.val = [] ∧
    ∃ l, (s.blockDown b f).remap = s.remap ++ .block b :: l ∧ ∀ c, Remap.cell c ∉ l := by
  obtain ⟨hu, ht⟩ := blockCut_emptied s b f
  have hblk : (s.blockCut b f).blk b = (s.blk b).blockOut := by rw [blockCut_blk, if_pos rfl]
  rw [blockDown_of_online h]
  split
  · obtain ⟨hf, hb⟩ := regionDown_blk_keeps (s.blockCut b f) (regionOfBlock b) f b
    obtain ⟨hu', ht'⟩ := regionDown_emptied f hu ht
    obtain ⟨l, hl, hc⟩ := regionDown_remap_grows (s.blockCut b f) (regionOfBlock b) f
    refine ⟨by rw [hb, hblk]; rfl, by rw [hf, hblk]; rfl, hu', ht', l, ?_, hc⟩
    rw [hl, blockCut_remap, List.append_assoc]
    rfl
  · exact ⟨by rw [hblk]; rfl, by rw [hblk]; rfl, hu, ht, [], blockCut_remap s b f, fun c => List.not_mem_nil⟩

/-- The third block of a region takes the region along (R55). -/
theorem blockDown_third {s : State} {b : BlockId} (h : s.blockOnline b = true) (f : FaultCause)
    (hn : 2 ≤ s.offlineBlocks (regionOfBlock b)) : (s.blockDown b f).regionOnline (regionOfBlock b) = false := by
  have hlt := blockCut_offlineBlocks h f
  rw [blockDown_of_online h, if_pos (by omega)]
  exact regionDown_regionOnline _ _ _

/-! A cell is fenced. -/

/-- A block's health once cell i of it is fenced. -/
def BlkHealth.fence (h : BlkHealth) (i : Nat) : BlkHealth := { h with fenced := h.fenced ||| (1#16 <<< i), causeLevel := 0#2 }

theorem fence_getLsbD (h : BlkHealth) {i j : Nat} (hj : j < 16) :
    (h.fence i).fenced.getLsbD j = (h.fenced.getLsbD j || decide (j = i)) := by
  simp only [BlkHealth.fence, BitVec.getLsbD_or, BitVec.getLsbD_shiftLeft, BitVec.getLsbD_one, hj]
  congr 1
  by_cases hij : j = i
  · simp [hij]
  · by_cases hlt : j < i
    · simp [hlt, hij]
    · have : ¬ j - i = 0 := by omega
      simp [hij, this]

theorem fence_ne_ok (h : BlkHealth) {i : Nat} (hi : i < 16) : h.fence i ≠ BlkHealth.ok := fun e => by
  have hb := fence_getLsbD h (i := i) hi
  rw [e] at hb
  simp [BlkHealth.ok] at hb

/-- A cell has been fenced, that is reported, it has given up what it had, and its work is listed for the next remap: the device before it looks at
the block. -/
def State.fenceCut (s : State) (c : CellId) (f : FaultCause) : State :=
  let s2 := ((s.setHealth (blockOf c) ((s.blk (blockOf c)).fence (c.val % 16))).contained 1 1 (unitCell c)).cellGone c f
  { s2 with remap := s2.remap ++ [.cell c] }

theorem fenceCell_of_online {s : State} {c : CellId} (h : s.cellOnline c = true) (f : FaultCause) :
    s.fenceCell c f =
      if 4 ≤ (s.fenceCut c f).fencedCount (blockOf c) then (s.fenceCut c f).blockDown (blockOf c) f else s.fenceCut c f := by
  unfold State.fenceCell
  rw [h]
  rfl

theorem contained_fenceCut_adds (s : State) (c : CellId) (f : FaultCause) :
    Adds [.fab, .ras, .ctr, .serial, .remap]
      ((s.setHealth (blockOf c) ((s.blk (blockOf c)).fence (c.val % 16))).contained 1 1 (unitCell c)) (s.fenceCut c f) :=
  ((cellGone_adds _ c f).mono (by simp)).trans ((adds_remap _ _).mono (by simp))

theorem setHealth_fenceCut_adds (s : State) (c : CellId) (f : FaultCause) :
    Adds [.fab, .ras, .ctr, .serial, .remap] (s.setHealth (blockOf c) ((s.blk (blockOf c)).fence (c.val % 16))) (s.fenceCut c f) :=
  ((contained_adds _ _ _ _).mono (by simp)).trans (contained_fenceCut_adds s c f)

theorem fenceCut_adds (s : State) (c : CellId) (f : FaultCause) :
    Adds [.health, .fab, .ras, .ctr, .serial, .remap] s (s.fenceCut c f) :=
  ((setHealth_adds s _ _).mono (by simp)).trans ((setHealth_fenceCut_adds s c f).mono (by simp))

theorem fenceCut_reported (s : State) (c : CellId) (f : FaultCause) : reported (s.fenceCut c f) 0x02 1 1 (unitCell c) :=
  (contained_fenceCut_adds s c f).reported (contained_reported _ _ _ _)

theorem fenceCut_blk (s : State) (c : CellId) (f : FaultCause) (b : BlockId) :
    (s.fenceCut c f).blk b = if b = blockOf c then (s.blk b).fence (c.val % 16) else s.blk b := by
  rw [blk_eq_of_adds (setHealth_fenceCut_adds s c f) (by simp)]
  split
  · subst b
    exact setHealth_blk_same _ _ _
  · exact setHealth_blk_other s (fence_ne_ok _ (Nat.mod_lt _ (by decide))) ‹_›

theorem mem_fenceCut_remap (s : State) (c : CellId) (f : FaultCause) : .cell c ∈ (s.fenceCut c f).remap :=
  List.mem_append_right _ (List.mem_singleton.2 rfl)

/-- The fence of an online cell is one more in its block. -/
theorem fenceCut_fencedCount {s : State} {c : CellId} (h : (s.blk (blockOf c)).fenced.getLsbD (c.val % 16) = false) (f : FaultCause) :
    (s.fenceCut c f).fencedCount (blockOf c) = s.fencedCount (blockOf c) + 1 := by
  have hlt : c.val % 16 < 16 := Nat.mod_lt _ (by decide)
  have hbit : ∀ j ∈ List.range 16, ((s.fenceCut c f).blk (blockOf c)).fenced.getLsbD j =
      ((s.blk (blockOf c)).fenced.getLsbD j || decide (j = c.val % 16)) := fun j hj => by
    rw [fenceCut_blk, if_pos rfl, fence_getLsbD _ (List.mem_range.1 hj)]
  unfold State.fencedCount
  rw [List.filter_congr hbit]
  exact length_filter_insert List.nodup_range (List.mem_range.2 hlt) h (by simp) (fun y hy => by simp [hy])

theorem fenceCut_blockOnline (s : State) (c : CellId) (f : FaultCause) (b : BlockId) :
    (s.fenceCut c f).blockOnline b = s.blockOnline b := by
  unfold State.blockOnline
  rw [fenceCut_blk]
  split <;> rfl

/-! A level's own fault undoes the separate faults of the tick below it (R55). -/

theorem undoFences_adds (s : State) (b : BlockId) : Adds [.health, .remap] s (s.undoFences b) :=
  ((setHealth_adds s b _).mono (by simp)).trans ((adds_remap _ _).mono (by simp))

/-- What a block's own fault writes to the list of health records: the block's own, with other fences. -/
theorem undoFences_health (s : State) (b : BlockId) :
    ∃ m, (s.undoFences b).health = (s.setHealth b { s.blk b with fenced := m }).health := ⟨_, rfl⟩

/-- A block's own fault puts its fences of this tick right, and neither its offline bits nor its region's. -/
theorem undoFences_blk_same (s : State) (b : BlockId) :
    ((s.undoFences b).blk b).blockOffline = (s.blk b).blockOffline ∧
    ((s.undoFences b).blk b).regionOffline = (s.blk b).regionOffline := by
  obtain ⟨m, hm⟩ := undoFences_health s b
  rw [blk_of_health hm, setHealth_blk_same]
  exact ⟨rfl, rfl⟩

theorem undoFences_blockOnline (s : State) (b : BlockId) : (s.undoFences b).blockOnline b = s.blockOnline b := by
  obtain ⟨hb, hr⟩ := undoFences_blk_same s b
  unfold State.blockOnline
  rw [hb, hr]

theorem undoFences_blk_of_listed {s : State} {b i : BlockId} (hi : i ≠ b) (h : s.blk i ≠ BlkHealth.ok) :
    (s.undoFences b).blk i = s.blk i := by
  obtain ⟨m, hm⟩ := undoFences_health s b
  rw [blk_of_health hm, setHealth_blk_of_listed s _ hi h]

theorem undoFences_remap (s : State) {b : BlockId} {c : CellId} (h : blockOf c = b) : .cell c ∉ (s.undoFences b).remap := by
  intro hm
  obtain ⟨-, hk⟩ := List.mem_filter.1 hm
  simp [h] at hk

/-- A block that was offline stays so. -/
theorem undoFences_keeps_offline {s : State} {b i : BlockId} (h : (s.blk i).blockOffline = true) :
    ((s.undoFences b).blk i).blockOffline = true := by
  by_cases hi : i = b
  · subst hi
    rw [(undoFences_blk_same s i).1, h]
  · rw [undoFences_blk_of_listed hi (fun e => by rw [e] at h; exact Bool.noConfusion h), h]

theorem undoFences_offlineBlocks (s : State) (b : BlockId) (r : RegionId) :
    s.offlineBlocks r ≤ (s.undoFences b).offlineBlocks r :=
  (List.monotone_filter_right _ (fun _ h => undoFences_keeps_offline h)).length_le

/-- One block's part of a region's own fault. -/
def State.undoBlock (s : State) (b : BlockId) : State :=
  let s1 := s.undoFences b
  if s1.remap.contains (.block b) then s1.setHealth b { s1.blk b with blockOffline := false } else s1

theorem undoBlock_adds (s : State) (b : BlockId) : Adds [.health, .remap] s (s.undoBlock b) := by
  unfold State.undoBlock
  dsimp only
  split
  · exact (undoFences_adds s b).trans ((setHealth_adds _ _ _).mono (by simp))
  · exact undoFences_adds s b

theorem undoBlocks_adds (s : State) (r : RegionId) : Adds [.health, .remap] s (s.undoBlocks r) :=
  (Adds.foldl (f := State.undoBlock) undoBlock_adds (regionBlocks r) s).trans ((adds_remap _ _).mono (by simp))

theorem undoBlocks_blk (s : State) (r : RegionId) (b : BlockId) :
    (s.undoBlocks r).blk b = ((regionBlocks r).foldl State.undoBlock s).blk b := by
  refine blk_of_health ?_ b
  unfold State.undoBlocks regionBlocks
  generalize (List.finRange 8).map (blockIn r) = l
  rfl

theorem undoBlock_regionOffline_same (s : State) (b : BlockId) : ((s.undoBlock b).blk b).regionOffline = (s.blk b).regionOffline := by
  unfold State.undoBlock
  dsimp only
  split
  · rw [setHealth_blk_same]
    exact (undoFences_blk_same s b).2
  · exact (undoFences_blk_same s b).2

/-- A block of an offline region stays one. -/
theorem undoBlock_keeps_regionOffline {s : State} {b i : BlockId} (h : (s.blk i).regionOffline = true) :
    ((s.undoBlock b).blk i).regionOffline = true := by
  by_cases hi : i = b
  · subst hi
    rw [undoBlock_regionOffline_same, h]
  · have hl : s.blk i ≠ BlkHealth.ok := fun e => by rw [e] at h; exact Bool.noConfusion h
    have hu : (s.undoFences b).blk i = s.blk i := undoFences_blk_of_listed hi hl
    unfold State.undoBlock
    dsimp only
    split
    · rw [setHealth_blk_of_listed _ _ hi (hu ▸ hl), hu, h]
    · rw [hu, h]

theorem undoBlocks_keeps_regionOffline {s : State} {r : RegionId} {i : BlockId} (h : (s.blk i).regionOffline = true) :
    ((s.undoBlocks r).blk i).regionOffline = true := by
  rw [undoBlocks_blk]
  generalize regionBlocks r = l
  induction l generalizing s with
  | nil => exact h
  | cons b l ih => exact ih (undoBlock_keeps_regionOffline h)

theorem undoBlocks_regionsOnline (s : State) (r : RegionId) : (s.undoBlocks r).regionsOnline ≤ s.regionsOnline := by
  refine (List.monotone_filter_right _ (fun q h => ?_)).length_le
  unfold State.regionOnline at h ⊢
  cases hq : (s.blk (blockIn q 0)).regionOffline with
  | false => rfl
  | true => rw [undoBlocks_keeps_regionOffline hq] at h; exact h

/-- No entry of block b stands where a read does not reach it. A list of health records out of order may break this; a write to the block
restores it. -/
def State.shows (s : State) (b : BlockId) : Prop := tget s.health b.val = none → ∀ e ∈ s.health, e.1 ≠ b.val

theorem setHealth_shows_same (s : State) (b : BlockId) (h : BlkHealth) : (s.setHealth b h).shows b := by
  intro hn e he
  have hset : (s.setHealth b h).health = mset BlkHealth.ok s.health b.val h := rfl
  rw [hset] at hn he
  unfold mset at hn he
  split at he
  · simpa using (List.mem_filter.1 he).2
  · rw [if_neg ‹_›, tget_tput_same] at hn
    exact Option.noConfusion rfl (heq_of_eq hn)

theorem tget_none_of_no_key {α : Type} {m : SMap α} {k : Nat} (h : ∀ e ∈ m, e.1 ≠ k) : tget m k = none := by
  induction m with
  | nil => rfl
  | cons e m ih =>
    simp only [tget, h e (List.mem_cons_self ..), if_false, ih (fun x hx => h x (List.mem_cons_of_mem _ hx)), ite_self]

/-- A write to another block neither hides such a block's record nor changes it. -/
theorem setHealth_shows_other {s : State} {b i : BlockId} (h : BlkHealth) (hi : i ≠ b) (hs : s.shows i) :
    (s.setHealth b h).shows i ∧ (s.setHealth b h).blk i = s.blk i := by
  have hv : i.val ≠ b.val := fun e => hi (Fin.ext e)
  have hset : (s.setHealth b h).health = mset BlkHealth.ok s.health b.val h := rfl
  have hmem : ∀ e, e ∈ (s.setHealth b h).health → e = (b.val, h) ∨ e ∈ s.health := fun e he => by
    rw [hset] at he
    unfold mset at he
    split at he
    · exact .inr (List.mem_of_mem_filter he)
    · exact mem_tput he
  have hget : tget (s.setHealth b h).health i.val = tget s.health i.val := by
    rw [hset]
    unfold mset
    split
    · cases hg : tget s.health i.val with
      | none => exact tget_none_of_no_key (fun e he => hs hg e (List.mem_of_mem_filter he))
      | some w => exact tget_tdel_of_some hv hg
    · exact tget_tput_other _ _ hv
  refine ⟨fun hn e he => ?_, congrArg (fun o => Option.getD o BlkHealth.ok) hget⟩
  rcases hmem e he with rfl | he
  · exact fun e => hv e.symm
  · exact hs (hget ▸ hn) e he

theorem undoBlock_shows_same (s : State) (b : BlockId) : (s.undoBlock b).shows b := by
  unfold State.undoBlock
  dsimp only
  split
  · exact setHealth_shows_same _ _ _
  · exact setHealth_shows_same s b _

theorem undoBlock_shows_other {s : State} {b i : BlockId} (hi : i ≠ b) (hs : s.shows i) :
    (s.undoBlock b).shows i ∧ (s.undoBlock b).blk i = s.blk i := by
  have h1 : (s.undoFences b).shows i ∧ (s.undoFences b).blk i = s.blk i := setHealth_shows_other _ hi hs
  unfold State.undoBlock
  dsimp only
  split
  · obtain ⟨h2, e2⟩ := setHealth_shows_other { (s.undoFences b).blk b with blockOffline := false } hi h1.1
    exact ⟨h2, e2.trans h1.2⟩
  · exact h1

theorem foldl_undoBlock_blk {s : State} {i : BlockId} {l : List BlockId} (hl : ∀ b ∈ l, i ≠ b) (hs : s.shows i) :
    (l.foldl State.undoBlock s).blk i = s.blk i := by
  induction l generalizing s with
  | nil => rfl
  | cons b l ih =>
    obtain ⟨h1, e1⟩ := undoBlock_shows_other (hl b (List.mem_cons_self ..)) hs
    exact (ih (fun x hx => hl x (List.mem_cons_of_mem _ hx)) h1).trans e1

/-- A region's own fault finds it online or offline as it was: the first block undone is the one its state is read from. -/
theorem undoBlocks_regionOnline (s : State) (r : RegionId) : (s.undoBlocks r).regionOnline r = s.regionOnline r := by
  obtain ⟨l, hl⟩ : ∃ l, regionBlocks r = blockIn r 0 :: l := ⟨_, rfl⟩
  have hnot : ∀ b ∈ l, blockIn r 0 ≠ b := fun b hb e => by
    have hnd := regionBlocks_nodup r
    rw [hl] at hnd
    exact (List.nodup_cons.1 hnd).1 (e ▸ hb)
  unfold State.regionOnline
  rw [undoBlocks_blk, hl, List.foldl_cons, foldl_undoBlock_blk hnot (undoBlock_shows_same s _), undoBlock_regionOffline_same]

/-! The commands. -/

/-- A command of a live device that touches ports and other parts touches those parts, and leaves every port in DISABLED if it leaves the node
fatal. -/
theorem settle_frame {ps : List Part} {s u : State} (h : Frame ps s.quiet u) (hp : Part.links ∈ ps) : Frame ps s (s.quiet.settle u) := by
  refine (Frame.quiet s).trans (h.trans ⟨h.1.symm, fun p hn => ?_⟩)
  cases p
  case links => exact absurd hp hn
  all_goals rfl

theorem cellFence_next {s : State} (hl : s.live = true) (c : CellId) (f : FaultCause) :
    exec (.cellFence c f) s = .next (s.quiet.settle (s.quiet.fenceCell c f)) :=
  congrArg Host.Outcome.next (whenLive_of_live (s := s.quiet) (fun t => t.fenceCell c f) hl)

theorem blockOffline_next {s : State} (hl : s.live = true) (b : BlockId) (f : FaultCause) :
    exec (.blockOffline b f) s = .next (s.quiet.settle (s.quiet.blockFault b f)) :=
  congrArg Host.Outcome.next (whenLive_of_live (s := s.quiet) (fun t => t.blockFault b f) hl)

theorem regionOffline_next {s : State} (hl : s.live = true) (r : RegionId) (f : FaultCause) :
    exec (.regionOffline r f) s = .next (s.quiet.settle (s.quiet.regionFault r f)) :=
  congrArg Host.Outcome.next (whenLive_of_live (s := s.quiet) (fun t => t.regionFault r f) hl)

end Sys2Proof.Machine

namespace Sys2Proof.Machine

/-- A fault that is only reported touches the report ring and its counters, and nothing else. -/
theorem live_contained {c : Instr} {s : State} {f : State → State} {code severity : Nat} {unit : BitVec 16}
    (hc : exec c s = .next (s.quiet.whenLive f)) (hl : s.live = true) (hf : f s.quiet = s.quiet.contained code severity unit) :
    ∃ t, exec c s = .next t ∧ reported t 0x02 code severity unit ∧ Frame [.ras, .ctr, .serial] s t := by
  have ha := contained_adds s.quiet code severity unit
  refine ⟨_, hc, ?_, Frame.whenLive hl (hf ▸ ha.1) ?_⟩
  · rw [whenLive_of_live (s := s.quiet) f hl, hf]
    exact contained_reported _ _ _ _
  · rw [hf, frame_dbg ha.1 (by simp)]
    exact live_not_fatal hl

theorem blockOnline_of_cellOnline {s : State} {c : CellId} (h : s.cellOnline c = true) :
    s.blockOnline (blockOf c) = true ∧ (s.blk (blockOf c)).fenced.getLsbD (c.val % 16) = false := by
  simpa [State.cellOnline] using h

theorem cellOnline_of_fenced {s : State} {c : CellId} (h : (s.blk (blockOf c)).fenced.getLsbD (c.val % 16) = true) :
    s.cellOnline c = false := by
  simp [State.cellOnline, h]

theorem blockOnline_of_blockOffline {s : State} {b : BlockId} (h : (s.blk b).blockOffline = true) : s.blockOnline b = false := by
  simp [State.blockOnline, h]

/-- A fault at an online cell (R52, R53, R55). -/
theorem fenceCell_contains {s : State} {c : CellId} (h : s.cellOnline c = true) (f : FaultCause) :
    ((s.fenceCell c f).blk (blockOf c)).fenced.getLsbD (c.val % 16) = true ∧ .cell c ∈ (s.fenceCell c f).remap ∧
    reported (s.fenceCell c f) 0x02 1 1 (unitCell c) ∧
    (3 ≤ s.fencedCount (blockOf c) → ((s.fenceCell c f).blk (blockOf c)).blockOffline = true) ∧
    (s.fencedCount (blockOf c) < 3 → ∀ b, b ≠ blockOf c → (s.fenceCell c f).blk b = s.blk b) ∧
    Adds [.arb, .health, .remap, .fab, .ras, .ctr, .xlt, .dbg, .links, .serial] s (s.fenceCell c f) := by
  obtain ⟨hb, hunf⟩ := blockOnline_of_cellOnline h
  have hcount := fenceCut_fencedCount hunf f
  have hbit : ((s.fenceCut c f).blk (blockOf c)).fenced.getLsbD (c.val % 16) = true := by
    rw [fenceCut_blk, if_pos rfl, fence_getLsbD _ (Nat.mod_lt _ (by decide))]
    simp
  have hcut := (fenceCut_adds s c f).mono (qs := [.arb, .health, .remap, .fab, .ras, .ctr, .xlt, .dbg, .links, .serial]) (by simp)
  have hrep := fenceCut_reported s c f
  have hmem := mem_fenceCut_remap s c f
  rw [fenceCell_of_online h, hcount]
  split
  · have hon : (s.fenceCut c f).blockOnline (blockOf c) = true := by rw [fenceCut_blockOnline, hb]
    obtain ⟨hoff, hfen, -, -, l, hl, -⟩ := blockDown_spec hon f
    have hdown := blockDown_adds hon f
    exact ⟨by rw [hfen, hbit], by rw [hl]; exact List.mem_append_left _ hmem, hdown.reported hrep, fun _ => hoff,
      fun hlt => absurd hlt (by omega), hcut.trans hdown⟩
  · exact ⟨hbit, hmem, hrep, fun hge => absurd hge (by omega), fun _ b hne => by rw [fenceCut_blk, if_neg hne], hcut⟩

/-- A fault at an online block (R53, R55, R96). -/
theorem blockFault_contains {s : State} {b : BlockId} (h : s.blockOnline b = true) (f : FaultCause) :
    ((s.blockFault b f).blk b).blockOffline = true ∧ .block b ∈ (s.blockFault b f).remap ∧
    reported (s.blockFault b f) 0x02 2 1 (unitBlock b) ∧ mget [] (s.blockFault b f).fab.units b.val = [] ∧
    mget [] (s.blockFault b f).xlt.blockTlb b.val = [] ∧ (∀ c, blockOf c = b → .cell c ∉ (s.blockFault b f).remap) ∧
    (2 ≤ s.offlineBlocks (regionOfBlock b) → (s.blockFault b f).regionOnline (regionOfBlock b) = false) ∧
    Adds [.arb, .health, .remap, .fab, .ras, .ctr, .xlt, .dbg, .links, .serial] s (s.blockFault b f) := by
  have hon : (s.undoFences b).blockOnline b = true := by rw [undoFences_blockOnline, h]
  obtain ⟨hoff, -, hu, ht, l, hl, hnot⟩ := blockDown_spec hon f
  rw [State.blockFault, if_pos h]
  refine ⟨hoff, ?_, (blockCut_blockDown_adds hon f).reported (blockCut_reported _ _ _), hu, ht, fun c hc hm => ?_,
    fun hn => blockDown_third hon f (hn.trans (undoFences_offlineBlocks s b _)),
    ((undoFences_adds s b).mono (by simp)).trans (blockDown_adds hon f)⟩
  · rw [hl]
    exact List.mem_append_right _ (List.mem_cons_self ..)
  · rw [hl] at hm
    rcases List.mem_append.1 hm with hm | hm
    · exact undoFences_remap s hc hm
    · rcases List.mem_cons.1 hm with hm | hm
      · exact nomatch hm
      · exact hnot c hm

/-- A fault at an online region (R53, R55). -/
theorem regionFault_contains {s : State} {r : RegionId} (h : s.regionOnline r = true) (f : FaultCause) :
    (s.regionFault r f).regionOnline r = false ∧ (∀ i, (s.regionFault r f).blockOnline (blockIn r i) = false) ∧
    .region r ∈ (s.regionFault r f).remap ∧ reported (s.regionFault r f) 0x02 3 1 (unitRegion r) ∧
    (s.regionFault r f).rbuf r = RBuf.reset ∧ (s.regionFault r f).ring (1 + r.val) = Ring.empty ∧
    (s.regionsOnline ≤ 2 → (s.regionFault r f).dbg.fatal = true) ∧
    Adds [.arb, .health, .remap, .fab, .ras, .ctr, .xlt, .dbg, .links, .serial] s (s.regionFault r f) := by
  have hon : (s.undoBlocks r).regionOnline r = true := by rw [undoBlocks_regionOnline, h]
  obtain ⟨hbuf, hring⟩ := regionDown_lost hon f
  rw [State.regionFault, if_pos h]
  refine ⟨regionDown_regionOnline _ _ _, fun i => ?_, ?_, (regionCut_regionDown_adds hon f).reported (regionCut_reported _ _ _), hbuf,
    hring, fun hn => regionDown_fatal hon f ((undoBlocks_regionsOnline s r).trans hn),
    ((undoBlocks_adds s r).mono (by simp)).trans (regionDown_adds _ r f)⟩
  · unfold State.blockOnline
    rw [regionDown_blk hon, if_pos (regionOfBlock_blockIn r i)]
    exact Bool.and_false _
  · rw [regionDown_remap hon]
    exact List.mem_append_right _ (List.mem_singleton.2 rfl)

/-! Units already out of service (R55). -/

theorem fenceCell_ignored {s : State} {c : CellId} (h : s.cellOnline c = false)
    (hk : (s.blk (blockOf c)).fenced.getLsbD (c.val % 16) = true ∨ s.leftNow (blockOf c) = false) (f : FaultCause) :
    s.fenceCell c f = s := by
  rcases hk with hk | hk <;> simp [State.fenceCell, h, hk]

theorem fenceCell_reports {s : State} {c : CellId} (h : s.blockOnline (blockOf c) = false)
    (hn : (s.blk (blockOf c)).fenced.getLsbD (c.val % 16) = false) (hleft : s.leftNow (blockOf c) = true) (f : FaultCause) :
    s.fenceCell c f = s.contained 1 1 (unitCell c) := by
  simp [State.fenceCell, State.cellOnline, h, hn, hleft]

theorem blockFault_ignored {s : State} {b : BlockId} (h : s.blockOnline b = false)
    (hk : (s.blk b).blockOffline = true ∨ .region (regionOfBlock b) ∉ s.remap) (f : FaultCause) : s.blockFault b f = s := by
  rcases hk with hk | hk <;> simp [State.blockFault, h, hk]

theorem blockFault_reports {s : State} {b : BlockId} (h : s.blockOnline b = false) (hn : (s.blk b).blockOffline = false)
    (hleft : .region (regionOfBlock b) ∈ s.remap) (f : FaultCause) : s.blockFault b f = s.contained 2 1 (unitBlock b) := by
  simp [State.blockFault, h, hn, hleft]

theorem regionFault_ignored {s : State} {r : RegionId} (h : s.regionOnline r = false) (f : FaultCause) : s.regionFault r f = s := by
  simp [State.regionFault, h]

/-- Settles O14: each level's fault is its cut (`fenceCut`, `blockCut`, `regionCut`) and then, where it is the last that the level above bears, that
level's. -/
theorem containmentTakesUnitsOut : Obligations.ContainmentTakesUnitsOut := by
  unfold Obligations.ContainmentTakesUnitsOut
  refine ⟨fun c f s hl h => ?_, fun b f s hl h => ?_, fun r f s hl h => ?_, fun c b r f s hl => ⟨fun h hk => ?_, fun h hn hleft => ?_,
    fun h hk => ?_, fun h hn hleft => ?_, fun h => ?_⟩⟩
  · obtain ⟨hfen, hmem, hrep, hfourth, hothers, ha⟩ := fenceCell_contains (s := s.quiet) h f
    exact ⟨_, cellFence_next hl c f, cellOnline_of_fenced hfen, hfen, hmem, hrep, hfourth, hothers,
      settle_frame (ha.1.mono (by simp)) (by simp)⟩
  · obtain ⟨hoff, hmem, hrep, hu, ht, hnot, hthird, ha⟩ := blockFault_contains (s := s.quiet) h f
    exact ⟨_, blockOffline_next hl b f, hoff, blockOnline_of_blockOffline hoff, hmem, hrep, hu, ht, hnot, hthird,
      settle_frame (ha.1.mono (by simp)) (by simp)⟩
  · obtain ⟨hoff, hblocks, hmem, hrep, hbuf, hring, hfatal, ha⟩ := regionFault_contains (s := s.quiet) h f
    exact ⟨_, regionOffline_next hl r f, hoff, hblocks, hmem, hrep, hbuf, hring,
      fun hn => ⟨hfatal hn, settle_fatalInv _ _ (hfatal hn)⟩, settle_frame (ha.1.mono (by simp)) (by simp)⟩
  · exact live_idles (f := fun t => t.fenceCell c f) rfl hl (fenceCell_ignored (s := s.quiet) h hk f)
  · exact live_contained (f := fun t => t.fenceCell c f) rfl hl (fenceCell_reports (s := s.quiet) h hn hleft f)
  · exact live_idles (f := fun t => t.blockFault b f) rfl hl (blockFault_ignored (s := s.quiet) h hk f)
  · exact live_contained (f := fun t => t.blockFault b f) rfl hl (blockFault_reports (s := s.quiet) h hn hleft f)
  · exact live_idles (f := fun t => t.regionFault r f) rfl hl (regionFault_ignored (s := s.quiet) h f)

end Sys2Proof.Machine

/-! PROOFS. A block atomic unit's arithmetic on a line (R94, R95). -/

namespace Sys2Proof.Machine

/-! Elements of a line. -/

/-- The bits of a line after an element was put into it: the value's bits inside the element, the line's own outside. -/
theorem getLsbD_setLineElem (d : Line) {off n : Nat} (v : Nat) (hfit : off + n ≤ 64) (i : Nat) :
    (setLineElem d off n v).getLsbD i = if 8 * off ≤ i ∧ i < 8 * (off + n) then v.testBit (i - 8 * off) else d.getLsbD i := by
  have hd : 512 ≤ i → d.getLsbD i = false := BitVec.getLsbD_of_ge d i
  simp only [setLineElem, BitVec.getLsbD_or, BitVec.getLsbD_and, BitVec.getLsbD_not, BitVec.getLsbD_ofNat, Nat.testBit_mul_two_pow,
    Nat.testBit_mod_two_pow, Nat.testBit_two_pow_sub_one]
  split
  next hin =>
    have h1 : i < 512 := by omega
    have h2 : 8 * off ≤ i := hin.1
    have h3 : i - 8 * off < 8 * n := by omega
    simp [h1, h2, h3]
  next hout =>
    by_cases hi : i < 512
    · by_cases hlo : 8 * off ≤ i
      · have h3 : ¬ i - 8 * off < 8 * n := by omega
        simp [hi, h3]
      · simp [hi, hlo]
    · simp [hi, hd (by omega)]

theorem testBit_lineElem (d : Line) (off n i : Nat) : (lineElem d off n).testBit i = (decide (i < 8 * n) && d.getLsbD (8 * off + i)) := by
  rw [lineElem, Nat.testBit_mod_two_pow, Nat.testBit_div_two_pow, Nat.add_comm i]; rfl

theorem lineElem_lt (d : Line) (off n : Nat) : lineElem d off n < 2 ^ (8 * n) := Nat.mod_lt _ (by positivity)

/-- An element put into a line reads back. -/
theorem lineElem_setLineElem (d : Line) {off n : Nat} (v : Nat) (hfit : off + n ≤ 64) :
    lineElem (setLineElem d off n v) off n = v % 2 ^ (8 * n) := by
  refine Nat.eq_of_testBit_eq fun i => ?_
  rw [testBit_lineElem, getLsbD_setLineElem d v hfit, Nat.testBit_mod_two_pow]
  by_cases hi : i < 8 * n
  · rw [if_pos (by omega), Nat.add_sub_cancel_left]
  · simp [hi]

/-- An aligned element lies within the line. -/
theorem aligned_fits {off : BitVec 6} {ty : AtomTy} (h : off.toNat % atomSize ty = 0) : off.toNat + atomSize ty ≤ 64 := by
  have := off.isLt
  cases ty <;> simp only [atomSize] at h ⊢ <;> omega

/-! One operation. -/

/-- Every operation but the add answers the old value or an operand, so a value of the element's width. -/
theorem atomNew_lt {op : AtomOp} {ty : AtomTy} {old : Nat} (e : AtomElem) (hop : op ≠ .add) (hold : old < 2 ^ (8 * atomSize ty)) :
    atomNew op ty old e < 2 ^ (8 * atomSize ty) := by
  have hx : e.operand.toNat % 2 ^ (8 * atomSize ty) < 2 ^ (8 * atomSize ty) := Nat.mod_lt _ (by positivity)
  cases op
  case add => exact absurd rfl hop
  case swap => exact hx
  all_goals
    simp only [atomNew]
    split <;> assumption

theorem atomNew_int_add {ty : AtomTy} (h : ty = .int32 ∨ ty = .int64) (old : Nat) (e : AtomElem) :
    atomNew .add ty old e = (old + e.operand.toNat % 2 ^ (8 * atomSize ty)) % 2 ^ (8 * atomSize ty) := by
  rcases h with rfl | rfl <;> rfl

variable (d : Line) (a : W64) {op : AtomOp} {ty : AtomTy} {e : AtomElem}

/-- What a request of one element leaves in the element. -/
theorem lineElem_applyAtom (hal : e.off.toNat % atomSize ty = 0) :
    lineElem (applyAtom d ⟨a, op, ty, [e]⟩).1 e.off.toNat (atomSize ty) =
      atomNew op ty (lineElem d e.off.toNat (atomSize ty)) e % 2 ^ (8 * atomSize ty) :=
  lineElem_setLineElem d _ (aligned_fits hal)

theorem lineElem_applyAtom_of_ne_add (hal : e.off.toNat % atomSize ty = 0) (hop : op ≠ .add) :
    lineElem (applyAtom d ⟨a, op, ty, [e]⟩).1 e.off.toNat (atomSize ty) = atomNew op ty (lineElem d e.off.toNat (atomSize ty)) e := by
  rw [lineElem_applyAtom d a hal, Nat.mod_eq_of_lt (atomNew_lt e hop (lineElem_lt ..))]

/-- A request of one element leaves every bit outside the element as it was. -/
theorem getLsbD_applyAtom_outside (hal : e.off.toNat % atomSize ty = 0) {i : Nat}
    (hi : i < 8 * e.off.toNat ∨ 8 * (e.off.toNat + atomSize ty) ≤ i) :
    (applyAtom d ⟨a, op, ty, [e]⟩).1.getLsbD i = d.getLsbD i :=
  (getLsbD_setLineElem d _ (aligned_fits hal) i).trans (if_neg (by omega))

end Sys2Proof.Machine

namespace Sys2Proof.Machine

/-- A run with one request more is the run, and then the request on the line that it left. -/
theorem applyRun_append (d : Line) (rs : List AtomReq) (r : AtomReq) :
    applyRun d (rs ++ [r]) = ((applyAtom (applyRun d rs).1 r).1, (applyRun d rs).2 ++ [(applyAtom (applyRun d rs).1 r).2]) := by
  rw [applyRun, List.foldl_append]; rfl

/-- Settles O23: an aligned element lies within its line, so what the operation's table gives reads back from it and no other bit changes. -/
theorem atomicsReturnOldValues : Obligations.AtomicsReturnOldValues := by
  unfold Obligations.AtomicsReturnOldValues
  refine ⟨fun d a op ty e hal => ?_, fun d rs r => ?_⟩
  · have hnew := fun hop => lineElem_applyAtom_of_ne_add (op := op) d a hal hop
    refine ⟨rfl, fun i hi => getLsbD_applyAtom_outside d a hal hi, ?_, ?_, ?_, ?_, ?_, ?_, ?_⟩
    · rintro rfl hty
      rw [lineElem_applyAtom d a hal, atomNew_int_add hty, Nat.mod_mod, Nat.add_mod_mod]
    · rintro rfl
      rw [hnew (by decide)]
      exact (min_def _ _).symm
    · rintro rfl
      rw [hnew (by decide)]
      exact (max_def _ _).symm
    · rintro rfl
      rw [hnew (by decide), min_def]
      exact apply_ite _ _ _ _
    · rintro rfl
      rw [hnew (by decide), max_def]
      exact apply_ite _ _ _ _
    · rintro rfl
      exact hnew (by decide)
    · rintro rfl
      exact hnew (by decide)
  · rw [applyRun_append]
    exact ⟨rfl, rfl⟩

end Sys2Proof.Machine

/-! PROOFS. Figures (R89, R109 to R116): the cell a figure runs on, and the frame around it. -/

namespace Sys2Proof.Machine

/-! Cells. -/

@[simp] theorem setCell_cell_same (s : State) (c : CellId) (x : Cell) : (s.setCell c x).cell c = x := mget_mset_same ..

theorem setCell_cell_other {s : State} (h : keysRise s.fab.cells = true) {c d : CellId} (x : Cell) (hd : d ≠ c) :
    (s.setCell c x).cell d = s.cell d :=
  mget_mset_other _ h x (fun e => hd (Fin.ext e))

theorem cell_of_fab {s t : State} (h : t.fab = s.fab) (c : CellId) : t.cell c = s.cell c :=
  congrArg (fun f : Fab => mget Cell.reset f.cells c.val) h

theorem bump_cell (s : State) (off n : Nat) (c : CellId) : (s.bump off n).cell c = s.cell c :=
  cell_of_fab ((bump_frame s off n).2 .fab (by decide)) c

/-- A cell is written and an event counted: nothing outside the fabric, the counters and the report ring changes. -/
theorem setCell_bump_frame (s : State) (c : CellId) (x : Cell) (off n : Nat) :
    Frame [.fab, .ras, .ctr, .serial] s ((s.setCell c x).bump off n) :=
  ((setCell_adds s c x).1.mono (by simp)).trans ((bump_frame _ off n).mono (by simp))

/-- A command whose meaning on a live device is to write a cell and to count writes that cell alone. -/
theorem live_setCell_bump {i : Instr} {s : State} {f : State → State} {c : CellId} {x : Cell} {off n : Nat}
    (hi : exec i s = .next (s.quiet.whenLive f)) (hl : s.live = true) (hk : keysRise s.fab.cells = true)
    (hf : f s.quiet = (s.quiet.setCell c x).bump off n) :
    ∃ t, exec i s = .next t ∧ t.cell c = x ∧ (∀ d, d ≠ c → t.cell d = s.cell d) ∧ Frame [.fab, .ras, .ctr, .serial] s t := by
  have hF := setCell_bump_frame s.quiet c x off n
  have hcell : ∀ d, (s.quiet.whenLive f).cell d = (s.quiet.setCell c x).cell d := fun d => by
    rw [whenLive_of_live (s := s.quiet) f hl, hf, cell_of_fab (settle_fab _ _), bump_cell]
  refine ⟨_, hi, ?_, fun d hd => ?_, Frame.whenLive hl (hf ▸ hF) ?_⟩
  · rw [hcell, setCell_cell_same]
  · rw [hcell, setCell_cell_other (s := s.quiet) hk x hd]; rfl
  · rw [hf, frame_dbg hF (by simp)]
    exact live_not_fatal hl

/-! Ready figures. -/

/-- A ready figure's tile is the one on the cell. -/
theorem figReady_tile {s : State} {c : CellId} {kind : Nat} {tl : Tile} {cx : FigCtx} {f : Fig} {r : Run}
    (h : s.figReady c kind = some (tl, cx, f, r)) : (s.cell c).tile = some tl := by
  unfold State.figReady at h
  dsimp only at h
  split at h
  next => cases h
  next ht =>
    split at h
    next => cases h
    next =>
      split at h
      next => cases h
      next =>
        cases h
        exact ht

theorem runFigure_of_ready {s : State} {c : CellId} {kind : Nat} {tl : Tile} {cx : FigCtx} {f : Fig} {r : Run}
    (h : s.figReady c kind = some (tl, cx, f, r)) (ce : Nat) (eff : FigCtx → Fig → Cell → Cell) :
    s.runFigure c kind ce eff =
      (s.setCell c (figDone 1 (eff cx f ((s.cell c).loadScales cx f)))).bump (ctrReel 0 (blockOf c).val) ce := by
  rw [State.runFigure, h]

theorem figureAtomic_of_ready {s : State} {c : CellId} {tl : Tile} {cx : FigCtx} {f : Fig} {r : Run}
    (h : s.figReady c 6 = some (tl, cx, f, r)) (ce : Nat) :
    figureAtomic c ce s = (s.setCell c (figDone 1 (figAtomic cx f (r.args.getD f.param (0, 0)).1 (r.args.getD f.param (0, 0)).2
      (s.cell c)))).bump (ctrReel 0 (blockOf c).val) ce := by
  rw [figureAtomic, h]

theorem figureSkip_of_ready {s : State} {c : CellId} {tl : Tile} {cx : FigCtx} {f : Fig} {r : Run}
    (h : s.figReady c 7 = some (tl, cx, f, r)) (ce : Nat) :
    figureSkip c ce s = (s.setCell c (figDone (if figSkips cx f (s.cell c) then 1 + f.param else 1) (s.cell c))).bump
      (ctrReel 0 (blockOf c).val) ce := by
  rw [figureSkip, h]

/-- Going on to a later figure changes nothing else of a cell. -/
theorem figDone_of_tile {x : Cell} {tl : Tile} (h : x.tile = some tl) (n : Nat) :
    figDone n x = { x with tile := some { tl with fig := tl.fig + n } } := by
  rw [figDone, h]; rfl

/-- Settles O20: a ready figure is one write of its cell, with the corrected errors counted. -/
theorem figuresRun : Obligations.FiguresRun := by
  unfold Obligations.FiguresRun
  intro c ce tl cx f r s hl hk
  refine ⟨fun h => ?_, fun h => ?_, fun h => ?_, fun h => ?_, fun h => ?_, fun h => ?_, fun h => ?_⟩
  · exact live_setCell_bump rfl hl hk (runFigure_of_ready (s := s.quiet) h ce figDot)
  · exact live_setCell_bump rfl hl hk (runFigure_of_ready (s := s.quiet) h ce figEwise)
  · exact live_setCell_bump rfl hl hk (runFigure_of_ready (s := s.quiet) h ce figLreduce)
  · exact live_setCell_bump rfl hl hk (runFigure_of_ready (s := s.quiet) h ce figConvert)
  · exact live_setCell_bump rfl hl hk (runFigure_of_ready (s := s.quiet) h ce figGather)
  · exact live_setCell_bump rfl hl hk (figureAtomic_of_ready (s := s.quiet) h ce)
  · rw [← figDone_of_tile (figReady_tile h)]
    exact live_setCell_bump rfl hl hk (figureSkip_of_ready (s := s.quiet) h ce)

end Sys2Proof.Machine

/-! PROOFS. The block atomic units (R94 to R97, R116, R327): a request's way into a unit, and the commit of its oldest run. -/

namespace Sys2Proof.Machine

/-! A unit's queue. -/

@[simp] theorem setUnitQueue_atomQueue (s : State) (b : BlockId) (l : List AtomEntry) : (s.setUnitQueue b l).atomQueue b = l :=
  mget_mset_same ..

theorem setUnitQueue_cell (s : State) (b : BlockId) (l : List AtomEntry) (c : CellId) : (s.setUnitQueue b l).cell c = s.cell c := rfl

theorem setCell_atomQueue (s : State) (c : CellId) (x : Cell) (b : BlockId) : (s.setCell c x).atomQueue b = s.atomQueue b := rfl

theorem atomQueue_of_fab {s t : State} (h : t.fab = s.fab) (b : BlockId) : t.atomQueue b = s.atomQueue b :=
  congrArg (fun f : Fab => mget [] f.units b.val) h

theorem setUnitQueue_adds (s : State) (b : BlockId) (l : List AtomEntry) : Adds [.fab] s (s.setUnitQueue b l) := adds_fab s _

/-! A request's way into the unit. -/

/-- A request that comes with no residue failure joins the queue, and that is all. -/
theorem unitTakes_no_fails (s : State) (b : BlockId) (e : AtomEntry) :
    s.unitTakes b e 0 = s.setUnitQueue b (s.atomQueue b ++ [{ e with fails := 0 }]) := by
  simp [State.unitTakes]

theorem cellAtomic_takes {s : State} {b : BlockId} {c : CellId} {r : AtomReq} {rest : List AtomReq} {tl : Tile}
    (ht : (s.cell c).tile = some tl) (hr : tl.reqs = r :: rest) (hb : blockOf c = b) (hc : s.cellOnline c = true)
    (hi : s.blockIssues b = true) (hs : tl.stopped = false) (hm : atomMalformed r = false) :
    cellAtomic b c r 0 s =
      (s.setCell c { s.cell c with tile := some { tl with reqs := rest, outstanding := tl.outstanding + 1, sent := true } }).setUnitQueue b
        (s.atomQueue b ++ [⟨.cell c, r, 0⟩]) := by
  simp [cellAtomic, ht, hr, hb, hc, hi, hs, hm, unitTakes_no_fails, setCell_atomQueue]

theorem homeAtomic_takes {s : State} {b : BlockId} {line : BitVec 34} {r : AtomReq} {q : CReq} {x : Txn}
    (hx : s.txn line.toNat = some x) (hq : (x.run.drop (s.atUnits line)).head? = some q) (hp : x.phase = .nearRun)
    (hn : s.nearBlock line.toNat = some b.val) (hb : s.blockOnline b = true) (hi : s.blockIssues b = true)
    (hl : r.line = s.lineAddr line.toNat) (hm : atomMalformed r = false) :
    homeAtomic b line r 0 s = s.setUnitQueue b (s.atomQueue b ++ [⟨.home line, r, 0⟩]) := by
  obtain ⟨rest, hd⟩ := List.head?_eq_some_iff.1 hq
  simp [homeAtomic, hx, hd, hp, hn, hb, hi, hl, hm, unitTakes_no_fails]

/-- A command whose meaning on a live device touches nothing but the fabric leaves what that meaning makes of it. -/
theorem live_setFab {i : Instr} {s u : State} {f : State → State} (hi : exec i s = .next (s.quiet.whenLive f)) (hl : s.live = true)
    (hf : f s.quiet = u) (hu : Frame [.fab] s.quiet u) : ∃ t, exec i s = .next t ∧ t.fab = u.fab ∧ Frame [.fab] s t := by
  refine ⟨_, hi, ?_, Frame.whenLive hl (hf ▸ hu) ?_⟩
  · rw [whenLive_of_live (s := s.quiet) f hl, settle_fab, hf]
  · rw [hf, frame_dbg hu (by simp)]
    exact live_not_fatal hl

/-! Requests return to their cells. -/

/-- Requests return to a list of cells. -/
def State.cellsReturn (s : State) (cs : List CellId) : State := cs.foldl (fun st q => st.cellReturn q) s

theorem cellReturn_adds (s : State) (c : CellId) : Adds [.fab] s (s.cellReturn c) := setCell_adds ..

theorem cellsReturn_adds (s : State) (cs : List CellId) : Adds [.fab] s (s.cellsReturn cs) := Adds.foldl cellReturn_adds cs s

theorem cellsReturn_atomQueue (s : State) (cs : List CellId) (b : BlockId) : (s.cellsReturn cs).atomQueue b = s.atomQueue b := by
  induction cs generalizing s with
  | nil => rfl
  | cons c cs ih => exact ih (s.cellReturn c)

/-! Operations and a tenant's bytes. -/

theorem tget_tmod_same {α : Type} (m : SMap α) (k : Nat) (f : α → α) : tget (tmod m k f) k = (tget m k).map f := by
  induction m with
  | nil => rfl
  | cons e m ih =>
    obtain ⟨j, v⟩ := e
    have ht : tmod ((j, v) :: m) k f = (if j = k then (j, f v) else (j, v)) :: tmod m k f := rfl
    by_cases hj : j = k
    · subst hj
      simp [ht, tget]
    · simp only [ht, hj, if_false, tget, ih]
      split <;> rfl

theorem modOp_op_same (s : State) (n : Nat) (f : OpRec → OpRec) : (s.modOp n f).op n = (s.op n).map f := tget_tmod_same ..

theorem op_of_que {s t : State} (h : t.que = s.que) (n : Nat) : t.op n = s.op n := congrArg (fun q : Que => tget q.ops n) h

theorem adds_que (s : State) (x : Que) : Adds [.que] s { s with que := x } :=
  adds_of_same rfl rfl (fun p => by cases p <;> simp [Part.same])

theorem adds_dbg (s : State) (x : Dbg) : Adds [.dbg] s { s with dbg := x } :=
  adds_of_same rfl rfl (fun p => by cases p <;> simp [Part.same])

theorem modOp_frame (s : State) (n : Nat) (f : OpRec → OpRec) : Frame [.que] s (s.modOp n f) := (adds_que s _).1

/-- Counting a tenant's bytes touches the remainder kept for the counter, the counter, and the report ring where the counter saturates; the node
is as fatal as before. -/
theorem tallyBytes_frame (s : State) (k : Nat) (t : Tenant) (n : Nat) :
    Frame [.ctr, .dbg, .ras, .serial] s (s.tallyBytes k t n) ∧ (s.tallyBytes k t n).dbg.fatal = s.dbg.fatal := by
  have hset : ∀ x : SMap Nat, Frame [.ctr, .dbg, .ras, .serial] s { s with dbg := { s.dbg with tenRem := x } } := fun _ =>
    (adds_dbg s _).1.mono (by simp)
  unfold State.tallyBytes
  dsimp only
  split
  · exact ⟨hset _, rfl⟩
  · refine ⟨(hset _).trans ((bump_frame _ _ _).mono (by simp)), ?_⟩
    rw [frame_dbg (bump_frame _ _ _) (by simp)]

/-! A run of cells' requests commits. -/

/-- What a served run of cells' requests does after its line is written: the unit keeps the requests behind it, each request returns to its
cell, the events join the operation's status and the tenant's bytes are counted. -/
def State.cellsServed (s : State) (b : BlockId) (rest : List AtomEntry) (cs : List CellId) (n : Nat) (ev : Status16) (t : Tenant) : State :=
  (((((s.setUnitQueue b rest).cellsReturn cs).modOp n (fun x => { x with tileStatus := x.tileStatus ||| ev })).tallyBytes 2 t 64).tallyBytes
    3 t 64)

theorem tallyBytes_twice_frame (s : State) (t : Tenant) (n : Nat) :
    Frame [.ctr, .dbg, .ras, .serial] s ((s.tallyBytes 2 t n).tallyBytes 3 t n) :=
  (tallyBytes_frame s 2 t n).1.trans (tallyBytes_frame _ 3 t n).1

section
variable (s : State) (b : BlockId) (rest : List AtomEntry) (cs : List CellId) (n : Nat) (ev : Status16) (t : Tenant)

theorem cellsServed_fab : (s.cellsServed b rest cs n ev t).fab = ((s.setUnitQueue b rest).cellsReturn cs).fab :=
  (tallyBytes_twice_frame _ t 64).2 .fab (by decide)

theorem cellsServed_atomQueue : (s.cellsServed b rest cs n ev t).atomQueue b = rest := by
  rw [atomQueue_of_fab (cellsServed_fab ..), cellsReturn_atomQueue, setUnitQueue_atomQueue]

/-- A run of one request: its cell has one request less outstanding. -/
theorem cellsServed_cell (c : CellId) : (s.cellsServed b rest [c] n ev t).cell c =
    { s.cell c with tile := (s.cell c).tile.map (fun x => { x with outstanding := x.outstanding - 1 }) } := by
  rw [cell_of_fab (cellsServed_fab ..)]
  exact setCell_cell_same ..

theorem cellsServed_op : (s.cellsServed b rest cs n ev t).op n =
    (s.op n).map (fun x => { x with tileStatus := x.tileStatus ||| ev }) := by
  have hq : ((s.setUnitQueue b rest).cellsReturn cs).que = s.que :=
    ((setUnitQueue_adds s b rest).trans (cellsReturn_adds _ cs)).same .que (by decide)
  rw [State.cellsServed, op_of_que ((tallyBytes_twice_frame _ t 64).2 .que (by decide)), modOp_op_same, op_of_que hq]

theorem cellsServed_frame : Frame [.fab, .que, .ctr, .dbg, .ras, .serial] s (s.cellsServed b rest cs n ev t) :=
  ((((setUnitQueue_adds s b rest).trans (cellsReturn_adds _ cs)).1.mono (by simp)).trans ((modOp_frame _ n _).mono (by simp))).trans
    ((tallyBytes_twice_frame _ t 64).mono (by simp))

theorem cellsServed_fatal : (s.cellsServed b rest cs n ev t).dbg.fatal = s.dbg.fatal := by
  have hd : ((s.setUnitQueue b rest).cellsReturn cs).dbg = s.dbg :=
    ((setUnitQueue_adds s b rest).trans (cellsReturn_adds _ cs)).same .dbg (by decide)
  rw [State.cellsServed, (tallyBytes_frame ..).2, (tallyBytes_frame ..).2, State.modOp_dbg, hd]

end

theorem commitCells_served {s s1 s2 : State} {b : BlockId} {c : CellId} {es rest : List AtomEntry} {addr : W64} {tl : Tile} {o : OpRec}
    {olds : List Line} {ev : Status16} (ht : (s.cell c).tile = some tl) (ho : s.op tl.run = some o)
    (hr : s.cellRunReady b (accAtomic o.ep (s.opAuth o)) addr = (true, s1))
    (hs : s1.runOnLine (accAtomic o.ep (s.opAuth o)) addr (es.map (fun x => x.req)) = (.served olds ev, s2)) :
    s.commitCells b c es rest addr = s2.cellsServed b rest (runCells es) tl.run ev o.tenant := by
  simp [State.commitCells, ht, ho, hr, hs, State.cellsServed, State.cellsReturn]

theorem atomicRunCommit_of_cell {s : State} {b : BlockId} {e : AtomEntry} {more : List AtomEntry} {c : CellId}
    (hq : s.atomQueue b = e :: more) (he : e.sender = .cell c) (hb : s.blockOnline b = true) (hi : s.blockIssues b = true) :
    atomicRunCommit b s = s.commitCells b c (e :: more.takeWhile (sameRun e)) (more.dropWhile (sameRun e)) e.req.line := by
  simp [atomicRunCommit, hq, he, hb, hi]

theorem atomicRunCommit_of_home {s : State} {b : BlockId} {e : AtomEntry} {more : List AtomEntry} {line : BitVec 34}
    (hq : s.atomQueue b = e :: more) (he : e.sender = .home line) (hb : s.blockOnline b = true) (hi : s.blockIssues b = true) :
    atomicRunCommit b s = s.commitNear b line.toNat (e :: more.takeWhile (sameRun e)) (more.dropWhile (sameRun e)) := by
  simp [atomicRunCommit, hq, he, hb, hi]

/-- Settling a state that is not fatal touches the queue of commands alone. -/
theorem settle_sameBut {ps : List Part} {s t u : State} (hd : u.dbg.fatal = false) (h : SameBut ps t u) : SameBut ps t (s.settle u) := by
  rw [settle_of_not_fatal s hd]
  exact fun p hp => by cases p <;> exact h _ hp

/-! A run of a slice's requests commits. -/

theorem commitNear_served {s s1 : State} {b : BlockId} {line : Nat} {es rest : List AtomEntry} {x : Txn} {r : CReq} {olds : List Line}
    {ev : Status16} (hx : s.txn line = some x) (hr : x.run.head? = some r)
    (hh : s.nearHeld { accAtomic r.ep [] with passed := true, vslot := r.vslot } r.pkt.addr = false)
    (hs : s.runOnLine { accAtomic r.ep [] with passed := true, vslot := r.vslot } r.pkt.addr (es.map (fun y => y.req)) = (.served olds ev, s1)) :
    s.commitNear b line es rest = (((x.run.take es.length).zip olds).foldl (fun a q => a.answerNear q.1 stOk (some (q.2, false)))
      (s1.setUnitQueue b rest)).runLeaves line es.length := by
  obtain ⟨reqs, hd⟩ := List.head?_eq_some_iff.1 hr
  simp only [State.commitNear, hx, hd, hh, hs, Bool.false_eq_true, if_false, List.zip_map_right, List.foldl_map]
  rfl

/-- Settles O22: a well-formed request joins the queue and no more; a served run is one of cells (cellsServed) or of a slice, whose requests are
answered in turn. -/
theorem atomicUnitsServeRequests : Obligations.AtomicUnitsServeRequests := by
  unfold Obligations.AtomicUnitsServeRequests
  refine ⟨?_, ?_, ?_, ?_⟩
  · intro b c r rest tl s hl ht hr hb hc hi hs hm
    obtain ⟨t, he, hf, hF⟩ := live_setFab (i := .atomicUnitRequest b (.cell c) r 0) rfl hl
      (cellAtomic_takes (s := s.quiet) ht hr hb hc hi hs hm) ((setCell_adds s.quiet c _).trans (setUnitQueue_adds _ b _)).1
    refine ⟨t, he, ?_, ?_, hF⟩
    · rw [atomQueue_of_fab hf, setUnitQueue_atomQueue]; rfl
    · rw [cell_of_fab hf, setUnitQueue_cell, setCell_cell_same]; rfl
  · intro b line r q x s hl hx hq hp hn hb hi hline hm
    obtain ⟨t, he, hf, hF⟩ := live_setFab (i := .atomicUnitRequest b (.home line) r 0) rfl hl
      (homeAtomic_takes (s := s.quiet) hx hq hp hn hb hi hline hm) (setUnitQueue_adds s.quiet b _).1
    exact ⟨t, he, by rw [atomQueue_of_fab hf, setUnitQueue_atomQueue]; rfl, hF⟩
  · intro b c e more tl o s s1 s2 olds ev hl hq hc hb hi ht ho hr hs hd
    have hf : atomicRunCommit b s.quiet =
        s2.cellsServed b (more.dropWhile (sameRun e)) (runCells (e :: more.takeWhile (sameRun e))) tl.run ev o.tenant := by
      rw [atomicRunCommit_of_cell (s := s.quiet) hq hc hb hi, commitCells_served (s := s.quiet) ht ho hr hs]
    refine ⟨s.quiet.settle (atomicRunCommit b s.quiet), congrArg Host.Outcome.next (whenLive_of_live (s := s.quiet) _ hl), ?_⟩
    rw [hf]
    refine ⟨?_, fun h1 => ?_, fun y hy => ?_, settle_sameBut ((cellsServed_fatal ..).trans hd) (cellsServed_frame ..).2⟩
    · rw [atomQueue_of_fab (settle_fab ..), cellsServed_atomQueue]
    · have hcs : runCells (e :: more.takeWhile (sameRun e)) = [c] := by simp [runCells, h1, hc]
      rw [cell_of_fab (settle_fab ..), hcs, cellsServed_cell]
    · rw [op_of_que (settle_que ..), cellsServed_op, hy, Option.map_some]
  · intro b line e more x r s s1 olds ev hl hq hsend hb hi hx hr hh hs
    have hlen : (e :: more.takeWhile (sameRun e)).length = 1 + (more.takeWhile (sameRun e)).length := Nat.add_comm ..
    refine ⟨_, congrArg Host.Outcome.next (whenLive_of_live (s := s.quiet) _ hl), congrArg s.quiet.settle ?_⟩
    rw [atomicRunCommit_of_home (s := s.quiet) hq hsend hb hi, ← hlen]
    exact commitNear_served (s := s.quiet) hx hr hh hs

end Sys2Proof.Machine

/-! PROOFS. What a command of a live device leaves: the state its meaning makes, where that does not make the node fatal. -/

namespace Sys2Proof.Machine

theorem live_next {i : Instr} {s u : State} {f : State → State} (hi : exec i s = .next (s.quiet.whenLive f)) (hl : s.live = true)
    (hf : f s.quiet = u) : exec i s = .next (s.quiet.settle u) := by
  rw [hi, whenLive_of_live (s := s.quiet) f hl, hf]

/-- A meaning that leaves the fatal flag and the queue of commands alone is the command's whole effect. -/
theorem live_next_frame {i : Instr} {s u : State} {f : State → State} {ps : List Part} (hi : exec i s = .next (s.quiet.whenLive f))
    (hl : s.live = true) (hf : f s.quiet = u) (hu : Frame ps s.quiet u) (hp : Part.dbg ∉ ps) : exec i s = .next u ∧ Frame ps s u := by
  have hd : u.dbg.fatal = false := by
    rw [frame_dbg hu hp]
    exact live_not_fatal hl
  have hs : s.quiet.settle u = u := by
    rw [settle_of_not_fatal _ hd, ← hu.1]
  exact ⟨by rw [live_next hi hl hf, hs], (Frame.quiet s).trans hu⟩

end Sys2Proof.Machine

/-! PROOFS. Sparse maps and lists: what a map holds, changes of one entry, lists without repeats. -/

namespace Sys2Proof.Machine

theorem tget_of_mem {α : Type} {m : SMap α} (hm : keysRise m = true) {k : Nat} {v : α} (h : (k, v) ∈ m) : tget m k = some v := by
  rw [keysRise_iff] at hm
  induction m with
  | nil => cases h
  | cons e m ih =>
    obtain ⟨h1, h2⟩ := List.pairwise_cons.1 hm
    rcases List.mem_cons.1 h with rfl | h
    · simp [tget]
    · have hlt : e.1 < k := h1 _ h
      simp only [tget, ih h2 h, if_neg (Nat.ne_of_lt hlt), if_neg (Nat.lt_asymm hlt)]

theorem tget_tmod_other {α : Type} (m : SMap α) {k i : Nat} (f : α → α) (h : i ≠ k) : tget (tmod m k f) i = tget m i := by
  induction m with
  | nil => rfl
  | cons e m ih =>
    obtain ⟨j, v⟩ := e
    have ht : tmod ((j, v) :: m) k f = (if j = k then (j, f v) else (j, v)) :: tmod m k f := rfl
    by_cases hj : j = k
    · subst hj
      simp only [ht, if_true, tget, h.symm, if_false, ih]
    · simp only [ht, hj, if_false, tget, ih]

theorem length_eraseDups_le {α : Type} [BEq α] (l : List α) : l.eraseDups.length ≤ l.length := by
  induction h : l.length using Nat.strongRecOn generalizing l with
  | _ n ih =>
    cases l with
    | nil => simp
    | cons a l =>
      have hf := List.length_filter_le (fun b => !b == a) l
      have hn : l.length + 1 = n := h
      have hrest := ih _ (by omega) (l.filter (fun b => !b == a)) rfl
      rw [List.eraseDups_cons, List.length_cons]
      omega

/-- A list that loses nothing when repeats are taken out has none. -/
theorem nodup_of_length_eraseDups {α : Type} [BEq α] [LawfulBEq α] {l : List α} (h : l.eraseDups.length = l.length) : l.Nodup := by
  induction l with
  | nil => exact List.nodup_nil
  | cons a l ih =>
    rw [List.eraseDups_cons, List.length_cons, List.length_cons] at h
    have h1 := length_eraseDups_le (l.filter (fun b => !b == a))
    have h2 := List.length_filter_le (fun b => !b == a) l
    have hall := List.length_filter_eq_length_iff.1 (show (l.filter (fun b => !b == a)).length = l.length by omega)
    have hself : l.filter (fun b => !b == a) = l := List.filter_eq_self.2 hall
    rw [hself] at h
    refine List.nodup_cons.2 ⟨fun ha => ?_, ih (by omega)⟩
    simpa using hall a ha

/-- The places of a list, each with what stands there. -/
theorem mem_range_zip {α : Type} {l : List α} {i : Nat} {a : α} (h : l[i]? = some a) : (i, a) ∈ (List.range l.length).zip l := by
  obtain ⟨hi, -⟩ := List.getElem?_eq_some_iff.1 h
  exact List.mem_of_getElem? (i := i) (List.getElem?_zip_eq_some.2 ⟨List.getElem?_range hi, h⟩)

/-- A table by place is in order of its keys. -/
theorem tget_range_zip {α β : Type} {l : List α} {i : Nat} {a : α} (h : l[i]? = some a) (f : α → β) :
    tget (((List.range l.length).zip l).map (fun x => (x.1, f x.2))) i = some (f a) := by
  refine tget_of_mem ?_ (List.mem_map.2 ⟨(i, a), mem_range_zip h, rfl⟩)
  have hfst : (((List.range l.length).zip l).map (fun x => (x.1, f x.2))).map Prod.fst = List.range l.length := by
    rw [List.map_map]
    exact List.map_fst_zip (by simp)
  rw [keysRise_iff, ← List.pairwise_map (f := Prod.fst) (R := (· < ·)), hfst]
  exact List.pairwise_lt_range

end Sys2Proof.Machine

/-! PROOFS. Queue pairs (R147, R209, R446): a descriptor that ends without being admitted, and one that is admitted. -/

namespace Sys2Proof.Machine

@[simp] theorem setQp_qp_same (s : State) (q : Qp) (x : QPair) : (s.setQp q x).qp q = some x := tget_tput_same ..

theorem setQp_adds (s : State) (q : Qp) (x : QPair) : Adds [.que] s (s.setQp q x) := adds_que s _

/-- The next descriptor of a queue pair is neither admitted nor done. -/
theorem nextIs_spec {s : State} {q : Qp} {h : Nat} {opc : BitVec 8} {x : QPair} {d : Held} (hn : s.nextIs q h opc = some (x, d)) :
    s.qp q = some x ∧ d.op.isSome = false ∧ d.done = false := by
  unfold State.nextIs at hn
  split at hn
  next => cases hn
  next y hy =>
    split at hn
    next k e hk =>
      split at hn
      next =>
        cases hn
        have hp := List.find?_some hk
        simp only [Bool.and_eq_true, Option.isNone_iff_eq_none, Bool.not_eq_true'] at hp
        exact ⟨hy, by simp [hp.1], hp.2⟩
      next => cases hn
    next => cases hn

/-- The record of a descriptor that ends without being admitted. -/
def endRec (d : Desc) (h : Nat) (st : Status) (value : W64) : Rec :=
  { value := value, csn := 0#48, tileStatus := 0#16, cmdId := descCmd d, status := st, outcome := none, cause := none,
    verdict := false, held := some h, intr := descIntr d }

/-- The queue pair once descriptor h has ended. -/
def QPair.ended (x : QPair) (h : Nat) (d : Held) (st : Status) (value : W64) : QPair :=
  { x with held := tput x.held h { d with done := true }, recs := x.recs ++ [endRec d.desc h st value] }

theorem endDesc_of_next {s : State} {q : Qp} {h : Nat} {opc : BitVec 8} {x : QPair} {d : Held} (hn : s.nextIs q h opc = some (x, d))
    (hh : tget x.held h = some d) (hx : x.drops = false) (st : Status) (value : W64) :
    s.endDesc q h st value =
      (s.setQp q { x with held := tput x.held h { d with done := true } }).setQp q (x.ended h d st value) := by
  obtain ⟨hq, ho, hd⟩ := nextIs_spec hn
  have hx' : QPair.drops { x with held := tput x.held h { d with done := true } } = false := hx
  simp only [State.endDesc, hq, hh, ho, hd, Bool.or_false, Bool.false_eq_true, if_false, State.queueRec, setQp_qp_same, hx']
  rfl

theorem endDesc_descEnded {s : State} {q : Qp} {h : Nat} {opc : BitVec 8} {x : QPair} {d : Held} (hn : s.nextIs q h opc = some (x, d))
    (hh : tget x.held h = some d) (hx : x.drops = false) (st : Status) (value : W64) :
    descEnded (s.endDesc q h st value) q h d.desc st ∧ Frame [.que] s (s.endDesc q h st value) := by
  rw [endDesc_of_next hn hh hx]
  exact ⟨⟨_, _, setQp_qp_same .., List.mem_append_right _ (List.mem_singleton.2 rfl), rfl, rfl, rfl, rfl, rfl⟩,
    ((setQp_adds s q _).trans (setQp_adds _ q _)).1⟩

/-- The operation that a descriptor is admitted as. -/
theorem newOp_op (s : State) (q : Qp) (h : Nat) (x : QPair) (d : Held) :
    ∃ o, (s.newOp q h x d).2.op s.que.nextOp = some o ∧ o.qp = q ∧ o.held = h ∧ o.tenant = x.cfg.tenant ∧ o.ending = none :=
  ⟨_, tget_tput_same .., rfl, rfl, rfl, rfl⟩

theorem newOp_adds (s : State) (q : Qp) (h : Nat) (x : QPair) (d : Held) : Adds [.que] s (s.newOp q h x d).2 := adds_que s _

theorem giveCsn_adds (s : State) (n : Nat) : Adds [.que, .ras] s (s.giveCsn n) := by
  unfold State.giveCsn
  split
  next => exact Adds.rfl s
  next =>
    split
    next => exact Adds.rfl s
    next => exact adds_of_same rfl rfl (fun p => by cases p <;> simp [Part.same])

end Sys2Proof.Machine
/-! PROOFS. The launch of runs and their binding (R124, R125, R135 to R138, R143). -/

namespace Sys2Proof.Machine

/-! RUN_REEL. -/

@[simp] theorem setRun_run_same (s : State) (n : Nat) (r : Run) : (s.setRun n r).run n = some r := tget_tput_same ..

theorem setRun_adds (s : State) (n : Nat) (r : Run) : Adds [.fab] s (s.setRun n r) := adds_fab s _

theorem setRun_cell (s : State) (n : Nat) (r : Run) (c : CellId) : (s.setRun n r).cell c = s.cell c := rfl

theorem run_of_fab {s t : State} (h : t.fab = s.fab) (n : Nat) : t.run n = s.run n := congrArg (fun f : Fab => tget f.runs n) h

/-- The run that a descriptor with given arguments launches: it waits, on no cell and with no copy due. -/
def launchedRun (d : Desc) (args : List (Nat × Nat)) : Run :=
  { reel := runHandle d, args := args, steps := runSteps d, seed := runSeed d, mask := runMask d, bound := false, lcs := [], copies := [],
    nextCopy := 0, committed := 0, overruns := 0, stalls := 0 }

theorem runReel_of_refused {s : State} {q : Qp} {h : Nat} {args : List Byte} {x : QPair} {d : Held} {st : Status}
    (hn : s.nextIs q h 0x30#8 = some (x, d)) (hc : s.runCheck x d.desc = some st) : runReel q h args s = s.endDesc q h st 0#64 := by
  simp only [runReel, hn, hc]

theorem runReel_of_accepted {s s1 : State} {q : Qp} {h : Nat} {args bs : List Byte} {x : QPair} {d : Held} {r : Reel}
    (hn : s.nextIs q h 0x30#8 = some (x, d)) (hc : s.runCheck x d.desc = none) (hr : s.reel (runHandle d.desc) = some r)
    (hb : s.readArgs q h x d.desc (16 * imgArgCount r.image) args = (some (.ok bs), s1))
    (ha : argsOk r.image (runSteps d.desc) (argEntries (imgArgCount r.image) bs) = true)
    (hf : s1.runFits (launchedRun d.desc (argEntries (imgArgCount r.image) bs)) = true) :
    runReel q h args s =
      (s1.newOp q h x d).2.setRun s1.que.nextOp (launchedRun d.desc (argEntries (imgArgCount r.image) bs)) := by
  rw [launchedRun] at hf ⊢
  simp only [runReel, hn, hc, hr, hb, ha, hf, Bool.not_true, Bool.false_eq_true, if_false]
  rfl

/-! Copies that fall due change nothing else of a run. -/

/-- Runs that differ in their copies alone. -/
def Run.copiesOnly (r r' : Run) : Prop := ∃ cs k, r' = { r with copies := cs, nextCopy := k }

theorem Run.copiesOnly_trans {r r' r'' : Run} (h : r.copiesOnly r') (k : r'.copiesOnly r'') : r.copiesOnly r'' := by
  obtain ⟨_, _, rfl⟩ := h
  obtain ⟨_, _, rfl⟩ := k
  exact ⟨_, _, rfl⟩

theorem Run.copiesOnly_keeps {r r' : Run} (h : r.copiesOnly r') :
    r'.bound = r.bound ∧ r'.reel = r.reel ∧ r'.steps = r.steps ∧ r'.lcs = r.lcs ∧ r'.overruns = r.overruns := by
  obtain ⟨_, _, rfl⟩ := h
  exact ⟨rfl, rfl, rfl, rfl, rfl⟩

theorem Run.copiesOnly_foldl {α : Type} {f : Run → α → Run} (h : ∀ (r : Run) (x : α), r.copiesOnly (f r x)) (l : List α) (r : Run) :
    r.copiesOnly (l.foldl f r) := by
  induction l generalizing r with
  | nil => exact ⟨_, _, rfl⟩
  | cons x l ih => exact Run.copiesOnly_trans (h r x) (ih (f r x))

theorem addCopies_copiesOnly (r : Run) (streams : List Nat) (lc step : Nat) : r.copiesOnly (r.addCopies streams lc step) :=
  Run.copiesOnly_foldl (fun _ _ => ⟨_, _, rfl⟩) streams r

theorem prologue_copiesOnly (r : Run) (b : List Byte) (step : Nat) : r.copiesOnly (r.prologue b step) := by
  refine Run.copiesOnly_foldl (fun a i => Run.copiesOnly_foldl (fun a' lc => ?_) _ a) _ r
  split
  · exact addCopies_copiesOnly ..
  · exact ⟨_, _, rfl⟩

/-! A region's buffer is zeroed for a new tenant. -/

theorem zeroRbuf_adds (s : State) (g : RegionId) (t : Tenant) : Adds [.fab] s (s.zeroRbuf g t) := by
  unfold State.zeroRbuf
  dsimp only
  split
  · exact Adds.rfl s
  · exact adds_fab s _

theorem zeroRbuf_keeps (s : State) (g : RegionId) (t : Tenant) :
    (s.zeroRbuf g t).fab.cells = s.fab.cells ∧ (s.zeroRbuf g t).fab.runs = s.fab.runs := by
  unfold State.zeroRbuf
  dsimp only
  split <;> exact ⟨rfl, rfl⟩

/-- The buffers of several regions are zeroed for a tenant. -/
def State.zeroRbufs (s : State) (gs : List RegionId) (t : Tenant) : State := gs.foldl (fun st g => st.zeroRbuf g t) s

theorem zeroRbufs_adds (s : State) (gs : List RegionId) (t : Tenant) : Adds [.fab] s (s.zeroRbufs gs t) :=
  Adds.foldl (fun st g => zeroRbuf_adds st g t) gs s

theorem zeroRbufs_cells (s : State) (gs : List RegionId) (t : Tenant) : (s.zeroRbufs gs t).fab.cells = s.fab.cells := by
  induction gs generalizing s with
  | nil => rfl
  | cons g gs ih => exact (ih (s.zeroRbuf g t)).trans (zeroRbuf_keeps s g t).1

theorem cell_of_cells {s t : State} (h : t.fab.cells = s.fab.cells) (c : CellId) : t.cell c = s.cell c :=
  congrArg (fun m => mget Cell.reset m c.val) h

/-! Cells are bound. -/

/-- A cell once it is bound to logical cell lc of run n. -/
def Cell.bound (x : Cell) (n lc : Nat) (t : Tenant) (b : List Byte) : Cell :=
  { zeroCell x t with scratch := loadScratch (zeroCell x t).scratch b, occupant := some (n, lc), tile := none, status := 0#16 }

theorem bound_lastTenant (x : Cell) (n lc : Nat) (t : Tenant) (b : List Byte) : (x.bound n lc t b).lastTenant = some t := by
  show (zeroCell x t).lastTenant = some t
  unfold zeroCell
  split
  · assumption
  · rfl

/-- A cell that served another tenant holds the reel's own data, and zeros elsewhere (R90). -/
theorem bound_of_other_tenant {x : Cell} {t : Tenant} (h : x.lastTenant ≠ some t) (n lc : Nat) (b : List Byte) :
    (x.bound n lc t b).regs = [] ∧ (x.bound n lc t b).scratch = loadScratch [] b := by
  simp [Cell.bound, zeroCell, h, Cell.zeroed]

theorem bindCell_cell_same (s : State) (n lc : Nat) (c : CellId) (t : Tenant) (b : List Byte) :
    (s.bindCell n lc c t b).cell c = (s.cell c).bound n lc t b := setCell_cell_same ..

theorem bindCell_cell_other (s : State) (n lc : Nat) {c d : CellId} (t : Tenant) (b : List Byte) (h : d ≠ c) :
    (s.bindCell n lc c t b).cell d = s.cell d :=
  mget_mset_ne _ _ (fun e => Option.some_ne_none _ (congrArg Cell.occupant e)) (fun e => h (Fin.ext e))

theorem bindCell_adds (s : State) (n lc : Nat) (c : CellId) (t : Tenant) (b : List Byte) : Adds [.fab] s (s.bindCell n lc c t b) :=
  setCell_adds ..

/-- Logical cells are bound, each to its cell. -/
def State.bindCells (s : State) (n : Nat) (l : List (Nat × CellId)) (t : Tenant) (b : List Byte) : State :=
  l.foldl (fun st lc => st.bindCell n lc.1 lc.2 t b) s

section
variable (s : State) (n : Nat) (l : List (Nat × CellId)) (t : Tenant) (b : List Byte)

theorem bindCells_adds : Adds [.fab] s (s.bindCells n l t b) := by
  refine Adds.foldl (fun st lc => ?_) l s
  exact bindCell_adds ..

theorem bindCells_cell_other {d : CellId} (h : d ∉ l.map Prod.snd) : (s.bindCells n l t b).cell d = s.cell d := by
  induction l generalizing s with
  | nil => rfl
  | cons e l ih =>
    obtain ⟨h1, h2⟩ := not_or.1 (mt List.mem_cons.2 h)
    exact (ih _ h2).trans (bindCell_cell_other s n e.1 t b h1)

theorem bindCells_cell {lc : Nat} {c : CellId} (hl : (l.map Prod.snd).Nodup) (h : (lc, c) ∈ l) :
    (s.bindCells n l t b).cell c = (s.cell c).bound n lc t b := by
  induction l generalizing s with
  | nil => cases h
  | cons e l ih =>
    obtain ⟨he, hl⟩ := List.nodup_cons.1 hl
    rcases List.mem_cons.1 h with rfl | h
    · exact (bindCells_cell_other _ n l t b he).trans (bindCell_cell_same ..)
    · have hc : c ≠ e.2 := fun hc => he (hc ▸ List.mem_map.2 ⟨_, h, rfl⟩)
      exact (ih _ hl h).trans (congrArg (fun x => Cell.bound x n lc t b) (bindCell_cell_other s n e.1 t b hc))

end

/-! RUN_ADMIT of a run. -/

/-- A binding names no cell twice (R124). -/
theorem bindingOk_nodup {s : State} {n : Nat} {r : Run} {cells : List CellId} (h : s.bindingOk n r cells = true) : cells.Nodup := by
  simp only [State.bindingOk, Bool.and_eq_true, decide_eq_true_eq] at h
  obtain ⟨⟨⟨-, hlen⟩, -⟩, -⟩ := h
  exact nodup_of_length_eraseDups hlen

/-- A logical cell as its run is bound. -/
def LCell.fresh (c : CellId) : LCell :=
  { cell := c, step := 0, running := false, armed := false, stalled := false, drawn := none, forced := false, saved := none }

/-- A run bound to cells, with the copies of its prologue due. -/
def Run.boundTo (r : Run) (b : List Byte) (cells : List CellId) : Run :=
  ({ r with bound := true, lcs := ((List.range cells.length).zip cells).map (fun x => (x.1, LCell.fresh x.2)) } : Run).prologue b 0

theorem boundTo_keeps (r : Run) (b : List Byte) (cells : List CellId) :
    (r.boundTo b cells).bound = true ∧ (r.boundTo b cells).reel = r.reel ∧ (r.boundTo b cells).steps = r.steps ∧
    (r.boundTo b cells).lcs = ((List.range cells.length).zip cells).map (fun x => (x.1, LCell.fresh x.2)) := by
  obtain ⟨hbound, hreel, hsteps, hlcs, -⟩ := Run.copiesOnly_keeps (prologue_copiesOnly
    { r with bound := true, lcs := ((List.range cells.length).zip cells).map (fun x => (x.1, LCell.fresh x.2)) } b 0)
  exact ⟨hbound, hreel, hsteps, hlcs⟩

/-- The cells of a run of a tenant, with the region buffers where the reel uses them, made ready for it. -/
def State.bindAll (s : State) (n : Nat) (b : List Byte) (t : Tenant) (cells : List CellId) : State :=
  let s1 := (s.giveCsn n).bindCells n ((List.range cells.length).zip cells) t b
  if (imgFlags b).testBit 2 then s1.zeroRbufs (cells.map regionOfCell).eraseDups t else s1

theorem bindAll_adds (s : State) (n : Nat) (b : List Byte) (t : Tenant) (cells : List CellId) :
    Adds [.fab, .que, .ras] s (s.bindAll n b t cells) := by
  have h := ((giveCsn_adds s n).mono (qs := [.fab, .que, .ras]) (by simp)).trans
    ((bindCells_adds _ n ((List.range cells.length).zip cells) t b).mono (by simp))
  unfold State.bindAll
  dsimp only
  split
  · exact h.trans ((zeroRbufs_adds ..).mono (by simp))
  · exact h

theorem bindAll_cell (s : State) (n : Nat) (b : List Byte) (t : Tenant) {cells : List CellId} (hn : cells.Nodup) {i : Nat} {c : CellId}
    (h : cells[i]? = some c) : (s.bindAll n b t cells).cell c = (s.cell c).bound n i t b := by
  have hsnd : ((List.range cells.length).zip cells).map Prod.snd = cells := List.map_snd_zip (by simp)
  have hcell := bindCells_cell (s.giveCsn n) n ((List.range cells.length).zip cells) t b (hsnd.symm ▸ hn) (mem_range_zip h)
  rw [cell_of_fab ((giveCsn_adds s n).same .fab (by decide))] at hcell
  unfold State.bindAll
  dsimp only
  split
  · exact (cell_of_cells (zeroRbufs_cells ..) c).trans hcell
  · exact hcell

theorem admitRun_eq (s : State) (n : Nat) (r : Run) (o : OpRec) (cells : List CellId) :
    s.admitRun n r o cells =
      ((s.bindAll n (s.runImage r) o.tenant cells).setRun n (r.boundTo (s.runImage r) cells)).pumpRun n := rfl

/-- An operation may be bound at this boundary: it is not to end, its tenant has no teardown, and nothing goes before it (R138). -/
def State.mayBind (s : State) (n : Nat) (o : OpRec) : Prop :=
  o.ending = none ∧ s.tenantGone o.tenant = false ∧ s.admitting = true ∧ s.heldBack n o.qp = false ∧ s.waitsAhead n = false ∧
    n < s.fab.admitNext

theorem runAdmit_of_run {s : State} {n : Nat} {cells : List CellId} {r : Run} {o : OpRec} (ho : s.op n = some o) (hm : s.mayBind n o)
    (hr : s.run n = some r) (hb : r.bound = false) (hc : s.bindingOk n r cells = true) : runAdmit n cells s = s.admitRun n r o cells := by
  obtain ⟨he, hg, ha, hh, hw, hn⟩ := hm
  simp [runAdmit, ho, he, hg, ha, hh, hw, hn, hr, hb, hc]

/-! RUN_ADMIT of a REDUCE_SCATTER. -/

/-- The cells and regions of a REDUCE_SCATTER made ready for its tenant. -/
def State.readyRs (s : State) (n : Nat) (t : Tenant) (cells : List CellId) : State :=
  (cells.foldl (fun st c => st.setCell c (zeroCell (st.cell c) t)) (s.giveCsn n)).zeroRbufs (cells.map regionOfCell).eraseDups t

theorem readyRs_adds (s : State) (n : Nat) (t : Tenant) (cells : List CellId) : Adds [.fab, .que, .ras] s (s.readyRs n t cells) := by
  have h1 := (giveCsn_adds s n).mono (qs := [.fab, .que, .ras]) (by simp)
  have h2 := Adds.foldl (f := fun st c => st.setCell c (zeroCell (st.cell c) t)) (fun st c => setCell_adds st c _) cells (s.giveCsn n)
  exact (h1.trans (h2.mono (by simp))).trans ((zeroRbufs_adds ..).mono (by simp))

theorem admitRs_eq (s : State) (n : Nat) (r : RsOp) (o : OpRec) (cells : List CellId) :
    s.admitRs n r o cells = (s.readyRs n o.tenant cells).setRs n
      { r with cells := cells, regions := (cells.map regionOfCell).eraseDups, bound := true } := rfl

theorem runAdmit_of_rs {s : State} {n : Nat} {cells : List CellId} {r : RsOp} {o : OpRec} (ho : s.op n = some o) (hm : s.mayBind n o)
    (hn : s.run n = none) (hr : s.rs n = some r) (hb : r.bound = false) (hc : s.rsBinding n o.desc cells = true) :
    runAdmit n cells s = s.admitRs n r o cells := by
  obtain ⟨he, hg, ha, hh, hw, hlt⟩ := hm
  simp [runAdmit, ho, he, hg, ha, hh, hw, hlt, hn, hr, hb, hc]

/-- Settles O18: a launch ends its descriptor (endDesc_descEnded) or stores launchedRun; an admission is bindAll with the run's record, where each
cell is bound once because a binding names no cell twice, or readyRs with the record of the REDUCE_SCATTER. -/
theorem runsAreLaunchedAndAdmitted : Obligations.RunsAreLaunchedAndAdmitted := by
  unfold Obligations.RunsAreLaunchedAndAdmitted
  refine ⟨?_, ?_, ?_⟩
  · intro q h args x d s hl hn
    refine ⟨fun st hc hh hx => ?_, fun r bs s1 hc hr hb hd ha hf => ?_⟩
    · obtain ⟨he, hF⟩ := endDesc_descEnded (s := s.quiet) hn hh hx st 0#64
      obtain ⟨ht, hF⟩ := live_next_frame (i := .runReel q h args) rfl hl (runReel_of_refused (s := s.quiet) hn hc) hF (by decide)
      exact ⟨_, ht, he, hF⟩
    · have hu := runReel_of_accepted (s := s.quiet) hn hc hr hb ha (hf (launchedRun d.desc _) rfl rfl)
      exact ⟨_, _, live_next (i := .runReel q h args) rfl hl hu, setRun_run_same .., rfl, rfl, rfl, rfl, rfl, rfl, rfl,
        newOp_op s1 q h x d, settle_sameBut hd
          (((newOp_adds s1 q h x d).mono (by simp)).trans ((setRun_adds _ _ _).mono (by simp))).1.2⟩
  · intro n cells r o s hl ho he hg ha hh hw hn hr hb hc
    have hm : s.quiet.mayBind n o := ⟨he, hg, ha, hh, hw, hn⟩
    obtain ⟨hbound, hreel, hsteps, hlcs⟩ := boundTo_keeps r (s.quiet.runImage r) cells
    refine ⟨_, (s.quiet.bindAll n (s.quiet.runImage r) o.tenant cells).setRun n (r.boundTo (s.quiet.runImage r) cells), _,
      live_next (i := .runAdmit n cells) rfl hl ((runAdmit_of_run (s := s.quiet) ho hm hr hb hc).trans (admitRun_eq ..)), rfl,
      (Frame.quiet s).trans ((bindAll_adds ..).trans ((setRun_adds ..).mono (by simp))).1, setRun_run_same .., hbound, hreel, hsteps,
      fun i c hi => ⟨⟨LCell.fresh c, ?_, rfl, rfl, rfl⟩, ?_⟩⟩
    · rw [hlcs]
      exact tget_range_zip hi LCell.fresh
    · rw [setRun_cell, bindAll_cell s.quiet n (s.quiet.runImage r) o.tenant (bindingOk_nodup hc) hi]
      exact ⟨rfl, rfl, rfl, bound_lastTenant .., fun ht => bound_of_other_tenant ht ..⟩
  · intro n cells r o s hl ho he hg ha hh hw hn hr hrs hb hc
    have hm : s.quiet.mayBind n o := ⟨he, hg, ha, hh, hw, hn⟩
    obtain ⟨ht, hF⟩ := live_next_frame (i := .runAdmit n cells) rfl hl
      ((runAdmit_of_rs (s := s.quiet) ho hm hr hrs hb hc).trans (admitRs_eq ..))
      ((readyRs_adds s.quiet n o.tenant cells).trans ((adds_fab _ _).mono (by simp))).1 (by decide)
    exact ⟨_, ht, hF, tget_tput_same ..⟩

end Sys2Proof.Machine
/-! PROOFS. Tiles (R113, R116, R120, R129, R196 to R200): how one starts, waits for a check cell, and ends. -/

namespace Sys2Proof.Machine

/-! Counting leaves the checks alone. -/

theorem countLost_checks (s : State) : s.countLost.ras.checks = s.ras.checks := by
  unfold State.countLost
  dsimp only
  split
  · rfl
  · split <;> rfl

theorem raise_checks (s : State) (r : Report) : (s.raise r).ras.checks = s.ras.checks := by
  unfold State.raise
  dsimp only
  split
  · rfl
  · exact countLost_checks _

theorem tally_checks (s : State) (off : Nat) : (s.tally off).ras.checks = s.ras.checks := by
  unfold State.tally State.bump
  dsimp only
  split
  · rfl
  · split
    · exact raise_checks ..
    · rfl

/-- An event that may have happened is counted if it has. -/
def State.tallyIf (s : State) (b : Bool) (off : Nat) : State := if b then s.tally off else s

theorem tallyIf_adds (s : State) (b : Bool) (off : Nat) : Adds [.ras, .ctr, .serial] s (s.tallyIf b off) := by
  unfold State.tallyIf
  split
  · exact tally_adds s off
  · exact Adds.rfl s

theorem tallyIf_checks (s : State) (b : Bool) (off : Nat) : (s.tallyIf b off).ras.checks = s.ras.checks := by
  unfold State.tallyIf
  split
  · exact tally_checks s off
  · rfl

/-! The cell takes on the logical cell. -/

/-- The cell with logical cell lc of run n in it, its region's buffer ready for the run's tenant. -/
def State.takenCell (s : State) (n lc : Nat) (c : CellId) : State := (s.takeCell n lc c).zeroRbuf (regionOfCell c) (s.runTenant n)

theorem takeCell_adds (s : State) (n lc : Nat) (c : CellId) : Adds [.fab] s (s.takeCell n lc c) := by
  unfold State.takeCell
  dsimp only
  split
  next =>
    split
    · exact (setRun_adds s n _).trans (setCell_adds _ c _)
    · exact Adds.rfl s
  next => exact Adds.rfl s

theorem takenCell_adds (s : State) (n lc : Nat) (c : CellId) : Adds [.fab] s (s.takenCell n lc c) :=
  (takeCell_adds s n lc c).trans (zeroRbuf_adds ..)

theorem tget_tmod_of_some {α : Type} {m : SMap α} {k : Nat} {v : α} (h : tget m k = some v) (f : α → α) :
    tget (tmod m k f) k = some (f v) := by
  rw [tget_tmod_same, h, Option.map_some]

/-- Taking a cell moves scratch aside and keeps the step that the run's logical cell stands at. -/
theorem takenCell_run {s : State} {n lc : Nat} {r : Run} {l : LCell} (hr : s.run n = some r) (hl : tget r.lcs lc = some l) (c : CellId) :
    ∃ r1 l1, (s.takenCell n lc c).run n = some r1 ∧ tget r1.lcs lc = some l1 ∧ l1.step = l.step := by
  have hz : (s.takenCell n lc c).run n = (s.takeCell n lc c).run n :=
    congrArg (fun m => tget m n) (zeroRbuf_keeps (s.takeCell n lc c) (regionOfCell c) (s.runTenant n)).2
  rw [hz]
  unfold State.takeCell
  dsimp only
  split
  next m j r' _ hr' =>
    obtain rfl : r = r' := Option.some.inj (hr.symm.trans hr')
    split
    next h =>
      have hj : tget (tmod r.lcs j (fun y => { y with saved := some (s.cell c).scratch })) lc = some l :=
        (tget_tmod_other r.lcs _ (Ne.symm h.2)).trans hl
      exact ⟨_, { l with saved := none }, setRun_run_same .., tget_tmod_of_some hj (fun y => { y with saved := none }), rfl⟩
    next => exact ⟨r, l, hr, hl, rfl⟩
  next => exact ⟨r, l, hr, hl, rfl⟩

/-! The tile is on the cell. -/

/-- A tile before its first figure, with its check if it has one. -/
def newTile (n lc step : Nat) (check : Option Nat) : Tile :=
  { run := n, lc := lc, step := step, fig := 0, overran := false, check := check, sig := (0#64, 0#64), reqs := [], outstanding := 0,
    sent := false, stopped := false }

/-- A logical cell as its tile starts. -/
def LCell.starts (l : LCell) : LCell := { l with running := true, armed := false, stalled := false, drawn := none, forced := false }

/-- A run whose logical cell lc, as it stood, starts a tile; a stall of it is counted. -/
def Run.starts (r : Run) (lc : Nat) (l : LCell) : Run :=
  { r with lcs := tmod r.lcs lc LCell.starts, stalls := r.stalls + (if l.stalled then 1 else 0) }

/-- The same, with the next step's DOUBLE copies due. -/
def Run.started (r : Run) (b : List Byte) (lc : Nat) (l : LCell) : Run :=
  if l.step + 1 < r.steps then (r.starts lc l).addCopies (dueStreams b lc (fun d => d.sched == 0 && d.double)) lc (l.step + 1)
  else r.starts lc l

theorem started_lcell {r : Run} {lc : Nat} {l1 : LCell} (h : tget r.lcs lc = some l1) (b : List Byte) (l : LCell) :
    tget (r.started b lc l).lcs lc = some l1.starts := by
  have hc : (r.starts lc l).copiesOnly (r.started b lc l) := by
    unfold Run.started
    split
    · exact addCopies_copiesOnly ..
    · exact ⟨_, _, rfl⟩
  obtain ⟨-, -, -, hlcs, -⟩ := Run.copiesOnly_keeps hc
  rw [hlcs]
  exact tget_tmod_of_some h LCell.starts

/-- The check of a tile that was selected is noted, under the next number. -/
def State.noteCheck (s : State) (tile : Tile) (r : Run) (c : CellId) (check : Option CellId) : State :=
  match check with
  | some cc => { s with ras := { s.ras with nextCheck := s.ras.nextCheck + 1,
                                            checks := tput s.ras.checks s.ras.nextCheck (s.newCheck tile r c cc) } }
  | none => s

theorem noteCheck_adds (s : State) (tile : Tile) (r : Run) (c : CellId) (check : Option CellId) :
    Adds [.ras] s (s.noteCheck tile r c check) := by
  cases check with
  | some cc => exact adds_ras s _
  | none => exact Adds.rfl s

/-- A tile stands on the cell that has taken its logical cell; what is due then is still to be issued. -/
def State.placed (s : State) (n lc : Nat) (l : LCell) (check : Option CellId) (r : Run) : State :=
  let tile := newTile n lc l.step (check.map (fun _ => s.ras.nextCheck))
  ((((s.setCell l.cell { s.cell l.cell with tile := some tile, status := 0#16 }).noteCheck tile r l.cell check).setRun n
    (r.started (s.runImage r) lc l)).tallyIf l.stalled (ctrReel 3 (blockOf l.cell).val))

theorem startTile_eq {s : State} {n lc : Nat} {l : LCell} {r : Run} (h : (s.takenCell n lc l.cell).run n = some r)
    (check : Option CellId) : s.startTile n lc l check = ((s.takenCell n lc l.cell).placed n lc l check r).pumpRun n := by
  rw [State.takenCell] at h ⊢
  simp only [State.startTile, h]
  cases check <;> rfl

section
variable (s : State) (n lc : Nat) (l : LCell) (check : Option CellId) (r : Run)

theorem placed_adds : Adds [.fab, .ras, .ctr, .serial] s (s.placed n lc l check r) :=
  (((setCell_adds s l.cell _).mono (by simp)).trans ((noteCheck_adds ..).mono (by simp))).trans
    (((setRun_adds ..).mono (by simp)).trans ((tallyIf_adds ..).mono (by simp)))

theorem placed_fab : (s.placed n lc l check r).fab =
    ((s.setCell l.cell { s.cell l.cell with tile := some (newTile n lc l.step (check.map (fun _ => s.ras.nextCheck))),
                                            status := 0#16 }).setRun n (r.started (s.runImage r) lc l)).fab := by
  refine ((tallyIf_adds ..).same .fab (by decide)).trans ?_
  cases check <;> rfl

theorem placed_run : (s.placed n lc l check r).run n = some (r.started (s.runImage r) lc l) :=
  (run_of_fab (placed_fab ..) n).trans (setRun_run_same ..)

theorem placed_cell : (s.placed n lc l check r).cell l.cell =
    { s.cell l.cell with tile := some (newTile n lc l.step (check.map (fun _ => s.ras.nextCheck))), status := 0#16 } :=
  (cell_of_fab (placed_fab ..) l.cell).trans (setCell_cell_same ..)

theorem placed_check (cc : CellId) : ∃ k, tget (s.placed n lc l (some cc) r).ras.checks s.ras.nextCheck = some k ∧
    k.origin = l.cell ∧ k.checkCell = cc ∧ k.op = n ∧ k.copied = false := by
  refine ⟨_, (congrArg (fun m => tget m s.ras.nextCheck) (tallyIf_checks ..)).trans (tget_tput_same ..), rfl, rfl, rfl, rfl⟩

end

/-! TILE_START. -/

/-- A tile of a logical cell may start (R90, R120, R129, R242): what TILE_START asks before it looks for a check cell. -/
structure TileDue (s : State) (n lc : Nat) (r : Run) (o : OpRec) (l : LCell) : Prop where
  run : s.run n = some r
  op : s.op n = some o
  lcell : tget r.lcs lc = some l
  bound : r.bound = true
  goesOn : o.ending = none
  tenant : s.tenantGone o.tenant = false
  idle : l.running = false
  armed : l.armed = true
  step : l.step < r.steps
  online : s.cellOnline l.cell = true
  halted : blockOf l.cell ∉ s.dbg.halted
  issues : s.cellIssues l.cell = true
  free : (s.cell l.cell).tile = none
  ready : s.copiesReady r lc l.step = true
  read : s.unreadRanges r lc l.step = []

section
variable {s : State} {n lc : Nat} {r : Run} {o : OpRec} {l : LCell} {drawn : Bool}

theorem tileStart_unselected (h : TileDue s n lc r o l) (hs : s.selected l drawn = false) (cc : Option CellId) :
    tileStart n lc drawn cc s = s.startTile n lc l none := by
  simp [tileStart, h.run, h.op, h.lcell, h.bound, h.goesOn, h.tenant, h.idle, h.armed, h.step, h.online, h.halted, h.issues, h.free,
    h.ready, h.read, hs]

theorem tileStart_checked (h : TileDue s n lc r o l) (hs : s.selected l drawn = true) {k : CellId} (hk : s.checkCellFree k = true)
    (hb : blockOf k ≠ blockOf l.cell) : tileStart n lc drawn (some k) s = s.startTile n lc l (some k) := by
  simp [tileStart, h.run, h.op, h.lcell, h.bound, h.goesOn, h.tenant, h.idle, h.armed, h.step, h.online, h.halted, h.issues, h.free,
    h.ready, h.read, hs, hk, hb]

theorem tileStart_waits (h : TileDue s n lc r o l) (hs : s.selected l drawn = true) {cc : Option CellId}
    (hc : ∀ k, cc = some k → s.checkCellFree k = false ∨ blockOf k = blockOf l.cell) :
    tileStart n lc drawn cc s = s.waitCheck n lc r l := by
  cases cc with
  | none =>
    simp [tileStart, h.run, h.op, h.lcell, h.bound, h.goesOn, h.tenant, h.idle, h.armed, h.step, h.online, h.halted, h.issues, h.free,
      h.ready, h.read, hs]
  | some k =>
    have hk : ¬ (s.checkCellFree k = true ∧ blockOf k ≠ blockOf l.cell) := fun ⟨h1, h2⟩ => by
      rcases hc k rfl with h | h
      · rw [h1] at h
        cases h
      · exact h2 h
    simp [tileStart, h.run, h.op, h.lcell, h.bound, h.goesOn, h.tenant, h.idle, h.armed, h.step, h.online, h.halted, h.issues, h.free,
      h.ready, h.read, hs, hk]

end

theorem waitCheck_of_undrawn (s : State) (n lc : Nat) (r : Run) {l : LCell} (h : l.drawn ≠ some true) :
    s.waitCheck n lc r l = (s.setRun n { r with lcs := tput r.lcs lc { l with drawn := some true, stalled := false },
                                                stalls := r.stalls + 1 }).tally (ctrReel 3 (blockOf l.cell).val) := by
  simp [State.waitCheck, h]

/-! TILE_FINISH. -/

/-- A logical cell as its tile t ends: it stands at the next step. -/
def LCell.ends (t : Tile) (l : LCell) : LCell := { l with running := false, step := t.step + 1, armed := t.overran, stalled := false }

/-- A run whose tile t ends; an overrun of it is counted. -/
def Run.ends (r : Run) (t : Tile) : Run :=
  { r with lcs := tmod r.lcs t.lc (LCell.ends t), overruns := r.overruns + (if t.overran then 1 else 0) }

/-- The same, with the copies due that its end makes due: the step's outbound ones, and the next step's inbound ones unless the run is to end. -/
def Run.ended (r : Run) (b : List Byte) (t : Tile) (ending : Bool) : Run :=
  let r2 := (r.ends t).addCopies (dueStreams b t.lc (fun d => d.sched == 2)) t.lc t.step
  if t.step + 1 < r.steps ∧ !ending then r2.addCopies (dueStreams b t.lc (fun d => d.sched == 0 && !d.double)) t.lc (t.step + 1) else r2

theorem ended_keeps {r : Run} {t : Tile} {l : LCell} (h : tget r.lcs t.lc = some l) (b : List Byte) (ending : Bool) :
    (r.ended b t ending).overruns = r.overruns + (if t.overran then 1 else 0) ∧
    tget (r.ended b t ending).lcs t.lc = some (l.ends t) := by
  have hc : (r.ends t).copiesOnly (r.ended b t ending) := by
    unfold Run.ended
    dsimp only
    split
    · exact Run.copiesOnly_trans (addCopies_copiesOnly ..) (addCopies_copiesOnly ..)
    · exact addCopies_copiesOnly ..
  obtain ⟨-, -, -, hlcs, hover⟩ := Run.copiesOnly_keeps hc
  rw [hlcs, hover]
  exact ⟨rfl, tget_tmod_of_some h (LCell.ends t)⟩

/-- What the end of tile t on cell c leaves with the checks: the tile is recent, and its signature stands with its check. -/
def Ras.tileEnded (x : Ras) (c : CellId) (t : Tile) (status : BitVec 16) : Ras :=
  { x with
    marks := x.marks ++ [⟨t.run, c, 0⟩],
    checks := match t.check with
      | some k => tmod x.checks k (fun y => { y with sigOrigin := some (tileSig t status) })
      | none => x.checks }

/-- The cell is free of its tile, its registers undefined. -/
def State.tileOff (s : State) (c : CellId) : State := (s.setCell c { s.cell c with tile := none }).freeRegs c

/-- The cell is free of tile t, whose status is gathered into its operation's. -/
def State.gathered (s : State) (c : CellId) (t : Tile) : State :=
  ({ s.tileOff c with ras := (s.tileOff c).ras.tileEnded c t (s.cell c).status } : State).modOp t.run
    (fun o => { o with tileStatus := o.tileStatus ||| (s.cell c).status })

/-- Tile t of run r has ended on cell c; what is due then is still to be issued. -/
def State.finished (s : State) (c : CellId) (t : Tile) (r : Run) : State :=
  let s1 := s.gathered c t
  ((s1.setRun t.run (r.ended (s.runImage r) t ((s1.op t.run).bind (fun o => o.ending)).isSome)).tally
    (ctrTen 1 (s1.runTenant t.run).toNat)).tallyIf t.overran (ctrReel 2 (blockOf c).val)

theorem tileFinish_eq {s : State} {c : CellId} {t : Tile} {r : Run} (ht : (s.cell c).tile = some t) (hr : s.run t.run = some r)
    (hs : t.stopped = false) (hf : imgFigCount (s.runImage r) ≤ t.fig) (hq : t.reqs = []) (hn : t.outstanding = 0)
    (hc : s.cellOnline c = true) :
    tileFinish c s = (((s.finished c t r).pumpRun t.run).settleRun t.run).pumpRun t.run := by
  simp only [tileFinish, ht, hr, hs, hq, hn, hc, Nat.not_lt.2 hf, Bool.false_eq_true, List.isEmpty_nil, Bool.not_true, ne_eq,
    not_true_eq_false, or_self, if_false]
  rfl

section
variable (s : State) (c : CellId) (t : Tile) (r : Run)

theorem tileOff_adds : Adds [.fab, .serial] s (s.tileOff c) :=
  adds_of_same rfl rfl (fun p => by cases p <;> simp [Part.same, State.tileOff, State.freeRegs, State.draw])

theorem freeRegs_cell : (s.freeRegs c).cell c =
    { s.cell c with regs := [], regFree := some s.serial, scales := [], scaleFree := some s.serial } :=
  setCell_cell_same ..

theorem tileOff_cell : (s.tileOff c).cell c =
    { s.cell c with tile := none, regs := [], regFree := some s.serial, scales := [], scaleFree := some s.serial } := by
  rw [State.tileOff, freeRegs_cell, setCell_cell_same]
  rfl

theorem gathered_adds : Adds [.fab, .ras, .que, .serial] s (s.gathered c t) :=
  ((tileOff_adds s c).mono (by simp)).trans (((adds_ras _ _).mono (by simp)).trans ((adds_que _ _).mono (by simp)))

theorem gathered_op {o : OpRec} (ho : s.op t.run = some o) :
    (s.gathered c t).op t.run = some { o with tileStatus := o.tileStatus ||| (s.cell c).status } :=
  (modOp_op_same ..).trans (congrArg (Option.map _) ho)

/-- The counters of a tile's end. -/
theorem finished_counted : Adds [.ras, .ctr, .serial]
    ((s.gathered c t).setRun t.run (r.ended (s.runImage r) t (((s.gathered c t).op t.run).bind (fun o => o.ending)).isSome))
    (s.finished c t r) :=
  (tally_adds ..).trans (tallyIf_adds ..)

theorem finished_adds : Adds [.fab, .ras, .que, .ctr, .serial] s (s.finished c t r) :=
  ((gathered_adds s c t).mono (by simp)).trans
    (((setRun_adds ..).mono (by simp)).trans ((finished_counted s c t r).mono (by simp)))

theorem finished_cell : (s.finished c t r).cell c = (s.tileOff c).cell c :=
  cell_of_fab ((finished_counted s c t r).same .fab (by decide)) c

theorem finished_run : ∃ ending, (s.finished c t r).run t.run = some (r.ended (s.runImage r) t ending) :=
  ⟨_, (run_of_fab ((finished_counted s c t r).same .fab (by decide)) t.run).trans (setRun_run_same ..)⟩

theorem finished_op : (s.finished c t r).op t.run = (s.gathered c t).op t.run :=
  op_of_que ((finished_counted s c t r).same .que (by decide)) t.run

end

/-- Settles O19: a tile that may start is State.placed on the cell that has taken its logical cell, or its stall is noted; one that ends is
State.finished. Each is then followed by the issue of the copies that are due. -/
theorem tilesStartAndFinish : Obligations.TilesStartAndFinish := by
  unfold Obligations.TilesStartAndFinish
  refine ⟨?_, ?_⟩
  · intro n lc drawn cc r o l s hl hr ho hlc hb he hg hrun ha hst hc hh hi ht hcp hu
    have hdue : TileDue s.quiet n lc r o l := ⟨hr, ho, hlc, hb, he, hg, hrun, ha, hst, hc, hh, hi, ht, hcp, hu⟩
    obtain ⟨r1, l1, hr1, hl1, hstep⟩ := takenCell_run (s := s.quiet) hr hlc l.cell
    have hframe : ∀ check, Frame [.fab, .ras, .ctr, .serial] s ((s.quiet.takenCell n lc l.cell).placed n lc l check r1) := fun check =>
      (Frame.quiet s).trans (((takenCell_adds ..).mono (by simp)).trans (placed_adds ..)).1
    have hras : (s.quiet.takenCell n lc l.cell).ras = s.ras := (takenCell_adds ..).same .ras (by decide)
    refine ⟨fun hs => ?_, fun k hs hk hf hbk => ?_, fun hs hw hd => ?_⟩
    · have hcell := placed_cell (s.quiet.takenCell n lc l.cell) n lc l none r1
      exact ⟨_, _, _, l1.starts, live_next (i := .tileStart n lc drawn cc) rfl hl
        ((tileStart_unselected hdue hs cc).trans (startTile_eq hr1 none)), rfl, hframe none, congrArg Cell.status hcell,
        congrArg Cell.tile hcell, placed_run .., started_lcell hl1 _ l, rfl, rfl, hstep⟩
    · subst hk
      obtain ⟨check, hck, hchk⟩ := placed_check (s.quiet.takenCell n lc l.cell) n lc l r1 k
      rw [hras] at hck
      refine ⟨_, _, check, live_next (i := .tileStart n lc drawn (some k)) rfl hl
        ((tileStart_checked hdue hs hf hbk).trans (startTile_eq hr1 (some k))), rfl, hframe (some k), ?_, hck, hchk⟩
      rw [placed_cell, ← hras]
      rfl
    · obtain ⟨hx, hF⟩ := live_next_frame (i := .tileStart n lc drawn cc) rfl hl
        ((tileStart_waits hdue hs hw).trans (waitCheck_of_undrawn s.quiet n lc r hd))
        (ps := [.fab, .ras, .ctr, .serial]) (((setRun_adds ..).mono (by simp)).trans ((tally_adds ..).mono (by simp))).1 (by decide)
      exact ⟨_, hx, hF, (run_of_fab ((tally_adds ..).same .fab (by decide)) n).trans (setRun_run_same ..)⟩
  · intro c tl r o l s hl ht hr ho hlc hs hf hq hn hc
    obtain ⟨ending, hrun⟩ := finished_run s.quiet c tl r
    obtain ⟨hover, hlcell⟩ := ended_keeps hlc (s.quiet.runImage r) ending
    have hcell := (finished_cell s.quiet c tl r).trans (tileOff_cell s.quiet c)
    exact ⟨_, _, _, _, live_next (i := .tileFinish c) rfl hl (tileFinish_eq (s := s.quiet) ht hr hs hf hq hn hc), rfl,
      (Frame.quiet s).trans (finished_adds ..).1, congrArg Cell.tile hcell, congrArg Cell.regs hcell, congrArg Cell.regFree hcell,
      (congrArg Cell.scratch hcell :), (finished_op ..).trans (gathered_op s.quiet c tl ho), hrun, hover, hlcell, rfl, rfl, rfl⟩

end Sys2Proof.Machine
/-! PROOFS. The reel store (R130 to R134): loading and unloading, over the admin queue and over the management port. -/

namespace Sys2Proof.Machine

/-! Admin queues (R428). -/

@[simp] theorem setAdmin_admin_same (s : State) (p : PlPort) (a : Admin) : (s.setAdmin p a).admin p = a := mget_mset_same ..

theorem setAdmin_adds (s : State) (p : PlPort) (a : Admin) : Adds [.que] s (s.setAdmin p a) := adds_que s _

/-- The command that an admin queue runs next stands first in it. -/
theorem adminHead_spec {s : State} {p : PlPort} {opc : BitVec 8} {d : Desc} (h : s.adminHead p opc = some d) :
    ∃ rest, (s.admin p).held = d :: rest := by
  unfold State.adminHead at h
  split at h
  next e rest he =>
    split at h
    next =>
      cases h
      exact ⟨rest, he⟩
    next => cases h
  next => cases h

/-- The record of an admin command. -/
def adminRec (d : Desc) (st : Status) (value : W64) : Rec :=
  { value := value, csn := 0#48, tileStatus := 0#16, cmdId := descCmd d, status := st, outcome := none, cause := none, verdict := false,
    held := none, intr := descIntr d }

/-- An admin queue once the command at its head has ended. -/
def Admin.ended (a : Admin) (d : Desc) (rest : List Desc) (st : Status) (value : W64) : Admin :=
  { a with held := rest, busy := false, recs := a.recs ++ [adminRec d st value] }

theorem adminEnd_of_held {s : State} {p : PlPort} {d : Desc} {rest : List Desc} (h : (s.admin p).held = d :: rest) (st : Status)
    (value : W64) : s.adminEnd p st value = s.setAdmin p ((s.admin p).ended d rest st value) := by
  simp only [State.adminEnd, h]
  rfl

theorem adminEnd_adds (s : State) (p : PlPort) (st : Status) (value : W64) : Adds [.que] s (s.adminEnd p st value) := by
  unfold State.adminEnd
  dsimp only
  split
  · exact Adds.rfl s
  · exact setAdmin_adds ..

theorem adminSkip_adds (s : State) (p : PlPort) (f : Nat) : Adds [.que] s (s.adminSkip p f) := by
  induction f generalizing s with
  | zero => exact Adds.rfl s
  | succ f ih =>
    unfold State.adminSkip
    split
    next =>
      split
      · exact (adminEnd_adds ..).trans (ih _)
      · exact Adds.rfl s
    next => exact Adds.rfl s

theorem adminDone_adds (s : State) (p : PlPort) (st : Status) (value : W64) : Adds [.que] s (s.adminDone p st value) :=
  (adminEnd_adds ..).trans (adminSkip_adds ..)

/-- Unknown commands behind an answered one end in their turn: its record stays. -/
theorem adminSkip_answered {s : State} {p : PlPort} {d : Desc} {st : Status} {v : W64} (h : adminAnswered s p d st v) (f : Nat) :
    adminAnswered (s.adminSkip p f) p d st v := by
  induction f generalizing s with
  | zero => exact h
  | succ f ih =>
    unfold State.adminSkip
    split
    next e rest he =>
      split
      · refine ih ?_
        obtain ⟨-, r, hr, hrest⟩ := h
        rw [adminEnd_of_held he]
        refine ⟨?_, r, ?_, hrest⟩
        · rw [setAdmin_admin_same]
          rfl
        · rw [setAdmin_admin_same]
          exact List.mem_append_left _ hr
      · exact h
    next => exact h

theorem adminDone_answered {s : State} {p : PlPort} {d : Desc} {rest : List Desc} (h : (s.admin p).held = d :: rest) (st : Status)
    (v : W64) : adminAnswered (s.adminDone p st v) p d st v := by
  refine adminSkip_answered ?_ 4
  rw [adminEnd_of_held h]
  refine ⟨?_, adminRec d st v, ?_, rfl, rfl, rfl, rfl⟩
  · rw [setAdmin_admin_same]
    rfl
  · rw [setAdmin_admin_same]
    exact List.mem_append_right _ (List.mem_singleton.2 rfl)

/-! Management answers. -/

theorem reply_answered (s : State) (code : BitVec 8) (result : Nat) (bytes : List Byte) :
    answered (s.reply code result bytes) code result bytes := by
  unfold answered State.reply
  dsimp only
  split <;> exact List.mem_append_right _ (List.mem_singleton.2 rfl)

/-! The store. -/

/-- A reel stands in the store under a handle. -/
def State.putReel (s : State) (h : Nat) (r : Reel) : State := { s with fab := { s.fab with reels := tput s.fab.reels h r } }

/-- A reel leaves the store. -/
def State.dropReel (s : State) (h : Nat) : State := { s with fab := { s.fab with reels := tdel s.fab.reels h } }

theorem reel_of_fab {s t : State} (h : t.fab = s.fab) (j : Nat) : t.reel j = s.reel j := congrArg (fun f : Fab => tget f.reels j) h

@[simp] theorem putReel_reel_same (s : State) (h : Nat) (r : Reel) : (s.putReel h r).reel h = some r := tget_tput_same ..

theorem putReel_reel_other (s : State) {h j : Nat} (r : Reel) (hj : j ≠ h) : (s.putReel h r).reel j = s.reel j := tget_tput_other _ r hj

@[simp] theorem dropReel_reel_same (s : State) (h : Nat) : (s.dropReel h).reel h = none := tget_tdel_same ..

theorem dropReel_reel_other {s : State} (hk : keysRise s.fab.reels = true) {h j : Nat} (hj : j ≠ h) :
    (s.dropReel h).reel j = s.reel j := tget_tdel_other hk hj

theorem putReel_adds (s : State) (h : Nat) (r : Reel) : Adds [.fab] s (s.putReel h r) := adds_fab s _

theorem putReel_admin (s : State) (h : Nat) (r : Reel) (p : PlPort) : (s.putReel h r).admin p = s.admin p := rfl

theorem dropReel_admin (s : State) (h : Nat) (p : PlPort) : (s.dropReel h).admin p = s.admin p := rfl

theorem dropReel_adds (s : State) (h : Nat) : Adds [.fab] s (s.dropReel h) := adds_fab s _

/-! What is put into the store or taken out of it, and then answered. -/

/-- Only the reel with handle h is another than before, and what stands there is v. -/
def State.reelsBut (s : State) (h : Nat) (v : Option Reel) (t : State) : Prop := t.reel h = v ∧ ∀ j, j ≠ h → t.reel j = s.reel j

theorem reelsBut_putReel (s : State) (h : Nat) (r : Reel) : s.reelsBut h (some r) (s.putReel h r) :=
  ⟨putReel_reel_same .., fun _ hj => putReel_reel_other s r hj⟩

/-- A reel that was flagged leaves: no other one changes. -/
theorem reelsBut_dropReel {s : State} (hk : keysRise s.fab.reels = true) (h : Nat) (r : Reel) :
    s.reelsBut h none ((s.putReel h r).dropReel h) :=
  ⟨dropReel_reel_same .., fun _ hj => (dropReel_reel_other (s := s.putReel h r) (keysRise_tput hk h r) hj).trans (putReel_reel_other s r hj)⟩

theorem reelsBut_of_fab {s t u : State} {h : Nat} {v : Option Reel} (ht : s.reelsBut h v t) (hu : u.fab = t.fab) : s.reelsBut h v u :=
  ⟨(reel_of_fab hu h).trans ht.1, fun j hj => (reel_of_fab hu j).trans (ht.2 j hj)⟩

theorem reelsBut_adminDone {s t : State} {h : Nat} {v : Option Reel} (ht : s.reelsBut h v t) (p : PlPort) (st : Status) (x : W64) :
    s.reelsBut h v (t.adminDone p st x) := reelsBut_of_fab ht ((adminDone_adds t p st x).same .fab (by decide))

theorem reelsBut_reply {s t : State} {h : Nat} {v : Option Reel} (ht : s.reelsBut h v t) (code : BitVec 8) (result : Nat)
    (bytes : List Byte) : s.reelsBut h v (t.reply code result bytes) := reelsBut_of_fab ht ((reply_frame t code result bytes).2 .fab (by decide))

theorem adminDone_frame {s t : State} (h : Frame [.fab, .que] s t) (p : PlPort) (st : Status) (v : W64) :
    Frame [.fab, .que] s (t.adminDone p st v) := h.trans ((adminDone_adds t p st v).1.mono (by simp))

theorem reply_fab_frame {s t : State} (h : Frame [.fab] s t) (code : BitVec 8) (result : Nat) (bytes : List Byte) :
    Frame [.fab, .sec] s (t.reply code result bytes) := (h.mono (by simp)).trans ((reply_frame t code result bytes).mono (by simp))

theorem leave_frame (s : State) (h : Nat) (r : Reel) : Frame [.fab] s ((s.putReel h r).dropReel h) :=
  ((putReel_adds s h r).trans (dropReel_adds _ h)).1

/-! Loading. -/

/-- A reel as it is loaded. -/
def loadedReel (t : Tenant) (b : List Byte) : Reel := ⟨t, b, false, []⟩

/-- A REEL_LOAD at the head of a port's admin queue asks for a load that may be tried (R131, R132). -/
structure LoadAsked (s : State) (p : PlPort) (d : Desc) : Prop where
  head : s.adminHead p 0x62#8 = some d
  clean : descClean d [(16, 2), (24, 8), (32, 4)] = true
  tenant : descField d 16 2 < 1024
  aligned : descField d 24 8 % 64 = 0
  granted : s.tenantGranted p (d.extractLsb' 128 10) = true
  stays : s.tenantGone (d.extractLsb' 128 10) = false

theorem reelLoad_refused {s : State} {p : PlPort} {d : Desc} (h : LoadAsked s p d) {image : List Byte} {st : Status}
    (hc : s.loadCheck (d.extractLsb' 128 10) (List.takeD (descField d 32 4) image 0#8) = some st) :
    reelLoad p image s = s.adminDone p st 0#64 := by
  simp [reelLoad, h.head, h.clean, h.tenant, h.aligned, h.granted, h.stays, hc]

theorem reelLoad_stored {s : State} {p : PlPort} {d : Desc} (h : LoadAsked s p d) {image : List Byte}
    (hc : s.loadCheck (d.extractLsb' 128 10) (List.takeD (descField d 32 4) image 0#8) = none) {k : Nat}
    (hk : k = freeKey s.fab.reels 65536 0) :
    reelLoad p image s =
      (s.putReel k (loadedReel (d.extractLsb' 128 10) (List.takeD (descField d 32 4) image 0#8))).adminDone p stOk (BitVec.ofNat 64 k) := by
  subst hk
  simp only [reelLoad, h.head, h.clean, Nat.not_le.2 h.tenant, h.aligned, h.granted, h.stays, hc, Bool.not_true, Bool.false_eq_true,
    or_self, ne_eq, not_true_eq_false, if_false]
  rfl

theorem mgmtReelLoad_misaligned {s : State} {a : W64} (h : a.toNat % 64 ≠ 0) (t : Tenant) (n : W32) :
    mgmtReelLoad t a n s = s.reply 0x60#8 stAlign.toNat (natBytes 2 0) := by
  simp [mgmtReelLoad, h]

/-- An image in the pool may be read for a tenant now (R130). -/
structure ImageReadable (s : State) (t : Tenant) (a : W64) (n : W32) : Prop where
  aligned : a.toNat % 64 = 0
  stays : s.tenantGone t = false
  size : n.toNat ≤ 262144
  idle : s.poolBusy { accRead s.rtr.nodeId [] with loader := some t } a n.toNat = false

theorem mgmtReelLoad_stored {s s1 : State} {t : Tenant} {a : W64} {n : W32} (h : ImageReadable s t a n) {b : List Byte} {bad : List Bool}
    (hr : s.readPool { accRead s.rtr.nodeId [] with loader := some t } t a n.toNat noIo = (.ok (b, bad), s1)) (hb : bad.any id = false)
    (hc : s1.loadCheck t b = none) {k : Nat} (hk : k = freeKey s1.fab.reels 65536 0) :
    mgmtReelLoad t a n s = (s1.putReel k (loadedReel t b)).reply 0x60#8 0 (natBytes 2 k) := by
  subst hk
  simp only [mgmtReelLoad, h.aligned, h.stays, Nat.not_lt.2 h.size, h.idle, hr, hb, hc, ne_eq, not_true_eq_false, Bool.false_eq_true,
    if_false]
  rfl

theorem mgmtReelLoad_unread {s s1 : State} {t : Tenant} {a : W64} {n : W32} (h : ImageReadable s t a n) {st : Status}
    (hr : s.readPool { accRead s.rtr.nodeId [] with loader := some t } t a n.toNat noIo = (.error st, s1)) :
    mgmtReelLoad t a n s = s1.reply 0x60#8 st.toNat (natBytes 2 0) := by
  simp only [mgmtReelLoad, h.aligned, h.stays, Nat.not_lt.2 h.size, h.idle, hr, ne_eq, not_true_eq_false, Bool.false_eq_true, if_false]

/-! Unloading. -/

/-- A reel that is to be unloaded, with one more to be told. -/
def Reel.leaving (r : Reel) (w : UnloadWait) : Reel := { r with unloading := true, waiters := r.waiters ++ [w] }

section
variable {s : State} {h : Nat} {r : Reel} (hr : s.reel h = some r)
include hr

theorem unloadReel_of_used (hu : s.fab.runs.any (fun e => e.2.reel == h) = true) (w : UnloadWait) :
    s.unloadReel h (some w) = s.putReel h (r.leaving w) := by
  have hx : (s.putReel h (r.leaving w)).settleReel h = s.putReel h (r.leaving w) := by
    have hu' : (s.putReel h (r.leaving w)).fab.runs.any (fun e => e.2.reel == h) = true := hu
    simp only [State.settleReel, putReel_reel_same, hu', Bool.not_true, Bool.and_false, Bool.false_eq_true, if_false]
  rw [State.unloadReel, hr]
  exact hx

/-- A reel that no run uses leaves at once, and the one who asked is told. -/
theorem unloadReel_of_unused (hu : s.fab.runs.any (fun e => e.2.reel == h) = false) (hw : r.waiters = []) :
    (∀ p c i, s.unloadReel h (some (.admin p c i)) = ((s.putReel h (r.leaving (.admin p c i))).dropReel h).adminDone p stOk 0#64) ∧
    s.unloadReel h (some .mgmt) = ((s.putReel h (r.leaving .mgmt)).dropReel h).reply 0x61#8 0 [] := by
  have hu' : ∀ w, (s.putReel h (r.leaving w)).fab.runs.any (fun e => e.2.reel == h) = false := fun _ => hu
  have hl : ∀ w, (r.leaving w).waiters = [w] := fun w => by rw [Reel.leaving, hw]; rfl
  have hstart : ∀ w, s.unloadReel h (some w) = (s.putReel h (r.leaving w)).settleReel h := fun w => by
    rw [State.unloadReel, hr]
    rfl
  refine ⟨fun p c i => ?_, ?_⟩
  all_goals
    rw [hstart]
    simp only [State.settleReel, putReel_reel_same, hu', hl]
    rfl

end

/-- A REEL_UNLOAD at the head of a port's admin queue names a reel of a tenant granted to the port. -/
theorem reelUnload_of_known {s : State} {p : PlPort} {d : Desc} {r : Reel} (hh : s.adminHead p 0x63#8 = some d)
    (hc : descClean d [(16, 2)] = true) (hr : s.reel (descField d 16 2) = some r) (hg : s.tenantGranted p r.tenant = true) :
    reelUnload p s = (s.adminBusy p).unloadReel (descField d 16 2) (some (.admin p (descCmd d) (descIntr d))) := by
  simp [reelUnload, hh, hc, hr, hg]

theorem reelUnload_of_unknown {s : State} {p : PlPort} {d : Desc} (hh : s.adminHead p 0x63#8 = some d)
    (hc : descClean d [(16, 2)] = true) (hr : s.reel (descField d 16 2) = none) : reelUnload p s = s.adminDone p stReelUnknown 0#64 := by
  simp [reelUnload, hh, hc, hr]

theorem mgmtReelUnload_of_known {s : State} {h : BitVec 16} {r : Reel} (hr : s.reel h.toNat = some r) :
    mgmtReelUnload h s = s.unloadReel h.toNat (some .mgmt) := by
  simp [mgmtReelUnload, hr]

theorem mgmtReelUnload_of_unknown {s : State} {h : BitVec 16} (hr : s.reel h.toNat = none) :
    mgmtReelUnload h s = s.reply 0x61#8 stReelUnknown.toNat [] := by
  simp [mgmtReelUnload, hr]

theorem adminBusy_adds (s : State) (p : PlPort) : Adds [.que] s (s.adminBusy p) := setAdmin_adds ..

theorem adminBusy_admin (s : State) (p : PlPort) : (s.adminBusy p).admin p = { s.admin p with busy := true } := setAdmin_admin_same ..

/-- Settles O17: a load is putReel under the store's free handle or nothing, an unload dropReel or the flag, and then the answer. That the handle is
the lowest free one is the model's choice (log entries 10 and 40), and so is how a failed read of the image shows (log entry 68). -/
theorem reelsLoadAndUnload : Obligations.ReelsLoadAndUnload := by
  unfold Obligations.ReelsLoadAndUnload
  refine ⟨?_, ?_, ?_, ?_, ?_⟩
  · intro p image d s hl hh hc ht ha hg hs
    have hask : LoadAsked s.quiet p d := ⟨hh, hc, ht, ha, hg, hs⟩
    obtain ⟨rest, hheld⟩ := adminHead_spec hask.head
    refine ⟨fun st hst => ?_, fun hn => ?_⟩
    · obtain ⟨hx, hF⟩ := live_next_frame (i := .reelLoad p image) rfl hl (reelLoad_refused hask hst) (adminDone_adds ..).1 (by decide)
      exact ⟨_, hx, adminDone_answered hheld .., hF⟩
    · obtain ⟨k, hk⟩ : ∃ k, k = freeKey s.fab.reels 65536 0 := ⟨_, rfl⟩
      obtain ⟨hx, hF⟩ := live_next_frame (i := .reelLoad p image) rfl hl (reelLoad_stored hask hn hk)
        (adminDone_frame ((putReel_adds ..).1.mono (by simp)) ..) (by decide)
      obtain ⟨hsame, hother⟩ := reelsBut_adminDone (reelsBut_putReel s.quiet k _) p stOk (BitVec.ofNat 64 k)
      exact ⟨_, k, hx, hk, hsame, hother, adminDone_answered ((congrArg Admin.held (putReel_admin ..)).trans hheld) .., hF⟩
  · intro tn a n s hl
    refine ⟨fun ha => ?_, fun b bad s1 ha hg hn hb hr hbad hc hd => ?_, fun st s1 ha hg hn hb hr hd => ?_⟩
    · obtain ⟨hx, hF⟩ := live_next_frame (i := .mgmtReelLoad tn a n) rfl hl (mgmtReelLoad_misaligned (s := s.quiet) ha tn n)
        (reply_frame ..) (by decide)
      exact ⟨_, hx, reply_answered .., hF⟩
    · obtain ⟨k, hk⟩ : ∃ k, k = freeKey s1.fab.reels 65536 0 := ⟨_, rfl⟩
      have hF := reply_fab_frame (putReel_adds s1 k (loadedReel tn b)).1 0x60#8 0 (natBytes 2 k)
      obtain ⟨hsame, hother⟩ := reelsBut_reply (reelsBut_putReel s1 k (loadedReel tn b)) 0x60#8 0 (natBytes 2 k)
      exact ⟨_, k, live_next (i := .mgmtReelLoad tn a n) rfl hl (mgmtReelLoad_stored (s := s.quiet) ⟨ha, hg, hn, hb⟩ hr hbad hc hk), hk,
        hsame, hother, reply_answered .., settle_sameBut ((congrArg Dbg.fatal (frame_dbg hF (by decide))).trans hd) hF.2⟩
    · have hF := reply_frame s1 0x60#8 st.toNat (natBytes 2 0)
      exact ⟨_, live_next (i := .mgmtReelLoad tn a n) rfl hl (mgmtReelLoad_unread (s := s.quiet) ⟨ha, hg, hn, hb⟩ hr), reply_answered ..,
        settle_sameBut ((congrArg Dbg.fatal (frame_dbg hF (by decide))).trans hd) hF.2⟩
  · intro p d r s hl hh hc hr hg hw
    have hstart := reelUnload_of_known (s := s.quiet) hh hc hr hg
    have hr' : (s.quiet.adminBusy p).reel (descField d 16 2) = some r := hr
    have hbusy := (adminBusy_adds s.quiet p).1.mono (qs := [.fab, .que]) (by simp)
    obtain ⟨rest, hheld⟩ := adminHead_spec (s := s.quiet) hh
    have hheld' : ((s.quiet.adminBusy p).admin p).held = d :: rest := (congrArg Admin.held (adminBusy_admin ..)).trans hheld
    refine ⟨fun hu hk => ?_, fun hu => ?_⟩
    · obtain ⟨hadmin, -⟩ := unloadReel_of_unused hr' hu hw
      obtain ⟨hx, hF⟩ := live_next_frame (i := .reelUnload p) rfl hl (hstart.trans (hadmin ..))
        (adminDone_frame (hbusy.trans ((leave_frame ..).mono (by simp))) ..) (by decide)
      obtain ⟨hsame, hother⟩ := reelsBut_adminDone (reelsBut_dropReel (s := s.quiet.adminBusy p) hk _ _) p stOk 0#64
      exact ⟨_, hx, hsame, hother, adminDone_answered
        ((congrArg Admin.held ((dropReel_admin ..).trans (putReel_admin ..))).trans hheld') .., hF⟩
    · obtain ⟨hx, hF⟩ := live_next_frame (i := .reelUnload p) rfl hl (hstart.trans (unloadReel_of_used hr' hu _))
        (hbusy.trans ((putReel_adds ..).1.mono (by simp))) (by decide)
      refine ⟨_, hx, ?_, congrArg Admin.busy ((putReel_admin ..).trans (adminBusy_admin ..)), hF⟩
      rw [putReel_reel_same, Reel.leaving, hw]
      rfl
  · intro p d s hl hh hc hr
    obtain ⟨rest, hheld⟩ := adminHead_spec (s := s.quiet) hh
    obtain ⟨hx, hF⟩ := live_next_frame (i := .reelUnload p) rfl hl (reelUnload_of_unknown (s := s.quiet) hh hc hr) (adminDone_adds ..).1
      (by decide)
    exact ⟨_, hx, adminDone_answered hheld .., hF⟩
  · intro h s hl
    refine ⟨fun hr => ?_, fun r hr hw hu => ?_, fun r hr hu => ?_⟩
    · obtain ⟨hx, hF⟩ := live_next_frame (i := .mgmtReelUnload h) rfl hl (mgmtReelUnload_of_unknown (s := s.quiet) hr) (reply_frame ..)
        (by decide)
      exact ⟨_, hx, reply_answered .., hF⟩
    · obtain ⟨-, hmgmt⟩ := unloadReel_of_unused (s := s.quiet) hr hu hw
      obtain ⟨hx, hF⟩ := live_next_frame (i := .mgmtReelUnload h) rfl hl ((mgmtReelUnload_of_known (s := s.quiet) hr).trans hmgmt)
        (reply_fab_frame (leave_frame ..) ..) (by decide)
      exact ⟨_, hx, (reel_of_fab ((reply_frame ..).2 .fab (by decide)) _).trans (dropReel_reel_same ..), reply_answered .., hF⟩
    · obtain ⟨hx, hF⟩ := live_next_frame (i := .mgmtReelUnload h) rfl hl
        ((mgmtReelUnload_of_known (s := s.quiet) hr).trans (unloadReel_of_used (s := s.quiet) hr hu _)) (putReel_adds ..).1 (by decide)
      exact ⟨_, hx, putReel_reel_same .., hF⟩

end Sys2Proof.Machine

/-! PROOFS. Built-in operations that run as a whole (R143 to R152, R176 to R180): what their shared steps touch, and how one is refused, ended,
carried out or sent. -/

namespace Sys2Proof.Machine

/-! Folds of steps that may fail. -/

/-- Such a fold keeps what each step keeps. -/
theorem foldl_bind_rel {α β : Type} {R : β → β → Prop} (hrefl : ∀ b, R b b) (htrans : ∀ {a b c}, R a b → R b c → R a c)
    {f : β → α → Option β} (hf : ∀ b x c, f b x = some c → R b c) (l : List α) {b c : β}
    (h : l.foldl (fun a x => a.bind (fun b => f b x)) (some b) = some c) : R b c := by
  induction l generalizing b with
  | nil =>
    cases h
    exact hrefl _
  | cons x l ih =>
    rw [List.foldl_cons, Option.bind_some] at h
    cases hx : f b x with
    | none =>
      rw [hx, List.foldl_fixed' (fun _ => rfl)] at h
      cases h
    | some d =>
      rw [hx] at h
      exact htrans (hf b x d hx) (ih h)

/-- A map that each step commutes with commutes with the fold. -/
theorem foldl_bind_map {α β : Type} {g : β → β} {f : β → α → Option β} (hf : ∀ b x, f (g b) x = (f b x).map g) (l : List α)
    (a : Option β) :
    l.foldl (fun a x => a.bind (fun b => f b x)) (a.map g) = (l.foldl (fun a x => a.bind (fun b => f b x)) a).map g := by
  induction l generalizing a with
  | nil => rfl
  | cons x l ih =>
    have hstep : (a.map g).bind (fun b => f b x) = (a.bind (fun b => f b x)).map g := by
      cases a with
      | none => rfl
      | some b => exact hf b x
    rw [List.foldl_cons, List.foldl_cons, hstep, ih]

/-! Tiles of a built-in operation and their checks (R196, R199). -/

/-- Noting checks touches the checks alone. -/
theorem drawChecks_frame {s t : State} {n : Nat} {tiles : List (CellId × Nat)} (h : s.drawChecks n tiles = some t) : Frame [.ras] s t := by
  refine foldl_bind_rel Frame.rfl Frame.trans (fun st ci u hu => ?_) tiles h
  split at hu
  · cases hu
    exact Frame.rfl st
  · obtain ⟨k, -, rfl⟩ := Option.map_eq_some_iff.1 hu
    exact (adds_ras st _).1

/-- What has been sent does not bear on the draw of checks. -/
theorem drawChecks_quiet (s : State) (n : Nat) (tiles : List (CellId × Nat)) :
    s.quiet.drawChecks n tiles = (s.drawChecks n tiles).map State.quiet := by
  refine foldl_bind_map (g := State.quiet) (fun st ci => ?_) tiles (some s)
  change (if !st.poolDraw n ci.2 then _ else Option.map _ (st.freeCheckCell ci.1)) = _
  split
  · rfl
  · rw [Option.map_map]
    rfl

theorem drawChecks_getD_frame (s : State) (n : Nat) (tiles : List (CellId × Nat)) : Frame [.ras] s ((s.drawChecks n tiles).getD s) := by
  cases h : s.drawChecks n tiles with
  | none => exact Frame.rfl s
  | some t => exact drawChecks_frame h

/-- Tiles that have run leave checks, marks and their tenant's count. -/
theorem tilesDone_frame (s : State) (n : Nat) (t : Tenant) (tiles : List (CellId × Nat)) :
    Frame [.ras, .ctr, .serial] s (s.tilesDone n t tiles) :=
  (((drawChecks_getD_frame s n tiles).trans (adds_ras _ _).1).mono (by simp)).trans (bump_frame _ _ _)

theorem tilesRun_frame (s : State) (n : Nat) (b : BlockId) (t : Tenant) : Frame [.ras, .ctr, .serial] s (s.tilesRun n b t) :=
  tilesDone_frame ..

/-! A descriptor that is refused. -/

/-- A descriptor that is still to be checked is no operation yet. -/
theorem poolOp_of_next {s : State} {q : Qp} {h : Nat} {opc opc' : BitVec 8} {x : QPair} {d : Held} (hn : s.nextHeld q h opc x d) :
    s.poolOp q h opc' = none := by
  obtain ⟨hnext, hheld, -⟩ := hn
  obtain ⟨hq, ho, -⟩ := nextIs_spec hnext
  have hop : d.op = none := by simpa using ho
  simp [State.poolOp, hq, hheld, hop]

theorem admitPool_of_refused {s : State} {p : PoolSpec} {q : Qp} {h : Nat} {x : QPair} {d : Held} {st : Status}
    (hn : s.nextHeld q h p.opcode x d) (hc : p.checks s x d.desc = some st) (b : BlockId) (io : OutsideIo) :
    s.admitPool p q h b io = (none, s.endDesc q h st 0#64) := by
  simp only [State.admitPool, hn.1, hc]

section
variable {s : State} {p : PoolSpec} {q : Qp} {h : Nat} {b : BlockId} {io : OutsideIo}

theorem runPool_of_refused {x : QPair} {d : Held} {st : Status} (hn : s.nextHeld q h p.opcode x d)
    (hc : p.checks s x d.desc = some st) (eff : State → OpRec → OutsideIo → Except PStop PoolRes × State) :
    s.runPool p q h b io eff = s.endDesc q h st 0#64 := by
  simp only [State.runPool, poolOp_of_next hn, admitPool_of_refused hn hc, Option.bind_none]

theorem sendPool_of_refused {x : QPair} {d : Held} {st : Status} (hn : s.nextHeld q h p.opcode x d)
    (hc : p.checks s x d.desc = some st) (g : Desc → Nat)
    (eff : State → OpRec → OutsideIo → Except PStop (List (Nat × List Byte)) × State) :
    s.sendPool p q h b io g eff = s.endDesc q h st 0#64 := by
  simp only [State.sendPool, poolOp_of_next hn, admitPool_of_refused hn hc, Option.bind_none]

/-! An admitted operation. -/

theorem runPool_of_ending {n : Nat} {o : OpRec} {st : Status} (hp : s.poolOp q h p.opcode = some n) (ho : s.op n = some o)
    (he : o.ending = some st) (eff : State → OpRec → OutsideIo → Except PStop PoolRes × State) :
    s.runPool p q h b io eff = s.stopOp n p.opcode st := by
  simp only [State.runPool, hp, Option.bind_some, ho, Option.map_some, he]

end

/-- An admitted operation may be carried out: its block is online and may issue, its host pages are translated (the device is then s1, the operation
o1), and its selected tiles find check cells (R144, R196, R199). -/
structure PoolReady (s s1 : State) (p : PoolSpec) (q : Qp) (h n : Nat) (k : BlockId) (o o1 : OpRec) : Prop where
  admitted : s.poolOp q h p.opcode = some n
  op : s.op n = some o
  block : o.block = some k
  online : s.blockOnline k = true
  issues : s.blockIssues k = true
  translated : s.translateOp n k (p.host o.desc o.list) = (true, s1)
  opNow : s1.op n = some o1
  checked : (s1.drawChecks n (s1.poolTiles k)).isSome = true

/-- The device once an operation's writes are stored: its tile status word is gathered, and its tiles have run. -/
def State.poolServed (s : State) (n : Nat) (k : BlockId) (t : Tenant) (fl : Status16) : State :=
  ((s.modOp n (fun x => { x with tileStatus := x.tileStatus ||| fl })).draw.2).tilesRun n k t

theorem draw_frame (s : State) : Frame [.serial] s s.draw.2 :=
  (adds_of_same (s := s) (t := s.draw.2) rfl rfl (fun p => by cases p <;> simp [Part.same, State.draw])).1

theorem poolServed_frame (s : State) (n : Nat) (k : BlockId) (t : Tenant) (fl : Status16) :
    Frame [.que, .ras, .ctr, .serial] s (s.poolServed n k t fl) :=
  ((modOp_frame s n _).mono (by simp)).trans (((draw_frame _).mono (by simp)).trans ((tilesRun_frame ..).mono (by simp)))

theorem poolServed_op {s : State} {n : Nat} {y : OpRec} (hy : s.op n = some y) (k : BlockId) (t : Tenant) (fl : Status16) :
    (s.poolServed n k t fl).op n = some { y with tileStatus := y.tileStatus ||| fl } := by
  rw [State.poolServed, op_of_que ((tilesRun_frame ..).2 .que (by decide)), op_of_que ((draw_frame _).2 .que (by decide)), modOp_op_same, hy,
    Option.map_some]

section
variable {s s1 : State} {p : PoolSpec} {q : Qp} {h n : Nat} {k : BlockId} {o o1 : OpRec} (hr : PoolReady s s1 p q h n k o o1)
  {b : BlockId} {io : OutsideIo} {eff : State → OpRec → OutsideIo → Except PStop PoolRes × State}
include hr

theorem runPool_of_ready (he : o.ending = none) : s.runPool p q h b io eff = s1.carryOut n o1 k io eff := by
  simp [State.runPool, hr.admitted, hr.op, he, hr.block, hr.online, hr.issues, hr.translated, hr.opNow]

/-- Its effect comes: what it writes is stored, and it finishes. -/
theorem runPool_served (he : o.ending = none) {s2 s3 : State} {r : PoolRes} (hf : eff s1 o1 io = (.ok r, s2))
    (hb : ∀ w, w ∈ r.writes → s2.storeBusy o1 w = false) (hw : s2.storeAll n o1 io r.writes = (none, s3)) :
    s.runPool p q h b io eff = (s3.poolServed n k o1.tenant r.flags).finishOp n r.status r.value := by
  have hchecked := Option.ne_none_iff_isSome.2 hr.checked
  have hbusy : r.writes.any (fun w => s2.storeBusy o1 w) = false := List.any_eq_false.2 (fun w hm => by simp [hb w hm])
  rw [runPool_of_ready hr he]
  simp [State.carryOut, hchecked, hf, hbusy, hw, State.poolServed]

/-- A read refuses it: it stops, its tiles having run. -/
theorem runPool_stops (he : o.ending = none) {s2 : State} {st : Status} (hf : eff s1 o1 io = (.error (.refused st), s2)) :
    s.runPool p q h b io eff = (s2.tilesRun n k o1.tenant).stopOp n o1.opcode st := by
  have hchecked := Option.ne_none_iff_isSome.2 hr.checked
  rw [runPool_of_ready hr he]
  simp [State.carryOut, hchecked, hf]

/-- What it read is sent to the members of its group. -/
theorem sendPool_sends (hs : tget s.fab.sends n = none) {s2 : State} {l : List (Nat × List Byte)}
    {eff : State → OpRec → OutsideIo → Except PStop (List (Nat × List Byte)) × State} (hf : eff s1 o1 io = (.ok l, s2)) (g : Desc → Nat) :
    s.sendPool p q h b io g eff = (s2.tilesRun n k o1.tenant).sendGroup n o1 (BitVec.ofNat 12 (g o1.desc)) l := by
  have hchecked := Option.ne_none_iff_isSome.2 hr.checked
  simp [State.sendPool, hr.admitted, hr.op, hs, hr.block, hr.online, hr.issues, hr.translated, hr.opNow, hchecked, hf]

end

end Sys2Proof.Machine

/-! PROOFS. The built-in operations, one command each (R143 to R152, R156 to R163, R176 to R191). -/

namespace Sys2Proof.Machine

/-- A command that runs a built-in operation has the operation's meaning. -/
theorem poolMeaning_of_runPool {c : Instr} {p : PoolSpec} {q : Qp} {h : Nat} {b : BlockId} {io : OutsideIo}
    {eff : State → OpRec → OutsideIo → Except PStop PoolRes × State}
    (hc : ∀ s, exec c s = .next (s.quiet.whenLive (fun t => t.runPool p q h b io eff))) : poolMeaning c p q h b io eff := by
  refine ⟨fun s x d st hl hn hck => ?_, fun s n o st hl hp ho he => ?_,
    fun s s1 s2 s3 n k o o1 r hl hp ho he hk hon hi ht ho1 hd hf hb hw => ?_,
    fun s s1 s2 n k o o1 st hl hp ho he hk hon hi ht ho1 hd hf => ?_⟩
  · obtain ⟨hend, hF⟩ := endDesc_descEnded (s := s.quiet) hn.1 hn.2.1 hn.2.2 st 0#64
    obtain ⟨hx, hF⟩ := live_next_frame (hc s) hl (runPool_of_refused (s := s.quiet) hn hck eff) hF (by decide)
    exact ⟨_, hx, hend, hF⟩
  · exact ⟨_, live_next (hc s) hl (runPool_of_ending (s := s.quiet) hp ho he eff), rfl⟩
  · have hr : PoolReady s.quiet s1 p q h n k o o1 := ⟨hp, ho, hk, hon, hi, ht, ho1, hd⟩
    exact ⟨_, _, live_next (hc s) hl (runPool_served hr he hf hb hw), rfl, (poolServed_frame ..).2, fun y hy => poolServed_op hy ..⟩
  · have hr : PoolReady s.quiet s1 p q h n k o o1 := ⟨hp, ho, hk, hon, hi, ht, ho1, hd⟩
    exact ⟨_, _, live_next (hc s) hl (runPool_stops hr he hf), rfl, (tilesRun_frame ..).2⟩

/-- An ALL_GATHER runs as a whole when its destination is in the pool, and is sent when it is a group (R176). -/
theorem gatherToPool_of_held {s : State} {q : Qp} {h : Nat} {x : QPair} {d : Held} (hq : s.qp q = some x) (hh : tget x.held h = some d) :
    s.gatherToPool q h = agToPool d.desc := by
  simp [State.gatherToPool, hq, hh]

/-- An ALL_GATHER that reads its shards completes with value 0. -/
theorem allGatherEffect_result {s s' : State} {o : OpRec} {io : OutsideIo} {r : PoolRes} (h : allGatherEffect s o io = (.ok r, s')) :
    r.status = stOk ∧ r.value = 0#64 := by
  unfold allGatherEffect at h
  split at h
  · cases h
  · cases h
    exact ⟨rfl, rfl⟩

/-- Settles O24: each command runs `runPool` with its operation's specification and effect; ALL_GATHER does so for a destination in the pool. -/
theorem builtInOperationsRun : Obligations.BuiltInOperationsRun := by
  unfold Obligations.BuiltInOperationsRun
  intro q h b io
  refine ⟨poolMeaning_of_runPool (fun _ => rfl), poolMeaning_of_runPool (fun _ => rfl), poolMeaning_of_runPool (fun _ => rfl),
    poolMeaning_of_runPool (fun _ => rfl), poolMeaning_of_runPool (fun _ => rfl), poolMeaning_of_runPool (fun _ => rfl),
    poolMeaning_of_runPool (fun _ => rfl), fun s x d st hl hn ha hck => ?_,
    fun s s1 s2 s3 n k x d o o1 r hl hq hh ha hp ho he hk hon hi ht ho1 hd hf hb hw => ?_⟩
  · have hto : s.quiet.gatherToPool q h = true := (gatherToPool_of_held (s := s.quiet) (nextIs_spec hn.1).1 hn.2.1).trans ha
    obtain ⟨hend, hF⟩ := endDesc_descEnded (s := s.quiet) hn.1 hn.2.1 hn.2.2 st 0#64
    obtain ⟨hx, hF⟩ := live_next_frame (i := .allGather q h b io) rfl hl
      ((if_pos hto).trans (runPool_of_refused (s := s.quiet) (p := allGatherSpec) hn hck allGatherEffect)) hF (by decide)
    exact ⟨_, hx, hend, hF⟩
  · have hto : s.quiet.gatherToPool q h = true := (gatherToPool_of_held (s := s.quiet) hq hh).trans ha
    have hr : PoolReady s.quiet s1 allGatherSpec q h n k o o1 := ⟨hp, ho, hk, hon, hi, ht, ho1, hd⟩
    obtain ⟨hst, hv⟩ := allGatherEffect_result hf
    have hx := live_next (i := .allGather q h b io) rfl hl ((if_pos hto).trans (runPool_served hr he hf hb hw))
    rw [hst, hv] at hx
    exact ⟨_, _, hx, rfl, (poolServed_frame ..).2⟩

/-- A command that sends for the descriptors that `when_` tells has the meaning of a multicast operation. -/
theorem sendMeaning_of_sendPool {c : Instr} {p : PoolSpec} {q : Qp} {h : Nat} {b : BlockId} {io : OutsideIo} {g : Desc → Nat}
    {eff : State → OpRec → OutsideIo → Except PStop (List (Nat × List Byte)) × State} {when_ : Desc → Bool} {f : State → State}
    (hc : ∀ s, exec c s = .next (s.quiet.whenLive f))
    (hf : ∀ (s : State) (x : QPair) (d : Held), s.qp q = some x → tget x.held h = some d → when_ d.desc = true →
      f s = s.sendPool p q h b io g eff) : sendMeaning c p q h b io g eff when_ := by
  refine ⟨fun s x d st hl hn hq hw hck => ?_,
    fun s s1 s2 n k x d o o1 l hl hq hh hw hp ho hs hk hon hi ht ho1 hd he => ?_⟩
  · obtain ⟨hend, hF⟩ := endDesc_descEnded (s := s.quiet) hn.1 hn.2.1 hn.2.2 st 0#64
    obtain ⟨hx, hF⟩ := live_next_frame (hc s) hl
      ((hf s.quiet x d hq hn.2.1 hw).trans (sendPool_of_refused (s := s.quiet) hn hck g eff)) hF (by decide)
    exact ⟨_, hx, hend, hF⟩
  · have hr : PoolReady s.quiet s1 p q h n k o o1 := ⟨hp, ho, hk, hon, hi, ht, ho1, hd⟩
    exact ⟨_, _, live_next (hc s) hl ((hf s.quiet x d hq hh hw).trans (sendPool_sends hr hs he g)), rfl, (tilesRun_frame ..).2⟩

/-- Settles O25: a BCAST is `sendPool` always, an ALL_GATHER where its destination is a group. -/
theorem multicastOperationsSend : Obligations.MulticastOperationsSend := by
  unfold Obligations.MulticastOperationsSend
  intro q h b io
  refine ⟨sendMeaning_of_sendPool (fun _ => rfl) (fun _ _ _ _ _ _ => rfl), sendMeaning_of_sendPool (fun _ => rfl) (fun s x d hq hh hw => ?_)⟩
  have hto : s.gatherToPool q h = false := (gatherToPool_of_held hq hh).trans (by simpa using hw)
  simp [hto]

end Sys2Proof.Machine

/-! PROOFS. What the moving operations write and report (R150, R156 to R158). -/

namespace Sys2Proof.Machine

/-! FILL. -/

/-- Byte i of a number written with n bytes. -/
theorem getElem?_natBytes {n i : Nat} (h : i < n) (v : Nat) : (natBytes n v)[i]? = some (BitVec.ofNat 8 (v / 256 ^ i)) := by
  induction n generalizing v i with
  | zero => omega
  | succ n ih =>
    cases i with
    | zero => simp [natBytes]
    | succ i => rw [natBytes, List.getElem?_cons_succ, ih (by omega), Nat.div_div_eq_div_mul, pow_succ']

/-- The bytes of a FILL: its pattern over and over. -/
def fillBytes (d : Desc) : List Byte := (List.range (moveLen d)).map (fun x => (natBytes 8 (descField d 32 8)).getD (x % 8) 0#8)

theorem fillBytes_length (d : Desc) : (fillBytes d).length = moveLen d := by simp [fillBytes]

theorem getElem?_fillBytes {d : Desc} {x : Nat} (h : x < moveLen d) :
    (fillBytes d)[x]? = some (BitVec.ofNat 8 (descField d 32 8 / 256 ^ (x % 8))) := by
  rw [fillBytes, List.getElem?_map, List.getElem?_range h, Option.map_some, List.getD_eq_getElem?_getD,
    getElem?_natBytes (Nat.mod_lt x (by decide)), Option.getD_some]

/-! COMPARE. -/

/-- The offset of the lowest byte in which two contents differ. -/
def firstDiff (a b : List Byte) : Option Nat := (a.zip b).findIdx? (fun p => p.1 != p.2)

/-- The 64-byte units in which two contents differ, as COMPARE counts them: up to what its field holds. -/
def unitsDiffer (a b : List Byte) : Nat :=
  min ((List.range ((a.length + 63) / 64)).filter (fun k => (a.drop (64 * k)).take 64 != (b.drop (64 * k)).take 64)).length (2 ^ 24 - 1)

theorem compareValue_eq (a b : List Byte) :
    compareValue a b = BitVec.ofNat 64 ((firstDiff a b).getD 0xFFFFFFFFFF % 2 ^ 40 + unitsDiffer a b * 2 ^ 40) := rfl

theorem firstDiff_self (a : List Byte) : firstDiff a a = none := by
  rw [firstDiff, List.findIdx?_eq_none_iff]
  intro p hp
  have hmap : a.zip a = a.map (fun x => (x, x)) := List.zipWith_self ..
  obtain ⟨x, -, rfl⟩ := List.mem_map.1 (hmap ▸ hp)
  simp

theorem unitsDiffer_self (a : List Byte) : unitsDiffer a a = 0 := by simp [unitsDiffer]

/-- Contents of one length differ within it. -/
theorem lt_length_of_getElem?_ne {a b : List Byte} {i : Nat} (hlen : a.length = b.length) (hi : a[i]? ≠ b[i]?) : i < a.length := by
  by_contra hge
  exact hi (by rw [List.getElem?_eq_none (by omega), List.getElem?_eq_none (by omega)])

theorem firstDiff_eq_some {a b : List Byte} {i : Nat} (hlen : a.length = b.length) (hi : a[i]? ≠ b[i]?) (hj : ∀ j, j < i → a[j]? = b[j]?) :
    firstDiff a b = some i := by
  have hia := lt_length_of_getElem?_ne hlen hi
  have hib : i < b.length := hlen ▸ hia
  rw [firstDiff, List.findIdx?_eq_some_iff_getElem]
  refine ⟨by simp [hia, hib], ?_, fun j hji => ?_⟩
  · rw [List.getElem?_eq_getElem hia, List.getElem?_eq_getElem hib] at hi
    simpa using hi
  · have := hj j hji
    rw [List.getElem?_eq_getElem (hji.trans hia), List.getElem?_eq_getElem (hji.trans hib)] at this
    simpa using this

/-- The offset field of COMPARE's value, whatever stands in the count above it. -/
theorem compareValue_offset (a b : List Byte) : (compareValue a b).toNat % 2 ^ 40 = (firstDiff a b).getD 0xFFFFFFFFFF % 2 ^ 40 := by
  have hu : unitsDiffer a b ≤ 2 ^ 24 - 1 := Nat.min_le_right ..
  rw [compareValue_eq, BitVec.toNat_ofNat]
  omega

/-- Settles O26: FILL's bytes are `fillBytes`, COPY and COMPARE use what they fetched, and COMPARE's low field is `firstDiff`. -/
theorem effectsOfMovingOperations : Obligations.EffectsOfMovingOperations := by
  unfold Obligations.EffectsOfMovingOperations
  refine ⟨fun s o io => ⟨fillBytes o.desc, rfl, fillBytes_length o.desc, fun x hx => getElem?_fillBytes hx⟩,
    fun s s1 o io bs h => ?_, fun s s1 o io a b h => ?_, fun a => ?_, fun a b i hlen hmax hi hj => ?_⟩
  · simp only [copyEffect, h]
  · simp only [compareEffect, h, List.getD_cons_zero, List.getD_cons_succ]
  · rw [compareValue_eq, firstDiff_self, unitsDiffer_self]
    rfl
  · have hia := lt_length_of_getElem?_ne hlen hi
    rw [compareValue_offset, firstDiff_eq_some hlen hi hj, Option.getD_some]
    omega

end Sys2Proof.Machine

/-! PROOFS. REDUCE_SCATTER (R165 to R175): submission, arming, contributions, chunk commits, timeout. -/

namespace Sys2Proof.Machine

/-! The records of REDUCE_SCATTERs and of landed transfers. -/

@[simp] theorem setRs_rs_same (s : State) (n : Nat) (r : RsOp) : (s.setRs n r).rs n = some r := tget_tput_same ..

theorem setRs_adds (s : State) (n : Nat) (r : RsOp) : Adds [.fab] s (s.setRs n r) := adds_fab s _

theorem setRs_rbuf (s : State) (n : Nat) (r : RsOp) (g : RegionId) : (s.setRs n r).rbuf g = s.rbuf g := rfl

theorem rs_of_fab {s t : State} (h : t.fab = s.fab) (n : Nat) : t.rs n = s.rs n := congrArg (fun f : Fab => tget f.rs n) h

theorem rbuf_of_fab {s t : State} (h : t.fab = s.fab) (g : RegionId) : t.rbuf g = s.rbuf g :=
  congrArg (fun f : Fab => mget RBuf.reset f.rbufs g.val) h

theorem adds_rtr (s : State) (x : Rtr) : Adds [.rtr] s { s with rtr := x } :=
  adds_of_same rfl rfl (fun p => by cases p <;> simp [Part.same])

/-! Submission (R147, R166). -/

/-- A REDUCE_SCATTER that waits to be bound. -/
def waitingRsOp : RsOp :=
  { cells := [], regions := [], bound := false, armed := false, reduced := 0, arrived := 0, dirty := false, ticks := 0, order := [], acc := [],
    ahead := [] }

theorem newOp_desc (s : State) (q : Qp) (h : Nat) (x : QPair) (d : Held) :
    ∃ o, (s.newOp q h x d).2.op s.que.nextOp = some o ∧ o.qp = q ∧ o.held = h ∧ o.desc = d.desc :=
  ⟨_, tget_tput_same .., rfl, rfl, rfl⟩

section
variable {s : State} {q : Qp} {h : Nat} {x : QPair} {d : Held} (hn : s.nextIs q h 0x11#8 = some (x, d))
include hn

theorem reduceScatter_of_refused {st : Status} (hc : s.rsCheck d.desc = some st) : reduceScatter q h s = s.endDesc q h st 0#64 := by
  simp only [reduceScatter, hn, hc]

theorem reduceScatter_of_accepted (hc : s.rsCheck d.desc = none) (hm : s.maskOnline (rsMask d.desc) = true) :
    reduceScatter q h s = (s.newOp q h x d).2.setRs s.que.nextOp waitingRsOp := by
  simp only [reduceScatter, hn, hc, hm, Bool.not_true, Bool.false_eq_true, if_false]
  rfl

end

/-! Arming (R169, R170). -/

theorem rsArmed_of_written {s s1 : State} {n : Nat} {r : RsOp} {o : OpRec} (hr : s.rs n = some r) (ho : s.op n = some o)
    (hb : r.bound = true) (ha : r.armed = false) (he : o.ending = none)
    (hw : s.opWriteBusy o (BitVec.ofNat 64 (descField o.desc 24 8)) 64 = false) (hp : s.writeProgress o 1 r = (none, s1)) :
    rsArmed n s = s1.setRs n { r with armed := true, ticks := 0 } := by
  simp [rsArmed, hr, ho, hb, ha, he, hw, hp]

/-! Contributions (R170 to R172). -/

/-- A landed transfer has been looked at: it stands in the list no more. -/
def State.unlanded (s : State) (addr : W64) (bytes : Nat) : State :=
  { s with rtr := { s.rtr with landed := s.rtr.landed.erase (addr, bytes) } }

/-- A transfer has landed in the staging area of an armed REDUCE_SCATTER that goes on. -/
structure InStaging (s : State) (n : Nat) (addr : W64) (bytes : Nat) (r : RsOp) (o : OpRec) : Prop where
  rs : s.rs n = some r
  op : s.op n = some o
  armed : r.armed = true
  goesOn : o.ending = none
  landed : (addr, bytes) ∈ s.rtr.landed
  low : (rsArea o.desc).1 ≤ addr.toNat
  high : addr.toNat < (rsArea o.desc).1 + (rsArea o.desc).2

/-- A transfer covers exactly slot ix of the staging area, which is chunk k's at this time. -/
structure CoversSlot (addr : W64) (bytes : Nat) (r : RsOp) (d : Desc) (ix k : Nat) : Prop where
  pastLine : 4096 ≤ addr.toNat - (rsArea d).1
  start : addr.toNat - (rsArea d).1 - 4096 = ix * rsSlotBytes d
  nonempty : 0 < rsSlotBytes d
  size : bytes = rsSlotBytes d
  chunk : k = rsChunkAt d r (ix / rsPeers d)

/-- A REDUCE_SCATTER with peer j's contribution to chunk k in. -/
def RsOp.joined (r : RsOp) (k j : Nat) : RsOp :=
  { r with arrived := r.arrived + 1, dirty := true, ticks := 0, order := tput r.order k (mget [] r.order k ++ [j]),
           acc := r.acc.erase k ++ [k] }

theorem joined_order (r : RsOp) (k j : Nat) : mget [] (r.joined k j).order k = mget [] r.order k ++ [j] :=
  congrArg (Option.getD · []) (tget_tput_same ..)

theorem mem_joined_acc (r : RsOp) (k j : Nat) : k ∈ (r.joined k j).acc := List.mem_append_right _ (List.mem_singleton.2 rfl)

/-- A contribution has joined its chunk's accumulators in the region buffer; its events are gathered. -/
def State.rsJoined (s : State) (n ce : Nat) (d : Desc) (r : RsOp) (k j : Nat) (bs : List Byte) : State :=
  let x := rsCombine (rsCfg d) (if r.acc.contains k then some (s.rsAcc d r k) else none) (rsTerms d bs)
  (((s.putRsAcc d r k x.1).bump (ctrReel 1 (rsRegionAt r k).val) ce).setRs n (r.joined k j)).modOp n
    (fun o => { o with tileStatus := o.tileStatus ||| x.2 })

/-- Nothing keeps such a transfer from being looked at. -/
theorem InStaging.lookedAt {s : State} {n : Nat} {addr : W64} {bytes : Nat} {r : RsOp} {o : OpRec} (h : InStaging s n addr bytes r o) :
    ¬ ((!r.armed) = true ∨ o.ending.isSome = true ∨ (!s.rtr.landed.contains (addr, bytes)) = true ∨ addr.toNat < (rsArea o.desc).1 ∨
      (rsArea o.desc).1 + (rsArea o.desc).2 ≤ addr.toNat) := by
  simp [h.armed, h.goesOn, h.landed, h.low, h.high]

/-- A transfer that covers a slot has the shape of a contribution (R170). -/
theorem CoversSlot.shape {addr : W64} {bytes : Nat} {r : RsOp} {d : Desc} {ix k : Nat} (h : CoversSlot addr bytes r d ix k) :
    ¬ (addr.toNat - (rsArea d).1 < 4096 ∨ (addr.toNat - (rsArea d).1 - 4096) % rsSlotBytes d ≠ 0 ∨ bytes ≠ rsSlotBytes d) := by
  simp [h.pastLine, h.start, h.size]

theorem CoversSlot.place {addr : W64} {bytes : Nat} {r : RsOp} {d : Desc} {ix k : Nat} (h : CoversSlot addr bytes r d ix k) :
    (addr.toNat - (rsArea d).1 - 4096) / rsSlotBytes d = ix := by
  rw [h.start, Nat.mul_div_cancel _ h.nonempty]

section
variable {s : State} {n bytes : Nat} {addr : W64} {r : RsOp} {o : OpRec} (hs : InStaging s n addr bytes r o)
include hs

/-- A transfer of another shape is not recognised. -/
theorem rsContribution_of_other_shape (hx : addr.toNat - (rsArea o.desc).1 < 4096 ∨
    (addr.toNat - (rsArea o.desc).1 - 4096) % rsSlotBytes o.desc ≠ 0 ∨ bytes ≠ rsSlotBytes o.desc) (ce : Nat) :
    rsContribution n addr bytes ce s = s.unlanded addr bytes := by
  simp only [rsContribution, hs.rs, hs.op]
  rw [if_neg hs.lookedAt, if_pos hx]
  rfl

variable {ix k : Nat} (hc : CoversSlot addr bytes r o.desc ix k)
include hc

/-- The contributor sent this chunk before, or no such chunk remains. -/
theorem rsContribution_of_overrun (hk : rsChunks o.desc ≤ k ∨ ix % rsPeers o.desc ∈ mget [] r.order k) (ce : Nat) :
    rsContribution n addr bytes ce s = (s.unlanded addr bytes).failRs n stStageOverrun := by
  simp only [rsContribution, hs.rs, hs.op]
  rw [if_neg hs.lookedAt, if_neg hc.shape, hc.place, ← hc.chunk, if_pos (hk.imp_right List.contains_iff_mem.2)]
  rfl

theorem rsContribution_joins (hk : k < rsChunks o.desc) (hj : ix % rsPeers o.desc ∉ mget [] r.order k)
    (hb : (s.unlanded addr bytes).opReadBusy o addr bytes = false) (hi : s.regionIssues (rsRegionAt r k) = true) {bs : List Byte}
    {bad : List Bool} {s1 : State} (hr : (s.unlanded addr bytes).opRead o addr bytes noIo = (.ok (bs, bad), s1))
    (hbad : bad.any id = false) (ce : Nat) :
    rsContribution n addr bytes ce s = s1.rsJoined n ce o.desc r k (ix % rsPeers o.desc) bs := by
  have hnew : ¬ (rsChunks o.desc ≤ k ∨ (mget [] r.order k).contains (ix % rsPeers o.desc) = true) := by simp [hk, hj]
  have hfree : ¬ ((s.unlanded addr bytes).opReadBusy o addr bytes || !(s.unlanded addr bytes).regionIssues (rsRegionAt r k)) = true := by
    rw [hb, show (s.unlanded addr bytes).regionIssues (rsRegionAt r k) = true from hi]
    decide
  have hgood : ¬ bad.any id = true := by simp [hbad]
  rw [State.unlanded] at hfree hr
  simp only [rsContribution, hs.rs, hs.op]
  rw [if_neg hs.lookedAt, if_neg hc.shape, hc.place, ← hc.chunk, if_neg hnew, if_neg hfree]
  simp only [hr]
  rw [if_neg hgood]
  rfl

end

/-- The accumulators of a chunk stand in one region's buffer. -/
theorem putRsAcc_adds (s : State) (d : Desc) (r : RsOp) (k : Nat) (acc : List (W32 × W32)) : Adds [.fab] s (s.putRsAcc d r k acc) :=
  adds_fab s _

theorem putRsAcc_rbuf_other {s : State} (hk : keysRise s.fab.rbufs = true) (d : Desc) (r : RsOp) (k : Nat) (acc : List (W32 × W32))
    {g : RegionId} (hg : g ≠ rsRegionAt r k) : (s.putRsAcc d r k acc).rbuf g = s.rbuf g :=
  mget_mset_other _ hk _ (fun e => hg (Fin.ext e))

section
variable (s : State) (n ce : Nat) (d : Desc) (r : RsOp) (k j : Nat) (bs : List Byte)

theorem rsJoined_frame : Frame [.fab, .que, .ctr, .ras, .serial] s (s.rsJoined n ce d r k j bs) :=
  ((putRsAcc_adds ..).1.mono (by simp)).trans (((bump_frame ..).mono (by simp)).trans
    (((setRs_adds ..).1.mono (by simp)).trans ((modOp_frame ..).mono (by simp))))

theorem rsJoined_rs : (s.rsJoined n ce d r k j bs).rs n = some (r.joined k j) :=
  (rs_of_fab (State.modOp_fab ..) n).trans (setRs_rs_same ..)

theorem rsJoined_rbuf_other (hk : keysRise s.fab.rbufs = true) {g : RegionId} (hg : g ≠ rsRegionAt r k) :
    (s.rsJoined n ce d r k j bs).rbuf g = s.rbuf g := by
  rw [State.rsJoined, rbuf_of_fab (State.modOp_fab ..), setRs_rbuf, rbuf_of_fab ((bump_frame _ _ _).2 .fab (by decide)),
    putRsAcc_rbuf_other hk _ _ _ _ hg]

end

/-! Chunk commits (R173, R175). -/

/-- What a chunk's commit writes: its accumulators in the output format, at the chunk's place in the destination. -/
def State.rsWrite (s : State) (d : Desc) (r : RsOp) (k : Nat) : Place × List Byte :=
  let acc := s.rsAcc d r k
  let outs := ((List.range acc.length).zip acc).map (fun p => (rsCfg d).out (k * rsChunk d + p.1) p.2)
  (⟨false, descField d 16 8 + k * rsChunk d * elemSize (rsCfg d).fmtOut⟩,
    outs.flatMap (fun e => natBytes (elemSize (rsCfg d).fmtOut) e.1))

/-- The events of converting a chunk's accumulators. -/
def State.rsEvents (s : State) (d : Desc) (r : RsOp) (k : Nat) : Status16 :=
  let acc := s.rsAcc d r k
  (((List.range acc.length).zip acc).map (fun p => (rsCfg d).out (k * rsChunk d + p.1) p.2)).foldl (fun f e => f ||| e.2) fNone

/-- A chunk's conversion is counted: the corrected errors of its region's buffer, and its events. -/
def State.rsConverted (s : State) (n ce : Nat) (g : RegionId) (ev : Status16) : State :=
  (s.bump (ctrReel 1 g.val) ce).modOp n (fun x => { x with tileStatus := x.tileStatus ||| ev })

theorem rsConverted_frame (s : State) (n ce : Nat) (g : RegionId) (ev : Status16) :
    Frame [.que, .ras, .ctr, .serial] s (s.rsConverted n ce g ev) :=
  ((bump_frame ..).mono (by simp)).trans ((modOp_frame ..).mono (by simp))

theorem rsConverted_opOpen (s : State) (n ce : Nat) (g : RegionId) (ev : Status16) :
    (s.rsConverted n ce g ev).opOpen n = s.opOpen n := by
  have hrtr : (s.rsConverted n ce g ev).rtr = s.rtr := (rsConverted_frame ..).2 .rtr (by decide)
  have hop : (s.rsConverted n ce g ev).op n = (s.op n).map (fun x => { x with tileStatus := x.tileStatus ||| ev }) := by
    rw [State.rsConverted, modOp_op_same, op_of_que ((bump_frame _ _ _).2 .que (by decide))]
  rw [State.opOpen, hrtr, hop, Option.any_map]
  rfl

theorem rsCommitted_of_remaining {n k : Nat} {r : RsOp} {o : OpRec} (h : (rsAdvance r k).reduced ≠ rsChunks o.desc) (s : State) :
    s.rsCommitted n r o k = (s.setRs n (rsAdvance r k)).tilesDone n o.tenant (rsTiles r k) := by
  simp [State.rsCommitted, h]

theorem rsChunkCommit_of_stored {s s1 : State} {n k : Nat} {r : RsOp} {o : OpRec} (hr : s.rs n = some r) (ho : s.op n = some o)
    (ha : r.armed = true) (he : o.ending = none) (hall : (mget [] r.order k).length = rsPeers o.desc) (hk : k ∈ r.acc)
    (hi : s.cellIssues (r.cells.headD 0) = true) (hd : (s.drawChecks n (rsTiles r k)).isSome = true)
    (hb : s.storeBusy o (s.rsWrite o.desc r k) = false) (hw : s.store n o noIo (s.rsWrite o.desc r k) = (none, s1))
    (hopen : s1.opOpen n = false) (ce : Nat) :
    rsChunkCommit n k ce s = (s1.rsConverted n ce (rsRegionAt r k) (s.rsEvents o.desc r k)).rsCommitted n r o k := by
  have hopen' := (rsConverted_opOpen s1 n ce (rsRegionAt r k) (s.rsEvents o.desc r k)).trans hopen
  rw [State.rsWrite] at hb hw
  rw [State.rsConverted, State.rsEvents] at hopen'
  simp only [rsChunkCommit, hr, ho, ha, he, hall, hi, Option.isNone_eq_false_iff.2 hd, List.contains_iff_mem.2 hk, hb, hw, hopen',
    Option.isSome_none, Bool.not_true, Bool.false_eq_true, not_true_eq_false, ne_eq, or_self, if_false]
  rfl

/-- A chunk that is not the last has committed: the reduced count advances, and its tiles have run. -/
theorem rsCommitted_spec {n k : Nat} {r : RsOp} {o : OpRec} (h : (rsAdvance r k).reduced ≠ rsChunks o.desc) (s : State) :
    (s.rsCommitted n r o k).rs n = some (rsAdvance r k) ∧ Frame [.fab, .ras, .ctr, .serial] s (s.rsCommitted n r o k) := by
  rw [rsCommitted_of_remaining h]
  exact ⟨(rs_of_fab ((tilesDone_frame ..).2 .fab (by decide)) n).trans (setRs_rs_same ..),
    ((setRs_adds ..).1.mono (by simp)).trans ((tilesDone_frame ..).mono (by simp))⟩

/-! Completion (R149, R209, R215): records, verdicts and counters, and the fabric as it was. -/

theorem freeHeld_frame (s : State) (q : Qp) (h : Nat) : Frame [.que, .audit] s (s.freeHeld q h) := by
  unfold State.freeHeld
  split
  · exact Frame.rfl s
  · split
    · exact ((setQp_adds ..).1.mono (by simp)).trans ((ledger_frame ..).mono (by simp))
    · exact Frame.rfl s

theorem queueRec_frame (s : State) (q : Qp) (r : Rec) : Frame [.que, .ras, .ctr, .serial, .audit] s (s.queueRec q r) := by
  unfold State.queueRec
  split
  · exact Frame.rfl s
  · split
    · dsimp only
      split
      · exact ((tally_frame ..).mono (by simp)).trans ((freeHeld_frame ..).mono (by simp))
      · exact (tally_frame ..).mono (by simp)
    · exact (setQp_adds ..).1.mono (by simp)

theorem verdictRecord_frame (s : State) (v : VerdictWait) (x : Outcome3) (c : Option VCause) :
    Frame [.que, .ras, .ctr, .serial, .audit] s (s.verdictRecord v x c) := by
  unfold State.verdictRecord
  split
  · exact queueRec_frame ..
  · split
    · exact Frame.rfl s
    · exact queueRec_frame ..

/-- Either of two states in the frame. -/
theorem Frame.ite {ps : List Part} {c : Prop} [Decidable c] {s t u : State} (h : Frame ps s t) (k : Frame ps s u) :
    Frame ps s (if c then t else u) := by
  split
  · exact h
  · exact k

theorem issueVerdict_frame (s : State) (n : Nat) (x : Outcome3) (c : Option VCause) :
    Frame [.que, .ras, .ctr, .serial, .audit] s (s.issueVerdict n x c) := by
  unfold State.issueVerdict
  split
  · exact Frame.rfl s
  next v _ =>
    have hcounted : Frame [.que, .ras, .ctr, .serial, .audit] s
        (if x = .confirm ∨ v.issued then s else (s.tally (ctrTen 8 v.tenant.toNat)).tally (ctrRas 4)) :=
      Frame.ite (Frame.rfl s) (((tally_frame ..).trans (tally_frame ..)).mono (by simp))
    exact Frame.ite ((hcounted.trans ((adds_ras _ _).1.mono (by simp))).trans (verdictRecord_frame ..))
      (hcounted.trans ((adds_ras _ _).1.mono (by simp)))

/-- A completion touches queue pairs and operations, verdicts and their counters. -/
theorem completeOp_frame (s : State) (n : Nat) (st : Status) (value : W64) (ts : BitVec 16) :
    Frame [.que, .ras, .ctr, .serial, .audit] s (s.completeOp n st value ts) := by
  unfold State.completeOp
  split
  · exact Frame.rfl s
  next o _ =>
    dsimp only
    generalize hdone : State.modQp _ _ _ = s0
    have h0 : Frame [.que, .ras, .ctr, .serial, .audit] s s0 := hdone ▸ (adds_que s _).1.mono (by simp)
    have hcounted : Frame [.que, .ras, .ctr, .serial, .audit] s (if st = stOk then s0.tally (ctrTen 0 o.tenant.toNat) else s0) :=
      Frame.ite (h0.trans ((tally_frame ..).mono (by simp))) h0
    generalize (if st = stOk then s0.tally (ctrTen 0 o.tenant.toNat) else s0) = s1 at hcounted ⊢
    split
    · exact hcounted.trans (queueRec_frame ..)
    next v _ =>
      have hnoted : ∀ (x : Ras) (r : Rec), Frame [.que, .ras, .ctr, .serial, .audit] s
          (if v.strict then { s1 with ras := x } else ({ s1 with ras := x } : State).queueRec o.qp r) := fun x r =>
        have hras := hcounted.trans ((adds_ras s1 x).1.mono (by simp))
        Frame.ite hras (hras.trans (queueRec_frame ..))
      split
      · exact Frame.ite ((hnoted _ _).trans (issueVerdict_frame ..)) (hnoted _ _)
      · exact hnoted _ _

/-- The end of an operation leaves the records of REDUCE_SCATTERs alone. -/
theorem settleOp_rs (s : State) (n k : Nat) : (s.settleOp n).rs k = s.rs k := by
  unfold State.settleOp
  split
  · rfl
  · split
    · rfl
    · split
      · rfl
      · exact rs_of_fab (t := (s.freeBlocks _).completeOp _ _ _ _) ((completeOp_frame ..).2 .fab (by decide)) k

theorem finishOp_rs (s : State) (n : Nat) (st : Status) (v : W64) (k : Nat) : (s.finishOp n st v).rs k = s.rs k := settleOp_rs ..

theorem endRs_rs (s : State) (n : Nat) (r : RsOp) (o : OpRec) (st : Status) : (s.endRs n r o st).rs n = none :=
  (finishOp_rs ..).trans (tget_tdel_same ..)

/-! The timeout (R174). -/

theorem settleRun_of_no_run {s : State} {n : Nat} (h : s.run n = none) : s.settleRun n = s := by
  simp only [State.settleRun, h]

theorem settlePool_of_other_opcode {s : State} {n : Nat} {o : OpRec} (ho : s.op n = some o) (hc : wholeOpcodes.contains o.opcode = false) :
    s.settlePool n = s := by
  simp only [State.settlePool, ho, hc, Bool.false_and, Bool.false_eq_true, if_false]
  split <;> rfl

theorem settleOp_of_not_due {s : State} {n : Nat} {o : OpRec} (ho : s.op n = some o) (hd : o.due = none) : s.settleOp n = s := by
  simp only [State.settleOp, ho, hd]

/-- An operation as it is told to end. -/
def OpRec.toEnd (st : Status) (o : OpRec) : OpRec := { o with ending := some (o.ending.getD st), todo := [] }

section
variable {s : State} {n : Nat} {o : OpRec} (ho : s.op n = some o)
include ho

theorem toEnd_op (st : Status) : (s.modOp n (OpRec.toEnd st)).op n = some (o.toEnd st) :=
  (modOp_op_same ..).trans (congrArg (Option.map _) ho)

/-- A REDUCE_SCATTER that is told to end is only noted: its end comes with settleRs. -/
theorem endOp_of_rs (hn : s.run n = none) (hd : o.due = none) (hc : o.opcode = 0x11#8) (st : Status) :
    s.endOp n st = s.modOp n (OpRec.toEnd st) := by
  have hopc : wholeOpcodes.contains (o.toEnd st).opcode = false := by
    show wholeOpcodes.contains o.opcode = false
    rw [hc]
    decide
  calc s.endOp n st = (((s.modOp n (OpRec.toEnd st)).settleRun n).settlePool n).settleOp n := rfl
    _ = s.modOp n (OpRec.toEnd st) := by
      rw [settleRun_of_no_run (s := s.modOp n (OpRec.toEnd st)) hn, settlePool_of_other_opcode (toEnd_op ho st) hopc,
        settleOp_of_not_due (toEnd_op ho st) hd]

/-- A REDUCE_SCATTER that fails is gone. -/
theorem failRs_rs {r : RsOp} (hr : s.rs n = some r) (hn : s.run n = none) (hd : o.due = none) (hc : o.opcode = 0x11#8) (st : Status) :
    (s.failRs n st).rs n = none := by
  have hrs : (s.modOp n (OpRec.toEnd st)).rs n = some r := hr
  have hend : (o.toEnd st).ending = some (o.ending.getD st) := rfl
  rw [State.failRs, endOp_of_rs ho hn hd hc]
  simp only [State.settleRs, hrs, toEnd_op ho, hend, endRs_rs]

theorem rsPeerTimeout_of_late {r : RsOp} (hr : s.rs n = some r) (ha : r.armed = true) (he : o.ending = none)
    (ht : rsTimeoutTicks o.desc ≤ r.ticks) : rsPeerTimeout n s = s.failRs n stPeerTimeout := by
  simp [rsPeerTimeout, hr, ho, ha, he, ht]

end

/-- Settles O27: each command is one of the equations above; a frame tells what it leaves, and that the node is not fatal. The end at the timeout
comes at once, because a REDUCE_SCATTER has no run and no effect that waits. -/
theorem reduceScatterRuns : Obligations.ReduceScatterRuns := by
  unfold Obligations.ReduceScatterRuns
  refine ⟨?_, ?_, ?_, ?_, ?_⟩
  · intro q h x d s hl hn
    refine ⟨fun st hc => ?_, fun hc hm => ?_⟩
    · obtain ⟨hend, hF⟩ := endDesc_descEnded (s := s.quiet) hn.1 hn.2.1 hn.2.2 st 0#64
      obtain ⟨hx, hF⟩ := live_next_frame (i := .reduceScatter q h) rfl hl (reduceScatter_of_refused (s := s.quiet) hn.1 hc) hF (by decide)
      exact ⟨_, hx, hend, hF⟩
    · obtain ⟨hx, hF⟩ := live_next_frame (i := .reduceScatter q h) rfl hl (reduceScatter_of_accepted (s := s.quiet) hn.1 hc hm)
        (ps := [.fab, .que]) (((newOp_adds ..).1.mono (by simp)).trans ((setRs_adds ..).1.mono (by simp))) (by decide)
      obtain ⟨o, ho, hq, hh, hd⟩ := newOp_desc s.quiet q h x d
      exact ⟨_, _, o, hx, setRs_rs_same .., rfl, rfl, rfl, rfl, ho, hq, hh, hd, hF⟩
  · intro n r o s s1 hl hr ho hb ha he hw hp hd
    exact ⟨_, live_next (i := .rsArmed n) rfl hl (rsArmed_of_written (s := s.quiet) hr ho hb ha he hw hp), setRs_rs_same ..,
      settle_sameBut hd (setRs_adds ..).1.2⟩
  · intro n bytes ce addr r o s hl hr ho ha he hin hlo hhi
    have hs : InStaging s.quiet n addr bytes r o := ⟨hr, ho, ha, he, hin, hlo, hhi⟩
    refine ⟨fun hx => ?_, fun ix k hpast hix hpos hsize hk => ?_⟩
    · obtain ⟨hx, hF⟩ := live_next_frame (i := .rsContribution n addr ⟨bytes, ce⟩) rfl hl (rsContribution_of_other_shape hs hx ce)
        (adds_rtr ..).1 (by decide)
      exact ⟨_, hx, rfl, hF⟩
    · have hc : CoversSlot addr bytes r o.desc ix k := ⟨hpast, hix, hpos, hsize, hk⟩
      refine ⟨fun hover => ⟨_, live_next (i := .rsContribution n addr ⟨bytes, ce⟩) rfl hl (rsContribution_of_overrun hs hc hover ce), rfl⟩,
        fun s1 bs bad hremains hnew hbusy hissues hread hgood hd => ?_⟩
      have hframe := rsJoined_frame s1 n ce o.desc r k (ix % rsPeers o.desc) bs
      exact ⟨_, r.joined k (ix % rsPeers o.desc),
        live_next (i := .rsContribution n addr ⟨bytes, ce⟩) rfl hl (rsContribution_joins hs hc hremains hnew hbusy hissues hread hgood ce),
        rsJoined_rs .., rfl, rfl, rfl, rfl, joined_order .., mem_joined_acc ..,
        fun hrise g hg => rsJoined_rbuf_other _ _ _ _ _ _ _ _ hrise hg,
        settle_sameBut ((congrArg Dbg.fatal (frame_dbg hframe (by decide))).trans hd) hframe.2⟩
  · intro n k ce r o s s1 hl hr ho ha he hall hk hi hd hw hopen hnf hmore
    obtain ⟨hb, hst⟩ := hw
    have hd' : (s.quiet.drawChecks n (rsTiles r k)).isSome = true := by rw [drawChecks_quiet, Option.isSome_map, hd]
    obtain ⟨hrs, hF⟩ := rsCommitted_spec hmore (s1.rsConverted n ce (rsRegionAt r k) (s.quiet.rsEvents o.desc r k))
    have hframe : Frame [.fab, .que, .ras, .ctr, .serial] s1 _ := ((rsConverted_frame ..).mono (by simp)).trans (hF.mono (by simp))
    exact ⟨_, live_next (i := .rsChunkCommit n ⟨k, ce⟩) rfl hl
        (rsChunkCommit_of_stored (s := s.quiet) hr ho ha he hall hk hi hd' hb hst hopen ce),
      hrs, Nat.le_add_right .., settle_sameBut ((congrArg Dbg.fatal (frame_dbg hframe (by decide))).trans hnf) hframe.2⟩
  · intro n r o s hl hr ho hn ha he hd hc ht
    exact ⟨_, live_next (i := .rsPeerTimeout n) rfl hl (rsPeerTimeout_of_late (s := s.quiet) ho hr ha he ht), rfl,
      failRs_rs (s := s.quiet) ho hr hn hd hc stPeerTimeout⟩

end Sys2Proof.Machine

/-! PROOFS. The report ring and the counters (R218, R219, R577, R578): what a report leaves in the ring, and how a counter stops. -/

namespace Sys2Proof.Machine

/-! Reports. -/

/-- A report as it is filed: with the tick, the readings and the number it gets (R219). -/
def State.filed (s : State) (r : Report) : Report :=
  { r with tick := s.tide.count, temp := Config.sampleTemp s.serial, volt := Config.sampleVolt s.serial, seq := s.ras.nextSeq }

theorem pushReport_ring_of_room {s : State} (h : s.ras.ring.length < ringSize) (r : Report) :
    (s.pushReport r).ras.ring = s.ras.ring ++ [s.filed r] := by
  simp only [State.pushReport, if_pos h, State.filed]

theorem pushReport_ring_of_full {s : State} (h : ringSize ≤ s.ras.ring.length) (r : Report) :
    (s.pushReport r).ras.ring = s.ras.ring.drop 1 ++ [s.filed r] := by
  simp only [State.pushReport, if_neg (Nat.not_lt.2 h), State.filed]

theorem pushReport_counter (s : State) (r : Report) (off : Nat) : (s.pushReport r).counter off = s.counter off := rfl

theorem raise_of_room {s : State} (h : s.ras.ring.length < ringSize) (r : Report) : s.raise r = s.pushReport r := if_pos h

theorem raise_of_full {s : State} (h : ringSize ≤ s.ras.ring.length) (r : Report) : s.raise r = (s.pushReport r).countLost :=
  if_neg (Nat.not_lt.2 h)

/-- A report that gives way is counted, with no report of its own while the count has room. -/
theorem countLost_of_below {s : State} (h : s.counter (ctrRas 5) + 1 < ctrMax) :
    s.countLost = { s with ctr := mset 0 s.ctr (ctrRas 5) (s.counter (ctrRas 5) + 1) } := by
  have hc : s.counter (ctrRas 5) ≠ ctrMax := by omega
  simp only [State.countLost, if_neg hc, if_neg (Nat.ne_of_lt h)]

/-- Raising a report changes nothing of the checker's record but the ring and the next number. -/
theorem raise_ras (s : State) (r : Report) : ∃ l q, (s.raise r).ras = { s.ras with ring := l, nextSeq := q } := by
  unfold State.raise
  dsimp only
  split
  · exact ⟨_, _, rfl⟩
  · unfold State.countLost
    dsimp only
    split
    · exact ⟨_, _, rfl⟩
    · split
      · exact ⟨_, _, rfl⟩
      · exact ⟨_, _, rfl⟩

/-- A report of any form that is raised is sent with its source, code, severity and unit. -/
theorem reported_of_raise (s : State) {r : Report} {source code severity : Nat} {unit : BitVec 16} (h1 : r.source = BitVec.ofNat 8 source)
    (h2 : r.code = BitVec.ofNat 8 code) (h3 : r.severity = BitVec.ofNat 8 severity) (h4 : r.unit = unit) :
    reported (s.raise r) source code severity unit :=
  (pushReport_raise_adds s r).reported ⟨s.filed r, List.mem_append_right _ (List.mem_singleton.2 rfl), h1, h2, h3, h4⟩

/-! Counters. -/

theorem counter_of_ctr {s t : State} (h : t.ctr = s.ctr) (off : Nat) : t.counter off = s.counter off := congrArg (fun m => mget 0 m off) h

/-- A count put where it belongs. -/
def State.setCounter (s : State) (off c : Nat) : State := { s with ctr := mset 0 s.ctr off c }

@[simp] theorem setCounter_counter_same (s : State) (off c : Nat) : (s.setCounter off c).counter off = c := mget_mset_same ..

theorem setCounter_adds (s : State) (off c : Nat) : Adds [.ctr] s (s.setCounter off c) :=
  adds_of_same rfl rfl (fun p => by cases p <;> simp [Part.same, State.setCounter])

theorem bump_of_max {s : State} {off : Nat} (h : s.counter off = ctrMax) (n : Nat) : s.bump off n = s := if_pos h

theorem bump_of_below {s : State} {off n : Nat} (h : s.counter off + n < ctrMax) :
    s.bump off n = s.setCounter off (s.counter off + n) := by
  have hc : s.counter off ≠ ctrMax := by omega
  have hm : min ctrMax (s.counter off + n) = s.counter off + n := by omega
  simp only [State.bump, if_neg hc, hm, if_neg (Nat.ne_of_lt h), State.setCounter]

theorem bump_of_reached {s : State} {off n : Nat} (hlt : s.counter off < ctrMax) (h : ctrMax ≤ s.counter off + n) :
    s.bump off n = (s.setCounter off ctrMax).raise (satReport off) := by
  simp only [State.bump, if_neg (Nat.ne_of_lt hlt), Nat.min_eq_left h, if_true, State.setCounter]

/-- Counting a lost report takes no other counter, nor one at its maximum, from where it stands. -/
theorem countLost_counter_of_max {s : State} {off : Nat} (h : s.counter off = ctrMax) : s.countLost.counter off = ctrMax := by
  unfold State.countLost
  dsimp only
  split
  · exact h
  next hc =>
    have hoff : off ≠ ctrRas 5 := fun e => hc (e ▸ h)
    have hset : (s.setCounter (ctrRas 5) (s.counter (ctrRas 5) + 1)).counter off = ctrMax :=
      (mget_mset_ne 0 s.ctr (Nat.succ_ne_zero _) hoff).trans h
    split
    · exact (pushReport_counter ..).trans hset
    · exact hset

theorem raise_counter_of_max {s : State} {off : Nat} (h : s.counter off = ctrMax) (r : Report) : (s.raise r).counter off = ctrMax := by
  unfold State.raise
  dsimp only
  split
  · exact h
  · exact countLost_counter_of_max h

/-- A counter adds the amount and stops at its maximum (R577). -/
theorem bump_counter {s : State} {off : Nat} (hlt : s.counter off < ctrMax) (n : Nat) :
    (s.bump off n).counter off = min ctrMax (s.counter off + n) := by
  by_cases h : s.counter off + n < ctrMax
  · rw [bump_of_below h, setCounter_counter_same, Nat.min_eq_right h.le]
  · rw [bump_of_reached hlt (Nat.not_lt.1 h), raise_counter_of_max (setCounter_counter_same ..), Nat.min_eq_left (Nat.not_lt.1 h)]

/-- Counting changes nothing of the checker's record but the report ring and its next number. -/
theorem tally_ras (s : State) (off : Nat) : ∃ l q, (s.tally off).ras = { s.ras with ring := l, nextSeq := q } := by
  unfold State.tally State.bump
  dsimp only
  split
  · exact ⟨_, _, rfl⟩
  · split
    · exact raise_ras ..
    · exact ⟨_, _, rfl⟩

/-- COUNT and SAT as a counter reads (R577). -/
theorem ctrValue_spec {n : Nat} (h : n ≤ ctrMax) :
    ((ctrValue n).getLsbD 48 = true ↔ n = ctrMax) ∧ (ctrValue n).toNat % 2 ^ 48 = n := by
  have hmax : ctrMax = 2 ^ 48 - 1 := by decide
  have hlt : n < 2 ^ 48 := by omega
  by_cases hn : n = ctrMax
  · subst hn
    decide
  · have hv : ctrValue n = BitVec.ofNat 64 n := by simp [ctrValue, hn]
    rw [hv]
    refine ⟨iff_of_false ?_ hn, ?_⟩
    · rw [BitVec.getLsbD_ofNat, Nat.testBit_lt_two_pow hlt, Bool.and_false]
      exact Bool.false_ne_true
    · rw [BitVec.toNat_ofNat]
      omega

/-! REPORT_READ. -/

/-- A meaning that a device has in a node-fatal state too is the command's effect, but for the ports of a fatal node. -/
theorem awake_next {i : Instr} {s u : State} {f : State → State} {ps : List Part} (hi : exec i s = .next (s.quiet.whenAwake f))
    (ha : s.awake = true) (hf : f s.quiet = u) (hu : Frame ps s.quiet u) (hp : Part.links ∈ ps) :
    exec i s = .next (s.quiet.settle u) ∧ Frame ps s (s.quiet.settle u) :=
  ⟨by rw [hi, whenAwake_of_awake (s := s.quiet) f ha, hf], settle_frame hu hp⟩

theorem reportRead_of_other_count {n : BitVec 16} (h : n.toNat = 0 ∨ 200 < n.toNat) (first : W32) (s : State) :
    reportRead first n s = s.reply 0x44#8 7 [] := if_pos h

theorem reportRead_of_count {n : BitVec 16} (h1 : 1 ≤ n.toNat) (h2 : n.toNat ≤ 200) (first : W32) (s : State) :
    reportRead first n s = s.reply 0x44#8 0
      (bytesOf ((s.ras.ring.head?.map (fun r => r.seq)).getD Config.emptyOldest) 4 ++ bytesOf (s.ras.nextSeq - 1#32) 4 ++
        ((s.ras.ring.filter (fun r => decide (first.toNat ≤ r.seq.toNat))).take n.toNat).flatMap reportBytes) :=
  if_neg (by omega)

theorem awake_reply {i : Instr} {s : State} {f : State → State} {code : BitVec 8} {result : Nat} {bytes : List Byte}
    (hi : exec i s = .next (s.quiet.whenAwake f)) (ha : s.awake = true) (hf : f s.quiet = s.quiet.reply code result bytes) :
    ∃ t, exec i s = .next t ∧ answered t code result bytes ∧ SameBut [.sec, .links] s t := by
  obtain ⟨hx, hF⟩ := awake_next hi ha hf ((reply_frame ..).mono (qs := [.sec, .links]) (by simp)) (by simp)
  exact ⟨_, hx, reply_answered .., hF.2⟩

/-- Settles O31: a report raised is `State.filed`, a counter is written up to its maximum (`bump_of_below`, `bump_of_reached`), and REPORT_READ
is one answer. -/
theorem reportsAndCounters : Obligations.ReportsAndCounters := by
  unfold Obligations.ReportsAndCounters
  refine ⟨fun s r h => ?_, fun s r h hlost => ?_, fun first n s ha => ⟨fun h1 h2 => ?_, fun h => ?_⟩, fun s off n h => bump_counter h n,
    fun s off n h => bump_of_max h n, fun s off n hlt h => ?_, fun n h => ctrValue_spec h⟩
  · rw [raise_of_room h]
    exact ⟨s.filed r, pushReport_ring_of_room h r, rfl, rfl, rfl, rfl, rfl, rfl, rfl, rfl, pushReport_frame s r⟩
  · have hframe := raise_frame s r
    rw [raise_of_full h, countLost_of_below (s := s.pushReport r) hlost] at hframe ⊢
    exact ⟨s.filed r, pushReport_ring_of_full h r, rfl, setCounter_counter_same (s.pushReport r) .., hframe⟩
  · obtain ⟨t, hx, hans, hsame⟩ := awake_reply (i := .reportRead first n) rfl ha (reportRead_of_count h1 h2 first s.quiet)
    exact ⟨t, _, hx, hans, rfl, hsame⟩
  · exact awake_reply (i := .reportRead first n) rfl ha (reportRead_of_other_count h first s.quiet)
  · rw [bump_of_reached hlt h]
    exact reported_raise ..

end Sys2Proof.Machine

/-! PROOFS. The check setting and the check blocks (R192 to R195, R613). -/

namespace Sys2Proof.Machine

/-! The setting. -/

theorem setFraction_of_listed {v : BitVec 3} (h : v.toNat ≤ 4) (s : State) :
    s.setFraction v = { s with ras := { s.ras with fraction := v, pendingFraction := v != s.ras.active, fractionAge := 0 } } :=
  if_neg (Nat.not_lt.2 h)

theorem setFraction_of_reserved {v : BitVec 3} (h : 4 < v.toNat) (s : State) : s.setFraction v = s := if_pos h

/-- The check blocks that the written setting asks for: the first online ones of R193's order. -/
def State.blocksAsked (s : State) : List BlockId := (checkOrder.filter s.blockOnline).take (checkCount s.ras.fraction)

/-- The written setting in force, with its check blocks; those that are none any more leave as their checks end. -/
def State.fractionInForce (s : State) : State :=
  ({ s with ras := { s.ras with
      active := s.ras.fraction, pendingFraction := false, checkBlocks := s.blocksAsked,
      leaving := (s.ras.leaving ++ s.ras.checkBlocks.filter (fun b => !s.blocksAsked.contains b)).filter
        (fun b => !s.blocksAsked.contains b) } } : State).fixLeaving.fixShort

theorem checkFractionApply_of_pending {s : State} (hp : s.ras.pendingFraction = true) :
    checkFractionApply s =
      if s.ras.fractionAge = 0 then s
      else if ∃ b ∈ s.blocksAsked, b ∉ s.ras.checkBlocks ∧ s.boundBlock b = true then s
      else s.fractionInForce := by
  have hbound : (s.blocksAsked.filter (fun b => !s.ras.checkBlocks.contains b)).any s.boundBlock = true ↔
      ∃ b ∈ s.blocksAsked, b ∉ s.ras.checkBlocks ∧ s.boundBlock b = true := by
    simp [List.any_eq_true]
  have hcases : checkFractionApply s =
      if (s.ras.fractionAge == 0) = true then s
      else if (s.blocksAsked.filter (fun b => !s.ras.checkBlocks.contains b)).any s.boundBlock = true then s
      else s.fractionInForce := by
    simp only [checkFractionApply, hp, Bool.not_true, Bool.false_or]
    rfl
  simp only [hcases, beq_iff_eq, hbound]

theorem fractionInForce_adds (s : State) : Adds [.ras] s s.fractionInForce := adds_ras s _

/-- The blocks asked for are all online, so SHORT tells whether they are as many as the setting needs. -/
theorem fractionInForce_short (s : State) :
    s.fractionInForce.ras.short = true ↔ s.fractionInForce.ras.checkBlocks.length < checkCount s.fractionInForce.ras.active := by
  have hon : s.blocksAsked.filter s.blockOnline = s.blocksAsked :=
    List.filter_eq_self.2 (fun b hb => (List.mem_filter.1 (List.mem_of_mem_take hb)).2)
  show decide ((s.blocksAsked.filter s.blockOnline).length < checkCount s.ras.fraction) = true ↔
    s.blocksAsked.length < checkCount s.ras.fraction
  rw [hon, decide_eq_true_iff]

/-- A block that is no check block any more and holds a check is leaving (R194). -/
theorem fractionInForce_leaving {s : State} {b : BlockId} (h : b ∈ s.ras.checkBlocks) (hn : b ∉ s.blocksAsked)
    (hc : ∃ e, e ∈ s.ras.checks ∧ blockOf e.2.checkCell = b) : b ∈ s.fractionInForce.ras.leaving := by
  obtain ⟨e, he, heb⟩ := hc
  have hout : (!s.blocksAsked.contains b) = true := by simpa using hn
  refine List.mem_filter.2 ⟨List.mem_filter.2 ⟨List.mem_append_right _ (List.mem_filter.2 ⟨h, hout⟩), hout⟩, ?_⟩
  exact List.any_eq_true.2 ⟨e, he, by simp [heb]⟩

/-! The replacement of a check block. -/

/-- Check block old has given way to new. -/
def State.blockReplaced (s : State) (old new : BlockId) : State :=
  ({ s with ras := { s.ras with
      checkBlocks := checkOrder.filter (fun b => b == new || (b != old && s.ras.checkBlocks.contains b)),
      leaving := s.ras.leaving.erase new } } : State).fixShort

theorem checkBlockReplace_of_found {s : State} {old new : BlockId}
    (ho : s.ras.checkBlocks.find? (fun b => !s.blockOnline b && !s.leftNow b) = some old)
    (hn : checkOrder.find? (fun b => s.blockOnline b && !s.ras.checkBlocks.contains b) = some new) (hb : s.boundBlock new = false) :
    checkBlockReplace s = s.blockReplaced old new := by
  simp only [checkBlockReplace, ho, hn, hb, Bool.false_eq_true, if_false, State.blockReplaced]

theorem blockReplaced_adds (s : State) (old new : BlockId) : Adds [.ras] s (s.blockReplaced old new) := adds_ras s _

theorem mem_blockReplaced {s : State} {old new b : BlockId} :
    b ∈ (s.blockReplaced old new).ras.checkBlocks ↔ b ∈ checkOrder ∧ (b = new ∨ b ≠ old ∧ b ∈ s.ras.checkBlocks) := by
  show b ∈ checkOrder.filter (fun b => b == new || (b != old && s.ras.checkBlocks.contains b)) ↔ _
  simp [List.mem_filter]

/-- Settles O28: a pending setting waits or is `State.fractionInForce`, and a check block gives way as `State.blockReplaced` says. -/
theorem checkSettingAndBlocks : Obligations.CheckSettingAndBlocks := by
  unfold Obligations.CheckSettingAndBlocks
  refine ⟨fun v s hl hv => ?_, fun v p s hl => ⟨fun hv => ?_, ?_⟩, fun s hl hp => ⟨fun hage => ?_, fun hage hfree => ?_,
    fun b hb hnew hbound => ?_⟩, fun old new s hl hold hnew hfree => ?_⟩
  · obtain ⟨hx, hF⟩ := live_next_frame (i := .checkFractionWrite .mgmt v) rfl hl (setFraction_of_listed hv s.quiet)
      (adds_ras ..).1 (by decide)
    exact ⟨_, hx, rfl, hF⟩
  · exact live_idles (c := .checkFractionWrite .mgmt v) rfl hl (setFraction_of_reserved hv s.quiet)
  · exact live_idles (c := .checkFractionWrite (.window p) v) rfl hl rfl
  · exact live_idles (c := .checkFractionApply) rfl hl ((checkFractionApply_of_pending (s := s.quiet) hp).trans (if_pos hage))
  · have hnone : ¬ ∃ b ∈ s.quiet.blocksAsked, b ∉ s.quiet.ras.checkBlocks ∧ s.quiet.boundBlock b = true := by
      rintro ⟨b, hb, hnew, hbound⟩
      exact Bool.noConfusion ((hfree b hb hnew).symm.trans hbound)
    have hpast : s.quiet.ras.fractionAge ≠ 0 := Nat.pos_iff_ne_zero.1 hage
    have happly : checkFractionApply s.quiet = s.quiet.fractionInForce := by
      rw [checkFractionApply_of_pending (s := s.quiet) hp, if_neg hpast, if_neg hnone]
    obtain ⟨hx, hF⟩ := live_next_frame (i := .checkFractionApply) rfl hl happly (fractionInForce_adds _).1 (by decide)
    exact ⟨_, hx, hF, rfl, rfl, rfl, rfl, fractionInForce_short s.quiet,
      fun b hb hout hc => fractionInForce_leaving (s := s.quiet) hb hout hc⟩
  · have hwaits : checkFractionApply s.quiet = s.quiet := by
      rw [checkFractionApply_of_pending (s := s.quiet) hp, if_pos (⟨b, hb, hnew, hbound⟩ : ∃ b ∈ s.quiet.blocksAsked, _), ite_self]
    exact live_idles (c := .checkFractionApply) rfl hl hwaits
  · obtain ⟨hx, hF⟩ := live_next_frame (i := .checkBlockReplace) rfl hl (checkBlockReplace_of_found (s := s.quiet) hold hnew hfree)
      (blockReplaced_adds ..).1 (by decide)
    have hout : new ∉ s.ras.checkBlocks := by
      have hcan := List.find?_some hnew
      simpa using (Bool.and_eq_true_iff.1 hcan).2
    have hne : old ≠ new := fun e => hout (e ▸ List.mem_of_find?_eq_some hold)
    refine ⟨_, hx, hF, mem_blockReplaced.2 ⟨List.mem_of_find?_eq_some hnew, .inl rfl⟩, fun h => ?_, fun b hbn hbo hb => ?_⟩
    · exact (mem_blockReplaced.1 h).2.elim hne (fun h => h.1 rfl)
    · rw [mem_blockReplaced]
      exact ⟨fun h => (h.2.resolve_left hbn).2, fun h => ⟨hb, .inr ⟨hbo, h⟩⟩⟩

end Sys2Proof.Machine

/-! PROOFS. Checks and their votes (R197 to R206): footprints, agreement, the third cell's vote, residue failures. -/

namespace Sys2Proof.Machine

/-! Checks under their numbers. -/

theorem modCheck_adds (s : State) (k : Nat) (f : Check → Check) : Adds [.ras] s (s.modCheck k f) := adds_ras s _

theorem modCheck_check {s : State} {k : Nat} {c : Check} (h : tget s.ras.checks k = some c) (f : Check → Check) :
    tget (s.modCheck k f).ras.checks k = some (f c) := tget_tmod_of_some h f

theorem dropCheck_check (s : State) (k : Nat) : tget (s.dropCheck k).ras.checks k = none := by
  unfold State.dropCheck
  split
  · assumption
  · exact tget_tdel_same ..

theorem checkReport_adds (s : State) (code severity : Nat) (k : Check) (unit unit2 : BitVec 16) :
    Adds [.ras, .ctr, .serial] s (s.checkReport code severity k unit unit2) := raise_adds s _

/-- Naming a report's operation leaves its source, code, severity and unit. -/
theorem reportOp_keeps (s : State) (n : Nat) (r : Report) :
    (s.reportOp n r).source = r.source ∧ (s.reportOp n r).code = r.code ∧ (s.reportOp n r).severity = r.severity ∧
    (s.reportOp n r).unit = r.unit := by
  unfold State.reportOp
  split
  · exact ⟨rfl, rfl, rfl, rfl⟩
  · split <;> exact ⟨rfl, rfl, rfl, rfl⟩

theorem checkReport_reported (s : State) (code severity : Nat) (k : Check) (unit unit2 : BitVec 16) :
    reported (s.checkReport code severity k unit unit2) 0x01 code severity unit := by
  obtain ⟨hsource, hcode, hseverity, hunit⟩ := reportOp_keeps s k.op { mkReport 0x01 code severity unit 0 0 with
    unit2 := unit2, detail0 := k.tile.setWidth 64, detail1 := ((k.sigOrigin.getD 0#128).extractLsb' 0 64) }
  exact reported_of_raise s hsource hcode hseverity hunit

/-! Footprints. -/

theorem copyFootprint_adds (s : State) (gs : List Range) (t : Tenant) (a b : CellId) : Adds [.fab] s (s.copyFootprint gs t a b) :=
  setCell_adds s b _

theorem copyFootprint_scratch (s : State) (gs : List Range) (t : Tenant) (a b : CellId) :
    ((s.copyFootprint gs t a b).cell b).scratch =
      gs.foldl (fun m g => putWrapped m scratchBytes g.1 ((s.cell a).bytesAt g.1 g.2)) (zeroCell (s.cell b) t).scratch := by
  rw [State.copyFootprint, setCell_cell_same]

/-- A check's footprint has gone from cell a to cell b. -/
def State.footprintCopied (s : State) (k : Nat) (c : Check) (a b : CellId) : State :=
  (s.copyFootprint c.footprint (s.checkTenant c) a b).modCheck k (fun x => { x with copied := true })

section
variable {s : State} {k : Nat} {c : Check} (hk : tget s.ras.checks k = some c) (hc : c.copied = false)
  (hi : s.cellIssues (c.third.getD c.checkCell) = true)
include hk hc hi

theorem footprintCopyDone_to_check (h : c.third = none) : footprintCopyDone k s = s.footprintCopied k c c.origin c.checkCell := by
  rw [h] at hi
  simp only [footprintCopyDone, hk, hc, h, hi, Bool.not_true, Bool.or_self, Bool.false_eq_true, if_false, State.footprintCopied]

theorem footprintCopyDone_to_third {y : CellId} (h : c.third = some y) :
    footprintCopyDone k s = s.footprintCopied k c c.checkCell y := by
  rw [h] at hi
  simp only [footprintCopyDone, hk, hc, h, hi, Bool.not_true, Bool.or_self, Bool.false_eq_true, if_false, State.footprintCopied]

end

theorem footprintCopied_adds (s : State) (k : Nat) (c : Check) (a b : CellId) : Adds [.fab, .ras] s (s.footprintCopied k c a b) :=
  ((copyFootprint_adds ..).mono (by simp)).trans ((modCheck_adds ..).mono (by simp))

theorem footprintCopied_check {s : State} {k : Nat} {c : Check} (hk : tget s.ras.checks k = some c) (a b : CellId) :
    tget (s.footprintCopied k c a b).ras.checks k = some { c with copied := true } := by
  rw [State.footprintCopied]
  refine modCheck_check ?_ _
  exact hk

theorem footprintCopied_scratch (s : State) (k : Nat) (c : Check) (a b : CellId) :
    ((s.footprintCopied k c a b).cell b).scratch = c.footprint.foldl
      (fun m g => putWrapped m scratchBytes g.1 ((s.cell a).bytesAt g.1 g.2)) (zeroCell (s.cell b) (s.checkTenant c)).scratch := by
  rw [← copyFootprint_scratch]
  rfl

/-! The check cell's signature. -/

/-- Check c, under number k, has its footprint in the check cell, which may run the tile again. -/
structure CheckRuns (s : State) (k : Nat) (c : Check) : Prop where
  held : tget s.ras.checks k = some c
  copied : c.copied = true
  third : c.third = none
  issues : s.cellIssues c.checkCell = true

/-- A check has ended and is counted. -/
def State.checkOver (s : State) (k : Nat) : State := (s.dropCheck k).tally (ctrRas 0)

section
variable {s : State} {k : Nat} {c : Check} {flip : BitVec 128}

theorem checkExecuteDone_agrees (h : CheckRuns s k c) (hs : c.sigOrigin = some (s.checkSig c c.checkCell flip)) (ho : c.originOut = false)
    (third : Option CellId) : checkExecuteDone k flip third s = s.checkOver k := by
  simp [checkExecuteDone, h.held, h.copied, h.third, h.issues, hs, ho, State.checkOver]

theorem checkExecuteDone_disagrees (h : CheckRuns s k c)
    (hs : (c.sigOrigin ≠ none ∧ c.sigOrigin ≠ some (s.checkSig c c.checkCell flip)) ∨ c.originOut = true) {y : CellId}
    (hf : s.thirdFree c y = true) :
    checkExecuteDone k flip (some y) s = (s.tally (ctrRas 1)).modCheck k
      (fun x => { x with sigCheck := some (s.checkSig c c.checkCell flip), third := some y, copied := false }) := by
  rcases hs with ⟨hsome, hne⟩ | ho
  · simp [checkExecuteDone, h.held, h.copied, h.third, h.issues, hsome, hne, hf]
  · simp [checkExecuteDone, h.held, h.copied, h.third, h.issues, ho, hf]

/-- A check that ends while its counter has room is gone and counted, with no report. -/
theorem checkOver_spec (h : s.counter (ctrRas 0) + 1 < ctrMax) :
    tget (s.checkOver k).ras.checks k = none ∧ (s.checkOver k).counter (ctrRas 0) = s.counter (ctrRas 0) + 1 ∧
    Frame [.fab, .ras, .ctr] s (s.checkOver k) := by
  have hctr : (s.dropCheck k).counter (ctrRas 0) = s.counter (ctrRas 0) :=
    counter_of_ctr ((dropCheck_adds s k).same .ctr (by decide)) _
  have hover : s.checkOver k = (s.dropCheck k).setCounter (ctrRas 0) (s.counter (ctrRas 0) + 1) := by
    rw [State.checkOver, State.tally, bump_of_below (by rw [hctr]; exact h), hctr]
  rw [hover]
  exact ⟨dropCheck_check s k, setCounter_counter_same .., ((dropCheck_adds s k).1.mono (by simp)).trans
    ((setCounter_adds ..).1.mono (by simp))⟩

end

/-! What a fault does to its unit, online or not. -/

theorem cellOnline_of_health {s t : State} (h : t.health = s.health) (c : CellId) : t.cellOnline c = s.cellOnline c := by
  simp only [State.cellOnline, State.blockOnline, blk_of_health h]

theorem blockOnline_of_health {s t : State} (h : t.health = s.health) (b : BlockId) : t.blockOnline b = s.blockOnline b := by
  simp only [State.blockOnline, blk_of_health h]

/-- A faulty cell is out of service, whether it was before or not, and what had been sent stays sent. -/
theorem fenceCell_spec (s : State) (c : CellId) (f : FaultCause) :
    (s.fenceCell c f).cellOnline c = false ∧
    Adds [.arb, .health, .remap, .fab, .ras, .ctr, .xlt, .dbg, .links, .serial] s (s.fenceCell c f) := by
  cases h : s.cellOnline c with
  | true =>
    obtain ⟨hfenced, -, -, -, -, hadds⟩ := fenceCell_contains h f
    exact ⟨cellOnline_of_fenced hfenced, hadds⟩
  | false =>
    simp only [State.fenceCell, h, Bool.not_false, if_true]
    split
    · have hadds := contained_adds s 1 1 (unitCell c)
      exact ⟨(cellOnline_of_health (hadds.same .health (by decide)) c).trans h, hadds.mono (by simp)⟩
    · exact ⟨h, Adds.rfl s⟩

/-- A faulty block is out of service, whether it was before or not, and what had been sent stays sent. -/
theorem blockFault_spec (s : State) (b : BlockId) (f : FaultCause) :
    (s.blockFault b f).blockOnline b = false ∧
    Adds [.arb, .health, .remap, .fab, .ras, .ctr, .xlt, .dbg, .links, .serial] s (s.blockFault b f) := by
  cases h : s.blockOnline b with
  | true =>
    obtain ⟨hoff, -, -, -, -, -, -, hadds⟩ := blockFault_contains h f
    exact ⟨blockOnline_of_blockOffline hoff, hadds⟩
  | false =>
    simp only [State.blockFault, h, Bool.false_eq_true, if_false]
    split
    · have hadds := contained_adds s 2 1 (unitBlock b)
      exact ⟨(blockOnline_of_health (hadds.same .health (by decide)) b).trans h, hadds.mono (by simp)⟩
    · exact ⟨h, Adds.rfl s⟩

/-! The third cell's vote. -/

/-- Check c, under number k, has its footprint in the third cell y, which may run the tile again. -/
structure ThirdRuns (s : State) (k : Nat) (c : Check) (y : CellId) : Prop where
  held : tget s.ras.checks k = some c
  copied : c.copied = true
  third : c.third = some y
  issues : s.cellIssues y = true

section
variable {s : State} {k : Nat} {c : Check} {y : CellId} {flip : BitVec 128} (h : ThirdRuns s k c y)
include h

/-- The origin is the minority, and a residue failure had stopped its tile. -/
theorem thirdExecuteDone_residue (hs : c.sigCheck = some (s.checkSig c y flip)) (hr : c.residue = true) :
    thirdExecuteDone k flip s = ((s.checkOver k).forceCheck c).fenceCell c.origin .voteMinority := by
  simp [thirdExecuteDone, h.held, h.copied, h.third, h.issues, hs, hr, State.checkOver]

theorem thirdExecuteDone_origin (hs : c.sigCheck = some (s.checkSig c y flip)) (hr : c.residue = false) :
    thirdExecuteDone k flip s = ((((s.checkOver k).setCause c.op .disagree).checkReport 1 1 c (unitCell c.origin)
      (unitCell c.checkCell)).fenceCell c.origin .voteMinority) := by
  simp [thirdExecuteDone, h.held, h.copied, h.third, h.issues, hs, hr, State.checkOver]

theorem thirdExecuteDone_checkCell (hs : c.sigCheck ≠ some (s.checkSig c y flip)) (ho : c.sigOrigin = some (s.checkSig c y flip))
    (hout : c.originOut = false) :
    thirdExecuteDone k flip s = ((s.checkOver k).checkReport 2 1 c (unitCell c.origin) (unitCell c.checkCell)).fenceCell
      c.checkCell .voteMinority := by
  simp [thirdExecuteDone, h.held, h.copied, h.third, h.issues, hs, ho, hout, State.checkOver]

theorem thirdExecuteDone_threeWay (hs : c.sigCheck ≠ some (s.checkSig c y flip))
    (ho : c.sigOrigin ≠ some (s.checkSig c y flip) ∨ c.originOut = true) :
    thirdExecuteDone k flip s = (((s.checkOver k).setCause c.op .threeWay).checkReport 3 2 c (unitCell c.origin)
      (unitCell c.checkCell)).blockFault (blockOf c.origin) .threeWay := by
  rcases ho with ho | ho <;> simp [thirdExecuteDone, h.held, h.copied, h.third, h.issues, hs, ho, State.checkOver]

end

/-! What the vote takes out of service, after its report. -/

section
variable {s : State} {k : Nat} {c : Check} {y : CellId} {flip : BitVec 128} (h : ThirdRuns s k c y)
include h

theorem thirdExecuteDone_fences_origin (hs : c.sigCheck = some (s.checkSig c y flip)) :
    (thirdExecuteDone k flip s).cellOnline c.origin = false ∧
    (c.residue = false → reported (thirdExecuteDone k flip s) 0x01 1 1 (unitCell c.origin)) := by
  cases hr : c.residue with
  | true =>
    rw [thirdExecuteDone_residue h hs hr]
    exact ⟨(fenceCell_spec ..).1, fun hf => Bool.noConfusion hf⟩
  | false =>
    rw [thirdExecuteDone_origin h hs hr]
    exact ⟨(fenceCell_spec ..).1, fun _ => (fenceCell_spec ..).2.reported (checkReport_reported ..)⟩

theorem thirdExecuteDone_fences_checkCell (hs : c.sigCheck ≠ some (s.checkSig c y flip))
    (ho : c.sigOrigin = some (s.checkSig c y flip)) (hout : c.originOut = false) :
    (thirdExecuteDone k flip s).cellOnline c.checkCell = false ∧
    reported (thirdExecuteDone k flip s) 0x01 2 1 (unitCell c.origin) := by
  rw [thirdExecuteDone_checkCell h hs ho hout]
  exact ⟨(fenceCell_spec ..).1, (fenceCell_spec ..).2.reported (checkReport_reported ..)⟩

theorem thirdExecuteDone_takes_block (hs : c.sigCheck ≠ some (s.checkSig c y flip))
    (ho : c.sigOrigin ≠ some (s.checkSig c y flip) ∨ c.originOut = true) :
    (thirdExecuteDone k flip s).blockOnline (blockOf c.origin) = false ∧
    reported (thirdExecuteDone k flip s) 0x01 3 2 (unitCell c.origin) := by
  rw [thirdExecuteDone_threeWay h hs ho]
  exact ⟨(blockFault_spec ..).1, (blockFault_spec ..).2.reported (checkReport_reported ..)⟩

end

/-! Residue failures. -/

/-- A cell whose tile t, which has no check, is stopped. -/
def Cell.tileStopped (x : Cell) (t : Tile) : Cell := { x with tile := some { t with stopped := true, check := none } }

/-- Tile t of cell c, which has no check, is stopped; the failure is counted. -/
def State.laneStopped (s : State) (c : CellId) (t : Tile) : State :=
  ((s.setCell c ((s.cell c).tileStopped t)).tally (ctrRas 2)).setCell c ((s.cell c).tileStopped t)

theorem laneStopped_adds (s : State) (c : CellId) (t : Tile) : Adds [.fab, .ras, .ctr, .serial] s (s.laneStopped c t) :=
  ((setCell_adds ..).mono (by simp)).trans (((tally_adds ..).mono (by simp)).trans ((setCell_adds ..).mono (by simp)))

theorem laneStopped_cell (s : State) (c : CellId) (t : Tile) : (s.laneStopped c t).cell c = (s.cell c).tileStopped t :=
  setCell_cell_same ..

theorem laneStopped_run (s : State) (c : CellId) (t : Tile) (n : Nat) : (s.laneStopped c t).run n = s.run n :=
  run_of_fab ((tally_adds (s.setCell c ((s.cell c).tileStopped t)) (ctrRas 2)).same .fab (by decide)) n

theorem laneStopped_ras (s : State) (c : CellId) (t : Tile) :
    ∃ l q, (s.laneStopped c t).ras = { s.ras with ring := l, nextSeq := q } :=
  tally_ras (s.setCell c ((s.cell c).tileStopped t)) (ctrRas 2)

theorem laneStopped_checkCellFree (s : State) (c : CellId) (t : Tile) (k : CellId) :
    (s.laneStopped c t).checkCellFree k = s.checkCellFree k := by
  obtain ⟨l, q, hras⟩ := laneStopped_ras s c t
  simp only [State.checkCellFree, cellOnline_of_health ((laneStopped_adds s c t).same .health (by decide)), hras]

/-- The check of a stopped tile t of run r on cell c, in cell k: the origin counts as differing (R206). -/
def State.stoppedCheck (s : State) (t : Tile) (r : Run) (c k : CellId) : Check :=
  { s.newCheck t r c k with originOut := true, residue := true }

/-- A stopped tile with a check under the next number. -/
def State.stoppedChecked (s : State) (t : Tile) (r : Run) (c k : CellId) : State :=
  let s1 := s.setCell c { s.cell c with tile := some { t with check := some s.ras.nextCheck } }
  { s1 with ras := { s1.ras with nextCheck := s.ras.nextCheck + 1,
                                 checks := tput s1.ras.checks s.ras.nextCheck (s.stoppedCheck t r c k) } }

theorem checkStopped_of_free {s : State} {c k : CellId} {t : Tile} {r : Run} (ht : (s.cell c).tile = some t) (hr : s.run t.run = some r)
    (hs : t.stopped = true) (hc : t.check = none) (hk : s.checkCellFree k = true) (hb : blockOf k ≠ blockOf c) :
    s.checkStopped c k = s.stoppedChecked t r c k := by
  have hgo : (!t.stopped || t.check.isSome || !s.checkCellFree k || blockOf k == blockOf c) = false := by simp [hs, hc, hk, hb]
  simp only [State.checkStopped, ht, hr, hgo, Bool.false_eq_true, if_false]
  rfl

theorem stoppedChecked_adds (s : State) (t : Tile) (r : Run) (c k : CellId) : Adds [.fab, .ras] s (s.stoppedChecked t r c k) :=
  ((setCell_adds ..).mono (by simp)).trans ((adds_ras ..).mono (by simp))

theorem stoppedChecked_tile (s : State) (t : Tile) (r : Run) (c k : CellId) :
    ((s.stoppedChecked t r c k).cell c).tile = some { t with check := some s.ras.nextCheck } :=
  congrArg Cell.tile (setCell_cell_same s c { s.cell c with tile := some { t with check := some s.ras.nextCheck } })

theorem stoppedChecked_check (s : State) (t : Tile) (r : Run) (c k : CellId) :
    tget (s.stoppedChecked t r c k).ras.checks s.ras.nextCheck = some (s.stoppedCheck t r c k) := tget_tput_same ..

/-- Tile t of run r on cell c, without a check, runs a figure that carries a residue check, and cell k may take a check of it. -/
structure LaneFails (s : State) (c k : CellId) (t : Tile) (r : Run) : Prop where
  tile : (s.cell c).tile = some t
  checks : s.ras.active ≠ 0#3
  goesOn : t.stopped = false
  run : s.run t.run = some r
  figure : t.fig < imgFigCount (s.runImage r)
  residue : ((s.cell c).nextFig t).residue = true
  unchecked : t.check = none
  free : s.checkCellFree k = true
  apart : blockOf k ≠ blockOf c

/-- The failure stops the tile, gives it a check and is reported. -/
theorem residueFailLane_of_unchecked {s : State} {c k : CellId} {t : Tile} {r : Run} (h : LaneFails s c k t r) :
    ∃ y u, residueFailLane c k s =
      ((s.laneStopped c t).stoppedChecked { t with stopped := true, check := none } r c k).checkReport 4 1 y (unitCell c) u := by
  have hstopped : (s.laneStopped c t).checkStopped c k =
      (s.laneStopped c t).stoppedChecked { t with stopped := true, check := none } r c k :=
    checkStopped_of_free (congrArg Cell.tile (laneStopped_cell s c t)) ((laneStopped_run s c t t.run).trans h.run) rfl rfl
      ((laneStopped_checkCellFree s c t k).trans h.free) h.apart
  rw [← hstopped]
  simp only [residueFailLane, h.tile, if_neg h.checks, h.goesOn, h.run, Nat.not_le.2 h.figure, h.residue, h.unchecked, Bool.not_true,
    Bool.false_eq_true, or_self, if_false, Option.bind_none]
  exact ⟨_, _, rfl⟩

/-- What a residue failure leaves: the tile stopped, its check, which counts the origin as differing, and its report (R205, R206). -/
theorem residueFailLane_spec {s : State} {c k : CellId} {t : Tile} {r : Run} (h : LaneFails s c k t r) :
    ((residueFailLane c k s).cell c).tile = some { t with stopped := true, check := some s.ras.nextCheck } ∧
    (∃ y, tget (residueFailLane c k s).ras.checks s.ras.nextCheck = some y ∧ y.origin = c ∧ y.checkCell = k ∧ y.originOut = true ∧
      y.residue = true ∧ y.copied = false) ∧
    reported (residueFailLane c k s) 0x01 4 1 (unitCell c) ∧ Frame [.fab, .ras, .ctr, .serial] s (residueFailLane c k s) := by
  obtain ⟨y, u, heq⟩ := residueFailLane_of_unchecked h
  have hstopped := laneStopped_adds s c t
  have hnext : (s.laneStopped c t).ras.nextCheck = s.ras.nextCheck := by
    obtain ⟨l, q, hras⟩ := laneStopped_ras s c t
    rw [hras]
  rw [heq]
  generalize s.laneStopped c t = s1 at hstopped hnext ⊢
  have hchecked := stoppedChecked_adds s1 { t with stopped := true, check := none } r c k
  have htile := stoppedChecked_tile s1 { t with stopped := true, check := none } r c k
  have hcheck := stoppedChecked_check s1 { t with stopped := true, check := none } r c k
  rw [hnext] at htile hcheck
  generalize s1.stoppedChecked { t with stopped := true, check := none } r c k = s2 at hchecked htile hcheck ⊢
  have hreport := checkReport_adds s2 4 1 y (unitCell c) u
  have hchecks : (s2.checkReport 4 1 y (unitCell c) u).ras.checks = s2.ras.checks := raise_checks ..
  exact ⟨(congrArg Cell.tile (cell_of_fab (hreport.same .fab (by decide)) c)).trans htile,
    ⟨_, hchecks ▸ hcheck, rfl, rfl, rfl, rfl, rfl⟩, checkReport_reported ..,
    ((hstopped.trans (hchecked.mono (by simp))).trans (hreport.mono (by simp))).1⟩

/-- Settles O29: each command of a check is one of the equations above; a vote ends in a fence or in a block's fault (`fenceCell_spec`,
`blockFault_spec`), which keep the report sent before them. -/
theorem checksVote : Obligations.ChecksVote := by
  unfold Obligations.ChecksVote
  refine ⟨fun k c s hl hk hc hi => ?_, fun k c sig flip s hl hk hc hthird hi hsig => ?_, fun k c y sig flip s hl hk hc hthird hi hsig => ?_,
    fun c k tl r s hl ht ha hs hr hf hres hu hk hb => ?_⟩
  · split
    next hthird =>
      obtain ⟨hx, hF⟩ := live_next_frame (i := .footprintCopyDone k) rfl hl (footprintCopyDone_to_check (s := s.quiet) hk hc hi hthird)
        (footprintCopied_adds ..).1 (by decide)
      exact ⟨_, _, hx, hF, footprintCopied_check (s := s.quiet) hk .., rfl, footprintCopied_scratch s.quiet k c ..⟩
    next y hthird =>
      obtain ⟨hx, hF⟩ := live_next_frame (i := .footprintCopyDone k) rfl hl (footprintCopyDone_to_third (s := s.quiet) hk hc hi hthird)
        (footprintCopied_adds ..).1 (by decide)
      exact ⟨_, _, hx, hF, footprintCopied_check (s := s.quiet) hk .., rfl, footprintCopied_scratch s.quiet k c ..⟩
  · subst hsig
    have hruns : CheckRuns s.quiet k c := ⟨hk, hc, hthird, hi⟩
    refine ⟨fun third hs ho hroom => ?_, fun y hs hfree => ?_⟩
    · obtain ⟨hnone, hcount, hframe⟩ := checkOver_spec (s := s.quiet) (k := k) (Nat.add_lt_of_lt_sub hroom)
      obtain ⟨hx, hF⟩ := live_next_frame (i := .checkExecuteDone k flip third) rfl hl (checkExecuteDone_agrees hruns hs ho third) hframe
        (by decide)
      exact ⟨_, hx, hnone, hcount, hF⟩
    · have hheld : tget (s.quiet.tally (ctrRas 1)).ras.checks k = some c := by rw [tally_checks]; exact hk
      obtain ⟨hx, hF⟩ := live_next_frame (i := .checkExecuteDone k flip (some y)) rfl hl (checkExecuteDone_disagrees hruns hs hfree)
        ((tally_frame ..).trans ((modCheck_adds ..).1.mono (by simp))) (by decide)
      exact ⟨_, hx, modCheck_check hheld _, hF⟩
  · subst hsig
    have hruns : ThirdRuns s.quiet k c y := ⟨hk, hc, hthird, hi⟩
    have hx := live_next (i := .thirdExecuteDone k flip) rfl hl (Eq.refl (thirdExecuteDone k flip s.quiet))
    exact ⟨fun hs => ⟨_, hx, thirdExecuteDone_fences_origin hruns hs⟩,
      fun hs ho hout => ⟨_, hx, thirdExecuteDone_fences_checkCell hruns hs ho hout⟩,
      fun hs ho => ⟨_, hx, thirdExecuteDone_takes_block hruns hs ho⟩⟩
  · have hfails : LaneFails s.quiet c k tl r := ⟨ht, ha, hs, hr, hf, hres, hu, hk, hb⟩
    obtain ⟨htile, ⟨y, hy, horigin, hcell, hout, hres, hcopied⟩, hrep, hframe⟩ := residueFailLane_spec hfails
    obtain ⟨hx, hF⟩ := live_next_frame (i := .residueFailLane c k) rfl hl (Eq.refl (residueFailLane c k s.quiet)) hframe (by decide)
    exact ⟨_, y, hx, htile, hy, horigin, hcell, hout, hres, hcopied, hrep, hF⟩

end Sys2Proof.Machine

/-! PROOFS. Verdicts (R209 to R215): what the issue of one leaves, and when each of the four commands issues one. -/

namespace Sys2Proof.Machine

/-! The record of a verdict. -/

/-- The record that carries a verdict: the completion record that waited for it, one of CHECK_FATAL after a FATAL, or a verdict record. -/
def VerdictWait.verdictRec (v : VerdictWait) (o : Outcome3) (c : Option VCause) : Rec :=
  match v.record with
  | some r => { r with outcome := some o, cause := c, status := if o = .fatal then stCheckFatal else r.status }
  | none =>
    { value := 0#64, csn := v.csn, tileStatus := 0#16, cmdId := v.cmdId, status := 0#8, outcome := some o, cause := c,
      verdict := true, held := none, intr := v.intr }

theorem verdictRec_spec (v : VerdictWait) (o : Outcome3) (c : Option VCause) :
    (v.verdictRec o c).outcome = some o ∧ (v.verdictRec o c).cause = c ∧
    (v.record = none → (v.verdictRec o c).csn = v.csn ∧ (v.verdictRec o c).verdict = true) ∧
    (o = .fatal → v.record ≠ none → (v.verdictRec o c).status = stCheckFatal) := by
  unfold VerdictWait.verdictRec
  split
  next r hr => exact ⟨rfl, rfl, fun h => (nomatch hr.symm.trans h), fun ho _ => if_pos ho⟩
  next hr => exact ⟨rfl, rfl, fun _ => ⟨rfl, rfl⟩, fun _ h => absurd hr h⟩

/-- In strict mode with no completion record held back there would be no record to carry the verdict. -/
theorem verdictRecord_eq {v : VerdictWait} (h : v.record = none → v.strict = false) (s : State) (o : Outcome3) (c : Option VCause) :
    s.verdictRecord v o c = s.queueRec v.qp (v.verdictRec o c) := by
  unfold State.verdictRecord VerdictWait.verdictRec
  cases hr : v.record with
  | some r => rfl
  | none =>
    rw [h hr]
    rfl

theorem queueRec_of_kept {s : State} {q : Qp} {x : QPair} (hq : s.qp q = some x) (hx : x.drops = false) (r : Rec) :
    s.queueRec q r = s.setQp q { x with recs := x.recs ++ [r] } := by
  simp [State.queueRec, hq, hx]

theorem qp_of_que {s t : State} (h : t.que = s.que) (q : Qp) : t.qp q = s.qp q := congrArg (fun x : Que => tget x.qps q.val) h

/-! The issue of a verdict. -/

/-- A RETRACT or FATAL is counted when it is issued. -/
def State.verdictCounted (s : State) (v : VerdictWait) (o : Outcome3) : State :=
  if o = .confirm ∨ v.issued then s else (s.tally (ctrTen 8 v.tenant.toNat)).tally (ctrRas 4)

theorem verdictCounted_adds (s : State) (v : VerdictWait) (o : Outcome3) : Adds [.ras, .ctr, .serial] s (s.verdictCounted v o) := by
  unfold State.verdictCounted
  split
  · exact Adds.rfl s
  · exact (tally_adds ..).trans (tally_adds ..)

theorem verdictCounted_confirm (s : State) (v : VerdictWait) : s.verdictCounted v .confirm = s := if_pos (.inl rfl)

/-- No verdict is awaited for operation n. -/
def State.verdictOver (s : State) (n : Nat) : State := { s with ras := { s.ras with verdicts := tdel s.ras.verdicts n } }

/-- The verdict of operation n is issued and no longer awaited: its record has joined those of queue pair x. -/
def State.verdictGiven (s : State) (n : Nat) (v : VerdictWait) (x : QPair) (o : Outcome3) (c : Option VCause) : State :=
  ((s.verdictCounted v o).verdictOver n).setQp v.qp { x with recs := x.recs ++ [v.verdictRec o c] }

/-- The verdict of operation n is issued, and its record follows with the completion (R215). -/
def State.verdictNoted (s : State) (n : Nat) (v : VerdictWait) (o : Outcome3) : State :=
  let s1 := s.verdictCounted v o
  { s1 with ras := { s1.ras with verdicts := tput s1.ras.verdicts n { v with issued := true } } }

/-- Operation n, on queue pair x, awaits verdict v, whose record would be written. -/
structure Awaits (s : State) (n : Nat) (v : VerdictWait) (x : QPair) : Prop where
  held : tget s.ras.verdicts n = some v
  pair : s.qp v.qp = some x
  kept : x.drops = false
  carried : v.record = none → v.strict = false

section
variable {s : State} {n : Nat} {v : VerdictWait} {x : QPair}

theorem issueVerdict_of_due (h : Awaits s n v x) {a : Nat} (ht : v.tf = some a) (o : Outcome3) (c : Option VCause) :
    s.issueVerdict n o c = s.verdictGiven n v x o c := by
  have hq : ((s.verdictCounted v o).verdictOver n).qp v.qp = some x :=
    (qp_of_que ((verdictCounted_adds s v o).same .que (by decide)) v.qp).trans h.pair
  rw [State.verdictGiven, ← queueRec_of_kept hq h.kept, ← verdictRecord_eq h.carried]
  simp only [State.issueVerdict, h.held, ht, Option.isSome_some, if_true]
  rfl

theorem issueVerdict_of_not_due (h : tget s.ras.verdicts n = some v) (ht : v.tf = none) (o : Outcome3) (c : Option VCause) :
    s.issueVerdict n o c = s.verdictNoted n v o := by
  have hdue : ¬ v.tf.isSome = true := by simp [ht]
  simp only [State.issueVerdict, h, if_neg hdue]
  rfl

end

theorem verdictGiven_adds (s : State) (n : Nat) (v : VerdictWait) (x : QPair) (o : Outcome3) (c : Option VCause) :
    Adds [.ras, .que, .ctr, .serial] s (s.verdictGiven n v x o c) :=
  ((verdictCounted_adds s v o).mono (by simp)).trans (((adds_ras ..).mono (by simp)).trans ((setQp_adds ..).mono (by simp)))

/-- A CONFIRM is not counted. -/
theorem verdictGiven_confirm_adds (s : State) (n : Nat) (v : VerdictWait) (x : QPair) (c : Option VCause) :
    Adds [.ras, .que] s (s.verdictGiven n v x .confirm c) := by
  rw [State.verdictGiven, verdictCounted_confirm]
  exact ((adds_ras ..).mono (by simp)).trans ((setQp_adds ..).mono (by simp))

/-- One record of operation n's queue pair carries the verdict that it awaited, and it awaits none any more. -/
def State.gave (t : State) (n : Nat) (v : VerdictWait) (o : Outcome3) (c : Option VCause) : Prop :=
  tget t.ras.verdicts n = none ∧ ∃ y, t.qp v.qp = some y ∧ v.verdictRec o c ∈ y.recs

theorem verdictGiven_gave (s : State) (n : Nat) (v : VerdictWait) (x : QPair) (o : Outcome3) (c : Option VCause) :
    (s.verdictGiven n v x o c).gave n v o c :=
  ⟨tget_tdel_same .., _, setQp_qp_same .., List.mem_append_right _ (List.mem_singleton.2 rfl)⟩

/-- A report raised afterwards leaves the verdict as given. -/
theorem gave_raise {t : State} {n : Nat} {v : VerdictWait} {o : Outcome3} {c : Option VCause} (h : t.gave n v o c) (r : Report) :
    (t.raise r).gave n v o c := by
  obtain ⟨hnone, y, hy, hr⟩ := h
  obtain ⟨l, q, hras⟩ := raise_ras t r
  exact ⟨by rw [hras]; exact hnone, y, (qp_of_que ((raise_adds t r).same .que (by decide)) v.qp).trans hy, hr⟩

theorem verdictNoted_adds (s : State) (n : Nat) (v : VerdictWait) (o : Outcome3) :
    Adds [.ras, .ctr, .serial] s (s.verdictNoted n v o) :=
  (verdictCounted_adds s v o).trans ((adds_ras ..).mono (by simp))

theorem verdictNoted_verdict (s : State) (n : Nat) (v : VerdictWait) (o : Outcome3) :
    tget (s.verdictNoted n v o).ras.verdicts n = some { v with issued := true } := tget_tput_same ..

/-! The four commands: when each issues a verdict. -/

section
variable {s : State} {n : Nat} {v : VerdictWait} (h : tget s.ras.verdicts n = some v)
include h

theorem verdictConfirm_of_due {a : Nat} (ht : v.tf = some a) (hc : v.cause = none) (hold : s.ras.hold.toNat ≤ a) (ha : a ≤ 8)
    (hk : s.checksOpen n = false) : verdictConfirm n s = s.issueVerdict n .confirm none := by
  simp [verdictConfirm, h, ht, hc, hold, ha, hk]

theorem verdictRetract_of_cause {c : VCause} {age : Nat} (hc : v.cause = some (c, age)) (hne : c ≠ .threeWay) (ha : 1 ≤ age)
    (hi : v.issued = false) : verdictRetract n s = s.issueVerdict n .retract (some c) := by
  simp [verdictRetract, h, hc, hne, ha, hi]

theorem verdictLate_of_open {a : Nat} (ht : v.tf = some a) (hc : v.cause = none) (ha : 8 ≤ a) (hk : s.checksOpen n = true) :
    ∃ k, verdictLate n s =
      (s.issueVerdict n .retract (some .late)).checkReport 7 2 k (unitCell k.origin) (unitCell k.checkCell) := by
  obtain ⟨⟨i, k⟩, hf⟩ := Option.isSome_iff_exists.1 ((List.find?_isSome (p := fun e : Nat × Check => e.2.op == n)).2
    (List.any_eq_true.1 hk))
  exact ⟨k, by simp [verdictLate, h, ht, hc, hf, ha]⟩

theorem verdictFatal_of_due {a age : Nat} (ht : v.tf = some a) (hc : v.cause = some (.threeWay, age)) (ha : 1 ≤ age)
    (hi : v.issued = false) : verdictFatal n s = s.issueVerdict n .fatal (some .threeWay) := by
  simp [verdictFatal, h, hc, ht, hi, Nat.ne_of_gt ha]

theorem verdictFatal_of_not_due {age : Nat} (ht : v.tf = none) (hc : v.cause = some (.threeWay, age)) (ha : 1 ≤ age)
    (hi : v.issued = false) :
    verdictFatal n s = ((s.issueVerdict n .fatal (some .threeWay)).endOp n stCheckFatal).settleRs n := by
  simp [verdictFatal, h, hc, ht, hi, Nat.ne_of_gt ha]

end

/-- An operation that awaits no verdict gets none. -/
theorem verdicts_of_none {s : State} {n : Nat} (h : tget s.ras.verdicts n = none) :
    verdictConfirm n s = s ∧ verdictRetract n s = s ∧ verdictLate n s = s ∧ verdictFatal n s = s := by
  refine ⟨?_, ?_, ?_, ?_⟩
  · simp [verdictConfirm, h]
  · simp [verdictRetract, h]
  · simp [verdictLate, h]
  · simp [verdictFatal, h]

/-- Settles O30: a verdict that is due is `State.verdictGiven` and one that is not is `State.verdictNoted`; each command issues one where its
conditions hold. -/
theorem verdictsAreIssuedOnce : Obligations.VerdictsAreIssuedOnce := by
  unfold Obligations.VerdictsAreIssuedOnce
  refine ⟨fun n v x s hl hv hq hx hcar => ?_, fun n age v s hl hv ht hi hage => ?_, fun n s hl hv => ?_⟩
  · have hw : Awaits s.quiet n v x := ⟨hv, hq, hx, hcar⟩
    refine ⟨fun a ht hc hold ha hk => ?_, fun a c age ht hc hne hage hi => ?_, fun a ht hc ha hk => ?_, fun a age ht hc hage hi => ?_⟩
    · obtain ⟨hnone, y, hy, hr⟩ := verdictGiven_gave s.quiet n v x .confirm none
      obtain ⟨ho, hcause, hcsn, -⟩ := verdictRec_spec v .confirm none
      obtain ⟨hx, hF⟩ := live_next_frame (i := .verdictConfirm n) rfl hl
        ((verdictConfirm_of_due (s := s.quiet) hv ht hc hold ha hk).trans (issueVerdict_of_due hw ht ..))
        (verdictGiven_confirm_adds ..).1 (by decide)
      exact ⟨_, y, _, hx, hnone, hy, hr, ho, hcause, hcsn, hF⟩
    · obtain ⟨hnone, y, hy, hr⟩ := verdictGiven_gave s.quiet n v x .retract (some c)
      obtain ⟨ho, hcause, hcsn, -⟩ := verdictRec_spec v .retract (some c)
      obtain ⟨hx, hF⟩ := live_next_frame (i := .verdictRetract n) rfl hl
        ((verdictRetract_of_cause (s := s.quiet) hv hc hne hage hi).trans (issueVerdict_of_due hw ht ..))
        (verdictGiven_adds ..).1 (by decide)
      exact ⟨_, y, _, hx, hnone, hy, hr, ho, hcause, hcsn, hF⟩
    · obtain ⟨k, hlate⟩ := verdictLate_of_open (s := s.quiet) hv ht hc ha hk
      rw [issueVerdict_of_due hw ht] at hlate
      obtain ⟨hnone, y, hy, hr⟩ := gave_raise (verdictGiven_gave s.quiet n v x .retract (some .late)) _
      obtain ⟨ho, hcause, -, -⟩ := verdictRec_spec v .retract (some .late)
      obtain ⟨hx, hF⟩ := live_next_frame (i := .verdictLate n) rfl hl hlate
        ((verdictGiven_adds ..).trans ((checkReport_adds ..).mono (by simp))).1 (by decide)
      exact ⟨_, y, _, _, hx, hnone, hy, hr, ho, hcause, checkReport_reported .., hF⟩
    · obtain ⟨hnone, y, hy, hr⟩ := verdictGiven_gave s.quiet n v x .fatal (some .threeWay)
      obtain ⟨ho, hcause, -, hstatus⟩ := verdictRec_spec v .fatal (some .threeWay)
      obtain ⟨hx, hF⟩ := live_next_frame (i := .verdictFatal n) rfl hl
        ((verdictFatal_of_due (s := s.quiet) hv ht hc hage hi).trans (issueVerdict_of_due hw ht ..))
        (verdictGiven_adds ..).1 (by decide)
      exact ⟨_, y, _, hx, hnone, hy, hr, ho, hcause, hstatus rfl, hF⟩
  · refine ⟨fun c hc hne => ?_, fun hc => ?_⟩
    · obtain ⟨hx, hF⟩ := live_next_frame (i := .verdictRetract n) rfl hl
        ((verdictRetract_of_cause (s := s.quiet) hv hc hne hage hi).trans (issueVerdict_of_not_due (s := s.quiet) hv ht ..))
        (verdictNoted_adds ..).1 (by decide)
      exact ⟨_, hx, verdictNoted_verdict .., hF⟩
    · have hfatal := verdictFatal_of_not_due (s := s.quiet) hv ht hc hage hi
      rw [issueVerdict_of_not_due (s := s.quiet) hv ht] at hfatal
      exact ⟨_, _, live_next (i := .verdictFatal n) rfl hl hfatal, rfl, verdictNoted_verdict ..,
        (Frame.quiet s).trans (verdictNoted_adds ..).1⟩
  · obtain ⟨hconfirm, hretract, hlate, hfatal⟩ := verdicts_of_none (s := s.quiet) hv
    exact ⟨live_idles (c := .verdictConfirm n) rfl hl hconfirm, live_idles (c := .verdictRetract n) rfl hl hretract,
      live_idles (c := .verdictLate n) rfl hl hlate, live_idles (c := .verdictFatal n) rfl hl hfatal⟩

end Sys2Proof.Machine

/-! PROOFS. The machine as a whole: which commands stop it (R225). -/

namespace Sys2Proof.Machine

/-- Settles O4: every arm of `exec` but MEM_CTRL_ACCEPT's is a next state by its definition. -/
theorem onlyMissingMemoryStops : Obligations.OnlyMissingMemoryStops := by
  unfold Obligations.OnlyMissingMemoryStops
  refine ⟨fun c s => ?_, fun g off r s h => if_pos h⟩
  cases c with
  | memCtrlAccept g off r =>
    rcases Nat.lt_or_ge g 15616 with h | h
    · exact .inl ⟨_, if_neg (Nat.not_le.2 h)⟩
    · exact .inr ⟨g, off, r, rfl, h⟩
  | _ => exact .inl ⟨_, rfl⟩

end Sys2Proof.Machine

/-! PROOFS. The address decode (R225, R227, R228): where a granule's byte lies in its stack or tier. -/

namespace Sys2Proof.Machine

/-- A field's hash with another is as wide as the two. -/
theorem bitsOf_xor_lt {hi lo hi' lo' n : Nat} (a : Nat) (h : hi + 1 - lo = n) (h' : hi' + 1 - lo' = n) :
    bitsOf a hi lo ^^^ bitsOf a hi' lo' < 2 ^ n := by
  have hlt : ∀ i j, bitsOf a i j < 2 ^ (i + 1 - j) := fun i j => Nat.mod_lt _ (Nat.two_pow_pos _)
  exact Nat.xor_lt_two_pow (h ▸ hlt hi lo) (h' ▸ hlt hi' lo')

/-- Where byte a of a Deep stack lies (R227). -/
def deepLoc (st a : Nat) : DramLoc :=
  { ch := ⟨(st * 32 + (bitsOf a 12 8 ^^^ bitsOf a 24 20) % 32) % 640, Nat.mod_lt _ (by decide)⟩, addr := a,
    bank := bitsOf a 36 34 * 16 + (bitsOf a 19 16 ^^^ bitsOf a 29 26), row := bitsOf a 33 20 }

/-- Where byte a of a Shelf tier lies (R228). -/
def shelfLoc (tier a : Nat) : DramLoc :=
  { ch := ⟨(384 + tier % 2 * 128 + (bitsOf a 13 7 ^^^ bitsOf a 26 20) % 128) % 640, Nat.mod_lt _ (by decide)⟩, addr := a,
    bank := bitsOf a 19 17 ^^^ bitsOf a 28 26, row := bitsOf a 32 20 }

theorem dramLoc_of_deep {g : Nat} (h : granShelf g = false) (off : Nat) :
    dramLoc g off = deepLoc (granStack g) (g % 1280 * granBytes + off) := by
  simp only [dramLoc, h, Bool.false_eq_true, if_false, deepLoc]

theorem dramLoc_of_shelf {g : Nat} (h : granShelf g = true) (off : Nat) :
    dramLoc g off = shelfLoc (granTier g) ((g - 15360) % 128 * granBytes + off) := by
  simp only [dramLoc, h, if_true, shelfLoc]

theorem deepLoc_chan {st : Nat} (h : st < 12) (a : Nat) :
    chanDeep (deepLoc st a).ch = true ∧ chanStack (deepLoc st a).ch = st := by
  have hpc : (bitsOf a 12 8 ^^^ bitsOf a 24 20) % 32 < 32 := Nat.mod_lt _ (by decide)
  refine ⟨decide_eq_true ?_, ?_⟩
  · show (st * 32 + (bitsOf a 12 8 ^^^ bitsOf a 24 20) % 32) % 640 < 384
    omega
  · show (st * 32 + (bitsOf a 12 8 ^^^ bitsOf a 24 20) % 32) % 640 / 32 = st
    omega

theorem shelfLoc_chan {tier : Nat} (h : tier < 2) (a : Nat) :
    chanDeep (shelfLoc tier a).ch = false ∧ chanTier (shelfLoc tier a).ch = tier := by
  have hc : (bitsOf a 13 7 ^^^ bitsOf a 26 20) % 128 < 128 := Nat.mod_lt _ (by decide)
  refine ⟨decide_eq_false ?_, ?_⟩
  · show ¬ (384 + tier % 2 * 128 + (bitsOf a 13 7 ^^^ bitsOf a 26 20) % 128) % 640 < 384
    omega
  · show ((384 + tier % 2 * 128 + (bitsOf a 13 7 ^^^ bitsOf a 26 20) % 128) % 640 - 384) / 128 = tier
    omega

/-- A stack of 1,280 granules has five stack IDs of 16 banks each. -/
theorem deepLoc_bank_lt {a : Nat} (h : a < 1280 * granBytes) (st : Nat) : (deepLoc st a).bank < 80 := by
  have hbank : bitsOf a 19 16 ^^^ bitsOf a 29 26 < 2 ^ 4 := bitsOf_xor_lt a rfl rfl
  have hid : bitsOf a 36 34 ≤ 4 := by
    unfold granBytes at h
    exact (Nat.mod_le _ _).trans (by omega)
  show bitsOf a 36 34 * 16 + (bitsOf a 19 16 ^^^ bitsOf a 29 26) < 80
  omega

/-- Settles O32: a channel's key starts at its stack's or tier's first granule (`deepLoc_chan`, `shelfLoc_chan`), and the local address counts
the granules from there. -/
theorem addressDecodeIsExact : Obligations.AddressDecodeIsExact := by
  unfold Obligations.AddressDecodeIsExact
  intro g off hg
  have hoff : off.toNat < granBytes := off.isLt
  cases h : granShelf g with
  | false =>
    have hlt : g < 15360 := Nat.not_le.1 (of_decide_eq_false h)
    have hgran : granStack g * 1280 + g % 1280 = g := Nat.div_add_mod' ..
    obtain ⟨hdeep, hstack⟩ := deepLoc_chan (st := granStack g) (by unfold granStack; omega) (g % 1280 * granBytes + off.toNat)
    have hbank := deepLoc_bank_lt (a := g % 1280 * granBytes + off.toNat) (by unfold granBytes at *; omega) (granStack g)
    rw [dramLoc_of_deep h, chanKey, chanBanks, bankRows]
    simp only [hdeep, hstack, if_true]
    refine ⟨?_, hbank, Nat.mod_lt _ (by decide), fun _ => ⟨trivial, trivial⟩, fun h => nomatch h⟩
    rw [show (deepLoc (granStack g) _).addr = g % 1280 * granBytes + off.toNat from rfl, ← Nat.add_assoc, ← Nat.add_mul, hgran]
  | true =>
    have hle : 15360 ≤ g := of_decide_eq_true h
    have hgran : 15360 + granTier g * 128 + (g - 15360) % 128 = g := by unfold granTier; omega
    obtain ⟨hdeep, htier⟩ :=
      shelfLoc_chan (tier := granTier g) (by unfold granTier granCountAll at *; omega) ((g - 15360) % 128 * granBytes + off.toNat)
    rw [dramLoc_of_shelf h, chanKey, chanBanks, bankRows]
    simp only [hdeep, htier, Bool.false_eq_true, if_false]
    refine ⟨?_, bitsOf_xor_lt _ rfl rfl, Nat.mod_lt _ (by decide), fun h => (nomatch h), fun _ => ⟨trivial, trivial⟩⟩
    rw [show (shelfLoc (granTier g) _).addr = (g - 15360) % 128 * granBytes + off.toNat from rfl, ← Nat.add_assoc, ← Nat.add_mul, hgran]

end Sys2Proof.Machine

/-! PROOFS. The queues of a channel (R229 to R236): what the moves inside it keep. -/

namespace Sys2Proof.Machine

/-! What becomes of a merge-buffer entry. -/

/-- y is merge-buffer entry x, which may have closed or have asked for its line since. -/
def MergeEntry.kept (x y : MergeEntry) : Prop :=
  y = { x with closed := y.closed, asked := y.asked } ∧ (x.closed = true → y.closed = true)

theorem MergeEntry.kept_self (x : MergeEntry) : x.kept x := ⟨rfl, id⟩

theorem MergeEntry.kept_trans {x y z : MergeEntry} (h : x.kept y) (k : y.kept z) : x.kept z :=
  ⟨by rw [k.1, h.1], k.2 ∘ h.2⟩

/-- From c to d a channel's queues have moved on: reads have only come in and none was issued, no write has gone, and every merge-buffer entry of
c is there still, or its write is. -/
structure Chan.Advances (c d : Chan) : Prop where
  reads : ∃ l, d.reads = c.reads ++ l ∧ ∀ e ∈ l, e.issued = false
  writes : c.writes <+: d.writes
  stays : ∀ x ∈ c.merges, (∃ y ∈ d.merges, x.kept y) ∨ ∃ e ∈ d.writes, e.seq = x.seq
  stood : ∀ y ∈ d.merges, ∃ x ∈ c.merges, x.kept y

namespace Chan.Advances

theorem rfl {c : Chan} : c.Advances c :=
  ⟨⟨[], by simp, by simp⟩, List.prefix_rfl, fun x hx => .inl ⟨x, hx, x.kept_self⟩, fun y hy => ⟨y, hy, y.kept_self⟩⟩

theorem trans {c d e : Chan} (h : c.Advances d) (k : d.Advances e) : c.Advances e := by
  obtain ⟨l, hl, hi⟩ := h.reads
  obtain ⟨l', hl', hi'⟩ := k.reads
  refine ⟨⟨l ++ l', by rw [hl', hl, List.append_assoc], fun r hr => (List.mem_append.1 hr).elim (hi r) (hi' r)⟩,
    h.writes.trans k.writes, fun x hx => ?_, fun z hz => ?_⟩
  · rcases h.stays x hx with ⟨y, hy, hxy⟩ | ⟨w, hw, hs⟩
    · rcases k.stays y hy with ⟨z, hz, hyz⟩ | ⟨w, hw, hs⟩
      · exact .inl ⟨z, hz, MergeEntry.kept_trans hxy hyz⟩
      · exact .inr ⟨w, hw, hs.trans (by rw [hxy.1])⟩
    · exact .inr ⟨w, k.writes.subset hw, hs⟩
  · obtain ⟨y, hy, hyz⟩ := k.stood z hz
    obtain ⟨x, hx, hxy⟩ := h.stood y hy
    exact ⟨x, hx, MergeEntry.kept_trans hxy hyz⟩

/-- Reads come in, writes come in, and each merge-buffer entry is kept in its place. -/
theorem of_map {c d : Chan} {f : MergeEntry → MergeEntry} {l : List MemEntry} (hr : d.reads = c.reads ++ l)
    (hl : ∀ e ∈ l, e.issued = false) (hw : c.writes <+: d.writes) (hm : d.merges = c.merges.map f) (hf : ∀ x : MergeEntry, x.kept (f x)) :
    c.Advances d :=
  ⟨⟨l, hr, hl⟩, hw, fun x hx => .inl ⟨f x, hm ▸ List.mem_map_of_mem hx, hf x⟩, fun y hy => by
    obtain ⟨x, hx, rfl⟩ := List.mem_map.1 (hm ▸ hy)
    exact ⟨x, hx, hf x⟩⟩

/-- Writes come in, and the rest stands. -/
theorem of_writes {c d : Chan} (hr : d.reads = c.reads) (hw : c.writes <+: d.writes) (hm : d.merges = c.merges) : c.Advances d :=
  of_map (f := id) (l := []) (by simp [hr]) (by simp) hw (by simp [hm]) MergeEntry.kept_self

theorem write (c : Chan) (e : MemEntry) (n : Nat) : c.Advances { c with writes := c.writes ++ [e], nextSeq := n } :=
  of_writes (Eq.refl _) (List.prefix_append _ _) (Eq.refl _)

theorem read_mem {c d : Chan} (h : c.Advances d) {e : MemEntry} (he : e ∈ c.reads) : e ∈ d.reads := by
  obtain ⟨l, hl, -⟩ := h.reads
  exact hl ▸ List.mem_append_left l he

/-- A number that no issued read has, none has later. -/
theorem read_unissued {c d : Chan} (h : c.Advances d) {q : Nat} (hq : ∀ e ∈ c.reads, e.seq = q → e.issued = false) :
    ∀ e ∈ d.reads, e.seq = q → e.issued = false := by
  obtain ⟨l, hl, hi⟩ := h.reads
  exact fun e he hs => (List.mem_append.1 (hl ▸ he)).elim (fun h => hq e h hs) (hi e)

end Chan.Advances

/-! The moves. -/

/-- What a read's arrival leaves of a merge-buffer entry (R236). -/
def MergeEntry.onRead (bank row : Nat) (own : Option Nat) (m : MergeEntry) : MergeEntry :=
  if m.bank == bank && m.row == row && some m.seq != own then { m with closed := true } else m

theorem MergeEntry.kept_onRead (bank row : Nat) (own : Option Nat) (m : MergeEntry) : m.kept (m.onRead bank row own) := by
  unfold MergeEntry.onRead
  split
  · exact ⟨rfl, fun _ => rfl⟩
  · exact m.kept_self

theorem MergeEntry.onRead_closed {m : MergeEntry} {bank row : Nat} (hb : m.bank = bank) (hr : m.row = row) :
    (m.onRead bank row none).closed = true := by simp [MergeEntry.onRead, hb, hr]

theorem onRead_queues (c : Chan) (bank row : Nat) (own : Option Nat) :
    (c.onRead bank row own).reads = c.reads ∧ (c.onRead bank row own).writes = c.writes ∧
    (c.onRead bank row own).merges = c.merges.map (MergeEntry.onRead bank row own) := by
  unfold Chan.onRead
  dsimp only
  split <;> exact ⟨rfl, rfl, rfl⟩

/-- The channel once a read has joined it: own is the merge-buffer entry whose line it reads, if it does (R233, R236). -/
def Chan.joined (c : Chan) (bank row : Nat) (own : Option Nat) (e : MemEntry) : Chan :=
  { c.onRead bank row own with reads := (c.onRead bank row own).reads ++ [e], nextSeq := c.nextSeq + 1 }

theorem joined_advances (c : Chan) (bank row : Nat) (own : Option Nat) {e : MemEntry} (he : e.issued = false) :
    c.Advances (c.joined bank row own e) := by
  obtain ⟨hr, hw, hm⟩ := onRead_queues c bank row own
  refine .of_map (l := [e]) ?_ (by simpa using he) ?_ hm (MergeEntry.kept_onRead bank row own)
  · show (c.onRead bank row own).reads ++ [e] = _
    rw [hr]
  · show c.writes <+: (c.onRead bank row own).writes
    rw [hw]

/-- The channel once a merge-buffer entry has asked for its line (R235). -/
def Chan.ask (c : Chan) (q : Nat) : Chan :=
  { c with merges := c.merges.map (fun x => if x.seq = q then { x with asked := true } else x) }

theorem ask_advances (c : Chan) (q : Nat) : c.Advances (c.ask q) := by
  refine .of_map (l := []) (List.append_nil _).symm (by simp) List.prefix_rfl rfl (fun x => ?_)
  by_cases hs : x.seq = q
  · rw [if_pos hs]
    exact ⟨rfl, id⟩
  · rw [if_neg hs]
    exact x.kept_self

theorem moveReady_advances (c : Chan) (f : Nat) : c.Advances (c.moveReady f) := by
  induction f generalizing c with
  | zero => exact .rfl
  | succ f ih =>
    unfold Chan.moveReady
    split
    next => exact .rfl
    next m _ =>
      split
      next => exact .rfl
      next =>
        refine Chan.Advances.trans ⟨⟨[], by simp, by simp⟩, List.prefix_append _ _, fun x hx => ?_, fun y hy => ?_⟩ (ih _)
        · by_cases hs : x.seq = m.seq
          · exact .inr ⟨_, List.mem_append_right _ (List.mem_singleton.2 rfl), hs.symm⟩
          · exact .inl ⟨x, List.mem_filter.2 ⟨hx, by simpa using hs⟩, x.kept_self⟩
        · exact ⟨y, List.mem_of_mem_filter hy, y.kept_self⟩

theorem drainMode_queues (c : Chan) (sc : SchedCtrl) :
    (c.drainMode sc).reads = c.reads ∧ (c.drainMode sc).writes = c.writes ∧ (c.drainMode sc).merges = c.merges := by
  unfold Chan.drainMode
  dsimp only
  split
  · exact ⟨rfl, rfl, rfl⟩
  · split <;> exact ⟨rfl, rfl, rfl⟩

theorem drainMode_advances (c : Chan) (sc : SchedCtrl) : c.Advances (c.drainMode sc) := by
  obtain ⟨hr, hw, hm⟩ := drainMode_queues c sc
  exact .of_writes hr (hw ▸ List.prefix_rfl) hm

/-! The channel in its state. -/

/-- The state with the channels as given. -/
def State.withChans (s : State) (m : SMap Chan) : State := { s with mem := { s.mem with chans := m } }

@[simp] theorem setChan_chan_same (s : State) (ch : MemCh) (c : Chan) : (s.setChan ch c).chan ch = c := mget_mset_same ..

/-- One line read of the merge buffer enters the read queue, or none does any more. -/
theorem askMerges_succ (s : State) (ch : MemCh) (f : Nat) : s.askMerges ch (f + 1) = s ∨ ∃ m : MergeEntry,
    s.askMerges ch (f + 1) = (s.setChan ch (((s.chan ch).ask m.seq).joined m.bank m.row (some m.seq)
      (s.readEntry .mergeRead ch m.addr 64 m.bank m.row (s.chan ch).nextSeq))).askMerges ch f := by
  rw [State.askMerges]
  dsimp only
  split
  next => exact .inl rfl
  next m _ =>
    split
    next => exact .inl rfl
    next => exact .inr ⟨m, rfl⟩

theorem askMerges_advances (s : State) (ch : MemCh) (f : Nat) :
    (s.chan ch).Advances ((s.askMerges ch f).chan ch) ∧ ∃ m, s.askMerges ch f = s.withChans m := by
  induction f generalizing s with
  | zero => exact ⟨.rfl, s.mem.chans, rfl⟩
  | succ f ih =>
    rcases askMerges_succ s ch f with h | ⟨m, h⟩
    · rw [h]
      exact ⟨.rfl, s.mem.chans, rfl⟩
    · obtain ⟨hrest, ms, heq⟩ := ih (s.setChan ch _)
      rw [setChan_chan_same] at hrest
      rw [h]
      exact ⟨((ask_advances _ m.seq).trans (joined_advances _ m.bank m.row (some m.seq) rfl)).trans hrest, ms, heq⟩

/-- After a channel's queues have changed they move on, and nothing outside the channels changes (R229, R231, R235). -/
theorem afterQueue_advances (s : State) (ch : MemCh) :
    (s.chan ch).Advances ((s.afterQueue ch).chan ch) ∧ ∃ m, s.afterQueue ch = s.withChans m := by
  obtain ⟨hask, m, heq⟩ := askMerges_advances s ch 32
  have hset : s.afterQueue ch = (s.askMerges ch 32).setChan ch ((((s.askMerges ch 32).chan ch).moveReady 32).drainMode (s.sched ch)) := rfl
  refine ⟨?_, (hset.symm ▸ heq ▸ ⟨_, rfl⟩ : ∃ m, s.afterQueue ch = s.withChans m)⟩
  rw [hset, setChan_chan_same]
  exact hask.trans ((moveReady_advances _ 32).trans (drainMode_advances _ _))

theorem adds_mem (s : State) (x : Mem) : Adds [.mem] s { s with mem := x } :=
  adds_of_same rfl rfl (fun p => by cases p <;> simp [Part.same])

theorem withChans_adds (s : State) (m : SMap Chan) : Adds [.mem] s (s.withChans m) := adds_mem s _

theorem setChan_adds (s : State) (ch : MemCh) (c : Chan) : Adds [.mem] s (s.setChan ch c) := adds_mem s _

/-- A channel set anew and moved on: what holds of the queues that were set is told by `Chan.Advances`. -/
theorem setChan_afterQueue (s : State) (ch : MemCh) (c : Chan) :
    c.Advances (((s.setChan ch c).afterQueue ch).chan ch) ∧ ∃ m, (s.setChan ch c).afterQueue ch = s.withChans m := by
  obtain ⟨h, m, heq⟩ := afterQueue_advances (s.setChan ch c) ch
  rw [setChan_chan_same] at h
  exact ⟨h, m, heq⟩

end Sys2Proof.Machine

/-! PROOFS. What a controller accepts (R229, R233 to R237, R246, R248): where a read and a write go. -/

namespace Sys2Proof.Machine

/-! Reads. -/

/-- A read that enters stands in the read queue as it came, those that wait stay, and the merge-buffer entries of its row are closed. -/
theorem enterRead_queues (s : State) (kind : MemKind) (loc : DramLoc) :
    let a := alignDown loc.addr (chanUnit loc.ch)
    let c := (s.enterRead kind loc).chan loc.ch
    s.readEntry kind loc.ch a (chanUnit loc.ch) loc.bank loc.row (s.chan loc.ch).nextSeq ∈ c.reads ∧
    (∀ x ∈ (s.chan loc.ch).reads, x ∈ c.reads) ∧ (∀ m ∈ c.merges, m.bank = loc.bank → m.row = loc.row → m.closed = true) ∧
    ∃ m, s.enterRead kind loc = s.withChans m := by
  intro a c
  set e := s.readEntry kind loc.ch a (chanUnit loc.ch) loc.bank loc.row (s.chan loc.ch).nextSeq
  obtain ⟨hr, -, hm⟩ := onRead_queues (s.chan loc.ch) loc.bank loc.row none
  obtain ⟨hadv, hout⟩ := setChan_afterQueue s loc.ch ((s.chan loc.ch).joined loc.bank loc.row none e)
  refine ⟨hadv.read_mem (List.mem_append_right _ (List.mem_singleton.2 rfl)),
    fun x hx => hadv.read_mem (List.mem_append_left _ (hr ▸ hx)), fun y hy hb hrow => ?_, hout⟩
  obtain ⟨x, hx, hxy, hclosed⟩ := hadv.stood y hy
  obtain ⟨m, -, rfl⟩ := List.mem_map.1 (show x ∈ _ from hm ▸ hx)
  have hmy : m.kept y := MergeEntry.kept_trans (MergeEntry.kept_onRead ..) ⟨hxy, hclosed⟩
  rw [hmy.1] at hb hrow
  exact hclosed (MergeEntry.onRead_closed hb hrow)

/-! Writes. -/

/-- The channel with a write to the line at a in its write queue. -/
def Chan.queued (c : Chan) (a bank row : Nat) : Chan :=
  { c with
    writes := c.writes ++ [{ seq := c.nextSeq, kind := .write, addr := a, bank := bank, row := row, issued := false, data := [],
                             poison := [], rewritten := [], renewed := [] }],
    nextSeq := c.nextSeq + 1 }

/-- The merge-buffer entry with more bytes. -/
def MergeEntry.more (m : MergeEntry) (en : BitVec 64) (d : Line) : MergeEntry :=
  { m with enables := m.enables ||| en, data := mergeBytes m.data en d }

/-- The channel with more bytes in its merge-buffer entry q. -/
def Chan.moreAt (c : Chan) (q : Nat) (en : BitVec 64) (d : Line) : Chan :=
  { c with merges := c.merges.map (fun x => if x.seq = q then x.more en d else x) }

/-- The merge-buffer entry that a write opens. -/
def newEntry (seq a bank row : Nat) (en : BitVec 64) (d : Line) : MergeEntry :=
  { seq := seq, addr := a, bank := bank, row := row, enables := en, data := d, closed := false, asked := false, ready := false }

/-- The channel with a new merge-buffer entry for the line at a. -/
def Chan.opened (c : Chan) (a bank row : Nat) (en : BitVec 64) (d : Line) : Chan :=
  { c with merges := c.merges ++ [newEntry c.nextSeq a bank row en d], nextSeq := c.nextSeq + 1 }

section
variable {s : State} {loc : DramLoc} {en : BitVec 64} (d : Line)

theorem acceptWrite_of_held (h : (s.chan loc.ch).place (alignDown loc.addr 64) en = .held) : s.acceptWrite loc en d = s := by
  simp only [State.acceptWrite, h]

theorem acceptWrite_of_queue (h : (s.chan loc.ch).place (alignDown loc.addr 64) en = .queue) :
    s.acceptWrite loc en d = (s.setChan loc.ch ((s.chan loc.ch).queued (alignDown loc.addr 64) loc.bank loc.row)).afterQueue loc.ch := by
  simp only [State.acceptWrite, h, Chan.queued]

theorem acceptWrite_of_join {q : Nat} (h : (s.chan loc.ch).place (alignDown loc.addr 64) en = .join q) :
    s.acceptWrite loc en d = (s.setChan loc.ch ((s.chan loc.ch).moreAt q en d)).afterQueue loc.ch := by
  simp only [State.acceptWrite, h, Chan.moreAt, MergeEntry.more]

theorem acceptWrite_of_entry (h : (s.chan loc.ch).place (alignDown loc.addr 64) en = .entry) :
    s.acceptWrite loc en d =
      (s.setChan loc.ch ((s.chan loc.ch).opened (alignDown loc.addr 64) loc.bank loc.row en d)).afterQueue loc.ch := by
  simp only [State.acceptWrite, h, Chan.opened, newEntry]

end

/-- A write joins an entry of its line (R235 step 2). -/
theorem place_join {c : Chan} {a q : Nat} {en : BitVec 64} (h : c.place a en = .join q) : ∃ m ∈ c.merges, m.seq = q ∧ m.addr = a := by
  unfold Chan.place at h
  split at h
  next => cases h
  next =>
    split at h
    next m hm =>
      cases h
      split at hm
      next => cases hm
      next => exact ⟨m, List.mem_of_find?_eq_some hm, rfl, by simpa using List.find?_some hm⟩
    next =>
      split at h
      next => split at h <;> cases h
      next => split at h <;> cases h

/-- An entry of the merge buffer is there still with what it holds, or its write is. -/
theorem entry_or_write {c e : Chan} (h : c.Advances e) {x : MergeEntry} (hx : x ∈ c.merges) :
    (∃ y ∈ e.merges, y.seq = x.seq ∧ y.addr = x.addr ∧ y.enables = x.enables ∧ y.data = x.data) ∨ ∃ w ∈ e.writes, w.seq = x.seq := by
  refine (h.stays x hx).imp (fun ⟨y, hy, hxy, _⟩ => ⟨y, hy, ?_⟩) id
  rw [hxy]
  exact ⟨rfl, rfl, rfl, rfl⟩

/-! The command. -/

/-- A command of a live device that touches the channels alone. -/
theorem live_withChans {i : Instr} {s : State} {f : State → State} (hi : exec i s = .next (s.quiet.whenLive f)) (hl : s.live = true)
    (hf : ∃ m, f s.quiet = s.quiet.withChans m) :
    exec i s = .next (f s.quiet) ∧ (f s.quiet).mem.bytes = s.mem.bytes ∧ (f s.quiet).mem.poison = s.mem.poison ∧
      Frame [.mem] s (f s.quiet) := by
  obtain ⟨m, hm⟩ := hf
  obtain ⟨hx, hF⟩ := live_next_frame hi hl rfl (hm ▸ (withChans_adds s.quiet m).1) (by decide)
  exact ⟨hx, by rw [hm]; rfl, by rw [hm]; rfl, hF⟩

theorem execMemCtrlAccept_of_lt {g : Nat} (h : g < granCountAll) (off : BitVec 26) (r : MemReq) (s : State) :
    exec (.memCtrlAccept g off r) s = .next (s.quiet.whenLive (memCtrlAccept g off r)) := if_neg (Nat.not_le.2 h)

section
variable {s : State} {g : Nat} {off : BitVec 26}

theorem memCtrlAccept_of_no_slice {r : MemReq} (h : s.fromSlice g off r = false) : memCtrlAccept g off r s = s := by
  simp [memCtrlAccept, h]

theorem memCtrlAccept_read_of_full (h : 64 ≤ (s.chan (dramLoc g off.toNat).ch).readCount) : memCtrlAccept g off .read s = s := by
  simp [memCtrlAccept, h]

theorem memCtrlAccept_read (ht : s.memTrained = true) (hf : s.chanFailed (dramLoc g off.toNat).ch = false)
    (hs : s.fromSlice g off .read = true) (h : (s.chan (dramLoc g off.toNat).ch).readCount < 64) :
    memCtrlAccept g off .read s = s.enterRead .read (dramLoc g off.toNat) := by
  simp [memCtrlAccept, ht, hf, hs, Nat.not_le.2 h]

theorem memCtrlAccept_write (ht : s.memTrained = true) (hf : s.chanFailed (dramLoc g off.toNat).ch = false) {en : BitVec 64} {d : Line}
    (hs : s.fromSlice g off (.write en d) = true) :
    memCtrlAccept g off (.write en d) s = s.acceptWrite (dramLoc g off.toNat) en d := by
  simp [memCtrlAccept, ht, hf, hs]

end

/-- Settles O33: a read that is taken is `State.enterRead`, a write goes where `Chan.place` says, and the moves that follow keep every read, write
and merge-buffer entry (`Chan.Advances`). -/
theorem controllersAcceptRequests : Obligations.ControllersAcceptRequests := by
  unfold Obligations.ControllersAcceptRequests
  intro g off s hg hl loc c a
  have hexec := fun r => execMemCtrlAccept_of_lt hg off r s
  refine ⟨fun ht hf => ⟨fun hs hc => ?_, fun hc => live_idles (hexec .read) hl (memCtrlAccept_read_of_full (s := s.quiet) hc),
    fun en d hs => ⟨fun hp => ?_, fun hp => ?_⟩⟩, fun r hr => live_idles (hexec r) hl (memCtrlAccept_of_no_slice (s := s.quiet) hr)⟩
  · have hacc := memCtrlAccept_read (s := s.quiet) ht hf hs hc
    obtain ⟨he, hold, hclosed, hout⟩ := enterRead_queues s.quiet .read loc
    obtain ⟨hx, hb, hpo, hF⟩ := live_withChans (hexec .read) hl (hacc ▸ hout)
    rw [hacc] at hx hb hpo hF
    exact ⟨_, _, hx, he, rfl, rfl, rfl, rfl, rfl, hold, hclosed, hb, hpo, hF⟩
  · exact live_idles (hexec _) hl ((memCtrlAccept_write (s := s.quiet) ht hf hs).trans (acceptWrite_of_held (s := s.quiet) d hp))
  · have hacc := memCtrlAccept_write (s := s.quiet) ht hf hs
    have taken : ∀ c' : Chan, s.quiet.acceptWrite loc en d = (s.quiet.setChan loc.ch c').afterQueue loc.ch →
        ∃ t, exec (.memCtrlAccept g off (.write en d)) s = .next t ∧ t.mem.bytes = s.mem.bytes ∧ t.mem.poison = s.mem.poison ∧
          Frame [.mem] s t ∧ c'.Advances (t.chan loc.ch) := fun c' heq => by
      obtain ⟨hadv, hout⟩ := setChan_afterQueue s.quiet loc.ch c'
      obtain ⟨hx, hb, hpo, hF⟩ := live_withChans (hexec _) hl ((hacc.trans heq) ▸ hout)
      exact ⟨_, hx, hb, hpo, hF, (hacc.trans heq) ▸ hadv⟩
    cases h : c.place a en with
    | held => exact absurd h hp
    | queue =>
      obtain ⟨t, hx, hb, hpo, hF, hadv⟩ := taken _ (acceptWrite_of_queue (s := s.quiet) d h)
      exact ⟨t, hx, hb, hpo, hF,
        fun _ => ⟨_, hadv.writes.subset (List.mem_append_right _ (List.mem_singleton.2 rfl)), rfl, rfl, rfl, rfl, rfl⟩,
        fun q hq => (nomatch hq), fun hq => (nomatch hq)⟩
    | join q =>
      obtain ⟨t, hx, hb, hpo, hF, hadv⟩ := taken _ (acceptWrite_of_join (s := s.quiet) d h)
      refine ⟨t, hx, hb, hpo, hF, fun hq => (nomatch hq), fun q' hq => ?_, fun hq => (nomatch hq)⟩
      cases hq
      obtain ⟨m, hm, hseq, haddr⟩ := place_join h
      have hmore : m.more en d ∈ (c.moreAt q en d).merges := List.mem_map.2 ⟨m, hm, if_pos hseq⟩
      exact ⟨m, hm, hseq, haddr, (entry_or_write hadv hmore).imp
        (fun ⟨y, hy, hs, ha, hen, hd⟩ => ⟨y, hy, hs.trans hseq, ha.trans haddr, hen, hd⟩)
        (fun ⟨w, hw, hs⟩ => ⟨w, hw, hs.trans hseq⟩)⟩
    | entry =>
      obtain ⟨t, hx, hb, hpo, hF, hadv⟩ := taken _ (acceptWrite_of_entry (s := s.quiet) d h)
      exact ⟨t, hx, hb, hpo, hF, fun hq => (nomatch hq), fun q hq => (nomatch hq),
        fun _ => entry_or_write hadv (List.mem_append_right _ (List.mem_singleton.2 rfl))⟩

end Sys2Proof.Machine

/-! PROOFS. The ECC code (R249, R250): the words of a read, without a flip and with one. -/

namespace Sys2Proof.Machine

theorem eccCheck_zero : eccCheck 0#64 = 0#8 := by decide

theorem eccAction_zero : eccAction 0#8 = .good := rfl

/-- A data bit's check bits are its column (R249). -/
theorem eccCheck_bit : ∀ i < 64, eccCheck (1#64 <<< i) = BitVec.ofNat 8 (eccColumns.getD i 0) := by decide +kernel

/-- The columns differ, and none is a check bit's or the mark of poison. -/
theorem eccAction_column : ∀ i : Fin 64, eccAction (BitVec.ofNat 8 (eccColumns.getD i 0)) = .correct (some i) := by decide +kernel

/-! Syndromes. -/

section
variable {e : MemEntry} (hp : ∀ b ∈ e.poison, b = false)
include hp

theorem poison_getD (j : Nat) : e.poison.getD j false = false := by
  rw [List.getD_eq_getElem?_getD]
  cases h : e.poison[j]? with
  | none => rfl
  | some b => exact hp b (List.mem_of_getElem? h)

theorem readSyndrome_of_no_flip {flips : List EccFlip} {i : Nat} (h : flips.find? (fun x => x.word.val == i) = none) :
    readSyndrome e flips i = 0#8 := by
  simp only [readSyndrome, h, poison_getD hp, Option.map_none, Option.getD_none, eccSyndrome, eccCheck_zero]
  simp

theorem readSyndrome_of_bit (w : Fin 32) {i : Nat} (hi : i < 64) :
    readSyndrome e [⟨w, 1#64 <<< i, 0#8⟩] w.val = BitVec.ofNat 8 (eccColumns.getD i 0) := by
  have hf : List.find? (fun x : EccFlip => x.word.val == w.val) [⟨w, 1#64 <<< i, 0#8⟩] = some ⟨w, 1#64 <<< i, 0#8⟩ := by simp
  simp only [readSyndrome, hf, poison_getD hp, Option.map_some, Option.getD_some, eccSyndrome, eccCheck_bit i hi]
  simp

theorem readSyndrome_beside_bit (w : Fin 32) (d : W64) {k : Nat} (hk : k ≠ w.val) : readSyndrome e [⟨w, d, 0#8⟩] k = 0#8 :=
  readSyndrome_of_no_flip hp (by simp [hk.symm])

end

/-! Lines. -/

/-- A line whose words have no syndrome is good. -/
theorem badLine_of_no_syndrome {ch : MemCh} {e : MemEntry} {flips : List EccFlip} {j : Nat}
    (h : ∀ k < 8, readSyndrome e flips (8 * j + k) = 0#8) : badLine (classifyLine ch e flips j) = false := by
  have hpoison : (classifyLine ch e flips j).poison = false := by
    simp only [classifyLine, List.any_map, List.any_eq_false, List.mem_range, Function.comp_apply]
    intro k hk
    simp [h k hk, eccAction_zero]
  have hbad : (classifyLine ch e flips j).bad = [] := by
    simp only [classifyLine, List.filter_eq_nil_iff, List.mem_map, List.mem_range]
    rintro _ ⟨k, hk, rfl⟩
    simp [h k hk, eccAction_zero]
  rw [badLine, hpoison, hbad]
  rfl

/-- One word of a line is corrected, where it alone has a syndrome and its syndrome is a data bit's. -/
theorem classifyLine_of_one_syndrome {ch : MemCh} {e : MemEntry} {flips : List EccFlip} {j k : Nat} {syn : BitVec 8} {b : Fin 64}
    (hk : k < 8) (hsyn : readSyndrome e flips (8 * j + k) = syn) (hb : eccAction syn = .correct (some b))
    (h : ∀ i < 8, i ≠ k → readSyndrome e flips (8 * j + i) = 0#8) :
    classifyLine ch e flips j = ⟨chanKey ch e.addr / 64 + j, [(8 * j + k, syn)], [], false⟩ := by
  have haction : ∀ i < 8, eccAction (readSyndrome e flips (8 * j + i)) = if i = k then .correct (some b) else .good := fun i hi => by
    by_cases hik : i = k
    · rw [if_pos hik, hik, hsyn, hb]
    · rw [if_neg hik, h i hi hik, eccAction_zero]
  have hone : ∀ k < 8, (List.range 8).filter (fun i => decide (i = k)) = [k] := by decide
  have hsound : ∀ x ∈ (List.range 8).map (fun i => (8 * j + i, readSyndrome e flips (8 * j + i))),
      eccAction x.2 = .correct (some b) ∨ eccAction x.2 = .good := by
    intro x hx
    obtain ⟨i, hi, rfl⟩ := List.mem_map.1 hx
    have hx := haction i (List.mem_range.1 hi)
    split at hx
    · exact .inl hx
    · exact .inr hx
  simp only [classifyLine, LineRead.mk.injEq, true_and]
  refine ⟨?_, List.filter_eq_nil_iff.2 (fun x hx => ?_), List.any_eq_false.2 (fun x hx => ?_)⟩
  · rw [List.filter_map, List.filter_congr (q := fun i => decide (i = k)), hone k hk]
    · simp [hsyn]
    · intro i hi
      simp only [Function.comp_apply, haction i (List.mem_range.1 hi)]
      by_cases hik : i = k <;> simp [hik]
  · rcases hsound x hx with h | h <;> simp [h]
  · rcases hsound x hx with h | h <;> simp [h]

/-- A read without a flip or poison returns good lines. -/
theorem classifyRead_good {ch : MemCh} {e : MemEntry} (hp : ∀ b ∈ e.poison, b = false) :
    ((classifyRead ch e []).map badLine).all (fun b => !b) = true := by
  simp only [classifyRead, List.map_map, List.all_map, List.all_eq_true, List.mem_range, Function.comp_apply, Bool.not_eq_true']
  exact fun j _ => badLine_of_no_syndrome (fun k _ => readSyndrome_of_no_flip hp rfl)

/-- A data bit flipped in one word of an unpoisoned line is corrected there (R250). -/
theorem classifyLine_of_bit {ch : MemCh} {e : MemEntry} (hp : ∀ b ∈ e.poison, b = false) (w : Fin 32) {i : Nat} (hi : i < 64) :
    classifyLine ch e [⟨w, 1#64 <<< i, 0#8⟩] (w.val / 8) =
      ⟨chanKey ch e.addr / 64 + w.val / 8, [(w.val, BitVec.ofNat 8 (eccColumns.getD i 0))], [], false⟩ := by
  have hw : 8 * (w.val / 8) + w.val % 8 = w.val := Nat.div_add_mod ..
  have h := classifyLine_of_one_syndrome (ch := ch) (Nat.mod_lt w.val (by decide : 0 < 8))
    (by rw [hw]; exact readSyndrome_of_bit hp w hi) (eccAction_column ⟨i, hi⟩)
    (fun k _ hk => readSyndrome_beside_bit hp w _ (by omega))
  rwa [hw] at h

end Sys2Proof.Machine

/-! PROOFS. Data that returns (R250 to R253): what the handling of a read's words touches. -/

namespace Sys2Proof.Machine

/-! Effects that a channel's queues survive. -/

theorem chan_of_mem {s t : State} (h : t.mem = s.mem) (ch : MemCh) : t.chan ch = s.chan ch :=
  congrArg (fun m : Mem => mget Chan.idle m.chans ch.val) h

/-- The parts that the words of a read may touch: the channels and poison, what a poisoned line is to its granule and its home, the counters and
reports. -/
def readParts : List Part := [.mem, .ext, .coh, .audit, .ras, .ctr, .serial]

/-- Only those parts have changed, nothing sent is taken back, and a channel's queues have but moved on. -/
structure Flows (ch : MemCh) (s t : State) : Prop where
  adds : Adds readParts s t
  queues : (s.chan ch).Advances (t.chan ch)

namespace Flows
variable {ch : MemCh} {s t u : State}

theorem rfl : Flows ch s s := ⟨.rfl s, .rfl⟩

theorem trans (h : Flows ch s t) (k : Flows ch t u) : Flows ch s u := ⟨h.adds.trans k.adds, h.queues.trans k.queues⟩

theorem of_chan {ps : List Part} (h : Adds ps s t) (hps : ∀ p ∈ ps, p ∈ readParts) (hc : t.chan ch = s.chan ch) : Flows ch s t :=
  ⟨h.mono hps, hc ▸ .rfl⟩

/-- An effect outside memory leaves every channel as it is. -/
theorem of_adds {ps : List Part} (h : Adds ps s t) (hm : Part.mem ∉ ps) (hps : ∀ p ∈ ps, p ∈ readParts) : Flows ch s t :=
  .of_chan h hps (chan_of_mem (h.same .mem hm) ch)

theorem setChan {c : Chan} (h : (s.chan ch).Advances c) : Flows ch s (s.setChan ch c) :=
  ⟨(setChan_adds s ch c).mono (by decide), (setChan_chan_same s ch c).symm ▸ h⟩

theorem foldl {α : Type} {f : State → α → State} (h : ∀ st x, Flows ch st (f st x)) (l : List α) : Flows ch s (l.foldl f s) := by
  induction l generalizing s with
  | nil => exact .rfl
  | cons x l ih => exact (h s x).trans ih

end Flows

theorem bump_adds (s : State) (off n : Nat) : Adds [.ras, .ctr, .serial] s (s.bump off n) := by
  refine ⟨bump_frame s off n, ?_⟩
  unfold State.bump
  dsimp only
  split
  · exact List.prefix_rfl
  · split
    · exact out_prefix_raise (by rfl) _
    · exact List.prefix_rfl

/-! The words of a line (R250 to R253). -/

theorem raise_flows (s : State) (ch : MemCh) (r : Report) : Flows ch s (s.raise r) := .of_adds (raise_adds s r) (by decide) (by decide)

theorem bump_flows (s : State) (ch : MemCh) (off n : Nat) : Flows ch s (s.bump off n) := .of_adds (bump_adds s off n) (by decide) (by decide)

theorem countCe_flows (s : State) (ch : MemCh) (e : MemEntry) (addr : Nat) (syn : BitVec 8) : Flows ch s (s.countCe ch e addr syn) := by
  have hset : ∀ rows, Flows ch s (s.setChan ch { s.chan ch with ceRows := rows }) := fun rows =>
    .setChan (.of_writes rfl List.prefix_rfl rfl)
  unfold State.countCe
  dsimp only
  split
  · exact ((hset _).trans (bump_flows ..)).trans (raise_flows ..)
  · exact (hset _).trans (bump_flows ..)

theorem writeBack_flows (s : State) (ch : MemCh) (e : MemEntry) (w : Nat) : Flows ch s (s.writeBack ch e w) := by
  unfold State.writeBack
  dsimp only
  split
  · exact .rfl
  · exact .setChan ((Chan.Advances.write ..).trans (drainMode_advances ..))

theorem setGran_adds (s : State) (g : Nat) (x : Gran) : Adds [.ext, .audit] s (s.setGran g x) :=
  adds_of_same rfl rfl (fun p => by cases p <;> simp [Part.same, State.setGran])

theorem adds_coh (s : State) (x : Coh) : Adds [.coh] s { s with coh := x } :=
  adds_of_same rfl rfl (fun p => by cases p <;> simp [Part.same])

/-- A poisoned line is put to its home's list, or no home records it (R252, R329); a FREE granule returns to SCRUBBING (R282). -/
theorem linePoisoned_adds (s : State) (line : Nat) : Adds [.ext, .coh, .audit, .ras, .ctr, .serial] s (s.linePoisoned line) := by
  unfold State.linePoisoned
  extract_lets g _ s1
  have h1 : Adds [.ext, .coh, .audit, .ras, .ctr, .serial] s s1 := by
    unfold s1
    split
    · exact ((setGran_adds ..).mono (by decide)).trans ((raise_adds ..).mono (by decide))
    · exact .rfl s
  have hrecover : ∀ l, Adds [.ext, .coh, .audit, .ras, .ctr, .serial] s { s1 with coh := { s1.coh with recover := s1.coh.recover ++ [l] } } :=
    fun l => h1.trans ((adds_coh s1 _).mono (by decide))
  split
  next =>
    split
    next =>
      extract_lets l
      split
      next => exact hrecover l
      next => exact hrecover l
      next => exact hrecover l
      next => exact h1
    next => exact h1
  next => exact h1

theorem poisonLine_flows (s : State) (ch : MemCh) (line : Nat) : Flows ch s (s.poisonLine line) :=
  Flows.trans (t := s.setPoison line) (.of_chan (adds_mem s _) (by decide) rfl)
    (.of_adds (linePoisoned_adds (s.setPoison line) line) (by decide) (by decide))

theorem settleLine_flows (s : State) (ch : MemCh) (e : MemEntry) (l : LineRead) : Flows ch s (s.settleLine ch e l) := by
  have hce : Flows ch s (l.corrected.foldl (fun st w => (st.countCe ch e (e.addr + 8 * w.1) w.2).writeBack ch e w.1) s) :=
    .foldl (fun st w => (countCe_flows st ch e _ _).trans (writeBack_flows _ ch e _)) _
  unfold State.settleLine
  extract_lets s1
  have hue : ∀ n r, Flows ch s ((s1.bump (ueCounter ch) n).raise r) := fun n r => (hce.trans (bump_flows ..)).trans (raise_flows ..)
  split
  next => exact hce
  next =>
    extract_lets
    split
    · exact hue _ _
    · exact (hue _ _).trans (poisonLine_flows ..)

/-! A read leaves its queue. -/

/-- The channel without the reads of a number. -/
def Chan.withoutRead (c : Chan) (q : Nat) : Chan := { c with reads := c.reads.filter (fun e => e.seq != q) }

theorem dropRead_queues (s : State) (ch : MemCh) (q : Nat) :
    Adds readParts s (s.dropRead ch q) ∧ ((s.chan ch).withoutRead q).Advances ((s.dropRead ch q).chan ch) := by
  obtain ⟨hadv, m, heq⟩ := setChan_afterQueue s ch ((s.chan ch).withoutRead q)
  refine ⟨?_, hadv⟩
  rw [show s.dropRead ch q = s.withChans m from heq]
  exact (withChans_adds s m).mono (by decide)

theorem withoutRead_unissued (c : Chan) (q : Nat) : ∀ e ∈ (c.withoutRead q).reads, e.seq = q → e.issued = false :=
  fun e he hs => absurd hs (by simpa using (List.mem_filter.1 he).2)

end Sys2Proof.Machine

/-! PROOFS. Data that returns (R235, R237, R249, R250): MEM_CTRL_READ_DATA and MERGE_READ_DONE. -/

namespace Sys2Proof.Machine

/-! MEM_CTRL_READ_DATA. -/

/-- A requester's read has left its queue, its lines have been dealt with, those returned as poison counted, and its data delivered. -/
def State.delivered (s : State) (ch : MemCh) (q : Nat) (e : MemEntry) (flips : List EccFlip) : State :=
  let bad := (classifyRead ch e flips).map badLine
  (((classifyRead ch e flips).foldl (fun st l => st.settleLine ch e l) (s.dropRead ch q)).bump (ctrMem 4 0) (bad.filter id).length).emit
    (.memData ch e.addr e.data bad)

theorem memCtrlReadData_of_read {s : State} {ch : MemCh} {q : Nat} {flips : List EccFlip} {e : MemEntry}
    (he : (s.chan ch).reads.find? (fun e => e.seq == q && e.issued && e.kind != .mergeRead) = some e) (hk : e.kind = .read)
    (hf : s.chanFailed ch = false) : memCtrlReadData ch q flips s = s.delivered ch q e flips := by
  simp [memCtrlReadData, he, hk, hf, State.delivered]

theorem emit_flows (s : State) (ch : MemCh) (o : Out) : Flows ch s (s.emit o) :=
  ⟨⟨Frame.emit s o, List.prefix_append _ _⟩, .rfl⟩

theorem delivered_queues (s : State) (ch : MemCh) (q : Nat) (e : MemEntry) (flips : List EccFlip) :
    Adds readParts s (s.delivered ch q e flips) ∧ ((s.chan ch).withoutRead q).Advances ((s.delivered ch q e flips).chan ch) := by
  obtain ⟨hadds, hadv⟩ := dropRead_queues s ch q
  have hrest : Flows ch (s.dropRead ch q) (s.delivered ch q e flips) :=
    ((Flows.foldl (fun st l => settleLine_flows st ch e l) _).trans (bump_flows ..)).trans (emit_flows ..)
  exact ⟨hadds.trans hrest.adds, hadv.trans hrest.queues⟩

/-! MERGE_READ_DONE. -/

/-- The channel with its merge-buffer entry q ready for the write queue. -/
def Chan.readied (c : Chan) (q : Nat) : Chan :=
  { c with merges := c.merges.map (fun x => if x.seq = q then { x with ready := true } else x) }

/-- The channel without merge-buffer entry m, which its bank waits for no more (R233, R237). -/
def Chan.discarded (c : Chan) (m : MergeEntry) : Chan :=
  { c with merges := c.merges.filter (fun x => x.seq != m.seq), banks := mmod MemBank.idle c.banks m.bank (fun b => b.wrote m.seq) }

/-- A merge read has left its queue and its line has been dealt with. -/
def State.mergeReturned (s : State) (ch : MemCh) (q : Nat) (e : MemEntry) (flips : List EccFlip) : State :=
  (s.dropRead ch q).settleLine ch e (classifyLine ch e flips 0)

section
variable {s : State} {ch : MemCh} {q : Nat} {flips : List EccFlip} {e : MemEntry} {m : MergeEntry}

theorem mergeReturned_queues (s : State) (ch : MemCh) (q : Nat) (e : MemEntry) (flips : List EccFlip) :
    Adds readParts s (s.mergeReturned ch q e flips) ∧
    ((s.chan ch).withoutRead q).Advances ((s.mergeReturned ch q e flips).chan ch) := by
  obtain ⟨hadds, hadv⟩ := dropRead_queues s ch q
  have hline := settleLine_flows (s.dropRead ch q) ch e (classifyLine ch e flips 0)
  exact ⟨hadds.trans hline.adds, hadv.trans hline.queues⟩

variable (he : (s.chan ch).reads.find? (fun e => e.seq == q && e.issued && e.kind == .mergeRead) = some e)
  (hm : (s.chan ch).merges.find? (fun m => m.addr == e.addr && m.asked && !m.ready) = some m)
include he hm

theorem mergeReadDone_of_good (hg : badLine (classifyLine ch e flips 0) = false) :
    mergeReadDone ch q flips s =
      ((s.mergeReturned ch q e flips).setChan ch (((s.mergeReturned ch q e flips).chan ch).readied m.seq)).afterQueue ch := by
  simp only [mergeReadDone, he, hm, hg, Bool.false_eq_true, if_false]
  rfl

theorem mergeReadDone_of_bad (hb : badLine (classifyLine ch e flips 0) = true) :
    ∃ d, mergeReadDone ch q flips s =
      (((((s.mergeReturned ch q e flips).setChan ch (((s.mergeReturned ch q e flips).chan ch).discarded m)).afterQueue ch).tally
        (ctrMem 5 0)).raise (mkReport 0x0A 0x03 1 (unitChan ch) e.addr d)) := by
  simp only [mergeReadDone, he, hm, hb, if_true]
  exact ⟨_, rfl⟩

/-- The entry whose line has come is ready, or its write is in the queue; its read is not in flight any more. -/
theorem mergeReadDone_good_queues (hg : badLine (classifyLine ch e flips 0) = false) :
    Adds readParts s (mergeReadDone ch q flips s) ∧
    ((∃ x ∈ ((mergeReadDone ch q flips s).chan ch).merges, x.seq = m.seq ∧ x.ready = true) ∨
      ∃ w ∈ ((mergeReadDone ch q flips s).chan ch).writes, w.seq = m.seq) ∧
    ∀ y ∈ ((mergeReadDone ch q flips s).chan ch).reads, y.seq = q → y.issued = false := by
  obtain ⟨hadds, hadv⟩ := mergeReturned_queues s ch q e flips
  obtain ⟨hend, ms, heq⟩ :=
    setChan_afterQueue (s.mergeReturned ch q e flips) ch (((s.mergeReturned ch q e flips).chan ch).readied m.seq)
  rw [mergeReadDone_of_good he hm hg]
  refine ⟨hadds.trans (heq ▸ (withChans_adds _ ms).mono (by decide)), ?_,
    hend.read_unissued (hadv.read_unissued (withoutRead_unissued _ q))⟩
  rcases hadv.stays m (List.mem_of_find?_eq_some hm) with ⟨y, hy, hmy⟩ | ⟨w, hw, hs⟩
  · have hseq : y.seq = m.seq := by rw [hmy.1]
    have hready : { y with ready := true } ∈ (((s.mergeReturned ch q e flips).chan ch).readied m.seq).merges :=
      List.mem_map.2 ⟨y, hy, if_pos hseq⟩
    refine (hend.stays _ hready).imp (fun ⟨x, hx, hyx⟩ => ⟨x, hx, ?_⟩) (fun ⟨w, hw, hs⟩ => ⟨w, hw, hs.trans hseq⟩)
    rw [hyx.1]
    exact ⟨hseq, rfl⟩
  · exact .inr ⟨w, hend.writes.subset hw, hs⟩

/-- The entry whose line is poisoned is discarded, and that is reported. -/
theorem mergeReadDone_bad_queues (hb : badLine (classifyLine ch e flips 0) = true) :
    Adds readParts s (mergeReadDone ch q flips s) ∧ (∀ x ∈ ((mergeReadDone ch q flips s).chan ch).merges, x.seq ≠ m.seq) ∧
    reported (mergeReadDone ch q flips s) 0x0A 0x03 1 (unitChan ch) := by
  obtain ⟨hadds, -⟩ := mergeReturned_queues s ch q e flips
  obtain ⟨hend, ms, heq⟩ :=
    setChan_afterQueue (s.mergeReturned ch q e flips) ch (((s.mergeReturned ch q e flips).chan ch).discarded m)
  obtain ⟨d, hdone⟩ := mergeReadDone_of_bad he hm hb
  rw [hdone]
  have hlast := fun u : State => (bump_flows u ch (ctrMem 5 0) 1).trans (raise_flows _ ch (mkReport 0x0A 0x03 1 (unitChan ch) e.addr d))
  refine ⟨(hadds.trans (heq ▸ (withChans_adds _ ms).mono (by decide))).trans (hlast _).adds, fun x hx => ?_, reported_raise ..⟩
  obtain ⟨y, hy, hyx⟩ := (hend.trans (hlast _).queues).stood x hx
  have hne : y.seq ≠ m.seq := by simpa using (List.mem_filter.1 hy).2
  rw [hyx.1]
  exact hne

end

/-- Settles O34: a return takes the read from its queue (`dropRead_queues`), its words are told apart by their syndromes (`classifyRead_good`,
`classifyLine_of_bit`), and what follows moves the queues on (`Flows`). -/
theorem readsReturn : Obligations.ReadsReturn := by
  unfold Obligations.ReadsReturn
  refine ⟨fun ch q flips e s hl he hk hf => ?_, fun ch e _ hp => classifyRead_good hp, fun ch e w i hi _ hp => classifyLine_of_bit hp w hi,
    fun ch q flips e m s hl he hm => ⟨fun hg => ?_, fun hb => ?_⟩⟩
  · obtain ⟨hadds, hadv⟩ := delivered_queues s.quiet ch q e flips
    obtain ⟨hx, hF⟩ :=
      live_next_frame (i := .memCtrlReadData ch q flips) rfl hl (memCtrlReadData_of_read (s := s.quiet) he hk hf) hadds.1 (by decide)
    exact ⟨_, hx, List.mem_append_right _ (List.mem_singleton.2 rfl), hadv.read_unissued (withoutRead_unissued _ q), hF⟩
  · obtain ⟨hadds, hentry, hreads⟩ := mergeReadDone_good_queues (s := s.quiet) he hm hg
    obtain ⟨hx, hF⟩ := live_next_frame (i := .mergeReadDone ch q flips) rfl hl rfl hadds.1 (by decide)
    exact ⟨_, hx, hentry.imp (fun ⟨x, hx, h⟩ => ⟨x, hx, h⟩) (fun ⟨w, hw, h⟩ => ⟨w, hw, h⟩), hreads, hF⟩
  · obtain ⟨hadds, hentry, hrep⟩ := mergeReadDone_bad_queues (s := s.quiet) he hm hb
    obtain ⟨hx, hF⟩ := live_next_frame (i := .mergeReadDone ch q flips) rfl hl rfl hadds.1 (by decide)
    exact ⟨_, hx, hentry, hrep, hF⟩

end Sys2Proof.Machine

/-! PROOFS. The memory schedulers' decision (R230 to R232, R239, R244): who is a candidate, and who is granted. -/

namespace Sys2Proof.Machine

/-- Bank b of a channel is asserted and proposes c, which its stack's duty lets issue. -/
def State.proposes (s : State) (ch : MemCh) (inp : ArbIn) (b : Nat) (c : Cand) : Prop :=
  b < chanBanks ch ∧ b ∈ inp.asserted ∧ s.bankCand ch inp.aged b = some c ∧ s.candIssues ch c.act = true

/-- The candidates of a decision, in the order of their banks. -/
def State.proposals (s : State) (ch : MemCh) (inp : ArbIn) : List (Nat × Cand) :=
  (List.range (chanBanks ch)).filterMap (fun b =>
    if inp.asserted.contains b then ((s.bankCand ch inp.aged b).filter (fun c => s.candIssues ch c.act)).map (fun c => (b, c)) else none)

section
variable {s : State} {ch : MemCh} {inp : ArbIn}

theorem mem_proposals {x : Nat × Cand} : x ∈ s.proposals ch inp ↔ s.proposes ch inp x.1 x.2 := by
  obtain ⟨b, c⟩ := x
  simp only [State.proposals, State.proposes, List.mem_filterMap, List.mem_range, List.contains_iff_mem, Option.ite_none_right_eq_some,
    Option.map_eq_some_iff, Option.filter_eq_some_iff, Prod.mk.injEq]
  constructor
  · rintro ⟨_, hb, ha, _, ⟨hc, hi⟩, rfl, rfl⟩
    exact ⟨hb, ha, hc, hi⟩
  · rintro ⟨hb, ha, hc, hi⟩
    exact ⟨b, hb, ha, c, ⟨hc, hi⟩, rfl, rfl⟩

theorem proposals_sorted (s : State) (ch : MemCh) (inp : ArbIn) : (s.proposals ch inp).Pairwise (fun x y => x.1 < y.1) := by
  refine List.pairwise_filterMap.2 (List.pairwise_lt_range.imp (fun {a b} hab x hx y hy => ?_))
  simp only [Option.ite_none_right_eq_some, Option.map_eq_some_iff] at hx hy
  obtain ⟨-, _, -, rfl⟩ := hx
  obtain ⟨-, _, -, rfl⟩ := hy
  exact hab

theorem pendClass_lt (drain : Bool) (aged : List Nat) (p : Pend) : pendClass drain aged p < 4 := by
  unfold pendClass
  split
  · omega
  · split
    · omega
    · split <;> omega

/-- A candidate's class is one of four (R232). -/
theorem bankCand_cls_lt {aged : List Nat} {b : Nat} {c : Cand} (h : s.bankCand ch aged b = some c) : c.cls < 4 := by
  unfold State.bankCand at h
  extract_lets _ bank owed full req due at h
  have hreq : ∀ x, req = some x → x.cls < 4 := fun x hx => by
    unfold req at hx
    split at hx
    next => cases hx
    next =>
      dsimp only at hx
      split at hx
      next => cases hx
      next =>
        cases hx
        exact pendClass_lt ..
  clear_value req
  split at h
  next => cases h; decide
  next =>
    split at h
    next => cases h; decide
    next =>
      cases req with
      | some x =>
        dsimp only at h
        split at h
        · cases h; decide
        · exact Option.some.inj h ▸ hreq x rfl
      | none =>
        dsimp only at h
        split at h
        · cases h; decide
        · cases h

/-- The schedulers' arbiter record once bank w is granted in a class (R43, R232). -/
def Arbiter.grantBank (r : Arbiter) (w cls : Nat) : Arbiter := { r with granted := some w, lastWinner := tput r.lastWinner cls w }

/-- A scheduler that may decide and has a candidate grants one of the best class, and issues it. -/
theorem memDecide_grants (ht : s.memTrained = true) (hf : s.chanFailed ch = false) (hr : s.chanRetraining ch = false)
    (h : ∃ b c, s.proposes ch inp b c) :
    ∃ w c, s.proposes ch inp w c ∧ (∀ b k, s.proposes ch inp b k → c.cls ≤ k.cls) ∧
      s.memDecide ch inp =
        (s.setArbiter (.mem ch) ((s.arbiter (.mem ch)).grantBank w c.cls)).issueCand ch w inp.draws c.act := by
  have hsort : ((s.proposals ch inp).map (fun x => (x.1, x.2.cls))).Pairwise (fun a b => a.1 < b.1) :=
    List.pairwise_map.2 (proposals_sorted s ch inp)
  have h4 : ∀ x ∈ (s.proposals ch inp).map (fun x => (x.1, x.2.cls)), x.2 < 4 := by
    intro x hx
    obtain ⟨⟨b, k⟩, hk, rfl⟩ := List.mem_map.1 hx
    obtain ⟨-, -, hk, -⟩ := mem_proposals.1 hk
    exact bankCand_cls_lt hk
  have hne : (s.proposals ch inp).map (fun x => (x.1, x.2.cls)) ≠ [] := by
    obtain ⟨b, c, hc⟩ := h
    exact List.ne_nil_of_mem (List.mem_map_of_mem (mem_proposals (x := (b, c)).2 hc))
  obtain ⟨_, hw, hwin, hbest, -⟩ := arbWinner_spec (lw := (s.arbiter (.mem ch)).lastWinner) hsort h4 hne
  obtain ⟨⟨w, c⟩, hwc, rfl⟩ := List.mem_map.1 hw
  have hp := mem_proposals.1 hwc
  have hfind : (s.proposals ch inp).find? (fun x => x.1 == w) = some (w, c) := by
    obtain ⟨⟨b, k⟩, hx⟩ := Option.isSome_iff_exists.1
      ((List.find?_isSome (p := fun x : Nat × Cand => x.1 == w)).2 ⟨(w, c), hwc, beq_self_eq_true w⟩)
    obtain rfl : b = w := by simpa using List.find?_some hx
    obtain ⟨-, -, hk, -⟩ := mem_proposals.1 (List.mem_of_find?_eq_some hx)
    obtain ⟨-, -, hc, -⟩ := hp
    obtain rfl : k = c := Option.some.inj (hk.symm.trans hc)
    exact hx
  refine ⟨w, c, hp, fun b k hk => hbest (b, k.cls) (List.mem_map_of_mem (mem_proposals (x := (b, k)).2 hk)), ?_⟩
  unfold State.memDecide
  simp only [ht, hf, hr, Bool.not_true, Bool.or_false, Bool.false_eq_true, if_false]
  rw [show (List.range (chanBanks ch)).filterMap _ = s.proposals ch inp from rfl, hwin]
  dsimp only
  rw [hfind]
  rfl

end

/-- The decision as a command of a live device. -/
theorem arbiterDecision_mem_grants {s : State} {ch : MemCh} {inp : ArbIn} (hl : s.live = true) (ht : s.memTrained = true)
    (hf : s.chanFailed ch = false) (hr : s.chanRetraining ch = false) (h : ∃ b c, s.proposes ch inp b c) :
    ∃ u w c, exec (.arbiterDecision (.mem ch) inp) s = .next (s.quiet.settle (u.issueCand ch w inp.draws c.act)) ∧
      s.proposes ch inp w c ∧ (∀ b k, s.proposes ch inp b k → c.cls ≤ k.cls) ∧ (u.arbiter (.mem ch)).granted = some w ∧
      Frame [.arb] s u := by
  obtain ⟨w, c, hp, hbest, heq⟩ := memDecide_grants (s := s.quiet) ht hf hr h
  exact ⟨_, w, c, live_next (i := .arbiterDecision (.mem ch) inp) rfl hl heq, hp, hbest, by rw [setArbiter_arbiter]; rfl,
    (Frame.quiet s).trans (adds_arb s.quiet _).1⟩

end Sys2Proof.Machine

/-! PROOFS. Refresh, Shelf temperature and retraining (R238 to R248, R554). -/

namespace Sys2Proof.Machine

/-! Refresh (R238, R239, R244). -/

/-- The channel once its next bank in turn has been refreshed. -/
def Chan.refreshed (c : Chan) (ch : MemCh) : Chan :=
  { c with refIssued := c.refIssued + 1, refBank := (c.refBank + 1) % chanBanks ch,
           banks := mmod MemBank.idle c.banks c.refBank (fun b => { b with openRow := none, run := 0 }) }

theorem refreshIssue_of_due {s : State} {ch : MemCh} (hf : s.chanFailed ch = false) (hlim : -refLimit ch < s.refOwed ch)
    (h : 0 < s.refOwed ch ∨ (s.chan ch).bankIdle (s.chan ch).refBank = true) :
    refreshIssue ch s = s.setChan ch ((s.chan ch).refreshed ch) := by
  unfold refreshIssue
  refine if_neg ?_
  rw [hf]
  rcases h with h | h
  · simp [Int.not_le.2 hlim, Int.not_le.2 h]
  · simp [Int.not_le.2 hlim, h]

/-- The channel once the first selected neighbour, in a bank, has been refreshed. -/
def Chan.neighborDone (c : Chan) (bank : Nat) (rest : List (Nat × Nat)) : Chan :=
  { c with neighbors := rest, banks := mmod MemBank.idle c.banks bank (fun b => { b with openRow := none, run := 0 }) }

theorem neighborRefresh_of_cons {s : State} {ch : MemCh} {b r : Nat} {rest : List (Nat × Nat)}
    (h : (s.chan ch).neighbors = (b, r) :: rest) :
    neighborRefresh ch s = (s.setChan ch ((s.chan ch).neighborDone b rest)).tally (nbrCounter ch) := by
  simp only [neighborRefresh, h, Chan.neighborDone]

theorem tally_chan (s : State) (off : Nat) (ch : MemCh) : (s.tally off).chan ch = s.chan ch :=
  chan_of_mem ((tally_adds s off).same .mem (by decide)) ch

/-- A bank whose row has been closed stands closed. -/
theorem openRow_of_closed (m : SMap MemBank) (b : Nat) :
    (mget MemBank.idle (mmod MemBank.idle m b (fun x => { x with openRow := none, run := 0 })) b).openRow = none := by
  rw [mmod, mget_mset_same]

/-! Shelf temperature (R241, R243, R554). -/

/-- A zone as a reading leaves it: OVERTEMP is set from 95 °C on and cleared at the lower threshold. -/
def Zone.heated (x : Zone) (thrOff temp : BitVec 8) : Zone :=
  { x with temp := temp, overtemp := if 95 ≤ temp.toInt then true else if temp.toInt ≤ thrOff.toInt then false else x.overtemp }

/-- The duty that a sample leaves a zone. -/
def sampleDuty (thrOn thrOff temp : BitVec 8) (duty : Nat) : Nat :=
  if decide (thrOn.toInt ≤ temp.toInt) then duty - 1 else if decide (temp.toInt ≤ thrOff.toInt) then min 16 (duty + 1) else duty

section
variable {thrOn thrOff temp : BitVec 8} {duty : Nat}

theorem sampleDuty_hot (h : thrOn.toInt ≤ temp.toInt) : sampleDuty thrOn thrOff temp duty = duty - 1 := if_pos (decide_eq_true h)

theorem sampleDuty_cool (h : temp.toInt < thrOn.toInt) (h' : temp.toInt ≤ thrOff.toInt) :
    sampleDuty thrOn thrOff temp duty = min 16 (duty + 1) := by
  simp [sampleDuty, Int.not_le.2 h, h']

theorem sampleDuty_between (h : temp.toInt < thrOn.toInt) (h' : thrOff.toInt < temp.toInt) :
    sampleDuty thrOn thrOff temp duty = duty := by
  simp [sampleDuty, Int.not_le.2 h, Int.not_le.2 h']

end

@[simp] theorem setZone_zone_same (s : State) (z : Nat) (x : Zone) : (s.setZone z x).zone z = x := mget_mset_same ..

theorem setZone_adds (s : State) (z : Nat) (x : Zone) : Adds [.mem] s (s.setZone z x) := adds_mem s _

/-- The parts that a zone's or a stack's event may touch: memory, and the counters and reports. -/
def zoneParts : List Part := [.mem, .ras, .ctr, .serial]

/-- A record of memory is written and perhaps reported: the report leaves memory as it was written. -/
theorem written_reported {s u : State} (h : Adds [.mem] s u) (p : Prop) [Decidable p] (r : Report) :
    Adds zoneParts s (if p then u.raise r else u) ∧ (if p then u.raise r else u).mem = u.mem := by
  split
  · exact ⟨(h.mono (by decide)).trans ((raise_adds u r).mono (by decide)), (raise_adds u r).same .mem (by decide)⟩
  · exact ⟨h.mono (by decide), rfl⟩

/-- A reading is recorded, and from 100 °C on the device trips. -/
theorem zoneHeat_cases (s : State) (z : Nat) (temp : BitVec 8) :
    ∃ u, Adds zoneParts s u ∧ u.mem = (s.setZone z ((s.zone z).heated s.mem.thrOff temp)).mem ∧
      s.zoneHeat z temp = if 100 ≤ temp.toInt then u.thermalTrip (BitVec.ofNat 16 (0x1000 + z)) else u := by
  obtain ⟨hu, hm⟩ := written_reported (setZone_adds s z ((s.zone z).heated s.mem.thrOff temp))
    ((((s.zone z).heated s.mem.thrOff temp).overtemp && !(s.zone z).overtemp) = true) (mkReport 0x0A 0x0A 1 (BitVec.ofNat 16 (0x1000 + z)) 0 0)
  exact ⟨_, hu, hm, rfl⟩

/-- A sample sets the zone's duty, and is then a reading. -/
theorem shelfThermSample_eq (z : RegionId) (temp : BitVec 8) (s : State) :
    ∃ u, Adds zoneParts s u ∧
      u.mem = (s.setZone z.val { s.zone z.val with duty := sampleDuty s.mem.thrOn s.mem.thrOff temp (s.zone z.val).duty }).mem ∧
      shelfThermSample z temp s = u.zoneHeat z.val temp := by
  obtain ⟨hu, hm⟩ := written_reported
    (setZone_adds s z.val { s.zone z.val with duty := sampleDuty s.mem.thrOn s.mem.thrOff temp (s.zone z.val).duty })
    ((s.zone z.val).duty = 16 ∧ sampleDuty s.mem.thrOn s.mem.thrOff temp (s.zone z.val).duty < 16) (mkReport 0x0A 0x09 0 (unitRegion z) 0 0)
  exact ⟨_, hu, hm, rfl⟩

/-- The zone as a sample leaves it, and the trip from 100 °C on. -/
theorem shelfThermSample_zone (z : RegionId) (temp : BitVec 8) (s : State) :
    ∃ u, Adds zoneParts s u ∧
      u.zone z.val =
        { (s.zone z.val).heated s.mem.thrOff temp with duty := sampleDuty s.mem.thrOn s.mem.thrOff temp (s.zone z.val).duty } ∧
      shelfThermSample z temp s = if 100 ≤ temp.toInt then u.thermalTrip (BitVec.ofNat 16 (0x1000 + z.val)) else u := by
  have zone_of_mem : ∀ {v w : State}, v.mem = w.mem → v.zone z.val = w.zone z.val := fun h =>
    congrArg (fun m : Mem => mget Zone.reset m.zones z.val) h
  obtain ⟨v, hv, hvm, heq⟩ := shelfThermSample_eq z temp s
  obtain ⟨u, hu, hum, hheat⟩ := zoneHeat_cases v z.val temp
  refine ⟨u, hv.trans hu, ?_, heq.trans hheat⟩
  rw [zone_of_mem hum, setZone_zone_same, zone_of_mem hvm, setZone_zone_same, hvm]
  rfl

theorem adds_plt (s : State) (x : Plt) : Adds [.plt] s { s with plt := x } :=
  adds_of_same rfl rfl (fun p => by cases p <;> simp [Part.same])

theorem thermalTrip_adds (s : State) (unit : BitVec 16) : Adds [.plt] s (s.thermalTrip unit) := adds_plt s _

theorem thermalTrip_not_live (s : State) (unit : BitVec 16) : (s.thermalTrip unit).live = false := by
  simp [State.live, State.thermalTrip]

/-! Retraining (R247, R248). -/

@[simp] theorem setStack_stack_same (s : State) (n : Nat) (x : Stack) : (s.setStack n x).stack n = x := mget_mset_same ..

theorem setStack_adds (s : State) (n : Nat) (x : Stack) : Adds [.mem] s (s.setStack n x) := adds_mem s _

theorem stack_of_mem {s t : State} (h : t.mem = s.mem) (n : Nat) : t.stack n = s.stack n :=
  congrArg (fun m : Mem => mget Stack.reset m.deepStacks n) h

/-- The pseudo-channel being retrained has refreshed what it owed when its turn came (R247 step 2). -/
def State.caughtUp (s : State) (st : Nat) : State :=
  let x := s.stack st
  let ch := stackChan st x.pc
  let c := s.chan ch
  let owed := (x.startCredit : Int) - c.refIssued
  if owed ≤ 0 then s
  else s.setChan ch { c with refIssued := c.refIssued + owed, refBank := (c.refBank + owed.toNat) % chanBanks ch }

theorem caughtUp_adds (s : State) (st : Nat) : Adds [.mem] s (s.caughtUp st) := by
  unfold State.caughtUp
  dsimp only
  split
  · exact .rfl s
  · exact setChan_adds ..

theorem caughtUp_creditOf (s : State) (st g : Nat) : (s.caughtUp st).creditOf g = s.creditOf g := by
  unfold State.caughtUp
  dsimp only
  split <;> rfl

section
variable {s : State} {st : StackId} (h : (s.stack st.val).retraining = true)
include h

theorem retrainPcDone_next (hpc : (s.stack st.val).pc < 31) :
    retrainPcDone st true s = (s.caughtUp st.val).setStack st.val
      { s.stack st.val with pc := (s.stack st.val).pc + 1, startCredit := s.creditOf st.val, failedOnce := false } := by
  rw [← caughtUp_creditOf s st.val st.val]
  simp only [retrainPcDone, h, Bool.not_true, Bool.false_eq_true, if_false, if_true, hpc]
  rfl

theorem retrainPcDone_last (hpc : 31 ≤ (s.stack st.val).pc) (ha : (s.stack st.val).again = false) :
    retrainPcDone st true s = ((s.caughtUp st.val).setStack st.val
      { s.stack st.val with retraining := false, pc := 0, trainTemp := (s.stack st.val).startTemp, failedOnce := false }).raise
        (mkReport 0x0A 0x07 0 (unitChan (stackChan st.val 0)) 0 0) := by
  simp only [retrainPcDone, h, ha, Bool.not_true, Bool.false_eq_true, if_false, if_true, if_neg (Nat.not_lt.2 hpc)]
  rfl

theorem retrainPcDone_first_failure (hf : (s.stack st.val).failedOnce = false) :
    retrainPcDone st false s = s.setStack st.val { s.stack st.val with failedOnce := true } := by
  simp [retrainPcDone, h, hf]

theorem retrainPcDone_second_failure (hf : (s.stack st.val).failedOnce = true) :
    retrainPcDone st false s = s.failStack st.val (2 ^ (s.stack st.val).pc) 1 := by
  simp [retrainPcDone, h, hf]

end

/-- Writes of channels leave every stack as it is. -/
theorem foldl_setChan_stack {α : Type} (f : State → α → MemCh) (g : State → α → Chan) (l : List α) (s : State) (n : Nat) :
    (l.foldl (fun acc i => acc.setChan (f acc i) (g acc i)) s).stack n = s.stack n := by
  induction l generalizing s with
  | nil => rfl
  | cons i l ih => exact ih _

/-- A stack that fails is marked and reported, and then its granules are lost (R248). -/
theorem failStack_of_not_failed {s : State} {st : Nat} (h : (s.stack st).failed = false) (mask cause : Nat) :
    ∃ u, s.failStack st mask cause = u.loseStack st ∧ (u.stack st).failed = true ∧ (u.stack st).retraining = false ∧
      Adds zoneParts s u := by
  unfold State.failStack
  extract_lets x pc s1 s2
  have hs2 : s2.stack st = s1.stack st := foldl_setChan_stack _ _ _ s1 st
  have hadds : Adds [.mem] s s2 := (setStack_adds s st _).trans (.foldl (fun acc i => setChan_adds acc _ _) _ s1)
  have hr : ∀ r, (s2.raise r).stack st = _ := fun r => (stack_of_mem ((raise_adds s2 r).same .mem (by decide)) st).trans
    (hs2.trans (setStack_stack_same s st _))
  refine ⟨_, if_neg (by simpa using h), ?_, ?_, (hadds.mono (by decide)).trans ((raise_adds ..).mono (by decide))⟩
  · rw [hr]
  · rw [hr]

/-- Settles O35: a scheduler's decision is `memDecide_grants`, a sample `shelfThermSample_zone`; the other commands are one write of the channel's or
the stack's record, and what follows it. -/
theorem refreshTemperatureTraining : Obligations.RefreshTemperatureTraining := by
  unfold Obligations.RefreshTemperatureTraining
  refine ⟨fun ch inp s hl ht hf hr hc => ?_, fun ch s hl hf hlim hdue => ?_, fun ch b r rest s hl hn => ?_,
    fun z temp s hl => ⟨fun hcool => ?_, fun hhot => ?_⟩,
    fun st s hl hr => ⟨fun hpc => ?_, fun hpc ha => ?_, fun h1 => ?_, fun h1 h2 => ?_⟩⟩
  · obtain ⟨u, w, c, hx, ⟨hb, has, hcand, hiss⟩, hbest, hgrant, hF⟩ := arbiterDecision_mem_grants hl ht hf hr hc
    exact ⟨_, u, w, c, hx, hb, has, hcand, hiss, fun b k h1 h2 h3 h4 => hbest b k ⟨h1, h2, h3, h4⟩, rfl, hgrant, hF⟩
  · obtain ⟨hx, hF⟩ := live_next_frame (i := .refreshIssue ch) rfl hl (refreshIssue_of_due (s := s.quiet) hf hlim hdue)
      (setChan_adds ..).1 (by decide)
    refine ⟨_, hx, ?_, ?_, ?_, ?_, hF⟩ <;> rw [setChan_chan_same]
    · rfl
    · rfl
    · exact openRow_of_closed ..
    · rfl
  · obtain ⟨hx, hF⟩ := live_next_frame (i := .neighborRefresh ch) rfl hl (neighborRefresh_of_cons (s := s.quiet) hn)
      (((setChan_adds ..).mono (qs := zoneParts) (by decide)).trans ((tally_adds ..).mono (by decide))).1 (by decide)
    refine ⟨_, hx, ?_, ?_, hF.mono (by decide)⟩ <;> rw [tally_chan, setChan_chan_same]
    · rfl
    · exact openRow_of_closed ..
  · obtain ⟨u, hu, hz, heq⟩ := shelfThermSample_zone z temp s.quiet
    rw [if_neg (Int.not_le.2 hcool)] at heq
    obtain ⟨hx, hF⟩ := live_next_frame (i := .shelfThermSample z temp) rfl hl heq hu.1 (by decide)
    refine ⟨u, hx, by rw [hz]; rfl, fun hon => ?_, fun hon hoff => ?_, fun hon hoff => ?_, fun hot => ?_, hF⟩
    · rw [hz]
      exact sampleDuty_hot hon
    · rw [hz]
      exact sampleDuty_cool hon hoff
    · rw [hz]
      exact sampleDuty_between hon hoff
    · rw [hz]
      exact if_pos hot
  · obtain ⟨u, hu, -, heq⟩ := shelfThermSample_zone z temp s.quiet
    rw [if_pos hhot] at heq
    obtain ⟨hx, hF⟩ := live_next_frame (i := .shelfThermSample z temp) rfl hl heq
      ((hu.mono (qs := [.mem, .ras, .ctr, .serial, .plt]) (by decide)).trans ((thermalTrip_adds u _).mono (by decide))).1 (by decide)
    exact ⟨_, hx, rfl, rfl, thermalTrip_not_live .., hF⟩
  · obtain ⟨hx, hF⟩ := live_next_frame (i := .retrainPcDone st true) rfl hl (retrainPcDone_next (s := s.quiet) hr hpc)
      ((caughtUp_adds ..).trans (setStack_adds ..)).1 (by decide)
    exact ⟨_, hx, setStack_stack_same .., hF⟩
  · have hdone := retrainPcDone_last (s := s.quiet) hr hpc ha
    obtain ⟨hx, hF⟩ := live_next_frame (i := .retrainPcDone st true) rfl hl hdone
      ((((caughtUp_adds ..).trans (setStack_adds ..)).mono (qs := zoneParts) (by decide)).trans ((raise_adds ..).mono (by decide))).1 (by decide)
    have hst := fun v r => (stack_of_mem ((raise_adds v r).same .mem (by decide)) st.val)
    exact ⟨_, hx, by rw [hst, setStack_stack_same], by rw [hst, setStack_stack_same]; rfl, reported_raise .., hF⟩
  · obtain ⟨hx, hF⟩ := live_next_frame (i := .retrainPcDone st false) rfl hl (retrainPcDone_first_failure (s := s.quiet) hr h1)
      (setStack_adds ..).1 (by decide)
    exact ⟨_, hx, setStack_stack_same .., hF⟩
  · obtain ⟨u, heq, hfailed, hretraining, hu⟩ := failStack_of_not_failed (s := s.quiet) h2 (2 ^ (s.stack st.val).pc) 1
    exact ⟨_, u, live_next (i := .retrainPcDone st false) rfl hl ((retrainPcDone_second_failure (s := s.quiet) hr h1).trans heq), rfl, hfailed,
      hretraining, (Frame.quiet s).trans hu.1⟩

end Sys2Proof.Machine

/-! PROOFS. SCRUB (R254 to R258): how one is refused or admitted, and how one that is over ends. -/

namespace Sys2Proof.Machine

/-- A scrub of a range of extent e, as it starts. -/
def newScrub (x : QPair) (d : Desc) (e : Nat) (y : Extent) : ScrubOp :=
  { ext := BitVec.ofNat 13 e, ep := x.cfg.ep, addr := fgaPpa (d.extractLsb' 128 64), length := descField d 24 8,
    resultAddr := d.extractLsb' 256 64, resultHost := d.getLsbD 320, shelf := y.shelf, ticks := 0,
    startTick := 0#64, given := [], outstanding := 0, wordsCorrected := 0, wordsRead := 0, wordsUncorrectable := 0,
    linesPoisoned := 0, linesAlready := 0, rows := [], stopped := none }

/-- The state with scrub n put among those that run, and with it taken out. -/
def State.putScrub (s : State) (n : Nat) (sc : ScrubOp) : State := { s with mem := { s.mem with scrubs := tput s.mem.scrubs n sc } }
def State.dropScrub (s : State) (n : Nat) : State := { s with mem := { s.mem with scrubs := tdel s.mem.scrubs n } }

theorem putScrub_adds (s : State) (n : Nat) (sc : ScrubOp) : Adds [.mem] s (s.putScrub n sc) := adds_mem s _
theorem dropScrub_adds (s : State) (n : Nat) : Adds [.mem] s (s.dropScrub n) := adds_mem s _

section
variable {s : State} {q : Qp} {h : Nat} {x : QPair} {d : Held} (hn : s.nextIs q h 0x40#8 = some (x, d))
include hn

theorem scrub_of_refused {st : Status} (hc : s.scrubChecks x d.desc = .error st) : scrub q h s = s.endDesc q h st 0#64 := by
  simp only [scrub, hn, hc]

theorem scrub_of_admitted {e : Nat} {y : Extent} (hc : s.scrubChecks x d.desc = .ok (e, y)) :
    scrub q h s = (s.newOp q h x d).2.putScrub s.que.nextOp (newScrub x d.desc e y) := by
  simp only [scrub, hn, hc]
  rfl

end

/-- The status that a scrub ends with: the one that stopped it, else that of its refused summary, else COMPLETE. -/
def scrubStatus (stopped bad : Option Status) : Status := match stopped, bad with
  | some st, _ => st
  | none, some st => st
  | none, none => stOk

/-- A scrub with nothing outstanding and nothing left to read, whose summary has been written or refused, is over. -/
theorem scrubDone_of_over {s s1 : State} {n : Nat} {sc : ScrubOp} {o : OpRec} {bad : Option Status} (hs : tget s.mem.scrubs n = some sc)
    (ho : s.op n = some o) (hout : sc.outstanding = 0) (hover : sc.stopped ≠ none ∨ s.scrubLeft sc = [])
    (hw : s.writeResult n o sc.resultHost sc.resultAddr (scrubSummary sc) = (some bad, s1)) :
    scrubDone n s = (s1.dropScrub n).finishOp n (scrubStatus sc.stopped bad) (BitVec.ofNat 64 sc.linesPoisoned) := by
  have hwait : ¬ (0 < sc.outstanding ∨ (sc.stopped.isNone ∧ !(s.scrubLeft sc).isEmpty)) := by
    rintro (h | ⟨hgo, hleft⟩)
    · omega
    · rcases hover with h | h
      · exact h (Option.isNone_iff_eq_none.1 hgo)
      · simp [h] at hleft
  simp only [scrubDone, hs, ho, if_neg hwait, hw]
  rfl

/-- Settles O36: a refused SCRUB ends its descriptor (`endDesc_descEnded`), an admitted one is a new operation with its scrub, and one that is over
finishes its operation with `scrubStatus`. -/
theorem scrubsStartAndEnd : Obligations.ScrubsStartAndEnd := by
  unfold Obligations.ScrubsStartAndEnd
  refine ⟨fun q h x d s hl ⟨hn, hh, hx⟩ => ⟨fun st hc => ?_, fun e y hc => ?_⟩, fun n sc o bad s s1 hl hs ho hout hover hw => ?_⟩
  · obtain ⟨hend, hfr⟩ := endDesc_descEnded (s := s.quiet) hn hh hx st 0#64
    obtain ⟨hx, hF⟩ := live_next_frame (i := .scrub q h) rfl hl (scrub_of_refused (s := s.quiet) hn hc) hfr (by decide)
    exact ⟨_, hx, hend, hF⟩
  · obtain ⟨o, ho, hq, hheld, -⟩ := newOp_op s.quiet q h x d
    obtain ⟨hx, hF⟩ := live_next_frame (i := .scrub q h) rfl hl (scrub_of_admitted (s := s.quiet) hn hc)
      (((newOp_adds ..).mono (qs := [.que, .mem]) (by decide)).trans ((putScrub_adds ..).mono (by decide))).1 (by decide)
    exact ⟨_, _, o, hx, tget_tput_same .., rfl, rfl, rfl, rfl, rfl, rfl, ho, hq, hheld, hF⟩
  · have hdone := live_next (i := .scrubDone n) rfl hl (scrubDone_of_over (s := s.quiet) hs ho hout hover hw)
    refine ⟨_, _, hdone, tget_tdel_same .., (dropScrub_adds s1 n).1.2, fun st hst => ?_, fun st hst hbad => ?_, fun hst hbad => ?_⟩
    · rw [hst]
      rfl
    · rw [hst, hbad]
      rfl
    · rw [hst, hbad]
      rfl

end Sys2Proof.Machine

/-! PROOFS. Extents and granules (R17, R272, R280): what the shared operations of the extent manager leave, and answers of a live device. -/

namespace Sys2Proof.Machine

/-! Free keys. -/

theorem tget_freeKey_of_gap {α : Type} {m : SMap α} {k : Nat} (hk : tget m k = none) (fuel n : Nat) (h1 : n ≤ k) (h2 : k ≤ n + fuel) :
    tget m (freeKey m fuel n) = none := by
  induction fuel generalizing n with
  | zero => rwa [freeKey, show n = k by omega]
  | succ fuel ih =>
    unfold freeKey
    split
    next hn =>
      have hne : n ≠ k := fun e => by simp [e, hk] at hn
      exact ih (n + 1) (by omega) (by omega)
    next hn => simpa using hn

/-- Fewer entries than keys leave one of the keys free. -/
theorem exists_free_key {α : Type} {m : SMap α} {n : Nat} (h : m.length < n) : ∃ k, k < n ∧ tget m k = none := by
  by_contra hall
  have hsub : List.range n ⊆ m.map Prod.fst := fun k hk => by
    by_contra hno
    exact hall ⟨k, List.mem_range.1 hk, tget_none_of_no_key (fun e he hek => hno (hek ▸ List.mem_map_of_mem he))⟩
  have hlen := (List.subperm_of_subset List.nodup_range hsub).length_le
  simp only [List.length_range, List.length_map] at hlen
  omega

theorem tget_freeKey_of_room {α : Type} {m : SMap α} {n : Nat} (h : m.length < n) : tget m (freeKey m n 0) = none := by
  obtain ⟨k, hk, hf⟩ := exists_free_key h
  exact tget_freeKey_of_gap hf n 0 (Nat.zero_le k) (by omega)

/-! Answers of a live device. -/

theorem live_reply {i : Instr} {s : State} {f : State → State} {code : BitVec 8} {result : Nat} {bytes : List Byte}
    (hi : exec i s = .next (s.quiet.whenLive f)) (hl : s.live = true) (hf : f s.quiet = s.quiet.reply code result bytes) :
    ∃ t, exec i s = .next t ∧ answered t code result bytes ∧ Frame [.sec] s t := by
  obtain ⟨hx, hF⟩ := live_next_frame hi hl hf (reply_frame ..) (by decide)
  exact ⟨_, hx, reply_answered .., hF⟩

theorem live_descEnded {i : Instr} {s : State} {f : State → State} {q : Qp} {h : Nat} {opc : BitVec 8} {x : QPair} {d : Held} {st : Status}
    {value : W64} (hi : exec i s = .next (s.quiet.whenLive f)) (hl : s.live = true) (hn : s.nextHeld q h opc x d)
    (hf : f s.quiet = s.quiet.endDesc q h st value) : ∃ t, exec i s = .next t ∧ descEnded t q h d.desc st ∧ Frame [.que] s t := by
  obtain ⟨hnext, hheld, hdrops⟩ := hn
  obtain ⟨hend, hfr⟩ := endDesc_descEnded (s := s.quiet) hnext hheld hdrops st value
  obtain ⟨hx, hF⟩ := live_next_frame hi hl hf hfr (by decide)
  exact ⟨_, hx, hend, hF⟩

/-- Settling does nothing where the fatal flag and the queue of commands are as before. -/
theorem settle_of_frame {ps : List Part} {s u : State} (hl : s.live = true) (hu : Frame ps s.quiet u) (hp : Part.dbg ∉ ps) :
    s.quiet.settle u = u := by
  rw [settle_of_not_fatal _ (by rw [frame_dbg hu hp]; exact live_not_fatal hl), ← hu.1]

/-! Extents. -/

theorem adds_ext (s : State) (x : Ext) : Adds [.ext] s { s with ext := x } :=
  adds_of_same rfl rfl (fun p => by cases p <;> simp [Part.same])

theorem extent_of_ext {s t : State} (h : t.ext = s.ext) (e : Nat) : t.extent e = s.extent e :=
  congrArg (fun x : Ext => tget x.extents e) h

theorem gran_of_ext {s t : State} (h : t.ext = s.ext) (g : Nat) : t.gran g = s.gran g :=
  congrArg (fun x : Ext => mget Gran.reset x.grans g) h

@[simp] theorem setExtent_extent_same (s : State) (e : Nat) (x : Extent) : (s.setExtent e x).extent e = some x := tget_tput_same ..

theorem setExtent_adds (s : State) (e : Nat) (x : Extent) : Adds [.ext] s (s.setExtent e x) := adds_ext s _

theorem setExtent_gran (s : State) (e : Nat) (x : Extent) (g : Nat) : (s.setExtent e x).gran g = s.gran g := rfl

theorem emit_adds {ps : List Part} (s : State) (o : Out) : Adds ps s (s.emit o) := ⟨Frame.emit s o, List.prefix_append _ _⟩

theorem mem_emit (s : State) (o : Out) : o ∈ (s.emit o).out := List.mem_append_right _ (List.mem_singleton.2 rfl)

theorem reply_adds (s : State) (code : BitVec 8) (result : Nat) (bytes : List Byte) : Adds [.sec] s (s.reply code result bytes) := by
  refine ⟨reply_frame .., ?_⟩
  unfold State.reply
  dsimp only
  split <;> exact List.prefix_append _ _

theorem Adds.answered {ps : List Part} {s t : State} (h : Adds ps s t) {code : BitVec 8} {result : Nat} {bytes : List Byte}
    (ha : answered s code result bytes) : answered t code result bytes := h.2.subset ha

/-! Granules. -/

@[simp] theorem setGran_gran_same (s : State) (g : Nat) (x : Gran) : (s.setGran g x).gran g = x := mget_mset_same ..

theorem setGran_gran_other (s : State) {g i : Nat} {x : Gran} (hx : x ≠ Gran.reset) (hi : i ≠ g) : (s.setGran g x).gran i = s.gran i :=
  mget_mset_ne _ _ hx hi

theorem setGrans_adds (s : State) (gs : List Nat) (st : GranState) : Adds [.ext, .audit] s (s.setGrans gs st) :=
  Adds.foldl (fun a g => setGran_adds a g _) gs s

/-- Granules given a state other than the one an unlisted granule has are in it, their FAILED flags as before; no other granule changes. -/
theorem setGrans_gran {st : GranState} (hst : st ≠ .scrubbing) (gs : List Nat) (s : State) (g : Nat) :
    (s.setGrans gs st).gran g = if g ∈ gs then { s.gran g with state := st } else s.gran g := by
  induction gs generalizing s with
  | nil => rfl
  | cons a gs ih =>
    have hstep : (s.setGrans (a :: gs) st) = (s.setGran a { s.gran a with state := st }).setGrans gs st := rfl
    have hne : ({ s.gran a with state := st } : Gran) ≠ Gran.reset := fun e => hst (congrArg Gran.state e)
    rw [hstep, ih]
    by_cases hg : g = a
    · subst hg
      simp
    · simp [hg, setGran_gran_other s hne hg]

theorem setGrans_extents (s : State) (gs : List Nat) (st : GranState) : (s.setGrans gs st).ext.extents = s.ext.extents := by
  induction gs generalizing s with
  | nil => rfl
  | cons a gs ih => exact (ih (s.setGran a { s.gran a with state := st })).trans rfl

theorem setGrans_records (s : State) (gs : List Nat) (st : GranState) : (s.setGrans gs st).ext.records = s.ext.records := by
  induction gs generalizing s with
  | nil => rfl
  | cons a gs ih => exact (ih (s.setGran a { s.gran a with state := st })).trans rfl

/-! An extent passes to a state (R280). -/

section
variable (s : State) (e : Nat) (x : Extent) (st : GranState)

theorem toExtState_adds : Adds [.ext, .audit] s (s.toExtState e x st) :=
  ((setGrans_adds ..).trans ((setExtent_adds ..).mono (by decide))).trans (emit_adds ..)

theorem toExtState_extent : (s.toExtState e x st).extent e = some { x with state := st, stateTick := s.tide.count } :=
  setExtent_extent_same ..

theorem toExtState_event : .extEvent (BitVec.ofNat 13 e) (extStateCode st) s.tide.count ∈ (s.toExtState e x st).out := by
  have ht : ((s.setGrans (x.grans ++ x.reserve) st).setExtent e { x with state := st, stateTick := s.tide.count }).tide = s.tide :=
    (setGrans_adds ..).same .tide (by decide)
  unfold State.toExtState State.extEvent
  rw [ht]
  exact mem_emit ..

theorem toExtState_gran {st : GranState} (hst : st ≠ .scrubbing) {g : Nat} (hg : g ∈ x.grans ++ x.reserve) :
    (s.toExtState e x st).gran g = { s.gran g with state := st } := by
  have h : (s.toExtState e x st).gran g = (s.setGrans (x.grans ++ x.reserve) st).gran g := rfl
  rw [h, setGrans_gran hst, if_pos hg]

theorem toExtState_records : (s.toExtState e x st).ext.records = s.ext.records := setGrans_records ..

end

end Sys2Proof.Machine

/-! PROOFS. The commands of the extent manager (R278): their refusals in order, and what each does. -/

namespace Sys2Proof.Machine

/-! Placement (R261). -/

/-- A granule that a grant may take from a tier. -/
def State.mayTake (s : State) (shelf : Bool) (g : Nat) : Prop := s.grantable g = true ∧ granShelf g = shelf

theorem lowestFree_spec {s : State} {shelf : Bool} {k : Nat} {taken : List Nat} {g : Nat} (h : s.lowestFree shelf k taken = some g) :
    s.mayTake shelf g ∧ g ∉ taken := by
  obtain ⟨e, he, rfl⟩ := Option.map_eq_some_iff.1 h
  have hp := List.find?_some he
  simp only [Bool.and_eq_true, beq_iff_eq, Bool.not_eq_true', List.contains_eq_mem, decide_eq_false_iff_not] at hp
  obtain ⟨⟨⟨hshelf, -⟩, hgrant⟩, hnew⟩ := hp
  exact ⟨⟨hgrant, hshelf⟩, hnew⟩

/-- The granules taken in turn are all different, and each is one that the grant may take. -/
theorem takeGrans_spec (s : State) (shelf : Bool) (fuel k c : Nat) (acc : List Nat) (hn : acc.Nodup) (ha : ∀ g ∈ acc, s.mayTake shelf g) :
    (s.takeGrans shelf fuel k c acc).1.Nodup ∧ ∀ g ∈ (s.takeGrans shelf fuel k c acc).1, s.mayTake shelf g := by
  induction fuel generalizing k c acc with
  | zero => exact ⟨hn, ha⟩
  | succ fuel ih =>
    cases k with
    | zero => exact ⟨hn, ha⟩
    | succ k =>
      unfold State.takeGrans
      extract_lets n failed
      split
      next g hg =>
        have hlow : s.lowestFree shelf c acc = some g := by
          split at hg
          · cases hg
          · exact hg
        obtain ⟨hmay, hnew⟩ := lowestFree_spec hlow
        refine ih _ _ _ (List.nodup_append.2 ⟨hn, List.nodup_singleton g, ?_⟩) (fun x hx => ?_)
        · rintro a hacc b hb rfl
          exact hnew (List.mem_singleton.1 hb ▸ hacc)
        · rcases List.mem_append.1 hx with hx | hx
          · exact ha x hx
          · exact List.mem_singleton.1 hx ▸ hmay
      next => exact ih _ _ _ hn ha

/-! EXT_GRANT. -/

/-- The grant names its base slot. -/
def grantNamed (a : GrantArgs) : Bool := a.baseSlot != 0xFFFF#16

/-- The granules that a grant asks for, its reserve's among them. -/
def grantWanted (a : GrantArgs) : Nat := a.granules.toNat + a.reserve.toNat

/-- The arguments of a grant of a kind are refused as such. -/
def grantMalformed (a : GrantArgs) (kind : ExtKind) : Prop :=
  a.granules.toNat = 0 ∨ (kind ≠ .snapshot ∧ (a.reserve.toNat ≠ 0 ∨ a.discard)) ∨ (kind = .snapshot ∧ a.reserve.toNat = 0) ∨
    2 < a.place.toNat ∨ (grantNamed a ∧ 16384 < a.baseSlot.toNat + a.granules.toNat)

theorem not_grantMalformed {a : GrantArgs} {kind : ExtKind} (hn : a.granules.toNat ≠ 0)
    (hplain : kind ≠ .snapshot → a.reserve.toNat = 0 ∧ a.discard = false) (hsnap : kind = .snapshot → a.reserve.toNat ≠ 0)
    (hp : a.place.toNat ≤ 2) (hnamed : grantNamed a = true → a.baseSlot.toNat + a.granules.toNat ≤ 16384) : ¬ grantMalformed a kind := by
  rintro (h | ⟨hk, h⟩ | ⟨hk, h⟩ | h | ⟨hk, h⟩)
  · exact hn h
  · obtain ⟨hr, hd⟩ := hplain hk
    simp [hr, hd] at h
  · exact hsnap hk h
  · omega
  · exact absurd (hnamed hk) (by omega)

/-- The tier that the placement chooses (R261). -/
def State.grantShelf (s : State) (a : GrantArgs) : Bool :=
  if a.place = 0#8 then false else if a.place = 1#8 then true
  else decide (grantWanted a ≤ s.mem.autoShelfMax.toNat) && decide (grantWanted a + s.mem.autoShelfReserve.toNat ≤ s.freeIn true)

/-- The base slot of a grant, if there is one for it. -/
def State.grantBase (s : State) (a : GrantArgs) : Option Nat :=
  if grantNamed a then (if s.slotsFree a.baseSlot.toNat a.granules.toNat then some a.baseSlot.toNat else none) else s.freeRun a.granules.toNat

/-- The granules that a grant takes, and where the next one starts. -/
def State.grantPick (s : State) (a : GrantArgs) : List Nat × Nat :=
  s.takeGrans (s.grantShelf a) ((grantWanted a + 1) * 13) (grantWanted a) (if s.grantShelf a then s.mem.nextTier else s.mem.nextStack) []

/-- The number that a grant takes. -/
def State.grantId (s : State) : Nat := freeKey s.ext.extents 8192 0

/-- The extent that a grant makes. -/
def State.grantedExtent (s : State) (a : GrantArgs) (kind : ExtKind) (base : Nat) : Extent :=
  { state := .granted, kind := kind, shelf := s.grantShelf a, lost := false, discard := a.discard, tenant := a.tenant, baseSlot := base,
    grans := (s.grantPick a).1.take a.granules.toNat, reserve := (s.grantPick a).1.drop a.granules.toNat, rights := [],
    notifyEp := a.notifyEp, notifyAddr := a.notifyAddr, grantTick := s.tide.count, stateTick := s.tide.count, views := [], changes := [],
    accepted := [], snap := if kind = .snapshot then some (Snap.fresh a.granules.toNat) else none, sealReply := none, fill := false }

/-- The placement's cursor moves on. -/
def State.moveCursor (s : State) (shelf : Bool) (c : Nat) : State :=
  { s with mem := if shelf then { s.mem with nextTier := c } else { s.mem with nextStack := c } }

theorem moveCursor_adds (s : State) (shelf : Bool) (c : Nat) : Adds [.mem] s (s.moveCursor shelf c) := adds_mem s _

/-- The state in which a grant has been made. -/
def State.extGranted (s : State) (a : GrantArgs) (kind : ExtKind) (base : Nat) : State :=
  (s.moveCursor (s.grantShelf a) (s.grantPick a).2).toExtState s.grantId (s.grantedExtent a kind base) .granted

theorem extGranted_adds (s : State) (a : GrantArgs) (kind : ExtKind) (base : Nat) : Adds [.mem, .ext, .audit] s (s.extGranted a kind base) :=
  ((moveCursor_adds ..).mono (by decide)).trans ((toExtState_adds ..).mono (by decide))

theorem grantedExtent_grans (s : State) (a : GrantArgs) (kind : ExtKind) (base : Nat) :
    (s.grantedExtent a kind base).grans ++ (s.grantedExtent a kind base).reserve = (s.grantPick a).1 := List.take_append_drop ..

theorem grantPick_spec (s : State) (a : GrantArgs) :
    (s.grantPick a).1.Nodup ∧ ∀ g ∈ (s.grantPick a).1, s.mayTake (s.grantShelf a) g :=
  takeGrans_spec s _ _ _ _ [] List.nodup_nil (fun _ hg => absurd hg List.not_mem_nil)

/-- A granule that a grant takes is GRANTED then, and not FAILED. -/
theorem extGranted_gran (s : State) (a : GrantArgs) (kind : ExtKind) (base : Nat) {g : Nat} (hg : g ∈ (s.grantPick a).1) :
    (s.extGranted a kind base).gran g = ⟨.granted, false⟩ := by
  obtain ⟨hgrant, -⟩ := (grantPick_spec s a).2 g hg
  simp only [State.grantable, Bool.and_eq_true, Bool.not_eq_true'] at hgrant
  have hg' : g ∈ (s.grantedExtent a kind base).grans ++ (s.grantedExtent a kind base).reserve := by rwa [grantedExtent_grans]
  exact (toExtState_gran _ _ _ (by decide) hg').trans (congrArg (Gran.mk .granted) hgrant.1.2)

theorem extGrant_of_no_kind {a : GrantArgs} (h : grantKind a.kind = none) (s : State) : extGrant a s = s.reply 0x01#8 7 [] := by
  simp only [extGrant, h]

theorem extGrant_of_malformed {a : GrantArgs} {kind : ExtKind} (h : grantKind a.kind = some kind) (hm : grantMalformed a kind) (s : State) :
    extGrant a s = s.reply 0x01#8 7 [] := by
  simp only [extGrant, h]
  exact if_pos hm

/-- EXT_GRANT with arguments in order: the other results in the order of its row. -/
theorem extGrant_of_wellFormed {a : GrantArgs} {kind : ExtKind} (h : grantKind a.kind = some kind) (hm : ¬ grantMalformed a kind) (s : State) :
    extGrant a s =
      if 8192 ≤ s.ext.extents.length then s.reply 0x01#8 6 []
      else if s.freeIn (s.grantShelf a) < grantWanted a then s.reply 0x01#8 1 []
      else match s.grantBase a with
        | none => s.reply 0x01#8 2 []
        | some base => (s.extGranted a kind base).reply 0x01#8 0 (natBytes 2 s.grantId ++ natBytes 2 base) := by
  simp only [extGrant, h]
  exact (if_neg hm).trans rfl

/-! EXT_SET_RIGHTS, EXT_REVOKE, EXT_QUERY. -/

theorem pushChange_adds (s : State) (e : Nat) (x : Extent) (c : ExtChange) : Adds [.ext] s (s.pushChange e x c) := setExtent_adds ..

theorem pushChange_extent (s : State) (e : Nat) (x : Extent) (c : ExtChange) :
    (s.pushChange e x c).extent e = some { x with changes := x.changes ++ [⟨c, allSlices⟩] } := setExtent_extent_same ..

theorem length_natBytes (n v : Nat) : (natBytes n v).length = n := by
  induction n generalizing v with
  | zero => rfl
  | succ n ih => simp [natBytes, ih]

theorem length_bytesOf {w : Nat} (v : BitVec w) (n : Nat) : (bytesOf v n).length = n := by simp [bytesOf]

theorem length_extRecord (s : State) (e : Nat) (x : Extent) : (extRecord s e x).length = 64 := by
  simp [extRecord, length_natBytes, length_bytesOf]

/-- A change is on its way to the slices. -/
def Extent.awaits (x : Extent) (c : ExtChange) : Bool := x.changes.any (fun p => p.change == c)

section
variable {s : State} {e : ExtId} {x : Extent} (hx : s.extent e.toNat = some x)
include hx

/-- EXT_SET_RIGHTS of a used number: the refusals in the order of its row. -/
theorem extSetRights_of_used (es : List W32) :
    extSetRights e es s =
      if x.state = .sealed ∨ x.awaits .seal then s.reply 0x02#8 4 []
      else if x.state ≠ .granted then s.reply 0x02#8 3 []
      else if 64 < es.length then s.reply 0x02#8 7 []
      else if es.any badRight then s.reply 0x02#8 5 []
      else if 131072 < s.rightsUsed e.toNat + es.length then s.reply 0x02#8 6 []
      else s.pushChange e.toNat x (.rights es) := by
  simp only [extSetRights, hx]
  rfl

/-- While an extent is GRANTED with no seal on its way, the list alone decides. -/
theorem extSetRights_of_open (hg : x.state = .granted) (hs : x.awaits .seal = false) (es : List W32) :
    extSetRights e es s =
      if 64 < es.length then s.reply 0x02#8 7 []
      else if es.any badRight then s.reply 0x02#8 5 []
      else if 131072 < s.rightsUsed e.toNat + es.length then s.reply 0x02#8 6 []
      else s.pushChange e.toNat x (.rights es) := by
  rw [extSetRights_of_used hx, if_neg (by simp [hg, hs]), if_neg (not_not_intro hg)]

theorem extRevoke_of_refused (h : x.state = .draining ∨ x.state = .scrubbing ∨ x.awaits .revoke = true) :
    extRevoke e s = s.reply 0x03#8 3 [] := by
  simp only [extRevoke, hx]
  exact if_pos h

theorem extRevoke_of_accepted (hd : x.state ≠ .draining) (hs : x.state ≠ .scrubbing) (hr : x.awaits .revoke = false) :
    extRevoke e s = (s.pushChange e.toNat x .revoke).reply 0x03#8 0 [] := by
  unfold Extent.awaits at hr
  simp [extRevoke, State.revoke, hx, hd, hs, hr]

theorem extQuery_of_used : extQuery e s = s.reply 0x04#8 0 (extRecord s e.toNat x) := by simp only [extQuery, hx]

end

/-- The three commands that name an extent refuse an unused number. -/
theorem extCommands_of_unused {s : State} {e : ExtId} (hx : s.extent e.toNat = none) (es : List W32) :
    extSetRights e es s = s.reply 0x02#8 7 [] ∧ extRevoke e s = s.reply 0x03#8 7 [] ∧ extQuery e s = s.reply 0x04#8 7 [] := by
  simp only [extSetRights, extRevoke, extQuery, hx, and_self]

/-- The effect of a grant (R272, R278). -/
theorem live_extGranted {s : State} {a : GrantArgs} {kind : ExtKind} {b : Nat} (hl : s.live = true)
    (hroom : s.ext.extents.length < 8192)
    (hf : extGrant a s.quiet = (s.quiet.extGranted a kind b).reply 0x01#8 0 (natBytes 2 s.grantId ++ natBytes 2 b)) :
    ∃ t id x, exec (.extGrant a) s = .next t ∧ answered t 0x01#8 0 (natBytes 2 id ++ natBytes 2 b) ∧ s.extent id = none ∧
      t.extent id = some x ∧ x.state = .granted ∧ x.kind = kind ∧ x.tenant = a.tenant ∧ x.baseSlot = b ∧ x.rights = [] ∧
      x.lost = false ∧ x.shelf = s.grantShelf a ∧ x.discard = a.discard ∧ x.grantTick = s.tide.count ∧ (x.grans ++ x.reserve).Nodup ∧
      (∀ g, g ∈ x.grans ++ x.reserve → s.grantable g = true ∧ granShelf g = s.grantShelf a ∧ t.gran g = ⟨.granted, false⟩) ∧
      Frame [.mem, .ext, .sec, .audit] s t := by
  have hrep := reply_adds (s.quiet.extGranted a kind b) 0x01#8 0 (natBytes 2 s.grantId ++ natBytes 2 b)
  obtain ⟨hx, hF⟩ := live_next_frame (i := .extGrant a) rfl hl hf
    (((extGranted_adds ..).mono (by decide)).trans (hrep.mono (by decide))).1 (ps := [.mem, .ext, .sec, .audit]) (by decide)
  have hext := hrep.same .ext (by decide)
  have hpick := grantPick_spec s.quiet a
  refine ⟨_, s.grantId, _, hx, reply_answered .., tget_freeKey_of_room hroom, (extent_of_ext hext _).trans (toExtState_extent ..),
    rfl, rfl, rfl, rfl, rfl, rfl, rfl, rfl, rfl, ?_, fun g hg => ?_, hF⟩
  · exact (grantedExtent_grans s.quiet a kind b).symm ▸ hpick.1
  · replace hg : g ∈ (s.quiet.grantPick a).1 := grantedExtent_grans s.quiet a kind b ▸ hg
    obtain ⟨hgrant, hshelf⟩ := hpick.2 g hg
    exact ⟨hgrant, hshelf, (gran_of_ext hext g).trans (extGranted_gran _ _ _ _ hg)⟩

/-- Settles O37: each command of the extent manager is one answer, or one new extent or change with its answer. That a seal on its way counts as
SEALED and a revocation on its way as DRAINING are the model's choices. -/
theorem extentCommandsAnswer : Obligations.ExtentCommandsAnswer := by
  unfold Obligations.ExtentCommandsAnswer
  refine ⟨fun a s hl => ?_, fun e es s hl => ⟨fun hx => ?_, fun x hx => ?_⟩,
    fun e s hl => ⟨fun hx => ?_, fun x hx => ⟨fun h => ?_, fun hd hs hr => ?_⟩⟩, fun e s hl => ⟨fun hx => ?_, fun x hx => ?_⟩⟩
  · refine ⟨fun h => live_reply rfl hl ?_, fun kind hk hn hplain hsnap hp hnamed => ?_⟩
    · rcases hk : grantKind a.kind with _ | kind
      · exact extGrant_of_no_kind hk _
      · refine extGrant_of_malformed hk ?_ _
        simp only [hk, reduceCtorEq, false_or, ne_eq, Option.some.injEq] at h
        exact h
    · have hgrant := extGrant_of_wellFormed hk (not_grantMalformed hn hplain hsnap hp hnamed) s.quiet
      refine ⟨fun hfull => live_reply rfl hl ?_, fun hroom hfew => live_reply rfl hl ?_, fun hroom hmany hbase => live_reply rfl hl ?_,
        fun b hroom hmany hbase => live_extGranted hl hroom ?_⟩
      · rw [hgrant]
        exact if_pos hfull
      · rw [hgrant]
        exact (if_neg (Nat.not_le.2 hroom)).trans (if_pos hfew)
      · rw [hgrant]
        refine ((if_neg (Nat.not_le.2 hroom)).trans (if_neg (Nat.not_lt.2 hmany))).trans ?_
        rw [show s.quiet.grantBase a = none from hbase]
      · rw [hgrant]
        refine ((if_neg (Nat.not_le.2 hroom)).trans (if_neg (Nat.not_lt.2 hmany))).trans ?_
        rw [show s.quiet.grantBase a = some b from hbase]
        rfl
  · exact live_reply rfl hl (extCommands_of_unused (s := s.quiet) hx es).1
  · have hset := extSetRights_of_used (s := s.quiet) hx es
    have hopen := fun hg hs => extSetRights_of_open (s := s.quiet) hx hg hs es
    refine ⟨fun h => live_reply rfl hl ?_, fun h1 h2 h3 => live_reply rfl hl ?_, fun h1 h2 h3 => live_reply rfl hl ?_,
      fun h1 h2 h3 h4 => live_reply rfl hl ?_, fun h1 h2 h3 h4 h5 => live_reply rfl hl ?_, fun h1 h2 h3 h4 h5 => ?_⟩
    · exact hset.trans (if_pos h)
    · exact (hset.trans (if_neg (not_or.2 ⟨h1, Bool.eq_false_iff.1 h2⟩))).trans (if_pos h3)
    · rw [hopen h1 h2, if_pos h3]
    · rw [hopen h1 h2, if_neg (Nat.not_lt.2 h3), if_pos h4]
    · rw [hopen h1 h2, if_neg (Nat.not_lt.2 h3), h4, if_neg Bool.false_ne_true]
      exact if_pos h5
    · have hf : extSetRights e es s.quiet = s.quiet.pushChange e.toNat x (.rights es) := by
        rw [hopen h1 h2, if_neg (Nat.not_lt.2 h3), h4, if_neg Bool.false_ne_true]
        exact if_neg (Nat.not_lt.2 h5)
      obtain ⟨ht, hF⟩ := live_next_frame (i := .extSetRights e es) rfl hl hf (pushChange_adds ..).1 (by decide)
      exact ⟨_, ht, rfl, pushChange_extent .., hF⟩
  · exact live_reply rfl hl (extCommands_of_unused (s := s.quiet) hx []).2.1
  · exact live_reply rfl hl (extRevoke_of_refused (s := s.quiet) hx h)
  · have hrep := reply_adds (s.quiet.pushChange e.toNat x .revoke) 0x03#8 0 []
    obtain ⟨ht, hF⟩ := live_next_frame (i := .extRevoke e) rfl hl (extRevoke_of_accepted (s := s.quiet) hx hd hs hr)
      (((pushChange_adds ..).mono (by decide)).trans (hrep.mono (by decide))).1 (ps := [.ext, .sec]) (by decide)
    exact ⟨_, ht, reply_answered .., (extent_of_ext (hrep.same .ext (by decide)) _).trans (pushChange_extent ..), hF⟩
  · exact live_reply rfl hl (extCommands_of_unused (s := s.quiet) hx []).2.2
  · obtain ⟨t, ht, hans, hF⟩ := live_reply (i := .extQuery e) rfl hl (extQuery_of_used (s := s.quiet) hx)
    exact ⟨t, ht, hans, length_extRecord .., hF⟩

end Sys2Proof.Machine

/-! PROOFS. The extent check (R275): its steps in order. -/

namespace Sys2Proof.Machine

theorem accDenied_of_rights {a : Access} {x : Extent} (h : a.loader = none) (r : Bool × Bool × Bool) (b : Bool) :
    accDenied a x r b = true ↔ (a.needR = true ∧ r.1 = false) ∨ (a.needW = true ∧ r.2.1 = false) ∨ (a.needA = true ∧ r.2.2 = false) ∨
      (b = true ∧ x.tenant ∉ a.auth) := by
  simp [accDenied, h, or_assoc]

theorem accDenied_of_loader {a : Access} {x : Extent} {t : Tenant} (h : a.loader = some t) (r : Bool × Bool × Bool) (b : Bool) :
    accDenied a x r b = true ↔ x.tenant ≠ t ∨ b = true := by
  simp [accDenied, h]

/-- The access is of a kind that the extent's kind does not take (step 5). -/
def kindWrong (a : Access) (x : Extent) (addr : W64) : Bool := (x.kind != .coherent && a.coherent) || (x.kind != .snapshot && fgaV addr)

theorem kindWrong_iff (a : Access) (x : Extent) (addr : W64) :
    kindWrong a x addr = true ↔ (x.kind ≠ .coherent ∧ a.coherent = true) ∨ (x.kind ≠ .snapshot ∧ fgaV addr = true) := by
  simp [kindWrong]

theorem kindWrong_of_fits {a : Access} {x : Extent} {addr : W64} (hc : x.kind ≠ .coherent → a.coherent = false)
    (hv : x.kind ≠ .snapshot → fgaV addr = false) : kindWrong a x addr = false := by
  rw [Bool.eq_false_iff, Ne, kindWrong_iff]
  rintro (⟨hk, ha⟩ | ⟨hk, ha⟩)
  · simp [hc hk] at ha
  · simp [hv hk] at ha

/-- The PPA after the last byte of an extent. -/
def Extent.endPpa (x : Extent) : Nat := (x.baseSlot + x.grans.length) * granBytes

/-- Where an accepted access of an extent without versions goes, at granule i of it. -/
def Extent.place (x : Extent) (e i : Nat) (addr : W64) : Accepted :=
  { ext := e, slice := ppaSlice (fgaPpa addr), key := x.grans.getD i 0 * granBytes + fgaPpa addr % granBytes, line := fgaPpa addr / 64,
    kind := x.kind, vslot := none, leaf := 0, lostGran := false }

/-- Step 1: the address is not this node's, or no extent's slot. -/
theorem extCheck_of_nowhere {s : State} {addr : W64} (h : fgaNode addr ≠ s.rtr.nodeId ∨ (fgaV addr = false ∧ addr.extractLsb' 54 9 ≠ 0#9) ∨
    s.slotExtent (fgaPpa addr / granBytes) = none) (a : Access) (reqEnd : Nat) : s.extCheck a addr reqEnd = .error stNone := by
  unfold State.extCheck
  dsimp only
  split
  next => rfl
  next hhere =>
    simp only [Bool.or_eq_true, Bool.and_eq_true, bne_iff_ne, Bool.not_eq_true', not_or] at hhere
    obtain ⟨hnode, hgen⟩ := hhere
    rw [(h.resolve_left hnode).resolve_left hgen]

/-- Steps 2 to 6 for an access that was not accepted before, and what becomes of one that passes them all. -/
theorem extCheck_of_mapped {s : State} {addr : W64} {e : Nat} {x : Extent} {i : Nat} {a : Access} (hn : fgaNode addr = s.rtr.nodeId)
    (hg : fgaV addr = false → addr.extractLsb' 54 9 = 0#9) (hs : s.slotExtent (fgaPpa addr / granBytes) = some (e, x, i))
    (hp : a.passed = false) (reqEnd : Nat) :
    ∃ r, (x.snap = none → r = .ok (x.place e i addr)) ∧ s.extCheck a addr reqEnd =
      let v := extView x (ppaSlice (fgaPpa addr))
      if v.revoked then .error stRevoked
      else if x.lost then .error stLost
      else if x.endPpa < reqEnd then .error stRange
      else if kindWrong a x addr then .error stKind
      else if accDenied a x (rightsOf v.rights a.ep) v.sealed then .error stDenied
      else r := by
  have hgen : (!fgaV addr && addr.extractLsb' 54 9 != 0#9) = false := by
    cases hv : fgaV addr
    · simp [hg hv]
    · rfl
  simp only [State.extCheck, hn, bne_self_eq_false, hgen, Bool.or_self, Bool.false_eq_true, if_false, hs, hp, Bool.not_false, Bool.and_true,
    Bool.true_and]
  refine ⟨_, fun hsnap => ?_, rfl⟩
  rw [hsnap]
  rfl

/-- Step 6 alone decides for an access that passes steps 1 to 5. -/
theorem extCheck_of_fitting {s : State} {addr : W64} {e : Nat} {x : Extent} {i : Nat} {a : Access} {reqEnd : Nat}
    (hn : fgaNode addr = s.rtr.nodeId) (hg : fgaV addr = false → addr.extractLsb' 54 9 = 0#9)
    (hs : s.slotExtent (fgaPpa addr / granBytes) = some (e, x, i)) (hp : a.passed = false)
    (hr : (extView x (ppaSlice (fgaPpa addr))).revoked = false) (hl : x.lost = false) (he : reqEnd ≤ x.endPpa)
    (hk : kindWrong a x addr = false) :
    ∃ r, (x.snap = none → r = .ok (x.place e i addr)) ∧ s.extCheck a addr reqEnd =
      if accDenied a x (rightsOf (extView x (ppaSlice (fgaPpa addr))).rights a.ep) (extView x (ppaSlice (fgaPpa addr))).sealed
      then .error stDenied else r := by
  obtain ⟨r, hok, heq⟩ := extCheck_of_mapped hn hg hs hp reqEnd
  refine ⟨r, hok, heq.trans ?_⟩
  simp only [hr, hl, hk, Nat.not_lt.2 he, Bool.false_eq_true, if_false]

end Sys2Proof.Machine

/-! PROOFS. Changes reach the slices, extents drain and are filled (R279 to R286, R297). -/

namespace Sys2Proof.Machine

/-! EXTENT_CHANGE_APPLY. -/

/-- The extent once a slice has applied the change at the head of its list. -/
def Extent.applied (x : Extent) (sl : Slice) (c : ExtChange) (left : List Slice) (rest : List PendingChange) : Extent :=
  { x with changes := ⟨c, left.erase sl⟩ :: rest, views := mmod SliceView.fresh x.views sl.val (fun v => applyView v c) }

theorem applied_view (x : Extent) (sl : Slice) (c : ExtChange) (left : List Slice) (rest : List PendingChange) :
    extView (x.applied sl c left rest) sl.val = applyView (extView x sl.val) c := mget_mset_same ..

section
variable {s : State} {sl : Slice} {e : ExtId} {x : Extent} (hx : s.extent e.toNat = some x)
include hx

section
variable {c : ExtChange} {left : List Slice} {rest : List PendingChange} (hc : x.changes = ⟨c, left⟩ :: rest)
include hc

theorem extentChangeApply_of_done (h : sl ∉ left) : extentChangeApply sl e s = s := by
  simp [extentChangeApply, hx, hc, h]

theorem extentChangeApply_of_more (h : sl ∈ left) (hm : left.erase sl ≠ []) :
    extentChangeApply sl e s = s.setExtent e.toNat (x.applied sl c left rest) := by
  simp [extentChangeApply, hx, hc, h, hm, Extent.applied]

theorem extentChangeApply_of_last (h : left = [sl]) :
    extentChangeApply sl e s =
      (s.setExtent e.toNat (x.applied sl c left rest)).changeDone e.toNat (x.applied sl c left rest) c rest := by
  simp [extentChangeApply, hx, hc, h, Extent.applied]

end

/-- A publication that has started: the slice switches. -/
theorem extentChangeApply_switches {sn : Snap} {p : Publication} {more : List Publication} (hc : x.changes = []) (hs : x.snap = some sn)
    (hp : sn.pubs = p :: more) (hstart : p.chosen.isSome = true) (hnew : sl ∉ p.switched) :
    extentChangeApply sl e s =
      s.setExtent e.toNat { x with snap := some { sn with pubs := { p with switched := p.switched ++ [sl] } :: more } } := by
  simp [extentChangeApply, hx, hc, hs, hp, hstart, hnew]

end

/-- A revocation done, of an extent that is not coherent and names no NOTIFY_EP: the extent is DRAINING (R283). -/
theorem changeDone_revoke {x : Extent} (hk : x.kind ≠ .coherent) (hn : x.notifyEp = 0x3FFF#14) (s : State) (e : Nat)
    (rest : List PendingChange) : s.changeDone e x .revoke rest = s.toExtState e { x with changes := rest } .draining := by
  simp [State.changeDone, State.notice, hn, toExtState_extent, hk]

/-! EXTENT_DRAIN_DONE. -/

/-- A rights change. -/
def ExtChange.isRights : ExtChange → Bool
  | .rights _ => true
  | _ => false

/-- The answers to the rights changes that stood behind a revocation. -/
def State.answerRights (s : State) (cs : List PendingChange) : State :=
  (cs.filter (fun c => c.change.isRights)).foldl (fun st _ => st.reply 0x02#8 0 []) s

theorem answerRights_adds (s : State) (cs : List PendingChange) : Adds [.sec] s (s.answerRights cs) :=
  Adds.foldl (fun st _ => reply_adds st ..) _ s

theorem answerRights_answered {cs : List PendingChange} {c : PendingChange} (hc : c ∈ cs) (hr : c.change.isRights = true) (s : State) :
    answered (s.answerRights cs) 0x02#8 0 [] := by
  obtain ⟨l1, l2, hl⟩ := List.append_of_mem (List.mem_filter (p := fun c => c.change.isRights) |>.2 ⟨hc, hr⟩)
  unfold State.answerRights
  rw [hl, List.foldl_append, List.foldl_cons]
  exact (Adds.foldl (fun st _ => reply_adds st ..) l2 _).answered (reply_answered ..)

/-- The recalls of an extent are dropped. -/
def State.dropRecalls (s : State) (e : Nat) : State :=
  { s with coh := { s.coh with recalls := s.coh.recalls.filter (fun w => w.ext != some e) } }

/-- An extent as it enters SCRUBBING. -/
def Extent.drainedRec (x : Extent) : Extent :=
  { x with snap := x.snap.map (fun sn => { sn with pubs := [], opens := [] }), views := [], changes := [], fill := false }

/-- A drained extent is SCRUBBING, its records and recalls gone (R285, R286). -/
def State.drain (s : State) (e : Nat) (x : Extent) : State :=
  (((s.answerRights x.changes).dropRecordsOf e).dropRecalls e).toExtState e x.drainedRec .scrubbing

/-- The snapshot operations that wait on an extent. -/
def Extent.waitingOps (x : Extent) : List Nat := match x.snap with
  | some sn => sn.pubs.map (fun (p : Publication) => p.op) ++ sn.opens.map (fun (o : OpenWait) => o.op)
  | none => []

theorem extentDrainDone_of_drained {s : State} {e : ExtId} {x : Extent} (hx : s.extent e.toNat = some x) (hd : s.drained x = true) :
    extentDrainDone e s = x.waitingOps.foldl (fun st n => st.completeOp n stRevoked 0#64 0#16) (s.drain e.toNat x) := by
  simp only [extentDrainDone, hx, hd, Bool.not_true, Bool.false_eq_true, if_false]
  rfl

theorem extentDrainDone_of_busy {s : State} {e : ExtId} {x : Extent} (hx : s.extent e.toNat = some x) (hd : s.drained x = false) :
    extentDrainDone e s = s := by
  simp [extentDrainDone, hx, hd]

theorem dropRecordsOf_adds (s : State) (e : Nat) : Adds [.ext] s (s.dropRecordsOf e) := adds_ext s _

theorem dropRecalls_adds (s : State) (e : Nat) : Adds [.coh] s (s.dropRecalls e) := adds_coh s _

section
variable (s : State) (e : Nat) (x : Extent)

theorem undrained_adds : Adds [.ext, .coh, .sec] s (((s.answerRights x.changes).dropRecordsOf e).dropRecalls e) :=
  (((answerRights_adds ..).mono (by decide)).trans ((dropRecordsOf_adds ..).mono (by decide))).trans ((dropRecalls_adds ..).mono (by decide))

theorem drain_adds : Adds [.ext, .coh, .sec, .audit] s (s.drain e x) :=
  ((undrained_adds s e x).mono (by decide)).trans ((toExtState_adds ..).mono (by decide))

theorem drain_event : .extEvent (BitVec.ofNat 13 e) 3#8 s.tide.count ∈ (s.drain e x).out := by
  have ht := (undrained_adds s e x).same .tide (by decide)
  have hev := toExtState_event (((s.answerRights x.changes).dropRecordsOf e).dropRecalls e) e x.drainedRec .scrubbing
  rw [show _ = s.tide from ht] at hev
  exact hev

theorem drain_records : ∀ r ∈ (s.drain e x).ext.records, r.2.ext.toNat ≠ e := by
  intro r hr
  rw [State.drain, toExtState_records] at hr
  simpa using (List.mem_filter.1 hr).2

theorem drain_answered {c : PendingChange} (hc : c ∈ x.changes) (hr : c.change.isRights = true) : answered (s.drain e x) 0x02#8 0 [] :=
  ((((dropRecordsOf_adds ..).mono (ps := [.ext]) (qs := [.ext, .coh, .audit]) (by decide)).trans ((dropRecalls_adds ..).mono (by decide))).trans
    ((toExtState_adds ..).mono (by decide))).answered (answerRights_answered hc hr s)

end

/-! ZERO_FILL_COMMIT. -/

/-- A byte of a granule that is not flagged FAILED. -/
def State.fills (s : State) (g a : Nat) : Prop := (s.gran g).failed = false ∧ g * granBytes ≤ a ∧ a < g * granBytes + granBytes

theorem poolZero_adds (s : State) (key n : Nat) : Adds [.mem] s (s.poolZero key n) := adds_mem s _

theorem fillGran_adds (s : State) (g : Nat) : Adds [.mem] s (s.fillGran g) := by
  unfold State.fillGran
  split
  · exact .rfl s
  · exact poolZero_adds ..

theorem wf_fillGran {s : State} (h : Memory.wf s = true) (g : Nat) : Memory.wf (s.fillGran g) = true := by
  unfold State.fillGran
  split
  · exact h
  · exact Memory.wf_poolZero h ..

theorem fillGran_zero {s : State} {g a : Nat} (h : s.fills g a) : mget 0 (s.fillGran g).mem.bytes a = 0#8 := by
  obtain ⟨hf, h1, h2⟩ := h
  simp only [State.fillGran, hf, Bool.false_eq_true, if_false, State.poolZero, zeroBytes, mget]
  rw [tget_filter_false _ (fun j => !(decide (g * granBytes ≤ j) && decide (j < g * granBytes + granBytes))) (by simp [h1, h2])]
  rfl

theorem fillGran_kept {s : State} (hw : Memory.wf s = true) {g a : Nat} (h : ¬ s.fills g a) :
    mget 0 (s.fillGran g).mem.bytes a = mget 0 s.mem.bytes a := by
  unfold State.fillGran
  split
  next => rfl
  next hf =>
    refine (mget_zeroBytes (smapWf_keysRise hw) ..).trans (if_neg fun hin => h ⟨Bool.eq_false_iff.2 hf, hin⟩)

/-- The fill of granules in turn. -/
def State.fillGrans (s : State) (gs : List Nat) : State := gs.foldl (fun st g => st.fillGran g) s

theorem fillGrans_adds (s : State) (gs : List Nat) : Adds [.mem] s (s.fillGrans gs) := Adds.foldl fillGran_adds gs s

theorem wf_fillGrans {s : State} (h : Memory.wf s = true) (gs : List Nat) : Memory.wf (s.fillGrans gs) = true := by
  induction gs generalizing s with
  | nil => exact h
  | cons g gs ih => exact ih (wf_fillGran h g)

theorem fills_fillGran (s : State) (g i a : Nat) : (s.fillGran g).fills i a ↔ s.fills i a := by
  unfold State.fills
  rw [gran_of_ext ((fillGran_adds s g).same .ext (by decide))]

/-- A fill changes no byte outside the granules filled. -/
theorem fillGrans_kept {s : State} (hw : Memory.wf s = true) {gs : List Nat} {a : Nat} (h : ∀ g ∈ gs, ¬ s.fills g a) :
    mget 0 (s.fillGrans gs).mem.bytes a = mget 0 s.mem.bytes a := by
  induction gs generalizing s with
  | nil => rfl
  | cons g gs ih =>
    refine (ih (wf_fillGran hw g) fun i hi => ?_).trans (fillGran_kept hw (h g (List.mem_cons_self ..)))
    rw [fills_fillGran]
    exact h i (List.mem_cons_of_mem _ hi)

theorem fillGrans_stays_zero {s : State} (hw : Memory.wf s = true) (gs : List Nat) {a : Nat} (h : mget 0 s.mem.bytes a = 0#8) :
    mget 0 (s.fillGrans gs).mem.bytes a = 0#8 := by
  induction gs generalizing s with
  | nil => exact h
  | cons g gs ih =>
    refine ih (wf_fillGran hw g) ?_
    by_cases hf : s.fills g a
    · exact fillGran_zero hf
    · exact (fillGran_kept hw hf).trans h

/-- Every byte of the granules filled reads zero. -/
theorem fillGrans_zero {s : State} (hw : Memory.wf s = true) {gs : List Nat} {g a : Nat} (hg : g ∈ gs) (h : s.fills g a) :
    mget 0 (s.fillGrans gs).mem.bytes a = 0#8 := by
  induction gs generalizing s with
  | nil => exact absurd hg List.not_mem_nil
  | cons i gs ih =>
    rcases List.mem_cons.1 hg with rfl | hg
    · exact fillGrans_stays_zero (wf_fillGran hw g) gs (fillGran_zero h)
    · exact ih (wf_fillGran hw i) hg ((fills_fillGran ..).2 h)

/-- The number of an extent is unused again. -/
def State.dropExtent (s : State) (e : Nat) : State := { s with ext := { s.ext with extents := tdel s.ext.extents e } }

theorem dropExtent_adds (s : State) (e : Nat) : Adds [.ext] s (s.dropExtent e) := adds_ext s _

/-- The state in which an extent's fill has ended. -/
def State.extFilled (s : State) (e : Nat) (x : Extent) : State :=
  (((s.fillGrans (x.grans ++ x.reserve)).setGrans (x.grans ++ x.reserve) .free).dropExtent e).extEvent e .free

theorem zeroFillCommit_of_admitted {s : State} {e : ExtId} {x : Extent} (hx : s.extent e.toNat = some x) (hs : x.state = .scrubbing)
    (hf : x.fill = true) : zeroFillCommit (.extent e) s = s.extFilled e.toNat x := by
  simp only [zeroFillCommit, hx, hs, hf]
  rfl

theorem zeroFillCommit_of_waiting {s : State} {e : ExtId} {x : Extent} (hx : s.extent e.toNat = some x) (hf : x.fill = false) :
    zeroFillCommit (.extent e) s = s := by
  simp [zeroFillCommit, hx, hf]

section
variable (s : State) (e : Nat) (x : Extent)

theorem extFilled_adds : Adds [.ext, .mem, .audit] s (s.extFilled e x) :=
  ((((fillGrans_adds ..).mono (by decide)).trans ((setGrans_adds ..).mono (by decide))).trans ((dropExtent_adds ..).mono (by decide))).trans
    (emit_adds ..)

theorem extFilled_mem : (s.extFilled e x).mem = (s.fillGrans (x.grans ++ x.reserve)).mem := (setGrans_adds ..).same .mem (by decide)

theorem extFilled_extent : (s.extFilled e x).extent e = none := tget_tdel_same ..

theorem extFilled_event : .extEvent (BitVec.ofNat 13 e) 0#8 s.tide.count ∈ (s.extFilled e x).out := by
  have ht : (((s.fillGrans (x.grans ++ x.reserve)).setGrans (x.grans ++ x.reserve) .free).dropExtent e).tide = s.tide :=
    ((((fillGrans_adds ..).mono (qs := [.ext, .mem, .audit]) (by decide)).trans ((setGrans_adds ..).mono (by decide))).trans
      ((dropExtent_adds ..).mono (by decide))).same .tide (by decide)
  unfold State.extFilled State.extEvent
  rw [ht]
  exact mem_emit ..

theorem extFilled_gran {g : Nat} (hg : g ∈ x.grans ++ x.reserve) : (s.extFilled e x).gran g = { s.gran g with state := .free } := by
  have h : (s.extFilled e x).gran g = ((s.fillGrans (x.grans ++ x.reserve)).setGrans (x.grans ++ x.reserve) .free).gran g := rfl
  rw [h, setGrans_gran (by decide), if_pos hg, gran_of_ext ((fillGrans_adds ..).same .ext (by decide))]

end

/-- The state in which a granule of no extent has been filled. -/
def State.granFilled (s : State) (g : Nat) : State := (s.fillGran g).setGran g { (s.fillGran g).gran g with state := .free }

theorem granFilled_adds (s : State) (g : Nat) : Adds [.ext, .mem, .audit] s (s.granFilled g) :=
  ((fillGran_adds ..).mono (by decide)).trans ((setGran_adds ..).mono (by decide))

theorem granFilled_gran (s : State) (g : Nat) : (s.granFilled g).gran g = { s.gran g with state := .free } := by
  rw [State.granFilled, setGran_gran_same, gran_of_ext ((fillGran_adds s g).same .ext (by decide))]

theorem zeroFillCommit_of_unowned {s : State} {g : Nat} (hp : s.plt.phase = .fill ∨ s.plt.phase = .ready ∨ s.plt.phase = .shutdown)
    (hg : g < granCountAll) (hd : dumpGran g = false) (ho : s.granOwner g = none) (hs : (s.gran g).state = .scrubbing) :
    zeroFillCommit (.granule g) s = s.granFilled g := by
  have hgo : ¬ ((s.plt.phase ≠ .fill ∧ s.plt.phase ≠ .ready ∧ s.plt.phase ≠ .shutdown) ∨ granCountAll ≤ g ∨ dumpGran g = true ∨
      (s.gran g).state ≠ .scrubbing ∨ (s.granOwner g).isSome = true) := by
    rintro (⟨h1, h2, h3⟩ | h | h | h | h)
    · rcases hp with hp | hp | hp
      · exact h1 hp
      · exact h2 hp
      · exact h3 hp
    · omega
    · simp [hd] at h
    · exact h hs
    · simp [ho] at h
  exact if_neg hgo

/-- Settles O38: the extent check is `extCheck_of_mapped`; a slice's change is `Extent.applied`; a drained extent is `State.drain`; and a fill is
`State.extFilled`, whose bytes are those of `fillGrans`. That a slice switches to a publication while no change waits is the model's choice
(log entry 39). -/
theorem extentsChangeDrainAndFill : Obligations.ExtentsChangeDrainAndFill := by
  unfold Obligations.ExtentsChangeDrainAndFill
  refine ⟨fun s a addr reqEnd => ⟨fun h => extCheck_of_nowhere h a reqEnd, fun e x i hn hg hs hp hld => ?_,
      fun e x i tn hn hg hs hp hld hr hl he hc hv hd => ?_⟩,
    fun sl e x c left rest s hl hx hc => ⟨fun h => live_idles rfl hl (extentChangeApply_of_done (s := s.quiet) hx hc h), fun h hm => ?_,
      fun h => ?_⟩,
    fun sl e x sn p more s hl hx hc hs hp hstart hnew => ?_,
    fun e x s hl hx => ⟨fun hd => live_idles rfl hl (extentDrainDone_of_busy (s := s.quiet) hx hd), fun hd => ?_⟩,
    fun e x s hl hx hs => ⟨fun hf => live_idles rfl hl (zeroFillCommit_of_waiting (s := s.quiet) hx hf), fun hf hw => ?_⟩,
    fun g s hl hp hg hd ho hs hf => ?_⟩
  · obtain ⟨r, hr, heq⟩ := extCheck_of_mapped hn hg hs hp reqEnd
    rw [heq]
    refine ⟨fun h => if_pos h, fun h1 h2 => ?_, fun h1 h2 => ⟨fun h3 => ?_, fun h3 => ⟨fun h4 => ?_, fun hc hv => ?_⟩⟩⟩
    · exact (if_neg (Bool.eq_false_iff.1 h1)).trans (if_pos h2)
    · exact (if_neg (Bool.eq_false_iff.1 h1)).trans ((if_neg (Bool.eq_false_iff.1 h2)).trans (if_pos h3))
    · exact (if_neg (Bool.eq_false_iff.1 h1)).trans ((if_neg (Bool.eq_false_iff.1 h2)).trans ((if_neg (Nat.not_lt.2 h3)).trans
        (if_pos ((kindWrong_iff ..).2 h4))))
    · rw [← heq]
      obtain ⟨r, hok, heq⟩ := extCheck_of_fitting hn hg hs hp h1 h2 h3 (kindWrong_of_fits hc hv)
      rw [heq]
      refine ⟨fun h => if_pos ((accDenied_of_rights hld ..).2 h), fun hR hW hA hS hsnap => ⟨x.place e i addr, ?_, rfl, rfl, rfl⟩⟩
      rw [hok hsnap]
      refine if_neg fun hden => ?_
      rcases (accDenied_of_rights hld ..).1 hden with ⟨h, hno⟩ | ⟨h, hno⟩ | ⟨h, hno⟩ | ⟨h, hno⟩
      · exact Bool.false_ne_true (hno.symm.trans (hR h))
      · exact Bool.false_ne_true (hno.symm.trans (hW h))
      · exact Bool.false_ne_true (hno.symm.trans (hA h))
      · exact hno (hS h)
  · obtain ⟨r, -, heq⟩ := extCheck_of_fitting hn hg hs hp hr hl he (kindWrong_of_fits hc hv)
    rw [heq]
    exact if_pos ((accDenied_of_loader hld ..).2 hd)
  · obtain ⟨ht, hF⟩ := live_next_frame (i := .extentChangeApply sl e) rfl hl (extentChangeApply_of_more (s := s.quiet) hx hc h hm)
      (setExtent_adds ..).1 (by decide)
    exact ⟨_, ht, setExtent_extent_same .., applied_view .., hF⟩
  · have hset := (setExtent_adds s.quiet e.toNat (x.applied sl c left rest)).1
    have hlast := extentChangeApply_of_last (s := s.quiet) hx hc h
    refine ⟨_, _, live_next (i := .extentChangeApply sl e) rfl hl hlast, setExtent_extent_same .., (Frame.quiet s).trans hset, rfl,
      fun hrev hk hnot => ?_⟩
    subst hrev
    have hto := toExtState_adds (s.quiet.setExtent e.toNat (x.applied sl .revoke left rest)) e.toNat
      { x.applied sl .revoke left rest with changes := rest } .draining
    have hF := (hset.mono (qs := [.ext, .audit]) (by decide)).trans hto.1
    have hev := toExtState_event (s.quiet.setExtent e.toNat (x.applied sl .revoke left rest)) e.toNat
      { x.applied sl .revoke left rest with changes := rest } .draining
    rw [BitVec.ofNat_toNat, BitVec.setWidth_eq] at hev
    rw [changeDone_revoke (x := x.applied sl .revoke left rest) hk hnot, settle_of_frame hl hF (by decide)]
    exact ⟨_, toExtState_extent .., rfl, rfl, rfl, hev, (Frame.quiet s).trans hF⟩
  · obtain ⟨ht, hF⟩ := live_next_frame (i := .extentChangeApply sl e) rfl hl
      (extentChangeApply_switches (s := s.quiet) hx hc hs hp hstart hnew) (setExtent_adds ..).1 (by decide)
    exact ⟨_, ht, setExtent_extent_same .., hF⟩
  · have hdrain := extentDrainDone_of_drained (s := s.quiet) hx hd
    refine ⟨_, s.quiet.drain e.toNat x, _, live_next (i := .extentDrainDone e) rfl hl hdrain, toExtState_extent .., rfl, fun r hr => ?_, ?_,
      (Frame.quiet s).trans (drain_adds ..).1, fun c hc ⟨es, hes⟩ => drain_answered _ _ _ hc (by rw [hes]; rfl), rfl⟩
    · exact fun he => drain_records s.quiet e.toNat x r hr (congrArg BitVec.toNat he)
    · have hev := drain_event s.quiet e.toNat x
      rwa [BitVec.ofNat_toNat, BitVec.setWidth_eq] at hev
  · obtain ⟨ht, hF⟩ := live_next_frame (i := .zeroFillCommit (.extent e)) rfl hl (zeroFillCommit_of_admitted (s := s.quiet) hx hs hf)
      (extFilled_adds ..).1 (by decide)
    have hev := extFilled_event s.quiet e.toNat x
    have hmem := extFilled_mem s.quiet e.toNat x
    rw [BitVec.ofNat_toNat, BitVec.setWidth_eq] at hev
    refine ⟨_, ht, extFilled_extent .., hev, fun g hg => ?_, fun g a hg hgood h1 h2 => ?_, fun a hout => ?_, ?_, hF⟩
    · rw [extFilled_gran _ _ _ hg]
      exact ⟨rfl, rfl⟩
    · rw [hmem]
      exact fillGrans_zero (s := s.quiet) hw hg ⟨hgood, h1, h2⟩
    · rw [hmem]
      refine fillGrans_kept (s := s.quiet) hw fun g hg ⟨hgood, h1, h2⟩ => ?_
      rcases hout g hg with h | h | h
      · exact Bool.false_ne_true (hgood.symm.trans h)
      · omega
      · omega
    · unfold Memory.wf
      rw [hmem]
      exact wf_fillGrans (s := s.quiet) hw _
  · obtain ⟨ht, hF⟩ := live_next_frame (i := .zeroFillCommit (.granule g)) rfl hl (zeroFillCommit_of_unowned (s := s.quiet) hp hg hd ho hs)
      (granFilled_adds ..).1 (by decide)
    refine ⟨_, ht, ?_, fun a h1 h2 => ?_, hF⟩
    · rw [granFilled_gran]
      exact congrArg (Gran.mk .free) hf
    · exact fillGran_zero (s := s.quiet) ⟨hf, h1, h2⟩

end Sys2Proof.Machine

/-! PROOFS. Snapshots: opening and closing (R294, R298, R299). -/

namespace Sys2Proof.Machine

/-- A descriptor admitted as an operation whose extent then changes: the operation stands, and no other part has changed. -/
theorem newOp_then_ext {s t : State} {q : Qp} {h : Nat} {x : QPair} {d : Held} (ht : Adds [.ext] (s.newOp q h x d).2 t) :
    (∃ o, t.op s.que.nextOp = some o ∧ o.qp = q ∧ o.held = h ∧ o.desc = d.desc) ∧ Frame [.que, .ext] s t := by
  obtain ⟨o, ho, hrest⟩ := newOp_desc s q h x d
  exact ⟨⟨o, (op_of_que (ht.same .que (by decide)) _).trans ho, hrest⟩, (((newOp_adds ..).mono (by decide)).trans (ht.mono (by decide))).1⟩

/-! SNAP_OPEN. -/

/-- The fields of a SNAP_OPEN are in order: its reserved bytes are zero, and a number stands where one is given. -/
def openClean (d : Desc) : Bool :=
  descClean d [(16, 8), (24, 4), (28, 1)] && decide (descField d 28 1 ≤ 1) && (d.getLsbD 224 || decide (descField d 24 4 = 0))

/-- The version number that a SNAP_OPEN names, if it names one. -/
def openWant (d : Desc) : Option Nat := if d.getLsbD 224 then some (descField d 24 4) else none

/-- An open waits for the publication point. -/
def State.waitOpen (s : State) (e : Nat) (y : Extent) (sn : Snap) (n : Nat) (want : Option Nat) : State :=
  s.setExtent e { y with snap := some { sn with opens := sn.opens ++ [⟨n, want⟩] } }

theorem waitOpen_adds (s : State) (e : Nat) (y : Extent) (sn : Snap) (n : Nat) (want : Option Nat) : Adds [.ext] s (s.waitOpen e y sn n want) :=
  setExtent_adds ..

/-- A slot with one more record open. -/
def Snap.opened (sn : Snap) (k : Nat) : Snap :=
  { sn with slots := mset VSlot.reset sn.slots k { mget VSlot.reset sn.slots k with opens := (mget VSlot.reset sn.slots k).opens + 1 } }

/-- The number that an open record takes. -/
def State.recordId (s : State) : Nat := freeKey s.ext.records 65536 0

/-- An open record stands at a number. -/
def State.putRecord (s : State) (idx : Nat) (r : OpenRec) : State :=
  { s with ext := { s.ext with records := tput s.ext.records idx r } }

/-- A record of a version slot has been taken for an endpoint. -/
def State.takeRecord (s : State) (ep : Ep) (e : Nat) (x : Extent) (sn : Snap) (k : Nat) : State :=
  (s.putRecord s.recordId ⟨BitVec.ofNat 13 e, k, (mget VSlot.reset sn.slots k).gen, ep⟩).setExtent e { x with snap := some (sn.opened k) }

theorem takeRecord_adds (s : State) (ep : Ep) (e : Nat) (x : Extent) (sn : Snap) (k : Nat) : Adds [.ext] s (s.takeRecord ep e x sn k) :=
  (adds_ext s _).trans (setExtent_adds ..)

theorem takeRecord_record (s : State) (ep : Ep) (e : Nat) (x : Extent) (sn : Snap) (k : Nat) :
    tget (s.takeRecord ep e x sn k).ext.records s.recordId = some ⟨BitVec.ofNat 13 e, k, (mget VSlot.reset sn.slots k).gen, ep⟩ :=
  tget_tput_same ..

theorem opened_opens (sn : Snap) (k : Nat) :
    (mget VSlot.reset (sn.opened k).slots k).opens = (mget VSlot.reset sn.slots k).opens + 1 := by
  rw [Snap.opened, mget_mset_same]

/-- The value that a successful open completes with: the handle, and the version above it. -/
def openValue (s : State) (sn : Snap) (k : Nat) : W64 :=
  BitVec.ofNat 64 (snapHandle s.recordId k (mget VSlot.reset sn.slots k).gen + (mget VSlot.reset sn.slots k).version * 2 ^ 32)

theorem openVersion_of_slot {s : State} {e : Nat} {x : Extent} {sn : Snap} {want : Option Nat} {k : Nat} (hx : s.extent e = some x)
    (hs : x.snap = some sn) (hk : openSlot sn want = some k) (hroom : s.ext.records.length < 65536) (n : Nat) (ep : Ep) :
    s.openVersion n ep e want = (s.takeRecord ep e x sn k).completeOp n stOk (openValue s sn k) 0#16 := by
  simp only [State.openVersion, hx, hs, hk, if_neg (Nat.not_le.2 hroom)]
  rfl

section
variable {s : State} {q : Qp} {h : Nat} {x : QPair} {d : Held} (hn : s.nextIs q h 0x41#8 = some (x, d))
include hn

theorem snapOpen_of_unclean (hc : openClean d.desc = false) : snapOpen q h s = s.endDesc q h stBadDesc 0#64 := by
  simp only [snapOpen, hn]
  refine if_pos ?_
  simp only [openClean, Bool.and_eq_false_iff, Bool.or_eq_false_iff, decide_eq_false_iff_not] at hc
  rcases hc with (hc | hc) | ⟨hnum, hver⟩
  · exact .inl (by simp [hc])
  · exact .inr (.inl (by omega))
  · exact .inr (.inr ⟨by rw [hnum]; rfl, hver⟩)

variable (hc : openClean d.desc = true)
include hc

theorem snapOpen_of_clean : snapOpen q h s =
    match s.snapTarget x (d.desc.extractLsb' 128 64) false with
    | .error st => s.endDesc q h st 0#64
    | .ok (e, y, sn) =>
      if (openSlot sn (openWant d.desc)).isSome ∧ openSlot sn (openWant d.desc) = snapReserved sn then
        (s.newOp q h x d).2.waitOpen e y sn s.que.nextOp (openWant d.desc)
      else (s.newOp q h x d).2.openVersion s.que.nextOp x.cfg.ep e (openWant d.desc) := by
  simp only [openClean, Bool.and_eq_true, Bool.or_eq_true, decide_eq_true_eq] at hc
  obtain ⟨⟨hclean, hflag⟩, hver⟩ := hc
  have hgo : ¬ ((!descClean d.desc [(16, 8), (24, 4), (28, 1)]) = true ∨ 1 < descField d.desc 28 1 ∨
      ((!d.desc.getLsbD 224) = true ∧ descField d.desc 24 4 ≠ 0)) := by
    rintro (h | h | ⟨h1, h2⟩)
    · simp [hclean] at h
    · omega
    · exact h2 (hver.resolve_left (by simpa using h1))
  simp only [snapOpen, hn]
  exact (if_neg hgo).trans rfl

theorem snapOpen_of_refused {st : Status} (ht : s.snapTarget x (d.desc.extractLsb' 128 64) false = .error st) :
    snapOpen q h s = s.endDesc q h st 0#64 := by
  rw [snapOpen_of_clean hn hc, ht]

variable {e : Nat} {y : Extent} {sn : Snap} {k : Nat} (ht : s.snapTarget x (d.desc.extractLsb' 128 64) false = .ok (e, y, sn))
  (hk : openSlot sn (openWant d.desc) = some k)
include ht hk

/-- An open of the slot that a publication has reserved waits (R294). -/
theorem snapOpen_of_reserved (hr : snapReserved sn = some k) :
    snapOpen q h s = (s.newOp q h x d).2.waitOpen e y sn s.que.nextOp (openWant d.desc) := by
  rw [snapOpen_of_clean hn hc, ht]
  exact if_pos ⟨by rw [hk]; rfl, hk.trans hr.symm⟩

theorem snapOpen_of_unreserved (hr : snapReserved sn ≠ some k) :
    snapOpen q h s = (s.newOp q h x d).2.openVersion s.que.nextOp x.cfg.ep e (openWant d.desc) := by
  rw [snapOpen_of_clean hn hc, ht]
  exact if_neg fun h => hr (h.2.symm.trans hk)

end

/-! SNAP_CLOSE. -/

/-- A record is no longer open. -/
def State.dropRecord (s : State) (idx : Nat) : State := { s with ext := { s.ext with records := tdel s.ext.records idx } }

theorem closeRecord_spec {s : State} {idx : Nat} {r : OpenRec} {y : Extent} (hr : tget s.ext.records idx = some r)
    (hy : s.extent r.ext.toNat = some y) :
    tget (s.closeRecord idx).ext.records idx = none ∧
    (∀ sn, y.snap = some sn → (s.closeRecord idx).extent r.ext.toNat = some { y with snap := some (closeSlot y sn r.slot) }) ∧
    Adds [.ext] s (s.closeRecord idx) := by
  have hy' : (s.dropRecord idx).extent r.ext.toNat = some y := hy
  have hdrop : Adds [.ext] s (s.dropRecord idx) := adds_ext s _
  have heq : s.closeRecord idx = match y.snap with
      | none => s.dropRecord idx
      | some sn => (s.dropRecord idx).setExtent r.ext.toNat { y with snap := some (closeSlot y sn r.slot) } := by
    simp only [State.closeRecord, hr]
    rw [show State.extent { s with ext := { s.ext with records := tdel s.ext.records idx } } r.ext.toNat = some y from hy']
    rfl
  rw [heq]
  cases hs : y.snap with
  | none => exact ⟨tget_tdel_same .., fun sn hsn => (Option.some_ne_none sn hsn.symm).elim, hdrop⟩
  | some sn =>
    refine ⟨tget_tdel_same .., fun sn' hsn => ?_, hdrop.trans (setExtent_adds ..)⟩
    obtain rfl := Option.some.inj hsn
    exact setExtent_extent_same ..

theorem handleRecord_spec {s : State} {hd : Nat} {ep : Ep} {idx : Nat} {r : OpenRec} (h : s.handleRecord hd ep = some (idx, r)) :
    tget s.ext.records idx = some r := by
  unfold State.handleRecord at h
  split at h
  next r' hr =>
    split at h
    next =>
      cases h
      exact hr
    next => cases h
  next => cases h

section
variable {s : State} {q : Qp} {h : Nat} {x : QPair} {d : Held} (hn : s.nextIs q h 0x42#8 = some (x, d))
include hn

theorem snapClose_of_unclean (hc : descClean d.desc [(16, 4)] = false) : snapClose q h s = s.endDesc q h stBadDesc 0#64 := by
  simp [snapClose, hn, hc]

variable (hc : descClean d.desc [(16, 4)] = true)
include hc

theorem snapClose_of_unopened (hh : s.handleRecord (descField d.desc 16 4) x.cfg.ep = none) :
    snapClose q h s = s.endDesc q h stBadHandle 0#64 := by
  simp [snapClose, hn, hc, hh]

variable {idx : Nat} {r : OpenRec} {y : Extent} (hh : s.handleRecord (descField d.desc 16 4) x.cfg.ep = some (idx, r))
  (hy : s.extent r.ext.toNat = some y)
include hh hy

theorem snapClose_of_draining (hs : y.state = .draining) : snapClose q h s = s.endDesc q h stRevoked 0#64 := by
  simp [snapClose, hn, hc, hh, hy, hs]

theorem snapClose_of_open (hs : y.state ≠ .draining) :
    snapClose q h s = ((s.newOp q h x d).2.closeRecord idx).completeOp s.que.nextOp stOk 0#64 0#16 := by
  have hgone : (y.state == .draining) = false := by simp [hs]
  simp only [snapClose, hn, hc, hh, hy, hgone, Bool.not_true, Bool.false_eq_true, if_false]
  rfl

end

end Sys2Proof.Machine

/-! PROOFS. Snapshots: publications and leaf copies (R294, R296, R297). -/

namespace Sys2Proof.Machine

/-! Publications. -/

theorem chooseSlot_of_empty {sn : Snap} {k : Nat} (h : snapFind sn .empty = some k) : chooseSlot sn = some (k, false) := by
  simp only [chooseSlot, h]

theorem chooseSlot_of_full {sn : Snap} {k : Nat} (h : snapFind sn .empty = none) (hl : snapFind sn .latest = some k) :
    chooseSlot sn = if (mget VSlot.reset sn.slots k).opens = 0 then some (k, true) else none := by
  simp only [chooseSlot, h, hl]

section
variable {s : State} {e : Nat} {x : Extent} {sn : Snap} {p : Publication} {rest : List Publication} (hx : s.extent e = some x)
  (hs : x.snap = some sn) (hp : sn.pubs = p :: rest)
include hx hs hp

/-- A publication that has started is let run. -/
theorem startPub_of_started (hc : p.chosen.isSome = true) (f : Nat) : s.startPub e (f + 1) = s := by
  simp [State.startPub, hx, hs, hp, hc]

theorem startPub_starts (hc : p.chosen = none) {c : Nat × Bool} (hk : chooseSlot sn = some c) (f : Nat) :
    s.startPub e (f + 1) = s.setExtent e { x with snap := some { sn with pubs := { p with chosen := some c } :: rest } } := by
  simp [State.startPub, hx, hs, hp, hc, hk]

/-- A publication that finds no slot completes, and the next one is tried. -/
theorem startPub_of_no_slot (hc : p.chosen = none) (hk : chooseSlot sn = none) (f : Nat) :
    s.startPub e (f + 1) =
      ((s.setExtent e { x with snap := some { sn with pubs := rest } }).completeOp p.op stVersionsFull 0#64 0#16).startPub e f := by
  simp [State.startPub, hx, hs, hp, hc, hk]

end

/-- An extent's versions once a publication has joined. -/
def Snap.joined (sn : Snap) (n : Nat) : Snap := { sn with pubs := sn.pubs ++ [⟨n, none, []⟩] }

/-- A publication joins those of its extent. -/
def State.joinPub (s : State) (e : Nat) (y : Extent) (sn : Snap) (n : Nat) : State := s.setExtent e { y with snap := some (sn.joined n) }

theorem joined_pubs_of_none {sn : Snap} (hp : sn.pubs = []) (n : Nat) : (sn.joined n).pubs = [⟨n, none, []⟩] := by
  rw [Snap.joined, hp]
  rfl

theorem joined_pubs_of_some {sn : Snap} {p : Publication} {rest : List Publication} (hp : sn.pubs = p :: rest) (n : Nat) :
    (sn.joined n).pubs = p :: (rest ++ [⟨n, none, []⟩]) := by
  rw [Snap.joined, hp]
  rfl

theorem joinPub_adds (s : State) (e : Nat) (y : Extent) (sn : Snap) (n : Nat) : Adds [.ext] s (s.joinPub e y sn n) := setExtent_adds ..

section
variable {s : State} {q : Qp} {h : Nat} {x : QPair} {d : Held} (hn : s.nextIs q h 0x43#8 = some (x, d))
include hn

theorem snapPublish_of_unclean (hc : descClean d.desc [(16, 8)] = false) : snapPublish q h s = s.endDesc q h stBadDesc 0#64 := by
  simp [snapPublish, hn, hc]

variable (hc : descClean d.desc [(16, 8)] = true)
include hc

theorem snapPublish_of_refused {st : Status} (ht : s.snapTarget x (d.desc.extractLsb' 128 64) true = .error st) :
    snapPublish q h s = s.endDesc q h st 0#64 := by
  simp [snapPublish, hn, hc, ht]

theorem snapPublish_of_accepted {e : Nat} {y : Extent} {sn : Snap}
    (ht : s.snapTarget x (d.desc.extractLsb' 128 64) true = .ok (e, y, sn)) :
    snapPublish q h s = ((s.newOp q h x d).2.joinPub e y sn s.que.nextOp).startPub e 2 := by
  simp only [snapPublish, hn, hc, ht, Bool.not_true, Bool.false_eq_true, if_false]
  rfl

end

/-! The publication point. -/

/-- The publication under way waits: for a slice's switch, or for what was accepted into the version to be published. -/
def State.pubWaits (s : State) (e : Nat) (sn : Snap) (p : Publication) (w : Nat) : Prop :=
  p.switched.length ≠ 6 ∨ sn.waits.all (fun y => y.newVersion) = false ∨ sn.copies.any (fun c => c.slot == w) = true ∨
    s.atomicsInto e w = true

section
variable {s : State} {e : ExtId} {x : Extent} {sn : Snap} {p : Publication} {rest : List Publication} {w l k : Nat} {b : Bool}
  (hx : s.extent e.toNat = some x) (hs : x.snap = some sn) (hp : sn.pubs = p :: rest) (hw : snapFind sn .write = some w)
  (hl : snapFind sn .latest = some l) (hc : p.chosen = some (k, b))
include hx hs hp hw hl hc

theorem snapPublicationPoint_of_waiting (h : s.pubWaits e.toNat sn p w) : snapPublicationPoint e s = s := by
  simp only [snapPublicationPoint, hx, hs, hp, hw, hl, hc]
  refine if_pos (h.imp_right (Or.imp_left fun h => ?_))
  rw [h]
  rfl

/-- The publication point, with no publication and no open behind. -/
theorem snapPublicationPoint_of_due (h : ¬ s.pubWaits e.toNat sn p w) (hrest : rest = []) (ho : sn.opens = []) :
    snapPublicationPoint e s =
      let u := s.setExtent e.toNat { x with snap := some { publishSlots x sn w l k with pubs := [], opens := [] } }
      ((u.completeOp p.op (((s.op p.op).bind (fun o => o.ending)).getD stOk)
        (BitVec.ofNat 64 (mget VSlot.reset (publishSlots x sn w l k).slots w).version) 0#16).resumeWaits e.toNat
          (fun y => y.newVersion)).startPub e.toNat 1 := by
  have hgo : ¬ (p.switched.length ≠ 6 ∨ (!(sn.waits.all (fun y => y.newVersion))) = true ∨ sn.copies.any (fun c => c.slot == w) = true ∨
      s.atomicsInto e.toNat w = true) := fun hgo => h (hgo.imp_right (Or.imp_left fun h => by simpa using h))
  subst hrest
  simp only [snapPublicationPoint, hx, hs, hp, hw, hl, hc, ho]
  exact (if_neg hgo).trans rfl

end

/-! The slots at a publication point (R294). -/

theorem releaseLeaves_slots (x : Extent) (before after : Snap) (k : Nat) : (releaseLeaves x before after k).slots = after.slots := by
  unfold releaseLeaves
  generalize List.range _ = ls
  induction ls generalizing after with
  | nil => rfl
  | cons leaf ls ih =>
    rw [List.foldl_cons, ih]
    dsimp only
    split <;> rfl

theorem releaseSlot_slots (x : Extent) (sn : Snap) (k : Nat) : ∃ v, (releaseSlot x sn k).slots = mset VSlot.reset sn.slots k v :=
  ⟨_, releaseLeaves_slots ..⟩

/-- The slots at a publication point: the new WRITE slot is written last, over those of the version published and of the old LATEST one. -/
theorem publishSlots_slots (x : Extent) (sn : Snap) (w l k : Nat) :
    ∃ v g, (publishSlots x sn w l k).slots = mset VSlot.reset
      (mset VSlot.reset (mset VSlot.reset sn.slots w { mget VSlot.reset sn.slots w with state := .latest }) l v) k
      ⟨.write, (mget VSlot.reset sn.slots w).version + 1, g, 0⟩ := by
  unfold publishSlots
  extract_lets vw vl sn0 sn1 vk own copied
  have h1 : ∃ v, sn1.slots = mset VSlot.reset sn0.slots l v := by
    unfold sn1
    split
    · exact ⟨{ vl with state := .held }, rfl⟩
    · exact releaseSlot_slots ..
  obtain ⟨v, hv⟩ := h1
  exact ⟨v, vk.gen + 1#5, congrArg (fun m => mset VSlot.reset m k ⟨.write, vw.version + 1, vk.gen + 1#5, 0⟩) hv⟩

/-! Leaf copies. -/

/-- An extent's versions once a copy has joined the list: its leaf is in use. -/
def Snap.copyStarts (sn : Snap) (x : Extent) (c : LeafCopy) : Snap :=
  { snapSetCat x sn c.dst .inUse with ledgerTaken := sn.ledgerTaken + 1, copies := sn.copies ++ [c] }

section
variable {s : State} {e : ExtId} {leaf : Nat} {x : Extent} {sn : Snap} (hx : s.extent e.toNat = some x) (hs : x.snap = some sn)
include hx hs

theorem snapCowStart_of_unasked (hc : copySlot sn leaf = none) : snapCowStart e leaf s = s := by
  simp [snapCowStart, hx, hs, hc]

section
variable {k q : Nat} (hc : copySlot sn leaf = some k) (hq : freeLeaf x sn = some q)
include hc hq

theorem snapCowStart_of_busy (h : 16 ≤ s.copiesActive) : snapCowStart e leaf s = s := by
  simp [snapCowStart, hx, hs, hc, hq, h]

theorem snapCowStart_starts (h : s.copiesActive < 16) :
    snapCowStart e leaf s = s.setExtent e.toNat { x with snap := some (sn.copyStarts x ⟨leaf, snapShown sn k leaf, q, k⟩) } := by
  simp [snapCowStart, Snap.copyStarts, hx, hs, hc, hq, Nat.not_le.2 h]

end

/-- An extent's versions once a copy has left the list. -/
def Snap.copyEnds (sn : Snap) (c : LeafCopy) : Snap := { sn with copies := sn.copies.erase c, ledgerTaken := sn.ledgerTaken - 1 }

theorem snapCowDone_of_copy {c : LeafCopy} (hc : sn.copies.find? (fun c => c.leaf == leaf) = some c) :
    snapCowDone e leaf s = (s.copyLeaf e.toNat x (sn.copyEnds c) c.slot leaf c.src c.dst).resumeWaits e.toNat
      (fun y => y.leaf == leaf && (snapFind sn .write == some c.slot || y.newVersion)) := by
  simp only [snapCowDone, hx, hs, hc]
  rfl

end

/-- What a copy leaves: the map of its version names the leaf, and memory, counters and the extent alone have changed. -/
theorem copyLeaf_spec (s : State) (e : Nat) (x : Extent) (sn : Snap) (k leaf p q : Nat) :
    ∃ z, (s.copyLeaf e x sn k leaf p q).extent e = some { x with snap := some z } ∧ snapLeaf z k leaf = q ∧ z.copies = sn.copies ∧
      z.waits = sn.waits ∧ Frame [.ext, .mem, .ctr, .ras, .serial] s (s.copyLeaf e x sn k leaf p q) := by
  unfold State.copyLeaf
  extract_lets src dst moved movedP z mem s1 snq sn1 sn2
  have h1 : Adds [.mem] s s1 := by
    unfold s1
    split
    · exact poolZero_adds ..
    · exact (poolZero_adds ..).trans (adds_mem ..)
  have hleaf : snapLeaf sn1 k leaf = q ∧ sn1.copies = sn.copies ∧ sn1.waits = sn.waits := by
    unfold sn1 snapLeaf
    split
    · exact ⟨by simp [mget], rfl, rfl⟩
    · exact ⟨mget_mset_same .., rfl, rfl⟩
  obtain ⟨hmap, hcopies, hwaits⟩ := hleaf
  have h2 : snapLeaf sn2 k leaf = snapLeaf sn1 k leaf ∧ sn2.copies = sn1.copies ∧ sn2.waits = sn1.waits := by
    unfold sn2
    split <;> exact ⟨rfl, rfl, rfl⟩
  obtain ⟨hmap2, hcopies2, hwaits2⟩ := h2
  have htally := tally_frame (s1.setExtent e { x with snap := some sn2 }) (ctrExt 1)
  exact ⟨sn2, (extent_of_ext (htally.2 .ext (by decide)) e).trans (setExtent_extent_same ..), hmap2.trans hmap, hcopies2.trans hcopies,
    hwaits2.trans hwaits, ((h1.1.mono (by decide)).trans ((setExtent_adds ..).1.mono (by decide))).trans (htally.mono (by decide))⟩

/-- A write waits for a leaf that another live version references: its copy is one for the WRITE version. -/
theorem copySlot_of_asked {sn : Snap} {leaf w : Nat} (hw : snapFind sn .write = some w) (hc : sn.copies.any (fun c => c.leaf == leaf) = false)
    (ha : sn.waits.any (fun y => y.leaf == leaf && !y.newVersion && y.ip.pkt.opc == 0x81#8) = true) (hn : needsCopy sn w leaf = true) :
    copySlot sn leaf = some w := by
  have hasked : sn.waits.any (fun y => y.leaf == leaf && y.newVersion == false && y.ip.pkt.opc == 0x81#8) = true := by
    simpa using ha
  simp only [copySlot, hc, hasked, hw, Bool.false_eq_true, if_false, if_true]
  simp [hn]

/-- Settles O39: the descriptors' refusals are one record each; an open is `State.takeRecord` or `State.waitOpen`, a close `State.closeRecord`, and
a publication `State.joinPub`, started by `State.startPub`; the slots at its point are `publishSlots_slots`; a leaf copy ends as `copyLeaf_spec` says.
The lowest free leaf is the model's choice (log entry 40), and so is the order of a publication's steps (log entries 38 and 39). -/
theorem snapshotsOpenPublishCopy : Obligations.SnapshotsOpenPublishCopy := by
  unfold Obligations.SnapshotsOpenPublishCopy
  refine ⟨fun q h x d s hl hn => ⟨fun hc => live_descEnded rfl hl hn (snapOpen_of_unclean (s := s.quiet) hn.1 hc), fun st hc ht =>
      live_descEnded rfl hl hn (snapOpen_of_refused (s := s.quiet) hn.1 hc ht),
      fun e y sn k hc ht hk => ⟨fun hres => ?_, fun hres hy hs hroom => ?_⟩⟩,
    fun q h x d s hl hn => ⟨fun hc => live_descEnded rfl hl hn (snapClose_of_unclean (s := s.quiet) hn.1 hc),
      fun hc hh => live_descEnded rfl hl hn (snapClose_of_unopened (s := s.quiet) hn.1 hc hh), fun idx r y hc hh hy =>
      ⟨fun hs => live_descEnded rfl hl hn (snapClose_of_draining (s := s.quiet) hn.1 hc hh hy hs), fun hs => ?_⟩⟩,
    fun q h x d s hl hn => ⟨fun hc => live_descEnded rfl hl hn (snapPublish_of_unclean (s := s.quiet) hn.1 hc),
      fun st hc ht => live_descEnded rfl hl hn (snapPublish_of_refused (s := s.quiet) hn.1 hc ht), fun e y sn hc ht =>
      ⟨fun c hp hk => ?_, fun p rest hp hstart => ?_⟩⟩,
    fun sn => ⟨fun k h => chooseSlot_of_empty h, fun k h hlat ho => (chooseSlot_of_full h hlat).trans (if_pos ho),
      fun k h hlat ho => (chooseSlot_of_full h hlat).trans (if_neg ho)⟩,
    fun s e f y sn p hx hs hp hc hk => ⟨_, setExtent_extent_same .., (setExtent_adds ..).1, startPub_of_no_slot hx hs hp hc hk f⟩,
    fun e x sn p rest w l k b s hl hx hs hp hw hlat hc => ⟨fun h => ?_, fun h1 h2 h3 h4 hrest ho => ?_⟩,
    fun x sn w l k hkw hlw => ?_,
    fun e leaf x sn s hl hx hs => ⟨fun hc => live_idles rfl hl (snapCowStart_of_unasked (s := s.quiet) hx hs hc),
      fun k q hc hq => ⟨fun h => live_idles rfl hl (snapCowStart_of_busy (s := s.quiet) hx hs hc hq h), fun h => ?_⟩, fun c hc => ?_⟩,
    fun sn leaf w hw hc ha hn => copySlot_of_asked hw hc ha hn⟩
  · obtain ⟨⟨o, ho, -, -, hd⟩, hfr⟩ := newOp_then_ext (s := s.quiet) (waitOpen_adds _ e y sn s.que.nextOp (openWant d.desc))
    obtain ⟨ht, hF⟩ := live_next_frame (i := .snapOpen q h) rfl hl (snapOpen_of_reserved (s := s.quiet) hn.1 hc ht hk hres) hfr (by decide)
    exact ⟨_, o, ht, ho, hd, setExtent_extent_same .., hF⟩
  · obtain ⟨⟨o, ho, hq, hh, hd⟩, hfr⟩ := newOp_then_ext (s := s.quiet) (takeRecord_adds (s.quiet.newOp q h x d).2 x.cfg.ep e y sn k)
    have hopen := (snapOpen_of_unreserved (s := s.quiet) hn.1 hc ht hk hres).trans
      (openVersion_of_slot (s := (s.quiet.newOp q h x d).2) hy hs hk hroom s.que.nextOp x.cfg.ep)
    exact ⟨_, (s.quiet.newOp q h x d).2.takeRecord x.cfg.ep e y sn k, o, sn.opened k, s.recordId,
      live_next (i := .snapOpen q h) rfl hl hopen, tget_freeKey_of_room hroom, takeRecord_record ..,
      setExtent_extent_same .., opened_opens .., ho, hq, hh, hd, (Frame.quiet s).trans hfr, rfl⟩
  · obtain ⟨hgone, hslot, hclose⟩ := closeRecord_spec (s := (s.quiet.newOp q h x d).2) (handleRecord_spec hh) hy
    obtain ⟨⟨o, ho, -, -, hd⟩, hfr⟩ := newOp_then_ext hclose
    exact ⟨_, (s.quiet.newOp q h x d).2.closeRecord idx, o, live_next (i := .snapClose q h) rfl hl
      (snapClose_of_open (s := s.quiet) hn.1 hc hh hy hs), hgone, ho, hd, hslot, (Frame.quiet s).trans hfr, rfl⟩
  · have hjoin := joinPub_adds (s.quiet.newOp q h x d).2 e y sn s.que.nextOp
    have hpub := (snapPublish_of_accepted (s := s.quiet) hn.1 hc ht).trans
      (startPub_starts (setExtent_extent_same ..) rfl (joined_pubs_of_none hp _) rfl hk 1)
    obtain ⟨⟨o, ho, -, -, hd⟩, hfr⟩ := newOp_then_ext (hjoin.trans (setExtent_adds ..))
    obtain ⟨ht, hF⟩ := live_next_frame (i := .snapPublish q h) rfl hl hpub hfr (by decide)
    exact ⟨_, o, ht, ho, hd, setExtent_extent_same .., hF⟩
  · have hjoin := joinPub_adds (s.quiet.newOp q h x d).2 e y sn s.que.nextOp
    have hpub := (snapPublish_of_accepted (s := s.quiet) hn.1 hc ht).trans
      (startPub_of_started (setExtent_extent_same ..) rfl (joined_pubs_of_some hp _) hstart 1)
    obtain ⟨⟨o, ho, -, -, hd⟩, hfr⟩ := newOp_then_ext hjoin
    obtain ⟨ht, hF⟩ := live_next_frame (i := .snapPublish q h) rfl hl hpub hfr (by decide)
    refine ⟨_, o, ht, ho, hd, (setExtent_extent_same ..).trans ?_, hF⟩
    rw [Snap.joined, hp]
    rfl
  · exact live_idles rfl hl (snapPublicationPoint_of_waiting (s := s.quiet) hx hs hp hw hlat hc h)
  · have hgo : ¬ s.quiet.pubWaits e.toNat sn p w := by
      rintro (h | h | h | h)
      · exact h h1
      · exact Bool.false_ne_true (h.symm.trans h2)
      · exact Bool.false_ne_true (h3.symm.trans h)
      · exact Bool.false_ne_true (h4.symm.trans h)
    have hdue := snapPublicationPoint_of_due (s := s.quiet) hx hs hp hw hlat hc hgo hrest ho
    exact ⟨_, _, live_next (i := .snapPublicationPoint e) rfl hl hdue, setExtent_extent_same ..,
      (Frame.quiet s).trans (setExtent_adds ..).1, rfl⟩
  · obtain ⟨v, g, hslots⟩ := publishSlots_slots x sn w l k
    rw [hslots, mget_mset_same]
    refine ⟨rfl, rfl, fun hrise => ?_⟩
    rw [mget_mset_other _ (keysRise_mset _ (keysRise_mset _ hrise ..) ..) _ hkw.symm, mget_mset_other _ (keysRise_mset _ hrise ..) _ hlw.symm,
      mget_mset_same]
  · obtain ⟨ht, hF⟩ := live_next_frame (i := .snapCowStart e leaf) rfl hl (snapCowStart_starts (s := s.quiet) hx hs hc hq h)
      (setExtent_adds ..).1 (by decide)
    exact ⟨_, _, ht, setExtent_extent_same .., rfl, rfl, rfl, rfl, rfl, hF⟩
  · obtain ⟨z, hz, hleaf, hcopies, hwaits, hF⟩ := copyLeaf_spec s.quiet e.toNat x (sn.copyEnds c) c.slot leaf c.src c.dst
    exact ⟨_, _, z, live_next (i := .snapCowDone e leaf) rfl hl (snapCowDone_of_copy (s := s.quiet) hx hs hc), hz, hleaf, hcopies, hwaits,
      (Frame.quiet s).trans hF, rfl⟩

end Sys2Proof.Machine

/-! PROOFS. The home agent's shared operations (R306, R316, R324, R331): what each touches, and what it keeps of the lines. -/

namespace Sys2Proof.Machine

/-! What an operation touches. -/

theorem addAccepted_adds (s : State) (e sl : Nat) (d : Int) : Adds [.ext] s (s.addAccepted e sl d) := by
  unfold State.addAccepted
  split
  · exact Adds.rfl s
  · exact setExtent_adds ..

theorem retire_adds (s : State) (r : CReq) : Adds [.ext] s (s.retire r) := addAccepted_adds ..

theorem setTxn_adds (s : State) (line : Nat) (x : Txn) : Adds [.coh] s (s.setTxn line x) := adds_coh s _

theorem delTxn_adds (s : State) (line : Nat) : Adds [.coh] s (s.delTxn line) := adds_coh s _

theorem setSector_adds (s : State) (set way : Nat) (x : Sector) : Adds [.coh] s (s.setSector set way x) := adds_coh s _

theorem clearDir_adds (s : State) (line : Nat) : Adds [.coh] s (s.clearDir line) := by
  unfold State.clearDir
  split
  · exact setSector_adds ..
  · exact Adds.rfl s

theorem poisonHome_adds (s : State) (line : Nat) : Adds [.mem] s (s.poisonHome line) := by
  unfold State.poisonHome
  split
  · exact adds_mem s _
  · exact Adds.rfl s

/-- A dead agent's entry goes from the directory, and from memory as poison where it was M (R331). -/
theorem settleDead_adds (s : State) (line : Nat) : Adds [.coh, .mem, .ctr, .ras, .serial] s (s.settleDead line) := by
  have hclear : Adds [.coh, .mem, .ctr, .ras, .serial] s (s.clearDir line) := (clearDir_adds ..).mono (by decide)
  have hpoison : ∀ x, Adds [.coh, .mem, .ctr, .ras, .serial] s
      { ((s.poisonHome line).clearDir line).tally (ctrCoh 9) with coh := x } := fun x =>
    ((((poisonHome_adds ..).mono (by decide)).trans ((clearDir_adds ..).mono (by decide))).trans
      ((tally_adds ..).mono (by decide))).trans ((adds_coh ..).mono (by decide))
  unfold State.settleDead
  split
  · split
    · exact hclear
    · exact Adds.rfl s
  · split
    · exact hclear
    · exact Adds.rfl s
  · split
    · exact hpoison _
    · exact Adds.rfl s
  · exact Adds.rfl s

/-- A line whose directory state names no dead agent is settled as it stands. -/
theorem settleDead_of_live {s : State} {line : Nat}
    (h : ∀ a, s.dirLine line = .sPtr a ∨ s.dirLine line = .e a ∨ s.dirLine line = .m a → s.agentDead a = false) :
    s.settleDead line = s := by
  unfold State.settleDead
  split
  next a hd => simp [h a (.inl hd)]
  next a hd => simp [h a (.inr (.inl hd))]
  next a hd => simp [h a (.inr (.inr hd))]
  next => rfl

/-! A line's transaction. -/

@[simp] theorem setTxn_txn_same (s : State) (line : Nat) (x : Txn) : (s.setTxn line x).txn line = some x := tget_tput_same ..

@[simp] theorem delTxn_txn_same (s : State) (line : Nat) : (s.delTxn line).txn line = none := tget_tdel_same ..

theorem txn_of_txns {s t : State} (h : t.coh.txns = s.coh.txns) (line : Nat) : t.txn line = s.txn line :=
  congrArg (fun m => tget m line) h

theorem txn_of_coh {s t : State} (h : t.coh = s.coh) (line : Nat) : t.txn line = s.txn line := txn_of_txns (congrArg Coh.txns h) line

/-! What waits for recalls. -/

/-- From s to t the parts listed alone changed, and of the home agent's records neither the transactions, the directory nor the sweeps. -/
structure KeepsLines (ps : List Part) (s t : State) : Prop where
  adds : Adds ps s t
  txns : t.coh.txns = s.coh.txns
  dir : t.coh.dir = s.coh.dir
  sweeps : t.coh.sweeps = s.coh.sweeps

namespace KeepsLines

variable {ps : List Part} {s t u : State}

theorem rfl (s : State) : KeepsLines ps s s := ⟨Adds.rfl s, Eq.refl _, Eq.refl _, Eq.refl _⟩

theorem trans (h : KeepsLines ps s t) (k : KeepsLines ps t u) : KeepsLines ps s u :=
  ⟨h.adds.trans k.adds, k.txns.trans h.txns, k.dir.trans h.dir, k.sweeps.trans h.sweeps⟩

theorem mono {qs : List Part} (h : KeepsLines ps s t) (hs : ∀ p ∈ ps, p ∈ qs) : KeepsLines qs s t :=
  ⟨h.adds.mono hs, h.txns, h.dir, h.sweeps⟩

theorem foldl {α : Type} {f : State → α → State} (h : ∀ st x, KeepsLines ps st (f st x)) (l : List α) (s : State) :
    KeepsLines ps s (l.foldl f s) := by
  induction l generalizing s with
  | nil => exact rfl s
  | cons x l ih => exact (h s x).trans (ih (f s x))

/-- What leaves the home agent's records alone keeps its lines. -/
theorem of_adds (h : Adds ps s t) (hp : Part.coh ∉ ps) : KeepsLines ps s t := by
  have hc : t.coh = s.coh := h.same .coh hp
  exact ⟨h, by rw [hc], by rw [hc], by rw [hc]⟩

end KeepsLines

theorem withAgentsRecalls_keeps (s : State) (x : SMap Agent) (y : List RecallWait) :
    KeepsLines [.coh] s { s with coh := { s.coh with agents := x, recalls := y } } :=
  ⟨adds_coh s _, rfl, rfl, rfl⟩

theorem reply_keeps (s : State) (code : BitVec 8) (result : Nat) (bytes : List Byte) :
    KeepsLines [.sec] s (s.reply code result bytes) := .of_adds (reply_adds ..) (by decide)

/-- A removal that completes frees an index and answers (R306). -/
theorem settleRemovals_keeps (s : State) : KeepsLines [.coh, .sec] s s.settleRemovals := by
  have hset : ∀ (st : State) x y, KeepsLines [.coh, .sec] st { st with coh := { st.coh with agents := x, recalls := y } } :=
    fun st x y => (withAgentsRecalls_keeps st x y).mono (by decide)
  refine KeepsLines.foldl (fun st w => ?_) _ s
  split
  next a _ =>
    split
    · exact .rfl st
    · dsimp only
      split
      · exact (hset st _ _).trans ((reply_keeps ..).mono (by decide))
      · exact hset st _ _
  next => exact .rfl st

/-- A rights change that completes takes effect and is answered (R279). -/
theorem settleRights_keeps (s : State) (e : Nat) : KeepsLines [.ext, .coh, .sec] s (s.settleRights e) := by
  unfold State.settleRights
  split
  next => exact .rfl s
  next x _ =>
    split
    next ents rest _ =>
      split
      · exact .rfl s
      · have hext : ∀ y, KeepsLines [.ext, .coh, .sec] s (s.setExtent e y) := fun y =>
          (KeepsLines.of_adds (setExtent_adds s e y) (by decide)).mono (by decide)
        exact ((hext _).trans ((withAgentsRecalls_keeps ..).mono (by decide))).trans ((reply_keeps ..).mono (by decide))
    next => exact .rfl s

theorem settleRecalls_keeps (s : State) : KeepsLines [.ext, .coh, .sec] s s.settleRecalls :=
  ((settleRemovals_keeps s).mono (by decide)).trans (.foldl (fun st e => settleRights_keeps st e) _ _)

/-- A transaction that ends leaves its line free and the directory as it is. -/
theorem endReq_spec (s : State) (line : Nat) (r : CReq) :
    (s.endReq line r).txn line = none ∧ (s.endReq line r).coh.dir = s.coh.dir ∧ Adds [.ext, .coh, .sec] s (s.endReq line r) := by
  have hkeeps : KeepsLines [.ext, .coh, .sec] (s.delTxn line) (s.endReq line r) :=
    ((KeepsLines.of_adds (retire_adds ..) (by decide)).mono (by decide)).trans (settleRecalls_keeps _)
  exact ⟨(txn_of_txns hkeeps.txns line).trans (delTxn_txn_same ..), hkeeps.dir, ((delTxn_adds ..).mono (by decide)).trans hkeeps.adds⟩

end Sys2Proof.Machine

/-! PROOFS. The agent table (R306, R331): the management commands of caching agents, and the end of a dead agent's sweep. -/

namespace Sys2Proof.Machine

/-- A command of a live device that changes the home agent's records and answers. -/
theorem live_cohReply {i : Instr} {s : State} {f : State → State} {x : Coh} {code : BitVec 8} {result : Nat} {bytes : List Byte}
    (hi : exec i s = .next (s.quiet.whenLive f)) (hl : s.live = true)
    (hf : f s.quiet = { s.quiet with coh := x }.reply code result bytes) :
    ∃ t, exec i s = .next t ∧ answered t code result bytes ∧ t.coh = x ∧ Frame [.coh, .sec] s t := by
  have hreply := reply_adds { s.quiet with coh := x } code result bytes
  obtain ⟨hx, hF⟩ := live_next_frame (ps := [.coh, .sec]) hi hl hf
    (((adds_coh s.quiet x).mono (by decide)).trans (hreply.mono (by decide))).1 (by decide)
  exact ⟨_, hx, reply_answered .., hreply.same .coh (by decide), hF⟩

/-! COH_AGENT_ADD. -/

/-- Agent index a is given to an endpoint. -/
def Coh.agentAdded (c : Coh) (a : Nat) (ep : Ep) : Coh := { c with agents := tput c.agents a ⟨ep, false⟩ }

/-- The lowest index that no agent has. -/
theorem freeAgent_spec {s : State} {a : Nat} (h : (List.range 1024).find? (fun a => (tget s.coh.agents a).isNone) = some a) :
    tget s.coh.agents a = none ∧ ∀ b, b < a → tget s.coh.agents b ≠ none := by
  obtain ⟨hfree, -, hless⟩ := List.find?_range_eq_some.1 h
  exact ⟨by simpa using hfree, fun b hb hn => by simpa [hn] using hless b hb⟩

theorem cohAgentAdd_of_full {s : State} (h : (List.range 1024).find? (fun a => (tget s.coh.agents a).isNone) = none) (ep : Ep) :
    cohAgentAdd ep s = s.reply 0x10#8 6 [] := by
  unfold cohAgentAdd
  rw [h]

section
variable {s : State} {a : Nat} (h : (List.range 1024).find? (fun a => (tget s.coh.agents a).isNone) = some a) {ep : Ep}
include h

theorem cohAgentAdd_of_registered (hr : (s.agentIx ep).isSome = true) : cohAgentAdd ep s = s.reply 0x10#8 3 [] := by
  unfold cohAgentAdd
  rw [h]
  exact if_pos hr

theorem cohAgentAdd_of_new (hr : s.agentIx ep = none) :
    cohAgentAdd ep s = { s with coh := s.coh.agentAdded a ep }.reply 0x10#8 0 (natBytes 2 a) := by
  unfold cohAgentAdd
  rw [h]
  exact if_neg (by simp [hr])

end

/-! An endpoint that is not registered. -/

theorem agentCommands_of_unregistered {s : State} {ep : Ep} (h : s.agentIx ep = none) :
    cohAgentRemove ep s = s.reply 0x11#8 7 [] ∧ cohDeclareDead ep s = s.reply 0x12#8 7 [] ∧
    cohAgentQuery ep s = s.reply 0x13#8 7 [] ∧ deadAgentSweepDone ep s = s := by
  refine ⟨?_, ?_, ?_, ?_⟩
  · simp only [cohAgentRemove, h]
  · simp only [cohDeclareDead, h]
  · simp only [cohAgentQuery, h]
  · simp only [deadAgentSweepDone, h]

/-! COH_AGENT_REMOVE. -/

/-- Agent index a is free again, and no recall waits. -/
def Coh.agentFreed (c : Coh) (a : Nat) : Coh := { c with agents := tdel c.agents a, recalls := [] }

/-- An agent that holds no line and has no active request is removed at once. -/
theorem cohAgentRemove_of_idle {s : State} {ep : Ep} {a : Nat} (h : s.agentIx ep = some a) (hr : s.coh.recalls = [])
    (hb : s.agentBusy a = false) (hl : ∀ l ∈ s.dirLines, mayHold l.2 a = false) :
    cohAgentRemove ep s = { s with coh := s.coh.agentFreed a }.reply 0x11#8 0 [] := by
  have hnone : s.dirLines.filter (fun l => mayHold l.2 a) = [] := List.filter_eq_nil_iff.2 (fun l hm => by simp [hl l hm])
  have hstart : s.startRecall ⟨some a, none, []⟩ = { s with coh := { s.coh with recalls := [⟨some a, none, []⟩] } } := by
    simp [State.startRecall, hr]
  have hbusy : ∀ w, State.agentBusy { s with coh := { s.coh with recalls := w } } a = false := fun _ => hb
  have hlines : ∀ w, (State.dirLines { s with coh := { s.coh with recalls := w } }).filter (fun l => mayHold l.2 a) = [] := fun _ => hnone
  simp only [cohAgentRemove, h, hnone, List.map_nil, hstart]
  simp [State.settleRecalls, State.settleRemovals, hbusy, hlines, Coh.agentFreed]

/-! COH_DECLARE_DEAD. -/

/-- Agent a is DEAD and its sweep runs. -/
def Coh.agentDied (c : Coh) (a : Nat) : Coh :=
  { c with agents := tmod c.agents a (fun x => { x with dead := true }), sweeps := tput c.sweeps a 0 }

theorem agentDied_agent {c : Coh} {a : Nat} {x : Agent} (h : tget c.agents a = some x) :
    tget (c.agentDied a).agents a = some { x with dead := true } :=
  tget_tmod_of_some h (fun y => { y with dead := true })

/-- Where no record is open and no request waits or is active, an agent's death changes the agent table and starts the sweep, no more. -/
theorem declareDead_of_idle {s : State} {ep : Ep} {a : Nat} (h : s.agentIx ep = some a) (hd : s.agentDead a = false)
    (hr : s.ext.records = []) (hq : s.coh.queues = []) (ht : s.coh.txns = []) : s.declareDead ep = { s with coh := s.coh.agentDied a } := by
  have hclose : s.closeRecordsOf ep = s := by simp [State.closeRecordsOf, hr]
  have hlive : s.liveAgent ep = some a := by simp [State.liveAgent, h, hd]
  simp [State.declareDead, hclose, hlive, hq, ht, Coh.agentDied]

theorem cohDeclareDead_of_registered {s : State} {ep : Ep} {a : Nat} (h : s.agentIx ep = some a) :
    cohDeclareDead ep s = (s.declareDead ep).reply 0x12#8 0 [] := by
  simp only [cohDeclareDead, h]

/-! COH_AGENT_QUERY. -/

/-- The 20 bytes of the answer (R306): INDEX, STATE, a zero byte, and the counts of lines in S, E, M and S_VEC. -/
theorem cohAgentQuery_of_registered {s : State} {ep : Ep} {a : Nat} (h : s.agentIx ep = some a) :
    ∃ bs, cohAgentQuery ep s = s.reply 0x13#8 0 bs ∧ bs.length = 20 ∧
      bs.take 4 = natBytes 2 a ++ [if s.agentDead a then 1#8 else 0#8, 0#8] ∧
      (bs.drop 4).take 4 = natBytes 4 (s.dirLines.filter (fun l => l.2 == .sPtr a)).length := by
  refine ⟨_, by simp only [cohAgentQuery, h]; rfl, ?_, ?_, ?_⟩
  · simp [length_natBytes]
  · simp [List.take_append, length_natBytes]
  · simp [List.take_append, List.drop_append, length_natBytes]

/-! The end of a sweep. -/

/-- The lines that name agent a alone are settled. -/
def State.swept (s : State) (a : Nat) : State :=
  s.dirLines.foldl (fun acc l => match l.2 with
    | .sVec _ => acc
    | d => if mayHold d a then acc.settleDead l.1 else acc) s

theorem swept_adds (s : State) (a : Nat) : Adds [.coh, .mem, .ctr, .ras, .serial] s (s.swept a) := by
  refine Adds.foldl (fun st l => ?_) _ s
  split
  · exact Adds.rfl st
  · split
    · exact settleDead_adds ..
    · exact Adds.rfl st

/-- Agent a's sweep is over. -/
def State.sweepOver (s : State) (a : Nat) : State := { s with coh := { s.coh with sweeps := tdel s.coh.sweeps a } }

theorem deadAgentSweepDone_of_sweep {s : State} {ep : Ep} {a n : Nat} (h : s.agentIx ep = some a) (hn : tget s.coh.sweeps a = some n) :
    deadAgentSweepDone ep s = ((((s.swept a).sweepOver a).raise
      (mkReport 0x09 0x01 2 (unitSlice 0) ep.toNat ((tget (s.swept a).coh.sweeps a).getD 0))).settleRemovals) := by
  simp only [deadAgentSweepDone, h, hn]
  rfl

theorem deadAgentSweepDone_spec {s : State} {ep : Ep} {a n : Nat} (h : s.agentIx ep = some a) (hn : tget s.coh.sweeps a = some n) :
    tget (deadAgentSweepDone ep s).coh.sweeps a = none ∧ reported (deadAgentSweepDone ep s) 0x09 0x01 2 (unitSlice 0) ∧
    Frame [.coh, .mem, .ctr, .ras, .serial, .sec] s (deadAgentSweepDone ep s) := by
  rw [deadAgentSweepDone_of_sweep h hn]
  generalize hr : ((s.swept a).sweepOver a).raise _ = t
  have hkeeps := settleRemovals_keeps t
  have hraise : Adds [.ras, .ctr, .serial] ((s.swept a).sweepOver a) t := hr ▸ raise_adds ..
  have hcoh : t.coh = ((s.swept a).sweepOver a).coh := hraise.same .coh (by decide)
  refine ⟨?_, hkeeps.adds.reported (hr ▸ reported_raise ..), ?_⟩
  · rw [hkeeps.sweeps, hcoh]
    exact tget_tdel_same ..
  · exact (((((swept_adds s a).mono (by decide)).trans ((adds_coh ..).mono (by decide))).trans (hraise.mono (by decide))).trans
      (hkeeps.adds.mono (by decide))).1

/-- Settles O40: each command is one of the equations above. -/
theorem agentsAreRegistered : Obligations.AgentsAreRegistered := by
  unfold Obligations.AgentsAreRegistered
  refine ⟨fun ep s hl => ⟨fun hfull => ?_, fun a hfree => ⟨fun hr => ?_, fun hr => ?_⟩⟩, fun ep s hl hr => ?_, fun ep a s hl ha =>
    ⟨?_, fun hrec hb hlines => ?_, fun hd hext hq ht hx => ?_, ?_, fun n hn => ?_⟩⟩
  · exact live_reply (i := .cohAgentAdd ep) rfl hl (cohAgentAdd_of_full (s := s.quiet) hfull ep)
  · exact live_reply (i := .cohAgentAdd ep) rfl hl (cohAgentAdd_of_registered (s := s.quiet) hfree hr)
  · obtain ⟨hnone, hless⟩ := freeAgent_spec hfree
    obtain ⟨t, hx, hans, hcoh, hF⟩ := live_cohReply (i := .cohAgentAdd ep) rfl hl (cohAgentAdd_of_new (s := s.quiet) hfree hr)
    exact ⟨t, hx, hans, hcoh ▸ tget_tput_same .., hnone, hless, hF⟩
  · obtain ⟨hremove, hdead, hquery, hsweep⟩ := agentCommands_of_unregistered (s := s.quiet) hr
    exact ⟨live_reply (i := .cohAgentRemove ep) rfl hl hremove, live_reply (i := .cohDeclareDead ep) rfl hl hdead,
      live_reply (i := .cohAgentQuery ep) rfl hl hquery, live_idles (c := .deadAgentSweepDone ep) rfl hl hsweep⟩
  · refine ⟨_, live_next (i := .cohAgentRemove ep) rfl hl rfl, ?_⟩
    simp only [cohAgentRemove, show s.quiet.agentIx ep = some a from ha]
    rfl
  · obtain ⟨t, hx, hans, hcoh, hF⟩ := live_cohReply (i := .cohAgentRemove ep) rfl hl
      (cohAgentRemove_of_idle (s := s.quiet) ha hrec hb hlines)
    exact ⟨t, hx, hans, hcoh ▸ tget_tdel_same .., hF⟩
  · obtain ⟨x, hx, hep⟩ := hx
    have hdied := cohDeclareDead_of_registered (s := s.quiet) ha
    rw [declareDead_of_idle (s := s.quiet) ha hd hext hq ht] at hdied
    obtain ⟨t, hnext, hans, hcoh, hF⟩ := live_cohReply (i := .cohDeclareDead ep) rfl hl hdied
    exact ⟨t, { x with dead := true }, hnext, hans, hcoh ▸ agentDied_agent hx, hep, rfl, hcoh ▸ tget_tput_same .., hF⟩
  · obtain ⟨bs, hbs, hlen, htake, hdrop⟩ := cohAgentQuery_of_registered (s := s.quiet) ha
    obtain ⟨t, hx, hans, hF⟩ := live_reply (i := .cohAgentQuery ep) rfl hl hbs
    exact ⟨t, bs, hx, hans, hlen, htake, hdrop, hF⟩
  · obtain ⟨hgone, hrep, hframe⟩ := deadAgentSweepDone_spec (s := s.quiet) ha hn
    obtain ⟨hx, hF⟩ := live_next_frame (i := .deadAgentSweepDone ep) rfl hl rfl hframe (by decide)
    exact ⟨_, hx, hgone, hrep, hF⟩

end Sys2Proof.Machine

/-! PROOFS. Answers to the home (R313 to R331): snoop answers, stash answers, GRANT_ACK, poison recovery and the snoop timeout. -/

namespace Sys2Proof.Machine

/-! A packet is taken from the inbox. -/

/-- Packet i has left the inbox. -/
def State.pktTaken (s : State) (i : Nat) : State := { s with rtr := { s.rtr with inbox := s.rtr.inbox.eraseIdx i } }

theorem pktTaken_adds (s : State) (i : Nat) : Adds [.rtr] s (s.pktTaken i) := adds_rtr s _

section
variable {s : State} {i : Nat} {ip : InPkt} (hi : s.rtr.inbox[i]? = some ip) (hb : s.behind i ip = false)
include hi hb

theorem takePkt_of_first : s.takePkt i [ip.pkt.opc] = some (ip, s.pktTaken i) := by
  simp [State.takePkt, State.takeAny, hi, hb, State.pktTaken]

/-- A message from a DEAD agent is counted and discarded (R331). -/
theorem snpTake_of_dead (hd : s.fromDead ip.pkt.src = true) (f : Nat → Packet → State → State) :
    snpTake i ip.pkt.opc f s = (s.pktTaken i).tally (ctrCoh 10) := by
  have hd' : (s.pktTaken i).fromDead ip.pkt.src = true := hd
  simp only [snpTake, takePkt_of_first hi hb, hd', if_true]

theorem snpTake_of_live (hd : s.fromDead ip.pkt.src = false) (f : Nat → Packet → State → State) :
    snpTake i ip.pkt.opc f s = f (fgaPpa ip.pkt.addr / 64) ip.pkt (s.pktTaken i) := by
  have hd' : (s.pktTaken i).fromDead ip.pkt.src = false := hd
  simp only [snpTake, takePkt_of_first hi hb, hd', Bool.false_eq_true, if_false]

end

/-! The commands of the home's answers. -/

/-- Every command that takes an answer. -/
def answerCommands (i : Nat) : List (Instr × BitVec 8) :=
  [(.snpRspI i, 0x60#8), (.snpRspS i, 0x61#8), (.snpRspDataI i, 0x62#8), (.snpRspDataS i, 0x63#8), (.snpRspDataM i, 0x64#8),
    (.snpRspWb i, 0x65#8), (.stashAccept i, 0x66#8), (.stashDecline i, 0x67#8), (.grantAck i, 0x68#8)]

/-- The answers to a snoop but SNP_RSP_WB: whether the sender still holds the line, and whether data came (R313). -/
def snoopAnswers (i : Nat) : List (Instr × BitVec 8 × Bool × Bool) :=
  [(.snpRspI i, 0x60#8, false, false), (.snpRspS i, 0x61#8, true, false), (.snpRspDataI i, 0x62#8, false, true),
    (.snpRspDataS i, 0x63#8, true, true), (.snpRspDataM i, 0x64#8, false, true)]

/-- What an answer to a snoop does, by whether the sender still holds the line and whether data came. -/
def snoopMeaning (kept has : Bool) : Nat → Packet → State → State := if has then snpData kept else snpPlain kept

theorem exec_answerCommand {i : Nat} {c : Instr} {opc : BitVec 8} (h : (c, opc) ∈ answerCommands i) (s : State) :
    ∃ f, exec c s = .next (s.quiet.whenLive (snpTake i opc f)) := by
  simp only [answerCommands, List.mem_cons, Prod.mk.injEq, List.not_mem_nil, or_false] at h
  rcases h with ⟨rfl, rfl⟩ | ⟨rfl, rfl⟩ | ⟨rfl, rfl⟩ | ⟨rfl, rfl⟩ | ⟨rfl, rfl⟩ | ⟨rfl, rfl⟩ | ⟨rfl, rfl⟩ | ⟨rfl, rfl⟩ | ⟨rfl, rfl⟩ <;>
    exact ⟨_, rfl⟩

theorem exec_snoopAnswer {i : Nat} {c : Instr} {opc : BitVec 8} {kept has : Bool} (h : (c, opc, kept, has) ∈ snoopAnswers i) (s : State) :
    exec c s = .next (s.quiet.whenLive (snpTake i opc (snoopMeaning kept has))) := by
  simp only [snoopAnswers, List.mem_cons, Prod.mk.injEq, List.not_mem_nil, or_false] at h
  rcases h with ⟨rfl, rfl, rfl, rfl⟩ | ⟨rfl, rfl, rfl, rfl⟩ | ⟨rfl, rfl, rfl, rfl⟩ | ⟨rfl, rfl, rfl, rfl⟩ | ⟨rfl, rfl, rfl, rfl⟩ <;> rfl

/-! An answer to a snoop. -/

/-- The transaction without the snoop sn to an endpoint, whose answer says whether the line is still held, with the data as given. -/
def Txn.snoopTaken (x : Txn) (sn : Snoop) (ep : Ep) (kept : Bool) (data : Option (Line × Bool)) : Txn :=
  { x with snoops := x.snoops.filter (fun y => y.ep != ep), kept := if kept then some sn.agent else x.kept, data := data }

section
variable {s : State} {line : Nat} {p : Packet} {x : Txn} {sn : Snoop} (hx : s.txn line = some x)
  (hsn : x.snoops.find? (fun y => y.ep == p.src) = some sn) (hwb : s.awaitsWb line p.src = false) (kept : Bool)
include hx hsn hwb

/-- Data that came is kept. -/
theorem snoopMeaning_of_data : snoopMeaning kept true line p s =
    (s.setTxn line (x.snoopTaken sn p.src kept (some (pktData p)))).advance line := by
  simp [snoopMeaning, snpData, hwb, State.snoopAnswer, hx, hsn, Txn.snoopTaken]

theorem snoopMeaning_of_clean (hm : s.dirLine line ≠ .m sn.agent) : snoopMeaning kept false line p s =
    (s.setTxn line (x.snoopTaken sn p.src kept x.data)).advance line := by
  simp [snoopMeaning, snpPlain, hwb, State.snoopAnswer, hx, hsn, Txn.snoopTaken, hm]

/-- An owner recorded M that answers without data: the line is poisoned and the protocol error reported (R319). -/
theorem snoopMeaning_of_protocolError (hm : s.dirLine line = .m sn.agent) : snoopMeaning kept false line p s =
    (((s.poisonHome line).protocolError line p.src).setTxn line (x.snoopTaken sn p.src kept (some (0#512, true)))).advance line := by
  simp [snoopMeaning, snpPlain, hwb, State.snoopAnswer, hx, hsn, Txn.snoopTaken, hm]

theorem snoopMeaning_of_lawful {has : Bool} (h : has = true ∨ s.dirLine line ≠ .m sn.agent) : snoopMeaning kept has line p s =
    (s.setTxn line (x.snoopTaken sn p.src kept (if has then some (pktData p) else x.data))).advance line := by
  cases has with
  | true => exact snoopMeaning_of_data hx hsn hwb kept
  | false => exact snoopMeaning_of_clean hx hsn hwb kept (h.resolve_left Bool.false_ne_true)

end

theorem protocolError_adds (s : State) (line : Nat) (ep : Ep) : Adds [.ras, .ctr, .serial] s (s.protocolError line ep) := raise_adds ..

theorem protocolError_reported (s : State) (line : Nat) (ep : Ep) :
    reported (s.protocolError line ep) 0x09 0x03 1 (unitSlice (ppaSlice (line * 64))) := reported_raise ..

/-! SNP_RSP_WB, stash answers, GRANT_ACK. -/

theorem snpWb_of_txn {s : State} {line : Nat} {x : Txn} (hx : s.txn line = some x) (p : Packet) : snpWb line p s =
    s.setTxn line { x with snoops := x.snoops.map (fun y => if y.ep == p.src then { y with wbAwaited := true } else y) } := by
  simp only [snpWb, hx]

theorem stashAnswer_of_stashing {s : State} {line a : Nat} {p : Packet} {x : Txn} {r : CReq} (hx : s.txn line = some x)
    (hk : x.kind = .request r) (hp : x.phase = .stashing p.src a) (accept : Bool) :
    stashAnswer accept line p s = if accept then s.recordStash line r a else (s.endReq line r).tally (ctrCoh 7) := by
  simp only [stashAnswer, hx, hk, hp, if_true]

theorem grantAck_of_granting {s : State} {line : Nat} {p : Packet} {x : Txn} {r : CReq} (hx : s.txn line = some x)
    (hk : x.kind = .request r) (hp : x.phase = .granting p.src) : grantAck line p s = s.endReq line r := by
  simp only [grantAck, hx, hk, hp, if_true]

/-- The target of a stash is recorded at once where its sector has or finds an entry (R328). -/
theorem recordStash_of_room {s : State} {line w : Nat} (h : s.dirRoom line = .entry w ∨ s.dirRoom line = .free w) (r : CReq) (a : Nat) :
    s.recordStash line r a = ((s.setDir line (.sPtr a)).endReq line r).tally (ctrCoh 6) := by
  rcases h with h | h <;> simp only [State.recordStash, h]

/-- A transaction that ends, and is counted, leaves its line free and the directory as it is. -/
theorem endReq_tally_spec (s : State) (line : Nat) (r : CReq) (off : Nat) :
    ((s.endReq line r).tally off).txn line = none ∧ ((s.endReq line r).tally off).coh.dir = s.coh.dir ∧
    Adds [.ext, .coh, .sec, .ctr, .ras, .serial] s ((s.endReq line r).tally off) := by
  obtain ⟨htxn, hdir, hadds⟩ := endReq_spec s line r
  have htally := tally_adds (s.endReq line r) off
  have hcoh : ((s.endReq line r).tally off).coh = (s.endReq line r).coh := htally.same .coh (by decide)
  exact ⟨(txn_of_coh hcoh line).trans htxn, (congrArg Coh.dir hcoh).trans hdir, (hadds.mono (by decide)).trans (htally.mono (by decide))⟩

/-! Poison recovery (R329). -/

/-- A line no longer waits for its recovery. -/
def State.recoverTaken (s : State) (line : Nat) : State := { s with coh := { s.coh with recover := s.coh.recover.erase line } }

/-- The home's transaction on a poisoned line: it asks the one holder for the data, or invalidates the copies of an S_VEC line. -/
def State.recoverLine (s : State) (line : Nat) : State :=
  match s.dirLine line with
  | .sPtr a => (s.startTxn line .recovery 0x24#8 [a]).takeWaiting line
  | .e a => (s.startTxn line .recovery 0x24#8 [a]).takeWaiting line
  | .sVec v => (s.startTxn line .poisonInv 0x20#8 (s.holders (.sVec v) none)).takeWaiting line
  | _ => s

theorem recoverLine_of_holder {s : State} {line a : Nat} (h : s.dirLine line = .sPtr a ∨ s.dirLine line = .e a) :
    s.recoverLine line = (s.startTxn line .recovery 0x24#8 [a]).takeWaiting line := by
  rcases h with h | h <;> simp only [State.recoverLine, h]

theorem recoverLine_of_sVec {s : State} {line : Nat} {v : BitVec 15} (h : s.dirLine line = .sVec v) :
    s.recoverLine line = (s.startTxn line .poisonInv 0x20#8 (s.holders (.sVec v) none)).takeWaiting line := by
  simp only [State.recoverLine, h]

theorem poisonRecovery_of_not_due {s : State} {line : Nat} (h : s.coh.recover.contains line = false ∨ (s.txn line).isSome = true) :
    poisonRecovery line s = s := by
  refine if_pos ?_
  rcases h with h | h <;> simp only [h, Bool.not_false, Bool.true_or, Bool.or_true]

/-- A line whose directory state names no dead agent is recovered as it stands. -/
theorem poisonRecovery_of_due {s : State} {line : Nat} (hr : s.coh.recover.contains line = true) (hx : s.txn line = none)
    (h : ∀ a, s.dirLine line = .sPtr a ∨ s.dirLine line = .e a ∨ s.dirLine line = .m a → s.agentDead a = false) :
    poisonRecovery line s = (s.recoverTaken line).recoverLine line := by
  have hdue : ¬ (!s.coh.recover.contains line || (s.txn line).isSome) = true := by
    simp only [hr, hx, Option.isSome_none, Bool.not_true, Bool.or_false, Bool.false_eq_true, not_false_eq_true]
  have heq : poisonRecovery line s = ((s.recoverTaken line).settleDead line).recoverLine line := if_neg hdue
  rw [heq, settleDead_of_live (s := s.recoverTaken line) h]

theorem recoverTaken_adds (s : State) (line : Nat) : Adds [.coh] s (s.recoverTaken line) := adds_coh s _

section
variable {l : BitVec 34} {s : State} (hl : s.live = true) (hr : s.coh.recover.contains l.toNat = true) (hx : s.txn l.toNat = none)
include hl hr hx

theorem live_poisonRecovery_of_holder {a : Nat} (hd : s.dirLine l.toNat = .sPtr a ∨ s.dirLine l.toNat = .e a)
    (ha : s.agentDead a = false) : exec (.poisonRecovery l) s = .next (s.quiet.settle
      (((s.quiet.recoverTaken l.toNat).startTxn l.toNat .recovery 0x24#8 [a]).takeWaiting l.toNat)) := by
  have hlive : ∀ b, s.dirLine l.toNat = .sPtr b ∨ s.dirLine l.toNat = .e b ∨ s.dirLine l.toNat = .m b → s.agentDead b = false := by
    intro b hb
    have hab : a = b := by rcases hd with hd | hd <;> simpa [hd] using hb
    exact hab ▸ ha
  exact live_next rfl hl ((poisonRecovery_of_due (s := s.quiet) hr hx hlive).trans
    (recoverLine_of_holder (s := s.quiet.recoverTaken l.toNat) hd))

theorem live_poisonRecovery_of_sVec {v : BitVec 15} (hd : s.dirLine l.toNat = .sVec v) :
    exec (.poisonRecovery l) s = .next (s.quiet.settle
      (((s.quiet.recoverTaken l.toNat).startTxn l.toNat .poisonInv 0x20#8 (s.holders (.sVec v) none)).takeWaiting l.toNat)) := by
  have hlive : ∀ b, s.dirLine l.toNat = .sPtr b ∨ s.dirLine l.toNat = .e b ∨ s.dirLine l.toNat = .m b → s.agentDead b = false := by
    simp [hd]
  exact live_next rfl hl ((poisonRecovery_of_due (s := s.quiet) hr hx hlive).trans
    (recoverLine_of_sVec (s := s.quiet.recoverTaken l.toNat) hd))

end

/-! The snoop timeout (R330). -/

theorem snoopTimeout_of_awaited {s : State} {line : Nat} {ep : Ep} (h : s.awaits line ep = true) : snoopTimeout line ep s =
    (s.raise (mkReport 0x09 0x02 1 (unitSlice (ppaSlice (line * 64))) ep.toNat (line * 64))).declareDead ep := if_pos h

theorem snoopTimeout_of_not_awaited {s : State} {line : Nat} {ep : Ep} (h : s.awaits line ep = false) : snoopTimeout line ep s = s :=
  if_neg (by simp [h])

/-! The obligation. -/

section
variable {i : Nat} {ip : InPkt} {s : State} (hl : s.live = true) (hi : s.rtr.inbox[i]? = some ip) (hb : s.behind i ip = false)
include hl hi hb

/-- An answer whose sender is dead counts, and does nothing else. -/
theorem live_answer_of_dead {c : Instr} (hd : s.fromDead ip.pkt.src = true) (hc : (c, ip.pkt.opc) ∈ answerCommands i) :
    ∃ t, exec c s = .next t ∧ t.rtr = { s.rtr with inbox := s.rtr.inbox.eraseIdx i } ∧
      (s.counter (ctrCoh 10) < ctrMax → t.counter (ctrCoh 10) = s.counter (ctrCoh 10) + 1) ∧ Frame [.rtr, .ctr, .ras, .serial] s t := by
  obtain ⟨f, hf⟩ := exec_answerCommand hc s
  have htally := tally_adds (s.quiet.pktTaken i) (ctrCoh 10)
  obtain ⟨hx, hF⟩ := live_next_frame (ps := [.rtr, .ctr, .ras, .serial]) hf hl (snpTake_of_dead (s := s.quiet) hi hb hd f)
    (((pktTaken_adds ..).mono (by decide)).trans (htally.mono (by decide))).1 (by decide)
  refine ⟨_, hx, htally.same .rtr (by decide), fun hlt => ?_, hF⟩
  exact (bump_counter (s := s.quiet.pktTaken i) hlt 1).trans (Nat.min_eq_right hlt)

variable (hd : s.fromDead ip.pkt.src = false)
include hd

/-- An answer of a live agent does what its message means for its line. -/
theorem live_answer {c : Instr} {f : Nat → Packet → State → State} (hc : exec c s = .next (s.quiet.whenLive (snpTake i ip.pkt.opc f))) :
    exec c s = .next (s.quiet.settle (f (fgaPpa ip.pkt.addr / 64) ip.pkt (s.quiet.pktTaken i))) :=
  live_next hc hl (snpTake_of_live (s := s.quiet) hi hb hd f)

theorem live_answer_frame {c : Instr} {f : Nat → Packet → State → State} {u : State} {ps : List Part} (hps : Part.dbg ∉ ps) (hr : .rtr ∈ ps)
    (hc : exec c s = .next (s.quiet.whenLive (snpTake i ip.pkt.opc f)))
    (hf : f (fgaPpa ip.pkt.addr / 64) ip.pkt (s.quiet.pktTaken i) = u) (hu : Adds ps (s.quiet.pktTaken i) u) :
    exec c s = .next u ∧ Frame ps s u :=
  live_next_frame hc hl ((snpTake_of_live (s := s.quiet) hi hb hd f).trans hf)
    (((pktTaken_adds ..).mono (by simpa using hr)).trans hu).1 hps

variable {x : Txn} (hx : s.txn (fgaPpa ip.pkt.addr / 64) = some x)
include hx

/-- An answer to a snoop that is awaited (R313, R315, R319). -/
theorem live_snoopAnswer {c : Instr} {kept has : Bool} {sn : Snoop} (hc : (c, ip.pkt.opc, kept, has) ∈ snoopAnswers i)
    (hwb : s.awaitsWb (fgaPpa ip.pkt.addr / 64) ip.pkt.src = false) (hsn : x.snoops.find? (fun y => y.ep == ip.pkt.src) = some sn) :
    (has = true ∨ s.dirLine (fgaPpa ip.pkt.addr / 64) ≠ .m sn.agent →
      ∃ t u, exec c s = .next t ∧ t = s.quiet.settle (u.advance (fgaPpa ip.pkt.addr / 64)) ∧
        u.txn (fgaPpa ip.pkt.addr / 64) = some (x.snoopTaken sn ip.pkt.src kept (if has then some (pktData ip.pkt) else x.data)) ∧
        u.rtr = { s.rtr with inbox := s.rtr.inbox.eraseIdx i } ∧ Frame [.rtr, .coh] s u) ∧
    (has = false → s.dirLine (fgaPpa ip.pkt.addr / 64) = .m sn.agent →
      ∃ t u, exec c s = .next t ∧ t = s.quiet.settle (u.advance (fgaPpa ip.pkt.addr / 64)) ∧
        reported u 0x09 0x03 1 (unitSlice (ppaSlice (fgaPpa ip.pkt.addr / 64 * 64))) ∧
        u.txn (fgaPpa ip.pkt.addr / 64) = some (x.snoopTaken sn ip.pkt.src kept (some (0#512, true))) ∧
        Frame [.rtr, .coh, .mem, .ras, .ctr, .serial] s u) := by
  have hnext := live_answer hl hi hb hd (exec_snoopAnswer hc s)
  have htaken := pktTaken_adds s.quiet i
  refine ⟨fun h => ?_, fun hhas hm => ?_⟩
  · rw [snoopMeaning_of_lawful (s := s.quiet.pktTaken i) hx hsn hwb kept h] at hnext
    exact ⟨_, _, hnext, rfl, setTxn_txn_same .., rfl,
      (Frame.quiet s).trans ((htaken.mono (by decide)).trans ((setTxn_adds ..).mono (by decide))).1⟩
  · subst hhas
    rw [snoopMeaning_of_protocolError (s := s.quiet.pktTaken i) hx hsn hwb kept hm] at hnext
    refine ⟨_, _, hnext, rfl, (setTxn_adds ..).reported (protocolError_reported ..), setTxn_txn_same .., ?_⟩
    exact (Frame.quiet s).trans ((((htaken.mono (by decide)).trans ((poisonHome_adds ..).mono (by decide))).trans
      ((protocolError_adds ..).mono (by decide))).trans ((setTxn_adds ..).mono (by decide))).1

theorem live_snpRspWb (ho : ip.pkt.opc = 0x65#8) : ∃ t, exec (.snpRspWb i) s = .next t ∧ t.txn (fgaPpa ip.pkt.addr / 64) = some { x with
    snoops := x.snoops.map (fun y => if y.ep == ip.pkt.src then { y with wbAwaited := true } else y) } ∧ Frame [.rtr, .coh] s t := by
  obtain ⟨hnext, hF⟩ := live_answer_frame (c := .snpRspWb i) (ps := [.rtr, .coh]) hl hi hb hd (by decide) (by decide) (by rw [ho]; rfl)
    (snpWb_of_txn (s := s.quiet.pktTaken i) hx ip.pkt) ((setTxn_adds ..).mono (by decide))
  exact ⟨_, hnext, setTxn_txn_same .., hF⟩

variable {r : CReq} (hk : x.kind = .request r)
include hk

theorem live_stashAccept {a : Nat} (hp : x.phase = .stashing ip.pkt.src a) (ho : ip.pkt.opc = 0x66#8) :
    ∃ t u, exec (.stashAccept i) s = .next t ∧ Frame [.rtr] s u ∧
      t = s.quiet.settle (u.recordStash (fgaPpa ip.pkt.addr / 64) r a) ∧
      (∀ w, s.dirRoom (fgaPpa ip.pkt.addr / 64) = .entry w ∨ s.dirRoom (fgaPpa ip.pkt.addr / 64) = .free w →
        t = s.quiet.settle (((u.setDir (fgaPpa ip.pkt.addr / 64) (.sPtr a)).endReq (fgaPpa ip.pkt.addr / 64) r).tally (ctrCoh 6)) ∧
        t.txn (fgaPpa ip.pkt.addr / 64) = none) := by
  have hnext := live_answer (c := .stashAccept i) hl hi hb hd (by rw [ho]; rfl)
  rw [stashAnswer_of_stashing (s := s.quiet.pktTaken i) hx hk hp true, if_pos rfl] at hnext
  refine ⟨_, _, hnext, (Frame.quiet s).trans (pktTaken_adds ..).1, rfl, fun w hw => ?_⟩
  rw [recordStash_of_room (s := s.quiet.pktTaken i) hw]
  exact ⟨rfl, (txn_of_coh (settle_coh ..) _).trans (endReq_tally_spec ..).1⟩

theorem live_stashDecline {a : Nat} (hp : x.phase = .stashing ip.pkt.src a) (ho : ip.pkt.opc = 0x67#8) :
    ∃ t, exec (.stashDecline i) s = .next t ∧ t.txn (fgaPpa ip.pkt.addr / 64) = none ∧ t.coh.dir = s.coh.dir ∧
      Frame [.rtr, .coh, .ext, .ctr, .ras, .serial, .sec] s t := by
  obtain ⟨htxn, hdir, hadds⟩ := endReq_tally_spec (s.quiet.pktTaken i) (fgaPpa ip.pkt.addr / 64) r (ctrCoh 7)
  obtain ⟨hnext, hF⟩ := live_answer_frame (c := .stashDecline i) (ps := [.rtr, .coh, .ext, .ctr, .ras, .serial, .sec]) hl hi hb hd
    (by decide) (by decide) (by rw [ho]; rfl) (stashAnswer_of_stashing (s := s.quiet.pktTaken i) hx hk hp false) (hadds.mono (by decide))
  exact ⟨_, hnext, htxn, hdir, hF⟩

theorem live_grantAck (hp : x.phase = .granting ip.pkt.src) (ho : ip.pkt.opc = 0x68#8) :
    ∃ t, exec (.grantAck i) s = .next t ∧ t.txn (fgaPpa ip.pkt.addr / 64) = none ∧ t.coh.dir = s.coh.dir ∧
      Frame [.rtr, .coh, .ext, .sec] s t := by
  obtain ⟨htxn, hdir, hadds⟩ := endReq_spec (s.quiet.pktTaken i) (fgaPpa ip.pkt.addr / 64) r
  obtain ⟨hnext, hF⟩ := live_answer_frame (c := .grantAck i) (ps := [.rtr, .coh, .ext, .sec]) hl hi hb hd (by decide) (by decide)
    (by rw [ho]; rfl) (grantAck_of_granting (s := s.quiet.pktTaken i) hx hk hp) (hadds.mono (by decide))
  exact ⟨_, hnext, htxn, hdir, hF⟩

end

/-- Settles O42: each answer is taken from the inbox (`snpTake_of_live`, `snpTake_of_dead`) and does what its message means; recovery and the
timeout go by the equations above. -/
theorem homeTakesAnswers : Obligations.HomeTakesAnswers := by
  unfold Obligations.HomeTakesAnswers
  refine ⟨fun i ip c kept has x sn s hl hi hc hb hd hwb hx hsn => ?_, fun i ip c s hl hi hb hd hc => live_answer_of_dead hl hi hb hd hc,
    fun i ip x s hl hi hb hd hx => ⟨live_snpRspWb hl hi hb hd hx, fun r a hk hp => ?_, fun r hk hp => live_grantAck hl hi hb hd hx hk hp⟩,
    fun l s hl => ⟨fun h => ?_, fun hr hx => ⟨fun a hdir ha => ?_, fun v hdir => ?_⟩⟩, fun l ep s hl => ⟨fun h => ?_, fun h => ?_⟩⟩
  · obtain ⟨hlawful, herror⟩ := live_snoopAnswer hl hi hb hd hx hc hwb hsn
    refine ⟨hlawful, fun hhas hm => ?_⟩
    obtain ⟨t, u, hnext, ht, hrep, htxn, hF⟩ := herror hhas hm
    exact ⟨t, u, hnext, ht, hrep, ⟨_, htxn, rfl, rfl⟩, hF⟩
  · exact ⟨live_stashAccept hl hi hb hd hx hk hp, live_stashDecline hl hi hb hd hx hk hp⟩
  · exact live_idles (c := .poisonRecovery l) rfl hl (poisonRecovery_of_not_due (s := s.quiet) h)
  · exact ⟨_, s.quiet.recoverTaken l.toNat, live_poisonRecovery_of_holder hl hr hx hdir ha, rfl, rfl,
      (Frame.quiet s).trans (recoverTaken_adds ..).1, rfl⟩
  · exact ⟨_, s.quiet.recoverTaken l.toNat, live_poisonRecovery_of_sVec hl hr hx hdir, rfl, rfl,
      (Frame.quiet s).trans (recoverTaken_adds ..).1, rfl⟩
  · exact live_idles (c := .snoopTimeout l ep) rfl hl (snoopTimeout_of_not_awaited (s := s.quiet) h)
  · exact ⟨_, _, live_next (i := .snoopTimeout l ep) rfl hl (snoopTimeout_of_awaited (s := s.quiet) h), reported_raise ..,
      (Frame.quiet s).trans (raise_adds ..).1, rfl⟩

end Sys2Proof.Machine

/-! PROOFS. End-to-end retry (R395): where O46 fails, a read that is sent again after poison has met its first answer. -/

namespace Sys2Proof.Machine

/-- A read of another node, sent TIMEOUT ticks ago, of which one part has come, poisoned. -/
def poisonedRead : DevReq :=
  { tag := 0#12, dst := 3#14, via := none, va := none, port := none, opc := 0x80#8, xfer := none,
    pkts := [{ pktBlank 0x80#8 with dst := 3#14, aux := 1#64 }], vc := vcReq, sent := true, age := 32, retries := 0, owner := .other,
    got := [(0#64, [0#128])], poisoned := true }

/-- The device after reset, but for that one request outstanding. -/
def poisonedWait : State := { State.reset with rtr := { Rtr.reset with reqs := [(0, poisonedRead)] } }

/-- Whether request 0 is outstanding, and if so whether poison has met it. -/
def State.firstPoisoned (s : State) : Option Bool := (tget s.rtr.reqs 0).map (fun r => r.poisoned)

theorem settle_firstPoisoned (s t : State) : (s.settle t).firstPoisoned = t.firstPoisoned := rfl

/-- The model sends the read again with a clean record. -/
theorem e2eTimeout_poisonedWait : (e2eTimeout 0 poisonedWait.quiet).firstPoisoned = some false := by decide +kernel

/-- The read as O46 has it sent again keeps the mark of its first answer. -/
theorem transmit_poisonedWait :
    ((poisonedWait.quiet.transmit 0 { poisonedRead with retries := poisonedRead.retries + 1, got := [] }).tally (ctrRtr 2)).firstPoisoned =
      some true := by decide +kernel

/-- Refutes O46: its fourth clause sends a read again with its retries counted and what it had received dropped, and leaves the mark of poison as
it was. The model clears that mark too, so in `poisonedWait` the record after E2E_TIMEOUT is another one. -/
theorem not_requestsAnswersAndTimers : ¬ Obligations.RequestsAnswersAndTimers := by
  unfold Obligations.RequestsAnswersAndTimers
  rintro ⟨-, -, -, htimer⟩
  have hlive : poisonedWait.live = true := by decide
  obtain ⟨-, hdue⟩ := htimer 0 poisonedRead poisonedWait hlive rfl
  obtain ⟨hread, -, -⟩ := hdue rfl (by decide)
  obtain ⟨t, hnext, ht⟩ := hread (by decide) (.inl rfl) (by decide)
  have heq := Host.Outcome.next.inj ((live_next (i := .e2eTimeout 0) rfl hlive rfl).symm.trans hnext)
  have hmark := congrArg State.firstPoisoned (heq.trans ht)
  rw [settle_firstPoisoned, settle_firstPoisoned, e2eTimeout_poisonedWait, transmit_poisonedWait] at hmark
  exact absurd hmark (by decide)

end Sys2Proof.Machine

/-! PROOFS. Ports (R338, R370, R379): a port's record, its counters, and a live device's change of one port. -/

namespace Sys2Proof.Machine

/-! The record of a port. -/

theorem adds_links (s : State) (x : SMap Link) : Adds [.links] s { s with links := x } :=
  adds_of_same rfl rfl (fun p => by cases p <;> simp [Part.same])

theorem setLink_adds (s : State) (p : LinkPort) (x : Link) : Adds [.links] s (s.setLink p x) := adds_links s _

theorem modLink_adds (s : State) (p : LinkPort) (f : Link → Link) : Adds [.links] s (s.modLink p f) := setLink_adds ..

@[simp] theorem setLink_link_same (s : State) (p : LinkPort) (x : Link) : (s.setLink p x).link p = x := mget_mset_same ..

@[simp] theorem modLink_link_same (s : State) (p : LinkPort) (f : Link → Link) : (s.modLink p f).link p = f (s.link p) := setLink_link_same ..

/-- What leaves the ports alone leaves each port's record. -/
theorem Adds.link {ps : List Part} {s t : State} (h : Adds ps s t) (hp : Part.links ∉ ps) (p : LinkPort) : t.link p = s.link p :=
  congrArg (fun m => mget Link.resetTfl m p.val) (show t.links = s.links from h.same .links hp)

@[simp] theorem raise_link (s : State) (r : Report) (p : LinkPort) : (s.raise r).link p = s.link p := (raise_adds s r).link (by decide) p

theorem tallyTfl_adds (s : State) (k : Nat) (p : LinkPort) (n : Nat) : Adds [.ras, .ctr, .serial] s (s.tallyTfl k p n) := by
  unfold State.tallyTfl
  split
  · exact Adds.rfl s
  · exact bump_adds ..

@[simp] theorem tallyTfl_link (s : State) (k : Nat) (q : LinkPort) (n : Nat) (p : LinkPort) : (s.tallyTfl k q n).link p = s.link p :=
  (tallyTfl_adds s k q n).link (by decide) p

/-- A command of a live device that sets one port's record, and does nothing else. -/
theorem live_setLink {c : Instr} {s : State} {f : State → State} {p : LinkPort} {x : Link} (hc : exec c s = .next (s.quiet.whenLive f))
    (hl : s.live = true) (hf : f s.quiet = s.quiet.setLink p x) : ∃ t, exec c s = .next t ∧ t.link p = x ∧ Frame [.links] s t := by
  obtain ⟨hx, hF⟩ := live_next_frame hc hl hf (setLink_adds ..).1 (by decide)
  exact ⟨_, hx, setLink_link_same .., hF⟩

/-- A port's record changes and a report is raised about it. -/
theorem setLink_raise_spec (s : State) (p : LinkPort) (x : Link) (code severity d0 d1 : Nat) (unit : BitVec 16) :
    ((s.setLink p x).raise (mkReport 0x04 code severity unit d0 d1)).link p = x ∧
    reported ((s.setLink p x).raise (mkReport 0x04 code severity unit d0 d1)) 0x04 code severity unit ∧
    Adds [.links, .ctr, .ras, .serial] s ((s.setLink p x).raise (mkReport 0x04 code severity unit d0 d1)) :=
  ⟨(raise_link ..).trans (setLink_link_same ..), reported_raise ..,
    ((setLink_adds ..).mono (by decide)).trans ((raise_adds ..).mono (by decide))⟩

end Sys2Proof.Machine

/-! PROOFS. Retrains and the timeouts of training (R361, R368, R369). -/

namespace Sys2Proof.Machine

/-! Retrains. -/

/-- A port in LOCK for a retrain: its loss timer runs and every width change is abandoned. -/
def Link.toRetrain (l : Link) : Link :=
  { l with state := .lock, retraining := true, lossTimer := true, change := none, oldH := 0, paramDone := false, peerParamDone := false,
           peerNextExpected := none, uncorrRun := 0, tx := { l.tx with ctrls := [] } }

theorem startLinkRetrain_of_active {s : State} {p : LinkPort} (h : (s.link p).state = .active) (cause : Nat) :
    s.startLinkRetrain p cause = ((s.setLink p (s.link p).toRetrain).tallyTfl 5 p 1).raise
      (mkReport 0x04 0x01 0 (unitPort p) cause (s.link p).epoch.toNat) := if_neg (by simp [h])

theorem startLinkRetrain_spec {s : State} {p : LinkPort} (h : (s.link p).state = .active) (cause : Nat) :
    (s.startLinkRetrain p cause).link p = (s.link p).toRetrain ∧ reported (s.startLinkRetrain p cause) 0x04 0x01 0 (unitPort p) ∧
    Adds [.links, .ctr, .ras, .serial] s (s.startLinkRetrain p cause) := by
  rw [startLinkRetrain_of_active h]
  refine ⟨by simp, reported_raise .., ?_⟩
  exact (((setLink_adds ..).mono (by decide)).trans ((tallyTfl_adds ..).mono (by decide))).trans ((raise_adds ..).mono (by decide))

/-- A command of a live device that starts a retrain of a port in ACTIVE. -/
theorem live_retrains {c : Instr} {s : State} {f : State → State} {p : LinkPort} {cause : Nat} (hc : exec c s = .next (s.quiet.whenLive f))
    (hl : s.live = true) (ha : (s.link p).state = .active) (hf : f s.quiet = s.quiet.startLinkRetrain p cause) : retrains p c s := by
  obtain ⟨hlink, hrep, hadds⟩ := startLinkRetrain_spec (s := s.quiet) ha cause
  obtain ⟨hx, hF⟩ := live_next_frame hc hl hf hadds.1 (by decide)
  refine ⟨_, hx, ?_, ?_, ?_, ?_, ?_, ?_, hrep, hF⟩ <;> rw [hlink] <;> rfl

/-! Timeouts. -/

/-- A port goes to another state of training, and neither end has sent PARAM_DONE. -/
def Link.backTo (l : Link) (d : LinkState) : Link := { l with state := d, paramDone := false, peerParamDone := false }

theorem trainTimeout_of_state {s : State} {p : LinkPort} {a : LinkState} (h : (s.link p).state = a) (d : LinkState) :
    s.trainTimeout p a d = s.setLink p ((s.link p).backTo d) := if_pos h

theorem trainTimeout_of_other {s : State} {p : LinkPort} {a : LinkState} (h : (s.link p).state ≠ a) (d : LinkState) :
    s.trainTimeout p a d = s := if_neg h

/-- A timeout of training leads from its state to another one, and does nothing in any other state. -/
theorem live_trainTimeout {c : Instr} {p : LinkPort} {a d : LinkState} {s : State}
    (hc : exec c s = .next (s.quiet.whenLive (fun st => st.trainTimeout p a d))) (hl : s.live = true) :
    ((s.link p).state = a → ∃ t, exec c s = .next t ∧ t.link p = (s.link p).backTo d ∧ Frame [.links] s t) ∧
    ((s.link p).state ≠ a → idles c s) :=
  ⟨fun h => live_setLink hc hl (trainTimeout_of_state (s := s.quiet) h d),
    fun h => live_idles hc hl (trainTimeout_of_other (s := s.quiet) h d)⟩

/-! A width change that does not complete. -/

theorem widthChangeTimeout_of_change {s : State} {p : LinkPort} (h : (s.link p).change.isSome = true) :
    widthChangeTimeout p s = s.startLinkRetrain p 8 := if_pos h

theorem widthChangeTimeout_of_none {s : State} {p : LinkPort} (h : (s.link p).change = none) : widthChangeTimeout p s = s :=
  if_neg (by simp [h])

end Sys2Proof.Machine

/-! PROOFS. Width changes (R366, R367, R369): the peer's request and the peer's answer. -/

namespace Sys2Proof.Machine

/-! The peer's request. -/

/-- The port has asked for a width change itself, and the peer has not answered. -/
def Link.asking (l : Link) : Bool :=
  match l.change with
  | some k => k.mine && !k.answered
  | none => false

/-- The peer's request can be taken: lanes that are not in use were equalized, the allocations allow the width, and so does WIDTH_MAX. -/
def Link.widthOk (l : Link) (pl : Bool) (w : BitVec 2) (lanes : BitVec 8) : Bool :=
  (!((lanes &&& ~~~l.lanes) != 0#8) || (lanes &&& ~~~l.equalized) == 0#8) && l.allocOk w && decide (w.toNat ≤ l.wmax pl)

/-- A port without a width change of its own, nor the CTRL flit that asked for it. -/
def Link.unasked (l : Link) : Link :=
  { l with change := none, tx := { l.tx with ctrls := l.tx.ctrls.filter (fun c => c != ctrlPayload 1
      (match l.change with
        | some k => widthByte k.width k.lanes
        | none => 0) 0) } }

/-- A CTRL flit joins those that wait. -/
def Link.withCtrl (l : Link) (c : List (BitVec 128)) : Link := { l with tx := { l.tx with ctrls := l.tx.ctrls ++ [c] } }

theorem mem_withCtrl (l : Link) (c : List (BitVec 128)) : c ∈ (l.withCtrl c).tx.ctrls := List.mem_append_right _ (List.mem_singleton.2 rfl)

theorem asking_of_waiting {l : Link} {k : WidthChange} (h : l.change = some k) (hm : k.mine = true) (ha : k.answered = false) :
    l.asking = true := by
  simp [Link.asking, h, hm, ha]

theorem asking_of_answered {l : Link} (h : ∀ k, l.change = some k → k.mine = false ∨ k.answered = true) : l.asking = false := by
  unfold Link.asking
  split
  next k hk => rcases h k hk with h | h <;> simp [h]
  next => rfl

theorem takeWidthReq_eq (s : State) (p : LinkPort) (w : BitVec 2) (lanes : BitVec 8) : s.takeWidthReq p w lanes =
    if (s.link p).state ≠ .active then s
    else if (s.link p).asking && (s.link p).leader then s
    else if (s.link p).widthOk (isPl p) w lanes then
      s.setLink p (((s.link p).unasked.switchTo w lanes false).withCtrl (ctrlPayload 2 (widthByte w lanes) 0))
    else s.setLink p ((s.link p).unasked.withCtrl (ctrlPayload 2 (widthByte (s.link p).width (s.link p).lanes) 0)) := rfl

section
variable {s : State} {p : LinkPort} (w : BitVec 2) (lanes : BitVec 8)

theorem takeWidthReq_of_down (h : (s.link p).state ≠ .active) : s.takeWidthReq p w lanes = s := if_pos h

/-- The leader goes on with its own request. -/
theorem takeWidthReq_of_leader (ha : (s.link p).asking = true) (hd : (s.link p).leader = true) : s.takeWidthReq p w lanes = s := by
  rw [takeWidthReq_eq]
  simp [ha, hd]

variable (h : (s.link p).state = .active) (hn : (s.link p).asking = false ∨ (s.link p).leader = false)
include h hn

theorem takeWidthReq_of_ok (hok : (s.link p).widthOk (isPl p) w lanes = true) : s.takeWidthReq p w lanes =
    s.setLink p (((s.link p).unasked.switchTo w lanes false).withCtrl (ctrlPayload 2 (widthByte w lanes) 0)) := by
  rw [takeWidthReq_eq, if_neg (by simp [h]), if_neg (by rcases hn with hn | hn <;> simp [hn]), if_pos hok]

theorem takeWidthReq_of_refused (hok : (s.link p).widthOk (isPl p) w lanes = false) : s.takeWidthReq p w lanes =
    s.setLink p ((s.link p).unasked.withCtrl (ctrlPayload 2 (widthByte (s.link p).width (s.link p).lanes) 0)) := by
  rw [takeWidthReq_eq, if_neg (by simp [h]), if_neg (by rcases hn with hn | hn <;> simp [hn]), if_neg (by simp [hok])]

end

/-! The peer's answer. -/

section
variable {s : State} {p : LinkPort} {k : WidthChange} (hk : (s.link p).change = some k) (hm : k.mine = true) (ha : k.answered = false)
  {w : BitVec 2} {lanes : BitVec 8}
include hk hm ha

theorem takeWidthAck_of_same (hw : w = (s.link p).width) (hl : lanes = (s.link p).lanes) :
    s.takeWidthAck p w lanes = s.setLink p { s.link p with change := none } := by
  simp [State.takeWidthAck, hk, hm, ha, hw, hl]

theorem takeWidthAck_of_other (h : w ≠ (s.link p).width ∨ lanes ≠ (s.link p).lanes) :
    s.takeWidthAck p w lanes = s.setLink p ((s.link p).switchTo w lanes true) := by
  have hnot : ¬ (w = (s.link p).width ∧ lanes = (s.link p).lanes) := fun e => h.elim (fun h => h e.1) (fun h => h e.2)
  simp [State.takeWidthAck, hk, hm, ha, hnot]

end

theorem takeWidthAck_of_unasked {s : State} {p : LinkPort} (h : ∀ k, (s.link p).change = some k → k.mine = false ∨ k.answered = true)
    (w : BitVec 2) (lanes : BitVec 8) : s.takeWidthAck p w lanes = s := by
  unfold State.takeWidthAck
  dsimp only
  split
  next k hk => exact if_pos (by rcases h k hk with h | h <;> simp [h])
  next => rfl

/-! The commands. -/

section
variable {p : LinkPort} {s : State} (hl : s.live = true) (w : BitVec 2) (lanes : BitVec 8)
include hl

theorem live_widthReq_idles (h : (s.link p).state ≠ .active ∨
    ((∃ k, (s.link p).change = some k ∧ k.mine = true ∧ k.answered = false) ∧ (s.link p).leader = true)) : idles (.widthReq p w lanes) s := by
  refine live_idles (c := .widthReq p w lanes) rfl hl ?_
  rcases h with h | ⟨⟨k, hk, hm, ha⟩, hd⟩
  · exact takeWidthReq_of_down (s := s.quiet) w lanes h
  · exact takeWidthReq_of_leader (s := s.quiet) w lanes (asking_of_waiting hk hm ha) hd

section
variable (h : (s.link p).state = .active)
  (hn : (∀ k, (s.link p).change = some k → k.mine = false ∨ k.answered = true) ∨ (s.link p).leader = false)
include h hn

theorem live_widthReq_taken (hok : (s.link p).widthOk (isPl p) w lanes = true) :
    ∃ t k, exec (.widthReq p w lanes) s = .next t ∧ (t.link p).width = w ∧ (t.link p).lanes = lanes ∧ (t.link p).change = some k ∧
      k.mine = false ∧ k.answered = true ∧ ctrlPayload 2 (widthByte w lanes) 0 ∈ (t.link p).tx.ctrls ∧ Frame [.links] s t := by
  obtain ⟨t, hx, hlink, hF⟩ := live_setLink (c := .widthReq p w lanes) rfl hl
    (takeWidthReq_of_ok (s := s.quiet) w lanes h (hn.imp_left asking_of_answered) hok)
  refine ⟨t, _, hx, ?_, ?_, congrArg Link.change hlink, rfl, rfl, hlink ▸ mem_withCtrl .., hF⟩ <;> rw [hlink] <;> rfl

theorem live_widthReq_refused (hok : (s.link p).widthOk (isPl p) w lanes = false) :
    ∃ t, exec (.widthReq p w lanes) s = .next t ∧ (t.link p).width = (s.link p).width ∧ (t.link p).lanes = (s.link p).lanes ∧
      (t.link p).change = none ∧ ctrlPayload 2 (widthByte (s.link p).width (s.link p).lanes) 0 ∈ (t.link p).tx.ctrls ∧ Frame [.links] s t := by
  obtain ⟨t, hx, hlink, hF⟩ := live_setLink (c := .widthReq p w lanes) rfl hl
    (takeWidthReq_of_refused (s := s.quiet) w lanes h (hn.imp_left asking_of_answered) hok)
  refine ⟨t, hx, ?_, ?_, congrArg Link.change hlink, hlink ▸ mem_withCtrl .., hF⟩ <;> rw [hlink] <;> rfl

end
end

end Sys2Proof.Machine

/-! PROOFS. The loss of a link (R364, R370, R371): its settlement where no request, route or multicast send is there to be settled with it. -/

namespace Sys2Proof.Machine

@[simp] theorem tallyTfl_rtr (s : State) (k : Nat) (p : LinkPort) (n : Nat) : (s.tallyTfl k p n).rtr = s.rtr :=
  (tallyTfl_adds s k p n).same .rtr (by decide)

@[simp] theorem tallyTfl_fab (s : State) (k : Nat) (p : LinkPort) (n : Nat) : (s.tallyTfl k p n).fab = s.fab :=
  (tallyTfl_adds s k p n).same .fab (by decide)

theorem tallyTfl_zero (s : State) (k : Nat) (p : LinkPort) : s.tallyTfl k p 0 = s := if_pos (by simp)

/-- A lost port: what it held is gone but for whole packets received, and its next training makes a fresh link. -/
def Link.cut (l : Link) : Link :=
  { l with wentDown := true, lost := true, lossTimer := false, retraining := false, fresh := true, change := none, oldH := 0,
           tx := LinkTx.fresh, uncorrRun := 0,
           rx := { LinkRx.fresh with held := l.rx.held, vcs := tmap l.rx.vcs (fun _ x => x.dropPart) } }

/-- A port is lost with the packets that wait to leave by it. -/
def State.linkCut (s : State) (p : LinkPort) : State :=
  { s.setLink p (s.link p).cut with rtr := { s.rtr with txq := mset [] s.rtr.txq p.val [] } }

/-- Requests received are answered no more, and the answers of requests sent are late. -/
def State.answersGone (s : State) (received sent : List (LinkPort × Ep × Nat)) : State :=
  { s with rtr := { s.rtr with goneIn := s.rtr.goneIn ++ received, goneOut := s.rtr.goneOut ++ sent } }

/-- The other Phosha Link port takes over from the active one (R424). -/
def State.failover (s : State) (p : LinkPort) : State :=
  if p = plPort s.que.active ∧ s.que.failover ∧
      (s.link (plPort (otherPort s.que.active))).state = .active ∧ s.que.takeover.isNone then
    { s with que := { s.que with takeover := some (otherPort s.que.active, 0) } }
  else s

theorem linkCut_adds (s : State) (p : LinkPort) : Adds [.links, .rtr] s (s.linkCut p) :=
  ((setLink_adds ..).mono (by decide)).trans ((adds_rtr ..).mono (by decide))

theorem linkCut_link (s : State) (p : LinkPort) : (s.linkCut p).link p = (s.link p).cut := setLink_link_same ..

theorem linkCut_txq (s : State) (p : LinkPort) : mget [] (s.linkCut p).rtr.txq p.val = [] :=
  mget_mset_same [] s.rtr.txq p.val []

theorem answersGone_adds (s : State) (received sent : List (LinkPort × Ep × Nat)) : Adds [.rtr] s (s.answersGone received sent) := adds_rtr s _

theorem failover_adds (s : State) (p : LinkPort) : Adds [.que] s (s.failover p) := by
  unfold State.failover
  split
  · exact adds_que s _
  · exact Adds.rfl s

theorem withSends_of_none {f : Fab} (h : f.sends = []) (g : Nat → McSend → McSend) : { f with sends := tmap f.sends g } = f := by
  cases f
  cases h
  rfl

theorem settleSends_of_none {s : State} (h : s.fab.sends = []) : s.settleSends = s := by
  simp [State.settleSends, h]

/-- The multicast sends that leave by a port stop there (R180). -/
def State.sendsLose (s : State) (p : LinkPort) : State :=
  { s with fab := { s.fab with sends := tmap s.fab.sends (fun _ m =>
      if m.ports.contains p && !m.lost.contains p then { m with lost := m.lost ++ [p] } else m) } }

/-- The device's own requests that left by a port. -/
def State.requestsBy (s : State) (p : LinkPort) : SMap DevReq := s.rtr.reqs.filter (fun e => e.2.port == some p)

/-- After its port is cut off: the requests that left by it end with LINK_LOST, and so do the multicast sends there. -/
def State.requestsLost (s : State) (p : LinkPort) : State :=
  (((s.requestsBy p).foldl (fun st e => st.reqLost e.1 stLinkLost) s).tallyTfl 7 p (s.requestsBy p).length).sendsLose p

/-- The endpoints that a loss leaves unreachable are dead, and what is settled by that is settled. -/
def State.endpointsLost (s : State) (p : LinkPort) : State := ((s.cutOff p).foldl (fun st ep => st.declareDead ep) s).settleSends

/-- A loss in its steps (R371): what the port held, the requests and sends that left by it, the endpoints cut off, the report, the failover. -/
theorem settleLoss_steps (s : State) (p : LinkPort) : ∃ n received sent d0,
    s.settleLoss p = ((((((s.linkCut p).tallyTfl 9 p n).answersGone received sent).requestsLost p).endpointsLost p).raise
      (mkReport 0x04 0x05 1 (unitPort p) d0
        (((((s.linkCut p).tallyTfl 9 p n).answersGone received sent).requestsLost p).cutOff p).length)).failover p :=
  ⟨_, _, _, _, rfl⟩

/-! A loss with nothing to settle. -/

theorem requestsLost_of_none {s : State} (hreq : s.rtr.reqs = []) (hsend : s.fab.sends = []) (p : LinkPort) : s.requestsLost p = s := by
  have hnone : s.requestsBy p = [] := by simp [State.requestsBy, hreq]
  have hsends : s.sendsLose p = s := by simp only [State.sendsLose, withSends_of_none hsend]
  simp [State.requestsLost, hnone, tallyTfl_zero, hsends]

theorem cutOff_of_none {s : State} (h : s.rtr.routes = []) (p : LinkPort) : s.cutOff p = [] := by
  simp [State.cutOff, h]

theorem endpointsLost_of_none {s : State} (hroute : s.rtr.routes = []) (hsend : s.fab.sends = []) (p : LinkPort) : s.endpointsLost p = s := by
  simp [State.endpointsLost, cutOff_of_none hroute, settleSends_of_none hsend]

/-- With no request outstanding, no route and no multicast send, a loss ends no request and leaves no endpoint unreachable. -/
theorem settleLoss_of_unused {s : State} (hreq : s.rtr.reqs = []) (hroute : s.rtr.routes = []) (hsend : s.fab.sends = []) (p : LinkPort) :
    ∃ n received sent d0 d1, s.settleLoss p = ((((s.linkCut p).tallyTfl 9 p n).answersGone received sent).raise
      (mkReport 0x04 0x05 1 (unitPort p) d0 d1)).failover p := by
  obtain ⟨n, received, sent, d0, hsteps⟩ := settleLoss_steps s p
  generalize hu : ((s.linkCut p).tallyTfl 9 p n).answersGone received sent = u at hsteps
  have hreq' : u.rtr.reqs = [] := by rw [← hu]; exact (congrArg Rtr.reqs (tallyTfl_rtr ..)).trans hreq
  have hroute' : u.rtr.routes = [] := by rw [← hu]; exact (congrArg Rtr.routes (tallyTfl_rtr ..)).trans hroute
  have hsend' : u.fab.sends = [] := by rw [← hu]; exact (congrArg Fab.sends (tallyTfl_fab ..)).trans hsend
  rw [requestsLost_of_none hreq' hsend', endpointsLost_of_none hroute' hsend'] at hsteps
  exact ⟨n, received, sent, d0, _, hsteps.trans (by rw [hu])⟩

theorem settleLoss_spec {s : State} (hreq : s.rtr.reqs = []) (hroute : s.rtr.routes = []) (hsend : s.fab.sends = []) (p : LinkPort) :
    (s.settleLoss p).link p = (s.link p).cut ∧ mget [] (s.settleLoss p).rtr.txq p.val = [] ∧
    reported (s.settleLoss p) 0x04 0x05 1 (unitPort p) ∧ Adds [.links, .rtr, .ctr, .ras, .serial, .que] s (s.settleLoss p) := by
  obtain ⟨n, received, sent, d0, d1, heq⟩ := settleLoss_of_unused hreq hroute hsend p
  rw [heq]
  generalize hr : mkReport 0x04 0x05 1 (unitPort p) d0 d1 = r
  have htally := tallyTfl_adds (s.linkCut p) 9 p n
  have hgone := answersGone_adds ((s.linkCut p).tallyTfl 9 p n) received sent
  have hraise := raise_adds (((s.linkCut p).tallyTfl 9 p n).answersGone received sent) r
  have hover := failover_adds ((((s.linkCut p).tallyTfl 9 p n).answersGone received sent).raise r) p
  have hend : Adds [.rtr, .ctr, .ras, .serial, .que] (s.linkCut p) _ :=
    (((htally.mono (by decide)).trans (hgone.mono (by decide))).trans (hraise.mono (by decide))).trans (hover.mono (by decide))
  refine ⟨(hend.link (by decide) p).trans (linkCut_link s p), ?_, hover.reported (hr ▸ reported_raise ..),
    ((linkCut_adds s p).mono (by decide)).trans (hend.mono (by decide))⟩
  have hrtr : (((((s.linkCut p).tallyTfl 9 p n).answersGone received sent).raise r).failover p).rtr =
      (((s.linkCut p).tallyTfl 9 p n).answersGone received sent).rtr := (hover.same .rtr (by decide)).trans (hraise.same .rtr (by decide))
  rw [hrtr]
  exact (congrArg (fun x : Rtr => mget [] x.txq p.val) (tallyTfl_rtr ..)).trans (linkCut_txq s p)

/-! LINK_LOSS. -/

theorem linkLoss_of_running {s : State} {p : LinkPort} (h : (s.link p).lossTimer = true) :
    linkLoss p s = (s.settleLoss p).modLink p Link.toDetect := if_pos h

theorem linkLoss_of_stopped {s : State} {p : LinkPort} (h : (s.link p).lossTimer = false) : linkLoss p s = s := if_neg (by simp [h])

theorem live_linkLoss_unused {s : State} {p : LinkPort} (hl : s.live = true) (h : (s.link p).lossTimer = true) (hreq : s.rtr.reqs = [])
    (hroute : s.rtr.routes = []) (hsend : s.fab.sends = []) :
    ∃ t, exec (.linkLoss p) s = .next t ∧ t.link p = (s.link p).cut.toDetect ∧ mget [] t.rtr.txq p.val = [] ∧
      reported t 0x04 0x05 1 (unitPort p) ∧ Frame [.links, .rtr, .ctr, .ras, .serial, .que] s t := by
  obtain ⟨hlink, htxq, hrep, hadds⟩ := settleLoss_spec (s := s.quiet) hreq hroute hsend p
  have hmod := modLink_adds (s.quiet.settleLoss p) p Link.toDetect
  obtain ⟨hx, hF⟩ := live_next_frame (i := .linkLoss p) (ps := [.links, .rtr, .ctr, .ras, .serial, .que]) rfl hl
    (linkLoss_of_running (s := s.quiet) h) (hadds.trans (hmod.mono (by decide))).1 (by decide)
  exact ⟨_, hx, (modLink_link_same ..).trans (congrArg Link.toDetect hlink), htxq, hmod.reported hrep, hF⟩

end Sys2Proof.Machine

/-! PROOFS. Register writes that act on a port (R364, R366, R374): ENABLE, RETRAIN and WIDTH_MAX. -/

namespace Sys2Proof.Machine

/-- A register write of a live device does nothing by a path that does not reach the port, and what it means by one that does. -/
theorem live_byPath {c : Instr} {s : State} {via : RegPath} {p : LinkPort} {f : State → State}
    (hc : exec c s = .next (s.quiet.whenLive (fun st => if linkPath via p then f st else st))) (hl : s.live = true) :
    (linkPath via p = false → idles c s) ∧ (linkPath via p = true → exec c s = .next (s.quiet.whenLive f)) := by
  refine ⟨fun h => live_idles hc hl (if_neg (by simp [h])), fun h => ?_⟩
  simpa only [h, if_true] using hc

/-! ENABLE. -/

theorem setEnable_of_same (s : State) (p : LinkPort) : s.setEnable p (s.link p).enable = s := if_pos rfl

theorem setEnable_on {s : State} {p : LinkPort} (h : (s.link p).enable = false) :
    s.setEnable p true = s.setLink p { s.link p with enable := true, state := .detect, fresh := true } := by
  simp [State.setEnable, h]

/-- A port that is switched off. -/
def Link.off (l : Link) : Link := { l with enable := false, state := .disabled, lossTimer := false, retraining := false }

theorem setEnable_off_of_fresh {s : State} {p : LinkPort} (h : (s.link p).enable = true) (hf : (s.link p).fresh = true) :
    s.setEnable p false = s.modLink p Link.off := by
  simp only [State.setEnable, h, hf, Bool.false_eq_true, if_false, if_true]
  rfl

/-- A link that has been up is settled as lost. -/
theorem setEnable_off_of_linked {s : State} {p : LinkPort} (h : (s.link p).enable = true) (hf : (s.link p).fresh = false) :
    s.setEnable p false = (s.settleLoss p).modLink p Link.off := by
  simp only [State.setEnable, h, hf, Bool.false_eq_true, if_false]
  rfl

/-! WIDTH_MAX. -/

theorem askWidth_spec (s : State) (p : LinkPort) (w : BitVec 2) (lanes : BitVec 8) :
    ((s.askWidth p w lanes).link p).widthMax = (s.link p).widthMax ∧ Adds [.links] s (s.askWidth p w lanes) := by
  unfold State.askWidth
  dsimp only
  split
  · exact ⟨rfl, Adds.rfl s⟩
  · exact ⟨by rw [setLink_link_same], setLink_adds ..⟩

theorem setWidthMax_of_reserved {s : State} {p : LinkPort} (h : isPl p = false) : s.setWidthMax p 3#2 = s := if_pos (by simp [h])

theorem setWidthMax_spec (s : State) {p : LinkPort} {v : BitVec 2} (h : isPl p = true ∨ v ≠ 3#2) :
    ((s.setWidthMax p v).link p).widthMax = v ∧ Adds [.links] s (s.setWidthMax p v) := by
  have hset : ((s.modLink p (fun l => { l with widthMax := v })).link p).widthMax = v := congrArg Link.widthMax (modLink_link_same ..)
  have hadds := modLink_adds s p (fun l => { l with widthMax := v })
  unfold State.setWidthMax
  rw [if_neg (by rcases h with h | h <;> simp [h])]
  dsimp only
  split
  next w lanes _ =>
    obtain ⟨hmax, hask⟩ := askWidth_spec (s.modLink p (fun l => { l with widthMax := v })) p w lanes
    exact ⟨hmax.trans hset, hadds.trans hask⟩
  next => exact ⟨hset, hadds⟩

/-! The commands. -/

section
variable {via : RegPath} {p : LinkPort} {s : State} (hl : s.live = true) (hp : linkPath via p = true)
include hl hp

theorem live_linkEnable_on (h : (s.link p).enable = false) : ∃ t, exec (.linkEnableWrite via p true) s = .next t ∧
    t.link p = { s.link p with enable := true, state := .detect, fresh := true } ∧ Frame [.links] s t :=
  live_setLink ((live_byPath (c := .linkEnableWrite via p true) rfl hl).2 hp) hl (setEnable_on (s := s.quiet) h)

theorem live_linkEnable_off_of_fresh (h : (s.link p).enable = true) (hf : (s.link p).fresh = true) :
    ∃ t, exec (.linkEnableWrite via p false) s = .next t ∧ t.link p = (s.link p).off ∧ Frame [.links] s t :=
  live_setLink ((live_byPath (c := .linkEnableWrite via p false) rfl hl).2 hp) hl (setEnable_off_of_fresh (s := s.quiet) h hf)

theorem live_linkEnable_off_of_linked (h : (s.link p).enable = true) (hf : (s.link p).fresh = false) :
    exec (.linkEnableWrite via p false) s = .next (s.quiet.settle ((s.quiet.settleLoss p).modLink p Link.off)) :=
  live_next ((live_byPath (c := .linkEnableWrite via p false) rfl hl).2 hp) hl (setEnable_off_of_linked (s := s.quiet) h hf)

theorem live_linkEnable_same (v : Bool) : idles (.linkEnableWrite via p v) s ∨ v ≠ (s.link p).enable := by
  refine or_iff_not_imp_right.2 (fun hv => ?_)
  obtain rfl := not_not.1 hv
  exact live_idles ((live_byPath (c := .linkEnableWrite via p _) rfl hl).2 hp) hl (setEnable_of_same s.quiet p)

theorem live_widthMax {v : BitVec 2} (h : isPl p = true ∨ v ≠ 3#2) :
    ∃ t, exec (.widthMaxWrite via p v) s = .next t ∧ (t.link p).widthMax = v ∧ Frame [.links] s t := by
  obtain ⟨hmax, hadds⟩ := setWidthMax_spec s.quiet h
  obtain ⟨hx, hF⟩ := live_next_frame ((live_byPath (c := .widthMaxWrite via p v) rfl hl).2 hp) hl rfl hadds.1 (by decide)
  exact ⟨_, hx, hmax, hF⟩

theorem live_widthMax_reserved (h : isPl p = false) : idles (.widthMaxWrite via p 3#2) s :=
  live_idles ((live_byPath (c := .widthMaxWrite via p _) rfl hl).2 hp) hl (setWidthMax_of_reserved (s := s.quiet) h)

end

end Sys2Proof.Machine

/-! PROOFS. Training blocks (R338, R362): which block a lane has received, and the block a port sends back. -/

namespace Sys2Proof.Machine

/-! Polarity. -/

/-- The training marker is odd. -/
theorem isTraining_odd {b : Line} (h : isTraining b = true) : b.toNat % 2 = 1 := by
  simp only [isTraining, Bool.and_eq_true, beq_iff_eq] at h
  have hbit : (descField b 0 8).testBit 0 = trainMarker.testBit 0 := by rw [h.1]
  simpa [descField, trainMarker] using hbit

/-- A training block is none in the other polarity. -/
theorem isTraining_flip {b : Line} (h : isTraining b = true) : isTraining (b ^^^ trainFlip) = false := by
  refine Bool.eq_false_iff.2 (fun hflip => ?_)
  have hodd := isTraining_odd h
  have hflipped := isTraining_odd hflip
  rw [trainFlip, BitVec.xor_allOnes, BitVec.toNat_not] at hflipped
  omega

theorem flip_flip (b : Line) : b ^^^ trainFlip ^^^ trainFlip = b := by
  rw [BitVec.xor_assoc, BitVec.xor_self, BitVec.xor_zero]

/-! The block as a lane received it. -/

/-- What a block of a lane shows of the port: the lane's polarity as given, the order of its lanes, and whether the lane lags. -/
def Link.shown (l : Link) (k sent skew : Nat) (polarity : BitVec 8) : Link :=
  { l with polarity := polarity, reversed := decide (sent ≠ k % 4),
           skewed := if skew ≤ 64 then l.skewed &&& ~~~(1#8 <<< k) else l.skewed ||| (1#8 <<< k) }

theorem alignBlock_of_none {b : Line} (h : isTraining b = false) (hf : isTraining (b ^^^ trainFlip) = false) (l : Link) (pl : Bool)
    (k skew : Nat) : l.alignBlock pl k b skew = none := by
  simp [Link.alignBlock, h, hf]

section
variable {b : Line} {pl : Bool} {k : Nat} (h : isTraining b = true) (hk : pl = true ∨ k < 4)
  (hs : descField b 9 1 % 4 = k % 4 ∨ descField b 9 1 % 4 = 3 - k % 4) (l : Link) (skew : Nat)
include h hk hs

theorem not_misplaced : ¬ ((!isTraining b) = true ∨ (!pl) = true ∧ 3 < k ∨ descField b 9 1 % 4 ≠ k % 4 ∧ descField b 9 1 % 4 ≠ 3 - k % 4) := by
  rintro (hn | ⟨hpl, hlt⟩ | ⟨h1, h2⟩)
  · simp [h] at hn
  · rcases hk with hk | hk
    · simp [hk] at hpl
    · omega
  · exact hs.elim h1 h2

theorem alignBlock_of_upright :
    l.alignBlock pl k b skew = some (b, l.shown k (descField b 9 1 % 4) skew (l.polarity &&& ~~~(1#8 <<< k))) := by
  simp only [Link.alignBlock, if_pos h]
  exact if_neg (not_misplaced h hk hs)

theorem alignBlock_of_inverted :
    l.alignBlock pl k (b ^^^ trainFlip) skew = some (b, l.shown k (descField b 9 1 % 4) skew (l.polarity ||| (1#8 <<< k))) := by
  simp only [Link.alignBlock, isTraining_flip h, flip_flip, Bool.false_eq_true, if_false]
  exact if_neg (not_misplaced h hk hs)

end

/-! The block sent back. -/

theorem adds_serial (s : State) (n : Nat) : Adds [.serial] s { s with serial := n } :=
  adds_of_same rfl rfl (fun p => by cases p <;> simp [Part.same])

theorem sendTrain_adds (s : State) (p : LinkPort) (lane : Nat) (good : BitVec 8) (ping : Nat) :
    Adds [.serial] s (s.sendTrain p lane good ping) :=
  (adds_serial s _).trans (emit_adds ..)

theorem sendTrain_sends (s : State) (p : LinkPort) (lane : Nat) (good : BitVec 8) (ping : Nat) :
    ∃ x, .training p x ∈ (s.sendTrain p lane good ping).out := ⟨_, List.mem_append_right _ (List.mem_singleton.2 rfl)⟩

@[simp] theorem sendTrain_link (s : State) (p : LinkPort) (lane : Nat) (good : BitVec 8) (ping : Nat) (q : LinkPort) :
    (s.sendTrain p lane good ping).link q = s.link q := rfl

end Sys2Proof.Machine

/-! PROOFS. Training ends (R357, R363 to R365): the port in ACTIVE, as a fresh link or with its unacknowledged flits to be sent again. -/

namespace Sys2Proof.Machine

/-- Port x is the port l once its training with a peer has ended. -/
structure Link.Activated (l : Link) (ident : W64) (credits : BitVec 16) (x : Link) : Prop where
  active : x.state = .active
  settled : x.fresh = false ∧ x.lossTimer = false
  peer : x.peerId = ident
  wentDown : x.wentDown = l.wentDown
  ofFresh : l.fresh = true → x.epoch = 0#2 ∧ x.tx.replay = [] ∧ x.tx.nextSeq = 0#12 ∧ x.rx.expected = 0#12 ∧ x.tx.peerInit = credits
  ofKnown : l.fresh = false → x.epoch = l.epoch + 1#2 ∧ x.tx.resend = x.tx.replay.length ∧ x.rx.expected = l.rx.expected ∧
    x.tx.nextSeq = l.tx.nextSeq

@[simp] theorem ackBefore_nextSeq (t : LinkTx) (e : BitVec 12) : (t.ackBefore e).nextSeq = t.nextSeq := by
  unfold LinkTx.ackBefore
  dsimp only
  split <;> rfl

theorem linkActive_raises (s : State) (p : LinkPort) (ident : W64) (credits : BitVec 16) : ∃ x d0 d1,
    s.linkActive p ident credits = (s.setLink p x).raise (mkReport 0x04 0x02 0 (unitPort p) d0 d1) ∧
    (s.link p).Activated ident credits x := by
  refine ⟨_, _, _, rfl, ?_⟩
  cases hf : (s.link p).fresh with
  | true => exact ⟨rfl, ⟨rfl, rfl⟩, rfl, rfl, fun _ => ⟨rfl, rfl, rfl, rfl, rfl⟩, fun h => nomatch hf.symm.trans h⟩
  | false =>
    refine ⟨rfl, ⟨rfl, rfl⟩, rfl, rfl, fun h => (nomatch hf.symm.trans h), fun _ => ⟨rfl, rfl, rfl, ?_⟩⟩
    cases (s.link p).peerNextExpected with
    | none => rfl
    | some e => exact ackBefore_nextSeq ..

theorem linkActive_spec (s : State) (p : LinkPort) (ident : W64) (credits : BitVec 16) :
    (s.link p).Activated ident credits ((s.linkActive p ident credits).link p) ∧
    reported (s.linkActive p ident credits) 0x04 0x02 0 (unitPort p) ∧
    Adds [.links, .ctr, .ras, .serial] s (s.linkActive p ident credits) := by
  obtain ⟨x, d0, d1, heq, hx⟩ := linkActive_raises s p ident credits
  obtain ⟨hlink, hrep, hadds⟩ := setLink_raise_spec s p x 0x02 0 d0 d1 (unitPort p)
  rw [heq, hlink]
  exact ⟨hx, hrep, hadds⟩

end Sys2Proof.Machine

/-! PROOFS. Training blocks in PARAM (R354, R357, R363, R364): identities, headroom, and the settlement with the peer. -/

namespace Sys2Proof.Machine

/-- The sender's identity in a training block. -/
def blockIdent (b : Line) : W64 := b.extractLsb' 128 64

/-- The credits that a training block announces. -/
def blockCredits (b : Line) : BitVec 16 := BitVec.ofNat 16 (descField b 26 2)

/-- A round trip in ns as RTT_MEAS holds it. -/
def rttSeen (p : LinkPort) (rttNs : Nat) : BitVec 12 := BitVec.ofNat 12 (min rttNs (if isPl p then 4080 else 4095))

/-- A port that has measured its round trip to a peer: the settings of LINK_CTRL are in force, and it leads if its identity is the lower. -/
def Link.measured (l : Link) (p : LinkPort) (ident : W64) (rtt : BitVec 12) : Link :=
  { l with rttMeas := rtt, rttInForce := l.rttNs, channelInForce := l.channel, leader := decide ((portId p).toNat < ident.toNat) }

/-- The headroom that the round trip and the width ask for. -/
def Link.headroomAt (l : Link) (p : LinkPort) (rttNs : Nat) : Nat := headroom (max l.rttNs.toNat (rttSeen p rttNs).toNat) l.width

/-- Both ends have sent PARAM_DONE once this block has come. -/
def Link.peerDone (l : Link) (b : Line) : Bool := l.peerParamDone || b.getLsbD 116

theorem Link.peerDone_of_absent {l : Link} {b : Line} (hb : b.getLsbD 116 = false) (hp : l.peerParamDone = false) :
    l.peerDone b = false := by
  rw [Link.peerDone, hp, hb, Bool.or_false]

theorem Link.peerDone_of_present {l : Link} {b : Line} (hb : b.getLsbD 116 = true) : l.peerDone b = true := by
  rw [Link.peerDone, hb, Bool.or_true]

/-- A port that has taken a peer's block in PARAM and found it in order. -/
def Link.paramTaken (l : Link) (p : LinkPort) (b : Line) (rttNs : Nat) : Link :=
  { l.measured p (blockIdent b) (rttSeen p rttNs) with
    paramDone := true, peerParamDone := l.peerDone b,
    peerNextExpected := if (descField b 24 2).testBit 15 then some (BitVec.ofNat 12 (descField b 24 2)) else none }

/-- The block that answers block b. -/
def State.trainReply (s : State) (p : LinkPort) (b : Line) (mine : BitVec 8) : State :=
  s.sendTrain p (descField b 9 1) mine (descField b 28 4)

theorem trainReply_adds (s : State) (p : LinkPort) (b : Line) (mine : BitVec 8) : Adds [.serial] s (s.trainReply p b mine) :=
  sendTrain_adds ..

/-- The port with record l takes block b in PARAM, and answers it until both ends have sent PARAM_DONE. -/
def State.paramReplied (s : State) (p : LinkPort) (l : Link) (b : Line) (mine : BitVec 8) (rttNs : Nat) : State :=
  if l.paramDone && l.peerDone b then s.setLink p (l.paramTaken p b rttNs) else (s.setLink p (l.paramTaken p b rttNs)).trainReply p b mine

theorem paramReplied_adds (s : State) (p : LinkPort) (l : Link) (b : Line) (mine : BitVec 8) (rttNs : Nat) :
    Adds [.links, .serial] s (s.paramReplied p l b mine rttNs) := by
  have hset := (setLink_adds s p (l.paramTaken p b rttNs)).mono (qs := [.links, .serial]) (by decide)
  unfold State.paramReplied
  split
  · exact hset
  · exact hset.trans ((trainReply_adds ..).mono (by decide))

@[simp] theorem paramReplied_link (s : State) (p : LinkPort) (l : Link) (b : Line) (mine : BitVec 8) (rttNs : Nat) :
    (s.paramReplied p l b mine rttNs).link p = l.paramTaken p b rttNs := by
  unfold State.paramReplied
  split
  · exact setLink_link_same ..
  · exact ((trainReply_adds ..).link (by decide) p).trans (setLink_link_same ..)

section
variable {s : State} {p : LinkPort} {l : Link} (hlink : s.link p = l) {b : Line} (mine : BitVec 8) (rttNs : Nat)
include hlink

/-- The peer's identity is the port's own. -/
theorem paramBlock_of_own (h : blockIdent b = portId p) : s.paramBlock p b mine rttNs =
    (s.setLink p { l.toDetect with idConflict := true }).raise (mkReport 0x04 0x06 1 (unitPort p) (blockIdent b).toNat 0) := by
  subst hlink
  exact if_pos h

variable (h : blockIdent b ≠ portId p)
include h

/-- An allocation is below the headroom. -/
theorem paramBlock_of_short (hv : ∃ v, v < 4 ∧ allocOf l.vcAlloc v < l.headroomAt p rttNs + 32) : ∃ v, s.paramBlock p b mine rttNs =
    (s.setLink p { (l.measured p (blockIdent b) (rttSeen p rttNs)).toDetect with allocShort := true }).raise
      (mkReport 0x04 0x07 1 (unitPort p) v (l.headroomAt p rttNs)) := by
  obtain ⟨v, hlt, hshort⟩ := hv
  unfold blockIdent at h
  -- The search over the VCs is named by `split`: unfolded, it would be evaluated.
  simp only [State.paramBlock, hlink, h, if_false]
  split
  next w _ => exact ⟨w, rfl⟩
  next hnone => exact absurd (decide_eq_true hshort) (List.find?_eq_none.1 hnone v (List.mem_range.2 hlt))

variable (hroom : ∀ v, v < 4 → l.headroomAt p rttNs + 32 ≤ allocOf l.vcAlloc v)
include hroom

theorem paramBlock_of_room : s.paramBlock p b mine rttNs =
    if !l.peerDone b then s.paramReplied p l b mine rttNs
    else (if !l.fresh && blockIdent b != l.peerId then (s.paramReplied p l b mine rttNs).settleLoss p
      else s.paramReplied p l b mine rttNs).linkActive p (blockIdent b) (blockCredits b) := by
  unfold blockIdent at h
  simp only [State.paramBlock, hlink, h, if_false]
  split
  next v hv =>
    have hshort := List.find?_some hv
    exact absurd (of_decide_eq_true hshort) (Nat.not_lt.2 (hroom v (List.mem_range.1 (List.mem_of_find?_eq_some hv))))
  next => rfl

/-- The peer has not sent PARAM_DONE. -/
theorem paramBlock_of_waiting (hd : l.peerDone b = false) : s.paramBlock p b mine rttNs = s.paramReplied p l b mine rttNs := by
  rw [paramBlock_of_room hlink mine rttNs h hroom, hd]
  rfl

variable (hd : l.peerDone b = true)
include hd

/-- Both ends are done, and the link is fresh or the peer the one it was. -/
theorem paramBlock_of_done (hp : l.fresh = true ∨ blockIdent b = l.peerId) : s.paramBlock p b mine rttNs =
    (s.paramReplied p l b mine rttNs).linkActive p (blockIdent b) (blockCredits b) := by
  rw [paramBlock_of_room hlink mine rttNs h hroom, hd]
  exact congrArg (fun st : State => st.linkActive p (blockIdent b) (blockCredits b)) (if_neg (by rcases hp with hp | hp <;> simp [hp]))

/-- Both ends are done, and the peer is another one: the old link is settled as lost first. -/
theorem paramBlock_of_other (hf : l.fresh = false) (hp : blockIdent b ≠ l.peerId) : s.paramBlock p b mine rttNs =
    ((s.paramReplied p l b mine rttNs).settleLoss p).linkActive p (blockIdent b) (blockCredits b) := by
  rw [paramBlock_of_room hlink mine rttNs h hroom, hd]
  exact congrArg (fun st : State => st.linkActive p (blockIdent b) (blockCredits b)) (if_pos (by simp [hf, hp]))

end

end Sys2Proof.Machine

/-! PROOFS. TRAINING_BLOCK_RECEIVE (R361 to R365): what a block does in each state of training. -/

namespace Sys2Proof.Machine

/-- The lanes of a port that both ends receive well: this end's, and the peer's as GOOD_LANES has them. -/
def goodLanes (p : LinkPort) (b : Line) (mine : BitVec 8) : BitVec 8 :=
  mine &&& (if isPl p then BitVec.ofNat 8 (descField b 14 1 % 16) ||| (BitVec.ofNat 8 (descField b 14 1 % 16) <<< 4)
    else BitVec.ofNat 8 (descField b 14 1 % 16))

/-- The width and the lanes that a block's sender has taken. -/
def blockWidth (b : Line) : BitVec 2 := (BitVec.ofNat 8 (descField b 15 1)).extractLsb' 0 2
def blockLanes (b : Line) : BitVec 8 := lanesOfByte (blockWidth b) (BitVec.ofNat 8 (descField b 15 1))

section
variable {s : State} {p : LinkPort} {l : Link} (hlink : s.link p = l) {b : Line} {mine : BitVec 8} {rttNs : Nat}
include hlink

theorem trainStep_of_detect (h : l.state = .detect) :
    s.trainStep p b mine rttNs = (s.setLink p { l with state := .equalize }).trainReply p b mine := by
  simp only [State.trainStep, hlink, h]
  rfl

theorem trainStep_of_equalize (h : l.state = .equalize) (hm : mine ≠ 0#8) :
    s.trainStep p b mine rttNs = (s.setLink p { l with state := .lock, equalized := goodLanes p b mine }).trainReply p b mine := by
  simp only [State.trainStep, hlink, h, hm, if_false]
  rfl

/-- The leader chooses the width. -/
theorem trainStep_of_lock_leader (h : l.state = .lock) (hi : (portId p).toNat < (blockIdent b).toNat) {w : BitVec 2} {lanes : BitVec 8}
    (hw : chooseWidth (isPl p) (goodLanes p b mine) (l.wmax (isPl p)) = some (w, lanes)) :
    s.trainStep p b mine rttNs = (s.setLink p { l with state := .param, width := w, lanes := lanes }).trainReply p b mine := by
  unfold goodLanes at hw
  unfold blockIdent at hi
  simp only [State.trainStep, hlink, h, hi, if_true, hw]
  rfl

/-- The follower takes the leader's width. -/
theorem trainStep_of_lock_follower (h : l.state = .lock) (hi : (blockIdent b).toNat ≤ (portId p).toNat) (hs : 4 ≤ descField b 8 1) :
    s.trainStep p b mine rttNs =
      (s.setLink p { l with state := .param, width := blockWidth b, lanes := blockLanes b }).trainReply p b mine := by
  have hnot : ¬ (portId p).toNat < (b.extractLsb' 128 64).toNat := Nat.not_lt.2 hi
  simp only [State.trainStep, hlink, h, hnot, if_false, hs, if_true]
  rfl

theorem trainStep_of_param (h : l.state = .param) : s.trainStep p b mine rttNs = s.paramBlock p b mine rttNs := by
  simp only [State.trainStep, hlink, h]

theorem trainStep_of_active (h : l.state = .active) :
    s.trainStep p b mine rttNs = (s.startLinkRetrain p 6).trainReply p b mine := by
  simp only [State.trainStep, hlink, h]
  rfl

end

/-! The command. -/

theorem trainingBlockReceive_of_idle {s : State} {p : LinkPort} {k : Fin 8} {raw : Line} {skew : Nat}
    (h : s.portTrains p = false ∨ (s.link p).state = .disabled ∨ (s.link p).alignBlock (isPl p) k.val raw skew = none)
    (good : BitVec 8) (rttNs : Nat) : trainingBlockReceive p k raw skew good rttNs s = s := by
  unfold trainingBlockReceive
  split
  · rfl
  next hn =>
    have hnone : (s.link p).alignBlock (isPl p) k.val raw skew = none := by
      rcases h with h | h | h
      · exact absurd (.inl (by simp [h])) hn
      · exact absurd (.inr h) hn
      · exact h
    rw [hnone]

theorem trainingBlockReceive_of_aligned {s : State} {p : LinkPort} {k : Fin 8} {raw b : Line} {skew : Nat} {l : Link}
    (ht : s.portTrains p = true) (hd : (s.link p).state ≠ .disabled)
    (ha : (s.link p).alignBlock (isPl p) k.val raw skew = some (b, l)) (good : BitVec 8) (rttNs : Nat) :
    trainingBlockReceive p k raw skew good rttNs s =
      (s.setLink p l).trainStep p b (l.orderLanes (isPl p) (good &&& ~~~l.skewed)) rttNs := by
  have hnot : ¬ ((!s.portTrains p) = true ∨ (s.link p).state = .disabled) := by simp [ht, hd]
  unfold trainingBlockReceive
  rw [if_neg hnot, ha]

section
variable {c : Instr} {f : State → State} {s : State} {p : LinkPort} {l : Link} {b : Line} {mine : BitVec 8} {rttNs : Nat}
  (hl : s.live = true) (hc : exec c s = .next (s.quiet.whenLive f)) (hf : f s.quiet = (s.quiet.setLink p l).trainStep p b mine rttNs)
include hl hc hf

/-- A block's whole effect, where the step it makes does not touch the fatal flag. -/
theorem live_trained {u : State} {ps : List Part} (hu : (s.quiet.setLink p l).trainStep p b mine rttNs = u)
    (ha : Adds ps (s.quiet.setLink p l) u) (hp : Part.links ∈ ps) (hd : Part.dbg ∉ ps) : exec c s = .next u ∧ Frame ps s u :=
  live_next_frame hc hl (hf.trans hu) (((setLink_adds ..).mono (by simpa using hp)).trans ha).1 hd

/-- A block that changes the port's record alone is answered. -/
theorem live_trained_reply {x : Link}
    (hu : (s.quiet.setLink p l).trainStep p b mine rttNs = ((s.quiet.setLink p l).setLink p x).trainReply p b mine) :
    ∃ t y, exec c s = .next t ∧ t.link p = x ∧ .training p y ∈ t.out ∧ Frame [.links, .serial] s t := by
  have hreply := trainReply_adds ((s.quiet.setLink p l).setLink p x) p b mine
  obtain ⟨hx, hF⟩ := live_trained (ps := [.links, .serial]) hl hc hf hu
    (((setLink_adds ..).mono (by decide)).trans (hreply.mono (by decide))) (by decide) (by decide)
  obtain ⟨y, hy⟩ := sendTrain_sends ((s.quiet.setLink p l).setLink p x) p (descField b 9 1) mine (descField b 28 4)
  exact ⟨_, y, hx, (hreply.link (by decide) p).trans (setLink_link_same ..), hy, hF⟩

/-- A block in ACTIVE starts a retrain and is answered. -/
theorem live_trained_active (h : l.state = .active) : ∃ t, exec c s = .next t ∧ (t.link p).state = .lock ∧ (t.link p).retraining = true ∧
    reported t 0x04 0x01 0 (unitPort p) ∧ Frame [.links, .ctr, .ras, .serial] s t := by
  have hlink : (s.quiet.setLink p l).link p = l := setLink_link_same ..
  obtain ⟨hretrain, hrep, hadds⟩ := startLinkRetrain_spec (s := s.quiet.setLink p l) (p := p) (by rw [hlink]; exact h) 6
  have hreply := trainReply_adds ((s.quiet.setLink p l).startLinkRetrain p 6) p b mine
  obtain ⟨hx, hF⟩ := live_trained hl hc hf (trainStep_of_active hlink h) (hadds.trans (hreply.mono (by decide))) (by decide) (by decide)
  have hstate := (hreply.link (by decide) p).trans hretrain
  exact ⟨_, hx, congrArg Link.state hstate, congrArg Link.retraining hstate, hreply.reported hrep, hF⟩

/-! In PARAM. -/

section
variable (h : l.state = .param)
include h

theorem live_trained_own (hi : blockIdent b = portId p) : ∃ t, exec c s = .next t ∧ (t.link p).state = .detect ∧
    (t.link p).idConflict = true ∧ reported t 0x04 0x06 1 (unitPort p) ∧ Frame [.links, .ctr, .ras, .serial] s t := by
  have hlink : (s.quiet.setLink p l).link p = l := setLink_link_same ..
  obtain ⟨hrec, hrep, hadds⟩ := setLink_raise_spec (s.quiet.setLink p l) p { l.toDetect with idConflict := true } 0x06 1
    (blockIdent b).toNat 0 (unitPort p)
  obtain ⟨hx, hF⟩ := live_trained hl hc hf ((trainStep_of_param hlink h).trans (paramBlock_of_own hlink mine rttNs hi)) hadds
    (by decide) (by decide)
  exact ⟨_, hx, congrArg Link.state hrec, congrArg Link.idConflict hrec, hrep, hF⟩

variable (hi : blockIdent b ≠ portId p)
include hi

theorem live_trained_short (hv : ∃ v, v < 4 ∧ allocOf l.vcAlloc v < l.headroomAt p rttNs + 32) : ∃ t, exec c s = .next t ∧
    (t.link p).state = .detect ∧ (t.link p).allocShort = true ∧ reported t 0x04 0x07 1 (unitPort p) ∧
    Frame [.links, .ctr, .ras, .serial] s t := by
  have hlink : (s.quiet.setLink p l).link p = l := setLink_link_same ..
  obtain ⟨v, hshort⟩ := paramBlock_of_short hlink mine rttNs hi hv
  obtain ⟨hrec, hrep, hadds⟩ := setLink_raise_spec (s.quiet.setLink p l) p
    { (l.measured p (blockIdent b) (rttSeen p rttNs)).toDetect with allocShort := true } 0x07 1 v (l.headroomAt p rttNs) (unitPort p)
  obtain ⟨hx, hF⟩ := live_trained hl hc hf ((trainStep_of_param hlink h).trans hshort) hadds (by decide) (by decide)
  exact ⟨_, hx, congrArg Link.state hrec, congrArg Link.allocShort hrec, hrep, hF⟩

variable (hroom : ∀ v, v < 4 → l.headroomAt p rttNs + 32 ≤ allocOf l.vcAlloc v)
include hroom

theorem live_trained_waiting (hd : l.peerDone b = false) : ∃ t, exec c s = .next t ∧ (t.link p).state = .param ∧
    (t.link p).paramDone = true ∧ Frame [.links, .serial] s t := by
  have hlink : (s.quiet.setLink p l).link p = l := setLink_link_same ..
  have hrec := paramReplied_link (s.quiet.setLink p l) p l b mine rttNs
  obtain ⟨hx, hF⟩ := live_trained hl hc hf ((trainStep_of_param hlink h).trans (paramBlock_of_waiting hlink mine rttNs hi hroom hd))
    (paramReplied_adds ..) (by decide) (by decide)
  exact ⟨_, hx, (congrArg Link.state hrec).trans h, congrArg Link.paramDone hrec, hF⟩

variable (hd : l.peerDone b = true)
include hd

/-- The link goes on, or a fresh one begins. -/
theorem live_trained_done (hp : l.fresh = true ∨ blockIdent b = l.peerId) : ∃ t, exec c s = .next t ∧
    (l.paramTaken p b rttNs).Activated (blockIdent b) (blockCredits b) (t.link p) ∧ reported t 0x04 0x02 0 (unitPort p) ∧
    Frame [.links, .ctr, .ras, .serial] s t := by
  have hlink : (s.quiet.setLink p l).link p = l := setLink_link_same ..
  have hreplied := paramReplied_adds (s.quiet.setLink p l) p l b mine rttNs
  obtain ⟨hup, hrep, hadds⟩ := linkActive_spec ((s.quiet.setLink p l).paramReplied p l b mine rttNs) p (blockIdent b) (blockCredits b)
  rw [paramReplied_link] at hup
  obtain ⟨hx, hF⟩ := live_trained hl hc hf
    ((trainStep_of_param hlink h).trans (paramBlock_of_done hlink mine rttNs hi hroom hd hp)) ((hreplied.mono (by decide)).trans hadds)
    (by decide) (by decide)
  exact ⟨_, hx, hup, hrep, hF⟩

/-- With another peer the old link is settled as lost, and a fresh one begins. -/
theorem live_trained_other (hfr : l.fresh = false) (hp : blockIdent b ≠ l.peerId) (hreq : s.rtr.reqs = []) (hroute : s.rtr.routes = [])
    (hsend : s.fab.sends = []) : ∃ t, exec c s = .next t ∧
    (l.paramTaken p b rttNs).cut.Activated (blockIdent b) (blockCredits b) (t.link p) ∧ reported t 0x04 0x05 1 (unitPort p) ∧
    reported t 0x04 0x02 0 (unitPort p) ∧ Frame [.links, .rtr, .ctr, .ras, .serial, .que] s t := by
  have hlink : (s.quiet.setLink p l).link p = l := setLink_link_same ..
  have hreplied := paramReplied_adds (s.quiet.setLink p l) p l b mine rttNs
  have hrtr : ((s.quiet.setLink p l).paramReplied p l b mine rttNs).rtr = s.rtr := hreplied.same .rtr (by decide)
  have hfab : ((s.quiet.setLink p l).paramReplied p l b mine rttNs).fab = s.fab := hreplied.same .fab (by decide)
  obtain ⟨hcut, -, hlost, hsettled⟩ := settleLoss_spec (s := (s.quiet.setLink p l).paramReplied p l b mine rttNs) (by rw [hrtr, hreq])
    (by rw [hrtr, hroute]) (by rw [hfab, hsend]) p
  obtain ⟨hup, hrep, hadds⟩ := linkActive_spec (((s.quiet.setLink p l).paramReplied p l b mine rttNs).settleLoss p) p (blockIdent b)
    (blockCredits b)
  rw [hcut, paramReplied_link] at hup
  obtain ⟨hx, hF⟩ := live_trained hl hc hf
    ((trainStep_of_param hlink h).trans (paramBlock_of_other hlink mine rttNs hi hroom hd hfr hp))
    (((hreplied.mono (by decide)).trans hsettled).trans (hadds.mono (by decide))) (by decide) (by decide)
  exact ⟨_, hx, hup, hadds.reported hlost, hrep, hF⟩

end
end

end Sys2Proof.Machine

/-! PROOFS. Links train and change (R361 to R371): the commands together. -/

namespace Sys2Proof.Machine

/-- Settles O44: a block put right is `alignBlock_of_upright` or `alignBlock_of_inverted`, and what it does in each state is `live_trained_reply`,
one of the outcomes of PARAM, or a retrain; the timeouts, the width changes and the register writes are one write of the port's record each
(`live_setLink`), the retrains `live_retrains`, and a loss is settled as `settleLoss_spec` says. -/
theorem linksTrainAndChange : Obligations.LinksTrainAndChange := by
  unfold Obligations.LinksTrainAndChange
  refine ⟨fun l pl k b skew => ⟨fun h hk hs => ?_, fun h hf => alignBlock_of_none h hf l pl k.val skew⟩,
    fun p k raw skew good rtt s hl => ⟨fun h => ?_, fun b l ht hd ha => ?_⟩,
    fun p s hl => ?_, fun p w lanes s hl => ?_, fun p s hl ha => ?_, fun via p s hl => ⟨fun hp => ?_, fun hp => ?_⟩,
    fun p s hl => ⟨fun h => ?_, fun h => ?_, fun h hreq hroute hsend => ?_⟩⟩
  · exact ⟨alignBlock_of_upright h hk hs l skew, alignBlock_of_inverted h hk hs l skew⟩
  · exact live_idles (c := .trainingBlockReceive p ⟨k, raw, skew⟩ good rtt) rfl hl (trainingBlockReceive_of_idle (s := s.quiet) h good rtt)
  · have hlink : (s.quiet.setLink p l).link p = l := setLink_link_same ..
    have hstep := trainingBlockReceive_of_aligned (s := s.quiet) ht hd ha good rtt
    have hc : exec (.trainingBlockReceive p ⟨k, raw, skew⟩ good rtt) s =
      .next (s.quiet.whenLive (trainingBlockReceive p k raw skew good rtt)) := rfl
    refine ⟨fun h => ?_, fun h hm => ?_, fun h hi w lanes hw => ?_, fun h hi hs => ?_, fun h hi => live_trained_own hl hc hstep h hi,
      fun h hi hv => live_trained_short hl hc hstep h hi hv, fun h hi hroom => ⟨fun hb hpd => ?_, fun hb hfr => ?_, fun hb hfr hp => ?_,
      fun hb hfr hp hreq hroute hsend => ?_⟩, fun h => live_trained_active hl hc hstep h⟩
    · exact live_trained_reply hl hc hstep (trainStep_of_detect hlink h)
    · obtain ⟨t, -, hx, hrec, -, hF⟩ := live_trained_reply hl hc hstep (trainStep_of_equalize hlink h hm)
      exact ⟨t, hx, hrec, hF⟩
    · obtain ⟨t, -, hx, hrec, -, hF⟩ := live_trained_reply hl hc hstep (trainStep_of_lock_leader hlink h hi hw)
      exact ⟨t, hx, hrec, hF⟩
    · obtain ⟨t, -, hx, hrec, -, hF⟩ := live_trained_reply hl hc hstep (trainStep_of_lock_follower hlink h hi hs)
      exact ⟨t, hx, hrec, hF⟩
    · exact live_trained_waiting hl hc hstep h hi hroom (Link.peerDone_of_absent hb hpd)
    · obtain ⟨t, hx, hup, hrep, hF⟩ := live_trained_done hl hc hstep h hi hroom (Link.peerDone_of_present hb) (.inl hfr)
      obtain ⟨hepoch, hreplay, hseq, hexp, hinit⟩ := hup.ofFresh hfr
      exact ⟨t, hx, hup.active, hepoch, hup.peer, hreplay, hseq, hexp, hup.settled.1, hinit, hrep, hF⟩
    · obtain ⟨t, hx, hup, -, hF⟩ := live_trained_done hl hc hstep h hi hroom (Link.peerDone_of_present hb) (.inr hp)
      obtain ⟨hepoch, hresend, hexp, hseq⟩ := hup.ofKnown hfr
      exact ⟨t, hx, hup.active, hepoch, hresend, hexp, hseq, hup.settled.2, hF⟩
    · obtain ⟨t, hx, hup, hlost, hrep, hF⟩ := live_trained_other hl hc hstep h hi hroom (Link.peerDone_of_present hb) hfr hp hreq hroute hsend
      obtain ⟨hepoch, hreplay, -⟩ := hup.ofFresh rfl
      exact ⟨t, hx, hup.active, hepoch, hup.peer, hreplay, hup.wentDown, hlost, hrep, hF⟩
  · obtain ⟨he, he'⟩ := live_trainTimeout (c := .equalizeTimeout p) rfl hl
    obtain ⟨hk, hk'⟩ := live_trainTimeout (c := .lockTimeout p) rfl hl
    obtain ⟨hm, hm'⟩ := live_trainTimeout (c := .paramTimeout p) rfl hl
    exact ⟨he, he', hk, hk', hm, hm'⟩
  · refine ⟨live_widthReq_idles hl w lanes, fun h hn => ⟨live_widthReq_taken hl w lanes h hn, live_widthReq_refused hl w lanes h hn⟩,
      fun k hk hm ha => ⟨fun hw hlanes => ?_, fun h => ?_⟩, fun h => ?_⟩
    · exact live_setLink (c := .widthAck p w lanes) rfl hl (takeWidthAck_of_same (s := s.quiet) hk hm ha hw hlanes)
    · exact live_setLink (c := .widthAck p w lanes) rfl hl (takeWidthAck_of_other (s := s.quiet) hk hm ha h)
    · exact live_idles (c := .widthAck p w lanes) rfl hl (takeWidthAck_of_unasked (s := s.quiet) h w lanes)
  · refine ⟨fun cause => live_retrains (c := .retrainReq p cause) rfl hl ha rfl, live_retrains (c := .codewordLockLost p) rfl hl ha rfl,
      fun h => ?_, fun h => ?_, fun via hp => ?_⟩
    · exact live_retrains (c := .widthChangeTimeout p) rfl hl ha (widthChangeTimeout_of_change (s := s.quiet) h)
    · exact live_idles (c := .widthChangeTimeout p) rfl hl (widthChangeTimeout_of_none (s := s.quiet) h)
    · exact live_retrains ((live_byPath (c := .linkRetrainWrite via p) rfl hl).2 hp) hl ha rfl
  · exact ⟨(live_byPath (c := .linkRetrainWrite via p) rfl hl).1 hp, fun v => (live_byPath (c := .linkEnableWrite via p v) rfl hl).1 hp,
      fun v => (live_byPath (c := .widthMaxWrite via p v) rfl hl).1 hp⟩
  · refine ⟨live_linkEnable_on hl hp, fun h hf => ?_, fun h hf => ⟨_, live_linkEnable_off_of_linked hl hp h hf, rfl⟩,
      live_linkEnable_same hl hp, fun v => live_widthMax hl hp, live_widthMax_reserved hl hp⟩
    obtain ⟨t, hx, hrec, hF⟩ := live_linkEnable_off_of_fresh hl hp h hf
    exact ⟨t, hx, congrArg Link.enable hrec, congrArg Link.state hrec, hF⟩
  · exact live_idles (c := .linkLoss p) rfl hl (linkLoss_of_stopped (s := s.quiet) h)
  · exact ⟨_, live_next (i := .linkLoss p) rfl hl (linkLoss_of_running (s := s.quiet) h), rfl⟩
  · obtain ⟨t, hx, hrec, htxq, hrep, hF⟩ := live_linkLoss_unused hl h hreq hroute hsend
    exact ⟨t, hx, congrArg Link.state hrec, congrArg Link.lost hrec, congrArg Link.wentDown hrec, congrArg Link.fresh hrec,
      congrArg Link.lossTimer hrec, congrArg Link.tx hrec, htxq, hrep, hF⟩

end Sys2Proof.Machine

/-! PROOFS. The router's tables (R391 to R416): what a live device's commands write, stage and put into force. -/

namespace Sys2Proof.Machine

/-! A live device's change of the router's records. -/

theorem live_rtrReply {i : Instr} {s : State} {f : State → State} {x : Rtr} {code : BitVec 8} {result : Nat} {bytes : List Byte}
    (hi : exec i s = .next (s.quiet.whenLive f)) (hl : s.live = true)
    (hf : f s.quiet = { s.quiet with rtr := x }.reply code result bytes) :
    ∃ t, exec i s = .next t ∧ answered t code result bytes ∧ t.rtr = x ∧ Frame [.rtr, .sec] s t := by
  have hreply := reply_adds { s.quiet with rtr := x } code result bytes
  obtain ⟨hx, hF⟩ := live_next_frame (ps := [.rtr, .sec]) hi hl hf
    (((adds_rtr s.quiet x).mono (by decide)).trans (hreply.mono (by decide))).1 (by decide)
  exact ⟨_, hx, reply_answered .., hreply.same .rtr (by decide), hF⟩

theorem live_rtr {i : Instr} {s : State} {f : State → State} {x : Rtr} (hi : exec i s = .next (s.quiet.whenLive f)) (hl : s.live = true)
    (hf : f s.quiet = { s.quiet with rtr := x }) : ∃ t, exec i s = .next t ∧ t.rtr = x ∧ Frame [.rtr] s t := by
  obtain ⟨hx, hF⟩ := live_next_frame hi hl hf (adds_rtr s.quiet x).1 (by decide)
  exact ⟨_, hx, rfl, hF⟩

/-- The audit unit's ledger sees the change. -/
theorem live_rtrLedger {i : Instr} {s : State} {f : State → State} {x : Rtr} {n : Nat} {d : Int}
    (hi : exec i s = .next (s.quiet.whenLive f)) (hl : s.live = true) (hf : f s.quiet = { s.quiet with rtr := x }.ledger n d) :
    ∃ t, exec i s = .next t ∧ t.rtr = x ∧ Frame [.rtr, .audit] s t := by
  obtain ⟨hx, hF⟩ := live_next_frame (ps := [.rtr, .audit]) hi hl hf
    (((adds_rtr s.quiet x).1.mono (by decide)).trans ((ledger_frame ..).mono (by decide))) (by decide)
  exact ⟨_, hx, rfl, hF⟩

/-! The route table. -/

/-- A list of values written to a map from key n on, as RTR_ROUTE_WRITE writes them. -/
def putEntries {α : Type} [DecidableEq α] (d : α) (m : SMap α) (n : Nat) (l : List α) : SMap α :=
  ((List.range l.length).zip l).foldl (fun m e => mset d m (n + e.1) e.2) m

theorem putEntries_cons {α : Type} [DecidableEq α] (d : α) (m : SMap α) (n : Nat) (v : α) (l : List α) :
    putEntries d m n (v :: l) = putEntries d (mset d m n v) (n + 1) l := by
  unfold putEntries
  rw [List.length_cons, List.range_succ_eq_map, List.zip_cons_cons, List.foldl_cons, List.zip_map_left, List.foldl_map]
  simp [Nat.add_assoc, Nat.add_comm 1]

theorem mget_putEntries {α : Type} [DecidableEq α] (d : α) {m : SMap α} (hm : keysRise m = true) (n : Nat) (l : List α) (i : Nat) :
    mget d (putEntries d m n l) i = if n ≤ i ∧ i < n + l.length then l.getD (i - n) d else mget d m i := by
  induction l generalizing m n with
  | nil =>
    rw [if_neg (by simp)]
    rfl
  | cons v l ih =>
    rw [putEntries_cons, ih (keysRise_mset d hm n v)]
    by_cases hi : i = n
    · subst hi
      simp
    · have hlen : (v :: l).length = l.length + 1 := rfl
      rw [mget_mset_other d hm v hi, hlen]
      by_cases hin : n ≤ i ∧ i < n + (l.length + 1)
      · obtain ⟨j, rfl⟩ : ∃ j, i = n + 1 + j := ⟨i - (n + 1), by omega⟩
        rw [if_pos (by omega), if_pos hin, show n + 1 + j - (n + 1) = j by omega, show n + 1 + j - n = j + 1 by omega]
        rfl
      · rw [if_neg (by omega), if_neg hin]

theorem route_of_rtr {s t : State} (h : t.rtr = s.rtr) (copy : Bool) (ep : Ep) : t.route copy ep = s.route copy ep := by
  unfold State.route
  rw [h]

/-- Where a copy of the route table begins. -/
def routeBase (copy : Bool) : Nat := if copy then 16384 else 0

theorem routeIx_eq (copy : Bool) (ep : Ep) : routeIx copy ep = routeBase copy + ep.toNat := rfl

/-- Entries written to the route table from place n on; an entry written is no longer uncorrectable. -/
def Rtr.putRoutes (r : Rtr) (n : Nat) (es : List W32) : Rtr :=
  { r with routes := putEntries 0#32 r.routes n es,
           routeUe := r.routeUe.filter (fun i => !(decide (n ≤ i) && decide (i < n + es.length))) }

theorem route_putRoutes {s : State} (hk : keysRise s.rtr.routes = true) (n : Nat) (es : List W32) (copy : Bool) (ep : Ep) :
    { s with rtr := s.rtr.putRoutes n es }.route copy ep =
      if n ≤ routeIx copy ep ∧ routeIx copy ep < n + es.length then es.getD (routeIx copy ep - n) 0#32 else s.route copy ep := by
  simp only [State.route, Rtr.putRoutes, mget_putEntries 0#32 hk, List.contains_eq_mem, List.mem_filter]
  by_cases hin : n ≤ routeIx copy ep ∧ routeIx copy ep < n + es.length
  · simp [hin]
  · have hout : routeIx copy ep < n ∨ n + es.length ≤ routeIx copy ep := by omega
    simp [hin, hout]

/-- What RTR_ROUTE_WRITE refuses as arguments. -/
def BadRoutes (first : BitVec 16) (es : List W32) : Prop :=
  es = [] ∨ 1024 < es.length ∨ 16384 < first.toNat + es.length ∨ ∃ e, e ∈ es ∧ e.extractLsb' 27 5 ≠ 0#5

section
variable {first : BitVec 16} {es : List W32} {s : State}

theorem badRoutes_iff : es.isEmpty = true ∨ 1024 < es.length ∨ 16384 < first.toNat + es.length ∨
    es.any (fun e => e.extractLsb' 27 5 != 0#5) = true ↔ BadRoutes first es := by
  simp only [BadRoutes, List.isEmpty_iff, List.any_eq_true, bne_iff_ne]

theorem rtrRouteWrite_of_draining (h : s.rtr.drain.isSome = true) : rtrRouteWrite first es s = s.reply 0x20#8 3 [] := if_pos h

theorem rtrRouteWrite_of_bad (hd : s.rtr.drain = none) (h : BadRoutes first es) : rtrRouteWrite first es s = s.reply 0x20#8 7 [] :=
  (if_neg (by simp [hd])).trans (if_pos (badRoutes_iff.2 h))

theorem rtrRouteWrite_of_good (hd : s.rtr.drain = none) (h : ¬ BadRoutes first es) : rtrRouteWrite first es s =
    { s with rtr := s.rtr.putRoutes (routeBase (!s.rtr.activeGen) + first.toNat) es }.reply 0x20#8 0 [] := by
  refine (if_neg (by simp [hd])).trans ((if_neg (fun hb => h (badRoutes_iff.1 hb))).trans ?_)
  cases s.rtr.activeGen <;> rfl

/-- The active copy stays, and the inactive one holds the entries written. -/
theorem route_of_written (hk : keysRise s.rtr.routes = true) (h : ¬ BadRoutes first es) {t : State}
    (ht : t.rtr = s.rtr.putRoutes (routeBase (!s.rtr.activeGen) + first.toNat) es) (ep : Ep) :
    t.route s.rtr.activeGen ep = s.route s.rtr.activeGen ep ∧
    t.route (!s.rtr.activeGen) ep = if first.toNat ≤ ep.toNat ∧ ep.toNat < first.toNat + es.length
      then es.getD (ep.toNat - first.toNat) 0#32 else s.route (!s.rtr.activeGen) ep := by
  have hroom : first.toNat + es.length ≤ 16384 := not_lt.1 (fun hlt => h (.inr (.inr (.inl hlt))))
  have hep : ep.toNat < 16384 := ep.isLt
  simp only [route_of_rtr (s := { s with rtr := s.rtr.putRoutes _ es }) ht, route_putRoutes hk, routeIx_eq]
  refine ⟨if_neg ?_, ?_⟩
  · cases s.rtr.activeGen <;> simp only [routeBase] <;> simp <;> omega
  · rw [show routeBase (!s.rtr.activeGen) + ep.toNat - (routeBase (!s.rtr.activeGen) + first.toNat) = ep.toNat - first.toNat by omega]
    exact if_congr (by omega) rfl rfl

end

theorem live_routeWrite {first : BitVec 16} {es : List W32} {s : State} (hl : s.live = true) (hd : s.rtr.drain = none)
    (h : ¬ BadRoutes first es) (hk : keysRise s.rtr.routes = true) : ∃ t, exec (.rtrRouteWrite first es) s = .next t ∧ answered t 0x20#8 0 [] ∧
      (∀ ep : Ep, t.route s.rtr.activeGen ep = s.route s.rtr.activeGen ep) ∧
      (∀ ep : Ep, t.route (!s.rtr.activeGen) ep = if first.toNat ≤ ep.toNat ∧ ep.toNat < first.toNat + es.length
        then es.getD (ep.toNat - first.toNat) 0#32 else s.route (!s.rtr.activeGen) ep) ∧ Frame [.rtr, .sec] s t := by
  obtain ⟨t, hx, ha, ht, hF⟩ := live_rtrReply (i := .rtrRouteWrite first es) rfl hl (rtrRouteWrite_of_good (s := s.quiet) hd h)
  exact ⟨t, hx, ha, fun ep => (route_of_written hk h ht ep).1, fun ep => (route_of_written hk h ht ep).2, hF⟩

/-! The switch of the copies and the drain window. -/

section
variable {s : State}

theorem rtrRouteSwitch_of_busy (h : s.rtr.switch.isSome = true ∨ s.rtr.drain.isSome = true) : rtrRouteSwitch s = s.reply 0x21#8 3 [] :=
  if_pos h

theorem rtrRouteSwitch_of_free (hs : s.rtr.switch = none) (hd : s.rtr.drain = none) :
    rtrRouteSwitch s = { s with rtr := { s.rtr with switch := some 0 } }.reply 0x21#8 0 [] := if_neg (by simp [hs, hd])

theorem routeSwitchApply_of_not_due (h : s.rtr.switch = none ∨ s.rtr.switch = some 0) : routeSwitchApply s = s := by
  rcases h with h | h <;> simp [routeSwitchApply, h]

theorem routeSwitchApply_of_due {n : Nat} (h : s.rtr.switch = some (n + 1)) : routeSwitchApply s =
    { s with rtr := { s.rtr with activeGen := !s.rtr.activeGen, drain := some 2, switch := none } } := by simp [routeSwitchApply, h]

theorem routeDrainClose_of_over (h : s.rtr.drain = some 0) : routeDrainClose s = { s with rtr := { s.rtr with drain := none } } := if_pos h

theorem routeDrainClose_of_other (h : s.rtr.drain ≠ some 0) : routeDrainClose s = s := if_neg h

end

/-! The multicast table. -/

section
variable {s : State}

theorem rtrMcastWrite_of_bad {g : BitVec 16} {e : BitVec 48} (h : 4096 ≤ g.toNat ∨ e.extractLsb' 45 3 ≠ 0#3) :
    rtrMcastWrite g e s = s.reply 0x22#8 7 [] := if_pos h

theorem rtrMcastWrite_of_good {g : BitVec 16} {e : BitVec 48} (hg : g.toNat < 4096) (he : e.extractLsb' 45 3 = 0#3) :
    rtrMcastWrite g e s = { s with rtr := { s.rtr with mcastNext := tput s.rtr.mcastNext g.toNat ⟨e, 0⟩ } }.reply 0x22#8 0 [] :=
  if_neg (by simp [hg, he])

theorem mcastWriteApply_of_none {g : Nat} (h : tget s.rtr.mcastNext g = none) : mcastWriteApply g s = s := by simp [mcastWriteApply, h]

theorem mcastWriteApply_of_new {g : Nat} {e : BitVec 48} (h : tget s.rtr.mcastNext g = some ⟨e, 0⟩) : mcastWriteApply g s = s := by
  simp [mcastWriteApply, h]

theorem mcastWriteApply_of_aged {g n : Nat} {e : BitVec 48} (h : tget s.rtr.mcastNext g = some ⟨e, n + 1⟩) : mcastWriteApply g s =
    { s with rtr := { s.rtr with mcast := mset 0#48 s.rtr.mcast g e, mcastNext := tdel s.rtr.mcastNext g } } := by
  simp [mcastWriteApply, h]

end

/-! Policers. -/

section
variable {a : Tenant} {c : BitVec 2} {e : BitVec 128} {s : State}

theorem rtrPolicerWrite_of_bad (h : polPir e < polCir e ∨ polPbs e < polCbs e ∨ polCbs e < 4144 ∨ e.extractLsb' 102 26 ≠ 0#26) :
    rtrPolicerWrite a c e s = s.reply 0x23#8 7 [] := if_pos h

theorem rtrPolicerWrite_of_good (hr : polCir e ≤ polPir e) (hb : polCbs e ≤ polPbs e) (hc : 4144 ≤ polCbs e)
    (hz : e.extractLsb' 102 26 = 0#26) : rtrPolicerWrite a c e s =
      { s with rtr := { s.rtr with policersNext := tput s.rtr.policersNext (policerKey a c) ⟨e, 0⟩ } }.reply 0x23#8 0 [] :=
  if_neg (by simp [hr, hb, hc, hz])

theorem policerWriteApply_of_not_due
    (h : tget s.rtr.policersNext (policerKey a c) = none ∨ tget s.rtr.policersNext (policerKey a c) = some ⟨e, 0⟩) :
    policerWriteApply a c s = s := by
  rcases h with h | h <;> simp [policerWriteApply, h]

theorem policerWriteApply_of_aged {n : Nat} (h : tget s.rtr.policersNext (policerKey a c) = some ⟨e, n + 1⟩) : ∃ d,
    policerWriteApply a c s = { s with rtr := { s.rtr with
      policers := mset Policer.reset s.rtr.policers (policerKey a c) ⟨e, polCbs e, polPbs e⟩,
      policersNext := tdel s.rtr.policersNext (policerKey a c) } }.ledger 6 d :=
  ⟨_, by simp only [policerWriteApply, h]; rfl⟩

end

/-! Shapers. -/

/-- What RTR_SHAPER_WRITE refuses as arguments. -/
def BadShaper (k : BitVec 16) (e : BitVec 128) : Prop :=
  8192 ≤ k.toNat ∨ shaperBurst ⟨e, 0⟩ < 4144 ∨ shaperRate ⟨e, 0⟩ = 0 ∨ (32 < shaperPort ⟨e, 0⟩ ∧ shaperPort ⟨e, 0⟩ ≠ 63) ∨
    e.extractLsb' 66 2 = 3#2 ∨ e.extractLsb' 69 59 ≠ 0#59

/-- Another shaper, in force or staged, has the binding of an entry. -/
def State.BindingTaken (s : State) (k : BitVec 16) (e : BitVec 128) : Prop :=
  s.rtr.shapers.any (fun y => y.1 != k.toNat && shaperValid y.2 && sameBinding y.2.entry e) = true ∨
    s.rtr.shapersNext.any (fun y => y.1 != k.toNat && y.2.entry.getLsbD 68 && sameBinding y.2.entry e) = true

/-- The tokens with which a new entry of a shaper that held some tokens starts, by its mode (R412). -/
def shaperStart (e : BitVec 128) (old us : Nat) : Nat :=
  if (e.extractLsb' 66 2).toNat = 0 then shaperCap ⟨e, 0⟩ us
  else min ((if (e.extractLsb' 66 2).toNat = 1 then 0 else min old (shaperCap ⟨e, 0⟩ us)) + shaperRate ⟨e, 0⟩ * us) (shaperCap ⟨e, 0⟩ us)

section
variable {e : BitVec 128} {s : State}

theorem rtrShaperWrite_of_bad {k : BitVec 16} (h : BadShaper k e) : rtrShaperWrite k e s = s.reply 0x24#8 7 [] := if_pos h

theorem rtrShaperWrite_of_taken {k : BitVec 16} (h : ¬ BadShaper k e) (ht : s.BindingTaken k e) :
    rtrShaperWrite k e s = s.reply 0x24#8 2 [] := (if_neg h).trans (if_pos ht)

theorem rtrShaperWrite_of_good {k : BitVec 16} (h : ¬ BadShaper k e) (ht : ¬ s.BindingTaken k e) : rtrShaperWrite k e s =
    { s with rtr := { s.rtr with shapersNext := tput s.rtr.shapersNext k.toNat ⟨e, 0⟩ } }.reply 0x24#8 0 [] :=
  (if_neg h).trans (if_neg ht)

theorem shaperStart_of_full (h : e.extractLsb' 66 2 = 0#2) (old us : Nat) : shaperStart e old us = shaperCap ⟨e, 0⟩ us := by
  simp [shaperStart, h]

theorem shaperStart_of_refill (h : e.extractLsb' 66 2 = 1#2) (old us : Nat) :
    shaperStart e old us = min (shaperRate ⟨e, 0⟩ * us) (shaperCap ⟨e, 0⟩ us) := by simp [shaperStart, h]

theorem shaperStart_of_kept (h : e.extractLsb' 66 2 = 2#2) (old us : Nat) :
    shaperStart e old us = min (min old (shaperCap ⟨e, 0⟩ us) + shaperRate ⟨e, 0⟩ * us) (shaperCap ⟨e, 0⟩ us) := by simp [shaperStart, h]

theorem shaperWriteApply_of_none {k : Nat} (h : tget s.rtr.shapersNext k = none) : shaperWriteApply k s = s := by
  simp [shaperWriteApply, h]

theorem shaperWriteApply_of_new {k : Nat} (h : tget s.rtr.shapersNext k = some ⟨e, 0⟩) : shaperWriteApply k s = s := by
  simp [shaperWriteApply, h]

theorem shaperWriteApply_of_aged {k n : Nat} (h : tget s.rtr.shapersNext k = some ⟨e, n + 1⟩) : ∃ d,
    shaperWriteApply k s = { s with rtr := { s.rtr with
      shapers := mset Shaper.reset s.rtr.shapers k ⟨e, shaperStart e (mget Shaper.reset s.rtr.shapers k).tokens s.periodUs⟩,
      shapersNext := tdel s.rtr.shapersNext k } }.ledger 5 d := by
  refine ⟨(shaperStart e (mget Shaper.reset s.rtr.shapers k).tokens s.periodUs : Int) - (mget Shaper.reset s.rtr.shapers k).tokens, ?_⟩
  simp only [shaperWriteApply, h]
  by_cases h0 : (e.extractLsb' 66 2).toNat = 0
  · simp only [h0, if_true, shaperStart]; rfl
  · by_cases h1 : (e.extractLsb' 66 2).toNat = 1
    · simp only [h1, if_true, shaperStart]; rfl
    · simp only [h0, h1, if_false, shaperStart]; rfl

end

/-! RTR_TABLE_READ. -/

/-- How many entries a table has. -/
def tableSize : RtrTable → Nat
  | .route0 => 16384
  | .route1 => 16384
  | .mcast => 4096
  | .policer => 4096
  | .shaper => 8192

/-- The bytes of entry k of a table. -/
def Rtr.tableEntry (r : Rtr) (k : Nat) : RtrTable → List Byte
  | .route0 => bytesOf (mget 0#32 r.routes k) 4
  | .route1 => bytesOf (mget 0#32 r.routes (16384 + k)) 4
  | .mcast => bytesOf (mget 0#48 r.mcast k) 6
  | .policer => bytesOf (mget Policer.reset r.policers k).entry 16
  | .shaper => bytesOf (mget Shaper.reset r.shapers k).entry 16

section
variable {tb : RtrTable} {i n : BitVec 16} {s : State}

theorem rtrTableRead_of_bad (h : n = 0#16 ∨ 1024 < n.toNat ∨ tableSize tb < i.toNat + n.toNat) :
    rtrTableRead tb i n s = s.reply 0x25#8 7 [] := by
  have hbad : n.toNat = 0 ∨ 1024 < n.toNat ∨ tableSize tb < i.toNat + n.toNat := h.imp_left (congrArg BitVec.toNat)
  cases tb <;> exact if_pos hbad

theorem rtrTableRead_of_good (h0 : n ≠ 0#16) (h : n.toNat ≤ 1024) (hi : i.toNat + n.toNat ≤ tableSize tb) :
    rtrTableRead tb i n s = s.reply 0x25#8 0 ((List.range n.toNat).flatMap (fun k => s.rtr.tableEntry (i.toNat + k) tb)) := by
  have hn : n.toNat ≠ 0 := fun hz => h0 (BitVec.eq_of_toNat_eq hz)
  have hok : ¬ (n.toNat = 0 ∨ 1024 < n.toNat ∨ tableSize tb < i.toNat + n.toNat) := by omega
  cases tb
  case route1 => exact (if_neg hok).trans (by simp only [Rtr.tableEntry, Nat.add_assoc])
  all_goals exact if_neg hok

theorem live_tableRead (hl : s.live = true) (h0 : n ≠ 0#16) (h : n.toNat ≤ 1024) (tb : RtrTable) (hi : i.toNat + n.toNat ≤ tableSize tb) :
    ∃ t, exec (.rtrTableRead tb i n) s = .next t ∧
      answered t 0x25#8 0 ((List.range n.toNat).flatMap (fun k => s.rtr.tableEntry (i.toNat + k) tb)) ∧ Frame [.sec] s t :=
  live_reply (i := .rtrTableRead tb i n) rfl hl (rtrTableRead_of_good (s := s.quiet) h0 h hi)

end

end Sys2Proof.Machine

/-! PROOFS. Router tables are written (R391 to R416): the commands together. -/

namespace Sys2Proof.Machine

/-- Settles O47: each command is one of the equations above, its effect on a live device a change of the router's records with an answer
(`live_rtrReply`), without one (`live_rtr`), or with the ledger (`live_rtrLedger`); what the records then read as is what was put in. -/
theorem routerTablesAreWritten : Obligations.RouterTablesAreWritten := by
  unfold Obligations.RouterTablesAreWritten
  refine ⟨fun first es s hl => ⟨fun h => ?_, fun hd h => ?_, fun hd h hk => live_routeWrite hl hd h hk⟩,
    fun s hl => ⟨fun h => ?_, fun hs hd => ?_, fun h => ?_, fun n h => ?_, fun h => ?_, fun h => ?_⟩,
    fun g e s hl => ⟨fun h => ?_, fun hg he => ?_⟩, fun g s hl => ⟨fun e n h => ?_, fun h => ?_, fun e h => ?_⟩,
    fun a c e s hl => ⟨fun h => ?_, fun hr hb hc hz => ?_, fun n h => ?_, fun h => ?_⟩,
    fun k e s hl => ⟨fun h => ?_, fun h ht => ?_, fun h ht => ?_⟩, fun k s hl => ⟨fun e n h => ?_, fun h => ?_, fun e h => ?_⟩,
    fun i n s hl => ⟨fun tb h => ?_, fun h0 h => ?_⟩⟩
  · exact live_reply (i := .rtrRouteWrite first es) rfl hl (rtrRouteWrite_of_draining (s := s.quiet) h)
  · exact live_reply (i := .rtrRouteWrite first es) rfl hl (rtrRouteWrite_of_bad (s := s.quiet) hd h)
  · exact live_reply (i := .rtrRouteSwitch) rfl hl (rtrRouteSwitch_of_busy (s := s.quiet) h)
  · exact live_rtrReply (i := .rtrRouteSwitch) rfl hl (rtrRouteSwitch_of_free (s := s.quiet) hs hd)
  · exact live_idles (c := .routeSwitchApply) rfl hl (routeSwitchApply_of_not_due (s := s.quiet) h)
  · exact live_rtr (i := .routeSwitchApply) rfl hl (routeSwitchApply_of_due (s := s.quiet) h)
  · exact live_rtr (i := .routeDrainClose) rfl hl (routeDrainClose_of_over (s := s.quiet) h)
  · exact live_idles (c := .routeDrainClose) rfl hl (routeDrainClose_of_other (s := s.quiet) h)
  · exact live_reply (i := .rtrMcastWrite g e) rfl hl (rtrMcastWrite_of_bad (s := s.quiet) h)
  · obtain ⟨t, hx, ha, ht, hF⟩ := live_rtrReply (i := .rtrMcastWrite g e) rfl hl (rtrMcastWrite_of_good (s := s.quiet) hg he)
    exact ⟨t, hx, ha, ht ▸ tget_tput_same .., (congrArg Rtr.mcast ht).trans rfl, hF⟩
  · obtain ⟨t, hx, ht, hF⟩ := live_rtr (i := .mcastWriteApply g) rfl hl (mcastWriteApply_of_aged (s := s.quiet) h)
    exact ⟨t, hx, ht ▸ mget_mset_same .., ht ▸ tget_tdel_same .., hF⟩
  · exact live_idles (c := .mcastWriteApply g) rfl hl (mcastWriteApply_of_none (s := s.quiet) h)
  · exact live_idles (c := .mcastWriteApply g) rfl hl (mcastWriteApply_of_new (s := s.quiet) h)
  · exact live_reply (i := .rtrPolicerWrite a c e) rfl hl (rtrPolicerWrite_of_bad (s := s.quiet) h)
  · obtain ⟨t, hx, ha, ht, hF⟩ := live_rtrReply (i := .rtrPolicerWrite a c e) rfl hl (rtrPolicerWrite_of_good (s := s.quiet) hr hb hc hz)
    exact ⟨t, hx, ha, ht ▸ tget_tput_same .., (congrArg Rtr.policers ht).trans rfl, hF⟩
  · obtain ⟨d, hf⟩ := policerWriteApply_of_aged (s := s.quiet) h
    obtain ⟨t, hx, ht, hF⟩ := live_rtrLedger (i := .policerWriteApply a c) rfl hl hf
    exact ⟨t, hx, ht ▸ mget_mset_same .., ht ▸ tget_tdel_same .., hF⟩
  · exact live_idles (c := .policerWriteApply a c) rfl hl (policerWriteApply_of_not_due (s := s.quiet) h)
  · exact live_reply (i := .rtrShaperWrite k e) rfl hl (rtrShaperWrite_of_bad (s := s.quiet) h)
  · exact live_reply (i := .rtrShaperWrite k e) rfl hl (rtrShaperWrite_of_taken (s := s.quiet) h ht)
  · obtain ⟨t, hx, ha, ht, hF⟩ := live_rtrReply (i := .rtrShaperWrite k e) rfl hl (rtrShaperWrite_of_good (s := s.quiet) h ht)
    exact ⟨t, hx, ha, ht ▸ tget_tput_same .., (congrArg Rtr.shapers ht).trans rfl, hF⟩
  · obtain ⟨d, hf⟩ := shaperWriteApply_of_aged (s := s.quiet) h
    obtain ⟨t, hx, ht, hF⟩ := live_rtrLedger (i := .shaperWriteApply k) rfl hl hf
    exact ⟨t, _, hx, ht ▸ mget_mset_same .., fun hm => shaperStart_of_full hm .., fun hm => shaperStart_of_refill hm ..,
      fun hm => shaperStart_of_kept hm .., ht ▸ tget_tdel_same .., hF⟩
  · exact live_idles (c := .shaperWriteApply k) rfl hl (shaperWriteApply_of_none (s := s.quiet) h)
  · exact live_idles (c := .shaperWriteApply k) rfl hl (shaperWriteApply_of_new (s := s.quiet) h)
  · exact live_reply (i := .rtrTableRead tb i n) rfl hl (rtrTableRead_of_bad (s := s.quiet) h)
  · have hroute1 := live_tableRead (i := i) hl h0 h .route1
    simp only [Rtr.tableEntry, ← Nat.add_assoc] at hroute1
    exact ⟨live_tableRead hl h0 h .route0, hroute1, live_tableRead hl h0 h .mcast, live_tableRead hl h0 h .policer,
      live_tableRead hl h0 h .shaper⟩

end Sys2Proof.Machine

/-! PROOFS. A packet's way through the router (R385 to R406): where it goes next, what a policer does, and what happens on its way in. -/

namespace Sys2Proof.Machine

/-! The next hop (R385 to R390). -/

/-- The deterministic port is that of the lowest valid slot whose link has not been lost. -/
theorem determPort_spec {u : State} {e : W32} {x : LinkPort} (h : u.determPort e = some x) :
    ∃ i, i < 4 ∧ routeSlot e i = some x ∧ (u.link x).lost = false ∧ ∀ j y, j < i → routeSlot e j = some y → (u.link y).lost = true := by
  rw [State.determPort, List.find?_filterMap] at h
  obtain ⟨i, hi, hx⟩ := Option.bind_eq_some_iff.1 h
  obtain ⟨hlost, hlt, hless⟩ := List.find?_range_eq_some.1 hi
  refine ⟨i, List.mem_range.1 hlt, hx, by simpa [hx] using hlost, fun j y hj hy => ?_⟩
  simpa [hy] using hless j hj

/-- The slot chosen adaptively is a valid one whose port is in ACTIVE. -/
theorem adaptSlot_spec {u : State} {e : W32} {ep : Ep} {i : Nat} {x : LinkPort} (h : u.adaptSlot e ep = some (i, x)) :
    (u.link x).state = .active ∧ routeSlot e i = some x := by
  have hcand : (i, x) ∈ (List.range 4).filterMap (fun i => match routeSlot e i with
      | some p => if (u.link p).state = .active then some (i, p) else none
      | none => none) := by
    unfold State.adaptSlot at h
    dsimp only at h
    split at h
    · next c hc =>
      obtain rfl := Option.some.inj h
      exact List.mem_of_mem_filter (List.mem_of_find?_eq_some hc)
    · exact List.mem_of_mem_filter (List.mem_of_mem_head? h)
  obtain ⟨j, -, hj⟩ := List.mem_filterMap.1 hcand
  split at hj
  · next p hp =>
    split at hj
    · next ha =>
      obtain ⟨rfl, rfl⟩ := Prod.mk.inj (Option.some.inj hj)
      exact ⟨ha, hp⟩
    · exact absurd hj nofun
  · exact absurd hj nofun

section
variable {u : State} {q : Packet} {vc : Nat}

theorem nextHop_of_badGen (h : u.genOk q.gen = false) (vc : Nat) : u.nextHop q vc = (.badGen, none) := if_pos (by simp [h])

theorem not_ownDst (hd : q.dst ≠ u.rtr.nodeId ∨ u.rtr.nodeId = 0x3FFF#14) :
    ¬ (q.dst == u.rtr.nodeId && u.rtr.nodeId != 0x3FFF#14) = true := by
  rcases hd with hd | hd <;> simp [hd]

variable (hg : u.genOk q.gen = true)
include hg

theorem nextHop_of_own (hd : q.dst = u.rtr.nodeId) (hn : u.rtr.nodeId ≠ 0x3FFF#14) : u.nextHop q vc = (.here, none) := by
  simp [State.nextHop, hg, hd, hn]

variable (hd : q.dst ≠ u.rtr.nodeId ∨ u.rtr.nodeId = 0x3FFF#14)
include hd

theorem nextHop_of_unreachable (hk : routeKind (u.route q.gen q.dst) = 0) : u.nextHop q vc = (.unreachable, none) := by
  simp only [State.nextHop, hg, not_ownDst hd, hk]
  rfl

theorem nextHop_of_local (hk : routeKind (u.route q.gen q.dst) = 2) (hn : u.rtr.nodeId ≠ 0x3FFF#14) : u.nextHop q vc = (.here, none) := by
  simp [State.nextHop, hg, not_ownDst hd, hk, hn]

theorem nextHop_of_host (hk : routeKind (u.route q.gen q.dst) = 3) : u.nextHop q vc = (.port u.activePl, none) := by
  simp only [State.nextHop, hg, not_ownDst hd, hk]
  rfl

theorem nextHop_of_determ (hk : routeKind (u.route q.gen q.dst) = 1)
    (hm : vc ≠ vcBulk ∨ (u.route q.gen q.dst).getLsbD 26 = false ∨ u.rtr.adaptEn = false ∨ q.mcast = true) :
    (∀ x, u.determPort (u.route q.gen q.dst) = some x → u.nextHop q vc = (.port x, none)) ∧
    (u.determPort (u.route q.gen q.dst) = none → u.nextHop q vc = (.unreachable, none)) := by
  have hdet : ¬ (vc == vcBulk && (u.route q.gen q.dst).getLsbD 26 && u.rtr.adaptEn && !q.mcast) = true := by
    rcases hm with hm | hm | hm | hm
    · simp [hm]
    all_goals simp only [hm, Bool.and_false, Bool.false_and, Bool.not_true, Bool.false_eq_true, not_false_eq_true]
  simp only [State.nextHop, hg, not_ownDst hd, hk, hdet]
  exact ⟨fun x hx => by rw [hx]; rfl, fun hx => by rw [hx]; rfl⟩

theorem nextHop_of_adapt (hk : routeKind (u.route q.gen q.dst) = 1) (hv : vc = vcBulk) (he : (u.route q.gen q.dst).getLsbD 26 = true)
    (ha : u.rtr.adaptEn = true) (hm : q.mcast = false) {i : Nat} {x : LinkPort}
    (hs : u.adaptSlot (u.route q.gen q.dst) q.dst = some (i, x)) : u.nextHop q vc = (.port x, some i) := by
  simp [State.nextHop, hg, not_ownDst hd, hk, hv, he, ha, hm, hs]

end

/-! Policers (R405). -/

section
variable {x : Policer} {pre b : Nat}

theorem meter_of_red (h : 1 < pre ∨ x.tp < b) : x.meter pre b = (.red, x) := if_pos h

theorem meter_of_yellow (hp : pre ≤ 1) (ht : b ≤ x.tp) (h : pre = 1 ∨ x.tc < b) : x.meter pre b = (.yellow, { x with tp := x.tp - b }) :=
  (if_neg (by omega)).trans (if_pos h)

theorem meter_of_green (hp : pre = 0) (ht : b ≤ x.tp) (hc : b ≤ x.tc) :
    x.meter pre b = (.green, { x with tc := x.tc - b, tp := x.tp - b }) := (if_neg (by omega)).trans (if_neg (by omega))

end

/-! Routing and delivery (R385, R390, R392). -/

/-- Only a DOORBELL has a transport credit to give back. -/
theorem lostPkt_of_other {pkt : Packet} (h : pkt.opc ≠ 0x84#8) (s : State) (p : LinkPort) (vc : Nat) : s.lostPkt p pkt vc = s :=
  if_neg (fun hb => h hb.2)

theorem deliver_of_inbox {ip : InPkt} (hk : localKind ip.pkt.opc = true) (ho : ip.pkt.opc < 0x40#8 ∨ 0x49#8 < ip.pkt.opc) (u : State) :
    u.deliver ip vcReq = { u with rtr := { u.rtr with inbox := u.rtr.inbox ++ [ip] } } := by
  have hlate : ¬ (0x40#8 ≤ ip.pkt.opc ∧ ip.pkt.opc ≤ 0x49#8) := fun h => by
    rcases ho with ho | ho
    · exact absurd ho (BitVec.not_lt.2 h.1)
    · exact absurd ho (BitVec.not_lt.2 h.2)
  exact (if_neg (by simp [hk])).trans ((if_neg hlate).trans (if_neg (fun h => absurd h.1 (by decide))))

section
variable {s : State} {q : Packet} {vc : Nat} {req : Option Nat} {p : LinkPort} {auth owner : Option Tenant}

theorem forward_of_here (h : (s.nextHop q vc).1 = .here) :
    s.forward q vc req p auth owner = s.deliver ⟨q, p, auth, owner, none, vc⟩ vc := by
  have hn : s.nextHop q vc = (.here, (s.nextHop q vc).2) := Prod.ext h rfl
  rw [State.forward, hn]

theorem forward_of_unreachable (h : (s.nextHop q vc).1 = .unreachable) : s.forward q vc req p auth owner = s.tally (ctrRtr 1) := by
  have hn : s.nextHop q vc = (.unreachable, (s.nextHop q vc).2) := Prod.ext h rfl
  rw [State.forward, hn]

theorem forward_of_port {e : LinkPort} (h : s.nextHop q vc = (.port e, none)) :
    s.forward q vc req p auth owner = s.enqueue e ⟨q, vc, req, none⟩ := by rw [State.forward, h]

end

theorem enqueue_txq (s : State) (e : LinkPort) (q : QPkt) : mget [] (s.enqueue e q).rtr.txq e.val = mget [] s.rtr.txq e.val ++ [q] :=
  mget_mset_same ..

theorem enqueue_adds (s : State) (e : LinkPort) (q : QPkt) : Adds [.rtr] s (s.enqueue e q) := adds_rtr s _

section
variable {u v w : State} {p : LinkPort} {pkt q r : Packet} {a owner : Option Tenant} {b vc : Nat} (hp : isPl p = false)
include hp

/-- A packet from TFL that is not for this node and that policing discards. -/
theorem routeIn_of_discarded (hn : (u.nextHop pkt vc).1 ≠ .here) (ho : pkt.opc ≠ 0x84#8) (hv : u.police p pkt b vc = (v, none)) :
    u.routeIn p pkt b vc owner = v := by
  simp [State.routeIn, hp, hn, hv, lostPkt_of_other ho]

/-- A unicast packet from TFL that is not for this node, once policed, is routed on, or counted where its generation is over. -/
theorem routeIn_of_policed (hn : (u.nextHop pkt vc).1 ≠ .here) (hv : u.police p pkt b vc = (v, some q)) (ho : q.opc ≠ 0x84#8)
    (hm : q.mcast = false) :
    u.routeIn p pkt b vc owner = if v.genOk q.gen then v.forward q vc none p none owner else v.tally (ctrRtr 0) := by
  cases hg : v.genOk q.gen <;> simp [State.routeIn, hp, hn, hv, hg, hm, lostPkt_of_other ho]

/-- A unicast packet from TFL for this node, once opened and policed, is routed as what it has become. -/
theorem routeIn_of_local (hm : pkt.mcast = false) (hn : (u.nextHop pkt vc).1 = .here) (ht : u.streamTake pkt = (v, some (q, a)))
    (hv : v.police p q b vc = (w, some r)) (hr : r.mcast = false) (hg : w.genOk r.gen = true) :
    u.routeIn p pkt b vc owner = w.forward r vc none p a owner := by
  simp [State.routeIn, hp, hm, hn, ht, hv, hr, hg]

end

/-! Packets taken in (R347, R391, R423, R450). -/

theorem setCrypto_adds (s : State) (p : LinkPort) (c : PortCrypto) : Adds [.sec] s (s.setCrypto p c) :=
  adds_of_same rfl rfl (fun x => by cases x <;> simp [Part.same])

/-- Link decryption touches the port's keys, or counts and reports a failure. -/
theorem linkOpen_adds (s : State) (p : LinkPort) (pkt : Packet) : Adds [.sec, .ras, .ctr, .serial] s (s.linkOpen p pkt).1 := by
  have harrive : Adds [.sec, .ras, .ctr, .serial] s (s.setCrypto p ((s.crypto p).arrive pkt)) := (setCrypto_adds ..).mono (by decide)
  have hfail (r : Report) : Adds [.sec, .ras, .ctr, .serial] s
      (((s.setCrypto p ((s.crypto p).arrive pkt)).tally (ctrQue 6 (p.val - 32))).raise r) :=
    harrive.trans (((tally_adds ..).trans (raise_adds ..)).mono (by decide))
  unfold State.linkOpen
  dsimp only
  split
  · split
    · exact hfail _
    · exact harrive.trans ((setCrypto_adds ..).mono (by decide))
  · split
    · exact hfail _
    · exact harrive

theorem linkOpen_activePl {u v : State} {p : LinkPort} {pkt : Packet} {o : Option (Packet × Option Tenant)} (h : u.linkOpen p pkt = (v, o)) :
    v.activePl = u.activePl := by
  have hque : (u.linkOpen p pkt).1.que = u.que := (linkOpen_adds u p pkt).same .que (by decide)
  rw [h] at hque
  exact congrArg (fun x : Que => plPort x.active) hque

section
variable {u v : State} {p : LinkPort} {pkt q : Packet} {own : Option Tenant} {vc : Nat}

theorem takeIn_tfl_of_malformed (hp : isPl p = false) (hm : pktMalformed pkt false vc = true) (ho : pkt.opc ≠ 0x84#8) :
    u.takeIn p pkt vc = u.tally (ctrTfl 10 p.val) := by
  simp [State.takeIn, State.badPkt, hp, hm, lostPkt_of_other ho]

theorem takeIn_tfl_of_wellFormed (hp : isPl p = false) (hm : pktMalformed pkt false vc = false) : u.takeIn p pkt vc =
    (u.tallyBytes 6 pkt.tenant (pktBytes pkt)).routeIn p (u.stampGen p pkt) (pktBytes pkt) vc none := by
  simp [State.takeIn, hp, hm]

variable (hp : isPl p = true) (hm : pktMalformed pkt true vc = false)
include hp hm

theorem takeIn_pl_of_refused (ho : pkt.opc ≠ 0x84#8) (h : u.linkOpen p pkt = (v, none)) : u.takeIn p pkt vc = v := by
  simp [State.takeIn, hp, hm, h, lostPkt_of_other ho]

theorem takeIn_pl_of_standby (ho : q.opc ≠ 0x84#8) (h : u.linkOpen p pkt = (v, some (q, own))) (hs : p ≠ v.activePl)
    (hk : standbyOk q.opc = false) : u.takeIn p pkt vc = v.tally (ctrQue 5 (p.val - 32)) := by
  rw [linkOpen_activePl h] at hs
  simp [State.takeIn, hp, hm, h, hs, hk, lostPkt_of_other ho]

theorem takeIn_pl_of_active (h : u.linkOpen p pkt = (v, some (q, own))) (ha : p = v.activePl) :
    u.takeIn p pkt vc = v.routeIn p (v.stampGen p q) (pktBytes pkt) vc own := by
  have hact : p = u.activePl := ha.trans (linkOpen_activePl h)
  simp [State.takeIn, hp, hm, h, ← hact]

end

section
variable {s : State} {p : LinkPort} {vc : Nat} {pkt : Packet} {x : VcRx}

theorem packetIngress_of_none (h : ((s.link p).rx.vc vc).takePacket = none) : packetIngress p vc s = s := by
  simp [packetIngress, h]

theorem packetIngress_of_waiting (h : ((s.link p).rx.vc vc).takePacket = some (pkt, x)) (hw : s.mcastWaits p pkt vc = true) :
    packetIngress p vc s = s := by simp [packetIngress, h, hw]

theorem packetIngress_of_due (h : ((s.link p).rx.vc vc).takePacket = some (pkt, x)) (hw : s.mcastWaits p pkt vc = false) :
    packetIngress p vc s =
      (s.setLink p { s.link p with rx := (s.link p).rx.setVc vc (x.repause (s.link p).h) }).takeIn p pkt vc := by
  simp [packetIngress, h, hw]

end

end Sys2Proof.Machine

/-! PROOFS. What leaves a port (R409, R450, R505): the scheduler's choice, and the packet handed to its link. -/

namespace Sys2Proof.Machine

/-! The scheduler. -/

/-- A search of a list for the element with the lowest number ends with one of the elements. -/
theorem mem_of_foldl_least {α : Type} {f : α → Nat} {g : Option α → α → Option α} (hnone : ∀ e, g none e = some e)
    (hsome : ∀ y e, g (some y) e = if f e < f y then some e else some y) {l : List α} {x : α} (h : l.foldl g none = some x) : x ∈ l := by
  have hkeep : ∀ (l : List α) (y : α), l.foldl g (some y) = some x → x ∈ y :: l := by
    intro l
    induction l with
    | nil => exact fun y hy => Option.some.inj hy ▸ List.mem_cons_self ..
    | cons e l ih =>
      intro y hy
      rw [List.foldl_cons, hsome] at hy
      split at hy
      · exact List.mem_cons_of_mem _ (ih e hy)
      · exact List.cons_subset_cons y (List.subset_cons_self e l) (ih y hy)
  cases l with
  | nil => exact absurd h nofun
  | cons e l => exact hkeep l e (by rw [← h, List.foldl_cons, hnone])

/-- The number of a packet's queue among those of its port and class: by shaper, then by VC. -/
def State.queueNumber (s : State) (p : LinkPort) (q : QPkt) : Nat := (s.queueOf p q).2.2 * 4 + q.vc

/-- The packet picked is a ready one: of SNP if any is, else of RSP if any is, else of the lowest class. -/
theorem schedule_spec {u : State} {p : LinkPort} {x : Nat × QPkt} (h : u.schedule p = some x) : x ∈ u.readyList p ∧
    (x.2.vc = vcSnp ∨ (∀ e, e ∈ u.readyList p → e.2.vc ≠ vcSnp) ∧
      (x.2.vc = vcRsp ∨ (∀ e, e ∈ u.readyList p → e.2.vc ≠ vcRsp) ∧
        ∀ e, e ∈ u.readyList p → x.2.pkt.cls.toNat ≤ e.2.pkt.cls.toNat)) := by
  unfold State.schedule at h
  dsimp only at h
  split at h
  · next e he =>
    obtain rfl := Option.some.inj h
    exact ⟨List.mem_of_find?_eq_some he, .inl (by simpa using List.find?_some he)⟩
  · next hsnp =>
    refine (fun (hx : _ ∧ _) => ⟨hx.1, .inr ⟨fun e he => by simpa using List.find?_eq_none.1 hsnp e he, hx.2⟩⟩) ?_
    split at h
    · next e he =>
      obtain rfl := Option.some.inj h
      exact ⟨List.mem_of_find?_eq_some he, .inl (by simpa using List.find?_some he)⟩
    · next hrsp =>
      split at h
      · exact absurd h nofun
      · next c hc =>
        obtain ⟨-, -, hless⟩ := List.find?_range_eq_some.1 hc
        have hhere : x ∈ (u.readyList p).filter (fun e => e.2.pkt.cls.toNat == c) := by
          split at h
          · next e he =>
            obtain rfl := Option.some.inj h
            exact List.mem_of_mem_filter (mem_of_foldl_least (f := fun e => u.queueNumber p e.2) (fun _ => rfl) (fun _ _ => rfl) he)
          · exact mem_of_foldl_least (f := fun e => u.queueNumber p e.2) (fun _ => rfl) (fun _ _ => rfl) h
        obtain ⟨hmem, hcls⟩ := List.mem_filter.1 hhere
        refine ⟨hmem, .inr ⟨fun e he => by simpa using List.find?_eq_none.1 hrsp e he, fun e he => ?_⟩⟩
        rw [show x.2.pkt.cls.toNat = c by simpa using hcls]
        by_contra hlt
        have hnone := hless e.2.pkt.cls.toNat (not_le.1 hlt)
        rw [Bool.not_eq_true', List.any_eq_false] at hnone
        exact hnone e he (beq_self_eq_true _)

/-! The packet handed over. -/

/-- What preparing a packet for its link keeps: everything but the router's records and the counts of what it cost, and of these the transmit
queues and the fatal flag. -/
structure EgressKeeps (s t : State) : Prop where
  frame : Frame [.rtr, .sec, .audit, .dbg, .ctr, .ras, .serial] s t
  txq : t.rtr.txq = s.rtr.txq
  fatal : t.dbg.fatal = s.dbg.fatal

namespace EgressKeeps
variable {s t u : State}

theorem rfl (s : State) : EgressKeeps s s := ⟨Frame.rfl s, Eq.refl _, Eq.refl _⟩

theorem trans (h : EgressKeeps s t) (k : EgressKeeps t u) : EgressKeeps s u :=
  ⟨h.frame.trans k.frame, k.txq.trans h.txq, k.fatal.trans h.fatal⟩

theorem of_frame {ps : List Part} (h : Frame ps s t) (hs : ∀ p ∈ ps, p ∈ [Part.sec, .audit, .ctr, .ras, .serial]) : EgressKeeps s t := by
  have hF := h.mono hs
  exact ⟨hF.mono (by decide), congrArg Rtr.txq (hF.2 .rtr (by decide)), congrArg Dbg.fatal (frame_dbg hF (by decide))⟩

theorem of_rtr (s : State) {x : Rtr} (h : x.txq = s.rtr.txq) : EgressKeeps s { s with rtr := x } :=
  ⟨(adds_rtr s x).1.mono (by decide), h, Eq.refl _⟩

theorem tallyBytes (s : State) (k : Nat) (t : Tenant) (n : Nat) : EgressKeeps s (s.tallyBytes k t n) := by
  obtain ⟨hF, hfatal⟩ := tallyBytes_frame s k t n
  exact ⟨hF.mono (by decide), congrArg Rtr.txq (hF.2 .rtr (by decide)), hfatal⟩

theorem ledger (s : State) (n : Nat) (d : Int) : EgressKeeps s (s.ledger n d) := .of_frame (ledger_frame s n d) (by decide)

end EgressKeeps

/-- A port's next packet leaves its transmit queues. -/
def State.txTaken (s : State) (p : LinkPort) (i : Nat) : State :=
  { s with rtr := { s.rtr with txq := mset [] s.rtr.txq p.val ((mget [] s.rtr.txq p.val).eraseIdx i) } }

/-- The shaper that shapes a packet spends its bytes. -/
def State.tokensSpent (s : State) (e : Option (Nat × Shaper)) (n : Nat) : State :=
  match e with
  | some e => ({ s with rtr := { s.rtr with shapers := tput s.rtr.shapers e.1 { e.2 with tokens := e.2.tokens - n } } }).ledger 5 (-(n : Int))
  | none => s

/-- Where the shaper queues of a class take turns, the queue of this number has had its turn. -/
def State.turnTaken (s : State) (p : LinkPort) (q : QPkt) (n : Nat) : State :=
  if q.vc = vcReq ∨ q.vc = vcBulk then { s with rtr := { s.rtr with rr := mset 0 s.rtr.rr (rtrPort p * 4 + q.pkt.cls.toNat) n } } else s

/-- A packet's request, if it is one of the device's own, is noted as last sent on a port. -/
def State.portNoted (s : State) (p : LinkPort) (req : Option Nat) : State :=
  match req with
  | some n => { s with rtr := { s.rtr with reqs := tmod s.rtr.reqs n (fun r => { r with port := some p }) } }
  | none => s

/-- The bytes of a packet that leaves a port as pkt are counted for its tenant. -/
def State.egressCounted (s : State) (p : LinkPort) (q : QPkt) (pkt : Packet) : State :=
  if isPl p then (if q.pkt.opc = 0x81#8 then s.tallyBytes 4 q.pkt.tenant (16 * q.pkt.payload.length) else s)
  else s.tallyBytes 5 q.pkt.tenant (pktBytes pkt)

/-- A packet as it stands in its link's queue. -/
def txPktOf (q : QPkt) (pkt : Packet) : TxPkt := { units := pktUnits pkt, started := false, doorbell := pkt.opc == 0x84#8, mc := q.mc }

/-- A packet at the end of a link's queue of its VC. -/
def Link.queued (l : Link) (vc : Nat) (t : TxPkt) : Link :=
  { l with tx := { l.tx with queues := mset [] l.tx.queues vc (mget [] l.tx.queues vc ++ [t]) } }

theorem Link.queued_queue (l : Link) (vc : Nat) (t : TxPkt) : mget [] (l.queued vc t).tx.queues vc = mget [] l.tx.queues vc ++ [t] :=
  mget_mset_same ..

section
variable (s : State) (p : LinkPort) (q : QPkt)

theorem tokensSpent_keeps (e : Option (Nat × Shaper)) (n : Nat) : EgressKeeps s (s.tokensSpent e n) := by
  cases e with
  | none => exact .rfl s
  | some e =>
    refine (EgressKeeps.of_rtr s ?_).trans (.ledger ..)
    rfl

theorem turnTaken_keeps (n : Nat) : EgressKeeps s (s.turnTaken p q n) := by
  unfold State.turnTaken
  split
  · exact .of_rtr s rfl
  · exact .rfl s

theorem portNoted_keeps (req : Option Nat) : EgressKeeps s (s.portNoted p req) := by
  cases req with
  | none => exact .rfl s
  | some n => exact .of_rtr s rfl

theorem egressCounted_keeps (pkt : Packet) : EgressKeeps s (s.egressCounted p q pkt) := by
  unfold State.egressCounted
  split
  · split
    · exact .tallyBytes ..
    · exact .rfl s
  · exact .tallyBytes ..

theorem settleSendSlot_adds : Adds [.sec] s (s.settleSendSlot p) := by
  unfold State.settleSendSlot
  dsimp only
  split
  · exact Adds.rfl s
  · split
    · exact Adds.rfl s
    · exact setCrypto_adds ..

end

/-- The state in which a packet that leaves port p as pkt is handed to its link. -/
def State.egressPrepared (s v : State) (p : LinkPort) (i : Nat) (q : QPkt) (pkt : Packet) : State :=
  ((((v.txTaken p i).tokensSpent (s.shaperOf p q) (s.wireBytes p q.pkt)).turnTaken p q (s.queueNumber p q)).portNoted p
    q.req).egressCounted p q pkt

theorem egressPrepared_keeps (s v : State) (p : LinkPort) (i : Nat) (q : QPkt) (pkt : Packet) :
    EgressKeeps (v.txTaken p i) (s.egressPrepared v p i q pkt) :=
  (((tokensSpent_keeps ..).trans (turnTaken_keeps ..)).trans (portNoted_keeps ..)).trans (egressCounted_keeps ..)

theorem setTenant_adds (s : State) (t : Tenant) (x : TenantRec) : Adds [.sec] s (s.setTenant t x) :=
  adds_of_same rfl rfl (fun x => by cases x <;> simp [Part.same])

/-- Link encryption advances the port's packet counter, or changes nothing. -/
theorem linkProtect_adds {s v : State} {p : LinkPort} {pkt r : Packet} (h : s.linkProtect p pkt = some (r, v)) : Adds [.sec] s v := by
  unfold State.linkProtect at h
  dsimp only at h
  split at h
  · obtain ⟨-, rfl⟩ := Prod.mk.inj (Option.some.inj h)
    exact Adds.rfl s
  · split at h
    · exact absurd h nofun
    · obtain ⟨-, rfl⟩ := Prod.mk.inj (Option.some.inj h)
      exact setCrypto_adds ..

/-- Tenant encryption advances the tenant's nonce, or changes nothing. -/
theorem streamProtect_adds {s v : State} {pkt r : Packet} (h : s.streamProtect pkt = some (r, v)) : Adds [.sec] s v := by
  unfold State.streamProtect at h
  dsimp only at h
  split at h
  · obtain ⟨-, rfl⟩ := Prod.mk.inj (Option.some.inj h)
    exact Adds.rfl s
  · split at h
    · exact absurd h nofun
    · obtain ⟨-, rfl⟩ := Prod.mk.inj (Option.some.inj h)
      exact setTenant_adds ..

section
variable {s v : State} {p : LinkPort} {i : Nat} {q : QPkt} {pkt : Packet}

theorem packetEgress_of_idle (h : (s.link p).state ≠ .active ∨ s.schedule p = none) : packetEgress p s = s := by
  by_cases ha : (s.link p).state = .active
  · simp [packetEgress, ha, h.resolve_left (fun hn => hn ha)]
  · exact if_pos ha

theorem packetEgress_of_scheduled (ha : (s.link p).state = .active) (hs : s.schedule p = some (i, q))
    (hv : (if isPl p then s.linkProtect p q.pkt else s.streamProtect q.pkt) = some (pkt, v)) : packetEgress p s =
      ((s.egressPrepared v p i q pkt).modLink p (fun l => l.queued q.vc (txPktOf q pkt))).settleSendSlot p := by
  simp only [packetEgress, ha, ne_eq, not_true_eq_false, if_false, hs, hv]
  rfl

/-- A packet handed over has left the port's transmit queues and stands in its link's queue. -/
theorem packetEgress_spec (ha : (s.link p).state = .active) (hs : s.schedule p = some (i, q))
    (hv : (if isPl p then s.linkProtect p q.pkt else s.streamProtect q.pkt) = some (pkt, v)) :
    mget [] (packetEgress p s).rtr.txq p.val = (mget [] s.rtr.txq p.val).eraseIdx i ∧
    (packetEgress p s).link p = (s.link p).queued q.vc (txPktOf q pkt) ∧ (packetEgress p s).dbg.fatal = s.dbg.fatal ∧
    Frame [.links, .rtr, .sec, .audit, .dbg, .ctr, .ras, .serial] s (packetEgress p s) := by
  have hprot : Adds [.sec] s v := by
    split at hv
    · exact linkProtect_adds hv
    · exact streamProtect_adds hv
  have hkeeps := egressPrepared_keeps s v p i q pkt
  have hslot := settleSendSlot_adds ((s.egressPrepared v p i q pkt).modLink p (fun l => l.queued q.vc (txPktOf q pkt))) p
  have hlinks : (s.egressPrepared v p i q pkt).links = s.links := (hkeeps.frame.2 .links (by decide)).trans (hprot.same .links (by decide))
  rw [packetEgress_of_scheduled ha hs hv]
  refine ⟨?_, ?_, ?_, ?_⟩
  · rw [show (State.settleSendSlot _ p).rtr = (s.egressPrepared v p i q pkt).rtr from hslot.same .rtr (by decide), hkeeps.txq,
      State.txTaken, mget_mset_same, show v.rtr = s.rtr from hprot.same .rtr (by decide)]
  · rw [hslot.link (by decide), modLink_link_same]
    exact congrArg (fun m => (mget Link.resetTfl m p.val).queued q.vc (txPktOf q pkt)) hlinks
  · exact (congrArg Dbg.fatal (hslot.same .dbg (by decide))).trans (hkeeps.fatal.trans (congrArg Dbg.fatal (hprot.same .dbg (by decide))))
  · exact (((hprot.1.mono (by decide)).trans ((adds_rtr v _).1.mono (by decide))).trans (hkeeps.frame.mono (by decide))).trans
      (((modLink_adds ..).1.mono (by decide)).trans (hslot.1.mono (by decide)))

/-- A live device hands over the packet that its scheduler picked and that could be protected. -/
theorem live_packetEgress (hl : s.live = true) (ha : (s.link p).state = .active) (hs : s.schedule p = some (i, q))
    (hv : (if isPl p then s.quiet.linkProtect p q.pkt else s.quiet.streamProtect q.pkt) = some (pkt, v)) :
    ∃ t, exec (.packetEgress p) s = .next t ∧ mget [] t.rtr.txq p.val = (mget [] s.rtr.txq p.val).eraseIdx i ∧
      mget [] (t.link p).tx.queues q.vc = mget [] (s.link p).tx.queues q.vc ++ [txPktOf q pkt] ∧
      Frame [.links, .rtr, .sec, .audit, .dbg, .ctr, .ras, .serial] s t := by
  obtain ⟨htxq, hlink, hfatal, hF⟩ := packetEgress_spec (s := s.quiet) ha hs hv
  have hd : (packetEgress p s.quiet).dbg.fatal = false := hfatal.trans (live_not_fatal hl)
  refine ⟨_, live_next (i := .packetEgress p) rfl hl rfl, htxq, ?_, (Frame.quiet s).trans ⟨rfl, settle_sameBut hd hF.2⟩⟩
  rw [settle_of_not_fatal _ hd]
  exact (congrArg (fun l : Link => mget [] l.tx.queues q.vc) hlink).trans (Link.queued_queue ..)

end

end Sys2Proof.Machine

/-! PROOFS. Packets enter and leave (R385 to R409): the clauses together. -/

namespace Sys2Proof.Machine

/-- Settles O45: a packet's way in is one equation per outcome of taking it in, opening, policing and routing it; the next hop and the scheduler's
choice are `determPort_spec`, `adaptSlot_spec` and `schedule_spec`; a packet that leaves is `packetEgress_spec`. -/
theorem packetsEnterAndLeave : Obligations.PacketsEnterAndLeave := by
  unfold Obligations.PacketsEnterAndLeave
  refine ⟨fun p vc s hl => ⟨fun h => ?_, fun pkt x h hw => ?_, fun pkt x h hw => ?_⟩,
    fun u p pkt vc hp => ⟨fun hm ho => takeIn_tfl_of_malformed hp hm ho, fun hm => takeIn_tfl_of_wellFormed hp hm⟩,
    fun u p pkt vc own hp hm => ⟨fun v h ho => takeIn_pl_of_refused hp hm ho h, fun v q h hs hk ho => takeIn_pl_of_standby hp hm ho h hs hk,
      fun v q h ha => takeIn_pl_of_active hp hm h ha⟩,
    fun u v p pkt q b vc hp hm ho hn => ⟨routeIn_of_discarded hp hn ho, fun hv hq hqm => ?_⟩,
    fun u v p pkt q r a b vc hp hm hn ht w hv hr hg hh => ?_, fun u ip hk ho => deliver_of_inbox hk ho u,
    fun u q vc => ⟨fun h => nextHop_of_badGen h vc, fun hg => ⟨nextHop_of_own hg, fun hd => ?_⟩⟩, fun u e x h => determPort_spec h,
    fun x pre b => ⟨meter_of_red, meter_of_yellow, meter_of_green⟩,
    fun p s hl => ⟨fun h => ?_, fun i q pkt v ha hs hv => live_packetEgress hl ha hs hv⟩, fun u p i q h => ?_⟩
  · exact live_idles (c := .packetIngress p vc) rfl hl (packetIngress_of_none (s := s.quiet) h)
  · exact live_idles (c := .packetIngress p vc) rfl hl (packetIngress_of_waiting (s := s.quiet) h hw)
  · exact ⟨_, _, live_next (i := .packetIngress p vc) rfl hl (packetIngress_of_due (s := s.quiet) h hw), rfl,
      (Frame.quiet s).trans (setLink_adds ..).1, rfl⟩
  · have hroute := routeIn_of_policed (owner := none) hp hn hv hq hqm
    refine ⟨fun hg => by rw [hroute, hg]; rfl, fun hg hh => ?_, fun e hg hh => ?_⟩
    · rw [hroute, if_pos hg, forward_of_unreachable hh]
    · rw [hroute, if_pos hg, forward_of_port hh]
      exact ⟨enqueue_txq .., (enqueue_adds ..).1⟩
  · rw [routeIn_of_local hp hm hn ht hv hr hg, forward_of_here hh]
  · exact ⟨nextHop_of_unreachable hg hd, nextHop_of_local hg hd, nextHop_of_host hg hd, nextHop_of_determ hg hd,
      fun i x hk hv he ha hm hs => ⟨nextHop_of_adapt hg hd hk hv he ha hm hs, adaptSlot_spec hs⟩⟩
  · exact live_idles (c := .packetEgress p) rfl hl (packetEgress_of_idle (s := s.quiet) h)
  · obtain ⟨hready, hpick⟩ := schedule_spec h
    refine ⟨hready, fun ⟨e, he, hv⟩ => hpick.resolve_right (fun hno => hno.1 e he hv), fun hsnp => ?_⟩
    obtain ⟨-, hpick⟩ := hpick.resolve_left (hsnp _ hready)
    exact ⟨fun ⟨e, he, hv⟩ => hpick.resolve_right (fun hno => hno.1 e he hv), fun hrsp => (hpick.resolve_left (hrsp _ hready)).2⟩

end Sys2Proof.Machine

/-! PROOFS. Queue pairs and admin queues (R424, R428, R432): what a halt leaves, and what the answer of an admin command leaves. -/

namespace Sys2Proof.Machine

/-! Sparse maps. -/

theorem mem_of_tget {α : Type} {m : SMap α} {k : Nat} {v : α} (h : tget m k = some v) : (k, v) ∈ m := by
  induction m with
  | nil => cases h
  | cons e m ih =>
    obtain ⟨j, w⟩ := e
    by_cases hj : j = k
    · subst hj
      simp only [tget, if_true, Option.some.injEq] at h
      exact h ▸ List.mem_cons_self ..
    · simp only [tget, hj, if_false] at h
      split at h
      · cases h
      · exact List.mem_cons_of_mem _ (ih h)

/-! A queue pair's record. -/

theorem setQp_qp_other (s : State) {q r : Qp} (x : QPair) (h : q ≠ r) : (s.setQp r x).qp q = s.qp q :=
  tget_tput_other _ x (fun e => h (Fin.ext e))

theorem modQp_qp_same (s : State) (q : Qp) (f : QPair → QPair) : (s.modQp q f).qp q = (s.qp q).map f := tget_tmod_same ..

theorem modQp_adds (s : State) (q : Qp) (f : QPair → QPair) : Adds [.que] s (s.modQp q f) := adds_que s _

theorem tally_qp (s : State) (off : Nat) (q : Qp) : (s.tally off).qp q = s.qp q := qp_of_que ((tally_adds s off).same .que (by decide)) q

/-- Nothing of the queue engine but its queue pairs has changed. -/
def QpsAlone (s t : State) : Prop := ∃ m, t.que = { s.que with qps := m }

namespace QpsAlone

theorem of_que {s t : State} (h : t.que = s.que) : QpsAlone s t := ⟨s.que.qps, h⟩

theorem setQp (s : State) (q : Qp) (x : QPair) : QpsAlone s (s.setQp q x) := ⟨_, rfl⟩

theorem trans {s t u : State} (h : QpsAlone s t) (k : QpsAlone t u) : QpsAlone s u := by
  obtain ⟨m, hm⟩ := h
  obtain ⟨n, hn⟩ := k
  exact ⟨n, by rw [hn, hm]⟩

theorem foldl {α : Type} {f : State → α → State} (h : ∀ st x, QpsAlone st (f st x)) (l : List α) (s : State) : QpsAlone s (l.foldl f s) := by
  induction l generalizing s with
  | nil => exact of_que rfl
  | cons x l ih => exact (h s x).trans (ih (f s x))

theorem freeHeld (s : State) (q : Qp) (h : Nat) : QpsAlone s (s.freeHeld q h) := by
  unfold State.freeHeld
  split
  · exact of_que rfl
  · split
    · exact setQp ..
    · exact of_que rfl

theorem tally (s : State) (off : Nat) : QpsAlone s (s.tally off) := of_que ((tally_adds s off).same .que (by decide))

theorem queueRec (s : State) (q : Qp) (r : Rec) : QpsAlone s (s.queueRec q r) := by
  unfold State.queueRec
  split
  · exact of_que rfl
  · split
    · dsimp only
      split
      · exact (tally ..).trans (freeHeld ..)
      · exact tally ..
    · exact setQp ..

theorem haltQp (s : State) (q : Qp) : QpsAlone s (s.haltQp q) := by
  unfold State.haltQp
  split
  · exact of_que rfl
  · split
    · exact (setQp ..).trans (foldl (fun st r => queueRec st q r) _ _)
    · exact of_que rfl

end QpsAlone

/-! A takeover halts queue pairs (R424, R432). -/

theorem Frame.foldl {α : Type} {ps : List Part} {f : State → α → State} (h : ∀ st x, Frame ps st (f st x)) (l : List α) (s : State) :
    Frame ps s (l.foldl f s) := by
  induction l generalizing s with
  | nil => exact Frame.rfl s
  | cons x l ih => exact (h s x).trans (ih (f s x))

theorem haltQp_frame (s : State) (q : Qp) : Frame [.que, .ras, .ctr, .serial, .audit] s (s.haltQp q) := by
  unfold State.haltQp
  split
  · exact Frame.rfl s
  · exact Frame.ite (((setQp_adds ..).1.mono (by simp)).trans (Frame.foldl (fun st r => queueRec_frame st q r) _ _)) (Frame.rfl s)

theorem freeHeld_qp_other (s : State) {q r : Qp} (h : Nat) (hq : q ≠ r) : (s.freeHeld r h).qp q = s.qp q := by
  unfold State.freeHeld
  split
  · rfl
  · split
    · exact setQp_qp_other s _ hq
    · rfl

theorem queueRec_qp_other (s : State) {q r : Qp} (x : Rec) (hq : q ≠ r) : (s.queueRec r x).qp q = s.qp q := by
  unfold State.queueRec
  split
  · rfl
  · split
    · dsimp only
      split
      · exact (freeHeld_qp_other _ _ hq).trans (tally_qp ..)
      · exact tally_qp ..
    · exact setQp_qp_other s _ hq

theorem haltQp_qp_other (s : State) {q r : Qp} (hq : q ≠ r) : (s.haltQp r).qp q = s.qp q := by
  have hrecs : ∀ (l : List Rec) (u : State), (l.foldl (fun st x => st.queueRec r x) u).qp q = u.qp q := by
    intro l
    induction l with
    | nil => exact fun _ => rfl
    | cons x l ih => exact fun u => (ih _).trans (queueRec_qp_other u x hq)
  unfold State.haltQp
  split
  · rfl
  · split
    · exact (hrecs ..).trans (setQp_qp_other s _ hq)
    · rfl

/-- A queue pair is HALTED and no record of it waits. -/
def State.haltedAt (s : State) (q : Qp) : Prop := ∃ y, s.qp q = some y ∧ y.state = .halted ∧ y.recs = []

theorem State.haltedAt.of_qp {s t : State} {q : Qp} (h : s.haltedAt q) (ht : t.qp q = s.qp q) : t.haltedAt q := by
  obtain ⟨y, hy, hrest⟩ := h
  exact ⟨y, ht.trans hy, hrest⟩

theorem freeHeld_haltedAt {s : State} {q : Qp} (hs : s.haltedAt q) (h : Nat) : (s.freeHeld q h).haltedAt q := by
  obtain ⟨y, hy, hrest⟩ := hs
  simp only [State.freeHeld, hy]
  split
  · exact ⟨_, setQp_qp_same .., hrest⟩
  · exact ⟨y, hy, hrest⟩

/-- A record of a HALTED queue pair is discarded. -/
theorem queueRec_haltedAt {s : State} {q : Qp} (hs : s.haltedAt q) (r : Rec) : (s.queueRec q r).haltedAt q := by
  obtain ⟨y, hy, hhalt, -⟩ := id hs
  have hdrops : y.drops = true := by simp [QPair.drops, hhalt]
  have hcounted : (s.tally (ctrQue 2 0)).haltedAt q := hs.of_qp (tally_qp ..)
  simp only [State.queueRec, hy, hdrops, if_true]
  split
  · exact freeHeld_haltedAt hcounted _
  · exact hcounted

theorem haltQp_haltedAt {s : State} {q : Qp} {x : QPair} (hq : s.qp q = some x) (hx : x.state = .active ∨ x.state = .error) :
    (s.haltQp q).haltedAt q := by
  have hrecs : ∀ (l : List Rec) (u : State), u.haltedAt q → (l.foldl (fun st r => st.queueRec q r) u).haltedAt q := by
    intro l
    induction l with
    | nil => exact fun _ h => h
    | cons r l ih => exact fun u h => ih _ (queueRec_haltedAt h r)
  simp only [State.haltQp, hq, if_pos hx]
  exact hrecs _ _ ⟨_, setQp_qp_same .., rfl, rfl⟩

theorem haltQp_of_haltedAt {s : State} {q : Qp} (h : s.haltedAt q) : s.haltQp q = s := by
  obtain ⟨y, hy, hhalt, -⟩ := h
  simp [State.haltQp, hy, hhalt]

/-- What is HALTED stays so while other queue pairs, or it again, are halted. -/
theorem haltQps_of_haltedAt {q : Qp} (l : List Qp) {s : State} (h : s.haltedAt q) : (l.foldl State.haltQp s).haltedAt q := by
  induction l generalizing s with
  | nil => exact h
  | cons r l ih =>
    refine ih ?_
    by_cases hr : q = r
    · subst hr
      rwa [haltQp_of_haltedAt h]
    · exact h.of_qp (haltQp_qp_other s hr)

/-- Each running queue pair of a list is HALTED once the list has been halted. -/
theorem haltQps_haltedAt {q : Qp} {x : QPair} (hx : x.state = .active ∨ x.state = .error) {l : List Qp} {s : State} (hq : s.qp q = some x)
    (hl : q ∈ l) : (l.foldl State.haltQp s).haltedAt q := by
  induction l generalizing s with
  | nil => cases hl
  | cons r l ih =>
    by_cases hr : q = r
    · subst hr
      exact haltQps_of_haltedAt l (haltQp_haltedAt hq hx)
    · exact ih ((haltQp_qp_other s hr).trans hq) ((List.mem_cons.1 hl).resolve_left hr)

/-! Answers of admin commands (R428, R458). -/

theorem adminEnd_qps (s : State) (p : PlPort) (st : Status) (v : W64) : (s.adminEnd p st v).que.qps = s.que.qps := by
  unfold State.adminEnd
  dsimp only
  split <;> rfl

theorem adminSkip_qps (s : State) (p : PlPort) (f : Nat) : (s.adminSkip p f).que.qps = s.que.qps := by
  induction f generalizing s with
  | zero => rfl
  | succ f ih =>
    unfold State.adminSkip
    split
    · split
      · exact (ih _).trans (adminEnd_qps ..)
      · rfl
    · rfl

/-- The answer of an admin command leaves the queue pairs as they are. -/
theorem adminDone_qps (s : State) (p : PlPort) (st : Status) (v : W64) : (s.adminDone p st v).que.qps = s.que.qps :=
  (adminSkip_qps ..).trans (adminEnd_qps ..)

/-- Where the commands that an admin queue holds are all of R429, none of them is passed over. -/
theorem adminSkip_of_known {s : State} {p : PlPort} (h : ∀ d ∈ (s.admin p).held, adminOpcodes.contains (descOpc d) = true) (f : Nat) :
    s.adminSkip p f = s := by
  cases f with
  | zero => rfl
  | succ f =>
    unfold State.adminSkip
    split
    next d rest hd =>
      have hknown := h d (hd ▸ List.mem_cons_self ..)
      exact if_neg (by rw [hknown]; simp)
    next => rfl

/-- The command at the head of a live device's admin queue is answered, once the queue pairs have been changed as its meaning says. -/
theorem live_adminDone {i : Instr} {s u : State} {f : State → State} {p : PlPort} {opc : BitVec 8} {d : Desc} {st : Status} {v : W64}
    (hi : exec i s = .next (s.quiet.whenLive f)) (hl : s.live = true) (hh : s.adminHead p opc = some d) (hu : Frame [.que] s.quiet u)
    (ha : u.admin p = s.admin p) (hf : f s.quiet = u.adminDone p st v) :
    ∃ t, exec i s = .next t ∧ adminAnswered t p d st v ∧ t.que.qps = u.que.qps ∧ Frame [.que] s t := by
  obtain ⟨rest, hheld⟩ := adminHead_spec hh
  obtain ⟨hx, hF⟩ := live_next_frame hi hl hf (hu.trans (adminDone_adds ..).1) (by decide)
  exact ⟨_, hx, adminDone_answered ((congrArg Admin.held ha).trans hheld) .., adminDone_qps .., hF⟩

/-- The command at the head of a live device's admin queue is answered, and that is all. -/
theorem live_adminAnswered {i : Instr} {s : State} {f : State → State} {p : PlPort} {opc : BitVec 8} {d : Desc} {st : Status} {v : W64}
    (hi : exec i s = .next (s.quiet.whenLive f)) (hl : s.live = true) (hh : s.adminHead p opc = some d)
    (hf : f s.quiet = s.quiet.adminDone p st v) : ∃ t, exec i s = .next t ∧ adminAnswered t p d st v ∧ Frame [.que] s t := by
  obtain ⟨t, hx, hans, -, hF⟩ := live_adminDone hi hl hh (Frame.rfl _) rfl hf
  exact ⟨t, hx, hans, hF⟩

end Sys2Proof.Machine

/-! PROOFS. Phosha Link's ports (R423, R424, R427): grants and takeover. -/

namespace Sys2Proof.Machine

/-! PLK_GRANT. -/

/-- A port's grants with one more (R427). -/
def State.addGrant (s : State) (port : BitVec 8) (g : Grant) : State :=
  { s with que := { s.que with grants := tput s.que.grants port.toNat (mget [] s.que.grants port.toNat ++ [g]) } }

theorem addGrant_grants (s : State) (port : BitVec 8) (g : Grant) :
    mget [] (s.addGrant port g).que.grants port.toNat = mget [] s.que.grants port.toNat ++ [g] :=
  congrArg (fun o => Option.getD o []) (tget_tput_same ..)

section
variable {s : State} {port : BitVec 8} (t : Tenant) (ep mask : Ep)

theorem plkGrant_of_other_port (h : 2 ≤ port.toNat) : plkGrant port t ep mask s = s.reply 0x30#8 7 [] := if_pos h

theorem plkGrant_of_full (hp : port.toNat < 2) (h : 64 ≤ (mget [] s.que.grants port.toNat).length) :
    plkGrant port t ep mask s = s.reply 0x30#8 6 [] := by
  simp only [plkGrant, if_neg (Nat.not_le.2 hp), if_pos h]

theorem plkGrant_of_room (hp : port.toNat < 2) (h : (mget [] s.que.grants port.toNat).length < 64) :
    plkGrant port t ep mask s = (s.addGrant port ⟨t, ep, mask⟩).reply 0x30#8 0 [] := by
  simp only [plkGrant, if_neg (Nat.not_le.2 hp), if_neg (Nat.not_le.2 h), State.addGrant]

end

/-- A command of a live device whose meaning is to change the queue engine and answer. -/
theorem live_queReply {i : Instr} {s : State} {f : State → State} {x : Que} {code : BitVec 8} {result : Nat} {bytes : List Byte}
    (hi : exec i s = .next (s.quiet.whenLive f)) (hl : s.live = true)
    (hf : f s.quiet = State.reply { s.quiet with que := x } code result bytes) :
    ∃ t, exec i s = .next t ∧ answered t code result bytes ∧ t.que = x ∧ Frame [.que, .sec] s t := by
  have hF : Frame [.que, .sec] s.quiet (State.reply { s.quiet with que := x } code result bytes) :=
    ((adds_que s.quiet x).1.mono (by simp)).trans ((reply_frame ..).mono (by simp))
  obtain ⟨hx, hF⟩ := live_next_frame hi hl hf hF (by decide)
  exact ⟨_, hx, reply_answered .., (reply_frame ..).2 .que (by decide), hF⟩

/-! PLK_TAKEOVER. -/

theorem plkTakeover_of_none {s : State} (h : s.que.takeover = none) :
    plkTakeover s = State.reply { s with que := { s.que with takeover := some (otherPort s.que.active, 0) } } 0x31#8 0 [] := by
  simp only [plkTakeover, h, Option.getD_none]

/-- A takeover that waits stays as it is. -/
theorem plkTakeover_of_some {s : State} {x : PlPort × Nat} (h : s.que.takeover = some x) : plkTakeover s = s.reply 0x31#8 0 [] := by
  simp only [plkTakeover, h, Option.getD_some]
  rw [← h]

/-! TAKEOVER_APPLY. -/

theorem takeoverApply_of_none {s : State} (h : s.que.takeover = none) : takeoverApply s = s := by simp only [takeoverApply, h]

theorem takeoverApply_of_same_tick {s : State} {p : PlPort} (h : s.que.takeover = some (p, 0)) : takeoverApply s = s := by
  simp only [takeoverApply, h, if_true]

/-- The entries of the queue pairs that a takeover by port p halts (R424). -/
def State.oldRunning (s : State) (p : PlPort) : SMap QPair :=
  s.que.qps.filter (fun q => q.2.cfg.port == otherPort p && (q.2.state == .active || q.2.state == .error))

/-- The number of a listed queue pair. -/
def entryQp (e : Nat × QPair) : Qp := ⟨e.1 % 4096, Nat.mod_lt _ (by decide)⟩

/-- The queue pairs of the old port are halted and port p is the active one. -/
def State.takenOver (s : State) (p : PlPort) : State :=
  ((s.oldRunning p).map entryQp).foldl State.haltQp { s with que := { s.que with active := p, takeover := none } }

theorem takeoverApply_of_due {s : State} {p : PlPort} {n : Nat} (h : s.que.takeover = some (p, n + 1)) :
    takeoverApply s = (s.takenOver p).raise (mkReport 0x06 0x02 1 unitQueue p.val (s.oldRunning p).length) := by
  simp only [takeoverApply, h, if_neg (Nat.succ_ne_zero n), State.takenOver, List.foldl_map]
  rfl

theorem takenOver_frame (s : State) (p : PlPort) : Frame [.que, .ras, .ctr, .serial, .audit] s (s.takenOver p) :=
  ((adds_que s _).1.mono (by simp)).trans (Frame.foldl haltQp_frame _ _)

theorem takenOver_que (s : State) (p : PlPort) : (s.takenOver p).que.active = p ∧ (s.takenOver p).que.takeover = none := by
  obtain ⟨m, hm⟩ := QpsAlone.foldl QpsAlone.haltQp ((s.oldRunning p).map entryQp)
    { s with que := { s.que with active := p, takeover := none } }
  rw [State.takenOver, hm]
  exact ⟨rfl, rfl⟩

theorem mem_oldRunning {s : State} {p : PlPort} {q : Qp} {x : QPair} (hq : s.qp q = some x) (hp : x.cfg.port = otherPort p)
    (hx : x.state = .active ∨ x.state = .error) : q ∈ (s.oldRunning p).map entryQp :=
  List.mem_map.2 ⟨(q.val, x), List.mem_filter.2 ⟨mem_of_tget hq, by simpa [hp] using hx⟩, Fin.ext (Nat.mod_eq_of_lt q.isLt)⟩

theorem takenOver_haltedAt {s : State} {p : PlPort} {q : Qp} {x : QPair} (hq : s.qp q = some x) (hp : x.cfg.port = otherPort p)
    (hx : x.state = .active ∨ x.state = .error) : (s.takenOver p).haltedAt q :=
  haltQps_haltedAt (s := { s with que := { s.que with active := p, takeover := none } }) hx hq (mem_oldRunning hq hp hx)

end Sys2Proof.Machine

/-! PROOFS. The admin queues and their commands on queue pairs (R428 to R432, R442, R446, R447). -/

namespace Sys2Proof.Machine

/-! ADMIN_QUEUE_ENABLE, ADMIN_DOORBELL. -/

theorem setAdminEnable_of_kept {s : State} {p : PlPort} {v : Bool} (h : v = false ∨ (s.admin p).enable = true) :
    s.setAdminEnable p v = s.setAdmin p { s.admin p with enable := v } := by
  refine if_neg ?_
  rcases h with h | h <;> simp [h]

theorem setAdminEnable_of_start {s : State} {p : PlPort} (h : (s.admin p).enable = false) :
    s.setAdminEnable p true =
      s.setAdmin p { s.admin p with enable := true, sqTail := 0, fetch := 0, cqHead := 0, cqNext := 0, phase := true } :=
  if_pos (by simp [h])

/-- A live device's change of one admin queue. -/
theorem live_setAdmin {i : Instr} {s : State} {f : State → State} {p : PlPort} {a : Admin} (hi : exec i s = .next (s.quiet.whenLive f))
    (hl : s.live = true) (hf : f s.quiet = s.quiet.setAdmin p a) : ∃ t, exec i s = .next t ∧ t.admin p = a ∧ Frame [.que] s t := by
  obtain ⟨hx, hF⟩ := live_next_frame hi hl hf (setAdmin_adds ..).1 (by decide)
  exact ⟨_, hx, setAdmin_admin_same .., hF⟩

/-! QP_CREATE. -/

theorem qpCreate_of_refused {s : State} {p : PlPort} {d : Desc} {st : Status} (hh : s.adminHead p 0x60#8 = some d)
    (hc : s.qpCreateCheck p d = some st) : qpCreate p s = s.adminDone p st 0#64 := by
  simp only [qpCreate, hh, hc]

theorem qpCreate_of_accepted {s : State} {p : PlPort} {d : Desc} (hh : s.adminHead p 0x60#8 = some d)
    (hc : s.qpCreateCheck p d = none) :
    qpCreate p s = (s.setQp (descQp d) (QPair.fresh (qpCfgOf p d))).adminDone p stOk 0#64 := by
  simp only [qpCreate, hh, hc]

/-! QP_DESTROY. -/

/-- The fields of a QP_DESTROY are in order. -/
def destroyClean (d : Desc) : Bool := descClean d [(16, 2)] && decide (descField d 16 2 < 4096)

/-- The model's test of a QP_DESTROY's fields refuses those that are not in order. -/
theorem destroyClean_eq_false {d : Desc} : destroyClean d = false ↔ (!descClean d [(16, 2)]) = true ∨ 4096 ≤ descField d 16 2 := by
  rw [destroyClean, Bool.and_eq_false_iff, decide_eq_false_iff_not, Nat.not_lt, Bool.not_eq_true']

theorem not_unclean_of_destroyClean {d : Desc} (hc : destroyClean d = true) :
    ¬ ((!descClean d [(16, 2)]) = true ∨ 4096 ≤ descField d 16 2) :=
  mt destroyClean_eq_false.2 (ne_false_of_eq_true hc)

/-- A QP_DESTROY's command joins those that wait for its queue pair to be FREE. -/
def State.awaitFree (s : State) (p : PlPort) (d : Desc) : State :=
  (s.modQp (descQp d) (fun y => { y with destroyers := y.destroyers ++ [(p, descCmd d, descIntr d)] })).adminBusy p

section
variable {s : State} {p : PlPort} {d : Desc} (hh : s.adminHead p 0x61#8 = some d)
include hh

theorem qpDestroy_of_unclean (hc : destroyClean d = false) : qpDestroy p s = s.adminDone p stBadDesc 0#64 := by
  simp only [qpDestroy, hh]
  exact if_pos (destroyClean_eq_false.1 hc)

theorem qpDestroy_of_unknown (hc : destroyClean d = true) (hq : s.qp (descQp d) = none) : qpDestroy p s = s.adminDone p stNoCmd 0#64 := by
  simp only [qpDestroy, hh, if_neg (not_unclean_of_destroyClean hc), hq]

theorem qpDestroy_of_known {x : QPair} (hc : destroyClean d = true) (hq : s.qp (descQp d) = some x) :
    qpDestroy p s = (s.drainQp (descQp d)).awaitFree p d := by
  simp only [qpDestroy, hh, if_neg (not_unclean_of_destroyClean hc), hq, State.awaitFree]

end

/-- Where no held descriptor that is not done is selected, an abort aborts nothing. -/
theorem abortQp_of_none_hit {s : State} {q : Qp} {x : QPair} {sel : Desc → Bool} (hq : s.qp q = some x)
    (h : ∀ e ∈ x.held, sel e.2.desc = true → e.2.done = true) : s.abortQp q sel = (0, s) := by
  have hhit : x.held.filter (fun e => sel e.2.desc && !e.2.done) = [] := by
    refine List.filter_eq_nil_iff.2 fun e he => ?_
    cases hs : sel e.2.desc
    · simp
    · simp [h e he hs]
  simp only [State.abortQp, hq, hhit]
  rfl

/-- A queue pair that begins to drain (R432). -/
def QPair.drained (x : QPair) : QPair := { x with state := .draining, dropRecords := x.state == .halted }

theorem drainQp_of_unheld {s : State} {q : Qp} {x : QPair} (hq : s.qp q = some x) (hh : x.held = []) (hx : x.state ≠ .draining) :
    (s.drainQp q).qp q = some x.drained ∧ Frame [.que] s (s.drainQp q) := by
  have habort : s.abortQp q (fun _ => true) = (0, s) := abortQp_of_none_hit hq (by simp [hh])
  simp only [State.drainQp, hq, if_neg hx, habort]
  refine ⟨?_, (modQp_adds ..).1⟩
  rw [modQp_qp_same, hq]
  rfl

theorem awaitFree_frame (s : State) (p : PlPort) (d : Desc) : Frame [.que] s (s.awaitFree p d) :=
  ((modQp_adds ..).trans (adminBusy_adds ..)).1

theorem awaitFree_busy (s : State) (p : PlPort) (d : Desc) : ((s.awaitFree p d).admin p).busy = true :=
  congrArg Admin.busy (adminBusy_admin ..)

theorem awaitFree_qp {s : State} {d : Desc} {x : QPair} (hq : s.qp (descQp d) = some x) (p : PlPort) :
    (s.awaitFree p d).qp (descQp d) = some { x with destroyers := x.destroyers ++ [(p, descCmd d, descIntr d)] } := by
  have hmod := modQp_qp_same s (descQp d) (fun y => { y with destroyers := y.destroyers ++ [(p, descCmd d, descIntr d)] })
  rw [hq] at hmod
  exact hmod

/-! QP_FREE. -/

/-- Nothing of a DRAINING queue pair is left, nor does a verdict of it wait (R432). -/
def State.freeable (s : State) (q : Qp) (x : QPair) : Prop :=
  x.state = .draining ∧ x.held = [] ∧ x.recs = [] ∧ x.unacked = 0 ∧ s.ras.verdicts.any (fun v => v.2.qp == q) = false

/-- A queue pair is gone. -/
def State.dropQp (s : State) (q : Qp) : State := { s with que := { s.que with qps := tdel s.que.qps q.val } }

theorem dropQp_adds (s : State) (q : Qp) : Adds [.que] s (s.dropQp q) := adds_que s _

/-- The commands that wait for a queue pair to be FREE complete. -/
def State.answerDestroyers (s : State) (l : List (PlPort × BitVec 16 × Bool)) : State :=
  l.foldl (fun st d => st.adminDone d.1 stOk 0#64) s

theorem answerDestroyers_adds (s : State) (l : List (PlPort × BitVec 16 × Bool)) : Adds [.que] s (s.answerDestroyers l) :=
  Adds.foldl (fun _ _ => adminDone_adds ..) l s

theorem answerDestroyers_qps (s : State) (l : List (PlPort × BitVec 16 × Bool)) : (s.answerDestroyers l).que.qps = s.que.qps := by
  induction l generalizing s with
  | nil => rfl
  | cons d l ih => exact (ih _).trans (adminDone_qps ..)

section
variable {s : State} {q : Qp} {x : QPair} (hq : s.qp q = some x)
include hq

theorem qpFree_of_not_freeable (h : ¬ s.freeable q x) : qpFree q s = s := by
  simp only [qpFree, hq]
  refine if_pos ?_
  by_contra hn
  simp only [not_or, not_not, Bool.not_eq_true, Bool.not_eq_false', List.isEmpty_iff] at hn
  exact h hn

theorem qpFree_of_freeable (h : s.freeable q x) : qpFree q s = (s.dropQp q).answerDestroyers x.destroyers := by
  obtain ⟨hstate, hheld, hrecs, hacked, hverdicts⟩ := h
  simp only [qpFree, hq]
  refine (if_neg ?_).trans rfl
  simp [hstate, hheld, hrecs, hacked, hverdicts]

end

/-! ABORT. -/

/-- The fields of an ABORT are in order. -/
def abortClean (d : Desc) : Bool :=
  descClean d [(16, 2), (18, 2), (20, 1)] && decide (descField d 16 2 < 4096) && decide (descField d 20 1 ≤ 1)

theorem abortClean_eq_false {d : Desc} : abortClean d = false ↔
    (!descClean d [(16, 2), (18, 2), (20, 1)]) = true ∨ 4096 ≤ descField d 16 2 ∨ 1 < descField d 20 1 := by
  rw [abortClean, Bool.and_eq_false_iff, Bool.and_eq_false_iff, decide_eq_false_iff_not, decide_eq_false_iff_not, Nat.not_lt, Nat.not_le,
    Bool.not_eq_true', or_assoc]

theorem not_unclean_of_abortClean {d : Desc} (hc : abortClean d = true) :
    ¬ ((!descClean d [(16, 2), (18, 2), (20, 1)]) = true ∨ 4096 ≤ descField d 16 2 ∨ 1 < descField d 20 1) :=
  mt abortClean_eq_false.2 (ne_false_of_eq_true hc)

/-- The descriptors that an ABORT selects: all, or those of its CMD_ID. -/
def abortSel (d y : Desc) : Bool := d.getLsbD 160 || descField y 2 2 == descField d 18 2

/-- The status of an ABORT that aborted k of a queue pair's descriptors (R447). -/
def abortStatus (x : QPair) (d : Desc) (k : Nat) : Status :=
  if 0 < k then stOk else if x.held.any (fun e => abortSel d e.2.desc) then stAlreadyDone else stNoCmd

section
variable {s : State} {p : PlPort} {d : Desc} (hh : s.adminHead p 0x51#8 = some d)
include hh

theorem abort_of_unclean (hc : abortClean d = false) : abort p s = s.adminDone p stBadDesc 0#64 := by
  simp only [abort, hh]
  exact if_pos (abortClean_eq_false.1 hc)

variable (hc : abortClean d = true)
include hc

theorem abort_of_unknown (hq : s.qp (descQp d) = none) : abort p s = s.adminDone p stNoCmd 0#64 := by
  simp only [abort, hh, if_neg (not_unclean_of_abortClean hc), hq]

variable {x : QPair} (hq : s.qp (descQp d) = some x)
include hq

theorem abort_of_unfetched (hf : s.fetchedAll x = false) : abort p s = s := by
  simp only [abort, hh, if_neg (not_unclean_of_abortClean hc), hq, hf, Bool.not_false, if_true]

theorem abort_of_fetched (hf : s.fetchedAll x = true) {k : Nat} {u : State} (ha : s.abortQp (descQp d) (abortSel d) = (k, u)) :
    abort p s = u.adminDone p (abortStatus x d k) (BitVec.ofNat 64 k) := by
  have ha' : s.abortQp (descQp d) (fun y => d.getLsbD 160 || descField y 2 2 == descField d 18 2) = (k, u) := ha
  simp only [abort, hh, if_neg (not_unclean_of_abortClean hc), hq, hf, Bool.not_true, Bool.false_eq_true, if_false, ha']
  rfl

/-- An ABORT that finds nothing to abort says whether what it names is done or is not there. -/
theorem abort_of_none_hit (hf : s.fetchedAll x = true) (h : ∀ e ∈ x.held, abortSel d e.2.desc = true → e.2.done = true) :
    abort p s = s.adminDone p (if x.held.any (fun e => abortSel d e.2.desc) then stAlreadyDone else stNoCmd) 0#64 :=
  abort_of_fetched hh hc hq hf (abortQp_of_none_hit hq h)

end

theorem abortQp_count {s u : State} {q : Qp} {x : QPair} {sel : Desc → Bool} {k : Nat} (hq : s.qp q = some x)
    (h : s.abortQp q sel = (k, u)) : k = (x.held.filter (fun e => sel e.2.desc && !e.2.done)).length := by
  simp only [State.abortQp, hq, Prod.mk.injEq] at h
  exact h.1.symm

end Sys2Proof.Machine

namespace Sys2Proof.Machine

/-- Settles O48: the commands answer at once or change their queue pair first; a takeover halts the running queue pairs of the old port one
after another (`haltQps_haltedAt`). That ENABLE written 1 to a running admin queue changes nothing, and that ABORT waits until its queue pair has
fetched what it may, are the model's choices (log entries 160 and 56), as is that a takeover asked for while one waits changes nothing. -/
theorem adminCommandsRun : Obligations.AdminCommandsRun := by
  unfold Obligations.AdminCommandsRun
  refine ⟨?grant, ?takeover, ?admin, ?noCommand, ?create, ?destroy, ?free, ?abort⟩
  case grant =>
    intro port a ep mask s hl
    refine ⟨fun h => ?_, fun hp h => ?_, fun hp h => ?_⟩
    · exact live_reply (i := .plkGrant port a ep mask) rfl hl (plkGrant_of_other_port (s := s.quiet) a ep mask h)
    · exact live_reply (i := .plkGrant port a ep mask) rfl hl (plkGrant_of_full (s := s.quiet) a ep mask hp h)
    · obtain ⟨t, hx, hans, hque, hF⟩ := live_queReply (i := .plkGrant port a ep mask) rfl hl
        (plkGrant_of_room (s := s.quiet) a ep mask hp h)
      exact ⟨t, hx, hans, by rw [hque]; exact addGrant_grants s port ⟨a, ep, mask⟩, hF⟩
  case takeover =>
    intro s hl
    refine ⟨fun h => ?_, fun h => ?_, fun h => ?_, fun p h => ?_, fun p n h => ?_⟩
    · exact live_queReply (i := .plkTakeover) rfl hl (plkTakeover_of_none (s := s.quiet) h)
    · obtain ⟨x, hx⟩ := Option.ne_none_iff_exists'.1 h
      exact live_reply (i := .plkTakeover) rfl hl (plkTakeover_of_some (s := s.quiet) hx)
    · exact live_idles (c := .takeoverApply) rfl hl (takeoverApply_of_none (s := s.quiet) h)
    · exact live_idles (c := .takeoverApply) rfl hl (takeoverApply_of_same_tick (s := s.quiet) h)
    · have hraise := raise_adds (s.quiet.takenOver p) (mkReport 0x06 0x02 1 unitQueue p.val (s.quiet.oldRunning p).length)
      obtain ⟨hx, hF⟩ := live_next_frame (i := .takeoverApply) rfl hl (takeoverApply_of_due (s := s.quiet) h)
        ((takenOver_frame ..).trans (hraise.1.mono (by simp))) (by decide)
      have hque := hraise.same .que (by decide)
      obtain ⟨hactive, htakeover⟩ := takenOver_que s.quiet p
      refine ⟨_, hx, (congrArg Que.active hque).trans hactive, (congrArg Que.takeover hque).trans htakeover, fun q x hq hp hrun => ?_,
        reported_raise .., hF.mono (by simp)⟩
      exact (takenOver_haltedAt (s := s.quiet) hq hp hrun).of_qp (qp_of_que hque q)
  case admin =>
    intro p s hl
    refine ⟨fun v h => ?_, fun h => ?_, fun v h => ?_, fun v h => ?_⟩
    · exact live_setAdmin (i := .adminQueueEnable p v) rfl hl (setAdminEnable_of_kept (s := s.quiet) h)
    · exact live_setAdmin (i := .adminQueueEnable p true) rfl hl (setAdminEnable_of_start (s := s.quiet) h)
    · exact live_setAdmin (i := .adminDoorbell p v) rfl hl (if_pos h)
    · have hbad : adminDoorbell p v s.quiet = s.quiet.tally (ctrQue 3 0) := if_neg (ne_true_of_eq_false h)
      obtain ⟨hx, hF⟩ := live_next_frame (i := .adminDoorbell p v) rfl hl hbad (tally_frame ..) (by decide)
      exact ⟨_, hx, fun hlt => (bump_counter (s := s.quiet) hlt 1).trans (Nat.min_eq_right hlt), hF.mono (by simp)⟩
  case noCommand =>
    intro p s hl
    refine ⟨fun h => ?_, fun h => ?_, fun h => ?_⟩
    · exact live_idles (c := .qpCreate p) rfl hl (by simp only [qpCreate, show s.quiet.adminHead p 0x60#8 = none from h])
    · exact live_idles (c := .qpDestroy p) rfl hl (by simp only [qpDestroy, show s.quiet.adminHead p 0x61#8 = none from h])
    · exact live_idles (c := .abort p) rfl hl (by simp only [abort, show s.quiet.adminHead p 0x51#8 = none from h])
  case create =>
    intro p d s hl hh
    refine ⟨fun st hc => ?_, fun hc => ?_⟩
    · exact live_adminDone (i := .qpCreate p) (u := s.quiet) rfl hl hh (Frame.rfl _) rfl (qpCreate_of_refused (s := s.quiet) hh hc)
    · obtain ⟨t, hx, hans, hqps, hF⟩ := live_adminDone (i := .qpCreate p) rfl hl hh (setQp_adds ..).1 rfl
        (qpCreate_of_accepted (s := s.quiet) hh hc)
      exact ⟨t, hx, hans, (congrArg (fun m => tget m _) hqps).trans (setQp_qp_same ..), hF⟩
  case destroy =>
    intro p d s hl hh
    refine ⟨fun hc => ?_, fun hc hq => ?_, fun x hc hq => ?_⟩
    · exact live_adminAnswered (i := .qpDestroy p) rfl hl hh (qpDestroy_of_unclean (s := s.quiet) hh hc)
    · exact live_adminAnswered (i := .qpDestroy p) rfl hl hh (qpDestroy_of_unknown (s := s.quiet) hh hc hq)
    · have hdest := qpDestroy_of_known (s := s.quiet) hh hc hq
      refine ⟨⟨_, live_next (i := .qpDestroy p) rfl hl hdest, rfl⟩, fun hheld hdrain => ?_⟩
      obtain ⟨hqp, hdr⟩ := drainQp_of_unheld (s := s.quiet) hq hheld hdrain
      obtain ⟨hx, hF⟩ := live_next_frame (i := .qpDestroy p) rfl hl hdest (hdr.trans (awaitFree_frame ..)) (by decide)
      exact ⟨_, hx, awaitFree_busy .., awaitFree_qp hqp p, hF⟩
  case free =>
    intro q x s hl hq
    refine ⟨fun h => ?_, fun hstate hheld hrecs hacked hverdicts => ?_⟩
    · refine live_idles (c := .qpFree q) rfl hl (qpFree_of_not_freeable (s := s.quiet) hq ?_)
      rintro ⟨hstate, hheld, hrecs, hacked, hverdicts⟩
      rcases h with h | h | h | h | h
      · exact h hstate
      · exact h hheld
      · exact h hrecs
      · exact h hacked
      · exact ne_true_of_eq_false hverdicts h
    · have hfree := qpFree_of_freeable (s := s.quiet) hq ⟨hstate, hheld, hrecs, hacked, hverdicts⟩
      obtain ⟨hx, hF⟩ := live_next_frame (i := .qpFree q) rfl hl hfree ((dropQp_adds ..).trans (answerDestroyers_adds ..)).1 (by decide)
      refine ⟨_, hx, (congrArg (fun m => tget m _) (answerDestroyers_qps ..)).trans (tget_tdel_same ..), hF, ?_⟩
      intro p c i d rest hone hhead
      rw [hone]
      exact adminDone_answered (s := s.quiet.dropQp q) hhead stOk 0#64
  case abort =>
    intro p d s hl hh
    refine ⟨fun hc => ?_, fun hc hq => ?_, fun x hc hq => ⟨fun hf => ?_, fun hf => ⟨fun k u hu => ?_, fun hnone => ?_, fun hsome hdone => ?_⟩⟩⟩
    · exact live_adminAnswered (i := .abort p) rfl hl hh (abort_of_unclean (s := s.quiet) hh hc)
    · exact live_adminAnswered (i := .abort p) rfl hl hh (abort_of_unknown (s := s.quiet) hh hc hq)
    · exact live_idles (c := .abort p) rfl hl (abort_of_unfetched (s := s.quiet) hh hc hq hf)
    · exact ⟨_, live_next (i := .abort p) rfl hl (abort_of_fetched (s := s.quiet) hh hc hq hf hu), abortQp_count (s := s.quiet) hq hu, rfl⟩
    · have hno : ∀ e ∈ x.held, abortSel d e.2.desc = true → e.2.done = true := fun e he hs => absurd hs (ne_true_of_eq_false (hnone e he))
      have hany : x.held.any (fun e => abortSel d e.2.desc) = false := List.any_eq_false.2 fun e he => ne_true_of_eq_false (hnone e he)
      refine live_adminAnswered (i := .abort p) rfl hl hh ((abort_of_none_hit (s := s.quiet) hh hc hq hf hno).trans ?_)
      rw [hany]
      rfl
    · have hany : x.held.any (fun e => abortSel d e.2.desc) = true := List.any_eq_true.2 hsome
      refine live_adminAnswered (i := .abort p) rfl hl hh ((abort_of_none_hit (s := s.quiet) hh hc hq hf hdone).trans ?_)
      rw [hany]
      rfl

end Sys2Proof.Machine

/-! PROOFS. FENCE, and the fetch of descriptors (R428, R434, R445, R448). -/

namespace Sys2Proof.Machine

/-! FENCE. -/

/-- The fields of a FENCE are in order. -/
def fenceClean (d : Desc) : Bool := descClean d [(16, 1)] && decide (descField d 16 1 ≤ 1)

theorem fenceClean_eq_false {d : Desc} : fenceClean d = false ↔ (!descClean d [(16, 1)]) = true ∨ 1 < descField d 16 1 := by
  rw [fenceClean, Bool.and_eq_false_iff, decide_eq_false_iff_not, Nat.not_le, Bool.not_eq_true']

/-- An earlier descriptor is still held, or a verdict is awaited that the FENCE waits for (R445). -/
def State.fenceWaits (s : State) (q : Qp) (h : Nat) (x : QPair) (d : Desc) : Prop :=
  x.held.any (fun e => decide (e.1 < h)) = true ∨ (d.getLsbD 128 = true ∧ s.ras.verdicts.any (fun v => v.2.qp == q) = true)

section
variable {s : State} {q : Qp} {h : Nat} {x : QPair} {d : Held} (hn : s.nextIs q h 0x50#8 = some (x, d))
include hn

theorem fence_of_unclean (hc : fenceClean d.desc = false) : fence q h s = s.endDesc q h stBadDesc 0#64 := by
  simp only [fence, hn]
  exact if_pos (fenceClean_eq_false.1 hc)

variable (hc : fenceClean d.desc = true)
include hc

theorem fence_of_waits (hw : s.fenceWaits q h x d.desc) : fence q h s = s := by
  simp only [fence, hn, if_neg (mt fenceClean_eq_false.2 (ne_false_of_eq_true hc))]
  exact if_pos hw

theorem fence_of_free (hw : ¬ s.fenceWaits q h x d.desc) :
    fence q h s = (s.newOp q h x d).2.completeOp s.que.nextOp stOk 0#64 0#16 := by
  simp only [fence, hn, if_neg (mt fenceClean_eq_false.2 (ne_false_of_eq_true hc))]
  exact if_neg hw

end

/-! A queue pair's fetch. -/

/-- The fetch arbiter's grant is spent (log entry 145). -/
def State.fetchSpent (s : State) : State := s.setArbiter .fetch { s.arbiter .fetch with granted := none }

theorem fetchSpent_adds (s : State) : Adds [.arb] s s.fetchSpent := adds_arb s _

theorem fetchSpent_granted (s : State) : (s.fetchSpent.arbiter .fetch).granted = none := congrArg Arbiter.granted (setArbiter_arbiter ..)

theorem fetchQp_of_ungranted {s : State} {q : Qp} (h : (s.arbiter .fetch).granted ≠ some q.val) (r : RingRead) : s.fetchQp q r = s := if_pos h

theorem fetchQp_of_granted {s : State} {q : Qp} (h : (s.arbiter .fetch).granted = some q.val) (r : RingRead) :
    s.fetchQp q r = s.fetchSpent.fetchGranted q r := if_neg (not_not.2 h)

/-- A queue pair may fetch its next descriptor (R434, R448). -/
def State.mayFetch (s : State) (x : QPair) : Prop :=
  s.plt.phase = .ready ∧ x.state = .active ∧ x.fetch ≠ x.sqTail ∧ x.held.length < x.cfg.maxInflight ∧ s.storeHeld < storeSlots ∧
    s.tenantGone x.cfg.tenant = false

theorem not_mayFetch_iff {s : State} {x : QPair} : ¬ s.mayFetch x ↔
    s.plt.phase ≠ .ready ∨ x.state ≠ .active ∨ x.fetch = x.sqTail ∨ x.cfg.maxInflight ≤ x.held.length ∨ storeSlots ≤ s.storeHeld ∨
      s.tenantGone x.cfg.tenant = true := by
  simp only [State.mayFetch, not_and_or, Decidable.not_not, Nat.not_lt, Bool.not_eq_false, ne_eq]

/-- The address of the descriptor that a queue pair fetches next. -/
def QPair.fetchAddr (x : QPair) : Nat := x.cfg.sqAddr.toNat + 64 * x.fetch

/-- What a read of a ring in host memory returned is taken (R434). -/
def State.ringReturned (s : State) (q : Qp) (x : QPair) : RingRead → State
  | .data d => s.takeDesc q x d
  | .poison => s.qpError q 3
  | .hostErr => (s.raise (mkReport 0x06 0x04 0 unitQueue q.val x.fetchAddr)).qpError q 3

section
variable {s : State} {q : Qp} {x : QPair} (hq : s.qp q = some x) (r : RingRead)
include hq

theorem fetchGranted_of_not_may (h : ¬ s.mayFetch x) : s.fetchGranted q r = s := by
  simp only [State.fetchGranted, hq]
  exact if_pos (not_mayFetch_iff.1 h)

variable (h : s.mayFetch x)
include h

theorem fetchGranted_host {s1 : State} {ok : Bool} (hp : x.cfg.ringPool = false)
    (ht : s.xltSet none x.cfg.asid [x.fetchAddr] false (.ring q) = (ok, s1)) :
    s.fetchGranted q r = if ok then s1.ringReturned q x r else s1 := by
  have ht' : s.xltSet none x.cfg.asid [x.cfg.sqAddr.toNat + 64 * x.fetch] false (.ring q) = (ok, s1) := ht
  simp only [State.fetchGranted, hq, if_neg (mt not_mayFetch_iff.2 (not_not.2 h)), hp, Bool.false_eq_true, if_false, ht']
  cases ok
  · rfl
  · cases r <;> rfl

theorem fetchGranted_pool_busy (hp : x.cfg.ringPool = true)
    (hb : s.poolBusy (accRead x.cfg.ep (s.authOf x)) (BitVec.ofNat 64 x.fetchAddr) 64 = true) : s.fetchGranted q r = s := by
  simp only [State.fetchGranted, hq, if_neg (mt not_mayFetch_iff.2 (not_not.2 h)), hp, if_true]
  exact if_pos hb

variable (hp : x.cfg.ringPool = true)
  (hb : s.poolBusy (accRead x.cfg.ep (s.authOf x)) (BitVec.ofNat 64 x.fetchAddr) 64 = false)
include hp hb

theorem fetchGranted_pool_refused {s1 : State} {st : Status}
    (hr : s.readPool (accRead x.cfg.ep (s.authOf x)) x.cfg.tenant (BitVec.ofNat 64 x.fetchAddr) 64 (ringIo x.fetchAddr r) =
      (.error st, s1)) : s.fetchGranted q r = s1.qpError q 2 := by
  simp only [QPair.fetchAddr] at hb hr
  simp only [State.fetchGranted, hq, if_neg (mt not_mayFetch_iff.2 (not_not.2 h)), hp, if_true, hb, Bool.false_eq_true, if_false, hr]

theorem fetchGranted_pool_read {s1 : State} {bs : List Byte} {bad : List Bool}
    (hr : s.readPool (accRead x.cfg.ep (s.authOf x)) x.cfg.tenant (BitVec.ofNat 64 x.fetchAddr) 64 (ringIo x.fetchAddr r) =
      (.ok (bs, bad), s1)) :
    s.fetchGranted q r = if bad.any id then s1.qpError q 3 else s1.takeDesc q x (BitVec.ofNat 512 (leNat bs)) := by
  simp only [QPair.fetchAddr] at hb hr
  simp only [State.fetchGranted, hq, if_neg (mt not_mayFetch_iff.2 (not_not.2 h)), hp, if_true, hb, Bool.false_eq_true, if_false, hr]

end

/-- The queue pair once it holds the descriptor that it has fetched. -/
def QPair.took (x : QPair) (d : Desc) : QPair :=
  { x with held := tput x.held x.nextHeld ⟨d, x.fetch, none, false⟩, nextHeld := x.nextHeld + 1, fetch := (x.fetch + 1) % x.sqSize }

/-- A descriptor of R142 goes into the store and is counted (R448). -/
theorem takeDesc_of_known {d : Desc} (h : queueOpcodes.contains (descOpc d) = true) (s : State) (q : Qp) (x : QPair) :
    s.takeDesc q x d = ((s.setQp q (x.took d)).ledger 4 1).tally (ctrQue 0 0) := if_pos h

theorem takeDesc_spec {d : Desc} (h : queueOpcodes.contains (descOpc d) = true) (s : State) (q : Qp) (x : QPair) :
    (s.takeDesc q x d).qp q = some (x.took d) ∧ Frame [.que, .audit, .ctr, .ras, .serial] s (s.takeDesc q x d) := by
  rw [takeDesc_of_known h]
  exact ⟨(tally_qp ..).trans (setQp_qp_same ..),
    ((setQp_adds ..).1.mono (by simp)).trans (((ledger_frame ..).mono (by simp)).trans ((tally_frame ..).mono (by simp)))⟩

/-! An admin queue's fetch. -/

/-- A port's admin queue may fetch its next command (R428). -/
def State.mayFetchAdmin (s : State) (p : PlPort) : Prop :=
  s.plt.phase = .ready ∧ (s.admin p).enable = true ∧ p = s.que.active ∧ (s.admin p).fetch ≠ (s.admin p).sqTail ∧
    (s.admin p).held.length < 4

theorem not_mayFetchAdmin_iff {s : State} {p : PlPort} : ¬ s.mayFetchAdmin p ↔
    s.plt.phase ≠ .ready ∨ (!(s.admin p).enable) = true ∨ p ≠ s.que.active ∨ (s.admin p).fetch = (s.admin p).sqTail ∨
      4 ≤ (s.admin p).held.length := by
  simp only [State.mayFetchAdmin, not_and_or, Decidable.not_not, Nat.not_lt, Bool.not_eq_true, Bool.not_eq_true', ne_eq]

/-- An admin queue once it holds the command that it has fetched. -/
def Admin.took (a : Admin) (d : Desc) : Admin := { a with held := a.held ++ [d], fetch := (a.fetch + 1) % 2 ^ a.sqLog.toNat }

/-- What a read of an admin queue's ring returned is taken. -/
def State.adminReturned (s : State) (p : PlPort) : RingRead → State
  | .data d => ((s.setAdmin p ((s.admin p).took d)).tally (ctrQue 0 0)).adminSkip p 4
  | .poison => s
  | .hostErr => s.raise (mkReport 0x06 0x04 0 unitQueue 0xFFFF ((s.admin p).sqAddr.toNat + 64 * (s.admin p).fetch))

section
variable {s : State} {p : PlPort}

theorem fetchAdmin_of_not_may (h : ¬ s.mayFetchAdmin p) (r : RingRead) : s.fetchAdmin p r = s := if_pos (not_mayFetchAdmin_iff.1 h)

theorem fetchAdmin_of_may (h : s.mayFetchAdmin p) (r : RingRead) : s.fetchAdmin p r = s.adminReturned p r := by
  refine (if_neg (mt not_mayFetchAdmin_iff.2 (not_not.2 h))).trans ?_
  cases r <;> rfl

end

theorem admin_of_que {s t : State} (h : t.que = s.que) (p : PlPort) : t.admin p = s.admin p :=
  congrArg (fun x : Que => mget Admin.reset x.admin p.val) h

theorem tally_admin (s : State) (off : Nat) (p : PlPort) : (s.tally off).admin p = s.admin p :=
  admin_of_que ((tally_adds s off).same .que (by decide)) p

/-- A command of R429 joins those that the admin queue holds. -/
theorem fetchAdmin_data_of_known {s : State} {p : PlPort} {d : Desc} (h : s.mayFetchAdmin p)
    (hd : ∀ e ∈ (s.admin p).held ++ [d], adminOpcodes.contains (descOpc e) = true) :
    s.fetchAdmin p (.data d) = (s.setAdmin p ((s.admin p).took d)).tally (ctrQue 0 0) := by
  have hadmin : ((s.setAdmin p ((s.admin p).took d)).tally (ctrQue 0 0)).admin p = (s.admin p).took d :=
    (tally_admin ..).trans (setAdmin_admin_same ..)
  rw [fetchAdmin_of_may h]
  exact adminSkip_of_known (by rw [hadmin]; exact hd) 4

end Sys2Proof.Machine

/-! PROOFS. Records are written (R435 to R438, R443, R448): positions, slots and interrupts. -/

namespace Sys2Proof.Machine

/-! A queue pair's record. -/

/-- A queue pair x whose oldest record r has been written, its other records waiting, and its interrupts apart: the position and phase have
moved on and the slot of r's descriptor is free (R437, R448). -/
structure RecordGone (x : QPair) (r : Rec) (rest : List Rec) (y : QPair) : Prop where
  recs : y.recs = rest
  cqNext : y.cqNext = (x.cqNext + 1) % x.cqSize
  phase : y.phase = (x.phase != decide (x.cqNext + 1 = x.cqSize))
  unacked : y.unacked = x.unacked
  freed : ∀ h, r.held = some h → tget y.held h = none

/-- The queue pair x when its record r is taken from those that wait. -/
def QPair.recTaken (x : QPair) (rest : List Rec) : QPair :=
  { x with recs := rest, cqNext := (x.cqNext + 1) % x.cqSize, phase := x.phase != decide (x.cqNext + 1 = x.cqSize) }

/-- A slot is freed: it holds nothing afterwards, and nothing else of the queue pair changes. -/
theorem freeHeld_qp {s : State} {q : Qp} {x : QPair} (hq : s.qp q = some x) (h : Nat) :
    ∃ m, (s.freeHeld q h).qp q = some { x with held := m } ∧ tget m h = none := by
  by_cases hh : (tget x.held h).isSome = true
  · simp only [State.freeHeld, hq, hh, if_true]
    exact ⟨_, setQp_qp_same .., tget_tdel_same ..⟩
  · simp only [State.freeHeld, hq, if_neg hh]
    exact ⟨x.held, rfl, by simpa using hh⟩

section
variable {s : State} {q : Qp} {x : QPair} {r : Rec} {rest : List Rec} (hq : s.qp q = some x) (hr : x.recs = r :: rest)
include hq hr

theorem skipRecord_of_kept (h : r.held = none) : s.skipRecord q = s.setQp q (x.recTaken rest) := by
  simp only [State.skipRecord, hq, hr, h]
  rfl

theorem skipRecord_of_held {h : Nat} (hh : r.held = some h) : s.skipRecord q = (s.setQp q (x.recTaken rest)).freeHeld q h := by
  simp only [State.skipRecord, hq, hr, hh]
  rfl

theorem skipRecord_spec : (∃ y, (s.skipRecord q).qp q = some y ∧ RecordGone x r rest y) ∧ Frame [.que, .audit] s (s.skipRecord q) := by
  have hset := (setQp_adds s q (x.recTaken rest)).1.mono (qs := [.que, .audit]) (by simp)
  cases hh : r.held with
  | none =>
    rw [skipRecord_of_kept hq hr hh]
    exact ⟨⟨_, setQp_qp_same .., rfl, rfl, rfl, rfl, by simp [hh]⟩, hset⟩
  | some h =>
    obtain ⟨m, hm, hfree⟩ := freeHeld_qp (setQp_qp_same s q (x.recTaken rest)) h
    rw [skipRecord_of_held hq hr hh]
    exact ⟨⟨_, hm, rfl, rfl, rfl, rfl, fun k hk => by rwa [← Option.some.inj (hh.symm.trans hk)]⟩, hset.trans (freeHeld_frame ..)⟩

/-- The record at the head of those that wait counts as written, and for its queue pair's interrupts (R443). -/
theorem countRec_spec (now : Bool) : (∃ y, ((s.recWritten q).countRec q now).qp q = some y ∧ RecordGone x r rest y) ∧
    Frame [.que, .audit, .ctr, .ras, .serial] s ((s.recWritten q).countRec q now) := by
  obtain ⟨⟨y, hy, hgone⟩, hF⟩ := skipRecord_spec hq hr
  have hwritten : (s.recWritten q).qp q = some y := (tally_qp ..).trans hy
  refine ⟨⟨_, (modQp_qp_same ..).trans (congrArg _ hwritten), hgone.recs, hgone.cqNext, hgone.phase, hgone.unacked, hgone.freed⟩, ?_⟩
  exact ((hF.mono (by simp)).trans ((tally_frame ..).mono (by simp))).trans ((modQp_adds ..).1.mono (by simp))

end

/-- The address of the completion ring's next entry. -/
def QPair.recAddr (x : QPair) : Nat := x.cfg.cqAddr.toNat + 32 * x.cqNext

/-- A record has gone to a ring in host memory, and its write is not acknowledged yet (R438). -/
def State.recSent (s : State) (q : Qp) (now : Bool) : State :=
  ((s.recWritten q).countRec q now).modQp q (fun y => { y with unacked := y.unacked + 1 })

theorem recSent_spec {s : State} {q : Qp} {x : QPair} {r : Rec} {rest : List Rec} (hq : s.qp q = some x) (hr : x.recs = r :: rest)
    (now : Bool) : (∃ y, (s.recSent q now).qp q = some { y with unacked := x.unacked + 1 } ∧ RecordGone x r rest y) ∧
      Frame [.que, .audit, .ctr, .ras, .serial] s (s.recSent q now) := by
  obtain ⟨⟨y, hy, hgone⟩, hF⟩ := countRec_spec hq hr now
  refine ⟨⟨y, ?_, hgone⟩, hF.trans ((modQp_adds ..).1.mono (by simp))⟩
  rw [State.recSent, modQp_qp_same, hy, ← hgone.unacked]
  rfl

section
variable {s : State} {q : Qp} {x : QPair} (hq : s.qp q = some x)
include hq

theorem writeRec_of_none_or_full (h : x.recs = [] ∨ (x.cqNext + 1) % x.cqSize = x.cqHead) : s.writeRec q = s := by
  cases hr : x.recs with
  | nil => simp only [State.writeRec, hq, hr]
  | cons r rest =>
    simp only [State.writeRec, hq, hr]
    exact if_pos (h.resolve_left (by simp [hr]))

variable {r : Rec} {rest : List Rec} (hr : x.recs = r :: rest) (hroom : (x.cqNext + 1) % x.cqSize ≠ x.cqHead)
include hr hroom

theorem writeRec_host_missed {s1 : State} (hp : x.cfg.ringPool = false)
    (ht : s.xltSet none x.cfg.asid [x.recAddr] true (.record q) = (false, s1)) : s.writeRec q = s1 := by
  simp only [QPair.recAddr] at ht
  simp only [State.writeRec, hq, hr, if_neg hroom, hp, Bool.false_eq_true, if_false, ht, Bool.not_false, if_true]

theorem writeRec_host_sent {s1 : State} {pa : Nat} (hp : x.cfg.ringPool = false)
    (ht : s.xltSet none x.cfg.asid [x.recAddr] true (.record q) = (true, s1)) (hpa : s1.xltNow none x.cfg.asid x.recAddr true = some pa) :
    s.writeRec q = (s1.recSent q (x.intrNow r)).issueVa x.cfg.port x.recAddr
      (smallWrite hostEp x.cfg.tenant x.cfg.cls pa (recordBytes r x.fetch q.val x.phase)) vcReq (.record q (x.intrNow r)) := by
  simp only [QPair.recAddr] at ht hpa ⊢
  simp only [State.writeRec, hq, hr, if_neg hroom, hp, Bool.false_eq_true, if_false, ht, Bool.not_true, hpa, State.recSent]

variable (hp : x.cfg.ringPool = true)
include hp

theorem writeRec_pool_busy (hb : s.poolBusy (accWrite x.cfg.ep (s.authOf x)) (BitVec.ofNat 64 x.recAddr) 32 = true) : s.writeRec q = s := by
  simp only [State.writeRec, hq, hr, if_neg hroom, hp, if_true]
  exact if_pos hb

variable (hb : s.poolBusy (accWrite x.cfg.ep (s.authOf x)) (BitVec.ofNat 64 x.recAddr) 32 = false)
include hb

theorem writeRec_pool_written {s1 : State}
    (hw : s.writePool (accWrite x.cfg.ep (s.authOf x)) x.cfg.tenant (BitVec.ofNat 64 x.recAddr) (recordBytes r x.fetch q.val x.phase) []
      noIo = (.ok (), s1)) :
    s.writeRec q = if x.intrNow r then ((s1.recWritten q).countRec q (x.intrNow r)).signalQp q
      else (s1.recWritten q).countRec q (x.intrNow r) := by
  simp only [QPair.recAddr] at hb hw
  simp only [State.writeRec, hq, hr, if_neg hroom, hp, if_true, hb, Bool.false_eq_true, if_false, hw]

theorem writeRec_pool_refused {s1 : State} {st : Status}
    (hw : s.writePool (accWrite x.cfg.ep (s.authOf x)) x.cfg.tenant (BitVec.ofNat 64 x.recAddr) (recordBytes r x.fetch q.val x.phase) []
      noIo = (.error st, s1)) : s.writeRec q = (s1.skipRecord q).qpError q 2 := by
  simp only [QPair.recAddr] at hb hw
  simp only [State.writeRec, hq, hr, if_neg hroom, hp, if_true, hb, Bool.false_eq_true, if_false, hw]

end

/-! An admin queue's record. -/

/-- An admin queue's oldest record may not be written: the ring is full, or the port is not the active one (R424, R437). -/
def State.adminFull (s : State) (p : PlPort) : Prop :=
  ((s.admin p).cqNext + 1) % 2 ^ (s.admin p).cqLog.toNat = (s.admin p).cqHead ∨ p ≠ s.que.active

/-- An admin queue whose oldest record is taken from those that wait. -/
def Admin.recTaken (a : Admin) (rest : List Rec) : Admin :=
  { a with recs := rest, cqNext := (a.cqNext + 1) % 2 ^ a.cqLog.toNat, phase := a.phase != decide (a.cqNext + 1 = 2 ^ a.cqLog.toNat) }

/-- An admin queue's oldest record counts as written. -/
def State.adminRecWritten (s : State) (p : PlPort) (rest : List Rec) : State :=
  (s.setAdmin p ((s.admin p).recTaken rest)).tally (ctrQue 1 0)

theorem adminRecWritten_admin (s : State) (p : PlPort) (rest : List Rec) :
    (s.adminRecWritten p rest).admin p = (s.admin p).recTaken rest := (tally_admin ..).trans (setAdmin_admin_same ..)

theorem adminRecWritten_frame (s : State) (p : PlPort) (rest : List Rec) :
    Frame [.que, .ctr, .ras, .serial] s (s.adminRecWritten p rest) :=
  ((setAdmin_adds ..).1.mono (by simp)).trans ((tally_frame ..).mono (by simp))

theorem writeAdminRec_of_none_or_full {s : State} {p : PlPort} (h : (s.admin p).recs = [] ∨ s.adminFull p) : s.writeAdminRec p = s := by
  cases hr : (s.admin p).recs with
  | nil => simp only [State.writeAdminRec, hr]
  | cons r rest =>
    simp only [State.writeAdminRec, hr]
    exact if_pos (h.resolve_left (by simp [hr]))

theorem writeAdminRec_of_room {s : State} {p : PlPort} {r : Rec} {rest : List Rec} (hr : (s.admin p).recs = r :: rest)
    (hroom : ¬ s.adminFull p) :
    s.writeAdminRec p = (s.adminRecWritten p rest).issueHost p
      (smallWrite hostEp 0#10 0#2 ((s.admin p).cqAddr.toNat + 32 * (s.admin p).cqNext)
        (recordBytes r (s.admin p).fetch 0x1000 (s.admin p).phase)) vcReq (.adminRecord p ((s.admin p).intrEn || r.intr)) := by
  simp only [State.writeAdminRec, hr]
  exact if_neg hroom

/-! The coalescing timer (R443). -/

section
variable {s : State} {q : Qp} {x : QPair} {age : Nat} (hq : s.qp q = some x) (ha : x.coalAge = some age)
include hq ha

theorem coalTimeout_of_young (h : x.cfg.coalTicks = 0 ∨ age < x.cfg.coalTicks) : coalTimeout q s = s := by
  simp only [coalTimeout, hq, ha, if_pos h]

theorem coalTimeout_of_old (h0 : x.cfg.coalTicks ≠ 0) (h : x.cfg.coalTicks ≤ age) :
    coalTimeout q s = if x.unacked = 0 then (s.setQp q { x with sinceIntr := 0, coalAge := none }).signalQp q
      else s.setQp q { x with sinceIntr := 0, coalAge := none, intrDue := true } := by
  have hold : ¬ (x.cfg.coalTicks = 0 ∨ age < x.cfg.coalTicks) := by omega
  simp only [coalTimeout, hq, ha, if_neg hold]

end

end Sys2Proof.Machine

namespace Sys2Proof.Machine

/-- Settles O49: each command has one equation per outcome of its guard, its ring's translation and its access to the pool; what a fetched
descriptor or a written record leaves is `takeDesc_spec`, `countRec_spec` and `recSent_spec`. That a grant is for one fetch, that an admin queue's
failed fetch is repeated, and that admin records go out on the active port alone are the model's choices (log entries 145, 57 and 58). -/
theorem queuesFetchAndWrite : Obligations.QueuesFetchAndWrite := by
  unfold Obligations.QueuesFetchAndWrite
  refine ⟨?fence, ?fetch, ?took, ?fetchAdmin, ?write, ?writeAdmin, ?timer⟩
  case fence =>
    intro q h x d s hl hn
    obtain ⟨hnext, -, -⟩ := id hn
    refine ⟨fun hc => ?_, fun hc hw => ?_, fun hc hw => ?_⟩
    · exact live_descEnded (i := .fence q h) rfl hl hn (fence_of_unclean (s := s.quiet) hnext hc)
    · exact live_idles (c := .fence q h) rfl hl (fence_of_waits (s := s.quiet) hnext hc hw)
    · obtain ⟨o, hop, hqp, hheld, hdesc⟩ := newOp_desc s.quiet q h x d
      exact ⟨_, _, o, live_next (i := .fence q h) rfl hl (fence_of_free (s := s.quiet) hnext hc hw), hop, hqp, hheld, hdesc,
        (Frame.quiet s).trans (newOp_adds ..).1, rfl⟩
  case fetch =>
    intro q x r s hl hq
    have hspent := (Frame.quiet s).trans (fetchSpent_adds s.quiet).1
    refine ⟨fun hg => ?_, fun hg hm => ?_, fun hg hm hp s1 => ⟨fun ht => ?_, fun ht => ⟨fun d hd => ?_, fun hr => ?_, fun hr => ?_⟩⟩,
      fun hg hm hp => ⟨fun hb => ?_, fun hb s1 => ⟨fun st hr => ?_, fun bs bad hr => ?_⟩⟩⟩
    · exact live_idles (c := .descriptorFetch (.qp q) r) rfl hl (fetchQp_of_ungranted (s := s.quiet) hg r)
    all_goals have hfetch := fetchQp_of_granted (s := s.quiet) hg r
    · obtain ⟨hx, hF⟩ := live_next_frame (i := .descriptorFetch (.qp q) r) rfl hl
        (hfetch.trans (fetchGranted_of_not_may (s := s.quiet.fetchSpent) hq r hm)) (fetchSpent_adds ..).1 (by decide)
      exact ⟨_, hx, fetchSpent_granted .., hF⟩
    · exact ⟨_, live_next (i := .descriptorFetch (.qp q) r) rfl hl
        (hfetch.trans (fetchGranted_host (s := s.quiet.fetchSpent) hq r hm hp ht)), rfl⟩
    · subst hd
      exact ⟨_, live_next (i := .descriptorFetch (.qp q) (.data d)) rfl hl
        (hfetch.trans (fetchGranted_host (s := s.quiet.fetchSpent) hq _ hm hp ht)), rfl⟩
    · subst hr
      exact ⟨_, live_next (i := .descriptorFetch (.qp q) .poison) rfl hl
        (hfetch.trans (fetchGranted_host (s := s.quiet.fetchSpent) hq _ hm hp ht)), rfl⟩
    · subst hr
      exact ⟨_, _, live_next (i := .descriptorFetch (.qp q) .hostErr) rfl hl
        (hfetch.trans (fetchGranted_host (s := s.quiet.fetchSpent) hq _ hm hp ht)), reported_raise ..,
        (raise_frame s1 _).2, rfl⟩
    · obtain ⟨hx, hF⟩ := live_next_frame (i := .descriptorFetch (.qp q) r) rfl hl
        (hfetch.trans (fetchGranted_pool_busy (s := s.quiet.fetchSpent) hq r hm hp hb)) (fetchSpent_adds ..).1 (by decide)
      exact ⟨_, hx, hF⟩
    · exact ⟨_, live_next (i := .descriptorFetch (.qp q) r) rfl hl
        (hfetch.trans (fetchGranted_pool_refused (s := s.quiet.fetchSpent) hq r hm hp hb hr)), rfl⟩
    · exact ⟨_, live_next (i := .descriptorFetch (.qp q) r) rfl hl
        (hfetch.trans (fetchGranted_pool_read (s := s.quiet.fetchSpent) hq r hm hp hb hr)), rfl⟩
  case took =>
    intro u q x d hd
    obtain ⟨hqp, hF⟩ := takeDesc_spec hd u q x
    exact ⟨_, hqp, tget_tput_same .., rfl, rfl, rfl, rfl, hF.2⟩
  case fetchAdmin =>
    intro p r s hl
    refine ⟨fun hm => ?_, fun hm => ⟨fun d hr hd => ?_, fun hr => ?_, fun hr => ?_⟩⟩
    · exact live_idles (c := .descriptorFetch (.admin p) r) rfl hl (fetchAdmin_of_not_may (s := s.quiet) hm r)
    · subst hr
      obtain ⟨hx, hF⟩ := live_next_frame (i := .descriptorFetch (.admin p) (.data d)) rfl hl
        (fetchAdmin_data_of_known (s := s.quiet) hm hd)
        (((setAdmin_adds ..).1.mono (by simp)).trans ((tally_frame ..).mono (by simp)) : Frame [.que, .ctr, .ras, .serial] _ _) (by decide)
      have hadmin := (tally_admin (s.quiet.setAdmin p ((s.quiet.admin p).took d)) (ctrQue 0 0) p).trans (setAdmin_admin_same ..)
      exact ⟨_, hx, congrArg Admin.held hadmin, congrArg Admin.fetch hadmin, hF⟩
    · subst hr
      exact live_idles (c := .descriptorFetch (.admin p) .poison) rfl hl (fetchAdmin_of_may (s := s.quiet) hm .poison)
    · subst hr
      obtain ⟨hx, hF⟩ := live_next_frame (i := .descriptorFetch (.admin p) .hostErr) rfl hl
        (fetchAdmin_of_may (s := s.quiet) hm .hostErr) (raise_frame ..) (by decide)
      exact ⟨_, hx, reported_raise .., hF.mono (by simp)⟩
  case write =>
    intro q x s hl hq
    refine ⟨fun h => ?_, fun r rest hr hroom => ⟨fun hp s1 => ⟨fun ht => ?_, fun pa ht hpa hq1 => ?_⟩,
      fun hp => ⟨fun hb => ?_, fun hb s1 => ⟨fun hw hq1 => ?_, fun st hw => ?_⟩⟩⟩⟩
    · exact live_idles (c := .completionWrite (.qp q)) rfl hl (writeRec_of_none_or_full (s := s.quiet) hq h)
    · exact ⟨_, live_next (i := .completionWrite (.qp q)) rfl hl (writeRec_host_missed (s := s.quiet) hq hr hroom hp ht), rfl⟩
    · obtain ⟨⟨y, hy, hgone⟩, hF⟩ := recSent_spec hq1 hr (x.intrNow r)
      exact ⟨_, _, _, live_next (i := .completionWrite (.qp q)) rfl hl (writeRec_host_sent (s := s.quiet) hq hr hroom hp ht hpa), hy,
        hgone.recs, hgone.cqNext, hgone.phase, rfl, hgone.freed, hF.2, rfl⟩
    · exact live_idles (c := .completionWrite (.qp q)) rfl hl (writeRec_pool_busy (s := s.quiet) hq hr hroom hp hb)
    · obtain ⟨⟨y, hy, hgone⟩, hF⟩ := countRec_spec hq1 hr (x.intrNow r)
      exact ⟨_, _, y, live_next (i := .completionWrite (.qp q)) rfl hl (writeRec_pool_written (s := s.quiet) hq hr hroom hp hb hw), hy,
        hgone.recs, hgone.cqNext, hF.2, rfl⟩
    · exact ⟨_, live_next (i := .completionWrite (.qp q)) rfl hl (writeRec_pool_refused (s := s.quiet) hq hr hroom hp hb hw), rfl⟩
  case writeAdmin =>
    intro p s hl
    refine ⟨fun h => ?_, fun r rest hr hroom => ?_⟩
    · exact live_idles (c := .completionWrite (.admin p)) rfl hl (writeAdminRec_of_none_or_full (s := s.quiet) h)
    · have hadmin := adminRecWritten_admin s.quiet p rest
      exact ⟨_, _, live_next (i := .completionWrite (.admin p)) rfl hl (writeAdminRec_of_room (s := s.quiet) hr hroom),
        congrArg Admin.recs hadmin, congrArg Admin.cqNext hadmin, (Frame.quiet s).trans (adminRecWritten_frame ..), rfl⟩
  case timer =>
    intro q x age s hl hq ha
    refine ⟨fun h => ?_, fun h0 h => ⟨fun hu => ?_, fun hu => ?_⟩⟩
    · exact live_idles (c := .coalTimeout q) rfl hl (coalTimeout_of_young (s := s.quiet) hq ha h)
    all_goals have hold := coalTimeout_of_old (s := s.quiet) hq ha h0 h
    · exact ⟨_, _, live_next (i := .coalTimeout q) rfl hl (hold.trans (if_pos hu)), setQp_qp_same ..,
        (Frame.quiet s).trans (setQp_adds ..).1, rfl⟩
    · obtain ⟨hx, hF⟩ := live_next_frame (i := .coalTimeout q) rfl hl (hold.trans (if_neg hu)) (setQp_adds ..).1 (by decide)
      exact ⟨_, hx, setQp_qp_same .., hF⟩

end Sys2Proof.Machine

/-! PROOFS. The machine as a whole: how a step takes a command, and what gates a command's effect (R530, R554, R589). -/

namespace Sys2Proof.Machine

/-- A command passes: the device is as the command's kind asks. -/
def State.passes (s : State) (c : Instr) : Bool :=
  if servedAwake c then s.awake else if servedPowered c then s.plt.powered else servedAlways c || s.live

/-- Every command but an access to missing memory has a settled effect where it passes, and none elsewhere. -/
theorem exec_gated (c : Instr) (s : State) :
    (∃ u, exec c s = .next (if s.passes c then s.quiet.settle u else s.quiet)) ∨ exec c s = .fault .noSuchGranule := by
  cases c with
  | memCtrlAccept g off r =>
    rcases Nat.lt_or_ge g 15616 with hg | hg
    · exact .inl ⟨memCtrlAccept g off r s.quiet, if_neg (Nat.not_le.2 hg)⟩
    · exact .inr (if_pos hg)
  | _ => exact .inl ⟨_, rfl⟩

theorem exec_of_passes {c : Instr} {s t : State} (h : exec c s = .next t) (hp : s.passes c = true) : ∃ u, t = s.quiet.settle u := by
  rcases exec_gated c s with ⟨u, hu⟩ | hu
  · rw [hp, h] at hu
    exact ⟨u, Host.Outcome.next.inj hu⟩
  · rw [h] at hu
    cases hu

theorem exec_of_not_passes {c : Instr} {s t : State} (h : exec c s = .next t) (hp : s.passes c = false) : t = s.quiet := by
  rcases exec_gated c s with ⟨u, hu⟩ | hu
  · rw [hp, h] at hu
    exact Host.Outcome.next.inj hu
  · rw [h] at hu
    cases hu

/-- Settles O1: `step` matches the front of the queue. -/
theorem stepRunsTheFrontCommand : Obligations.StepRunsTheFrontCommand := by
  unfold Obligations.StepRunsTheFrontCommand
  exact fun c s => rfl

/-- Settles O2: `step` on an empty queue. -/
theorem stepIdlesOnEmptyQueue : Obligations.StepIdlesOnEmptyQueue := by
  unfold Obligations.StepIdlesOnEmptyQueue
  intro s h
  rw [step, h]

/-- What a step does: it idles on an empty queue, and otherwise runs the front command on the state with the queue's rest. -/
theorem step_cases {s t : State} (h : step s = .next t) :
    (s.pending = [] ∧ t = s) ∨ ∃ c rest, s.pending = c :: rest ∧ exec c { s with pending := rest } = .next t := by
  unfold step at h
  split at h
  · exact .inl ⟨‹_›, (Host.Outcome.next.inj h).symm⟩
  · exact .inr ⟨_, _, ‹_›, h⟩

/-- A command that answers leaves a settled state, or the one it found with nothing sent. -/
theorem exec_settles {c : Instr} {s t : State} (h : exec c s = .next t) : t = s.quiet ∨ ∃ u, t = s.quiet.settle u := by
  cases hp : s.passes c with
  | false => exact .inl (exec_of_not_passes h hp)
  | true => exact .inr (exec_of_passes h hp)

theorem exec_pending {c : Instr} {s t : State} (h : exec c s = .next t) : t.pending = s.pending := by
  rcases exec_settles h with rfl | ⟨u, rfl⟩ <;> rfl

/-- Settles O3: a settled state has the queue that the command found. -/
theorem everyCommandKeepsTheQueue : Obligations.EveryCommandKeepsTheQueue := by
  unfold Obligations.EveryCommandKeepsTheQueue
  refine ⟨fun c s t => exec_pending, fun s t h => ?_⟩
  rcases step_cases h with ⟨hq, rfl⟩ | ⟨c, rest, hq, hx⟩
  · rw [hq]; rfl
  · rw [hq]; exact exec_pending hx

/-- No command is served both in every powered state and in every awake one. -/
theorem servedPowered_not_awake {c : Instr} : servedPowered c = true → servedAwake c = false := by
  intro h
  cases c <;> cases h <;> rfl

/-- Settles O5: each kind of command passes only where the device is as that kind asks. -/
theorem nothingHappensOnADeadDevice : Obligations.NothingHappensOnADeadDevice := by
  unfold Obligations.NothingHappensOnADeadDevice
  refine ⟨fun c s t hl ha hp hw hx => ?_, fun c s t ha hw hx => ?_, fun c s t hd hp hx => ?_⟩
  · exact exec_of_not_passes hx (by simp [State.passes, hl, ha, hp, hw])
  · exact exec_of_not_passes hx (by simp [State.passes, ha, hw])
  · exact exec_of_not_passes hx (by simp [State.passes, hd, hp, servedPowered_not_awake hp])

/-- A command keeps the invariant of a node-fatal state: a settled state meets it, whatever was there before (R589). -/
theorem exec_fatalInv {c : Instr} {s t : State} (hs : fatalInv s) (h : exec c s = .next t) : fatalInv t := by
  rcases exec_settles h with rfl | ⟨u, rfl⟩
  · exact hs
  · exact settle_fatalInv _ u

/-- Settles O6, command by command. -/
theorem fatalKeepsPortsDisabled : Obligations.FatalKeepsPortsDisabled := by
  unfold Obligations.FatalKeepsPortsDisabled
  intro s t hs h
  rcases step_cases h with ⟨-, rfl⟩ | ⟨c, rest, -, hx⟩
  · exact hs
  · exact exec_fatalInv (s := { s with pending := rest }) hs hx

/-- Settles O7: nothing in the reset record is fatal, and the pool's map is empty. -/
theorem resetMeetsTheInvariants : Obligations.ResetMeetsTheInvariants := by
  unfold Obligations.ResetMeetsTheInvariants
  exact ⟨fun h => Bool.noConfusion h, rfl, Memory.wf_reset, rfl, rfl⟩

end Sys2Proof.Machine

/-! PROOFS. Headland's messages (R487, R488, R491, R493): what is sent, what an answer keeps, and how a command's row takes its message. -/

namespace Sys2Proof.Machine

/-! Requests toward the host touch the router alone. -/

theorem takeXfer_adds (s : State) (d : Nat) : Adds [.rtr] s (s.takeXfer d).2 := adds_rtr s _

/-- The packets of a request that names its port join that port's transmit queue. -/
theorem transmit_via_adds (s : State) (n : Nat) {r : DevReq} {p : PlPort} (h : r.via = some p) : Adds [.rtr] s (s.transmit n r) := by
  unfold State.transmit
  simp only [h]
  exact (adds_rtr s _).trans (Adds.foldl (fun st x => enqueue_adds st _ _) _ _)

theorem launch_via_adds (s : State) (n : Nat) {r : DevReq} {p : PlPort} (h : r.via = some p) : Adds [.rtr] s (s.launch n r) := by
  unfold State.launch
  dsimp only
  split
  · exact (adds_rtr s _).trans ((takeXfer_adds _ _).trans (transmit_via_adds _ n h))
  · exact (adds_rtr s _).trans (transmit_via_adds _ n h)

/-- A request to the host through a port touches the router alone. -/
theorem issue_via_adds (s : State) (dst : Ep) (p : PlPort) (pkts : List Packet) (vc : Nat) (owner : ReqOwner) :
    Adds [.rtr] s (s.issue dst (some p) pkts vc owner).1 := by
  unfold State.issue
  simp only [Option.isSome_some, Bool.true_or, Bool.not_true, Bool.false_eq_true, if_false]
  split
  · exact adds_rtr s _
  · exact (adds_rtr s _).trans (launch_via_adds _ _ rfl)

/-! A message sent. -/

theorem adds_sec (s : State) (x : Sec) : Adds [.sec] s { s with sec := x } :=
  adds_of_same rfl rfl (fun p => by cases p <;> simp [Part.same])

/-- The bytes that a message leaves as: a mailbox whose response buffer is too small gets a header alone (R487). -/
def State.mailed (s : State) (port : Option PlPort) (bytes : List Byte) : List Byte :=
  match port with
  | none => bytes
  | some p => if (s.mbox p).rspMax.toNat < bytes.length then headHeader ((bytes.getD 1 0#8).toNat) secBadMsg false 16 0 0 else bytes

/-- The requests that write a response buffer. -/
def State.mailIssued (s : State) (p : PlPort) (bs : List Byte) : State :=
  let count := max 1 ((bs.length + 4095) / 4096)
  (s.issue hostEp (some p) (bulkPackets hostEp 0#10 4096 count count (s.mbox p).rspAddr bs) vcBulk (.mbox p)).1

/-- A mailbox once its response is on its way. -/
def Mbox.responded (m : Mbox) (n : Nat) : Mbox := { m with busy := false, done := true, rspLen := BitVec.ofNat 15 n }

theorem headSend_to_host (s : State) (src : W64) (bytes : List Byte) : s.headSend none src bytes = s.emit (.head none src bytes) := rfl

theorem headSend_to_mailbox (s : State) (p : PlPort) (src : W64) (bytes : List Byte) :
    s.headSend (some p) src bytes = ((s.mailIssued p (s.mailed (some p) bytes)).setMbox p
      ((s.mbox p).responded (s.mailed (some p) bytes).length)).emit (.head (some p) src (s.mailed (some p) bytes)) := rfl

theorem mailIssued_adds (s : State) (p : PlPort) (bs : List Byte) : Adds [.rtr] s (s.mailIssued p bs) := issue_via_adds ..

theorem setMbox_adds (s : State) (p : PlPort) (m : Mbox) : Adds [.sec] s (s.setMbox p m) := adds_sec s _

@[simp] theorem setMbox_mbox_same (s : State) (p : PlPort) (m : Mbox) : (s.setMbox p m).mbox p = m := mget_mset_same ..

/-- Of Headland's record, a message sent changes the mailboxes alone. -/
structure SendsMail (s t : State) : Prop where
  adds : Adds [.sec, .rtr] s t
  sec : ∃ b, t.sec = { s.sec with mboxes := b }

theorem headSend_spec (s : State) (port : Option PlPort) (src : W64) (bytes : List Byte) :
    SendsMail s (s.headSend port src bytes) ∧ .head port src (s.mailed port bytes) ∈ (s.headSend port src bytes).out := by
  cases port with
  | none => exact ⟨⟨emit_adds s _, _, rfl⟩, mem_emit s _⟩
  | some p =>
    rw [headSend_to_mailbox]
    have hi := mailIssued_adds s p (s.mailed (some p) bytes)
    have hs : (s.mailIssued p (s.mailed (some p) bytes)).sec = s.sec := hi.same .sec (by decide)
    refine ⟨⟨(hi.mono (by simp)).trans (((setMbox_adds _ _ _).mono (by simp)).trans (emit_adds _ _)), ?_⟩, mem_emit _ _⟩
    rw [State.emit_sec, State.setMbox_sec, hs]
    exact ⟨_, rfl⟩

theorem headSend_mbox (s : State) (p : PlPort) (src : W64) (bytes : List Byte) :
    (s.headSend (some p) src bytes).mbox p = (s.mbox p).responded (s.mailed (some p) bytes).length := by
  rw [headSend_to_mailbox]
  exact setMbox_mbox_same ..

/-! An answer. -/

/-- The bytes of an answer, whatever the size of the response buffer. -/
def State.fullAnswer (v : State) (m : SecMsg) (st : Nat) (body : List Byte) (sid : Nat) : List Byte :=
  let b := if st = secOk then body else []
  match v.msgSession m with
  | some x =>
    let hdr := headHeader m.cmd.toNat st true (32 + b.length) m.sess x.seqOut
    hdr ++ sealBytes x.keyOut (headIv true m.sess x.seqOut) hdr b
  | none => headHeader m.cmd.toNat st false (16 + b.length) sid 0 ++ b

/-- A session once it has answered: one number further, and closed with its last number (R493). -/
def State.sessionAnswered (v : State) (m : SecMsg) (bytes : List Byte) : State :=
  match v.msgSession m with
  | some x => if 2 ^ 32 - 1 ≤ x.seqOut + 1 then v.closeSession m.sess
    else v.setSession m.sess { x with seqOut := x.seqOut + 1, last := some bytes }
  | none => v

theorem headAnswer_eq (v : State) (m : SecMsg) (st : Nat) (body : List Byte) (sid : Nat) :
    v.headAnswer m st body sid = (v.sessionAnswered m (v.fullAnswer m st body sid)).headSend m.port m.src (v.fullAnswer m st body sid) := by
  unfold State.headAnswer State.sessionAnswered State.fullAnswer
  change (match v.msgSession m with | some x => _ | none => _) = _
  cases v.msgSession m <;> rfl

/-- A message's second byte is its command's code. -/
theorem headHeader_cmd (cmd st : Nat) (prot : Bool) (len sess seq : Nat) (bs : List Byte) :
    ((headHeader cmd st prot len sess seq ++ bs).getD 1 0#8).toNat = cmd % 256 := by
  simp [headHeader, natBytes]

theorem fullAnswer_cmd (v : State) (m : SecMsg) (st : Nat) (body : List Byte) (sid : Nat) :
    ((v.fullAnswer m st body sid).getD 1 0#8).toNat = m.cmd.toNat := by
  unfold State.fullAnswer
  cases v.msgSession m <;> exact (headHeader_cmd ..).trans (Nat.mod_eq_of_lt m.cmd.isLt)

theorem answerBytes_eq (v : State) (m : SecMsg) (st : Nat) (body : List Byte) (sid : Nat) :
    v.answerBytes m st body sid = v.mailed m.port (v.fullAnswer m st body sid) := by
  unfold State.mailed
  rw [fullAnswer_cmd]
  unfold State.answerBytes State.fullAnswer
  cases m.port <;> cases v.msgSession m <;> rfl

theorem sessionAnswered_adds (v : State) (m : SecMsg) (bytes : List Byte) : Adds [.sec] v (v.sessionAnswered m bytes) := by
  unfold State.sessionAnswered
  split
  · split <;> exact adds_sec v _
  · exact Adds.rfl v

theorem sessionAnswered_sec (v : State) (m : SecMsg) (bytes : List Byte) :
    ∃ x, (v.sessionAnswered m bytes).sec = { v.sec with sessions := x } := by
  unfold State.sessionAnswered
  split
  · split <;> exact ⟨_, rfl⟩
  · exact ⟨_, rfl⟩

theorem sessionAnswered_of_plain {v : State} {m : SecMsg} (h : v.msgSession m = none) (bytes : List Byte) : v.sessionAnswered m bytes = v := by
  rw [State.sessionAnswered, h]

theorem mbox_of_mboxes {s t : State} (h : t.sec.mboxes = s.sec.mboxes) (p : PlPort) : t.mbox p = s.mbox p :=
  congrArg (fun x => mget Mbox.reset x p.val) h

theorem sessionAnswered_mbox (v : State) (m : SecMsg) (bytes : List Byte) (p : PlPort) : (v.sessionAnswered m bytes).mbox p = v.mbox p := by
  obtain ⟨x, hx⟩ := sessionAnswered_sec v m bytes
  exact mbox_of_mboxes (by rw [hx]) p

theorem sessionAnswered_mailed (v : State) (m : SecMsg) (bytes : List Byte) (port : Option PlPort) (bs : List Byte) :
    (v.sessionAnswered m bytes).mailed port bs = v.mailed port bs := by
  cases port with
  | none => rfl
  | some p => simp only [State.mailed, sessionAnswered_mbox]

/-- What an answer does: it is sent, and of Headland's record only mailboxes and sessions change. -/
theorem headAnswer_spec (v : State) (m : SecMsg) (st : Nat) (body : List Byte) (sid : Nat) :
    Adds [.sec, .rtr] v (v.headAnswer m st body sid) ∧
    .head m.port m.src (v.answerBytes m st body sid) ∈ (v.headAnswer m st body sid).out ∧
    (∃ b x, (v.headAnswer m st body sid).sec = { v.sec with mboxes := b, sessions := x }) ∧
    (v.msgSession m = none → (v.headAnswer m st body sid).sec.sessions = v.sec.sessions) := by
  rw [headAnswer_eq, answerBytes_eq]
  obtain ⟨⟨ha, b, hb⟩, hm⟩ := headSend_spec (v.sessionAnswered m (v.fullAnswer m st body sid)) m.port m.src (v.fullAnswer m st body sid)
  rw [sessionAnswered_mailed] at hm
  obtain ⟨x, hx⟩ := sessionAnswered_sec v m (v.fullAnswer m st body sid)
  refine ⟨((sessionAnswered_adds v m _).mono (by simp)).trans ha, hm, ⟨b, x, by rw [hb, hx]⟩, fun h => ?_⟩
  rw [hb, sessionAnswered_of_plain h]

theorem headAnswer_sessions (v : State) (m : SecMsg) (st : Nat) (body : List Byte) (sid : Nat) :
    (v.headAnswer m st body sid).sec.sessions = (v.sessionAnswered m (v.fullAnswer m st body sid)).sec.sessions := by
  rw [headAnswer_eq]
  obtain ⟨⟨-, b, hb⟩, -⟩ := headSend_spec (v.sessionAnswered m (v.fullAnswer m st body sid)) m.port m.src (v.fullAnswer m st body sid)
  rw [hb]

theorem session_of_sessions {s t : State} (h : t.sec.sessions = s.sec.sessions) (n : Nat) : t.session n = s.session n :=
  congrArg (fun x => tget x n) h

@[simp] theorem setSession_session_same (s : State) (n : Nat) (x : Session) : (s.setSession n x).session n = some x := tget_tput_same ..

@[simp] theorem closeSession_session_same (s : State) (n : Nat) : (s.closeSession n).session n = none := tget_tdel_same ..

theorem headAnswer_mbox {v : State} {m : SecMsg} {p : PlPort} (hp : m.port = some p) (st : Nat) (body : List Byte) (sid : Nat) :
    (v.headAnswer m st body sid).mbox p = (v.mbox p).responded (v.answerBytes m st body sid).length := by
  rw [headAnswer_eq, answerBytes_eq, hp, headSend_mbox, sessionAnswered_mbox, sessionAnswered_mailed]

/-- A session answers under its next number, and is gone with its last one. -/
theorem headAnswer_session {v : State} {m : SecMsg} {x : Session} (h : v.msgSession m = some x) (st : Nat) (body : List Byte) (sid : Nat) :
    (v.headAnswer m st body sid).session m.sess = if 2 ^ 32 - 1 ≤ x.seqOut + 1 then none
      else some { x with seqOut := x.seqOut + 1, last := some (v.fullAnswer m st body sid) } := by
  rw [session_of_sessions (headAnswer_sessions v m st body sid), State.sessionAnswered, h]
  dsimp only
  split
  · exact closeSession_session_same ..
  · exact setSession_session_same ..

/-! Rows. -/

/-- A command whose effect is the answer of a message, on a state v of the same queue, answers as the statements ask. -/
theorem headAnswersIn_of {c : Instr} {s v : State} {m : SecMsg} {st : Nat} {body : List Byte} {sid : Nat}
    (hc : exec c s = .next (s.quiet.settle (v.headAnswer m st body sid))) (hv : v.pending = s.pending) : headAnswersIn c s v m st body sid := by
  obtain ⟨ha, hm, ⟨b, x, hb⟩, hn⟩ := headAnswer_spec v m st body sid
  refine ⟨_, hc, hm, ?_, fun h => hn h, hv.symm, fun p hp => ?_⟩
  · rw [settle_sec, hb]
  · have := ha.same p (fun h => hp (by revert h; cases p <;> simp))
    cases p
    case links => exact absurd (by simp) hp
    all_goals exact this

/-- On s the command runs the row of code cmd on message i, and f is what it does with the message. -/
def runsRow (c : Instr) (i cmd : Nat) (f : SecMsg → State → State) (s : State) : Prop :=
  exec c s = .next (s.quiet.settle (headRun i cmd f s.quiet))

theorem runsRow_of {c : Instr} {i cmd : Nat} {f : SecMsg → State → State} {s : State}
    (h : exec c s = .next (s.quiet.whenAwake (headRun i cmd f))) (ha : s.awake = true) : runsRow c i cmd f s := by
  rw [runsRow, h, whenAwake_of_awake (s := s.quiet) _ ha]

/-- A management message whose command has not begun is a row of an operator's session. -/
theorem runsRow_mgmt {i : Nat} {s : State} (ha : s.awake = true) (hm : ∀ m, s.sec.msgs[i]? = some m → m.started = false) :
    runsRow (.mgmt i) i 0xF0 (headOperator (fun x _ t => t.mgmtRun x s.quiet)) s := by
  have hx : exec (.mgmt i) s = .next (s.quiet.whenAwake (mgmt i)) := rfl
  rw [runsRow, hx, whenAwake_of_awake (s := s.quiet) _ ha, mgmt, State.quiet_sec]
  cases h : s.sec.msgs[i]? with
  | none => simp [headRun, State.takeMsg, h]
  | some m => simp [hm m h]

section
variable {e : (Nat → Instr) × Nat} (i : Nat) {s : State}

theorem openRow_runs (he : e ∈ openRows) (ha : s.awake = true) : ∃ f, runsRow (e.1 i) i e.2 f s := by
  simp only [openRows, List.mem_cons, List.not_mem_nil, or_false] at he
  rcases he with rfl | rfl | rfl | rfl | rfl | rfl | rfl | rfl <;> exact ⟨_, runsRow_of rfl ha⟩

theorem operatorRow_runs (he : e ∈ operatorRows) (ha : s.awake = true) (hm : ∀ m, s.sec.msgs[i]? = some m → m.started = false) :
    ∃ g, runsRow (e.1 i) i e.2 (headOperator g) s := by
  simp only [operatorRows, List.mem_cons, List.not_mem_nil, or_false] at he
  rcases he with rfl | rfl | rfl | rfl | rfl
  case inr.inr.inr.inr => exact ⟨_, runsRow_mgmt ha hm⟩
  all_goals exact ⟨_, runsRow_of rfl ha⟩

theorem tenantRow_runs (he : e ∈ tenantRows) (ha : s.awake = true) : ∃ g, runsRow (e.1 i) i e.2 (headTenant g) s := by
  simp only [tenantRows, List.mem_cons, List.not_mem_nil, or_false] at he
  rcases he with rfl | rfl | rfl | rfl | rfl | rfl | rfl | rfl | rfl | rfl <;> exact ⟨_, runsRow_of rfl ha⟩

theorem row_runs (he : e ∈ openRows ++ operatorRows ++ tenantRows) (ha : s.awake = true)
    (hm : ∀ m, s.sec.msgs[i]? = some m → m.started = false) : ∃ f, runsRow (e.1 i) i e.2 f s := by
  rcases List.mem_append.1 he with he | he
  · rcases List.mem_append.1 he with he | he
    · exact openRow_runs i he ha
    · obtain ⟨g, hg⟩ := operatorRow_runs i he ha hm
      exact ⟨_, hg⟩
  · obtain ⟨g, hg⟩ := tenantRow_runs i he ha
    exact ⟨_, hg⟩

end

/-! What a row does with its message. -/

theorem headRun_idle {s : State} {i cmd : Nat} (h : ∀ m, s.sec.msgs[i]? = some m → m.cmd.toNat ≠ cmd) (f : SecMsg → State → State) :
    headRun i cmd f s.quiet = s.quiet := by
  have ht : s.quiet.takeMsg i cmd = none := by
    unfold State.takeMsg
    rw [State.quiet_sec]
    cases hm : s.sec.msgs[i]? with
    | none => rfl
    | some m => exact if_neg (fun hc => h m hm hc.1)
  rw [headRun, ht]

section
variable {s u : State} {i cmd : Nat} {m : SecMsg} {c : Instr}

theorem takeMsg_of_takes (h : s.takes i cmd m u) : s.quiet.takeMsg i cmd = some (m, u) := by
  obtain ⟨-, hm, hcmd, hst, rfl⟩ := h
  rw [State.takeMsg, State.quiet_sec, hm]
  exact if_pos ⟨hcmd, by simp [hst]⟩

theorem headGate_of_takes (h : s.takes i cmd m u) (k : Nat) : u.headGate k = s.headGate k := by
  obtain ⟨-, -, -, -, rfl⟩ := h
  rfl

theorem takes_pending (h : s.takes i cmd m u) : u.pending = s.pending := by
  obtain ⟨-, -, -, -, rfl⟩ := h
  rfl

theorem takes_frame (h : s.takes i cmd m u) : Frame [.sec] s.quiet u := by
  obtain ⟨-, -, -, -, rfl⟩ := h
  exact (adds_sec s.quiet _).1

theorem headRun_gated (h : s.takes i cmd m u) {st : Nat} (hg : s.headGate cmd = some st) (f : SecMsg → State → State) :
    headRun i cmd f s.quiet = u.headReply m st [] := by
  simp only [headRun, takeMsg_of_takes h, headGate_of_takes h, hg]

theorem headRun_served (h : s.serves i cmd m u) (f : SecMsg → State → State) : headRun i cmd f s.quiet = f m u := by
  simp only [headRun, takeMsg_of_takes h.1, headGate_of_takes h.1, h.2]

theorem not_started_of_takes (h : s.takes i cmd m u) : ∀ y, s.sec.msgs[i]? = some y → y.started = false := by
  obtain ⟨-, hm, -, hst, -⟩ := h
  intro y hy
  rw [hm] at hy
  cases hy
  exact hst

/-- A row that a command's message is served by has the row's function as its effect. -/
theorem served_next {f : SecMsg → State → State} (hc : exec c s = .next (s.quiet.whenAwake (headRun i cmd f))) (h : s.serves i cmd m u) :
    exec c s = .next (s.quiet.settle (f m u)) := by
  have hr := runsRow_of hc h.1.1
  rwa [runsRow, headRun_served h] at hr

/-- A command answers its message with a session's number on the state v. -/
theorem headAnswersIn_of_row {f : SecMsg → State → State} (hc : exec c s = .next (s.quiet.whenAwake (headRun i cmd f)))
    (h : s.serves i cmd m u) {v : State} {st : Nat} {body : List Byte} {sid : Nat} (hf : f m u = v.headAnswer m st body sid)
    (hv : v.pending = u.pending) : headAnswersIn c s v m st body sid :=
  headAnswersIn_of (hf ▸ served_next hc h) (hv.trans (takes_pending h.1))

theorem headOperator_of_none (h : ∀ x, ¬ u.fromOperator m x) (g : SecMsg → Session → State → State) :
    headOperator g m u = u.headReply m secDenied [] := by
  unfold headOperator
  cases hs : u.msgSession m with
  | none => rfl
  | some x => exact if_neg (fun hk => h x ⟨hs, hk⟩)

theorem headTenant_of_none (h : ∀ t, ¬ u.fromTenant m t) (g : SecMsg → Session → Tenant → State → State) :
    headTenant g m u = u.headReply m secDenied [] := by
  unfold headTenant
  cases hs : u.msgSession m with
  | none => rfl
  | some x =>
    dsimp only
    split
    · exact absurd ⟨x, hs, ‹_›⟩ (h _)
    · rfl

theorem headOperator_of {x : Session} (h : u.fromOperator m x) (g : SecMsg → Session → State → State) : headOperator g m u = g m x u := by
  simp only [headOperator, h.1, h.2, if_true]

theorem headTenant_of {t : Tenant} (h : u.fromTenant m t) (g : SecMsg → Session → Tenant → State → State) :
    ∃ x, u.msgSession m = some x ∧ x.kind = .tenant t ∧ headTenant g m u = g m x t u := by
  obtain ⟨x, hx, hk⟩ := h
  exact ⟨x, hx, hk, by simp only [headTenant, hx, hk]⟩

end

end Sys2Proof.Machine

/-! PROOFS. What Headland takes for a message, and what it answers at once (R487, R488, R493, R495). -/

namespace Sys2Proof.Machine

/-- The message that a run of bytes spells. -/
def headMsg (port : Option PlPort) (src : W64) (bs : List Byte) : SecMsg :=
  { port := port, src := src, cmd := BitVec.ofNat 8 (fieldAt bs 1 1), prot := fieldAt bs 3 1 == 1,
    sess := fieldAt bs 8 4, seq := fieldAt bs 12 4, body := bs.drop 16, started := false }

/-- The same, to be answered outside any session. -/
def SecMsg.plain (m : SecMsg) : SecMsg := { m with prot := false }

/-- A message joins those that wait for their command. -/
def State.pushMsg (s : State) (m : SecMsg) : State := { s with sec := { s.sec with msgs := s.sec.msgs ++ [m] } }

theorem pushMsg_adds (s : State) (m : SecMsg) : Adds [.sec] s (s.pushMsg m) := adds_sec s _

theorem setSession_adds (s : State) (n : Nat) (x : Session) : Adds [.sec] s (s.setSession n x) := adds_sec s _

theorem closeSession_adds (s : State) (n : Nat) : Adds [.sec] s (s.closeSession n) := adds_sec s _

theorem sessionFail_adds (s : State) (n : Nat) (k : SessKind) : Adds [.ras, .ctr, .serial] s (s.sessionFail n k) :=
  (tally_adds s _).trans (raise_adds _ _)

theorem sessionFail_reported (s : State) (n : Nat) (k : SessKind) : reported (s.sessionFail n k) 0x0B 0x02 0 unitHeadland :=
  reported_raise ..

theorem msgSession_plain (s : State) (m : SecMsg) : s.msgSession m.plain = none := rfl

/-- An answer outside any session: only mailboxes change of Headland's record. -/
theorem headReply_plain (v : State) {m : SecMsg} (h : v.msgSession m = none) (st : Nat) (body : List Byte) :
    .head m.port m.src (v.answerBytes m st body 0) ∈ (v.headReply m st body).out ∧ (v.headReply m st body).sec.msgs = v.sec.msgs ∧
    (v.headReply m st body).sec.sessions = v.sec.sessions ∧ Adds [.sec, .rtr] v (v.headReply m st body) := by
  obtain ⟨ha, hm, ⟨b, x, hb⟩, hn⟩ := headAnswer_spec v m st body 0
  exact ⟨hm, by rw [State.headReply, hb], hn h, ha⟩

/-- A message is refused for its header, waits for its command, or is looked at under its session. -/
theorem headReceive_eq (v : State) (port : Option PlPort) (src : W64) (bs : List Byte) :
    v.headReceive port src bs =
      let m := headMsg port src bs
      if !headWellFormed bs then v.headReply m.plain secBadMsg []
      else if !m.prot then v.pushMsg m
      else match v.session m.sess with
      | none => v.headReply m.plain secDenied []
      | some x =>
        if !x.isOpen then v.headReply m.plain secDenied []
        else if m.seq + 1 = x.seqIn then (if x.seqOut = x.seqIn then v.headSend port src (x.last.getD []) else v)
        else if m.seq ≠ x.seqIn then v.headReply m.plain secBadMsg []
        else match openBytes x.keyIn (headIv false m.sess m.seq) (bs.take 16) (bs.drop 16) with
        | none => ((v.closeSession m.sess).sessionFail m.sess x.kind).headReply m.plain secAuthErr []
        | some pt => (v.setSession m.sess { x with seqIn := x.seqIn + 1 }).pushMsg { m with body := pt } := by
  rfl

section
variable (v : State) (port : Option PlPort) (src : W64) {bs : List Byte}

theorem headReceive_of_malformed (h : headWellFormed bs = false) :
    v.headReceive port src bs = v.headReply (headMsg port src bs).plain secBadMsg [] := by
  simp [headReceive_eq, h]

variable (h : headWellFormed bs = true)
include h

theorem headReceive_of_plain (hp : (headMsg port src bs).prot = false) : v.headReceive port src bs = v.pushMsg (headMsg port src bs) := by
  simp [headReceive_eq, h, hp]

variable (hp : (headMsg port src bs).prot = true)
include hp

theorem headReceive_of_unopened (hx : ∀ x, v.session (headMsg port src bs).sess = some x → x.isOpen = false) :
    v.headReceive port src bs = v.headReply (headMsg port src bs).plain secDenied [] := by
  cases hs : v.session (headMsg port src bs).sess with
  | none => simp [headReceive_eq, h, hp, hs]
  | some x => simp [headReceive_eq, h, hp, hs, hx x hs]

section
variable {x : Session} (hs : v.session (headMsg port src bs).sess = some x) (ho : x.isOpen = true)
include hs ho

theorem headReceive_of_repeated (hq : (headMsg port src bs).seq + 1 = x.seqIn) (hb : x.seqOut = x.seqIn) :
    v.headReceive port src bs = v.headSend port src (x.last.getD []) := by
  simp [headReceive_eq, h, hp, hs, ho, hq, hb]

theorem headReceive_of_misnumbered (hq : (headMsg port src bs).seq + 1 ≠ x.seqIn) (hn : (headMsg port src bs).seq ≠ x.seqIn) :
    v.headReceive port src bs = v.headReply (headMsg port src bs).plain secBadMsg [] := by
  simp [headReceive_eq, h, hp, hs, ho, hq, hn]

variable (hq : (headMsg port src bs).seq = x.seqIn)
include hq

theorem headReceive_of_bad_tag
    (ht : openBytes x.keyIn (headIv false (headMsg port src bs).sess (headMsg port src bs).seq) (bs.take 16) (bs.drop 16) = none) :
    v.headReceive port src bs = ((v.closeSession (headMsg port src bs).sess).sessionFail (headMsg port src bs).sess x.kind).headReply
      (headMsg port src bs).plain secAuthErr [] := by
  rw [hq] at ht
  simp [headReceive_eq, h, hp, hs, ho, hq, ht]

theorem headReceive_of_good_tag {pt : List Byte}
    (ht : openBytes x.keyIn (headIv false (headMsg port src bs).sess (headMsg port src bs).seq) (bs.take 16) (bs.drop 16) = some pt) :
    v.headReceive port src bs = (v.setSession (headMsg port src bs).sess { x with seqIn := x.seqIn + 1 }).pushMsg
      { headMsg port src bs with body := pt } := by
  rw [hq] at ht
  simp [headReceive_eq, h, hp, hs, ho, hq, ht]

end
end

/-- A repeated number gets the session's last answer again. -/
theorem headSend_again (v : State) (port : Option PlPort) (src : W64) (bytes : List Byte) :
    (v.headSend port src bytes).sec.msgs = v.sec.msgs ∧ (v.headSend port src bytes).sec.sessions = v.sec.sessions ∧
    Frame [.sec, .rtr] v (v.headSend port src bytes) ∧ (port = none → .head none src bytes ∈ (v.headSend port src bytes).out) := by
  obtain ⟨⟨ha, b, hb⟩, hm⟩ := headSend_spec v port src bytes
  exact ⟨by rw [hb], by rw [hb], ha.1, fun h => by subst h; exact hm⟩

/-- A tag that fails closes the session with a report, and is answered outside it. -/
theorem headReply_closed (v : State) (m : SecMsg) (k : SessKind) :
    let r := ((v.closeSession m.sess).sessionFail m.sess k).headReply m.plain secAuthErr []
    r.session m.sess = none ∧ r.sec.msgs = v.sec.msgs ∧ reported r 0x0B 0x02 0 unitHeadland ∧ Frame [.sec, .rtr, .ctr, .ras, .serial] v r := by
  have hf := sessionFail_adds (v.closeSession m.sess) m.sess k
  have hsec : ((v.closeSession m.sess).sessionFail m.sess k).sec = (v.closeSession m.sess).sec := hf.same .sec (by decide)
  obtain ⟨-, hmsgs, hsess, ha⟩ := headReply_plain _ (msgSession_plain ((v.closeSession m.sess).sessionFail m.sess k) m) secAuthErr []
  refine ⟨?_, by rw [hmsgs, hsec]; rfl, ha.reported (sessionFail_reported ..), ?_⟩
  · rw [session_of_sessions (hsess.trans (congrArg Sec.sessions hsec))]
    exact closeSession_session_same ..
  · exact (((closeSession_adds v _).mono (by simp)).trans ((hf.mono (by simp)).trans (ha.mono (by simp)))).1

/-! The ways in. -/

theorem awake_quiet_next {c : Instr} {s : State} {f : State → State} (hc : exec c s = .next (s.quiet.whenAwake f)) (ha : s.awake = true) :
    exec c s = .next (s.quiet.settle (f s.quiet)) := by
  rw [hc, whenAwake_of_awake (s := s.quiet) f ha]

/-- A command of an awake device whose meaning leaves the device as it is changes nothing but what the fatal state asks of the ports. -/
theorem awake_idles {c : Instr} {s : State} {f : State → State} (hc : exec c s = .next (s.quiet.whenAwake f)) (ha : s.awake = true)
    (hf : f s.quiet = s.quiet) : ∃ t, exec c s = .next t ∧ Frame [.links] s t :=
  ⟨_, awake_next hc ha hf (Frame.rfl _) (by simp)⟩

theorem mboxGo_refused {p : PlPort} {s : State} (h : ((s.mbox p).busy = true ∧ (s.mbox p).asked = false) ∨ s.windowsServed = false)
    (msg : List Byte) : mboxGo p msg s = s := by
  refine if_pos ?_
  rcases h with ⟨hb, ha⟩ | hw
  · simp [hb, ha]
  · simp [hw]

theorem mboxGo_taken {p : PlPort} {s : State} (h : (s.mbox p).busy = false ∨ (s.mbox p).asked = true) (hw : s.windowsServed = true)
    (msg : List Byte) : mboxGo p msg s = (s.setMbox p { s.mbox p with busy := true, asked := false }).headReceive (some p) 0#64
      (List.takeD (s.mbox p).reqLen.toNat msg 0#8) := by
  refine if_neg ?_
  rcases h with hb | ha
  · simp [hb, hw]
  · simp [ha, hw]

/-- A fragment set is that of a message. -/
def fragIs (src : W64) (msgNo : W32) (f : FragSet) : Bool := f.src == src && f.msgNo == msgNo

theorem not_fragIs {src : W64} {msgNo : W32} {f : FragSet} (h : (!fragIs src msgNo f) = true) : ¬ (f.src = src ∧ f.msgNo = msgNo) := by
  simpa [fragIs, imp_iff_not_or] using h

/-- The fragments of a message that have come before one that announces a number of them. -/
def State.fragsOf (s : State) (src : W64) (msgNo : W32) (count : BitVec 16) : FragSet :=
  (s.sec.frags.find? (fragIs src msgNo)).getD ⟨src, msgNo, count.toNat, []⟩

/-- The fragment sets of Headland are l. -/
def State.withFrags (s : State) (l : List FragSet) : State := { s with sec := { s.sec with frags := l } }

section
variable (src : W64) (msgNo : W32) (frag count : BitVec 16) (bytes : List Byte) (s : State)

theorem mgmtDatagram_eq : mgmtDatagram src msgNo frag count bytes s =
    let old := s.fragsOf src msgNo count
    let all := tput old.frags frag.toNat bytes
    let rest := s.sec.frags.filter (fun f => !fragIs src msgNo f)
    if (!s.windowsServed) = true ∨ count.toNat ≤ frag.toNat ∨ 1400 < bytes.length then s
    else if old.count ≠ count.toNat then s
    else if all.length < old.count then s.withFrags (rest ++ [{ old with frags := all }])
    else (s.withFrags rest).headReceive none src (tvals all).flatten := by
  rfl

theorem mgmtFragmentTimeout_eq :
    mgmtFragmentTimeout src msgNo s = s.withFrags (s.sec.frags.filter (fun f => !fragIs src msgNo f)) := rfl

end

theorem withFrags_adds (s : State) (l : List FragSet) : Adds [.sec] s (s.withFrags l) := adds_sec s _

/-- A command of an awake device whose meaning is to set Headland's record to x does that, and nothing else. -/
theorem awake_setSec {c : Instr} {s : State} {f : State → State} {x : Sec} (hc : exec c s = .next (s.quiet.whenAwake f))
    (ha : s.awake = true) (hf : f s.quiet = { s.quiet with sec := x }) : ∃ t, exec c s = .next t ∧ t.sec = x ∧ Frame [.sec, .links] s t := by
  obtain ⟨hx, hF⟩ := awake_next hc ha hf ((adds_sec s.quiet x).1.mono (qs := [.sec, .links]) (by simp)) (by simp)
  exact ⟨_, hx, rfl, hF⟩

/-- Settles O52: a message comes in by one of two ways and is looked at by `headReceive`; a row takes it by `headRun`; its answer is
`headAnswer`. -/
theorem headlandTakesMessages : Obligations.HeadlandTakesMessages := by
  unfold Obligations.HeadlandTakesMessages
  refine ⟨fun p msg s ha => ⟨fun h => ?_, fun h hw => ?_⟩, fun src msgNo frag count bytes s ha => ?_, fun src msgNo s ha => ?_,
    fun v port src bs => ?_, fun e i s he ha => ⟨fun hm => ?_, fun m u st ht hg => ?_⟩, fun e i s u m he hs hx => ?_,
    fun e i s u m he hs hx => ?_, fun v m st sid body => ⟨fun p hp => ?_, fun x hx hlt => ?_, fun x hx heq => ?_⟩⟩
  · exact awake_idles rfl ha (mboxGo_refused (s := s.quiet) h msg)
  · refine ⟨_, s.quiet.setMbox p { s.mbox p with busy := true, asked := false }, awake_quiet_next rfl ha, setMbox_mbox_same .., ?_, ?_⟩
    · exact (Frame.quiet s).trans (setMbox_adds ..).1
    · rw [mboxGo_taken (s := s.quiet) h hw]
      rfl
  · intro isIt old all rest
    refine ⟨fun h => ?_, fun hw hlt hlen hold => ⟨fun hall => ?_, fun hall => ?_⟩⟩
    · refine awake_idles rfl ha ((mgmtDatagram_eq src msgNo frag count bytes s.quiet).trans ?_)
      by_cases hin : (!s.windowsServed) = true ∨ count.toNat ≤ frag.toNat ∨ 1400 < bytes.length
      · exact if_pos hin
      · refine (if_neg hin).trans (if_pos ?_)
        rcases h with h | h | h | h
        · exact absurd (.inl (by simp [h])) hin
        · exact absurd (.inr (.inl h)) hin
        · exact absurd (.inr (.inr h)) hin
        · exact h
    · refine awake_setSec rfl ha ((mgmtDatagram_eq src msgNo frag count bytes s.quiet).trans ?_)
      refine (if_neg (by simp [hlt, hlen, show s.quiet.windowsServed = true from hw])).trans ((if_neg (fun h => h hold)).trans (if_pos ?_))
      exact Nat.lt_of_lt_of_eq hall hold.symm
    · refine ⟨_, awake_quiet_next rfl ha, congrArg s.quiet.settle ((mgmtDatagram_eq src msgNo frag count bytes s.quiet).trans ?_)⟩
      refine (if_neg (by simp [hlt, hlen, show s.quiet.windowsServed = true from hw])).trans ((if_neg (fun h => h hold)).trans (if_neg ?_))
      exact Nat.not_lt.2 (hold.trans_le hall)
  · obtain ⟨t, hx, hsec, hF⟩ := awake_setSec (c := .mgmtFragmentTimeout src msgNo) rfl ha (mgmtFragmentTimeout_eq src msgNo s.quiet)
    refine ⟨t, hx, fun f hf => ?_, hF⟩
    rw [hsec] at hf
    exact not_fragIs (List.mem_filter.1 hf).2
  · intro m plain r
    refine ⟨fun hw => ?_, fun hw hp => ?_, fun hw hp hx => ?_, fun x hw hp hx ho => ⟨fun hq hb => ?_, fun hq hn => ?_, fun hq hn => ?_,
      fun pt hq ht => ?_⟩⟩
    · have hr : r = v.headReply m.plain secBadMsg [] := headReceive_of_malformed v port src hw
      obtain ⟨h1, h2, h3, h4⟩ := headReply_plain v (msgSession_plain v m) secBadMsg []
      rw [hr]
      exact ⟨h1, h2, h3, h4.1⟩
    · have hr : r = v.pushMsg m := headReceive_of_plain v port src hw hp
      rw [hr]
      exact ⟨rfl, (pushMsg_adds v m).1⟩
    · have hr : r = v.headReply m.plain secDenied [] := headReceive_of_unopened v port src hw hp hx
      obtain ⟨h1, h2, -, h4⟩ := headReply_plain v (msgSession_plain v m) secDenied []
      rw [hr]
      exact ⟨h1, h2, h4.1⟩
    · have hr : r = v.headSend port src (x.last.getD []) := headReceive_of_repeated v port src hw hp hx ho hq hb
      rw [hr]
      exact headSend_again ..
    · have hr : r = v.headReply m.plain secBadMsg [] := headReceive_of_misnumbered v port src hw hp hx ho hq hn
      obtain ⟨h1, h2, -, h4⟩ := headReply_plain v (msgSession_plain v m) secBadMsg []
      rw [hr]
      exact ⟨h1, h2, h4.1⟩
    · have hr : r = ((v.closeSession m.sess).sessionFail m.sess x.kind).headReply m.plain secAuthErr [] :=
        headReceive_of_bad_tag v port src hw hp hx ho hq hn
      rw [hr]
      exact headReply_closed v m x.kind
    · have hr : r = (v.setSession m.sess { x with seqIn := x.seqIn + 1 }).pushMsg { m with body := pt } :=
        headReceive_of_good_tag v port src hw hp hx ho hq ht
      rw [hr]
      exact ⟨rfl, setSession_session_same .., ((setSession_adds ..).trans (pushMsg_adds ..)).1⟩
  · obtain ⟨f, hf⟩ := row_runs i he ha (fun m h => (hm m h).1)
    rw [runsRow, headRun_idle (fun m h => (hm m h).2)] at hf
    exact ⟨_, hf, settle_frame (Frame.rfl _) (by simp)⟩
  · obtain ⟨f, hf⟩ := row_runs i he ha (not_started_of_takes ht)
    rw [runsRow, headRun_gated ht hg] at hf
    exact headAnswersIn_of hf (takes_pending ht)
  · obtain ⟨g, hg⟩ := operatorRow_runs i he hs.1.1 (not_started_of_takes hs.1)
    rw [runsRow, headRun_served hs, headOperator_of_none hx] at hg
    exact headAnswersIn_of hg (takes_pending hs.1)
  · obtain ⟨g, hg⟩ := tenantRow_runs i he hs.1.1
    rw [runsRow, headRun_served hs, headTenant_of_none hx] at hg
    exact headAnswersIn_of hg (takes_pending hs.1)
  · rw [headAnswer_mbox hp]
    exact ⟨rfl, rfl, rfl⟩
  · exact ⟨_, (headAnswer_session hx st body sid).trans (if_neg (by omega))⟩
  · exact (headAnswer_session hx st body sid).trans (if_pos (by omega))

end Sys2Proof.Machine

/-! PROOFS. Certificates, the report, sessions' handshake and end, and the operator root (R491, R492, R494, R497, R498). -/

namespace Sys2Proof.Machine

section
variable {s u : State} {i cmd : Nat} {m : SecMsg} {c : Instr}

theorem takes_state (h : s.takes i cmd m u) : ∃ l, u = { s.quiet with sec := { s.sec with msgs := l } } := ⟨_, h.2.2.2.2⟩

/-- What a served command does beyond taking its message: a frame from the state without the message is one from the state it found. -/
theorem served_frame {ps : List Part} {t : State} (h : s.takes i cmd m u) (hs : Part.sec ∈ ps) (hf : Frame ps u t) : Frame ps s t := by
  refine (Frame.quiet s).trans (((takes_frame h).mono ?_).trans hf)
  simpa using hs

theorem settle_frame_of {ps : List Part} {s u v : State} (h : Frame ps s v) (hp : Part.links ∈ ps) (hq : s.pending = u.pending) :
    Frame ps s (u.settle v) := by
  refine h.trans ⟨hq.symm.trans h.1.symm, fun p hn => ?_⟩
  cases p
  case links => exact absurd hp hn
  all_goals rfl

/-- A served command that answers its message on the state v. -/
theorem headAnswersIn_of_served {v : State} {st : Nat} {body : List Byte} {sid : Nat} (h : s.serves i cmd m u)
    (hc : exec c s = .next (s.quiet.settle (v.headAnswer m st body sid))) (hv : v.pending = u.pending) : headAnswersIn c s v m st body sid :=
  headAnswersIn_of hc (hv.trans (takes_pending h.1))

theorem fromTenant_not_fromOperator {t : Tenant} (h : u.fromTenant m t) (x : Session) : ¬ u.fromOperator m x := by
  obtain ⟨y, hy, hk⟩ := h
  rintro ⟨hx, ho⟩
  rw [hy] at hx
  cases hx
  rw [hk] at ho
  cases ho

theorem msgTenant_of_fromTenant {t : Tenant} (h : u.fromTenant m t) : u.msgTenant m = some t := by
  obtain ⟨y, hy, hk⟩ := h
  simp only [State.msgTenant, hy, hk]

theorem msgTenant_of_fromOperator {x : Session} (h : u.fromOperator m x) : u.msgTenant m = none := by
  simp only [State.msgTenant, h.1, h.2]

theorem msgTenant_of_neither (ht : ∀ t, ¬ u.fromTenant m t) : u.msgTenant m = none := by
  unfold State.msgTenant
  cases hs : u.msgSession m with
  | none => rfl
  | some x =>
    dsimp only
    split
    · exact absurd ⟨x, hs, ‹_›⟩ (ht _)
    · rfl

theorem handshake_of_some {x : Session} (h : u.handshake m = some x) : m.prot = false := by
  cases hp : m.prot with
  | false => rfl
  | true => simp [State.handshake, hp] at h

end

/-! The operator root. -/

/-- An operator root takes its place, in the flash as well where there is one (R494). -/
def State.storeRoot (s : State) (key : List Byte) : State :=
  { s with sec := { s.sec with root := some key },
           plt := { s.plt with flash := if s.plt.flash.present then { s.plt.flash with root := some key } else s.plt.flash } }

theorem storeRoot_adds (s : State) (key : List Byte) : Adds [.sec, .plt] s (s.storeRoot key) :=
  adds_of_same rfl rfl (fun p => by cases p <;> simp [Part.same, State.storeRoot])

theorem closeSessions_adds (s : State) (f : Session → Bool) : Adds [.sec] s (s.closeSessions f) := adds_sec s _

theorem not_mem_closeSessions {s : State} {f : Session → Bool} {e : Nat × Session} (h : e ∈ (s.closeSessions f).sec.sessions) :
    f e.2 = false := by
  simpa using (List.mem_filter.1 h).2

theorem isOp_iff {u : State} {m : SecMsg} : (u.msgSession m).any (fun x => x.kind == .operator) = true ↔ ∃ x, u.fromOperator m x := by
  cases h : u.msgSession m with
  | none => simp [State.fromOperator, h]
  | some x => simp [State.fromOperator, h]

theorem prot_of_msgSession {u : State} {m : SecMsg} {x : Session} (h : u.msgSession m = some x) : m.prot = true := by
  cases hp : m.prot with
  | true => rfl
  | false => simp [State.msgSession, hp] at h

/-- The row of OPERATOR_ROOT_SET. -/
theorem operatorRootSet_next {s u : State} {i : Nat} {m : SecMsg} (h : s.serves i 0x20 m u) :
    exec (.operatorRootSet i) s = .next (s.quiet.settle (
      let isOp : Bool := (u.msgSession m).any (fun x => x.kind == .operator)
      if m.prot && !isOp then u.headReply m secDenied []
      else match u.sec.root with
      | none =>
        if m.body.length ≠ 7219 ∨ !bodyZero (m.body.drop 2592) 0 4627 then u.headReply m secBadMsg []
        else (u.storeRoot (m.body.take 2592)).headReply m secOk []
      | some r =>
        if !isOp then u.headReply m secDenied []
        else if m.body.length ≠ 7219 then u.headReply m secBadMsg []
        else if !Config.mldsaVerify r (m.body.take 2592) (m.body.drop 2592) then u.headReply m secAuthErr []
        else ((u.storeRoot (m.body.take 2592)).headReply m secOk []).closeSessions (fun x => x.isOpen && x.kind == .operator))) :=
  (served_next rfl h).trans rfl

/-- A new root in an operator's session. -/
theorem operatorRootSet_next_of_root {s u : State} {i : Nat} {m : SecMsg} {x : Session} {r : List Byte} (h : s.serves i 0x20 m u)
    (hx : u.fromOperator m x) (hr : u.sec.root = some r) : exec (.operatorRootSet i) s = .next (s.quiet.settle (
      if m.body.length ≠ 7219 then u.headReply m secBadMsg []
      else if !Config.mldsaVerify r (m.body.take 2592) (m.body.drop 2592) then u.headReply m secAuthErr []
      else ((u.storeRoot (m.body.take 2592)).headReply m secOk []).closeSessions (fun x => x.isOpen && x.kind == .operator))) := by
  simp [operatorRootSet_next h, hr, isOp_iff.2 ⟨x, hx⟩]

/-! Sessions. -/

/-- A new handshake, and its number taken (R492). -/
def State.openHandshake (u : State) (x : Session) : State :=
  let v := { u with sec := { u.sec with nextSess := u.sec.nextSess + 1 }, serial := u.serial + 1 }
  v.setSession u.sec.nextSess x

theorem openHandshake_adds (u : State) (x : Session) : Adds [.sec, .serial] u (u.openHandshake x) :=
  adds_of_same rfl rfl (fun p => by cases p <;> simp [Part.same, State.openHandshake])

/-- A client's handshake has the layout of R492. -/
def sessionClean (b : List Byte) : Prop :=
  b.length = 1608 ∧ bodyZero b 1 1 = true ∧ bodyZero b 4 4 = true ∧
    ((fieldAt b 0 1 = 1 ∧ fieldAt b 2 2 = 0xFFFF) ∨ (fieldAt b 0 1 = 2 ∧ fieldAt b 2 2 < 1024))

theorem not_sessionClean_iff (b : List Byte) : (b.length ≠ 1608 ∨ (!bodyZero b 1 1) = true ∨ (!bodyZero b 4 4) = true ∨
    (!((fieldAt b 0 1 == 1 && fieldAt b 2 2 == 0xFFFF) || (fieldAt b 0 1 == 2 && decide (fieldAt b 2 2 < 1024)))) = true) ↔
    ¬ sessionClean b := by
  rw [sessionClean, not_and_or, not_and_or, not_and_or]
  simp [imp_iff_not_or]

/-- Headland's nonce and ciphertext for a handshake. -/
def State.openPart (u : State) (b : List Byte) : List Byte :=
  List.takeD 32 (Config.entropy u.serial) 0#8 ++ List.takeD 1568 (Config.mlkemEncaps u.serial (b.drop 40)).1 0#8

/-- Its signature over the handshake so far. -/
def State.openSig (u : State) (b : List Byte) : List Byte :=
  List.takeD 4627 (Config.attestSign u.attestBase (sha3 (b ++ u.openPart b))) 0#8

def State.newHandshake (u : State) (m : SecMsg) : Session :=
  { kind := if fieldAt m.body 0 1 = 1 then .operator else .tenant (BitVec.ofNat 10 (fieldAt m.body 2 2)), isOpen := false,
    transcript := m.body ++ u.openPart m.body ++ u.openSig m.body, shared := (Config.mlkemEncaps u.serial (m.body.drop 40)).2, certs := [],
    keyIn := [], keyOut := [], seqIn := 0, seqOut := 0, last := none, port := m.port, update := none }

/-- The row of SESSION_OPEN. -/
theorem sessionOpen_next {s u : State} {i : Nat} {m : SecMsg} (h : s.serves i 0x10 m u) :
    exec (.sessionOpen i) s = .next (s.quiet.settle (
      if m.prot then u.headReply m secDenied []
      else if m.body.length ≠ 1608 ∨ !bodyZero m.body 1 1 ∨ !bodyZero m.body 4 4 ∨
          !((fieldAt m.body 0 1 == 1 && fieldAt m.body 2 2 == 0xFFFF) || (fieldAt m.body 0 1 == 2 && decide (fieldAt m.body 2 2 < 1024)))
        then u.headReply m secBadMsg []
      else if 256 ≤ u.sec.sessions.length then u.headReply m secFull []
      else (u.openHandshake (u.newHandshake m)).headAnswer m secOk (u.openPart m.body ++ u.openSig m.body) u.sec.nextSess)) :=
  (served_next rfl h).trans rfl

/-- A certificate of a handshake has its length in front (R492). -/
def certClean (b : List Byte) : Prop := b.length = 4 + fieldAt b 0 4 ∧ 4 ≤ b.length ∧ fieldAt b 0 4 ≤ 16000

theorem not_certClean_iff (b : List Byte) : (b.length ≠ 4 + fieldAt b 0 4 ∨ b.length < 4 ∨ 16000 < fieldAt b 0 4) ↔ ¬ certClean b := by
  unfold certClean
  omega

/-- The client's signature verifies under its key. -/
def State.clientSigned (u : State) (x : Session) (sig : List Byte) : Bool :=
  match u.clientKey x with
  | some k => Config.mldsaVerify k (sha3 x.transcript) sig
  | none => false

section
variable {s u : State} {i : Nat} {m : SecMsg}

theorem sessionCert_of_handshake {x : Session} (h : s.serves i 0x13 m u) (hx : u.handshake m = some x) :
    exec (.sessionCert i) s = .next (s.quiet.settle (
      if m.body.length ≠ 4 + fieldAt m.body 0 4 ∨ m.body.length < 4 ∨ 16000 < fieldAt m.body 0 4 then u.headAnswer m secBadMsg [] m.sess
      else if x.kind ≠ .operator ∨ 3 ≤ x.certs.length then u.headAnswer m secBadState [] m.sess
      else (u.setSession m.sess { x with certs := x.certs ++ [m.body.drop 4], transcript := x.transcript ++ m.body }).headAnswer m secOk []
        m.sess)) := by
  rw [show exec (.sessionCert i) s = _ from served_next rfl h]
  simp [handshake_of_some hx, hx]

theorem sessionFinish_of_handshake {x : Session} (h : s.serves i 0x11 m u) (hx : u.handshake m = some x) :
    exec (.sessionFinish i) s = .next (s.quiet.settle (
      if m.body.length ≠ 4627 then u.headAnswer m secBadMsg [] m.sess
      else if !u.clientSigned x m.body then ((u.closeSession m.sess).sessionFail m.sess x.kind).headAnswer m secAuthErr [] m.sess
      else
        let k := sha3 (x.shared ++ sha3 (x.transcript ++ m.body))
        (u.setSession m.sess { x with isOpen := true, keyIn := k.take 32, keyOut := k.drop 32, transcript := [], shared := [] }).headAnswer
          m secOk [] m.sess)) := by
  rw [show exec (.sessionFinish i) s = _ from served_next rfl h]
  simp [handshake_of_some hx, hx, State.clientSigned] <;> rfl

end

/-- Settles O53, row by row: each clause is one branch of the row's equation. -/
theorem sessionsOpenAndAttest : Obligations.SessionsOpenAndAttest := by
  unfold Obligations.SessionsOpenAndAttest
  refine ⟨fun i s u m h => ?_, fun i s u m h => ?_, fun i s u m h => ?_, fun i s u m h => ?_, fun i s u m h => ?_, fun i s u m h => ?_,
    fun n s ha => ?_, fun i s u m h => ?_⟩
  · intro n cert
    refine ⟨fun hb => ?_, fun h1 h2 h3 => ?_⟩
    · exact headAnswersIn_of_row rfl h (if_pos (by simpa using hb)) rfl
    · exact headAnswersIn_of_row rfl h (if_neg (by simp [h1, h3]; exact h2)) rfl
  · refine ⟨fun hb => ?_, fun hb hx ht => ?_, fun x hb hx => ?_, fun t hb ht => ?_⟩
    · exact headAnswersIn_of_row rfl h (if_pos hb) rfl
    · exact headAnswersIn_of_row rfl h ((if_neg (fun k => k hb)).trans (by rw [msgTenant_of_neither ht]; rfl)) rfl
    · exact headAnswersIn_of_row rfl h ((if_neg (fun k => k hb)).trans (by rw [msgTenant_of_fromOperator hx]; rfl)) rfl
    · exact headAnswersIn_of_row rfl h ((if_neg (fun k => k hb)).trans (by rw [msgTenant_of_fromTenant ht]; rfl)) rfl
  · intro k tn clean enc part sig
    have hr := sessionOpen_next h
    refine ⟨fun hp => ?_, fun hp hc => ?_, fun hp hc hfull => ?_, fun hp hc hroom => ?_⟩
    · rw [if_pos hp] at hr
      exact headAnswersIn_of_served h hr rfl
    · rw [if_neg (by simp [hp]), if_pos ((not_sessionClean_iff _).2 hc)] at hr
      exact headAnswersIn_of_served h hr rfl
    · rw [if_neg (by simp [hp]), if_neg (fun k => (not_sessionClean_iff _).1 k hc), if_pos hfull] at hr
      exact headAnswersIn_of_served h hr rfl
    · rw [if_neg (by simp [hp]), if_neg (fun k => (not_sessionClean_iff _).1 k hc), if_neg (by omega)] at hr
      exact ⟨_, u.newHandshake m, headAnswersIn_of_served h hr rfl, setSession_session_same .., rfl, rfl, rfl, rfl, rfl, rfl, rfl, rfl, rfl,
        (openHandshake_adds ..).1⟩
  · intro n clean
    refine ⟨fun hp => ?_, fun hp hx => ?_, fun x hx => ⟨fun hc => ?_, fun hc hk => ?_, fun hc hk hlen => ?_⟩⟩
    · exact headAnswersIn_of_row rfl h (if_pos hp) rfl
    · exact headAnswersIn_of_row rfl h (by simp [hp, hx]; rfl) rfl
    · have hr := sessionCert_of_handshake h hx
      rw [if_pos ((not_certClean_iff _).2 hc)] at hr
      exact headAnswersIn_of_served h hr rfl
    · have hr := sessionCert_of_handshake h hx
      rw [if_neg (fun k => (not_certClean_iff _).1 k hc), if_pos hk] at hr
      exact headAnswersIn_of_served h hr rfl
    · have hr := sessionCert_of_handshake h hx
      rw [if_neg (fun k => (not_certClean_iff _).1 k hc), if_neg (by simp [hk, hlen])] at hr
      exact headAnswersIn_of_served h hr rfl
  · refine ⟨fun hp => ?_, fun hp hx => ?_, fun x hx => ?_⟩
    · exact headAnswersIn_of_row rfl h (if_pos hp) rfl
    · exact headAnswersIn_of_row rfl h (by simp [hp, hx]; rfl) rfl
    intro k
    have hr := sessionFinish_of_handshake h hx
    refine ⟨fun hb => ?_, fun hb hk => ?_, fun c hb hk hv => ?_⟩
    · rw [if_pos hb] at hr
      exact headAnswersIn_of_served h hr rfl
    · have hs : u.clientSigned x m.body = false := by
        unfold State.clientSigned
        cases hc : u.clientKey x with
        | none => rfl
        | some c => exact hk c hc
      rw [if_neg (fun k => k hb), if_pos (by simp [hs])] at hr
      have ha := sessionFail_adds (u.closeSession m.sess) m.sess x.kind
      refine ⟨_, headAnswersIn_of_served h hr ha.1.1, ?_, sessionFail_reported .., ?_⟩
      · rw [session_of_sessions (congrArg Sec.sessions (ha.same .sec (by decide)))]
        exact closeSession_session_same ..
      · exact (((closeSession_adds u _).mono (by simp)).trans (ha.mono (by simp))).1
    · have hs : u.clientSigned x m.body = true := by rw [State.clientSigned, hk]; exact hv
      rw [if_neg (fun k => k hb), if_neg (by simp [hs])] at hr
      exact headAnswersIn_of_served h hr rfl
  · refine ⟨fun hx => ?_, fun x hx => ⟨fun hb => ?_, fun hb => ?_⟩⟩
    · exact headAnswersIn_of_row rfl h (by simp only [hx]; rfl) rfl
    · exact headAnswersIn_of_row rfl h (by simp only [hx]; exact if_pos hb) rfl
    · have hr : exec (.sessionClose i) s = .next (s.quiet.settle ((u.headReply m secOk []).closeSession m.sess)) := by
        rw [show exec (.sessionClose i) s = _ from served_next rfl h]
        simp [hx, hb]
      obtain ⟨ha, hm, -, -⟩ := headAnswer_spec u m secOk [] 0
      refine ⟨_, hr, hm, closeSession_session_same .., ?_⟩
      refine settle_frame_of (served_frame h.1 (by simp) ?_) (by simp) rfl
      exact ((ha.mono (by simp)).trans ((closeSession_adds _ _).mono (by simp))).1
  · obtain ⟨t, ht, hsec, hF⟩ := awake_setSec (c := .sessionIdleTimeout n) (f := fun st => st.closeSession n.toNat) rfl ha rfl
    exact ⟨t, ht, by unfold State.session; rw [hsec]; exact tget_tdel_same .., by rw [hsec]; rfl, hF⟩
  · intro key sig
    have hr := operatorRootSet_next h
    refine ⟨fun hp hx => ?_, fun hroot hx => ⟨fun hb => ?_, fun hb hz => ?_⟩, fun r hroot hp => ?_,
      fun r x hroot hx => ⟨fun hb => ?_, fun hb hv => ?_, fun hb hv => ?_⟩⟩
    · have ho := Bool.eq_false_iff.2 (fun k => not_exists.2 hx (isOp_iff.1 k))
      simp only [hp, ho, Bool.not_false, Bool.and_true, if_true] at hr
      exact headAnswersIn_of_served h hr rfl
    · have hg : (m.prot && !(u.msgSession m).any (fun x => x.kind == .operator)) = false := by
        rcases hx with hp | hx
        · simp [hp]
        · simp [isOp_iff.2 hx]
      simp only [hg, hroot, Bool.false_eq_true, if_false] at hr
      rw [if_pos (by simpa using hb)] at hr
      exact headAnswersIn_of_served h hr rfl
    · have hg : (m.prot && !(u.msgSession m).any (fun x => x.kind == .operator)) = false := by
        rcases hx with hp | hx
        · simp [hp]
        · simp [isOp_iff.2 hx]
      simp only [hg, hroot, Bool.false_eq_true, if_false] at hr
      rw [if_neg (by simpa using ⟨hb, hz⟩)] at hr
      exact ⟨_, headAnswersIn_of_served h hr rfl, rfl, fun hf => if_pos hf, (storeRoot_adds ..).1⟩
    · have ho : (u.msgSession m).any (fun x => x.kind == .operator) = false := by simp [State.msgSession, hp]
      simp only [hp, hroot, ho, Bool.false_and, Bool.not_false, Bool.false_eq_true, if_false, if_true] at hr
      exact headAnswersIn_of_served h hr rfl
    · have hr := operatorRootSet_next_of_root h hx hroot
      rw [if_pos hb] at hr
      exact headAnswersIn_of_served h hr rfl
    · have hr := operatorRootSet_next_of_root h hx hroot
      rw [if_neg (fun k => k hb), if_pos (by simpa using hv)] at hr
      exact headAnswersIn_of_served h hr rfl
    · have hr := operatorRootSet_next_of_root h hx hroot
      rw [if_neg (fun k => k hb), if_neg (by simpa using hv)] at hr
      obtain ⟨ha, hm, ⟨b, y, hsec⟩, -⟩ := headAnswer_spec (u.storeRoot key) m secOk [] 0
      refine ⟨_, hr, hm, congrArg Sec.root hsec, fun e he hk => ?_, ?_⟩
      · rw [settle_sec] at he
        have := not_mem_closeSessions he
        simp [hk.1, hk.2] at this
      · refine settle_frame_of (served_frame h.1 (by simp) ?_) (by simp) rfl
        exact ((storeRoot_adds u key).mono (by simp)).1.trans (((ha.mono (by simp)).trans ((closeSessions_adds _ _).mono (by simp))).1)

end Sys2Proof.Machine

/-! PROOFS. Binding and removing a tenant, its teardown, its stream keys, its mode and its reel keys (R499, R500, R503, R507, R508, R513 to
R515). -/

namespace Sys2Proof.Machine

/-! Tenants and rows of their sessions. -/

@[simp] theorem setTenant_tenant_same (s : State) (t : Tenant) (x : TenantRec) : (s.setTenant t x).tenant t = x := mget_mset_same ..

theorem tenant_of_sec {s t : State} (h : t.sec = s.sec) (k : Tenant) : t.tenant k = s.tenant k :=
  congrArg (fun x : Sec => mget TenantRec.reset x.tenants k.toNat) h

section
variable {s u : State} {i cmd : Nat} {m : SecMsg} {c : Instr}

/-- A row of a tenant's session, whatever else the session holds. -/
theorem tenant_next {t : Tenant} {g : SecMsg → Tenant → State → State}
    (hc : exec c s = .next (s.quiet.whenAwake (headRun i cmd (headTenant (fun m _ t => g m t))))) (h : s.serves i cmd m u)
    (ht : u.fromTenant m t) : exec c s = .next (s.quiet.settle (g m t u)) := by
  obtain ⟨x, -, -, hx⟩ := headTenant_of ht (fun m _ t => g m t)
  rw [served_next hc h, hx]

/-- A row of an operator's session. -/
theorem operator_next {x : Session} {g : SecMsg → Session → State → State}
    (hc : exec c s = .next (s.quiet.whenAwake (headRun i cmd (headOperator g)))) (h : s.serves i cmd m u) (hx : u.fromOperator m x) :
    exec c s = .next (s.quiet.settle (g m x u)) := by
  rw [served_next hc h, headOperator_of hx]

theorem takes_nextDeferred (h : s.takes i cmd m u) : u.sec.nextDeferred = s.sec.nextDeferred := by
  obtain ⟨l, rfl⟩ := takes_state h
  rfl

theorem takes_ctr (h : s.takes i cmd m u) : u.ctr = s.ctr := by
  obtain ⟨l, rfl⟩ := takes_state h
  rfl

end

/-- A body that a row checks before it looks for the slot that the body names. -/
theorem slotGiven_none {b : Bool} {o : Option Bool} (h : b = false ∨ o = none) : (if b then o else none) = none := by
  rcases h with rfl | rfl <;> simp

theorem slotGiven_some {b : Bool} {o : Option Bool} {v : Bool} (h : b = true) (ho : o = some v) : (if b then o else none) = some v := by
  rw [h, ho, if_pos rfl]

/-! A tenant's counters. -/

/-- A tenant's counter k and its remainder go back to 0. -/
def State.clearCtr (t : Tenant) (s : State) (k : Nat) : State :=
  { s with ctr := mset 0 s.ctr (ctrTen k t.toNat) 0,
           dbg := { s.dbg with tenRem := mset 0 s.dbg.tenRem (k * 1024 + t.toNat) 0 } }

theorem clearTenant_eq (s : State) (t : Tenant) : s.clearTenant t = (List.range 9).foldl (State.clearCtr t) s := rfl

theorem clearCtr_adds (t : Tenant) (s : State) (k : Nat) : Adds [.ctr, .dbg] s (s.clearCtr t k) :=
  adds_of_same rfl rfl (fun x => by cases x <;> simp [Part.same, State.clearCtr])

theorem clearTenant_adds (s : State) (t : Tenant) : Adds [.ctr, .dbg] s (s.clearTenant t) :=
  clearTenant_eq s t ▸ Adds.foldl (clearCtr_adds t) _ s

/-- A counter that reads 0 does so whatever is cleared next. -/
theorem foldl_clearCtr_counter (t : Tenant) {off : Nat} (l : List Nat) (s : State) (hk : keysRise s.ctr = true)
    (h : s.counter off = 0 ∨ ∃ k ∈ l, ctrTen k t.toNat = off) : (l.foldl (State.clearCtr t) s).counter off = 0 := by
  induction l generalizing s with
  | nil => exact h.resolve_right (by simp)
  | cons k l ih =>
    have hc : (State.clearCtr t s k).ctr = mset 0 s.ctr (ctrTen k t.toNat) 0 := rfl
    have hn : (State.clearCtr t s k).counter off = mget 0 (mset 0 s.ctr (ctrTen k t.toNat) 0) off := rfl
    refine ih _ (hc ▸ keysRise_mset 0 hk _ _) ?_
    rw [hn]
    by_cases he : ctrTen k t.toNat = off
    · exact .inl (by rw [he, mget_mset_same])
    · rw [mget_mset_other 0 hk _ (fun e => he e.symm)]
      refine h.imp_right (fun ⟨j, hj, hjo⟩ => ⟨j, ?_, hjo⟩)
      exact (List.mem_cons.1 hj).resolve_left (fun e => he (e ▸ hjo))

theorem clearTenant_counter {s : State} (hk : keysRise s.ctr = true) (t : Tenant) {k : Nat} (h : k < 9) :
    (s.clearTenant t).counter (ctrTen k t.toNat) = 0 := by
  rw [clearTenant_eq]
  exact foldl_clearCtr_counter t _ s hk (.inr ⟨k, List.mem_range.2 h, rfl⟩)

/-! Revoking a tenant's extents. -/

theorem setExtent_extent_other (s : State) {e k : Nat} (x : Extent) (h : k ≠ e) : (s.setExtent e x).extent k = s.extent k :=
  tget_tput_other _ _ h

theorem revoke_adds (s : State) (e : Nat) (x : Extent) : Adds [.ext] s (s.revoke e x) := by
  unfold State.revoke
  split
  · exact Adds.rfl s
  · exact pushChange_adds ..

theorem revoke_extent_other (s : State) {e k : Nat} (x : Extent) (h : k ≠ e) : (s.revoke e x).extent k = s.extent k := by
  unfold State.revoke
  split
  · rfl
  · exact setExtent_extent_other _ _ h

theorem foldl_revoke_adds (l : List (Nat × Extent)) (s : State) : Adds [.ext] s (l.foldl (fun st e => st.revoke e.1 e.2) s) :=
  Adds.foldl (fun st e => revoke_adds st e.1 e.2) l s

theorem foldl_revoke_extent_other {k : Nat} (l : List (Nat × Extent)) (s : State) (h : ∀ e ∈ l, k ≠ e.1) :
    (l.foldl (fun st e => st.revoke e.1 e.2) s).extent k = s.extent k := by
  induction l generalizing s with
  | nil => rfl
  | cons e l ih =>
    exact (ih _ (fun y hy => h y (List.mem_cons_of_mem _ hy))).trans (revoke_extent_other s e.2 (h e (List.mem_cons_self ..)))

/-- Of extents listed once each, one with no revocation under way gets one. -/
theorem foldl_revoke_extent {l : List (Nat × Extent)} (hl : l.Pairwise (fun a b => a.1 < b.1)) {k : Nat} {x : Extent} (h : (k, x) ∈ l)
    (hr : x.changes.any (fun c => c.change == .revoke) = false) (s : State) :
    (l.foldl (fun st e => st.revoke e.1 e.2) s).extent k = some { x with changes := x.changes ++ [⟨.revoke, allSlices⟩] } := by
  induction l generalizing s with
  | nil => exact absurd h (by simp)
  | cons e l ih =>
    obtain ⟨he, hl⟩ := List.pairwise_cons.1 hl
    rcases List.mem_cons.1 h with rfl | h
    · rw [List.foldl_cons, foldl_revoke_extent_other l _ (fun y hy => Nat.ne_of_lt (he y hy)), State.revoke, if_neg (by simp [hr])]
      exact pushChange_extent ..
    · exact ih hl h _

/-! What a teardown ends. -/

theorem linkSlotOf_eraseOwner (c : PortCrypto) (t : Tenant) (b : Bool) :
    linkSlotOf (c.eraseOwner t) b = if (linkSlotOf c b).owner = t ∧ (linkSlotOf c b).key.isSome then { linkSlotOf c b with key := none }
      else linkSlotOf c b := by
  cases b <;> rfl

theorem eraseOwner_key {c : PortCrypto} {t : Tenant} {b : Bool} (h : (linkSlotOf c b).owner = t) :
    (linkSlotOf (c.eraseOwner t) b).key = none := by
  rw [linkSlotOf_eraseOwner]
  by_cases hk : (linkSlotOf c b).key.isSome = true
  · rw [if_pos ⟨h, hk⟩]
  · rw [if_neg (fun hc => hk hc.2)]
    simpa using hk

/-- The two Phosha Link ports' keys of a tenant are erased. -/
def State.eraseKeys (s : State) (t : Tenant) : State :=
  ([32, 33] : List LinkPort).foldl (fun st p => st.setCrypto p ((st.crypto p).eraseOwner t)) s

theorem eraseKeys_adds (s : State) (t : Tenant) : Adds [.sec] s (s.eraseKeys t) := Adds.foldl (fun st p => setCrypto_adds st p _) _ s

theorem setCrypto_crypto_same (s : State) (p : LinkPort) (c : PortCrypto) : (s.setCrypto p c).crypto p = c := mget_mset_same ..

theorem setCrypto_crypto_other {s : State} (hk : keysRise s.sec.crypto = true) {p q : LinkPort} (c : PortCrypto)
    (h : q.val - 32 ≠ p.val - 32) : (s.setCrypto p c).crypto q = s.crypto q := mget_mset_other _ hk _ h

theorem eraseKeys_crypto {s : State} (hk : keysRise s.sec.crypto = true) (t : Tenant) (p : PlPort) :
    (s.eraseKeys t).crypto (plPort p) = (s.crypto (plPort p)).eraseOwner t := by
  have h1 : keysRise (s.setCrypto 32 ((s.crypto 32).eraseOwner t)).sec.crypto = true := keysRise_mset _ hk _ _
  have he : s.eraseKeys t = (s.setCrypto 32 ((s.crypto 32).eraseOwner t)).setCrypto 33
      (((s.setCrypto 32 ((s.crypto 32).eraseOwner t)).crypto 33).eraseOwner t) := rfl
  rw [he]
  match p with
  | 0 => exact (setCrypto_crypto_other h1 (q := 32) _ (by decide)).trans (setCrypto_crypto_same ..)
  | 1 => exact (setCrypto_crypto_same ..).trans (congrArg (PortCrypto.eraseOwner · t) (setCrypto_crypto_other hk (q := 33) _ (by decide)))

/-- A step of a teardown that keeps every port's link keys, and touches no more than the parts listed. -/
structure KeepsKeys (ps : List Part) (s t : State) : Prop where
  adds : Adds ps s t
  crypto : t.sec.crypto = s.sec.crypto

namespace KeepsKeys

variable {ps : List Part} {s t u : State}

theorem rfl (s : State) : KeepsKeys ps s s := ⟨Adds.rfl s, Eq.refl _⟩

theorem trans (h : KeepsKeys ps s t) (k : KeepsKeys ps t u) : KeepsKeys ps s u := ⟨h.adds.trans k.adds, k.crypto.trans h.crypto⟩

theorem mono {qs : List Part} (h : KeepsKeys ps s t) (hs : ∀ p ∈ ps, p ∈ qs) : KeepsKeys qs s t := ⟨h.adds.mono hs, h.crypto⟩

theorem foldl {α : Type} {f : State → α → State} (h : ∀ st x, KeepsKeys ps st (f st x)) (l : List α) (s : State) :
    KeepsKeys ps s (l.foldl f s) := by
  induction l generalizing s with
  | nil => exact KeepsKeys.rfl s
  | cons x l ih => exact (h s x).trans (ih _)

theorem of_adds (h : Adds ps s t) (hp : Part.sec ∉ ps) : KeepsKeys ps s t := ⟨h, congrArg Sec.crypto (h.same .sec hp)⟩

end KeepsKeys

theorem reply_keepsKeys (s : State) (code : BitVec 8) (result : Nat) (bytes : List Byte) : KeepsKeys [.sec] s (s.reply code result bytes) := by
  refine ⟨reply_adds .., ?_⟩
  unfold State.reply
  dsimp only
  split <;> rfl

theorem settleReel_keepsKeys (s : State) (h : Nat) : KeepsKeys [.fab, .que, .sec] s (s.settleReel h) := by
  unfold State.settleReel
  split
  · exact KeepsKeys.rfl s
  · split
    · refine ((KeepsKeys.of_adds (adds_fab s _) (by simp)).mono (by simp)).trans (KeepsKeys.foldl (fun st w => ?_) _ _)
      cases w with
      | admin p c i => exact (KeepsKeys.of_adds (adminDone_adds st p stOk 0#64) (by simp)).mono (by simp)
      | mgmt => exact (reply_keepsKeys ..).mono (by simp)
    · exact KeepsKeys.rfl s

theorem unloadReel_keepsKeys (s : State) (h : Nat) (w : Option UnloadWait) : KeepsKeys [.fab, .que, .sec] s (s.unloadReel h w) := by
  unfold State.unloadReel
  split
  · exact KeepsKeys.rfl s
  · exact ((KeepsKeys.of_adds (adds_fab s _) (by simp)).mono (by simp)).trans (settleReel_keepsKeys ..)

theorem adds_xlt (s : State) (x : Xlt) : Adds [.xlt] s { s with xlt := x } :=
  adds_of_same rfl rfl (fun p => by cases p <;> simp [Part.same])

theorem startWaiting_of_none {s : State} (h : s.xlt.waiting = []) (f : Nat) : s.startWaiting f = s := by
  cases f with
  | zero => rfl
  | succ f => simp only [State.startWaiting, h]

/-- Where no access waits for a walk's slot, an invalidation touches the translation record alone, and none waits after it. -/
theorem invalidate_of_none_waiting {s : State} (h : s.xlt.waiting = []) (p : PlPort) (asid : BitVec 20) (range : Option (Nat × Nat)) :
    ∃ x : Xlt, s.invalidate p asid range = { s with xlt := x } ∧ x.waiting = [] := by
  unfold State.invalidate
  dsimp only
  rw [startWaiting_of_none (by exact h)]
  exact ⟨_, rfl, h⟩

theorem dropSpaces_of_none_waiting {s : State} (h : s.xlt.waiting = []) (t : Tenant) : ∃ x : Xlt, s.dropSpaces t = { s with xlt := x } := by
  unfold State.dropSpaces
  generalize s.xlt.spaces.filter _ = l
  induction l generalizing s with
  | nil => exact ⟨_, rfl⟩
  | cons e l ih =>
    obtain ⟨x, hx, hw⟩ := invalidate_of_none_waiting h e.2.port (BitVec.ofNat 20 e.1) none
    obtain ⟨y, hy⟩ := ih (s := { s with xlt := { x with spaces := tdel x.spaces e.1, invals := s.xlt.invals } }) hw
    exact ⟨y, by rw [List.foldl_cons, hx]; exact hy⟩

/-- A tenant's reels go. -/
def State.dropReels (s : State) (t : Tenant) : State :=
  (s.fab.reels.filter (fun r => r.2.tenant == t)).foldl (fun st r => st.unloadReel r.1 none) s

theorem dropReels_keepsKeys (s : State) (t : Tenant) : KeepsKeys [.fab, .que, .sec] s (s.dropReels t) :=
  KeepsKeys.foldl (f := fun st (r : Nat × Reel) => st.unloadReel r.1 none) (fun st r => unloadReel_keepsKeys st r.1 none) _ s

/-- A tenant's keys, reels, address spaces and binding go, with the report. -/
def State.tornDown (s : State) (t : Tenant) : State :=
  ((((s.eraseKeys t).dropReels t).dropSpaces t).setTenant t TenantRec.reset).raise
    (mkReport 0x0B 0x04 0 unitHeadland t.toNat (s.tenant t).fenceTicks)

theorem teardownComplete_eq (t : Tenant) (s : State) : teardownComplete t s =
    if !(s.tenant t).fenced || !s.fenceComplete t then s
    else (match (s.tenant t).remover with
      | some n => (s.tornDown t).headFinish n secOk []
      | none => s.tornDown t).closeSessions (fun y => y.isTenants t) := by
  rfl

theorem tornDown_tenant (s : State) (t : Tenant) : (s.tornDown t).tenant t = TenantRec.reset :=
  (tenant_of_sec ((raise_adds _ _).same .sec (by decide)) t).trans (setTenant_tenant_same ..)

theorem tornDown_reported (s : State) (t : Tenant) : reported (s.tornDown t) 0x0B 0x04 0 unitHeadland := reported_raise ..

/-- The same as a chain of steps that keep the link keys once those of the tenant are erased. -/
theorem tornDown_keepsKeys {s : State} (hw : s.xlt.waiting = []) (t : Tenant) :
    KeepsKeys [.fab, .xlt, .que, .sec, .ctr, .ras, .serial] (s.eraseKeys t) (s.tornDown t) := by
  have h1 := dropReels_keepsKeys (s.eraseKeys t) t
  have hw1 : ((s.eraseKeys t).dropReels t).xlt.waiting = [] :=
    (congrArg Xlt.waiting (h1.adds.same .xlt (by decide))).trans
      ((congrArg Xlt.waiting ((eraseKeys_adds s t).same .xlt (by decide))).trans hw)
  obtain ⟨x, hx⟩ := dropSpaces_of_none_waiting hw1 t
  unfold State.tornDown
  rw [hx]
  refine (h1.mono (by simp)).trans (KeepsKeys.trans (t := ({ (s.eraseKeys t).dropReels t with xlt := x }).setTenant t TenantRec.reset) ?_ ?_)
  · exact ⟨((adds_xlt _ x).mono (by simp)).trans ((setTenant_adds ..).mono (by simp)), rfl⟩
  · exact (KeepsKeys.of_adds (raise_adds _ _) (by simp)).mono (by simp)

end Sys2Proof.Machine

namespace Sys2Proof.Machine

/-- A command of a live device whose meaning is to set a tenant's record to x does that, and nothing else. -/
theorem live_setTenant {c : Instr} {s : State} {f : State → State} {t : Tenant} {x : TenantRec}
    (hc : exec c s = .next (s.quiet.whenLive f)) (hl : s.live = true) (hf : f s.quiet = s.quiet.setTenant t x) :
    ∃ w, exec c s = .next w ∧ w.tenant t = x ∧ Frame [.sec] s w := by
  obtain ⟨hx, hF⟩ := live_next_frame hc hl hf (setTenant_adds ..).1 (by decide)
  exact ⟨_, hx, setTenant_tenant_same .., hF⟩

/-! The commands of a tenant's life. -/

/-- A request whose answer waits takes the next number. -/
theorem headDefer_eq (s : State) (m : SecMsg) : s.headDefer m = (s.sec.nextDeferred, (s.headDefer m).2) := rfl

theorem headDefer_adds (s : State) (m : SecMsg) : Adds [.sec] s (s.headDefer m).2 := adds_sec s _

theorem headDefer_deferred (s : State) (m : SecMsg) : tget (s.headDefer m).2.sec.deferred s.sec.nextDeferred = some m := tget_tput_same ..

/-- A TENANT_REMOVE in a session. -/
theorem tenantRemove_next {s u : State} {i : Nat} {m : SecMsg} {x : Session} (h : s.serves i 0x22 m u) (hx : u.msgSession m = some x) :
    exec (.tenantRemove i) s = .next (s.quiet.settle (
      let t : Tenant := BitVec.ofNat 10 (fieldAt m.body 0 2)
      if m.body.length ≠ 4 ∨ 1024 ≤ fieldAt m.body 0 2 ∨ !bodyZero m.body 2 2 then u.headReply m secBadMsg []
      else if !(x.kind == .operator || x.kind == .tenant t) then u.headReply m secDenied []
      else if (u.tenant t).leaving then u.headReply m secBusy []
      else if (u.tenant t).key.isNone then u.headReply m secBadState []
      else (u.headDefer m).2.setTenant t { u.tenant t with removing := some 0, remover := some u.sec.nextDeferred })) := by
  rw [show exec (.tenantRemove i) s = _ from served_next rfl h]
  simp only [hx, Option.isNone_some, Bool.false_eq_true, if_false]
  rfl

section
variable {s : State} {t : Tenant}

theorem teardownFence_of_unasked (h : (s.tenant t).removing = none ∨ (s.tenant t).removing = some 0) : teardownFence t s = s := by
  rcases h with h | h <;> simp [teardownFence, h]

/-- The tenant's fence is set. -/
def State.fenceSet (s : State) (t : Tenant) : State :=
  s.setTenant t { s.tenant t with removing := none, fenced := true, fenceTicks := 0 }

/-- Every descriptor that the tenant's queue pairs hold is aborted. -/
def State.abortTenant (s : State) (t : Tenant) : State :=
  (s.que.qps.filter (fun q => q.2.cfg.tenant == t)).foldl (fun st q =>
    (st.abortQp ⟨q.1 % 4096, Nat.mod_lt _ (by decide)⟩ (fun _ => true)).2) s

/-- The tenant's extents that a fence revokes. -/
def State.revocable (s : State) (t : Tenant) : List (Nat × Extent) :=
  s.ext.extents.filter (fun e => e.2.tenant == t && (e.2.state == .granted || e.2.state == .sealed))

theorem teardownFence_of_due {n : Nat} (h : (s.tenant t).removing = some (n + 1)) :
    teardownFence t s = (((s.fenceSet t).abortTenant t).revocable t).foldl (fun st e => st.revoke e.1 e.2) ((s.fenceSet t).abortTenant t) := by
  simp [teardownFence, h, State.fenceSet, State.abortTenant, State.revocable]

theorem abortTenant_of_no_qp (h : ∀ q, q ∈ s.que.qps → q.2.cfg.tenant ≠ t) : s.abortTenant t = s := by
  unfold State.abortTenant
  rw [List.filter_eq_nil_iff.2 (fun q hq => by simpa using h q hq)]
  rfl

theorem keySwitchApply_of_waiting (h : (s.tenant t).switch = none ∨ (s.tenant t).switch = some 0) : keySwitchApply t s = s := by
  rcases h with h | h <;> simp [keySwitchApply, h]

/-- A switch already accepted stays as it is when another is (R508). -/
theorem keepsSwitch {x : TenantRec} {n : Nat} (h : x.switch = some n) : { x with switch := some (x.switch.getD 0) } = x := by
  rw [h, Option.getD_some, ← h]

/-- A tenant's loaded slot b has become active (R507). -/
def TenantRec.switched (x : TenantRec) (b : Bool) : TenantRec :=
  let o := streamSlot x (!b)
  { setStreamSlot (setStreamSlot x b { streamSlot x b with state := .active }) (!b)
      (if o.state = .active then { o with state := .retiring } else o) with switch := none }

theorem keySwitchApply_of_due {n : Nat} (h : (s.tenant t).switch = some (n + 1)) :
    keySwitchApply t s = s.setTenant t (match (s.tenant t).switchable with
      | none => { s.tenant t with switch := none }
      | some b => (s.tenant t).switched b) := by
  simp only [keySwitchApply, h]
  rw [if_neg (by omega)]
  cases (s.tenant t).switchable <;> rfl

theorem switched_spec (x : TenantRec) (b : Bool) :
    streamSlot (x.switched b) b = { streamSlot x b with state := .active } ∧
    streamSlot (x.switched b) (!b) = (if (streamSlot x (!b)).state = .active then { streamSlot x (!b) with state := .retiring }
      else streamSlot x (!b)) ∧
    (x.switched b).switch = none ∧ (x.switched b).required = x.required := by
  cases b <;> exact ⟨rfl, rfl, rfl, rfl⟩

theorem keyRetire_of_waiting (h : (s.tenant t).confirmed = none ∨ (s.tenant t).retiringSlot = none ∨
    ∃ n, (s.tenant t).confirmed = some n ∧ n < 3) : keyRetire t s = s := by
  rcases h with h | h | ⟨n, h, hlt⟩
  · simp [keyRetire, h]
  · cases hc : (s.tenant t).confirmed <;> simp [keyRetire, hc, h]
  · cases hr : (s.tenant t).retiringSlot with
    | none => simp [keyRetire, h, hr]
    | some b =>
      simp only [keyRetire, h, hr]
      exact if_pos hlt

/-- The tenant's record once a confirmed slot is EMPTY. -/
def TenantRec.retired (x : TenantRec) (b : Bool) : TenantRec := { setStreamSlot x b KeySlot.empty with confirmed := none }

theorem keyRetire_of_due {n : Nat} {b : Bool} (hc : (s.tenant t).confirmed = some n) (hn : 3 ≤ n) (hr : (s.tenant t).retiringSlot = some b) :
    keyRetire t s = (s.setTenant t ((s.tenant t).retired b)).raise (mkReport 0x0B 0x03 0 unitHeadland t.toNat (bitNat b 0)) := by
  simp only [keyRetire, hc, hr]
  exact if_neg (by omega)

theorem encModeApply_of_waiting (h : (s.tenant t).modeNext = none ∨ ∃ b, (s.tenant t).modeNext = some (b, 0)) : encModeApply t s = s := by
  rcases h with h | ⟨b, h⟩ <;> simp [encModeApply, h]

theorem encModeApply_of_due {b : Bool} {n : Nat} (h : (s.tenant t).modeNext = some (b, n + 1)) :
    encModeApply t s = s.setTenant t { s.tenant t with required := b, modeNext := none } := by
  simp [encModeApply, h]

end

theorem setTenant_raise_frame (s : State) (t : Tenant) (x : TenantRec) (r : Report) :
    Frame [.sec, .ctr, .ras, .serial] s ((s.setTenant t x).raise r) :=
  (((setTenant_adds s t x).mono (by simp)).trans ((raise_adds _ r).mono (by simp))).1

/-- Settles O54: the rows of a tenant's and an operator's sessions, each branch of which is one clause, and the commands of the boundaries. -/
theorem tenantsAndStreamKeys : Obligations.TenantsAndStreamKeys := by
  unfold Obligations.TenantsAndStreamKeys
  refine ⟨fun i s u m x h hx => ?_, fun i s u m h => ?_, fun t s hl => ⟨fun h => ?_, fun h => ?_, fun n h => ?_⟩,
    fun t s hl => ⟨fun h => ?_, fun hf hc => ?_⟩, fun i s u m t h ht => ?_, fun i s u m t h ht => ?_, fun t s hl => ?_,
    fun i s u m t h ht => ?_, fun t s hl => ?_, fun i s u m t h ht => ?_, fun i s u m t h ht => ?_,
    fun t s hl => ⟨fun h => ?_, fun b h => ?_, fun b n h => ?_⟩, fun i s u m t h ht => ?_⟩
  · dsimp only
    have hr := operator_next (c := .tenantBind i) rfl h hx
    dsimp only at hr
    refine ⟨fun hb => ?_, fun ⟨h1, h2, h3⟩ hk => ?_, fun ⟨h1, h2, h3⟩ hk hlv => ?_⟩
    · rw [if_pos (by simpa [imp_iff_not_or] using hb)] at hr
      exact headAnswersIn_of_served h hr rfl
    · rw [if_neg (by simp [h1, h3]; omega), if_pos (by simpa using hk)] at hr
      exact headAnswersIn_of_served h hr rfl
    · rw [if_neg (by simp [h1, h3]; omega), if_neg (by simp [hk, hlv])] at hr
      have ha := clearTenant_adds (u.setTenant (BitVec.ofNat 10 (fieldAt m.body 0 2))
        { u.tenant (BitVec.ofNat 10 (fieldAt m.body 0 2)) with key := some (m.body.drop 4) }) (BitVec.ofNat 10 (fieldAt m.body 0 2))
      refine ⟨_, headAnswersIn_of_served h hr ha.1.1, ?_, fun hc k hk9 => ?_, ?_⟩
      · exact (tenant_of_sec (ha.same .sec (by decide)) _).trans (setTenant_tenant_same ..)
      · exact clearTenant_counter (by rw [State.setTenant_ctr, takes_ctr h.1]; exact hc) _ hk9
      · exact (((setTenant_adds ..).mono (by simp)).trans (ha.mono (by simp))).1
  · refine ⟨fun hx => ?_, fun x hx => ?_⟩
    · exact headAnswersIn_of_row rfl h (by simp only [hx]; rfl) rfl
    have hr := tenantRemove_next h hx
    dsimp only at hr ⊢
    refine ⟨fun hb => ?_, fun ⟨h1, h2, h3⟩ ho ht => ?_, fun ⟨h1, h2, h3⟩ hk => ?_⟩
    · rw [if_pos (by simpa [imp_iff_not_or] using hb)] at hr
      exact headAnswersIn_of_served h hr rfl
    · rw [if_neg (by simp [h1, h3]; omega), if_pos (by simp [ho, ht])] at hr
      exact headAnswersIn_of_served h hr rfl
    rw [if_neg (by simp [h1, h3]; omega), if_neg (by simpa [imp_iff_not_or] using hk)] at hr
    refine ⟨fun hv => ?_, fun hv hn => ?_, fun hv hn => ?_⟩
    · rw [if_pos hv] at hr
      exact headAnswersIn_of_served h hr rfl
    · rw [if_neg (by simp [hv]), if_pos (by simp [hn])] at hr
      exact headAnswersIn_of_served h hr rfl
    · rw [if_neg (by simp [hv]), if_neg (by simpa using hn)] at hr
      refine ⟨_, hr, ?_, ?_, settle_frame_of (served_frame h.1 (by simp) ?_) (by simp) rfl⟩
      · rw [← takes_nextDeferred h.1]
        exact setTenant_tenant_same ..
      · rw [← takes_nextDeferred h.1]
        exact headDefer_deferred u m
      · exact (((headDefer_adds u m).trans (setTenant_adds ..)).mono (by simp)).1
  · exact live_idles rfl hl (teardownFence_of_unasked (s := s.quiet) (.inl h))
  · exact live_idles rfl hl (teardownFence_of_unasked (s := s.quiet) (.inr h))
  · have hx : exec (.teardownFence t) s = .next (s.quiet.settle (teardownFence t s.quiet)) := live_next rfl hl rfl
    rw [teardownFence_of_due (s := s.quiet) h] at hx
    refine ⟨_, s.quiet.fenceSet t, (s.quiet.fenceSet t).abortTenant t, hx, setTenant_tenant_same .., ?_, rfl, rfl, fun hq hk => ?_⟩
    · exact (Frame.quiet s).trans (setTenant_adds ..).1
    · rw [abortTenant_of_no_qp (s := s.quiet.fenceSet t) hq]
      have hF : Frame [.sec, .ext] s.quiet (((s.quiet.fenceSet t).revocable t).foldl (fun st e => st.revoke e.1 e.2) (s.quiet.fenceSet t)) :=
        (((setTenant_adds ..).mono (by simp)).trans ((foldl_revoke_adds _ _).mono (by simp))).1
      rw [settle_of_frame hl hF (by decide)]
      refine ⟨(Frame.quiet s).trans hF, fun e x he hit hr => ?_⟩
      refine foldl_revoke_extent ((keysRise_iff _).1 (keysRise_filter hk _)) ?_ hr _
      exact List.mem_filter.2 ⟨mem_of_tget he, hit⟩
  · refine live_idles rfl hl ((teardownComplete_eq t s.quiet).trans (if_pos ?_))
    rcases h with h | h
    · simp [show (s.quiet.tenant t).fenced = false from h]
    · simp [show s.quiet.fenceComplete t = false from h]
  · have hx : exec (.teardownComplete t) s = .next (s.quiet.settle (teardownComplete t s.quiet)) := live_next rfl hl rfl
    rw [teardownComplete_eq, if_neg (by simp [show (s.quiet.tenant t).fenced = true from hf, show s.quiet.fenceComplete t = true from hc])] at hx
    refine ⟨_, s.quiet.tornDown t, hx, tornDown_tenant .., tornDown_reported .., fun hw hk p b ho => ?_, fun hw => ?_, rfl, fun e he => ?_⟩
    · have hc : (s.quiet.tornDown t).crypto (plPort p) = (s.crypto (plPort p)).eraseOwner t :=
        (congrArg (fun x => mget PortCrypto.reset x ((plPort p).val - 32)) (tornDown_keepsKeys (s := s.quiet) hw t).crypto).trans
          (eraseKeys_crypto (s := s.quiet) hk t p)
      rw [hc]
      exact eraseOwner_key ho
    · exact (Frame.quiet s).trans (((eraseKeys_adds ..).mono (by simp)).trans (tornDown_keepsKeys (s := s.quiet) hw t).adds).1
    · rw [settle_sec] at he
      simpa [Session.isTenants] using not_mem_closeSessions he
  · have hr := tenant_next (c := .keyInstall i) rfl h ht
    dsimp only at hr ⊢
    refine ⟨fun hb => ?_, fun b hc hb => ⟨fun hk => ?_, fun h1 h2 h3 => ?_⟩⟩
    · rw [slotGiven_none hb] at hr
      exact headAnswersIn_of_served h hr rfl
    · rw [slotGiven_some hc hb] at hr
      dsimp only at hr
      rw [if_pos (by simpa [or_assoc] using hk)] at hr
      exact headAnswersIn_of_served h hr rfl
    · rw [slotGiven_some hc hb] at hr
      dsimp only at hr
      rw [if_neg (by simp [h1, h2, h3])] at hr
      exact headAnswersIn_of_served h hr rfl
  · have hr := tenant_next (c := .keySwitch i) rfl h ht
    dsimp only at hr ⊢
    refine ⟨fun hb => ?_, fun hb hk => ?_, fun hb h1 h2 h3 => ?_, fun n hb h1 h2 h3 => ?_⟩
    · rw [if_pos hb] at hr
      exact headAnswersIn_of_served h hr rfl
    · rw [if_neg (fun k => k hb), if_pos (by simpa using hk)] at hr
      exact headAnswersIn_of_served h hr rfl
    · rw [if_neg (fun k => k hb), if_neg (by simpa [h1] using h2), h3] at hr
      exact headAnswersIn_of_served h hr rfl
    · rw [if_neg (fun k => k hb), if_neg (by simpa [h1] using h2), keepsSwitch h3] at hr
      exact headAnswersIn_of_served h hr rfl
  · dsimp only
    refine ⟨fun h => live_idles rfl hl (keySwitchApply_of_waiting (s := s.quiet) (.inl h)),
      fun h => live_idles rfl hl (keySwitchApply_of_waiting (s := s.quiet) (.inr h)), fun n h hn => ?_, fun n b h hb => ?_⟩
    · refine live_setTenant rfl hl ((keySwitchApply_of_due (s := s.quiet) h).trans ?_)
      rw [show (s.quiet.tenant t).switchable = none from hn]
      rfl
    · have he := keySwitchApply_of_due (s := s.quiet) h
      rw [show (s.quiet.tenant t).switchable = some b from hb] at he
      obtain ⟨w, hw, hx, hF⟩ := live_setTenant (c := .keySwitchApply t) rfl hl he
      obtain ⟨h1, h2, h3, h4⟩ := switched_spec (s.tenant t) b
      refine ⟨w, hw, ?_⟩
      rw [hx]
      exact ⟨h1, h2, h3, h4, hF⟩
  · have hr := tenant_next (c := .keyConfirm i) rfl h ht
    dsimp only at hr ⊢
    refine ⟨fun hb => ?_, fun hb hk => ?_, fun hb hk => ?_⟩
    · rw [if_pos hb] at hr
      exact headAnswersIn_of_served h hr rfl
    · rw [if_neg (fun k => k hb), if_pos (by simpa using hk)] at hr
      exact headAnswersIn_of_served h hr rfl
    · rw [if_neg (fun k => k hb), if_neg (by simpa using hk)] at hr
      exact headAnswersIn_of_served h hr rfl
  · dsimp only
    refine ⟨fun h => live_idles rfl hl (keyRetire_of_waiting (s := s.quiet) (h.imp_right .inl)),
      fun n h hn => live_idles rfl hl (keyRetire_of_waiting (s := s.quiet) (.inr (.inr ⟨n, h, hn⟩))), fun n b h hn hb => ?_⟩
    obtain ⟨hx, hF⟩ := live_next_frame (i := .keyRetire t) rfl hl (keyRetire_of_due (s := s.quiet) h hn hb) (setTenant_raise_frame ..)
      (by decide)
    refine ⟨_, hx, ?_, reported_raise .., hF⟩
    exact (tenant_of_sec ((raise_adds _ _).same .sec (by decide)) t).trans (setTenant_tenant_same ..)
  · have hr := tenant_next (c := .keyDestroy i) rfl h ht
    dsimp only at hr ⊢
    refine ⟨fun hb => ?_, fun b hc hb => ⟨fun hk => ?_, fun hk => ?_, fun hk => ?_⟩⟩
    · rw [slotGiven_none hb] at hr
      exact headAnswersIn_of_served h hr rfl
    · rw [slotGiven_some hc hb] at hr
      dsimp only at hr
      rw [if_pos hk] at hr
      exact headAnswersIn_of_served h hr rfl
    · rw [slotGiven_some hc hb] at hr
      dsimp only at hr
      rw [if_neg (by simp [hk]), if_pos hk] at hr
      exact headAnswersIn_of_served h hr rfl
    · have hne : (streamSlot (u.tenant t) b).state ≠ .empty ∧ (streamSlot (u.tenant t) b).state ≠ .retiring := by
        rcases hk with hk | ⟨hk, -⟩ <;> simp [hk]
      rw [slotGiven_some hc hb] at hr
      dsimp only at hr
      rw [if_neg (fun k => k.elim hne.1 (fun k => by rcases hk with hk | ⟨-, hk⟩ <;> simp [hk] at k)), if_neg hne.2] at hr
      exact headAnswersIn_of_served h hr rfl
  · have hr := tenant_next (c := .encMode i) rfl h ht
    dsimp only at hr ⊢
    refine ⟨fun hb => ?_, fun b hc hb => ⟨fun hk => ?_, fun h1 h2 h3 => ?_⟩⟩
    · rw [slotGiven_none hb] at hr
      exact headAnswersIn_of_served h hr rfl
    · rw [slotGiven_some hc hb] at hr
      dsimp only at hr
      rw [if_pos ?_] at hr
      · exact headAnswersIn_of_served h hr rfl
      · rcases hk with hk | ⟨rfl, hk⟩ | ⟨rfl, hk⟩
        · simp [hk]
        · simp [not_or.1 hk]
        · simp [hk]
    · rw [slotGiven_some hc hb] at hr
      dsimp only at hr
      rw [if_neg ?_] at hr
      · exact headAnswersIn_of_served h hr rfl
      · cases b with
        | true => simpa [h1, imp_iff_not_or] using h2 rfl
        | false => simp [h1, h3 rfl]
  · exact live_idles rfl hl (encModeApply_of_waiting (s := s.quiet) (.inl h))
  · exact live_idles rfl hl (encModeApply_of_waiting (s := s.quiet) (.inr ⟨b, h⟩))
  · exact live_setTenant rfl hl (encModeApply_of_due (s := s.quiet) h)
  · have hr := tenant_next (c := .reelKeyEnroll i) rfl h ht
    dsimp only at hr ⊢
    refine ⟨fun hb => ?_, fun hb hk => ?_, fun hb hk => ?_⟩
    · rw [if_pos hb] at hr
      exact headAnswersIn_of_served h hr rfl
    · rw [if_neg (fun k => k hb), if_pos hk] at hr
      exact headAnswersIn_of_served h hr rfl
    · rw [if_neg (fun k => k hb), if_neg (by omega)] at hr
      exact headAnswersIn_of_served h hr rfl

end Sys2Proof.Machine

/-! PROOFS. Sealing, link keys, telemetry, firmware, debug access, fuses, and management commands in a session (R486, R491, R496, R501, R502,
R510, R512, R518, R521, R536, R538). -/

namespace Sys2Proof.Machine

/-! Seals. -/

theorem extent_of_takes {s u : State} {i cmd : Nat} {m : SecMsg} (h : s.takes i cmd m u) (e : Nat) : u.extent e = s.extent e := by
  obtain ⟨l, rfl⟩ := takes_state h
  rfl

theorem changeSeal_adds (s : State) (m : SecMsg) (e : Nat) (x : Extent) (c : ExtChange) : Adds [.sec, .ext] s (s.changeSeal m e x c) :=
  ((headDefer_adds s m).mono (by simp)).trans ((pushChange_adds ..).mono (by simp))

theorem changeSeal_deferred (s : State) (m : SecMsg) (e : Nat) (x : Extent) (c : ExtChange) :
    tget (s.changeSeal m e x c).sec.deferred s.sec.nextDeferred = some m := headDefer_deferred s m

theorem changeSeal_extent (s : State) (m : SecMsg) (e : Nat) {x : Extent} (hx : x.changes = []) (c : ExtChange) :
    (s.changeSeal m e x c).extent e = some { x with sealReply := some s.sec.nextDeferred, changes := [⟨c, allSlices⟩] } := by
  refine (pushChange_extent ..).trans ?_
  simp [hx]

/-- A seal or an unseal that a row begins waits for the slices. -/
theorem sealBegins {c : Instr} {s u : State} {i cmd : Nat} {m : SecMsg} {e : Nat} {x : Extent} {k : ExtChange} (h : s.takes i cmd m u)
    (hr : exec c s = .next (s.quiet.settle (u.changeSeal m e x k))) (hx : x.changes = []) :
    ∃ w, exec c s = .next w ∧ w.extent e = some { x with sealReply := some s.sec.nextDeferred, changes := [⟨k, allSlices⟩] } ∧
      tget w.sec.deferred s.sec.nextDeferred = some m ∧ Frame [.sec, .ext, .links] s w := by
  rw [← takes_nextDeferred h]
  refine ⟨_, hr, changeSeal_extent u m e hx k, changeSeal_deferred u m e x k, ?_⟩
  exact settle_frame_of (served_frame h (by simp) ((changeSeal_adds ..).mono (by simp)).1) (by simp) rfl

section
variable {s u : State} {i : Nat} {m : SecMsg} {t : Tenant}

/-- EXTENT_SEAL of an extent of the tenant's own. -/
theorem extentSeal_next {x : Extent} (h : s.serves i 0x36 m u) (ht : u.fromTenant m t)
    (hc : m.body.length = 4 + 4 * fieldAt m.body 2 2 ∧ fieldAt m.body 2 2 ≤ 64 ∧ fieldAt m.body 0 2 < 8192)
    (hx : u.extent (fieldAt m.body 0 2) = some x) (hxt : x.tenant = t) :
    exec (.extentSeal i) s = .next (s.quiet.settle (
      if (u.tenant t).fenced || u.sec.debugUnlocked || x.state != .granted || x.lost || !x.changes.isEmpty || !(u.tenant t).required ||
        x.rights != bodyEntries (fieldAt m.body 2 2) (m.body.drop 4) then u.headReply m secBadState []
      else u.changeSeal m (fieldAt m.body 0 2) x .seal)) := by
  rw [tenant_next (c := .extentSeal i) rfl h ht]
  dsimp only
  rw [if_neg (by omega), hx]
  exact congrArg (fun y => Host.Outcome.next (s.quiet.settle y)) (if_neg (fun k => k hxt))

/-- EXTENT_UNSEAL of an extent of the tenant's own. -/
theorem extentUnseal_next {x : Extent} (h : s.serves i 0x37 m u) (ht : u.fromTenant m t)
    (hc : m.body.length = 4 ∧ bodyZero m.body 2 2 = true ∧ fieldAt m.body 0 2 < 8192)
    (hx : u.extent (fieldAt m.body 0 2) = some x) (hxt : x.tenant = t) :
    exec (.extentUnseal i) s = .next (s.quiet.settle (
      if (u.tenant t).fenced || x.state != .sealed || !x.changes.isEmpty then u.headReply m secBadState []
      else u.changeSeal m (fieldAt m.body 0 2) x .unseal)) := by
  obtain ⟨h1, h2, h3⟩ := hc
  rw [tenant_next (c := .extentUnseal i) rfl h ht]
  dsimp only
  rw [if_neg (by simp [h1, h2]; omega), hx]
  exact congrArg (fun y => Host.Outcome.next (s.quiet.settle y)) (if_neg (fun k => k hxt))

end

/-! Link keys. -/

theorem crypto_of_sec {s t : State} (h : t.sec.crypto = s.sec.crypto) (p : LinkPort) : t.crypto p = s.crypto p :=
  congrArg (fun x => mget PortCrypto.reset x (p.val - 32)) h

theorem headReply_crypto (v : State) (m : SecMsg) (st : Nat) (body : List Byte) (p : LinkPort) :
    (v.headReply m st body).crypto p = v.crypto p := by
  obtain ⟨-, -, ⟨b, x, hb⟩, -⟩ := headAnswer_spec v m st body 0
  exact crypto_of_sec (by rw [State.headReply, hb]) p

/-- A link key accepted on a port: it is answered, and where it is to be sent under, sending moves to it once the answer has left (R501). -/
def State.keyInstalled (u : State) (m : SecMsg) (p : PlPort) (b on : Bool) (c : PortCrypto) : State :=
  let v := (u.setCrypto (plPort p) c).headReply m secOk []
  if on && c.sendSlot != some b then v.setCrypto (plPort p) { v.crypto (plPort p) with sendNext := some (b, u.rtr.nextReq) } else v

theorem keyInstalled_adds (u : State) (m : SecMsg) (p : PlPort) (b on : Bool) (c : PortCrypto) :
    Adds [.sec, .rtr] ((u.setCrypto (plPort p) c).headReply m secOk []) (u.keyInstalled m p b on c) := by
  unfold State.keyInstalled
  dsimp only
  split
  · exact (setCrypto_adds ..).mono (by simp)
  · exact Adds.rfl _

theorem keyInstalled_crypto (u : State) (m : SecMsg) (p : PlPort) (b on : Bool) (c : PortCrypto) :
    (u.keyInstalled m p b on c).crypto (plPort p) =
      if on = true ∧ c.sendSlot ≠ some b then { c with sendNext := some (b, u.rtr.nextReq) } else c := by
  have hc : ((u.setCrypto (plPort p) c).headReply m secOk []).crypto (plPort p) = c :=
    (headReply_crypto ..).trans (setCrypto_crypto_same ..)
  unfold State.keyInstalled
  simp only [Bool.and_eq_true, bne_iff_ne, ne_eq, hc]
  split
  · exact setCrypto_crypto_same ..
  · exact hc

/-- LINK_KEY with a body of its layout, over a port's mailbox. -/
theorem linkKey_next {s u : State} {i : Nat} {m : SecMsg} {t : Tenant} {x : Session} {b : Bool} {p : PlPort} (h : s.serves i 0x38 m u)
    (hx : u.msgSession m = some x) (hk : x.kind = .tenant t)
    (hb : (if m.body.length = 36 && bodyZero m.body 2 2 && decide (fieldAt m.body 1 1 ≤ 1) then bodySlot m.body else none) = some b)
    (hp : m.port = some p) : exec (.linkKey i) s = .next (s.quiet.settle (
      if x.port ≠ some p then u.headReply m secDenied []
      else if (u.tenant t).fenced || u.sec.debugUnlocked then u.headReply m secBadState []
      else match (u.crypto (plPort p)).install b (fieldAt m.body 1 1 == 1) (m.body.drop 4) t with
      | none => u.headReply m secBadState []
      | some c => u.keyInstalled m p b (fieldAt m.body 1 1 == 1) c)) := by
  rw [show exec (.linkKey i) s = _ from served_next rfl h]
  simp only [headTenant, hx, hk]
  rw [hb]
  dsimp only
  rw [hp]
  rfl

section
variable {s : State} {p : PlPort}

theorem linkKeyRetire_of_waiting (h : (s.crypto (plPort p)).retire = none ∨ ∃ b n, (s.crypto (plPort p)).retire = some (b, n) ∧ n < 3) :
    linkKeyRetire p s = s := by
  rcases h with h | ⟨b, n, h, hn⟩
  · simp [linkKeyRetire, h]
  · simp [linkKeyRetire, h, hn]

theorem linkKeyRetire_of_due {b : Bool} {n : Nat} (h : (s.crypto (plPort p)).retire = some (b, n)) (hn : 3 ≤ n) :
    linkKeyRetire p s = s.setCrypto (plPort p) { setLinkSlot (s.crypto (plPort p)) b LinkKeySlot.empty with retire := none } := by
  simp only [linkKeyRetire, h]
  exact if_neg (by omega)

end

/-! The firmware update. -/

/-- The flash with a set in the bank that is not active. -/
def Flash.withSpare (f : Flash) (set : List Byte) : Flash := if f.spare = 0 then { f with bank0 := set } else { f with bank1 := set }

theorem withSpare_keeps (f : Flash) (set : List Byte) :
    (f.withSpare set).header = f.header ∧ (f.withSpare set).bankOf f.spare = set := by
  unfold Flash.withSpare Flash.bankOf
  by_cases h : f.spare = 0 <;> simp [h]

/-- The header that names the new set as the one to start next. -/
def FlashHeader.pend (h : FlashHeader) (b : Fin 2) : FlashHeader :=
  if b = 0 then { h with pendingBank := some b, state0 := .valid } else { h with pendingBank := some b, state1 := .valid }

theorem pend_spec (h : FlashHeader) (b : Fin 2) : (h.pend b).pendingBank = some b ∧ (h.pend b).active = h.active ∧
    (if b = 0 then (h.pend b).state0 else (h.pend b).state1) = .valid := by
  unfold FlashHeader.pend
  by_cases hb : b = 0 <;> simp [hb]

/-- The set of an update stands in the spare bank, and the update is over. -/
def State.setWritten (s : State) (m : SecMsg) (x : Session) (set : List Byte) : State :=
  (s.setFlash (s.plt.flash.withSpare set)).setSession m.sess { x with update := none }

theorem setWritten_adds (s : State) (m : SecMsg) (x : Session) (set : List Byte) : Adds [.sec, .plt] s (s.setWritten m x set) :=
  adds_of_same rfl rfl (fun p => by cases p <;> simp [Part.same, State.setWritten])

/-- The update's set has passed its check: the header names it. -/
def State.setPending (s : State) (m : SecMsg) (x : Session) (set : List Byte) : State :=
  ((s.setWritten m x set).setFlash ((s.plt.flash.withSpare set).writeHeader ((s.plt.flash.withSpare set).header.pend s.plt.flash.spare))).raise
    (mkReport 0x0B 0x06 0 unitHeadland (setSvn set) 0)

theorem setFlash_adds (s : State) (f : Flash) : Adds [.plt] s (s.setFlash f) := adds_plt s _

theorem setPending_adds (s : State) (m : SecMsg) (x : Session) (set : List Byte) :
    Adds [.sec, .plt, .ctr, .ras, .serial] s (s.setPending m x set) :=
  ((setWritten_adds s m x set).mono (by simp)).trans (((setFlash_adds ..).mono (by simp)).trans ((raise_adds ..).mono (by simp)))

theorem setPending_flash (s : State) (m : SecMsg) (x : Session) (set : List Byte) :
    (s.setPending m x set).plt.flash =
      (s.plt.flash.withSpare set).writeHeader ((s.plt.flash.withSpare set).header.pend s.plt.flash.spare) :=
  congrArg Plt.flash ((raise_adds _ _).same .plt (by decide))

/-- What an update's set is answered that does not pass (R491, R538). -/
def updateResult (c : Nat) : Nat := if c = 1 then secAuthErr else if c = 3 then secRollback else secBadMsg

theorem updateEnd_eq (s : State) (m : SecMsg) (x : Session) (set : List Byte) : s.updateEnd m x set =
    match s.checkSet set bankRegion with
    | some c => (s.setWritten m x set).headReply m (updateResult c) []
    | none => (s.setPending m x set).headReply m secOk [] := by
  unfold State.updateEnd
  dsimp only
  cases h : s.checkSet set bankRegion with
  | none => rfl
  | some c =>
    match c with
    | 0 => rfl
    | 1 => rfl
    | 2 => rfl
    | 3 => rfl
    | n + 4 => rfl

/-- The body of FW_UPDATE has its layout (R491). -/
def updateClean (b : List Byte) : Prop :=
  12 ≤ b.length ∧ fieldAt b 0 1 ≤ 2 ∧ bodyZero b 1 3 = true ∧ b.length = 12 + (if fieldAt b 0 1 = 1 then fieldAt b 8 4 else 0) ∧
    (fieldAt b 0 1 = 1 → fieldAt b 8 4 ≤ 16000)

theorem not_updateClean_iff (b : List Byte) : (b.length < 12 ∨ 2 < fieldAt b 0 1 ∨ (!bodyZero b 1 3) = true ∨
    b.length ≠ 12 + (if fieldAt b 0 1 = 1 then fieldAt b 8 4 else 0) ∨ (fieldAt b 0 1 = 1 ∧ 16000 < fieldAt b 8 4)) ↔ ¬ updateClean b := by
  rw [updateClean, not_and_or, not_and_or, not_and_or, not_and_or, Classical.not_imp]
  simp

section
variable {s u : State} {i : Nat} {m : SecMsg} {x : Session}

theorem fwUpdate_next (h : s.serves i 0x40 m u) (hx : u.fromOperator m x) : exec (.fwUpdate i) s = .next (s.quiet.settle (
    if m.body.length < 12 ∨ 2 < fieldAt m.body 0 1 ∨ !bodyZero m.body 1 3 ∨
        m.body.length ≠ 12 + (if fieldAt m.body 0 1 = 1 then fieldAt m.body 8 4 else 0) ∨
        (fieldAt m.body 0 1 = 1 ∧ 16000 < fieldAt m.body 8 4) then u.headReply m secBadMsg []
    else if !u.plt.flash.present then u.headReply m secBadState []
    else if fieldAt m.body 0 1 = 0 then
      if u.sec.sessions.any (fun e => e.2.update.isSome) then u.headReply m secBusy []
      else if fieldAt m.body 4 4 ≠ 0 ∨ bankRegion < fieldAt m.body 8 4 then u.headReply m secBadMsg []
      else (u.setSession m.sess { x with update := some (fieldAt m.body 8 4, []) }).headReply m secOk []
    else match x.update with
    | none => u.headReply m secBadState []
    | some (size, got) =>
      if fieldAt m.body 0 1 = 1 then
        if fieldAt m.body 4 4 ≠ got.length ∨ size < fieldAt m.body 4 4 + fieldAt m.body 8 4 then u.headReply m secBadMsg []
        else (u.setSession m.sess { x with update := some (size, got ++ m.body.drop 12) }).headReply m secOk []
      else if got.length < size then u.headReply m secBadMsg []
      else u.updateEnd m x got)) :=
  (operator_next rfl h hx).trans rfl

/-- FW_UPDATE with a body of its layout on a device with a flash. -/
theorem fwUpdate_next_of_clean (h : s.serves i 0x40 m u) (hx : u.fromOperator m x) (hc : updateClean m.body)
    (hf : u.plt.flash.present = true) : exec (.fwUpdate i) s = .next (s.quiet.settle (
    if fieldAt m.body 0 1 = 0 then
      if u.sec.sessions.any (fun e => e.2.update.isSome) then u.headReply m secBusy []
      else if fieldAt m.body 4 4 ≠ 0 ∨ bankRegion < fieldAt m.body 8 4 then u.headReply m secBadMsg []
      else (u.setSession m.sess { x with update := some (fieldAt m.body 8 4, []) }).headReply m secOk []
    else match x.update with
    | none => u.headReply m secBadState []
    | some (size, got) =>
      if fieldAt m.body 0 1 = 1 then
        if fieldAt m.body 4 4 ≠ got.length ∨ size < fieldAt m.body 4 4 + fieldAt m.body 8 4 then u.headReply m secBadMsg []
        else (u.setSession m.sess { x with update := some (size, got ++ m.body.drop 12) }).headReply m secOk []
      else if got.length < size then u.headReply m secBadMsg []
      else u.updateEnd m x got)) := by
  have hr := fwUpdate_next h hx
  rw [if_neg (fun k => (not_updateClean_iff _).1 k hc), if_neg (by simp [hf])] at hr
  exact hr

end

/-! Debug access and fuses. -/

/-- The body of DEBUG_UNLOCK has its layout (R486). -/
def unlockClean (b : List Byte) : Prop :=
  4 ≤ b.length ∧ bodyZero b 1 3 = true ∧ fieldAt b 0 1 ≤ 1 ∧ b.length = (if fieldAt b 0 1 = 0 then 4 else 4671)

theorem not_unlockClean_iff (b : List Byte) : (b.length < 4 ∨ (!bodyZero b 1 3) = true ∨ 1 < fieldAt b 0 1 ∨
    b.length ≠ (if fieldAt b 0 1 = 0 then 4 else 4671)) ↔ ¬ unlockClean b := by
  rw [unlockClean, not_and_or, not_and_or, not_and_or]
  simp

/-- The token of DEBUG_UNLOCK names this device and the challenge that stands. -/
def State.tokenNamed (u : State) (b : List Byte) : Prop :=
  fieldAt b 4 8 = Config.deviceSerial.toNat ∧ u.sec.challenge.map (fun c => c.1) = some ((b.drop 12).take 32)

theorem not_tokenNamed_iff (u : State) (b : List Byte) :
    (fieldAt b 4 8 ≠ Config.deviceSerial.toNat ∨ u.sec.challenge.map (fun c => c.1) ≠ some ((b.drop 12).take 32)) ↔ ¬ u.tokenNamed b := by
  rw [State.tokenNamed, not_and_or]

/-- A challenge stands in the place of the one before; the draw takes a free value. -/
def State.challenged (u : State) (c : List Byte) : State :=
  { u with sec := { u.sec with challenge := some (c, 0) }, serial := u.serial + 1 }

theorem challenged_adds (u : State) (c : List Byte) : Adds [.sec, .serial] u (u.challenged c) :=
  adds_of_same rfl rfl (fun p => by cases p <;> simp [Part.same, State.challenged])

/-- The challenge has served its one token. -/
def State.challengeUsed (u : State) : State := { u with sec := { u.sec with challenge := none } }

/-- Debug access is unlocked, with its report. -/
def State.unlocked (u : State) : State :=
  ({ u with sec := { u.sec with debugUnlocked := true } }).raise (mkReport 0x0B 0x05 1 unitHeadland 0 0)

theorem unlocked_adds (u : State) : Adds [.sec, .ctr, .ras, .serial] u u.unlocked :=
  ((adds_sec u _).mono (by simp)).trans ((raise_adds _ _).mono (by simp))

/-- Fuses of word w are blown, with the report (R496). -/
def State.fusesBlown (u : State) (w v : Nat) : State :=
  ({ u with plt := { u.plt with fuses := mmod 0#32 u.plt.fuses w (fun x => x ||| BitVec.ofNat 32 v) } }).raise
    (mkReport 0x0B 0x08 1 unitHeadland w 0)

theorem fusesBlown_adds (u : State) (w v : Nat) : Adds [.plt, .ctr, .ras, .serial] u (u.fusesBlown w v) :=
  ((adds_plt u _).mono (by simp)).trans ((raise_adds _ _).mono (by simp))

theorem fusesBlown_fuse (u : State) (w v : Nat) :
    mget 0#32 (u.fusesBlown w v).plt.fuses w = mget 0#32 u.plt.fuses w ||| BitVec.ofNat 32 v :=
  (congrArg (fun x : Plt => mget 0#32 x.fuses w) ((raise_adds _ _).same .plt (by decide))).trans (mget_mset_same ..)

section
variable {s u : State} {i : Nat} {m : SecMsg} {x : Session}

theorem debugUnlock_next (h : s.serves i 0x41 m u) (hx : u.fromOperator m x) : exec (.debugUnlock i) s = .next (s.quiet.settle (
    if m.body.length < 4 ∨ !bodyZero m.body 1 3 ∨ 1 < fieldAt m.body 0 1 ∨ m.body.length ≠ (if fieldAt m.body 0 1 = 0 then 4 else 4671)
      then u.headReply m secBadMsg []
    else if u.anyConfidential then u.headReply m secBusy []
    else if fieldAt m.body 0 1 = 0 then
      (u.challenged (List.takeD 32 (Config.entropy u.serial) 0#8)).headReply m secOk (List.takeD 32 (Config.entropy u.serial) 0#8)
    else if fieldAt m.body 4 8 ≠ Config.deviceSerial.toNat ∨ u.sec.challenge.map (fun c => c.1) ≠ some ((m.body.drop 12).take 32) then
      u.challengeUsed.headReply m secDenied []
    else if !Config.mldsaVerify Config.dalpevarKey ((m.body.drop 4).take 40) (m.body.drop 44) then u.challengeUsed.headReply m secAuthErr []
    else u.challengeUsed.unlocked.headReply m secOk [])) :=
  (operator_next rfl h hx).trans rfl

theorem fuseProgram_next (h : s.serves i 0x42 m u) (hx : u.fromOperator m x) : exec (.fuseProgram i) s = .next (s.quiet.settle (
    if m.body.length ≠ 4643 then u.headReply m secBadMsg []
    else if fieldAt m.body 0 8 ≠ Config.deviceSerial.toNat then u.headReply m secDenied []
    else if !Config.mldsaVerify Config.dalpevarKey (m.body.take 16) (m.body.drop 16) then u.headReply m secAuthErr []
    else (u.fusesBlown (fieldAt m.body 8 4) (fieldAt m.body 12 4)).headReply m secOk [])) :=
  (operator_next rfl h hx).trans rfl

end

/-! Management commands in a session. -/

/-- An answer taken from those that have come leaves the rest of the device as it is. -/
theorem takeReply_frame {s v : State} {code : BitVec 8} {r : Nat} {bytes : List Byte} (h : s.takeReply code = some (r, bytes, v)) :
    Frame [.sec] s v := by
  unfold State.takeReply at h
  split at h
  · cases h
  · cases h
    refine ⟨rfl, fun p hp => ?_⟩
    cases p
    case sec => exact absurd (by simp) hp
    all_goals rfl

/-- A management message whose command begins. -/
theorem mgmt_next {s u : State} {i : Nat} {m : SecMsg} {x : Session} (h : s.serves i 0xF0 m u) (hx : u.fromOperator m x) :
    exec (.mgmt i) s = .next (s.quiet.settle (u.mgmtRun m s.quiet)) := by
  have hr := runsRow_mgmt h.1.1 (not_started_of_takes h.1)
  rwa [runsRow, headRun_served h, headOperator_of hx] at hr

/-- The command that a management message runs may run here. -/
def mgmtOpen (s : State) (code : Nat) : Prop := s.dbg.fatal = false ∨ code ∈ mgmtFatalCodes

theorem mgmtRun_of_clean {u : State} {m : SecMsg} (hc : 4 ≤ m.body.length ∧ bodyZero m.body 1 3 = true)
    (ho : mgmtOpen u (m.body.getD 0 0#8).toNat) (before : State) : u.mgmtRun m before =
    match mgmtCall (m.body.getD 0 0#8).toNat (m.body.drop 4) with
    | .badLength => u.headReply m secBadMsg []
    | .badArgs => u.mgmtAnswer m (m.body.getD 0 0#8) 7 []
    | .call f =>
      let a := f { u with sec := { u.sec with mgmtWaits := u.sec.mgmtWaits ++ [m.body.getD 0 0#8] } }
      match a.takeReply (m.body.getD 0 0#8) with
      | some (r, bytes, v) => v.mgmtAnswer m (m.body.getD 0 0#8) r bytes
      | none => if mgmtWaitCode (m.body.getD 0 0#8).toNat then { a with sec := { a.sec with msgs := a.sec.msgs ++ [{ m with started := true }] } }
        else before := by
  unfold State.mgmtRun
  dsimp only
  have hf : ¬ (u.dbg.fatal && !mgmtFatalCodes.contains (m.body.getD 0 0#8).toNat) = true := by
    rcases ho with ho | ho
    · simp [ho]
    · simpa using fun _ => ho
  exact (if_neg (by simp [hc.2]; omega)).trans ((if_neg hf).trans rfl)

theorem mgmt_next_of_started {s : State} {i : Nat} {m : SecMsg} (ha : s.awake = true) (hm : s.sec.msgs[i]? = some m)
    (hs : m.started = true) : exec (.mgmt i) s = .next (s.quiet.settle (s.quiet.mgmtResume i m)) := by
  have hx : exec (.mgmt i) s = .next (s.quiet.settle (mgmt i s.quiet)) := awake_quiet_next rfl ha
  rw [hx, mgmt, State.quiet_sec, hm]
  exact congrArg (fun y => Host.Outcome.next (s.quiet.settle y)) (if_pos hs)

/-- Settles O55: each clause is a branch of its row's equation, or one of the two commands outside the rows. -/
theorem sealsLinkKeysAndAuthority : Obligations.SealsLinkKeysAndAuthority := by
  unfold Obligations.SealsLinkKeysAndAuthority
  refine ⟨fun i s u m t h ht => ?_, fun i s u m t h ht => ?_, fun i s u m t x h hx hk => ?_, fun p s hl => ?_, fun i s u m t h ht => ?_,
    fun i s u m x h hx => ?_, fun i s u m x h hx => ?_, fun i s u m x h hx => ?_, fun i s u m x h hx => ?_,
    fun i s m ha hm hs => ?_⟩
  · have hr := tenant_next (c := .extentSeal i) rfl h ht
    dsimp only at hr ⊢
    refine ⟨fun hb => ?_, fun hc hx => ?_, fun x hc hx hxt => ⟨fun hg => ?_, fun ⟨g1, g2, g3, g4, g5, g6, g7⟩ => ?_⟩⟩
    · rw [if_pos (by omega)] at hr
      exact headAnswersIn_of_served h hr rfl
    · rw [if_neg (by omega)] at hr
      cases he : u.extent (fieldAt m.body 0 2) with
      | none =>
        rw [he] at hr
        exact headAnswersIn_of_served h hr rfl
      | some x =>
        rw [he] at hr
        dsimp only at hr
        rw [if_pos (hx x he)] at hr
        exact headAnswersIn_of_served h hr rfl
    · have hr := extentSeal_next h ht hc hx hxt
      rw [if_pos (by simpa [imp_iff_not_or, or_assoc] using hg)] at hr
      exact headAnswersIn_of_served h hr rfl
    · have hr := extentSeal_next h ht hc hx hxt
      rw [if_neg (by simp [g1, g2, g3, g4, g5, g6, g7])] at hr
      exact sealBegins h.1 hr g5
  · have hr := tenant_next (c := .extentUnseal i) rfl h ht
    dsimp only at hr ⊢
    refine ⟨fun hb => ?_, fun hc hx => ?_, fun x hc hx hxt => ⟨fun hg => ?_, fun g1 g2 g3 => ?_⟩⟩
    · rw [if_pos (by simpa [imp_iff_not_or] using hb)] at hr
      exact headAnswersIn_of_served h hr rfl
    · obtain ⟨h1, h2, h3⟩ := hc
      rw [if_neg (by simp [h1, h2]; omega)] at hr
      cases he : u.extent (fieldAt m.body 0 2) with
      | none =>
        rw [he] at hr
        exact headAnswersIn_of_served h hr rfl
      | some x =>
        rw [he] at hr
        dsimp only at hr
        rw [if_pos (hx x he)] at hr
        exact headAnswersIn_of_served h hr rfl
    · have hr := extentUnseal_next h ht hc hx hxt
      rw [if_pos (by simpa [or_assoc] using hg)] at hr
      exact headAnswersIn_of_served h hr rfl
    · have hr := extentUnseal_next h ht hc hx hxt
      rw [if_neg (by simp [g1, g2, g3])] at hr
      exact sealBegins h.1 hr g3
  · dsimp only
    refine ⟨fun hb => ?_, fun b hc hb => ⟨fun hp => ?_, fun p hp => ?_⟩⟩
    · refine headAnswersIn_of_row rfl h ?_ rfl
      simp only [headTenant, hx, hk]
      rw [slotGiven_none hb]
      rfl
    · refine headAnswersIn_of_row rfl h ?_ rfl
      simp only [headTenant, hx, hk]
      rw [slotGiven_some hc hb]
      dsimp only
      rw [hp]
      rfl
    have hr := linkKey_next h hx hk (slotGiven_some hc hb) hp
    refine ⟨fun h1 => ?_, fun h1 h2 => ?_, fun h1 h2 h3 h4 => ?_, fun c h1 h2 h3 h4 => ?_⟩
    · rw [if_pos h1] at hr
      exact headAnswersIn_of_served h hr rfl
    · rw [if_neg (fun k => k h1), if_pos (by simpa using h2)] at hr
      exact headAnswersIn_of_served h hr rfl
    · rw [if_neg (fun k => k h1), if_neg (by simp [h2, h3]), h4] at hr
      exact headAnswersIn_of_served h hr rfl
    · rw [if_neg (fun k => k h1), if_neg (by simp [h2, h3]), h4] at hr
      obtain ⟨ha, hm, -, -⟩ := headAnswer_spec (u.setCrypto (plPort p) c) m secOk [] 0
      have hk := keyInstalled_adds u m p b (fieldAt m.body 1 1 == 1) c
      refine ⟨_, hr, hk.2.subset hm, ?_, ?_⟩
      · obtain ⟨l, rfl⟩ := takes_state h.1
        exact keyInstalled_crypto ..
      · refine settle_frame_of (served_frame h.1 (by simp) ?_) (by simp) rfl
        exact (((setCrypto_adds u (plPort p) c).mono (by simp)).trans ((ha.mono (by simp)).trans (hk.mono (by simp)))).1
  · dsimp only
    refine ⟨fun h => live_idles rfl hl (linkKeyRetire_of_waiting (s := s.quiet) (.inl h)),
      fun b n h hn => live_idles rfl hl (linkKeyRetire_of_waiting (s := s.quiet) (.inr ⟨b, n, h, hn⟩)), fun b n h hn => ?_⟩
    obtain ⟨hx, hF⟩ := live_next_frame (i := .linkKeyRetire p) rfl hl (linkKeyRetire_of_due (s := s.quiet) h hn) (setCrypto_adds ..).1
      (by decide)
    exact ⟨_, hx, setCrypto_crypto_same .., hF⟩
  · have hr := tenant_next (c := .telemetryRead i) rfl h ht
    refine ⟨fun hb => ?_, fun hb => ?_⟩
    · rw [if_pos hb] at hr
      exact headAnswersIn_of_served h hr rfl
    · rw [if_neg (fun k => k hb)] at hr
      obtain ⟨l, rfl⟩ := takes_state h.1
      exact headAnswersIn_of_served h hr rfl
  · dsimp only
    have hr := fwUpdate_next h hx
    refine ⟨fun hb => ?_, fun hc hf => ?_, fun hc hf h0 => ?_, fun hc hf h0 hu => ?_, fun size got hc hf hu => ?_⟩
    · rw [if_pos ((not_updateClean_iff _).2 hb)] at hr
      exact headAnswersIn_of_served h hr rfl
    · rw [if_neg (fun k => (not_updateClean_iff _).1 k hc), if_pos (by simp [hf])] at hr
      exact headAnswersIn_of_served h hr rfl
    · have hr := fwUpdate_next_of_clean h hx hc hf
      rw [if_pos h0] at hr
      refine ⟨fun h1 => ?_, fun h1 h2 => ?_, fun h1 h2 h3 => ?_⟩
      · rw [if_pos h1] at hr
        exact headAnswersIn_of_served h hr rfl
      · rw [if_neg (by simp only [h1]; exact Bool.false_ne_true), if_pos h2] at hr
        exact headAnswersIn_of_served h hr rfl
      · rw [if_neg (by simp only [h1]; exact Bool.false_ne_true), if_neg (by omega)] at hr
        exact headAnswersIn_of_served h hr rfl
    · have hr := fwUpdate_next_of_clean h hx hc hf
      rw [if_neg h0, hu] at hr
      exact headAnswersIn_of_served h hr rfl
    · have hr := fwUpdate_next_of_clean h hx hc hf
      simp only [hu] at hr
      refine ⟨fun h1 h2 => ?_, fun h1 h2 h3 => ?_, fun h1 h2 => ?_, fun h1 h2 c hcs => ?_, fun h1 h2 hcs => ?_⟩
      · rw [if_neg (by omega), if_pos h1, if_pos h2] at hr
        exact headAnswersIn_of_served h hr rfl
      · rw [if_neg (by omega), if_pos h1, if_neg (by omega)] at hr
        exact headAnswersIn_of_served h hr rfl
      · rw [if_neg (by omega), if_neg (by omega), if_pos h2] at hr
        exact headAnswersIn_of_served h hr rfl
      · rw [if_neg (by omega), if_neg (by omega), if_neg (by omega), updateEnd_eq, hcs] at hr
        refine ⟨_, headAnswersIn_of_served h hr rfl, ?_, (setWritten_adds ..).1⟩
        obtain ⟨l, rfl⟩ := takes_state h.1
        exact (withSpare_keeps _ _).1
      · rw [if_neg (by omega), if_neg (by omega), if_neg (by omega), updateEnd_eq, hcs] at hr
        have ha := setPending_adds u m x got
        have hp := setPending_flash u m x got
        obtain ⟨hh, hb⟩ := withSpare_keeps u.plt.flash got
        obtain ⟨p1, p2, p3⟩ := pend_spec (u.plt.flash.withSpare got).header u.plt.flash.spare
        have hplt : u.plt = s.plt := by
          obtain ⟨l, rfl⟩ := takes_state h.1
          rfl
        rw [← hplt]
        refine ⟨_, headAnswersIn_of_served h hr ha.1.1, ?_, ?_, ?_, ?_, ?_, reported_raise .., ha.1⟩ <;> rw [hp]
        · exact hb
        · exact p1
        · exact p2.trans (by rw [hh])
        · exact congrArg (fun x : FlashHeader => x.seq + 1) hh
        · exact p3
  · dsimp only
    have hr := debugUnlock_next h hx
    have hser : u.serial = s.serial := by
      obtain ⟨l, rfl⟩ := takes_state h.1
      rfl
    refine ⟨fun hb => ?_, fun hc hk => ?_, fun hc hk h0 => ?_, fun hc hk h1 hn => ?_, fun hc hk h1 hn hs => ?_, fun hc hk h1 hn hs => ?_⟩
    · rw [if_pos ((not_unlockClean_iff _).2 hb)] at hr
      exact headAnswersIn_of_served h hr rfl
    · rw [if_neg (fun k => (not_unlockClean_iff _).1 k hc), if_pos hk] at hr
      exact headAnswersIn_of_served h hr rfl
    · rw [if_neg (fun k => (not_unlockClean_iff _).1 k hc), if_neg (by simp [hk]), if_pos h0, hser] at hr
      exact ⟨_, headAnswersIn_of_served h hr rfl, rfl, (challenged_adds ..).1⟩
    · rw [if_neg (fun k => (not_unlockClean_iff _).1 k hc), if_neg (by simp [hk]), if_neg (by omega),
        if_pos ((not_tokenNamed_iff u _).2 hn)] at hr
      exact headAnswersIn_of_served h hr rfl
    · rw [if_neg (fun k => (not_unlockClean_iff _).1 k hc), if_neg (by simp [hk]), if_neg (by omega),
        if_neg (fun k => (not_tokenNamed_iff u _).1 k hn), if_pos (by simpa using hs)] at hr
      exact headAnswersIn_of_served h hr rfl
    · rw [if_neg (fun k => (not_unlockClean_iff _).1 k hc), if_neg (by simp [hk]), if_neg (by omega),
        if_neg (fun k => (not_tokenNamed_iff u _).1 k hn), if_neg (by simpa using hs)] at hr
      have ha := unlocked_adds u.challengeUsed
      refine ⟨_, headAnswersIn_of_served h hr ha.1.1, ?_, reported_raise .., ?_⟩
      · exact (raise_adds _ _).same .sec (by decide)
      · exact (((adds_sec u _).mono (by simp)).trans ha).1
  · dsimp only
    have hr := fuseProgram_next h hx
    refine ⟨fun hb => ?_, fun hb h1 => ?_, fun hb h1 h2 => ?_, fun hb h1 h2 => ?_⟩
    · rw [if_pos hb] at hr
      exact headAnswersIn_of_served h hr rfl
    · rw [if_neg (fun k => k hb), if_pos h1] at hr
      exact headAnswersIn_of_served h hr rfl
    · rw [if_neg (fun k => k hb), if_neg (fun k => k h1), if_pos (by simpa using h2)] at hr
      exact headAnswersIn_of_served h hr rfl
    · rw [if_neg (fun k => k hb), if_neg (fun k => k h1), if_neg (by simpa using h2)] at hr
      have ha := fusesBlown_adds u (fieldAt m.body 8 4) (fieldAt m.body 12 4)
      refine ⟨_, headAnswersIn_of_served h hr ha.1.1, ?_, reported_raise .., ha.1⟩
      obtain ⟨l, rfl⟩ := takes_state h.1
      exact fusesBlown_fuse ..
  · dsimp only
    have hr := mgmt_next h hx
    have hfat : u.dbg.fatal = s.dbg.fatal := by
      obtain ⟨l, rfl⟩ := takes_state h.1
      rfl
    refine ⟨fun hb => ?_, fun hc ho => ?_, fun hc ho hb => ?_, fun hc ho hb => ?_, fun f hc ho hf => ?_⟩
    · rw [State.mgmtRun, if_pos (by rw [not_and_or] at hb; simpa using hb)] at hr
      exact headAnswersIn_of_served h hr rfl
    · obtain ⟨ho1, ho2⟩ := not_or.1 ho
      rw [State.mgmtRun, if_neg (by simp [hc.2]; omega), if_pos ?_] at hr
      · exact headAnswersIn_of_served h hr rfl
      · simpa [hfat] using And.intro ho1 ho2
    · rw [mgmtRun_of_clean hc (by rw [mgmtOpen, hfat]; exact ho), hb] at hr
      exact headAnswersIn_of_served h hr rfl
    · rw [mgmtRun_of_clean hc (by rw [mgmtOpen, hfat]; exact ho), hb] at hr
      exact headAnswersIn_of_served h hr rfl
    · rw [mgmtRun_of_clean hc (by rw [mgmtOpen, hfat]; exact ho), hf] at hr
      dsimp only at hr
      refine ⟨fun r bytes v hv => ?_, fun hv hwait => ?_⟩
      · rw [hv] at hr
        exact ⟨_, hr, rfl⟩
      · rw [hv] at hr
        dsimp only at hr
        rw [if_pos hwait] at hr
        refine ⟨_, hr, rfl, fun p hp => ?_⟩
        cases p
        case sec => exact absurd (by simp) hp
        case links => exact absurd (by simp) hp
        all_goals rfl
  · dsimp only
    have hr := mgmt_next_of_started ha hm hs
    refine ⟨fun hn => ?_, fun r bytes v hv => ⟨fun hx => ?_, fun x hx => ?_⟩⟩
    · rw [State.mgmtResume, hn] at hr
      exact ⟨_, hr, settle_frame (Frame.rfl _) (by simp)⟩
    · simp only [State.mgmtResume, hv, hx, Option.isSome_none, Bool.false_eq_true, if_false] at hr
      refine ⟨_, hr, rfl, settle_frame_of ?_ (by simp) rfl⟩
      exact (Frame.quiet s).trans (((takeReply_frame hv).trans (adds_sec v _).1).mono (by simp))
    · simp only [State.mgmtResume, hv, hx, Option.isSome_some, if_true] at hr
      exact headAnswersIn_of hr (takeReply_frame hv).1

end Sys2Proof.Machine

/-! PROOFS. Power-good, RESET_N, the completion point, and the logic leaving reset (R530 to R533, R600). -/

namespace Sys2Proof.Machine

/-- A meaning that a device has in every state is the command's effect, but for the ports of a fatal node. -/
theorem always_next {c : Instr} {s u : State} {f : State → State} {ps : List Part} (hc : exec c s = .next (s.quiet.always f))
    (hf : f s.quiet = u) (hu : Frame ps s.quiet u) (hp : Part.links ∈ ps) :
    exec c s = .next (s.quiet.settle u) ∧ Frame ps s (s.quiet.settle u) :=
  ⟨by rw [hc, State.always, hf], settle_frame hu hp⟩

theorem always_idles {c : Instr} {s : State} {f : State → State} (hc : exec c s = .next (s.quiet.always f)) (hf : f s.quiet = s.quiet) :
    ∃ t, exec c s = .next t ∧ Frame [.links] s t :=
  ⟨_, always_next hc hf (Frame.rfl _) (by simp)⟩

/-- A command that every state has and that sets the platform record to x does that, and nothing else. -/
theorem always_setPlt {c : Instr} {s : State} {f : State → State} {x : Plt} (hc : exec c s = .next (s.quiet.always f))
    (hf : f s.quiet = s.quiet.setPlt x) : ∃ t, exec c s = .next t ∧ t.plt = x ∧ Frame [.plt, .links] s t := by
  obtain ⟨hx, hF⟩ := always_next hc hf ((adds_plt ..).1.mono (qs := [.plt, .links]) (by simp)) (by simp)
  exact ⟨_, hx, rfl, hF⟩

theorem awake_of_held {s : State} (h : s.plt.resetHeld = true) : s.awake = false := by
  simp [State.awake, h]

theorem sameBut_of {ps : List Part} {s t : State} (h : ∀ p, p ∈ ps ∨ p.same s t) : SameBut ps s t :=
  fun p hp => (h p).resolve_left hp

/-! Power-good. -/

theorem coldBase_reset (s : State) : SameBut [.plt, .serial] State.reset (s.coldBase false) :=
  sameBut_of (fun p => by cases p <;> simp [Part.same, State.coldBase, State.reset, Mem.reset])

theorem powerGood_sameBut (ref : Bool) (s : State) : SameBut [.plt, .serial] State.reset (powerGood ref s) := by
  cases ref
  · exact sameBut_of (fun p => by cases p <;> simp [Part.same, powerGood, State.setPlt, State.coldBase, State.reset, Mem.reset])
  · exact coldBase_reset s

theorem powerGood_next (ref : Bool) (s : State) : ∃ t, exec (.powerGood ref) s = .next t ∧ SameBut [.plt, .serial] State.reset t ∧
    t.serial = s.serial ∧ t.pending = s.pending ∧ t.plt = (powerGood ref s.quiet).plt := by
  have hd : (powerGood ref s.quiet).dbg.fatal = false := by cases ref <;> rfl
  refine ⟨_, rfl, settle_sameBut hd (powerGood_sameBut ref s.quiet), ?_, rfl, rfl⟩
  cases ref <;> rfl

/-! RESET_N and the completion point. -/

theorem resetNAssert_of_no_power_or_reference {s : State} (h : s.plt.powered = false ∨ s.refRuns = false) : resetNAssert s = s := by
  rcases h with h | h <;> simp [resetNAssert, h]

theorem resetNAssert_of_powered {s : State} (hp : s.plt.powered = true) (hr : s.refRuns = true) : resetNAssert s =
    s.setPlt { s.plt with resetReleased := false, resetHeld := true, resetDone := false, recoverNext := false } := by
  simp [resetNAssert, hp, hr]

theorem resetComplete_of_not_due {boot clk : BitVec 2} {s : State} (h : ¬ (s.plt.powered = true ∧ s.plt.resetHeld = true ∧
    s.plt.resetReleased = true ∧ s.plt.resetDone = false ∧ s.refRuns = true)) : resetComplete boot clk s = s := by
  refine if_pos ?_
  simp only [not_and_or, Bool.not_eq_true, Bool.not_eq_false] at h
  simpa only [Bool.or_eq_true, Bool.not_eq_true', or_assoc] using h

theorem resetComplete_of_due {boot clk : BitVec 2} {s : State} (hp : s.plt.powered = true) (hh : s.plt.resetHeld = true)
    (hr : s.plt.resetReleased = true) (hd : s.plt.resetDone = false) (hf : s.refRuns = true) :
    resetComplete boot clk s = s.setPlt { s.plt with resetDone := true, strapBoot := boot, strapClk := clk } := by
  simp [resetComplete, hp, hh, hr, hd, hf]

/-! The logic leaves reset. -/

/-- The logic out of reset, before a reserved strap is reported and a download begins. -/
def State.woken (s : State) : State :=
  (s.coldBase true).setPlt { (s.coldBase true).plt with
    resetHeld := false, resetDone := true, romPins := true, strapBoot := strapTaken s.plt.strapBoot, strapClk := strapTaken s.plt.strapClk,
    inUse := if strapTaken s.plt.strapClk = 1#2 then .b else .a, aOk := !s.plt.aLost, bOk := !s.plt.bLost,
    bank := if s.plt.recoverNext then 2#2 else 3#2, failCause := if s.plt.recoverNext then 6#3 else 0#3 }

/-- A strap of a reserved value is reported. -/
def State.strapsTold (s : State) : State :=
  if s.plt.strapBoot = 3#2 ∨ s.plt.strapClk = 3#2 then
    s.woken.raise (mkReport 0x0C 0x01 0 unitChip (s.plt.strapBoot.toNat + 4 * s.plt.strapClk.toNat) 0)
  else s.woken

theorem logicLeaveReset_of_not_due {s : State} (h : ¬ (s.plt.powered = true ∧ s.plt.resetHeld = true ∧ s.plt.resetDone = true)) :
    logicLeaveReset s = s := by
  refine if_pos ?_
  simp only [not_and_or, Bool.not_eq_true] at h
  simpa only [Bool.or_eq_true, Bool.not_eq_true', or_assoc] using h

theorem logicLeaveReset_of_due {s : State} (hp : s.plt.powered = true) (hh : s.plt.resetHeld = true) (hd : s.plt.resetDone = true) :
    logicLeaveReset s = if strapTaken s.plt.strapBoot = 0#2 ∨ s.plt.recoverNext = true then s.strapsTold
      else s.strapsTold.readStore.setPlt { s.strapsTold.readStore.plt with phase := .downloadWait } :=
  if_neg (by simp [hp, hh, hd])

theorem woken_reset (s : State) : SameBut [.plt, .serial, .dbg, .mem] State.reset s.woken :=
  sameBut_of (fun p => by cases p <;> simp [Part.same, State.woken, State.setPlt, State.coldBase, State.reset])

theorem strapsTold_adds (s : State) : Adds [.ras, .ctr, .serial] s.woken s.strapsTold := by
  unfold State.strapsTold
  split
  · exact raise_adds ..
  · exact Adds.rfl _

theorem strapsTold_reported {s : State} (h : s.plt.strapBoot = 3#2 ∨ s.plt.strapClk = 3#2) :
    reported s.strapsTold 0x0C 0x01 0 unitChip := by
  rw [State.strapsTold, if_pos h]
  exact reported_raise ..

theorem strapTaken_eq_one (v : BitVec 2) : strapTaken v = 1#2 ↔ v = 1#2 := by
  revert v
  decide

theorem readStore_plt (s : State) : s.readStore.plt =
    { s.plt with abruptLast := s.plt.flash.abrupt, flash := { s.plt.flash with bootCount := s.plt.flash.bootCount + 1 } } := rfl

theorem logicLeaveReset_adds {s : State} (hp : s.plt.powered = true) (hh : s.plt.resetHeld = true) (hd : s.plt.resetDone = true) :
    Adds [.plt, .ras, .ctr, .serial] s.strapsTold (logicLeaveReset s) := by
  rw [logicLeaveReset_of_due hp hh hd]
  split
  · exact Adds.rfl _
  · exact adds_of_same rfl rfl (fun p => by cases p <;> simp [Part.same, State.setPlt, State.readStore])

theorem logicLeaveReset_plt {s : State} (hp : s.plt.powered = true) (hh : s.plt.resetHeld = true) (hd : s.plt.resetDone = true) :
    (logicLeaveReset s).plt = if strapTaken s.plt.strapBoot = 0#2 ∨ s.plt.recoverNext = true then s.woken.plt
      else { s.woken.plt with
        phase := .downloadWait, abruptLast := s.plt.flash.abrupt, flash := { s.plt.flash with bootCount := s.plt.flash.bootCount + 1 } } := by
  have hw : s.strapsTold.plt = s.woken.plt := (strapsTold_adds s).1.2 .plt (by decide)
  rw [logicLeaveReset_of_due hp hh hd, apply_ite State.plt]
  refine ite_congr rfl (fun _ => hw) (fun _ => ?_)
  show { s.strapsTold.readStore.plt with phase := .downloadWait } = _
  rw [readStore_plt, hw]
  rfl

theorem logicLeaveReset_plt_some {s : State} (hp : s.plt.powered = true) (hh : s.plt.resetHeld = true) (hd : s.plt.resetDone = true) :
    ∃ ph ab fl, (logicLeaveReset s).plt = { s.woken.plt with phase := ph, abruptLast := ab, flash := fl } := by
  rw [logicLeaveReset_plt hp hh hd]
  split
  · exact ⟨_, _, _, rfl⟩
  · exact ⟨_, _, _, rfl⟩

theorem logicLeaveReset_keeps {s : State} (hp : s.plt.powered = true) (hh : s.plt.resetHeld = true) (hd : s.plt.resetDone = true) :
    Adds [.plt, .ras, .ctr, .serial] s.woken (logicLeaveReset s) :=
  ((strapsTold_adds s).mono (by simp)).trans (logicLeaveReset_adds hp hh hd)

/-- Settles O56: each command out of its turn leaves the state as it is (always_idles), sets the platform record (always_setPlt), or is a reset
(coldBase); what the logic's leaving adds to `State.woken` is the report and the persistent store. -/
theorem resetTakesAndLeaves : Obligations.ResetTakesAndLeaves := by
  unfold Obligations.ResetTakesAndLeaves
  refine ⟨fun ref s => ?_, fun s => ⟨fun h => ?_, fun hp hr => ?_, fun hr => ?_, fun hr => ?_⟩, fun boot clk s => ⟨fun h => ?_, ?_⟩,
    fun s => ⟨fun h => ?_, ?_⟩⟩
  · obtain ⟨t, hx, hsame, hs, hp, hplt⟩ := powerGood_next ref s
    refine ⟨t, hx, hsame, hs, hp, ?_⟩
    simp only [State.refRuns, State.awake, hplt]
    cases ref <;> simp [powerGood, State.coldBase, State.setPlt, State.quiet]
  · exact always_idles (c := .resetNAssert) rfl (resetNAssert_of_no_power_or_reference (s := s.quiet) h)
  · obtain ⟨t, hx, hplt, hF⟩ := always_setPlt (c := .resetNAssert) rfl (resetNAssert_of_powered (s := s.quiet) hp hr)
    exact ⟨t, hx, hplt, awake_of_held (by rw [hplt]), hF⟩
  · exact always_idles (c := .resetNRelease) rfl (if_neg (by simp [show s.quiet.refRuns = false from hr]))
  · exact always_setPlt (c := .resetNRelease) rfl (if_pos hr)
  · exact always_idles (c := .resetComplete boot clk) rfl (resetComplete_of_not_due (s := s.quiet) h)
  · rintro ⟨hp, hh, hr, hd, hf⟩
    exact always_setPlt (c := .resetComplete boot clk) rfl (resetComplete_of_due (s := s.quiet) hp hh hr hd hf)
  · exact always_idles (c := .logicLeaveReset) rfl (logicLeaveReset_of_not_due (s := s.quiet) h)
  · rintro ⟨hp, hh, hd⟩
    have hk := logicLeaveReset_keeps (s := s.quiet) hp hh hd
    have hplt := logicLeaveReset_plt (s := s.quiet) hp hh hd
    have hdbg := hk.1.2 .dbg (by decide)
    have hf : (logicLeaveReset s.quiet).dbg.fatal = false := (congrArg Dbg.fatal hdbg).trans rfl
    have hsame : SameBut [.plt, .serial, .dbg, .ras, .ctr, .mem] State.reset (logicLeaveReset s.quiet) := fun p hn => by
      have h1 := woken_reset s.quiet p (fun h => hn (by revert h; cases p <;> simp))
      have h2 := hk.1.2 p (fun h => hn (by revert h; cases p <;> simp))
      cases p <;> exact Eq.trans h2 h1
    refine ⟨s.quiet.settle (logicLeaveReset s.quiet), rfl, settle_sameBut hf hsame, ?_⟩
    have hmem : (logicLeaveReset s.quiet).mem = s.quiet.woken.mem := hk.1.2 .mem (by decide)
    obtain ⟨ph, ab, fl, hsome⟩ := logicLeaveReset_plt_some (s := s.quiet) hp hh hd
    simp only [State.awake, settle_plt, settle_mem, settle_dbg]
    refine ⟨by rw [hsome]; rfl, hmem, by rw [hsome]; rfl, by rw [hsome]; rfl, by rw [hsome]; rfl, by rw [hsome]; rfl, ?_, by rw [hsome]; rfl,
      by rw [hsome]; rfl, by rw [hsome]; rfl, hf, (congrArg Dbg.dumpHeader hdbg).trans rfl, fun h => ?_, fun hb hr => ?_, fun h => ?_⟩
    · rw [hsome]
      exact if_congr (strapTaken_eq_one _) rfl rfl
    · rw [hplt.trans (if_pos h)]
      exact ⟨rfl, rfl⟩
    · rw [hplt.trans (if_neg (not_or.2 ⟨hb, by simp [State.quiet, hr]⟩))]
      exact ⟨rfl, rfl, rfl⟩
    · exact (logicLeaveReset_adds (s := s.quiet) hp hh hd).reported (strapsTold_reported (s := s.quiet) h)

end Sys2Proof.Machine

/-! PROOFS. The device's own packets and requests touch the router and what it counts and reports. -/

namespace Sys2Proof.Machine

/-- What a packet of the device's own may touch. -/
def routerParts : List Part := [.rtr, .ctr, .ras, .serial]

theorem tally_router (s : State) (off : Nat) : Adds routerParts s (s.tally off) := (tally_adds s off).mono (by decide)

theorem adds_router (s : State) (x : Rtr) : Adds routerParts s { s with rtr := x } := (adds_rtr s x).mono (by decide)

theorem rtrReport_adds (s : State) (code severity : Nat) (unit : BitVec 16) (d0 d1 : Nat) :
    Adds routerParts s (s.rtrReport code severity unit d0 d1) := by
  unfold State.rtrReport
  split
  · exact Adds.rfl _
  · exact (adds_router s _).trans ((raise_adds ..).mono (by decide))

theorem countXfer_adds (s : State) (port : LinkPort) (p : Packet) : Adds routerParts s (s.countXfer port p).1 := by
  have hnext : ∀ b : Bool, Adds routerParts s (if b then { s with rtr := { s.rtr with nextXid := s.rtr.nextXid + 1 } } else s) := fun b => by
    cases b
    · exact Adds.rfl _
    · exact adds_router ..
  unfold State.countXfer
  extract_lets key found e s1 total tooMany e'
  split
  · exact (tally_router ..).trans (rtrReport_adds ..)
  · split
    · exact (hnext found.isNone).trans ((adds_router _ _).trans ((tally_router ..).trans (rtrReport_adds ..)))
    · exact (hnext found.isNone).trans (adds_router _ _)

theorem deliver_adds (s : State) (ip : InPkt) (vc : Nat) : Adds routerParts s (s.deliver ip vc) := by
  unfold State.deliver
  split
  · exact tally_router ..
  · split
    · exact tally_router ..
    · split
      · dsimp only
        split
        · exact (countXfer_adds ..).trans (adds_router ..)
        · exact countXfer_adds ..
      · exact adds_router ..

theorem forward_adds (s : State) (p : Packet) (vc : Nat) (req : Option Nat) (arrival : LinkPort) (auth owner : Option Tenant) :
    Adds routerParts s (s.forward p vc req arrival auth owner) := by
  unfold State.forward
  split
  · exact deliver_adds ..
  · exact tally_router ..
  · exact tally_router ..
  · dsimp only
    split
    · exact (adds_router ..).trans ((enqueue_adds ..).mono (by decide))
    · exact (enqueue_adds ..).mono (by decide)

theorem transmit_adds (s : State) (n : Nat) (r : DevReq) : Adds routerParts s (s.transmit n r) := by
  unfold State.transmit
  dsimp only
  refine (adds_router ..).trans (Adds.foldl (fun st p => ?_) _ _)
  split
  · exact (enqueue_adds ..).mono (by decide)
  · exact forward_adds ..

theorem launch_adds (s : State) (n : Nat) (r : DevReq) : Adds routerParts s (s.launch n r) := by
  unfold State.launch
  dsimp only
  split
  · exact (adds_router ..).trans (((takeXfer_adds ..).mono (by decide)).trans (transmit_adds ..))
  · exact (adds_router ..).trans (transmit_adds ..)

theorem issue_adds (s : State) (dst : Ep) (via : Option PlPort) (pkts : List Packet) (vc : Nat) (owner : ReqOwner) :
    Adds routerParts s (s.issue dst via pkts vc owner).1 := by
  unfold State.issue
  extract_lets opc reach n r s1
  rw [apply_ite Prod.fst, apply_ite Prod.fst]
  split
  · exact Adds.rfl _
  · split
    · exact adds_router ..
    · exact (adds_router ..).trans (launch_adds ..)

end Sys2Proof.Machine

/-! PROOFS. Boot: a set's check, downloads, training, known-answer tests, fill, the boot watchdog and the management lanes (R534, R538 to R543,
R567, R571, R605). -/

namespace Sys2Proof.Machine

/-! A stack's loss (R248, R289). -/

/-- What a stack's loss may touch. -/
def lossParts : List Part := [.ext, .audit, .rtr, .ctr, .ras, .serial]

theorem notice_adds (s : State) (e : Nat) (x : Extent) (event : Byte) (lostIdx : Nat) : Adds routerParts s (s.notice e x event lostIdx) := by
  unfold State.notice
  split
  · exact Adds.rfl _
  · dsimp only
    split
    · exact issue_adds ..
    · exact (issue_adds ..).trans ((raise_adds ..).mono (by decide))

theorem loseExtent_adds (s : State) (e lostIdx gran : Nat) : Adds lossParts s (s.loseExtent e lostIdx gran) := by
  unfold State.loseExtent
  split
  · exact Adds.rfl _
  · dsimp only
    split
    · exact Adds.rfl _
    · exact ((setExtent_adds ..).mono (by decide)).trans (((notice_adds ..).mono (by decide)).trans ((raise_adds ..).mono (by decide)))

theorem loseStack_adds (s : State) (st : Nat) : Adds lossParts s (s.loseStack st) := by
  unfold State.loseStack
  refine (Adds.foldl (fun acc k => (setGran_adds ..).mono (by decide)) _ _).trans (Adds.foldl (fun acc e => ?_) _ _)
  split
  · exact loseExtent_adds ..
  · exact Adds.rfl _

/-- What a stack's failure may touch. -/
def failParts : List Part := .mem :: lossParts

theorem failStack_adds (s : State) (st mask cause : Nat) : Adds failParts s (s.failStack st mask cause) := by
  cases h : (s.stack st).failed with
  | true =>
    rw [State.failStack, if_pos h]
    exact Adds.rfl _
  | false =>
    obtain ⟨u, hu, -, -, hadds⟩ := failStack_of_not_failed h mask cause
    rw [hu]
    exact (hadds.mono (by decide)).trans ((loseStack_adds ..).mono (by decide))

/-! Sets. -/

theorem startSet_frame (v : State) (b : List Byte) (bank : BitVec 2) (ph : Phase) : Frame [.plt, .sec, .dbg] v (v.startSet b bank ph) :=
  have h : Adds [.plt, .sec, .dbg] v (v.startSet b bank ph) :=
    adds_of_same rfl rfl (fun p => by cases p <;> simp [Part.same, State.startSet])
  h.1

theorem startSet_dumpState {v : State} (h : v.dbg.dumpHeader = []) (b : List Byte) (bank : BitVec 2) (ph : Phase) :
    (v.startSet b bank ph).dbg.dumpState = .none := by
  simp [State.startSet, h]

/-- The platform record with a bank marked FAILED. -/
def Plt.bankFailed (x : Plt) (b : Fin 2) (c : Nat) : Plt := { x with failCause := BitVec.ofNat 3 c, flash := x.flash.failBank b }

theorem failSet_adds (v : State) (b : Option (Fin 2)) (c : Nat) : Adds [.plt, .ctr, .ras, .serial] v (v.failSet b c) := by
  unfold State.failSet
  dsimp only
  cases b with
  | none => exact (adds_plt v _).mono (by simp)
  | some b => exact ((adds_plt v _).mono (by simp)).trans (((setFlash_adds ..).mono (by simp)).trans ((raise_adds ..).mono (by simp)))

theorem failSet_plt (v : State) (b : Fin 2) (c : Nat) : (v.failSet (some b) c).plt = v.plt.bankFailed b c :=
  (raise_adds _ _).same .plt (by decide)

theorem failBank_state (f : Flash) (b : Fin 2) :
    (if b = 0 then (f.failBank b).header.state0 else (f.failBank b).header.state1) = .failed := by
  by_cases h : b = 0 <;> simp [Flash.failBank, Flash.writeHeader, h]

/-! The ROM's check. -/

/-- The state in which the ROM checks: the persistent store has been read the first time. -/
def State.romStart (s : State) : State := if s.plt.bank = 3#2 ∨ s.plt.failCause = 6#3 then s.readStore else s

theorem romStart_fuses (s : State) : s.romStart.plt.fuses = s.plt.fuses := by
  unfold State.romStart
  split <;> rfl

theorem romStart_checkSet (s : State) (b : List Byte) (n : Nat) : s.romStart.checkSet b n = s.checkSet b n := by
  simp only [State.checkSet, romStart_fuses]

theorem romStart_bankOf (s : State) (b : Fin 2) : s.romStart.plt.flash.bankOf b = s.plt.flash.bankOf b := by
  unfold State.romStart
  split <;> rfl

theorem romStart_adds (s : State) : Adds [.plt] s s.romStart := by
  unfold State.romStart
  split
  · exact adds_plt s _
  · exact Adds.rfl _

/-- The recovery image's bytes. -/
def Flash.recoverySet (f : Flash) : List Byte := if f.present then f.recovery else []

theorem romStart_recoverySet (s : State) : s.romStart.plt.flash.recoverySet = s.plt.flash.recoverySet := by
  unfold State.romStart
  split <;> rfl

/-- The recovery image fails its check, and the ROM waits for a download. -/
def State.recoveryFailed (s : State) (c : Nat) : State :=
  (s.failSet none c).setPlt { (s.failSet none c).plt with phase := .downloadWait, bank := 3#2 }

/-- The ROM checks the recovery image: it starts, or the ROM waits for a download. -/
def State.romRecovery (s : State) : State :=
  match s.checkSet s.plt.flash.recoverySet recoveryRegion with
  | none => s.startSet s.plt.flash.recoverySet 2#2 .recovery
  | some c => s.recoveryFailed c

section
variable {s : State} {src : SetSource}

theorem romCheckDone_of_other_phase (h1 : s.plt.phase ≠ .rom) (h2 : s.plt.phase ≠ .downloadWait) : romCheckDone src s = s := by
  unfold romCheckDone
  split
  · contradiction
  · contradiction
  · rfl

theorem romCheckDone_of_other_set (h : s.plt.phase = .rom) (hs : src ≠ s.romPick) : romCheckDone src s = s := by
  simp [romCheckDone, h, hs]

theorem romCheckDone_of_bank (h : s.plt.phase = .rom) (hs : src = s.romPick) {b : Fin 2} (hb : src = if b = 0 then .bank0 else .bank1) :
    romCheckDone src s = s.romStart.romBank b := by
  simp only [romCheckDone, h]
  rw [if_neg (not_not.2 hs), hb]
  fin_cases b <;> rfl

theorem romCheckDone_of_recovery (h : s.plt.phase = .rom) (hs : src = s.romPick) (hr : src = .recovery) :
    romCheckDone src s = s.romStart.romRecovery := by
  simp only [romCheckDone, h]
  rw [if_neg (not_not.2 hs), hr]
  rfl

theorem romRecovery_passes (h : s.checkSet s.plt.flash.recoverySet recoveryRegion = none) :
    s.romRecovery = s.startSet s.plt.flash.recoverySet 2#2 .recovery := by
  simp only [State.romRecovery, h]

theorem romRecovery_fails {c : Nat} (h : s.checkSet s.plt.flash.recoverySet recoveryRegion = some c) :
    s.romRecovery = s.recoveryFailed c := by
  simp only [State.romRecovery, h]

theorem romCheckDone_of_download (h : s.plt.phase = .downloadWait) : romCheckDone src s =
    if src = .downloaded ∧ s.plt.downloaded ≠ [] then s.romDownloaded s.plt.downloaded else s := by
  simp only [romCheckDone, h]

theorem romBank_passes {b : Fin 2} (h : s.checkSet (s.plt.flash.bankOf b) bankRegion = none) :
    s.romBank b = (s.startSet (s.plt.flash.bankOf b) (if b = 0 then 0#2 else 1#2) .fwStart).loadBuiltins := by
  simp only [State.romBank, h]

theorem romBank_fails {b : Fin 2} {c : Nat} (h : s.checkSet (s.plt.flash.bankOf b) bankRegion = some c) :
    s.romBank b = (s.failSet (some b) c).setPlt { (s.failSet (some b) c).plt with bank := 2#2 } := by
  simp only [State.romBank, h]

theorem romDownloaded_passes {set : List Byte} (h : s.checkSet set downloadRegion = none) :
    s.romDownloaded set = (s.startSet set 3#2 .fwStart).loadBuiltins := by
  simp only [State.romDownloaded, h]

theorem romDownloaded_fails {set : List Byte} {c : Nat} (h : s.checkSet set downloadRegion = some c) :
    s.romDownloaded set = s.setPlt { s.plt with failCause := BitVec.ofNat 3 c, download := [], downloaded := [] } := by
  simp only [State.romDownloaded, h]
  rfl

end

/-- A command of a live device that sets the platform record to x does that, and nothing else. -/
theorem live_setPlt {c : Instr} {s : State} {f : State → State} {x : Plt} (hc : exec c s = .next (s.quiet.whenLive f)) (hl : s.live = true)
    (hf : f s.quiet = s.quiet.setPlt x) : ∃ t, exec c s = .next t ∧ t.plt = x ∧ Frame [.plt] s t := by
  obtain ⟨hx, hF⟩ := live_next_frame hc hl hf (adds_plt ..).1 (by decide)
  exact ⟨_, hx, rfl, hF⟩

/-! Downloads (R542, R543). -/

theorem downloadPl0Enable_of_other {set : List Byte} {s : State} (h : s.plt.phase ≠ .downloadWait ∨ s.plt.strapBoot = 2#2) :
    downloadPl0Enable set s = s := if_pos h

theorem downloadPl0Enable_of_wait {set : List Byte} {s : State} (h : s.plt.phase = .downloadWait) (hb : s.plt.strapBoot ≠ 2#2) :
    downloadPl0Enable set s =
      (s.setAdmin 0 { s.admin 0 with enable := false }).romDownloaded (set.take downloadRegion) :=
  if_neg (by simp [h, hb])

/-- A datagram's bytes are within what the ROM takes. -/
def State.downloadFits (s : State) (off : W32) (bytes : List Byte) : Bool :=
  decide (off.toNat + bytes.length ≤ min (contiguous s.plt.download 0 + 65536) downloadRegion)

theorem downloadFits_iff {s : State} {off : W32} {bytes : List Byte} : s.downloadFits off bytes = true ↔
    off.toNat + bytes.length ≤ contiguous s.plt.download 0 + 65536 ∧ off.toNat + bytes.length ≤ downloadRegion := by
  rw [State.downloadFits, decide_eq_true_eq, Nat.le_min]

/-- The bytes that a datagram leaves listed. -/
def State.downloadGot (s : State) (off : W32) (bytes : List Byte) : SMap Byte :=
  if s.downloadFits off bytes then listBytes s.plt.download off.toNat bytes else s.plt.download

/-- The bytes listed hold a whole set. -/
def setWhole (m : SMap Byte) : Bool :=
  decide (manifestBytes ≤ contiguous m 0) && decide (setLength ((tvals m).take (contiguous m 0)) ≤ contiguous m 0)

theorem setWhole_iff {m : SMap Byte} : setWhole m = true ↔
    manifestBytes ≤ contiguous m 0 ∧ setLength ((tvals m).take (contiguous m 0)) ≤ contiguous m 0 := by
  rw [setWhole, Bool.and_eq_true, decide_eq_true_eq, decide_eq_true_eq]

/-- The platform record with the bytes m listed, or with the set they hold. -/
def Plt.downloads (x : Plt) (m : SMap Byte) : Plt :=
  { x with download := if setWhole m then [] else m, downloaded := if setWhole m then (tvals m).take (contiguous m 0) else [] }

section
variable {off : W32} {bytes : List Byte} {s : State}

theorem downloadMgmtDatagram_of_closed
    (h : s.plt.phase ≠ .downloadWait ∨ s.plt.strapBoot = 1#2 ∨ s.plt.downloaded ≠ [] ∨ 1400 < bytes.length) :
    downloadMgmtDatagram off bytes s = s := if_pos h

theorem downloadMgmtDatagram_of_open
    (h : ¬ (s.plt.phase ≠ .downloadWait ∨ s.plt.strapBoot = 1#2 ∨ s.plt.downloaded ≠ [] ∨ 1400 < bytes.length)) :
    downloadMgmtDatagram off bytes s = (s.setPlt (s.plt.downloads (s.downloadGot off bytes))).emit
      (.head none 0#64 (natBytes 4 (contiguous (s.downloadGot off bytes) 0))) := if_neg h

/-- An open download answers the count, and keeps or gives over what is listed. -/
theorem downloadMgmtDatagram_next (hl : s.live = true)
    (h : ¬ (s.plt.phase ≠ .downloadWait ∨ s.plt.strapBoot = 1#2 ∨ s.plt.downloaded ≠ [] ∨ 1400 < bytes.length)) :
    ∃ t, exec (.downloadMgmtDatagram off bytes) s = .next t ∧
      .head none 0#64 (natBytes 4 (contiguous (s.downloadGot off bytes) 0)) ∈ t.out ∧
      t.plt = s.plt.downloads (s.downloadGot off bytes) ∧ Frame [.plt] s t := by
  obtain ⟨hx, hF⟩ := live_next_frame (i := .downloadMgmtDatagram off bytes) rfl hl (downloadMgmtDatagram_of_open (s := s.quiet) h)
    ((adds_plt ..).trans (emit_adds ..)).1 (by decide)
  exact ⟨_, hx, mem_emit .., rfl, hF⟩

end

/-! Training (R247, R248, R571, R572). -/

/-- The stacks' readings are taken. -/
def State.takeTemps (s : State) (l : List (Nat × BitVec 8)) : State :=
  l.foldl (fun st e => st.setStack e.1 { st.stack e.1 with temp := e.2, trainTemp := e.2 }) s

theorem takeTemps_adds (s : State) (l : List (Nat × BitVec 8)) : Adds [.mem] s (s.takeTemps l) := by
  unfold State.takeTemps
  exact Adds.foldl (fun st e => setStack_adds ..) l s

theorem setStack_keysRise {s : State} (h : keysRise s.mem.deepStacks = true) (k : Nat) (x : Stack) :
    keysRise (s.setStack k x).mem.deepStacks = true := keysRise_mset _ h k x

theorem setStack_stack_other {s : State} (h : keysRise s.mem.deepStacks = true) {k i : Nat} (x : Stack) (hi : i ≠ k) :
    (s.setStack k x).stack i = s.stack i := mget_mset_other _ h x hi

theorem takeTemps_stack_other {l : List (Nat × BitVec 8)} {k : Nat} (hn : ∀ e ∈ l, k ≠ e.1) :
    ∀ {s : State}, keysRise s.mem.deepStacks = true → (s.takeTemps l).stack k = s.stack k := by
  induction l with
  | nil => exact fun _ => rfl
  | cons e l ih =>
    intro s h
    exact (ih (fun a ha => hn a (List.mem_cons_of_mem _ ha)) (setStack_keysRise h e.1 _)).trans
      (setStack_stack_other h _ (hn e List.mem_cons_self))

theorem takeTemps_stack {l : List (Nat × BitVec 8)} (hl : l.Pairwise (fun a b => a.1 ≠ b.1)) {k : Nat} {v : BitVec 8} (hm : (k, v) ∈ l) :
    ∀ {s : State}, keysRise s.mem.deepStacks = true → (s.takeTemps l).stack k = { s.stack k with temp := v, trainTemp := v } := by
  induction l with
  | nil => exact absurd hm List.not_mem_nil
  | cons e l ih =>
    intro s h
    obtain ⟨hne, hl⟩ := List.pairwise_cons.1 hl
    have hk := setStack_keysRise h e.1 { s.stack e.1 with temp := e.2, trainTemp := e.2 }
    rcases List.mem_cons.1 hm with rfl | hm
    · exact (takeTemps_stack_other hne hk).trans (setStack_stack_same ..)
    · refine (ih hl hm hk).trans ?_
      rw [setStack_stack_other h _ (hne _ hm).symm]

theorem pairwise_zip_fst_ne {α β : Type} {l : List α} (h : l.Nodup) (m : List β) : (l.zip m).Pairwise (fun a b => a.1 ≠ b.1) := by
  induction l generalizing m with
  | nil => exact List.Pairwise.nil
  | cons a l ih =>
    obtain ⟨ha, hl⟩ := List.nodup_cons.1 h
    cases m with
    | nil => exact List.Pairwise.nil
    | cons b m =>
      refine List.pairwise_cons.2 ⟨fun e he hk => ha ?_, ih hl m⟩
      rw [show a = e.1 from hk]
      exact (List.of_mem_zip he).1

/-- The twelve stacks of which some pseudo-channel failed fail. -/
def State.failStacks (s : State) (mask : Nat → Nat) : State :=
  (List.range 12).foldl (fun st k => if mask k = 0 then st else st.failStack k (mask k) 0) s

theorem failStacks_adds (s : State) (mask : Nat → Nat) : Adds failParts s (s.failStacks mask) := by
  refine Adds.foldl (fun st k => ?_) _ _
  split
  · exact Adds.rfl _
  · exact failStack_adds ..

theorem foldl_of_mem {α β : Type} {f : α → β → α} {l : List β} {a : α} (h : ∀ b ∈ l, f a b = a) : l.foldl f a = a := by
  induction l with
  | nil => rfl
  | cons b l ih => rw [List.foldl_cons, h b List.mem_cons_self, ih (fun c hc => h c (List.mem_cons_of_mem _ hc))]

theorem failStacks_of_none {s : State} {mask : Nat → Nat} (h : ∀ k < 12, mask k = 0) : s.failStacks mask = s :=
  foldl_of_mem (fun k hk => if_pos (h k (List.mem_range.1 hk)))

/-- The pseudo-channels of a stack that failed training, as a mask. -/
def trainMask (failed : List (Nat × Nat)) (k : Nat) : Nat :=
  (List.range 32).foldl (fun m i => if failed.contains (k, i) then m + 2 ^ i else m) 0

theorem trainMask_nil (k : Nat) : trainMask [] k = 0 := foldl_of_mem (fun i _ => if_neg (by simp))

/-- The device as training leaves it, in phase KAT, before any verdict is applied. -/
def State.trained (s : State) (temps : List (BitVec 8)) (failed : List (Nat × Nat)) : State :=
  let v := (s.takeTemps ((List.range 12).zip temps)).failStacks (trainMask failed)
  v.setPlt { v.plt with phase := .kat }

theorem trained_plt (s : State) (temps : List (BitVec 8)) (failed : List (Nat × Nat)) :
    (s.trained temps failed).plt = { s.plt with phase := .kat } := by
  have h : ((s.takeTemps ((List.range 12).zip temps)).failStacks (trainMask failed)).plt = s.plt :=
    ((failStacks_adds ..).same .plt (by decide)).trans ((takeTemps_adds s _).same .plt (by decide))
  unfold State.trained
  dsimp only [State.setPlt]
  rw [h]

theorem trained_of_none (s : State) (temps : List (BitVec 8)) : s.trained temps [] =
    (s.takeTemps ((List.range 12).zip temps)).setPlt { (s.takeTemps ((List.range 12).zip temps)).plt with phase := .kat } := by
  unfold State.trained
  rw [failStacks_of_none (fun k _ => trainMask_nil k)]

theorem trained_none_frame (s : State) (temps : List (BitVec 8)) : Frame [.mem, .plt] s (s.trained temps []) := by
  rw [trained_of_none]
  exact (((takeTemps_adds s _).mono (by simp)).trans ((adds_plt _ _).mono (by simp)) : Adds _ _ _).1

theorem trained_none_stack {s : State} (h : keysRise s.mem.deepStacks = true) {temps : List (BitVec 8)} {k : Nat} {v : BitVec 8}
    (hk : k < 12) (hv : temps[k]? = some v) : (s.trained temps []).stack k = { s.stack k with temp := v, trainTemp := v } := by
  rw [trained_of_none]
  exact takeTemps_stack (pairwise_zip_fst_ne List.nodup_range temps)
    (List.mem_of_getElem? (i := k) (List.getElem?_zip_eq_some.2 ⟨List.getElem?_range hk, hv⟩)) h

theorem partitionFailed_adds (s : State) (bc n : Nat) : Adds [.arb, .health, .remap, .fab, .ras, .ctr, .xlt, .dbg, .links, .serial] s
    (s.partitionFailed bc n) := by
  unfold State.partitionFailed
  extract_lets s1
  refine ((raise_adds s _).mono (by simp) : Adds _ s s1).trans ?_
  split
  · cases h : s1.blockOnline ⟨n % 64, Nat.mod_lt _ (by decide)⟩ with
    | true => exact blockDown_adds h _
    | false => rw [State.blockDown, h]; exact Adds.rfl _
  · split
    · exact (regionDown_adds ..).trans (regionDown_adds ..)
    · exact (nodeFatal_adds ..).mono (by simp)

theorem applyVerdict_plt (s : State) (n : Nat) : (s.applyVerdict n).plt = s.plt := by
  unfold State.applyVerdict
  split
  · rfl
  · exact (Adds.foldl (fun st i => partitionFailed_adds ..) _ _).same .plt (by decide)

theorem applyVerdict_of_none {s : State} (h : s.plt.flash.verdict = none) (n : Nat) : s.applyVerdict n = s := by
  simp only [State.applyVerdict, h]

/-- The results of the partitions tested again after an abrupt shut-down are applied. -/
def State.retested (s : State) (reduced : List Nat) : State :=
  (reduced.filter (fun n => decide (64 ≤ n) && decide (n < 70))).foldl
    (fun st n => st.partitionFailed st.plt.flash.bootCount n) { s with dbg := { s.dbg with reduced := true } }

/-- The stored verdict is applied to the partitions below n, and what was tested again. -/
def State.judged (s : State) (reduced : List Nat) (n : Nat) : State :=
  if !(s.applyVerdict n).plt.abruptLast then s.applyVerdict n else (s.applyVerdict n).retested reduced

section
variable {temps : List (BitVec 8)} {failed : List (Nat × Nat)} {s : State}

theorem deepTrainDone_of_other (h : s.plt.phase ≠ .train) (reduced : List Nat) : deepTrainDone temps failed reduced s = s := if_pos h

theorem deepTrainDone_of_train (h : s.plt.phase = .train) (reduced : List Nat) : deepTrainDone temps failed reduced s =
    if !s.plt.abruptLast then (s.trained temps failed).applyVerdict (if s.plt.abruptLast then 64 else 70)
    else ((s.trained temps failed).applyVerdict (if s.plt.abruptLast then 64 else 70)).retested reduced := by
  have h2 : ((s.takeTemps ((List.range 12).zip temps)).failStacks (trainMask failed)).plt.abruptLast = s.plt.abruptLast :=
    congrArg Plt.abruptLast (((failStacks_adds ..).same .plt (by decide)).trans ((takeTemps_adds s _).same .plt (by decide)))
  have h3 : ∀ n, ((s.trained temps failed).applyVerdict n).plt.abruptLast = s.plt.abruptLast := fun n => by
    rw [applyVerdict_plt, trained_plt]
  have h : deepTrainDone temps failed reduced s = (s.trained temps failed).judged reduced
      (if ((s.takeTemps ((List.range 12).zip temps)).failStacks (trainMask failed)).plt.abruptLast then 64 else 70) := if_neg (not_not.2 h)
  rw [h, h2, State.judged, h3]

end

/-! Units that failed (R567, R571). -/

theorem blockDown_blockOnline (s : State) (b : BlockId) (f : FaultCause) : (s.blockDown b f).blockOnline b = false := by
  cases h : s.blockOnline b with
  | true => simp [State.blockOnline, (blockDown_spec h f).1]
  | false => rw [State.blockDown, h]; exact h

theorem regionDown_keeps_offline {s : State} {a : RegionId} (h : s.regionOnline a = false) (r : RegionId) (f : FaultCause) :
    (s.regionDown r f).regionOnline a = false := by
  cases hr : s.regionOnline r with
  | false => rw [regionDown_of_offline hr]; exact h
  | true =>
    unfold State.regionOnline at h ⊢
    rw [regionDown_blk hr]
    split
    · rfl
    · exact h

theorem partitionFailed_of_block (s : State) (bc : Nat) {n : Nat} (h : n < 64) : s.partitionFailed bc n =
    (s.raise (mkReport 0x0D 0x02 1 unitChip n bc)).blockDown ⟨n, h⟩ .testFailed := by
  refine (if_pos h).trans (congrArg (fun b => State.blockDown _ b _) (Fin.ext ?_))
  exact Nat.mod_eq_of_lt h

theorem partitionFailed_of_regions (s : State) (bc : Nat) {n : Nat} (h : 64 ≤ n ∧ n < 68) : s.partitionFailed bc n =
    ((s.raise (mkReport 0x0D 0x02 1 unitChip n bc)).regionDown ⟨2 * (n - 64), by omega⟩ .testFailed).regionDown
      ⟨2 * (n - 64) + 1, by omega⟩ .testFailed := by
  refine (if_neg (by omega)).trans ((if_pos h.2).trans ?_)
  dsimp only
  congr 2
  · congr 1; omega
  · omega

theorem partitionFailed_of_rest (s : State) (bc : Nat) {n : Nat} (h : 68 ≤ n) : s.partitionFailed bc n =
    (s.raise (mkReport 0x0D 0x02 1 unitChip n bc)).nodeFatal unitChip :=
  (if_neg (by omega)).trans (if_neg (by omega))

section
variable {v : State} {u : BitVec 16}

theorem unitFailed_of_cell (h : u.toNat / 4096 = 3) :
    v.unitFailed u = v.fenceCell ⟨u.toNat % 4096 % 1024, Nat.mod_lt _ (by decide)⟩ .testFailed := by
  simp only [State.unitFailed, h]

theorem unitFailed_of_block (h : u.toNat / 4096 = 2) :
    v.unitFailed u = v.blockDown ⟨u.toNat % 4096 % 64, Nat.mod_lt _ (by decide)⟩ .testFailed := by
  simp only [State.unitFailed, h]

theorem unitFailed_of_region (h : u.toNat / 4096 = 1) :
    v.unitFailed u = v.regionDown ⟨u.toNat % 4096 % 8, Nat.mod_lt _ (by decide)⟩ .testFailed := by
  simp only [State.unitFailed, h]

theorem unitFailed_of_rest (h : 8 ≤ u.toNat / 4096) : v.unitFailed u = v.nodeFatal u := by
  unfold State.unitFailed
  dsimp only
  split
  case h_8 => rfl
  all_goals omega

end

/-! Known-answer tests (R567, R592). -/

theorem katReport_adds (s : State) (f : TestFail) : Adds [.ctr, .ras, .serial] s (s.katReport f) := by
  have hd : Adds [.ctr, .ras, .serial] s s.draw.2 := adds_of_same rfl rfl (fun p => by cases p <;> simp [Part.same, State.draw])
  exact hd.trans ((raise_adds ..).mono (by simp))

theorem katReport_reported (s : State) (f : TestFail) : reported (s.katReport f) 0x0D 0x01 1 f.unit := reported_raise ..

/-- The device once the failures are reported and handled. -/
def State.katHandled (s : State) (fails : List TestFail) : State :=
  fails.foldl (fun st f => st.unitFailed f.unit) ((fails.foldl (fun st f => st.katReport f) s).failStacks (failedPcs fails))

theorem katDone_of_other {fails : List TestFail} {s : State} (h : s.plt.phase ≠ .kat) : katDone fails s = s := if_pos h

/-- The tests are over, n units having failed, and phase FILL begins. -/
def State.katEnded (s : State) (n : Nat) : State :=
  { s with dbg := { s.dbg with katDone := true, katFails := n }, plt := { s.plt with phase := .fill } }

theorem katEnded_adds (s : State) (n : Nat) : Adds [.plt, .dbg] s (s.katEnded n) :=
  adds_of_same rfl rfl (fun p => by cases p <;> simp [Part.same, State.katEnded])

theorem katDone_of_kat {fails : List TestFail} {s : State} (h : s.plt.phase = .kat) : katDone fails s =
    (s.katHandled fails).katEnded (min 255 (fails.map (fun f => f.unit)).eraseDups.length) := if_neg (not_not.2 h)

theorem failedPcs_of_other_units {fails : List TestFail} (h : ∀ f ∈ fails, f.unit.toNat / 4096 ≠ 7) {k : Nat} (hk : k < 12) :
    failedPcs fails k = 0 := by
  refine foldl_of_mem (fun i hi => if_neg ?_)
  rw [List.any_eq_true]
  rintro ⟨f, hf, hu⟩
  have hi := List.mem_range.1 hi
  have hu := beq_iff_eq.1 hu
  exact h f hf (by omega)

theorem katHandled_nil (s : State) : s.katHandled [] = s := by
  rw [State.katHandled, List.foldl_nil, List.foldl_nil]
  exact failStacks_of_none (fun _ hk => failedPcs_of_other_units (fun _ hf => absurd hf List.not_mem_nil) hk)

theorem katHandled_single (s : State) {f : TestFail} (h : f.unit.toNat / 4096 ≠ 7) : s.katHandled [f] = (s.katReport f).unitFailed f.unit := by
  have hm : ∀ k < 12, failedPcs [f] k = 0 := fun _ hk =>
    failedPcs_of_other_units (fun g hg => (List.mem_singleton.1 hg).symm ▸ h) hk
  rw [State.katHandled, failStacks_of_none hm]
  rfl

/-! Fill (R539). -/

/-- The bank that the device booted from. -/
def Plt.bootedBank (x : Plt) : Option (Fin 2) := if x.bank = 0#2 then some 0 else if x.bank = 1#2 then some 1 else none

/-- The flash when READY is reached: a pending bank that was booted from is active. -/
def Plt.readyFlash (x : Plt) : Flash :=
  if x.bootedBank.isSome ∧ x.flash.header.pendingBank = x.bootedBank then
    x.flash.writeHeader { x.flash.header with active := x.bootedBank, pendingBank := none }
  else x.flash

theorem fillDone_of_other {s : State} (h : s.plt.phase ≠ .fill ∨ s.filled = false) : fillDone s = s :=
  if_pos (by simpa using h)

theorem fillDone_of_filled {s : State} (h : s.plt.phase = .fill) (hf : s.filled = true) :
    fillDone s = s.setPlt { s.plt with phase := .ready, flash := s.plt.readyFlash } := if_neg (by simp [h, hf])

theorem bootedBank_of_bank {x : Plt} {b : Fin 2} (h : x.bank = if b = 0 then 0#2 else 1#2) : x.bootedBank = some b := by
  fin_cases b <;> simp [Plt.bootedBank, h]

theorem readyFlash_of_pending {x : Plt} {b : Fin 2} (h : x.bank = if b = 0 then 0#2 else 1#2) (hp : x.flash.header.pendingBank = some b) :
    x.readyFlash = x.flash.writeHeader { x.flash.header with active := some b, pendingBank := none } := by
  rw [Plt.readyFlash, bootedBank_of_bank h, if_pos ⟨rfl, hp⟩]

theorem readyFlash_of_none {x : Plt} (hp : x.flash.header.pendingBank = none) : x.readyFlash = x.flash := by
  refine if_neg (fun h => ?_)
  rw [← h.2, hp] at h
  exact Bool.noConfusion h.1

/-! The boot watchdog (R540). -/

/-- A phase between FW_START and READY. -/
def starting (s : State) : Prop := s.plt.phase = .fwStart ∨ s.plt.phase = .train ∨ s.plt.phase = .kat ∨ s.plt.phase = .fill

/-- The bank marked FAILED and reported. -/
def State.watchdogReport (s : State) : State :=
  (s.failSet s.plt.bootedBank 6).raise (mkReport 0x0C 0x08 1 unitChip s.plt.bank.toNat s.plt.phase.code)

theorem bootWatchdog_of_other {s : State} (h : ¬ starting s) : bootWatchdog s = s := by
  simp only [starting, not_or] at h
  exact if_pos h

theorem bootWatchdog_of_starting {s : State} (h : starting s) : bootWatchdog s =
    s.watchdogReport.setPlt { s.watchdogReport.plt with resetHeld := true, resetDone := false, recoverNext := true } := by
  refine if_neg ?_
  rintro ⟨h1, h2, h3, h4⟩
  rcases h with h | h | h | h <;> contradiction

theorem watchdogReport_adds (s : State) : Adds [.plt, .ctr, .ras, .serial] s s.watchdogReport :=
  (failSet_adds ..).trans ((raise_adds ..).mono (by simp))

theorem watchdogReport_plt (s : State) : s.watchdogReport.plt = (s.failSet s.plt.bootedBank 6).plt := (raise_adds _ _).same .plt (by decide)

theorem watchdogReport_failCause (s : State) : s.watchdogReport.plt.failCause = 6#3 := by
  rw [watchdogReport_plt]
  cases s.plt.bootedBank with
  | none => rfl
  | some b => rw [failSet_plt]; rfl

theorem watchdogReport_state {s : State} {b : Fin 2} (h : s.plt.bank = if b = 0 then 0#2 else 1#2) :
    (if b = 0 then s.watchdogReport.plt.flash.header.state0 else s.watchdogReport.plt.flash.header.state1) = .failed := by
  rw [watchdogReport_plt, bootedBank_of_bank h, failSet_plt]
  exact failBank_state ..

/-! The management lanes (R605). -/

/-- The mode that the management port tries next. -/
def otherMode : MgmtMode → MgmtMode
  | .baseR10G => .baseX1000
  | .baseX1000 => .baseR10G

section
variable {s : State}

/-- A command of an awake device that sets the platform record to x does that, and nothing else. -/
theorem awake_setPlt {c : Instr} {f : State → State} {x : Plt} (hc : exec c s = .next (s.quiet.whenAwake f)) (ha : s.awake = true)
    (hf : f s.quiet = s.quiet.setPlt x) : ∃ t, exec c s = .next t ∧ t.plt = x ∧ Frame [.plt, .links] s t := by
  obtain ⟨hx, hF⟩ := awake_next hc ha hf ((adds_plt ..).1.mono (qs := [.plt, .links]) (by simp)) (by simp)
  exact ⟨_, hx, rfl, hF⟩

theorem mgmtLinkModeTimeout_of_rest (h : s.plt.mgmt.locked = true ∨ s.mgmtTries = false) : mgmtLinkModeTimeout s = s :=
  if_pos (by simpa using h)

theorem mgmtBlockLock_of_rest (m : MgmtMode) (h : s.plt.mgmt.locked = true ∨ s.mgmtTries = false) : mgmtBlockLock m s = s :=
  if_pos (by rcases h with h | h <;> simp [h])

theorem mgmtBlockLock_of_other_mode {m : MgmtMode} (h : s.plt.mgmt.mode ≠ m) : mgmtBlockLock m s = s := if_pos (by simp [h])

theorem mgmtLinkModeTimeout_tries (h : s.plt.mgmt.locked = false) (ht : s.mgmtTries = true) :
    mgmtLinkModeTimeout s = s.setPlt { s.plt with mgmt := ⟨otherMode s.plt.mgmt.mode, false⟩ } := by
  refine (if_neg (by simp [h, ht])).trans ?_
  rw [← h]
  rfl

theorem mgmtBlockLock_tries {m : MgmtMode} (h : s.plt.mgmt.locked = false) (ht : s.mgmtTries = true) (hm : s.plt.mgmt.mode = m) :
    mgmtBlockLock m s = s.setPlt { s.plt with mgmt := ⟨m, true⟩ } := by
  subst hm
  exact if_neg (by simp [h, ht])

theorem otherMode_ne (m : MgmtMode) : otherMode m ≠ m := by cases m <;> decide

end

/-! The clauses. -/

/-- Settling touches the ports and the queue of commands alone. -/
theorem settle_sameBut_of {ps : List Part} {s t u : State} (h : SameBut ps t u) (hp : Part.links ∈ ps) : SameBut ps t (s.settle u) :=
  fun p hn => by
    cases p
    case links => exact absurd hp hn
    all_goals exact h _ hn

section
variable {s : State} (hl : s.live = true)
include hl

/-- The ROM checks a bank. -/
theorem romCheckDone_bank_next {src : SetSource} {b : Fin 2} (h : s.plt.phase = .rom) (hs : src = s.romPick)
    (hb : src = if b = 0 then .bank0 else .bank1) :
    (s.checkSet (s.plt.flash.bankOf b) bankRegion = none → ∃ t, exec (.romCheckDone src) s = .next t ∧
      t = s.quiet.settle (s.quiet.romStart.startSet (s.plt.flash.bankOf b) (if b = 0 then 0#2 else 1#2) .fwStart).loadBuiltins) ∧
    (∀ c, s.checkSet (s.plt.flash.bankOf b) bankRegion = some c → ∃ t u, exec (.romCheckDone src) s = .next t ∧
      u = s.quiet.romStart.failSet (some b) c ∧ t.plt = { u.plt with bank := 2#2 } ∧ t.out = u.out ∧ SameBut [.plt] u t) := by
  have hx := live_next (i := .romCheckDone src) rfl hl (romCheckDone_of_bank (s := s.quiet) h hs hb)
  have hc : s.quiet.romStart.checkSet (s.quiet.romStart.plt.flash.bankOf b) bankRegion = s.checkSet (s.plt.flash.bankOf b) bankRegion := by
    rw [romStart_checkSet, romStart_bankOf]
    rfl
  refine ⟨fun hp => ⟨_, hx, ?_⟩, fun c hp => ?_⟩
  · rw [romBank_passes (hc.trans hp), romStart_bankOf]
    rfl
  · rw [romBank_fails (hc.trans hp)] at hx
    have hd : (s.quiet.romStart.failSet (some b) c).dbg.fatal = false :=
      (congrArg Dbg.fatal (((failSet_adds ..).same .dbg (by decide)).trans ((romStart_adds _).same .dbg (by decide)))).trans
        (live_not_fatal hl)
    generalize s.quiet.romStart.failSet (some b) c = u at hx hd
    exact ⟨_, u, hx, rfl, rfl, rfl, settle_sameBut hd (adds_plt u _).1.2⟩

/-- The ROM checks the recovery image. -/
theorem romCheckDone_recovery_next {src : SetSource} (h : s.plt.phase = .rom) (hs : src = s.romPick) (hr : src = .recovery) :
    (s.checkSet s.plt.flash.recoverySet recoveryRegion = none → ∃ t, exec (.romCheckDone src) s = .next t ∧
      t = s.quiet.settle (s.quiet.romStart.startSet s.plt.flash.recoverySet 2#2 .recovery)) ∧
    (∀ c, s.checkSet s.plt.flash.recoverySet recoveryRegion = some c → ∃ t, exec (.romCheckDone src) s = .next t ∧
      t.plt.phase = .downloadWait ∧ t.plt.bank = 3#2 ∧ t.plt.failCause = BitVec.ofNat 3 c ∧ Frame [.plt] s t) := by
  have hf := romCheckDone_of_recovery (s := s.quiet) h hs hr
  have hc : s.quiet.romStart.checkSet s.quiet.romStart.plt.flash.recoverySet recoveryRegion =
      s.checkSet s.plt.flash.recoverySet recoveryRegion := by
    rw [romStart_checkSet, romStart_recoverySet]
    rfl
  refine ⟨fun hp => ⟨_, live_next (i := .romCheckDone src) rfl hl hf, ?_⟩, fun c hp => ?_⟩
  · rw [romRecovery_passes (hc.trans hp), romStart_recoverySet]
    rfl
  · rw [romRecovery_fails (hc.trans hp)] at hf
    obtain ⟨hx, hF⟩ := live_next_frame (i := .romCheckDone src) (ps := [.plt]) rfl hl hf
      ((romStart_adds _).1.trans (adds_plt _ _).1) (by decide)
    exact ⟨_, hx, rfl, rfl, rfl, hF⟩

/-- The ROM checks a downloaded set. -/
theorem romCheckDone_download_next {src : SetSource} (h : s.plt.phase = .downloadWait) (hs : src = .downloaded) (hn : s.plt.downloaded ≠ []) :
    (s.checkSet s.plt.downloaded downloadRegion = none → ∃ t, exec (.romCheckDone src) s = .next t ∧
      t = s.quiet.settle (s.quiet.startSet s.plt.downloaded 3#2 .fwStart).loadBuiltins) ∧
    (∀ c, s.checkSet s.plt.downloaded downloadRegion = some c → ∃ t, exec (.romCheckDone src) s = .next t ∧
      t.plt = { s.plt with failCause := BitVec.ofNat 3 c, download := [], downloaded := [] } ∧ Frame [.plt] s t) := by
  have hf := (romCheckDone_of_download (s := s.quiet) h).trans (if_pos ⟨hs, hn⟩)
  refine ⟨fun hp => ⟨_, live_next (i := .romCheckDone src) rfl hl hf, ?_⟩, fun c hp => ?_⟩
  · exact congrArg s.quiet.settle (romDownloaded_passes (s := s.quiet) hp)
  · exact live_setPlt (c := .romCheckDone src) rfl hl (hf.trans (romDownloaded_fails (s := s.quiet) hp))

/-- ENABLE is written while the ROM waits for a download over a Phosha Link port. -/
theorem downloadPl0Enable_next {set : List Byte} (h : s.plt.phase = .downloadWait) (hb : s.plt.strapBoot ≠ 2#2) :
    (s.checkSet (set.take downloadRegion) downloadRegion = none → ∃ t, exec (.downloadPl0Enable set) s = .next t ∧
      t = s.quiet.settle ((s.quiet.setAdmin 0 { s.admin 0 with enable := false }).startSet (set.take downloadRegion) 3#2
        .fwStart).loadBuiltins) ∧
    (∀ c, s.checkSet (set.take downloadRegion) downloadRegion = some c → ∃ t, exec (.downloadPl0Enable set) s = .next t ∧
      t.plt = { s.plt with failCause := BitVec.ofNat 3 c, download := [], downloaded := [] } ∧
      (t.admin 0).enable = false ∧ Frame [.plt, .que] s t) := by
  have hf := downloadPl0Enable_of_wait (set := set) (s := s.quiet) h hb
  let v := s.quiet.setAdmin 0 { s.quiet.admin 0 with enable := false }
  refine ⟨fun hp => ⟨_, live_next (i := .downloadPl0Enable set) rfl hl hf, ?_⟩, fun c hp => ?_⟩
  · exact congrArg s.quiet.settle (romDownloaded_passes (s := v) hp)
  · obtain ⟨hx, hF⟩ := live_next_frame (i := .downloadPl0Enable set) (ps := [.plt, .que]) rfl hl
      (hf.trans (romDownloaded_fails (s := v) hp)) ((setAdmin_adds ..).1.mono (by simp) |>.trans ((adds_plt _ _).1.mono (by simp))) (by decide)
    exact ⟨_, hx, rfl, congrArg Admin.enable (setAdmin_admin_same s.quiet 0 _), hF⟩

/-- Training ends: the verdict is applied to the device it leaves. -/
theorem deepTrainDone_next {temps : List (BitVec 8)} {failed : List (Nat × Nat)} {reduced : List Nat} (h : s.plt.phase = .train) :
    ∃ t, exec (.deepTrainDone temps failed reduced) s = .next t ∧
      (s.plt.abruptLast = false → t = s.quiet.settle ((s.quiet.trained temps failed).applyVerdict 70)) ∧
      (s.plt.abruptLast = true → reduced = [] → t = s.quiet.settle
        { (s.quiet.trained temps failed).applyVerdict 64 with
          dbg := { ((s.quiet.trained temps failed).applyVerdict 64).dbg with reduced := true } }) := by
  have hf := deepTrainDone_of_train (temps := temps) (failed := failed) (s := s.quiet) h reduced
  rw [State.quiet_plt] at hf
  refine ⟨_, live_next (i := .deepTrainDone temps failed reduced) rfl hl hf, fun ha => ?_, fun ha hr => ?_⟩
  · rw [ha]
    rfl
  · subst hr
    rw [ha]
    rfl

end

/-- Settles O57: each command is one equation per phase (`romCheckDone_of_bank`, `deepTrainDone_of_train`, `katDone_of_kat` and their like) and what
its steps may touch. -/
theorem bootRunsToReady : Obligations.BootRunsToReady := by
  unfold Obligations.BootRunsToReady
  refine ⟨fun v b bank ph => ?_, fun v b c => ?_, fun src s hl => ?_, fun set s hl => ?_, fun off bytes s hl => ?_, fun s hl => ?_,
    fun temps failed reduced s hl => ?_, fun v bc n => ?_, fun fails s hl => ?_, fun v u => ?_, fun s hl => ?_, fun s hl => ?_,
    fun m s ha => ?_⟩
  · exact ⟨rfl, rfl, rfl, rfl, rfl, rfl, rfl, fun h => startSet_dumpState h b bank ph, startSet_frame v b bank ph⟩
  · have hp := failSet_plt v b c
    refine ⟨congrArg Plt.failCause hp, ?_, (congrArg Plt.phase hp).trans rfl, reported_raise .., (failSet_adds v (some b) c).1⟩
    rw [hp]
    exact failBank_state ..
  · refine ⟨fun h1 h2 => ?_, fun h hs => ?_, fun b h hs hb => romCheckDone_bank_next hl h hs hb,
      fun h hs hr => romCheckDone_recovery_next hl h hs hr, fun h hs => ?_, fun h hs hn => romCheckDone_download_next hl h hs hn⟩
    · exact live_idles (c := .romCheckDone src) rfl hl (romCheckDone_of_other_phase (s := s.quiet) h1 h2)
    · exact live_idles (c := .romCheckDone src) rfl hl (romCheckDone_of_other_set (s := s.quiet) h hs)
    · refine live_idles (c := .romCheckDone src) rfl hl ((romCheckDone_of_download (s := s.quiet) h).trans (if_neg ?_))
      exact fun hn => hs.elim (fun k => k hn.1) (fun k => hn.2 k)
  · exact ⟨fun h => live_idles (c := .downloadPl0Enable set) rfl hl (downloadPl0Enable_of_other (s := s.quiet) h),
      fun h hb => downloadPl0Enable_next hl h hb⟩
  · refine ⟨fun h => live_idles (c := .downloadMgmtDatagram off bytes) rfl hl (downloadMgmtDatagram_of_closed (s := s.quiet) h),
      fun h hfit => ?_, fun h hfit => ?_⟩
    · obtain ⟨t, hx, ho, hp, hF⟩ := downloadMgmtDatagram_next (off := off) hl h
      have hg : s.downloadGot off bytes = listBytes s.plt.download off.toNat bytes := if_pos (downloadFits_iff.2 hfit)
      rw [hg] at ho hp
      refine ⟨t, hx, ho, fun hw => ?_, fun hw => ?_, hF⟩
      · rw [hp, Plt.downloads, eq_false_of_ne_true (fun k => hw (setWhole_iff.1 k))]
        rfl
      · rw [hp, Plt.downloads, setWhole_iff.2 hw]
        rfl
    · obtain ⟨t, hx, ho, -, hF⟩ := downloadMgmtDatagram_next (off := off) hl h
      have hg : s.downloadGot off bytes = s.plt.download := if_neg (fun k => hfit (downloadFits_iff.1 k))
      rw [hg] at ho
      exact ⟨t, hx, ho, hF⟩
  · exact ⟨fun h => live_idles (c := .shelfCalibrationDone) rfl hl (if_neg h), fun h => live_setPlt (c := .shelfCalibrationDone) rfl hl (if_pos h)⟩
  · refine ⟨fun h => live_idles (c := .deepTrainDone temps failed reduced) rfl hl (deepTrainDone_of_other (s := s.quiet) h reduced),
      fun h => ?_⟩
    obtain ⟨t, hx, h70, h64⟩ := deepTrainDone_next (temps := temps) (failed := failed) (reduced := reduced) hl h
    refine ⟨t, s.quiet.trained temps failed, hx, trained_plt .., fun hn => ?_, fun hn hk k v hk12 hv => ?_, h70, h64, fun hv ha => ?_⟩
    · subst hn
      exact (Frame.quiet s).trans (trained_none_frame ..)
    · subst hn
      exact trained_none_stack (s := s.quiet) hk hk12 hv
    · rw [h70 ha, applyVerdict_of_none (by rw [trained_plt]; exact hv)]
  · refine ⟨fun h => ?_, fun h => ?_, fun h => ?_⟩
    · rw [partitionFailed_of_block v bc h]
      exact blockDown_blockOnline ..
    · rw [partitionFailed_of_regions v bc h]
      exact ⟨regionDown_keeps_offline (regionDown_regionOnline ..) _ _, regionDown_regionOnline ..⟩
    · rw [partitionFailed_of_rest v bc h]
      exact nodeFatal_fatal ..
  · have hk := fun (h : s.plt.phase = .kat) =>
      live_next (i := .katDone fails) rfl hl (katDone_of_kat (fails := fails) (s := s.quiet) h)
    refine ⟨fun h => live_idles (c := .katDone fails) rfl hl (katDone_of_other (s := s.quiet) h), fun h => ?_,
      fun h hn => ?_, fun f h hn => ?_⟩
    · refine ⟨_, hk h, ?_⟩
      rw [settle_plt, settle_dbg]
      exact ⟨rfl, rfl, rfl⟩
    · subst hn
      have hf := katDone_of_kat (fails := []) (s := s.quiet) h
      rw [katHandled_nil] at hf
      have hx := live_next (i := .katDone []) rfl hl hf
      exact ⟨_, hx, rfl, rfl, (Frame.quiet s).trans ⟨rfl, settle_sameBut (live_not_fatal hl) (katEnded_adds s.quiet _).1.2⟩⟩
    · subst hn
      refine ⟨_, s.quiet.katReport f, hk h, katReport_reported .., (Frame.quiet s).trans (katReport_adds ..).1, fun h7 => ?_⟩
      rw [katHandled_single s.quiet h7]
      exact settle_sameBut_of ((katEnded_adds _ _).1.mono (by simp)).2 (by simp)
  · exact ⟨unitFailed_of_cell, fun h => by rw [unitFailed_of_block h]; exact blockDown_blockOnline ..,
      fun h => by rw [unitFailed_of_region h]; exact regionDown_regionOnline .., fun h => by rw [unitFailed_of_rest h]; exact nodeFatal_fatal ..⟩
  · refine ⟨fun h => live_idles (c := .fillDone) rfl hl (fillDone_of_other (s := s.quiet) h), fun h hf => ?_⟩
    obtain ⟨t, hx, hp, hF⟩ := live_setPlt (c := .fillDone) rfl hl (fillDone_of_filled (s := s.quiet) h hf)
    refine ⟨t, hx, by rw [hp], fun b hb hpend => ?_, fun hn => ?_, hF⟩
    · rw [hp]
      dsimp only
      rw [readyFlash_of_pending (x := s.quiet.plt) hb hpend]
      exact ⟨rfl, rfl, rfl⟩
    · rw [hp]
      exact readyFlash_of_none hn
  · refine ⟨fun h => live_idles (c := .bootWatchdog) rfl hl (bootWatchdog_of_other (s := s.quiet) h), fun h => ?_⟩
    have hw := watchdogReport_adds s.quiet
    have hset := adds_plt s.quiet.watchdogReport
      { s.quiet.watchdogReport.plt with resetHeld := true, resetDone := false, recoverNext := true }
    obtain ⟨hx, hF⟩ := live_next_frame (i := .bootWatchdog) rfl hl (bootWatchdog_of_starting (s := s.quiet) h)
      (hw.trans (hset.mono (by simp))).1 (by decide)
    exact ⟨_, hx, rfl, rfl, rfl, watchdogReport_failCause s.quiet, fun hb => watchdogReport_state (s := s.quiet) (b := 0) hb,
      fun hb => watchdogReport_state (s := s.quiet) (b := 1) hb, hset.reported (reported_raise ..), hF⟩
  · refine ⟨fun h => ⟨?_, ?_⟩, fun h => ?_, fun h ht => ?_, fun h ht hm => ?_, fun h => ?_, fun h => ?_⟩
    · exact awake_idles (c := .mgmtLinkModeTimeout) rfl ha (mgmtLinkModeTimeout_of_rest (s := s.quiet) h)
    · exact awake_idles (c := .mgmtBlockLock m) rfl ha (mgmtBlockLock_of_rest (s := s.quiet) m h)
    · exact awake_idles (c := .mgmtBlockLock m) rfl ha (mgmtBlockLock_of_other_mode (s := s.quiet) h)
    · obtain ⟨t, hx, hp, hF⟩ := awake_setPlt (c := .mgmtLinkModeTimeout) rfl ha (mgmtLinkModeTimeout_tries (s := s.quiet) h ht)
      exact ⟨t, hx, by rw [hp]; exact otherMode_ne _, by rw [hp], hF⟩
    · exact awake_setPlt (c := .mgmtBlockLock m) rfl ha (mgmtBlockLock_tries (s := s.quiet) h ht hm)
    · exact awake_setPlt (c := .mgmtSignalLoss) rfl ha (if_pos h)
    · exact awake_idles (c := .mgmtSignalLoss) rfl ha (if_neg (by simp [State.quiet, h]))

end Sys2Proof.Machine

/-! PROOFS. In-service tests, the health record, reading and clearing counters, and the trace slots (R573, R575, R576, R579, R582 to R585, R594). -/

namespace Sys2Proof.Machine

/-! Counters other than the one counted. -/

section
variable {s : State} {off : Nat} (h : off ≠ ctrRas 5)
include h

theorem countLost_counter_other : s.countLost.counter off = s.counter off := by
  have hset : (s.setCounter (ctrRas 5) (s.counter (ctrRas 5) + 1)).counter off = s.counter off :=
    mget_mset_ne 0 s.ctr (Nat.succ_ne_zero _) h
  unfold State.countLost
  dsimp only
  split
  · rfl
  · split
    · exact (pushReport_counter ..).trans hset
    · exact hset

theorem raise_counter_other (r : Report) : (s.raise r).counter off = s.counter off := by
  unfold State.raise
  dsimp only
  split
  · rfl
  · exact countLost_counter_other h

theorem tally_counter_other {off' : Nat} (hn : off ≠ off') : (s.tally off').counter off = s.counter off := by
  by_cases hm : s.counter off' = ctrMax
  · rw [State.tally, bump_of_max hm]
  · have hpos : min ctrMax (s.counter off' + 1) ≠ 0 := by
      have : ctrMax ≠ 0 := by decide
      omega
    have hset : (s.setCounter off' (min ctrMax (s.counter off' + 1))).counter off = s.counter off := mget_mset_ne 0 s.ctr hpos hn
    unfold State.tally State.bump
    dsimp only
    rw [if_neg hm]
    split
    · exact (raise_counter_other h _).trans hset
    · exact hset

end

theorem tally_counter_same {s : State} {off : Nat} (h : s.counter off < ctrMax) : (s.tally off).counter off = s.counter off + 1 :=
  (bump_counter h 1).trans (Nat.min_eq_right (by omega))

/-! In-service tests (R573 to R575). -/

theorem isvHolds_of_slots {s t : State} (hs : t.ras.isvSlots = s.ras.isvSlots) (hc : t.ras.isvCell = s.ras.isvCell)
    (he : t.ras.isvEccSlot = s.ras.isvEccSlot) (hr : t.ras.isvRouterSlot = s.ras.isvRouterSlot) (u : BitVec 16) :
    t.isvHolds u = s.isvHolds u := by
  unfold State.isvHolds
  rw [hs, hc, he, hr]

/-- Counting leaves the test slots as they are. -/
theorem tally_isvHolds (s : State) (off : Nat) (u : BitVec 16) : (s.tally off).isvHolds u = s.isvHolds u := by
  obtain ⟨l, q, h⟩ := tally_ras s off
  exact isvHolds_of_slots (by rw [h]) (by rw [h]) (by rw [h]) (by rw [h]) u

theorem raise_isvHolds (s : State) (r : Report) (u : BitVec 16) : (s.raise r).isvHolds u = s.isvHolds u := by
  obtain ⟨l, q, h⟩ := raise_ras s r
  exact isvHolds_of_slots (by rw [h]) (by rw [h]) (by rw [h]) (by rw [h]) u

theorem any_filter_ne (l : List MemCh) (i : Nat) (f : MemCh → Bool) :
    (l.filter (fun c => c.val != i)).any (fun c => c.val == i && f c) = false := by
  rw [List.any_eq_false]
  intro c hc
  have hne : c.val ≠ i := by simpa using (List.mem_filter.1 hc).2
  simp [hne]

theorem isvEnd_isvHolds (s : State) (u : BitVec 16) : (s.isvEnd u).isvHolds u = false := by
  unfold State.isvHolds
  dsimp only
  split
  next h =>
    simp only [State.isvEnd, h]
    simp
  next h =>
    simp only [State.isvEnd, h]
    exact any_filter_ne _ _ (fun c => decide (c.val < 384))
  next h =>
    simp only [State.isvEnd, h]
    simp
  next h =>
    simp only [State.isvEnd, h]
    rfl
  · rfl

theorem isvEnd_adds (s : State) (u : BitVec 16) : Adds [.ras] s (s.isvEnd u) := adds_ras s _

theorem isvTested_adds (s : State) (u : BitVec 16) : Adds [.ras] s (s.isvTested u) := by
  unfold State.isvTested
  split
  · exact Adds.rfl _
  · extract_lets c done
    split
    · exact adds_ras s _
    · exact adds_ras s _

theorem isvTested_isvHolds (s : State) (u w : BitVec 16) : (s.isvTested u).isvHolds w = s.isvHolds w := by
  unfold State.isvTested
  split
  · rfl
  · extract_lets c done
    split
    · rfl
    · rfl

/-- Counting leaves the units that failed once as they are. -/
theorem tally_isvFirst (s : State) (off : Nat) : (s.tally off).ras.isvFirst = s.ras.isvFirst := by
  obtain ⟨l, q, h⟩ := tally_ras s off
  rw [h]

section
variable {s : State} {u : BitVec 16} {test : Nat}

theorem isvTestDone_of_no_slot (h : s.isvHolds u = false) (pass : Bool) : isvTestDone u test pass s = s := if_pos (by simp [h])

theorem isvTestDone_passed (h : s.isvHolds u = true) : isvTestDone u test true s = ((s.tally (ctrRas 6)).isvEnd u).isvTested u :=
  (if_neg (by simp [h])).trans (if_pos rfl)

/-- The device once a failure of unit u has been counted. -/
def State.isvCounted (s : State) : State := (s.tally (ctrRas 6)).tally (ctrRas 7)

/-- Unit u has failed once. -/
def State.isvFailedOnce (s : State) (u : BitVec 16) : State := { s with ras := { s.ras with isvFirst := s.ras.isvFirst ++ [u] } }

theorem isvCounted_isvFirst (s : State) : s.isvCounted.ras.isvFirst = s.ras.isvFirst := (tally_isvFirst ..).trans (tally_isvFirst ..)

theorem isvCounted_adds (s : State) : Adds [.ras, .ctr, .serial] s s.isvCounted := (tally_adds ..).trans (tally_adds ..)

theorem isvCounted_counter (hc : s.counter (ctrRas 7) < ctrMax) : s.isvCounted.counter (ctrRas 7) = s.counter (ctrRas 7) + 1 := by
  have h6 : (s.tally (ctrRas 6)).counter (ctrRas 7) = s.counter (ctrRas 7) := tally_counter_other (by decide) (by decide)
  rw [State.isvCounted, tally_counter_same (by rw [h6]; exact hc), h6]

theorem isvTestDone_failed (h : s.isvHolds u = true) (hu : u ∉ s.ras.isvFirst) :
    isvTestDone u test false s = s.isvCounted.isvFailedOnce u := by
  refine (if_neg (by simp [h])).trans ((if_neg (by simp)).trans (if_neg ?_))
  rw [show ((s.tally (ctrRas 6)).tally (ctrRas 7)).ras.isvFirst = s.ras.isvFirst from isvCounted_isvFirst s]
  simpa using hu

theorem isvTestDone_failed_twice (h : s.isvHolds u = true) (hu : u ∈ s.ras.isvFirst) :
    isvTestDone u test false s = ((s.isvCounted.isvEnd u).raise (mkReport 0x0D 0x03 1 u test 0)).isvFault u := by
  refine (if_neg (by simp [h])).trans ((if_neg (by simp)).trans (if_pos ?_))
  rw [show ((s.tally (ctrRas 6)).tally (ctrRas 7)).ras.isvFirst = s.ras.isvFirst from isvCounted_isvFirst s]
  simpa using hu

end

/-! The health record (R576). -/

theorem toNat_byteOf {w : Nat} (v : BitVec w) (i : Nat) : (byteOf v i).toNat = v.toNat / 2 ^ (8 * i) % 256 := by
  simp [byteOf, BitVec.extractLsb'_toNat, Nat.shiftRight_eq_div_pow]

theorem leNat_bytesOf_word (v : W64) : leNat (bytesOf v 8) = v.toNat := by
  have hv := v.isLt
  have hb : bytesOf v 8 = [byteOf v 0, byteOf v 1, byteOf v 2, byteOf v 3, byteOf v 4, byteOf v 5, byteOf v 6, byteOf v 7] := rfl
  simp only [hb, leNat, toNat_byteOf]
  omega

theorem fieldAt_append {a b c : List Byte} {off n : Nat} (ha : a.length = off) (hb : b.length = n) : fieldAt (a ++ b ++ c) off n = leNat b := by
  subst ha hb
  simp [fieldAt]

theorem phase_code_lt (p : Phase) : p.code < 256 := by cases p <;> decide

theorem healthRecord_head (s : State) : ∃ rest, s.healthRecord = 0x01#8 :: BitVec.ofNat 8 s.plt.phase.code :: rest := ⟨_, rfl⟩

theorem healthRecord_tick (s : State) : ∃ a, a.length = 56 ∧ s.healthRecord = a ++ bytesOf s.tide.count 8 ++ List.replicate 64 0#8 :=
  ⟨_, by simp [length_natBytes, length_bytesOf], rfl⟩

theorem healthRecord_length (s : State) : s.healthRecord.length = 128 := by
  obtain ⟨a, ha, h⟩ := healthRecord_tick s
  rw [h, List.length_append, List.length_append, ha, length_bytesOf, List.length_replicate]

theorem healthRecord_fields (s : State) : fieldAt s.healthRecord 0 1 = 1 ∧ fieldAt s.healthRecord 1 1 = s.plt.phase.code ∧
    fieldAt s.healthRecord 56 8 = s.tide.count.toNat := by
  obtain ⟨a, ha, ht⟩ := healthRecord_tick s
  obtain ⟨rest, hr⟩ := healthRecord_head s
  refine ⟨by rw [hr]; rfl, ?_, ?_⟩
  · rw [hr]
    exact Nat.mod_eq_of_lt (phase_code_lt s.plt.phase)
  · rw [ht, fieldAt_append ha (length_bytesOf ..), leNat_bytesOf_word]

/-- A meaning of an awake device that is to answer a management command. -/
theorem awake_answer {i : Instr} {s : State} {f : State → State} {code : BitVec 8} {result : Nat} {bytes : List Byte}
    (hi : exec i s = .next (s.quiet.whenAwake f)) (ha : s.awake = true) (hf : f s.quiet = s.quiet.reply code result bytes) :
    ∃ t, exec i s = .next t ∧ answered t code result bytes ∧ Frame [.sec, .links] s t := by
  obtain ⟨hx, hF⟩ := awake_next hi ha hf ((reply_frame ..).mono (qs := [.sec, .links]) (by simp)) (by simp)
  exact ⟨_, hx, reply_answered .., hF⟩

/-! Counters (R579). -/

/-- The offsets that a read of n counters from off on names. -/
def counterOffs (off : W32) (n : BitVec 16) : List Nat := (List.range n.toNat).map (fun i => off.toNat + 8 * i)

/-- The counters named are cleared. -/
def State.countersCleared (s : State) (offs : List Nat) : State := { s with ctr := s.ctr.filter (fun e => !offs.contains e.1) }

theorem countersCleared_adds (s : State) (offs : List Nat) : Adds [.ctr] s (s.countersCleared offs) :=
  adds_of_same rfl rfl (fun p => by cases p <;> simp [Part.same, State.countersCleared])

theorem countersCleared_counter_of_mem (s : State) {offs : List Nat} {o : Nat} (h : o ∈ offs) : (s.countersCleared offs).counter o = 0 := by
  rw [State.counter, mget, State.countersCleared, tget_filter_false s.ctr (fun k => !offs.contains k) (by simpa using h)]
  rfl

theorem countersCleared_counter_other {s : State} (hk : keysRise s.ctr = true) {offs : List Nat} {o : Nat} (h : o ∉ offs) :
    (s.countersCleared offs).counter o = s.counter o := by
  rw [State.counter, mget, State.countersCleared, tget_filter_true hk (fun k => !offs.contains k) (by simpa using h)]
  rfl

theorem cntReadClear_of_bad {off : W32} {n : BitVec 16} {s : State}
    (h : ¬ (1 ≤ n.toNat ∧ n.toNat ≤ 64 ∧ ∀ o, o ∈ counterOffs off n → ctrName o ≠ none)) : cntReadClear off n s = s.reply 0x40#8 7 [] := by
  unfold cntReadClear
  dsimp only
  split
  · rfl
  next hn =>
    refine if_pos ?_
    rw [List.any_eq_true]
    by_contra hc
    exact h ⟨by omega, by omega, fun o ho hnone => hc ⟨o, ho, by simp [hnone]⟩⟩

theorem cntReadClear_of_good {off : W32} {n : BitVec 16} {s : State} (h1 : 1 ≤ n.toNat) (h2 : n.toNat ≤ 64)
    (h : ∀ o, o ∈ counterOffs off n → ctrName o ≠ none) : cntReadClear off n s =
      (s.countersCleared (counterOffs off n)).reply 0x40#8 0 ((counterOffs off n).flatMap (fun o => bytesOf (ctrValue (s.counter o)) 8)) := by
  refine (if_neg (by omega)).trans (if_neg ?_)
  rw [List.any_eq_true]
  rintro ⟨o, ho, hnone⟩
  exact h o ho (Option.isNone_iff_eq_none.1 hnone)

/-! Trace slots (R582 to R585, R594). -/

@[simp] theorem setTrace_trace_same (s : State) (k : Nat) (x : TraceSlot) : (s.setTrace k x).trace k = x := mget_mset_same ..

theorem setTrace_adds (s : State) (k : Nat) (x : TraceSlot) : Adds [.dbg] s (s.setTrace k x) :=
  adds_of_same rfl rfl (fun p => by cases p <;> simp [Part.same, State.setTrace])

theorem setTrace_trace_other {s : State} (h : keysRise s.dbg.traces = true) {k i : Nat} (x : TraceSlot) (hi : i ≠ k) :
    (s.setTrace k x).trace i = s.trace i := mget_mset_other _ h x hi

theorem setTrace_keysRise {s : State} (h : keysRise s.dbg.traces = true) (k : Nat) (x : TraceSlot) :
    keysRise (s.setTrace k x).dbg.traces = true := keysRise_mset _ h k x

theorem trace_of_dbg {s t : State} (h : t.dbg = s.dbg) (k : Nat) : t.trace k = s.trace k :=
  congrArg (fun d : Dbg => mget TraceSlot.reset d.traces k) h

/-- A command of a live device that sets a trace slot does that, and nothing else. -/
theorem live_setTrace {c : Instr} {s : State} {f : State → State} {k : Nat} {x : TraceSlot} (hc : exec c s = .next (s.quiet.whenLive f))
    (hl : s.live = true) (hf : f s.quiet = s.quiet.setTrace k x) : ∃ t, exec c s = .next t ∧ t.trace k = x ∧ Frame [.dbg] s t := by
  have hd : (f s.quiet).dbg.fatal = false := by rw [hf]; exact live_not_fatal hl
  have hx : exec c s = .next (s.quiet.settle (s.quiet.setTrace k x)) := by rw [live_next hc hl rfl, hf]
  refine ⟨_, hx, (trace_of_dbg (settle_dbg ..) k).trans (setTrace_trace_same ..), ?_⟩
  exact (Frame.quiet s).trans ⟨rfl, settle_sameBut (by rw [← hf]; exact hd) (setTrace_adds ..).1.2⟩

/-- A path may write the control register of a slot so that it names queue pair q. -/
def State.traceMay (s : State) (via : RegPath) (x : TraceSlot) (q : Qp) : Prop :=
  s.tracePath via q = true ∧ (x.enable = true → s.qp x.qp ≠ none → s.tracePath via x.qp = true)

/-- The queue pair that a write of a control register names. -/
def traceQp (v : W32) : Qp := ⟨(v.extractLsb' 16 12).toNat, (v.extractLsb' 16 12).isLt⟩

/-- A slot after a write of its control register. -/
def TraceSlot.controlled (x : TraceSlot) (v : W32) : TraceSlot :=
  let y := { x with
    enable := v.getLsbD 0, interval := if 8 < (v.extractLsb' 1 4).toNat then x.interval else v.extractLsb' 1 4, qp := traceQp v }
  if traceQp v = x.qp then y else { y with staged := [], dropped := 0 }

theorem writeTraceCtrl_eq (s : State) (via : RegPath) (k : Nat) (v : W32) : s.writeTraceCtrl via k v =
    if !s.tracePath via (traceQp v) || ((s.trace k).enable && !(s.qp (s.trace k).qp).isNone && !s.tracePath via (s.trace k).qp) then s
    else s.setTrace k ((s.trace k).controlled v) := rfl

theorem traceMay_iff {s : State} {via : RegPath} {x : TraceSlot} {q : Qp} :
    (!s.tracePath via q || (x.enable && !(s.qp x.qp).isNone && !s.tracePath via x.qp)) = false ↔ s.traceMay via x q := by
  rw [State.traceMay, Bool.or_eq_false_iff, Bool.not_eq_false']
  simp [Option.isSome_iff_ne_none]

theorem writeTraceCtrl_of_may {s : State} {via : RegPath} {k : Nat} {v : W32} (h : s.traceMay via (s.trace k) (traceQp v)) :
    s.writeTraceCtrl via k v = s.setTrace k ((s.trace k).controlled v) := by
  rw [writeTraceCtrl_eq, traceMay_iff.2 h]
  rfl

theorem writeTraceCtrl_of_may_not {s : State} {via : RegPath} {k : Nat} {v : W32} (h : ¬ s.traceMay via (s.trace k) (traceQp v)) :
    s.writeTraceCtrl via k v = s := by
  rw [writeTraceCtrl_eq, eq_true_of_ne_false (fun e => h (traceMay_iff.1 e))]
  rfl

theorem controlled_spec (x : TraceSlot) (v : W32) : (x.controlled v).enable = v.getLsbD 0 ∧ (x.controlled v).qp = traceQp v ∧
    ((v.extractLsb' 1 4).toNat ≤ 8 → (x.controlled v).interval = v.extractLsb' 1 4) ∧
    (8 < (v.extractLsb' 1 4).toNat → (x.controlled v).interval = x.interval) ∧
    (traceQp v = x.qp → (x.controlled v).staged = x.staged) ∧ (traceQp v ≠ x.qp → (x.controlled v).staged = []) := by
  unfold TraceSlot.controlled
  dsimp only
  by_cases h : traceQp v = x.qp
  · rw [if_pos h]
    exact ⟨rfl, rfl, fun hi => if_neg (by omega), fun hi => if_pos hi, fun _ => rfl, fun hn => absurd h hn⟩
  · rw [if_neg h]
    exact ⟨rfl, rfl, fun hi => if_neg (by omega), fun hi => if_pos hi, fun he => absurd he h, fun _ => rfl⟩

/-! Samples. -/

/-- A slot once a sample e of cell c, in a run on queue pair q, has come. -/
def TraceSlot.sampled (x : TraceSlot) (q : Qp) (c : CellId) (e : TraceRec) : TraceSlot :=
  if x.enable && x.qp == q then
    if 64 ≤ (x.staged.filter (fun y => y.1 == c)).length ∨ x.full then { x with dropped := x.dropped + 1 }
    else { x with staged := x.staged ++ [(c, e)] }
  else x

/-- A sample comes to a slot. -/
def State.sampleSlot (q : Qp) (c : CellId) (e : TraceRec) (s : State) (k : Nat) : State :=
  if (s.trace k).enable && (s.trace k).qp == q then s.stageSample k c e else s

section
variable {q : Qp} {c : CellId} {e : TraceRec} {s : State} {k : Nat}

/-- A sample leaves a slot that does not trace the queue pair as it is, and otherwise sets it, a dropped one being counted. -/
theorem sampleSlot_cases (q : Qp) (c : CellId) (e : TraceRec) (s : State) (k : Nat) :
    (s.sampleSlot q c e k = s ∧ (s.trace k).sampled q c e = s.trace k) ∨
      Adds [.ras, .ctr, .serial] (s.setTrace k ((s.trace k).sampled q c e)) (s.sampleSlot q c e k) := by
  unfold State.sampleSlot TraceSlot.sampled
  split
  · refine .inr ?_
    unfold State.stageSample
    dsimp only
    split
    · exact tally_adds ..
    · exact Adds.rfl _
  · exact .inl ⟨rfl, rfl⟩

theorem sampleSlot_trace_same (q : Qp) (c : CellId) (e : TraceRec) (s : State) (k : Nat) :
    (s.sampleSlot q c e k).trace k = (s.trace k).sampled q c e := by
  rcases sampleSlot_cases q c e s k with ⟨h, hx⟩ | h
  · rw [h, hx]
  · rw [trace_of_dbg (h.same .dbg (by decide)), setTrace_trace_same]

theorem sampleSlot_trace_other (h : keysRise s.dbg.traces = true) {i : Nat} (hi : i ≠ k) : (s.sampleSlot q c e k).trace i = s.trace i := by
  rcases sampleSlot_cases q c e s k with ⟨hs, -⟩ | ha
  · rw [hs]
  · rw [trace_of_dbg (ha.same .dbg (by decide)), setTrace_trace_other h _ hi]

theorem sampleSlot_keysRise (h : keysRise s.dbg.traces = true) : keysRise (s.sampleSlot q c e k).dbg.traces = true := by
  rcases sampleSlot_cases q c e s k with ⟨hs, -⟩ | ha
  · rw [hs]
    exact h
  · have hd : (s.sampleSlot q c e k).dbg = (s.setTrace k ((s.trace k).sampled q c e)).dbg := ha.same .dbg (by decide)
    rw [hd]
    exact setTrace_keysRise h ..

theorem sampleSlot_fatal (q : Qp) (c : CellId) (e : TraceRec) (s : State) (k : Nat) : (s.sampleSlot q c e k).dbg.fatal = s.dbg.fatal := by
  rcases sampleSlot_cases q c e s k with ⟨hs, -⟩ | ha
  · rw [hs]
  · exact (congrArg Dbg.fatal (ha.same .dbg (by decide))).trans rfl

theorem sampleSlot_adds (q : Qp) (c : CellId) (e : TraceRec) (s : State) (k : Nat) :
    Adds [.dbg, .ctr, .ras, .serial] s (s.sampleSlot q c e k) := by
  rcases sampleSlot_cases q c e s k with ⟨hs, -⟩ | ha
  · rw [hs]
    exact Adds.rfl _
  · exact ((setTrace_adds ..).mono (by simp)).trans (ha.mono (by simp))

/-- A sample comes to each of the slots ks. -/
def State.sampleSlots (q : Qp) (c : CellId) (e : TraceRec) (s : State) (ks : List Nat) : State := ks.foldl (State.sampleSlot q c e) s

theorem sampleSlots_adds (ks : List Nat) (s : State) : Adds [.dbg, .ctr, .ras, .serial] s (s.sampleSlots q c e ks) :=
  Adds.foldl (sampleSlot_adds q c e) ks s

theorem sampleSlots_fatal (ks : List Nat) (s : State) : (s.sampleSlots q c e ks).dbg.fatal = s.dbg.fatal := by
  induction ks generalizing s with
  | nil => rfl
  | cons k ks ih => exact (ih (s.sampleSlot q c e k)).trans (sampleSlot_fatal ..)

theorem sampleSlots_trace_other {ks : List Nat} {i : Nat} (hi : i ∉ ks) (h : keysRise s.dbg.traces = true) :
    (s.sampleSlots q c e ks).trace i = s.trace i := by
  induction ks generalizing s with
  | nil => rfl
  | cons k ks ih =>
    obtain ⟨hik, hi⟩ := not_or.1 (fun h => hi (List.mem_cons.2 h))
    exact (ih hi (sampleSlot_keysRise h)).trans (sampleSlot_trace_other h hik)

theorem sampleSlots_trace {ks : List Nat} (hn : ks.Nodup) {i : Nat} (hi : i ∈ ks) (h : keysRise s.dbg.traces = true) :
    (s.sampleSlots q c e ks).trace i = (s.trace i).sampled q c e := by
  induction ks generalizing s with
  | nil => exact absurd hi List.not_mem_nil
  | cons k ks ih =>
    obtain ⟨hk, hn⟩ := List.nodup_cons.1 hn
    have hr := sampleSlot_keysRise (q := q) (c := c) (e := e) (k := k) h
    rcases List.mem_cons.1 hi with rfl | hi
    · exact (sampleSlots_trace_other hk hr).trans (sampleSlot_trace_same ..)
    · refine (ih hn hi hr).trans ?_
      rw [sampleSlot_trace_other h (ne_of_mem_of_not_mem hi hk)]

end

/-- The record of a sample. -/
def State.sampleRec (s : State) (c : CellId) (r : Run) (lc : Nat) (clock : BitVec 16) (stall : BitVec 8) : TraceRec :=
  { tick := s.tide.count.extractLsb' 0 32, clock := clock, cell := BitVec.ofNat 16 (lc % 1024), loss := false,
    figure := match (s.cell c).tile with
      | some t => BitVec.ofNat 8 t.fig
      | none => 0xFF#8
    stall := stall,
    step := BitVec.ofNat 32 (match (s.cell c).tile with
      | some t => t.step
      | none => (tget r.lcs lc).elim 0 (fun l => l.step)) }

section
variable {s : State} {c : CellId} {clock : BitVec 16} {stall : BitVec 8}

theorem traceSample_of_idle (h : (s.cell c).occupant = none) : traceSample c clock stall s = s := by
  simp only [traceSample, h]

theorem traceSample_of_run {n lc : Nat} {o : OpRec} {r : Run} (h : (s.cell c).occupant = some (n, lc)) (ho : s.op n = some o)
    (hr : s.run n = some r) :
    traceSample c clock stall s = s.sampleSlots o.qp c (s.sampleRec c r lc clock stall) (List.range 16) := by
  simp only [traceSample, h, ho, hr]
  rfl

end

/-! Records written (R583, R585). -/

theorem traceNext_none {s : State} {k : Nat} (h : (s.trace k).dropped = 0) (hs : (s.trace k).staged = []) : s.traceNext k = none := by
  simp only [State.traceNext, h, hs, if_true]

theorem traceNext_dropped {s s1 : State} {k : Nat} {r : TraceRec} {y : TraceSlot} (h : s.traceNext k = some (r, y, s1)) : y.dropped = 0 := by
  unfold State.traceNext at h
  dsimp only at h
  split at h
  next hd =>
    split at h
    · exact absurd h (by simp)
    · cases h
      exact hd
  · cases h
    rfl

/-- Where a slot's next record goes. -/
def TraceSlot.place (x : TraceSlot) : W64 := (x.addr.setWidth 64 <<< 12) + BitVec.ofNat 64 (16 * (x.next % x.size))

/-- A slot once its record has been written. -/
def TraceSlot.advanced (x y : TraceSlot) : TraceSlot :=
  { y with next := (x.next % x.size + 1) % x.size, phase := x.phase != decide (x.next % x.size + 1 = x.size) }

section
variable {s : State} {slot : Fin 16}

theorem traceWrite_of_rest (h : s.qp (s.trace slot.val).qp = none ∨ (s.trace slot.val).enable = false ∨ (s.trace slot.val).full = true ∨
    ((s.trace slot.val).dropped = 0 ∧ (s.trace slot.val).staged = [])) : traceWrite slot s = s := by
  unfold traceWrite
  dsimp only
  split
  · rfl
  next q hq =>
    rcases h with h | h | h | ⟨hd, hs⟩
    · rw [h] at hq
      cases hq
    · exact if_pos (by simp [h])
    · exact if_pos (by simp [h])
    · rw [traceNext_none hd hs]
      split <;> rfl

variable {q : QPair} {r : TraceRec} {y : TraceSlot} {s1 : State} (hq : s.qp (s.trace slot.val).qp = some q)
  (he : (s.trace slot.val).enable = true) (hf : (s.trace slot.val).full = false) (hn : s.traceNext slot.val = some (r, y, s1))
include hq he hf hn

theorem traceWrite_of_busy (hb : s.poolBusy (accWrite q.cfg.ep (s.authOf q)) (s.trace slot.val).place 16 = true) : traceWrite slot s = s := by
  unfold TraceSlot.place at hb
  simp only [traceWrite, hq, he, hf, hn, hb, Bool.not_true, Bool.or_false, Bool.false_eq_true, if_false, if_true]

variable (hb : s.poolBusy (accWrite q.cfg.ep (s.authOf q)) (s.trace slot.val).place 16 = false)
include hb

theorem traceWrite_refused {st : Status} {s2 : State} (hw : s1.writePool (accWrite q.cfg.ep (s.authOf q)) q.cfg.tenant
    (s.trace slot.val).place (traceBytes r (s.trace slot.val).phase) [] noIo = (.error st, s2)) :
    traceWrite slot s = (s2.setTrace slot.val { s.trace slot.val with enable := false }).raise
      (mkReport 0x0D 0x05 0 unitChip slot.val st.toNat) := by
  unfold TraceSlot.place at hb hw
  simp only [traceWrite, hq, he, hf, hn, hb, hw, Bool.not_true, Bool.or_false, Bool.false_eq_true, if_false]

theorem traceWrite_written {s2 : State} (hw : s1.writePool (accWrite q.cfg.ep (s.authOf q)) q.cfg.tenant
    (s.trace slot.val).place (traceBytes r (s.trace slot.val).phase) [] noIo = (.ok (), s2)) :
    traceWrite slot s = (s2.setTrace slot.val ((s.trace slot.val).advanced y)).tally (ctrDbg 0 slot.val) := by
  unfold TraceSlot.place at hb hw
  simp only [traceWrite, hq, he, hf, hn, hb, hw, Bool.not_true, Bool.or_false, Bool.false_eq_true, if_false]
  rfl

end

/-! The clauses. -/

section
variable {s : State} (hl : s.live = true)
include hl

theorem isvTestDone_next (u : BitVec 16) (test : Nat) (h : s.isvHolds u = true) :
    (∃ t, exec (.isvTestDone u test true) s = .next t ∧ t.isvHolds u = false ∧
      (s.counter (ctrRas 6) < ctrMax → t.counter (ctrRas 6) = s.counter (ctrRas 6) + 1) ∧ Frame [.ras, .ctr, .serial] s t) ∧
    (u ∉ s.ras.isvFirst → ∃ t, exec (.isvTestDone u test false) s = .next t ∧ t.isvHolds u = true ∧
      u ∈ t.ras.isvFirst ∧ (s.counter (ctrRas 7) < ctrMax → t.counter (ctrRas 7) = s.counter (ctrRas 7) + 1) ∧
      Frame [.ras, .ctr, .serial] s t) ∧
    (u ∈ s.ras.isvFirst → ∃ t v, exec (.isvTestDone u test false) s = .next t ∧ v.isvHolds u = false ∧
      reported v 0x0D 0x03 1 u ∧ Frame [.ras, .ctr, .serial] s v ∧ t = s.quiet.settle (v.isvFault u)) := by
  refine ⟨?_, fun hu => ?_, fun hu => ?_⟩
  · have hend := (isvEnd_adds (s.quiet.tally (ctrRas 6)) u).trans (isvTested_adds _ u)
    obtain ⟨hx, hF⟩ := live_next_frame (i := .isvTestDone u test true) rfl hl (isvTestDone_passed (s := s.quiet) (test := test) h)
      ((tally_adds s.quiet (ctrRas 6)).trans (hend.mono (by simp))).1 (by decide)
    refine ⟨_, hx, (isvTested_isvHolds ..).trans (isvEnd_isvHolds ..), fun hc => ?_, hF⟩
    exact (counter_of_ctr (hend.same .ctr (by decide)) _).trans (tally_counter_same (s := s.quiet) hc)
  · have honce : Adds [.ras] s.quiet.isvCounted (s.quiet.isvCounted.isvFailedOnce u) := adds_ras _ _
    obtain ⟨hx, hF⟩ := live_next_frame (i := .isvTestDone u test false) rfl hl (isvTestDone_failed (s := s.quiet) (test := test) h hu)
      ((isvCounted_adds s.quiet).trans (honce.mono (by simp))).1 (by decide)
    refine ⟨_, hx, ?_, List.mem_append_right _ (List.mem_singleton.2 rfl), fun hc => ?_, hF⟩
    · exact ((isvHolds_of_slots (s := s.quiet.isvCounted) rfl rfl rfl rfl u).trans
        ((tally_isvHolds ..).trans (tally_isvHolds ..))).trans h
    · exact (counter_of_ctr (honce.same .ctr (by decide)) _).trans (isvCounted_counter (s := s.quiet) hc)
  · refine ⟨_, _, live_next (i := .isvTestDone u test false) rfl hl (isvTestDone_failed_twice (s := s.quiet) h hu),
      (raise_isvHolds ..).trans (isvEnd_isvHolds ..), reported_raise .., ?_, rfl⟩
    exact (Frame.quiet s).trans ((isvCounted_adds s.quiet).trans
      (((isvEnd_adds ..).mono (by simp)).trans ((raise_adds ..).mono (by simp)))).1

theorem cntReadClear_next {off : W32} {n : BitVec 16} (h1 : 1 ≤ n.toNat) (h2 : n.toNat ≤ 64)
    (h : ∀ o, o ∈ counterOffs off n → ctrName o ≠ none) :
    ∃ t, exec (.cntReadClear off n) s = .next t ∧
      answered t 0x40#8 0 ((counterOffs off n).flatMap (fun o => bytesOf (ctrValue (s.counter o)) 8)) ∧
      (∀ o, o ∈ counterOffs off n → t.counter o = 0) ∧
      (keysRise s.ctr = true → ∀ o, o ∉ counterOffs off n → t.counter o = s.counter o) ∧ Frame [.sec, .ctr] s t := by
  have hr := reply_adds (s.quiet.countersCleared (counterOffs off n)) 0x40#8 0
    ((counterOffs off n).flatMap (fun o => bytesOf (ctrValue (s.quiet.counter o)) 8))
  obtain ⟨hx, hF⟩ := live_next_frame (i := .cntReadClear off n) (ps := [.sec, .ctr]) rfl hl
    (cntReadClear_of_good (s := s.quiet) h1 h2 h) (((countersCleared_adds ..).mono (by simp)).trans (hr.mono (by simp))).1 (by decide)
  have hc := counter_of_ctr (hr.same .ctr (by decide))
  exact ⟨_, hx, reply_answered .., fun o ho => (hc o).trans (countersCleared_counter_of_mem _ ho),
    fun hk o ho => (hc o).trans (countersCleared_counter_other (s := s.quiet) hk ho), hF⟩

theorem traceSample_next {c : CellId} {clock : BitVec 16} {stall : BitVec 8} {n lc : Nat} {o : OpRec} {r : Run}
    (h : (s.cell c).occupant = some (n, lc)) (ho : s.op n = some o) (hr : s.run n = some r) (hk : keysRise s.dbg.traces = true) :
    ∃ t, exec (.traceSample c clock stall) s = .next t ∧
      (∀ k, k < 16 → t.trace k = (s.trace k).sampled o.qp c (s.sampleRec c r lc clock stall)) ∧ Frame [.dbg, .ctr, .ras, .serial] s t := by
  have hf : traceSample c clock stall s.quiet = s.quiet.sampleSlots o.qp c (s.sampleRec c r lc clock stall) (List.range 16) :=
    traceSample_of_run (s := s.quiet) h ho hr
  generalize s.sampleRec c r lc clock stall = e at hf ⊢
  have hd := (sampleSlots_fatal (q := o.qp) (c := c) (e := e) (List.range 16) s.quiet).trans (live_not_fatal hl)
  have hF := (sampleSlots_adds (q := o.qp) (c := c) (e := e) (List.range 16) s.quiet).1
  have ht := fun k (hk16 : k < 16) => sampleSlots_trace (q := o.qp) (c := c) (e := e) (s := s.quiet) List.nodup_range
    (List.mem_range.2 hk16) hk
  generalize s.quiet.sampleSlots o.qp c e (List.range 16) = u at hf hd hF ht
  exact ⟨_, live_next (i := .traceSample c clock stall) rfl hl hf, ht, (Frame.quiet s).trans ⟨rfl, settle_sameBut hd hF.2⟩⟩

theorem traceWrite_next {slot : Fin 16} {q : QPair} {r : TraceRec} {y : TraceSlot} {s1 s2 : State}
    (hq : s.qp (s.trace slot.val).qp = some q) (he : (s.trace slot.val).enable = true) (hf : (s.trace slot.val).full = false)
    (hn : s.quiet.traceNext slot.val = some (r, y, s1)) :
    let x := s.trace slot.val
    let acc := accWrite q.cfg.ep (s.authOf q)
    (s.poolBusy acc x.place 16 = true → idles (.traceWrite slot) s) ∧
    (∀ st, s.poolBusy acc x.place 16 = false →
      s1.writePool acc q.cfg.tenant x.place (traceBytes r x.phase) [] noIo = (.error st, s2) →
      ∃ t, exec (.traceWrite slot) s = .next t ∧ (t.trace slot.val).enable = false ∧ reported t 0x0D 0x05 0 unitChip ∧
        SameBut [.dbg, .ctr, .ras, .serial, .links] s2 t) ∧
    (s.poolBusy acc x.place 16 = false → s1.writePool acc q.cfg.tenant x.place (traceBytes r x.phase) [] noIo = (.ok (), s2) →
      ∃ t, exec (.traceWrite slot) s = .next t ∧ t.trace slot.val = x.advanced y ∧
        SameBut [.dbg, .ctr, .ras, .serial, .links] s2 t) := by
  dsimp only
  refine ⟨fun hb => ?_, fun st hb hw => ?_, fun hb hw => ?_⟩
  · exact live_idles (c := .traceWrite slot) rfl hl (traceWrite_of_busy (s := s.quiet) hq he hf hn hb)
  · have hr := raise_adds (s2.setTrace slot.val { s.quiet.trace slot.val with enable := false }) (mkReport 0x0D 0x05 0 unitChip slot.val st.toNat)
    refine ⟨_, live_next (i := .traceWrite slot) rfl hl (traceWrite_refused (s := s.quiet) hq he hf hn hb hw), ?_, reported_raise .., ?_⟩
    · exact congrArg TraceSlot.enable ((trace_of_dbg (hr.same .dbg (by decide)) _).trans (setTrace_trace_same ..))
    · exact settle_sameBut_of (((setTrace_adds ..).mono (by simp)).trans (hr.mono (by simp))).1.2 (by simp)
  · have hr := tally_adds (s2.setTrace slot.val ((s.quiet.trace slot.val).advanced y)) (ctrDbg 0 slot.val)
    refine ⟨_, live_next (i := .traceWrite slot) rfl hl (traceWrite_written (s := s.quiet) hq he hf hn hb hw), ?_, ?_⟩
    · exact (trace_of_dbg (hr.same .dbg (by decide)) _).trans (setTrace_trace_same ..)
    · exact settle_sameBut_of (((setTrace_adds ..).mono (by simp)).trans (hr.mono (by simp))).1.2 (by simp)

end

/-- What a sample leaves of a slot, by its case. -/
theorem sampled_spec (x : TraceSlot) (q : Qp) (c : CellId) (e : TraceRec) :
    (x.enable = false ∨ x.qp ≠ q → x.sampled q c e = x) ∧
    (x.enable = true → x.qp = q → (x.staged.filter (fun y => y.1 == c)).length < 64 → x.full = false →
      x.sampled q c e = { x with staged := x.staged ++ [(c, e)] }) ∧
    (x.enable = true → x.qp = q → 64 ≤ (x.staged.filter (fun y => y.1 == c)).length ∨ x.full = true →
      x.sampled q c e = { x with dropped := x.dropped + 1 }) := by
  refine ⟨fun h => if_neg ?_, fun he hq h64 hf => ?_, fun he hq h => ?_⟩
  · rcases h with h | h <;> simp [h]
  · exact (if_pos (by simp [he, hq])).trans (if_neg (by simp [hf]; omega))
  · exact (if_pos (by simp [he, hq])).trans (if_pos h)

/-- Settles O59: a test is one equation per outcome, CNT_READ_CLEAR a filter of the counters, a sample `TraceSlot.sampled` in each slot, and a
record's write one write of the pool. -/
theorem testsCountersAndTraces : Obligations.TestsCountersAndTraces := by
  unfold Obligations.TestsCountersAndTraces
  refine ⟨fun u test pass s hl => ⟨fun h => ?_, fun h hp => ?_, fun h hp hu => ?_, fun h hp hu => ?_⟩, fun s ha => ?_,
    fun off n s hl => ⟨fun h => ?_, fun ⟨h1, h2, h⟩ => cntReadClear_next hl h1 h2 h⟩, fun via k v s hl => ⟨fun h => ?_, fun h => ?_, fun h => ?_⟩,
    fun via k v s hl => ⟨fun h => ?_, fun h => ?_⟩, fun c clock stall s hl => ⟨fun h => ?_, fun n lc o r h ho hr hk => ?_⟩,
    fun k s hl => ⟨fun h => ?_, fun q r y s1 s2 hq he hf hn => ?_⟩⟩
  · exact live_idles (c := .isvTestDone u test pass) rfl hl (isvTestDone_of_no_slot (s := s.quiet) h pass)
  · subst hp
    exact (isvTestDone_next hl u test h).1
  · subst hp
    exact (isvTestDone_next hl u test h).2.1 hu
  · subst hp
    exact (isvTestDone_next hl u test h).2.2 hu
  · obtain ⟨t, hx, hans, hF⟩ := awake_answer (i := .healthRead) (f := healthRead) rfl ha rfl
    obtain ⟨h0, h1, h56⟩ := healthRecord_fields s
    exact ⟨t, _, hx, hans, rfl, healthRecord_length s, h0, h1, h56, hF⟩
  · exact live_reply (i := .cntReadClear off n) rfl hl (cntReadClear_of_bad (s := s.quiet) h)
  · exact live_idles (c := .traceCtrlWrite via k v) rfl hl (writeTraceCtrl_of_may_not (s := s.quiet) h)
  · obtain ⟨t, hx, ht, hF⟩ := live_setTrace (c := .traceCtrlWrite via k v) rfl hl (writeTraceCtrl_of_may (s := s.quiet) h)
    obtain ⟨he, hq, hi, hi', hs, hs'⟩ := controlled_spec (s.trace k.val) v
    refine ⟨t, hx, ?_⟩
    rw [ht]
    exact ⟨he, hq, hi, hi', hs, hs', hF⟩
  · subst h
    exact ⟨rfl, fun _ _ => rfl⟩
  · exact live_idles (c := .traceHeadWrite via k v) rfl hl (if_neg (ne_true_of_eq_false h))
  · exact live_setTrace (c := .traceHeadWrite via k v) rfl hl (if_pos h)
  · exact live_idles (c := .traceSample c clock stall) rfl hl (traceSample_of_idle (s := s.quiet) h)
  · obtain ⟨t, hx, ht, hF⟩ := traceSample_next (clock := clock) (stall := stall) hl h ho hr hk
    refine ⟨t, s.sampleRec c r lc clock stall, hx, rfl, rfl, rfl, rfl, rfl, fun k hk16 => ?_, hF⟩
    dsimp only
    rw [ht k hk16]
    exact sampled_spec ..
  · exact live_idles (c := .traceWrite k) rfl hl (traceWrite_of_rest (s := s.quiet) h)
  · obtain ⟨hbusy, hbad, hok⟩ := traceWrite_next (s2 := s2) hl hq he hf hn
    refine ⟨hbusy, hbad, fun w hb hw => ?_⟩
    obtain ⟨t, hx, ht, hF⟩ := hok hb hw
    refine ⟨t, hx, ?_⟩
    rw [ht]
    exact ⟨rfl, (traceNext_dropped hn : y.dropped = 0), rfl, rfl, hF⟩

end Sys2Proof.Machine

/-! PROOFS. Reading the dump, registers over the management port and the windows, and the JTAG instructions (R579, R586 to R589, R591, R611 to
R613, R616). -/

namespace Sys2Proof.Machine

/-! The dump (R591). -/

section
variable {off len : W32} {s : State}

theorem dumpRead_of_none (h : ¬ s.dbg.dumpState ∉ [DumpState.none, .writing, .failed]) : dumpRead off len s = s.reply 0x42#8 3 [] :=
  if_pos (by simpa using not_not.1 h)

theorem dumpRead_of_range (h : s.dbg.dumpState ∉ [DumpState.none, .writing, .failed]) :
    dumpRead off len s = if len.toNat = 0 ∨ len.toNat % 64 ≠ 0 ∨ 2 ^ 20 < len.toNat ∨ s.dbg.dumpBytes < off.toNat + len.toNat then
      s.reply 0x42#8 7 [] else s.reply 0x42#8 0 ((List.range len.toNat).map (fun i => s.dumpByteAt (off.toNat + i))) :=
  if_neg (by simpa using h)

theorem dumpRead_of_bad_range (h : s.dbg.dumpState ∉ [DumpState.none, .writing, .failed]) (hn : ¬ (len.toNat ≠ 0 ∧ len.toNat % 64 = 0 ∧
    len.toNat ≤ 2 ^ 20 ∧ off.toNat + len.toNat ≤ s.dbg.dumpBytes)) : dumpRead off len s = s.reply 0x42#8 7 [] :=
  (dumpRead_of_range h).trans (if_pos (by omega))

theorem dumpRead_of_good_range (h : s.dbg.dumpState ∉ [DumpState.none, .writing, .failed]) (hn : len.toNat ≠ 0 ∧ len.toNat % 64 = 0 ∧
    len.toNat ≤ 2 ^ 20 ∧ off.toNat + len.toNat ≤ s.dbg.dumpBytes) :
    dumpRead off len s = s.reply 0x42#8 0 ((List.range len.toNat).map (fun i => s.dumpByteAt (off.toNat + i))) :=
  (dumpRead_of_range h).trans (if_neg (by omega))

end

theorem dumpClear_next {s : State} (ha : s.awake = true) : ∃ t, exec .dumpClear s = .next t ∧ answered t 0x43#8 0 [] ∧
    t.dbg = { s.dbg with dumpState := .none, dumpHeader := [], dumpBytes := 0 } ∧ Frame [.dbg, .sec, .links] s t := by
  have hd := adds_dbg s.quiet { s.quiet.dbg with dumpState := .none, dumpHeader := [], dumpBytes := 0 }
  have hr := reply_adds { s.quiet with dbg := { s.quiet.dbg with dumpState := .none, dumpHeader := [], dumpBytes := 0 } } 0x43#8 0 []
  obtain ⟨hx, hF⟩ := awake_next (i := .dumpClear) (f := dumpClear) (ps := [.dbg, .sec, .links]) rfl ha rfl
    ((hd.mono (by simp)).trans (hr.mono (by simp))).1 (by simp)
  exact ⟨_, hx, reply_answered .., hr.same .dbg (by decide), hF⟩

/-! Registers read (R611, R612). -/

theorem takeWord_state (s : State) (via : RegPath) (off : Nat) : ∃ x, (s.takeWord via off).2 = s.setTide x ∧ x.count = s.tide.count := by
  unfold State.takeWord
  dsimp only
  split
  · exact ⟨_, rfl, rfl⟩
  · exact ⟨s.tide, rfl, rfl⟩

theorem takeWord_adds (s : State) (via : RegPath) (off : Nat) : Adds [.tide] s (s.takeWord via off).2 := by
  obtain ⟨x, hx, -⟩ := takeWord_state s via off
  rw [hx]
  exact adds_tide s x

theorem takeWord_count (s : State) (via : RegPath) (off : Nat) : (s.takeWord via off).2.tide.count = s.tide.count := by
  obtain ⟨x, hx, hc⟩ := takeWord_state s via off
  rw [hx]
  exact hc

theorem takeWords_adds (via : RegPath) (n : Nat) : ∀ (s : State) (off : Nat), Adds [.tide] s (s.takeWords via off n).2 := by
  induction n with
  | zero => exact fun s _ => Adds.rfl s
  | succ n ih => exact fun s off => (takeWord_adds s via off).trans (ih _ _)

theorem takeWords_count (via : RegPath) (n : Nat) : ∀ (s : State) (off : Nat), (s.takeWords via off n).2.tide.count = s.tide.count := by
  induction n with
  | zero => exact fun _ _ => rfl
  | succ n ih => exact fun s off => (ih _ _).trans (takeWord_count s via off)

/-- A free value is drawn. -/
def State.drawn (s : State) : State := { s with serial := s.serial + 1 }

theorem drawn_adds (s : State) : Adds [.serial] s s.drawn := adds_of_same rfl rfl (fun p => by cases p <;> simp [Part.same, State.drawn])

section
variable {off : W32} {n : BitVec 16} {s : State}

theorem regRead_of_bad_range (h : regRangeOk off n = false) : regRead off n s = s.reply 0x50#8 7 [] := if_pos (by simp [h])

theorem regRead_of_range (h : regRangeOk off n = true) : regRead off n s = (s.takeWords .mgmt off.toNat n.toNat).2.drawn.reply 0x50#8 0
    ((s.takeWords .mgmt off.toNat n.toNat).1.flatMap (fun w => bytesOf w 4)) := if_neg (by simp [h])

theorem regRead_next (hl : s.live = true) (h : regRangeOk off n = true) : ∃ t, exec (.regRead off n) s = .next t ∧
    answered t 0x50#8 0 ((s.quiet.takeWords .mgmt off.toNat n.toNat).1.flatMap (fun w => bytesOf w 4)) ∧
    t.tide.count = s.tide.count ∧ Frame [.sec, .tide, .serial] s t := by
  have hw := takeWords_adds .mgmt n.toNat s.quiet off.toNat
  have hc := takeWords_count .mgmt n.toNat s.quiet off.toNat
  have hd := drawn_adds (s.quiet.takeWords .mgmt off.toNat n.toNat).2
  have hr := reply_adds (s.quiet.takeWords .mgmt off.toNat n.toNat).2.drawn 0x50#8 0
    ((s.quiet.takeWords .mgmt off.toNat n.toNat).1.flatMap (fun w => bytesOf w 4))
  obtain ⟨hx, hF⟩ := live_next_frame (i := .regRead off n) (ps := [.sec, .tide, .serial]) rfl hl (regRead_of_range (s := s.quiet) h)
    ((hw.mono (by simp)).trans ((hd.mono (by simp)).trans (hr.mono (by simp)))).1 (by decide)
  refine ⟨_, hx, reply_answered .., ?_, hF⟩
  exact (congrArg Tide.count (hr.same .tide (by decide))).trans hc

theorem takeWords_one (s : State) (off : Nat) : (s.takeWords .mgmt off 1).1.flatMap (fun w => bytesOf w 4) = bytesOf (s.regWord off) 4 :=
  List.append_nil _

/-! Registers written (R611, R612, R613, R616). -/

theorem regWrite_of_bad_range {ws : List W32} (h : regRangeOk off n = false ∨ ws.length ≠ n.toNat) :
    regWrite off n ws s = s.reply 0x51#8 7 [] := if_pos (by simpa using h)

theorem regWrite_of_range {ws : List W32} (h : regRangeOk off n = true) (hw : ws.length = n.toNat) :
    regWrite off n ws s = (s.mgmtWrite off.toNat ws).reply 0x51#8 0 [] := if_neg (by simp [h, hw])

end

section
variable {p : PlPort} {off : BitVec 24} {eight : Bool} {v : W64} {s : State}

/-- A write through a window has no effect. -/
def State.windowRefuses (s : State) (p : PlPort) (off : Nat) (eight : Bool) : Prop :=
  off % (if eight then 8 else 4) ≠ 0 ∨ (windowTarget p off).2 ≠ .rw ∨ (!s.windowOpen p (windowTarget p off).1) = true

theorem regWr_of_refused (h : s.windowRefuses p off.toNat eight) : regWr (.window p) off eight v s = s := if_pos h

theorem regWr_of_misaligned (via : RegPath) (h : off.toNat % (if eight then 8 else 4) ≠ 0) : regWr via off eight v s = s := by
  cases via with
  | mgmt => exact if_pos h
  | window p => exact regWr_of_refused (.inl h)

theorem regWr_of_closed (h : (windowTarget p off.toNat).2 ≠ .rw ∨ s.windowOpen p (windowTarget p off.toNat).1 = false) :
    regWr (.window p) off eight v s = s := regWr_of_refused (.inr (h.imp_right (fun k => by rw [k]; rfl)))

theorem regWr_of_open (ha : off.toNat % (if eight then 8 else 4) = 0) (hr : (windowTarget p off.toNat).2 = .rw)
    (ho : s.windowOpen p (windowTarget p off.toNat).1 = true) : regWr (.window p) off eight v s =
      if eight then s.put8 (.window p) (windowTarget p off.toNat).1 v
      else s.put4 (.window p) (windowTarget p off.toNat).1 (v.extractLsb' 0 32) := by
  have hn : ¬ s.windowRefuses p off.toNat eight := by
    rintro (h | h | h)
    · exact h ha
    · exact h hr
    · rw [ho] at h
      exact Bool.noConfusion h
  exact if_neg hn

theorem regWr_of_mgmt (ha : off.toNat % (if eight then 8 else 4) = 0) : regWr .mgmt off eight v s =
    s.mgmtWrite off.toNat (if eight then [v.extractLsb' 0 32, v.extractLsb' 32 32] else [v.extractLsb' 0 32]) := if_neg (not_not.2 ha)

end

/-! Registers that stand alone. -/

theorem write32_drainMs (v : State) (via : RegPath) (w : W32) : (v.write32 via 0x000094 w).reg32 0x000094 =
    if 1 ≤ (w.extractLsb' 0 10).toNat ∧ (w.extractLsb' 0 10).toNat ≤ 1000 then (w.extractLsb' 0 10).setWidth 32 else v.reg32 0x000094 := by
  have h : (v.write32 via 0x000094 w).reg32 0x000094 = (keepIf v.plt.drainMs (w.extractLsb' 0 10)
    (decide (1 ≤ (w.extractLsb' 0 10).toNat) && decide ((w.extractLsb' 0 10).toNat ≤ 1000))).setWidth 32 := rfl
  rw [h, keepIf]
  simp only [Bool.and_eq_true, decide_eq_true_eq]
  split <;> rfl

/-! JTAG (R586 to R588). -/

section
variable {c : Instr} {s : State} {f : State → State}

/-- A meaning that a powered device has is the command's effect, but for the ports of a fatal node. -/
theorem powered_next {u : State} {ps : List Part} (hc : exec c s = .next (s.quiet.whenPowered f)) (hp : s.plt.powered = true)
    (hf : f s.quiet = u) (hu : Frame ps s.quiet u) (hl : Part.links ∈ ps) :
    exec c s = .next (s.quiet.settle u) ∧ Frame ps s (s.quiet.settle u) :=
  ⟨by rw [hc, whenPowered_of_powered (s := s.quiet) f hp, hf], settle_frame hu hl⟩

/-- A command of a powered device that sets the debug record to d and sends o does that, and nothing else. -/
theorem powered_dbg {d : Dbg} {o : List Out} (hc : exec c s = .next (s.quiet.whenPowered f)) (hp : s.plt.powered = true)
    (hf : f s.quiet = { s.quiet with dbg := d, out := o }) :
    ∃ t, exec c s = .next t ∧ t.dbg = d ∧ t.out = o ∧ Frame [.dbg, .links] s t := by
  have hF : Frame [.dbg, .links] s.quiet { s.quiet with dbg := d, out := o } :=
    ((adds_dbg s.quiet d).1.mono (by simp)).trans (Frame.ofOut _ o)
  obtain ⟨hx, hF⟩ := powered_next hc hp hf hF (by simp)
  exact ⟨_, hx, rfl, rfl, hF⟩

end

theorem locked_of_locked {s : State} (h : s.sec.debugUnlocked = false) (ir : BitVec 8) (f : State → State) :
    s.locked ir f = s.jtag ir .bypass .functional := if_neg (by simp [h])

theorem locked_of_unlocked {s : State} (h : s.sec.debugUnlocked = true) (ir : BitVec 8) (f : State → State) : s.locked ir f = f s := if_pos h

/-- A locked instruction that selects a register and drives the pins. -/
theorem lockedJtag_next {c : Instr} {s : State} {ir : BitVec 8} {r : JtagReg} {pins : JtagPins} (hp : s.plt.powered = true)
    (hc : exec c s = .next (s.quiet.whenPowered (fun t => t.locked ir (fun u => u.jtag ir r pins)))) :
    (s.sec.debugUnlocked = false → ∃ t, exec c s = .next t ∧
      t.dbg = { s.dbg with jtagIr := ir, jtagReg := .bypass, jtagPins := .functional } ∧ Frame [.dbg, .links] s t) ∧
    (s.sec.debugUnlocked = true → ∃ t, exec c s = .next t ∧
      t.dbg = { s.dbg with jtagIr := ir, jtagReg := r, jtagPins := pins } ∧ Frame [.dbg, .links] s t) := by
  refine ⟨fun h => ?_, fun h => ?_⟩
  · obtain ⟨t, hx, hd, -, hF⟩ := powered_dbg hc hp (locked_of_locked (s := s.quiet) h ..)
    exact ⟨t, hx, hd, hF⟩
  · obtain ⟨t, hx, hd, -, hF⟩ := powered_dbg hc hp (locked_of_unlocked (s := s.quiet) h ..)
    exact ⟨t, hx, hd, hF⟩

theorem mem_haltList (l : List BlockId) (b c : BlockId) (halt : Bool) :
    c ∈ (if halt then l.filter (· != b) ++ [b] else l.filter (· != b)) ↔ (c ≠ b ∧ c ∈ l) ∨ (c = b ∧ halt = true) := by
  cases halt <;> simp [and_comm]

theorem dbgHalt_next {b : BlockId} {halt : Bool} {s : State} (hp : s.plt.powered = true) :
    (s.sec.debugUnlocked = false → ∃ t, exec (.dbgHalt b halt) s = .next t ∧ t.dbg.halted = s.dbg.halted ∧ t.dbg.jtagReg = .bypass ∧
      Frame [.dbg, .links] s t) ∧
    (s.sec.debugUnlocked = true → ∃ t, exec (.dbgHalt b halt) s = .next t ∧
      t.dbg.halted = (if halt then s.dbg.halted.filter (· != b) ++ [b] else s.dbg.halted.filter (· != b)) ∧ Frame [.dbg, .links] s t) := by
  refine ⟨fun h => ?_, fun h => ?_⟩
  · obtain ⟨t, hx, hd, -, hF⟩ := powered_dbg (c := .dbgHalt b halt) (f := dbgHalt b halt) rfl hp (locked_of_locked (s := s.quiet) h ..)
    exact ⟨t, hx, (congrArg Dbg.halted hd).trans rfl, (congrArg Dbg.jtagReg hd).trans rfl, hF⟩
  · obtain ⟨t, hx, hd, -, hF⟩ := powered_dbg (c := .dbgHalt b halt) (f := dbgHalt b halt) rfl hp (locked_of_unlocked (s := s.quiet) h ..)
    exact ⟨t, hx, (congrArg Dbg.halted hd).trans rfl, hF⟩

/-! DBG_ACCESS (R587). -/

/-- DBG_ACCESS is selected. -/
def State.accessed (s : State) : State := s.jtag 0x10#8 .dbgAccess .functional

theorem jtag_adds (s : State) (ir : BitVec 8) (r : JtagReg) (pins : JtagPins) : Adds [.dbg] s (s.jtag ir r pins) := adds_dbg s _

theorem dbgAccess_locked {r : DbgReq} {s : State} (ha : s.awake = true) (h : s.sec.debugUnlocked = false) :
    ∃ t, exec (.dbgAccess r) s = .next t ∧ t.dbg = { s.dbg with jtagIr := 0x10#8, jtagReg := .bypass, jtagPins := .functional } ∧
      Frame [.dbg, .links] s t := by
  obtain ⟨hx, hF⟩ := awake_next (i := .dbgAccess r) (f := dbgAccess r) rfl ha (locked_of_locked (s := s.quiet) h ..)
    ((jtag_adds ..).1.mono (qs := [.dbg, .links]) (by simp)) (by simp)
  exact ⟨_, hx, rfl, hF⟩

/-- What a read of the register at offset o shifts out. -/
def State.shiftedOut (s : State) (o : Nat) : W64 :=
  match s.reg64 o with
  | some x => x
  | none => (s.readWord .mgmt o).setWidth 64

theorem dbgAccess_read {s : State} (h : s.sec.debugUnlocked = true) (off : BitVec 24) : dbgAccess (.read off) s =
    ((s.accessed.takeWord .mgmt (off.toNat - off.toNat % 4)).2.drawn).emit (.jtag (s.accessed.shiftedOut (off.toNat - off.toNat % 4))) :=
  (locked_of_unlocked h _ _).trans rfl

theorem dbgAccess_read_next {s : State} (ha : s.awake = true) (h : s.sec.debugUnlocked = true) (off : BitVec 24) :
    ∃ t v, exec (.dbgAccess (.read off)) s = .next t ∧ .jtag v ∈ t.out ∧ t.dbg.jtagReg = .dbgAccess ∧
      t.tide.count = s.tide.count ∧ Frame [.dbg, .tide, .serial, .links] s t := by
  have hf := dbgAccess_read (s := s.quiet) h off
  have hw := takeWord_adds s.quiet.accessed .mgmt (off.toNat - off.toNat % 4)
  have hc := takeWord_count s.quiet.accessed .mgmt (off.toNat - off.toNat % 4)
  have hu : Adds [.dbg, .tide, .serial, .links] s.quiet _ := ((jtag_adds ..).mono (by simp)).trans ((hw.mono (by simp)).trans
    (((drawn_adds _).mono (by simp)).trans (emit_adds _ (.jtag (s.quiet.accessed.shiftedOut (off.toNat - off.toNat % 4))))))
  obtain ⟨hx, hF⟩ := awake_next (i := .dbgAccess (.read off)) (f := dbgAccess (.read off)) rfl ha hf hu.1 (by simp)
  exact ⟨_, _, hx, mem_emit .., (congrArg Dbg.jtagReg (hw.same .dbg (by decide))).trans rfl, hc, hF⟩

theorem dbgAccess_write {s : State} (h : s.sec.debugUnlocked = true) (off : BitVec 24) (v : W64) : dbgAccess (.write off v) s =
    if (s.accessed.reg64 (off.toNat - off.toNat % 4)).isSome then s.accessed.write64 .mgmt (off.toNat - off.toNat % 4) v
    else s.accessed.put4 .mgmt (off.toNat - off.toNat % 4) (v.extractLsb' 0 32) := locked_of_unlocked h ..

theorem dbgAccess_write_next {s : State} (ha : s.awake = true) (h : s.sec.debugUnlocked = true) (off : BitVec 24) (v : W64) :
    ∃ t u, exec (.dbgAccess (.write off v)) s = .next t ∧ u.dbg.jtagReg = .dbgAccess ∧ Frame [.dbg] s u ∧
      let o := off.toNat - off.toNat % 4
      ((u.reg64 o).isSome = true → t = s.quiet.settle (u.write64 .mgmt o v)) ∧
      ((u.reg64 o).isSome = false → t = s.quiet.settle (u.put4 .mgmt o (v.extractLsb' 0 32))) := by
  have hx : exec (.dbgAccess (.write off v)) s = .next (s.quiet.settle (dbgAccess (.write off v) s.quiet)) := awake_quiet_next rfl ha
  rw [dbgAccess_write (s := s.quiet) h] at hx
  refine ⟨_, s.quiet.accessed, hx, rfl, (Frame.quiet s).trans (jtag_adds ..).1, fun hs => ?_, fun hs => ?_⟩
  · rw [if_pos hs]
  · rw [if_neg (by simp [hs])]

/-- Settles O60: a read of the dump or of a register range is one answer, a write through a window or the management port one equation, and a
JTAG instruction a value of the debug record. -/
theorem registersDumpAndJtag : Obligations.RegistersDumpAndJtag := by
  unfold Obligations.RegistersDumpAndJtag
  refine ⟨fun off len s ha => ⟨fun h => ?_, fun h hn => ?_, fun h hn => ?_⟩, fun s ha => dumpClear_next ha,
    fun off n s hl => ⟨fun h => ?_, fun h => ?_⟩, fun off n ws s hl => ⟨fun h => ?_, fun h hw => ?_⟩,
    fun via off eight v s hl => ⟨fun h => ?_, fun p hv h => ?_, fun p hv ha hr ho => ?_, fun hv ha => ?_⟩,
    fun v via off w => ?_, fun pins s hp => ⟨?_, ?_, ?_⟩, fun e s hp he => ?_, fun b halt s hp => ?_,
    fun r s ha => ⟨dbgAccess_locked ha, fun h => ⟨fun off hr => ?_, fun off v hr => ?_⟩⟩⟩
  · exact awake_answer (i := .dumpRead off len) rfl ha (dumpRead_of_none (s := s.quiet) h)
  · exact awake_answer (i := .dumpRead off len) rfl ha (dumpRead_of_bad_range (s := s.quiet) h hn)
  · exact awake_answer (i := .dumpRead off len) rfl ha (dumpRead_of_good_range (s := s.quiet) h hn)
  · exact live_reply (i := .regRead off n) rfl hl (regRead_of_bad_range h)
  · obtain ⟨t, hx, hans, hc, hF⟩ := regRead_next hl h
    refine ⟨t, hx, hans, fun hn => ?_, hc, hF⟩
    subst hn
    exact takeWords_one s.quiet off.toNat ▸ hans
  · exact live_reply (i := .regWrite off n ws) rfl hl (regWrite_of_bad_range h)
  · exact ⟨_, live_next (i := .regWrite off n ws) rfl hl (regWrite_of_range h hw), reply_answered .., rfl⟩
  · exact live_idles (c := .regWr via off eight v) rfl hl (regWr_of_misaligned via h)
  · subst hv
    exact live_idles (c := .regWr (.window p) off eight v) rfl hl (regWr_of_closed (s := s.quiet) h)
  · subst hv
    have hx := live_next (i := .regWr (.window p) off eight v) rfl hl (regWr_of_open (s := s.quiet) (v := v) ha hr ho)
    exact ⟨_, hx, fun h8 => by rw [if_pos h8], fun h4 => by rw [if_neg (by simp [h4])]⟩
  · subst hv
    have hx := live_next (i := .regWr .mgmt off eight v) rfl hl (regWr_of_mgmt (s := s.quiet) (v := v) ha)
    exact ⟨_, hx, fun h4 => by rw [if_neg (by simp [h4])], fun h8 => by rw [if_pos h8]⟩
  · exact ⟨fun h => if_pos h, fun h => if_pos h, rfl, rfl, rfl, write32_drainMs v via w, rfl, rfl, rfl⟩
  · obtain ⟨t, hx, hd, -, hF⟩ := powered_dbg (c := .bypass) rfl hp rfl
    exact ⟨t, hx, hd, hF⟩
  · obtain ⟨t, hx, hd, ho, hF⟩ := powered_dbg (c := .idcode) (f := idcode) rfl hp rfl
    exact ⟨t, hx, hd, by rw [ho]; exact mem_emit s.quiet _, hF⟩
  · obtain ⟨t, hx, hd, ho, hF⟩ := powered_dbg (c := .samplePreload pins) (f := samplePreload pins) rfl hp rfl
    exact ⟨t, hx, hd, by rw [ho]; exact mem_emit s.quiet _, hF⟩
  · simp only [List.mem_cons, List.not_mem_nil, or_false] at he
    rcases he with rfl | rfl | rfl
    · exact lockedJtag_next (c := .extest) hp rfl
    · exact lockedJtag_next (c := .clamp) hp rfl
    · exact lockedJtag_next (c := .highz) hp rfl
  · obtain ⟨hlocked, hfree⟩ := dbgHalt_next (b := b) (halt := halt) hp
    refine ⟨hlocked, fun h => ?_⟩
    obtain ⟨t, hx, hd, hF⟩ := hfree h
    refine ⟨t, hx, ?_, fun c hc => ?_, hF⟩
    · rw [hd, mem_haltList]
      simp
    · rw [hd, mem_haltList]
      simp [hc]
  · subst hr
    exact dbgAccess_read_next ha h off
  · subst hr
    exact dbgAccess_write_next ha h off v

end Sys2Proof.Machine

/-! PROOFS. Address spaces, invalidations and their acknowledgement (R457 to R461, R475, R476). -/

namespace Sys2Proof.Machine

/-! The invalidation point (R475). -/

/-- A level's entries outside the range of an invalidation. -/
def keptEntries (asid : BitVec 20) (range : Option (Nat × Nat)) (l : List TlbEntry) : List TlbEntry := l.filter (fun e => !e.inRange asid range)

/-- A cache of several sets without the entries in the range of an invalidation. -/
def keptSets (asid : BitVec 20) (range : Option (Nat × Nat)) (m : SMap (List TlbEntry)) : SMap (List TlbEntry) :=
  (tmap m (fun _ l => keptEntries asid range l)).filter (fun e => !e.2.isEmpty)

/-- The transfers of an invalidation under way, each with its engine. -/
def State.invalBusy (s : State) (asid : BitVec 20) (range : Option (Nat × Nat)) : List (Nat × Nat) :=
  s.rtr.reqs.filterMap (fun (e : Nat × DevReq) => match s.reqEngine e.2 with
    | some (g, a) => if a = asid ∧ e.2.va.all (fun va => range.all (fun r => decide (r.1 ≤ va) && decide (va < r.1 + r.2))) then some (e.1, g)
      else none
    | none => none)

/-- The walks once those of an address space are cut off. -/
def cutWalks (asid : BitVec 20) (m : SMap Walk) : SMap Walk :=
  tmap (m.filter (fun e => !(e.2.asid == asid && e.2.prefetch))) (fun _ w => if w.asid = asid then { w with stale := true } else w)

/-- The translation record at the invalidation point. -/
def State.invalidated (s : State) (p : PlPort) (asid : BitVec 20) (range : Option (Nat × Nat)) : Xlt :=
  { s.xlt with
    blockTlb := keptSets asid range s.xlt.blockTlb, queueTlb := keptEntries asid range s.xlt.queueTlb
    chipTlb := keptSets asid range s.xlt.chipTlb, walkCache := s.xlt.walkCache.filter (fun e => e.asid != asid)
    walks := cutWalks asid s.xlt.walks
    invals := s.xlt.invals ++ [{ port := p, asid := asid, left := invalEngines, drain := s.invalBusy asid range }] }

theorem invalidate_eq (s : State) (p : PlPort) (asid : BitVec 20) (range : Option (Nat × Nat)) :
    s.invalidate p asid range = ({ s with xlt := s.invalidated p asid range } : State).startWaiting 64 := rfl

theorem invalidate_of_none {s : State} (h : s.xlt.waiting = []) (p : PlPort) (asid : BitVec 20) (range : Option (Nat × Nat)) :
    s.invalidate p asid range = { s with xlt := s.invalidated p asid range } := startWaiting_of_none (by exact h) 64

theorem keptEntries_inRange {asid : BitVec 20} {range : Option (Nat × Nat)} {l : List TlbEntry} {e : TlbEntry}
    (h : e ∈ keptEntries asid range l) : e.inRange asid range = false := by
  simpa using (List.mem_filter.1 h).2

theorem mem_of_mem_mget {α : Type} {m : SMap (List α)} {k : Nat} {a : α} (h : a ∈ mget [] m k) : ∃ l, (k, l) ∈ m ∧ a ∈ l := by
  unfold mget at h
  cases ht : tget m k with
  | none => rw [ht] at h; exact absurd h List.not_mem_nil
  | some l => rw [ht] at h; exact ⟨l, mem_of_tget ht, h⟩

theorem keptSets_inRange {asid : BitVec 20} {range : Option (Nat × Nat)} {m : SMap (List TlbEntry)} {k : Nat} {e : TlbEntry}
    (h : e ∈ mget [] (keptSets asid range m) k) : e.inRange asid range = false := by
  obtain ⟨l, hl, he⟩ := mem_of_mem_mget h
  obtain ⟨x, -, hx⟩ := List.mem_map.1 (List.mem_filter.1 hl).1
  obtain ⟨-, rfl⟩ := Prod.mk.inj hx
  exact keptEntries_inRange he

theorem cutWalks_stale {asid : BitVec 20} {m : SMap Walk} {e : Nat × Walk} (h : e ∈ cutWalks asid m) (ha : e.2.asid = asid) :
    e.2.stale = true := by
  obtain ⟨x, -, rfl⟩ := List.mem_map.1 h
  dsimp only at ha ⊢
  by_cases hx : x.2.asid = asid
  · rw [if_pos hx]
  · rw [if_neg hx] at ha
    exact absurd ha hx

theorem inRange_whole (e : TlbEntry) (asid : BitVec 20) : e.inRange asid none = (e.asid == asid) := Bool.and_true _

theorem dropPages_adds (s : State) (asid : BitVec 20) (range : Option (Nat × Nat)) : Adds [.que] s (s.dropPages asid range) := adds_que s _

theorem beginInval_of_none {s : State} (h : s.xlt.waiting = []) (p : PlPort) (asid : BitVec 20) (range : Option (Nat × Nat)) :
    s.beginInval p asid range =
      ({ s.dropPages asid range with xlt := (s.dropPages asid range).invalidated p asid range } : State).adminBusy p := by
  rw [State.beginInval, invalidate_of_none (s := s.dropPages asid range) h]

theorem beginInval_adds {s : State} (h : s.xlt.waiting = []) (p : PlPort) (asid : BitVec 20) (range : Option (Nat × Nat)) :
    Adds [.xlt, .que] s (s.beginInval p asid range) := by
  rw [beginInval_of_none h]
  exact ((dropPages_adds ..).mono (by simp)).trans (((adds_xlt _ _).mono (by simp)).trans ((adminBusy_adds ..).mono (by simp)))

theorem beginInval_xlt {s : State} (h : s.xlt.waiting = []) (p : PlPort) (asid : BitVec 20) (range : Option (Nat × Nat)) :
    (s.beginInval p asid range).xlt = (s.dropPages asid range).invalidated p asid range := by
  rw [beginInval_of_none h]
  rfl

theorem beginInval_busy (s : State) (p : PlPort) (asid : BitVec 20) (range : Option (Nat × Nat)) :
    ((s.beginInval p asid range).admin p).busy = true := congrArg Admin.busy (adminBusy_admin ..)

/-! AS_CREATE, AS_SET_ROOT, AS_DESTROY (R457 to R461). -/

/-- Address space asid is a. -/
def State.putSpace (s : State) (asid : BitVec 20) (a : AddrSpace) : State :=
  { s with xlt := { s.xlt with spaces := tput s.xlt.spaces asid.toNat a } }

theorem putSpace_adds (s : State) (asid : BitVec 20) (a : AddrSpace) : Adds [.xlt] s (s.putSpace asid a) := adds_xlt s _

theorem putSpace_space (s : State) (asid : BitVec 20) (a : AddrSpace) : (s.putSpace asid a).space asid = some a := tget_tput_same ..

theorem space_of_xlt {s t : State} (h : t.xlt = s.xlt) (asid : BitVec 20) : t.space asid = s.space asid :=
  congrArg (fun x : Xlt => tget x.spaces asid.toNat) h

theorem asCreateCheck_port {s : State} {p : PlPort} {d : Desc} {a : AddrSpace} (h : s.asCreateCheck p d = .ok a) : a.port = p := by
  unfold State.asCreateCheck at h
  extract_lets t root rd at h
  split at h
  · cases h
  split at h
  · cases h
  split at h
  · cases h
  split at h
  · cases h
  split at h
  · cases h
  split at h
  · cases h
  extract_lets radix at h
  split at h
  · cases h
  · cases h
    rfl

section
variable {s : State} {p : PlPort} {d : Desc}

theorem asCreate_of_refused {st : Status} (hh : s.adminHead p 0x70#8 = some d) (hc : s.asCreateCheck p d = .error st) :
    asCreate p s = s.adminDone p st 0#64 := by
  simp only [asCreate, hh, hc]

theorem asCreate_of_accepted {a : AddrSpace} (hh : s.adminHead p 0x70#8 = some d) (hc : s.asCreateCheck p d = .ok a) :
    asCreate p s = (s.putSpace (descAsid d) a).adminDone p stOk 0#64 := by
  simp only [asCreate, hh, hc]
  rfl

/-- A command on an address space carries the reserved bits as they are to be. -/
def asidClean (d : Desc) (used : List (Nat × Nat)) : Bool := descClean d used && decide (descField d 16 4 < 2 ^ 20)

theorem asidClean_eq_false {used : List (Nat × Nat)} :
    asidClean d used = false ↔ (!descClean d used) = true ∨ 2 ^ 20 ≤ descField d 16 4 := by
  rw [asidClean, Bool.and_eq_false_iff, Bool.not_eq_true', decide_eq_false_iff_not, Nat.not_lt]

/-- AS_SET_ROOT of a well-formed command. -/
def State.setRoot (s : State) (p : PlPort) (d : Desc) : State :=
  match s.ownSpace p (descAsid d) with
  | none => s.adminDone p stBadAsid 0#64
  | some a =>
    if !rootAligned a.radix (d.extractLsb' 192 64) then s.adminDone p stAlign 0#64
    else (s.putSpace (descAsid d) { a with root := d.extractLsb' 192 64 }).beginInval p (descAsid d) none

theorem asSetRoot_eq (hh : s.adminHead p 0x71#8 = some d) : asSetRoot p s =
    if asidClean d [(16, 4), (24, 8)] = false then s.adminDone p stBadDesc 0#64 else s.setRoot p d := by
  unfold asSetRoot
  rw [hh]
  exact if_congr asidClean_eq_false.symm rfl rfl

/-- The address space is gone, and no invalidation of it is awaited. -/
def State.spaceGone (s : State) (p : PlPort) (asid : BitVec 20) : State :=
  { s.invalidate p asid none with
    xlt := { (s.invalidate p asid none).xlt with spaces := tdel (s.invalidate p asid none).xlt.spaces asid.toNat, invals := s.xlt.invals } }

/-- AS_DESTROY of a well-formed command. -/
def State.destroySpace (s : State) (p : PlPort) (asid : BitVec 20) : State :=
  match s.ownSpace p asid with
  | none => s.adminDone p stBadAsid 0#64
  | some _ =>
    if s.que.qps.any (fun q => q.2.cfg.asid == asid) then s.adminDone p stAsBusy 0#64
    else (s.spaceGone p asid).adminDone p stOk 0#64

theorem asDestroy_eq (hh : s.adminHead p 0x72#8 = some d) : asDestroy p s =
    if asidClean d [(16, 4)] = false then s.adminDone p stBadDesc 0#64 else s.destroySpace p (descAsid d) := by
  unfold asDestroy
  rw [hh]
  exact if_congr asidClean_eq_false.symm rfl rfl

theorem destroySpace_of_none {asid : BitVec 20} (h : s.ownSpace p asid = none) : s.destroySpace p asid = s.adminDone p stBadAsid 0#64 := by
  simp only [State.destroySpace, h]

theorem destroySpace_of_own {asid : BitVec 20} {a : AddrSpace} (h : s.ownSpace p asid = some a) : s.destroySpace p asid =
    if s.que.qps.any (fun q => q.2.cfg.asid == asid) then s.adminDone p stAsBusy 0#64
    else (s.spaceGone p asid).adminDone p stOk 0#64 := by
  simp only [State.destroySpace, h]

theorem setRoot_of_none (h : s.ownSpace p (descAsid d) = none) : s.setRoot p d = s.adminDone p stBadAsid 0#64 := by
  simp only [State.setRoot, h]

theorem setRoot_of_own {a : AddrSpace} (h : s.ownSpace p (descAsid d) = some a) : s.setRoot p d =
    if !rootAligned a.radix (d.extractLsb' 192 64) then s.adminDone p stAlign 0#64
    else (s.putSpace (descAsid d) { a with root := d.extractLsb' 192 64 }).beginInval p (descAsid d) none := by
  simp only [State.setRoot, h]

/-- An INVAL command carries the reserved bits and fields as they are to be. -/
def invalClean (d : Desc) : Bool :=
  descClean d [(16, 4), (20, 1), (24, 8), (32, 8)] && decide (descField d 16 4 < 2 ^ 20) && decide (descField d 20 1 ≤ 1) &&
    (!d.getLsbD 160 || (descField d 24 8 == 0 && descField d 32 8 == 0))

theorem invalClean_eq_false : invalClean d = false ↔ (!descClean d [(16, 4), (20, 1), (24, 8), (32, 8)]) = true ∨
    2 ^ 20 ≤ descField d 16 4 ∨ 1 < descField d 20 1 ∨ (d.getLsbD 160 = true ∧ (descField d 24 8 ≠ 0 ∨ descField d 32 8 ≠ 0)) := by
  simp only [invalClean, Bool.and_eq_false_iff, Bool.or_eq_false_iff, Bool.not_eq_true', Bool.not_eq_false', decide_eq_false_iff_not,
    Nat.not_lt, Nat.not_le, beq_eq_false_iff_ne, or_assoc, ne_eq]

/-- INVAL of a range, or of all, of an address space of the port's own. -/
def State.invalRange (s : State) (p : PlPort) (d : Desc) : State :=
  if d.getLsbD 160 then s.beginInval p (descAsid d) none
  else if descField d 32 8 = 0 then s.adminDone p stBadLength 0#64
  else if descField d 24 8 % 4096 ≠ 0 ∨ descField d 32 8 % 4096 ≠ 0 then s.adminDone p stAlign 0#64
  else s.beginInval p (descAsid d) (some (descField d 24 8, descField d 32 8))

/-- INVAL of a well-formed command. -/
def State.invalSpace (s : State) (p : PlPort) (d : Desc) : State :=
  match s.ownSpace p (descAsid d) with
  | none => s.adminDone p stBadAsid 0#64
  | some _ => s.invalRange p d

theorem inval_eq (hh : s.adminHead p 0x73#8 = some d) : inval p s =
    if invalClean d = false then s.adminDone p stBadDesc 0#64 else s.invalSpace p d := by
  unfold inval
  rw [hh]
  exact if_congr invalClean_eq_false.symm rfl rfl

theorem invalSpace_of_none (h : s.ownSpace p (descAsid d) = none) : s.invalSpace p d = s.adminDone p stBadAsid 0#64 := by
  simp only [State.invalSpace, h]

theorem inval_of_own {a : AddrSpace} (hh : s.adminHead p 0x73#8 = some d) (hc : invalClean d = true)
    (ho : s.ownSpace p (descAsid d) = some a) : inval p s = s.invalRange p d := by
  rw [inval_eq hh, if_neg (ne_false_of_eq_true hc)]
  simp only [State.invalSpace, ho]

theorem spaceGone_of_none (hw : s.xlt.waiting = []) (asid : BitVec 20) :
    Adds [.xlt] s (s.spaceGone p asid) ∧ (s.spaceGone p asid).space asid = none ∧
      (∀ e, e ∈ (s.spaceGone p asid).xlt.queueTlb → e.asid ≠ asid) ∧ (∀ e, e ∈ (s.spaceGone p asid).xlt.walkCache → e.asid ≠ asid) := by
  have hg : s.spaceGone p asid = { s with
      xlt := { s.invalidated p asid none with spaces := tdel s.xlt.spaces asid.toNat, invals := s.xlt.invals } } := by
    rw [State.spaceGone, invalidate_of_none hw]
    rfl
  rw [hg]
  refine ⟨adds_xlt s _, tget_tdel_same .., fun e he => ?_, fun e he => ?_⟩
  · have h := keptEntries_inRange he
    rw [inRange_whole] at h
    simpa using h
  · simpa using (List.mem_filter.1 he).2

end

/-! Acknowledgements (R476). -/

section
variable {e : InvalEngine} {s : State} {v : Inval}

/-- An engine's transfers of an invalidation are still under way. -/
def State.draining (s : State) (v : Inval) (g : Nat) : Bool := v.drain.any (fun k => k.2 == g && (tget s.rtr.reqs k.1).isSome)

/-- The oldest invalidation that an engine has not acknowledged. -/
def State.unacked (s : State) (e : InvalEngine) : Option Inval := s.xlt.invals.find? (fun v => v.left.contains (invalEngineIx e))

/-- An invalidation once an engine has acknowledged it. -/
def Inval.acked (v : Inval) (e : InvalEngine) : Inval := { v with left := v.left.erase (invalEngineIx e) }

/-- The device once an engine that is not the last has acknowledged an invalidation. -/
def State.ackTaken (s : State) (v : Inval) (e : InvalEngine) : State :=
  { s with xlt := { s.xlt with invals := s.xlt.invals.map (fun w => if w = v then v.acked e else w) } }

/-- The device once the last engine has acknowledged an invalidation. -/
def State.ackLast (s : State) (v : Inval) : State :=
  (({ s with xlt := { s.xlt with invals := s.xlt.invals.erase v } } : State).tally (ctrXlt 5 0)).adminDone v.port stOk 0#64

theorem invalAck_of_none (h : s.unacked e = none) : invalAck e s = s := by
  unfold State.unacked at h
  simp only [invalAck, h]

theorem invalAck_of_draining (h : s.unacked e = some v) (hd : s.draining v (invalEngineIx e) = true) : invalAck e s = s := by
  unfold State.unacked at h
  simp only [invalAck, h]
  exact if_pos hd

theorem invalAck_of_more (h : s.unacked e = some v) (hd : s.draining v (invalEngineIx e) = false)
    (hl : v.left.erase (invalEngineIx e) ≠ []) : invalAck e s = s.ackTaken v e := by
  unfold State.unacked at h
  simp only [invalAck, h]
  exact (if_neg (ne_true_of_eq_false hd)).trans (if_neg (by simpa using hl))

theorem invalAck_of_last (h : s.unacked e = some v) (hd : s.draining v (invalEngineIx e) = false)
    (hl : v.left = [invalEngineIx e]) : invalAck e s = s.ackLast v := by
  unfold State.unacked at h
  simp only [invalAck, h]
  exact (if_neg (ne_true_of_eq_false hd)).trans (if_pos (by simp [hl]))

theorem ackTaken_adds (s : State) (v : Inval) (e : InvalEngine) : Adds [.xlt] s (s.ackTaken v e) := adds_xlt s _

theorem mem_ackTaken (h : s.unacked e = some v) : v.acked e ∈ (s.ackTaken v e).xlt.invals :=
  List.mem_map.2 ⟨v, List.mem_of_find?_eq_some h, if_pos rfl⟩

theorem ackLast_spec {d : Desc} {rest : List Desc} (hd : (s.admin v.port).held = d :: rest) :
    (s.ackLast v).xlt.invals = s.xlt.invals.erase v ∧ adminAnswered (s.ackLast v) v.port d stOk 0#64 ∧
      Adds [.xlt, .que, .ctr, .ras, .serial] s (s.ackLast v) := by
  have hx := adds_xlt s { s.xlt with invals := s.xlt.invals.erase v }
  have ht := tally_adds { s with xlt := { s.xlt with invals := s.xlt.invals.erase v } } (ctrXlt 5 0)
  have ha := adminDone_adds (({ s with xlt := { s.xlt with invals := s.xlt.invals.erase v } } : State).tally (ctrXlt 5 0)) v.port stOk 0#64
  refine ⟨?_, adminDone_answered (rest := rest) ?_ .., (hx.mono (by simp)).trans ((ht.mono (by simp)).trans (ha.mono (by simp)))⟩
  · exact congrArg Xlt.invals ((ha.same .xlt (by decide)).trans (ht.same .xlt (by decide)))
  · exact (congrArg Admin.held (admin_of_que (ht.same .que (by decide)) v.port)).trans hd

end

/-! The clauses. -/

section
variable {s : State} {p : PlPort} {d : Desc} (hl : s.live = true)
include hl

theorem asCreate_next {a : AddrSpace} (hh : s.adminHead p 0x70#8 = some d) (hc : s.asCreateCheck p d = .ok a) :
    ∃ t, exec (.asCreate p) s = .next t ∧ adminAnswered t p d stOk 0#64 ∧ t.space (descAsid d) = some a ∧ a.port = p ∧
      Frame [.que, .xlt] s t := by
  obtain ⟨rest, hheld⟩ := adminHead_spec hh
  have ha := adminDone_adds (s.quiet.putSpace (descAsid d) a) p stOk 0#64
  obtain ⟨hx, hF⟩ := live_next_frame (i := .asCreate p) (ps := [.que, .xlt]) rfl hl (asCreate_of_accepted (s := s.quiet) hh hc)
    (((putSpace_adds ..).mono (by simp)).trans (ha.mono (by simp))).1 (by decide)
  exact ⟨_, hx, adminDone_answered (s := s.quiet.putSpace (descAsid d) a) hheld .., (space_of_xlt (ha.same .xlt (by decide)) _).trans
    (putSpace_space ..), asCreateCheck_port hc, hF⟩

theorem asDestroy_next {a : AddrSpace} (hh : s.adminHead p 0x72#8 = some d) (hc : asidClean d [(16, 4)] = true)
    (ho : s.ownSpace p (descAsid d) = some a) (hq : s.que.qps.any (fun q => q.2.cfg.asid == descAsid d) = false) (hw : s.xlt.waiting = []) :
    ∃ t, exec (.asDestroy p) s = .next t ∧ adminAnswered t p d stOk 0#64 ∧ t.space (descAsid d) = none ∧
      (∀ e, e ∈ t.xlt.queueTlb → e.asid ≠ descAsid d) ∧ (∀ e, e ∈ t.xlt.walkCache → e.asid ≠ descAsid d) ∧ Frame [.que, .xlt] s t := by
  obtain ⟨rest, hheld⟩ := adminHead_spec hh
  obtain ⟨hadds, hspace, htlb, hcache⟩ := spaceGone_of_none (s := s.quiet) (p := p) hw (descAsid d)
  have hf : asDestroy p s.quiet = (s.quiet.spaceGone p (descAsid d)).adminDone p stOk 0#64 := by
    rw [asDestroy_eq (s := s.quiet) hh, if_neg (ne_false_of_eq_true hc), destroySpace_of_own (s := s.quiet) ho]
    exact if_neg (ne_true_of_eq_false hq)
  have ha := adminDone_adds (s.quiet.spaceGone p (descAsid d)) p stOk 0#64
  have hxlt : ((s.quiet.spaceGone p (descAsid d)).adminDone p stOk 0#64).xlt = (s.quiet.spaceGone p (descAsid d)).xlt := ha.same .xlt (by decide)
  obtain ⟨hx, hF⟩ := live_next_frame (i := .asDestroy p) (ps := [.que, .xlt]) rfl hl hf ((hadds.mono (by simp)).trans (ha.mono (by simp))).1
    (by decide)
  refine ⟨_, hx, adminDone_answered (rest := rest) ?_ .., (space_of_xlt hxlt _).trans hspace, by rw [hxlt]; exact htlb,
    by rw [hxlt]; exact hcache, hF⟩
  exact (congrArg Admin.held (admin_of_que (hadds.same .que (by decide)) p)).trans hheld

theorem invalAck_next {e : InvalEngine} {v : Inval} (h : s.unacked e = some v) (hd : s.draining v (invalEngineIx e) = false) :
    (v.left.erase (invalEngineIx e) ≠ [] → ∃ t, exec (.invalAck e) s = .next t ∧ v.acked e ∈ t.xlt.invals ∧ t.que = s.que ∧
      Frame [.xlt] s t) ∧
    (∀ d rest, v.left = [invalEngineIx e] → (s.admin v.port).held = d :: rest → ∃ t, exec (.invalAck e) s = .next t ∧
      t.xlt.invals = s.xlt.invals.erase v ∧ adminAnswered t v.port d stOk 0#64 ∧ Frame [.xlt, .que, .ctr, .ras, .serial] s t) := by
  refine ⟨fun hn => ?_, fun d rest hn hheld => ?_⟩
  · obtain ⟨hx, hF⟩ := live_next_frame (i := .invalAck e) rfl hl (invalAck_of_more (s := s.quiet) h hd hn) (ackTaken_adds ..).1 (by decide)
    exact ⟨_, hx, mem_ackTaken (s := s.quiet) h, rfl, hF⟩
  · obtain ⟨hi, hans, hadds⟩ := ackLast_spec (s := s.quiet) (v := v) hheld
    obtain ⟨hx, hF⟩ := live_next_frame (i := .invalAck e) rfl hl (invalAck_of_last (s := s.quiet) h hd hn) hadds.1 (by decide)
    exact ⟨_, hx, hi, hans, hF⟩

end

/-- Settles O50: the point of an invalidation is `State.invalidated`, an acknowledgement leaves the engines' list or ends it, and the other
commands are one equation each. -/
theorem spacesAndInvalidation : Obligations.SpacesAndInvalidation := by
  unfold Obligations.SpacesAndInvalidation
  refine ⟨fun p s hl => ⟨fun h => ?_, fun h => ?_, fun h => ?_, fun h => ?_⟩, fun p d s hl hh => ⟨fun st hc => ?_, fun a hc => ?_⟩,
    fun p d s hl hh => ⟨fun hc => ?_, fun hc ho => ?_, fun a hc ho => ⟨fun hr => ?_, fun hr => ?_⟩⟩,
    fun p d s hl hh => ⟨fun hc => ?_, fun hc ho => ?_, fun a hc ho => ⟨fun hq => ?_, fun hq hw => ?_⟩⟩,
    fun p d s hl hh => ⟨fun hc => ?_, fun hc ho => ?_, fun a hc ho => ⟨fun ha => ?_, fun ha hn => ?_, fun ha hn hm => ?_, fun ha hn hb hn' => ?_⟩⟩,
    fun u p asid range hw => ?_, fun e s hl => ⟨fun h => ?_, fun v h => ⟨fun hd => ?_, fun hd => invalAck_next hl h hd⟩⟩⟩
  · exact live_idles (c := .asCreate p) rfl hl (by simp only [asCreate, show s.quiet.adminHead p 0x70#8 = none from h])
  · exact live_idles (c := .asSetRoot p) rfl hl (by simp only [asSetRoot, show s.quiet.adminHead p 0x71#8 = none from h])
  · exact live_idles (c := .asDestroy p) rfl hl (by simp only [asDestroy, show s.quiet.adminHead p 0x72#8 = none from h])
  · exact live_idles (c := .inval p) rfl hl (by simp only [inval, show s.quiet.adminHead p 0x73#8 = none from h])
  · exact live_adminAnswered (i := .asCreate p) rfl hl hh (asCreate_of_refused (s := s.quiet) hh hc)
  · exact asCreate_next hl hh hc
  · exact live_adminAnswered (i := .asSetRoot p) rfl hl hh ((asSetRoot_eq (s := s.quiet) hh).trans (if_pos hc))
  · exact live_adminAnswered (i := .asSetRoot p) rfl hl hh ((asSetRoot_eq (s := s.quiet) hh).trans
      ((if_neg (ne_false_of_eq_true hc)).trans (setRoot_of_none (s := s.quiet) ho)))
  · exact live_adminAnswered (i := .asSetRoot p) rfl hl hh ((asSetRoot_eq (s := s.quiet) hh).trans
      ((if_neg (ne_false_of_eq_true hc)).trans ((setRoot_of_own (s := s.quiet) ho).trans (if_pos (by simp [hr])))))
  · have hx := live_next (i := .asSetRoot p) rfl hl ((asSetRoot_eq (s := s.quiet) hh).trans
      ((if_neg (ne_false_of_eq_true hc)).trans ((setRoot_of_own (s := s.quiet) ho).trans (if_neg (by simp [hr])))))
    exact ⟨_, _, hx, putSpace_space .., (Frame.quiet s).trans (putSpace_adds ..).1, rfl⟩
  · exact live_adminAnswered (i := .asDestroy p) rfl hl hh ((asDestroy_eq (s := s.quiet) hh).trans (if_pos hc))
  · exact live_adminAnswered (i := .asDestroy p) rfl hl hh ((asDestroy_eq (s := s.quiet) hh).trans
      ((if_neg (ne_false_of_eq_true hc)).trans (destroySpace_of_none (s := s.quiet) ho)))
  · exact live_adminAnswered (i := .asDestroy p) rfl hl hh ((asDestroy_eq (s := s.quiet) hh).trans
      ((if_neg (ne_false_of_eq_true hc)).trans ((destroySpace_of_own (s := s.quiet) ho).trans (if_pos hq))))
  · exact asDestroy_next hl hh hc ho hq hw
  · exact live_adminAnswered (i := .inval p) rfl hl hh ((inval_eq (s := s.quiet) hh).trans (if_pos hc))
  · exact live_adminAnswered (i := .inval p) rfl hl hh ((inval_eq (s := s.quiet) hh).trans
      ((if_neg (ne_false_of_eq_true hc)).trans (invalSpace_of_none (s := s.quiet) ho)))
  · exact ⟨_, live_next (i := .inval p) rfl hl ((inval_of_own (s := s.quiet) hh hc ho).trans (if_pos ha)), rfl⟩
  · exact live_adminAnswered (i := .inval p) rfl hl hh ((inval_of_own (s := s.quiet) hh hc ho).trans
      ((if_neg (ne_true_of_eq_false ha)).trans (if_pos hn)))
  · exact live_adminAnswered (i := .inval p) rfl hl hh ((inval_of_own (s := s.quiet) hh hc ho).trans
      ((if_neg (ne_true_of_eq_false ha)).trans ((if_neg hn).trans (if_pos hm))))
  · exact ⟨_, live_next (i := .inval p) rfl hl ((inval_of_own (s := s.quiet) hh hc ho).trans
      ((if_neg (ne_true_of_eq_false ha)).trans ((if_neg hn).trans (if_neg (by simp [hb, hn']))))), rfl⟩
  · refine ⟨beginInval_busy .., ?_⟩
    rw [beginInval_xlt hw]
    exact ⟨fun e => keptEntries_inRange, fun b e => keptSets_inRange, fun k e => keptSets_inRange,
      fun e he => by simpa using (List.mem_filter.1 he).2, fun e => cutWalks_stale,
      ⟨_, List.mem_append_right _ (List.mem_singleton.2 rfl), rfl, rfl, rfl⟩, (beginInval_adds hw ..).1⟩
  · exact live_idles (c := .invalAck e) rfl hl (invalAck_of_none (s := s.quiet) h)
  · exact live_idles (c := .invalAck e) rfl hl (invalAck_of_draining (s := s.quiet) h hd)

end Sys2Proof.Machine

/-! PROOFS. Walks, table entries, faults, their rings, responses and timeout (R462 to R474, R477, R481). -/

namespace Sys2Proof.Machine

/-! Table entries (R462, R464). -/

section
variable {a : AddrSpace} {lvl : Nat} {wr : Bool} {e : W64}

/-- An Sv entry's reserved bits are clear, and it is not writable without being readable. -/
def svSound (e : W64) : Prop := e.getLsbD 63 = false ∧ e.extractLsb' 54 7 = 0#7 ∧ (e.getLsbD 2 = true → e.getLsbD 1 = true)

/-- An Sv entry is a leaf. -/
def svLeaf (e : W64) : Prop := e.getLsbD 1 = true ∨ e.getLsbD 2 = true ∨ e.getLsbD 3 = true

/-- The physical page number of an Sv entry. -/
def svPpn (e : W64) : Nat := (e.extractLsb' 10 44).toNat

theorem svSound_iff : (e.getLsbD 63 || e.extractLsb' 54 7 != 0#7 || (e.getLsbD 2 && !e.getLsbD 1)) = true ↔ ¬ svSound e := by
  simp only [svSound, Bool.or_eq_true, Bool.and_eq_true, bne_iff_ne, Bool.not_eq_true', not_and_or, Bool.not_eq_false, Classical.not_imp,
    Bool.not_eq_true, or_assoc, ne_eq]

theorem svLeaf_iff : (e.getLsbD 1 || e.getLsbD 2 || e.getLsbD 3) = true ↔ svLeaf e := by
  simp only [svLeaf, Bool.or_eq_true, or_assoc]

/-- What a valid and sound leaf says. -/
def svLeafStep (a : AddrSpace) (lvl : Nat) (wr : Bool) (e : W64) : WalkStep :=
  if 30 < a.lo lvl ∨ svPpn e % 2 ^ (a.lo lvl - 12) ≠ 0 then .fault .badEntry
  else if a.requireU && !e.getLsbD 4 then .fault .user
  else if !e.getLsbD 1 then .fault .noRead
  else if wr && !e.getLsbD 2 then .fault .noWrite
  else if !e.getLsbD 6 || (wr && !e.getLsbD 7) then .fault .accessFlag
  else .leaf (svPpn e * 4096) (a.lo lvl) (e.getLsbD 1) (e.getLsbD 2) (e.getLsbD 7)

/-- What a valid and sound entry that is not a leaf says. -/
def svTableStep (a : AddrSpace) (lvl : Nat) (e : W64) : WalkStep :=
  if e.getLsbD 6 || e.getLsbD 7 || e.getLsbD 4 || lvl + 1 == svLevels a.mode then .fault .badEntry else .next (svPpn e * 4096)

theorem svEntry_eq : svEntry a lvl wr e =
    if !e.getLsbD 0 then .fault .notValid
    else if e.getLsbD 63 || e.extractLsb' 54 7 != 0#7 || (e.getLsbD 2 && !e.getLsbD 1) then .fault .badEntry
    else if e.getLsbD 1 || e.getLsbD 2 || e.getLsbD 3 then svLeafStep a lvl wr e
    else svTableStep a lvl e := rfl

section
variable (hr : a.radix = none)
include hr

theorem readEntry_sv : a.readEntry lvl wr e = svEntry a lvl wr e := by
  simp only [AddrSpace.readEntry, hr]

theorem readEntry_invalid (hv : e.getLsbD 0 = false) : a.readEntry lvl wr e = .fault .notValid := by
  rw [readEntry_sv hr, svEntry_eq, hv]
  rfl

theorem readEntry_unsound (hv : e.getLsbD 0 = true) (hs : ¬ svSound e) : a.readEntry lvl wr e = .fault .badEntry := by
  rw [readEntry_sv hr, svEntry_eq, hv, svSound_iff.2 hs]
  rfl

theorem readEntry_leaf (hv : e.getLsbD 0 = true) (hs : svSound e) (hl : svLeaf e) : a.readEntry lvl wr e = svLeafStep a lvl wr e := by
  rw [readEntry_sv hr, svEntry_eq, hv]
  exact (if_neg (by simp)).trans ((if_neg (fun h => svSound_iff.1 h hs)).trans (if_pos (svLeaf_iff.2 hl)))

theorem readEntry_table (hv : e.getLsbD 0 = true) (hs : svSound e) (hl : ¬ svLeaf e) : a.readEntry lvl wr e = svTableStep a lvl e := by
  rw [readEntry_sv hr, svEntry_eq, hv]
  exact (if_neg (by simp)).trans ((if_neg (fun h => svSound_iff.1 h hs)).trans (if_neg (fun h => hl (svLeaf_iff.1 h))))

theorem lo_of_sv (lvl : Nat) : 12 ≤ a.lo lvl := by
  simp only [AddrSpace.lo, hr]
  omega

end

/-- A leaf's page is aligned to its size, and the leaf permits the access that it was read for. -/
structure LeafFits (wr : Bool) (page size : Nat) (r w d : Bool) : Prop where
  aligned : page % 2 ^ size = 0
  permits : (if wr then w && d else r) = true

theorem svLeafStep_fits {page size : Nat} {r w d : Bool} (hlo : 12 ≤ a.lo lvl) (h : svLeafStep a lvl wr e = .leaf page size r w d) :
    LeafFits wr page size r w d := by
  unfold svLeafStep at h
  split at h
  · cases h
  next hp =>
    split at h
    · cases h
    split at h
    · cases h
    next h1 =>
      split at h
      · cases h
      next h2 =>
        split at h
        · cases h
        next h3 =>
          cases h
          obtain ⟨-, hp⟩ := not_or.1 hp
          refine ⟨?_, ?_⟩
          · have h12 : 2 ^ a.lo lvl = 2 ^ (a.lo lvl - 12) * 4096 := by
              rw [show (4096 : Nat) = 2 ^ 12 from rfl, ← Nat.pow_add, Nat.sub_add_cancel hlo]
            rw [h12, Nat.mul_mod_mul_right, not_not.1 hp, Nat.zero_mul]
          · cases wr <;> simp_all

/-- The physical address that a radix entry holds. -/
def radixField (x : Radix) (e : W64) : Nat := bitsOf e.toNat x.addrHi x.addrLo * 2 ^ x.addrShift

/-- A radix entry is a leaf. -/
def radixLast (x : Radix) (lvl : Nat) (e : W64) : Bool :=
  lvl + 1 == x.levels || (x.leafBit != 0xFF && (if e.getLsbD x.leafBit then 1 else 0) == x.leafVal)

/-- A radix leaf permits writes. -/
def radixCanWrite (x : Radix) (e : W64) : Bool := (if e.getLsbD x.writeBit then 1 else 0) == x.writeVal

/-- What a valid radix leaf says. -/
def radixLeafStep (x : Radix) (lo : Nat) (wr : Bool) (e : W64) : WalkStep :=
  if lo ≠ 12 ∧ lo ≠ 21 ∧ lo ≠ 30 then .fault .badEntry
  else if radixField x e % 2 ^ lo ≠ 0 then .fault .badEntry
  else if x.accessBit != 0xFF && !e.getLsbD x.accessBit then .fault .accessFlag
  else if wr && !radixCanWrite x e then .fault .noWrite
  else .leaf (radixField x e) lo true (radixCanWrite x e) true

theorem radixEntry_eq (x : Radix) : radixEntry x lvl wr e =
    if !e.getLsbD x.validBit then .fault .notValid
    else if radixLast x lvl e then radixLeafStep x (x.idxLo.getD lvl 0) wr e
    else .next (radixField x e) := rfl

theorem radixLeafStep_fits {x : Radix} {lo page size : Nat} {r w d : Bool} (h : radixLeafStep x lo wr e = .leaf page size r w d) :
    LeafFits wr page size r w d := by
  unfold radixLeafStep at h
  split at h
  · cases h
  split at h
  · cases h
  next hp =>
    split at h
    · cases h
    split at h
    · cases h
    next hw =>
      cases h
      exact ⟨not_not.1 hp, by cases wr <;> simp_all⟩

theorem radixEntry_fits {x : Radix} {page size : Nat} {r w d : Bool} (h : radixEntry x lvl wr e = .leaf page size r w d) :
    LeafFits wr page size r w d := by
  rw [radixEntry_eq] at h
  split at h
  · cases h
  split at h
  · exact radixLeafStep_fits h
  · cases h

theorem readEntry_fits {page size : Nat} {r w d : Bool} (h : a.readEntry lvl wr e = .leaf page size r w d) : LeafFits wr page size r w d := by
  cases hr : a.radix with
  | some x =>
    simp only [AddrSpace.readEntry, hr] at h
    exact radixEntry_fits h
  | none =>
    rw [readEntry_sv hr, svEntry_eq] at h
    split at h
    · cases h
    split at h
    · cases h
    split at h
    · exact svLeafStep_fits (lo_of_sv hr lvl) h
    · unfold svTableStep at h
      split at h
      · cases h
      · cases h

end

/-! The TLBs (R466, R467). -/

theorem tlbTouch_head (l : List TlbEntry) (e : TlbEntry) : ∃ m, tlbTouch l e = e :: m := ⟨_, rfl⟩

/-- A TLB once an entry has been put first, in place of any of the same page. -/
def State.tlbFilled (s : State) (b : Option BlockId) (e : TlbEntry) : List TlbEntry :=
  tlbTouch ((s.tlb b).filter (fun x => !(x.asid == e.asid && x.size == e.size && x.vpage == e.vpage))) e

theorem tlbFill_tlb_same (s : State) (b : Option BlockId) (e : TlbEntry) : (s.tlbFill b e).tlb b = s.tlbFilled b e := by
  cases b with
  | none => rfl
  | some b => exact mget_mset_same [] s.xlt.blockTlb b.val (s.tlbFilled (some b) e)

theorem tlbFilled_head (s : State) (b : Option BlockId) (e : TlbEntry) : ∃ m, s.tlbFilled b e = e :: m := tlbTouch_head ..

theorem tlbFilled_ne (s : State) (b : Option BlockId) (e : TlbEntry) : s.tlbFilled b e ≠ [] := by
  obtain ⟨m, hm⟩ := tlbFilled_head s b e
  exact hm ▸ List.cons_ne_nil e m

theorem tlbFill_tlb_other (s : State) {b c : Option BlockId} (h : c ≠ b) (e : TlbEntry) : (s.tlbFill b e).tlb c = s.tlb c := by
  cases b with
  | none => cases c with
    | none => exact absurd rfl h
    | some c => rfl
  | some b => cases c with
    | none => rfl
    | some c => exact mget_mset_ne [] s.xlt.blockTlb (tlbFilled_ne s (some b) e) (fun k => h (congrArg some (Fin.ext k)))

theorem tlbFill_adds (s : State) (b : Option BlockId) (e : TlbEntry) : Adds [.xlt] s (s.tlbFill b e) := by
  cases b with
  | none => exact adds_xlt s _
  | some b => exact adds_xlt s _

theorem tlbFill_walks (s : State) (b : Option BlockId) (e : TlbEntry) :
    (s.tlbFill b e).xlt.walks = s.xlt.walks ∧ (s.tlbFill b e).xlt.waiting = s.xlt.waiting := by
  cases b <;> exact ⟨rfl, rfl⟩

/-- An entry is put first in each of the TLBs bs. -/
def State.fillTlbs (s : State) (bs : List (Option BlockId)) (e : TlbEntry) : State := bs.foldl (fun st b => st.tlbFill b e) s

section
variable (bs : List (Option BlockId)) (e : TlbEntry)

theorem fillTlbs_adds (s : State) : Adds [.xlt] s (s.fillTlbs bs e) := Adds.foldl (fun st b => tlbFill_adds st b e) bs s

theorem fillTlbs_walks (s : State) : (s.fillTlbs bs e).xlt.walks = s.xlt.walks ∧ (s.fillTlbs bs e).xlt.waiting = s.xlt.waiting := by
  induction bs generalizing s with
  | nil => exact ⟨rfl, rfl⟩
  | cons b bs ih =>
    obtain ⟨h1, h2⟩ := ih (s.tlbFill b e)
    obtain ⟨k1, k2⟩ := tlbFill_walks s b e
    exact ⟨h1.trans k1, h2.trans k2⟩

theorem fillTlbs_tlb_head {s : State} {b : Option BlockId} (h : b ∈ bs ∨ ∃ m, s.tlb b = e :: m) : ∃ m, (s.fillTlbs bs e).tlb b = e :: m := by
  induction bs generalizing s with
  | nil => exact h.resolve_left List.not_mem_nil
  | cons c bs ih =>
    refine ih ?_
    by_cases hc : b = c
    · subst hc
      exact .inr (tlbFill_tlb_same s b e ▸ tlbFilled_head s b e)
    · refine h.imp (fun hb => (List.mem_cons.1 hb).resolve_left hc) (fun hm => ?_)
      rwa [tlbFill_tlb_other s hc e]

end

theorem chipFill_tlb (s : State) (e : TlbEntry) (b : Option BlockId) : (s.chipFill e).tlb b = s.tlb b := by
  cases b <;> rfl

theorem chipFill_adds (s : State) (e : TlbEntry) : Adds [.xlt] s (s.chipFill e) := adds_xlt s _

theorem endWalk_adds (s : State) (n : Nat) : Adds [.xlt] s (s.endWalk n) := adds_xlt s _

theorem endWalk_tlb (s : State) (n : Nat) (b : Option BlockId) : (s.endWalk n).tlb b = s.tlb b := by
  cases b <;> rfl

theorem fillAll_eq (s : State) (w : Walk) (e : TlbEntry) :
    s.fillAll w e = (s.chipFill e).fillTlbs ((w.block :: w.units.map s.unitTlb).eraseDups) e := rfl

theorem fillAll_adds (s : State) (w : Walk) (e : TlbEntry) : Adds [.xlt] s (s.fillAll w e) :=
  (chipFill_adds s e).trans (fillTlbs_adds ..)

theorem fillAll_walks (s : State) (w : Walk) (e : TlbEntry) :
    (s.fillAll w e).xlt.walks = s.xlt.walks ∧ (s.fillAll w e).xlt.waiting = s.xlt.waiting := fillTlbs_walks _ _ (s.chipFill e)

theorem fillAll_tlb_head (s : State) (w : Walk) (e : TlbEntry) : ∃ m, (s.fillAll w e).tlb w.block = e :: m :=
  fillTlbs_tlb_head _ e (.inl (List.mem_eraseDups.2 List.mem_cons_self))

/-- The entry that a leaf makes for a walk. -/
def leafEntry (w : Walk) (page size : Nat) (r wr d : Bool) : TlbEntry :=
  { asid := w.asid, vpage := w.va / 2 ^ size, size := size, ppage := page / 2 ^ size, r := r, w := wr, d := d }

theorem leafEntry_phys {w : Walk} {page size : Nat} {r wr d : Bool} (h : page % 2 ^ size = 0) :
    (leafEntry w page size r wr d).phys w.va = page + w.va % 2 ^ size := by
  show page / 2 ^ size * 2 ^ size + w.va % 2 ^ size = _
  rw [Nat.div_mul_cancel (Nat.dvd_of_mod_eq_zero h)]

theorem xltNow_of_head {s : State} {b : Option BlockId} {e : TlbEntry} {m : List TlbEntry} (h : s.tlb b = e :: m) {asid : BitVec 20} {va : Nat}
    {write : Bool} (hc : e.covers asid va = true) (hp : e.permits write = true) : s.xltNow b asid va write = some (e.phys va) := by
  simp only [State.xltNow, h, List.find?_cons, hc, hp, Bool.and_self]

/-! A walk's read (R465 to R468, R471). -/

theorem pumpUnits_of_none {us : List XltUnit} (h : ∀ x n lc b, x ∈ us → x ≠ .copySet n lc b) (s : State) : s.pumpUnits us = s :=
  foldl_of_mem fun x hx => by
    cases x with
    | copySet n lc b => exact absurd rfl (h _ n lc b hx)
    | _ => rfl

/-- A walk goes on to its next table. -/
def Walk.descended (w : Walk) (pa : Nat) : Walk := { w with level := w.level + 1, pa := pa }

/-- The device once walk n has gone on to its next table, which the walk cache keeps unless the walk is cut off. -/
def State.walkNext (s : State) (n : Nat) (w : Walk) (a : AddrSpace) (pa : Nat) : State :=
  let e : WalkCacheEntry := ⟨w.asid, w.level + 1, w.va / 2 ^ a.lo w.level, pa⟩
  { s with xlt := { s.xlt with
      walks := tput s.xlt.walks n (w.descended pa)
      walkCache := if w.stale then s.xlt.walkCache else (e :: s.xlt.walkCache.filter (· != e)).take 1024 } }

/-- The caches take a walk's entry: none of a walk that is cut off, the chip TLB alone that of a prefetch walk. -/
def State.walkFill (s : State) (w : Walk) (e : TlbEntry) : State :=
  if w.stale then s else if w.prefetch then s.chipFill e else s.fillAll w e

/-- What a walk's failed read reports. -/
def walkErrReport (w : Walk) (a : AddrSpace) : Report :=
  mkReport 0x07 0x02 0 (match w.block with
    | some b => unitBlock b
    | none => unitQueue) w.asid.toNat (a.entryAddr w.level w.pa w.va)

section
variable {u : State} {n : Nat} {w : Walk} {a : AddrSpace} {entry : W64} (hw : tget u.xlt.walks n = some w) (hs : u.space w.asid = some a)
include hw hs

theorem walkReturn_next {pa : Nat} (hr : a.readEntry w.level w.write entry = .next pa) :
    u.walkReturn n entry false = (u.walkNext n w a pa).walkRead n (w.descended pa) a := by
  simp only [State.walkReturn, hw, hs, hr] <;> rfl

theorem walkReturn_leaf {page size : Nat} {r wr d : Bool} (hr : a.readEntry w.level w.write entry = .leaf page size r wr d) :
    u.walkReturn n entry false = (((u.endWalk n).walkFill w (leafEntry w page size r wr d)).startWaiting 64).pumpUnits w.units := by
  simp only [State.walkReturn, hw, hs, hr] <;> rfl

theorem walkReturn_fault {c : XltCause} (hr : a.readEntry w.level w.write entry = .fault c) : u.walkReturn n entry false =
    if w.stale then ((u.endWalk n).startWaiting 64).pumpUnits w.units
    else (if w.prefetch then u.endWalk n else (u.endWalk n).faultWalk w w.level (a.entryAddr w.level w.pa w.va) c).startWaiting 64 := by
  simp only [State.walkReturn, hw, hs, hr] <;> rfl

theorem walkReturn_err (hst : w.stale = false) (hp : w.prefetch = false) :
    u.walkReturn n entry true = (u.raise (walkErrReport w a)).walkFail n stHostMem := by
  simp only [State.walkReturn, hw, hs, hst, hp] <;> rfl

end

theorem walkNext_adds (s : State) (n : Nat) (w : Walk) (a : AddrSpace) (pa : Nat) : Adds [.xlt] s (s.walkNext n w a pa) := adds_xlt s _

theorem walkNext_walk (s : State) (n : Nat) (w : Walk) (a : AddrSpace) (pa : Nat) :
    tget (s.walkNext n w a pa).xlt.walks n = some (w.descended pa) := tget_tput_same ..

theorem walkFill_adds (s : State) (w : Walk) (e : TlbEntry) : Adds [.xlt] s (s.walkFill w e) := by
  unfold State.walkFill
  split
  · exact Adds.rfl s
  split
  · exact chipFill_adds ..
  · exact fillAll_adds ..

theorem walkFill_walks (s : State) (w : Walk) (e : TlbEntry) :
    (s.walkFill w e).xlt.walks = s.xlt.walks ∧ (s.walkFill w e).xlt.waiting = s.xlt.waiting := by
  unfold State.walkFill
  split
  · exact ⟨rfl, rfl⟩
  split
  · exact ⟨rfl, rfl⟩
  · exact fillAll_walks ..

theorem walkFill_tlb_of_cut {w : Walk} (h : w.stale = true ∨ w.prefetch = true) (s : State) (e : TlbEntry) (b : Option BlockId) :
    (s.walkFill w e).tlb b = s.tlb b := by
  unfold State.walkFill
  split
  · rfl
  next hs =>
    rw [if_pos (h.resolve_left hs)]
    exact chipFill_tlb ..

theorem walkFill_of_demand {w : Walk} (hs : w.stale = false) (hp : w.prefetch = false) (s : State) (e : TlbEntry) :
    s.walkFill w e = s.fillAll w e := by
  rw [State.walkFill, hs, hp]
  rfl

section
variable {u : State} {n : Nat} {w : Walk} {a : AddrSpace} {entry : W64} (hw : tget u.xlt.walks n = some w) (hs : u.space w.asid = some a)
  (hwait : u.xlt.waiting = []) (hcopy : ∀ x n lc b, x ∈ w.units → x ≠ .copySet n lc b)
include hw hs hwait hcopy

/-- Where nothing waits for the walk's slot, and no copy for the walk, a leaf goes into the caches and the walk is over. -/
theorem walkReturn_leaf_alone {page size : Nat} {r wr d : Bool} (hr : a.readEntry w.level w.write entry = .leaf page size r wr d) :
    u.walkReturn n entry false = (u.endWalk n).walkFill w (leafEntry w page size r wr d) := by
  have hnone : ((u.endWalk n).walkFill w (leafEntry w page size r wr d)).xlt.waiting = [] := (walkFill_walks ..).2.trans hwait
  rw [walkReturn_leaf hw hs hr, startWaiting_of_none hnone, pumpUnits_of_none hcopy]

theorem walkReturn_demand {page size : Nat} {r wr d : Bool} (hr : a.readEntry w.level w.write entry = .leaf page size r wr d)
    (hst : w.stale = false) (hp : w.prefetch = false) :
    (u.walkReturn n entry false).xltNow w.block w.asid w.va w.write = some (page + w.va % 2 ^ size) ∧
      tget (u.walkReturn n entry false).xlt.walks n = none ∧ Frame [.xlt] u (u.walkReturn n entry false) := by
  obtain ⟨halign, hperm⟩ := readEntry_fits hr
  rw [walkReturn_leaf_alone hw hs hwait hcopy hr, walkFill_of_demand hst hp]
  obtain ⟨m, hm⟩ := fillAll_tlb_head (u.endWalk n) w (leafEntry w page size r wr d)
  refine ⟨?_, ?_, ((endWalk_adds u n).trans (fillAll_adds ..)).1⟩
  · rw [xltNow_of_head hm (by simp [TlbEntry.covers, leafEntry]) hperm, leafEntry_phys halign]
  · rw [(fillAll_walks ..).1]
    exact tget_tdel_same ..

/-- A walk that is cut off, or that nothing asked for, changes no first-level TLB. -/
theorem walkReturn_cut (hst : w.stale = true ∨ w.prefetch = true) (hn : ∀ pa, a.readEntry w.level w.write entry ≠ .next pa) :
    (u.walkReturn n entry false).tlb w.block = u.tlb w.block ∧ Frame [.xlt] u (u.walkReturn n entry false) := by
  have hend : (u.endWalk n).startWaiting 64 = u.endWalk n := startWaiting_of_none (by exact hwait) 64
  cases hr : a.readEntry w.level w.write entry with
  | next pa => exact absurd hr (hn pa)
  | leaf page size r wr d =>
    rw [walkReturn_leaf_alone hw hs hwait hcopy hr]
    exact ⟨(walkFill_tlb_of_cut hst ..).trans (endWalk_tlb ..), ((endWalk_adds u n).trans (walkFill_adds ..)).1⟩
  | fault c =>
    have he : u.walkReturn n entry false = u.endWalk n := by
      rw [walkReturn_fault hw hs hr]
      split
      · rw [hend, pumpUnits_of_none hcopy]
      next hns => rw [if_pos (hst.resolve_left hns), hend]
    rw [he]
    exact ⟨endWalk_tlb .., (endWalk_adds u n).1⟩

end

/-- Where every unit waits for the walk's own kind of access, all of them take the fault. -/
theorem faultWalk_of_alike {w : Walk} (hne : w.units ≠ []) (h : ∀ x, x ∈ w.units → x.writes = w.write) (s : State) (lvl ea : Nat) (c : XltCause) :
    s.faultWalk w lvl ea c = s.raiseFault w lvl ea c := by
  have hother : (w.unitsOf !w.write) = [] := List.filter_eq_nil_iff.2 (fun x hx => by simp [h x hx])
  have hown : w.unitsOf w.write = w.units := List.filter_eq_self.2 (fun x hx => by simp [h x hx])
  rw [State.faultWalk, hother, List.foldl_nil, State.raiseFor, hown]
  exact if_neg (by simpa using hne)

/-! The fault rings (R471 to R473, R481). -/

/-- Port p's fault ring. -/
def State.faultRing (s : State) (p : PlPort) : FaultRing := mget FaultRing.reset s.xlt.rings p.val

section
variable {s : State} {p : PlPort} {d : Desc}

/-- FAULT_RING_SET carries the reserved bits and the vector as they are to be. -/
def ringClean (d : Desc) : Bool := descClean d [(16, 8), (24, 1), (26, 2)] && (descField d 26 2 == 0xFFFF || decide (descField d 26 2 < 2 ^ 11))

theorem ringClean_eq_false : ringClean d = false ↔
    (!descClean d [(16, 8), (24, 1), (26, 2)]) = true ∨ (descField d 26 2 ≠ 0xFFFF ∧ 2 ^ 11 ≤ descField d 26 2) := by
  simp only [ringClean, Bool.and_eq_false_iff, Bool.or_eq_false_iff, Bool.not_eq_true', decide_eq_false_iff_not, Nat.not_lt,
    beq_eq_false_iff_ne, ne_eq]

/-- The ring that FAULT_RING_SET sets up: empty. -/
def ringOf (d : Desc) : FaultRing :=
  { addr := some (d.extractLsb' 128 64), log := descField d 24 1, vector := BitVec.ofNat 16 (descField d 26 2), next := 0, phase := true,
    head := 0#12 }

/-- Port p's fault ring is r. -/
def State.putRing (s : State) (p : PlPort) (r : FaultRing) : State :=
  { s with xlt := { s.xlt with rings := mset FaultRing.reset s.xlt.rings p.val r } }

theorem putRing_adds (s : State) (p : PlPort) (r : FaultRing) : Adds [.xlt] s (s.putRing p r) := adds_xlt s _

theorem putRing_faultRing (s : State) (p : PlPort) (r : FaultRing) : (s.putRing p r).faultRing p = r := mget_mset_same ..

/-- FAULT_RING_SET of a well-formed command. -/
def State.setFaultRing (s : State) (p : PlPort) (d : Desc) : State :=
  if descField d 24 1 < 4 ∨ 12 < descField d 24 1 then s.adminDone p stBadSize 0#64
  else if (d.extractLsb' 128 64).toNat % 4096 ≠ 0 then s.adminDone p stAlign 0#64
  else if s.xlt.faults.any (fun f => f.port == p) then s.adminDone p stAsBusy 0#64
  else (s.putRing p (ringOf d)).adminDone p stOk 0#64

theorem faultRingSet_eq (hh : s.adminHead p 0x74#8 = some d) : faultRingSet p s =
    if ringClean d = false then s.adminDone p stBadDesc 0#64 else s.setFaultRing p d := by
  unfold faultRingSet
  rw [hh]
  exact if_congr ringClean_eq_false.symm rfl rfl

theorem faultHeadWrite_ring (p : PlPort) (v : BitVec 12) (s : State) :
    (faultHeadWrite p v s).faultRing p = { s.faultRing p with head := v } := mget_mset_same ..

theorem faultHeadWrite_adds (p : PlPort) (v : BitVec 12) (s : State) : Adds [.xlt] s (faultHeadWrite p v s) := adds_xlt s _

/-- The oldest fault of port p whose record waits. -/
def State.recordWaits (s : State) (p : PlPort) : Option FaultEntry := s.xlt.faults.find? (fun f => f.port == p && !f.written)

/-- Port p's ring takes no record now: it is full, or the port is not the active one. -/
def State.ringFull (s : State) (p : PlPort) : Prop :=
  ((s.faultRing p).next + 1) % 2 ^ (s.faultRing p).log = (s.faultRing p).head.toNat ∨ p ≠ s.que.active

/-- The ring once its next entry is taken. -/
def FaultRing.taken (r : FaultRing) : FaultRing :=
  { r with next := (r.next + 1) % 2 ^ r.log, phase := r.phase != decide (r.next + 1 = 2 ^ r.log) }

/-- The device once a fault's record has taken its ring's next entry. -/
def State.recordTaken (s : State) (p : PlPort) (f : FaultEntry) : State :=
  { s with xlt := { s.xlt with
      rings := mset FaultRing.reset s.xlt.rings p.val (s.faultRing p).taken
      faults := s.xlt.faults.map (fun g => if g.id = f.id then { g with written := true } else g) } }

theorem faultRecordWrite_of_none (h : s.recordWaits p = none) : faultRecordWrite p s = s := by
  unfold State.recordWaits at h
  simp only [faultRecordWrite, h]

theorem faultRecordWrite_of_no_ring (h : (s.faultRing p).addr = none) : faultRecordWrite p s = s := by
  unfold State.faultRing at h
  unfold faultRecordWrite
  extract_lets r
  split
  next f a _ ha => exact absurd (h.symm.trans ha) (Option.some_ne_none a).symm
  next => rfl

theorem faultRecordWrite_of_full (h : s.ringFull p) : faultRecordWrite p s = s := by
  unfold faultRecordWrite
  extract_lets r
  split
  · exact if_pos h
  · rfl

theorem faultRecordWrite_of_room {f : FaultEntry} {a : W64} (hf : s.recordWaits p = some f) (ha : (s.faultRing p).addr = some a)
    (hr : ¬ s.ringFull p) : faultRecordWrite p s = (s.recordTaken p f).issueHost p
      (smallWrite hostEp 0#10 0#2 (a.toNat + 32 * (s.faultRing p).next)
        (f.record.take 31 ++ [if (s.faultRing p).phase then 1#8 else 0#8])) vcReq (.faultRecord p) := by
  unfold faultRecordWrite
  extract_lets r
  split
  next g b hg hb =>
    obtain rfl := Option.some.inj (hf.symm.trans hg)
    obtain rfl := Option.some.inj (ha.symm.trans hb)
    exact if_neg hr
  next h => exact (h f a hf ha).elim

theorem mem_recordTaken {f : FaultEntry} (hf : s.recordWaits p = some f) : { f with written := true } ∈ (s.recordTaken p f).xlt.faults :=
  List.mem_map.2 ⟨f, List.mem_of_find?_eq_some hf, if_pos rfl⟩

theorem recordTaken_faultRing (s : State) (p : PlPort) (f : FaultEntry) : (s.recordTaken p f).faultRing p = (s.faultRing p).taken := mget_mset_same ..

theorem recordTaken_adds (s : State) (p : PlPort) (f : FaultEntry) : Adds [.xlt] s (s.recordTaken p f) := adds_xlt s _

/-! The end of a fault (R471, R474). -/

/-- FAULT_RESP carries the reserved bits and the answer as they are to be. -/
def respClean (d : Desc) : Bool := descClean d [(16, 2), (18, 1)] && decide (descField d 18 1 ≤ 1)

theorem respClean_eq_false : respClean d = false ↔ (!descClean d [(16, 2), (18, 1)]) = true ∨ 1 < descField d 18 1 := by
  simp only [respClean, Bool.and_eq_false_iff, Bool.not_eq_true', decide_eq_false_iff_not, Nat.not_le]

/-- The fault that FAULT_RESP names. -/
def State.faultNamed (s : State) (d : Desc) : Option FaultEntry := s.xlt.faults.find? (fun f => f.id.toNat == descField d 16 2)

/-- FAULT_RESP of a well-formed command to a fault. -/
def State.answerFault (s : State) (d : Desc) (f : FaultEntry) : State :=
  if descField d 18 1 = 0 then (s.freeFault f.id).pumpUnits f.units else s.failFault f stXltFault

/-- FAULT_RESP of a well-formed command. -/
def State.respond (s : State) (p : PlPort) (d : Desc) : State :=
  match s.faultNamed d with
  | none => s.adminDone p stNoFault 0#64
  | some f => (s.answerFault d f).adminDone p stOk 0#64

theorem faultResp_eq (hh : s.adminHead p 0x75#8 = some d) : faultResp p s =
    if respClean d = false then s.adminDone p stBadDesc 0#64 else s.respond p d := by
  unfold faultResp
  rw [hh]
  exact if_congr respClean_eq_false.symm rfl rfl

theorem faultResp_of_none (hh : s.adminHead p 0x75#8 = some d) (hc : respClean d = true) (h : s.faultNamed d = none) :
    faultResp p s = s.adminDone p stNoFault 0#64 := by
  rw [faultResp_eq hh, if_neg (ne_false_of_eq_true hc)]
  simp only [State.respond, h]

theorem faultResp_of_named {f : FaultEntry} (hh : s.adminHead p 0x75#8 = some d) (hc : respClean d = true) (h : s.faultNamed d = some f) :
    faultResp p s = (s.answerFault d f).adminDone p stOk 0#64 := by
  rw [faultResp_eq hh, if_neg (ne_false_of_eq_true hc)]
  simp only [State.respond, h]

end

theorem freeFault_of_none {s : State} (h : s.xlt.tableWaiters = []) (id : BitVec 16) :
    s.freeFault id = { s with xlt := { s.xlt with faults := s.xlt.faults.filter (fun f => f.id != id) } } := by
  simp only [State.freeFault, h]

/-- The record of a queue pair that has gone to ERROR. -/
def queErrorRec (cause : Nat) : Rec :=
  { value := BitVec.ofNat 64 cause, csn := 0#48, tileStatus := 0#16, cmdId := 0xFFFF#16, status := stQueError, outcome := none,
    cause := none, verdict := false, held := none, intr := false }

theorem queueRec_qp_state {s : State} {q : Qp} {x : QPair} (hq : s.qp q = some x) {r : Rec} (hr : r.held = none) :
    ∃ y, (s.queueRec q r).qp q = some y ∧ y.state = x.state := by
  cases hd : x.drops with
  | false => exact ⟨{ x with recs := x.recs ++ [r] }, by rw [queueRec_of_kept hq hd, setQp_qp_same], rfl⟩
  | true =>
    refine ⟨x, ?_, rfl⟩
    simp only [State.queueRec, hq, hd, hr, if_true, tally_qp]

theorem qpError_of_active {s : State} {q : Qp} {x : QPair} (hq : s.qp q = some x) (ha : x.state = .active) (cause : Nat) :
    s.qpError q cause = ((s.setQp q { x with state := .error }).queueRec q (queErrorRec cause)).raise
      (mkReport 0x06 0x01 0 unitQueue q.val cause) := by
  simp only [State.qpError, hq]
  exact if_pos ha

/-- An active queue pair goes to ERROR, with its report. -/
theorem qpError_spec {s : State} {q : Qp} {x : QPair} (hq : s.qp q = some x) (ha : x.state = .active) (cause : Nat) :
    ∃ y, (s.qpError q cause).qp q = some y ∧ y.state = .error ∧ reported (s.qpError q cause) 0x06 0x01 0 unitQueue := by
  rw [qpError_of_active hq ha]
  obtain ⟨y, hy, hst⟩ := queueRec_qp_state (setQp_qp_same s q { x with state := .error }) (r := queErrorRec cause) rfl
  exact ⟨y, (qp_of_que ((raise_adds ..).same .que (by decide)) q).trans hy, hst, reported_raise ..⟩

theorem failFault_ring {s : State} {f : FaultEntry} {q : Qp} (hu : f.units = [.ring q]) (st : Status) :
    s.failFault f st = ((s.freeFault f.id).dropUnit (.ring q)).qpError q 3 := by
  rw [State.failFault, hu]
  rfl

/-- What the timeout of a fault reports. -/
def timeoutReport (f : FaultEntry) : Report :=
  mkReport 0x07 0x01 0 (BitVec.ofNat 16 (fieldAt f.record 26 2)) f.asid.toNat (f.page * 4096)

theorem faultTimeout_of_none {s : State} {id : BitVec 16} (h : s.xlt.faults.find? (fun f => f.id == id) = none) : faultTimeout id s = s := by
  simp only [faultTimeout, h]

theorem faultTimeout_of_some {s : State} {id : BitVec 16} {f : FaultEntry} (h : s.xlt.faults.find? (fun f => f.id == id) = some f) :
    faultTimeout id s = (s.raise (timeoutReport f)).failFault f stXltTimeout := by
  simp only [faultTimeout, h]
  rfl

/-- The request of a walk's read that is under way. -/
def State.walkReq (s : State) (w : Nat) : Option (Nat × DevReq) := s.rtr.reqs.find? (fun e => e.2.sent && e.2.owner == .walk w)

/-- The device once a request has ended. -/
def State.walkReqEnded (s : State) (k : Nat) : State := { s with rtr := { s.rtr with reqs := tdel s.rtr.reqs k } }

theorem walkReqEnded_adds (s : State) (k : Nat) : Adds [.rtr] s (s.walkReqEnded k) := adds_rtr s _

theorem walkReqEnded_req (s : State) (k : Nat) : tget (s.walkReqEnded k).rtr.reqs k = none := tget_tdel_same ..

theorem walkReadReturn_of_none {s : State} {w : Nat} (h : s.walkReq w = none) (entry : W64) (err : Bool) :
    walkReadReturn w entry err s = s := by
  unfold State.walkReq at h
  simp only [walkReadReturn, h]

theorem walkReadReturn_of_some {s : State} {w k : Nat} {r : DevReq} (h : s.walkReq w = some (k, r)) (entry : W64) (err : Bool) :
    walkReadReturn w entry err s = ((s.walkReqEnded k).launchNext r.dst).walkReturn w entry err := by
  unfold State.walkReq at h
  simp only [walkReadReturn, h]
  rfl

/-! The clauses. -/

section
variable {s : State} {p : PlPort} {d : Desc} (hl : s.live = true)
include hl

theorem faultRingSet_next (hh : s.adminHead p 0x74#8 = some d) (hc : ringClean d = true) (hlog : ¬ (descField d 24 1 < 4 ∨ 12 < descField d 24 1))
    (ha : (d.extractLsb' 128 64).toNat % 4096 = 0) (hf : s.xlt.faults.any (fun f => f.port == p) = false) :
    ∃ t, exec (.faultRingSet p) s = .next t ∧ adminAnswered t p d stOk 0#64 ∧ t.faultRing p = ringOf d ∧ Frame [.que, .xlt] s t := by
  obtain ⟨rest, hheld⟩ := adminHead_spec hh
  have hm : faultRingSet p s.quiet = (s.quiet.putRing p (ringOf d)).adminDone p stOk 0#64 :=
    (faultRingSet_eq (s := s.quiet) hh).trans ((if_neg (ne_false_of_eq_true hc)).trans ((if_neg hlog).trans
      ((if_neg (not_not.2 ha)).trans (if_neg (ne_true_of_eq_false hf)))))
  have had := adminDone_adds (s.quiet.putRing p (ringOf d)) p stOk 0#64
  obtain ⟨hx, hF⟩ := live_next_frame (i := .faultRingSet p) (ps := [.que, .xlt]) rfl hl hm
    (((putRing_adds ..).mono (by simp)).trans (had.mono (by simp))).1 (by decide)
  refine ⟨_, hx, adminDone_answered (s := s.quiet.putRing p (ringOf d)) hheld .., ?_, hF⟩
  unfold State.faultRing
  rw [had.same .xlt (by decide)]
  exact putRing_faultRing ..

theorem faultRecordWrite_next {f : FaultEntry} {a : W64} (hf : s.recordWaits p = some f) (ha : (s.faultRing p).addr = some a)
    (hr : ¬ s.ringFull p) : ∃ t u, exec (.faultRecordWrite p) s = .next t ∧ u.faultRing p = (s.faultRing p).taken ∧
      { f with written := true } ∈ u.xlt.faults ∧ Frame [.xlt] s u ∧ t = s.quiet.settle (u.issueHost p
        (smallWrite hostEp 0#10 0#2 (a.toNat + 32 * (s.faultRing p).next)
          (f.record.take 31 ++ [if (s.faultRing p).phase then 1#8 else 0#8])) vcReq (.faultRecord p)) :=
  ⟨_, s.quiet.recordTaken p f, live_next (i := .faultRecordWrite p) rfl hl (faultRecordWrite_of_room (s := s.quiet) hf ha hr),
    recordTaken_faultRing s.quiet p f, mem_recordTaken (s := s.quiet) hf, (Frame.quiet s).trans (recordTaken_adds s.quiet p f).1, rfl⟩

end

/-- A fault's end, with no walk waiting for its place in the table: the fault is gone, and the queue pair whose ring it held goes to ERROR. -/
theorem fault_ended {u : State} (f : FaultEntry) (st : Status) (h : u.xlt.tableWaiters = []) :
    (∀ g, g ∈ (u.freeFault f.id).xlt.faults → g.id ≠ f.id) ∧ Frame [.xlt] u (u.freeFault f.id) ∧
    (∀ q x, f.units = [.ring q] → u.qp q = some x → x.state = .active →
      ∃ y, (u.failFault f st).qp q = some y ∧ y.state = .error ∧ reported (u.failFault f st) 0x06 0x01 0 unitQueue) := by
  have hfree := freeFault_of_none h f.id
  refine ⟨fun g hg => ?_, ?_, fun q x hu hq ha => ?_⟩
  · rw [hfree] at hg
    simpa using (List.mem_filter.1 hg).2
  · rw [hfree]
    exact (adds_xlt u _).1
  · rw [failFault_ring hu]
    refine qpError_spec (x := x) ?_ ha 3
    rw [hfree]
    exact hq

/-- What a valid and sound Sv leaf in its place says, rule by rule. -/
theorem svLeafStep_rules (a : AddrSpace) (lvl : Nat) (wr : Bool) (e : W64) (hlo : a.lo lvl ≤ 30) (hp : svPpn e % 2 ^ (a.lo lvl - 12) = 0) :
    (a.requireU = true → e.getLsbD 4 = false → svLeafStep a lvl wr e = .fault .user) ∧
    ((a.requireU = true → e.getLsbD 4 = true) →
      (e.getLsbD 1 = false → svLeafStep a lvl wr e = .fault .noRead) ∧
      (e.getLsbD 1 = true → wr = true → e.getLsbD 2 = false → svLeafStep a lvl wr e = .fault .noWrite) ∧
      (e.getLsbD 1 = true → (wr = true → e.getLsbD 2 = true) →
        (e.getLsbD 6 = false ∨ (wr = true ∧ e.getLsbD 7 = false) → svLeafStep a lvl wr e = .fault .accessFlag) ∧
        (e.getLsbD 6 = true → (wr = true → e.getLsbD 7 = true) → svLeafStep a lvl wr e =
          .leaf (svPpn e * 4096) (a.lo lvl) (e.getLsbD 1) (e.getLsbD 2) (e.getLsbD 7)))) := by
  have hplace : ¬ (30 < a.lo lvl ∨ svPpn e % 2 ^ (a.lo lvl - 12) ≠ 0) := by
    rintro (h | h)
    · exact absurd hlo (Nat.not_le.2 h)
    · exact h hp
  rw [svLeafStep, if_neg hplace]
  refine ⟨fun hu h4 => if_pos (by rw [hu, h4]; rfl), fun hu => ?_⟩
  have huser : ¬ (a.requireU && !e.getLsbD 4) = true := by simpa using hu
  rw [if_neg huser]
  refine ⟨fun h1 => if_pos (by rw [h1]; rfl), fun h1 hw h2 => (if_neg (by rw [h1]; decide)).trans (if_pos (by rw [hw, h2]; rfl)),
    fun h1 h2 => ?_⟩
  have hwrite : ¬ (wr && !e.getLsbD 2) = true := by simpa using h2
  rw [if_neg (show ¬ (!e.getLsbD 1) = true by rw [h1]; decide), if_neg hwrite]
  refine ⟨fun h => if_pos (by simpa using h), fun h6 h7 => if_neg (by simpa [h6] using h7)⟩

/-- Settles O51: what an entry says is `svLeafStep` and `svTableStep`; a leaf that fits its walk is put first in the TLB that missed, and
the other commands are one equation each. -/
theorem walksAndFaults : Obligations.WalksAndFaults := by
  unfold Obligations.WalksAndFaults
  refine ⟨fun w entry err s hl => ⟨fun h => ?_, fun k r h => ?_⟩,
    fun u n w a entry hw hs => ⟨fun pa hr => ?_, fun page size r wr d hr hst hp hwait hcopy => ?_, fun c hr hst hp => ?_, fun c hne h => ?_,
      fun hst hwait hn hcopy => ?_, fun hst hp => ?_⟩,
    fun a lvl wr e hr => ?_,
    fun p s hl => ⟨fun h => ?_, fun h => ?_, fun v => ?_⟩,
    fun p d s hl hh => ⟨fun hc => ?_, fun hc hlog => ?_, fun hc h4 h12 => ⟨fun ha => ?_, fun ha hf => ?_, fun ha hf => ?_⟩⟩,
    fun p s hl => ⟨fun h => ?_, fun f a hf ha hr => ?_⟩,
    fun p d s hl hh => ⟨fun hc => ?_, fun hc h => ?_, fun f hc h => ⟨fun h0 => ?_, fun h1 => ?_⟩⟩,
    fun u f st h => fault_ended f st h,
    fun id s hl => ⟨fun h => ?_, fun f h => ?_⟩⟩
  · exact live_idles (c := .walkReadReturn w entry err) rfl hl (walkReadReturn_of_none (s := s.quiet) h entry err)
  · exact ⟨_, s.quiet.walkReqEnded k, live_next (i := .walkReadReturn w entry err) rfl hl (walkReadReturn_of_some (s := s.quiet) h entry err),
      walkReqEnded_req s.quiet k, (Frame.quiet s).trans (walkReqEnded_adds s.quiet k).1, rfl⟩
  · exact ⟨u.walkNext n w a pa, walkReturn_next hw hs hr, walkNext_walk u n w a pa, (walkNext_adds u n w a pa).1⟩
  · exact walkReturn_demand hw hs hwait hcopy hr hst hp
  · exact (walkReturn_fault hw hs hr).trans ((if_neg (ne_true_of_eq_false hst)).trans (congrArg (fun x : State => x.startWaiting 64)
      (if_neg (ne_true_of_eq_false hp))))
  · exact faultWalk_of_alike hne h ..
  · exact walkReturn_cut hw hs hwait hcopy hst hn
  · exact ⟨u.raise (walkErrReport w a), walkReturn_err hw hs hst hp, reported_raise .., (raise_adds ..).1⟩
  · refine ⟨readEntry_invalid hr, readEntry_unsound hr, fun hv hs hl => ⟨fun h => ?_, fun h4 h6 h7 hn => ?_⟩,
      fun hv hs hl => ⟨fun h => ?_, fun hlo hp => ?_⟩⟩
    · exact (readEntry_table hr hv hs hl).trans (if_pos (by simpa [or_assoc, or_comm, or_left_comm] using h))
    · exact (readEntry_table hr hv hs hl).trans (if_neg (by rw [h4, h6, h7]; simpa using hn))
    · exact (readEntry_leaf hr hv hs hl).trans (if_pos h)
    · rw [readEntry_leaf hr hv hs hl]
      exact svLeafStep_rules a lvl wr e hlo hp
  · exact live_idles (c := .faultRingSet p) rfl hl (by simp only [faultRingSet, show s.quiet.adminHead p 0x74#8 = none from h])
  · exact live_idles (c := .faultResp p) rfl hl (by simp only [faultResp, show s.quiet.adminHead p 0x75#8 = none from h])
  · obtain ⟨hx, hF⟩ := live_next_frame (i := .faultHeadWrite p v) rfl hl rfl (faultHeadWrite_adds p v s.quiet).1 (by decide)
    exact ⟨_, hx, faultHeadWrite_ring p v s.quiet, hF⟩
  · exact live_adminAnswered (i := .faultRingSet p) rfl hl hh ((faultRingSet_eq (s := s.quiet) hh).trans (if_pos hc))
  · exact live_adminAnswered (i := .faultRingSet p) rfl hl hh ((faultRingSet_eq (s := s.quiet) hh).trans
      ((if_neg (ne_false_of_eq_true hc)).trans (if_pos hlog)))
  · exact live_adminAnswered (i := .faultRingSet p) rfl hl hh ((faultRingSet_eq (s := s.quiet) hh).trans
      ((if_neg (ne_false_of_eq_true hc)).trans ((if_neg (by omega)).trans (if_pos ha))))
  · exact live_adminAnswered (i := .faultRingSet p) rfl hl hh ((faultRingSet_eq (s := s.quiet) hh).trans
      ((if_neg (ne_false_of_eq_true hc)).trans ((if_neg (by omega)).trans ((if_neg (not_not.2 ha)).trans (if_pos hf)))))
  · exact faultRingSet_next hl hh hc (by omega) ha hf
  · refine live_idles (c := .faultRecordWrite p) rfl hl ?_
    obtain h | h | h := h
    · exact faultRecordWrite_of_none (s := s.quiet) h
    · exact faultRecordWrite_of_no_ring (s := s.quiet) h
    · exact faultRecordWrite_of_full (s := s.quiet) h
  · obtain ⟨t, u, hx, hring, hrest⟩ := faultRecordWrite_next hl hf ha hr
    exact ⟨t, u, hx, congrArg FaultRing.next hring, congrArg FaultRing.phase hring, hrest⟩
  · exact live_adminAnswered (i := .faultResp p) rfl hl hh ((faultResp_eq (s := s.quiet) hh).trans (if_pos hc))
  · exact live_adminAnswered (i := .faultResp p) rfl hl hh (faultResp_of_none (s := s.quiet) hh hc h)
  · exact ⟨_, live_next (i := .faultResp p) rfl hl (faultResp_of_named (s := s.quiet) hh hc h),
      congrArg (fun x : State => s.quiet.settle (x.adminDone p stOk 0#64)) (if_pos h0)⟩
  · exact ⟨_, live_next (i := .faultResp p) rfl hl (faultResp_of_named (s := s.quiet) hh hc h),
      congrArg (fun x : State => s.quiet.settle (x.adminDone p stOk 0#64)) (if_neg (by omega))⟩
  · exact live_idles (c := .faultTimeout id) rfl hl (faultTimeout_of_none (s := s.quiet) h)
  · exact ⟨_, s.quiet.raise (timeoutReport f), live_next (i := .faultTimeout id) rfl hl (faultTimeout_of_some (s := s.quiet) h),
      reported_raise .., (Frame.quiet s).trans (raise_adds ..).1, rfl⟩

end Sys2Proof.Machine

/-! PROOFS. What the end of a request, of an operation and of an endpoint leaves alone: the tide, the arbiters and the ports. -/

namespace Sys2Proof.Machine

/-- What neither the end of a request nor that of an endpoint changes: the tide, the arbiters and the ports. -/
def State.still (s : State) : Tide × Arb × SMap Link := (s.tide, s.arb, s.links)

/-- A state whose other parts are new stands still. -/
@[simp] theorem still_mk (s : State) (health remap fab ras ctr mem ext coh rtr que xlt sec dbg plt audit serial out pending) :
    State.still { tide := s.tide, arb := s.arb, links := s.links, health := health, remap := remap, fab := fab, ras := ras, ctr := ctr,
                  mem := mem, ext := ext, coh := coh, rtr := rtr, que := que, xlt := xlt, sec := sec, dbg := dbg, plt := plt, audit := audit,
                  serial := serial, out := out, pending := pending } = s.still := rfl

theorem still_of_frame {ps : List Part} {s t : State} (h : Frame ps s t) (ht : Part.tide ∉ ps) (ha : Part.arb ∉ ps) (hl : Part.links ∉ ps) :
    t.still = s.still := Prod.ext (h.2 .tide ht) (Prod.ext (h.2 .arb ha) (h.2 .links hl))

theorem still_of_adds {ps : List Part} {s t : State} (h : Adds ps s t) (ht : Part.tide ∉ ps) (ha : Part.arb ∉ ps) (hl : Part.links ∉ ps) :
    t.still = s.still := still_of_frame h.1 ht ha hl

@[simp] theorem still_ite (c : Prop) [Decidable c] (s t : State) : (if c then s else t).still = if c then s.still else t.still := by
  split <;> rfl

theorem still_foldl {α : Type} {f : State → α → State} (h : ∀ st x, (f st x).still = st.still) (l : List α) (s : State) :
    (l.foldl f s).still = s.still := by
  induction l generalizing s with
  | nil => rfl
  | cons x l ih => rw [List.foldl_cons, ih, h]

/-! The router and the queue engine. -/

section
variable (s : State)

@[simp] theorem raise_still (r : Report) : (s.raise r).still = s.still := still_of_adds (raise_adds s r) (by decide) (by decide) (by decide)

@[simp] theorem tally_still (off : Nat) : (s.tally off).still = s.still := still_of_adds (tally_adds s off) (by decide) (by decide) (by decide)

@[simp] theorem bump_still (off n : Nat) : (s.bump off n).still = s.still := still_of_adds (bump_adds s off n) (by decide) (by decide) (by decide)

@[simp] theorem tallyTfl_still (k : Nat) (p : LinkPort) (n : Nat) : (s.tallyTfl k p n).still = s.still :=
  still_of_adds (tallyTfl_adds s k p n) (by decide) (by decide) (by decide)

@[simp] theorem enqueue_still (p : LinkPort) (q : QPkt) : (s.enqueue p q).still = s.still := rfl

@[simp] theorem forward_still (p : Packet) (vc : Nat) (req : Option Nat) (arrival : LinkPort) (auth owner : Option Tenant) :
    (s.forward p vc req arrival auth owner).still = s.still := still_of_adds (forward_adds ..) (by decide) (by decide) (by decide)

@[simp] theorem launch_still (n : Nat) (r : DevReq) : (s.launch n r).still = s.still :=
  still_of_adds (launch_adds ..) (by decide) (by decide) (by decide)

@[simp] theorem issue_still (dst : Ep) (via : Option PlPort) (pkts : List Packet) (vc : Nat) (owner : ReqOwner) :
    (s.issue dst via pkts vc owner).1.still = s.still := still_of_adds (issue_adds ..) (by decide) (by decide) (by decide)

@[simp] theorem issueHost_still (port : PlPort) (p : Packet) (vc : Nat) (owner : ReqOwner) : (s.issueHost port p vc owner).still = s.still :=
  issue_still ..

@[simp] theorem issueVa_still (port : PlPort) (va : Nat) (p : Packet) (vc : Nat) (owner : ReqOwner) :
    (s.issueVa port va p vc owner).still = s.still := issueHost_still ..

@[simp] theorem tallyBytes_still (k : Nat) (t : Tenant) (n : Nat) : (s.tallyBytes k t n).still = s.still :=
  still_of_frame (tallyBytes_frame ..).1 (by decide) (by decide) (by decide)

@[simp] theorem sendPart_still (t : Tenant) (x : QPair) (p : OutPart) (pa : Nat) (owner : ReqOwner) :
    (s.sendPart t x p pa owner).1.still = s.still := by
  unfold State.sendPart
  extract_lets
  split <;> simp

@[simp] theorem modOp_still (n : Nat) (f : OpRec → OpRec) : (s.modOp n f).still = s.still := rfl

@[simp] theorem modQp_still (q : Qp) (f : QPair → QPair) : (s.modQp q f).still = s.still := rfl

@[simp] theorem setQp_still (q : Qp) (x : QPair) : (s.setQp q x).still = s.still := rfl

@[simp] theorem freeHeld_still (q : Qp) (h : Nat) : (s.freeHeld q h).still = s.still :=
  still_of_frame (freeHeld_frame ..) (by decide) (by decide) (by decide)

@[simp] theorem queueRec_still (q : Qp) (r : Rec) : (s.queueRec q r).still = s.still :=
  still_of_frame (queueRec_frame ..) (by decide) (by decide) (by decide)

@[simp] theorem completeOp_still (n : Nat) (st : Status) (v : W64) (ts : BitVec 16) : (s.completeOp n st v ts).still = s.still :=
  still_of_frame (completeOp_frame ..) (by decide) (by decide) (by decide)

@[simp] theorem skipRecord_still (q : Qp) : (s.skipRecord q).still = s.still := by
  unfold State.skipRecord
  repeat' split
  all_goals simp

@[simp] theorem endDesc_still (q : Qp) (h : Nat) (st : Status) (v : W64) : (s.endDesc q h st v).still = s.still := by
  unfold State.endDesc
  repeat' split
  all_goals simp

@[simp] theorem freeBlocks_still (bs : List BlockId) : (s.freeBlocks bs).still = s.still := rfl

@[simp] theorem settleOp_still (n : Nat) : (s.settleOp n).still = s.still := by
  unfold State.settleOp
  repeat' split
  all_goals simp

@[simp] theorem finishOp_still (n : Nat) (st : Status) (v : W64) : (s.finishOp n st v).still = s.still := by
  simp [State.finishOp]

@[simp] theorem stopOp_still (n : Nat) (opc : BitVec 8) (st : Status) : (s.stopOp n opc st).still = s.still := by
  unfold State.stopOp
  split
  · exact finishOp_still ..
  · exact finishOp_still ..

@[simp] theorem settlePool_still (n : Nat) : (s.settlePool n).still = s.still := by
  unfold State.settlePool
  repeat' split
  all_goals simp

@[simp] theorem setRun_still (n : Nat) (r : Run) : (s.setRun n r).still = s.still := rfl

@[simp] theorem adminDone_still (p : PlPort) (st : Status) (v : W64) : (s.adminDone p st v).still = s.still :=
  still_of_adds (adminDone_adds ..) (by decide) (by decide) (by decide)

@[simp] theorem reply_still (code : BitVec 8) (result : Nat) (bytes : List Byte) : (s.reply code result bytes).still = s.still :=
  still_of_adds (reply_adds ..) (by decide) (by decide) (by decide)

@[simp] theorem settleReel_still (h : Nat) : (s.settleReel h).still = s.still := by
  unfold State.settleReel
  split
  · rfl
  extract_lets
  split
  · refine still_foldl (fun st x => ?_) ..
    cases x <;> simp
  · rfl

@[simp] theorem endRun_still (n : Nat) (r : Run) (st : Status) : (s.endRun n r st).still = s.still := by
  simp [State.endRun]

@[simp] theorem settleRun_still (n : Nat) : (s.settleRun n).still = s.still := by
  unfold State.settleRun
  split
  · extract_lets r t idle
    have ht : t.still = s.still := setRun_still ..
    split <;> simp [ht]
  · rfl

@[simp] theorem endOp_still (n : Nat) (st : Status) : (s.endOp n st).still = s.still := by
  simp [State.endOp]

theorem feedOp_still (n f : Nat) : (s.feedOp n f).2.still = s.still := by
  induction f generalizing s with
  | zero => rfl
  | succ f ih =>
    unfold State.feedOp
    split
    · rfl
    split
    · extract_lets owner pa
      clear_value owner pa
      cases pa with
      | none => rfl
      | some a =>
      dsimp only
      split
      · rfl
      split <;> simp [ih]
    · rfl

@[simp] theorem feedEnded_still (n : Nat) : (s.feedEnded n).still = s.still := by
  unfold State.feedEnded
  split
  next t h => exact (settleOp_still ..).trans ((congrArg (fun x : Option Status × State => x.2.still) h).symm.trans (feedOp_still ..))
  next st t h => exact (endOp_still ..).trans ((congrArg (fun x : Option Status × State => x.2.still) h).symm.trans (feedOp_still ..))

@[simp] theorem interrupt_still (v : BitVec 11) : (s.interrupt v).still = s.still := by
  simp [State.interrupt, State.sendHost]

@[simp] theorem signalQp_still (q : Qp) : (s.signalQp q).still = s.still := by
  unfold State.signalQp
  split <;> simp

@[simp] theorem qpError_still (q : Qp) (c : Nat) : (s.qpError q c).still = s.still := by
  unfold State.qpError
  repeat' split
  all_goals simp

@[simp] theorem recordAcked_still (q : Qp) (intr : Bool) (st : Status) : (s.recordAcked q intr st).still = s.still := by
  unfold State.recordAcked
  repeat' split
  all_goals simp

end

/-! Translation. -/

section
variable (s : State)

@[simp] theorem tlbFill_still (b : Option BlockId) (e : TlbEntry) : (s.tlbFill b e).still = s.still :=
  still_of_adds (tlbFill_adds ..) (by decide) (by decide) (by decide)

@[simp] theorem chipFill_still (e : TlbEntry) : (s.chipFill e).still = s.still := rfl

@[simp] theorem endWalk_still (n : Nat) : (s.endWalk n).still = s.still := rfl

@[simp] theorem dropUnit_still (u : XltUnit) : (s.dropUnit u).still = s.still := rfl

@[simp] theorem fillAll_still (w : Walk) (e : TlbEntry) : (s.fillAll w e).still = s.still :=
  still_of_adds (fillAll_adds ..) (by decide) (by decide) (by decide)

@[simp] theorem raiseFault_still (w : Walk) (lvl ea : Nat) (c : XltCause) : (s.raiseFault w lvl ea c).still = s.still := by
  unfold State.raiseFault
  dsimp only
  split
  · rfl
  split
  · simp
  split <;> simp

@[simp] theorem raiseFor_still (w : Walk) (b : Bool) (lvl ea : Nat) (c : XltCause) : (s.raiseFor w b lvl ea c).still = s.still := by
  simp [State.raiseFor]

@[simp] theorem walkRead_still (n : Nat) (w : Walk) (a : AddrSpace) : (s.walkRead n w a).still = s.still := issueHost_still ..

@[simp] theorem beginWalk_still (w : Walk) : (s.beginWalk w).still = s.still := by
  unfold State.beginWalk
  split
  · rfl
  split
  · simp
  · rw [walkRead_still, tally_still]
    rfl

@[simp] theorem askWalk_still (b : Option BlockId) (asid : BitVec 20) (va : Nat) (wr : Bool) (u : XltUnit) :
    (s.askWalk b asid va wr u).still = s.still := by
  unfold State.askWalk
  extract_lets
  split
  · rfl
  · simp

/-- What one page's translation in a set leaves. -/
theorem xltSet_fold_still {f : Bool × State → Nat → Bool × State} (h : ∀ acc va, (f acc va).2.still = acc.2.still) (vas : List Nat)
    (acc : Bool × State) : (vas.foldl f acc).2.still = acc.2.still := by
  induction vas generalizing acc with
  | nil => rfl
  | cons va vas ih => rw [List.foldl_cons, ih, h]

@[simp] theorem xltSet_still (b : Option BlockId) (asid : BitVec 20) (vas : List Nat) (wr : Bool) (u : XltUnit) :
    (s.xltSet b asid vas wr u).2.still = s.still := by
  unfold State.xltSet
  split
  · rfl
  refine xltSet_fold_still (fun acc va => ?_) vas (true, s)
  extract_lets st st1
  have h1 : st1.still = acc.2.still := by
    cases b
    · rfl
    · exact tally_still ..
  split
  · exact tlbFill_still ..
  split
  · exact (tlbFill_still ..).trans h1
  · exact (askWalk_still ..).trans ((tally_still ..).trans h1)

@[simp] theorem faultWalk_still (w : Walk) (lvl ea : Nat) (c : XltCause) : (s.faultWalk w lvl ea c).still = s.still :=
  (still_foldl (fun _ _ => askWalk_still ..) ..).trans (raiseFor_still ..)

@[simp] theorem startWaiting_still (f : Nat) : (s.startWaiting f).still = s.still := by
  induction f generalizing s with
  | zero => rfl
  | succ f ih =>
    unfold State.startWaiting
    split
    · rfl
    split
    · rfl
    · rw [ih]
      split
      · rfl
      · exact beginWalk_still ..

end

/-! A run's copies. -/

section
variable (s : State)

@[simp] theorem setCell_still (c : CellId) (x : Cell) : (s.setCell c x).still = s.still := rfl

@[simp] theorem setRbuf_still (r : RegionId) (x : RBuf) : (s.setRbuf r x).still = s.still := rfl

@[simp] theorem fixPend_still (n : Nat) : (s.fixPend n).still = s.still := by
  unfold State.fixPend
  split
  · rfl
  extract_lets b live s1 s2 regions usesRbuf s3
  have h1 : s1.still = s.still := still_foldl (fun _ _ => setCell_still ..) ..
  have h2 : s2.still = s.still := (still_foldl (fun st c => by
    split
    · refine still_foldl (fun st t => ?_) ..
      split <;> rfl
    · rfl) ..).trans h1
  have h3 : s3.still = s.still := (still_foldl (fun _ _ => setRbuf_still ..) ..).trans h2
  split
  · exact h2
  · refine (still_foldl (fun st c => ?_) ..).trans h3
    split
    · split
      · exact still_foldl (fun _ _ => setRbuf_still ..) ..
      · rfl
    · rfl

@[simp] theorem failCopy_still (n k : Nat) (st : Status) : (s.failCopy n k st).still = s.still := by
  unfold State.failCopy
  split <;> simp

@[simp] theorem feedCopy_still (n k f : Nat) : (s.feedCopy n k f).still = s.still := by
  induction f generalizing s with
  | zero => rfl
  | succ f ih =>
    unfold State.feedCopy
    split
    · split
      · split
        · split
          · rfl
          extract_lets s0
          split
          · split
            · simp [ih, s0]
            · split
              next ok t h =>
                have ht : t.still = s.still := (congrArg (fun x : Bool × State => x.2.still) h).symm.trans (xltSet_still ..)
                simp [ih, ht]
          · split
            next t ok h =>
              have ht : t.still = s.still := (congrArg (fun x : State × Bool => x.1.still) h).symm.trans (sendPart_still ..)
              simp [ih, ht]
        · rfl
      · rfl
    · rfl

@[simp] theorem startCopy_still (n k : Nat) : (s.startCopy n k).still = s.still := by
  unfold State.startCopy
  split
  · rfl
  split
  · rfl
  · exact feedCopy_still ..

@[simp] theorem issueCopy_still (n k : Nat) : (s.issueCopy n k).still = s.still := by
  unfold State.issueCopy
  split
  · split
    · extract_lets
      split
      · rfl
      split
      · exact startCopy_still ..
      split
      · rfl
      · split
        next ok t h =>
          have ht : t.still = s.still := (congrArg (fun x : Bool × State => x.2.still) h).symm.trans (xltSet_still ..)
          split
          · exact (still_foldl (fun _ _ => startCopy_still ..) ..).trans ht
          · exact ht
    · rfl
  · rfl

@[simp] theorem feedRun_still (n : Nat) : (s.feedRun n).still = s.still := by
  unfold State.feedRun
  split
  · rfl
  · exact still_foldl (fun st e => by simp) ..

@[simp] theorem pumpRun_still (n : Nat) : (s.pumpRun n).still = s.still := by
  unfold State.pumpRun
  split
  · rfl
  split
  · rw [fixPend_still, still_foldl (fun _ _ => issueCopy_still ..), feedRun_still]
  · rfl

@[simp] theorem pumpUnits_still (us : List XltUnit) : (s.pumpUnits us).still = s.still :=
  still_foldl (fun st u => by cases u <;> simp) ..

@[simp] theorem finishCopy_still (n k : Nat) : (s.finishCopy n k).still = s.still := by
  unfold State.finishCopy
  split
  · rfl
  split
  · rfl
  · extract_lets
    split <;> simp

end

/-! The end of a request. -/

section
variable (s : State)

@[simp] theorem unitFail_still (u : XltUnit) (st : Status) : (s.unitFail u st).still = s.still := by
  cases u with
  | copySet n lc inb =>
    unfold State.unitFail
    dsimp only
    split
    · exact dropUnit_still ..
    · simp
  | _ => simp [State.unitFail]

@[simp] theorem walkFail_still (n : Nat) (st : Status) : (s.walkFail n st).still = s.still := by
  unfold State.walkFail
  split
  · rfl
  dsimp only
  split
  · simp
  · rw [startWaiting_still, still_foldl (fun _ _ => unitFail_still ..)]
    rfl

@[simp] theorem walkReturn_still (n : Nat) (entry : W64) (err : Bool) : (s.walkReturn n entry err).still = s.still := by
  unfold State.walkReturn
  split
  · rfl
  split
  · simp
  dsimp only
  split
  · simp
  · split <;> simp

@[simp] theorem ownerEnd_still (r : DevReq) (st : Status) : (s.ownerEnd r st).still = s.still := by
  cases ho : r.owner with
  | copy n c off =>
    simp only [State.ownerEnd, ho]
    split
    · simp
    split
    · simp
    split <;> simp
  | _ => simp [State.ownerEnd, ho]

@[simp] theorem launchNext_still (dst : Ep) : (s.launchNext dst).still = s.still := by
  unfold State.launchNext
  split <;> simp

@[simp] theorem reqDone_still (k : Nat) (st : Status) : (s.reqDone k st).still = s.still := by
  unfold State.reqDone
  split <;> simp

@[simp] theorem reqLost_still (k : Nat) (st : Status) : (s.reqLost k st).still = s.still := by
  unfold State.reqLost
  split <;> simp [State.emit]

end

/-! The home agent, and the death of an endpoint. -/

section
variable (s : State)

@[simp] theorem setExtent_still (e : Nat) (x : Extent) : (s.setExtent e x).still = s.still := rfl

@[simp] theorem closeRecord_still (i : Nat) : (s.closeRecord i).still = s.still := by
  unfold State.closeRecord
  dsimp only
  split
  · rfl
  split
  · rfl
  split <;> rfl

@[simp] theorem closeRecordsOf_still (ep : Ep) : (s.closeRecordsOf ep).still = s.still := still_foldl (fun st r => by simp) ..

@[simp] theorem retire_still (r : CReq) : (s.retire r).still = s.still := still_of_adds (retire_adds ..) (by decide) (by decide) (by decide)

@[simp] theorem settleRights_still (e : Nat) : (s.settleRights e).still = s.still := by
  unfold State.settleRights
  split
  · rfl
  split
  · split
    · rfl
    · simp
  · rfl

@[simp] theorem settleRemovals_still : s.settleRemovals.still = s.still :=
  still_foldl (fun st w => by
    split
    · split
      · rfl
      · simp
    · rfl) ..

@[simp] theorem settleRecalls_still : s.settleRecalls.still = s.still :=
  (still_foldl (fun _ _ => settleRights_still ..) ..).trans (settleRemovals_still s)

@[simp] theorem setTxn_still (line : Nat) (t : Txn) : (s.setTxn line t).still = s.still := rfl

@[simp] theorem delTxn_still (line : Nat) : (s.delTxn line).still = s.still := rfl

@[simp] theorem endReq_still (line : Nat) (r : CReq) : (s.endReq line r).still = s.still := by
  simp [State.endReq]

@[simp] theorem setSector_still (set way : Nat) (x : Sector) : (s.setSector set way x).still = s.still := rfl

@[simp] theorem clearDir_still (line : Nat) : (s.clearDir line).still = s.still :=
  still_of_adds (clearDir_adds ..) (by decide) (by decide) (by decide)

@[simp] theorem poisonHome_still (line : Nat) : (s.poisonHome line).still = s.still :=
  still_of_adds (poisonHome_adds ..) (by decide) (by decide) (by decide)

@[simp] theorem noteWrite_still (line : Nat) (en : BitVec 64) : (s.noteWrite line en).still = s.still := by
  unfold State.noteWrite
  extract_lets
  split <;> rfl

@[simp] theorem writeLine_still (line : Nat) (en : BitVec 64) (d : Line) : (s.writeLine line en d).still = s.still := by
  unfold State.writeLine
  extract_lets t
  have ht : t.still = s.still := noteWrite_still ..
  split
  · exact ht
  split
  · simp [ht]
  · exact ht

@[simp] theorem storeHome_still (line : Nat) (en : BitVec 64) (d : Line) : (s.storeHome line en d).still = s.still := by
  unfold State.storeHome
  split <;> simp

@[simp] theorem storeData_still (line : Nat) (d : Line × Bool) : (s.storeData line d).still = s.still := by
  simp [State.storeData]

@[simp] theorem setDir_still (line : Nat) (d : DirLine) : (s.setDir line d).still = s.still := by
  unfold State.setDir
  extract_lets
  split <;> simp

@[simp] theorem answer_still (p : Packet) (ep : Ep) (opc : BitVec 8) (st : Status) (far : Bool) (d : Option (Line × Bool)) :
    (s.answer p ep opc st far d).still = s.still := by
  unfold State.answer State.sendRsp
  split
  · simp
  · exact forward_still ..

@[simp] theorem grant_still (line : Nat) (r : CReq) (d : DirLine) (opc : BitVec 8) (far : Bool) (x : Option (Line × Bool)) :
    (s.grant line r d opc far x).still = s.still := by
  simp [State.grant, State.awaitAck]

@[simp] theorem readHome_still (line : Nat) : (s.readHome line).2.still = s.still := by
  simp [State.readHome]

@[simp] theorem sendSnoop_still (line : Nat) (ep : Ep) (opc : BitVec 8) (d : Option Line) : (s.sendSnoop line ep opc d).still = s.still :=
  forward_still ..

@[simp] theorem stash_still (line : Nat) (r : CReq) : (s.stash line r).still = s.still := by
  unfold State.stash
  extract_lets
  split
  · simp
  split <;> simp

@[simp] theorem complete_still (line : Nat) (r : CReq) (t : Txn) : (s.complete line r t).still = s.still := by
  unfold State.complete
  dsimp only
  repeat' split
  all_goals simp

@[simp] theorem recallDone_still (line : Nat) : (s.recallDone line).still = s.still := rfl

@[simp] theorem poisonCached_still (line : Nat) : (s.poisonCached line).still = s.still := by
  simp [State.poisonCached]

@[simp] theorem openTxn_still (line : Nat) (k : TxnKind) (c : BitVec 8) (as : List Nat) : (s.openTxn line k c as).still = s.still :=
  still_foldl (fun _ _ => sendSnoop_still ..) ..

@[simp] theorem finishKind_still (line : Nat) (t : Txn) : (s.finishKind line t).still = s.still := by
  unfold State.finishKind
  repeat' split
  all_goals simp

@[simp] theorem advance_still (line : Nat) : (s.advance line).still = s.still := by
  unfold State.advance
  split <;> simp

@[simp] theorem declareDead_still (ep : Ep) : (s.declareDead ep).still = s.still := by
  unfold State.declareDead
  dsimp only
  split
  · exact closeRecordsOf_still ..
  · refine (still_foldl (fun st e => ?_) ..).trans ((still_foldl (fun st q => ?_) ..).trans (closeRecordsOf_still ..))
    · split
      · rfl
      repeat' split
      all_goals simp
    · exact still_foldl (fun _ _ => retire_still ..) ..

@[simp] theorem settleSends_still : s.settleSends.still = s.still := by
  refine still_foldl (fun st e => ?_) ..
  split
  · rfl
  · simp

end

end Sys2Proof.Machine

/-! PROOFS. Reference clocks, power feeds and handovers (R529, R546 to R549). -/

namespace Sys2Proof.Machine

/-! Commands of a powered device. -/

section
variable {c : Instr} {s : State} {f : State → State}

/-- On a live device a meaning that a powered device has is one of a live device. -/
theorem powered_live (hc : exec c s = .next (s.quiet.whenPowered f)) (hl : s.live = true) : exec c s = .next (s.quiet.whenLive f) := by
  rw [hc, whenPowered_of_powered (s := s.quiet) f (live_powered hl), whenLive_of_live (s := s.quiet) f hl]

/-- A command of a powered device that sets the platform record to x does that, and nothing else. -/
theorem powered_setPlt {x : Plt} (hc : exec c s = .next (s.quiet.whenPowered f)) (hp : s.plt.powered = true)
    (hf : f s.quiet = s.quiet.setPlt x) : ∃ t, exec c s = .next t ∧ t.plt = x ∧ Frame [.plt, .links] s t := by
  obtain ⟨hx, hF⟩ := powered_next hc hp hf ((adds_plt ..).1.mono (qs := [.plt, .links]) (by simp)) (by simp)
  exact ⟨_, hx, rfl, hF⟩

theorem powered_idles (hc : exec c s = .next (s.quiet.whenPowered f)) (hp : s.plt.powered = true) (hf : f s.quiet = s.quiet) :
    ∃ t, exec c s = .next t ∧ Frame [.links] s t :=
  ⟨_, powered_next hc hp hf (Frame.rfl _) (by simp)⟩

end

/-- What counting and reporting add to a state whose platform record is new. -/
theorem setPlt_adds {s u : State} {x : Plt} (h : Adds [.ras, .ctr, .serial] (s.setPlt x) u) :
    Adds [.plt, .ctr, .ras, .serial] s u ∧ u.plt = x :=
  ⟨((adds_plt s x).mono (by simp)).trans (h.mono (by simp)), h.same .plt (by decide)⟩

/-! Reference clocks (R529). -/

theorem lostRef_setRef (x : Plt) (r : Side) (l : Bool) : (x.setRef r l).lostRef r = l := by
  cases r <;> rfl

theorem lostRef_setRef_other (x : Plt) (r : Side) (l : Bool) : (x.setRef r l).lostRef (otherSide r) = x.lostRef (otherSide r) := by
  cases r <;> rfl

theorem setRef_keeps (x : Plt) (r : Side) (l : Bool) : (x.setRef r l).inUse = x.inUse ∧ (x.setRef r l).resetHeld = x.resetHeld := by
  cases r <;> exact ⟨rfl, rfl⟩

theorem eq_otherSide {r q : Side} (h : q ≠ r) : q = otherSide r := by
  cases r <;> cases q
  case a.b | b.a => rfl
  all_goals exact absurd rfl h

/-- The platform record once the reference in use is lost: the other one is used, if it runs. -/
def Plt.refMoved (x : Plt) (r : Side) : Plt :=
  if !(x.setRef r true).lostRef (otherSide r) then { x.setRef r true with inUse := otherSide r, switched := true } else x.setRef r true

theorem refMoved_of_runs {x : Plt} {r : Side} (h : x.lostRef (otherSide r) = false) :
    x.refMoved r = { x.setRef r true with inUse := otherSide r, switched := true } :=
  if_pos (by rw [lostRef_setRef_other, h]; rfl)

theorem refMoved_of_lost {x : Plt} {r : Side} (h : x.lostRef (otherSide r) = true) : x.refMoved r = x.setRef r true :=
  if_neg (by rw [lostRef_setRef_other, h]; decide)

section
variable {r : Side} {s : State}

theorem refclkLost_of_lost (h : s.plt.lostRef r = true) : refclkLost r s = s := if_pos h

theorem refclkLost_of_unused (h : s.plt.lostRef r = false) (hu : s.plt.inUse ≠ r ∨ (!s.live) = true) :
    refclkLost r s = s.setPlt (s.plt.setRef r true) := (if_neg (ne_true_of_eq_false h)).trans (if_pos hu)

/-- What the loss of the reference in use reports. -/
def refReport (x : Plt) (r : Side) : Report := mkReport 0x0C 0x02 1 unitTick (sideNat r) (sideNat (x.refMoved r).inUse)

theorem refclkLost_of_used (h : s.plt.lostRef r = false) (hu : s.plt.inUse = r) (hl : s.live = true) :
    refclkLost r s = ((s.setPlt (s.plt.refMoved r)).retrainAll 1).raise (refReport s.plt r) := by
  have hn : ¬ (s.plt.inUse ≠ r ∨ (!s.live) = true) := by simp [hu, hl]
  refine (if_neg (ne_true_of_eq_false h)).trans ((if_neg hn).trans ?_)
  dsimp only
  have hm : (if !(s.plt.setRef r true).lostRef (otherSide r) then
      (s.setPlt (s.plt.setRef r true)).setPlt { s.plt.setRef r true with inUse := otherSide r, switched := true }
    else s.setPlt (s.plt.setRef r true)) = s.setPlt (s.plt.refMoved r) := by
    unfold Plt.refMoved
    split <;> rfl
  exact congrArg (fun v : State => (v.retrainAll 1).raise (mkReport 0x0C 0x02 1 unitTick (sideNat r) (sideNat v.plt.inUse))) hm

end

/-! Every port retrains. -/

/-- A port that is not DISABLED retrains. -/
def State.retrainPort (cause : Nat) (s : State) (p : LinkPort) : State :=
  if (s.link p).state = .disabled then s else s.startLinkRetrain p cause

theorem retrainAll_eq (s : State) (cause : Nat) : s.retrainAll cause = (List.finRange 34).foldl (State.retrainPort cause) s := rfl

section
variable {cause : Nat} {s : State} {p : LinkPort}

theorem retrainPort_of_active (h : (s.link p).state = .active) : s.retrainPort cause p = s.startLinkRetrain p cause :=
  if_neg (by simp [h])

theorem retrainPort_of_not_active (h : (s.link p).state ≠ .active) : s.retrainPort cause p = s := by
  unfold State.retrainPort
  split
  · rfl
  · exact if_pos h

theorem retrainPort_adds (s : State) (p : LinkPort) : Adds [.links, .ctr, .ras, .serial] s (s.retrainPort cause p) := by
  by_cases h : (s.link p).state = .active
  · rw [retrainPort_of_active h]
    exact (startLinkRetrain_spec h cause).2.2
  · rw [retrainPort_of_not_active h]
    exact Adds.rfl s

theorem toRetrain_ne_reset (l : Link) : l.toRetrain ≠ Link.resetTfl := fun h => by
  have := congrArg Link.state h
  cases this

theorem retrainPort_link_same (h : (s.link p).state = .active) : (s.retrainPort cause p).link p = (s.link p).toRetrain := by
  rw [retrainPort_of_active h]
  exact (startLinkRetrain_spec h cause).1

theorem retrainPort_link_other {q : LinkPort} (h : q ≠ p) : (s.retrainPort cause p).link q = s.link q := by
  by_cases ha : (s.link p).state = .active
  · rw [retrainPort_of_active ha, startLinkRetrain_of_active ha, raise_link, tallyTfl_link]
    exact mget_mset_ne _ _ (toRetrain_ne_reset _) (fun e => h (Fin.ext e))
  · rw [retrainPort_of_not_active ha]

theorem retrainPorts_adds (l : List LinkPort) (s : State) : Adds [.links, .ctr, .ras, .serial] s (l.foldl (State.retrainPort cause) s) :=
  Adds.foldl (fun st p => retrainPort_adds st p) l s

/-- A port that is not in ACTIVE does not retrain. -/
theorem retrainPorts_link_not_active {l : List LinkPort} (h : (s.link p).state ≠ .active) :
    (l.foldl (State.retrainPort cause) s).link p = s.link p := by
  induction l generalizing s with
  | nil => rfl
  | cons q l ih =>
    have hq : (s.retrainPort cause q).link p = s.link p := by
      by_cases e : p = q
      · subst e
        rw [retrainPort_of_not_active h]
      · exact retrainPort_link_other e
    rw [List.foldl_cons, ih (by rw [hq]; exact h), hq]

/-- A port in ACTIVE retrains once. -/
theorem retrainPorts_link_active {l : List LinkPort} (hp : p ∈ l) (h : (s.link p).state = .active) :
    (l.foldl (State.retrainPort cause) s).link p = (s.link p).toRetrain := by
  induction l generalizing s with
  | nil => exact absurd hp List.not_mem_nil
  | cons q l ih =>
    rw [List.foldl_cons]
    by_cases e : p = q
    · subst e
      have hsame := retrainPort_link_same (cause := cause) h
      rw [retrainPorts_link_not_active (by rw [hsame]; exact fun k => LinkState.noConfusion k), hsame]
    · have hother := retrainPort_link_other (s := s) (cause := cause) e
      rw [ih ((List.mem_cons.1 hp).resolve_left e) (by rw [hother]; exact h), hother]

end

section
variable {r : Side} {s : State}

theorem refclkLost_used_next (hl : s.live = true) (h : s.plt.lostRef r = false) (hu : s.plt.inUse = r) :
    ∃ t, exec (.refclkLost r) s = .next t ∧ t.plt = s.plt.refMoved r ∧ reported t 0x0C 0x02 1 unitTick ∧
      (∀ p, (s.link p).state = .active → t.link p = (s.link p).toRetrain) ∧ (∀ p, (s.link p).state ≠ .active → t.link p = s.link p) ∧
      Frame [.plt, .links, .ctr, .ras, .serial] s t := by
  have hports := retrainPorts_adds (cause := 1) (List.finRange 34) (s.quiet.setPlt (s.plt.refMoved r))
  have hraise := raise_adds ((s.quiet.setPlt (s.plt.refMoved r)).retrainAll 1) (refReport s.plt r)
  obtain ⟨hx, hF⟩ := live_next_frame (i := .refclkLost r) (ps := [.plt, .links, .ctr, .ras, .serial]) (powered_live rfl hl) hl
    (refclkLost_of_used (s := s.quiet) h hu hl)
    (((adds_plt ..).mono (by simp)).trans ((hports.mono (by simp)).trans (hraise.mono (by simp)))).1 (by decide)
  refine ⟨_, hx, (hraise.same .plt (by decide)).trans (hports.same .plt (by decide)), reported_raise .., fun p hp => ?_, fun p hp => ?_, hF⟩
  · exact (raise_link ..).trans (retrainPorts_link_active (List.mem_finRange p) hp)
  · exact (raise_link ..).trans (retrainPorts_link_not_active hp)

theorem refclkReturn_eq (h : s.plt.lostRef s.plt.inUse = false ∨ s.plt.inUse = r ∨ s.plt.resetHeld = true) :
    refclkReturn r s = s.setPlt (s.plt.setRef r false) := by
  refine congrArg s.setPlt (if_neg ?_)
  rw [(setRef_keeps ..).1, (setRef_keeps ..).2]
  rintro ⟨hlost, hheld⟩
  by_cases hr : s.plt.inUse = r
  · rw [hr, lostRef_setRef] at hlost
    cases hlost
  · have hlost' : s.plt.lostRef s.plt.inUse = true := by
      rw [eq_otherSide hr, lostRef_setRef_other] at hlost
      rw [eq_otherSide hr, hlost]
    obtain h | h | h := h
    · rw [hlost'] at h
      cases h
    · exact hr h
    · rw [h] at hheld
      cases hheld

theorem refclkReturn_relocks (hlost : s.plt.lostRef s.plt.inUse = true) (hr : s.plt.inUse ≠ r) (hheld : s.plt.resetHeld = false) :
    refclkReturn r s = s.setPlt { s.plt.setRef r false with inUse := r, switched := true } := by
  refine congrArg s.setPlt (if_pos ?_)
  rw [(setRef_keeps ..).1, (setRef_keeps ..).2, eq_otherSide hr, lostRef_setRef_other, ← eq_otherSide hr, hlost, hheld]
  exact ⟨rfl, rfl⟩

end

theorem nodeFatal_of_first {s : State} (h : s.dbg.fatal = false) (unit : BitVec 16) : (s.nodeFatal unit).dbg.fatalUnit = unit ∧
    reported (s.nodeFatal unit) 0x02 0x04 3 unit := by
  have he : s.nodeFatal unit = State.raise { s with
      dbg := { s.dbg with fatal := true, fatalUnit := unit, dumpState := .writing, laterFaults := 0, dumpHeader := [] },
      links := portsDown s.links } (mkReport 0x02 0x04 3 unit 0 0) := if_neg (ne_true_of_eq_false h)
  rw [he]
  exact ⟨congrArg Dbg.fatalUnit ((raise_adds ..).same .dbg (by decide)), reported_raise ..⟩

theorem refclkBothLostTimeout_next {s : State} (hl : s.live = true) (h : s.refRuns = false) :
    ∃ t, exec .refclkBothLostTimeout s = .next t ∧ t.dbg.fatal = true ∧ t.dbg.fatalUnit = unitTick ∧ portsDisabled t ∧
      reported t 0x02 0x04 3 unitTick ∧ Frame [.dbg, .links, .ctr, .ras, .serial] s t := by
  obtain ⟨hunit, hrep⟩ := nodeFatal_of_first (s := s.quiet) (live_not_fatal hl) unitTick
  have hfatal := nodeFatal_fatal s.quiet unitTick
  refine ⟨_, live_next (i := .refclkBothLostTimeout) rfl hl (if_neg (ne_true_of_eq_false h)), hfatal, hunit,
    settle_fatalInv s.quiet (s.quiet.nodeFatal unitTick) hfatal, hrep, settle_frame ?_ (by simp)⟩
  exact ((nodeFatal_adds s.quiet unitTick).mono (by simp)).1

/-! Feeds (R546 to R549). -/

theorem present_setPresent (x : Plt) (f : Side) (v : Bool) : (x.setPresent f v).present f = v := by
  cases f <;> rfl

theorem present_setPresent_other (x : Plt) (f : Side) (v : Bool) : (x.setPresent f v).present (otherSide f) = x.present (otherSide f) := by
  cases f <;> rfl

theorem setPresent_keeps (x : Plt) (f : Side) (v : Bool) : (x.setPresent f v).handover = x.handover ∧ (x.setPresent f v).holder = x.holder ∧
    (x.setPresent f v).lease = x.lease ∧ (x.setPresent f v).feedMode = x.feedMode := by
  cases f <;> exact ⟨rfl, rfl, rfl, rfl⟩

/-- The platform record with a feed gone, and its loss noted. -/
def Plt.feedGone (x : Plt) (f : Side) : Plt := { x.setPresent f false with feedLost := x.feedLost ||| BitVec.ofNat 2 (2 ^ sideNat f) }

/-- The platform record after the loss of a feed, and whether the loss has completed a handover. -/
def Plt.feedLostTo (x : Plt) (f : Side) : Plt × Bool :=
  match (x.feedGone f).handover with
  | some h => if (x.feedGone f).present (otherSide f) then ((x.feedGone f).take (otherSide f) h.box, h.target == otherSide f)
      else (x.feedGone f, false)
  | none => if (x.feedGone f).holder = f ∧ (x.feedGone f).present (otherSide f) then ((x.feedGone f).begin (otherSide f) false, false)
      else (x.feedGone f, false)

/-- The controller that holds the load, or that takes it over. -/
def Plt.after (x : Plt) : Side :=
  match x.handover with
  | some h => h.target
  | none => x.holder

theorem feedLost_eq (f : Side) (s : State) : feedLost f s =
    (if (s.plt.feedLostTo f).2 then (s.setPlt (s.plt.feedLostTo f).1).tally (ctrPlt 0 0) else s.setPlt (s.plt.feedLostTo f).1).raise
      (mkReport 0x0C 0x03 1 unitChip (sideNat f) (sideNat (s.plt.feedLostTo f).1.after)) := rfl

theorem feedLost_adds (f : Side) (s : State) : Adds [.plt, .ctr, .ras, .serial] s (feedLost f s) ∧
    (feedLost f s).plt = (s.plt.feedLostTo f).1 := by
  rw [feedLost_eq]
  refine setPlt_adds (Adds.trans ?_ (raise_adds ..))
  split
  · exact tally_adds ..
  · exact Adds.rfl _

theorem feedLost_reported (f : Side) (s : State) : reported (feedLost f s) 0x0C 0x03 1 unitChip := by
  rw [feedLost_eq]
  exact reported_raise ..

section
variable {x : Plt} {f : Side}

theorem feedGone_spec (x : Plt) (f : Side) : (x.feedGone f).handover = x.handover ∧ (x.feedGone f).holder = x.holder ∧
    (x.feedGone f).lease = x.lease ∧ (x.feedGone f).feedMode = x.feedMode ∧ (x.feedGone f).present f = false ∧
    (x.feedGone f).present (otherSide f) = x.present (otherSide f) ∧
    (x.feedGone f).feedLost = x.feedLost ||| BitVec.ofNat 2 (2 ^ sideNat f) := by
  cases f <;> exact ⟨rfl, rfl, rfl, rfl, rfl, rfl, rfl⟩

theorem feedLostTo_of_handover {h : Handover} (hh : x.handover = some h) (hp : x.present (otherSide f) = true) :
    (x.feedLostTo f).1 = (x.feedGone f).take (otherSide f) h.box := by
  obtain ⟨hho, -, -, -, -, hpo, -⟩ := feedGone_spec x f
  simp only [Plt.feedLostTo, hho, hh, hpo, hp, if_true]

theorem feedLostTo_of_begin (hh : x.handover = none) (hf : x.holder = f) (hp : x.present (otherSide f) = true) :
    (x.feedLostTo f).1 = (x.feedGone f).begin (otherSide f) false := by
  obtain ⟨hho, hhold, -, -, -, hpo, -⟩ := feedGone_spec x f
  simp only [Plt.feedLostTo, hho, hh, hhold, hf, hpo, hp, and_self, if_true]

theorem feedLostTo_of_stuck {h : Handover} (hh : x.handover = some h) (hp : x.present (otherSide f) = false) :
    (x.feedLostTo f).1 = x.feedGone f := by
  obtain ⟨hho, -, -, -, -, hpo, -⟩ := feedGone_spec x f
  simp only [Plt.feedLostTo, hho, hh, hpo, hp, Bool.false_eq_true, if_false]

theorem feedLostTo_of_other (hh : x.handover = none) (hn : x.holder ≠ f ∨ x.present (otherSide f) = false) :
    (x.feedLostTo f).1 = x.feedGone f := by
  obtain ⟨hho, hhold, -, -, -, hpo, -⟩ := feedGone_spec x f
  have hc : ¬ (x.holder = f ∧ x.present (otherSide f) = true) := fun ⟨h1, h2⟩ =>
    hn.elim (fun h => h h1) (fun h => by rw [h2] at h; cases h)
  simp only [Plt.feedLostTo, hho, hh, hhold, hpo, if_neg hc]

/-- Whatever a loss does to the load, the feed is gone and noted. -/
theorem feedLostTo_gone (x : Plt) (f : Side) : (x.feedLostTo f).1.present f = false ∧
    (x.feedLostTo f).1.present (otherSide f) = x.present (otherSide f) ∧
    (x.feedLostTo f).1.feedLost = x.feedLost ||| BitVec.ofNat 2 (2 ^ sideNat f) := by
  have key : (x.feedLostTo f).1.aPresent = (x.feedGone f).aPresent ∧ (x.feedLostTo f).1.bPresent = (x.feedGone f).bPresent ∧
      (x.feedLostTo f).1.feedLost = (x.feedGone f).feedLost := by
    unfold Plt.feedLostTo
    split <;> split <;> exact ⟨rfl, rfl, rfl⟩
  obtain ⟨ha, hb, hl⟩ := key
  have hpres : ∀ g, (x.feedLostTo f).1.present g = (x.feedGone f).present g := fun g => by
    cases g
    · exact ha
    · exact hb
  obtain ⟨-, -, -, -, hp, hpo, hfl⟩ := feedGone_spec x f
  exact ⟨(hpres f).trans hp, (hpres _).trans hpo, hl.trans hfl⟩

end

theorem feedLost_next {s : State} (f : Side) (hp : s.plt.powered = true) : ∃ t, exec (.feedLost f) s = .next t ∧
    t.plt = (s.plt.feedLostTo f).1 ∧ reported t 0x0C 0x03 1 unitChip ∧ Frame [.plt, .links, .ctr, .ras, .serial] s t := by
  obtain ⟨hadds, hplt⟩ := feedLost_adds f s.quiet
  obtain ⟨hx, hF⟩ := powered_next (c := .feedLost f) (ps := [.plt, .links, .ctr, .ras, .serial]) rfl hp rfl (hadds.mono (by simp)).1 (by simp)
  exact ⟨_, hx, hplt, feedLost_reported f s.quiet, hF⟩

/-! Handovers (R547, R548). -/

theorem health_of_fields {x y : Plt} (ha : y.aHealth = x.aHealth) (hb : y.bHealth = x.bHealth) (f : Side) : y.health f = x.health f := by
  cases f
  · exact ha
  · exact hb

theorem health_setHealth (x : Plt) (f : Side) (h : Health) : (x.setHealth f h).health f = h := by
  cases f <;> rfl

theorem setHealth_keeps (x : Plt) (f : Side) (h : Health) : (x.setHealth f h).handover = x.handover ∧ (x.setHealth f h).holder = x.holder ∧
    (x.setHealth f h).lease = x.lease ∧ (x.setHealth f h).provingStopped = x.provingStopped := by
  cases f <;> exact ⟨rfl, rfl, rfl, rfl⟩

/-- A proving handover may start (R548). -/
def Plt.mayProve (x : Plt) : Prop := x.proveEn = true ∧ x.aPresent = true ∧ x.bPresent = true ∧ x.aHealth ≠ .failed ∧
  x.bHealth ≠ .failed ∧ x.provingStopped = false ∧ x.handover = none

theorem proveHandover_eq (s : State) : (¬ s.plt.mayProve → proveHandover s = s) ∧
    (s.plt.mayProve → proveHandover s = s.setPlt (s.plt.begin (otherSide s.plt.holder) true)) := by
  have hiff : (!s.plt.proveEn || !s.plt.aPresent || !s.plt.bPresent || s.plt.aHealth == .failed || s.plt.bHealth == .failed ||
      s.plt.provingStopped || s.plt.handover.isSome) = true ↔ ¬ s.plt.mayProve := by
    simp only [Plt.mayProve, not_and_or, Bool.or_eq_true, Bool.not_eq_true', beq_iff_eq, Bool.not_eq_true, Bool.not_eq_false,
      not_not, or_assoc, ne_eq, Option.isSome_iff_ne_none]
  exact ⟨fun h => if_pos (hiff.2 h), fun h => if_neg (fun k => hiff.1 k h)⟩

/-- The platform record after a handover to a target has completed. -/
def Plt.handedOver (x : Plt) (h : Handover) : Plt :=
  if (x.take h.target h.box).health h.target = .degraded then (x.take h.target h.box).setHealth h.target .healthy else x.take h.target h.box

theorem handedOver_spec (x : Plt) (h : Handover) : (x.handedOver h).holder = h.target ∧ (x.handedOver h).handover = none ∧
    (x.handedOver h).lease = (if h.box then some h.target else none) ∧
    (x.handedOver h).health h.target = (if x.health h.target = .degraded then .healthy else x.health h.target) := by
  have hsame : (x.take h.target h.box).health h.target = x.health h.target := by
    cases h.target <;> rfl
  obtain ⟨hho, hhold, hlease, -⟩ := setHealth_keeps (x.take h.target h.box) h.target .healthy
  unfold Plt.handedOver
  rw [hsame]
  split
  · exact ⟨hhold, hho, hlease, health_setHealth ..⟩
  · exact ⟨rfl, rfl, rfl, hsame⟩

theorem handoverComplete_of_none {s : State} (h : s.plt.handover = none) : handoverComplete s = s := by
  simp only [handoverComplete, h]

theorem handoverComplete_of_some {s : State} {h : Handover} (hh : s.plt.handover = some h) :
    handoverComplete s = (s.setPlt (s.plt.handedOver h)).tally (ctrPlt 0 0) := by
  simp only [handoverComplete, hh]
  rfl

/-- A handover that fails does so for the second time in a row. -/
def Plt.failsAgain (x : Plt) (h : Handover) : Bool := x.health h.target != .healthy

/-- The platform record after a handover has failed. -/
def Plt.handoverFailed (x : Plt) (h : Handover) : Plt :=
  { x.setHealth h.target (if x.failsAgain h then .failed else .degraded) with
    handover := none
    lease := if h.box then some (x.setHealth h.target (if x.failsAgain h then .failed else .degraded)).holder
      else (x.setHealth h.target (if x.failsAgain h then .failed else .degraded)).lease
    provingStopped := (x.setHealth h.target (if x.failsAgain h then .failed else .degraded)).provingStopped || x.failsAgain h }

theorem handoverFailed_spec (x : Plt) (h : Handover) : (x.handoverFailed h).holder = x.holder ∧ (x.handoverFailed h).handover = none ∧
    (x.handoverFailed h).health h.target = (if x.health h.target = .healthy then .degraded else .failed) ∧
    (h.box = true → (x.handoverFailed h).lease = some x.holder) ∧
    (x.health h.target ≠ .healthy → (x.handoverFailed h).provingStopped = true) := by
  obtain ⟨-, hhold, -, -⟩ := setHealth_keeps x h.target (if x.failsAgain h then .failed else .degraded)
  have hhealth : (x.handoverFailed h).health h.target = if x.failsAgain h then .failed else .degraded :=
    (health_of_fields rfl rfl _).trans (health_setHealth x h.target _)
  refine ⟨hhold, rfl, hhealth.trans ?_, fun hb => ?_, fun hn => ?_⟩
  · unfold Plt.failsAgain
    by_cases hh : x.health h.target = .healthy <;> simp [hh]
  · exact (if_pos hb).trans (congrArg some hhold)
  · have hf : x.failsAgain h = true := by simpa [Plt.failsAgain] using hn
    simp only [Plt.handoverFailed, hf, Bool.or_true]

theorem handoverTimeout_of_none {s : State} (h : s.plt.handover = none) : handoverTimeout s = s := by
  simp only [handoverTimeout, h]

theorem handoverTimeout_of_some {s : State} {h : Handover} (hh : s.plt.handover = some h) :
    handoverTimeout s = ((s.setPlt (s.plt.handoverFailed h)).tally (ctrPlt 1 0)).raise
      (mkReport 0x0C 0x04 1 unitChip (sideNat h.target) (if s.plt.failsAgain h then 2 else 1)) := by
  simp only [handoverTimeout, hh]
  rfl

theorem leaseEnds_of_none {s : State} (h : s.plt.lease = none) : leaseEnds s = s := by
  simp only [leaseEnds, h]

theorem leaseEnds_of_some {s : State} {h : Side} (hh : s.plt.lease = some h) :
    leaseEnds s = s.setPlt { s.plt with lease := some (otherSide h), holder := otherSide h, handover := none } := by
  simp only [leaseEnds, hh]

section
variable {s : State} (hp : s.plt.powered = true)
include hp

theorem handoverComplete_next {h : Handover} (hh : s.plt.handover = some h) :
    ∃ t, exec .handoverComplete s = .next t ∧ t.plt = s.plt.handedOver h ∧
      (s.counter (ctrPlt 0 0) < ctrMax → t.counter (ctrPlt 0 0) = s.counter (ctrPlt 0 0) + 1) ∧
      Frame [.plt, .links, .ctr, .ras, .serial] s t := by
  obtain ⟨hadds, hplt⟩ := setPlt_adds (tally_adds (s.quiet.setPlt (s.plt.handedOver h)) (ctrPlt 0 0))
  obtain ⟨hx, hF⟩ := powered_next (c := .handoverComplete) (ps := [.plt, .links, .ctr, .ras, .serial]) rfl hp
    (handoverComplete_of_some (s := s.quiet) hh) (hadds.mono (by simp)).1 (by simp)
  exact ⟨_, hx, hplt, fun hc => tally_counter_same (s := s.quiet.setPlt (s.plt.handedOver h)) hc, hF⟩

theorem handoverTimeout_next {h : Handover} (hh : s.plt.handover = some h) :
    ∃ t, exec .handoverTimeout s = .next t ∧ t.plt = s.plt.handoverFailed h ∧ reported t 0x0C 0x04 1 unitChip ∧
      Frame [.plt, .links, .ctr, .ras, .serial] s t := by
  obtain ⟨hadds, hplt⟩ := setPlt_adds ((tally_adds (s.quiet.setPlt (s.plt.handoverFailed h)) (ctrPlt 1 0)).trans (raise_adds _
    (mkReport 0x0C 0x04 1 unitChip (sideNat h.target) (if s.plt.failsAgain h then 2 else 1))))
  obtain ⟨hx, hF⟩ := powered_next (c := .handoverTimeout) (ps := [.plt, .links, .ctr, .ras, .serial]) rfl hp
    (handoverTimeout_of_some (s := s.quiet) hh) (hadds.mono (by simp)).1 (by simp)
  exact ⟨_, hx, hplt, reported_raise (((s.quiet.setPlt (s.plt.handoverFailed h)).tally (ctrPlt 1 0))) .., hF⟩

/-- A lease that ends passes to the other controller. -/
theorem lease_next {c : Instr} (hc : c = .leaseLapse ∨ c = .leaseRevoke) :
    (s.plt.lease = none → ∃ t, exec c s = .next t ∧ Frame [.links] s t) ∧
    (∀ h, s.plt.lease = some h → ∃ t, exec c s = .next t ∧
      t.plt = { s.plt with lease := some (otherSide h), holder := otherSide h, handover := none } ∧ Frame [.plt, .links] s t) := by
  have he : exec c s = .next (s.quiet.whenPowered leaseEnds) := by
    obtain rfl | rfl := hc <;> rfl
  exact ⟨fun h => powered_idles he hp (leaseEnds_of_none (s := s.quiet) h),
    fun h hh => powered_setPlt he hp (leaseEnds_of_some (s := s.quiet) hh)⟩

end

end Sys2Proof.Machine

/-! PROOFS. Ceilings and duties, thermal trips, and the orderly shut-down (R550 to R556). -/

namespace Sys2Proof.Machine

/-! Ceilings and duties (R550, R551). -/

/-- What a power sample does to a unit's duty. -/
theorem sample_spec (x : PowerUnit) (e : Nat) : (x.sample e).ceil = x.ceilNext ∧ (x.sample e).means.length ≤ 8 ∧
    (x.ceilNext.toNat * (x.sample e).means.length < (x.sample e).means.sum → (x.sample e).duty = x.duty - 1) ∧
    (16 * (x.sample e).means.sum < 15 * (x.ceilNext.toNat * (x.sample e).means.length) → (x.sample e).duty = min 16 (x.duty + 1)) ∧
    ((x.sample e).means.sum ≤ x.ceilNext.toNat * (x.sample e).means.length →
      15 * (x.ceilNext.toNat * (x.sample e).means.length) ≤ 16 * (x.sample e).means.sum → (x.sample e).duty = x.duty) := by
  have hduty : (x.sample e).duty = if x.ceilNext.toNat * (x.sample e).means.length < (x.sample e).means.sum then x.duty - 1
      else if 16 * (x.sample e).means.sum < 15 * (x.ceilNext.toNat * (x.sample e).means.length) then min 16 (x.duty + 1) else x.duty := rfl
  have hlen : (x.sample e).means.length = x.means.length + 1 - (x.means.length - 7) := by
    simp [PowerUnit.sample]
  rw [hduty]
  generalize x.ceilNext.toNat * (x.sample e).means.length = c
  generalize (x.sample e).means.sum = m
  exact ⟨rfl, by omega, fun h => if_pos h, fun h => (if_neg (by omega)).trans (if_pos h), fun h h' => (if_neg (by omega)).trans (if_neg (by omega))⟩

section
variable {s : State}

theorem setStackPwr_stackPwr (s : State) (n : Nat) (x : PowerUnit) : (s.setStackPwr n x).stackPwr n = x := mget_mset_same ..

theorem setBlockPwr_blockPwr (s : State) (n : Nat) (x : PowerUnit) : (s.setBlockPwr n x).blockPwr n = x := mget_mset_same ..

theorem stackPwr_of_plt {t : State} (h : t.plt = s.plt) (n : Nat) : t.stackPwr n = s.stackPwr n :=
  congrArg (fun x : Plt => mget stackReset x.stackPwr n) h

theorem blockPwr_of_plt {t : State} (h : t.plt = s.plt) (n : Nat) : t.blockPwr n = s.blockPwr n :=
  congrArg (fun x : Plt => mget blockReset x.blockPwr n) h

/-- A sample's report and the count of a throttled unit. -/
def State.throttled (s : State) (x y : PowerUnit) (unit : BitVec 16) (c : Prop) [Decidable c] (off : Nat) : State :=
  if c then (s.throttleReport x y unit).tally off else s.throttleReport x y unit

theorem throttleReport_adds (s : State) (x y : PowerUnit) (unit : BitVec 16) : Adds [.ras, .ctr, .serial] s (s.throttleReport x y unit) := by
  unfold State.throttleReport
  split
  · exact raise_adds ..
  · exact Adds.rfl s

theorem throttled_adds (s : State) (x y : PowerUnit) (unit : BitVec 16) (c : Prop) [Decidable c] (off : Nat) :
    Adds [.ras, .ctr, .serial] s (s.throttled x y unit c off) := by
  unfold State.throttled
  split
  · exact (throttleReport_adds ..).trans (tally_adds ..)
  · exact throttleReport_adds ..

/-- A duty's first fall below 16 is reported. -/
theorem throttled_reported (s : State) {x y : PowerUnit} (unit : BitVec 16) (c : Prop) [Decidable c] (off : Nat) (hx : x.duty = 16)
    (hy : y.duty < 16) : reported (s.throttled x y unit c off) 0x0C 0x06 0 unit := by
  have hr : reported (s.throttleReport x y unit) 0x0C 0x06 0 unit := by
    rw [State.throttleReport, if_pos ⟨hx, hy⟩]
    exact reported_raise ..
  unfold State.throttled
  split
  · exact (tally_adds ..).reported hr
  · exact hr

theorem powerSample_stack {n e : Nat} (h : n < 12) : powerSample true n e s =
    (s.setStackPwr n ((s.stackPwr n).sample e)).throttled (s.stackPwr n) ((s.stackPwr n).sample e) (unitStack n)
      (((s.stackPwr n).sample e).duty < 16) (ctrPlt 3 n) := if_neg (Nat.not_le.2 h)


theorem powerSample_block {n e : Nat} (h : n < 64) : powerSample false n e s =
    (s.setBlockPwr n ((s.blockPwr n).sample e)).throttled (s.blockPwr n) ((s.blockPwr n).sample e) (unitBlock ⟨n, h⟩)
      (((s.blockPwr n).sample e).duty < 16 ∨ ((s.blockPwr n).sample e).thermDuty < 16 ∨ (s.zone (n / 8)).duty < 16) (ctrPlt 2 n) := by
  have hb : (⟨n % 64, Nat.mod_lt _ (by decide)⟩ : BlockId) = ⟨n, h⟩ := Fin.ext (Nat.mod_eq_of_lt h)
  rw [← hb]
  exact if_neg (Nat.not_le.2 h)

/-- What a sample does once the unit's record is set. -/
theorem powerSample_next {isStack : Bool} {n e : Nat} {x y : PowerUnit} {v : State} {unit : BitVec 16} {c : Prop} [Decidable c] {off : Nat}
    (hl : s.live = true) (hm : powerSample isStack n e s.quiet = v.throttled x y unit c off) (hv : Adds [.plt] s.quiet v) :
    ∃ t, exec (.powerSample isStack n e) s = .next t ∧ t.plt = v.plt ∧ (x.duty = 16 → y.duty < 16 → reported t 0x0C 0x06 0 unit) ∧
      Frame [.plt, .ctr, .ras, .serial] s t := by
  have ht := throttled_adds v x y unit c off
  obtain ⟨hx, hF⟩ := live_next_frame (i := .powerSample isStack n e) (ps := [.plt, .ctr, .ras, .serial]) rfl hl hm
    ((hv.mono (by simp)).trans (ht.mono (by simp))).1 (by decide)
  exact ⟨_, hx, ht.same .plt (by decide), throttled_reported v unit c off, hF⟩

/-! Thermal samples (R553, R554). -/

/-- A block's record after a sample of its sensor. -/
def PowerUnit.heated (x : PowerUnit) (on off temp : BitVec 8) : PowerUnit :=
  { x with
    thermDuty := if on.toInt ≤ temp.toInt then x.thermDuty - 1
      else if temp.toInt ≤ off.toInt then min 16 (x.thermDuty + 1) else x.thermDuty
    temp := temp }

/-- A block's sensor's sample, before any trip. -/
def State.blockHeat (s : State) (b : BlockId) (temp : BitVec 8) : State :=
  s.setBlockPwr b.val ((s.blockPwr b.val).heated s.plt.thermOn s.plt.thermOff temp)

theorem blockThermSample_eq (b : BlockId) (temp : BitVec 8) (s : State) : blockThermSample b temp s =
    if 120 ≤ temp.toInt then (s.blockHeat b temp).thermalTrip (unitBlock b) else s.blockHeat b temp := rfl

theorem blockHeat_blockPwr (s : State) (b : BlockId) (temp : BitVec 8) :
    (s.blockHeat b temp).blockPwr b.val = (s.blockPwr b.val).heated s.plt.thermOn s.plt.thermOff temp := setBlockPwr_blockPwr ..

theorem blockThermSample_adds (b : BlockId) (temp : BitVec 8) (s : State) : Adds [.plt] s (blockThermSample b temp s) := by
  rw [blockThermSample_eq]
  split
  · exact (adds_plt s _).trans (thermalTrip_adds ..)
  · exact adds_plt s _

theorem blockThermSample_blockPwr (b : BlockId) (temp : BitVec 8) (s : State) :
    (blockThermSample b temp s).blockPwr b.val = (s.blockPwr b.val).heated s.plt.thermOn s.plt.thermOff temp := by
  rw [blockThermSample_eq]
  split
  · exact blockHeat_blockPwr s b temp
  · exact blockHeat_blockPwr s b temp

theorem blockThermSample_trips {temp : BitVec 8} (h : 120 ≤ temp.toInt) (b : BlockId) (s : State) :
    (blockThermSample b temp s).plt.tripped = true ∧ (blockThermSample b temp s).plt.phase = .tripped ∧
      (blockThermSample b temp s).plt.thermTrip = true ∧ (blockThermSample b temp s).live = false ∧
      ∃ r, (blockThermSample b temp s).plt.flash.shutdown = some (4, r) := by
  rw [blockThermSample_eq, if_pos h]
  exact ⟨rfl, rfl, rfl, thermalTrip_not_live .., _, rfl⟩

theorem blockThermSample_keeps {temp : BitVec 8} (h : temp.toInt < 120) (b : BlockId) (s : State) :
    (blockThermSample b temp s).plt.tripped = s.plt.tripped ∧ (blockThermSample b temp s).plt.phase = s.plt.phase := by
  rw [blockThermSample_eq, if_neg (Int.not_le.2 h)]
  exact ⟨rfl, rfl⟩

/-! Ceilings (R550). -/

/-- The ceiling a unit is to have. -/
def State.ceilOf (s : State) (st : Bool) (n : Nat) : Nat := if st then (s.stackPwr n).ceilNext.toNat else (s.blockPwr n).ceilNext.toNat

/-- A unit's ceiling may be written. -/
def State.ceilFits (s : State) (via : RegPath) (st : Bool) (n : Nat) (v : BitVec 10) : Prop :=
  via = .mgmt ∧ n < (if st then 12 else 64) ∧ s.ceilSum - s.ceilOf st n + v.toNat + fixedW * 8 ≤ envelopeW * 8

theorem ceilingWrite_of_not_fits {via : RegPath} {st : Bool} {n : Nat} {v : BitVec 10} (h : ¬ s.ceilFits via st n v) :
    ceilingWrite via st n v s = s := by
  by_cases hvia : via = .mgmt
  · refine (if_pos hvia).trans ?_
    by_cases hn : (if st then 12 else 64) ≤ n
    · exact if_pos hn
    · exact (if_neg hn).trans (if_pos (Nat.lt_of_not_le fun hsum => h ⟨hvia, Nat.lt_of_not_le hn, hsum⟩))
  · exact if_neg hvia

theorem ceilingWrite_of_fits {via : RegPath} {st : Bool} {n : Nat} {v : BitVec 10} (h : s.ceilFits via st n v) :
    ceilingWrite via st n v s = if st then s.setStackPwr n { s.stackPwr n with ceilNext := v }
      else s.setBlockPwr n { s.blockPwr n with ceilNext := v } := by
  obtain ⟨hvia, hn, hsum⟩ := h
  exact (if_pos hvia).trans ((if_neg (Nat.not_le.2 hn)).trans (if_neg (Nat.not_lt.2 hsum)))

end

/-! The ports' closing (R556). -/

section
variable {s : State} {p q : LinkPort}

/-- A port that is not the one changed stays in DISABLED. -/
theorem setLink_disabled (h : (s.link q).state = .disabled) (hn : q ≠ p) (x : Link) : ((s.setLink p x).link q).state = .disabled := by
  have hq : mget Link.resetTfl s.links q.val ≠ Link.resetTfl := fun e => by
    have hr : (s.link q).state = .detect := congrArg Link.state e
    rw [hr] at h
    cases h
  have hsame : (s.setLink p x).link q = s.link q := mget_mset_of_listed x (fun e => hn (Fin.ext e)) hq
  rw [hsame]
  exact h

theorem failover_still (s : State) (p : LinkPort) : (s.failover p).still = s.still := by
  unfold State.failover
  split <;> rfl

theorem requestsLost_still (s : State) (p : LinkPort) : (s.requestsLost p).still = s.still :=
  (tallyTfl_still ..).trans (still_foldl (fun _ _ => reqLost_still ..) ..)

theorem endpointsLost_still (s : State) (p : LinkPort) : (s.endpointsLost p).still = s.still :=
  (settleSends_still _).trans (still_foldl (fun _ _ => declareDead_still ..) ..)

/-- Once the port is cut off, the loss of a link changes neither the tide nor the arbiters nor a port. -/
theorem settleLoss_still (s : State) (p : LinkPort) : (s.settleLoss p).still = (s.linkCut p).still := by
  obtain ⟨n, received, sent, d0, h⟩ := settleLoss_steps s p
  rw [h, failover_still, raise_still, endpointsLost_still, requestsLost_still]
  exact tallyTfl_still ..

theorem link_of_still {t : State} (h : t.still = s.still) (q : LinkPort) : t.link q = s.link q :=
  congrArg (fun x : Tide × Arb × SMap Link => mget Link.resetTfl x.2.2 q.val) h

theorem settleLoss_disabled (h : (s.link q).state = .disabled) (hn : q ≠ p) : ((s.settleLoss p).link q).state = .disabled := by
  rw [link_of_still (settleLoss_still s p)]
  exact setLink_disabled h hn _

/-- A port in DISABLED, with no timer running. -/
def Link.closed (l : Link) : Link := { l with state := .disabled, lossTimer := false, retraining := false }

/-- The port's loss is settled, unless it has not been in use. -/
def State.lossSettled (s : State) (p : LinkPort) : State := if (s.link p).fresh then s else s.settleLoss p

theorem disablePort_eq (s : State) (p : LinkPort) : s.disablePort p =
    if (s.link p).state = .disabled then s else (s.lossSettled p).modLink p Link.closed := rfl

theorem disablePort_same (s : State) (p : LinkPort) : ((s.disablePort p).link p).state = .disabled := by
  rw [disablePort_eq]
  split
  · assumption
  · exact congrArg Link.state (modLink_link_same ..)

theorem disablePort_disabled (h : (s.link q).state = .disabled) (p : LinkPort) : ((s.disablePort p).link q).state = .disabled := by
  by_cases hn : q = p
  · subst hn
    exact disablePort_same s q
  rw [disablePort_eq]
  split
  · exact h
  · refine setLink_disabled ?_ hn _
    unfold State.lossSettled
    split
    · exact h
    · exact settleLoss_disabled h hn

theorem disablePort_clocks (s : State) (p : LinkPort) : (s.disablePort p).tide = s.tide ∧ (s.disablePort p).arb = s.arb := by
  have hcut := settleLoss_still s p
  rw [disablePort_eq]
  split
  · exact ⟨rfl, rfl⟩
  · unfold State.lossSettled
    split
    · exact ⟨rfl, rfl⟩
    · exact ⟨congrArg Prod.fst hcut, congrArg (fun x : Tide × Arb × SMap Link => x.2.1) hcut⟩

/-- Each of the ports listed goes to DISABLED, and those that are there stay. -/
theorem disablePorts_disabled {l : List LinkPort} (h : q ∈ l ∨ (s.link q).state = .disabled) :
    ((l.foldl (fun st p => st.disablePort p) s).link q).state = .disabled := by
  induction l generalizing s with
  | nil => exact h.resolve_left List.not_mem_nil
  | cons p l ih =>
    refine ih ?_
    obtain h | h := h
    · obtain rfl | h := List.mem_cons.1 h
      · exact .inr (disablePort_same s q)
      · exact .inl h
    · exact .inr (disablePort_disabled h p)

theorem disablePorts_clocks (l : List LinkPort) (s : State) : (l.foldl (fun st p => st.disablePort p) s).tide = s.tide ∧
    (l.foldl (fun st p => st.disablePort p) s).arb = s.arb := by
  induction l generalizing s with
  | nil => exact ⟨rfl, rfl⟩
  | cons p l ih =>
    obtain ⟨ht, ha⟩ := ih (s.disablePort p)
    obtain ⟨kt, ka⟩ := disablePort_clocks s p
    exact ⟨ht.trans kt, ha.trans ka⟩

theorem closePorts_spec (s : State) : s.closePorts.plt.shut = .testing ∧ (∃ r, s.closePorts.plt.flash.shutdown = some (1, r)) ∧
    portsDisabled s.closePorts ∧ s.closePorts.tide = s.tide ∧ s.closePorts.arb = s.arb := by
  obtain ⟨ht, ha⟩ := disablePorts_clocks (List.finRange 34) s
  have hports := fun p => disablePorts_disabled (s := s) (.inl (List.mem_finRange p))
  unfold State.closePorts
  generalize (List.finRange 34).foldl (fun st p => st.disablePort p) s = u at ht ha hports ⊢
  exact ⟨rfl, ⟨_, rfl⟩, hports, ht, ha⟩

theorem settle_portsDisabled {t : State} (h : portsDisabled t) (s : State) : portsDisabled (s.settle t) := by
  cases hd : t.dbg.fatal with
  | true => exact settle_fatalInv s t hd
  | false =>
    rw [settle_of_not_fatal s hd]
    exact h

end

/-! The orderly shut-down (R555, R556). -/

section
variable {s : State}

theorem earlyOff_adds (s : State) : Adds [.plt] s s.earlyOff := (adds_plt s _).trans (adds_plt _ _)

theorem earlyOff_spec (s : State) : s.earlyOff.plt.phase = .offReady ∧ s.earlyOff.plt.shdnDone = true ∧
    ∃ r, s.earlyOff.plt.flash.shutdown = some (3, r) := ⟨rfl, rfl, _, rfl⟩

/-- A request before READY. -/
def State.requestEarly (s : State) : State := if s.plt.handover.isSome then s.setPlt { s.plt with shut := .early } else s.earlyOff

theorem shutdownRequest_of_ready (h : s.plt.phase = .ready) : shutdownRequest s =
    if s.plt.shut = .none then s.setPlt { s.plt with shut := .asked 0 } else s := by
  simp only [shutdownRequest, h]

theorem shutdownRequest_of_under_way (h : s.plt.phase = .shutdown ∨ s.plt.phase = .offReady) : shutdownRequest s = s := by
  obtain h | h := h <;> simp only [shutdownRequest, h]

theorem shutdownRequest_of_before (h : s.plt.phase ∉ [Phase.ready, .shutdown, .offReady, .tripped]) : shutdownRequest s = s.requestEarly := by
  unfold shutdownRequest
  split
  next hp => exact absurd (by simp [hp]) h
  next hp => exact absurd (by simp [hp]) h
  next hp => exact absurd (by simp [hp]) h
  next hp => exact absurd (by simp [hp]) h
  next => rfl

theorem shutdownStart_of_early (h : s.plt.shut = .early) (hh : s.plt.handover = none) : shutdownStart s = s.earlyOff := by
  simp only [shutdownStart, h, hh]
  rfl

theorem shutdownStart_of_asked {n : Nat} (h : s.plt.shut = .asked (n + 1)) (hh : s.plt.handover = none) : shutdownStart s =
    (s.setPlt { s.plt with phase := .shutdown, shut := .draining }).raise (mkReport 0x0C 0x07 0 unitChip s.plt.drainMs.toNat 0) := by
  simp only [shutdownStart, h]
  exact if_neg (by simp [hh])

theorem shutdownStart_of_not_due (h : (s.plt.shut ≠ .early ∧ ∀ n, s.plt.shut ≠ .asked (n + 1)) ∨ s.plt.handover.isSome = true) :
    shutdownStart s = s := by
  unfold shutdownStart
  split
  next n hn =>
    refine if_pos (h.imp_left fun hs => ?_)
    cases n with
    | zero => exact Nat.zero_lt_one
    | succ n => exact absurd hn (hs.2 n)
  next he => exact if_pos (h.resolve_left fun hs => hs.1 he)
  next => rfl

/-- Every descriptor that is held is aborted. -/
def State.abortAll (s : State) : State :=
  s.que.qps.foldl (fun st q => (st.abortQp ⟨q.1 % 4096, Nat.mod_lt _ (by decide)⟩ (fun _ => true)).2) s

theorem shutdownDrainEnd_of_other (h : s.plt.shut ≠ .draining) (h' : s.plt.shut ≠ .closing) : shutdownDrainEnd s = s := by
  unfold shutdownDrainEnd
  split
  next hs => exact absurd hs h
  next hs => exact absurd hs h'
  next => rfl

theorem shutdownDrainEnd_of_owing (h : s.plt.shut = .draining) (ho : s.owing = true) :
    shutdownDrainEnd s = s.abortAll.setPlt { s.abortAll.plt with shut := .closing } := by
  simp only [shutdownDrainEnd, h]
  exact if_pos ho

theorem shutdownDrainEnd_of_done (h : (s.plt.shut = .draining ∧ s.owing = false) ∨ s.plt.shut = .closing) :
    shutdownDrainEnd s = s.closePorts := by
  obtain ⟨h, ho⟩ | h := h
  · simp only [shutdownDrainEnd, h]
    exact if_neg (ne_true_of_eq_false ho)
  · simp only [shutdownDrainEnd, h]

/-- The device after its last self-test slice. -/
def State.lbistStored (s : State) (mask : BitVec 128) : State :=
  ((s.setFlash { s.plt.flash with verdict := some (s.lbistRecord (mask &&& BitVec.ofNat 128 (2 ^ 70 - 1))) }).appendShut 2 0xFFFF#16).offReady

theorem lbistStored_adds (s : State) (mask : BitVec 128) : Adds [.plt] s (s.lbistStored mask) :=
  (adds_plt s _).trans ((adds_plt _ _).trans (adds_plt _ _))

theorem lbistStored_spec (s : State) (mask : BitVec 128) : (s.lbistStored mask).plt.phase = .offReady ∧ (s.lbistStored mask).plt.shdnDone = true ∧
    (s.lbistStored mask).plt.flash.verdict = some (s.lbistRecord (mask &&& BitVec.ofNat 128 (2 ^ 70 - 1))) ∧
    ∃ r, (s.lbistStored mask).plt.flash.shutdown = some (2, r) := ⟨rfl, rfl, rfl, _, rfl⟩

theorem lbistDone_of_testing (h : s.plt.shut = .testing) (mask : BitVec 128) : lbistDone mask s = s.lbistStored mask := if_neg (by simp [h])

/-- A command that turns a live device off by a record of KIND EARLY. -/
theorem live_earlyOff {c : Instr} {f : State → State} (hc : exec c s = .next (s.quiet.whenLive f)) (hl : s.live = true)
    (hf : f s.quiet = s.quiet.earlyOff) : ∃ t r, exec c s = .next t ∧ t.plt.phase = .offReady ∧ t.plt.shdnDone = true ∧
      t.plt.flash.shutdown = some (3, r) ∧ Frame [.plt] s t := by
  obtain ⟨hx, hF⟩ := live_next_frame hc hl hf (earlyOff_adds s.quiet).1 (by decide)
  obtain ⟨hph, hdone, r, hr⟩ := earlyOff_spec s.quiet
  exact ⟨_, r, hx, hph, hdone, hr, hF⟩

theorem shutdownStart_next {n : Nat} (hl : s.live = true) (h : s.plt.shut = .asked (n + 1)) (hh : s.plt.handover = none) :
    ∃ t, exec .shutdownStart s = .next t ∧ t.plt = { s.plt with phase := .shutdown, shut := .draining } ∧
      reported t 0x0C 0x07 0 unitChip ∧ Frame [.plt, .ctr, .ras, .serial] s t := by
  obtain ⟨hadds, hplt⟩ := setPlt_adds (raise_adds (s.quiet.setPlt { s.plt with phase := .shutdown, shut := .draining })
    (mkReport 0x0C 0x07 0 unitChip s.plt.drainMs.toNat 0))
  obtain ⟨hx, hF⟩ := live_next_frame (i := .shutdownStart) rfl hl (shutdownStart_of_asked (s := s.quiet) h hh) hadds.1 (by decide)
  exact ⟨_, hx, hplt, reported_raise .., hF⟩

theorem shutdownDrainEnd_next (hl : s.live = true) (h : (s.plt.shut = .draining ∧ s.owing = false) ∨ s.plt.shut = .closing) :
    ∃ t r, exec .shutdownDrainEnd s = .next t ∧ t.plt.shut = .testing ∧ t.plt.flash.shutdown = some (1, r) ∧ portsDisabled t ∧
      t.tide = s.tide ∧ t.arb = s.arb := by
  obtain ⟨hshut, ⟨r, hr⟩, hports, ht, ha⟩ := closePorts_spec s.quiet
  have hm := shutdownDrainEnd_of_done (s := s.quiet) h
  generalize s.quiet.closePorts = u at hshut hr hports ht ha hm
  exact ⟨_, r, live_next (i := .shutdownDrainEnd) rfl hl hm, hshut, hr, settle_portsDisabled hports s.quiet, ht, ha⟩

theorem lbistDone_next (hl : s.live = true) (h : s.plt.shut = .testing) (mask : BitVec 128) :
    ∃ t r, exec (.lbistDone mask) s = .next t ∧ t.plt.phase = .offReady ∧ t.plt.shdnDone = true ∧
      t.plt.flash.verdict = some (s.lbistRecord (mask &&& BitVec.ofNat 128 (2 ^ 70 - 1))) ∧
      t.plt.flash.shutdown = some (2, r) ∧ Frame [.plt] s t := by
  obtain ⟨hx, hF⟩ := live_next_frame (i := .lbistDone mask) rfl hl (lbistDone_of_testing (s := s.quiet) h mask)
    (lbistStored_adds s.quiet mask).1 (by decide)
  obtain ⟨hph, hdone, hv, r, hr⟩ := lbistStored_spec s.quiet mask
  exact ⟨_, r, hx, hph, hdone, hv, hr, hF⟩

end

/-! The clauses, part by part. -/

/-- What the loss of a feed does to the load. -/
theorem feedLostTo_spec (x : Plt) (f : Side) :
    (x.handover = none → x.holder = f → x.present (otherSide f) = true →
      (x.feedLostTo f).1.handover = some ⟨otherSide f, x.feedMode, false⟩ ∧ (x.feedLostTo f).1.holder = f) ∧
    (x.handover = none → x.holder ≠ f ∨ x.present (otherSide f) = false →
      (x.feedLostTo f).1.handover = none ∧ (x.feedLostTo f).1.holder = x.holder ∧ (x.feedLostTo f).1.lease = x.lease) ∧
    (∀ h, x.handover = some h → x.present (otherSide f) = true → (x.feedLostTo f).1.handover = none ∧
      (x.feedLostTo f).1.holder = otherSide f ∧ (x.feedLostTo f).1.lease = (if h.box then some (otherSide f) else none)) ∧
    (∀ h, x.handover = some h → x.present (otherSide f) = false →
      (x.feedLostTo f).1.handover = some h ∧ (x.feedLostTo f).1.holder = x.holder) := by
  obtain ⟨hho, hhold, hlease, hmode, -, -, -⟩ := feedGone_spec x f
  refine ⟨fun hh hf hp => ?_, fun hh hn => ?_, fun h hh hp => ?_, fun h hh hp => ?_⟩
  · rw [feedLostTo_of_begin hh hf hp]
    exact ⟨congrArg (fun m => some (Handover.mk (otherSide f) m false)) hmode, hhold.trans hf⟩
  · rw [feedLostTo_of_other hh hn]
    exact ⟨hho.trans hh, hhold, hlease⟩
  · rw [feedLostTo_of_handover hh hp]
    exact ⟨rfl, rfl, rfl⟩
  · rw [feedLostTo_of_stuck hh hp]
    exact ⟨hho.trans hh, hhold⟩

section
variable {s : State} (hl : s.live = true)
include hl

theorem ceilingWrite_next {via : RegPath} {st : Bool} {n : Nat} {v : BitVec 10} (h : s.ceilFits via st n v) :
    (st = true → ∃ t, exec (.ceilingWrite via st n v) s = .next t ∧ t.stackPwr n = { s.stackPwr n with ceilNext := v } ∧ Frame [.plt] s t) ∧
    (st = false → ∃ t, exec (.ceilingWrite via st n v) s = .next t ∧ t.blockPwr n = { s.blockPwr n with ceilNext := v } ∧ Frame [.plt] s t) := by
  have hm := ceilingWrite_of_fits (s := s.quiet) h
  refine ⟨fun hst => ?_, fun hst => ?_⟩
  · obtain ⟨hx, hF⟩ := live_next_frame (i := .ceilingWrite via st n v) rfl hl (hm.trans (if_pos hst)) (adds_plt ..).1 (by decide)
    exact ⟨_, hx, setStackPwr_stackPwr s.quiet n { s.stackPwr n with ceilNext := v }, hF⟩
  · obtain ⟨hx, hF⟩ := live_next_frame (i := .ceilingWrite via st n v) rfl hl (hm.trans (if_neg (ne_true_of_eq_false hst)))
      (adds_plt ..).1 (by decide)
    exact ⟨_, hx, setBlockPwr_blockPwr s.quiet n { s.blockPwr n with ceilNext := v }, hF⟩

theorem blockThermSample_next (b : BlockId) (temp : BitVec 8) : ∃ t, exec (.blockThermSample b temp) s = .next t ∧
    (t.blockPwr b.val).temp = temp ∧ Frame [.plt] s t ∧
    (s.plt.thermOn.toInt ≤ temp.toInt → (t.blockPwr b.val).thermDuty = (s.blockPwr b.val).thermDuty - 1) ∧
    (temp.toInt < s.plt.thermOn.toInt → temp.toInt ≤ s.plt.thermOff.toInt →
      (t.blockPwr b.val).thermDuty = min 16 ((s.blockPwr b.val).thermDuty + 1)) ∧
    (temp.toInt < s.plt.thermOn.toInt → s.plt.thermOff.toInt < temp.toInt →
      (t.blockPwr b.val).thermDuty = (s.blockPwr b.val).thermDuty) ∧
    (120 ≤ temp.toInt → t.plt.tripped = true ∧ t.plt.phase = .tripped ∧ t.plt.thermTrip = true ∧ t.live = false ∧
      ∃ r, t.plt.flash.shutdown = some (4, r)) ∧
    (temp.toInt < 120 → t.plt.tripped = s.plt.tripped ∧ t.plt.phase = s.plt.phase) := by
  obtain ⟨hx, hF⟩ := live_next_frame (i := .blockThermSample b temp) rfl hl rfl (blockThermSample_adds b temp s.quiet).1 (by decide)
  have hp := blockThermSample_blockPwr b temp s.quiet
  refine ⟨_, hx, congrArg PowerUnit.temp hp, hF, fun h => ?_, fun h h' => ?_, fun h h' => ?_, fun h => blockThermSample_trips h b s.quiet,
    fun h => blockThermSample_keeps h b s.quiet⟩
  · exact (congrArg PowerUnit.thermDuty hp).trans (if_pos h)
  · exact (congrArg PowerUnit.thermDuty hp).trans ((if_neg (Int.not_le.2 h)).trans (if_pos h'))
  · exact (congrArg PowerUnit.thermDuty hp).trans ((if_neg (Int.not_le.2 h)).trans (if_neg (Int.not_le.2 h')))

end

/-- Settles O58: a loss of the reference retrains each active port once, the loss of a feed is `Plt.feedLostTo`, a handover's end
`Plt.handedOver` or `Plt.handoverFailed`, and the closing of the ports leaves the tide and the arbiters alone (`settleLoss_still`). -/
theorem clocksFeedsAndPower : Obligations.ClocksFeedsAndPower := by
  unfold Obligations.ClocksFeedsAndPower
  refine ⟨fun r s hl => ⟨fun h => ?_, fun h hu => ?_, fun h hu => ?_, fun h => ?_, fun h => refclkBothLostTimeout_next hl h⟩,
    fun r s hp => ⟨fun hl h => ?_, fun h => ?_, fun h hr hheld => ?_⟩,
    fun f s hp => ⟨?_, ?_⟩,
    fun s hp => ⟨fun h => ?_, fun h => ?_, fun h => ⟨?_, ?_⟩, fun h hh => ⟨?_, ?_⟩, ?_, fun c hc => lease_next hp hc⟩,
    sample_spec,
    fun n e s hl => ⟨fun h => ?_, fun h => ?_, fun h => ?_, fun h => ?_⟩,
    fun b temp s hl => blockThermSample_next hl b temp,
    fun via st n v s hl => ⟨fun h => ?_, fun h => (ceilingWrite_next hl h).1, fun h => (ceilingWrite_next hl h).2⟩,
    fun s hl => ⟨fun hph hs => ?_, fun hph hs => ?_, fun hph => ?_, fun hph hh => ?_, fun hph hh => ?_, fun h => ?_, fun h hh => ?_,
      fun n h hh => shutdownStart_next hl h hh, fun h h' => ?_, fun h ho => ?_, fun h => shutdownDrainEnd_next hl h, fun mask h => ?_,
      fun mask h => lbistDone_next hl h mask⟩⟩
  · exact live_idles (c := .refclkLost r) (powered_live rfl hl) hl (refclkLost_of_lost (s := s.quiet) h)
  · exact live_setPlt (c := .refclkLost r) (powered_live rfl hl) hl (refclkLost_of_unused (s := s.quiet) h (.inl hu))
  · obtain ⟨t, hx, hplt, hrep, hactive, hother, hF⟩ := refclkLost_used_next hl h hu
    refine ⟨t, hx, fun ho => hplt.trans (refMoved_of_runs ho), fun ho => hplt.trans (refMoved_of_lost ho), hrep, fun p hp => ?_, hother, hF⟩
    rw [hactive p hp]
    exact ⟨rfl, rfl, rfl⟩
  · exact live_idles (c := .refclkBothLostTimeout) rfl hl (if_pos h)
  · exact powered_setPlt (c := .refclkLost r) rfl hp (refclkLost_of_unused (s := s.quiet) h (.inr (by simpa using hl)))
  · exact powered_setPlt (c := .refclkReturn r) rfl hp (refclkReturn_eq (s := s.quiet) h)
  · exact powered_setPlt (c := .refclkReturn r) rfl hp (refclkReturn_relocks (s := s.quiet) h hr hheld)
  · exact powered_setPlt (c := .feedReturn f) rfl hp rfl
  · obtain ⟨t, hx, hplt, hrep, hF⟩ := feedLost_next f hp
    obtain ⟨hgone, hother, hnoted⟩ := feedLostTo_gone s.plt f
    obtain ⟨hbegin, hrest, hend, hstuck⟩ := feedLostTo_spec s.plt f
    rw [← hplt] at hgone hother hnoted hbegin hrest hend hstuck
    exact ⟨t, hx, hgone, hother, hnoted, hbegin, hrest, hend, hstuck, hrep, hF⟩
  · exact powered_idles (c := .proveHandover) rfl hp ((proveHandover_eq s.quiet).1 h)
  · exact powered_setPlt (c := .proveHandover) rfl hp ((proveHandover_eq s.quiet).2 h)
  · exact powered_idles (c := .handoverComplete) rfl hp (handoverComplete_of_none (s := s.quiet) h)
  · exact powered_idles (c := .handoverTimeout) rfl hp (handoverTimeout_of_none (s := s.quiet) h)
  · obtain ⟨t, hx, hplt, hcount, hF⟩ := handoverComplete_next hp hh
    obtain ⟨hhold, hho, hlease, hhealth⟩ := handedOver_spec s.plt h
    rw [← hplt] at hhold hho hlease hhealth
    exact ⟨t, hx, hhold, hho, hlease, hhealth, hcount, hF⟩
  · obtain ⟨t, hx, hplt, hrep, hF⟩ := handoverTimeout_next hp hh
    obtain ⟨hhold, hho, hhealth, hlease, hstop⟩ := handoverFailed_spec s.plt h
    rw [← hplt] at hhold hho hhealth hlease hstop
    exact ⟨t, hx, hhold, hho, hhealth, hlease, hstop, hrep, hF⟩
  · exact powered_idles (c := .leaseRenew) rfl hp rfl
  · exact live_idles (c := .powerSample true n e) rfl hl (if_pos h)
  · exact live_idles (c := .powerSample false n e) rfl hl (if_pos h)
  · obtain ⟨t, hx, hplt, hrep, hF⟩ := powerSample_next hl (powerSample_stack (s := s.quiet) h) (adds_plt s.quiet _)
    exact ⟨t, hx, (stackPwr_of_plt hplt n).trans (setStackPwr_stackPwr ..),
      fun h1 h2 => hrep h1 (by rwa [stackPwr_of_plt hplt, setStackPwr_stackPwr] at h2), hF⟩
  · obtain ⟨t, hx, hplt, hrep, hF⟩ := powerSample_next hl (powerSample_block (s := s.quiet) h) (adds_plt s.quiet _)
    exact ⟨t, hx, (blockPwr_of_plt hplt n).trans (setBlockPwr_blockPwr ..),
      fun h1 h2 => hrep h1 (by rwa [blockPwr_of_plt hplt, setBlockPwr_blockPwr] at h2), hF⟩
  · exact live_idles (c := .ceilingWrite via st n v) rfl hl (ceilingWrite_of_not_fits (s := s.quiet) h)
  · exact live_setPlt (c := .shutdownRequest) rfl hl ((shutdownRequest_of_ready (s := s.quiet) hph).trans (if_pos hs))
  · exact live_idles (c := .shutdownRequest) rfl hl ((shutdownRequest_of_ready (s := s.quiet) hph).trans (if_neg hs))
  · exact live_idles (c := .shutdownRequest) rfl hl (shutdownRequest_of_under_way (s := s.quiet) hph)
  · exact live_setPlt (c := .shutdownRequest) rfl hl ((shutdownRequest_of_before (s := s.quiet) hph).trans (if_pos hh))
  · exact live_earlyOff (c := .shutdownRequest) rfl hl ((shutdownRequest_of_before (s := s.quiet) hph).trans (if_neg (by simp [hh])))
  · exact live_idles (c := .shutdownStart) rfl hl (shutdownStart_of_not_due (s := s.quiet) h)
  · exact live_earlyOff (c := .shutdownStart) rfl hl (shutdownStart_of_early (s := s.quiet) h hh)
  · exact live_idles (c := .shutdownDrainEnd) rfl hl (shutdownDrainEnd_of_other (s := s.quiet) h h')
  · exact ⟨_, live_next (i := .shutdownDrainEnd) rfl hl (shutdownDrainEnd_of_owing (s := s.quiet) h ho), rfl, rfl⟩
  · exact live_idles (c := .lbistDone mask) rfl hl (if_pos h)

end Sys2Proof.Machine
